-- ==== Sys2Proof/Word.lean ====
section
/-! DEFINITION. The word types of the device and the type of its sparse tables. -/

namespace Sys2Proof

/-- One byte; multi-byte values lie least significant byte first (R7). -/
abbrev Byte := BitVec 8

/-- A 64-bit word: an integer register, a control register (R92, R99). -/
abbrev W64 := BitVec 64

/-- A sparse table: key and value pairs, keys strictly rising. What a key that is not listed reads as is named by
the operation that reads the table. -/
abbrev Tab (α : Type) := List (Nat × α)

/-- Memory: bytes by address; see Machine/Ops.lean for its operations and its canonical form. -/
abbrev Memory := Tab Byte

/-- The number by which the model names a core with its block. 0 to 16,383 are the logical blocks by their block ID (R13). 16,384 + 4,356 q + 66 py + px is the
physical block (px, py) of quarter q while it is not placed (R19, R23, R31), and 0xFFFF is the management core (R556). The numbers from 16,384 on are the
model's own (DESIGN CHOICE, log entry 18): no register, packet or record shows them. -/
abbrev BlockId := BitVec 16

/-- A Dzixon port, P0 to P7 (R38). -/
abbrev PortId := BitVec 3

/-- A host queue, 0 to 63 (R479). -/
abbrev QueueId := BitVec 6

/-- A quarter, Q0 to Q3 (R16). -/
abbrev QuarterId := BitVec 2

/-- A register field of a block instruction (R140). -/
abbrev Reg := BitVec 5

/-- A receive channel of a block (R183). -/
abbrev ChanId := BitVec 7

end Sys2Proof
end

