-- ==== Sys2Proof/Syntax.lean ====
section
/-! DEFINITION. The commands of the device: one constructor of Instr for each row of spec/opcode_table.json. A row of the block
instruction set carries the fields of its encoding (R140, R244, R299); a row that is an event carries what the outside
world brings to it. -/

namespace Sys2Proof

/-- The outcome of an error-correcting read (R719): the environment decides it, so it is an operand. DESIGN CHOICE, log entry 11. -/
inductive Ecc where
  | ok | corrected | uncorrectable
  deriving DecidableEq, Repr

/-- The two edge dies (R16). -/
inductive Edge where
  | e0 | e1
  deriving DecidableEq, Repr

/-- The three paths to the dictionary (chapter 14). -/
inductive Path where
  | elette | host | firmware
  deriving DecidableEq, Repr

/-- Opcode 0x01 (R148), in the order of its fn values. -/
inductive IntFn where
  | add | sub | and | or | xor | andn | sll | srl | sra | slt | sltu | seq | min | max | minu | maxu
  | addw | subw | sllw | srlw | sraw
  | clz | ctz | popc | sextb | sexth | sextw | zextb | zexth | zextw | bswap
  deriving DecidableEq, Repr

/-- Opcodes 0x08 to 0x11 (R149). -/
inductive ImmFn where
  | addi | addiw | andi | ori | xori | slti | sltiu | slli | srli | srai
  deriving DecidableEq, Repr

/-- Opcode 0x02, fn 0x000 to 0x004 (R151). -/
inductive MulFn where
  | mul | mulh | mulhu | mulhsu | mulw
  deriving DecidableEq, Repr

/-- Opcode 0x02, fn 0x008 to 0x00F (R151). -/
inductive DivFn where
  | div | divu | rem | remu | divw | divuw | remw | remuw
  deriving DecidableEq, Repr

/-- The loads (R153, R154): ld.b, ld.bu, ld.h, ld.hu, ld.w, ld.wu, ld.d, fld.w, fld.d. -/
inductive LoadFn where
  | b | bu | h | hu | w | wu | d | fw | fd
  deriving DecidableEq, Repr

/-- The stores (R154). -/
inductive StoreFn where
  | b | h | w | d | fw | fd
  deriving DecidableEq, Repr

/-- The conditional branches (R155). -/
inductive BranchFn where
  | beq | bne | blt | bge | bltu | bgeu
  deriving DecidableEq, Repr

/-- Opcode 0x30 (R157), in the order of its fn values. -/
inductive FpFn where
  | fadd | fsub | fmul | fdiv | fsqrt | fmin | fmax | fabs | fneg | fcpsgn | feq | flt | fle | fclass | fmvg | fmvf
  deriving DecidableEq, Repr

/-- Opcodes 0x38 to 0x3B (R161). -/
inductive FmaFn where
  | fmadd | fmsub | fnmadd | fnmsub
  deriving DecidableEq, Repr

/-- The form of a vector arithmetic opcode (R244, R245). -/
inductive VForm where
  | vv | vs | va
  deriving DecidableEq, Repr

/-- The vector floating-point types in opcode order (R245). -/
inductive FTy where
  | f64 | f32 | f16 | bf16
  deriving DecidableEq, Repr

/-- The vector integer types in opcode order (R245). -/
inductive ITy where
  | i8 | x16 | i32 | i64
  deriving DecidableEq, Repr

/-- Vector floating-point arithmetic, fn 0 to 14 (R246). -/
inductive VFltFn where
  | add | sub | mul | div | sqrt | min | max | fma | fms | fnma | fnms | abs | neg | sgnj | wma
  deriving DecidableEq, Repr

/-- Vector integer arithmetic, with vmv and vid (R247). -/
inductive VIntFn where
  | add | sub | mul | mulh | and | or | xor | sll | srl | sra | min | max | minu | maxu | sadd | ssub | macc | mv | vid
  deriving DecidableEq, Repr

/-- An operation of the row VECTOR_ARITHMETIC with its type. -/
inductive VArith where
  | flt (fn : VFltFn) (ty : FTy)
  | int (fn : VIntFn) (ty : ITy)
  deriving DecidableEq, Repr

/-- An operation of the row VECTOR_COMPARE with its type (R246, R247, R258). -/
inductive VCmp where
  | feq (ty : FTy) | flt (ty : FTy) | fle (ty : FTy)
  | seq (ty : ITy) | slt (ty : ITy) | sltu (ty : ITy)
  deriving DecidableEq, Repr

/-- What a reduction combines with (R260). -/
inductive RedFn where
  | sum | max | min
  deriving DecidableEq, Repr

/-- A reduction with its type (R246, R247). -/
inductive VRed where
  | flt (fn : RedFn) (ty : FTy)
  | int (fn : RedFn) (ty : ITy)
  deriving DecidableEq, Repr

/-- The permutations (R247, R262). -/
inductive PermFn where
  | slideup | slidedown | perm | ext
  deriving DecidableEq, Repr

/-- The mask operations (R248). -/
inductive MaskFn where
  | mand | mor | mxor | mandn | mnot | mpopc | mfirst
  deriving DecidableEq, Repr

/-- The addressing of a vector load or store (R250). -/
inductive VmFn where
  | unit | strided | indexed | mask
  deriving DecidableEq, Repr

/-- Where a vector data loss lies (R241, R280): its source, the register or line, the first beat or element that met it, and the bad words: 32-bit words of
the register or line by their place in it, or 64-bit words of local store by their address / 8. DESIGN CHOICE, log entry 11. -/
structure VLoss where
  source : BitVec 3
  reg    : BitVec 5
  beat   : BitVec 15
  words  : List Nat
  deriving DecidableEq, Repr

/-- Where a matrix data loss lies (R296, R323, R324): the bad words, 64-bit words of local store by their address / 8 for a tile load, or 32-bit words of the
vector register that a move reads, by their place in it. DESIGN CHOICE, log entry 11. -/
structure MLoss where
  words : List Nat
  deriving DecidableEq, Repr

/-- The units that run matrix-chapter instructions (R325). -/
inductive MUnit where
  | array | tilePort | vector
  deriving DecidableEq, Repr

/-- Why TRAP_ENTRY looks at an instruction boundary (R363, R371): the traps the block already holds, or an instruction word
that D found reserved (R180), or a fetch that met an uncorrectable word (R138). -/
inductive TrapTrigger where
  | pending
  | reserved (word : BitVec 32)
  | fetchError
  deriving DecidableEq, Repr

/-- The four neighbours of a crossing and its local port (R383). -/
inductive Dir where
  | n | e | s | w | l
  deriving DecidableEq, Repr

/-- A crossing of a block, or the edge crossbar of a die with an endpoint of R863. -/
inductive XIn where
  | block (b : BlockId) (d : Dir)
  | edge (die : Edge) (endpoint : Nat)
  deriving DecidableEq, Repr

/-- An engine that sends or receives messages: a block's message engine, or a port of an edge crossbar for a binding (R410). -/
inductive MEng where
  | block (b : BlockId)
  | edge (die : Edge) (binding : BitVec 6)
  deriving DecidableEq, Repr

/-- A footpath node: a block's, or an edge die's (R414). -/
inductive FpNode where
  | block (b : BlockId)
  | edge (die : Edge)
  deriving DecidableEq, Repr

/-- Where the frames of a die-to-die boundary arrive (R18, R412): a side of a quarter, or an edge die from its western or eastern quarter. -/
inductive UcieEnd where
  | quarter (q : QuarterId) (side : Dir)
  | edge (die : Edge) (east : Bool)
  deriving DecidableEq, Repr

/-- How a host access that crosses the footpath network ends there (R418, R518, R525): it is served, with what the error code of a word read says; it is lost on
the way, so that no answer comes; or it has reached the device as a poisoned TLP. -/
inductive Direct where
  | served (ecc : Ecc)
  | lost
  | poisoned
  deriving DecidableEq, Repr

/-- A footpath packet (R416), its fields as the head flit gives them. -/
structure FpPacket where
  dpx  : BitVec 8
  dpy  : BitVec 8
  spx  : BitVec 8
  spy  : BitVec 8
  kind : BitVec 4
  tag  : BitVec 2
  txn  : BitVec 8
  err  : BitVec 4
  /-- the 48-bit address flit, where the kind needs one -/
  addr : BitVec 48
  /-- bytes that the packet carries or asks for -/
  size : Nat
  data : List (BitVec 64)
  deriving DecidableEq, Repr

/-- A place in the footpath network: the device-wide physical column and row of a node (R414), or the column code of an edge die and row 0 (R416). -/
abbrev FpPos := Nat × Nat

/-- The fields of an identity frame (R435). -/
structure Identity where
  uid     : BitVec 64
  port    : BitVec 3
  stepping : BitVec 8
  linkAbi : BitVec 16
  version : BitVec 32
  station : BitVec 8
  devnum  : BitVec 7
  devValid : Bool
  depth0  : BitVec 16
  depth1  : BitVec 16
  rxNext  : BitVec 16
  free0   : BitVec 16
  free1   : BitVec 16
  txstamp : BitVec 32
  echo    : BitVec 32
  echoAge : BitVec 32
  deriving DecidableEq, Repr

/-- What comes of a die-to-die module's frame on its way (R412): the module, and the bits turned, a word of 64 lanes for each unit interval. -/
structure UcieFrame where
  module : BitVec 4
  noise  : List (BitVec 64)
  deriving DecidableEq, Repr

/-- An FEC block as it reaches a port (R426 to R429): the levels of the lanes in its unit intervals, and how many planned data and milestone frames it carried,
which counts when it cannot be decoded. DESIGN CHOICE, log entry 11. -/
structure FecBlock where
  wire : List (BitVec 16)
  lost : Nat
  deriving DecidableEq, Repr

/-- What a write of BAR2 carries, and how it ends on its way. -/
structure BarBytes where
  bytes : List Byte
  via   : Direct
  deriving DecidableEq, Repr

/-- Which bytes of a register a write carries (R99), and how it ends on its way. -/
structure RegBytes where
  mask : BitVec 8
  via  : Direct
  deriving DecidableEq, Repr

/-- A datagram of an Elette frame (R568), with its reserved bits and its reserved byte, which pass unchanged. -/
structure Datagram where
  op     : Byte
  tag    : Byte
  target : Byte
  hops   : Byte
  index  : BitVec 16
  sub    : Byte
  flags  : Byte
  len    : Nat
  lenRsv : BitVec 4
  data   : List Byte
  status : Byte
  tally  : Byte
  last   : Byte
  rsv    : Byte
  deriving DecidableEq, Repr

/-- Instructions of the test access port (R892, R893). -/
inductive TapIr where
  | bypass | idcode | sample | extest | highz | clamp | debug
  deriving DecidableEq, Repr

/-- What the test access port is made to do: an instruction is loaded; the selected data register captures, with the levels at the lands, and takes what is
shifted in; or DEBUG is loaded and its register carries a footpath access (R893). DESIGN CHOICE, log entry 76. -/
inductive TapScan where
  | instruction (ir : TapIr)
  | data (shifted pins : List Bool)
  | access (pkt : FpPacket)
  deriving DecidableEq, Repr

/-- Register spaces that a REGISTER_WRITE may name: the configuration space (R473), BAR0 (R475), BAR4 (R481), a block's control registers (R98), an edge die's
registers (R423), the AON registers (R557, R630, R679). -/
inductive RegSpace where
  | config
  | bar0
  | bar4
  | block (b : BlockId)
  | edge (die : Edge)
  | aon
  deriving DecidableEq, Repr

/-- One reading of the PMBus poll of a rail (R718, R598); none is a transaction that failed three times. DESIGN CHOICE, log entry 11. -/
structure RailReading where
  rail    : Nat
  volts   : BitVec 32
  amps    : BitVec 32
  temp    : BitVec 32
  status  : BitVec 16
  /-- the rail has stood outside ±6 % for more than 100 µs, or STATUS_WORD shows a fault (R717 code 2) -/
  hardFault : Bool
  failed  : Bool
  deriving DecidableEq, Repr

/-- A frame as port 1 of Elette receives it: its bytes with the FCS, and whether RX_ER was seen during it (R582). -/
structure WireFrame where
  bytes : List Byte
  rxErr : Bool
  deriving DecidableEq, Repr

/-- What the boot of R818 meets outside the AON domain: what flash holds, and the verdicts of its tests. DESIGN CHOICE, log entry 11. -/
structure BootInput where
  /-- bundles that a writer has completed in a slot since the last start (R830): the slot, and the 320 bytes of the manifest -/
  programmed  : List (Nat × List Byte)
  /-- dummy clocks that SFDP gives (R819); none where SFDP is missing, malformed or lacks the 4-4-4 read -/
  sfdp        : Option (BitVec 4)
  /-- the 256 bytes of the board configuration block (R811); none where its page fails its check (R810) -/
  board       : List Byte
  /-- the bytes of the components that flash holds: slot, place in the component table, and the bytes (R816, R823) -/
  components  : List (Nat × Nat × List Byte)
  /-- die, other die, code and detail of each start-up failure (R41) -/
  startFailures : List (Nat × Nat × Nat × Nat)
  /-- physical blocks (quarter, PX, PY, first failing test) that the start-up sweep fails (R755); 128 is added to the test where the footpath node failed -/
  sweepFails  : List (QuarterId × Nat × Nat × Nat)
  /-- what the PCI Express link trains to: width, rate in 0.1 GT/s, FLIT mode (R601) -/
  pcieWidth   : BitVec 8
  pcieRate    : BitVec 16
  pcieFlit    : Bool
  deriving DecidableEq, Repr

/-- What ends a started host command (COMMAND_COMPLETION): the data the device read from host memory, or the failure met. DESIGN CHOICE, log entry 11. -/
inductive Ending where
  | done (bytes : List Byte)
  | hostReadFailed
  | unreachable
  /-- an uncorrectable error; in a drain, in the entries copied whose places are given -/
  | dataLoss (at_ : List Nat)
  deriving DecidableEq, Repr

/-- What a scrubber finds in one line (R727, R729): corrected words and an uncorrectable one, by their place in the line. -/
inductive ScrubFind where
  | clean | corrected (words : List Nat) | uncorrectable (word : Nat)
  deriving DecidableEq, Repr

/-- Why a forming trace packet closes (R795). -/
inductive CloseWhy where
  | full | ewait | park | mode | disarm
  deriving DecidableEq, Repr

/-- The commands of the device. -/
inductive Instr where
  -- block core: integer (chapter 04)
  | integerRegisterOp (b : BlockId) (fn : IntFn) (rb ra rd : Reg)
  | integerImmediateOp (b : BlockId) (fn : ImmFn) (imm : BitVec 14) (ra rd : Reg)
  | lui (b : BlockId) (imm : BitVec 19) (rd : Reg)
  | lhi (b : BlockId) (imm : BitVec 19) (rd : Reg)
  | multiply (b : BlockId) (fn : MulFn) (rb ra rd : Reg)
  | divideRemainder (b : BlockId) (fn : DivFn) (rb ra rd : Reg)
  | load (b : BlockId) (fn : LoadFn) (imm : BitVec 14) (ra rd : Reg) (ecc : Ecc)
  | store (b : BlockId) (fn : StoreFn) (imm : BitVec 14) (ra rs : Reg) (ecc : Ecc)
  | branch (b : BlockId) (fn : BranchFn) (imm : BitVec 14) (rb ra : Reg)
  | jal (b : BlockId) (imm : BitVec 19) (rd : Reg)
  | jalr (b : BlockId) (imm : BitVec 14) (ra rd : Reg)
  -- block core: floating point
  | fpOperation (b : BlockId) (fn : FpFn) (rm : BitVec 3) (fmt : Bool) (rb ra rd : Reg)
  | fpFusedMultiplyAdd (b : BlockId) (fn : FmaFn) (rm : BitVec 3) (fmt : Bool) (rc rb ra rd : Reg)
  | fpConversion (b : BlockId) (rm : BitVec 3) (src dst : BitVec 4) (ra rd : Reg)
  -- block core: control registers, loop, messages, system
  | crr (b : BlockId) (crn : BitVec 13) (rs rd : Reg)
  | crw (b : BlockId) (crn : BitVec 13) (rs rd : Reg)
  | loop (b : BlockId) (n1 : BitVec 6) (ra : Reg)
  | mwait (b : BlockId) (ch : ChanId) (ra rd : Reg)
  | mcount (b : BlockId) (ch : ChanId) (rd : Reg)
  | mbxSend (b : BlockId) (rb ra : Reg)
  | mbxRecv (b : BlockId) (rd : Reg)
  | nop (b : BlockId)
  | ewait (b : BlockId)
  | fence (b : BlockId) (imm : BitVec 9)
  | hold (b : BlockId) (imm : BitVec 9)
  | trap (b : BlockId) (imm : BitVec 9)
  | tret (b : BlockId) (ecc : Ecc)
  | brk (b : BlockId) (imm : BitVec 9)
  -- block core: events
  | longOperationComplete (b : BlockId) (index : Nat)
  | remoteLoadResponse (b : BlockId) (txn : BitVec 8) (data : BitVec 64)
  | trapEntry (b : BlockId) (why : TrapTrigger) (table : Ecc)
  | holdWindowExpiry (b : BlockId)
  | lateStoreErrorReturn (b : BlockId) (txn : BitVec 8) (err : BitVec 4)
  | footpathResponseTimeout (b : BlockId) (txn : BitVec 8)
  | blkResumeGo (b : BlockId) (value : BitVec 64)
  -- vector engine (chapter 06)
  | vectorArithmetic (b : BlockId) (op : VArith) (form : VForm) (vm : BitVec 3) (vb va vd : Reg)
  | vectorCompare (b : BlockId) (op : VCmp) (form : VForm) (vm : BitVec 3) (vb va vd : Reg)
  | vectorReduction (b : BlockId) (op : VRed) (vm : BitVec 3) (vb va vd : Reg)
  | vectorPermutation (b : BlockId) (fn : PermFn) (ty : ITy) (vm : BitVec 3) (vb va vd : Reg)
  | vcvt (b : BlockId) (rm : BitVec 3) (dst src : BitVec 4) (vm : BitVec 3) (va vd : Reg)
  | vmxq (b : BlockId) (rm : BitVec 3) (fmt : BitVec 4) (vs va vd : Reg)
  | maskOperation (b : BlockId) (fn : MaskFn) (vb va vd : Reg)
  | vcsum (b : BlockId) (vb va vd : Reg)
  | vectorLoad (b : BlockId) (fn : VmFn) (w : BitVec 3) (vm : BitVec 3) (rx ra vd : Reg)
  | vectorStore (b : BlockId) (fn : VmFn) (w : BitVec 3) (vm : BitVec 3) (rx ra vd : Reg)
  | acfill (b : BlockId) (line : BitVec 4) (ra : Reg)
  | acput (b : BlockId) (line : BitVec 4) (vs : Reg)
  | acdrop (b : BlockId) (line : BitVec 4)
  | acdropall (b : BlockId)
  | vectorEngineStart (b : BlockId)
  | vectorEngineComplete (b : BlockId) (loss : Option VLoss) (fixed : List (BitVec 48))
  -- matrix engine (chapter 07)
  | mma (b : BlockId) (z mode : Bool) (typb typa : BitVec 4) (tb ta zd : BitVec 3)
  | mmx (b : BlockId) (z mode : Bool) (typb typa : BitVec 4) (ts tb ta zd : BitVec 3)
  | tld (b : BlockId) (rs ra : Reg) (reg : BitVec 3)
  | tst (b : BlockId) (rs ra : Reg) (reg : BitVec 3)
  | tld6 (b : BlockId) (rs ra : Reg) (reg : BitVec 3)
  | tst6 (b : BlockId) (rs ra : Reg) (reg : BitVec 3)
  | zld (b : BlockId) (rs ra : Reg) (reg : BitVec 3)
  | zst (b : BlockId) (rs ra : Reg) (reg : BitVec 3)
  | zclr (b : BlockId) (reg : BitVec 3)
  | tfromv (b : BlockId) (tz : BitVec 3) (v : Reg)
  | tov (b : BlockId) (tz : BitVec 3) (v : Reg)
  | zfromv (b : BlockId) (h : Bool) (tz : BitVec 3) (v : Reg)
  | ztov (b : BlockId) (h : Bool) (tz : BitVec 3) (v : Reg)
  | zcvt (b : BlockId) (isrc : Bool) (rm : BitVec 3) (dst : BitVec 4) (zn : BitVec 3) (vd : Reg)
  | matrixUnitStart (b : BlockId)
  | matrixUnitComplete (b : BlockId) (unit : MUnit) (loss : Option MLoss) (fixed : List (BitVec 48))
  -- planned execution (chapter 02)
  | epochBoundary
  | gateInstant
  | gateDecisionEffect (missed : List BlockId)
  | epochEnd
  | planStartTime
  | planStopBoundary
  -- clocks and power (chapter 15)
  | powerEntryApply (b : BlockId)
  | wakeComplete (b : BlockId)
  | clkReqWrite (b : BlockId) (value : BitVec 64)
  | quarterPllStart (q : QuarterId)
  | quarterPllRelease (q : QuarterId)
  | quarterPllStop (q : QuarterId)
  -- crossings and messages (chapter 09)
  | messageSend (src : MEng) (ecc : Ecc)
  | crossingFlitArrival (at_ : XIn) (noise : BitVec 304)
  | landingFlitVisible (at_ : XIn)
  | holdBufferEntry (at_ : MEng)
  | messageRelease (at_ : MEng) (index : Nat)
  | ucieFrameReceive (at_ : UcieEnd) (frame : UcieFrame)
  | footpathPacketReceive (node : FpNode) (pkt : FpPacket) (from_ : FpPos) (ecc : Ecc)
  -- Dzixon links (chapter 10)
  | fecBlockReceive (p : PortId) (blk : FecBlock)
  | linkTransmitEntry (p : PortId)
  | milestoneSend (p : PortId) (first : Bool)
  | unplannedFrameSend (p : PortId) (vc : Bool) (dst src : BitVec 7) (kind : BitVec 4) (ttl : BitVec 4) (payload : List Byte)
  | unplannedRetryTimeout (p : PortId)
  | linkSignalDetect (p : PortId)
  | linkTrainComplete (p : PortId) (flight : Nat)
  | linkTrainTimeout (p : PortId)
  | capsComplete (p : PortId) (peer : Identity)
  | surveyIdentitySend (p : PortId)
  | retrainTrigger (p : PortId) (cause : BitVec 4)
  | retrainComplete (p : PortId) (flight : Nat) (peer : Identity)
  | retrainTimeout (p : PortId)
  | lnkRetrainRequest (p : PortId)
  | lnkEnableChange (p : PortId) (en : Bool)
  -- host interface (chapter 11)
  | sqDoorbellWrite (q : QueueId) (value : BitVec 64)
  | cqDoorbellWrite (q : QueueId) (value : BitVec 64)
  | entryFetch (q : QueueId) (entries : Option (List (List Byte)))
  | completionWrite (q : QueueId)
  | irqDelayTimeout (q : QueueId)
  | queueEnable (q : QueueId)
  | queueDisable (q : QueueId)
  | functionLevelReset
  | d3hotEntry
  | d0Return
  | bar2Write (off : BitVec 34) (data : BarBytes)
  | bar2Read (off : BitVec 34) (len : Nat) (via : Direct)
  | dictWindowAccess (req : BitVec 64) (ecc : Ecc)
  -- host commands: each names the sequence number of its ACCEPTED record
  | nopCommand (seq : BitVec 64)
  | planLoad (seq : BitVec 64)
  | planBind (seq : BitVec 64) (image : Ending)
  | planStart (seq : BitVec 64)
  | planStop (seq : BitVec 64)
  | planUnload (seq : BitVec 64)
  | intakeWrite (seq : BitVec 64)
  | outletRead (seq : BitVec 64)
  | tensorWrite (seq : BitVec 64)
  | tensorRead (seq : BitVec 64)
  | fenceCommand (seq : BitVec 64)
  | journalMark (seq : BitVec 64)
  | healthSweep (seq : BitVec 64)
  | repairApply (seq : BitVec 64)
  | traceArm (seq : BitVec 64)
  | traceDrain (seq : BitVec 64)
  | dictRead (seq : BitVec 64)
  | dictWrite (seq : BitVec 64) (data : Ending)
  -- journal (chapter 12)
  | journalCommit
  | eventRaise (kind : BitVec 16) (ref_ result tag : BitVec 64)
  | summaryClose
  | journalWindowRead (slot : BitVec 12) (ecc : Ecc)
  -- Elette (chapter 13)
  | eletteFrameReceive (addresses : List Byte) (ethertype : BitVec 16) (version count : Byte) (area : BitVec 16) (content : List Byte)
  | eletteReturnForward (frame : WireFrame)
  | eletteFrameEndApply (fcs : BitVec 32) (rxErr : Bool) (t1 : BitVec 64)
  | sget (dg : Datagram) (ecc : Ecc)
  | sput (dg : Datagram)
  | pget (dg : Datagram) (ecc : Ecc)
  | pput (dg : Datagram)
  | gather (dg : Datagram) (ecc : Ecc)
  | allput (dg : Datagram)
  | tlatch (dg : Datagram)
  | tdist (dg : Datagram)
  | phyLinkPoll (link0 link1 : Bool)
  | deferredRequestServed
  | deferredRequestTimeout
  | mailboxEntryRemove (path : Path) (tag : Byte)
  | lineBufferFill (line : BitVec 23) (demand : Bool) (bytes : List Byte)
  | flashCopyCommit (written : Bool)
  -- dictionary requests (chapter 14)
  | challenge (path : Path)
  | response (path : Path) (bytes : List Byte)
  | leaseEndRequest (path : Path) (value : Byte)
  | leaseExpiry (path : Path)
  | lockoutExpiry (path : Path)
  | custodianKeyWrite (path : Path) (slot : BitVec 2) (key : List Byte)
  | deviceStateRequest (path : Path) (value : Byte)
  | fastResetRequest (path : Option Path) (value : Byte)
  | retentionClearRequest (path : Option Path) (value : Byte)
  | rstNOverride (path : Path) (value : Byte)
  | restrictedOverride (path : Path) (value : Byte)
  | alignLossClear (path : Path) (p : PortId) (value : Byte)
  -- time (chapter 15)
  | apply (path : Option Path) (value : Byte)
  | aonTimeNsRead
  | timeSecondRollover
  | ppsEdge (sub : BitVec 6)
  | timeLockTimeout
  | ppsOutput
  | clockMonitorFailure (d : BitVec 4) (port : PortId) (stopped : Bool) (ppm : BitVec 16)
  | clockMonitorGood (d : BitVec 4) (ppm : BitVec 16)
  -- supplies and reset (chapter 16), boot (chapter 20)
  | aonPowerOn (ticks : Nat) (damage : List (Nat × Bool × List Nat)) (sound : Bool) (pages : List (Nat × Bool))
  | bootSequence (inp : BootInput)
  | powerUpStep
  | powerStepTimeout (rail : BitVec 4)
  | powerDownOrder
  | powerFailWarning
  | powerFailRecovery
  | vretTrip
  | arm
  | railPoll (readings : List RailReading)
  | smbalertN (reading : RailReading)
  | fastDomainReset (source : BitVec 4)
  | fastDomainRelease (source : BitVec 4)
  | rstNAssert
  | rstNDeassert (ms : Nat)
  | resetStuck
  | perstNAssert
  | perstNDeassert
  | kick
  | watchdogExpiry
  | confirmation (rollOk revokeOk : Bool)
  -- integrity (chapter 17)
  | scrubLine (b : BlockId) (find : ScrubFind)
  | retentionScrub (find : ScrubFind)
  | sweepWindowSegment (b : BlockId) (failedTest : Option Nat) (unrestored : Option Nat)
  | sweepEnd
  -- trace (chapter 19)
  | tracePacketClose (b : BlockId) (why : CloseWhy)
  | tracePacketTimeout (b : BlockId)
  | gts (b : BlockId)
  | syncReq (b : BlockId)
  | trcMarkWrite (b : BlockId) (value : BitVec 64)
  | sinkStore (die : Edge) (hostOk : Bool)
  | traceTransitTimeout (b : BlockId)
  | traceDisarmComplete
  -- thermal (chapter 22)
  | sensorConversion (site : BitVec 7) (reading : BitVec 16)
  | thermtripAssert (site : BitVec 7)
  | thermtripRelease
  -- the rest of the table
  | registerWrite (space : RegSpace) (off : BitVec 32) (value : BitVec 64) (bytes : RegBytes)
  | pickup (at_ : XIn)
  | commandCompletion (seq : BitVec 64) (ending : Ending)
  | lossOfVaon18 (beats : Nat)
  | frequencyLockLoss
  | slewEnd
  | debug (scan : TapScan)
  deriving DecidableEq, Repr

end Sys2Proof
end

