-- ==== Sys2Proof/WellFormed.lean ====
section
/-! DEFINITION. Which commands are well formed: the lengths and ranges that the manual gives to what a command carries. A meaning is total all the
same: a command that is not well formed changes nothing, or what the manual says that its values change. -/

namespace Sys2Proof

/-- A command carries what the manual lets it carry: an FEC block of 680 unit intervals and at most the five frames of one (R426, R428), an
unplanned frame of 1 to 244 payload bytes (R434), a footpath packet of at most eight data flits (R416, R421), as many answer bits on the test access port as it
shifts in (R892), at most the 22 words of a die-to-die frame (R412), at most eight entries of 64 bytes in one fetch (R493), Elette
frames of 64 to 1,518 bytes (R567), answers of 66 and keys of 32 bytes (R602, R615), flash lines of 32 bytes
(R560), clock domains 0 to 10 (R628), rails 0 to 13 (R683), sensor sites 0 to 72 with comparators at 0 to 71 (R881, R895), reset sources 1 to 10
(R679), start-up failures with codes 1 to 6, components 0 to 2 of slots 0 and 1, a board configuration block of 256 bytes (R41, R811, R816), PPS edges within
an acy of 40 ns (R657), and words of one scrubbed line (R727). -/
def Instr.wf : Instr → Bool
  | .fecBlockReceive _ x => decide (x.wire.length = 680) && decide (x.lost ≤ 5)
  | .unplannedFrameSend _ _ _ _ _ _ l => decide (0 < l.length) && decide (l.length ≤ 244)
  | .footpathPacketReceive _ p _ _ => decide (p.data.length ≤ 8) && decide (p.size ≤ 64)
  | .debug (.access p) => decide (p.data.length ≤ 8) && decide (p.size ≤ 64)
  | .debug (.data l m) => decide (l.length = m.length)
  | .ucieFrameReceive _ x => decide (x.noise.length ≤ 22)
  | .entryFetch _ (some l) => decide (l.length ≤ 8) && l.all fun e => decide (e.length = 64)
  | .eletteFrameReceive addresses _ _ _ _ content => decide (addresses.length = 12) && decide (content.length ≤ 1496)
  | .eletteReturnForward f => decide (64 ≤ f.bytes.length) && decide (f.bytes.length ≤ 1518)
  | .response _ l => decide (l.length = 66)
  | .custodianKeyWrite _ _ l => decide (l.length = 32)
  | .lineBufferFill _ _ l => decide (l.length = 32)
  | .ppsEdge sub => decide (sub.toNat < 40)
  | .clockMonitorFailure d _ _ _ => decide (d.toNat ≤ 10)
  | .clockMonitorGood d _ => decide (d.toNat ≤ 10)
  | .bootSequence x => (x.startFailures.all fun f => decide (f.1 < 6) && decide (1 ≤ f.2.2.1) && decide (f.2.2.1 ≤ 6)) &&
    (x.components.all fun c => decide (c.1 < 2) && decide (c.2.1 < 3)) && decide (x.board.length ≤ 256)
  | .powerStepTimeout r => decide (r.toNat < 14)
  | .railPoll l => l.all fun x => decide (x.rail < 14)
  | .smbalertN x => decide (x.rail < 14)
  | .sensorConversion n _ => decide (n.toNat ≤ 72)
  | .thermtripAssert n => decide (n.toNat ≤ 71)
  | .fastDomainReset n => decide (1 ≤ n.toNat) && decide (n.toNat ≤ 10)
  | .fastDomainRelease n => decide (1 ≤ n.toNat) && decide (n.toNat ≤ 10)
  | .scrubLine _ (.corrected l) => l.all fun i => decide (i < 8)
  | .scrubLine _ (.uncorrectable i) => decide (i < 8)
  | _ => true

end Sys2Proof
end

