-- ==== Sys2Proof/Decode.lean ====
section
/-! DEFINITION. The commands that words spell: spec/opcode_table.json gives no row any bits, so no word spells a command (DESIGN CHOICE, log entry 6). -/

namespace Sys2Proof

/-- The command that a word of `nbits` bits spells by the table's bits: none, as no row has bits. DESIGN CHOICE, log entry 6. -/
def decodeTableWord (_nbits _w : Nat) : Option Instr := none

end Sys2Proof
end

