-- ==== Sys2Proof/Config.lean ====
section
/-! DEFINITION. What one implementation fixes, and the free values: Config has no number for what the manual leaves open. -/

namespace Sys2Proof.Config

/-- A FREE VALUE (DESIGN CHOICE, log entry 1): the value of data that an uncorrectable or parity error feeds (R280, R323, R730).
It is applied to a counter in State that the step reads and advances; nothing is known of it. -/
opaque freeWord : Nat → BitVec 64

/-- A FREE VALUE (DESIGN CHOICE, log entry 1): the bits an address without mask ROM contents in this manual reads as (R23, R94);
the monitor's code is not in the manual. -/
opaque romByte : Nat → BitVec 8

/-- A FREE VALUE (DESIGN CHOICE, log entry 1): the bytes of the AON boot ROM (R555), which are not in the manual. -/
opaque bootRomByte : Nat → BitVec 8

/-- A FREE VALUE (DESIGN CHOICE, log entry 12): the fcy that a block's core has lost on banks (R100, R123), by its number, BLK_RETIRED and BLK_CYCLES: the
arbitration of banks is timing. -/
opaque bankStalls : Nat → Nat → Nat → BitVec 64

/-- Stepping B1, the shipping stepping (00 scope, R3, R101). DESIGN CHOICE, log entry 64. -/
def stepping : BitVec 8 := 0xB1

/-- The UID that fuses give the device (R596); an implementation's own value. DESIGN CHOICE, log entry 2. -/
opaque uid : BitVec 64

/-- The mask-ROM level in the fuses (R101, R817). DESIGN CHOICE, log entry 2. -/
opaque romLevel : BitVec 8

/-- The AON boot-ROM version (R602). DESIGN CHOICE, log entry 2. -/
opaque bootRomVersion : BitVec 32

/-- The ordered power class in the fuses, 1 to 4 (R598, R654). DESIGN CHOICE, log entry 2. -/
opaque orderedClassRaw : BitVec 2

/-- 0x2000:01 reads 1 to 4 (R598). -/
def orderedClass : Nat := orderedClassRaw.toNat + 1

/-- The firmware key hashes in the fuses (R817): 32 bytes each. DESIGN CHOICE, log entry 2. -/
opaque keyHash : Nat → List (BitVec 8)

/-- The ordering code, the serial number and Ignoven's assigned identifiers (R596): bytes the fuses give. DESIGN CHOICE, log entry 2. -/
opaque fuseString : Nat → List (BitVec 8)

/-- Ignoven's assigned JEP106 identifier and PCI Express vendor ID (R473, R596). DESIGN CHOICE, log entry 2. -/
opaque assignedId : Nat → BitVec 16

/-- The factory entries of the repair log, from fuses (R721, R722): 16 bytes each. DESIGN CHOICE, log entry 2. -/
opaque factoryRepair : List (BitVec 128)

/-- The Ed25519 check of RFC 8032, which the manual takes from the standard (R616, R815, R848): key, message, signature.
It is a free function (DESIGN CHOICE, log entry 3): a statement about a signature holds whichever signatures verify. -/
opaque ed25519 : List (BitVec 8) → List (BitVec 8) → List (BitVec 8) → Bool

end Sys2Proof.Config
end

