-- ==== Sys2Proof/Machine/State.lean ====
section
/-! DEFINITION. The state of the device: plain data, every register, memory, queue and mode the manual names, the queue of waiting
commands, and the state at AON power-on. -/

namespace Sys2Proof.Machine

/-! ## A block: scalar core (chapters 03, 04, 05, 08) -/

/-- The five contexts (R335); codes 5 to 7 are never held. -/
inductive Ctx where
  | m | aS | aU | bS | bU
  deriving DecidableEq, Repr

/-- The two worlds. -/
inductive World where
  | a | b
  deriving DecidableEq, Repr

/-- World tag of an access, a mailbox word or a footpath packet: A, B or M (R351, R353). -/
inductive WTag where
  | a | b | m
  deriving DecidableEq, Repr

/-- The result ports of long operations (R111) that an outstanding scalar operation claims. -/
inductive Port where
  | l1 | f1 | f2
  deriving DecidableEq, Repr

/-- A long operation that has issued and whose result is not written yet (R111, R228): destination, result and flags. -/
structure LongOp where
  port  : Port
  toF   : Bool
  rd    : Reg
  value : W64
  /-- SAT NV DZ OF UF NX, as bits [5:0] of BLK_FPSR [9:4] (R193) -/
  flags : BitVec 6
  /-- a floating-point operation, for which a read of BLK_FPSR waits (R170) -/
  isFp  : Bool
  deriving DecidableEq, Repr

/-- A remote load outstanding (R137), with its transaction number (R416). -/
structure RemoteLoad where
  txn  : BitVec 8
  fn   : LoadFn
  rd   : Reg
  addr : BitVec 48
  ctx  : Ctx
  deriving DecidableEq, Repr

/-- A posted remote store or mbx.send outstanding (R137, R174). -/
structure RemoteStore where
  txn  : BitVec 8
  addr : BitVec 48
  mbx  : Bool
  ctx  : Ctx
  deriving DecidableEq, Repr

/-- A synchronous fault that the instruction at the boundary has raised and that trap entry has not taken (R139, R371). -/
structure SyncFault where
  cause   : BitVec 6
  value   : W64
  /-- the saved PC of R366 -/
  savedPc : W64
  /-- element or row that a vector or tile check fault names (R242, R297) -/
  elem    : Option Nat
  /-- the fault is a tile-row check fault (R297) -/
  isRow   : Bool
  deriving DecidableEq, Repr

/-- The loop registers (R103, R104). -/
structure LoopRegs where
  remain : BitVec 32
  start  : W64
  len    : BitVec 7
  active : Bool
  deriving DecidableEq, Repr

/-- The scalar core of a block. -/
structure Core where
  /-- g1 to g31 (R92) and f0 to f31: registers that hold 0 are not listed -/
  g : Tab W64
  f : Tab W64
  /-- program counter (R92); held in 64 bits, as targets are never cut (R156) -/
  pc : W64
  /-- the core fetches and issues; false before a start, after ewait (R131) and after a machine double fault (R360) -/
  fetching : Bool
  /-- BLK_RESUME.STOPPED and ADDR (R346) -/
  stopped : Bool
  resumeAddr : W64
  /-- the core runs an epoch program (R373) -/
  inProgram : Bool
  /-- the block is parked (R72, R374) -/
  parked : Bool
  /-- the ewait of the epoch program has retired in this epoch (R131, R133) -/
  ewaited : Bool
  /-- BLK_EWAIT_CYCLE (R106) -/
  ewaitCycle : BitVec 20
  ewaitValid : Bool
  /-- BLK_ENTRY (R102) -/
  entry : W64
  /-- BLK_LOOP_COUNT and BLK_LOOP_SPAN (R103, R104) -/
  loopRemain : BitVec 32
  loopStart  : W64
  loopLen    : BitVec 7
  loopActive : Bool
  /-- the loop registers before the core's own last write of them, with the count of its clock at that write: they govern the instructions that issue
  less than 2 fcy after it (R119) -/
  loopOld    : Option (LoopRegs × Nat)
  /-- BLK_RETIRED, BLK_STALL_BANK, BLK_STALL_QUEUE (R100, R107) -/
  retired    : W64
  stallBank  : W64
  stallQueue : W64
  /-- the count of the core's clock at which the instruction in RD found the dispatch queue full, while it waits (R107) -/
  queueFrom  : Option Nat
  /-- the quarter's fcy count at which BLK_CYCLES read 0 (R100) -/
  cyclesFrom : Nat
  longOps   : List LongOp
  remLoads  : List RemoteLoad
  remStores : List RemoteStore
  /-- outstanding mbx.recv, oldest first: destination and the tag of the words that it takes (R175, R353) -/
  recvs     : List (Reg × WTag)
  nextTxn   : BitVec 8
  fault     : Option SyncFault
  /-- receive counts of the channels (R173) -/
  delivered : Tab Nat
  deriving DecidableEq, Repr

/-- Floating-point status and the stochastic generator of a block (R192). -/
structure Fp where
  rm      : BitVec 3
  /-- bits [9:4] of BLK_FPSR: SAT NV DZ OF UF NX -/
  flags   : BitVec 6
  srState : BitVec 32
  srBase  : BitVec 32
  srDraws : W64
  deriving DecidableEq, Repr

/-- A bounds register (R343). -/
structure Bound where
  en    : Bool
  base  : BitVec 14
  last  : BitVec 14
  split : BitVec 14
  deriving DecidableEq, Repr

/-- A TSBP register (R339). -/
structure Tsbp where
  occ  : Bool
  base : BitVec 39
  deriving DecidableEq, Repr

/-- A late-store log entry (R344). -/
structure LsEntry where
  addr  : BitVec 48
  valid : Bool
  kind  : BitVec 2
  ctx   : BitVec 3
  isNew : Bool
  err   : BitVec 4
  deriving DecidableEq, Repr

/-- The log of unplanned traps (R345). -/
structure Unplanned where
  cause  : BitVec 6
  double : Bool
  ctx    : BitVec 3
  more   : Bool
  valid  : Bool
  pc     : W64
  deriving DecidableEq, Repr

/-- Privilege and trap registers of a block (R336). -/
structure Priv where
  ctx  : Ctx
  mask : BitVec 3
  /-- an open HOLD window: its length and the quarter's fcy count at which it was set (R362) -/
  hold : Option (Nat × Nat)
  epochCtx  : Ctx
  epochMask : BitVec 3
  tsbpM  : Tsbp
  tsbpA  : Tsbp
  tsbpB  : Tsbp
  vtbA   : BitVec 39
  vtbB   : BitVec 39
  delegA : W64
  delegB : W64
  planned : W64
  boundIA : Bound
  boundIB : Bound
  boundLA : Bound
  boundLB : Bound
  boundLS : Bound
  /-- data-loss faults that wait for an instruction boundary (R287, R332), causes 18 and 19 -/
  pendV  : Bool
  pendM  : Bool
  unplanned : Unplanned
  lslog  : List LsEntry
  lsLost : BitVec 16
  deriving DecidableEq, Repr

/-! ## A block: vector and matrix engines (chapters 06, 07) -/

/-- An entry of the dispatch queue (R127): the instruction with what it read at issue (R109, R240). -/
structure QEntry where
  instr : Instr
  pc    : W64
  /-- scalar operands, as the instruction names them -/
  sa    : W64
  sb    : W64
  /-- GRP at issue (R240) -/
  grp   : BitVec 2
  /-- rounding mode in force (R145) -/
  rm    : BitVec 3
  /-- the draws that it takes when it starts on its engine, and the generator state before the first of them (R205) -/
  draws : Nat
  seed  : BitVec 32
  deriving DecidableEq, Repr

/-- An arcade line with its VEC_AC_TAG (R235, R243). -/
structure AcLine where
  data    : BitVec 16384
  valid   : Bool
  addr    : BitVec 48
  fromReg : Bool
  deriving DecidableEq, Repr

/-- The vector engine of a block (R232 to R243). -/
structure Vec where
  v   : Tab (BitVec 16384)
  m   : Tab (BitVec 2048)
  ac  : Tab AcLine
  grp : BitVec 2
  dlValid  : Bool
  dlPc     : W64
  dlSource : BitVec 3
  dlReg    : BitVec 5
  dlBeat   : BitVec 15
  dlMore   : Bool
  faultElem  : BitVec 15
  faultValid : Bool
  beats : W64
  /-- the instructions in the engine, oldest first: the one in its beats and those before it that have not completed (R281) -/
  run : List QEntry
  deriving DecidableEq, Repr

/-- The tile and accumulator registers, the array and the tile port (R289 to R298). -/
structure Mtx where
  t : Tab (BitVec 16384)
  z : Tab (BitVec 8192)
  dlValid : Bool
  dlPc    : W64
  dlRow   : BitVec 4
  dlReg   : BitVec 3
  dlZ     : Bool
  dlMore  : Bool
  faultRow   : BitVec 4
  faultValid : Bool
  ops      : W64
  arrayFcy : W64
  /-- instructions in the array and in the tile port that have not completed, oldest first (R326, R327) -/
  array : List QEntry
  port  : List QEntry
  deriving DecidableEq, Repr

/-! ## A block: crossing and message engine (chapter 09) -/

/-- A planned flit with its tag (R388). -/
structure Flit where
  tag     : BitVec 40
  payload : BitVec 256
  /-- the parity bits with which it travels (R388) -/
  parity  : BitVec 8
  deriving DecidableEq, Repr

/-- A flit held by a receiving engine: the epoch of its release and its cycle of arrival (R398). -/
structure Held where
  flit    : Flit
  release : W64
  epoch   : W64
  cycle   : Nat
  deriving DecidableEq, Repr

/-- A flit in a landing buffer (R408, R446): visible or not, and, in a port landing buffer, the release epoch fixed when it was unpacked. -/
structure LandFlit where
  flit    : Flit
  visible : Bool
  release : W64
  /-- the epoch cycle in which it left the upstream boundary output (R409) -/
  left    : Nat
  deriving DecidableEq, Repr

/-- A receive channel (R387). -/
structure RxChan where
  base   : BitVec 48
  sfm1   : BitVec 3
  slots  : BitVec 13
  expect : BitVec 16
  world  : Bool
  guard  : Bool
  en     : Bool
  deriving DecidableEq, Repr

/-- A send entry (R386). -/
structure SendEntry where
  scycle : BitVec 20
  nfm1   : BitVec 3
  guard  : Bool
  ch     : BitVec 7
  world  : Bool
  lag    : BitVec 6
  rcycle : BitVec 20
  src    : BitVec 48
  deriving DecidableEq, Repr

/-- A message engine: MSG_ registers, schedules and hold buffer (R385, R403). -/
structure Msg where
  nsend : BitVec 10
  next  : BitVec 10
  tx : W64
  rx : W64
  discards : W64
  guardFails : W64
  late : W64
  rxc  : Tab RxChan
  send : Tab SendEntry
  hold : List Held
  /-- the last fcy of the epoch in which a flit of an earlier send stands at the local input (R396) -/
  busyTo : Nat
  /-- fan-outs of the image's send entries (R763), which no software can read; an entry not listed counts with 1 -/
  fan : Tab Nat
  deriving DecidableEq, Repr

/-- A crossing: XNG_ registers, signal plan and the flits on their way to its inputs (R381, R390, R408). Inputs are keyed by their source
codes of R383: 1 N, 2 E, 3 S, 4 W, 5 L. -/
structure Xng where
  len   : BitVec 11
  slots : Tab (BitVec 15)
  drops  : W64
  parity : W64
  miss     : BitVec 32
  overflow : BitVec 32
  /-- flits on their way to each input, oldest first, with the epoch cycle at which each is present -/
  inp : Tab (List (Flit × Nat))
  /-- flits that the upstream boundary output has sent toward a landing input and that no frame has brought in yet, with the cycle in which each left -/
  wire : Tab (List (Flit × Nat))
  /-- landing buffers of the inputs that are landing inputs (R408) -/
  land : Tab (List LandFlit)
  /-- the cycle of an input's last pickup, plus 1; 0 when the epoch has had none -/
  picked : Tab Nat
  /-- flits that left the L output, with the cycle in which each enters the hold buffer (R398) -/
  outL : List (Flit × Nat)
  deriving DecidableEq, Repr

/-- A mailbox word with its sender's tag (R353, R417). -/
structure MboxWord where
  tag  : WTag
  word : W64
  deriving DecidableEq, Repr

/-! ## A block: clocks, trace, integrity (chapters 15, 17, 19) -/

/-- Clock modes of a block, in the order of their codes (R634). -/
inductive Mode where
  | run | sleep | deep | waking
  deriving DecidableEq, Repr

/-- CLK_ registers of a block (R632 to R640). -/
structure Clk where
  en     : W64
  mode   : Mode
  /-- the mode being left while the block is WAKING (R635) -/
  left   : Mode
  target : Mode
  /-- a CLK_REQ write that waits for the end of a wake (R640) -/
  req    : Option Mode
  /-- a wake in progress: length in fcy and the quarter's fcy count at which it began (R637) -/
  wake   : Option (Nat × Nat)
  /-- fcy spent in each mode up to `since`, the quarter's fcy count at which the present mode began (R632) -/
  fcyRun   : W64
  fcySleep : W64
  fcyDeep  : W64
  since : Nat
  /-- the block's entries of the power plan (R641), and how many of them this epoch has applied -/
  entries : List (Nat × Mode)
  done    : Nat
  deriving DecidableEq, Repr

/-- A trace packet (R787): SEQ and record bytes; the block number goes with it. -/
structure TrcPacket where
  block : BlockId
  seq   : BitVec 16
  bytes : List Byte
  deriving DecidableEq, Repr

/-- The trace unit of a block (R781 to R798). -/
structure Trc where
  en      : Bool
  ctxMask : BitVec 5
  chanC   : Bool
  syncInt : BitVec 16
  gtsInt  : BitVec 32
  seq     : BitVec 16
  pend    : BitVec 16
  records : W64
  packets : W64
  drops   : W64
  /-- bytes of the packet being formed (R795), and the quarter's fcy count at its first record -/
  form : List Byte
  formFrom : Nat
  /-- branch outcomes gathered and not yet emitted, oldest first (R784) -/
  outcomes : List Bool
  /-- the next packet opens with SYNC (R793) -/
  needSync : Bool
  /-- BLK_CYCLES at the last timed record (R797) and at the last GTS or arming (R798) -/
  lastTimed : Nat
  lastGts   : Nat
  /-- packets that have closed and are not handed to the footpath node yet (R795), with the reason -/
  closed : List (CloseWhy × TrcPacket)
  /-- the queue of the footpath node (R796) -/
  node : List TrcPacket
  deriving DecidableEq, Repr

/-- One error counted toward retirement (R736): the reason of its row, the word it met (0 when none), when in ns of system time,
and, for an uncorrectable word, whether the word has been written since. -/
structure ErrNote where
  reason  : Nat
  word    : Nat
  time    : Nat
  written : Bool
  deriving DecidableEq, Repr

/-- What a block's integrity logic keeps (R727, R736): the next line of the scrubber and the errors of the last 600 s. -/
structure Integ where
  scrubLine : Nat
  notes : List ErrNote
  /-- the block has failed a test of the active sweep -/
  failed : Bool
  /-- tests of an active sweep done in this block (R751), by TESTS bit, and segments done of the test in progress -/
  tested : BitVec 4
  segs   : Nat
  deriving DecidableEq, Repr

/-- One physical block, placed or spare (R23), or the management core, of which only the scalar core's part counts (R556); its `ls` then holds the
firmware data of R554, by address. -/
structure Block where
  core : Core
  fp   : Fp
  priv : Priv
  /-- dispatch queue, oldest first (R127) -/
  queue : List QEntry
  vec : Vec
  mtx : Mtx
  msg : Msg
  xng : Xng
  mbox : List MboxWord
  /-- local store and instruction memory, by block local address (R94) -/
  ls : Memory
  im : Memory
  /-- BLK_IDENT.PATCH_LEVEL (R101) -/
  patch : BitVec 8
  clk : Clk
  trc : Trc
  integ : Integ
  deriving DecidableEq, Repr

/-! ## The plan and the epoch gate (chapter 02) -/

/-- Plan states (R53). -/
inductive PlanSt where
  | empty | loading | loaded | bound | starting | running | stopping | halted | unloading
  deriving DecidableEq, Repr

/-- The outcome of an epoch as BLK_GATE reports it (R51): OUTCOME none, run, bubble. -/
inductive GateOut where
  | none | run | bubble
  deriving DecidableEq, Repr

/-- The settled outcome of the previous epoch (R51): PREV. -/
inductive Settled where
  | none | valid | bubble | void
  deriving DecidableEq, Repr

/-- The faults of one epoch (R86): the first voiding fault, by row of the fault table of R84 counted from 1, with its block (0xFFFF
when the fault is not in a block), and the count of further voiding faults. -/
structure FaultRec where
  first   : Option (BitVec 8 × BitVec 16)
  further : Nat
  deriving DecidableEq, Repr

/-- What BLK_GATE and BLK_VALID_COUNT hold (R51, R52). -/
structure Gate where
  outcome : GateOut
  prev    : Settled
  lastRunVoid : Bool
  cause   : BitVec 3
  streak  : BitVec 8
  validCount : W64
  deriving DecidableEq, Repr

/-- The epoch machinery of the device: what BLK_EPOCH, BLK_ECYCLE, BLK_GATE and BLK_VALID_COUNT read in every block (R49 to R52), and
the gate controller on E0 (R60 to R77). -/
structure Epoch where
  /-- an epoch is in progress: from PLAN_START_TIME to the entry to BOUND -/
  active  : Bool
  num     : W64
  cycle   : Nat
  /-- the decision for the epoch in progress is in effect: its cycle 128 has come -/
  begun   : Bool
  /-- the end of cycle 2^k − 1 has been handled (R401) -/
  ended   : Bool
  /-- the epoch in progress has settled before its boundary, by an immediate halt (R88) -/
  settled : Bool
  /-- the registers, which change only at epoch cycle 128 -/
  outcome : GateOut
  prev    : Settled
  lastRunVoid : Bool
  cause   : BitVec 3
  streak  : BitVec 8
  validCount : W64
  /-- what they take at the next cycle 128 -/
  nxt     : Gate
  /-- the decision formed at the gate instant and not yet in effect (R79): run or not, with the bubble cause -/
  decision : Option (Bool × BitVec 3)
  /-- faults charged to the epoch in progress, and those latched for the epoch before at its boundary (R79, R85) -/
  faults  : FaultRec
  latched : FaultRec
  /-- what the epoch before did, until it settles -/
  prevRan : GateOut
  /-- planned ports that have not been ACTIVE in some cycle of the epoch in progress (R471, R472) -/
  linkOut : List Nat
  /-- a halting fault that waits for the next boundary (R84), by row of R84 -/
  haltAt  : Option (BitVec 8)
  /-- the halting fault of a halted plan, 0 when the plan is not halted (0xB000:07) -/
  haltRow : BitVec 8
  /-- the last epoch that was gated and has settled -/
  lastGated : Option W64
  /-- terms of the message book latched at the last epoch cycle 0 (R766): sent, received, in flight -/
  bookSent   : Nat
  bookRecv   : Nat
  bookFlight : Nat
  /-- the peak token count of the epoch in progress, of the one before, and since PLAN_START (R656) -/
  peak     : Nat
  peakPrev : Nat
  peakTop  : Nat
  /-- system time, in ns, of epoch cycle 0 of the epoch in progress and of the one before -/
  at0     : Nat
  at0Prev : Nat
  deriving DecidableEq, Repr

/-- A milestone record (R433). -/
structure MsRec where
  epoch   : W64
  origin  : BitVec 7
  outcome : BitVec 2
  time    : W64
  deriving DecidableEq, Repr

/-- A sweep window (R750, R866). -/
structure SweepWin where
  block  : BlockId
  segs   : Nat
  start  : Nat
  regs   : Bool
  deriving DecidableEq, Repr

/-- What the device keeps of the plan it holds: what PLAN_LOAD records (R503, R871), what PLAN_BIND takes from the image and no register
holds (R641, R845, R865, R866), and what PLAN_START and PLAN_STOP name (R56, R57). -/
structure PlanRec where
  addr : Nat
  len  : Nat
  sha  : List Byte
  mhz     : Nat
  power   : Nat
  target  : BitVec 7
  /-- W and H of each quarter, both 0 for a quarter the plan does not use -/
  geom    : List (Nat × Nat)
  voidLimit : Nat
  /-- trace rings of E0 and E1, in bytes -/
  trace0  : Nat
  trace1  : Nat
  /-- run pattern of each quarter: P and its bits (R641) -/
  runPat  : List (Nat × Nat)
  upstream : List (BitVec 7 × Nat)
  sweeps  : List SweepWin
  e0      : W64
  startNs : Nat
  stopEpoch : W64
  /-- the last epoch that ran under this binding (R59) -/
  lastRan : Option W64
  /-- the last record accepted from each origin since PLAN_START (R456), and the records the gate may still need -/
  seen    : Tab W64
  recs    : List MsRec
  deriving DecidableEq, Repr

/-! ## Edge dies: crossbars, bindings and edge SRAM (chapters 09, 11, 21) -/

/-- States of an intake slot (R507). -/
inductive InSlot where
  | free | filling | filled | inUse
  deriving DecidableEq, Repr

/-- States of an outlet slot (R510), with the epoch that wrote it and its void mark. -/
inductive OutSlot where
  | empty | writing
  | ready (epoch : W64) (void : Bool)
  | reading (epoch : W64) (void : Bool)
  deriving DecidableEq, Repr

/-- An entry of an intake send list (R860): a send with its payload at an offset of the slot, and its fan-out. -/
structure InSend where
  entry : SendEntry
  off   : Nat
  fan   : Nat
  deriving DecidableEq, Repr

/-- An intake binding and its read port (R506 to R509, R860). -/
structure Intake where
  die      : Edge
  slotSize : Nat
  base     : Nat
  sends    : List InSend
  /-- one entry a slot, in ring order -/
  slots    : List InSlot
  /-- the consume point (R507) -/
  point    : Nat
  /-- the slot that the epoch in progress consumed -/
  used     : Option Nat
  next     : Nat
  busyTo   : Nat
  deriving DecidableEq, Repr

/-- An outlet binding and its write port (R510 to R512, R861). -/
structure Outlet where
  die      : Edge
  slotSize : Nat
  base     : Nat
  expect   : Nat
  guard    : Bool
  slots    : List OutSlot
  /-- the next slot to take, in ring order after the last one taken -/
  next     : Nat
  /-- the slot being written in this epoch, none when it found no EMPTY slot or is not written -/
  writing  : Option Nat
  /-- the order in which READY slots became so: slot numbers, oldest first -/
  order    : List Nat
  delivered : Nat
  hold     : List Held
  deriving DecidableEq, Repr

/-- The crossbar of an edge die, by endpoint of R863, and the die's SRAM. -/
structure EdgeDie where
  /-- slot arrays of the outputs that EDGE lists (R864) -/
  outs : Tab (List (BitVec 16))
  /-- flits on their way to the inputs of the intake read ports, with the cycle at which each is present -/
  inp  : Tab (List (Flit × Nat))
  /-- flits that a street's boundary output has sent and no frame has brought in yet, with the cycle in which each left -/
  wire : Tab (List (Flit × Nat))
  /-- landing buffers of the streets (8 flits) and of the port receive channels (64 flits) -/
  land : Tab (List LandFlit)
  /-- the cycle of an input's last pickup, plus 1; 0 when the epoch has had none -/
  picked : Tab Nat
  /-- flits that left an outlet write port's output, with the cycle in which each enters its hold buffer -/
  outL : Tab (List (Flit × Nat))
  /-- pickups that missed, flits that overflowed, flits discarded at inputs -/
  miss     : Nat
  overflow : Nat
  drops    : Nat
  parity   : Nat
  sram : Memory
  deriving DecidableEq, Repr

/-! ## Dzixon ports (chapter 10) -/

/-- Link states, in the order of their codes (R424, R436). -/
inductive LinkSt where
  | down | train | caps | survey | active | retrain | disabled
  deriving DecidableEq, Repr

/-- An unplanned data frame (R431, R434). -/
structure UFrame where
  fseq : BitVec 16
  vc   : Bool
  dst  : BitVec 7
  src  : BitVec 7
  kind : BitVec 4
  ttl  : BitVec 4
  payload : List Byte
  deriving DecidableEq, Repr

/-- A frame that a port hands to the wire (R431). -/
inductive Frame where
  | planned (sepoch : BitVec 16) (flits : List Flit)
  | milestone (sepoch : BitVec 16) (pcount : BitVec 16) (recs : List MsRec)
  | unplanned (u : UFrame)
  | identity (mode : Nat) (i : Identity)
  deriving DecidableEq, Repr

/-- A block that a port has sent (R426, R430): bits [63:0] of its header, and its frames; the rest of the five are idle. -/
structure LinkBlock where
  header : W64
  frames : List Frame
  deriving DecidableEq, Repr

/-- A flit in a transmit queue, with the cycle in which it joined and its channel (R441). -/
structure TxFlit where
  flit  : Flit
  cycle : Nat
  chan  : Nat
  /-- the epoch in which it entered the edge crossbar (R445) -/
  epoch : W64
  deriving DecidableEq, Repr

/-- What the peer's identity frames have told (R424, R439). -/
structure Peer where
  uid      : W64
  port     : BitVec 3
  stepping : BitVec 8
  abi      : BitVec 16
  station  : BitVec 8
  devnum   : BitVec 7
  devValid : Bool
  deriving DecidableEq, Repr

/-- One VC of a port at its sending side: credits held, outstanding (R768), the CRET count last seen and the occupancy last reported; and at
its receiving side: the frames that hold an entry and the entries freed. -/
structure Vc where
  credits : Nat
  out     : Nat
  seen    : BitVec 12
  peerOcc : Nat
  rx      : List UFrame
  freed   : BitVec 12
  deriving DecidableEq, Repr

/-- A Dzixon port (R423, R424, R441 to R458). -/
structure DPort where
  en          : Bool
  forceSurvey : Bool
  st      : LinkSt
  planned : Bool
  abiOk   : Bool
  lock    : Bool
  cause   : BitVec 4
  retrains : BitVec 16
  peer   : Peer
  flight : BitVec 12
  pad    : BitVec 12
  fecCorr   : Nat
  fecUncorr : Nat
  crcFail   : Nat
  retry     : Nat
  dropTx : Nat
  dropRx : Nat
  skewLast : BitVec 16
  skewMax  : BitVec 16
  alignLoss : Bool
  /-- consecutive uncorrectable blocks, and consecutive retransmissions without ACK progress (R437) -/
  badRun : Nat
  stall  : Nat
  /-- REQ of the next block header (R430) -/
  req : BitVec 2
  nextSeq : BitVec 16
  rxNext  : BitVec 16
  /-- the replay buffer: unplanned frames sent and not acknowledged, oldest first (R449) -/
  replay : List UFrame
  vc0 : Vc
  vc1 : Vc
  /-- the link schedule of the bound plan (R441, R859) -/
  period : Nat
  txs    : List (Nat × Nat)
  mcycles : List Nat
  relay  : BitVec 128
  expect : Nat
  /-- milestone frames sent in this epoch, and the epoch cycle of the last transmit entry taken -/
  msDone : Nat
  txDone : Nat
  queue : List TxFlit
  /-- flits that transmit entries named and did not find (R442) -/
  short : Nat
  /-- planned data frames sent in the epoch in progress and in the one before (R433) -/
  sentNow  : Nat
  sentPrev : Nat
  /-- planned data frames received, by SEPOCH (R457) -/
  got : Tab Nat
  /-- records that wait for the next milestone cycle, with the fcy count at which they became visible (R454) -/
  due : List (MsRec × Nat)
  /-- unplanned frames that wait for a credit and a frame boundary, oldest first (R449); their FSEQ is given when they are sent. A forwarded one keeps its
  entry in the receive buffer of the port, VC and FSEQ that it came with -/
  wait : List (UFrame × Option (Nat × Bool × BitVec 16))
  /-- frames that wait for a frame boundary, oldest first (R444) -/
  out : List Frame
  /-- BSEQ of the next block (R430), the link time at which it begins, and the blocks sent, oldest first -/
  bseq : BitVec 16
  nextBlk : Nat
  blocks : List LinkBlock
  /-- the last TXSTAMP received and the link time at which it came (R435); the flight time that the stamps give (R438), in units of 0.1 ns -/
  echo : BitVec 32
  echoAt : Nat
  measured : Option Nat
  /-- consecutive valid identity frames (R439), and the last one -/
  idents : Nat
  ident : Option Identity
  deriving DecidableEq, Repr

/-- A footpath packet on a link (R414). -/
structure FpTransit where
  /-- the node that has sent it, and the one that it reaches next -/
  from_ : FpPos
  at_   : FpPos
  /-- it is routed along Y first (R745) -/
  yx    : Bool
  /-- flits of it that have crossed a die boundary in frames, and whether one was lost (R412, R413) -/
  sent  : Nat
  bad   : Bool
  pkt   : FpPacket
  deriving DecidableEq, Repr

/-- A footpath request of another device that an edge die has put on this device's footpath network, and what its answer is to carry. -/
structure Proxy where
  txn  : BitVec 8
  dev  : BitVec 7
  spx  : BitVec 8
  spy  : BitVec 8
  otxn : BitVec 8
  deriving DecidableEq, Repr

/-- What the running firmware bundle declares (R435, R602, R836). -/
structure Bundle where
  version : BitVec 32
  planAbi : BitVec 16
  planAbiMin : BitVec 16
  hostAbi : BitVec 16
  dictAbi : BitVec 16
  linkAbi : BitVec 16
  deriving DecidableEq, Repr

/-! ## The host interface (chapter 11) -/

/-- A queue's registers and rings (R479, R499). -/
structure Queue where
  sqBase : BitVec 52
  cqBase : BitVec 52
  en     : Bool
  slog2  : BitVec 4
  vec    : BitVec 6
  sqTail : BitVec 12
  sqHead : BitVec 12
  cqTail : BitVec 12
  cqHead : BitVec 12
  phase  : Bool
  count  : BitVec 8
  time   : BitVec 10
  error  : Bool
  ecode  : BitVec 3
  /-- completions written since the last interrupt, and when the first of them was, in acy (R499) -/
  since   : Nat
  sinceAt : Nat
  /-- fetched entries that wait for their validation, oldest first, with HEAD after each, and the reason when the queue has been disabled
  since (R493, R494, R520) -/
  fetched : List (List Byte × BitVec 12 × Nat)
  deriving DecidableEq, Repr

/-- Phases of a command (R496, R497, R538). -/
inductive CmdPhase where
  /-- its ACCEPTED record has committed -/
  | accepted
  /-- its STARTED record waits for its commit -/
  | starting
  /-- its STARTED record has committed: the command runs -/
  | started
  /-- what it does at its start is done, and COMMAND_COMPLETION ends it -/
  | running
  /-- its end record waits for its commit -/
  | ending
  /-- its end record has committed, and its completion entry is to be written -/
  | ended
  deriving DecidableEq, Repr

/-- An accepted command (R486, R496). -/
structure Cmd where
  /-- sequence number of its ACCEPTED record -/
  seq    : W64
  queue  : BitVec 6
  sqHead : BitVec 12
  entry  : List Byte
  phase  : CmdPhase
  status : BitVec 16
  result : W64
  /-- sequence number of its end record (R488) -/
  endSeq : W64
  /-- the reason (R527) when its queue has been disabled, so that its completion entry is discarded (R520); 0 otherwise -/
  gone   : Nat
  /-- the slot that an INTAKE_WRITE fills or an OUTLET_READ reads -/
  slot   : Option Nat
  /-- the value of a deferred DICT_WRITE, read from host memory (R608, R614) -/
  data   : List Byte
  /-- system time, in ns, at which its ACCEPTED record committed (R56, R495) -/
  time   : Nat
  /-- its STARTED record has committed (R527, R538) -/
  began  : Bool
  deriving DecidableEq, Repr

/-- A vector of the MSI-X table, as the PCI Express standard lays it out. -/
structure MsixEntry where
  addr : BitVec 64
  data : BitVec 32
  ctrl : BitVec 32
  deriving DecidableEq, Repr

/-- A completion entry that waits for room in its ring (R488, R497): the rejected ones have no command. -/
structure Completion where
  queue  : BitVec 6
  tag    : W64
  jseq   : W64
  result : W64
  status : BitVec 16
  sqHead : BitVec 12
  noirq  : Bool
  /-- the command whose entry it is -/
  cmd    : Option W64
  deriving DecidableEq, Repr

/-- The configuration space of the function, but for what is fixed (R473, R474): the writable registers of the Type 0 header, of the PCI Express, MSI-X and
error reporting structures. -/
structure PciCfg where
  command   : BitVec 16
  cacheLine : BitVec 8
  intLine   : BitVec 8
  /-- base addresses of BAR0, BAR2 and BAR4 -/
  bar0 : W64
  bar2 : W64
  bar4 : W64
  devCtl  : BitVec 16
  linkCtl : BitVec 16
  devCtl2 : BitVec 16
  /-- MSI-X Enable and Function Mask -/
  msixEn   : Bool
  msixMask : Bool
  /-- uncorrectable error status, mask and severity -/
  aerStatus   : BitVec 32
  aerMask     : BitVec 32
  aerSeverity : BitVec 32
  deriving DecidableEq, Repr

/-- Device-wide host interface state (R473 to R478, R482). -/
structure Hif where
  cfg   : PciCfg
  ready : Bool
  evtCfg : BitVec 24
  evtPend : BitVec 8
  /-- acy during which BP was 1, up to `bpFrom`, and the acy count at which BP last became 1 (R476) -/
  bpAcy  : Nat
  bpFrom : Option Nat
  rejects : Nat
  drops   : Nat
  queues  : Tab Queue
  /-- the queue that R493 serves next -/
  turn    : Nat
  cmds    : List Cmd
  comps   : List Completion
  msix    : Tab MsixEntry
  pba     : BitVec 64
  dictReq : W64
  dictRsp : W64
  dictData : Memory
  d3hot   : Bool
  /-- the PCI Express link is up, its width and rate (R601) -/
  linkUp  : Bool
  width   : BitVec 8
  rate    : BitVec 16
  flitMode : Bool
  aerCorr : Nat
  aerUncorr : Nat
  /-- what the last BAR read returned: the bytes, none for a Completer Abort -/
  readOut : Option (List Byte)
  deriving DecidableEq, Repr

/-! ## Ledgers (chapter 18) -/

/-- The common subindices of a ledger (R604, R760), and its terms at the last settlement. -/
structure Ledger where
  state : Nat
  fails : Nat
  time  : W64
  terms : List Nat
  deriving DecidableEq, Repr

/-! ## The command journal (chapter 12) -/

/-- The content of a journal record (R526) but for SEQ and the checks, which its commit gives. -/
structure Rec where
  ty     : BitVec 8
  time   : W64
  ref    : W64
  tag    : W64
  result : W64
  planId : BitVec 32
  digest : BitVec 32
  opcode : BitVec 16
  queue  : BitVec 8
  status : BitVec 16
  flags  : BitVec 16
  deriving DecidableEq, Repr

/-- A raised event (R530): HOST_TAG of its record is its second detail word. -/
structure Event where
  kind   : BitVec 16
  ref    : W64
  result : W64
  tag    : W64
  time   : W64
  flags  : BitVec 16
  deriving DecidableEq, Repr

/-- A summary counter of one kind (R540). -/
structure Summary where
  kind  : BitVec 16
  count : W64
  first : W64
  last  : W64
  flags : BitVec 16
  deriving DecidableEq, Repr

/-- An item of the event FIFO (R539): one event or one closed summary. -/
inductive Item where
  | event (e : Event)
  | summary (c : Summary)
  deriving DecidableEq, Repr

/-- The journal and its writer (R526 to R546). -/
structure Jnl where
  /-- the 64 bytes of each slot; a slot not listed is cleared (R526, R544) -/
  ring : Tab (List Byte)
  next : W64
  gen  : W64
  /-- records of the first step of R536, oldest first -/
  cmdRecs : List Rec
  /-- the acceptance holding register (R537), with the command that its record accepts -/
  holding : Option (Rec × Cmd)
  /-- the writer last took the event FIFO, when both waited (R536) -/
  lastEvent : Bool
  fifo : List Item
  /-- open summary counters, in the order in which they opened -/
  counters : List Summary
  raised     : W64
  recorded   : W64
  summarised : W64
  /-- a journal damage event has been raised in this generation (0x4000:01 bit 4) -/
  damaged    : Bool
  deriving DecidableEq, Repr

/-! ## Trace sinks (chapter 19) -/

/-- The trace sink of an edge die (R799 to R802). -/
structure Sink where
  /-- the input buffer: 64-byte sink entries without their SINK_SEQ, oldest first -/
  buf  : List (List Byte)
  /-- where the ring lay at the last arming, and its size in bytes -/
  base : Nat
  size : Nat
  /-- write offset, and entries that have not been drained -/
  woff : Nat
  held : Nat
  /-- the next SINK_SEQ -/
  seq  : BitVec 32
  /-- packets dropped since the previous overflow marker -/
  lost : W64
  deriving DecidableEq, Repr

/-- Trace of the device (R789 to R792). -/
structure TraceSys where
  armed     : Bool
  disarming : Bool
  wrap      : Bool
  /-- the sink taken at arming: 1 is host memory -/
  host      : Bool
  hostAddr  : Nat
  hostLen   : Nat
  /-- the TRC_CTL write of the last arming with its block range, and the quarters for which it is held (R790) -/
  ctl       : W64
  first     : Nat
  last      : Nat
  waiting   : List Nat
  sink0     : Sink
  sink1     : Sink
  deriving DecidableEq, Repr

/-! ## Supplies and resets (chapter 16) -/

/-- The power sequencer: rails off, a step of the power-up order in progress, rails on, a step of the power-down order in progress. -/
inductive Pwr where
  | off
  | up (step : Nat)
  | on
  | down (step : Nat)
  deriving DecidableEq, Repr

/-- What the rail objects read (R598): REAL32 values and STATUS_WORD. -/
structure Rail where
  volts  : BitVec 32
  amps   : BitVec 32
  temp   : BitVec 32
  status : BitVec 16
  deriving DecidableEq, Repr

/-- The supply sequencer, the supply monitors and the reset controller (R679). -/
structure Supply where
  /-- the power-fail warning is in force (R690) -/
  pfw : Bool
  pwr : Pwr
  /-- the power-up order follows the power-down order in progress (R714) -/
  again : Bool
  good : BitVec 14
  vbatLow : Bool
  rails : Tab Rail
  latch : Bool
  warm  : Bool
  failed : BitVec 8
  src   : BitVec 4
  scope : BitVec 4
  /-- RST_N is asserted, since this count of acy -/
  rstn  : Option Nat
  /-- RST_N_OVERRIDE, and that it was in force during this assertion -/
  override : Bool
  overrode : Bool
  stuck : Bool
  perstn : Bool
  /-- sources that hold the fast domain in reset (R702), in ascending order -/
  holders : List Nat
  /-- sources 4 and 5 asked for and not yet started (R712) -/
  due : List Nat
  /-- the fast domain has been reset and its journal actions wait (R690, R692) -/
  owed : Bool
  /-- count of acy at the last start of the watchdog count, none before it is started (R713) -/
  wdt : Option Nat
  deriving DecidableEq, Repr

/-! ## Boot and image slots (chapter 20) -/

/-- An image slot of flash (R813): its state word and its manifest, and whether the manifest passed at the last selection (R826). -/
structure ImgSlot where
  magic    : Bool
  word     : BitVec 32
  manifest : List Byte
  passed   : Bool
  deriving DecidableEq, Repr

/-- Where the boot sequence of R818 stands: before step 1, before step 2, in step 4, before step 5, before step 7, in recovery (R831), stopped by a start-up
failure (R40), at its end in RESTRICTED state or in IDLE, and in STANDBY. -/
inductive BootSt where
  | off | flash | rails | edge | links | recovery | failed | restricted | idle | standby
  deriving DecidableEq, Repr

/-- The boot of the device. -/
structure Boot where
  st : BootSt
  /-- this start is a restart of the management core (R714) -/
  restart : Bool
  /-- the slot that the boot ROM selected, and the slot whose microcode and patch the fast domain holds (R828) -/
  slot   : Option Nat
  loaded : Option Nat
  /-- the rails for which the board configuration block names a regulator (R681, R811) -/
  board  : BitVec 14
  /-- the block monitor patch of the selected slot, as the boot ROM hashed it (R818, R823, R827) -/
  patch  : List Byte
  /-- count of acy when the device first reached IDLE or RESTRICTED on this start (R825) -/
  idleAt : Option Nat
  slots  : Tab ImgSlot
  /-- rollback counter and revoke fuses (R817) -/
  rollback : Nat
  revoked  : BitVec 2
  /-- AON_QSPI_CFG (R558) -/
  dummy : BitVec 4
  xip   : Bool
  deriving DecidableEq, Repr

/-! ## Thermal (chapter 22) -/

/-- A thermal site: AON_THERM_SITEs, and consecutive conversions that differ from the die's mean (R901). -/
structure Site where
  temp   : BitVec 16
  valid  : Bool
  failed : Bool
  far    : Nat
  deriving DecidableEq, Repr

/-- The thermal monitor (R881, R895); `tripAt` is the count of acy at the assertion of THERMTRIP_N. -/
structure Thermal where
  warn : Bool
  stop : Bool
  trip : Bool
  tripAt : Nat
  sites : Tab Site
  deriving DecidableEq, Repr

/-! ## Clock monitors (chapter 15) -/

/-- AON_CLKMON_d (R631). -/
structure ClkMon where
  failed : Bool
  ppm    : BitVec 16
  fails  : BitVec 32
  deriving DecidableEq, Repr

/-! ## Elette (chapter 13) -/

/-- A deferred request (R576): TAG, object, and the data of a write. -/
structure DefReq where
  tag   : Byte
  index : BitVec 16
  sub   : Byte
  write : Bool
  len   : Nat
  data  : List Byte
  /-- served, with its mailbox entry waiting for a flash copy (R614) -/
  served : Bool
  deriving DecidableEq, Repr

/-- A mailbox entry (R577). -/
structure MailEntry where
  tag    : Byte
  status : Byte
  index  : BitVec 16
  sub    : Byte
  data   : List Byte
  deriving DecidableEq, Repr

/-- What a frame does at its end (R574): a write of a fast object, a deferred request, a latch or a time sample. -/
inductive EndAct where
  | write (index : BitVec 16) (sub : Byte) (data : List Byte)
  | request (r : DefReq)
  | latch
  | sample (time : W64)
  /-- an apply that a check turned away (R662) -/
  | refused
  deriving DecidableEq, Repr

/-- The Elette frame in passage on port 0. -/
structure EltFrame where
  /-- it is processed (R566); otherwise it passes unchanged -/
  processed : Bool
  /-- what was received before the FCS -/
  bytes : List Byte
  /-- the datagrams that have not passed yet, as far as they lie in the area and before a break (R584) -/
  rest  : List Datagram
  /-- the bytes behind those datagrams, which pass unchanged (R567, R584) -/
  after : List Byte
  /-- the area is malformed -/
  bad   : Bool
  t0    : W64
  acts  : List EndAct
  /-- the datagrams as sent out -/
  out   : List Datagram
  deriving DecidableEq, Repr

/-- A line of the line buffer (R560): its number in the flash window, its 32 bytes, and whether the core has fetched from it. -/
structure LbLine where
  line    : Nat
  bytes   : List Byte
  fetched : Bool
  deriving DecidableEq, Repr

/-- The Elette engine and the management core's flash buffer (R557, R558, R560). -/
structure Elt where
  etherType : BitVec 16
  en        : Bool
  forceLoop : Bool
  phy0      : BitVec 5
  phy1      : BitVec 5
  link0     : Bool
  link1     : Bool
  looped    : Bool
  /-- what the last link poll asks of the loop (R565) -/
  loopNext  : Bool
  frames    : Nat
  fcsErr    : Nat
  malformed : Nat
  other     : Nat
  rsvCmd    : Nat
  t0        : W64
  t1        : W64
  delay     : BitVec 32
  requests  : List DefReq
  mailbox   : List MailEntry
  frame     : Option EltFrame
  /-- the last frame from port 0 as the device sent it, and the last frame returned on port 0 -/
  sent      : List Byte
  returned  : List Byte
  /-- AON_LB_MISSES, and the lines of the line buffer, the most recently fetched first (R560) -/
  misses    : Nat
  lines     : List LbLine
  /-- the branch-target buffer: branch address and target, by bits [7:2] of the branch's address (R563); an entry not listed is not valid -/
  btb       : Tab (W64 × W64)
  /-- the queued prefetches of target lines and of following lines, oldest first (R562, R563) -/
  targets   : List Nat
  following : List Nat
  deriving DecidableEq, Repr

/-! ## Authority and flash copies (chapter 14) -/

/-- What the unlock exchange keeps for one path (R615 to R620): the challenge with its time in acy, the lease as the acy of its end, the run of
failures, the end of a lockout, and the last rejection (0, or the code of R618). -/
structure Unlock where
  challenge : Option (List Byte × Nat)
  lease     : Option Nat
  run       : Nat
  lockout   : Option Nat
  rejected  : Nat
  deriving DecidableEq, Repr

/-- Who waits for a flash copy (R614): nobody, a host command, the dictionary window, or the Elette request at the head of the queue. -/
inductive Waiter where
  | none
  | command (seq : W64)
  | window
  | elette
  deriving DecidableEq, Repr

/-- A write of a flash-stored object whose flash copy has not been committed (R613). -/
structure Dirty where
  key    : Nat
  value  : Nat
  waiter : Waiter
  deriving DecidableEq, Repr

/-! ## The time base (chapter 15) -/

/-- System time and its discipline (R630, R657 to R669). -/
structure Time where
  ns   : Nat
  sec  : BitVec 32
  /-- binary fraction of a nanosecond (R657) -/
  frac : BitVec 32
  shadow : BitVec 32
  stage  : W64
  valid  : Bool
  tlock  : Bool
  flock  : Bool
  source : BitVec 2
  slewing : Bool
  refused : Bool
  /-- offset still to be slewed out, in units of 2^-32 ns -/
  slew : Int
  /-- runs of consecutive samples within 20 ns and within 50 ns (R667) -/
  run20  : Nat
  run50  : Nat
  ppsOffset  : BitVec 32
  ppsPresent : Bool
  ppsOut     : Bool
  /-- count of acy at the last PPS edge -/
  ppsLast    : Option Nat
  rtc : W64
  /-- part of an XTAL32K tick since the last one, in 25-millionths -/
  rtcFrac : Nat
  deriving DecidableEq, Repr

/-! ## Quarter clocks (chapter 15) -/

/-- The test access port (R892, R893): its instruction, what its data register last captured, the update latches of the boundary cells, and the transaction
number and the answer of the last access that DEBUG made. -/
structure Tap where
  ir    : TapIr
  out   : List Bool
  cells : List Bool
  asked : Option (BitVec 8)
  reply : Option FpPacket
  deriving DecidableEq, Repr

/-- States of a quarter PLL (R631, R646), in the order of their codes. -/
inductive PllSt where
  | off | standby | running
  deriving DecidableEq, Repr

/-- The PLL of a quarter: AON_QPLL_q (R631). -/
structure QPll where
  st       : PllSt
  starting : Bool
  mhz      : Nat
  /-- fcy that the clock has run since the last block reset, up to its last release or stop, and the device count at its last release -/
  acc      : Nat
  from_    : Nat
  /-- system time, in ns, at which the start in progress began (R647) -/
  startAt  : Nat
  /-- the quarter's clock has failed: it stays OFF until PLAN_STOP or PLAN_UNLOAD (R675) -/
  failed   : Bool
  deriving DecidableEq, Repr

/-! ## Sweeps, the repair log and the placement (chapter 17) -/

/-- An active mode 1 sweep (R751, R753): its command, quarter mask, tests and limit in ms, blocks tested, blocks failed by quarter, and the count of acy
when it started. -/
structure Sweep where
  seq    : W64
  mask   : Nat
  tests  : BitVec 4
  limit  : Nat
  tested : Nat
  failed : Tab Nat
  start  : Nat
  deriving DecidableEq, Repr

/-- A field entry of the repair log (R721). -/
structure RepairEntry where
  quarter : QuarterId
  kind    : BitVec 3
  px      : BitVec 8
  py      : BitVec 8
  reason  : BitVec 8
  detail  : BitVec 32
  time    : W64
  deriving DecidableEq, Repr

/-- A copy of a retained structure: its bytes and its update count (R694); the CRC-32C that goes with it follows from them. -/
structure RetCopy where
  bytes : List Byte
  count : BitVec 32
  deriving DecidableEq, Repr

/-- The two copies of a retained structure (R694): the one with the higher count, and the other when it has been written. -/
structure RetPair where
  newer : RetCopy
  older : Option RetCopy
  deriving DecidableEq, Repr

/-- The placement of one quarter (R741, R743): logical columns and rows offered, the physical row of each logical row, and for each logical
row the physical columns of its logical columns. -/
structure Place where
  w   : Nat
  h   : Nat
  row : List Nat
  col : List (List Nat)
  deriving DecidableEq, Repr

/-! ## The device -/

/-- The state of the device. -/
structure State where
  /-- the blocks that are listed one by one, by their numbers (BlockId): logical blocks, unplaced physical blocks and the management core -/
  blocks : Tab Block
  /-- the state of every logical block of a quarter (0 to 3), and of every unplaced physical block of a quarter (4 to 7), that `blocks` does not
  list, where that is not the state after block reset -/
  rest : Tab Block
  /-- device number and its valid flag (R28) -/
  devNum   : BitVec 7
  devValid : Bool
  plan   : PlanSt
  planId : BitVec 32
  /-- epoch exponent of the bound plan, 0 when none is bound (R50) -/
  k : Nat
  epoch : Epoch
  pl : PlanRec
  /-- the last plan identifier assigned, kept in retention SRAM (R502) -/
  lastPlanId : BitVec 32
  /-- intake and outlet bindings, by binding number -/
  intakes : Tab Intake
  outlets : Tab Outlet
  edge0 : EdgeDie
  edge1 : EdgeDie
  /-- ports P0 to P7; those not listed stand as at AON power-on -/
  ports : Tab DPort
  proxies : List Proxy
  /-- unplanned frames of KIND 1 to 3 delivered to the host bridge, the AON domain and the trace sinks (R451) -/
  arrived : List UFrame
  /-- states of E0 and E1 (0x4018 + e:01): 0 working, 1 failed self-test, 2 unreachable -/
  dies : Tab Nat
  bundle : Bundle
  /-- Elette station number (0x1100:01) -/
  station : BitVec 8
  /-- the books by index (R759) -/
  ledgers : Tab Ledger
  hif : Hif
  jnl : Jnl
  trace : TraceSys
  supply : Supply
  boot : Boot
  thermal : Thermal
  time : Time
  /-- AON_CLKMON_d by domain (R628, R631) -/
  clkmon : Tab ClkMon
  elt : Elt
  tap : Tap
  /-- the unlock exchange of the Elette path (0) and the host path (1) -/
  unlock : Tab Unlock
  /-- selectors 0x4180:01 and 0x5010:01 (R612), keyed by 4 * index + path -/
  selectors : Tab Nat
  /-- committed flash copies of flash-stored objects (R613), keyed by 256 * index + subindex -/
  flash : Tab Nat
  dirty : List Dirty
  /-- STATUS and data of the last dictionary access made by a request row -/
  dictOut : BitVec 16 × List Byte
  /-- AON_QPLL_q of Q0 to Q3 (R631) -/
  qpll : Tab QPll
  sweep : Option Sweep
  /-- field entries of the repair log, oldest first (R721) -/
  repair : List RepairEntry
  /-- the copies of the retained structures (R554, R694): 1 event counters, 2 repair log, 3 time state, 4 last plan identifier -/
  ret : Tab RetPair
  /-- placements that differ from the identity placement of R20, by quarter -/
  place : Tab Place
  /-- RESTRICTED state and its override (R528, R834) -/
  restricted : Bool
  override   : Bool
  /-- device numbers of the bound plan's system map (R352) -/
  sysDevs : List (BitVec 7)
  /-- the bound plan's unplanned route table: the port toward each device number (R419) -/
  routes : Tab Nat
  /-- health counters of R599 and the other counter objects, keyed by 256 * index + subindex -/
  health : Tab Nat
  /-- custodian public keys, by slot of 0x9020: 32 bytes; a slot not listed is empty (R621) -/
  keys : Tab (List Byte)
  /-- values of the settings of chapter 14 that have been written, keyed the same way -/
  settings : Tab Nat
  /-- bytes the device has written to host memory -/
  hostMem : Memory
  /-- packets on the links of the footpath network, oldest first (R414) -/
  footpath : List FpTransit
  /-- the count of fcy up to which a link moves the flits of the packet that it moved last (R414), by link -/
  fpBusy : Tab Nat
  /-- nodes of the footpath network that failed their test (R745), by their places -/
  fpFailed : List FpPos
  /-- the device's count of fast-domain cycles: the model's clock (DESIGN CHOICE, log entry 4) -/
  fcy : Nat
  /-- MHz of that clock, its cycles since the last acy, and the count of acy (R628, DESIGN CHOICE, log entry 4) -/
  mhz : Nat
  acyFrac : Nat
  acy : Nat
  /-- index of the next free value (DESIGN CHOICE, log entry 1); the model's own -/
  freeCount : Nat
  /-- the commands that wait, first in, first out -/
  pending : List Instr
  deriving DecidableEq, Repr

/-! ## Reset values: 0 or empty where no rule gives one (DESIGN CHOICE, log entries 13, 14) -/

def Core.reset : Core where
  g := []
  f := []
  pc := 0
  fetching := true
  stopped := false
  resumeAddr := 0
  inProgram := false
  parked := false
  ewaited := false
  ewaitCycle := 0
  ewaitValid := false
  entry := 0
  loopRemain := 0
  loopStart := 0
  loopLen := 0
  loopActive := false
  loopOld := none
  retired := 0
  stallBank := 0
  stallQueue := 0
  queueFrom := none
  cyclesFrom := 0
  longOps := []
  remLoads := []
  remStores := []
  recvs := []
  nextTxn := 0
  fault := none
  delivered := []

def Fp.reset : Fp where
  rm := 0
  flags := 0
  srState := 1
  srBase := 1
  srDraws := 0

def Bound.reset : Bound := ⟨false, 0, 0, 0⟩

def LsEntry.reset : LsEntry := ⟨0, false, 0, 0, false, 0⟩

def Unplanned.reset : Unplanned := ⟨0, false, 0, false, false, 0⟩

/-- DESIGN CHOICE, log entry 13. -/
def Priv.reset : Priv where
  ctx := .m
  mask := 7
  hold := none
  epochCtx := .m
  epochMask := 7
  tsbpM := ⟨false, 0⟩
  tsbpA := ⟨false, 0⟩
  tsbpB := ⟨false, 0⟩
  vtbA := 0
  vtbB := 0
  delegA := 0
  delegB := 0
  planned := 0
  boundIA := .reset
  boundIB := .reset
  boundLA := .reset
  boundLB := .reset
  boundLS := .reset
  pendV := false
  pendM := false
  unplanned := .reset
  lslog := [.reset, .reset, .reset, .reset]
  lsLost := 0

def Vec.reset : Vec where
  v := []
  m := []
  ac := []
  grp := 0
  dlValid := false
  dlPc := 0
  dlSource := 0
  dlReg := 0
  dlBeat := 0
  dlMore := false
  faultElem := 0
  faultValid := false
  beats := 0
  run := []

def Mtx.reset : Mtx where
  t := []
  z := []
  dlValid := false
  dlPc := 0
  dlRow := 0
  dlReg := 0
  dlZ := false
  dlMore := false
  faultRow := 0
  faultValid := false
  ops := 0
  arrayFcy := 0
  array := []
  port := []

def Msg.reset : Msg := ⟨0, 0, 0, 0, 0, 0, 0, [], [], [], 0, []⟩

def Xng.reset : Xng := ⟨0, [], 0, 0, 0, 0, [], [], [], [], []⟩

def Clk.reset : Clk where
  en := 0x39649
  mode := .run
  left := .run
  target := .run
  req := none
  wake := none
  fcyRun := 0
  fcySleep := 0
  fcyDeep := 0
  since := 0
  entries := []
  done := 0

def Trc.reset : Trc where
  en := false
  ctxMask := 0
  chanC := false
  syncInt := 0
  gtsInt := 0
  seq := 0
  pend := 0
  records := 0
  packets := 0
  drops := 0
  form := []
  formFrom := 0
  outcomes := []
  needSync := false
  lastTimed := 0
  lastGts := 0
  closed := []
  node := []

def Integ.reset : Integ := ⟨0, [], false, 0, 0⟩

/-- A block after block reset (R93 and the reset columns of its registers). DEDUCED, log entry 28. -/
def Block.reset : Block where
  core := .reset
  fp := .reset
  priv := .reset
  queue := []
  vec := .reset
  mtx := .reset
  msg := .reset
  xng := .reset
  mbox := []
  ls := []
  im := []
  patch := 0
  clk := .reset
  trc := .reset
  integ := .reset

def FaultRec.reset : FaultRec := ⟨none, 0⟩

def Gate.reset : Gate := ⟨.none, .none, false, 0, 0, 0⟩

def Epoch.reset : Epoch where
  active := false
  num := 0
  cycle := 0
  begun := false
  ended := false
  settled := false
  outcome := .none
  prev := .none
  lastRunVoid := false
  cause := 0
  streak := 0
  validCount := 0
  nxt := .reset
  decision := none
  faults := .reset
  latched := .reset
  prevRan := .none
  linkOut := []
  haltAt := none
  haltRow := 0
  lastGated := none
  bookSent := 0
  bookRecv := 0
  bookFlight := 0
  peak := 0
  peakPrev := 0
  peakTop := 0
  at0 := 0
  at0Prev := 0

def PlanRec.reset : PlanRec where
  addr := 0
  len := 0
  sha := []
  mhz := 0
  power := 0
  target := 0
  geom := []
  voidLimit := 0
  trace0 := 0
  trace1 := 0
  runPat := []
  upstream := []
  sweeps := []
  e0 := 0
  startNs := 0
  stopEpoch := 0
  lastRan := none
  seen := []
  recs := []

def EdgeDie.reset : EdgeDie := ⟨[], [], [], [], [], [], 0, 0, 0, 0, []⟩

def Vc.reset : Vc := ⟨0, 0, 0, 0, [], 0⟩

/-- DESIGN CHOICE, log entry 13. -/
def DPort.reset : DPort where
  en := true
  forceSurvey := false
  st := .down
  planned := false
  abiOk := false
  lock := false
  cause := 0
  retrains := 0
  peer := ⟨0, 0, 0, 0, 0, 0, false⟩
  flight := 0
  pad := 0
  fecCorr := 0
  fecUncorr := 0
  crcFail := 0
  retry := 0
  dropTx := 0
  dropRx := 0
  skewLast := 0
  skewMax := 0
  alignLoss := false
  badRun := 0
  stall := 0
  req := 0
  nextSeq := 0
  rxNext := 0
  replay := []
  vc0 := .reset
  vc1 := .reset
  period := 0
  txs := []
  mcycles := []
  relay := 0
  expect := 0
  msDone := 0
  txDone := 0
  queue := []
  short := 0
  sentNow := 0
  sentPrev := 0
  got := []
  due := []
  wait := []
  out := []
  bseq := 0
  nextBlk := 0
  blocks := []
  echo := 0
  echoAt := 0
  measured := none
  idents := 0
  ident := none

/-- DESIGN CHOICE, log entry 13. -/
def Queue.reset : Queue where
  sqBase := 0
  cqBase := 0
  en := false
  slog2 := 4
  vec := 0
  sqTail := 0
  sqHead := 0
  cqTail := 0
  cqHead := 0
  phase := true
  count := 1
  time := 0
  error := false
  ecode := 0
  since := 0
  sinceAt := 0
  fetched := []

/-- DESIGN CHOICE, log entry 13. -/
def MsixEntry.reset : MsixEntry := ⟨0, 0, 1⟩

/-- PRESUMED, log entry 75. -/
def PciCfg.reset : PciCfg where
  command := 0
  cacheLine := 0
  intLine := 0
  bar0 := 0
  bar2 := 0
  bar4 := 0
  devCtl := 0x2010
  linkCtl := 0
  devCtl2 := 0
  msixEn := false
  msixMask := false
  aerStatus := 0
  aerMask := 0
  aerSeverity := 0x00462030

def Hif.reset : Hif where
  cfg := .reset
  ready := false
  evtCfg := 0
  evtPend := 0
  bpAcy := 0
  bpFrom := none
  rejects := 0
  drops := 0
  queues := []
  turn := 0
  cmds := []
  comps := []
  msix := []
  pba := 0
  dictReq := 0
  dictRsp := 0
  dictData := []
  d3hot := false
  linkUp := false
  width := 0
  rate := 0
  flitMode := false
  aerCorr := 0
  aerUncorr := 0
  readOut := none

def Ledger.reset : Ledger := ⟨0, 0, 0, []⟩

def Jnl.reset : Jnl := ⟨[], 0, 0, [], none, false, [], [], 0, 0, 0, false⟩

def Sink.reset : Sink := ⟨[], 0, 0, 0, 0, 1, 0⟩

def TraceSys.reset : TraceSys := ⟨false, false, false, false, 0, 0, 0, 0, 0, [], .reset, .reset⟩

def Supply.reset : Supply where
  pfw := false
  pwr := .off
  again := false
  good := 0
  vbatLow := false
  rails := []
  latch := false
  warm := false
  failed := 0
  src := 1
  scope := 5
  rstn := none
  override := false
  overrode := false
  stuck := false
  perstn := false
  holders := []
  due := []
  owed := false
  wdt := none

/-- An erased slot. DESIGN CHOICE, log entry 14. -/
def ImgSlot.erased : ImgSlot := ⟨false, 0xFFFFFFFF, [], false⟩

/-- DESIGN CHOICE, log entry 14. -/
def Boot.reset : Boot where
  st := .off
  restart := false
  slot := none
  loaded := none
  board := 0
  patch := []
  idleAt := none
  slots := []
  rollback := 0
  revoked := 0
  dummy := 0
  xip := false

def Site.reset : Site := ⟨0, false, false, 0⟩

def Thermal.reset : Thermal := ⟨false, false, false, 0, []⟩

def ClkMon.reset : ClkMon := ⟨false, 0, 0⟩

def Elt.reset : Elt where
  etherType := 0x88B5
  en := true
  forceLoop := false
  phy0 := 0
  phy1 := 1
  link0 := false
  link1 := false
  looped := false
  loopNext := false
  frames := 0
  fcsErr := 0
  malformed := 0
  other := 0
  rsvCmd := 0
  t0 := 0
  t1 := 0
  delay := 0
  requests := []
  mailbox := []
  frame := none
  sent := []
  returned := []
  misses := 0
  lines := []
  btb := []
  targets := []
  following := []

/-- PRESUMED, log entry 76: IEEE 1149.1 has IDCODE selected at reset. -/
def Tap.reset : Tap := ⟨.idcode, [], [], none, none⟩

def Unlock.reset : Unlock := ⟨none, none, 0, none, 0⟩

def Time.reset : Time where
  ns := 0
  sec := 0
  frac := 0
  shadow := 0
  stage := 0
  valid := false
  tlock := false
  flock := false
  source := 0
  slewing := false
  refused := false
  slew := 0
  run20 := 0
  run50 := 0
  ppsOffset := 0
  ppsPresent := false
  ppsOut := false
  ppsLast := none
  rtc := 0
  rtcFrac := 0

/-- The device at AON power-on: every register at its reset value, every memory and queue empty. DESIGN CHOICE, log entries 13, 14. -/
def State.reset : State where
  blocks := []
  rest := []
  devNum := 0
  devValid := false
  plan := .empty
  planId := 0
  k := 0
  epoch := .reset
  pl := .reset
  lastPlanId := 0
  intakes := []
  outlets := []
  edge0 := .reset
  edge1 := .reset
  ports := []
  proxies := []
  arrived := []
  dies := []
  bundle := ⟨0, 0, 0, 0, 0, 0⟩
  station := 0
  ledgers := []
  hif := .reset
  jnl := .reset
  trace := .reset
  supply := .reset
  boot := .reset
  thermal := .reset
  time := .reset
  clkmon := []
  elt := .reset
  tap := .reset
  unlock := []
  selectors := []
  flash := []
  dirty := []
  dictOut := (0, [])
  qpll := []
  sweep := none
  repair := []
  ret := []
  place := []
  restricted := false
  override := false
  sysDevs := []
  routes := []
  health := []
  keys := []
  settings := []
  hostMem := []
  footpath := []
  fpBusy := []
  fpFailed := []
  fcy := 0
  mhz := 1000
  acyFrac := 0
  acy := 0
  freeCount := 0
  pending := []

/-! ## Why a step may stop -/

/-- Why the machine stops. No meaning of this model raises it at present: every effect the manual gives is a next state, and a command
whose conditions do not hold waits. SAFE. -/
inductive Fault where
  /-- raised by nothing -/
  | none
  deriving DecidableEq, Repr

/-- Why a command has no meaning. -/
inductive Refusal where
  /-- the command has no meaning yet; raised by the arms of exec alone, and SAFE -/
  | notModelled (mnemonic : String)
  deriving DecidableEq, Repr

end Sys2Proof.Machine
end

