-- ==== Sys2Proof/Machine/Ops.lean ====
section
/-! DEFINITION. The named operations over tables, memories, blocks, clocks, counters, faults and events that every meaning shares. -/

namespace Sys2Proof.Machine

/-! ## Sparse tables: keys strictly rising -/

/-- The value at key `k`, or `d` when the key is not listed. -/
def look {α : Type} (d : α) : Tab α → Nat → α
  | [], _ => d
  | (j, v) :: t, k => if k = j then v else look d t k

/-- The table with `v` at key `k`. -/
def put {α : Type} : Tab α → Nat → α → Tab α
  | [], k, v => [(k, v)]
  | (j, w) :: t, k, v =>
    if k < j then (k, v) :: (j, w) :: t
    else if k = j then (k, v) :: t
    else (j, w) :: put t k v

/-- The table without key `k`. -/
def unlist {α : Type} : Tab α → Nat → Tab α
  | [], _ => []
  | (j, w) :: t, k => if k = j then unlist t k else (j, w) :: unlist t k

/-- `v` at key `k`, where a key that is not listed reads as `d`: writing `d` removes the entry. -/
def store {α : Type} [DecidableEq α] (d : α) (t : Tab α) (k : Nat) (v : α) : Tab α :=
  if v = d then unlist t k else put t k v

/-- The canonical form: keys strictly rising and no entry equal to what a key that is not listed reads as. -/
def Tab.wf {α : Type} [DecidableEq α] (d : α) : Tab α → Bool
  | [] => true
  | [(_, v)] => decide (v ≠ d)
  | (j, v) :: (k, w) :: t => decide (j < k) && decide (v ≠ d) && Tab.wf d ((k, w) :: t)

/-- Keys strictly rising. -/
def Tab.rising {α : Type} : Tab α → Bool
  | [] => true
  | [_] => true
  | (j, _) :: (k, w) :: t => decide (j < k) && Tab.rising ((k, w) :: t)

/-! ## Bytes, little-endian (R7) -/

/-- The number that bytes spell, least significant first. -/
def leNat : List Byte → Nat
  | [] => 0
  | b :: t => b.toNat + 256 * leNat t

/-- The `n` low bytes of a number, least significant first. -/
def leBytes : Nat → Nat → List Byte
  | 0, _ => []
  | n + 1, v => BitVec.ofNat 8 v :: leBytes n (v / 256)

/-- Bytes `lo` to `lo + n - 1` of a list, as a number. -/
def leAt (l : List Byte) (lo n : Nat) : Nat := leNat ((l.drop lo).take n)

/-- `n` elements of width `w` from the low end of a number. -/
def chop (w : Nat) : Nat → Nat → List Nat
  | 0, _ => []
  | n + 1, v => v % 2 ^ w :: chop w n (v / 2 ^ w)

/-- Elements of width `w` packed from the low end. -/
def pack (w : Nat) : List Nat → Nat
  | [] => 0
  | x :: l => x % 2 ^ w + 2 ^ w * pack w l

/-- A list padded with zero bytes to length `n`. -/
def padTo (n : Nat) (l : List Byte) : List Byte := l ++ List.replicate (n - l.length) 0

/-! ## Memory -/

/-- What an unlisted byte of a memory reads as (DESIGN CHOICE, log entry 5). -/
def Memory.unlisted : Byte := 0

/-- The canonical form of a memory. -/
def Memory.wf (m : Memory) : Bool := Tab.wf Memory.unlisted m

/-- DESIGN CHOICE, log entry 5. -/
def mget (m : Memory) (a : Nat) : Byte := look Memory.unlisted m a

def mset (m : Memory) (a : Nat) (v : Byte) : Memory := store Memory.unlisted m a v

/-- `n` bytes from address `a`, ascending. -/
def mload (m : Memory) (a : Nat) : Nat → List Byte
  | 0 => []
  | n + 1 => mget m a :: mload m (a + 1) n

/-- Bytes written from address `a`, ascending. DESIGN CHOICE, log entry 5. -/
def mstore (m : Memory) (a : Nat) : List Byte → Memory
  | [] => m
  | v :: t => mstore (mset m a v) (a + 1) t

/-- `n` bytes from address `a` as a number. -/
def mloadN (m : Memory) (a n : Nat) : Nat := leNat (mload m a n)

/-! ## Contexts, modes and worlds -/

/-- The code of a context (R335). -/
def Ctx.code : Ctx → BitVec 3
  | .m => 0 | .aS => 1 | .aU => 2 | .bS => 3 | .bU => 4

/-- The context a code names; 5 to 7 are never held (R335). -/
def Ctx.ofCode : BitVec 3 → Option Ctx
  | 0 => some .m | 1 => some .aS | 2 => some .aU | 3 => some .bS | 4 => some .bU | _ => none

def Ctx.world : Ctx → Option World
  | .m => none | .aS => some .a | .aU => some .a | .bS => some .b | .bU => some .b

def Ctx.isUser : Ctx → Bool
  | .aU => true | .bU => true | _ => false

/-- The world tag that an access of a context carries (R351). -/
def Ctx.tag (c : Ctx) : WTag :=
  match c.world with
  | none => .m | some .a => .a | some .b => .b

def World.sup : World → Ctx
  | .a => .aS | .b => .bS

/-- The code of a world tag in a footpath packet (R416). -/
def WTag.code : WTag → BitVec 2
  | .a => 0 | .b => 1 | .m => 2

/-- The code of a block mode (R634). -/
def Mode.code : Mode → BitVec 2
  | .run => 0 | .sleep => 1 | .deep => 2 | .waking => 3

def Mode.ofCode : BitVec 2 → Mode
  | 0 => .run | 1 => .sleep | 2 => .deep | _ => .waking

/-- The code of a plan state (R53). -/
def PlanSt.code : PlanSt → Nat
  | .empty => 0 | .loading => 1 | .loaded => 2 | .bound => 3 | .starting => 4 | .running => 5 | .stopping => 6 | .halted => 7
  | .unloading => 8

def boolBit (b : Bool) : Nat := if b then 1 else 0

/-! ## Blocks -/

/-- The first number of an unplaced physical block (R19, R31). -/
def firstSpare : Nat := 16384

/-- The physical blocks of a quarter: 66 rows of 66 (R19). -/
def physBlocks : Nat := 4356

/-- The number of the physical block (px, py) of quarter `q` while it is not placed. -/
def physId (q px py : Nat) : BlockId := BitVec.ofNat 16 (firstSpare + physBlocks * q + 66 * py + px)

/-- The management core (R555, R556). -/
def mgmtCore : BlockId := 0xFFFF

/-- The number is the block ID of a logical block (R13). -/
def isLogical (b : BlockId) : Bool := decide (b.toNat < firstSpare)

/-- The quarter of the block with a number (R13, R19); 4 or more where the number names no block of a quarter. -/
def quarterNum (n : Nat) : Nat := if n < firstSpare then n / 4096 else (n - firstSpare) / physBlocks

/-- The key in `rest` of what the blocks of a number's kind are that `blocks` does not list: 0 to 3 the logical blocks of a quarter, 4 to 7 its unplaced
physical blocks. -/
def restKey (n : Nat) : Nat := if n < firstSpare then n / 4096 else 4 + (n - firstSpare) / physBlocks

/-- The state of a block. -/
def State.blk (s : State) (b : BlockId) : Block := look (look Block.reset s.rest (restKey b.toNat)) s.blocks b.toNat

def State.setBlk (s : State) (b : BlockId) (x : Block) : State := { s with blocks := put s.blocks b.toNat x }

def State.modBlk (s : State) (b : BlockId) (f : Block → Block) : State := s.setBlk b (f (s.blk b))

/-- Every block whose `rest` key is `k` changed by `f`: those listed, and the common state of the others. -/
def State.mapKey (s : State) (k : Nat) (f : Block → Block) : State :=
  { s with
    blocks := s.blocks.map fun e => if restKey e.1 = k then (e.1, f e.2) else e
    rest := put s.rest k (f (look Block.reset s.rest k)) }

/-- Every physical block of quarter `q` changed by `f`, placed or not. -/
def State.mapQuarter (s : State) (q : Nat) (f : Block → Block) : State := (s.mapKey q f).mapKey (4 + q) f

/-- Every block of the device changed by `f`. -/
def State.mapAll (s : State) (f : Block → Block) : State :=
  (((s.mapQuarter 0 f).mapQuarter 1 f).mapQuarter 2 f).mapQuarter 3 f

/-- The listed blocks. -/
def State.listed (s : State) : List BlockId := s.blocks.map fun e => BitVec.ofNat 16 e.1

/-- `f` done for every listed block, in ascending number: the logical blocks by block ID, then the unplaced ones. -/
def State.eachListed (s : State) (f : State → BlockId → State) : State := s.listed.foldl f s

/-- `f` done for every listed logical block, in ascending block ID. -/
def State.eachPlaced (s : State) (f : State → BlockId → State) : State := (s.listed.filter isLogical).foldl f s

/-- The quarter of a block (R13). -/
def quarterOf (b : BlockId) : Nat := quarterNum b.toNat

/-- Logical column and row of a block in its quarter (R13). -/
def colOf (b : BlockId) : Nat := b.toNat % 64
def rowOf (b : BlockId) : Nat := b.toNat / 64 % 64

/-- The block at a quarter, column and row. -/
def blockAt (q x y : Nat) : BlockId := BitVec.ofNat 16 (q * 4096 + y * 64 + x)

/-- A quarter PLL as it stands when nothing has started it. -/
def QPll.reset : QPll := ⟨.off, false, 0, 0, 0, 0, false⟩

def State.pll (s : State) (q : Nat) : QPll := look QPll.reset s.qpll q

/-- A quarter's PLL runs (R646). -/
def State.pllOn (s : State) (q : Nat) : Bool := decide ((s.pll q).st ≠ .off)

/-- The mode whose enables govern the branches: the mode being left while WAKING (R635). -/
def Clk.governing (c : Clk) : Mode := if c.mode = .waking then c.left else c.mode

/-- The enable of branch `i` in the governing mode (R633). -/
def Clk.enables (c : Clk) (i : Nat) : Bool :=
  c.en.getLsbD (3 * i + c.governing.code.toNat)

/-- The clock of a core's branches runs: its quarter's PLL, or REFCLK25 for the management core from the start of the AON domain on (R553). -/
def State.clocked (s : State) (b : BlockId) : Bool := if b = mgmtCore then decide (s.boot.st ≠ .off) else s.pllOn (quarterOf b)

/-- Branch `i` of a block ticks (R635): 0 core, 1 vector, 2 matrix, 3 message engine, 4 trace, 5 local store. -/
def State.branchTicks (s : State) (b : BlockId) (i : Nat) : Bool :=
  s.clocked b && (s.blk b).clk.enables i

/-- A quarter's count of fcy since the last block reset: a stopped PLL counts nothing (R632). -/
def State.quarterTicks (s : State) (q : Nat) : Nat :=
  let p := s.pll q
  p.acc + if p.st = .off then 0 else s.fcy - p.from_

/-- The first entry at or after `i` whose SCYCLE does not lie before cycle `c`; every entry passed over is skipped (R394). -/
def skipPast (scycle : Nat → Nat) (n c : Nat) : Nat → Nat → Nat
  | 0, i => i
  | fuel + 1, i => if i < n ∧ scycle i < c then skipPast scycle n c fuel (i + 1) else i

def SendEntry.reset : SendEntry := ⟨0, 0, false, 0, false, 0, 0, 0⟩

/-- NEXT of a message engine in epoch cycle `c` (R394). -/
def Msg.nextAt (m : Msg) (c : Nat) : Nat :=
  skipPast (fun i => (look SendEntry.reset m.send i).scycle.toNat) m.nsend.toNat c 512 m.next.toNat

/-- NEXT of a block's message engine, which moves it in each cycle in which it ticks (R394). -/
def State.msgNext (s : State) (b : BlockId) : Nat :=
  let m := (s.blk b).msg
  if s.epoch.active && s.branchTicks b 3 then m.nextAt s.epoch.cycle else m.next.toNat

/-- A block's message engine stops ticking, or its epoch ends: NEXT stands where it is. -/
def State.keepNext (s : State) (b : BlockId) : State :=
  let n := s.msgNext b
  s.modBlk b fun x => { x with msg := { x.msg with next := BitVec.ofNat 10 n } }

/-- A core's count of its own clock: the management core counts in acy (R556). -/
def State.ticks (s : State) (b : BlockId) : Nat := if b = mgmtCore then s.acy else s.quarterTicks (quarterOf b)

/-- BLK_CYCLES (R100). -/
def State.blkCycles (s : State) (b : BlockId) : Nat := s.ticks b - (s.blk b).core.cyclesFrom

/-- HOLD_LEFT at a count of fcy (R337, R362): 0 when no window is open. -/
def Priv.holdLeft (p : Priv) (now : Nat) : Nat :=
  match p.hold with
  | none => 0
  | some (n, t) => n - (now - t)

def State.holdLeft (s : State) (b : BlockId) : Nat := (s.blk b).priv.holdLeft (s.ticks b)

/-- A HOLD window is open. -/
def State.holdOpen (s : State) (b : BlockId) : Bool := decide (s.holdLeft b ≠ 0)

/-! ## Registers (R92) -/

def Core.getG (c : Core) (r : Reg) : W64 := if r = 0 then 0 else look 0 c.g r.toNat

def Core.setG (c : Core) (r : Reg) (v : W64) : Core := if r = 0 then c else { c with g := store 0 c.g r.toNat v }

def Core.getF (c : Core) (r : Reg) : W64 := look 0 c.f r.toNat

def Core.setF (c : Core) (r : Reg) (v : W64) : Core := { c with f := store 0 c.f r.toNat v }

/-! ## Time and counters -/

/-- System time in the TIME64 layout (R588). DESIGN CHOICE, log entry 48. -/
def State.time64 (s : State) : W64 := BitVec.ofNat 64 (s.time.ns + s.time.sec.toNat * 2 ^ 32)

/-- System time in nanoseconds. -/
def State.timeNs (s : State) : Nat := s.time.sec.toNat * 1000000000 + s.time.ns

/-! ## Retained structures (R554, R694) -/

/-- A structure after an update: the copy with the lower count is rewritten, and gets the higher one. -/
def RetPair.next (p : Option RetPair) (l : List Byte) : RetPair :=
  match p with
  | none => ⟨⟨l, 1⟩, none⟩
  | some p => ⟨⟨l, p.newer.count + 1⟩, some p.newer⟩

/-- Retained structure `n` is updated to the bytes `l`. -/
def State.retain (s : State) (n : Nat) (l : List Byte) : State :=
  { s with ret := put s.ret n (RetPair.next ((s.ret.find? fun e => decide (e.1 = n)).map Prod.snd) l) }

/-- Counters that retention keeps across a warm start (the Rt objects of R598, R599 and R602). -/
def retainedCount (key : Nat) : Bool :=
  let i := key / 256
  decide (i = 0x4001 ∨ (0x4010 ≤ i ∧ i < 0x4014) ∨ (0x2110 ≤ i ∧ i < 0x2114) ∨ key = 0x220002 ∨ key = 0x903002)

/-- The bytes of the retained structures. Their layout is a DESIGN CHOICE, log entry 77. -/
def counterBytes (t : Tab Nat) : List Byte := (t.filter fun e => retainedCount e.1).flatMap fun e => leBytes 4 e.1 ++ leBytes 8 e.2

/-- The 16 bytes of a repair log entry (R721). -/
def RepairEntry.bytes (e : RepairEntry) : List Byte :=
  leBytes 1 (e.quarter.toNat + 4 * e.kind.toNat) ++ [e.px, e.py, e.reason] ++ leBytes 4 e.detail.toNat ++ leBytes 8 e.time.toNat

/-- The records of the persistent store in flash (R812). They stand in `ret` beside the retained structures, under numbers of their own: two copies each,
with an update count and a CRC-32C. DESIGN CHOICE, log entry 77. -/
def recGeneration : Nat := 16
def recChallenge  : Nat := 17
def recRepair     : Nat := 18
def recObjects    : Nat := 19

/-- The repair log becomes `l`; its retained copy and its flash copy follow (R722). DESIGN CHOICE, log entry 77. -/
def State.setRepair (s : State) (l : List RepairEntry) : State :=
  ({ s with repair := l }.retain 2 (l.flatMap RepairEntry.bytes)).retain recRepair (l.flatMap RepairEntry.bytes)

/-- Key of 0x9030:01, the count of challenges issued. -/
def challengeKey : Nat := 0x903001

/-- The bytes of the record of flash-stored objects, in index and subindex order. -/
def objectBytes (t : Tab Nat) : List Byte := (t.filter fun e => !decide (e.1 = challengeKey)).flatMap fun e => leBytes 4 e.1 ++ leBytes 32 e.2

/-- The flash copies of the objects become `t`, with the older copy of their record rewritten (R613). -/
def State.setFlash (s : State) (t : Tab Nat) : State := { s with flash := t }.retain recObjects (objectBytes t)

/-- The time state that the loss of VAON18 leaves (R671). -/
def Time.bytes (t : Time) : List Byte := leBytes 4 t.ns ++ leBytes 4 t.sec.toNat ++ leBytes 8 t.rtc.toNat ++ [if t.valid then 1 else 0]

/-- A counter that retention keeps has changed: its structure is updated. -/
def State.keepCounter (s : State) (key : Nat) : State := if retainedCount key then s.retain 1 (counterBytes s.health) else s

/-- Every retained structure is written anew, as after a cold start. -/
def State.freshRetention (s : State) : State :=
  { s with ret := [(1, ⟨⟨counterBytes s.health, 1⟩, none⟩), (2, ⟨⟨s.repair.flatMap RepairEntry.bytes, 1⟩, none⟩), (3, ⟨⟨s.time.bytes, 1⟩, none⟩),
                   (4, ⟨⟨leBytes 4 s.lastPlanId.toNat, 1⟩, none⟩)] ++ s.ret.filter fun e => decide (recGeneration ≤ e.1) }

/-- Adds `n` to the counter object index : sub, 64 bits wide, which saturates (R611). -/
def State.bump (s : State) (index sub : Nat) (n : Nat := 1) : State :=
  let key := 256 * index + sub
  { s with health := store 0 s.health key (min (look 0 s.health key + n) (2 ^ 64 - 1)) }.keepCounter key

/-- Adds `n` to a counting term of a ledger, which wraps (R611, R779). -/
def State.bumpTerm (s : State) (key : Nat) (n : Nat) : State :=
  { s with health := store 0 s.health key ((look 0 s.health key + n) % 2 ^ 64) }

/-- A counter object set to `v`. -/
def State.setCounter (s : State) (index sub v : Nat) : State :=
  { s with health := store 0 s.health (256 * index + sub) v }.keepCounter (256 * index + sub)

def State.counter (s : State) (index sub : Nat) : Nat := look 0 s.health (256 * index + sub)

/-- Default of a setting, by 256 * index + subindex, where it is not 0 (chapter 14). DESIGN CHOICE, log entry 14. -/
def settingDefault (key : Nat) : Nat :=
  match key with
  | 0x600101 => 4096 | 0x600102 => 65536 | 0x600103 => 1
  | 0x110002 => 0x88B5 | 0x112001 => 1 | 0x112004 => 1
  | 0x222001 => 1 | 0x222002 => 2000 | 0x302003 => 1 | 0x900101 => 1 | 0x900102 => 1
  | 0x700017 => 1 | 0x701017 => 1 | 0x702017 => 1 | 0x703017 => 1 | 0x704017 => 1 | 0x705017 => 1 | 0x706017 => 1 | 0x707017 => 1
  | _ => 0

/-- The value of a setting of chapter 14. -/
def State.setting (s : State) (index sub : Nat) : Nat := look (settingDefault (256 * index + sub)) s.settings (256 * index + sub)

/-- The next free value (DESIGN CHOICE, log entry 1). -/
def State.free (s : State) : W64 := Config.freeWord s.freeCount

/-- DESIGN CHOICE, log entry 1. -/
def State.useFree (s : State) (n : Nat := 1) : State := { s with freeCount := s.freeCount + n }

/-! ## Ledgers (R759, R760) -/

/-- Keys of the words of the message book that were sent and received since PLAN_BIND (R763, R764). -/
def ledgerSent : Nat := 0xA000 * 256 + 0x110
def ledgerReceived : Nat := 0xA000 * 256 + 0x111

def State.ledger (s : State) (index : Nat) : Ledger := look Ledger.reset s.ledgers index

/-- A window of a book opens (R760). -/
def State.openBook (s : State) (index : Nat) : State :=
  { s with ledgers := put s.ledgers index { s.ledger index with state := 1 } }

/-- `n` words are sent or received: a change opens the window of the message book. -/
def State.moveWords (s : State) (key n : Nat) : State := if n = 0 then s else (s.bumpTerm key n).openBook 0xA000
def State.sentWords (s : State) (n : Nat) : State := s.moveWords ledgerSent n
def State.receivedWords (s : State) (n : Nat) : State := s.moveWords ledgerReceived n

/-- A book settles (R760): 0 when it balances, 2 and one more failure when it does not. -/
def State.settleBook (s : State) (index : Nat) (ok : Bool) (terms : List Nat) : State :=
  let l := s.ledger index
  let l : Ledger := ⟨if ok then 0 else 2, if ok then l.fails else min (l.fails + 1) (2 ^ 64 - 1), s.time64, terms⟩
  { s with ledgers := put s.ledgers index l }

/-! ## Events (R528, R539, R540) -/

/-- FLAGS of a record whose content is fixed now (R528). -/
def State.recFlags (s : State) : BitVec 16 :=
  BitVec.ofNat 16 (boolBit s.time.valid + 2 * boolBit s.override + 4 * boolBit s.restricted)

/-- Adds an event to the summary counter of its kind, which opens if it was closed (R540). -/
def addSummary (e : Event) : List Summary → List Summary
  | [] => [⟨e.kind, 1, e.time, e.time, e.flags⟩]
  | c :: t => if c.kind = e.kind then { c with count := c.count + 1, last := e.time, flags := e.flags } :: t else c :: addSummary e t

/-- An event enters the FIFO, or a summary counter when the FIFO is full or a counter is open (R539, R540). -/
def Jnl.accept (j : Jnl) (e : Event) : Jnl :=
  let j : Jnl := { j with damaged := j.damaged || decide (e.kind = 0x0A00) }
  if j.counters = [] ∧ j.fifo.length < 128 then
    { j with raised := j.raised + 1, fifo := j.fifo ++ [.event e] }
  else
    { j with raised := j.raised + 1, counters := addSummary e j.counters }

/-- Raises an event, with PATH of its FLAGS (R528). -/
def State.raisePath (s : State) (path : Nat) (kind : Nat) (ref result : W64) (tag : W64 := 0) : State :=
  let e : Event := ⟨BitVec.ofNat 16 kind, ref, result, tag, s.time64, s.recFlags ||| BitVec.ofNat 16 (8 * path)⟩
  let s : State := { s with jnl := s.jnl.accept e }
  s.openBook 0xA003

def State.raise (s : State) (kind : Nat) (ref result : W64) (tag : W64 := 0) : State := s.raisePath 0 kind ref result tag

/-! ## Faults that void an epoch (R84, R85, R86) -/

/-- Rows of the fault table of R84, counted from 1. -/
def rowUncorrectable : Nat := 2
def rowLate : Nat := 3
def rowHoldOverflow : Nat := 4
def rowOverrun : Nat := 5
def rowTrap : Nat := 6
def rowLink : Nat := 7
def rowStreak : Nat := 8
def rowGateTimeout : Nat := 9
def rowMilestone : Nat := 10
def rowClock : Nat := 11
def rowThermal : Nat := 12
def rowThermtrip : Nat := 13

/-- The block number that stands for a fault that is not in a block (R530). -/
def noBlock : BitVec 16 := 0xFFFF

/-- The record of an epoch with one more voiding fault (R86). -/
def FaultRec.add (f : FaultRec) (row : Nat) (blk : BitVec 16) : FaultRec :=
  match f.first with
  | none => { f with first := some (BitVec.ofNat 8 row, blk) }
  | some _ => { f with further := f.further + 1 }

/-- The epoch in progress, in its cycles 0 to 2^k − 1: a voiding fault raised now is charged to it, but in a bubble epoch (R85). -/
def Epoch.charges (e : Epoch) : Bool := e.active && (!e.begun || decide (e.outcome = .run))

/-- Charges a fault that voids to the epoch in progress (R71, R85, R86). -/
def State.charge (s : State) (row : Nat) (blk : BitVec 16) : State :=
  if s.epoch.charges then { s with epoch := { s.epoch with faults := s.epoch.faults.add row blk } } else s

/-- A block's number as kind 0x0100 events carry it (R530). -/
def blkRef (b : BlockId) : BitVec 16 := b.zeroExtend 16

/-- The epoch program of a running epoch may run: the running part of a running epoch (R47). -/
def State.runningPart (s : State) : Bool :=
  s.epoch.active && s.epoch.begun && decide (s.epoch.outcome = .run) && decide (s.plan ≠ .halted)

end Sys2Proof.Machine
end

