-- ==== Sys2Proof/Machine/Fec.lean ====
section
/-! DEFINITION. The wire of a Dzixon link: the FEC code (R426, R427, R429), and the symbol order, lanes, scrambler and PAM4 levels of a block (R428). Elements
of GF(2^10) and coefficients of polynomials are numbers below 1,024. -/

namespace Sys2Proof.Machine

/-! ## GF(2^10), with field polynomial x^10 + x^3 + 1 (R427) -/

/-- Times α, which is x. -/
def gfTwice (a : Nat) : Nat := if a < 512 then 2 * a else (2 * a) ^^^ 0x409

/-- The product, over the `n` low bits of `b`. -/
def gfMulBits : Nat → Nat → Nat → Nat
  | 0, _, _ => 0
  | n + 1, a, b => (if b % 2 = 1 then a else 0) ^^^ gfMulBits n (gfTwice a) (b / 2)

def gfMul (a b : Nat) : Nat := if a = 0 then 0 else if b = 0 then 0 else gfMulBits 10 a b

/-- α^n. -/
def gfAlpha : Nat → Nat
  | 0 => 1
  | n + 1 => gfTwice (gfAlpha n)

/-- a^(2^n − 1), so that n = 10 gives 1 for a ≠ 0. -/
def gfOnes : Nat → Nat → Nat
  | 0, _ => 1
  | n + 1, a => gfMul (gfMul (gfOnes n a) (gfOnes n a)) a

/-- The inverse of a ≠ 0: a^1022, the square of a^511. -/
def gfInv (a : Nat) : Nat := gfMul (gfOnes 9 a) (gfOnes 9 a)

/-! ## Polynomials: the constant term first -/

def polyAdd : List Nat → List Nat → List Nat
  | [], q => q
  | p, [] => p
  | a :: p, b :: q => (a ^^^ b) :: polyAdd p q

def polyScale (c : Nat) (p : List Nat) : List Nat := p.map (gfMul c)

def polyMul : List Nat → List Nat → List Nat
  | [], _ => []
  | a :: p, q => polyAdd (polyScale a q) (0 :: polyMul p q)

/-- The value at `x`. -/
def polyAt (p : List Nat) (x : Nat) : Nat := p.foldr (fun a v => a ^^^ gfMul v x) 0

/-- The degree, with zeros at the end left out. -/
def polyDeg (p : List Nat) : Nat := (p.reverse.dropWhile fun a => decide (a = 0)).length - 1

/-- The generator polynomial: the product of x − α^i for i from 0 to 13 (R427). -/
def rsGenerator : List Nat := (List.range 14).foldl (fun g i => polyMul [gfAlpha i, 1] g) [1]

/-! ## One codeword: 258 message symbols, the coefficients of x^271 down to x^14, and 14 parity symbols, those of x^13 down to x^0 -/

/-- One symbol through the divider by the generator: `r` is the remainder, its highest coefficient first, `g` the generator's lower coefficients alike. -/
def rsShift (g r : List Nat) (m : Nat) : List Nat :=
  let f := m ^^^ r.headD 0
  List.zipWith (fun a c => a ^^^ gfMul f c) (r.tail ++ [0]) g

/-- The parity symbols of a message. -/
def rsParity (msg : List Nat) : List Nat :=
  msg.foldl (rsShift (rsGenerator.reverse.drop 1)) (List.replicate 14 0)

/-- The syndromes: the word's values at α^0 to α^13. -/
def rsSyndromes (word : List Nat) : List Nat :=
  (List.range 14).map fun i => let x := gfAlpha i; word.foldl (fun v a => gfMul v x ^^^ a) 0

/-- The search for the shortest error locator: the locator, the one before its last growth, its length, the shift between the two and the last discrepancy. -/
structure RsSearch where
  loc  : List Nat
  old  : List Nat
  len  : Nat
  gap  : Nat
  last : Nat

/-- One step of the search, at syndrome `n`. -/
def RsSearch.next (t : RsSearch) (syn : List Nat) (n : Nat) : RsSearch :=
  let d := (List.range (t.len + 1)).foldl (fun v i => v ^^^ gfMul (t.loc.getD i 0) (syn.getD (n - i) 0)) 0
  if d = 0 then { t with gap := t.gap + 1 }
  else
    let loc := polyAdd t.loc (List.replicate t.gap 0 ++ polyScale (gfMul d (gfInv t.last)) t.old)
    if n < 2 * t.len then { t with loc := loc, gap := t.gap + 1 }
    else ⟨loc, t.loc, n + 1 - t.len, 1, d⟩

/-- The error locator of the syndromes. -/
def rsLocator (syn : List Nat) : List Nat := ((List.range 14).foldl (fun (t : RsSearch) n => t.next syn n) ⟨[1], [1], 0, 1, 1⟩).loc

/-- The value of the error at the coefficient of x^p. -/
def rsError (syn loc : List Nat) (p : Nat) : Nat :=
  let x := gfAlpha p
  let y := gfInv x
  let omega := (polyMul syn loc).take 14
  let slope := loc.zipIdx.foldl (fun v e => if e.2 % 2 = 1 then v ^^^ gfMul e.1 (polyAt (List.replicate (e.2 - 1) 0 ++ [1]) y) else v) 0
  gfMul x (gfMul (polyAt omega y) (gfInv slope))

/-- The decoded word and the symbols corrected, at most 7; none when it is uncorrectable (R427, R429). -/
def rsDecode (word : List Nat) : Option (List Nat × Nat) :=
  let syn := rsSyndromes word
  if syn.all fun v => decide (v = 0) then some (word, 0)
  else
    let loc := rsLocator syn
    let n := polyDeg loc
    let at_ := (List.range 272).filter fun p => decide (polyAt loc (gfInv (gfAlpha p)) = 0)
    let fixed := at_.foldl (fun w p => w.modify (271 - p) fun a => a ^^^ rsError syn loc p) word
    if n ≤ 7 ∧ at_.length = n ∧ ((rsSyndromes fixed).all fun v => decide (v = 0)) then some (fixed, n) else none

/-! ## A block: 1,290 data bytes in four codewords (R426) -/

/-- Elements 4k + `i` of a list, in order. -/
def everyFourth : List Nat → Nat → List Nat
  | [], _ => []
  | a :: l, 0 => a :: everyFourth l 3
  | _ :: l, i + 1 => everyFourth l i

/-- Four lists of one length woven: the first elements of all, then the second ones, and so on. -/
def weave : List Nat → List Nat → List Nat → List Nat → List Nat
  | a :: l, b :: m, c :: n, d :: o => a :: b :: c :: d :: weave l m n o
  | _, _, _, _ => []

/-- The symbols of a block in wire order (R428): for j from 0 to 271, symbol j of each codeword. -/
def fecSymbols (bytes : List Byte) : List Nat :=
  let m := chop 10 1032 (leNat bytes)
  let word i := let msg := everyFourth m i; msg ++ rsParity msg
  weave (word 0) (word 1) (word 2) (word 3)

/-- The data bytes of a block's symbols, and the symbols corrected; none when a codeword is uncorrectable (R429). -/
def fecData (syms : List Nat) : Option (List Byte × Nat) :=
  match rsDecode (everyFourth syms 0), rsDecode (everyFourth syms 1), rsDecode (everyFourth syms 2), rsDecode (everyFourth syms 3) with
  | some a, some b, some c, some d =>
    some (leBytes 1290 (pack 10 (weave (a.1.take 258) (b.1.take 258) (c.1.take 258) (d.1.take 258))), a.2 + b.2 + c.2 + d.2)
  | _, _, _, _ => none

/-! ## The lanes (R428). A unit interval is a word of 16 bits, of which lane l has bits 2l and 2l + 1 -/

/-- The bits that come first in time of each lane. -/
def evens : Nat := 0x5555

/-- The scrambler bits of the unit interval after 16 others, the latest first: on each lane the bit is that of 31 bits before plus that of 28 before. -/
def scrambleNext (l : List Nat) : Nat :=
  let a := l.getD 15 0 >>> 1
  let b := l.getD 14 0
  let c := l.getD 13 0
  ((a ^^^ c) &&& evens) ||| ((((b &&& evens) <<< 1) ^^^ c) &&& (evens <<< 1))

/-- The scrambler bits of `n` more unit intervals. -/
def scrambled : Nat → List Nat → List Nat
  | 0, _ => []
  | n + 1, l => let w := scrambleNext l; w :: scrambled n (w :: l.take 15)

/-- What stands before a block's first unit interval: each lane's seed, lane number + 1, its least significant bit the latest. DESIGN CHOICE, log entry
71. -/
def scrambleSeed : List Nat :=
  let bits (lo hi : Nat) : Nat := pack 2 ((List.range 8).map fun lane => (lane + 1) / 2 ^ hi % 2 + 2 * ((lane + 1) / 2 ^ lo % 2))
  bits 0 1 :: bits 2 3 :: List.replicate 14 0

/-- Bits b and b + 1 as PAM4 levels (R428), 0 to 3 for −3, −1, +1 and +3: the Gray code 00, 01, 11, 10. -/
def toLevels (w : Nat) : Nat := w ^^^ ((w >>> 1) &&& evens)

/-- The bits of the levels. -/
def ofLevels (w : Nat) : Nat := w ^^^ ((w >>> 1) &&& evens)

/-- What a port puts on its lanes for a block: the levels of 680 unit intervals (R426 to R428). -/
def fecEncode (bytes : List Byte) : List (BitVec 16) :=
  List.zipWith (fun w z => BitVec.ofNat 16 (toLevels (w ^^^ z))) (chop 16 680 (pack 10 (fecSymbols bytes))) (scrambled 680 scrambleSeed)

/-- What a port reads from its lanes: the data bytes of a block and the symbols corrected; none when a codeword is uncorrectable (R429). -/
def fecDecode (wire : List (BitVec 16)) : Option (List Byte × Nat) :=
  let words := List.zipWith (fun w z => ofLevels w.toNat ^^^ z) (wire ++ List.replicate (680 - wire.length) 0) (scrambled 680 scrambleSeed)
  fecData (chop 10 1088 (pack 16 words))

end Sys2Proof.Machine
end

