-- ==== Sys2Proof/Machine/Errors.lean ====
section
/-! DEFINITION. Corrected and uncorrectable errors of a block: the health counters, the counts toward retirement and the candidates (R722 to
R737). -/

namespace Sys2Proof.Machine

/-- The placement of a quarter with no non-working block (R20, R741). -/
def Place.identity : Place := ⟨64, 64, List.range' 1 64, List.replicate 64 (List.range' 1 64)⟩

def State.placeOf (s : State) (q : Nat) : Place := look Place.identity s.place q

/-- The physical column and row on which a logical block lies in its quarter (R32). -/
def State.physOf (s : State) (b : BlockId) : Nat × Nat :=
  if !isLogical b then ((b.toNat - firstSpare) % 66, (b.toNat - firstSpare) / 66 % 66) else
  let p := s.placeOf (quarterOf b)
  (((p.col[rowOf b]?.getD [])[colOf b]?).getD 255, (p.row[rowOf b]?).getD 255)

/-- The logical position of a physical one, in a placement. -/
def Place.logical (p : Place) (px py : Nat) : Option (Nat × Nat) :=
  match p.row.findIdx? (fun r => decide (r = py)) with
  | none => none
  | some y => ((p.col[y]?.getD []).findIdx? fun c => decide (c = px)).map fun x => (x, y)

/-- The number names a core that is there: a logical block of its quarter's placement (R744), a physical block that the placement leaves out (R31), or
the management core. -/
def State.present (s : State) (b : BlockId) : Bool :=
  if b = mgmtCore then true
  else
    let p := s.placeOf (quarterOf b)
    if isLogical b then decide (colOf b < p.w) && decide (rowOf b < p.h)
    else decide (quarterOf b < 4) && (p.logical (s.physOf b).1 (s.physOf b).2).isNone

/-- RESULT of a kind 0x0600 event (R724). -/
def repairResult (code px py reason w h : Nat) : W64 :=
  BitVec.ofNat 64 (code + px * 2 ^ 8 + py * 2 ^ 16 + reason * 2 ^ 24 + w * 2 ^ 32 + h * 2 ^ 40)

/-- A factory entry from its 16 bytes (R721). -/
def factoryEntry (v : BitVec 128) : RepairEntry :=
  ⟨v.extractLsb' 0 2, v.extractLsb' 2 3, v.extractLsb' 8 8, v.extractLsb' 16 8, v.extractLsb' 24 8, v.extractLsb' 32 32, v.extractLsb' 64 64⟩

/-- A physical block is named by an entry, or its row by a kind 2 entry. -/
def RepairEntry.names (e : RepairEntry) (q px py : Nat) : Bool :=
  decide (e.quarter.toNat = q ∧ e.py.toNat = py) && (decide (e.kind = 2) || decide (e.px.toNat = px))

/-- Makes the physical block a candidate (R723, R736, R737), unless the log names it, or its row, already. -/
def State.candidateAt (s : State) (q : QuarterId) (px py reason detail : Nat) : State :=
  let px8 := BitVec.ofNat 8 px
  let py8 := BitVec.ofNat 8 py
  if (s.repair.any fun e => e.names q.toNat px py) || (Config.factoryRepair.any fun v => (factoryEntry v).names q.toNat px py) then s
  else if 768 ≤ s.repair.length then
    s.raise 0x0600 (BitVec.ofNat 64 q.toNat) (repairResult 5 px py reason 0 0)
  else
    let e : RepairEntry := ⟨q, 3, px8, py8, BitVec.ofNat 8 reason, BitVec.ofNat 32 detail, s.time64⟩
    (s.setRepair (s.repair ++ [e])).raise 0x0600 (BitVec.ofNat 64 q.toNat) (repairResult 1 px py reason 0 0)

def State.candidate (s : State) (b : BlockId) (reason detail : Nat) : State :=
  s.candidateAt (BitVec.ofNat 2 (quarterOf b)) (s.physOf b).1 (s.physOf b).2 reason detail

/-- The threshold window of R736: 600 s. -/
def windowNs : Nat := 600 * 1000000000

/-- The notes of the window that ends now. DEDUCED, log entry 27. -/
def recent (now : Nat) (l : List ErrNote) : List ErrNote := l.filter fun e => decide (now < e.time + windowNs)

def State.setNotes (s : State) (b : BlockId) (l : List ErrNote) : State :=
  s.modBlk b fun x => { x with integ := { x.integ with notes := l } }

/-- Counts one error toward the row of R736 with `reason`, which makes a candidate when `limit` is reached. DEDUCED, log entry 27. -/
def State.note (s : State) (b : BlockId) (reason word limit : Nat) : State :=
  if b = mgmtCore then s else
  let now := s.timeNs
  let l := recent now ((s.blk b).integ.notes ++ [⟨reason, word, now, false⟩])
  let n := (l.filter fun e => decide (e.reason = reason)).length
  let s := s.setNotes b l
  if limit ≤ n then s.candidate b reason n else s

/-- Corrected and uncorrectable errors of retention SRAM that the management core meets: 0x4001:03 and :04. -/
def State.retentionCorrected (s : State) : State := s.bump 0x4001 3
def State.retentionLost (s : State) : State := s.bump 0x4001 4

/-- A corrected error in the local-store word at `word` (R725, R736 reason 3); the management core's firmware data are a part of retention SRAM. -/
def State.corrected (s : State) (b : BlockId) (word : Nat) : State :=
  if b = mgmtCore then s.retentionCorrected else
  let s := (s.bump (0x4010 + quarterOf b) 1).note b 3 word 32
  let n := ((s.blk b).integ.notes.filter fun e => decide (e.reason = 3 ∧ e.word = word)).length
  if 3 ≤ n then s.candidate b 3 n else s

/-- A corrected error in instruction memory (R725, R736 reason 4). -/
def State.correctedIm (s : State) (b : BlockId) (word : Nat) : State :=
  (s.bump (0x4010 + quarterOf b) 1).note b 4 word 8

/-- An uncorrectable error at a word of local store or instruction memory: counted, and a second one after a write of that word makes a
candidate (R736 reason 5). -/
def State.uncorrectable (s : State) (b : BlockId) (word : Nat) : State :=
  if b = mgmtCore then s.retentionLost else
  let s := s.bump (0x4010 + quarterOf b) 2
  let now := s.timeNs
  let l := recent now (s.blk b).integ.notes
  let again := l.any fun e => decide (e.reason = 5 ∧ e.word = word) && e.written
  let s := s.setNotes b (l ++ [⟨5, word, now, false⟩])
  if again then s.candidate b 5 2 else s

/-- A write of `n` bytes at `a`: an uncorrectable word it covers has been written since (R736 reason 5). -/
def markWritten (a n : Nat) (l : List ErrNote) : List ErrNote :=
  l.map fun e => if e.reason = 5 ∧ e.word < a + n ∧ a < e.word + 8 then { e with written := true } else e

end Sys2Proof.Machine
end

