-- ==== Sys2Proof/Machine/Float.lean ====
section
/-! DEFINITION. The number formats and the arithmetic rules of chapter 05: exact values, one rounding, special values, flags, conversions and
microscaling. Every operation computes the exact value first and narrows it once. -/

namespace Sys2Proof.Machine

/-! ## Formats (R185 to R190) -/

/-- How a format spells its special values (R186): IEEE style, FP8-E4M3 (two NaNs, no infinity), or none. -/
inductive Special where
  | ieee | e4m3 | none
  deriving DecidableEq, Repr

/-- A floating-point element format (R185): exponent bits, fraction bits, bias. -/
structure FFmt where
  ew   : Nat
  fw   : Nat
  bias : Nat
  spec : Special
  deriving DecidableEq, Repr

def FFmt.f64 : FFmt := ⟨11, 52, 1023, .ieee⟩
def FFmt.f32 : FFmt := ⟨8, 23, 127, .ieee⟩
def FFmt.f16 : FFmt := ⟨5, 10, 15, .ieee⟩
def FFmt.bf16 : FFmt := ⟨8, 7, 127, .ieee⟩
def FFmt.e5m2 : FFmt := ⟨5, 2, 15, .ieee⟩
def FFmt.e4m3 : FFmt := ⟨4, 3, 7, .e4m3⟩
def FFmt.e3m2 : FFmt := ⟨3, 2, 3, .none⟩
def FFmt.e2m3 : FFmt := ⟨2, 3, 1, .none⟩
def FFmt.e2m1 : FFmt := ⟨2, 1, 1, .none⟩

/-- Width in bits. -/
def FFmt.width (f : FFmt) : Nat := 1 + f.ew + f.fw

/-- The sign bit's weight. -/
def FFmt.signBit (f : FFmt) : Nat := 2 ^ (f.ew + f.fw)

/-- The canonical NaN (R187). -/
def FFmt.nan (f : FFmt) : Nat :=
  match f.spec with
  | .ieee => (2 ^ f.ew - 1) * 2 ^ f.fw + 2 ^ (f.fw - 1)
  | .e4m3 => 0x7F
  | .none => 0

/-- The encoding of the largest finite magnitude (R185, R186). -/
def FFmt.maxBits (f : FFmt) : Nat :=
  match f.spec with
  | .ieee => (2 ^ f.ew - 1) * 2 ^ f.fw - 1
  | .e4m3 => 0x7E
  | .none => 2 ^ (f.ew + f.fw) - 1

/-- The encoding of +∞ where the format has one. -/
def FFmt.infBits (f : FFmt) : Nat := (2 ^ f.ew - 1) * 2 ^ f.fw

/-- The exponent of the smallest subnormal. -/
def FFmt.qmin (f : FFmt) : Int := 1 - (f.bias : Int) - f.fw

/-- A value: a NaN, an infinity, or m × 2^e with a sign; m = 0 is a signed zero. -/
inductive FV where
  | nan (signalling : Bool)
  | inf (neg : Bool)
  | fin (neg : Bool) (m : Nat) (e : Int)
  deriving DecidableEq, Repr

/-- The value that bits encode (R185, R186). -/
def FFmt.decode (f : FFmt) (x : Nat) : FV :=
  let x := x % 2 ^ f.width
  let neg := decide (f.signBit ≤ x)
  let mag := x % f.signBit
  let e := mag / 2 ^ f.fw
  let fr := mag % 2 ^ f.fw
  let fin : FV := if e = 0 then .fin neg fr f.qmin else .fin neg (2 ^ f.fw + fr) (f.qmin + (e - 1 : Nat))
  match f.spec with
  | .ieee =>
    if e = 2 ^ f.ew - 1 then
      if fr = 0 then .inf neg else .nan (decide (fr < 2 ^ (f.fw - 1)))
    else fin
  | .e4m3 => if mag = 0x7F then .nan false else fin
  | .none => fin

/-! ## Flags (R193, R219): SAT NV DZ OF UF NX -/

def fNX : BitVec 6 := 1
def fUF : BitVec 6 := 2
def fOF : BitVec 6 := 4
def fDZ : BitVec 6 := 8
def fNV : BitVec 6 := 16
def fSAT : BitVec 6 := 32

def flagIf (b : Bool) (f : BitVec 6) : BitVec 6 := if b then f else 0

/-! ## Rounding (R199 to R203) -/

/-- Rounding modes (R144). -/
inductive Rm where
  | rne | rtz | rdn | rup | rna | rsr
  deriving DecidableEq, Repr

/-- The mode that a resolved rm field names. -/
def Rm.of : BitVec 3 → Rm
  | 0 => .rne | 1 => .rtz | 2 => .rdn | 3 => .rup | 4 => .rna | 5 => .rsr | _ => .rne

/-- The magnitude `n + rem / 2^k` goes up to `n + 1` (R199, R202): `draw` is the value drawn in rsr. -/
def Rm.up (rm : Rm) (draw : Nat) (neg : Bool) (n rem k : Nat) : Bool :=
  match rm with
  | .rne => decide (2 ^ k < 2 * rem) || (decide (2 * rem = 2 ^ k) && decide (n % 2 = 1))
  | .rtz => false
  | .rdn => neg && decide (rem ≠ 0)
  | .rup => !neg && decide (rem ≠ 0)
  | .rna => decide (2 ^ k ≤ 2 * rem) && decide (rem ≠ 0)
  | .rsr => decide (2 ^ 32 ≤ rem * 2 ^ 32 / 2 ^ k + draw)

/-- The magnitude m × 2^e on the grid of multiples of 2^q: the multiple taken, and whether it differs from the magnitude. -/
def roundAt (rm : Rm) (draw : Nat) (neg : Bool) (m : Nat) (e q : Int) : Nat × Bool :=
  if q ≤ e then (m * 2 ^ (e - q).toNat, false)
  else
    let k := (q - e).toNat
    let n := m / 2 ^ k
    let rem := m % 2 ^ k
    (if rm.up draw neg n rem k then n + 1 else n, decide (rem ≠ 0))

/-- The exponent of the leading bit of m × 2^e. -/
def leadExp (m : Nat) (e : Int) : Int := e + (Nat.log2 m : Int)

/-- The grid spacing on which a format rounds a magnitude: its precision, or that of the subnormals (R199). -/
def FFmt.quantum (f : FFmt) (m : Nat) (e : Int) : Int := max (leadExp m e - f.fw) f.qmin

/-- The result when the rounded magnitude exceeds the largest finite value (R200, R214). -/
def FFmt.overflow (f : FFmt) (rm : Rm) (neg : Bool) : Nat × BitVec 6 :=
  let s := if neg then f.signBit else 0
  match f.spec with
  | .ieee =>
    let toInf := match rm with
      | .rtz => false | .rdn => neg | .rup => !neg | _ => true
    (s + if toInf then f.infBits else f.maxBits, fOF ||| fNX)
  | _ => (s + f.maxBits, fOF ||| fNX ||| fSAT)

/-- Tiny: rounded with the exponent range unbounded below, the magnitude lies below the smallest normal one (R202, R219). -/
def FFmt.tiny (f : FFmt) (rm : Rm) (draw : Nat) (neg : Bool) (m : Nat) (e : Int) : Bool :=
  let q := leadExp m e - f.fw
  let t := roundAt rm draw neg m e q
  decide (q < f.qmin - 1) || (decide (q = f.qmin - 1) && decide (t.1 < 2 ^ (f.fw + 1)))

/-- The magnitude m × 2^e, m not 0, rounded once to the format (R199 to R203, R219). -/
def FFmt.round (f : FFmt) (rm : Rm) (draw : Nat) (neg : Bool) (m : Nat) (e : Int) : Nat × BitVec 6 :=
  let q := f.quantum m e
  let r := roundAt rm draw neg m e q
  -- the encoding of the magnitude n × 2^q on the grid without an upper bound
  let mag := (q - f.qmin).toNat * 2 ^ f.fw + r.1
  if f.maxBits < mag then f.overflow rm neg
  else ((if neg then f.signBit else 0) + mag, flagIf r.2 fNX ||| flagIf (r.2 && f.tiny rm draw neg m e) fUF)

/-- Delivers a value in a wide format with the flags gathered so far (R209). -/
def FFmt.deliver (f : FFmt) (rm : Rm) (draw : Nat) (fl : BitVec 6) : FV → Nat × BitVec 6
  | .nan _ => (f.nan, fl)
  | .inf neg => ((if neg then f.signBit else 0) + f.infBits, fl)
  | .fin neg m e =>
    if m = 0 then ((if neg then f.signBit else 0), fl)
    else
      let r := f.round rm draw neg m e
      (r.1, r.2 ||| fl)

/-! ## Exact operations -/

def FV.isSig : FV → Bool
  | .nan s => s | _ => false

def FV.isNan : FV → Bool
  | .nan _ => true | _ => false

def FV.neg : FV → FV
  | .nan s => .nan s | .inf n => .inf (!n) | .fin n m e => .fin (!n) m e

def FV.sign : FV → Bool
  | .nan _ => false | .inf n => n | .fin n _ _ => n

def FV.isZero : FV → Bool
  | .fin _ m _ => decide (m = 0) | _ => false

/-- The signed integer that a finite value is at scale 2^q, q at most e. -/
def signedAt (neg : Bool) (m : Nat) (e q : Int) : Int :=
  let v : Int := (m : Int) * 2 ^ (e - q).toNat
  if neg then -v else v

/-- The value of an integer at scale 2^q; an exact zero is given the sign `z`. -/
def FV.ofInt (v : Int) (q : Int) (z : Bool) : FV :=
  if v = 0 then .fin z 0 q else .fin (decide (v < 0)) v.natAbs q

/-- NV for a signalling operand (R209). -/
def sigNV (l : List FV) : BitVec 6 := flagIf (l.any FV.isSig) fNV

/-- The sum of two finite values or infinities or NaNs, exact, with the flag NV (R210, R211). A sum of two zeros follows R211 in rdn, and not IEEE 754 (DESIGN
CHOICE, log entry 79). -/
def FV.add (rm : Rm) (a b : FV) : FV × BitVec 6 :=
  match a, b with
  | .nan _, _ => (.nan false, sigNV [a, b])
  | _, .nan _ => (.nan false, sigNV [a, b])
  | .inf n, .inf n' => if n = n' then (.inf n, 0) else (.nan false, fNV)
  | .inf n, _ => (.inf n, 0)
  | _, .inf n => (.inf n, 0)
  | .fin n m e, .fin n' m' e' =>
    let q := min e e'
    (FV.ofInt (signedAt n m e q + signedAt n' m' e' q) q (decide (rm = .rdn) || (n && n')), 0)

/-- The product, exact, with NV for 0 × ∞ (R210, R211). -/
def FV.mul (a b : FV) : FV × BitVec 6 :=
  let s := a.sign != b.sign
  match a, b with
  | .nan _, _ => (.nan false, sigNV [a, b])
  | _, .nan _ => (.nan false, sigNV [a, b])
  | .inf _, _ => if b.isZero then (.nan false, fNV) else (.inf s, 0)
  | _, .inf _ => if a.isZero then (.nan false, fNV) else (.inf s, 0)
  | .fin _ m e, .fin _ m' e' => (.fin s (m * m') (e + e'), 0)

/-- a × b + c, exact, with NV for 0 × ∞ whatever the addend (R161, R210). -/
def FV.fma (rm : Rm) (a b c : FV) : FV × BitVec 6 :=
  let p := a.mul b
  let r := p.1.add rm c
  (r.1, p.2 ||| r.2 ||| flagIf c.isSig fNV)

/-- The quotient (R210, R219): a magnitude with 77 bits or more, its lowest bit telling whether the division left a rest, which rounds
to every format of R208 as the exact quotient does. -/
def FV.div (a b : FV) : FV × BitVec 6 :=
  let s := a.sign != b.sign
  match a, b with
  | .nan _, _ => (.nan false, sigNV [a, b])
  | _, .nan _ => (.nan false, sigNV [a, b])
  | .inf _, .inf _ => (.nan false, fNV)
  | .inf _, _ => (.inf s, 0)
  | _, .inf _ => (.fin s 0 0, 0)
  | .fin _ m e, .fin _ m' e' =>
    if m' = 0 then (if m = 0 then (.nan false, fNV) else (.inf s, fDZ))
    else if m = 0 then (.fin s 0 0, 0)
    else
      let n := m * 2 ^ 130
      (.fin s (2 * (n / m') + if n % m' = 0 then 0 else 1) (e - e' - 131), 0)

/-- The integer square root of `n`, which is below 4^i: one bit at each step. -/
def isqrt : Nat → Nat → Nat → Nat
  | 0, _, r => r
  | i + 1, n, r => isqrt i n (if (r + 2 ^ i) * (r + 2 ^ i) ≤ n then r + 2 ^ i else r)

/-- The square root (R210): a magnitude with 66 bits or more whose lowest bit tells whether the root is inexact. -/
def FV.sqrt (a : FV) : FV × BitVec 6 :=
  match a with
  | .nan s => (.nan false, flagIf s fNV)
  | .inf n => if n then (.nan false, fNV) else (.inf false, 0)
  | .fin n m e =>
    if m = 0 then (.fin n 0 0, 0)
    else if n then (.nan false, fNV)
    else
      let sh : Nat := 132 + (e % 2).toNat
      let n' := m * 2 ^ sh
      let r := isqrt 100 n' 0
      (.fin false (2 * r + if r * r = n' then 0 else 1) ((e - sh) / 2 - 1), 0)

/-- Numerical order of two values that are not NaNs: true when a < b. -/
def FV.lt (a b : FV) : Bool :=
  match a, b with
  | .nan _, _ => false
  | _, .nan _ => false
  | .inf n, .inf n' => n && !n'
  | .inf n, .fin _ _ _ => n
  | .fin _ _ _, .inf n => !n
  | .fin n m e, .fin n' m' e' =>
    let q := min e e'
    decide (signedAt n m e q < signedAt n' m' e' q)

/-- Equality of values that are not NaNs; +0 equals −0. -/
def FV.eqv (a b : FV) : Bool := !a.isNan && !b.isNan && !a.lt b && !b.lt a

/-- The IEEE 754-2019 maximum of two encodings, or the minimum (R212). -/
def FFmt.maxMin (f : FFmt) (isMax : Bool) (x y : Nat) : Nat × BitVec 6 :=
  let a := f.decode x
  let b := f.decode y
  if a.isNan || b.isNan then (f.nan, sigNV [a, b])
  else
    -- x orders below y, with −0 below +0
    let below := a.lt b || (a.eqv b && a.sign && !b.sign)
    (if below = isMax then y else x, 0)

/-! ## Integers -/

/-- The signed integer that the low `w` bits of `x` hold. -/
def sIntOf (w x : Nat) : Int :=
  let x := x % 2 ^ w
  if 2 * x < 2 ^ w then (x : Int) else (x : Int) - 2 ^ w

/-- The low `w` bits of an integer. -/
def bitsOfInt (w : Nat) (v : Int) : Nat := (v % 2 ^ w).toNat

/-- An integer type: width and signedness (R162, R189). -/
structure IFmt where
  width  : Nat
  signed : Bool
  deriving DecidableEq, Repr

def IFmt.lo (i : IFmt) : Int := if i.signed then -(2 ^ (i.width - 1)) else 0
def IFmt.hi (i : IFmt) : Int := if i.signed then 2 ^ (i.width - 1) - 1 else 2 ^ i.width - 1
def IFmt.decode (i : IFmt) (x : Nat) : Int := if i.signed then sIntOf i.width x else ((x % 2 ^ i.width : Nat) : Int)

/-- A value converted to an integer type (R164, R214): a NaN gives 0 and a value out of range the nearest limit, each with NV. -/
def IFmt.fromFV (i : IFmt) (rm : Rm) (draw : Nat) : FV → Int × BitVec 6
  | .nan _ => (0, fNV)
  | .inf n => (if n then i.lo else i.hi, fNV)
  | .fin n m e =>
    let r := roundAt rm draw n m e 0
    let v : Int := if n then -(r.1 : Int) else r.1
    if v < i.lo then (i.lo, fNV) else if i.hi < v then (i.hi, fNV) else (v, flagIf r.2 fNX)

/-- One integer type to another (R216): the nearest limit with SAT when it does not fit, also where only the signedness differs, and without NX (DESIGN CHOICE,
log entry 78). -/
def IFmt.narrow (i : IFmt) (v : Int) : Int × BitVec 6 :=
  if v < i.lo then (i.lo, fSAT) else if i.hi < v then (i.hi, fSAT) else (v, 0)

/-! ## Conversions (R213 to R216) -/

/-- The formats a conversion may name. -/
inductive Elem where
  | flt (f : FFmt)
  | int (i : IFmt)
  | e8m0
  deriving DecidableEq, Repr

/-- What the bits of an element stand for; E8M0 0xFF is a quiet NaN (R188). -/
def Elem.decode (k : Elem) (x : Nat) : FV :=
  match k with
  | .flt f => f.decode x
  | .int i => FV.ofInt (i.decode x) 0 false
  | .e8m0 => if x % 256 = 255 then .nan false else .fin false 1 ((x % 256 : Nat) - 127 : Int)

/-- Delivers a value in a floating-point format by conversion (R214). -/
def FFmt.convert (f : FFmt) (rm : Rm) (draw : Nat) (v : FV) : Nat × BitVec 6 :=
  match f.spec, v with
  | .ieee, .nan s => (f.nan, flagIf s fNV)
  | .e4m3, .nan s => (f.nan, flagIf s fNV)
  | .none, .nan _ => (0, fNV)
  | .ieee, .inf n => ((if n then f.signBit else 0) + f.infBits, 0)
  | _, .inf n => ((if n then f.signBit else 0) + f.maxBits, fSAT)
  | _, .fin _ _ _ => f.deliver rm draw 0 v

/-- A positive value to E8M0 (R214, R215). -/
def toE8M0 (rm : Rm) : FV → Nat × BitVec 6
  | .nan _ => (0xFF, fNV)
  | .inf _ => (0xFF, fNV)
  | .fin n m e =>
    if n || m = 0 then (0xFF, fNV)
    else
      let E := leadExp m e
      let unit := 2 ^ Nat.log2 m
      -- the magnitude is (1 + rest / unit) × 2^E
      let rest := m - unit
      let odd := decide ((E + 127) % 2 = 1)
      let up := match rm with
        | .rtz => false
        | .rdn => false
        | .rup => decide (rest ≠ 0)
        | .rna => decide (unit ≤ 2 * rest)
        | _ => decide (unit < 2 * rest) || (decide (2 * rest = unit) && odd)
      let r := if up then E + 1 else E
      if r < -127 then (0, fUF ||| fNX)
      else if 127 < r then (0xFE, fOF ||| fNX ||| fSAT)
      else ((r + 127).toNat, flagIf (decide (rest ≠ 0)) fNX)

/-- One element converted (R213 to R216): the bits delivered and the flags. -/
def convertElem (src dst : Elem) (rm : Rm) (draw : Nat) (x : Nat) : Nat × BitVec 6 :=
  match dst with
  | .flt f => f.convert rm draw (src.decode x)
  | .e8m0 => toE8M0 rm (src.decode x)
  | .int i =>
    match src with
    | .int j =>
      let r := i.narrow (j.decode x)
      (bitsOfInt i.width r.1, r.2)
    | _ =>
      let r := i.fromFV rm draw (src.decode x)
      (bitsOfInt i.width r.1, r.2)

/-! ## Stochastic rounding (R204) -/

/-- One step of the generator: the new state, which is the value drawn. -/
def srNext (s : BitVec 32) : BitVec 32 :=
  let s := s ^^^ (s <<< 13)
  let s := s ^^^ (s >>> 17)
  s ^^^ (s <<< 5)

/-- The generator after `n` draws. -/
def srAfter : Nat → BitVec 32 → BitVec 32
  | 0, s => s
  | n + 1, s => srAfter n (srNext s)

/-- The first `n` values drawn. -/
def srDraws : Nat → BitVec 32 → List Nat
  | 0, _ => []
  | n + 1, s => (srNext s).toNat :: srDraws n (srNext s)

/-! ## Microscaling (R223 to R226) -/

/-- An element format of an MX block: a floating-point format, or MXINT8, whose value is INT8 × 2^−6. -/
inductive MxElem where
  | flt (f : FFmt)
  | int8
  deriving DecidableEq, Repr

def MxElem.emax : MxElem → Int
  | .int8 => 0
  | .flt f => if f.spec = .ieee then 15 else if f.spec = .e4m3 then 8 else if f.ew = 3 then 4 else 2

/-- A value scaled by 2^−x. -/
def FV.scale (v : FV) (x : Int) : FV :=
  match v with
  | .fin n m e => .fin n m (e - x)
  | v => v

/-- One scaled element converted under R225 and R226. -/
def MxElem.convert (k : MxElem) (rm : Rm) (draw : Nat) (v : FV) : Nat × BitVec 6 :=
  match k with
  | .flt f =>
    match v with
    | .fin n m e =>
      if m = 0 then ((if n then f.signBit else 0), 0)
      else
        let r := f.round rm draw n m e
        -- R226: E5M2 delivers the largest finite value, not an infinity
        if f.spec = .ieee ∧ (r.2 &&& fOF) ≠ 0 then ((if n then f.signBit else 0) + f.maxBits, fOF ||| fNX ||| fSAT) else r
    | v => f.convert rm draw v
  | .int8 =>
    match v with
    | .fin n m e =>
      let r := roundAt rm draw n m e (-6)
      let i : Int := if n then -(r.1 : Int) else r.1
      if 127 < i then (127, fSAT ||| fNX)
      else if i < -128 then (128, fSAT ||| fNX)
      else (bitsOfInt 8 i, flagIf r.2 fNX)
    | _ => (0, 0)

/-- The larger of two finite magnitudes. -/
def FV.magMax (a b : FV) : FV :=
  match a, b with
  | .fin _ m e, .fin _ m' e' => if (FV.fin false m e).lt (.fin false m' e') then .fin false m' e' else .fin false m e
  | a, _ => a

/-- The scale exponent of R225 for values none of which is a NaN or an infinity. -/
def mxExp (k : MxElem) (l : List FV) : Int :=
  match l.foldl FV.magMax (.fin false 0 0) with
  | .fin _ m e => if m = 0 then -127 else max (-127) (min 127 (leadExp m e - k.emax))
  | _ => -127

/-- MX quantisation of 32 values with one draw each (R225, R226): the scale, the elements and the flags. -/
def mxQuantise (k : MxElem) (rm : Rm) (draws : List Nat) (l : List FV) : Nat × List Nat × BitVec 6 :=
  if l.any fun v => match v with | .fin _ _ _ => false | _ => true then (0xFF, l.map fun _ => 0, fNV)
  else
    let x := mxExp k l
    let r := (l.zip draws).map fun p => k.convert rm p.2 (p.1.scale x)
    ((x + 127).toNat, r.map Prod.fst, r.foldl (fun f p => f ||| p.2) 0)

end Sys2Proof.Machine
end

