-- ==== Sys2Proof/Machine/Encode.lean ====
section
/-! DEFINITION. The instruction words of the block (R140 to R147, R172, R176, R244 to R252, R299 to R304): the formats, the word of each instruction, which
encodings are reserved (R180, R252, R304), and the instruction that a word decodes to. -/

namespace Sys2Proof

/-! ## Formats (R140, R244, R299), fields from the most significant bit down -/

def fmtRR (fn : BitVec 9) (rb ra rd : Reg) (op : Byte) : BitVec 32 := fn ++ rb ++ ra ++ rd ++ op
/-- Format RI, and S with rs in the place of rd. -/
def fmtRI (imm : BitVec 14) (ra rd : Reg) (op : Byte) : BitVec 32 := imm ++ ra ++ rd ++ op
def fmtB (imm : BitVec 14) (rb ra : Reg) (op : Byte) : BitVec 32 := imm ++ rb ++ ra ++ op
def fmtU (imm : BitVec 19) (rd : Reg) (op : Byte) : BitVec 32 := imm ++ rd ++ op
def fmtF (fn : BitVec 5) (rm : BitVec 3) (fmt : Bool) (rb ra rd : Reg) (op : Byte) : BitVec 32 := fn ++ rm ++ BitVec.ofBool fmt ++ rb ++ ra ++ rd ++ op
def fmtF4 (rm : BitVec 3) (fmt : Bool) (rc rb ra rd : Reg) (op : Byte) : BitVec 32 := rm ++ BitVec.ofBool fmt ++ rc ++ rb ++ ra ++ rd ++ op
def fmtFC (rm : BitVec 3) (src dst : BitVec 4) (ra rd : Reg) (op : Byte) : BitVec 32 := 0#3 ++ rm ++ src ++ dst ++ ra ++ rd ++ op
def fmtCR (w : Bool) (crn : BitVec 13) (rs rd : Reg) (op : Byte) : BitVec 32 := BitVec.ofBool w ++ crn ++ rs ++ rd ++ op
def fmtLP (n1 : BitVec 6) (ra : Reg) (op : Byte) : BitVec 32 := 0#8 ++ n1 ++ ra ++ 0#5 ++ op
def fmtMG (ch : ChanId) (fn : BitVec 2) (rb ra rd : Reg) (op : Byte) : BitVec 32 := ch ++ fn ++ rb ++ ra ++ rd ++ op
def fmtSY (imm : BitVec 9) (fn : BitVec 5) (ra rd : Reg) (op : Byte) : BitVec 32 := imm ++ fn ++ ra ++ rd ++ op
def fmtVV (fn : BitVec 6) (vm : BitVec 3) (vb va vd : Reg) (op : Byte) : BitVec 32 := fn ++ vm ++ vb ++ va ++ vd ++ op
def fmtVC (rm : BitVec 3) (dst src : BitVec 4) (vm : BitVec 3) (va vd : Reg) (op : Byte) : BitVec 32 := rm ++ dst ++ src ++ vm ++ va ++ vd ++ op
def fmtVQ (rm : BitVec 3) (fmt : BitVec 4) (vs va vd : Reg) (op : Byte) : BitVec 32 := rm ++ fmt ++ 0#2 ++ vs ++ va ++ vd ++ op
def fmtVM (fn w vm : BitVec 3) (rx ra vd : Reg) (op : Byte) : BitVec 32 := fn ++ w ++ vm ++ rx ++ ra ++ vd ++ op
def fmtAC (fn : BitVec 3) (line : BitVec 4) (ra vs : Reg) (op : Byte) : BitVec 32 := fn ++ 0#2 ++ line ++ 0#5 ++ ra ++ vs ++ op
def fmtMA (z mode : Bool) (typb typa : BitVec 4) (ts tb ta zd : BitVec 3) (op : Byte) : BitVec 32 :=
  0#2 ++ BitVec.ofBool z ++ BitVec.ofBool mode ++ typb ++ typa ++ ts ++ tb ++ ta ++ zd ++ op
def fmtTM (fn : BitVec 3) (rs ra : Reg) (reg : BitVec 3) (op : Byte) : BitVec 32 := 0#6 ++ fn ++ rs ++ ra ++ 0#2 ++ reg ++ op
def fmtTV (fn : BitVec 3) (h : Bool) (tz : BitVec 3) (v : Reg) (op : Byte) : BitVec 32 := 0#12 ++ fn ++ BitVec.ofBool h ++ tz ++ v ++ op
def fmtZC (isrc : Bool) (rm : BitVec 3) (dst : BitVec 4) (zn : BitVec 3) (vd : Reg) (op : Byte) : BitVec 32 :=
  0#8 ++ BitVec.ofBool isrc ++ rm ++ dst ++ zn ++ vd ++ op

/-! ## Codes of the operations -/

/-- fn of opcode 0x01 (R148). -/
def IntFn.code : IntFn → BitVec 9
  | .add => 0x00 | .sub => 0x01 | .and => 0x02 | .or => 0x03 | .xor => 0x04 | .andn => 0x05
  | .sll => 0x06 | .srl => 0x07 | .sra => 0x08 | .slt => 0x09 | .sltu => 0x0A | .seq => 0x0B
  | .min => 0x0C | .max => 0x0D | .minu => 0x0E | .maxu => 0x0F
  | .addw => 0x10 | .subw => 0x11 | .sllw => 0x12 | .srlw => 0x13 | .sraw => 0x14
  | .clz => 0x20 | .ctz => 0x21 | .popc => 0x22 | .sextb => 0x23 | .sexth => 0x24 | .sextw => 0x25
  | .zextb => 0x26 | .zexth => 0x27 | .zextw => 0x28 | .bswap => 0x29

/-- Unary operations of opcode 0x01 (R148). -/
def IntFn.unary : IntFn → Bool
  | .clz => true | .ctz => true | .popc => true | .sextb => true | .sexth => true | .sextw => true
  | .zextb => true | .zexth => true | .zextw => true | .bswap => true | _ => false

/-- The opcode of an immediate form (R146). -/
def ImmFn.code : ImmFn → Byte
  | .addi => 0x08 | .addiw => 0x09 | .andi => 0x0A | .ori => 0x0B | .xori => 0x0C | .slti => 0x0D | .sltiu => 0x0E
  | .slli => 0x0F | .srli => 0x10 | .srai => 0x11

def ImmFn.isShift : ImmFn → Bool
  | .slli => true | .srli => true | .srai => true | _ => false

/-- fn of opcode 0x30 (R157). -/
def FpFn.code : FpFn → BitVec 5
  | .fadd => 0 | .fsub => 1 | .fmul => 2 | .fdiv => 3 | .fsqrt => 4 | .fmin => 5 | .fmax => 6 | .fabs => 7 | .fneg => 8
  | .fcpsgn => 9 | .feq => 10 | .flt => 11 | .fle => 12 | .fclass => 13 | .fmvg => 14 | .fmvf => 15

/-- Unary operations of opcode 0x30 (R157). -/
def FpFn.unary : FpFn → Bool
  | .fsqrt => true | .fabs => true | .fneg => true | .fclass => true | .fmvg => true | .fmvf => true | _ => false

/-- The operations of opcode 0x30 that round (R157). -/
def FpFn.rounds : FpFn → Bool
  | .fadd => true | .fsub => true | .fmul => true | .fdiv => true | .fsqrt => true | _ => false

/-- The opcode of a fused operation (R146). -/
def FmaFn.code : FmaFn → Byte
  | .fmadd => 0x38 | .fmsub => 0x39 | .fnmadd => 0x3A | .fnmsub => 0x3B

/-- fn of the multiplies and divides (R151). -/
def MulFn.code : MulFn → BitVec 9
  | .mul => 0 | .mulh => 1 | .mulhu => 2 | .mulhsu => 3 | .mulw => 4
def DivFn.code : DivFn → BitVec 9
  | .div => 8 | .divu => 9 | .rem => 10 | .remu => 11 | .divw => 12 | .divuw => 13 | .remw => 14 | .remuw => 15

/-- The opcodes of loads, stores and branches (R146). -/
def LoadFn.code : LoadFn → Byte
  | .b => 0x18 | .bu => 0x19 | .h => 0x1A | .hu => 0x1B | .w => 0x1C | .wu => 0x1D | .d => 0x1E | .fw => 0x24 | .fd => 0x25
def StoreFn.code : StoreFn → Byte
  | .b => 0x20 | .h => 0x21 | .w => 0x22 | .d => 0x23 | .fw => 0x26 | .fd => 0x27
def BranchFn.code : BranchFn → Byte
  | .beq => 0x28 | .bne => 0x29 | .blt => 0x2A | .bge => 0x2B | .bltu => 0x2C | .bgeu => 0x2D

/-- The place of a type among the four opcodes of its form (R245). -/
def FTy.code : FTy → Byte
  | .f64 => 0 | .f32 => 1 | .f16 => 2 | .bf16 => 3
def ITy.code : ITy → Byte
  | .i8 => 0 | .x16 => 1 | .i32 => 2 | .i64 => 3

/-- The place of a form's four opcodes among those of its kind (R245). -/
def VForm.code : VForm → Byte
  | .vv => 0 | .vs => 4 | .va => 8

/-- fn of the vector operations (R246, R247). -/
def VFltFn.code : VFltFn → BitVec 6
  | .add => 0 | .sub => 1 | .mul => 2 | .div => 3 | .sqrt => 4 | .min => 5 | .max => 6 | .fma => 7 | .fms => 8 | .fnma => 9 | .fnms => 10
  | .abs => 11 | .neg => 12 | .sgnj => 13 | .wma => 14
def VIntFn.code : VIntFn → BitVec 6
  | .add => 0 | .sub => 1 | .mul => 2 | .mulh => 3 | .and => 4 | .or => 5 | .xor => 6 | .sll => 7 | .srl => 8 | .sra => 9 | .min => 10 | .max => 11
  | .minu => 12 | .maxu => 13 | .sadd => 14 | .ssub => 15 | .macc => 19 | .mv => 32 | .vid => 37
def RedFn.code : RedFn → BitVec 6
  | .sum => 24 | .max => 25 | .min => 26
def PermFn.code : PermFn → BitVec 6
  | .slideup => 33 | .slidedown => 34 | .perm => 35 | .ext => 36

/-- The form in which a permutation is assigned (R247). -/
def PermFn.form : PermFn → VForm
  | .perm => .vv | _ => .vs

/-- Opcode and fn of a vector arithmetic operation in a form, of a compare and of a reduction (R245 to R247). -/
def VArith.opcode (form : VForm) : VArith → Byte × BitVec 6
  | .flt fn ty => (0x40 + form.code + ty.code, fn.code)
  | .int fn ty => (0x4C + form.code + ty.code, fn.code)
def VCmp.opcode (form : VForm) : VCmp → Byte × BitVec 6
  | .feq ty => (0x40 + form.code + ty.code, 16) | .flt ty => (0x40 + form.code + ty.code, 17) | .fle ty => (0x40 + form.code + ty.code, 18)
  | .seq ty => (0x4C + form.code + ty.code, 16) | .slt ty => (0x4C + form.code + ty.code, 17) | .sltu ty => (0x4C + form.code + ty.code, 18)
def VRed.opcode : VRed → Byte × BitVec 6
  | .flt fn ty => (0x44 + ty.code, fn.code)
  | .int fn ty => (0x50 + ty.code, fn.code)

/-- fn of the mask operations (R248) and of the VM format (R250). -/
def MaskFn.code : MaskFn → BitVec 6
  | .mand => 0 | .mor => 1 | .mxor => 2 | .mandn => 3 | .mnot => 4 | .mpopc => 5 | .mfirst => 6
def VmFn.code : VmFn → BitVec 3
  | .unit => 0 | .strided => 1 | .indexed => 2 | .mask => 3

/-! ## The word of an instruction -/

/-- The word of each instruction of the block instruction set; an event has none. -/
def instrWord : Instr → Option (BitVec 32)
  | .integerRegisterOp _ fn rb ra rd => some (fmtRR fn.code rb ra rd 0x01)
  | .multiply _ fn rb ra rd => some (fmtRR fn.code rb ra rd 0x02)
  | .divideRemainder _ fn rb ra rd => some (fmtRR fn.code rb ra rd 0x02)
  | .integerImmediateOp _ fn imm ra rd => some (fmtRI imm ra rd fn.code)
  | .lui _ imm rd => some (fmtU imm rd 0x12)
  | .lhi _ imm rd => some (fmtU imm rd 0x13)
  | .load _ fn imm ra rd _ => some (fmtRI imm ra rd fn.code)
  | .store _ fn imm ra rs _ => some (fmtRI imm ra rs fn.code)
  | .branch _ fn imm rb ra => some (fmtB imm rb ra fn.code)
  | .jal _ imm rd => some (fmtU imm rd 0x2E)
  | .jalr _ imm ra rd => some (fmtRI imm ra rd 0x2F)
  | .fpOperation _ fn rm fmt rb ra rd => some (fmtF fn.code rm fmt rb ra rd 0x30)
  | .fpConversion _ rm src dst ra rd => some (fmtFC rm src dst ra rd 0x32)
  | .crr _ crn rs rd => some (fmtCR false crn rs rd 0x34)
  | .crw _ crn rs rd => some (fmtCR true crn rs rd 0x34)
  | .loop _ n1 ra => some (fmtLP n1 ra 0x35)
  | .mwait _ ch ra rd => some (fmtMG ch 0 0 ra rd 0x36)
  | .mcount _ ch rd => some (fmtMG ch 1 0 0 rd 0x36)
  | .mbxSend _ rb ra => some (fmtMG 0 2 rb ra 0 0x36)
  | .mbxRecv _ rd => some (fmtMG 0 3 0 0 rd 0x36)
  | .nop _ => some (fmtSY 0 0 0 0 0x37)
  | .ewait _ => some (fmtSY 0 1 0 0 0x37)
  | .fence _ imm => some (fmtSY imm 2 0 0 0x37)
  | .hold _ imm => some (fmtSY imm 3 0 0 0x37)
  | .trap _ imm => some (fmtSY imm 4 0 0 0x37)
  | .tret _ _ => some (fmtSY 0 5 0 0 0x37)
  | .brk _ imm => some (fmtSY imm 6 0 0 0x37)
  | .fpFusedMultiplyAdd _ fn rm fmt rc rb ra rd => some (fmtF4 rm fmt rc rb ra rd fn.code)
  | .vectorArithmetic _ op form vm vb va vd => some (fmtVV (op.opcode form).2 vm vb va vd (op.opcode form).1)
  | .vectorCompare _ op form vm vb va vd => some (fmtVV (op.opcode form).2 vm vb va vd (op.opcode form).1)
  | .vectorReduction _ op vm vb va vd => some (fmtVV op.opcode.2 vm vb va vd op.opcode.1)
  | .vectorPermutation _ fn ty vm vb va vd => some (fmtVV fn.code vm vb va vd (0x4C + fn.form.code + ty.code))
  | .vcvt _ rm dst src vm va vd => some (fmtVC rm dst src vm va vd 0x58)
  | .vectorLoad _ fn w vm rx ra vd => some (fmtVM fn.code w vm rx ra vd 0x59)
  | .vectorStore _ fn w vm rx ra vd => some (fmtVM fn.code w vm rx ra vd 0x5A)
  | .acfill _ line ra => some (fmtAC 0 line ra 0 0x5B)
  | .acput _ line vs => some (fmtAC 1 line 0 vs 0x5B)
  | .acdrop _ line => some (fmtAC 2 line 0 0 0x5B)
  | .acdropall _ => some (fmtAC 3 0 0 0 0x5B)
  | .maskOperation _ fn vb va vd => some (fmtVV fn.code 0 vb va vd 0x5C)
  | .vcsum _ vb va vd => some (fmtVV 8 0 vb va vd 0x5C)
  | .vmxq _ rm fmt vs va vd => some (fmtVQ rm fmt vs va vd 0x5D)
  | .mma _ z mode typb typa tb ta zd => some (fmtMA z mode typb typa 0 tb ta zd 0x80)
  | .mmx _ z mode typb typa ts tb ta zd => some (fmtMA z mode typb typa ts tb ta zd 0x81)
  | .tld _ rs ra reg => some (fmtTM 0 rs ra reg 0x88)
  | .tst _ rs ra reg => some (fmtTM 1 rs ra reg 0x88)
  | .tld6 _ rs ra reg => some (fmtTM 2 rs ra reg 0x88)
  | .tst6 _ rs ra reg => some (fmtTM 3 rs ra reg 0x88)
  | .zld _ rs ra reg => some (fmtTM 4 rs ra reg 0x88)
  | .zst _ rs ra reg => some (fmtTM 5 rs ra reg 0x88)
  | .zclr _ reg => some (fmtTM 6 0 0 reg 0x88)
  | .tfromv _ tz v => some (fmtTV 0 false tz v 0x89)
  | .tov _ tz v => some (fmtTV 1 false tz v 0x89)
  | .zfromv _ h tz v => some (fmtTV 2 h tz v 0x89)
  | .ztov _ h tz v => some (fmtTV 3 h tz v 0x89)
  | .zcvt _ isrc rm dst zn vd => some (fmtZC isrc rm dst zn vd 0x8A)
  | _ => none

end Sys2Proof

namespace Sys2Proof.Machine

/-! ## Types -/

/-- Type codes of R249. -/
def vType (c : Nat) : Option Elem :=
  match c with
  | 0 => some (.flt .f64) | 1 => some (.flt .f32) | 2 => some (.flt .f16) | 3 => some (.flt .bf16)
  | 4 => some (.flt .e5m2) | 5 => some (.flt .e4m3) | 6 => some (.flt .e3m2) | 7 => some (.flt .e2m3) | 8 => some (.flt .e2m1)
  | 9 => some (.int ⟨4, true⟩) | 10 => some (.int ⟨8, true⟩) | 11 => some (.int ⟨32, true⟩) | 12 => some (.int ⟨64, true⟩)
  | _ => none

/-- The width of a format's values. -/
def Elem.bits : Elem → Nat
  | .flt f => f.width | .int i => i.width | .e8m0 => 8

/-- The width of the element that a type occupies in a vector register: FP6 takes 8 bits (R190, R254). -/
def Elem.regBits (k : Elem) : Nat := if k.bits = 6 then 8 else k.bits

def typeBits (c : BitVec 4) : Nat := ((vType c.toNat).map Elem.regBits).getD 8

/-- A type pair that an opcode accepts (R301): `mx` for opcode 0x81. -/
def pairOk (mx : Bool) (mode : Bool) (ta tb : Nat) : Bool :=
  let f8 (n : Nat) : Bool := decide (4 ≤ n ∧ n ≤ 7)
  (f8 ta && f8 tb) || (decide (ta = 8) && decide (tb = 8)) ||
    (if mx then decide (ta = 10) && decide (tb = 10)
     else decide (ta = tb) && (decide (1 ≤ ta ∧ ta ≤ 3) || (decide (ta = 9 ∨ ta = 10) && !mode)))

/-! ## What is reserved, format by format -/

/-- A reserved encoding at opcode 0x30 (R180): rm of an operation that rounds may not be rsr or 0b110, of another must be 0; rb of a
unary operation must be 0. -/
def fpReserved (fn : FpFn) (rm : BitVec 3) (rb : Reg) : Bool :=
  (fn.unary && decide (rb ≠ 0)) || (if fn.rounds then decide (rm = 5 ∨ rm = 6) else decide (rm ≠ 0))

/-- A reserved conversion (R144, R180): a type code above 5, equal types, rm 0b110, or rsr outside fcvt.f32.f64. -/
def cvtReserved (rm : BitVec 3) (src dst : BitVec 4) : Bool :=
  decide (6 ≤ src.toNat) || decide (6 ≤ dst.toNat) || decide (src = dst) || decide (rm = 6) ||
    (decide (rm = 5) && !decide (src = 5 ∧ dst = 4))

def VFltFn.isUnary : VFltFn → Bool
  | .sqrt => true | .abs => true | .neg => true | _ => false

def reservedArith (op : VArith) (form : VForm) (vb va : Reg) : Bool :=
  (decide (form = .va) && decide (16 ≤ vb.toNat)) ||
  match op with
  | .flt fn ty =>
    (VFltFn.isUnary fn && (decide (form ≠ .vv) || decide (vb ≠ 0))) || (decide (fn = .wma) && decide (ty ≠ .f16 ∧ ty ≠ .bf16))
  | .int fn ty =>
    match fn with
    | .mv => decide (va ≠ 0)
    | .vid => decide (form ≠ .vv) || decide (va ≠ 0) || decide (vb ≠ 0)
    | .and => false | .or => false | .xor => false
    | _ => decide (ty = .x16)

def VCmp.isX16 : VCmp → Bool
  | .seq ty => decide (ty = .x16) | .slt ty => decide (ty = .x16) | .sltu ty => decide (ty = .x16) | _ => false

def VRed.isX16 : VRed → Bool
  | .int _ ty => decide (ty = .x16) | _ => false

def reservedCmp (op : VCmp) (form : VForm) (vb vd : Reg) : Bool :=
  (decide (form = .va) && decide (16 ≤ vb.toNat)) || VCmp.isX16 op || decide (8 ≤ vd.toNat)

def reservedVcvt (rm : BitVec 3) (dst src : BitVec 4) (vm : BitVec 3) : Bool :=
  match vType src.toNat, vType dst.toNat with
  | some st, some dt =>
    decide (dst = src) || decide (rm = 6) ||
    (decide (rm = 5) && !(match st, dt with | .flt a, .flt d => decide (d.width < a.width) | _, _ => false)) ||
    (decide (vm ≠ 0) && decide (st.bits = 4 ∨ dt.bits = 4))
  | _, _ => true

def reservedVmxq (rm : BitVec 3) (fmt : BitVec 4) : Bool :=
  decide (rm = 6) || !decide ((4 ≤ fmt.toNat ∧ fmt.toNat ≤ 8) ∨ fmt.toNat = 10)

def reservedMask (fn : MaskFn) (vb va vd : Reg) : Bool :=
  decide (8 ≤ va.toNat) ||
  match fn with
  | .mnot => decide (vb ≠ 0) || decide (8 ≤ vd.toNat)
  | .mpopc => decide (vb ≠ 0)
  | .mfirst => decide (vb ≠ 0)
  | _ => decide (8 ≤ vb.toNat) || decide (8 ≤ vd.toNat)

def reservedMem (fn : VmFn) (w vm : BitVec 3) (rx vd : Reg) : Bool :=
  decide (6 ≤ w.toNat) || (decide (4 ≤ w.toNat) && (decide (fn ≠ .unit) || decide (vm ≠ 0))) ||
  match fn with
  | .unit => decide (rx ≠ 0)
  | .mask => decide (w ≠ 0) || decide (vm ≠ 0) || decide (rx ≠ 0) || decide (8 ≤ vd.toNat)
  | _ => false

def reservedZcvt (isrc : Bool) (rm : BitVec 3) (dst : BitVec 4) : Bool :=
  let d := dst.toNat
  decide (rm = 6) || (isrc && decide (rm = 5)) ||
    !(decide (2 ≤ d ∧ d ≤ 5) || (isrc && decide (d = 1 ∨ d = 10)))

/-! ## Reserved encodings -/

/-- An instruction whose fields make a reserved encoding (R180, R252, R304). The zero fields of its format are not fields of the command: a word in which
one is not 0 is no instruction's word. -/
def reserved : Instr → Bool
  | .integerRegisterOp _ fn rb _ _ => fn.unary && decide (rb ≠ 0)
  | .integerImmediateOp _ fn imm _ _ => fn.isShift && decide (64 ≤ imm.toNat)
  | .fpOperation _ fn rm _ rb _ _ => fpReserved fn rm rb
  | .fpFusedMultiplyAdd _ _ rm _ _ _ _ _ => decide (rm = 5 ∨ rm = 6)
  | .fpConversion _ rm src dst _ _ => cvtReserved rm src dst
  | .crr _ _ rs _ => decide (rs ≠ 0)
  | .fence _ imm => decide (imm.toNat % 8 = 0 ∨ 8 ≤ imm.toNat)
  | .hold _ imm => decide (64 < imm.toNat)
  | .vectorArithmetic _ op form _ vb va _ => reservedArith op form vb va
  | .vectorCompare _ op form _ vb _ vd => reservedCmp op form vb vd
  | .vectorReduction _ op _ _ _ _ => VRed.isX16 op
  | .vcvt _ rm dst src vm _ _ => reservedVcvt rm dst src vm
  | .vmxq _ rm fmt _ _ _ => reservedVmxq rm fmt
  | .maskOperation _ fn vb va vd => reservedMask fn vb va vd
  | .vectorLoad _ fn w vm rx _ vd => reservedMem fn w vm rx vd
  | .vectorStore _ fn w vm rx _ vd => reservedMem fn w vm rx vd
  | .mma _ _ mode typb typa _ _ _ => !pairOk false mode typa.toNat typb.toNat
  | .mmx _ _ mode typb typa _ _ _ _ => !pairOk true mode typa.toNat typb.toNat
  | .zcvt _ isrc rm dst _ _ => reservedZcvt isrc rm dst
  | _ => false

/-- A vector or matrix opcode (R147). -/
def isEngineWord (w : BitVec 32) : Bool := decide (0x40 ≤ w.toNat % 256) && decide (w.toNat % 256 < 0xA0)

/-- The instruction is a reserved encoding on the management core (R556): opcode 0x36, the vector and matrix opcodes, and ewait. -/
def offMgmt (w : BitVec 32) : Bool :=
  decide (w.toNat % 256 = 0x36) || isEngineWord w || decide (w = fmtSY 0 1 0 0 0x37)

/-- The fault value of a reserved word (R286, R333, R354): the word, but 0 for a vector or matrix opcode. -/
def reservedValue (w : BitVec 32) : W64 := if isEngineWord w then 0 else w.zeroExtend 64

/-- The word of an instruction as a fault value names it (R354). -/
def faultWord (i : Instr) : W64 := ((instrWord i).getD 0).zeroExtend 64

/-! ## Decoding -/

/-- The value among `l` that has a code. -/
def ofCode {α : Type} {n : Nat} (code : α → BitVec n) (l : List α) (c : BitVec n) : Option α := l.find? fun a => code a = c

def intFns : List IntFn :=
  [.add, .sub, .and, .or, .xor, .andn, .sll, .srl, .sra, .slt, .sltu, .seq, .min, .max, .minu, .maxu, .addw, .subw, .sllw, .srlw, .sraw,
    .clz, .ctz, .popc, .sextb, .sexth, .sextw, .zextb, .zexth, .zextw, .bswap]
def immFns : List ImmFn := [.addi, .addiw, .andi, .ori, .xori, .slti, .sltiu, .slli, .srli, .srai]
def mulFns : List MulFn := [.mul, .mulh, .mulhu, .mulhsu, .mulw]
def divFns : List DivFn := [.div, .divu, .rem, .remu, .divw, .divuw, .remw, .remuw]
def loadFns : List LoadFn := [.b, .bu, .h, .hu, .w, .wu, .d, .fw, .fd]
def storeFns : List StoreFn := [.b, .h, .w, .d, .fw, .fd]
def branchFns : List BranchFn := [.beq, .bne, .blt, .bge, .bltu, .bgeu]
def fpFns : List FpFn := [.fadd, .fsub, .fmul, .fdiv, .fsqrt, .fmin, .fmax, .fabs, .fneg, .fcpsgn, .feq, .flt, .fle, .fclass, .fmvg, .fmvf]
def fmaFns : List FmaFn := [.fmadd, .fmsub, .fnmadd, .fnmsub]
def vFltFns : List VFltFn := [.add, .sub, .mul, .div, .sqrt, .min, .max, .fma, .fms, .fnma, .fnms, .abs, .neg, .sgnj, .wma]
def vIntFns : List VIntFn :=
  [.add, .sub, .mul, .mulh, .and, .or, .xor, .sll, .srl, .sra, .min, .max, .minu, .maxu, .sadd, .ssub, .macc, .mv, .vid]
def redFns : List RedFn := [.sum, .max, .min]
def permFns : List PermFn := [.slideup, .slidedown, .perm, .ext]
def maskFns : List MaskFn := [.mand, .mor, .mxor, .mandn, .mnot, .mpopc, .mfirst]
def vmFns : List VmFn := [.unit, .strided, .indexed, .mask]
def fTys : List FTy := [.f64, .f32, .f16, .bf16]
def iTys : List ITy := [.i8, .x16, .i32, .i64]
def vForms : List VForm := [.vv, .vs, .va]

/-- The vector floating-point instruction of a form, a type and fn (R246). -/
def decodeVFlt (b : BlockId) (form : VForm) (ty : FTy) (fn : BitVec 6) (vm : BitVec 3) (vb va vd : Reg) : Option Instr :=
  match ofCode VFltFn.code vFltFns fn, ofCode RedFn.code redFns fn with
  | some f, _ => some (.vectorArithmetic b (.flt f ty) form vm vb va vd)
  | none, some f => some (.vectorReduction b (.flt f ty) vm vb va vd)
  | none, none =>
    if fn = 16 then some (.vectorCompare b (.feq ty) form vm vb va vd)
    else if fn = 17 then some (.vectorCompare b (.flt ty) form vm vb va vd)
    else if fn = 18 then some (.vectorCompare b (.fle ty) form vm vb va vd)
    else none

/-- The vector integer instruction of a form, a type and fn (R247). -/
def decodeVInt (b : BlockId) (form : VForm) (ty : ITy) (fn : BitVec 6) (vm : BitVec 3) (vb va vd : Reg) : Option Instr :=
  match ofCode VIntFn.code vIntFns fn, ofCode RedFn.code redFns fn, ofCode PermFn.code permFns fn with
  | some f, _, _ => some (.vectorArithmetic b (.int f ty) form vm vb va vd)
  | none, some f, _ => some (.vectorReduction b (.int f ty) vm vb va vd)
  | none, none, some f => some (.vectorPermutation b f ty vm vb va vd)
  | none, none, none =>
    if fn = 16 then some (.vectorCompare b (.seq ty) form vm vb va vd)
    else if fn = 17 then some (.vectorCompare b (.slt ty) form vm vb va vd)
    else if fn = 18 then some (.vectorCompare b (.sltu ty) form vm vb va vd)
    else none

/-- The vector arithmetic opcodes, each with its form and type (R245). -/
def vFltOps : List (Byte × VForm × FTy) := vForms.flatMap fun f => fTys.map fun t => (0x40 + f.code + t.code, f, t)
def vIntOps : List (Byte × VForm × ITy) := vForms.flatMap fun f => iTys.map fun t => (0x4C + f.code + t.code, f, t)

/-- The instruction whose opcode and fn a word carries, its other fields read where its format has them. -/
def decodeFields (b : BlockId) (ecc : Ecc) (w : BitVec 32) : Option Instr :=
  let op : Byte := w.extractLsb' 0 8
  let r8 : Reg := w.extractLsb' 8 5
  let r13 : Reg := w.extractLsb' 13 5
  let r18 : Reg := w.extractLsb' 18 5
  let r23 : Reg := w.extractLsb' 23 5
  let imm14 : BitVec 14 := w.extractLsb' 18 14
  let imm19 : BitVec 19 := w.extractLsb' 13 19
  let imm9 : BitVec 9 := w.extractLsb' 23 9
  let t8 : BitVec 3 := w.extractLsb' 8 3
  let vvFn : BitVec 6 := w.extractLsb' 26 6
  let vvVm : BitVec 3 := w.extractLsb' 23 3
  match op.toNat with
  | 0x01 => (ofCode IntFn.code intFns imm9).map fun f => .integerRegisterOp b f r18 r13 r8
  | 0x02 =>
    match ofCode MulFn.code mulFns imm9, ofCode DivFn.code divFns imm9 with
    | some f, _ => some (.multiply b f r18 r13 r8)
    | none, some f => some (.divideRemainder b f r18 r13 r8)
    | none, none => none
  | 0x12 => some (.lui b imm19 r8)
  | 0x13 => some (.lhi b imm19 r8)
  | 0x2E => some (.jal b imm19 r8)
  | 0x2F => some (.jalr b imm14 r13 r8)
  | 0x30 => (ofCode FpFn.code fpFns (w.extractLsb' 27 5)).map fun f => .fpOperation b f (w.extractLsb' 24 3) (w.getLsbD 23) r18 r13 r8
  | 0x32 => some (.fpConversion b (w.extractLsb' 26 3) (w.extractLsb' 22 4) (w.extractLsb' 18 4) r13 r8)
  | 0x34 => some (if w.getLsbD 31 then .crw b (w.extractLsb' 18 13) r13 r8 else .crr b (w.extractLsb' 18 13) r13 r8)
  | 0x35 => some (.loop b (w.extractLsb' 18 6) r13)
  | 0x36 =>
    match (w.extractLsb' 23 2).toNat with
    | 0 => some (.mwait b (w.extractLsb' 25 7) r13 r8)
    | 1 => some (.mcount b (w.extractLsb' 25 7) r8)
    | 2 => some (.mbxSend b r18 r13)
    | _ => some (.mbxRecv b r8)
  | 0x37 =>
    match r18.toNat with
    | 0 => some (.nop b) | 1 => some (.ewait b) | 2 => some (.fence b imm9) | 3 => some (.hold b imm9)
    | 4 => some (.trap b imm9) | 5 => some (.tret b ecc) | 6 => some (.brk b imm9) | _ => none
  | 0x58 => some (.vcvt b (w.extractLsb' 29 3) (w.extractLsb' 25 4) (w.extractLsb' 21 4) (w.extractLsb' 18 3) r13 r8)
  | 0x59 => (ofCode VmFn.code vmFns (w.extractLsb' 29 3)).map fun f => .vectorLoad b f (w.extractLsb' 26 3) vvVm r18 r13 r8
  | 0x5A => (ofCode VmFn.code vmFns (w.extractLsb' 29 3)).map fun f => .vectorStore b f (w.extractLsb' 26 3) vvVm r18 r13 r8
  | 0x5B =>
    let line : BitVec 4 := w.extractLsb' 23 4
    match (w.extractLsb' 29 3).toNat with
    | 0 => some (.acfill b line r13) | 1 => some (.acput b line r8) | 2 => some (.acdrop b line) | 3 => some (.acdropall b) | _ => none
  | 0x5C => if vvFn = 8 then some (.vcsum b r18 r13 r8) else (ofCode MaskFn.code maskFns vvFn).map fun f => .maskOperation b f r18 r13 r8
  | 0x5D => some (.vmxq b (w.extractLsb' 29 3) (w.extractLsb' 25 4) r18 r13 r8)
  | 0x80 => some (.mma b (w.getLsbD 29) (w.getLsbD 28) (w.extractLsb' 24 4) (w.extractLsb' 20 4) (w.extractLsb' 14 3) (w.extractLsb' 11 3) t8)
  | 0x81 =>
    some (.mmx b (w.getLsbD 29) (w.getLsbD 28) (w.extractLsb' 24 4) (w.extractLsb' 20 4) (w.extractLsb' 17 3) (w.extractLsb' 14 3)
      (w.extractLsb' 11 3) t8)
  | 0x88 =>
    match (w.extractLsb' 23 3).toNat with
    | 0 => some (.tld b r18 r13 t8) | 1 => some (.tst b r18 r13 t8) | 2 => some (.tld6 b r18 r13 t8) | 3 => some (.tst6 b r18 r13 t8)
    | 4 => some (.zld b r18 r13 t8) | 5 => some (.zst b r18 r13 t8) | 6 => some (.zclr b t8) | _ => none
  | 0x89 =>
    let tz : BitVec 3 := w.extractLsb' 13 3
    match (w.extractLsb' 17 3).toNat with
    | 0 => some (.tfromv b tz r8) | 1 => some (.tov b tz r8) | 2 => some (.zfromv b (w.getLsbD 16) tz r8) | 3 => some (.ztov b (w.getLsbD 16) tz r8)
    | _ => none
  | 0x8A => some (.zcvt b (w.getLsbD 23) (w.extractLsb' 20 3) (w.extractLsb' 16 4) (w.extractLsb' 13 3) r8)
  | _ =>
    match ofCode ImmFn.code immFns op, ofCode LoadFn.code loadFns op, ofCode StoreFn.code storeFns op, ofCode BranchFn.code branchFns op,
      ofCode FmaFn.code fmaFns op with
    | some f, _, _, _, _ => some (.integerImmediateOp b f imm14 r13 r8)
    | none, some f, _, _, _ => some (.load b f imm14 r13 r8 ecc)
    | none, none, some f, _, _ => some (.store b f imm14 r13 r8 ecc)
    | none, none, none, some f, _ => some (.branch b f imm14 r13 r8)
    | none, none, none, none, some f => some (.fpFusedMultiplyAdd b f (w.extractLsb' 29 3) (w.getLsbD 28) r23 r18 r13 r8)
    | none, none, none, none, none =>
      match vFltOps.find? fun e => e.1 = op, vIntOps.find? fun e => e.1 = op with
      | some e, _ => decodeVFlt b e.2.1 e.2.2 vvFn vvVm r18 r13 r8
      | none, some e => decodeVInt b e.2.1 e.2.2 vvFn vvVm r18 r13 r8
      | none, none => none

/-- The instruction that a word is, for block `b` and an outcome of the error correction of the data it reads; none where the word is a reserved encoding:
an opcode or fn that is not assigned, a zero field that is not 0 (the word is then not that of the instruction it names), or fields that R180, R252 or R304
reserve. -/
def decodeWord (b : BlockId) (ecc : Ecc) (w : BitVec 32) : Option Instr :=
  (decodeFields b ecc w).filter fun i => decide (instrWord i = some w) && !reserved i

/-- A word is a reserved encoding on a core. -/
def reservedOn (b : BlockId) (w : BitVec 32) : Bool := (decodeWord b .ok w).isNone || (decide (b = mgmtCore) && offMgmt w)

end Sys2Proof.Machine
end

