-- ==== Sys2Proof/Machine/Flags.lean ====
section
/-! DEFINITION. The sticky flags of BLK_FPSR (R193, R220) and the rounding mode an instruction uses (R144, R145, R257, R264). -/

namespace Sys2Proof.Machine

/-- ORs the flags of one instruction into BLK_FPSR (R220). -/
def State.orFlags (s : State) (b : BlockId) (fl : BitVec 6) : State :=
  s.modBlk b fun x => { x with fp := { x.fp with flags := x.fp.flags ||| fl } }

/-- The mode of an rm field: dyn reads RM, and rsr from RM counts only where `sr` permits it (R145). -/
def Fp.mode (fp : Fp) (rm : BitVec 3) (sr : Bool) : BitVec 3 :=
  if rm = 7 then (if fp.rm = 5 ∧ sr = false then 0 else fp.rm) else rm

/-- The value of BLK_FPSR (R193). -/
def Fp.fpsr (fp : Fp) : W64 := (fp.flags.zeroExtend 64 <<< 4) ||| fp.rm.zeroExtend 64

/-- The value of BLK_SR_SEED (R195). -/
def Fp.seed (fp : Fp) : W64 := (fp.srBase.zeroExtend 64 <<< 32) ||| fp.srState.zeroExtend 64

/-- Takes `n` draws (R204, R205); BLK_SR_DRAWS counts them (R197). -/
def State.draw (s : State) (b : BlockId) (n : Nat) : State :=
  s.modBlk b fun x => { x with fp := { x.fp with srState := srAfter n x.fp.srState, srDraws := x.fp.srDraws + BitVec.ofNat 64 n } }

end Sys2Proof.Machine
end

