-- ==== Sys2Proof/Machine/Operands.lean ====
section
/-! DEFINITION. Operand forms of the block instructions: immediates (R141), registers that an outstanding operation will write (R108, R113),
the scalar destinations of vector instructions (R130), and the bytes an access names. -/

namespace Sys2Proof

/-- A load writes an f register. -/
def LoadFn.toF : LoadFn → Bool
  | .fw => true | .fd => true | _ => false

/-- Bytes that a load moves (R153, R154). -/
def LoadFn.size : LoadFn → Nat
  | .b => 1 | .bu => 1 | .h => 2 | .hu => 2 | .w => 4 | .wu => 4 | .d => 8 | .fw => 4 | .fd => 8

/-- Bytes that a store moves (R154). -/
def StoreFn.size : StoreFn → Nat
  | .b => 1 | .h => 2 | .w => 4 | .d => 8 | .fw => 4 | .fd => 8

def StoreFn.fromF : StoreFn → Bool
  | .fw => true | .fd => true | _ => false

/-- What a load writes to its register: extended as its form says (R153, R154). -/
def LoadFn.extend (fn : LoadFn) (v : W64) : W64 :=
  match fn with
  | .b => (v.setWidth 8).signExtend 64
  | .bu => (v.setWidth 8).zeroExtend 64
  | .h => (v.setWidth 16).signExtend 64
  | .hu => (v.setWidth 16).zeroExtend 64
  | .w => (v.setWidth 32).signExtend 64
  | .wu => (v.setWidth 32).zeroExtend 64
  | .fw => (v.setWidth 32).zeroExtend 64
  | .d => v
  | .fd => v

end Sys2Proof

namespace Sys2Proof.Machine

/-- imm14 sign-extended (R141). -/
def simm14 (i : BitVec 14) : W64 := i.signExtend 64

/-- imm14 zero-extended (R141). -/
def zimm14 (i : BitVec 14) : W64 := i.zeroExtend 64

/-- imm19 sign-extended (R141). -/
def simm19 (i : BitVec 19) : W64 := i.signExtend 64

/-- The scalar register that a vector instruction writes through L2 (R130, R246, R247, R248): true for an f register. -/
def scalarDest : Instr → Option (Bool × Reg)
  | .vectorReduction _ (.flt _ _) _ _ _ vd => some (true, vd)
  | .vectorReduction _ (.int _ _) _ _ _ vd => some (false, vd)
  | .vectorPermutation _ .ext _ _ _ _ vd => some (false, vd)
  | .maskOperation _ .mpopc _ _ vd => some (false, vd)
  | .maskOperation _ .mfirst _ _ vd => some (false, vd)
  | .vcsum _ _ _ vd => some (false, vd)
  | _ => none

/-- Vector and matrix instructions that have issued and not completed, in program order within each unit. -/
def Block.inFlight (x : Block) : List QEntry := x.vec.run ++ x.mtx.array ++ x.mtx.port ++ x.queue

/-- An outstanding operation will write the register (R108, R113): `isF` tells f from g. -/
def Block.awaits (x : Block) (isF : Bool) (r : Reg) : Bool :=
  (isF || decide (r ≠ 0)) &&
    (x.core.longOps.any (fun o => o.toF == isF && decide (o.rd = r)) ||
     x.core.remLoads.any (fun o => o.fn.toF == isF && decide (o.rd = r)) ||
     (!isF && x.core.recvs.any (fun o => decide (o.1 = r))) ||
     x.inFlight.any (fun e => decide (scalarDest e.instr = some (isF, r))))

/-- No outstanding operation will write any of the named registers (conditions 1 and 2 of R108). -/
def Block.free (x : Block) (gs fs : List Reg) : Bool :=
  !(gs.any (x.awaits false) || fs.any (x.awaits true))

/-- The value that an instruction with a register destination writes: to f or g. -/
def Core.set (c : Core) (toF : Bool) (r : Reg) (v : W64) : Core := if toF then c.setF r v else c.setG r v

end Sys2Proof.Machine
end

