-- ==== Sys2Proof/Machine/Rights.lean ====
section
/-! DEFINITION. The block local address map (R94), the world bounds (R343, R348, R349) and remote addresses (R96, R352). -/

namespace Sys2Proof.Machine

/-- The granule of an address (R343): its 14 bits count within the management core's map too (DESIGN CHOICE, log entry 57). -/
def granule (a : Nat) : Nat := a / 1024 % 16384

/-- An address lies in the region of a bounds register (R343). -/
def Bound.holds (bd : Bound) (a : Nat) : Bool :=
  bd.en && decide (bd.base.toNat ≤ granule a) && decide (granule a ≤ bd.last.toNat)

/-- A context may load and store the local-store byte at `a` (R349). -/
def Priv.lsByte (p : Priv) (c : Ctx) (a : Nat) : Bool :=
  match c.world with
  | none => true
  | some w =>
    let own := match w with | .a => p.boundLA | .b => p.boundLB
    let other := match w with | .a => p.boundLB | .b => p.boundLA
    p.boundLS.holds a ||
      (own.holds a && !other.holds a && (!c.isUser || decide (granule a < own.split.toNat)))

/-- A context may load and store every byte of `n` bytes at `a`: the rights are the same within a granule of 1 KiB. -/
def Priv.lsBytes (p : Priv) (c : Ctx) (a n : Nat) : Bool :=
  (List.range' (a / 1024) ((a + n - 1) / 1024 + 1 - a / 1024)).all fun g => p.lsByte c (g * 1024)

/-- `n` bytes at `a` lie wholly in local store (R94). -/
def inLs (a n : Nat) : Bool := decide (0x100000 ≤ a) && decide (a + n ≤ 0x160000)

def inIm (a : Nat) : Bool := decide (0x10000 ≤ a) && decide (a < 0x18000)

def inRom (a : Nat) : Bool := decide (a < 0x2000)

def inCr (a : Nat) : Bool := decide (0x300000 ≤ a) && decide (a < 0x310000)

/-- A local address is mapped (R94). -/
def mapped (a : Nat) : Bool := inRom a || inIm a || inLs a 1 || inCr a

/-- A context may fetch at an address (R94, R348). -/
def Priv.fetchOk (p : Priv) (c : Ctx) (pc : W64) : Bool :=
  let a := pc.toNat
  match c.world with
  | none => inRom a || inIm a
  | some w => decide (0x10000 ≤ a) && decide (a < 0x17C00) && (match w with | .a => p.boundIA | .b => p.boundIB).holds a

/-! ## The management core's map (R554, R555) -/

/-- Boot ROM, flash window and firmware data of the management core. -/
def inBootRom (a : Nat) : Bool := decide (a < 0x8000)
def inFlash (a : Nat) : Bool := decide (0x10000000 ≤ a) && decide (a < 0x20000000)
def inFirmwareData (a n : Nat) : Bool := decide (0x20060000 ≤ a) && decide (a + n ≤ 0x20080000)

/-- `n` bytes at `a` lie in the data memory of a core, in which its TSBs and vector tables lie (R339, R341). -/
def inData (b : BlockId) (a n : Nat) : Bool := if b = mgmtCore then inFirmwareData a n else inLs a n

/-- A core may fetch at its pc in its context: the boot ROM is M's, the flash window M's and World A's (R555). -/
def State.mayFetch (s : State) (b : BlockId) : Bool :=
  let x := s.blk b
  if b = mgmtCore then (inBootRom x.core.pc.toNat && decide (x.priv.ctx = .m)) || inFlash x.core.pc.toNat
  else x.priv.fetchOk x.priv.ctx x.core.pc

/-- A remote address: bit 47 set and bits [63:48] clear (R96). -/
def isRemote (a : W64) : Bool := decide (a.toNat / 2 ^ 47 = 1)

/-- The fields of a remote address (R96). -/
def remDev (a : W64) : BitVec 7 := a.extractLsb' 40 7
def remBlock (a : W64) : BlockId := BitVec.ofNat 16 ((a.extractLsb' 38 2).toNat * 4096 + (a.extractLsb' 32 6).toNat * 64 + (a.extractLsb' 26 6).toNat)
def remOff (a : W64) : Nat := (a.extractLsb' 0 26).toNat

/-- A plan is bound (R52, R352): plan states 3 to 7. -/
def State.isBound (s : State) : Bool :=
  match s.plan with
  | .bound => true | .starting => true | .running => true | .stopping => true | .halted => true | _ => false

/-- A remote address names a device of the bound plan's system map, or device 0 when no plan is bound (R352). -/
def State.devMapped (s : State) (d : BitVec 7) : Bool :=
  if s.isBound then decide (d ∈ s.sysDevs) else decide (d = 0)

/-- The remote address names this device. -/
def State.isOwn (s : State) (d : BitVec 7) : Bool := if s.isBound then decide (d = s.devNum) else decide (d = 0)

end Sys2Proof.Machine
end

