-- ==== Sys2Proof/Machine/Footpath.lean ====
section
/-! DEFINITION. The footpath network (R414 to R419, R745): places and routes, packets, and the requests of a core. -/

namespace Sys2Proof.Machine

/-- The edge die that serves a Dzixon port: P0 to P3 on E0, P4 to P7 on E1 (R38). -/
def edgeOfPort (p : Nat) : Edge := if p < 4 then .e0 else .e1

/-- The column code of an edge die in a packet (R416). -/
def Edge.code : Edge → Nat
  | .e0 => 0xFE | .e1 => 0xFF

/-! ## Places and routes (R414, R744, R745) -/

/-- The place of a block's footpath node: its device-wide physical coordinates, 66 columns and rows to a quarter. The management core is on E0. A block that
is not there (R744) has the column 0xFD of no node. -/
def State.fpCoord (s : State) (b : BlockId) : FpPos :=
  let q := quarterOf b
  if b = mgmtCore then (0xFE, 0)
  else if s.present b then ((s.physOf b).1 + 66 * (q % 2), (s.physOf b).2 + 66 * (q / 2))
  else (0xFD, 0)

/-- The place of a node. The management core has none of its own beside that of E0. -/
def State.nodePos (s : State) : FpNode → FpPos
  | .block b => if b = mgmtCore then (0xFD, 0) else s.fpCoord b
  | .edge e => (Edge.code e, 0)

/-- The place that the coordinates of a packet name (R416). -/
def fpPos (x y : BitVec 8) : FpPos := if 0xFE ≤ x.toNat then (x.toNat, 0) else (x.toNat, y.toNat)

/-- The coordinates of a place in a packet. -/
def FpPos.px (p : FpPos) : BitVec 8 := BitVec.ofNat 8 p.1
def FpPos.py (p : FpPos) : BitVec 8 := BitVec.ofNat 8 p.2

def packetDest (p : FpPacket) : FpPos := fpPos p.dpx p.dpy
def packetSource (p : FpPacket) : FpPos := fpPos p.spx p.spy

/-- The place names a node. -/
def isNode (p : FpPos) : Bool := decide (0xFE ≤ p.1) || (decide (p.1 < 132) && decide (p.2 < 132))

/-- The node at which an edge die joins the footpath network in a quarter column: (0, 0) and (66, 0) for E0, (0, 131) and (66, 131) for E1. -/
def gatePoint (die col : Nat) : FpPos := (if col < 66 then 0 else 66, if die = 0xFE then 0 else 131)

/-- One coordinate nearer. -/
def nearer (a t : Nat) : Nat := if a < t then a + 1 else if t < a then a - 1 else a

/-- The node after `cur` on the way to `dst`: along X and then Y, or Y first (`yx`). A packet from an edge die enters in the quarter column of its destination, one
to the other edge die at column 0; one bound for an edge die crosses at that die's point in its own quarter column. -/
def nextHop (yx : Bool) (cur dst : FpPos) : FpPos :=
  if 0xFE ≤ cur.1 then (if dst.1 = cur.1 then cur else gatePoint cur.1 (if 0xFE ≤ dst.1 then 0 else dst.1))
  else
    let t := if 0xFE ≤ dst.1 then gatePoint dst.1 cur.1 else dst
    if cur = t then dst
    else if yx then (if cur.2 ≠ t.2 then (cur.1, nearer cur.2 t.2) else (nearer cur.1 t.1, cur.2))
    else if cur.1 ≠ t.1 then (nearer cur.1 t.1, cur.2) else (cur.1, nearer cur.2 t.2)

/-- No node after `cur` on the way to `dst` has failed its test. -/
def wayClear (failed : List FpPos) (yx : Bool) : Nat → FpPos → FpPos → Bool
  | 0, _, _ => false
  | n + 1, cur, dst =>
    decide (cur = dst) || (let h := nextHop yx cur dst; !(failed.any fun f => decide (f = h)) && wayClear failed yx n h dst)

/-- The order in which a packet is routed: along X first, along Y first where the other way meets a failed node, none where neither way is clear (R745). -/
def State.fpRoute (s : State) (cur dst : FpPos) : Option Bool :=
  if !isNode dst then none
  else if s.fpFailed = [] then some false
  else if wayClear s.fpFailed false 400 cur dst then some false
  else if wayClear s.fpFailed true 400 cur dst then some true
  else none

/-! ## Packets (R415, R416) -/

/-- A packet of this kind asks for an answer. -/
def packetAsks (p : FpPacket) : Bool := decide (p.kind = 0 ∨ p.kind = 2 ∨ p.kind = 5 ∨ p.kind = 6)

/-- The class of a packet (R415): 0 response, 1 request, 2 trace. -/
def packetClass (p : FpPacket) : Nat := if p.kind = 1 ∨ p.kind = 3 ∨ p.kind = 4 then 0 else if p.kind = 7 then 2 else 1

/-- The head flit (R416). -/
def headFlit (p : FpPacket) : W64 :=
  BitVec.ofNat 64 (p.dpx.toNat + 2 ^ 8 * p.dpy.toNat + 2 ^ 16 * p.spx.toNat + 2 ^ 24 * p.spy.toNat + 2 ^ 32 * p.kind.toNat + 2 ^ 36 * p.tag.toNat
    + 2 ^ 38 * p.data.length + 2 ^ 42 * p.txn.toNat + 2 ^ 50 * p.err.toNat)

/-- The flits of a packet (R416): the head flit, the address flit of a request, whose spare bits hold the bytes asked for (DESIGN CHOICE, log entry 16), and
the data flits. -/
def packetFlits (p : FpPacket) : List W64 :=
  headFlit p :: (if packetAsks p then [BitVec.ofNat 64 (p.addr.toNat + 2 ^ 48 * p.size)] else []) ++ p.data

/-- The packet that a string of flits is. -/
def packetOf (l : List W64) : FpPacket :=
  let h := (l[0]?).getD 0
  let n := min (h.extractLsb' 38 4).toNat 8
  let p : FpPacket :=
    { dpx := h.extractLsb' 0 8, dpy := h.extractLsb' 8 8, spx := h.extractLsb' 16 8, spy := h.extractLsb' 24 8, kind := h.extractLsb' 32 4,
      tag := h.extractLsb' 36 2, txn := h.extractLsb' 42 8, err := h.extractLsb' 50 4, addr := 0, size := 8 * n, data := (l.drop 1).take n }
  if packetAsks p then
    let a := (l[1]?).getD 0
    { p with addr := a.extractLsb' 0 48, size := min (a.extractLsb' 48 16).toNat 64, data := (l.drop 2).take n }
  else p

/-- The answer to a packet, back to its source. -/
def answer (p : FpPacket) (kind : Nat) (err : BitVec 4) (data : List W64) : FpPacket :=
  { dpx := p.spx, dpy := p.spy, spx := p.dpx, spy := p.dpy, kind := BitVec.ofNat 4 kind, tag := p.tag, txn := p.txn, err := err,
    addr := 0, size := 8 * data.length, data := data }

/-- A packet goes onto the link toward its next node. One that no way reaches its destination goes no further: a request is answered with ERR 2 (R745). -/
def State.sendPacket (s : State) (here : FpPos) (p : FpPacket) : State :=
  match s.fpRoute here (packetDest p) with
  | some yx => { s with footpath := s.footpath ++ [⟨here, nextHop yx here (packetDest p), yx, 0, false, p⟩] }
  | none =>
    if packetAsks p then
      let a := answer p 4 2 []
      { s with footpath := s.footpath ++ [⟨here, nextHop false here (packetDest a), false, 0, false, a⟩] }
    else s

/-! ## Requests of a core (R97, R137, R174) -/

/-- Where a packet for a remote address goes (R414, R419): a block of this device, or the edge die toward another device. -/
def State.fpDest (s : State) (a : W64) : FpPos :=
  if s.isOwn (remDev a) then s.fpCoord (remBlock a)
  else (Edge.code (edgeOfPort (look 0 s.routes (remDev a).toNat)), 0)

/-- Transaction numbers in use at a core's node: those of its outstanding accesses, and on E0 those of the requests of other devices and of DEBUG. -/
def State.txnUsed (s : State) (b : BlockId) (t : BitVec 8) : Bool :=
  let c := (s.blk b).core
  c.remLoads.any (fun l => decide (l.txn = t)) || c.remStores.any (fun l => decide (l.txn = t))
    || (decide (b = mgmtCore) && (decide (s.tap.asked = some t) || s.proxies.any fun x => decide (x.txn = t)))

/-- The first transaction number that is free at a core's node (R416). -/
def State.freshTxn (s : State) (b : BlockId) : BitVec 8 :=
  let t0 := (s.blk b).core.nextTxn
  t0 + BitVec.ofNat 8 (((List.range 256).find? fun n => !s.txnUsed b (t0 + BitVec.ofNat 8 n)).getD 0)

/-- The block is there (R744, R31), its quarter's PLL runs and its local store ticks (R516, R639). -/
def State.reachable (s : State) (b : BlockId) : Bool := decide (b ≠ mgmtCore) && s.present b && s.branchTicks b 5

/-- A request packet of a core. -/
def State.requestTo (s : State) (b : BlockId) (d : FpPos) (a : BitVec 48) (kind : Nat) (tag : WTag) (txn : BitVec 8) (size : Nat) (data : List W64) :
    FpPacket :=
  let o := s.fpCoord b
  { dpx := FpPos.px d, dpy := FpPos.py d, spx := FpPos.px o, spy := FpPos.py o, kind := BitVec.ofNat 4 kind, tag := tag.code, txn := txn, err := 0, addr := a, size := size,
    data := data }

/-- A request packet of a block for a remote address. -/
def State.request (s : State) (b : BlockId) (a : W64) (kind : Nat) (tag : WTag) (txn : BitVec 8) (size : Nat) (data : List W64) : FpPacket :=
  s.requestTo b (s.fpDest a) (a.setWidth 48) kind tag txn size data

/-- A new remote load of a core leaves as the packet `p` (R97, R137). -/
def State.loadLeaves (s : State) (b : BlockId) (a : BitVec 48) (fn : LoadFn) (rd : Reg) (p : FpPacket) : State :=
  let x := s.blk b
  let l : RemoteLoad := ⟨p.txn, fn, rd, a, x.priv.ctx⟩
  (s.setBlk b { x with core := { x.core with remLoads := x.core.remLoads ++ [l], nextTxn := p.txn + 1 } }).sendPacket (s.fpCoord b) p

/-- A new posted remote store, or an mbx.send, of a core leaves as the packet `p` (R97, R174). -/
def State.storeLeaves (s : State) (b : BlockId) (a : BitVec 48) (mbx : Bool) (p : FpPacket) : State :=
  let x := s.blk b
  let l : RemoteStore := ⟨p.txn, a, mbx, x.priv.ctx⟩
  (s.setBlk b { x with core := { x.core with remStores := x.core.remStores ++ [l], nextTxn := p.txn + 1 } }).sendPacket (s.fpCoord b) p

def State.sendLoad (s : State) (b : BlockId) (a : W64) (fn : LoadFn) (rd : Reg) : State :=
  s.loadLeaves b (a.setWidth 48) fn rd (s.request b a 0 (s.blk b).priv.ctx.tag (s.freshTxn b) fn.size [])

def State.sendStore (s : State) (b : BlockId) (a : W64) (mbx : Bool) (size : Nat) (v : W64) : State :=
  s.storeLeaves b (a.setWidth 48) mbx (s.request b a (if mbx then 5 else 2) (s.blk b).priv.ctx.tag (s.freshTxn b) size [v])

/-! ## The late-store log (R369) -/

/-- Puts an error into the first free entry; false when all four are valid. -/
def logLate (e : LsEntry) : List LsEntry → List LsEntry × Bool
  | [] => ([], false)
  | x :: t => if x.valid then (let r := logLate e t; (x :: r.1, r.2)) else (e :: t, true)

/-- A footpath access error returns to a block (R369): the lowest-numbered free entry, or the lost count. -/
def Priv.late (p : Priv) (addr : BitVec 48) (kind : BitVec 2) (ctx : Ctx) (err : BitVec 4) : Priv :=
  let r := logLate ⟨addr, true, kind, ctx.code, true, err⟩ p.lslog
  if r.2 then { p with lslog := r.1 }
  else { p with lsLost := if p.lsLost = 0xFFFF then p.lsLost else p.lsLost + 1 }

end Sys2Proof.Machine
end

