-- ==== Sys2Proof/Machine/HostEvent.lean ====
section
/-! DEFINITION. What the device does to the host unasked: MSI-X messages (R475, R499), the events of HIF_EVT_PEND (R477, R478), and events that
are both journaled and shown there. -/

namespace Sys2Proof.Machine

/-- Bytes written to host memory. DESIGN CHOICE, log entry 56. -/
def State.hostWrite (s : State) (a : Nat) (l : List Byte) : State := { s with hostMem := mstore s.hostMem a l }

/-- The device issues no upstream request: it is in D3hot (R522), or Bus Master Enable of the PCI Express standard is 0 (R473). PRESUMED, log entry 75. -/
def Hif.quiet (h : Hif) : Bool := h.d3hot || !h.cfg.command.getLsbD 2

/-- The host reaches the BARs: the link is up and Memory Space Enable of the PCI Express standard is 1 (R473, R474). PRESUMED, log entry 75. -/
def State.barsUp (s : State) : Bool := s.hif.linkUp && s.hif.cfg.command.getLsbD 1

/-- No vector sends its message: MSI-X is not enabled or the whole function is masked (R499), or no request goes upstream. -/
def Hif.silent (h : Hif) : Bool := !h.cfg.msixEn || h.cfg.msixMask || h.quiet

/-- AER reports uncorrectable errors: they are counted, and their bits of the status set (R473, R525). -/
def Hif.aer (h : Hif) (bits : BitVec 32) : Hif :=
  { h with aerUncorr := h.aerUncorr + 1, cfg := { h.cfg with aerStatus := h.cfg.aerStatus ||| bits } }

/-- Bits of the uncorrectable error status: a poisoned TLP, a completion timeout, a Completer Abort. -/
def aerPoisoned : BitVec 32 := 0x1000
def aerTimeout : BitVec 32 := 0x4000
def aerAbort : BitVec 32 := 0x8000

/-- Vector `v` is raised: its message is written, or its pending bit set while it is masked or no message can go (R475, R499, R522).
DESIGN CHOICE, log entry 63. -/
def State.raiseVector (s : State) (v : BitVec 6) : State :=
  let e := look MsixEntry.reset s.hif.msix v.toNat
  if e.ctrl.getLsbD 0 || s.hif.silent then { s with hif := { s.hif with pba := s.hif.pba ||| (1#64 <<< v.toNat) } }
  else s.hostWrite e.addr.toNat (leBytes 4 e.data.toNat)

/-- Events of HIF_EVT_PEND (R477). -/
def evtPlan : Nat := 0
def evtVoid : Nat := 1
def evtHalt : Nat := 2
def evtSummary : Nat := 3
def evtLink : Nat := 4
def evtThermal : Nat := 5
def evtQerr : Nat := 6
def evtBp : Nat := 7

/-- Event `n` becomes pending; it raises VEC when its bit rises, EN is 1 and it is not masked (R478). -/
def State.hifEvent (s : State) (n : Nat) : State :=
  let h := s.hif
  let was := h.evtPend.getLsbD n
  let s := { s with hif := { h with evtPend := h.evtPend ||| (1#8 <<< n) } }
  if !was && h.evtCfg.getLsbD 6 && !h.evtCfg.getLsbD (16 + n) then s.raiseVector (h.evtCfg.extractLsb' 0 6) else s

/-- The plan state changes on its own (R505): event PLAN and a kind 0x0102 record. DEDUCED, log entry 44. -/
def State.planChange (s : State) (p : PlanSt) : State :=
  let old := s.plan
  (({ s with plan := p }).raise 0x0102 (BitVec.ofNat 64 p.code) (BitVec.ofNat 64 old.code)).hifEvent evtPlan

/-- A thermal, power or supply event is recorded (R477, R530). -/
def State.raiseThermal (s : State) (kind ref code : Nat) : State :=
  (s.raise kind (BitVec.ofNat 64 ref) (BitVec.ofNat 64 code)).hifEvent evtThermal

end Sys2Proof.Machine
end

