-- ==== Sys2Proof/Machine/Flits.lean ====
section
/-! DEFINITION. Planned flits: their tags (R388), messages in hold buffers (R398, R403), the edge dies and ports that carry them (R863), and the
discards on entry to BOUND, EMPTY and HALTED (R88, R406, R764). -/

namespace Sys2Proof.Machine

/-! ## Tags (R388) -/

def Flit.ch (f : Flit) : ChanId := f.tag.extractLsb' 0 7
def Flit.last (f : Flit) : Bool := f.tag.getLsbD 7
def Flit.world (f : Flit) : Bool := f.tag.getLsbD 8
def Flit.trailer (f : Flit) : Bool := f.tag.getLsbD 9
def Flit.lag (f : Flit) : Nat := (f.tag.extractLsb' 10 6).toNat
def Flit.rcycle (f : Flit) : Nat := (f.tag.extractLsb' 16 20).toNat

/-- A tag from its fields. -/
def mkTag (ch : ChanId) (last world trailer : Bool) (lag : BitVec 6) (rcycle : BitVec 20) : BitVec 40 :=
  (0 : BitVec 4) ++ rcycle ++ lag ++ BitVec.ofBool trailer ++ BitVec.ofBool world ++ BitVec.ofBool last ++ ch

/-- The 296-bit string that a flit's parity covers (R388). -/
def flitString (tag : BitVec 40) (payload : BitVec 256) : BitVec 296 := tag ++ payload

/-- The eight even-parity bits of a string: bit j covers the bits whose number is j modulo 8 (R388). -/
def parityOf (v : BitVec 296) : BitVec 8 := (List.range 37).foldl (fun p i => p ^^^ v.extractLsb' (8 * i) 8) 0

/-- A flit with the parity of its tag and payload. -/
def mkFlit (tag : BitVec 40) (payload : BitVec 256) : Flit := ⟨tag, payload, parityOf (flitString tag payload)⟩

/-- The parity check of a flit (R392). -/
def Flit.parityOk (f : Flit) : Bool := decide (f.parity = parityOf (flitString f.tag f.payload))

/-- A flit some of whose bits a link has turned: the parity bits are [303:296], the tag [295:256], the payload [255:0]. -/
def Flit.turned (f : Flit) (noise : BitVec 304) : Flit :=
  ⟨f.tag ^^^ noise.extractLsb' 256 40, f.payload ^^^ noise.extractLsb' 0 256, f.parity ^^^ noise.extractLsb' 296 8⟩

/-- The same flit with another LAG (R445, R446). -/
def Flit.withLag (f : Flit) (n : Nat) : Flit :=
  mkFlit (mkTag f.ch f.last f.world f.trailer (BitVec.ofNat 6 n) (f.tag.extractLsb' 16 20)) f.payload

/-- Words among flits: trailers are none (R762). -/
def words (l : List Flit) : Nat := (l.filter fun f => !f.trailer).length

/-! ## Hold buffers -/

/-- What names a message in a hold buffer: its release epoch, release cycle, channel and world; release cycles are distinct (R402). -/
def Held.key (h : Held) : W64 × Nat × ChanId × Bool := (h.release, h.flit.rcycle, h.flit.ch, h.flit.world)

/-- The messages of a hold buffer. -/
def messageKeys (l : List Held) : List (W64 × Nat × ChanId × Bool) := (l.map Held.key).eraseDups

/-- The last flit of a message has arrived (R398): the LAST flit, or the trailer when its channel's GUARD is 1. -/
def complete (guarded : Bool) (l : List Held) : Bool := l.any fun h => if guarded then h.flit.trailer else h.flit.last

def heldWords (l : List Held) : Nat := words (l.map Held.flit)

/-! ## Edge dies and ports -/

def State.edgeDie (s : State) (e : Edge) : EdgeDie := match e with | .e0 => s.edge0 | .e1 => s.edge1

def State.setEdge (s : State) (e : Edge) (d : EdgeDie) : State :=
  match e with | .e0 => { s with edge0 := d } | .e1 => { s with edge1 := d }

def State.modEdge (s : State) (e : Edge) (f : EdgeDie → EdgeDie) : State := s.setEdge e (f (s.edgeDie e))

def edgeIndex : Edge → Nat | .e0 => 0 | .e1 => 1

def edgeOf (n : Nat) : Edge := if n = 0 then .e0 else .e1

def State.port (s : State) (p : Nat) : DPort := look DPort.reset s.ports p

def State.setPort (s : State) (p : Nat) (x : DPort) : State := { s with ports := put s.ports p x }

def State.modPort (s : State) (p : Nat) (f : DPort → DPort) : State := s.setPort p (f (s.port p))

/-- The ports of the device. -/
def allPorts : List Nat := [0, 1, 2, 3, 4, 5, 6, 7]

def State.eachPort (s : State) (f : State → Nat → State) : State := allPorts.foldl f s

/-- The port of an edge crossbar endpoint 128 to 143 (R863). -/
def portOf (e : Edge) (endpoint : Nat) : Nat := 4 * edgeIndex e + (endpoint - 128) / 4

/-- Planned flits discarded at a port, saturating at 32 bits (R423). -/
def DPort.lose (p : DPort) (tx rx : Nat) : DPort :=
  { p with dropTx := min (p.dropTx + tx) (2 ^ 32 - 1), dropRx := min (p.dropRx + rx) (2 ^ 32 - 1) }

/-- The transmit queue in cycle `c` (R441): those flits have joined whose cycle has come; one that found 64 queued is discarded and counted. -/
def DPort.queueAt (p : DPort) (c : Nat) : DPort :=
  let here := p.queue.filter fun f => decide (f.cycle ≤ c)
  { p.lose (here.length - 64) 0 with queue := here.take 64 ++ p.queue.filter fun f => !decide (f.cycle ≤ c) }

/-- A port as it stands now. -/
def State.portNow (s : State) (p : Nat) : DPort := if s.epoch.active then (s.port p).queueAt s.epoch.cycle else s.port p

/-! ## Discards of a stop or halt (R88, R406, R764) -/

def landWords (t : Tab (List LandFlit)) : Nat := (t.map fun e => words (e.2.map LandFlit.flit)).sum

def movingWords (t : Tab (List (Flit × Nat))) : Nat := (t.map fun e => words (e.2.map Prod.fst)).sum

/-- Words of a block that the discard takes: held and landed ones, and at an immediate halt also those in its crossing. -/
def Block.discardWords (x : Block) (now : Bool) : Nat :=
  heldWords x.msg.hold + landWords x.xng.land
    + if now then movingWords x.xng.inp + movingWords x.xng.wire + words (x.xng.outL.map Prod.fst) else 0

/-- A block whose planned flits are gone; held messages are counted in MSG_DISCARDS. -/
def Block.discarded (x : Block) : Block :=
  { x with
    msg := { x.msg with discards := x.msg.discards + BitVec.ofNat 64 (messageKeys x.msg.hold).length, hold := [] }
    xng := { x.xng with inp := [], wire := [], land := [], picked := [], outL := [] } }

def EdgeDie.discardWords (d : EdgeDie) (now : Bool) : Nat :=
  landWords d.land + if now then movingWords d.inp + movingWords d.wire + movingWords d.outL else 0

def EdgeDie.discarded (d : EdgeDie) : EdgeDie := { d with inp := [], wire := [], land := [], picked := [], outL := [] }

/-- Flits in a port's landing buffers. -/
def EdgeDie.portLanded (d : EdgeDie) (p : Nat) : Nat :=
  ((d.land.filter fun e => decide (128 ≤ e.1 ∧ (e.1 - 128) / 4 = p % 4)).map fun e => e.2.length).sum

/-- Every held message and every flit in a landing buffer or transmit queue is discarded, and its words count as received; `now` also takes
those in crossings and on boundaries, as an immediate halt does. -/
def State.discardHeld (s : State) (now : Bool) : State :=
  let s := s.eachPort fun s p => if (s.port p).queue = [] then s else s.setPort p (s.portNow p)
  let n := (s.blocks.map fun e => e.2.discardWords now).sum + (s.outlets.map fun e => heldWords e.2.hold).sum
    + s.edge0.discardWords now + s.edge1.discardWords now + (s.ports.map fun e => words (e.2.queue.map TxFlit.flit)).sum
  let s := s.receivedWords n
  let s := s.eachPort fun s p =>
    let rx := (s.edgeDie (edgeOf (p / 4))).portLanded p
    let tx := (s.port p).queue.length
    if rx = 0 ∧ tx = 0 then s else s.modPort p fun x => { x.lose tx rx with queue := [] }
  { s with
    blocks := s.blocks.map fun e => (e.1, e.2.discarded)
    outlets := s.outlets.map fun e => (e.1, { e.2 with hold := [] })
    edge0 := s.edge0.discarded
    edge1 := s.edge1.discarded }

end Sys2Proof.Machine
end

