-- ==== Sys2Proof/Machine/TraceUnit.lean ====
section
/-! DEFINITION. The trace unit of a block: records, channels C and G, and the packets it forms (R784 to R798). -/

namespace Sys2Proof.Machine

/-- A PC field: bits [23:0] (R784). -/
def pcBytes (a : W64) : List Byte := leBytes 3 a.toNat

/-- An outcome record of `l`, oldest first (R784). -/
def branchRecord (l : List Bool) : List Byte :=
  [BitVec.ofNat 8 (1 + 16 * (l.length - 1)), BitVec.ofNat 8 (
    l.foldr (fun o n => boolBit o + 2 * n) 0)]

/-- The fewest bytes, 1 to 4, that hold a value (R784). -/
def deltaLen (n : Nat) : Nat := if n < 256 then 1 else if n < 65536 then 2 else if n < 16777216 then 3 else 4

/-- A DELTA record. -/
def deltaRecord (n : Nat) : List Byte := BitVec.ofNat 8 (2 + 16 * (deltaLen n - 1)) :: leBytes (deltaLen n) n

/-- A SYNC record of the block (R784). -/
def syncRecord (s : State) (b : BlockId) : List Byte :=
  let x := s.blk b
  let status := x.priv.ctx.code.toNat + 8 * x.priv.mask.toNat + 64 * boolBit x.core.loopActive + 128 * boolBit (s.holdOpen b)
  [0x0A] ++ pcBytes x.core.pc ++ [BitVec.ofNat 8 status] ++ pcBytes x.core.loopStart ++ [BitVec.ofNat 8 x.core.loopLen.toNat]
    ++ leBytes 8 s.epoch.num.toNat ++ leBytes 8 (s.blkCycles b)

/-- A GTS record: system time and BLK_CYCLES bits [31:0] (R784, R798). -/
def gtsRecord (s : State) (b : BlockId) : List Byte :=
  [0x09] ++ leBytes 8 s.time64.toNat ++ leBytes 4 (s.blkCycles b)

/-- Closes the packet being formed: SEQ rises and the packet waits for its hand-over (R795); a packet that holds no record is not sent. -/
def Trc.close (t : Trc) (b : BlockId) (why : CloseWhy) : Trc :=
  if t.form = [] then t
  else { t with form := [], seq := t.seq + 1, closed := t.closed ++ [(why, ⟨b, t.seq, t.form⟩)] }

/-- The LOST record that goes before SYNC when packets were dropped (R793). -/
def lostRecord (t : Trc) : List Byte := if t.pend = 0 then [] else [0x0B] ++ leBytes 2 t.pend.toNat

/-- Readies the packet for a record of `n` bytes: one that does not fit closes the packet, and a packet that opens here begins as R793
states. -/
def State.openPacket (s : State) (b : BlockId) (n : Nat) : State :=
  let t := (s.blk b).trc
  let t := if 56 < t.form.length + n then t.close b .full else t
  if t.form = [] then
    if t.needSync || decide (t.seq.toNat % t.syncInt.toNat = 0) then
      let m := if t.pend = 0 then 1 else 2
      let t' := { t with form := lostRecord t ++ syncRecord s b, records := t.records + m, formFrom := s.ticks b,
                         pend := 0, needSync := false, lastTimed := s.blkCycles b }
      s.modBlk b fun x => { x with trc := t' }
    else s.modBlk b fun x => { x with trc := { t with formFrom := s.ticks b } }
  else s.modBlk b fun x => { x with trc := t }

/-- Puts one record into the packet being formed. -/
def State.putRecord (s : State) (b : BlockId) (rec : List Byte) : State :=
  (s.openPacket b rec.length).modBlk b fun x =>
    { x with trc := { x.trc with form := x.trc.form ++ rec, records := x.trc.records + 1 } }

/-- Emits the BRANCH record of the outcomes gathered so far, before another record (R784). -/
def State.flushOutcomes (s : State) (b : BlockId) : State :=
  match (s.blk b).trc.outcomes with
  | [] => s
  | l => (s.modBlk b fun x => { x with trc := { x.trc with outcomes := [] } }).putRecord b (branchRecord l)

def State.setTimed (s : State) (b : BlockId) : State :=
  s.modBlk b fun x => { x with trc := { x.trc with lastTimed := s.blkCycles b } }

/-- A GTS record (R797, R798). -/
def State.putGts (s : State) (b : BlockId) : State :=
  (s.putRecord b (gtsRecord s b)).modBlk b fun x => { x with trc := { x.trc with lastTimed := s.blkCycles b, lastGts := s.blkCycles b } }

/-- The DELTA of channel C, or the GTS that stands for it, before a timed record (R797); a SYNC that opens the packet counts as the record
before it. -/
def State.putDelta (s : State) (b : BlockId) : State :=
  if (s.blk b).trc.chanC then
    let s := s.openPacket b (deltaRecord (s.blkCycles b - (s.blk b).trc.lastTimed)).length
    let d := s.blkCycles b - (s.blk b).trc.lastTimed
    if d < 2 ^ 31 then (s.putRecord b (deltaRecord d)).setTimed b else s.putGts b
  else s

/-- The trace unit emits: EN is 1 and its branch ticks (R786). -/
def State.tracing (s : State) (b : BlockId) : Bool := (s.blk b).trc.en && s.branchTicks b 4

/-- A context is traced (R786). -/
def State.traced (s : State) (b : BlockId) (c : Ctx) : Bool := (s.blk b).trc.ctxMask.getLsbD c.code.toNat

/-- A timed record of an event in context `c` (R785, R797). -/
def State.traceRecord (s : State) (b : BlockId) (on : Bool) (rec : List Byte) : State :=
  if s.tracing b && on then ((s.flushOutcomes b).putDelta b).putRecord b rec else s

/-- A branch or loop outcome (R784, R785, R797): with channel C each has a record of its own. -/
def State.traceOutcome (s : State) (b : BlockId) (taken : Bool) : State :=
  if s.tracing b && s.traced b (s.blk b).priv.ctx then
    if (s.blk b).trc.chanC then ((s.flushOutcomes b).putDelta b).putRecord b (branchRecord [taken])
    else
      let l := (s.blk b).trc.outcomes ++ [taken]
      let s := s.modBlk b fun x => { x with trc := { x.trc with outcomes := l } }
      if 8 ≤ l.length then s.flushOutcomes b else s
  else s

/-- The packet being formed closes for `why` (R795), after the outcomes gathered. -/
def State.traceClose (s : State) (b : BlockId) (why : CloseWhy) : State :=
  if (s.blk b).trc.en then
    let s := s.flushOutcomes b
    s.modBlk b fun x => { x with trc := x.trc.close b why }
  else s

/-- TARGET of a jalr (R785). -/
def State.traceTarget (s : State) (b : BlockId) (target : W64) : State :=
  s.traceRecord b (s.traced b (s.blk b).priv.ctx) ([0x03] ++ pcBytes target)

/-- EWAIT with the epoch cycle of retirement; it closes the packet (R785, R795). -/
def State.traceEwait (s : State) (b : BlockId) : State :=
  (s.traceRecord b (s.traced b (s.blk b).priv.ctx) ([0x07] ++ leBytes 3 s.epoch.cycle)).traceClose b .ewait

/-- PARK with the cause code; it closes the packet (R785, R795). -/
def State.tracePark (s : State) (b : BlockId) (cause : Nat) : State :=
  (s.traceRecord b (s.traced b (s.blk b).priv.ctx) [0x08, BitVec.ofNat 8 cause]).traceClose b .park

/-- EPOCH at the start of an epoch program (R785). -/
def State.traceEpoch (s : State) (b : BlockId) : State :=
  s.traceRecord b (s.traced b (s.blk b).priv.ctx) ([0x06] ++ leBytes 2 s.epoch.num.toNat ++ pcBytes (s.blk b).core.entry)

/-- TRAP, recorded when either end is traced (R786). -/
def State.traceTrap (s : State) (b : BlockId) (cause : BitVec 6) (async esc : Bool) (src dst : Ctx) (saved handler : W64) : State :=
  s.traceRecord b (s.traced b src || s.traced b dst)
    ([0x04, BitVec.ofNat 8 (cause.toNat + 64 * boolBit async + 128 * boolBit esc), BitVec.ofNat 8 (src.code.toNat + 8 * dst.code.toNat)]
      ++ pcBytes saved ++ pcBytes handler)

/-- TRET, recorded when either end is traced (R786). -/
def State.traceTret (s : State) (b : BlockId) (src dst : Ctx) (pc : W64) : State :=
  s.traceRecord b (s.traced b src || s.traced b dst)
    ([0x05, BitVec.ofNat 8 (src.code.toNat + 8 * dst.code.toNat)] ++ pcBytes pc)

/-- MARK carrying a value (R785). -/
def State.traceMark (s : State) (b : BlockId) (v : W64) : State :=
  s.traceRecord b (s.traced b (s.blk b).priv.ctx) ([0x0C] ++ leBytes 2 v.toNat)

/-- GTS, which stands for a timed record and does not depend on the context (R785, R798). -/
def State.traceGts (s : State) (b : BlockId) : State :=
  if s.tracing b then (s.flushOutcomes b).putGts b else s

/-- A SYNC record at the next record boundary (R794). -/
def State.traceSync (s : State) (b : BlockId) : State :=
  if s.tracing b then ((s.flushOutcomes b).putRecord b (syncRecord s b)).setTimed b else s

end Sys2Proof.Machine
end

