-- ==== Sys2Proof/Machine/Issue.lean ====
section
/-! DEFINITION. What every block instruction shares: standing in RD, the checks before issue, raising a fault, going on to the next
instruction, and the loop back-edge (R108 to R119, R138, R139, R371). -/

namespace Sys2Proof.Machine

/-- The late-store entry that a late store fault would serve: the lowest-numbered with NEW 1 (R370). -/
def lateIndex : List LsEntry → Nat → Option Nat
  | [], _ => none
  | e :: t, i => if e.valid && e.isNew then some i else lateIndex t (i + 1)

/-- A late store fault is pending (R369). -/
def Priv.latePending (p : Priv) : Bool := (lateIndex p.lslog 0).isSome

/-- An asynchronous event that an instruction boundary lets through (R358, R359): level 6 for the late store fault. -/
def State.asyncReady (s : State) (b : BlockId) : Bool :=
  let p := (s.blk b).priv
  p.pendV || p.pendM || (p.latePending && !s.holdOpen b && decide (p.mask.toNat < 6))

/-- The first issue of an epoch program is in epoch cycle 131 (R132). -/
def State.pastStart (s : State) (b : BlockId) : Bool :=
  !((s.blk b).core.inProgram && s.epoch.active) || decide (131 ≤ s.epoch.cycle)

/-- Code may run on the core in its context: the block is there, and on a spare that is not placed machine-level code alone (R31). -/
def State.mayRun (s : State) (b : BlockId) : Bool :=
  s.present b && (isLogical b || decide (b = mgmtCore) || decide ((s.blk b).priv.ctx = .m))

/-- An instruction stands in RD of block `b` and may issue as far as the block is concerned: the core fetches, the block is in RUN and its
clock runs (R635, R636), no fault waits for trap entry and no asynchronous event is let through (R371), and an epoch program has come to its first
issue (R132). DESIGN CHOICE, log entry 10. -/
def State.live (s : State) (b : BlockId) : Bool :=
  let x := s.blk b
  x.core.fetching && decide (x.clk.mode = .run) && s.clocked b && x.core.fault.isNone && !s.asyncReady b && s.mayRun b && s.pastStart b

/-! ## Fetch from the flash window (R560 to R563) -/

/-- The line of the flash window that holds an address. -/
def flashLine (a : Nat) : Nat := (a - 0x10000000) / 32

/-- The management core fetches from the flash window. -/
def State.fromFlash (s : State) (b : BlockId) : Bool := decide (b = mgmtCore) && inFlash (s.blk b).core.pc.toNat

/-- The word of the fetch is there: a fetch from the flash window is served from the line buffer (R560). -/
def State.lineReady (s : State) (b : BlockId) : Bool :=
  !s.fromFlash b || s.elt.lines.any fun l => decide (l.line = flashLine (s.blk b).core.pc.toNat)

/-- The core fetches from line `n`: it becomes the most recently fetched, and the first fetch from it queues the target lines of the valid
branch-target entries whose branch it holds, and line `n` + 1 (R560, R562, R563). DEDUCED, log entry 57. -/
def Elt.fetchLine (e : Elt) (n : Nat) : Elt :=
  match e.lines.find? fun l => decide (l.line = n) with
  | none => e
  | some l =>
    let e := { e with lines := { l with fetched := true } :: e.lines.filter fun l => !decide (l.line = n) }
    if l.fetched then e
    else
      let here := e.btb.filter fun x => decide (flashLine x.2.1.toNat = n) && inFlash x.2.2.toNat
      { e with targets := e.targets ++ here.map fun x => flashLine x.2.2.toNat, following := e.following ++ [n + 1] }

def State.lineFetched (s : State) (b : BlockId) : State :=
  if s.fromFlash b then { s with elt := s.elt.fetchLine (flashLine (s.blk b).core.pc.toNat) } else s

/-- A taken branch, jump or indirect jump to `target` retires from the flash window: its branch-target entry is written (R563). -/
def State.noteTaken (s : State) (b : BlockId) (target : W64) : State :=
  if s.fromFlash b then
    let pc := (s.blk b).core.pc
    { s with elt := { s.elt with btb := put s.elt.btb (pc.toNat / 4 % 64) (pc, target) } }
  else s

/-- The instruction in RD raises a synchronous fault (R139): nothing else changes. DEDUCED, log entry 19. -/
def State.raiseSync (s : State) (b : BlockId) (cause : Nat) (value : W64) : State :=
  s.modBlk b fun x => { x with core := { x.core with fault := some ⟨BitVec.ofNat 6 cause, value, x.core.pc, none, false⟩ } }

/-- The instruction in RD runs `k`, after the fetch check of rank 1 (R138); an instruction that cannot stand in RD, or whose word the line buffer lacks,
waits. -/
def State.issue (s : State) (b : BlockId) (k : State → State) : State :=
  if s.live b then
    if s.mayFetch b then (if s.lineReady b then k (s.lineFetched b) else s) else s.raiseSync b 1 (s.blk b).core.pc
  else s

/-- The instruction that stands in RD is checked in D (R138, R180, R252, R304): a reserved encoding, as some are on the management core alone (R556), raises
the reserved-encoding fault with its word. -/
def State.decoded (s : State) (b : BlockId) (i : Instr) (k : State → State) : State :=
  if reserved i || (decide (b = mgmtCore) && offMgmt ((instrWord i).getD 0)) then s.raiseSync b 2 (faultWord i) else k s

/-- The registers an instruction names are free (R108, R113); otherwise it waits. DESIGN CHOICE, log entry 10. -/
def State.whenFree (s : State) (b : BlockId) (gs fs : List Reg) (k : State → State) : State :=
  if (s.blk b).free gs fs then k s else s

def State.pcOf (s : State) (b : BlockId) : W64 := (s.blk b).core.pc

def State.getG (s : State) (b : BlockId) (r : Reg) : W64 := (s.blk b).core.getG r
def State.getF (s : State) (b : BlockId) (r : Reg) : W64 := (s.blk b).core.getF r

def State.setG (s : State) (b : BlockId) (r : Reg) (v : W64) : State :=
  s.modBlk b fun x => { x with core := x.core.setG r v }

def State.setPc (s : State) (b : BlockId) (v : W64) : State :=
  s.modBlk b fun x => { x with core := { x.core with pc := v, retired := x.core.retired + 1, loopOld := none } }

/-! ## The loop registers (R115 to R119) -/

def Core.loopRegs (c : Core) : LoopRegs := ⟨c.loopRemain, c.loopStart, c.loopLen, c.loopActive⟩

/-- The values of before the core's last write of its loop registers, where they still govern the instruction in RD at a count of the core's clock: it
issues less than 2 fcy after that write (R119). DEDUCED, log entry 61. -/
def Core.staleLoop (c : Core) (now : Nat) : Option LoopRegs :=
  match c.loopOld with
  | some (r, t) => if now < t + 2 then some r else none
  | none => none

/-- The loop values that govern the instruction in RD (R119). -/
def Core.governs (c : Core) (now : Nat) : LoopRegs := (c.staleLoop now).getD c.loopRegs

/-- What the instruction in RD decides on the loop: under values that a write has superseded the decision changes no register. DEDUCED, log entry 61. -/
def Core.decideLoop (c : Core) (now : Nat) (remain : BitVec 32) (active : Bool) : Core :=
  if (c.staleLoop now).isSome then c else { c with loopRemain := remain, loopActive := active }

/-- An address lies in the active loop body (R117). -/
def LoopRegs.inBody (r : LoopRegs) (a : W64) : Bool :=
  decide (r.start.toNat ≤ a.toNat) && decide (a.toNat < r.start.toNat + 4 * r.len.toNat)

/-- The instruction at `pc` is the last of the active loop body (R116). -/
def LoopRegs.atEnd (r : LoopRegs) (pc : W64) : Bool := r.active && decide (pc.toNat + 4 = r.start.toNat + 4 * r.len.toNat)

/-- The core after an instruction that does not redirect control: it goes on after it, or at the loop start (R116). -/
def Core.onward (c : Core) (now : Nat) : Core :=
  let r := c.governs now
  if r.atEnd c.pc then
    if r.remain ≠ 0 then { c.decideLoop now (r.remain - 1) true with pc := r.start }
    else { c.decideLoop now 0 false with pc := c.pc + 4 }
  else { c with pc := c.pc + 4 }

/-- The instruction issues without redirecting control (R116): it retires, and the next is the one after it or the loop start. -/
def State.advance (s : State) (b : BlockId) : State :=
  let now := s.ticks b
  let r := (s.blk b).core.governs now
  let s := if r.atEnd (s.blk b).core.pc then s.traceOutcome b (decide (r.remain ≠ 0)) else s
  s.modBlk b fun x => { x with core := { x.core.onward now with retired := x.core.retired + 1, loopOld := none } }

/-- The instruction redirects control to `target` (R117). -/
def State.redirect (s : State) (b : BlockId) (target : W64) : State :=
  let now := s.ticks b
  (s.modBlk b fun x =>
    let r := x.core.governs now
    { x with core := x.core.decideLoop now r.remain (r.active && r.inBody target) }).setPc b target

/-- The instruction writes a register through WB and goes on. -/
def State.finish (s : State) (b : BlockId) (rd : Reg) (v : W64) : State := (s.setG b rd v).advance b

/-- The instruction starts a long operation (R111) and goes on. -/
def State.startLong (s : State) (b : BlockId) (o : LongOp) : State :=
  (s.modBlk b fun x => { x with core := { x.core with longOps := x.core.longOps ++ [o] } }).advance b

end Sys2Proof.Machine
end

