-- ==== Sys2Proof/Machine/BlockClock.lean ====
section
/-! DEFINITION. The mode of a block and what entering, leaving and waking change (R632 to R640), shared by the rows that change a mode. -/

namespace Sys2Proof.Machine

/-- The counters CLK_FCY brought up to a count of fcy: WAKING counts as RUN (R632). -/
def Clk.settle (c : Clk) (now : Nat) : Clk :=
  let n := BitVec.ofNat 64 (now - c.since)
  match c.mode with
  | .run => { c with fcyRun := c.fcyRun + n, since := now }
  | .waking => { c with fcyRun := c.fcyRun + n, since := now }
  | .sleep => { c with fcySleep := c.fcySleep + n, since := now }
  | .deep => { c with fcyDeep := c.fcyDeep + n, since := now }

/-- What a wake from DEEP loses (R236, R292, R638), with ADDR and FROM_REG of the arcade lines (DESIGN CHOICE, log entry 80). -/
def Block.wipeRegs (x : Block) : Block :=
  { x with
    core := { x.core with g := [], f := [], loopActive := false, longOps := [] }
    queue := []
    vec := { x.vec with v := [], m := [], ac := [], grp := 0, run := [] }
    mtx := { x.mtx with t := [], z := [], array := [], port := [] } }

/-- The length of a wake in fcy (R637): 8 from SLEEP, 1.6 µs from DEEP. -/
def wakeFcy (from_ : Mode) (mhz : Nat) : Nat := if from_ = .deep then mhz * 8 / 5 else 8

/-- A change of mode takes effect now (R637): to SLEEP or DEEP at once, to RUN by starting a wake. Leaving RUN closes the trace packet
(R795); DEEP loses the hold buffer (R403). -/
def State.changeMode (s : State) (b : BlockId) (m : Mode) : State :=
  let x := s.blk b
  let now := s.ticks b
  if x.clk.mode = m ∨ m = .waking then s
  else
    let s := (if x.clk.mode = .run then s.traceClose b .mode else s).keepNext b
    let x := s.blk b
    let clk := x.clk.settle now
    let clk : Clk := match m with
      | .run => { clk with mode := .waking, left := x.clk.mode, target := .run,
                           wake := some (wakeFcy x.clk.mode (s.pll (quarterOf b)).mhz, now) }
      | _ => { clk with mode := m, left := m, target := m, wake := none }
    let y : Block := { x with clk := clk }
    s.setBlk b (if m = .deep then { y with msg := { y.msg with hold := [] } } else y)

/-- A request for a mode outside a running plan (R640): while WAKING it waits for the end of the wake. -/
def State.requestMode (s : State) (b : BlockId) (m : Mode) : State :=
  if (s.blk b).clk.mode = .waking then
    s.modBlk b fun x => { x with clk := { x.clk with req := some m, target := m } }
  else s.changeMode b m

/-- A wake completes (R637): the block is in RUN. From DEEP it has lost its registers, and outside an epoch program its core stays stopped
(R638, R640). A trace branch that resumes ticking opens its next packet with SYNC (R793). -/
def State.wakeDone (s : State) (b : BlockId) : State :=
  let x := s.blk b
  if x.clk.mode = .waking then
    let fromDeep := decide (x.clk.left = .deep)
    let sync := !x.clk.enables 4
    let clk := { x.clk.settle (s.ticks b) with mode := .run, left := .run, target := .run, wake := none, req := none }
    let y := if fromDeep then x.wipeRegs else x
    let y := if fromDeep && !x.core.inProgram then { y with core := { y.core with fetching := false, stopped := true } } else y
    let y : Block := { y with clk := clk, trc := { y.trc with needSync := y.trc.needSync || sync } }
    let s := s.setBlk b y
    match x.clk.req with
    | some m => s.changeMode b m
    | none => s
  else s

/-- Tokens of a block in its mode (R653): the base and the weight of each branch that ticks; WAKING counts as RUN. -/
def Clk.tokens (c : Clk) : Nat :=
  let mode := if c.mode = .waking then Mode.run else c.mode
  let base := match mode with | .run => 2 | .sleep => 1 | _ => 0
  let on i w := if c.en.getLsbD (3 * i + mode.code.toNat) then w else 0
  base + on 0 3 + on 1 10 + on 2 14 + on 3 2 + on 4 1 + on 5 3

/-- CLK_TOKENS (R653). -/
def State.tokens (s : State) (b : BlockId) : Nat := if s.pllOn (quarterOf b) then (s.blk b).clk.tokens else 0

/-- WAKE_LEFT (R634). -/
def State.wakeLeft (s : State) (b : BlockId) : Nat :=
  match (s.blk b).clk.wake with
  | none => 0
  | some (n, t) => n - (s.ticks b - t)

/-- A write of CLK_ registers is ignored while a plan starts, runs or stops (R632). -/
def State.clkLocked (s : State) : Bool :=
  match s.plan with
  | .starting => true | .running => true | .stopping => true | _ => false

/-- A CLK_REQ write of a code (R634): 3 is ignored. -/
def State.clkReq (s : State) (b : BlockId) (v : W64) : State :=
  if s.clkLocked then s
  else match v.toNat % 4 with
    | 0 => s.requestMode b .run
    | 1 => s.requestMode b .sleep
    | 2 => s.requestMode b .deep
    | _ => s

end Sys2Proof.Machine
end

