-- ==== Sys2Proof/Machine/ControlRegs.lean ====
section
/-! DEFINITION. The block control registers: what each reads, who may write it, and what a write does (R98 to R107, R166 to R170, R192 to R198,
R238 to R243, R294 to R298, R336 to R346, R381 to R387, R632 to R634, R781 to R783). -/

namespace Sys2Proof.Machine

/-- Who reaches a control register: a context of the block's own core, or a footpath access with its world tag (R99, R351). -/
inductive Who where
  | core (c : Ctx)
  | foot (t : WTag)
  deriving DecidableEq, Repr

/-- The context whose rights an access has (R351): a footpath access has those of its world's supervisor. -/
def Who.ctx : Who → Ctx
  | .core c => c
  | .foot .a => .aS
  | .foot .b => .bS
  | .foot .m => .m

/-- Least levels that may write (R100, R168, R336): `open_` any context, `sup` M and both supervisors, `supA` and `supB` M and one supervisor,
`m` M alone, `ro` a register all of whose fields are RO or that does not exist. -/
inductive Level where
  | ro | open_ | sup | supA | supB | m
  | late (n : Nat)
  deriving DecidableEq, Repr

/-- The level that a register names for writes, by offset. -/
def crLevel (off : Nat) : Level :=
  if off < 0x80 then (if off = 0x38 then .m else if off = 0x40 ∨ off = 0x48 then .open_ else .ro)
  else if off < 0x100 then (if off = 0x80 ∨ off = 0x88 then .open_ else .ro)
  else if off < 0x400 then .ro
  else if off < 0x500 then
    (if off = 0x400 then .sup
     else if off = 0x418 ∨ off = 0x428 then .supA
     else if off = 0x420 ∨ off = 0x430 then .supB
     else if off = 0x408 ∨ off = 0x410 ∨ off = 0x438 ∨ off = 0x440 ∨ off = 0x448 ∨ off = 0x458 ∨ off = 0x480 ∨ off = 0x488 ∨ off = 0x490
        ∨ off = 0x498 ∨ off = 0x4A0 then .m
     else .ro)
  else if off < 0x540 then (if off % 16 = 0 then .late ((off - 0x500) / 16) else .ro)
  else if off = 0x540 then .m
  else if off = 0x1000 then .open_
  else if off = 0x1008 ∨ off = 0x2008 then .m
  else if off = 0x3000 ∨ off = 0x3010 then .m
  else if off = 0x4000 ∨ off = 0x4008 then .open_
  else if off = 0x8000 ∨ (0xA000 ≤ off ∧ off < 0xC000) then .m
  else if off = 0xC000 ∨ (0xC800 ≤ off ∧ off < 0xD000) ∨ (0xE000 ≤ off ∧ off < 0x10000) then .m
  else .ro

/-- A context is at or above a level (R168, R336). -/
def Level.admits (l : Level) (p : Priv) (c : Ctx) : Bool :=
  match l with
  | .ro => true
  | .open_ => true
  | .sup => !c.isUser
  | .supA => decide (c = .m ∨ c = .aS)
  | .supB => decide (c = .m ∨ c = .bS)
  | .m => decide (c = .m)
  | .late n =>
    decide (c = .m) ||
      (match (p.lslog[n]?).bind fun e => Ctx.ofCode e.ctx with
       | some o => !c.isUser && decide (c.world = o.world)
       | none => false)

/-- A register that names a world reads as 0 from other contexts (R336). -/
def crHidden (off : Nat) (c : Ctx) : Bool :=
  let a := off = 0x418 ∨ off = 0x428 ∨ off = 0x438 ∨ off = 0x480 ∨ off = 0x490
  let b := off = 0x420 ∨ off = 0x430 ∨ off = 0x440 ∨ off = 0x488 ∨ off = 0x498
  (decide a && !decide (c = .m ∨ c = .aS)) || (decide b && !decide (c = .m ∨ c = .bS))

/-! ## Layouts -/

def Tsbp.word (t : Tsbp) : W64 := BitVec.ofNat 64 (boolBit t.occ + t.base.toNat * 512)
def Tsbp.ofWord (v : W64) : Tsbp := ⟨v.getLsbD 0, v.extractLsb' 9 39⟩

/-- The address of a TSB (R339) or of a vector table (R341). -/
def baseAddr (b : BitVec 39) : Nat := b.toNat * 512

def Bound.word (b : Bound) (split : Bool) : W64 :=
  BitVec.ofNat 64 (boolBit b.en + b.base.toNat * 2 ^ 10 + b.last.toNat * 2 ^ 34 + if split then b.split.toNat * 2 ^ 48 else 0)

def Bound.ofWord (v : W64) (split : Bool) : Bound :=
  ⟨v.getLsbD 0, v.extractLsb' 10 14, v.extractLsb' 34 14, if split then v.extractLsb' 48 14 else 0⟩

def Unplanned.word (u : Unplanned) : W64 :=
  BitVec.ofNat 64 (u.cause.toNat + 2 ^ 6 * boolBit u.double + 2 ^ 7 * u.ctx.toNat + 2 ^ 10 * boolBit u.more + 2 ^ 63 * boolBit u.valid)

def LsEntry.addrWord (e : LsEntry) : W64 := BitVec.ofNat 64 (e.addr.toNat + 2 ^ 63 * boolBit e.valid)

def LsEntry.infoWord (e : LsEntry) : W64 :=
  BitVec.ofNat 64 (e.kind.toNat + 2 ^ 4 * e.ctx.toNat + 2 ^ 7 * boolBit e.isNew + 2 ^ 8 * e.err.toNat)

def RxChan.reset : RxChan := ⟨0, 0, 0, 0, false, false, false⟩

def RxChan.cfgWord (r : RxChan) : W64 :=
  BitVec.ofNat 64 (r.sfm1.toNat + 2 ^ 3 * r.slots.toNat + 2 ^ 16 * r.expect.toNat + 2 ^ 32 * boolBit r.world + 2 ^ 33 * boolBit r.guard
    + 2 ^ 34 * boolBit r.en)

def RxChan.withCfg (r : RxChan) (v : W64) : RxChan :=
  { r with sfm1 := v.extractLsb' 0 3, slots := v.extractLsb' 3 13, expect := v.extractLsb' 16 16, world := v.getLsbD 32,
           guard := v.getLsbD 33, en := v.getLsbD 34 }

def SendEntry.w0 (e : SendEntry) : W64 :=
  BitVec.ofNat 64 (e.scycle.toNat + 2 ^ 20 * e.nfm1.toNat + 2 ^ 23 * boolBit e.guard + 2 ^ 24 * e.ch.toNat + 2 ^ 31 * boolBit e.world
    + 2 ^ 32 * e.lag.toNat + 2 ^ 38 * e.rcycle.toNat)

def SendEntry.withW0 (e : SendEntry) (v : W64) : SendEntry :=
  { e with scycle := v.extractLsb' 0 20, nfm1 := v.extractLsb' 20 3, guard := v.getLsbD 23, ch := v.extractLsb' 24 7,
           world := v.getLsbD 31, lag := v.extractLsb' 32 6, rcycle := v.extractLsb' 38 20 }

/-- BLK_GATE (R51). DESIGN CHOICE, log entry 31. -/
def Epoch.gateWord (e : Epoch) : W64 :=
  let o := match e.outcome with | .none => 0 | .run => 1 | .bubble => 2
  let p := match e.prev with | .none => 0 | .valid => 1 | .bubble => 2 | .void => 3
  BitVec.ofNat 64 (o + 4 * p + 16 * boolBit e.lastRunVoid + 32 * e.cause.toNat + 2 ^ 16 * e.streak.toNat)

/-- BLK_COORD (R30): 0 in a block that is not placed (R31). -/
def State.coordWord (s : State) (b : BlockId) : W64 :=
  if !isLogical b then 0 else
  BitVec.ofNat 64 (colOf b + 2 ^ 8 * rowOf b + 2 ^ 16 * quarterOf b + 2 ^ 24 * s.devNum.toNat + 2 ^ 31 * boolBit s.devValid + 2 ^ 32 * b.toNat)

/-- BLK_STATUS (R337). -/
def State.statusWord (s : State) (b : BlockId) : W64 :=
  let x := s.blk b
  let h := s.holdLeft b
  BitVec.ofNat 64 (x.priv.mask.toNat + 2 ^ 4 * x.priv.ctx.code.toNat + 2 ^ 7 * boolBit x.core.loopActive + 2 ^ 8 * boolBit (decide (h ≠ 0))
    + 2 ^ 16 * h)

/-- BLK_PENDING (R336): causes 18, 19 and 20. -/
def Priv.pendingWord (p : Priv) : W64 :=
  BitVec.ofNat 64 (2 ^ 18 * boolBit p.pendV + 2 ^ 19 * boolBit p.pendM + 2 ^ 20 * boolBit p.latePending)

/-- A wait for a free entry of the dispatch queue ends: BLK_STALL_QUEUE counts it (R100, R128). -/
def Core.settleQueue (c : Core) (now : Nat) : Core :=
  match c.queueFrom with
  | none => c
  | some t => { c with stallQueue := c.stallQueue + BitVec.ofNat 64 (now - t), queueFrom := none }

/-- The wait ends, for an instruction that issues or for a trap that is taken first. -/
def State.queueWaitEnds (s : State) (b : BlockId) : State :=
  if (s.blk b).core.queueFrom.isSome then
    let now := s.ticks b
    s.modBlk b fun x => { x with core := x.core.settleQueue now }
  else s

/-- BLK_DQ_STATUS (R105). -/
def Block.dqWord (x : Block) : W64 :=
  BitVec.ofNat 64 (x.queue.length + 2 ^ 5 * boolBit (!x.vec.run.isEmpty) + 2 ^ 6 * boolBit (!x.mtx.array.isEmpty || !x.mtx.port.isEmpty)
    + 2 ^ 7 * boolBit (!x.core.longOps.isEmpty || !x.core.remLoads.isEmpty || !x.core.recvs.isEmpty))

/-- The index of the phase in force (R389). -/
def State.phaseIndex (s : State) (len : Nat) : Nat := if len = 0 then 0 else (s.epoch.cycle - 128) % len

/-- VEC_AC_TAGn (R243). -/
def AcLine.tagWord (l : AcLine) : W64 := BitVec.ofNat 64 (l.addr.toNat + 2 ^ 62 * boolBit l.fromReg + 2 ^ 63 * boolBit l.valid)

def AcLine.reset : AcLine := ⟨0, false, 0, false⟩

/-- MTX_IDENT (R295). -/
def mtxIdent : W64 := BitVec.ofNat 64 (16 + 2 ^ 8 * 8 + 2 ^ 16 * 8 + 2 ^ 24 * 16 + 2 ^ 32 * 3)

/-! ## Reading -/

/-- The value of the privilege registers (R336 to R346). -/
def State.privRead (s : State) (b : BlockId) (off : Nat) : W64 :=
  let p := (s.blk b).priv
  match off with
  | 0x400 => s.statusWord b
  | 0x408 => BitVec.ofNat 64 (p.epochMask.toNat + 16 * p.epochCtx.code.toNat)
  | 0x410 => p.tsbpM.word
  | 0x418 => p.tsbpA.word
  | 0x420 => p.tsbpB.word
  | 0x428 => BitVec.ofNat 64 (baseAddr p.vtbA)
  | 0x430 => BitVec.ofNat 64 (baseAddr p.vtbB)
  | 0x438 => p.delegA
  | 0x440 => p.delegB
  | 0x448 => p.planned
  | 0x450 => p.pendingWord
  | 0x458 => p.unplanned.word
  | 0x460 => p.unplanned.pc
  | 0x468 => BitVec.ofNat 64 (2 * boolBit (s.blk b).core.stopped + (s.blk b).core.resumeAddr.toNat)
  | 0x480 => p.boundIA.word false
  | 0x488 => p.boundIB.word false
  | 0x490 => p.boundLA.word true
  | 0x498 => p.boundLB.word true
  | 0x4A0 => p.boundLS.word false
  | 0x540 => BitVec.ofNat 64 ((p.lslog.filter LsEntry.valid).length + 2 ^ 16 * p.lsLost.toNat)
  | _ =>
    if 0x500 ≤ off ∧ off < 0x540 then
      match p.lslog[(off - 0x500) / 16]? with
      | some e => if off % 16 = 0 then e.addrWord else e.infoWord
      | none => 0
    else 0

/-- The value of the core and floating-point registers (R100, R192). -/
def State.coreRead (s : State) (b : BlockId) (off : Nat) : W64 :=
  let x := s.blk b
  let e := s.epoch
  match off with
  | 0x00 => s.coordWord b
  | 0x08 => BitVec.ofNat 64 (Config.stepping.toNat + 2 ^ 8 * Config.romLevel.toNat + 2 ^ 16 * x.patch.toNat + 2 ^ 24 * 64)
  | 0x10 => if e.active then e.num else 0
  | 0x18 => BitVec.ofNat 64 ((if e.active then e.cycle else 0) + 2 ^ 20 * s.k)
  | 0x20 => e.gateWord
  | 0x28 => e.validCount
  | 0x30 => BitVec.ofNat 64 (s.blkCycles b)
  | 0x38 => x.core.entry
  | 0x40 => x.core.loopRemain.zeroExtend 64
  | 0x48 => BitVec.ofNat 64 (x.core.loopStart.toNat + 2 ^ 48 * x.core.loopLen.toNat + 2 ^ 63 * boolBit x.core.loopActive)
  | 0x50 => x.core.retired
  | 0x58 => x.core.stallBank + (if x.core.retired = 0 then 0 else Config.bankStalls b.toNat x.core.retired.toNat (s.blkCycles b))
  | 0x60 => (x.core.settleQueue (s.ticks b)).stallQueue
  | 0x68 => x.dqWord
  | 0x70 => BitVec.ofNat 64 (x.core.ewaitCycle.toNat + 2 ^ 20 * boolBit x.core.ewaitValid)
  | 0x80 => x.fp.fpsr
  | 0x88 => x.fp.seed
  | 0x90 => x.fp.srDraws
  | _ => 0

/-- The value of the engine registers (R238, R294). -/
def Block.engineRead (x : Block) (off : Nat) : W64 :=
  match off with
  | 0x1000 => x.vec.grp.zeroExtend 64
  | 0x1008 => BitVec.ofNat 64 (boolBit x.vec.dlValid + x.vec.dlPc.toNat)
  | 0x1010 => BitVec.ofNat 64 (x.vec.dlSource.toNat + 2 ^ 3 * x.vec.dlReg.toNat + 2 ^ 8 * x.vec.dlBeat.toNat + 2 ^ 23 * boolBit x.vec.dlMore)
  | 0x1018 => BitVec.ofNat 64 (x.vec.faultElem.toNat + 2 ^ 63 * boolBit x.vec.faultValid)
  | 0x1020 => x.vec.beats
  | 0x2000 => mtxIdent
  | 0x2008 => BitVec.ofNat 64 (boolBit x.mtx.dlValid + x.mtx.dlPc.toNat)
  | 0x2010 => BitVec.ofNat 64 (x.mtx.dlRow.toNat + 2 ^ 4 * x.mtx.dlReg.toNat + 2 ^ 7 * boolBit x.mtx.dlZ + 2 ^ 8 * boolBit x.mtx.dlMore)
  | 0x2018 => BitVec.ofNat 64 (x.mtx.faultRow.toNat + 2 ^ 63 * boolBit x.mtx.faultValid)
  | 0x2020 => x.mtx.ops
  | 0x2028 => x.mtx.arrayFcy
  | _ => if 0x1100 ≤ off ∧ off < 0x1180 then (look AcLine.reset x.vec.ac ((off - 0x1100) / 8)).tagWord else 0

/-- The value of the clock and trace registers (R632, R781). -/
def State.clkTrcRead (s : State) (b : BlockId) (off : Nat) : W64 :=
  let x := s.blk b
  let c := x.clk.settle (s.ticks b)
  let t := x.trc
  match off with
  | 0x3000 => c.en
  | 0x3008 => BitVec.ofNat 64 (c.mode.code.toNat + 4 * c.target.code.toNat + 16 * s.wakeLeft b)
  | 0x3018 => BitVec.ofNat 64 (s.tokens b)
  | 0x3020 => c.fcyRun
  | 0x3028 => c.fcySleep
  | 0x3030 => c.fcyDeep
  | 0x4000 => BitVec.ofNat 64 (boolBit t.en + 2 * t.ctxMask.toNat + 2 ^ 6 * boolBit t.chanC + 2 ^ 16 * t.syncInt.toNat + 2 ^ 32 * t.gtsInt.toNat)
  | 0x4010 => BitVec.ofNat 64 (t.seq.toNat + 2 ^ 16 * t.pend.toNat + 2 ^ 32 * t.form.length)
  | 0x4018 => t.records
  | 0x4020 => t.packets
  | 0x4028 => t.drops
  | _ => 0

/-- The value of the crossing and message engine registers (R381, R385). -/
def State.xngMsgRead (s : State) (b : BlockId) (off : Nat) : W64 :=
  let x := s.blk b
  match off with
  | 0x8000 => x.xng.len.zeroExtend 64
  | 0x8008 => if s.runningPart then BitVec.ofNat 64 (s.phaseIndex x.xng.len.toNat + 2 ^ 10) else 0
  | 0x8010 => x.xng.drops
  | 0x8018 => x.xng.parity
  | 0x8020 => BitVec.ofNat 64 (x.xng.miss.toNat + 2 ^ 32 * x.xng.overflow.toNat)
  | 0xC000 => x.msg.nsend.zeroExtend 64
  | 0xC008 => BitVec.ofNat 64 (s.msgNext b + 2 ^ 10 * x.msg.hold.length)
  | 0xC010 => x.msg.tx
  | 0xC018 => x.msg.rx
  | 0xC020 => x.msg.discards
  | 0xC028 => x.msg.guardFails
  | 0xC030 => x.msg.late
  | _ =>
    if 0xA000 ≤ off ∧ off < 0xC000 then (look 0 x.xng.slots ((off - 0xA000) / 8)).zeroExtend 64
    else if 0xC800 ≤ off ∧ off < 0xD000 then
      let r := look RxChan.reset x.msg.rxc ((off - 0xC800) / 16)
      if off % 16 = 0 then r.base.zeroExtend 64 else r.cfgWord
    else if 0xE000 ≤ off ∧ off < 0x10000 then
      let e := look SendEntry.reset x.msg.send ((off - 0xE000) / 16)
      if off % 16 = 0 then e.w0 else e.src.zeroExtend 64
    else 0

/-- Registers of the scalar core that the management core has (R556): those of a block's place, epoch and other parts are not there. DESIGN CHOICE,
log entry 57. -/
def mgmtHas (off : Nat) : Bool :=
  decide (off = 0x30) || decide (0x40 ≤ off ∧ off < 0x58) || decide (0x80 ≤ off ∧ off < 0x1000 ∧ off ≠ 0x408 ∧ off ≠ 0x448 ∧ off ≠ 0x468)

/-- The value of the control register at an offset, a multiple of 8, for a context (R98, R166, R336). -/
def State.crRead (s : State) (b : BlockId) (off : Nat) (c : Ctx) : W64 :=
  if crHidden off c || (decide (b = mgmtCore) && !mgmtHas off) then 0
  else if off < 0x400 then s.coreRead b off
  else if off < 0x1000 then s.privRead b off
  else if off < 0x3000 then (s.blk b).engineRead off
  else if off < 0x5000 then s.clkTrcRead b off
  else s.xngMsgRead b off

/-! ## Writing -/

/-- Causes whose bits of BLK_DELEG_A, BLK_DELEG_B and BLK_PLANNED may be set (R342, R354): 1 to 16 and 20. -/
def delegable : W64 := 0x11FFFE

/-- The RW bits of CLK_EN (R633). -/
def clkEnRw : W64 := 0x3B648

/-- A stored value in which the bits of carried bytes take those written (R99). -/
def merged (old v m : W64) : W64 := (old &&& ~~~m) ||| (v &&& m)

/-- A SRC field of a phase as it is stored: its own direction and codes 6 and 7 store 0 (R384). -/
def slotField (own : Nat) (v : BitVec 3) : BitVec 3 := if v.toNat = own ∨ 6 ≤ v.toNat then 0 else v

/-- A phase as it is stored (R383, R384). -/
def slotStored (v : W64) : BitVec 15 :=
  slotField 5 (v.extractLsb' 12 3) ++ slotField 4 (v.extractLsb' 9 3) ++ slotField 3 (v.extractLsb' 6 3) ++
    slotField 2 (v.extractLsb' 3 3) ++ slotField 1 (v.extractLsb' 0 3)

def State.modCore (s : State) (b : BlockId) (f : Core → Core) : State := s.modBlk b fun x => { x with core := f x.core }
def State.modPriv (s : State) (b : BlockId) (f : Priv → Priv) : State := s.modBlk b fun x => { x with priv := f x.priv }

/-- Writes to the privilege registers (R336 to R345): `act` is what W1C and WO bits see. -/
def State.privWrite (s : State) (b : BlockId) (off : Nat) (w act : W64) : State :=
  match off with
  | 0x400 => s.modPriv b fun p => { p with mask := w.extractLsb' 0 3 }
  | 0x408 => s.modPriv b fun p =>
      { p with epochMask := w.extractLsb' 0 3, epochCtx := (Ctx.ofCode (w.extractLsb' 4 3)).getD p.epochCtx }
  | 0x410 => s.modPriv b fun p => { p with tsbpM := .ofWord w }
  | 0x418 => s.modPriv b fun p => { p with tsbpA := .ofWord w }
  | 0x420 => s.modPriv b fun p => { p with tsbpB := .ofWord w }
  | 0x428 => s.modPriv b fun p => { p with vtbA := w.extractLsb' 9 39 }
  | 0x430 => s.modPriv b fun p => { p with vtbB := w.extractLsb' 9 39 }
  | 0x438 => s.modPriv b fun p => { p with delegA := w &&& delegable }
  | 0x440 => s.modPriv b fun p => { p with delegB := w &&& delegable }
  | 0x448 => s.modPriv b fun p => { p with planned := w &&& delegable }
  | 0x458 => if act.getLsbD 63 then s.modPriv b fun p => { p with unplanned := { p.unplanned with valid := false } } else s
  | 0x480 => s.modPriv b fun p => { p with boundIA := .ofWord w false }
  | 0x488 => s.modPriv b fun p => { p with boundIB := .ofWord w false }
  | 0x490 => s.modPriv b fun p => { p with boundLA := .ofWord w true }
  | 0x498 => s.modPriv b fun p => { p with boundLB := .ofWord w true }
  | 0x4A0 => s.modPriv b fun p => { p with boundLS := .ofWord w false }
  | 0x540 => if act.getLsbD 32 then s.modPriv b fun p => { p with lsLost := 0 } else s
  | _ =>
    if 0x500 ≤ off ∧ off < 0x540 ∧ off % 16 = 0 ∧ act.getLsbD 63 then
      s.modPriv b fun p => { p with lslog := p.lslog.modify ((off - 0x500) / 16) fun e =>
        { e with valid := false, kind := 0, ctx := 0, isNew := false, err := 0 } }
    else s

/-- Writes to the core, floating-point and engine registers. -/
def State.coreWrite (s : State) (b : BlockId) (off : Nat) (w act : W64) : State :=
  match off with
  | 0x38 => s.modCore b fun c => { c with entry := w &&& 0xFFFFFFFFFFFC }
  | 0x40 => s.modCore b fun c => { c with loopRemain := w.extractLsb' 0 32 }
  | 0x48 => s.modCore b fun c => { c with loopStart := w &&& 0xFFFFFFFFFFFC, loopLen := w.extractLsb' 48 7, loopActive := w.getLsbD 63 }
  | 0x80 => s.modBlk b fun x =>
      { x with fp := { x.fp with rm := if 6 ≤ (w.extractLsb' 0 3).toNat then x.fp.rm else w.extractLsb' 0 3,
                                 flags := x.fp.flags &&& ~~~(act.extractLsb' 4 6) } }
  | 0x88 => s.modBlk b fun x =>
      { x with fp := { x.fp with srState := if w.extractLsb' 0 32 = 0 then 1 else w.extractLsb' 0 32 } }
  | 0x1000 => s.modBlk b fun x => { x with vec := { x.vec with grp := w.extractLsb' 0 2 } }
  | 0x1008 => if act.getLsbD 0 then
      s.modBlk b fun x => { x with vec := { x.vec with dlValid := false, dlSource := 0, dlReg := 0, dlBeat := 0, dlMore := false } } else s
  | 0x2008 => if act.getLsbD 0 then
      s.modBlk b fun x => { x with mtx := { x.mtx with dlValid := false, dlRow := 0, dlReg := 0, dlZ := false, dlMore := false } } else s
  | _ => s

/-- Arms a block, or disarms it (R783, R790, R791): a footpath write with the M tag to TRC_CTL. -/
def State.trcControl (s : State) (b : BlockId) (w : W64) : State :=
  let arm := w.getLsbD 0
  let s := if arm then s else s.traceClose b .disarm
  let now := s.blkCycles b
  s.modBlk b fun x =>
    let t := { x.trc with en := arm, ctxMask := w.extractLsb' 1 5, chanC := w.getLsbD 6, syncInt := w.extractLsb' 16 16,
                          gtsInt := w.extractLsb' 32 32 }
    { x with trc :=
        if arm then { t with seq := 0, pend := 0, records := 0, packets := 0, drops := 0, form := [], outcomes := [], needSync := true,
                             lastTimed := now, lastGts := now }
        else t }

/-- Writes to the clock, trace, crossing and message engine registers: `m` marks the bytes carried, and a WO field of which none is carried takes no
action (R99). -/
def State.fabricWrite (s : State) (b : BlockId) (who : Who) (off : Nat) (w act m : W64) : State :=
  match off with
  | 0x3000 => if s.clkLocked then s
      else s.modBlk b fun x => { x with clk := { x.clk with en := (x.clk.en &&& ~~~clkEnRw) ||| (w &&& clkEnRw) } }
  | 0x3010 => if m.extractLsb' 0 8 = 0 then s else s.clkReq b act
  | 0x4000 =>
      let s := if who = .foot .m then s.trcControl b w else s
      if act.getLsbD 8 then s.traceSync b else s
  | 0x4008 => if m.extractLsb' 0 16 = 0 then s else s.traceMark b act
  | 0x8000 => s.modBlk b fun x =>
      { x with xng := { x.xng with len := if 1024 < (w.extractLsb' 0 11).toNat then 1024 else w.extractLsb' 0 11 } }
  | 0xC000 => (s.keepNext b).modBlk b fun x => { x with msg := { x.msg with nsend := w.extractLsb' 0 10 } }
  | _ =>
    if 0xA000 ≤ off ∧ off < 0xC000 then
      s.modBlk b fun x => { x with xng := { x.xng with slots := store 0 x.xng.slots ((off - 0xA000) / 8) (slotStored w) } }
    else if 0xC800 ≤ off ∧ off < 0xD000 then
      s.modBlk b fun x =>
        let n := (off - 0xC800) / 16
        let r := look RxChan.reset x.msg.rxc n
        let r := if off % 16 = 0 then { r with base := w.extractLsb' 0 48 } else r.withCfg w
        { x with msg := { x.msg with rxc := store RxChan.reset x.msg.rxc n r } }
    else if 0xE000 ≤ off ∧ off < 0x10000 then
      (s.keepNext b).modBlk b fun x =>
        let n := (off - 0xE000) / 16
        let e := look SendEntry.reset x.msg.send n
        let e := if off % 16 = 0 then e.withW0 w else { e with src := w.extractLsb' 0 48 }
        { x with msg := { x.msg with send := store SendEntry.reset x.msg.send n e } }
    else s

/-- Starts a stopped core at ADDR in context M (R376). -/
def State.resumeGo (s : State) (b : BlockId) : State :=
  if (s.blk b).core.stopped then
    let s := s.modCore b fun c => { c with fetching := true, stopped := false, pc := c.resumeAddr, fault := none, loopOld := none }
    s.modPriv b fun p => { p with ctx := .m, mask := 7, tsbpM := { p.tsbpM with occ := false } }
  else s

/-- BLK_RESUME (R346, R376): only a footpath write with the M tag changes it. GO starts a stopped core at the ADDR of the same write; a write with GO 1
while STOPPED is 0 has no effect. -/
def State.resumeWrite (s : State) (b : BlockId) (w act : W64) : State :=
  if act.getLsbD 0 && !(s.blk b).core.stopped then s
  else
    let s := s.modCore b fun c => { c with resumeAddr := w &&& 0xFFFFFFFFFFFC }
    if act.getLsbD 0 then s.resumeGo b else s

/-- A write that is allowed, to the register at an offset: `m` marks the bytes it carries (R99). -/
def State.crWrite (s : State) (b : BlockId) (who : Who) (off : Nat) (v m : W64) : State :=
  let old := s.crRead b off .m
  let w := merged old v m
  let act := v &&& m
  if decide (b = mgmtCore) && !mgmtHas off then s
  else if off < 0x400 then s.coreWrite b off w act
  else if off < 0x1000 then
    (if off = 0x468 then (if who = .foot .m then s.resumeWrite b w act else s) else s.privWrite b off w act)
  else if off < 0x3000 then s.coreWrite b off w act
  else s.fabricWrite b who off w act m

/-- All eight bytes carried. -/
def allBytes : W64 := 0xFFFFFFFFFFFFFFFF

/-- The access-rights check of a write (R168, R336). -/
def State.crMay (s : State) (b : BlockId) (off : Nat) (c : Ctx) : Bool := (crLevel off).admits (s.blk b).priv c

end Sys2Proof.Machine
end

