-- ==== Sys2Proof/Machine/Hash.lean ====
section
/-! DEFINITION. The checks and digests that the manual takes from their standards: CRC-32C (R275), CRC-16 (R413), CRC-32 (R431) and SHA-256
(R847). -/

namespace Sys2Proof.Machine

/-- One bit of a reflected CRC with 32 bits. -/
def crcBit (poly c : BitVec 32) : BitVec 32 := if c.getLsbD 0 then (c >>> 1) ^^^ poly else c >>> 1

def crcBits (poly : BitVec 32) : Nat → BitVec 32 → BitVec 32
  | 0, c => c
  | n + 1, c => crcBits poly n (crcBit poly c)

/-- A reflected CRC carried over bytes. -/
def crcRun (poly : BitVec 32) (c : BitVec 32) (l : List Byte) : BitVec 32 :=
  l.foldl (fun c x => crcBits poly 8 (c ^^^ x.zeroExtend 32)) c

/-- The CRC-32C of a string continued from that of another (R275): Castagnoli, reflected, initial value and final exclusive-or all ones. -/
def crc32cFrom (c : BitVec 32) (l : List Byte) : BitVec 32 := ~~~(crcRun 0x82F63B78 (~~~c) l)

def crc32c (l : List Byte) : BitVec 32 := crc32cFrom 0 l

/-- One bit of the CRC-16 of R413: polynomial 0x1021, not reflected. -/
def crc16Bit (c : BitVec 16) (b : Bool) : BitVec 16 :=
  if c.getLsbD 15 != b then (c <<< 1) ^^^ 0x1021 else c <<< 1

/-- The CRC-16 of R413 over the `n` low bits of a string, bit 0 first. -/
def crc16 (n : Nat) (v : BitVec n) : BitVec 16 :=
  (List.range n).foldl (fun c i => crc16Bit c (v.getLsbD i)) 0xFFFF

/-- The CRC-32 of IEEE 802.3 over bytes (R431). -/
def crc32 (l : List Byte) : BitVec 32 := ~~~(crcRun 0xEDB88320 0xFFFFFFFF l)

/-! ## SHA-256 (FIPS 180-4): eight working variables in 256 bits and the last 16 words of the message schedule in 512, the first of each highest -/

/-- The first 32 fraction bits of the cube roots of the first 64 primes, that of 2 highest. -/
def shaCubes : BitVec 2048 :=
  0x428a2f9871374491b5c0fbcfe9b5dba53956c25b59f111f1923f82a4ab1c5ed5d807aa9812835b01243185be550c7dc372be5d7480deb1fe9bdc06a7c19bf174e49b69c1efbe47860fc19dc6240ca1cc2de92c6f4a7484aa5cb0a9dc76f988da983e5152a831c66db00327c8bf597fc7c6e00bf3d5a7914706ca63511429296727b70a852e1b21384d2c6dfc53380d13650a7354766a0abb81c2c92e92722c85a2bfe8a1a81a664bc24b8b70c76c51a3d192e819d6990624f40e3585106aa07019a4c1161e376c082748774c34b0bcb5391c0cb34ed8aa4a5b9cca4f682e6ff3748f82ee78a5636f84c878148cc7020890befffaa4506cebbef9a3f7c67178f2

/-- The first 32 fraction bits of the square roots of the first 8 primes, that of 2 highest. -/
def shaStart : BitVec 256 := 0x6a09e667bb67ae853c6ef372a54ff53a510e527f9b05688c1f83d9ab5be0cd19

/-- Word `i` of a string of `n` words. -/
def shaWord {m : Nat} (n i : Nat) (v : BitVec m) : BitVec 32 := v.extractLsb' (32 * (n - 1 - i)) 32

/-- The exclusive or of a word's rotations to the right. -/
def shaTurns (x : BitVec 32) (l : List Nat) : BitVec 32 := l.foldl (fun y n => y ^^^ x.rotateRight n) 0

/-- One round with a constant and a word of the schedule. -/
def shaStep (v : BitVec 256) (k w : BitVec 32) : BitVec 256 :=
  let x := shaWord 8 0 v
  let e := shaWord 8 4 v
  let choice := shaWord 8 6 v ^^^ (e &&& (shaWord 8 5 v ^^^ shaWord 8 6 v))
  let most := (x &&& shaWord 8 1 v) ||| (shaWord 8 2 v &&& (x ||| shaWord 8 1 v))
  let t := shaWord 8 7 v + shaTurns e [6, 11, 25] + choice + k + w
  (t + shaTurns x [2, 13, 22] + most) ++ v.extractLsb' 160 96 ++ (shaWord 8 3 v + t) ++ v.extractLsb' 32 96

/-- The schedule one word further. -/
def shaNext (w : BitVec 512) : BitVec 512 :=
  let early := shaWord 16 1 w
  let late := shaWord 16 14 w
  w.extractLsb' 0 480
    ++ (shaWord 16 0 w + (shaTurns early [7, 18] ^^^ (early >>> 3)) + shaWord 16 9 w + (shaTurns late [17, 19] ^^^ (late >>> 10)))

/-- Rounds `i` on. -/
def shaRounds : Nat → Nat → BitVec 256 → BitVec 512 → BitVec 256
  | 0, _, v, _ => v
  | n + 1, i, v, w => shaRounds n (i + 1) (shaStep v (shaWord 64 i shaCubes) (shaWord 16 0 w)) (shaNext w)

/-- The hash value after a block of 64 bytes. -/
def shaBlock (h : BitVec 256) (l : List Byte) : BitVec 256 :=
  let v := shaRounds 64 0 h (BitVec.ofNat 512 (leNat l.reverse))
  let sum i := shaWord 8 i h + shaWord 8 i v
  sum 0 ++ sum 1 ++ sum 2 ++ sum 3 ++ sum 4 ++ sum 5 ++ sum 6 ++ sum 7

def shaBlocks : Nat → BitVec 256 → List Byte → BitVec 256
  | 0, h, _ => h
  | n + 1, h, l => shaBlocks n (shaBlock h (l.take 64)) (l.drop 64)

/-- The SHA-256 digest of a string, 32 bytes: the string, a 1 bit, zeros and its length in bits fill whole blocks. -/
def sha256 (l : List Byte) : List Byte :=
  let fill := (119 - l.length % 64) % 64
  let m := l ++ (0x80 :: List.replicate fill 0) ++ (leBytes 8 (8 * l.length)).reverse
  (leBytes 32 (shaBlocks (m.length / 64) shaStart m).toNat).reverse

end Sys2Proof.Machine
end

