-- ==== Sys2Proof/Machine/Journal.lean ====
section
/-! DEFINITION. The command journal (chapter 12): records, the writer, events and summaries, and how a commit moves a command on (R496, R538). -/

namespace Sys2Proof.Machine

/-! ## Entries of a submission ring (R486, R487) -/

def Cmd.opcode (c : Cmd) : Nat := leAt c.entry 0 2
def Cmd.ordered (c : Cmd) : Bool := (BitVec.ofNat 8 (leAt c.entry 2 1)).getLsbD 1
def Cmd.noirq (c : Cmd) : Bool := (BitVec.ofNat 8 (leAt c.entry 2 1)).getLsbD 0
def Cmd.tag (c : Cmd) : W64 := BitVec.ofNat 64 (leAt c.entry 8 8)
def Cmd.planId (c : Cmd) : BitVec 32 := BitVec.ofNat 32 (leAt c.entry 16 4)
/-- `n` argument bytes from entry byte `at_` on. -/
def Cmd.arg (c : Cmd) (at_ n : Nat) : Nat := leAt c.entry at_ n

/-! ## Records (R526 to R529) -/

/-- The 64 bytes of a record. -/
def recordBytes (seq gen : W64) (r : Rec) : List Byte :=
  let l := leBytes 8 seq.toNat ++ leBytes 8 r.time.toNat ++ leBytes 8 r.ref.toNat ++ leBytes 8 r.tag.toNat ++ leBytes 8 r.result.toNat
    ++ leBytes 4 r.planId.toNat ++ leBytes 4 r.digest.toNat ++ leBytes 2 r.opcode.toNat ++ [r.ty, r.queue] ++ leBytes 2 r.status.toNat
    ++ leBytes 2 r.flags.toNat ++ leBytes 2 seq.toNat ++ leBytes 2 gen.toNat
  l ++ leBytes 4 (crc32c l).toNat

/-- A slot holds a valid record (R533). -/
def validRecord (slot : Nat) (gen : W64) (l : List Byte) : Bool :=
  decide (leAt l 50 1 ≠ 0) && decide (leAt l 56 2 = leAt l 0 2) && decide (leAt l 0 8 % 4096 = slot)
    && decide (leAt l 58 2 = gen.toNat % 65536) && decide (leAt l 60 4 = (crc32c (l.take 60)).toNat)

/-- The 64 bytes of a slot. -/
def Jnl.slot (j : Jnl) (n : Nat) : List Byte := look (List.replicate 64 0) j.ring n

/-- A command record's content, fixed now (R526, R529). -/
def State.cmdRecord (s : State) (c : Cmd) (ty : BitVec 8) (result : W64) (status : BitVec 16) : Rec :=
  { ty := ty, time := s.time64, ref := if ty = 1 then 0 else c.seq, tag := c.tag, result := result, planId := c.planId,
    digest := crc32c ((c.entry.drop 24).take 40), opcode := BitVec.ofNat 16 c.opcode, queue := c.queue.zeroExtend 8, status := status,
    flags := s.recFlags }

/-- A record of no command; its PLAN_ID is that at the commit. -/
def deviceRecord (ty : BitVec 8) (time ref tag result : W64) (kind flags : BitVec 16) : Rec :=
  { ty := ty, time := time, ref := ref, tag := tag, result := result, planId := 0, digest := 0, opcode := kind, queue := 0xFF, status := 0,
    flags := flags }

def Event.record (e : Event) : Rec := deviceRecord 0x10 e.time e.ref e.tag e.result e.kind e.flags

/-- SUMMARY (R527, R529, R530): the count in REF, the time of the first event in RESULT, that of the last in TIME. -/
def Summary.record (c : Summary) : Rec := deviceRecord 0x11 c.last c.count 0 c.first c.kind c.flags

/-- PENDING (R542): the events held in FIFO items and in open counters. -/
def Jnl.pending (j : Jnl) : Nat :=
  (j.fifo.map fun i => match i with | .event _ => 1 | .summary c => c.count.toNat).sum + (j.counters.map fun c => c.count.toNat).sum

/-- The event book is checked (R542, R773, R779). -/
def State.settleEvents (s : State) : State :=
  let j := s.jnl
  s.settleBook 0xA003 (decide (j.raised = j.recorded + j.summarised + BitVec.ofNat 64 j.pending))
    [j.raised.toNat, j.recorded.toNat, j.summarised.toNat, j.pending]

/-- One record commits (R532): the slot takes it, and HIF_JNL_NEXT rises. -/
def State.commitRec (s : State) (r : Rec) : State :=
  let j := s.jnl
  let r : Rec := if 0x10 ≤ r.ty.toNat then { r with planId := s.planId } else r
  { s with jnl := { j with ring := put j.ring (j.next.toNat % 4096) (recordBytes j.next j.gen r), next := j.next + 1 } }

/-! ## Queues and commands (R496, R497) -/

def State.queue (s : State) (q : QueueId) : Queue := look Queue.reset s.hif.queues q.toNat

def State.modHif (s : State) (f : Hif → Hif) : State := { s with hif := f s.hif }

def State.modQueue (s : State) (q : QueueId) (f : Queue → Queue) : State :=
  let x := f (s.queue q)
  s.modHif fun h => { h with queues := put h.queues q.toNat x }

def State.modJnl (s : State) (f : Jnl → Jnl) : State := { s with jnl := f s.jnl }

def State.findCmd (s : State) (seq : W64) : Option Cmd := s.hif.cmds.find? fun c => decide (c.seq = seq)

def State.modCmd (s : State) (seq : W64) (f : Cmd → Cmd) : State :=
  s.modHif fun h => { h with cmds := h.cmds.map fun c => if c.seq = seq then f c else c }

def State.dropCmd (s : State) (seq : W64) : State := s.modHif fun h => { h with cmds := h.cmds.filter fun c => !decide (c.seq = seq) }

/-- Units of R496, with how many commands each runs at once. -/
inductive CUnit where
  | plan | data | maint | dict | control
  deriving DecidableEq, Repr

/-- The unit of an opcode of R500; none is a reserved opcode. -/
def unitOf (op : Nat) : Option CUnit :=
  if op = 0 ∨ op = 0x20 ∨ op = 0x21 then some .control
  else if 1 ≤ op ∧ op ≤ 5 then some .plan
  else if (0x10 ≤ op ∧ op ≤ 0x13) ∨ op = 0x25 then some .data
  else if 0x22 ≤ op ∧ op ≤ 0x24 then some .maint
  else if op = 0x30 ∨ op = 0x31 then some .dict
  else none

/-- DEDUCED, log entry 43. -/
def CUnit.room : CUnit → Option Nat
  | .plan => some 1 | .data => some 16 | .maint => some 1 | .dict => some 1 | .control => none

/-- The command has started, or its STARTED record waits, and its end record has not committed: one abandoned before it started is none (R520). -/
def Cmd.busy (c : Cmd) : Bool :=
  match c.phase with
  | .accepted => false | .ended => false | .starting => true | .started => true | .running => true | .ending => c.began

/-- The unit of a command takes one more (R496). -/
def hasRoom (l : List Cmd) (c : Cmd) : Bool :=
  match unitOf c.opcode with
  | none => true
  | some u => match u.room with
    | none => true
    | some n => decide ((l.filter fun d => d.busy && decide (unitOf d.opcode = some u)).length < n)

/-- The first accepted command, in acceptance order, that may start: the first of its queue that has not started, with room in its unit, after
every earlier plan command for a plan command, and after the completion of every earlier one of its queue when it is ORDERED (R496). -/
def nextToStart (all : List Cmd) : List Cmd → List Cmd → Option Cmd
  | _, [] => none
  | before, c :: t =>
    let first := !(before.any fun d => decide (d.queue = c.queue ∧ d.phase = .accepted))
    let plan := decide (unitOf c.opcode ≠ some .plan) || !(before.any fun d => decide (d.phase = .accepted ∧ unitOf d.opcode = some .plan))
    let order := !c.ordered || !(before.any fun d => decide (d.queue = c.queue ∧ d.phase ≠ .ended))
    if decide (c.phase = .accepted) && first && plan && order && hasRoom all c then some c
    else nextToStart all (before ++ [c]) t

/-- A command starts: its STARTED record waits for its commit (R538). -/
def State.startCmd (s : State) (c : Cmd) : State :=
  let r := s.cmdRecord c 2 0 0
  (s.modCmd c.seq fun c => { c with phase := .starting }).modJnl fun j => { j with cmdRecs := j.cmdRecs ++ [r] }

/-- Every command that may start does, `n` at most. -/
def State.startCmds : Nat → State → State
  | 0, s => s
  | n + 1, s => match nextToStart s.hif.cmds [] s.hif.cmds with
    | none => s
    | some c => (s.startCmd c).startCmds n

/-- Every command that may start does. -/
def State.schedule (s : State) : State := s.startCmds s.hif.cmds.length

/-- A command ends with a STATUS and a RESULT: its DONE or FAILED record waits (R527). -/
def State.endCmd (s : State) (c : Cmd) (status : BitVec 16) (result : W64) : State :=
  let r := s.cmdRecord c (if status.toNat ≤ 1 then 3 else 4) result status
  (s.modCmd c.seq fun c => { c with phase := .ending, status := status, result := result }).modJnl fun j =>
    { j with cmdRecs := j.cmdRecs ++ [r] }

/-- A read of host memory failed: the command ends with ERR_HOST_READ, and AER reports it (R525). Whether a poisoned completion or none came back the failure does
not say: which bit is set is a free value. DESIGN CHOICE, log entry 75. -/
def State.hostReadFail (s : State) (c : Cmd) : State :=
  let bit := if s.free.getLsbD 0 then aerPoisoned else aerTimeout
  ((s.useFree.modHif fun h => h.aer bit).endCmd c 0x40 0)

/-- What the commit of a command's record does (R496, R497, R538). -/
def State.cmdCommitted (s : State) (seq : W64) (r : Rec) : State :=
  match s.findCmd r.ref with
  | none => s
  | some c =>
    if r.ty = 2 then s.modCmd c.seq fun c => { c with phase := .started, began := true }
    else if c.gone ≠ 0 ∨ r.ty = 5 then (s.dropCmd c.seq).schedule
    else
      let e : Completion := ⟨c.queue, c.tag, seq, c.result, c.status, c.sqHead, c.noirq, some c.seq⟩
      let s := s.modCmd c.seq fun c => { c with phase := .ended, endSeq := seq }
      (s.modHif fun h => { h with comps := h.comps ++ [e] }).schedule

/-- A command will not run (R520): its ABANDONED record waits. -/
def State.abandonCmd (s : State) (c : Cmd) (reason : Nat) : State :=
  let r := s.cmdRecord c 5 (BitVec.ofNat 64 reason) 0
  (s.modCmd c.seq fun c => { c with phase := .ending, gone := reason }).modJnl fun j => { j with cmdRecs := j.cmdRecs ++ [r] }

/-! ## The host queue book (R771) -/

def State.hostTerm (s : State) (sub n : Nat) : State := s.bumpTerm (0xA002 * 256 + sub) n

/-- The host queue book is checked at each change (R759, R771, R772): entries submitted, fetched, accepted, rejected, journaled. -/
def State.settleQueues (s : State) : State :=
  let c n := s.counter 0xA002 n
  s.settleBook 0xA002 (decide (c 0x11 = (c 0x13 + c 0x14) % 2 ^ 64) && decide (c 0x13 = c 0x15)) []

/-! ## Back-pressure (R476, R495, R537) -/

/-- BP of HIF_STATUS. -/
def State.bp (s : State) : Bool := s.jnl.holding.isSome || s.supply.pfw

/-- HIF_BP_TIME and event BP follow a change of BP. -/
def State.noteBp (s : State) : State :=
  match s.bp, s.hif.bpFrom with
  | true, none => (s.modHif fun h => { h with bpFrom := some s.acy }).hifEvent evtBp
  | false, some t => s.modHif fun h => { h with bpAcy := h.bpAcy + (s.acy - t), bpFrom := none }
  | _, _ => s

/-- HIF_BP_TIME, in µs. -/
def State.bpTime (s : State) : Nat := (s.hif.bpAcy + match s.hif.bpFrom with | some t => s.acy - t | none => 0) / 25

/-! ## The writer (R532, R536) -/

/-- A command's record of step 1 commits. -/
def State.commitCmd (s : State) (r : Rec) (rest : List Rec) : State :=
  let seq := s.jnl.next
  (((s.modJnl fun j => { j with cmdRecs := rest }).commitRec r).settleEvents).cmdCommitted seq r

/-- The head item of the event FIFO commits (R542, R543). DEDUCED, log entry 43. -/
def State.commitItem (s : State) (i : Item) (rest : List Item) : State :=
  let s := s.modJnl fun j => { j with fifo := rest, lastEvent := true }
  match i with
  | .event e => ((s.commitRec e.record).modJnl fun j => { j with recorded := j.recorded + 1 }).settleEvents
  | .summary c =>
    (((s.commitRec c.record).modJnl fun j => { j with summarised := j.summarised + c.count }).settleEvents).hifEvent evtSummary

/-- SUMMARY_CLOSE (R541): the counter that opened earliest closes into a free FIFO item. -/
def summaryClose (s : State) : State :=
  match s.jnl.counters with
  | c :: rest => if s.jnl.fifo.length < 128 then s.modJnl fun j => { j with counters := rest, fifo := j.fifo ++ [.summary c] } else s
  | [] => s

def execSummaryClose (s : State) : Host.Outcome State Fault Refusal := .next (summaryClose s)

/-- EVENT_RAISE (R539, R540): a thermal or power event is shown in HIF_EVT_PEND too (R477). -/
def eventRaise (kind : BitVec 16) (ref result tag : BitVec 64) (s : State) : State :=
  let s := s.raise kind.toNat ref result tag
  if kind = 0x0400 ∨ kind = 0x0401 then s.hifEvent evtThermal else s

def execEventRaise (kind : BitVec 16) (ref result tag : BitVec 64) (s : State) : Host.Outcome State Fault Refusal :=
  .next (eventRaise kind ref result tag s)

/-- JOURNAL_WINDOW_READ (R475, R534, R535): the 64 bytes of a slot, or 0xFF with an event when it meets an uncorrectable error. A commit is one
step of this model, so no read meets a commit in progress. -/
def journalWindowRead (slot : BitVec 12) (ecc : Ecc) (s : State) : State :=
  let out (s : State) (l : List Byte) : State := s.modHif fun h => { h with readOut := some l }
  match ecc with
  | .ok => out s (s.jnl.slot slot.toNat)
  | .corrected => out (s.bump 0x4001 3) (s.jnl.slot slot.toNat)
  | .uncorrectable => out ((s.bump 0x4001 4).raise 0x0A00 (slot.zeroExtend 64) 2) (List.replicate 64 0xFF)

def execJournalWindowRead (slot : BitVec 12) (ecc : Ecc) (s : State) : Host.Outcome State Fault Refusal :=
  .next (if s.barsUp then journalWindowRead slot ecc s else s)

end Sys2Proof.Machine
end

