-- ==== Sys2Proof/Machine/Tick.lean ====
section
/-! DEFINITION. The passage of time: the fast-domain cycle, the acy and system time (R657, R666), and the epoch cycle (R50, R79). -/

namespace Sys2Proof.Machine

/-- Cycles of the fast-domain clock in one acy of 40 ns (R628): 40, 45 or 50. -/
def State.perAcy (s : State) : Nat := s.mhz / 25

/-- A plan starts, runs or stops (R666). -/
def State.planMoves (s : State) : Bool :=
  match s.plan with
  | .starting => true | .running => true | .stopping => true | _ => false

/-- The greatest change of the time base in one acy under a slew, in units of 2^-32 ns (R666): 200 ppm of 40 ns, or 5 ppm in a plan. The
model slews at that rate (DEDUCED, log entry 15). -/
def State.slewRate (s : State) : Nat := if s.planMoves then 858993 else 34359738

/-- System time in units of 2^-32 ns. -/
def Time.total (t : Time) : Nat := (t.sec.toNat * 1000000000 + t.ns) * 2 ^ 32 + t.frac.toNat

/-- The time base set to a count of 2^-32 ns units (R657). -/
def Time.withTotal (t : Time) (v : Nat) : Time :=
  let n := v / 2 ^ 32
  { t with frac := BitVec.ofNat 32 v, ns := n % 1000000000, sec := BitVec.ofNat 32 (n / 1000000000) }

/-- The time base after `n` acy (R657, R666): 40 ns each, less what the slew takes out. DEDUCED, log entry 15. DESIGN CHOICE, log entry 48. -/
def Time.pass (t : Time) (n rate : Nat) : Time :=
  let most := n * rate
  let d := min t.slew.natAbs most
  let step : Int := if t.slew < 0 then -(d : Int) else d
  let left := t.slew - step
  let ticks := t.rtcFrac + n * 32768
  { t.withTotal ((t.total + n * 40 * 2 ^ 32 - step).toNat) with
    slew := left
    slewing := t.slewing && decide (left ≠ 0)
    rtc := t.rtc + BitVec.ofNat 64 (ticks / 25000000)
    rtcFrac := ticks % 25000000 }

/-- `n` cycles of the fast domain pass: the count, the time base and the AON clocks; the epoch cycle is its own matter. DESIGN CHOICE, log entry 4. -/
def State.pass (s : State) (n : Nat) : State :=
  let f := s.acyFrac + n
  let a := f / s.perAcy
  { s with fcy := s.fcy + n, acyFrac := f % s.perAcy, acy := s.acy + a, time := s.time.pass a s.slewRate }

/-- The last cycle that the epoch in progress may reach before its next event (R79): 127 until the decision takes effect, then
2^k − 1 until the boundary. DESIGN CHOICE, log entry 4. -/
def State.lastCycle (s : State) : Nat := if s.epoch.begun then 2 ^ s.k - 1 else 127

/-- Time passes until the epoch in progress is in cycle `c`; an epoch that is there already stays. DESIGN CHOICE, log entry 8. -/
def State.advanceTo (s : State) (c : Nat) : State :=
  if s.epoch.active then
    let s := s.pass (c - s.epoch.cycle)
    { s with epoch := { s.epoch with cycle := max c s.epoch.cycle } }
  else s

/-- Time passes by `n` cycles, unless the epoch in progress meets one of its events before; none then. DESIGN CHOICE, log entry 8. -/
def State.passWithin (s : State) (n : Nat) : Option State :=
  if s.epoch.active then
    if s.epoch.cycle + n ≤ s.lastCycle then some (s.advanceTo (s.epoch.cycle + n)) else none
  else some (s.pass n)

/-- Time passes until the AON clock has counted `acy`, unless the epoch in progress meets one of its events before; none then. DESIGN CHOICE, log entry
62. -/
def State.toAcy (s : State) (acy : Nat) : Option State := s.passWithin ((acy - s.acy) * s.perAcy - s.acyFrac)

/-- One cycle of the fast domain (DESIGN CHOICE, log entry 4). In an epoch that waits for one of its events, the clock waits with it. -/
def State.tick (s : State) : State :=
  if s.epoch.active then
    if s.epoch.cycle < s.lastCycle then s.advanceTo (s.epoch.cycle + 1) else s
  else s.pass 1

end Sys2Proof.Machine
end

