-- ==== Sys2Proof/Machine/Sinks.lean ====
section
/-! DEFINITION. From the trace units to the sinks (R787 to R804): packets on their way, the sinks of the edge dies, arming and disarming, and the trace
book (R774, R775). -/

namespace Sys2Proof.Machine

def State.modTrace (s : State) (f : TraceSys → TraceSys) : State := { s with trace := f s.trace }

def State.sink (s : State) (e : Edge) : Sink := match e with | .e0 => s.trace.sink0 | .e1 => s.trace.sink1

def State.setSink (s : State) (e : Edge) (k : Sink) : State :=
  s.modTrace fun t => match e with | .e0 => { t with sink0 := k } | .e1 => { t with sink1 := k }

/-! ## The trace book (R774, R775) -/

/-- Packets generated, stored and dropped: 0x6000:02 to 04, which 0xA004:10 to 12 mirror. -/
def State.traceGenerated (s : State) (n : Nat) : State := s.bumpTerm 0x600002 n
def State.traceStored (s : State) : State := s.bumpTerm 0x600003 1
def State.traceDropped (s : State) : State := s.bumpTerm 0x600004 1

def State.traceTerms (s : State) : List Nat := [s.counter 0x6000 2, s.counter 0x6000 3, s.counter 0x6000 4]

/-- In transit, modulo 2^64. -/
def State.inTransit (s : State) : Nat := (s.counter 0x6000 2 + 2 * 2 ^ 64 - s.counter 0x6000 3 - s.counter 0x6000 4) % 2 ^ 64

/-- The trace book settles, with in transit required to be 0. -/
def State.settleTrace (s : State) : State := s.settleBook 0xA004 (decide (s.inTransit = 0)) s.traceTerms

/-! ## Packets (R787, R788, R799) -/

/-- The sink entry of a packet, before its SINK_SEQ is stamped (R788). -/
def TrcPacket.entry (p : TrcPacket) : List Byte := padTo 64 (leBytes 2 p.block.toNat ++ leBytes 2 p.seq.toNat ++ leBytes 4 0 ++ p.bytes)

/-- The die whose sink takes a block's packets (R799). -/
def State.sinkDie (s : State) (b : BlockId) : Edge := if s.trace.host ∨ quarterOf b < 2 then .e0 else .e1

/-- The footpath packet of a trace packet (R787): KIND 7, TAG 2, the header and the flits with records. -/
def State.tracePacket (s : State) (p : TrcPacket) : FpPacket :=
  let o := s.fpCoord p.block
  let n := 1 + (p.bytes.length + 7) / 8
  { dpx := BitVec.ofNat 8 (Edge.code (s.sinkDie p.block)), dpy := 0, spx := BitVec.ofNat 8 o.1, spy := BitVec.ofNat 8 o.2, kind := 7, tag := 2,
    txn := 0, err := 0, addr := 0, size := 8 * n, data := (List.range n).map fun i => BitVec.ofNat 64 (leAt p.entry (8 * i) 8) }

/-- The sink entry that a packet's flits carry. -/
def packetEntry (p : FpPacket) : List Byte := padTo 64 (p.data.flatMap fun w => leBytes 8 w.toNat)

/-- A closed packet is handed to the block's footpath node (R774, R795, R796): its queue holds 4. -/
def State.handPacket (s : State) (b : BlockId) (p : TrcPacket) : State :=
  let t := (s.blk b).trc
  let s := s.traceGenerated 1
  if t.node.length < 4 then
    s.modBlk b fun x => { x with trc := { x.trc with packets := t.packets + 1, node := t.node ++ [p] } }
  else
    (s.modBlk b fun x =>
      { x with trc := { x.trc with packets := t.packets + 1, drops := t.drops + 1, needSync := true,
                                   pend := if t.pend = 0xFFFF then t.pend else t.pend + 1 } }).traceDropped

/-- TRACE_PACKET_CLOSE (R793, R795, R796): in the fcy after its close, the block's oldest closed packet is handed over. -/
def tracePacketClose (b : BlockId) (why : CloseWhy) (s : State) : State :=
  match (s.blk b).trc.closed with
  | (w, p) :: rest =>
    if w = why then (s.modBlk b fun x => { x with trc := { x.trc with closed := rest } }).handPacket b p else s
  | [] => s

def execTracePacketClose (b : BlockId) (why : CloseWhy) (s : State) : Host.Outcome State Fault Refusal := .next (tracePacketClose b why s)

/-- The packet being formed closes, and is handed over. -/
def State.closeAndHand (s : State) (b : BlockId) : State :=
  let s := s.traceClose b .full
  match (s.blk b).trc.closed.getLast? with
  | some (_, p) => (s.modBlk b fun x => { x with trc := { x.trc with closed := x.trc.closed.dropLast } }).handPacket b p
  | none => s

/-- TRACE_PACKET_TIMEOUT (R795): what is left of the 4,096 fcy since its first record passes, and the packet being formed closes and is handed over.
DESIGN CHOICE, log entry 62. -/
def tracePacketTimeout (b : BlockId) (s : State) : State :=
  if (s.blk b).trc.form = [] then s
  else
    match s.passWithin ((s.blk b).trc.formFrom + 4096 - s.ticks b) with
    | some t => t.closeAndHand b
    | none => s

def execTracePacketTimeout (b : BlockId) (s : State) : Host.Outcome State Fault Refusal := .next (tracePacketTimeout b s)

/-- fcy until BLK_CYCLES passes the next multiple of GTS_INT after the block's previous GTS, or its arming (R798). -/
def State.gtsLeft (s : State) (b : BlockId) : Nat :=
  let t := (s.blk b).trc
  let g := t.gtsInt.toNat
  if g = 0 then 0 else (t.lastGts / g + 1) * g - s.blkCycles b

/-- GTS (R798): what is left until BLK_CYCLES passes a multiple of GTS_INT passes, and the record is emitted. DESIGN CHOICE, log entry 62. -/
def gts (b : BlockId) (s : State) : State :=
  if s.tracing b then
    match s.passWithin (s.gtsLeft b) with
    | some t => t.traceGts b
    | none => s
  else s

def execGts (b : BlockId) (s : State) : Host.Outcome State Fault Refusal := .next (gts b s)

/-- SYNC_REQ (R782, R794). -/
def execSyncReq (b : BlockId) (s : State) : Host.Outcome State Fault Refusal := .next (s.traceSync b)

/-- TRC_MARK_WRITE (R782, R785). -/
def execTrcMarkWrite (b : BlockId) (value : BitVec 64) (s : State) : Host.Outcome State Fault Refusal := .next (s.traceMark b value)

/-! ## Sinks (R799 to R802) -/

/-- A sink drops a packet: it counts toward the next overflow marker. -/
def State.sinkDrop (s : State) (e : Edge) : State := (s.setSink e { s.sink e with lost := (s.sink e).lost + 1 }).traceDropped

/-- A packet reaches an edge die: its sink's input buffer holds 32. A die that does not work is unreachable (R774). -/
def State.sinkTake (s : State) (e : Edge) (l : List Byte) : State :=
  if look 0 s.dies (edgeIndex e) ≠ 0 then s.traceDropped
  else if (s.sink e).buf.length < 32 then s.setSink e { s.sink e with buf := (s.sink e).buf ++ [l] }
  else s.sinkDrop e

/-- A sink entry with its SINK_SEQ. -/
def stamped (seq : BitVec 32) (l : List Byte) : List Byte := l.take 4 ++ leBytes 4 seq.toNat ++ l.drop 8

/-- A sink writes one entry, at its ring's write offset or at the place in the host buffer that its number gives (R800, R802). -/
def State.sinkEntry (s : State) (e : Edge) (l : List Byte) : State :=
  let k := s.sink e
  let l := stamped k.seq l
  if s.trace.host then
    let n := s.trace.hostLen / 64
    (s.hostWrite (s.trace.hostAddr + 64 * ((k.seq.toNat - 1) % n)) l).setSink e { k with seq := k.seq + 1 }
  else
    (s.modEdge e fun d => { d with sram := mstore d.sram (k.base + k.woff) l }).setSink e
      { k with seq := k.seq + 1, woff := (k.woff + 64) % k.size, held := min (k.held + 1) (k.size / 64) }

/-- Sink entries wait, since they go to host memory and the function is in D3hot (R522). -/
def State.sinkWaits (s : State) : Bool := s.trace.host && s.hif.quiet

/-- The overflow marker (R788, R801), when packets were dropped. -/
def State.sinkMarker (s : State) (e : Edge) : State :=
  let k := s.sink e
  if decide (k.lost = 0) || s.sinkWaits then s
  else
    let l := padTo 64 (leBytes 8 0xFFFF ++ leBytes 8 k.lost.toNat ++ leBytes 8 s.time64.toNat)
    ((s.sinkEntry e l).setSink e { (s.sinkEntry e l).sink e with lost := 0 }).bump (0x6010 + edgeIndex e) 3

/-- The ring takes a packet, after a marker when one is due: without WRAP its last free entry is kept (R800). -/
def Sink.takes (k : Sink) (wrap : Bool) : Bool :=
  let n := k.size / 64
  if wrap then decide (0 < n) else decide (k.held + (if k.lost = 0 then 1 else 2) < n)

/-- SINK_STORE (R800 to R802, R807): the sink of a die stores the oldest packet of its buffer, or drops it. `hostOk` says that a write of host
memory succeeded. DEDUCED, log entry 52. -/
def sinkStore (e : Edge) (hostOk : Bool) (s : State) : State :=
  let k := s.sink e
  match k.buf with
  | [] => s
  | l :: rest =>
    if s.sinkWaits then s
    else
      let go := s.setSink e { k with buf := rest }
      if s.trace.host then
        if hostOk then ((go.sinkMarker e).sinkEntry e l).traceStored
        else (go.sinkDrop e).modHif fun h => h.aer aerAbort
      else if k.takes s.trace.wrap then ((go.sinkMarker e).sinkEntry e l).traceStored
      else go.sinkDrop e

def execSinkStore (die : Edge) (hostOk : Bool) (s : State) : Host.Outcome State Fault Refusal := .next (sinkStore die hostOk s)

/-! ## On the way (R415, R774) -/

/-- A trace packet leaves the queue of its block's node; one that no way reaches its sink is dropped (R745). DEDUCED, log entry 52. -/
def State.traceLeave (s : State) (node : FpNode) (p : FpPacket) : State :=
  match node with
  | .block b =>
    match (s.blk b).trc.node with
    | q :: rest =>
      if s.tracePacket q = p then
        let s := s.modBlk b fun x => { x with trc := { x.trc with node := rest } }
        if (s.fpRoute (s.fpCoord b) (packetDest p)).isSome then s.sendPacket (s.fpCoord b) p else s.traceDropped
      else s
    | [] => s
  | .edge _ => s

/-- A packet or sink entry comes from this block. -/
def entryFrom (b : BlockId) (l : List Byte) : Bool := decide (leAt l 0 2 = b.toNat)

/-- TRACE_TRANSIT_TIMEOUT (R774): the oldest packet of a block that is neither stored nor dropped 2^20 fcy after its generation is dropped. -/
def traceTransitTimeout (b : BlockId) (s : State) : State :=
  let e := s.sinkDie b
  let k := s.sink e
  match k.buf.find? (entryFrom b), s.footpath.find? (fun t => decide (t.pkt.kind = 7) && entryFrom b (packetEntry t.pkt)), (s.blk b).trc.node with
  | some l, _, _ => (s.setSink e { k with buf := k.buf.erase l }).sinkDrop e
  | none, some t, _ => ({ s with footpath := s.footpath.erase t } : State).traceDropped
  | none, none, _ :: rest => (s.modBlk b fun x => { x with trc := { x.trc with node := rest } }).traceDropped
  | none, none, [] => s

def execTraceTransitTimeout (b : BlockId) (s : State) : Host.Outcome State Fault Refusal := .next (traceTransitTimeout b s)

/-! ## Arming and disarming (R789 to R792) -/

/-- Size of die `e`'s ring in the bound plan. -/
def PlanRec.trace (p : PlanRec) (e : Edge) : Nat := match e with | .e0 => p.trace0 | .e1 => p.trace1

/-- Where die `e`'s ring lies, and its size (R800, R862): after 4 MiB of link staging in a binding, else the top 8 MiB. DEDUCED, log entry 37. -/
def State.ringPlace (s : State) (e : Edge) : Nat × Nat :=
  if s.isBound then (4 * 2 ^ 20, s.pl.trace e) else (56 * 2 ^ 20, 8 * 2 ^ 20)

/-- The TRC_CTL writes of the last arming, in one quarter (R790): a block that cannot be reached is not armed (R516). DEDUCED, log entry 52. -/
def State.armQuarter (s : State) (q : Nat) : State :=
  (List.range' s.trace.first (s.trace.last + 1 - s.trace.first)).foldl (fun s n =>
    let b : BlockId := BitVec.ofNat 16 n
    if isLogical b ∧ quarterOf b = q ∧ s.reachable b then s.trcControl b s.trace.ctl else s) s

/-- The held writes of a quarter are made when its PLL starts (R790). DEDUCED, log entry 52. -/
def State.armHeld (s : State) (q : Nat) : State :=
  if q ∈ s.trace.waiting then (s.armQuarter q).modTrace fun t => { t with waiting := t.waiting.filter fun n => !decide (n = q) } else s

/-- Steps 2 to 4 of R790, with the arguments of a TRACE_ARM. DEDUCED, log entry 52. -/
def State.armTrace (s : State) (c : Cmd) : State :=
  let fresh (e : Edge) : Sink := { Sink.reset with base := (s.ringPlace e).1, size := (s.ringPlace e).2 }
  let qs := [0, 1, 2, 3].filter fun q => (c.arg 24 1).testBit q
  let ctl := 1 + 2 * (c.arg 25 1 % 32) + 64 * s.setting 0x6001 3 + 2 ^ 16 * s.setting 0x6001 1 + 2 ^ 32 * s.setting 0x6001 2
  let s := s.modTrace fun _ =>
    ⟨true, false, decide (c.arg 26 1 % 2 = 1), decide (s.setting 0x6001 4 = 1), c.arg 32 8, c.arg 40 4, BitVec.ofNat 64 ctl, c.arg 28 2, c.arg 30 2,
      qs.filter fun q => !s.pllOn q, fresh .e0, fresh .e1⟩
  qs.foldl (fun s q => if s.pllOn q then s.armQuarter q else s) s

/-- EN 0 is written to an armed block, which closes the packet that it forms. -/
def State.disarmBlock (s : State) (b : BlockId) : State :=
  if (s.blk b).trc.en then (s.traceClose b .disarm).modBlk b fun x => { x with trc := { x.trc with en := false } } else s

/-- Step 1 of R791. -/
def State.beginDisarm (s : State) : State :=
  (s.eachListed State.disarmBlock).modTrace fun t => { t with disarming := true, waiting := [] }

/-- Steps 3 and 4 of R791, and the settlement of the book (R775, R801): the marker of a full ring takes the reserved entry. -/
def State.endDisarm (s : State) : State :=
  let mark (s : State) (e : Edge) : State := if s.trace.host ∨ 64 ≤ (s.sink e).size then s.sinkMarker e else s
  ((mark (mark s .e0) .e1).modTrace fun t => { t with armed := false, disarming := false }).settleTrace

/-- Everything generated has been stored or dropped, no closed packet waits for its hand-over, and no overflow marker waits for D0 (R522). -/
def State.traceDone (s : State) : Bool :=
  decide (s.inTransit = 0) && (s.blocks.all fun e => e.2.trc.closed.isEmpty && e.2.trc.node.isEmpty)
    && !(s.sinkWaits && (decide ((s.sink .e0).lost ≠ 0) || decide ((s.sink .e1).lost ≠ 0)))

/-- A TRACE_ARM that has started ends (R790, R791). -/
def State.finishArm (s : State) (c : Cmd) : State :=
  if 128 ≤ c.arg 24 1 then s.endCmd c 0 0 else (s.armTrace c).endCmd c 0 0

/-- TRACE_DISARM_COMPLETE (R791): in transit is 0. A TRACE_ARM that waited for it goes on. -/
def traceDisarmComplete (s : State) : State :=
  if s.trace.disarming && s.traceDone then
    let s := s.endDisarm
    match s.hif.cmds.find? fun c => decide (c.opcode = 0x24 ∧ c.phase = .running) with
    | some c => s.finishArm c
    | none => s
  else s

def execTraceDisarmComplete (s : State) : Host.Outcome State Fault Refusal := .next (traceDisarmComplete s)

/-- Packets of a block that a sink has yet to take. -/
def State.flushBlock (s : State) (b : BlockId) : State :=
  let t := (s.blk b).trc
  let l := t.node ++ t.closed.map Prod.snd
  let s := (s.modBlk b fun x => { x with trc := { x.trc with node := [], closed := [] } }).traceGenerated t.closed.length
  l.foldl (fun s p => sinkStore (s.sinkDie b) true (s.sinkTake (s.sinkDie b) p.entry)) s

/-- Trace is disarmed at once, as every fast-domain reset does (R792): what is in transit reaches its sink. -/
def State.disarmNow (s : State) : State :=
  if s.trace.armed then
    let s := s.beginDisarm
    let drain (s : State) (e : Edge) : State := (s.sink e).buf.foldl (fun s _ => sinkStore e true s) s
    let s := drain (drain s .e0) .e1
    let l := s.footpath.filter fun t => decide (t.pkt.kind = 7)
    let s : State := { s with footpath := s.footpath.filter fun t => !decide (t.pkt.kind = 7) }
    let s := l.foldl (fun s t =>
      let e := edgeOf (t.pkt.dpx.toNat - 0xFE)
      sinkStore e true (s.sinkTake e (packetEntry t.pkt))) s
    (s.eachListed State.flushBlock).endDisarm
  else s

/-! ## Drains (R803) -/

/-- The entries that a drain of at most `len` bytes copies, oldest first; those at the places of `bad` hold an uncorrectable error. -/
def State.drained (s : State) (e : Edge) (len : Nat) (bad : List Nat) : List (List Byte) :=
  let k := s.sink e
  (List.range (min k.held (len / 64))).map fun i =>
    if i ∈ bad then List.replicate 64 0xFF
    else mload (s.edgeDie e).sram (k.base + (k.woff + k.size - 64 * k.held + 64 * i) % k.size) 64

end Sys2Proof.Machine
end

