-- ==== Sys2Proof/Machine/Scalar.lean ====
section
/-! DEFINITION. Integer, branch, load and store instructions of the block core (R148 to R156). -/

namespace Sys2Proof.Machine

/-! ## What the operations compute -/

def b2w (b : Bool) : W64 := if b then 1 else 0

/-- Leading zero bits of a word (R148). -/
def clz64 (a : W64) : W64 := if a = 0 then 64 else BitVec.ofNat 64 (63 - Nat.log2 a.toNat)

/-- The least index below `n` whose bit is 1, counted from `i`; 64 when there is none. -/
def firstOne (a : W64) : Nat → Nat → Nat
  | 0, _ => 64
  | n + 1, i => if a.getLsbD i then i else firstOne a n (i + 1)

/-- Trailing zero bits of a word (R148). -/
def ctz64 (a : W64) : W64 := BitVec.ofNat 64 (firstOne a 64 0)

/-- 1 bits among the low `n` bits of a number. -/
def popNat (a : Nat) : Nat → Nat
  | 0 => 0
  | n + 1 => (if a.testBit n then 1 else 0) + popNat a n

/-- The eight bytes in reverse order (R148). -/
def bswap64 (a : W64) : W64 := BitVec.ofNat 64 (leNat (leBytes 8 a.toNat).reverse)

def sextW (v : BitVec 32) : W64 := v.signExtend 64

/-- Opcode 0x01 (R148). -/
def intOp (fn : IntFn) (a b : W64) : W64 :=
  let aw := a.setWidth 32
  let bw := b.setWidth 32
  match fn with
  | .add => a + b
  | .sub => a - b
  | .and => a &&& b
  | .or => a ||| b
  | .xor => a ^^^ b
  | .andn => a &&& ~~~b
  | .sll => a <<< (b.toNat % 64)
  | .srl => a >>> (b.toNat % 64)
  | .sra => a.sshiftRight (b.toNat % 64)
  | .slt => b2w (a.slt b)
  | .sltu => b2w (a.ult b)
  | .seq => b2w (a == b)
  | .min => if a.slt b then a else b
  | .max => if a.slt b then b else a
  | .minu => if a.ult b then a else b
  | .maxu => if a.ult b then b else a
  | .addw => sextW (aw + bw)
  | .subw => sextW (aw - bw)
  | .sllw => sextW (aw <<< (b.toNat % 32))
  | .srlw => sextW (aw >>> (b.toNat % 32))
  | .sraw => sextW (aw.sshiftRight (b.toNat % 32))
  | .clz => clz64 a
  | .ctz => ctz64 a
  | .popc => BitVec.ofNat 64 (popNat a.toNat 64)
  | .sextb => (a.setWidth 8).signExtend 64
  | .sexth => (a.setWidth 16).signExtend 64
  | .sextw => sextW aw
  | .zextb => (a.setWidth 8).zeroExtend 64
  | .zexth => (a.setWidth 16).zeroExtend 64
  | .zextw => aw.zeroExtend 64
  | .bswap => bswap64 a

/-- The immediate forms (R141, R149). -/
def immOp (fn : ImmFn) (a : W64) (imm : BitVec 14) : W64 :=
  let i := simm14 imm
  let z := zimm14 imm
  let sh := imm.toNat % 64
  match fn with
  | .addi => a + i
  | .addiw => sextW (a.setWidth 32 + i.setWidth 32)
  | .andi => a &&& z
  | .ori => a ||| z
  | .xori => a ^^^ z
  | .slti => b2w (a.slt i)
  | .sltiu => b2w (a.ult i)
  | .slli => a <<< sh
  | .srli => a >>> sh
  | .srai => a.sshiftRight sh

/-- Opcode 0x02, the multiplies (R151): exact products, narrowed at the end. -/
def mulOp (fn : MulFn) (a b : W64) : W64 :=
  match fn with
  | .mul => a * b
  | .mulh => BitVec.ofInt 64 (a.toInt * b.toInt / 2 ^ 64)
  | .mulhu => BitVec.ofNat 64 (a.toNat * b.toNat / 2 ^ 64)
  | .mulhsu => BitVec.ofInt 64 (a.toInt * (b.toNat : Int) / 2 ^ 64)
  | .mulw => sextW (a.setWidth 32 * b.setWidth 32)

/-- Signed quotient, truncated toward zero; 0 for a divisor of 0 and the dividend for the most negative value by −1 (R151, R152). -/
def quoS {w : Nat} (a b : BitVec w) : BitVec w := if b = 0 then 0 else BitVec.ofInt w (a.toInt.tdiv b.toInt)

/-- Signed remainder with the sign of the dividend; the dividend for a divisor of 0 (R151, R152). -/
def remS {w : Nat} (a b : BitVec w) : BitVec w := if b = 0 then a else BitVec.ofInt w (a.toInt.tmod b.toInt)

def quoU {w : Nat} (a b : BitVec w) : BitVec w := if b = 0 then 0 else a / b

def remU {w : Nat} (a b : BitVec w) : BitVec w := if b = 0 then a else a % b

/-- Opcode 0x02, divide and remainder (R151, R152). -/
def divOp (fn : DivFn) (a b : W64) : W64 :=
  let aw := a.setWidth 32
  let bw := b.setWidth 32
  match fn with
  | .div => quoS a b
  | .divu => quoU a b
  | .rem => remS a b
  | .remu => remU a b
  | .divw => sextW (quoS aw bw)
  | .divuw => sextW (quoU aw bw)
  | .remw => sextW (remS aw bw)
  | .remuw => sextW (remU aw bw)

/-- The condition of a branch (R155). -/
def branchTaken (fn : BranchFn) (a b : W64) : Bool :=
  match fn with
  | .beq => a == b
  | .bne => a != b
  | .blt => a.slt b
  | .bge => !a.slt b
  | .bltu => a.ult b
  | .bgeu => !a.ult b

/-! ## Access checks (R138) -/

/-- Where a local access lands once its checks have passed, or the fault it raises: cause and fault value. -/
inductive Access where
  | fault (cause : Nat) (value : W64)
  | ls | im | rom | remote
  | cr (off : Nat)
  deriving DecidableEq, Repr

/-- The checks of a load (`isStore` false) or a store of `n` bytes at `a`, in the order of R138 and R352. -/
def State.access (s : State) (b : BlockId) (isStore : Bool) (n : Nat) (a : W64) : Access :=
  let p := (s.blk b).priv
  let c := p.ctx
  let k := a.toNat
  if k % n ≠ 0 then .fault 4 a
  else if isRemote a then
    if !s.devMapped (remDev a) then .fault 5 a
    else if !mapped (remOff a) then .fault 6 a
    else if c.isUser then .fault 7 a
    else if inCr (remOff a) && decide (n ≠ 8) then .fault 8 a
    else .remote
  else if !mapped k then .fault 6 a
  else if inLs k n then (if p.lsBytes c k n then .ls else .fault 7 a)
  else if inIm k then (if c = .m then .im else .fault 7 a)
  else if inRom k then (if c = .m && !isStore then .rom else .fault 7 a)
  else
    let off := k - 0x300000
    if isStore && !s.crMay b (off / 8 * 8) c then .fault 7 (BitVec.ofNat 64 off)
    else if n ≠ 8 then .fault 8 a
    else .cr off

/-- The value that `n` bytes of a block's memory hold. -/
def Block.lsWord (x : Block) (a n : Nat) : W64 := BitVec.ofNat 64 (mloadN x.ls a n)
def Block.imWord (x : Block) (a n : Nat) : W64 := BitVec.ofNat 64 (mloadN x.im a n)

/-- A write of a control register by the block's own core, which then goes on: the values of before a write of the loop registers govern the writing
instruction itself and what issues less than 2 fcy after it (R119). DEDUCED, log entry 61. -/
def State.crStore (s : State) (b : BlockId) (off : Nat) (v : W64) : State :=
  let t := s.advance b
  let u := t.crWrite b (.core (s.blk b).priv.ctx) off v allBytes
  if off = 0x40 ∨ off = 0x48 then
    u.modCore b fun c => { c with loopOld := some ((t.blk b).core.loopRegs, s.ticks b) }
  else u

/-- Bytes of the mask ROM; their values are the free values of DESIGN CHOICE, log entry 1. -/
def romWord (a n : Nat) : W64 := BitVec.ofNat 64 (leNat ((List.range n).map fun i => Config.romByte (a + i)))

/-- Writes the low `n` bytes of a value to local store. -/
def State.lsStore (s : State) (b : BlockId) (a : Nat) (l : List Byte) : State :=
  s.modBlk b fun x =>
    { x with ls := mstore x.ls a l, integ := { x.integ with notes := markWritten a l.length x.integ.notes } }

def State.imStore (s : State) (b : BlockId) (a : Nat) (l : List Byte) : State :=
  s.modBlk b fun x => { x with im := mstore x.im a l }

/-- An uncorrectable error met by a planned requester of a block: counted, and it voids (R84, R730). -/
def State.lost (s : State) (b : BlockId) (word : Nat) : State :=
  if b = mgmtCore then s.uncorrectable b word else (s.uncorrectable b word).charge rowUncorrectable (blkRef b)

/-! ## Meanings -/

/-- INTEGER_REGISTER_OP (R148): a reserved rb of a unary operation is a reserved encoding (R180). -/
def integerRegisterOp (b : BlockId) (fn : IntFn) (rb ra rd : Reg) (s : State) : State :=
  s.issue b fun s => s.decoded b (.integerRegisterOp b fn rb ra rd) fun s =>
    s.whenFree b [ra, rb, rd] [] fun s => s.finish b rd (intOp fn (s.getG b ra) (s.getG b rb))

def execIntegerRegisterOp (b : BlockId) (fn : IntFn) (rb ra rd : Reg) (s : State) : Host.Outcome State Fault Refusal :=
  .next (integerRegisterOp b fn rb ra rd s)

/-- INTEGER_IMMEDIATE_OP (R149): imm14[13:6] of a shift must be 0 (R141, R180). -/
def integerImmediateOp (b : BlockId) (fn : ImmFn) (imm : BitVec 14) (ra rd : Reg) (s : State) : State :=
  s.issue b fun s => s.decoded b (.integerImmediateOp b fn imm ra rd) fun s =>
    s.whenFree b [ra, rd] [] fun s => s.finish b rd (immOp fn (s.getG b ra) imm)

def execIntegerImmediateOp (b : BlockId) (fn : ImmFn) (imm : BitVec 14) (ra rd : Reg) (s : State) : Host.Outcome State Fault Refusal :=
  .next (integerImmediateOp b fn imm ra rd s)

/-- LUI (R150). -/
def execLui (b : BlockId) (imm : BitVec 19) (rd : Reg) (s : State) : Host.Outcome State Fault Refusal :=
  .next (s.issue b fun s => s.whenFree b [rd] [] fun s => s.finish b rd (simm19 imm <<< 13))

/-- lhi keeps bits [31:0] and takes bits [63:32] from the immediate (R150). -/
def lhiValue (old : W64) (imm : BitVec 19) : W64 := ((simm19 imm).setWidth 32) ++ (old.setWidth 32)

/-- LHI (R150). -/
def execLhi (b : BlockId) (imm : BitVec 19) (rd : Reg) (s : State) : Host.Outcome State Fault Refusal :=
  .next (s.issue b fun s => s.whenFree b [rd] [] fun s => s.finish b rd (lhiValue (s.getG b rd) imm))

/-- MULTIPLY (R151): the result returns through L1. -/
def execMultiply (b : BlockId) (fn : MulFn) (rb ra rd : Reg) (s : State) : Host.Outcome State Fault Refusal :=
  .next (s.issue b fun s => s.whenFree b [ra, rb, rd] [] fun s =>
    s.startLong b ⟨.l1, false, rd, mulOp fn (s.getG b ra) (s.getG b rb), 0, false⟩)

/-- DIVIDE_REMAINDER (R151, R152): the result returns through L1. -/
def execDivideRemainder (b : BlockId) (fn : DivFn) (rb ra rd : Reg) (s : State) : Host.Outcome State Fault Refusal :=
  .next (s.issue b fun s => s.whenFree b [ra, rb, rd] [] fun s =>
    s.startLong b ⟨.l1, false, rd, divOp fn (s.getG b ra) (s.getG b rb), 0, false⟩)

/-- A load whose data have been read: they go to the register (R153, R154). -/
def State.loaded (s : State) (b : BlockId) (fn : LoadFn) (rd : Reg) (v : W64) : State :=
  (s.modCore b fun c => c.set fn.toF rd (fn.extend v)).advance b

/-- LOAD on a block (R138, R153, R154, R124, R730). -/
def doLoad (b : BlockId) (fn : LoadFn) (imm : BitVec 14) (ra rd : Reg) (ecc : Ecc) (s : State) : State :=
  s.issue b fun s =>
    s.whenFree b (if fn.toF then [ra] else [ra, rd]) (if fn.toF then [rd] else []) fun s =>
      let a := s.getG b ra + simm14 imm
      let k := a.toNat
      let n := fn.size
      match s.access b false n a with
      | .fault c v => s.raiseSync b c v
      | .remote => if (s.blk b).core.remLoads.length < 4 then (s.sendLoad b a fn rd).advance b else s
      | .rom => s.loaded b fn rd (romWord k n)
      | .cr off => s.loaded b fn rd (s.crRead b off (s.blk b).priv.ctx)
      | .im =>
        match ecc with
        | .ok => s.loaded b fn rd ((s.blk b).imWord k n)
        | .corrected => (s.correctedIm b (k / 8 * 8)).loaded b fn rd ((s.blk b).imWord k n)
        | .uncorrectable => (s.lost b (k / 8 * 8)).raiseSync b 17 a
      | .ls =>
        if s.branchTicks b 5 then
          match ecc with
          | .ok => s.loaded b fn rd ((s.blk b).lsWord k n)
          | .corrected => (s.corrected b (k / 8 * 8)).loaded b fn rd ((s.blk b).lsWord k n)
          | .uncorrectable => (s.lost b (k / 8 * 8)).raiseSync b 17 a
        else s

/-- A store to local store with its error correction (R731): only a store of fewer than 8 bytes reads the word it merges into. -/
def State.lsStoreEcc (s : State) (b : BlockId) (k : Nat) (l : List Byte) (ecc : Ecc) : State :=
  if l.length < 8 then
    match ecc with
    | .ok => s.lsStore b k l
    | .corrected => (s.corrected b (k / 8 * 8)).lsStore b k l
    | .uncorrectable => s.lost b (k / 8 * 8)
  else s.lsStore b k l

/-- STORE on a block (R138, R154, R731). -/
def doStore (b : BlockId) (fn : StoreFn) (imm : BitVec 14) (ra rs : Reg) (ecc : Ecc) (s : State) : State :=
  s.issue b fun s =>
    s.whenFree b (if fn.fromF then [ra] else [ra, rs]) (if fn.fromF then [rs] else []) fun s =>
      let a := s.getG b ra + simm14 imm
      let k := a.toNat
      let n := fn.size
      let v := if fn.fromF then s.getF b rs else s.getG b rs
      match s.access b true n a with
      | .fault c w => s.raiseSync b c w
      | .remote => if (s.blk b).core.remStores.length < 8 then (s.sendStore b a false n v).advance b else s
      | .rom => s
      | .cr off => s.crStore b off v
      | .im => (s.imStore b k (leBytes n v.toNat)).advance b
      | .ls => if s.branchTicks b 5 then (s.lsStoreEcc b k (leBytes n v.toNat) ecc).advance b else s

/-- BRANCH (R155): its outcome is traced (R785). -/
def execBranch (b : BlockId) (fn : BranchFn) (imm : BitVec 14) (rb ra : Reg) (s : State) : Host.Outcome State Fault Refusal :=
  .next (s.issue b fun s => s.whenFree b [ra, rb] [] fun s =>
    let taken := branchTaken fn (s.getG b ra) (s.getG b rb)
    let pc := s.pcOf b
    let s := s.traceOutcome b taken
    if taken then (s.noteTaken b (pc + 4 * simm14 imm)).redirect b (pc + 4 * simm14 imm) else s.advance b)

/-- JAL (R156). -/
def execJal (b : BlockId) (imm : BitVec 19) (rd : Reg) (s : State) : Host.Outcome State Fault Refusal :=
  .next (s.issue b fun s => s.whenFree b [rd] [] fun s =>
    let pc := s.pcOf b
    ((s.setG b rd (pc + 4)).noteTaken b (pc + 4 * simm19 imm)).redirect b (pc + 4 * simm19 imm))

/-- The target of jalr: bits [1:0] cleared (R156). -/
def jalrTarget (a : W64) (imm : BitVec 14) : W64 := (a + simm14 imm) &&& ~~~3#64

/-- JALR (R156): the target is computed from the base read at issue; it is traced (R785). -/
def execJalr (b : BlockId) (imm : BitVec 14) (ra rd : Reg) (s : State) : Host.Outcome State Fault Refusal :=
  .next (s.issue b fun s => s.whenFree b [ra, rd] [] fun s =>
    let pc := s.pcOf b
    let t := jalrTarget (s.getG b ra) imm
    (((s.traceTarget b t).setG b rd (pc + 4)).noteTaken b t).redirect b t)

end Sys2Proof.Machine
end

