-- ==== Sys2Proof/Machine/ScalarFp.lean ====
section
/-! DEFINITION. Floating-point instructions of the block core (R157 to R165): each starts an operation whose result and flags are written when it
completes (R111, R228). -/

namespace Sys2Proof.Machine

/-- The format that fmt names (R142). -/
def fmtOf (fmt : Bool) : FFmt := if fmt then .f64 else .f32

/-- The class mask (R160). -/
def classMask (f : FFmt) (x : Nat) : Nat :=
  match f.decode x with
  | .nan s => if s then 2 else 1
  | .inf n => if n then 2 ^ 9 else 2 ^ 2
  | .fin n m _ =>
    if m = 0 then (if n then 2 ^ 6 else 2 ^ 5)
    else if x % f.signBit < 2 ^ f.fw then (if n then 2 ^ 7 else 2 ^ 4)
    else if n then 2 ^ 8 else 2 ^ 3

/-- A compare: its truth and NV (R159): any NaN raises NV in flt and fle, a signalling one in feq. -/
def fpCompare (f : FFmt) (fn : FpFn) (x y : Nat) : Bool × BitVec 6 :=
  let a := f.decode x
  let b := f.decode y
  match fn with
  | .feq => (a.eqv b, sigNV [a, b])
  | .flt => (a.lt b, flagIf (a.isNan || b.isNan) fNV)
  | _ => (!a.isNan && !b.isNan && !b.lt a, flagIf (a.isNan || b.isNan) fNV)

/-- Delivers an exact operation's value (R199, R209). -/
def fpDeliver (f : FFmt) (rm : Rm) (r : FV × BitVec 6) : Nat × BitVec 6 := f.deliver rm 0 r.2 r.1

/-- Opcode 0x30 (R157): the bits of the result and the flags; `x` and `y` are the operand registers, of which the format's bits count
(R143). -/
def fpOp (fn : FpFn) (f : FFmt) (rm : Rm) (x y : W64) : W64 × BitVec 6 :=
  let xn := x.toNat % 2 ^ f.width
  let yn := y.toNat % 2 ^ f.width
  let a := f.decode xn
  let b := f.decode yn
  let mag := xn % f.signBit
  let out (r : Nat × BitVec 6) : W64 × BitVec 6 := (BitVec.ofNat 64 r.1, r.2)
  match fn with
  | .fadd => out (fpDeliver f rm (a.add rm b))
  | .fsub => out (fpDeliver f rm (a.add rm b.neg))
  | .fmul => out (fpDeliver f rm (a.mul b))
  | .fdiv => out (fpDeliver f rm (a.div b))
  | .fsqrt => out (fpDeliver f rm a.sqrt)
  | .fmin => out (f.maxMin false xn yn)
  | .fmax => out (f.maxMin true xn yn)
  | .fabs => (BitVec.ofNat 64 mag, 0)
  | .fneg => (BitVec.ofNat 64 (mag + if xn < f.signBit then f.signBit else 0), 0)
  | .fcpsgn => (BitVec.ofNat 64 (mag + if yn < f.signBit then 0 else f.signBit), 0)
  | .feq => let r := fpCompare f fn xn yn; (b2w r.1, r.2)
  | .flt => let r := fpCompare f fn xn yn; (b2w r.1, r.2)
  | .fle => let r := fpCompare f fn xn yn; (b2w r.1, r.2)
  | .fclass => (BitVec.ofNat 64 (classMask f xn), 0)
  | .fmvg => (if f.width = 64 then x else sextW (x.setWidth 32), 0)
  | .fmvf => (if f.width = 64 then x else (x.setWidth 32).zeroExtend 64, 0)

/-- The operation writes a g register (R157). -/
def fpToG : FpFn → Bool
  | .feq => true | .flt => true | .fle => true | .fclass => true | .fmvg => true | _ => false

/-- The result port of an operation of opcode 0x30 (R111, R134). -/
def fpPort (fn : FpFn) : Port :=
  match fn with
  | .fdiv => .f2
  | .fsqrt => .f2
  | fn => if fpToG fn then .l1 else .f1

/-- FP_OPERATION (R157 to R160). -/
def doFpOperation (b : BlockId) (fn : FpFn) (rm : BitVec 3) (fmt : Bool) (rb ra rd : Reg) (s : State) : State :=
  s.issue b fun s => s.decoded b (.fpOperation b fn rm fmt rb ra rd) fun s =>
    let toG := fpToG fn
    let fromG := decide (fn = .fmvf)
    s.whenFree b ((if toG then [rd] else []) ++ (if fromG then [ra] else []))
        ((if toG then [] else [rd]) ++ (if fromG then [] else [ra, rb])) fun s =>
      let a := if fromG then s.getG b ra else s.getF b ra
      let r := fpOp fn (fmtOf fmt) (Rm.of ((s.blk b).fp.mode rm false)) a (s.getF b rb)
      s.startLong b ⟨fpPort fn, !toG, rd, r.1, r.2, true⟩

def execFpOperation (b : BlockId) (fn : FpFn) (rm : BitVec 3) (fmt : Bool) (rb ra rd : Reg) (s : State) :
    Host.Outcome State Fault Refusal :=
  .next (doFpOperation b fn rm fmt rb ra rd s)

/-- The fused operations (R161): two exact terms, rounded once. -/
def fmaOp (fn : FmaFn) (f : FFmt) (rm : Rm) (x y z : W64) : W64 × BitVec 6 :=
  let dec (v : W64) := f.decode (v.toNat % 2 ^ f.width)
  let a := match fn with
    | .fnmadd => (dec x).neg
    | .fnmsub => (dec x).neg
    | _ => dec x
  let c := match fn with
    | .fmsub => (dec z).neg
    | .fnmadd => (dec z).neg
    | _ => dec z
  let r := fpDeliver f rm (FV.fma rm a (dec y) c)
  (BitVec.ofNat 64 r.1, r.2)

/-- FP_FUSED_MULTIPLY_ADD (R161). -/
def doFma (b : BlockId) (fn : FmaFn) (rm : BitVec 3) (fmt : Bool) (rc rb ra rd : Reg) (s : State) : State :=
  s.issue b fun s => s.decoded b (.fpFusedMultiplyAdd b fn rm fmt rc rb ra rd) fun s =>
    s.whenFree b [] [ra, rb, rc, rd] fun s =>
      let r := fmaOp fn (fmtOf fmt) (Rm.of ((s.blk b).fp.mode rm false)) (s.getF b ra) (s.getF b rb) (s.getF b rc)
      s.startLong b ⟨.f1, true, rd, r.1, r.2, true⟩

def execFpFusedMultiplyAdd (b : BlockId) (fn : FmaFn) (rm : BitVec 3) (fmt : Bool) (rc rb ra rd : Reg) (s : State) :
    Host.Outcome State Fault Refusal :=
  .next (doFma b fn rm fmt rc rb ra rd s)

/-- A type code of a scalar conversion (R162). -/
def cvtType (c : BitVec 4) : Option Elem :=
  match c.toNat with
  | 0 => some (.int ⟨32, true⟩)
  | 1 => some (.int ⟨32, false⟩)
  | 2 => some (.int ⟨64, true⟩)
  | 3 => some (.int ⟨64, false⟩)
  | 4 => some (.flt .f32)
  | 5 => some (.flt .f64)
  | _ => none

def Elem.isFlt : Elem → Bool
  | .flt _ => true | _ => false

/-- What a conversion writes to its register (R143, R163): an i32 result is sign-extended, every other zero-extended. -/
def cvtExtend (dst : Elem) (x : Nat) : W64 :=
  match dst with
  | .int i => if i.width = 32 ∧ i.signed then sextW (BitVec.ofNat 32 x) else BitVec.ofNat 64 x
  | _ => BitVec.ofNat 64 x

/-- Every earlier instruction that draws has taken its draws: an instruction takes them when it starts on its engine. DESIGN CHOICE, log
entry 67. -/
def Block.drawn (x : Block) : Bool := x.queue.all fun e => decide (e.draws = 0)

/-- FP_CONVERSION (R162 to R165): fcvt.f32.f64 in rsr takes one draw, after those of earlier instructions (R205). -/
def doConversion (b : BlockId) (rm : BitVec 3) (src dst : BitVec 4) (ra rd : Reg) (s : State) : State :=
  s.issue b fun s => s.decoded b (.fpConversion b rm src dst ra rd) fun s =>
    match cvtType src, cvtType dst with
    | some st, some dt =>
      s.whenFree b ((if st.isFlt then [] else [ra]) ++ (if dt.isFlt then [] else [rd]))
          ((if st.isFlt then [ra] else []) ++ (if dt.isFlt then [rd] else [])) fun s =>
        let fp := (s.blk b).fp
        let mode := fp.mode rm (decide (src = 5 ∧ dst = 4))
        if mode = 5 ∧ (s.blk b).drawn = false then s else
        let x := if st.isFlt then s.getF b ra else s.getG b ra
        let r := convertElem st dt (Rm.of mode) (srNext fp.srState).toNat x.toNat
        let s := if mode = 5 then s.draw b 1 else s
        s.startLong b ⟨if dt.isFlt then .f1 else .l1, dt.isFlt, rd, cvtExtend dt r.1, r.2, true⟩
    | _, _ => s

def execFpConversion (b : BlockId) (rm : BitVec 3) (src dst : BitVec 4) (ra rd : Reg) (s : State) : Host.Outcome State Fault Refusal :=
  .next (doConversion b rm src dst ra rd s)

/-- LONG_OPERATION_COMPLETE (R111, R228): the outstanding operation at `index` writes its result and its flags. DESIGN CHOICE, log entry 22. -/
def longOperationComplete (b : BlockId) (index : Nat) (s : State) : State :=
  match (s.blk b).core.longOps[index]? with
  | none => s
  | some o =>
    (s.modCore b fun c => { c with longOps := c.longOps.eraseIdx index }.set o.toF o.rd o.value).orFlags b o.flags

def execLongOperationComplete (b : BlockId) (index : Nat) (s : State) : Host.Outcome State Fault Refusal :=
  .next (longOperationComplete b index s)

end Sys2Proof.Machine
end

