-- ==== Sys2Proof/Machine/SystemOps.lean ====
section
/-! DEFINITION. Control-register access, the loop instruction, message and mailbox instructions and the system instructions (R115, R131, R166 to
R179, R362, R367, R368). -/

namespace Sys2Proof.Machine

/-- CRR (R166, R169, R170, R229): rs must be 0; a read of BLK_FPSR waits for outstanding floating-point operations, and one of BLK_SR_SEED for earlier
draws. -/
def doCrr (b : BlockId) (crn : BitVec 13) (rs rd : Reg) (s : State) : State :=
  s.issue b fun s => s.decoded b (.crr b crn rs rd) fun s =>
    s.whenFree b [rd] [] fun s =>
      let off := crn.toNat * 8
      if off = 0x80 ∧ (s.blk b).core.longOps.any LongOp.isFp then s
      else if off = 0x88 ∧ (s.blk b).drawn = false then s
      else s.finish b rd (s.crRead b off (s.blk b).priv.ctx)

def execCrr (b : BlockId) (crn : BitVec 13) (rs rd : Reg) (s : State) : Host.Outcome State Fault Refusal := .next (doCrr b crn rs rd s)

/-- CRW (R167, R168, R229): the old value goes to rd, then the register takes rs; a context below the register's level raises an access-rights
fault with the register offset. DEDUCED, log entry 61. -/
def doCrw (b : BlockId) (crn : BitVec 13) (rs rd : Reg) (s : State) : State :=
  s.issue b fun s => s.whenFree b [rs, rd] [] fun s =>
    let off := crn.toNat * 8
    let c := (s.blk b).priv.ctx
    if off = 0x88 ∧ (s.blk b).drawn = false then s
    else if s.crMay b off c then
      let v := s.getG b rs
      (s.setG b rd (s.crRead b off c)).crStore b off v
    else s.raiseSync b 7 (BitVec.ofNat 64 off)

def execCrw (b : BlockId) (crn : BitVec 13) (rs rd : Reg) (s : State) : Host.Outcome State Fault Refusal := .next (doCrw b crn rs rd s)

/-- LOOP (R115, R138, R171): inside an active loop it raises the loop-nesting fault, with a count of 0 it skips the body. -/
def doLoop (b : BlockId) (n1 : BitVec 6) (ra : Reg) (s : State) : State :=
  s.issue b fun s => s.whenFree b [ra] [] fun s =>
    let c := (s.blk b).core
    let n := n1.toNat + 1
    let count := (s.getG b ra).setWidth 32
    if (c.governs (s.ticks b)).active then s.raiseSync b 9 0
    else
      let s := s.traceOutcome b (decide (count = 0))
      if count = 0 then s.redirect b (c.pc + 4 + BitVec.ofNat 64 (4 * n))
      else (s.modCore b fun k =>
        { k with loopStart := c.pc + 4, loopLen := BitVec.ofNat 7 n, loopRemain := count - 1, loopActive := true }).setPc b (c.pc + 4)

def execLoop (b : BlockId) (n1 : BitVec 6) (ra : Reg) (s : State) : Host.Outcome State Fault Refusal := .next (doLoop b n1 ra s)

/-- A receive channel of a block. -/
def Block.chan (x : Block) (ch : ChanId) : RxChan := look RxChan.reset x.msg.rxc ch.toNat

/-- The delivered count of a channel (R173). -/
def Block.count (x : Block) (ch : ChanId) : W64 := BitVec.ofNat 64 (look 0 x.core.delivered ch.toNat)

/-- The checks of mwait and mcount (R184, R353): the channel fault, then the world of the channel. -/
def State.chanCheck (s : State) (b : BlockId) (ch : ChanId) (k : State → State) : State :=
  let x := s.blk b
  let r := x.chan ch
  if !r.en then s.raiseSync b 10 (ch.zeroExtend 64)
  else if x.priv.ctx.world = some (if r.world then World.a else World.b) then s.raiseSync b 7 (ch.zeroExtend 64)
  else k s

/-- MWAIT (R172, R173): waits until the delivered count is at least `a`. -/
def doMwait (b : BlockId) (ch : ChanId) (ra rd : Reg) (s : State) : State :=
  s.issue b fun s => s.decoded b (.mwait b ch ra rd) fun s => s.whenFree b [ra, rd] [] fun s => s.chanCheck b ch fun s =>
    let n := (s.blk b).count ch
    if n.ult (s.getG b ra) then s else s.finish b rd n

def execMwait (b : BlockId) (ch : ChanId) (ra rd : Reg) (s : State) : Host.Outcome State Fault Refusal := .next (doMwait b ch ra rd s)

/-- MCOUNT (R172). -/
def execMcount (b : BlockId) (ch : ChanId) (rd : Reg) (s : State) : Host.Outcome State Fault Refusal :=
  .next (s.issue b fun s => s.decoded b (.mcount b ch rd) fun s => s.whenFree b [rd] [] fun s =>
    s.chanCheck b ch fun s => s.finish b rd ((s.blk b).count ch))

/-- MBX_SEND (R172, R174): a posted remote store of kind 5. -/
def doMbxSend (b : BlockId) (rb ra : Reg) (s : State) : State :=
  s.issue b fun s => s.decoded b (.mbxSend b rb ra) fun s => s.whenFree b [ra, rb] [] fun s =>
    let a := s.getG b ra
    if !isRemote a then s.raiseSync b 6 a
    else if !s.devMapped (remDev a) then s.raiseSync b 5 a
    else if remOff a ≠ 0 then s.raiseSync b 6 a
    else if (s.blk b).core.remStores.length < 8 then (s.sendStore b a true 8 (s.getG b rb)).advance b
    else s

def execMbxSend (b : BlockId) (rb ra : Reg) (s : State) : Host.Outcome State Fault Refusal := .next (doMbxSend b rb ra s)

/-- The oldest mailbox word with a tag, and the mailbox without it (R353). -/
def takeWord (t : WTag) : List MboxWord → Option (W64 × List MboxWord)
  | [] => none
  | w :: l => if w.tag = t then some (w.word, l) else (takeWord t l).map fun r => (r.1, w :: r.2)

/-- MBX_RECV (R172, R175, R353): the word goes through L1; while no word of the world is in the mailbox, the instruction is outstanding as a remote load
is, and the core goes on. DEDUCED, log entry 20. -/
def doMbxRecv (b : BlockId) (rd : Reg) (s : State) : State :=
  s.issue b fun s => s.decoded b (.mbxRecv b rd) fun s => s.whenFree b [rd] [] fun s =>
    let x := s.blk b
    match takeWord x.priv.ctx.tag x.mbox with
    | none => (s.modCore b fun c => { c with recvs := c.recvs ++ [(rd, x.priv.ctx.tag)] }).advance b
    | some (w, l) => (s.setBlk b { x with mbox := l }).startLong b ⟨.l1, false, rd, w, 0, false⟩

def execMbxRecv (b : BlockId) (rd : Reg) (s : State) : Host.Outcome State Fault Refusal := .next (doMbxRecv b rd s)

/-- NOP (R176). -/
def execNop (b : BlockId) (s : State) : Host.Outcome State Fault Refusal := .next (s.issue b fun s => s.advance b)

/-- The dispatch queue is empty and the engines are idle. -/
def Block.enginesIdle (x : Block) : Bool := x.queue.isEmpty && x.vec.run.isEmpty && x.mtx.array.isEmpty && x.mtx.port.isEmpty

/-- EWAIT (R131, R178, R376, R374). With no epoch in progress it records CYCLE 0, and with no plan bound VALID 1 too. DESIGN CHOICE, log entry 68.
It is a reserved encoding on the management core (R556). -/
def doEwait (b : BlockId) (s : State) : State :=
  s.issue b fun s => s.decoded b (.ewait b) fun s =>
    let x := s.blk b
    if x.enginesIdle && x.core.longOps.isEmpty then
      let cyc := if s.epoch.active then s.epoch.cycle else 0
      let idle := decide (s.epoch.outcome = .none)
      (s.traceEwait b).modCore b fun c =>
        { c with ewaitCycle := BitVec.ofNat 20 cyc, ewaitValid := true, loopActive := false, loopRemain := 0, loopOld := none, fetching := false,
                 ewaited := true, inProgram := false, stopped := c.stopped || idle, retired := c.retired + 1 }
    else s

def execEwait (b : BlockId) (s : State) : Host.Outcome State Fault Refusal := .next (doEwait b s)

/-- FENCE (R177, R179, R180). -/
def doFence (b : BlockId) (imm : BitVec 9) (s : State) : State :=
  s.issue b fun s => s.decoded b (.fence b imm) fun s =>
    let x := s.blk b
    if imm.getLsbD 2 && !decide (x.priv.ctx = .m) then s.raiseSync b 3 (faultWord (.fence b imm))
    else if imm.getLsbD 0 && !x.enginesIdle then s
    else if imm.getLsbD 1 && !(x.core.remLoads.isEmpty && x.core.recvs.isEmpty && x.core.remStores.isEmpty) then s
    else s.advance b

def execFence (b : BlockId) (imm : BitVec 9) (s : State) : Host.Outcome State Fault Refusal := .next (doFence b imm s)

/-- HOLD (R179, R180, R362). -/
def doHold (b : BlockId) (imm : BitVec 9) (s : State) : State :=
  s.issue b fun s => s.decoded b (.hold b imm) fun s =>
    let n := imm.toNat
    if (s.blk b).priv.ctx.isUser then s.raiseSync b 3 (faultWord (.hold b imm))
    else
      let left := s.holdLeft b
      let m := if left = 0 then n else min n left
      let now := s.ticks b
      (s.modPriv b fun p => { p with hold := if m = 0 then none else some (m, now) }).advance b

def execHold (b : BlockId) (imm : BitVec 9) (s : State) : Host.Outcome State Fault Refusal := .next (doHold b imm s)

/-- A fault whose saved PC is the address of the instruction after it (R366). DEDUCED, log entry 21. -/
def State.raiseAfter (s : State) (b : BlockId) (cause : Nat) (value : W64) : State :=
  s.modCore b fun c => { c with fault := some ⟨BitVec.ofNat 6 cause, value, c.pc + 4, none, false⟩ }

/-- TRAP (R176, R366): the software-trap fault with its trap code. -/
def execTrap (b : BlockId) (imm : BitVec 9) (s : State) : Host.Outcome State Fault Refusal :=
  .next (s.issue b fun s => s.raiseAfter b 11 (imm.zeroExtend 64))

/-- BRK (R176, R366): the breakpoint fault with its break code. -/
def execBrk (b : BlockId) (imm : BitVec 9) (s : State) : Host.Outcome State Fault Refusal :=
  .next (s.issue b fun s => s.raiseAfter b 12 (imm.zeroExtend 64))

/-! ## Return from a trap -/

/-- The TSBP of a level (R336): the supervisors and M have one each. -/
def Priv.tsbp (p : Priv) (c : Ctx) : Tsbp :=
  match c with
  | .aS => p.tsbpA | .aU => p.tsbpA | .bS => p.tsbpB | .bU => p.tsbpB | .m => p.tsbpM

def Priv.setTsbp (p : Priv) (c : Ctx) (t : Tsbp) : Priv :=
  match c with
  | .aS => { p with tsbpA := t } | .aU => { p with tsbpA := t } | .bS => { p with tsbpB := t } | .bU => { p with tsbpB := t }
  | .m => { p with tsbpM := t }

/-- The TSB of a level is valid (R340). -/
def Priv.tsbValid (p : Priv) (b : BlockId) (c : Ctx) : Bool :=
  let a := baseAddr (p.tsbp c).base
  inData b a 512 && p.lsBytes c a 512

/-- The contexts that tret may restore at a level (R368); the management core holds M and World A alone (R556). -/
def mayRestore (b : BlockId) (c d : Ctx) : Bool :=
  !(decide (b = mgmtCore) && decide (d.world = some .b)) &&
  match c with
  | .m => true
  | .aS => decide (d = .aS ∨ d = .aU)
  | .bS => decide (d = .bS ∨ d = .bU)
  | _ => false

/-- What tret restores once its checks have passed (R367, R374). -/
def State.restore (s : State) (b : BlockId) (d : Ctx) : State :=
  let x := s.blk b
  let c := x.priv.ctx
  let a := baseAddr (x.priv.tsbp c).base
  let pc := x.lsWord a 8 &&& ~~~3#64
  let st := x.lsWord (a + 8) 8
  let s := s.traceTret b c d pc
  let s := s.modPriv b fun p =>
    { p.setTsbp c { p.tsbp c with occ := false } with ctx := d, mask := st.extractLsb' 0 3, hold := none }
  s.modCore b fun k =>
    { (((k.setG 1 (x.lsWord (a + 0x20) 8)).setG 2 (x.lsWord (a + 0x28) 8)).setG 3 (x.lsWord (a + 0x30) 8)).setG 4 (x.lsWord (a + 0x38) 8)
      with pc := pc, loopActive := st.getLsbD 7, loopOld := none, retired := k.retired + 1, fetching := k.fetching && !k.parked }

/-- TRET (R179, R367, R368). -/
def doTret (b : BlockId) (ecc : Ecc) (s : State) : State :=
  s.issue b fun s => s.whenFree b [1, 2, 3, 4] [] fun s =>
    let x := s.blk b
    let c := x.priv.ctx
    let a := baseAddr (x.priv.tsbp c).base
    if c.isUser then s.raiseSync b 3 (faultWord (.tret b ecc))
    else if !x.priv.tsbValid b c then s.raiseSync b 7 (BitVec.ofNat 64 a)
    else if !s.branchTicks b 5 then s
    else if ecc = .uncorrectable then (s.lost b a).raiseSync b 17 (BitVec.ofNat 64 a)
    else
      let s := if ecc = .corrected then s.corrected b a else s
      match Ctx.ofCode ((x.lsWord (a + 8) 8).extractLsb' 4 3) with
      | some d => if mayRestore b c d then s.restore b d else s.raiseSync b 3 (faultWord (.tret b ecc))
      | none => s.raiseSync b 3 (faultWord (.tret b ecc))

def execTret (b : BlockId) (ecc : Ecc) (s : State) : Host.Outcome State Fault Refusal := .next (doTret b ecc s)

/-! ## Events of the core -/

/-- HOLD_WINDOW_EXPIRY (R362): the fcy of an open window have passed. -/
def execHoldWindowExpiry (b : BlockId) (s : State) : Host.Outcome State Fault Refusal :=
  .next (s.modPriv b fun p => { p with hold := none })

/-- Takes the remote load with a transaction number out of the outstanding ones. -/
def takeLoad (t : BitVec 8) : List RemoteLoad → Option (RemoteLoad × List RemoteLoad)
  | [] => none
  | l :: r => if l.txn = t then some (l, r) else (takeLoad t r).map fun x => (x.1, l :: x.2)

def takeStore (t : BitVec 8) : List RemoteStore → Option (RemoteStore × List RemoteStore)
  | [] => none
  | l :: r => if l.txn = t then some (l, r) else (takeStore t r).map fun x => (x.1, l :: x.2)

/-- A remote load completes with a value (R112, R351). -/
def State.loadDone (s : State) (b : BlockId) (l : RemoteLoad) (rest : List RemoteLoad) (v : W64) : State :=
  s.modCore b fun c => { c with remLoads := rest }.set l.fn.toF l.rd (l.fn.extend v)

/-- REMOTE_LOAD_RESPONSE (R112). -/
def remoteLoadResponse (b : BlockId) (txn : BitVec 8) (data : W64) (s : State) : State :=
  match takeLoad txn (s.blk b).core.remLoads with
  | none => s
  | some (l, rest) => s.loadDone b l rest data

def execRemoteLoadResponse (b : BlockId) (txn : BitVec 8) (data : W64) (s : State) : Host.Outcome State Fault Refusal :=
  .next (remoteLoadResponse b txn data s)

/-- An access ends in an error: a remote load writes 0 and completes, and the error enters the late-store log or the lost count (R351,
R369, R418). -/
def State.accessFailed (s : State) (b : BlockId) (txn : BitVec 8) (err : BitVec 4) : State :=
  match takeLoad txn (s.blk b).core.remLoads with
  | some (l, rest) => (s.loadDone b l rest 0).modPriv b fun p => p.late l.addr 2 l.ctx err
  | none =>
    match takeStore txn (s.blk b).core.remStores with
    | some (l, rest) =>
      (s.modCore b fun c => { c with remStores := rest }).modPriv b fun p => p.late l.addr (if l.mbx then 1 else 0) l.ctx err
    | none => s

/-- LATE_STORE_ERROR_RETURN (R369). -/
def execLateStoreErrorReturn (b : BlockId) (txn : BitVec 8) (err : BitVec 4) (s : State) : Host.Outcome State Fault Refusal :=
  .next (s.accessFailed b txn err)

/-- FOOTPATH_RESPONSE_TIMEOUT (R418): logged with ERR 2. -/
def execFootpathResponseTimeout (b : BlockId) (txn : BitVec 8) (s : State) : Host.Outcome State Fault Refusal :=
  .next (s.accessFailed b txn 2)

/-- BLK_RESUME_GO (R376): a footpath write with the M tag to BLK_RESUME with GO 1. -/
def execBlkResumeGo (b : BlockId) (value : BitVec 64) (s : State) : Host.Outcome State Fault Refusal :=
  .next (s.resumeWrite b value (value ||| 1))

end Sys2Proof.Machine
end

