-- ==== Sys2Proof/Machine/Traps.lean ====
section
/-! DEFINITION. Taking a trap (R354 to R375, R922): one shared operation for every cause, and what parks a block. -/

namespace Sys2Proof.Machine

/-- The level of a cause (R354); data-loss faults have none. -/
def causeLevel (c : Nat) : Nat :=
  if c = 17 then 7
  else if c = 20 then 6
  else if c = 1 ∨ c = 2 ∨ c = 3 ∨ c = 7 then 5
  else if c = 11 ∨ c = 12 then 1
  else 4

/-- A trap on its way: cause, kind, fault value, saved PC, context in which it was raised, and its REASON so far (R355). -/
structure Trap where
  cause  : Nat
  async  : Bool
  value  : W64
  saved  : W64
  src    : Ctx
  reason : Nat
  /-- the element or row that a check fault names (R242, R297) -/
  elem   : Option Nat
  isRow  : Bool
  deriving DecidableEq, Repr

/-- The cause word (R355): ESC is 1 exactly when REASON is not 0. -/
def Trap.word (t : Trap) (cause : Nat) : W64 :=
  BitVec.ofNat 64 (cause + 2 ^ 6 * boolBit t.async + 2 ^ 7 * boolBit (decide (t.reason ≠ 0)) + 2 ^ 8 * t.reason + 2 ^ 11 * t.src.code.toNat)

/-- Logs an event in BLK_UNPLANNED (R345): the first since VALID was cleared, MORE for a further one. -/
def Priv.logUnplanned (p : Priv) (cause : Nat) (double : Bool) (src : Ctx) (pc : W64) : Priv :=
  if p.unplanned.valid then { p with unplanned := { p.unplanned with more := true } }
  else { p with unplanned := ⟨BitVec.ofNat 6 cause, double, src.code, false, true, pc &&& 0xFFFFFFFFFFFC⟩ }

/-- Parks a block (R72): its epoch program ends, and trace says so (R785). -/
def State.park (s : State) (b : BlockId) (cause : Nat) : State :=
  (s.tracePark b cause).modCore b fun c => { c with parked := true, inProgram := false }

/-- The overrun fault (R133, R375): no handler; logged with cause 21, the core fetches nothing further, the block is parked. -/
def State.overrun (s : State) (b : BlockId) : State :=
  let x := s.blk b
  let s := s.charge rowOverrun (blkRef b)
  let s := s.modPriv b fun p => p.logUnplanned 21 false x.priv.ctx x.core.pc
  (s.modCore b fun c => { c with fetching := false, fault := none }).park b 21

/-- The first target of a cause raised in a context (R356): a world's supervisor, or M. -/
def Priv.firstTarget (p : Priv) (c : Ctx) (cause : Nat) : Ctx :=
  match c.world with
  | none => .m
  | some w =>
    if !delegable.getLsbD cause || (decide (cause = 11) && !c.isUser) then .m
    else
      let d := match w with | .a => p.delegA | .b => p.delegB
      if d.getLsbD cause then w.sup else .m

/-- The address of vector table entry c of a world's supervisor (R341). -/
def Priv.entryAddr (p : Priv) (sup : Ctx) (cause : Nat) : Nat :=
  baseAddr (if sup = .aS then p.vtbA else p.vtbB) + 8 * cause

/-- The handler that the entry names, bits [47:2] (R341). -/
def Block.handler (x : Block) (sup : Ctx) (cause : Nat) : W64 := x.lsWord (x.priv.entryAddr sup cause) 8 &&& 0xFFFFFFFFFFFC

/-- Conditions 3 to 5 of R357 for a world supervisor; 0 when none holds. -/
def Block.supReason (x : Block) (b : BlockId) (sup : Ctx) (cause : Nat) : Nat :=
  let a := x.priv.entryAddr sup cause
  if (x.priv.tsbp sup).occ then 3
  else if !x.priv.tsbValid b sup then 4
  else if !(inData b a 8 && x.priv.lsBytes sup a 8) || decide (x.handler sup cause = 0) then 5
  else 0

/-- The trap with its REASON, and its target (R357, R358, R359, R373). -/
def State.route (s : State) (b : BlockId) (t : Trap) : Trap × Ctx :=
  let x := s.blk b
  let first := x.priv.firstTarget t.src t.cause
  let sup := if first = .m then 0 else x.supReason b first t.cause
  let r :=
    if t.reason ≠ 0 then t.reason
    else if t.cause = 18 ∨ t.cause = 19 then 0
    else if t.async then sup
    else if s.holdOpen b then 2
    else if causeLevel t.cause ≤ x.priv.mask.toNat then 1
    else sup
  -- R373: in an epoch program, a cause the plan does not declare, or an escalated trap
  let unplanned := x.core.inProgram && (decide (r ≠ 0) || !x.priv.planned.getLsbD t.cause)
  let r := if unplanned && decide (r = 0) then 7 else r
  ({ t with reason := r }, if r ≠ 0 then .m else first)

/-- MASK after the entry (R361). -/
def entryMask (dst : Ctx) (old : BitVec 3) (cause : Nat) : BitVec 3 :=
  if dst = .m then 7 else BitVec.ofNat 3 (max old.toNat (causeLevel cause))

/-- The 64 bytes that hardware writes to a TSB (R364). -/
def State.tsbLine (s : State) (b : BlockId) (t : Trap) : List Byte :=
  leBytes 8 t.saved.toNat ++ leBytes 8 (s.statusWord b).toNat ++ leBytes 8 (t.word t.cause).toNat ++ leBytes 8 t.value.toNat
    ++ leBytes 8 (s.getG b 1).toNat ++ leBytes 8 (s.getG b 2).toNat ++ leBytes 8 (s.getG b 3).toNat ++ leBytes 8 (s.getG b 4).toNat

/-- Steps 3 to 6 of R363 for a final target whose TSB can be used. -/
def State.enterTrap (s : State) (b : BlockId) (t : Trap) (dst : Ctx) : State :=
  let x := s.blk b
  let tsb := baseAddr (x.priv.tsbp dst).base
  let s := s.lsStore b tsb (s.tsbLine b t)
  -- the table is read after the TSB is written, so a table that the TSB overlaps gives what was saved (R377)
  let pc := if dst = .m then BitVec.ofNat 64 (0x100 + 16 * t.cause) else (s.blk b).handler dst t.cause
  let s := s.traceTrap b (BitVec.ofNat 6 t.cause) t.async (decide (t.reason ≠ 0)) t.src dst t.saved pc
  let s := s.modCore b fun c =>
    { (((c.setG 1 (t.word t.cause)).setG 2 t.value).setG 3 (BitVec.ofNat 64 tsb)).setG 4 t.saved
      with pc := pc, loopActive := false, loopOld := none, fault := none }
  s.modPriv b fun p =>
    { p.setTsbp dst { p.tsbp dst with occ := true } with ctx := dst, mask := entryMask dst p.mask t.cause, hold := none }

/-- A trap whose final target is M (R360, R363, R373): a machine double fault when M's TSB cannot be used. It stops the management core (R586), which has
no footpath node to report it (DEDUCED, log entry 57). DEDUCED, log entry 65. -/
def State.trapToM (s : State) (b : BlockId) (t : Trap) : State :=
  let x := s.blk b
  let inProgram := x.core.inProgram
  let double := x.priv.tsbpM.occ || !x.priv.tsbValid b .m
  let pc := x.core.pc
  let s := if inProgram && decide (t.reason ≠ 0) || double then
      s.modPriv b fun p => p.logUnplanned t.cause double t.src pc else s
  let s := if inProgram then s.charge rowTrap (blkRef b) else s
  if double then
    let s := s.traceTrap b 63 t.async (decide (t.reason ≠ 0)) t.src .m t.saved 0
    let s := s.modCore b fun c => { c with fetching := false, fault := none }
    if inProgram then s.park b t.cause
    else if b = mgmtCore then s.modCore b fun c => { c with stopped := true }
    else (s.modCore b fun c => { c with stopped := true }).raise 0x0300 (b.zeroExtend 64) (t.word 63) (t.word t.cause)
  else
    let s := s.enterTrap b t .m
    if inProgram then s.park b t.cause else s

/-- A planned trap whose final target is M inside an epoch program does not park (R373); every other trap to M goes the way above. -/
def State.trapM (s : State) (b : BlockId) (t : Trap) : State :=
  let x := s.blk b
  if x.core.inProgram && decide (t.reason = 0) && !(x.priv.tsbpM.occ || !x.priv.tsbValid b .m) then s.enterTrap b t .m
  else s.trapToM b t

/-- A trap to a world supervisor, whose vector table entry is read with the outcome `table` (R363, R922). -/
def State.trapToSup (s : State) (b : BlockId) (t : Trap) (sup : Ctx) (table : Ecc) : State :=
  let x := s.blk b
  let a := x.priv.entryAddr sup t.cause
  match table with
  | .ok => s.enterTrap b t sup
  | .corrected => (s.corrected b a).enterTrap b t sup
  | .uncorrectable =>
    -- R922: the world's TSB line stays as written, and the trap goes to M with what that entry saved
    let s := (s.lost b a).lsStore b (baseAddr (x.priv.tsbp sup).base) (s.tsbLine b t)
    s.trapM b { t with reason := 5 }

/-- Takes a trap: it is routed, and VEC_FAULT_ELEM or MTX_FAULT_ROW is written for a check fault (R242, R297). -/
def State.takeTrap (s : State) (b : BlockId) (t : Trap) (table : Ecc) : State :=
  let s := match t.elem with
    | none => s
    | some n => s.modBlk b fun x =>
      if t.isRow then { x with mtx := { x.mtx with faultRow := BitVec.ofNat 4 n, faultValid := true } }
      else { x with vec := { x.vec with faultElem := BitVec.ofNat 15 n, faultValid := true } }
  let r := s.route b t
  if r.2 = .m then s.trapM b r.1 else s.trapToSup b r.1 r.2 table

/-- The late store fault for a log entry (R358, R370): REASON 6 when its FROM is not of the world of the current context. -/
def State.lateTrap (s : State) (b : BlockId) (i : Nat) : Trap :=
  let x := s.blk b
  let src := (x.priv.lslog[i]?.bind fun e => Ctx.ofCode e.ctx).getD .m
  let other := match x.priv.ctx.world with
    | none => false
    | some w => decide (src.world ≠ some w)
  { cause := 20, async := true, value := BitVec.ofNat 64 i, saved := x.core.pc, src := x.priv.ctx, reason := if other then 6 else 0,
    elem := none, isRow := false }

def asyncTrap (x : Block) (cause : Nat) : Trap :=
  { cause := cause, async := true, value := 0, saved := x.core.pc, src := x.priv.ctx, reason := 0, elem := none, isRow := false }

def syncTrap (x : Block) (f : SyncFault) : Trap :=
  { cause := f.cause.toNat, async := false, value := f.value, saved := f.savedPc, src := x.priv.ctx, reason := 0, elem := f.elem,
    isRow := f.isRow }

/-- The fault that D or the fetch finds at the boundary, after the fetch check (R138): a fetched word that is a reserved encoding on that core (R146, R180,
R252, R304, R556) raises cause 2, one that is an instruction none. DEDUCED, log entry 19. -/
def boundaryFault (b : BlockId) (x : Block) (mayFetch : Bool) (why : TrapTrigger) : Option SyncFault :=
  let f c v : SyncFault := ⟨c, v, x.core.pc, none, false⟩
  match x.core.fault with
  | some g => some g
  | none =>
    match why with
    | .pending => none
    | .reserved w => if mayFetch then (if reservedOn b w then some (f 2 (reservedValue w)) else none) else some (f 1 x.core.pc)
    | .fetchError => some (if mayFetch then f 17 x.core.pc else f 1 x.core.pc)

/-- TRAP_ENTRY (R363, R371): at an instruction boundary at which every earlier scalar result is written, the first deliverable trap of R371
is taken. DEDUCED, log entry 19. -/
def trapEntry (b : BlockId) (why : TrapTrigger) (table : Ecc) (s : State) : State :=
  let x := s.blk b
  if x.core.fetching && decide (x.clk.mode = .run) && s.clocked b && s.branchTicks b 5 && s.mayRun b && x.core.longOps.isEmpty
      && x.core.remLoads.isEmpty && x.core.recvs.isEmpty then
    let s := s.queueWaitEnds b
    if x.priv.pendV then
      (s.modPriv b fun p => { p with pendV := false }).takeTrap b (asyncTrap x 18) table
    else if x.priv.pendM then
      (s.modPriv b fun p => { p with pendM := false }).takeTrap b (asyncTrap x 19) table
    else
      match (if s.asyncReady b then lateIndex x.priv.lslog 0 else none) with
      | some i =>
        let t := s.lateTrap b i
        (s.modPriv b fun p => { p with lslog := p.lslog.modify i fun e => { e with isNew := false } }).takeTrap b t table
      | none =>
        match boundaryFault b x (s.mayFetch b) why with
        | none => s
        | some f =>
          let s := if x.core.fault.isNone && decide (f.cause = 17) then s.lost b (x.core.pc.toNat / 8 * 8) else s
          s.takeTrap b (syncTrap x f) table
  else s

def execTrapEntry (b : BlockId) (why : TrapTrigger) (table : Ecc) (s : State) : Host.Outcome State Fault Refusal :=
  .next (trapEntry b why table s)

end Sys2Proof.Machine
end

