-- ==== Sys2Proof/Machine/Power.lean ====
section
/-! DEFINITION. The power plan (R641 to R645), the quarter clocks (R646 to R649) and the token count of the device (R653 to R656). -/

namespace Sys2Proof.Machine

/-! ## Tokens -/

/-- The tokens of the `n` blocks whose `rest` key is `k`: those listed, and the others, which are alike. -/
def State.keyTokens (s : State) (k n : Nat) : Nat :=
  let l := s.blocks.filter fun e => decide (restKey e.1 = k)
  (l.map fun e => e.2.clk.tokens).sum + (n - l.length) * (look Block.reset s.rest k).clk.tokens

/-- The tokens of a quarter (R653): 4,000 from the start of its PLL, and those of its physical blocks, placed or not. -/
def State.quarterTokens (s : State) (q : Nat) : Nat :=
  let p := s.pll q
  let placed := (s.placeOf q).w * (s.placeOf q).h
  if p.st = .off then (if p.starting then 4000 else 0)
  else 4000 + s.keyTokens q placed + s.keyTokens (4 + q) (physBlocks - placed)

/-- The tokens of the device. -/
def State.deviceTokens (s : State) : Nat := s.quarterTokens 0 + s.quarterTokens 1 + s.quarterTokens 2 + s.quarterTokens 3

/-- The gate controller keeps the peak of the epoch (R656). -/
def State.notePeak (s : State) : State := { s with epoch := { s.epoch with peak := max s.epoch.peak s.deviceTokens } }

/-- The budget of a power class (R654). -/
def budget (cls : Nat) : Nat :=
  match cls with
  | 1 => 180000 | 2 => 300000 | 3 => 420000 | 4 => 520000 | _ => 0

/-! ## Quarters -/

def State.setPll (s : State) (q : Nat) (p : QPll) : State := { s with qpll := put s.qpll q p }

/-- A quarter runs in epoch `e` of the bound plan (R641). -/
def PlanRec.runs (p : PlanRec) (q : Nat) (e : W64) : Bool :=
  match p.runPat[q]? with
  | some (n, bits) => decide (n ≠ 0) && bits.testBit ((e - p.e0).toNat % n)
  | none => false

/-- The plan uses a quarter. -/
def PlanRec.uses (p : PlanRec) (q : Nat) : Bool :=
  match p.geom[q]? with
  | some (w, _) => decide (w ≠ 0)
  | none => false

/-- A block put into DEEP at a count of its quarter's fcy (R637, R403). -/
def Block.toDeep (x : Block) (now : Nat) : Block :=
  if x.clk.mode = .deep then x
  else { x with
    clk := { x.clk.settle now with mode := .deep, left := .deep, target := .deep, wake := none, req := none }
    msg := { x.msg with hold := [] } }

/-- Every block of a quarter goes to DEEP (R642, R646). DEDUCED, log entry 28. -/
def State.quarterDeep (s : State) (q : Nat) : State :=
  let now := s.quarterTicks q
  let s := s.eachListed fun s b => if quarterOf b = q then s.changeMode b .deep else s
  s.mapQuarter q fun x => x.toDeep now

/-- A quarter's PLL is started (R647): its clock is released 12 µs later. -/
def State.startPll (s : State) (q mhz : Nat) : State :=
  let p := s.pll q
  if p.st = .off ∧ p.starting = false ∧ p.failed = false then
    (s.setPll q { p with starting := true, mhz := mhz, startAt := s.timeNs }).notePeak
  else s

/-- The clock is released: the quarter is in STANDBY (R647), its blocks in DEEP (R646), and trace writes held for it are made (R790). -/
def State.releasePll (s : State) (q : Nat) : State :=
  let p := s.pll q
  if p.starting then
    (((s.setPll q { p with starting := false, st := .standby, from_ := s.fcy }).quarterDeep q).armHeld q).notePeak
  else s

/-- A quarter's PLL is stopped: the quarter is OFF, its blocks in DEEP (R646). -/
def State.stopPll (s : State) (q : Nat) : State :=
  let s := s.quarterDeep q
  let p := s.pll q
  s.setPll q { p with st := .off, starting := false, mhz := 0, acc := s.quarterTicks q }

/-- MHz at which a quarter is to run (R628, R649): the bound plan's fabric clock, 1,000 outside a binding. -/
def State.fabricMhz (s : State) : Nat := if s.isBound then s.pl.mhz else 1000

/-! ## Modes under the power plan -/

/-- The mode that a block's last entry names; with no entry it is in DEEP in every epoch (R642, R853). -/
def Clk.lastMode (c : Clk) : Mode := match c.entries.getLast? with | some e => e.2 | none => .deep

/-- The power plan puts a block into a mode; a wake in progress toward RUN goes on. DEDUCED, log entry 28. -/
def State.planMode (s : State) (b : BlockId) (m : Mode) : State :=
  if (s.blk b).clk.mode = .waking ∧ m = .run then s.modBlk b fun x => { x with clk := { x.clk with req := none, target := .run } }
  else s.changeMode b m

/-- The modes of a quarter's blocks at epoch cycle 0 (R642, R68). -/
def State.quarterModes (s : State) (q : Nat) (before : Bool) : State :=
  let p := s.pll q
  if s.pl.runs q s.epoch.num then
    let s := if p.st = .standby then s.setPll q { p with st := .running } else s
    s.eachPlaced fun s b =>
      if quarterOf b = q then
        let c := (s.blk b).clk
        let s := s.modBlk b fun x => { x with clk := { x.clk with done := 0 } }
        s.planMode b (if before then c.lastMode else .deep)
      else s
  else
    let s := if p.st = .running then s.setPll q { p with st := .standby } else s
    s.quarterDeep q

/-- The plan has halted with the thermal stop fault: its blocks are held in SLEEP, and no power-plan entry is applied (R897). -/
def State.thermalHold (s : State) : Bool := decide (s.plan = .halted ∧ s.epoch.haltRow.toNat = rowThermal)

/-- Every block of the plan goes to SLEEP (R897). -/
def State.planSleep (s : State) : State :=
  let rest (s : State) (q : Nat) : State :=
    if s.pl.uses q && s.pllOn q then
      let now := s.quarterTicks q
      let x := look Block.reset s.rest q
      { s with rest := put s.rest q { x with clk := { x.clk.settle now with mode := .sleep, left := .sleep, target := .sleep, wake := none } } }
    else s
  let s := s.eachPlaced fun s b =>
    if s.pl.uses (quarterOf b) && s.pllOn (quarterOf b) then
      (s.changeMode b .sleep).modBlk b fun x => { x with clk := { x.clk with req := none } }
    else s
  [0, 1, 2, 3].foldl rest s

/-- The modes of the device's blocks at epoch cycle 0; `first` is the first epoch after PLAN_START. -/
def State.epochModes (s : State) (first : Bool) : State :=
  if s.thermalHold then s else
  let go (s : State) (q : Nat) : State :=
    if s.pl.uses q then s.quarterModes q (!first && s.pl.runs q (s.epoch.num - 1)) else s
  ([0, 1, 2, 3].foldl go s).notePeak

/-- A bubble at epoch cycle 128 (R68, R642): a block in RUN goes to SLEEP, a block that is WAKING goes there when its wake is complete. -/
def State.bubbleModes (s : State) : State :=
  (s.eachPlaced fun s b =>
    match (s.blk b).clk.mode with
    | .run => s.changeMode b .sleep
    | .waking => s.modBlk b fun x => { x with clk := { x.clk with req := some .sleep, target := .sleep } }
    | _ => s).notePeak

/-- POWER_ENTRY_APPLY (R637, R642, R644): the block's next entry applies in its cycle; leaving RUN before ewait has retired is an overrun. -/
def powerEntryApply (b : BlockId) (s : State) : State :=
  let x := s.blk b
  match x.clk.entries[x.clk.done]? with
  | none => s
  | some (c, m) =>
    if s.epoch.active && !s.thermalHold && s.pl.runs (quarterOf b) s.epoch.num && s.pllOn (quarterOf b) &&
        (decide (c < 128) || s.runningPart) then
      let s := s.advanceTo c
      let s := s.modBlk b fun x => { x with clk := { x.clk with done := x.clk.done + 1 } }
      let s := if x.core.inProgram && decide (x.clk.mode = .run) && decide (m ≠ .run) then s.overrun b else s
      (s.planMode b m).notePeak
    else s

def execPowerEntryApply (b : BlockId) (s : State) : Host.Outcome State Fault Refusal := .next (powerEntryApply b s)

/-- WAKE_COMPLETE (R637, R638, R640): the cycles left of the wake pass, and the block is in RUN. -/
def wakeComplete (b : BlockId) (s : State) : State :=
  if (s.blk b).clk.mode = .waking ∧ s.pllOn (quarterOf b) then
    match s.passWithin (s.wakeLeft b) with
    | some s => (s.wakeDone b).notePeak
    | none => s
  else s

def execWakeComplete (b : BlockId) (s : State) : Host.Outcome State Fault Refusal := .next (wakeComplete b s)

/-- CLK_REQ_WRITE (R632, R634, R640): a write by M. -/
def execClkReqWrite (b : BlockId) (value : BitVec 64) (s : State) : Host.Outcome State Fault Refusal := .next (s.clkReq b value)

/-- The next epoch after `e` in which a quarter runs (R648), within one period of its pattern. -/
def PlanRec.nextRun (p : PlanRec) (q : Nat) (e : W64) : Option W64 :=
  ((List.range' 1 64).map fun n => e + BitVec.ofNat 64 n).find? fun e => p.runs q e

/-- The length of `n` epochs in ns, times the fabric clock in GHz (R56): kept exact by comparing products. DESIGN CHOICE, log entry 48. -/
def State.epochsNs (s : State) (n : Nat) : Nat := n * 2 ^ s.k * 1000 / s.pl.mhz

/-- Cycles of the fabric clock until a system time, rounded up. DESIGN CHOICE, log entry 8. -/
def State.cyclesTo (s : State) (ns : Nat) : Nat := ((ns - s.timeNs) * s.mhz + 999) / 1000

/-- The next epoch in which a quarter runs (R648), with the cycles from now to its cycle 0: from the epoch in progress, or from the start time of a plan
that starts. -/
def State.nextStart (s : State) (q : Nat) : Option (W64 × Nat) :=
  if s.epoch.active then (s.pl.nextRun q s.epoch.num).map fun e => (e, (e - s.epoch.num).toNat * 2 ^ s.k - s.epoch.cycle)
  else (if s.pl.runs q s.pl.e0 then some s.pl.e0 else s.pl.nextRun q s.pl.e0).map fun e =>
    (e, s.cyclesTo s.pl.startNs + (e - s.pl.e0).toNat * 2 ^ s.k)

/-- Time passes until 14 µs before the next epoch in which a quarter runs (R648); none when that moment is past, or lies beyond an event of the epoch in
progress or the start of the plan. DESIGN CHOICE, log entry 62. -/
def State.toPllStart (s : State) (q : Nat) : Option State :=
  match s.nextStart q with
  | none => none
  | some (_, n) =>
    let m := 14 * s.pl.mhz
    if m ≤ n ∧ (s.epoch.active = true ∨ n - m ≤ s.cyclesTo s.pl.startNs) then s.passWithin (n - m) else none

/-- QUARTER_PLL_START (R647, R648). In a plan that starts, runs or stops, the PLL of a quarter that it uses is started 14 µs before the next epoch in
which the quarter runs, and at no other time. -/
def quarterPllStart (q : QuarterId) (s : State) : State :=
  let n := q.toNat
  if s.planMoves then
    if s.pl.uses n && decide ((s.pll n).st = .off) && !(s.pll n).starting && !(s.pll n).failed then
      match s.toPllStart n with
      | some t => t.startPll n t.pl.mhz
      | none => s
    else s
  else if s.isBound && !s.pl.uses n then s
  else s.startPll n s.fabricMhz

def execQuarterPllStart (q : QuarterId) (s : State) : Host.Outcome State Fault Refusal := .next (quarterPllStart q s)

/-- QUARTER_PLL_RELEASE (R647): 12 µs after the start, with no wait on lock; the time left passes here, where the epoch in progress lets it.
DESIGN CHOICE, log entry 62. -/
def quarterPllRelease (q : QuarterId) (s : State) : State :=
  let p := s.pll q.toNat
  if p.starting then
    match s.passWithin (s.cyclesTo (p.startAt + 12000)) with
    | some t => t.releasePll q.toNat
    | none => s
  else s

def execQuarterPllRelease (q : QuarterId) (s : State) : Host.Outcome State Fault Refusal := .next (quarterPllRelease q s)

/-- QUARTER_PLL_STOP (R648): at the end of a quarter's last running epoch before a gap, when the next start lies at least 1 µs after it. A quarter that
does not run in E0 is stopped there, as the worked example of R656 counts it (DEDUCED, log entry 28). -/
def quarterPllStop (q : QuarterId) (s : State) : State :=
  let n := q.toNat
  if s.planMoves && s.epoch.active && s.pl.uses n && !s.pl.runs n s.epoch.num &&
      (decide (s.epoch.num = s.pl.e0) || s.pl.runs n (s.epoch.num - 1)) then
    match s.pl.nextRun n s.epoch.num with
    | none => s.stopPll n
    | some e => if 15000 ≤ s.epochsNs (e - s.epoch.num).toNat then s.stopPll n else s
  else s

def execQuarterPllStop (q : QuarterId) (s : State) : Host.Outcome State Fault Refusal := .next (quarterPllStop q s)

end Sys2Proof.Machine
end

