-- ==== Sys2Proof/Machine/Epoch.lean ====
section
/-! DEFINITION. Planned execution (chapter 02): epochs, the epoch gate, settlement, halts and stops. -/

namespace Sys2Proof.Machine

def State.modEpoch (s : State) (f : Epoch → Epoch) : State := { s with epoch := f s.epoch }

def State.modPl (s : State) (f : PlanRec → PlanRec) : State := { s with pl := f s.pl }

def State.mapIntakes (s : State) (f : Intake → Intake) : State := { s with intakes := s.intakes.map fun e => (e.1, f e.2) }

def State.mapOutlets (s : State) (f : Outlet → Outlet) : State := { s with outlets := s.outlets.map fun e => (e.1, f e.2) }

/-! ## The message book (R762 to R767) -/

/-- Words in flight (R765): those in hold buffers and in port landing buffers. -/
def State.inFlight (s : State) : Nat :=
  let ports (d : EdgeDie) := landWords (d.land.filter fun e => decide (128 ≤ e.1))
  (s.blocks.map fun e => heldWords e.2.msg.hold).sum + (s.outlets.map fun e => heldWords e.2.hold).sum + ports s.edge0 + ports s.edge1

/-- The message book settles on the given terms; the Boolean says whether it balances modulo 2^64 (R779). -/
def State.settleMessages (s : State) (sent recv flight : Nat) : State × Bool :=
  let ok := decide (sent % 2 ^ 64 = (recv + flight) % 2 ^ 64)
  (s.settleBook 0xA000 ok [sent, recv, flight], ok)

def State.wordsSent (s : State) : Nat := look 0 s.health ledgerSent
def State.wordsReceived (s : State) : Nat := look 0 s.health ledgerReceived

/-- The message book settles at the entry to BOUND or HALTED, after the discards of R406 (R766). DEDUCED, log entry 30. -/
def State.settleStop (s : State) : State := (s.settleMessages s.wordsSent s.wordsReceived s.inFlight).1

/-- The power book settles the peak of an epoch (R656, R776). -/
def State.settlePower (s : State) : State :=
  let cap := budget s.pl.power
  let ok := decide (s.epoch.peakPrev ≤ cap)
  let s := s.modEpoch fun e => { e with peakTop := max e.peakTop e.peakPrev }
  let s := s.settleBook 0xA005 ok [s.epoch.peakTop, cap]
  if ok then s else s.raiseThermal 0x0401 0xFF 8

/-! ## Slots at settlement (R63, R73, R508, R510) -/

def Intake.settle (x : Intake) (void : Bool) : Intake :=
  match x.used with
  | none => x
  | some i =>
    if void then { x with slots := x.slots.set i .filled, point := i, used := none }
    else { x with slots := x.slots.set i .free, used := none }

def Outlet.settle (x : Outlet) (epoch : W64) (void : Bool) : Outlet :=
  match x.writing with
  | none => x
  | some i => { x with slots := x.slots.set i (.ready epoch void), order := x.order ++ [i], writing := none }

def State.settleSlots (s : State) (epoch : W64) (void : Bool) : State :=
  (s.mapIntakes fun x => x.settle void).mapOutlets fun x => x.settle epoch void

/-! ## Settlement of an epoch (R75, R76, R86) -/

/-- RESULT of a kind 0x0100 event (R86, R530). -/
def FaultRec.word (f : FaultRec) : W64 :=
  match f.first with
  | none => 0
  | some (row, blk) => BitVec.ofNat 64 (row.toNat + 2 ^ 8 * blk.toNat + 2 ^ 24 * min f.further (2 ^ 32 - 1))

/-- Epoch `e` settles void (R73, R86): its slots, and its record. -/
def State.settleVoid (s : State) (e : W64) (f : FaultRec) : State :=
  (((s.settleSlots e true).bump 0xB000 5).raise 0x0100 e f.word).hifEvent evtVoid

/-- What a void leaves in the registers of the next epoch (R51, R75). -/
def Gate.voided (g : Gate) : Gate :=
  { g with prev := .void, lastRunVoid := true, streak := if g.streak = 255 then 255 else g.streak + 1 }

/-- Epoch `e`, which ran, settles with the faults `f`: valid without a voiding fault, void otherwise. DESIGN CHOICE, log entry 31. -/
def State.settleRun (s : State) (e : W64) (f : FaultRec) : State :=
  if f.first.isSome then (s.modEpoch fun x => { x with nxt := x.nxt.voided, lastGated := some e }).settleVoid e f
  else
    (s.settleSlots e false).modEpoch fun x =>
      { x with nxt := { x.nxt with prev := .valid, lastRunVoid := false, streak := 0, validCount := x.nxt.validCount + 1 },
               lastGated := some e }

/-- Epoch E − 1 settles (R76, R766, R767): a message book that fails in an epoch that ran is one more late arrival. -/
def State.settleEpoch (s : State) : State :=
  let e := s.epoch
  match e.prevRan with
  | .none => s
  | .bubble =>
    let s := (s.settleMessages e.bookSent e.bookRecv e.bookFlight).1.settlePower
    s.modEpoch fun x => { x with nxt := { x.nxt with prev := .bubble }, prevRan := .none, lastGated := some (e.num - 1) }
  | .run =>
    let r := s.settleMessages e.bookSent e.bookRecv e.bookFlight
    let f := if r.2 then e.latched else e.latched.add rowLate noBlock
    (r.1.settlePower.settleRun (e.num - 1) f).modEpoch fun x => { x with prevRan := .none }

/-! ## Halts (R87, R88) -/

/-- The plan enters HALTED (R87): held messages go, the book settles, and the halt is journaled with its fault row. DEDUCED, log entries 33, 44. -/
def State.enterHalted (s : State) (row : BitVec 8) (now : Bool) : State :=
  let s := (s.discardHeld now).settleStop
  let s := s.modEpoch fun e => { e with haltRow := row, haltAt := none }
  (((s.raise 0x0101 s.epoch.num (row.zeroExtend 64)).planChange .halted).hifEvent evtHalt)

/-- A halting fault waits for the next boundary (R84); the first one decides. -/
def State.haltNext (s : State) (row : Nat) : State :=
  if s.planMoves then s.modEpoch fun e => { e with haltAt := e.haltAt.or (some (BitVec.ofNat 8 row)) } else s

/-- A block stops where it stands (R88): nothing outstanding reaches its registers any more. -/
def Block.stopNow (x : Block) : Block :=
  { x with
    core := { x.core with fetching := false, inProgram := false, longOps := [], remLoads := [], recvs := [], fault := none, queueFrom := none }
    queue := []
    vec := { x.vec with run := [] }
    mtx := { x.mtx with array := [], port := [] } }

/-- The epoch in progress settles void at an immediate halt (R88): one that ran, or whose decision is not yet formed or is to run. A bubble
epoch stays a bubble. The halting fault, which row 11 or 13 of R84 raises, counts as a voiding fault of that epoch: its first, or one further one (DESIGN
CHOICE, log entry 69). Its void reaches the registers as any other does, with the next epoch, and until then milestones report the epoch before it; an
epoch halted in its gate window has the bubble of cause 5 in its registers. DEDUCED, log entry 30. -/
def State.voidNow (s : State) (row : Nat) : State :=
  let e := s.epoch
  let runs := if e.begun then decide (e.outcome = .run) else (match e.decision with | some (r, _) => r | none => true)
  if e.active && runs && !e.settled then
    let s := s.settleEpoch
    let s := s.settleVoid e.num (s.epoch.faults.add row noBlock)
    s.modEpoch fun x =>
      let x : Epoch := { x with settled := true, faults := .reset }
      if x.begun then x else { x with decision := some (false, 5), nxt := { x.nxt with outcome := .bubble, cause := 5 } }
  else s

/-- An immediate halt (R88): shared by THERMTRIP_N and a quarter clock monitor failure. DEDUCED, log entry 30. -/
def State.haltNow (s : State) (row : Nat) : State :=
  if s.planMoves then
    let s := s.mapAll Block.stopNow
    (s.voidNow row).enterHalted (BitVec.ofNat 8 row) true
  else s

/-! ## Boundaries -/

/-- At a boundary the faults, the book and the peak of the epoch that ends are latched (R79, R766); the void of one that an immediate halt has settled is what
the registers take next (R88). -/
def State.latch (s : State) : State :=
  let sent := s.wordsSent
  let recv := s.wordsReceived
  let flight := s.inFlight
  s.modEpoch fun e =>
    { e with
      latched := e.faults, faults := .reset, prevRan := if e.settled then .none else e.outcome, settled := false
      nxt := if e.settled then e.nxt.voided else e.nxt, lastGated := if e.settled then some e.num else e.lastGated
      bookSent := sent, bookRecv := recv, bookFlight := flight, peakPrev := e.peak, peak := 0 }

/-- Epoch `e` is in its cycle 0. -/
def Epoch.enter (x : Epoch) (e : W64) (now : Nat) : Epoch :=
  { x with num := e, cycle := 0, begun := false, ended := false, decision := none, at0Prev := x.at0, at0 := now }

/-- The counts of a port at an epoch boundary (R433, R442, R453). -/
def DPort.newEpoch (num : W64) (p : DPort) : DPort :=
  { p with sentPrev := p.sentNow, sentNow := 0, msDone := 0, txDone := 0
           got := p.got.filter fun e => decide ((num.setWidth 16 - BitVec.ofNat 16 e.1).toNat < 64 ∨ (BitVec.ofNat 16 e.1 - num.setWidth 16).toNat < 64) }

/-- A planned port is not ACTIVE in a cycle of the epoch in progress (R471, R472): one fault for each port and epoch. -/
def State.noteLinkOut (s : State) (p : Nat) : State :=
  if (s.port p).planned && decide ((s.port p).st ≠ .active) && !decide (p ∈ s.epoch.linkOut) then
    (s.modEpoch fun e => { e with linkOut := e.linkOut ++ [p] }).charge rowLink noBlock
  else s

/-- Cycle 0 of an epoch at the ports. -/
def State.newPortEpoch (s : State) : State :=
  let s : State := { s with ports := s.ports.map fun e => (e.1, e.2.newEpoch s.epoch.num) }
  (s.modEpoch fun e => { e with linkOut := [] }).eachPort State.noteLinkOut

/-- The plan enters BOUND from a run or a halt (R58, R406, R766). DEDUCED, log entries 28, 29, 30, 44. -/
def State.toBound (s : State) : State :=
  let s := (s.discardHeld false).settleStop
  { s with
    epoch := { s.epoch with active := false, begun := false, ended := false, settled := false, cycle := 0, decision := none,
                            prevRan := .none, haltAt := none, haltRow := 0, faults := .reset, latched := .reset }
    pl := { s.pl with recs := [] }
    qpll := s.qpll.map fun e => (e.1, { e.2 with failed := false }) }

/-- The stop boundary (R57, R83): the last epoch settles, and the plan enters BOUND. -/
def State.stopHere (s : State) : State :=
  let s := ((s.pass 1).latch).modEpoch fun e => { e with num := e.num + 1 }
  s.settleEpoch.toBound.planChange .bound

/-- The epoch in progress is at its end, with everything of its last cycle done. -/
def Epoch.atEnd (e : Epoch) : Bool := e.active && e.begun && e.ended

/-- EPOCH_BOUNDARY (R79): cycle 0 of the next epoch; at epoch 2^64 − 1 the plan stops, a halted one too (R83). A stop boundary is PLAN_STOP_BOUNDARY. -/
def epochBoundary (s : State) : State :=
  let next := s.epoch.num + 1
  if !s.epoch.atEnd then s
  else if decide (s.plan = .stopping) && decide (s.pl.stopEpoch ≤ next) then s
  else if next.toNat = 2 ^ 64 - 1 then s.stopHere
  else
    let s := (s.pass 1).latch
    let now := s.timeNs
    ((s.modEpoch fun e => e.enter next now).newPortEpoch).epochModes false

def execEpochBoundary (s : State) : Host.Outcome State Fault Refusal := .next (epochBoundary s)

/-- The plan is to stop at the boundary that has begun the epoch in progress, whose gate instant is still to come (R57). -/
def State.stopsHere (s : State) : Bool :=
  decide (s.plan = .stopping) && s.epoch.active && !s.epoch.begun && s.epoch.decision.isNone && decide (s.pl.stopEpoch ≤ s.epoch.num)

/-- PLAN_STOP_BOUNDARY (R57, R505): the boundary that begins the stop epoch, or the start time when the stop comes before E0. -/
def planStopBoundary (s : State) : State :=
  if s.plan = .stopping then
    if s.epoch.atEnd && decide (s.pl.stopEpoch ≤ s.epoch.num + 1) then s.stopHere
    else if s.stopsHere then s.settleEpoch.toBound.planChange .bound
    else if !s.epoch.active && decide (s.pl.stopEpoch ≤ s.pl.e0) then s.toBound.planChange .bound
    else s
  else s

def execPlanStopBoundary (s : State) : Host.Outcome State Fault Refusal := .next (planStopBoundary s)

/-- PLAN_START_TIME (R56, R642): epoch cycle 0 of E0; a plan that is STARTING is RUNNING. No epoch 2^64 − 1 begins (R83). -/
def planStartTime (s : State) : State :=
  let go := decide (s.plan = .starting) || (decide (s.plan = .stopping) && decide (s.pl.e0 < s.pl.stopEpoch))
  if go && !s.epoch.active then
    let s := s.pass (s.cyclesTo s.pl.startNs)
    let e0 := s.pl.e0
    let now := s.timeNs
    if e0.toNat = 2 ^ 64 - 1 then s.toBound.planChange .bound else
    let s := s.modEpoch fun e =>
      { e.enter e0 now with
        active := true, settled := false, faults := .reset, latched := .reset, prevRan := .none, haltAt := none, peak := 0
        nxt := if e.lastGated = some (e0 - 1) then e.nxt else { e.nxt with prev := .none } }
    let s := s.newPortEpoch
    let s := if s.plan = .starting then s.planChange .running else s
    s.epochModes true
  else s

def execPlanStartTime (s : State) : Host.Outcome State Fault Refusal := .next (planStartTime s)

/-! ## The gate (R60 to R63) -/

/-- What the milestones of one upstream input say of epoch `e` (R60 condition 4): the record's outcome, or none. -/
def PlanRec.milestone (p : PlanRec) (origin : BitVec 7) (e : W64) : Option (BitVec 2) :=
  (p.recs.find? fun r => decide (r.origin = origin ∧ r.epoch = e)).map MsRec.outcome

/-- The slot at a binding's consume point is FILLED (R508). -/
def Intake.ready (x : Intake) : Bool := decide (x.slots[x.point]? = some .filled)

/-- The first failing cause in the order of R61, 0 when the epoch runs. DEDUCED, log entry 30. -/
def State.gateCause (s : State) : BitVec 3 :=
  let e := s.epoch
  let ups := s.pl.upstream.map fun u => s.pl.milestone u.1 (e.num - BitVec.ofNat 64 u.2)
  if s.plan = .halted then 5
  else if e.lastGated = some (e.num - 1) ∧ e.nxt.prev = .void then 1
  else if ups.any fun u => match u with | some o => decide (o ≠ 1) | none => false then 2
  else if ups.any Option.isNone then 3
  else if s.intakes.any fun i => !i.2.ready then 4
  else 0

/-- A running epoch consumes the slot at the consume point (R63, R508). -/
def Intake.consume (x : Intake) : Intake :=
  { x with slots := x.slots.set x.point .inUse, used := some x.point, point := (x.point + 1) % x.slots.length }

/-- GATE_INSTANT (R60, R76, R87, R897): at cycle 48 at the latest, epoch E − 1 settles, a halting fault halts the plan, and the decision for E is
formed. DEDUCED, log entry 30. -/
def gateInstant (s : State) : State :=
  if s.epoch.active && !s.epoch.begun && s.epoch.decision.isNone && !s.stopsHere then
    let ran := decide (s.epoch.prevRan = .run)
    let s := (s.advanceTo 48).settleEpoch
    let limit := ran && decide (s.pl.voidLimit ≤ s.epoch.nxt.streak.toNat) && decide (s.epoch.nxt.prev = .void)
    let s :=
      if s.plan = .halted then s
      else match s.epoch.haltAt with
        | some row => s.enterHalted row false
        | none =>
          if limit then s.enterHalted (BitVec.ofNat 8 rowStreak) false
          else if s.thermal.stop then (s.enterHalted (BitVec.ofNat 8 rowThermal) false).planSleep
          else s
    let cause := s.gateCause
    let e := s.epoch.num
    let s := s.modPl fun p => { p with recs := p.recs.filter fun r => decide (e < r.epoch + 64) }
    if cause = 0 then
      let s := s.mapIntakes Intake.consume
      let s := s.modPl fun p => { p with lastRan := some e }
      s.modEpoch fun x => { x with decision := some (true, 0), nxt := { x.nxt with outcome := .run } }
    else
      let s := s.bump 0xB001 cause.toNat
      s.modEpoch fun x => { x with decision := some (false, cause), nxt := { x.nxt with outcome := .bubble, cause := cause } }
  else s

def execGateInstant (s : State) : Host.Outcome State Fault Refusal := .next (gateInstant s)

/-! ## Cycle 128 -/

/-- Epoch cycle 128 of a running epoch in a block (R173, R207, R394). -/
def Block.newEpoch (x : Block) (lastVoid : Bool) : Block :=
  { x with
    core := { x.core with delivered := [], parked := false, ewaited := false, inProgram := false }
    msg := { x.msg with next := 0, busyTo := 0 }
    fp := if lastVoid then { x.fp with srState := x.fp.srBase } else { x.fp with srBase := x.fp.srState } }

/-- The block core starts its epoch program (R132, R372). -/
def Block.startProgram (x : Block) : Block :=
  { x with
    core := { x.core with
      pc := x.core.entry, fetching := true, stopped := false, inProgram := true, fault := none, loopActive := false, loopRemain := 0 }
    priv := { x.priv with
      ctx := x.priv.epochCtx, mask := x.priv.epochMask, hold := none
      tsbpM := { x.priv.tsbpM with occ := false }, tsbpA := { x.priv.tsbpA with occ := false }, tsbpB := { x.priv.tsbpB with occ := false } } }

/-- EPOCH_PROGRAM_START (R132, R643): in every block that is in RUN and has the decision; every other block fetches nothing. -/
def State.startPrograms (s : State) (missed : List BlockId) : State :=
  s.eachPlaced fun s b =>
    let x := s.blk b
    if x.clk.mode = .run ∧ s.pllOn (quarterOf b) ∧ b ∉ missed then s.setBlk b x.startProgram
    else s.modBlk b fun x => { x with core := { x.core with fetching := false } }

/-- The first EMPTY slot in ring order after the last one taken (R510). -/
def Outlet.emptySlot (x : Outlet) : Option Nat :=
  let n := x.slots.length
  ((List.range n).map fun i => (x.next + i) % n).find? fun i => decide (x.slots[i]? = some .empty)

def Outlet.take (x : Outlet) : Outlet :=
  match x.emptySlot with
  | some i => { x with slots := x.slots.set i .writing, writing := some i, next := (i + 1) % x.slots.length, delivered := 0 }
  | none => { x with writing := none, delivered := 0 }

/-- Every outlet binding takes a slot, or its writes of the epoch are an outlet overrun (R510, R511). -/
def State.takeOutlets (s : State) : State :=
  let s := s.mapOutlets Outlet.take
  s.outlets.foldl (fun s e => if e.2.writing.isNone then (s.bump 0xB002 4).raise 0x0103 s.epoch.num (BitVec.ofNat 64 e.1) else s) s

/-- A running epoch begins. -/
def State.beginRun (s : State) (missed : List BlockId) : State :=
  let last := s.epoch.lastRunVoid
  let s := s.mapAll fun x => x.newEpoch last
  let s := s.startPrograms missed
  let s := s.mapIntakes fun x => { x with next := 0, busyTo := 0 }
  s.takeOutlets

/-- Messages of a hold buffer whose release epoch is `e`. -/
def dueHeld (l : List Held) (e : W64) : List Held := l.filter fun h => decide (h.release = e)
def otherHeld (l : List Held) (e : W64) : List Held := l.filter fun h => !decide (h.release = e)

/-- A bubble begins (R65, R68, R447): messages due in it and flits in port landing buffers are discarded, and count as received. -/
def State.beginBubble (s : State) : State :=
  let e := s.epoch.num
  let gone := s.blocks.map fun x => dueHeld x.2.msg.hold e
  let out := s.outlets.map fun x => dueHeld x.2.hold e
  let n := ((gone ++ out).map fun l => (messageKeys l).length).sum
  let w := ((gone ++ out).map heldWords).sum
  let ports (d : EdgeDie) := landWords (d.land.filter fun x => decide (128 ≤ x.1))
  let s := (s.receivedWords (w + ports s.edge0 + ports s.edge1)).bump 0xB002 1 n
  let s := s.eachPort fun s p =>
    let rx := (s.edgeDie (edgeOf (p / 4))).portLanded p
    if rx = 0 then s else s.modPort p fun x => x.lose 0 rx
  let clear (d : EdgeDie) : EdgeDie := { d with land := d.land.filter fun x => decide (x.1 < 128) }
  let block (x : Block) : Block :=
    let k := (messageKeys (dueHeld x.msg.hold e)).length
    { x with msg := { x.msg with hold := otherHeld x.msg.hold e, discards := x.msg.discards + BitVec.ofNat 64 k } }
  let s := s.mapOutlets fun x => { x with hold := otherHeld x.hold e }
  let t : State := { s with blocks := s.blocks.map fun x => (x.1, block x.2), edge0 := clear s.edge0, edge1 := clear s.edge1 }
  t.bubbleModes

/-- GATE_DECISION_EFFECT (R51, R52, R79, R80): at cycle 128 the registers change together, and the epoch program or the bubble begins. A block
that has not received the decision halts the plan. DEDUCED, log entry 29. -/
def gateDecisionEffect (missed : List BlockId) (s : State) : State :=
  if s.epoch.active && !s.epoch.begun then
    match s.epoch.decision with
    | none => s
    | some (run, _) =>
      let s := s.advanceTo 128
      let s := s.modEpoch fun e =>
        { e with
          begun := true, outcome := e.nxt.outcome, prev := e.nxt.prev, lastRunVoid := e.nxt.lastRunVoid, cause := e.nxt.cause
          streak := e.nxt.streak, validCount := e.nxt.validCount }
      let s := if run then s.beginRun missed else s.beginBubble
      if missed = [] then s else s.haltNext rowGateTimeout
  else s

def execGateDecisionEffect (missed : List BlockId) (s : State) : Host.Outcome State Fault Refusal := .next (gateDecisionEffect missed s)

/-! ## The last cycle (R133, R401, R442) -/

/-- Messages of a hold buffer whose last flit has not arrived; `guarded` says whether a channel expects a trailer. -/
def partialKeys (l : List Held) (guarded : ChanId → Bool) : List (W64 × Nat × ChanId × Bool) :=
  (messageKeys l).filter fun k => !complete (guarded k.2.2.1) (l.filter fun h => decide (h.key = k))

/-- Channels whose delivered count is below EXPECT. -/
def Block.shortfalls (x : Block) : Nat :=
  (x.msg.rxc.filter fun e => e.2.en && decide (look 0 x.core.delivered e.1 < e.2.expect.toNat)).length

/-- A hold buffer without its partial messages. -/
def withoutKeys (l : List Held) (ks : List (W64 × Nat × ChanId × Bool)) : List Held := l.filter fun h => !decide (h.key ∈ ks)

/-- `n` faults of one kind. -/
def State.chargeMany (s : State) (row : Nat) (blk : BitVec 16) (n : Nat) : State := (List.range n).foldl (fun s _ => s.charge row blk) s

/-- Messages whose LAST flit has come and whose trailer has not, on channels that expect one (R407): channel and message disagree. -/
def untrailed (l : List Held) (ks : List (W64 × Nat × ChanId × Bool)) : Nat :=
  (ks.filter fun k => l.any fun h => decide (h.key = k) && h.flit.last).length

/-- What the end of a running epoch does in one block (R77, R133, R401, R407): an overrun, messages due and still undelivered, partial messages,
and channels that fall short. Of the faults of the last cycle the first is that of the lowest block, in this order, and outlets come after blocks (DESIGN
CHOICE, log entry 69). DEDUCED, log entry 34. -/
def State.endBlock (s : State) (b : BlockId) : State :=
  let s := if (s.blk b).core.inProgram then s.overrun b else s
  let x := s.blk b
  let e := s.epoch.num
  let ks := partialKeys x.msg.hold fun c => (look RxChan.reset x.msg.rxc c.toNat).guard
  let whole := withoutKeys x.msg.hold ks
  let due := (messageKeys (dueHeld whole e)).length
  let bare := untrailed x.msg.hold ks
  let n := x.shortfalls
  let s := ((s.chargeMany rowLate (blkRef b) due).chargeMany rowUncorrectable (blkRef b) bare).chargeMany rowLate (blkRef b) n
  let s := s.receivedWords (heldWords x.msg.hold - heldWords whole)
  s.modBlk b fun x =>
    { x with
      msg := { x.msg with
        hold := otherHeld whole e
        discards := x.msg.discards + BitVec.ofNat 64 (ks.length + due)
        guardFails := x.msg.guardFails + BitVec.ofNat 64 bare
        late := x.msg.late + BitVec.ofNat 64 (due + n) }
      xng := { x.xng with inp := [], wire := [], land := [], picked := [], outL := [] } }

/-- The same at an outlet write port (R861). -/
def State.endOutlet (s : State) (x : Outlet) : State :=
  let ks := partialKeys x.hold fun _ => x.guard
  let whole := withoutKeys x.hold ks
  let due := (messageKeys (dueHeld whole s.epoch.num)).length
  let s := (s.chargeMany rowLate noBlock due).chargeMany rowUncorrectable noBlock (untrailed x.hold ks)
  let s := if x.delivered < x.expect then s.charge rowLate noBlock else s
  s.receivedWords (heldWords x.hold - heldWords whole)

def Outlet.endEpoch (x : Outlet) (e : W64) : Outlet :=
  { x with hold := otherHeld (withoutKeys x.hold (partialKeys x.hold fun _ => x.guard)) e }

def State.endOutlets (s : State) : State :=
  let e := s.epoch.num
  (s.outlets.foldl (fun s x => s.endOutlet x.2) s).mapOutlets fun x => x.endEpoch e

/-- Flits still in an edge crossbar or a street's landing buffer go; those of the port landing buffers stay (R447). -/
def EdgeDie.endEpoch (d : EdgeDie) : EdgeDie :=
  { d with inp := [], wire := [], picked := [], outL := [], land := d.land.filter fun e => decide (128 ≤ e.1) }

/-- EPOCH_END (R401): the end of cycle 2^k − 1. -/
def epochEnd (s : State) : State :=
  if s.epoch.active && s.epoch.begun && !s.epoch.ended then
    let s := s.advanceTo (2 ^ s.k - 1)
    let s := s.eachPlaced State.keepNext
    let s := if s.epoch.outcome = .run ∧ s.plan ≠ .halted then (s.eachPlaced State.endBlock).endOutlets else s
    let s := s.eachPort fun s p =>
      if (s.port p).queue = [] then s else s.modPort p fun x => { x.lose x.queue.length 0 with queue := [] }
    let s := (s.modEdge .e0 EdgeDie.endEpoch).modEdge .e1 EdgeDie.endEpoch
    s.modEpoch fun e => { e with ended := true }
  else s

def execEpochEnd (s : State) : Host.Outcome State Fault Refusal := .next (epochEnd s)

end Sys2Proof.Machine
end

