-- ==== Sys2Proof/Machine/Message.lean ====
section
/-! DEFINITION. Crossings, edge crossbars, die-to-die boundaries and message engines (chapter 09). -/

namespace Sys2Proof.Machine

/-! ## Where a flit goes (R18, R383, R390, R744, R863) -/

/-- Source codes of R383: 1 N, 2 E, 3 S, 4 W, 5 L. -/
def dirCode : Dir → Nat
  | .n => 1 | .e => 2 | .s => 3 | .w => 4 | .l => 5

/-- What an output leads to. -/
inductive Hop where
  /-- an input of a crossing of the same quarter -/
  | inner (b : BlockId) (code : Nat)
  /-- a landing input of a crossing across a boundary -/
  | across (b : BlockId) (code : Nat)
  /-- a street input of an edge die -/
  | street (die : Edge) (endpoint : Nat)
  | local_
  /-- no boundary there -/
  | nowhere
  deriving DecidableEq, Repr

/-- The hop of output `code` of a block's crossing. DEDUCED, log entry 35. -/
def State.hop (s : State) (b : BlockId) (code : Nat) : Hop :=
  let q := quarterOf b
  let x := colOf b
  let y := rowOf b
  let p := s.placeOf q
  let wOf r := (s.placeOf r).w
  let hOf r := (s.placeOf r).h
  match code with
  | 1 =>
    if y ≠ 0 then .inner (blockAt q x (y - 1)) 3
    else if q < 2 then .street .e0 (64 * (q % 2) + x)
    else if hOf (q - 2) = 64 then .across (blockAt (q - 2) x 63) 3 else .nowhere
  | 2 =>
    if x + 1 < p.w then .inner (blockAt q (x + 1) y) 4
    else if p.w = 64 ∧ q % 2 = 0 then .across (blockAt (q + 1) 0 y) 4 else .nowhere
  | 3 =>
    if y + 1 < p.h then .inner (blockAt q x (y + 1)) 1
    else if p.h ≠ 64 then .nowhere
    else if q < 2 then .across (blockAt (q + 2) x 0) 1 else .street .e1 (64 * (q % 2) + x)
  | 4 =>
    if x ≠ 0 then .inner (blockAt q (x - 1) y) 2
    else if q % 2 = 1 ∧ wOf (q - 1) = 64 then .across (blockAt (q - 1) 63 y) 2 else .nowhere
  | _ => .local_

/-- Field of a phase for output `code` (R383). -/
def slotSrc (slot : BitVec 15) (code : Nat) : Nat := (slot.extractLsb' (3 * (code - 1)) 3).toNat

/-- Outputs that the phase in force in cycle `c` feeds from input `code` (R389). -/
def Xng.outputs (x : Xng) (c code : Nat) : List Nat :=
  if x.len = 0 then []
  else
    let slot := look 0 x.slots ((c - 128) % x.len.toNat)
    [1, 2, 3, 4, 5].filter fun o => decide (slotSrc slot o = code)

def pushTab {α : Type} (t : Tab (List α)) (k : Nat) (v : α) : Tab (List α) := put t k (look [] t k ++ [v])

def setTab {α : Type} (t : Tab (List α)) (k : Nat) (l : List α) : Tab (List α) := match l with | [] => unlist t k | _ => put t k l

def State.modXng (s : State) (b : BlockId) (f : Xng → Xng) : State := s.modBlk b fun x => { x with xng := f x.xng }
def State.modMsg (s : State) (b : BlockId) (f : Msg → Msg) : State := s.modBlk b fun x => { x with msg := f x.msg }

/-- The message engine and the local store of a block tick (R404). -/
def State.receives (s : State) (b : BlockId) : Bool := s.branchTicks b 3 && s.branchTicks b 5

/-- A flit leaves output `o` of a block's crossing in cycle `c` (R390, R398, R404). DEDUCED, log entry 35. -/
def State.leave (s : State) (b : BlockId) (c : Nat) (f : Flit) (o : Nat) : State :=
  match s.hop b o with
  | .inner n k => s.modXng n fun x => { x with inp := pushTab x.inp k (f, c + 2) }
  | .across n k => s.modXng n fun x => { x with wire := pushTab x.wire k (f, c) }
  | .street e p => s.modEdge e fun d => { d with wire := pushTab d.wire p (f, c) }
  | .local_ =>
    if s.receives b then s.modXng b fun x => { x with outL := x.outL ++ [(f, c + 1)] }
    else s.modXng b fun x => { x with drops := x.drops + 1 }
  | .nowhere => s

/-- Saturating 32-bit count. -/
def sat32 (v : BitVec 32) : BitVec 32 := if v = 0xFFFFFFFF then v else v + 1

/-- A parity failure at an input of a block's crossing (R392, R736). -/
def State.parityFail (s : State) (b : BlockId) : State :=
  let s := (s.modXng b fun x => { x with parity := x.parity + 1 }).charge rowUncorrectable (blkRef b)
  (s.bump (0x4010 + quarterOf b) 3).note b 6 0 4

/-! ## Edge crossbars (R410, R861 to R864) -/

/-- Outputs of an edge crossbar that take input `endpoint` in cycle `c` (R864). -/
def EdgeDie.outputs (d : EdgeDie) (c endpoint : Nat) : List Nat :=
  (d.outs.filter fun e =>
    decide (e.2 ≠ []) && decide ((e.2[(c - 128) % e.2.length]?.map BitVec.toNat) = some endpoint)).map Prod.fst

/-- A flit is on its way to a port's transmit queue, which it joins in its cycle (R441): those that join in one cycle take ascending channel order. -/
def joinTx (f : TxFlit) : List TxFlit → List TxFlit
  | [] => [f]
  | g :: t => if f.cycle < g.cycle ∨ (f.cycle = g.cycle ∧ f.chan < g.chan) then f :: g :: t else g :: joinTx f t

def DPort.join (p : DPort) (f : TxFlit) : DPort := { p with queue := joinTx f p.queue }

/-- A flit that an edge crossbar takes in cycle `c` leaves on output `o` two cycles later (R410). DEDUCED, log entry 35. -/
def State.leaveEdge (s : State) (e : Edge) (c : Nat) (f : Flit) (o : Nat) : State :=
  if o < 128 then
    let q := o / 64 + 2 * edgeIndex e
    if e = .e1 ∧ (s.placeOf q).h ≠ 64 then s
    else
      let b := blockAt q (o % 64) (if e = .e0 then 0 else 63)
      s.modXng b fun x => { x with wire := pushTab x.wire (if e = .e0 then 1 else 3) (f, c + 2) }
  else if o < 144 then s.modPort (portOf e o) fun p => p.join ⟨f, c + 2, (o - 128) % 4, s.epoch.num⟩
  else s.modEdge e fun d => { d with outL := pushTab d.outL o (f, c + 3) }

/-! ## Inputs -/

/-- An input that is named by no output discards its flit (R391); otherwise the flit leaves on each output that names it (R383, R390). -/
def State.forward (s : State) (b : BlockId) (c code : Nat) (f : Flit) : State :=
  match (if s.runningPart then (s.blk b).xng.outputs c code else []) with
  | [] => s.modXng b fun x => { x with drops := x.drops + 1 }
  | l => l.foldl (fun s o => s.leave b c f o) s

/-- DEDUCED, log entry 35. -/
def State.forwardEdge (s : State) (e : Edge) (c endpoint : Nat) (f : Flit) : State :=
  match (if s.runningPart then (s.edgeDie e).outputs c endpoint else []) with
  | [] => s.modEdge e fun d => { d with drops := d.drops + 1 }
  | l => l.foldl (fun s o => s.leaveEdge e c f o) s

/-- A flit that is present at an input is discarded when its parity fails (R392). -/
def State.inputFails (s : State) : XIn → State
  | .block b _ => s.parityFail b
  | .edge e _ => (s.modEdge e fun d => { d with parity := d.parity + 1 }).charge rowUncorrectable noBlock

/-- A flit present at an input leaves on the outputs of the phase in force. -/
def State.passOn (s : State) (at_ : XIn) (c : Nat) (f : Flit) : State :=
  match at_ with
  | .block b d => s.forward b c (dirCode d) f
  | .edge e p => s.forwardEdge e c p f

/-- The crossing of an input ticks (R393). -/
def State.inputTicks (s : State) : XIn → Bool
  | .block b _ => s.pllOn (quarterOf b)
  | .edge _ _ => true

def State.inpOf (s : State) : XIn → List (Flit × Nat)
  | .block b d => look [] (s.blk b).xng.inp (dirCode d)
  | .edge e p => look [] (s.edgeDie e).inp p

def State.setInp (s : State) (at_ : XIn) (l : List (Flit × Nat)) : State :=
  match at_ with
  | .block b d => s.modXng b fun x => { x with inp := setTab x.inp (dirCode d) l }
  | .edge e p => s.modEdge e fun d => { d with inp := setTab d.inp p l }

def State.landOf (s : State) : XIn → List LandFlit
  | .block b d => look [] (s.blk b).xng.land (dirCode d)
  | .edge e p => look [] (s.edgeDie e).land p

def State.setLand (s : State) (at_ : XIn) (l : List LandFlit) : State :=
  match at_ with
  | .block b d => s.modXng b fun x => { x with land := setTab x.land (dirCode d) l }
  | .edge e p => s.modEdge e fun d => { d with land := setTab d.land p l }

/-- CROSSING_FLIT_ARRIVAL (R389 to R393, R410): the oldest flit on its way to the input is present there, some of its bits turned by `noise`. One that
would be present after the epoch's last cycle never is (R401). At a landing input, whose flits wait for a pickup, parity is checked on the head flit. -/
def crossingFlitArrival (at_ : XIn) (noise : BitVec 304) (s : State) : State :=
  if !s.inputTicks at_ then s
  else match s.inpOf at_ with
    | (f, c) :: rest =>
      if 2 ^ s.k ≤ c then s
      else
        let s := (s.advanceTo c).setInp at_ rest
        let f := f.turned noise
        if f.parityOk then s.passOn at_ c f else s.inputFails at_
    | [] =>
      match s.landOf at_ with
      | h :: rest =>
        if !h.visible then s
        else
          let f := h.flit.turned noise
          if f.parityOk then s.setLand at_ ({ h with flit := f } :: rest) else (s.setLand at_ rest).inputFails at_
      | [] => s

def execCrossingFlitArrival (at_ : XIn) (noise : BitVec 304) (s : State) : Host.Outcome State Fault Refusal :=
  .next (crossingFlitArrival at_ noise s)

/-! ## Die-to-die boundaries (R18, R408, R409, R412, R413) -/

/-- The input lies at a boundary of R18 that the quarter's grid keeps (R744), or at a port of an edge die. -/
def State.landingInput (s : State) : XIn → Bool
  | .block b d =>
    let q := quarterOf b
    match d with
    | .n => decide (rowOf b = 0)
    | .s => decide (rowOf b = 63 ∧ (s.placeOf q).h = 64)
    | .w => decide (colOf b = 0 ∧ q % 2 = 1)
    | .e => decide (colOf b = 63 ∧ q % 2 = 0 ∧ (s.placeOf q).w = 64)
    | .l => false
  | .edge _ p => decide (p < 144)

/-- The first flit of a landing buffer that is not visible becomes so in its cycle `t` + 8 or later (R408, R409); every flit is visible from cycle
`t` + 13 on. -/
def showNext : List LandFlit → List LandFlit
  | [] => []
  | h :: t => if h.visible then h :: showNext t else { h with visible := true } :: t

/-- The departure cycle of the first flit that is not visible. -/
def nextShown (l : List LandFlit) : Option Nat := (l.find? fun h => !h.visible).map LandFlit.left

/-- LANDING_FLIT_VISIBLE (R408, R409): no earlier than cycle t + 8. -/
def landingFlitVisible (at_ : XIn) (s : State) : State :=
  match nextShown (s.landOf at_) with
  | some t => if 2 ^ s.k ≤ t + 8 then s else (s.advanceTo (t + 8)).setLand at_ (showNext (s.landOf at_))
  | none => s

def execLandingFlitVisible (at_ : XIn) (s : State) : Host.Outcome State Fault Refusal := .next (landingFlitVisible at_ s)

/-- The dies at the two sides of a boundary: the sender's and the receiver's, by the numbers of R41. -/
def ucieDies : UcieEnd → Option (Nat × Nat)
  | .quarter q .n => some (if q.toNat < 2 then 4 else q.toNat - 2, q.toNat)
  | .quarter q .s => some (if q.toNat < 2 then q.toNat + 2 else 5, q.toNat)
  | .quarter q .e => if q.toNat % 2 = 0 then some (q.toNat + 1, q.toNat) else none
  | .quarter q .w => if q.toNat % 2 = 1 then some (q.toNat - 1, q.toNat) else none
  | .quarter _ .l => none
  | .edge e east => some (2 * edgeIndex e + boolBit east, 4 + edgeIndex e)

/-- The landing input of a boundary's channel: the avenue's y or the street's x (R412). -/
def ucieInput (u : UcieEnd) (ch : Nat) : XIn :=
  match u with
  | .quarter q .n => .block (blockAt q.toNat ch 0) .n
  | .quarter q .s => .block (blockAt q.toNat ch 63) .s
  | .quarter q .e => .block (blockAt q.toNat 63 ch) .e
  | .quarter q .w => .block (blockAt q.toNat 0 ch) .w
  | .quarter q .l => .block (blockAt q.toNat 0 ch) .l
  | .edge e east => .edge e (64 * boolBit east + ch)

def State.wireOf (s : State) : XIn → List (Flit × Nat)
  | .block b d => look [] (s.blk b).xng.wire (dirCode d)
  | .edge e p => look [] (s.edgeDie e).wire p

def State.setWire (s : State) (at_ : XIn) (l : List (Flit × Nat)) : State :=
  match at_ with
  | .block b d => s.modXng b fun x => { x with wire := setTab x.wire (dirCode d) l }
  | .edge e p => s.modEdge e fun d => { d with wire := setTab d.wire p l }

/-- The cycle of the oldest planned flit that the four channels of a module have sent. -/
def State.frameCycle (s : State) (u : UcieEnd) (m : Nat) : Option Nat :=
  ((List.range 4).filterMap fun n => ((s.wireOf (ucieInput u (4 * m + n))).head?).map Prod.snd).min?

/-- A slot of a frame (R412): payload, tag, VALID, zeros and the CRC-16; an idle slot when there is no flit. -/
def slotBits (f : Option Flit) : BitVec 320 :=
  let v : BitVec 304 := match f with
    | some f => f.payload.setWidth 304 ||| (f.tag.setWidth 304 <<< 256) ||| (1 <<< 296)
    | none => 0
  v.setWidth 320 ||| ((crc16 304 v).setWidth 320 <<< 304)

/-- The footpath field of a frame (R412). -/
def fieldBits (f : Option (W64 × Nat × Bool × Bool)) : BitVec 128 :=
  let v : BitVec 112 := match f with
    | some (w, c, head, tail) => w.setWidth 112 ||| (BitVec.ofNat 112 (1 + 2 * c + 8 * boolBit head + 16 * boolBit tail) <<< 64)
    | none => 0
  v.setWidth 128 ||| ((crc16 112 v).setWidth 128 <<< 112)

/-- Unit intervals `i` on of a noise pattern, one word of 64 lanes each (R412): `n` bits of it. -/
def noiseBits (l : List (BitVec 64)) (i n : Nat) : BitVec n :=
  BitVec.ofNat n (leNat (((l.drop i).take ((n + 63) / 64)).flatMap fun w => leBytes 8 w.toNat))

/-- A slot that fails its CRC-16 at an input (R42, R413). -/
def State.slotFails (s : State) : XIn → State
  | .block b _ => (s.bump (0x4010 + quarterOf b) 4).charge rowUncorrectable (blkRef b)
  | .edge _ _ => s.charge rowUncorrectable noBlock

/-- A flit reaches a landing buffer of 8 flits (R408); on-die parity takes over there (R413). -/
def State.landFlit (s : State) (at_ : XIn) (f : Flit) (t : Nat) : State :=
  if (s.landOf at_).length < 8 then s.setLand at_ (s.landOf at_ ++ [⟨f, false, 0, t⟩])
  else match at_ with
    | .block b _ => s.modXng b fun x => { x with overflow := sat32 x.overflow }
    | .edge e _ => s.modEdge e fun d => { d with overflow := d.overflow + 1 }

/-- Slot `n` of module `m`'s frame for cycle `t` arrives: the bits of `noise` are turned. -/
def State.slotReceive (s : State) (u : UcieEnd) (m n : Nat) (t : Option Nat) (noise : BitVec 320) : State :=
  let at_ := ucieInput u (4 * m + n)
  let w := s.wireOf at_
  let sent := w.head?.filter fun f => decide (some f.2 = t)
  let s := if sent.isSome then s.setWire at_ w.tail else s
  let r := slotBits (sent.map Prod.fst) ^^^ noise
  if crc16 304 (r.setWidth 304) ≠ r.extractLsb' 304 16 then s.slotFails at_
  else if r.getLsbD 296 then s.landFlit at_ (mkFlit (r.extractLsb' 256 40) (r.extractLsb' 0 256)) (t.getD 0)
  else s

/-- The slots of module `m`'s frame arrive (R412, R413): they hold the flits that left its channels' outputs in one cycle, and every slot is checked. -/
def State.frameSlots (s : State) (u : UcieEnd) (m : Nat) (noise : List (BitVec 64)) : State :=
  let t := s.frameCycle u m
  (List.range 4).foldl (fun s n => s.slotReceive u m n t (noiseBits noise (5 * n) 320)) s

/-! ## Pickup (R408, R446) -/

def State.pickedOf (s : State) : XIn → Nat
  | .block b d => look 0 (s.blk b).xng.picked (dirCode d)
  | .edge e p => look 0 (s.edgeDie e).picked p

def State.setPicked (s : State) (at_ : XIn) (n : Nat) : State :=
  match at_ with
  | .block b d => s.modXng b fun x => { x with picked := put x.picked (dirCode d) n }
  | .edge e p => s.modEdge e fun d => { d with picked := put d.picked p n }

/-- A pickup that finds the head flit not visible (R408). -/
def State.pickupMiss (s : State) : XIn → State
  | .block b _ => s.modXng b fun x => { x with miss := sat32 x.miss }
  | .edge e _ => s.modEdge e fun d => { d with miss := d.miss + 1 }

/-- The phase in force in cycle `c` names the input as a source. -/
def State.picks (s : State) (at_ : XIn) (c : Nat) : Bool :=
  match at_ with
  | .block b d => !((s.blk b).xng.outputs c (dirCode d)).isEmpty
  | .edge e p => !((s.edgeDie e).outputs c p).isEmpty

/-- A flit that a pickup takes leaves. From a port landing buffer, one whose release epoch has passed is discarded, and any other leaves with its LAG
reset (R446). -/
def State.takeLanded (s : State) (at_ : XIn) (c : Nat) (h : LandFlit) : State :=
  match at_ with
  | .block _ _ => s.passOn at_ c h.flit
  | .edge e p =>
    if p < 128 then s.passOn at_ c h.flit
    else if h.release < s.epoch.num then s.modPort (portOf e p) fun x => x.lose 0 1
    else s.passOn at_ c (h.flit.withLag (h.release - s.epoch.num).toNat)

/-- PICKUP (R408, R446): in a cycle whose phase names the landing input, its head flit leaves when it is visible, and a MISS is counted otherwise; an input
has one pickup in a cycle. -/
def pickup (at_ : XIn) (s : State) : State :=
  let c := s.epoch.cycle
  if !(s.runningPart && s.inputTicks at_ && s.landingInput at_ && s.picks at_ c) || decide (s.pickedOf at_ = c + 1) then s
  else
    let s := s.setPicked at_ (c + 1)
    match s.landOf at_ with
    | h :: rest =>
      if h.visible || decide (h.left + 13 ≤ c) then (s.setLand at_ rest).takeLanded at_ c h else s.pickupMiss at_
    | [] => s.pickupMiss at_

def execPickup (at_ : XIn) (s : State) : Host.Outcome State Fault Refusal := .next (pickup at_ s)

/-! ## Sending (R394 to R397, R407, R734, R763) -/

/-- The data flits of a message and its guard trailer, each with the cycle in which it is present at the input (R395, R407). -/
def messageFlits (e : SendEntry) (bytes : List Byte) (cyc : Nat) : List (Flit × Nat) :=
  let n := e.nfm1.toNat + 1
  let data := (List.range n).map fun j =>
    (mkFlit (mkTag e.ch (decide (j + 1 = n)) e.world false e.lag e.rcycle) (BitVec.ofNat 256 (leAt bytes (32 * j) 32)), cyc + 1 + j)
  if e.guard then
    data ++ [(mkFlit (mkTag e.ch false e.world true e.lag e.rcycle) ((crc32c bytes).zeroExtend 256), cyc + 1 + n)]
  else data

/-- A block's message engine sends its next entry (R394, R396, R397). An SCYCLE that the epoch does not have is never its cycle. -/
def State.blockSend (s : State) (b : BlockId) (ecc : Ecc) : State :=
  let m := (s.blk b).msg
  let i := m.nextAt s.epoch.cycle
  let e := look SendEntry.reset m.send i
  let c := e.scycle.toNat
  if m.nsend.toNat ≤ i ∨ 2 ^ s.k ≤ c then s.modMsg b fun m => { m with next := BitVec.ofNat 10 i }
  else
    let n := e.nfm1.toNat + 1
    let a := e.src.toNat
    let s := (s.advanceTo c).modMsg b fun m => { m with next := BitVec.ofNat 10 (i + 1) }
    if (s.blk b).core.parked || !inLs a (32 * n) || decide (c < m.busyTo) || !s.branchTicks b 5 then s
    else
      let s := match ecc with
        | .ok => s
        | .corrected => s.corrected b a
        | .uncorrectable => s.lost b a
      let l := messageFlits e (mload (s.blk b).ls a (32 * n)) c
      let s := s.modBlk b fun x =>
        { x with
          msg := { x.msg with tx := x.msg.tx + BitVec.ofNat 64 l.length, busyTo := c + l.length }
          xng := { x.xng with inp := put x.xng.inp 5 (look [] x.xng.inp 5 ++ l) } }
      s.sentWords (n * look 1 m.fan i)

/-- An intake read port sends its next entry from the slot that the epoch consumed (R410, R508, R860). -/
def State.intakeSend (s : State) (die : Edge) (i : Nat) (x : Intake) (ecc : Ecc) : State :=
  match x.used with
  | none => s
  | some slot =>
    let scycle j := (x.sends[j]?.map fun e => e.entry.scycle.toNat).getD 0
    let j := skipPast scycle x.sends.length s.epoch.cycle 512 x.next
    let save (y : Intake) (s : State) : State := { s with intakes := put s.intakes i y }
    match x.sends[j]? with
    | none => save { x with next := j } s
    | some e =>
      let c := e.entry.scycle.toNat
      let n := e.entry.nfm1.toNat + 1
      if 2 ^ s.k ≤ c then save { x with next := j } s else
      let s := s.advanceTo c
      if c < x.busyTo then save { x with next := j + 1 } s
      else
        let s := match ecc with
          | .ok => s
          | .corrected => s.bump 0x4001 5
          | .uncorrectable => (s.bump 0x4001 6).charge rowUncorrectable noBlock
        let l := messageFlits e.entry (mload (s.edgeDie die).sram (x.base + slot * x.slotSize + e.off) (32 * n)) c
        let s := save { x with next := j + 1, busyTo := c + l.length } s
        (s.modEdge die fun d => { d with inp := put d.inp (144 + i) (look [] d.inp (144 + i) ++ l) }).sentWords (n * e.fan)

/-- MESSAGE_SEND (R394, R395, R410). -/
def messageSend (src : MEng) (ecc : Ecc) (s : State) : State :=
  match src with
  | .block b => if s.runningPart && s.branchTicks b 3 then s.blockSend b ecc else s
  | .edge die i =>
    match s.intakes.find? fun e => decide (e.1 = i.toNat) with
    | some (_, x) => if s.runningPart && decide (x.die = die) then s.intakeSend die i.toNat x ecc else s
    | none => s

def execMessageSend (src : MEng) (ecc : Ecc) (s : State) : Host.Outcome State Fault Refusal := .next (messageSend src ecc s)

/-! ## Receiving (R398, R403, R407) -/

/-- A flit as a hold buffer keeps it (R398). -/
def State.heldFlit (s : State) (f : Flit) (c : Nat) : Held := ⟨f, s.epoch.num + BitVec.ofNat 64 f.lag, s.epoch.num, c⟩

/-- A hold buffer without the message of a flit. -/
def dropMessage (l : List Held) (h : Held) : List Held := l.filter fun g => !decide (g.key = h.key)

/-- DEDUCED, log entry 35. -/
def State.outlet (s : State) (i : Nat) : Option Outlet := (s.outlets.find? fun e => decide (e.1 = i)).map Prod.snd

def State.setOutlet (s : State) (i : Nat) (x : Outlet) : State := { s with outlets := put s.outlets i x }

/-- HOLD_BUFFER_ENTRY (R397, R398, R403, R407): a flit enters, or finds 128 held; a trailer on a channel whose GUARD is 0 is a failure.
DEDUCED, log entry 34. -/
def holdBufferEntry (at_ : MEng) (s : State) : State :=
  match at_ with
  | .block b =>
    match (s.blk b).xng.outL with
    | [] => s
    | (f, c) :: rest =>
      let s := (s.advanceTo c).modXng b fun x => { x with outL := rest }
      let m := (s.blk b).msg
      let h := s.heldFlit f c
      if 128 ≤ m.hold.length then s.charge rowHoldOverflow (blkRef b)
      else if f.trailer && !(look RxChan.reset m.rxc f.ch.toNat).guard then
        (s.modMsg b fun m => { m with hold := dropMessage m.hold h, guardFails := m.guardFails + 1 }).charge rowUncorrectable (blkRef b)
      else s.modMsg b fun m => { m with hold := m.hold ++ [h], rx := m.rx + 1 }
  | .edge die i =>
    let p := 208 + i.toNat
    match look [] (s.edgeDie die).outL p, s.outlet i.toNat with
    | (f, c) :: rest, some x =>
      let s := (s.advanceTo c).modEdge die fun d => { d with outL := setTab d.outL p rest }
      let h := s.heldFlit f c
      if x.die ≠ die then s
      else if 128 ≤ x.hold.length then s.charge rowHoldOverflow noBlock
      else if f.trailer && !x.guard then (s.setOutlet i.toNat { x with hold := dropMessage x.hold h }).charge rowUncorrectable noBlock
      else s.setOutlet i.toNat { x with hold := x.hold ++ [h] }
    | (_, c) :: rest, none => (s.advanceTo c).modEdge die fun d => { d with outL := setTab d.outL p rest }
    | [], _ => s

def execHoldBufferEntry (at_ : MEng) (s : State) : Host.Outcome State Fault Refusal := .next (holdBufferEntry at_ s)

/-! ## Release (R64, R399, R400, R404, R405, R407, R861) -/

/-- The data bytes of a message, in the order of its flits. -/
def messageBytes (l : List Held) : List Byte :=
  (l.filter fun h => !h.flit.trailer).flatMap fun h => leBytes 32 h.flit.payload.toNat

/-- The guard CRC of a message is that of its bytes (R407). -/
def guardOk (l : List Held) : Bool :=
  match l.find? fun h => h.flit.trailer with
  | some t => decide (t.flit.payload.setWidth 32 = crc32c (messageBytes l))
  | none => false

/-- The message arrived after its release cycle, in the epoch of its release (R64, R399). -/
def lateHeld (l : List Held) (epoch : W64) : Bool := l.any fun h => decide (h.epoch = epoch) && decide (h.flit.rcycle < h.cycle)

/-- The parts of `n` bytes at `a` that lie in local store (R405). -/
def clipLs (a : Nat) (l : List Byte) : Nat × List Byte :=
  let lo := max a 0x100000
  (lo, (l.drop (lo - a)).take (0x160000 - lo))

/-- A message is delivered to its slot (R173, R399, R405). DEDUCED, log entry 34. -/
def State.deliver (s : State) (b : BlockId) (r : RxChan) (ch : ChanId) (l : List Held) : State :=
  let n := look 0 (s.blk b).core.delivered ch.toNat
  let a := r.base.toNat + n % (max r.slots.toNat 1) * (r.sfm1.toNat + 1) * 32
  let w := clipLs a (messageBytes l)
  let s := s.lsStore b w.1 w.2
  (s.modCore b fun c => { c with delivered := put c.delivered ch.toNat (n + 1) }).receivedWords (heldWords l)

def State.blockRelease (s : State) (b : BlockId) (l : List Held) (h : Held) : State :=
  let ch := h.flit.ch
  let r := look RxChan.reset (s.blk b).msg.rxc ch.toNat
  let n := look 0 (s.blk b).core.delivered ch.toNat
  if !complete r.guard l then s
  else
    let s := s.modMsg b fun m => { m with hold := dropMessage m.hold h }
    let late s := (State.modMsg s b fun m => { m with discards := m.discards + 1, late := m.late + 1 }).charge rowLate (blkRef b)
    if lateHeld l s.epoch.num then late s
    else
      let s := s.advanceTo h.flit.rcycle
      if !s.receives b then late s
      else if r.guard && !guardOk l then
        (s.modMsg b fun m => { m with guardFails := m.guardFails + 1 }).charge rowUncorrectable (blkRef b)
      else if !r.en || decide (h.flit.world ≠ r.world) || decide (r.sfm1.toNat + 1 < heldWords l) || decide (r.expect.toNat ≤ n) then
        s.modMsg b fun m => { m with discards := m.discards + 1 }
      else s.deliver b r ch l

def State.outletRelease (s : State) (i : Nat) (x : Outlet) (l : List Held) (h : Held) : State :=
  if !complete x.guard l then s
  else
    let x := { x with hold := dropMessage x.hold h }
    let s := s.setOutlet i x
    if lateHeld l s.epoch.num then s.charge rowLate noBlock
    else
      let s := s.advanceTo h.flit.rcycle
      if x.guard && !guardOk l then s.charge rowUncorrectable noBlock
      else if x.expect ≤ x.delivered then s
      else
        let s := (s.setOutlet i { x with delivered := x.delivered + 1 }).receivedWords (heldWords l)
        match x.writing with
        | none => s
        | some slot =>
          s.modEdge x.die fun d => { d with sram := mstore d.sram (x.base + slot * x.slotSize + 256 * x.delivered) (messageBytes l) }

/-- The `i`-th message of a hold buffer whose release falls in epoch `e`, with its first flit. -/
def releaseAt (l : List Held) (e : W64) (i : Nat) : Option (List Held × Held) :=
  match (messageKeys (dueHeld l e))[i]? with
  | none => none
  | some k =>
    let m := l.filter fun h => decide (h.key = k)
    m.head?.map fun h => (m, h)

/-- MESSAGE_RELEASE (R399): a message whose last flit has arrived is delivered in its release cycle, or found late. DEDUCED, log entry 34. -/
def messageRelease (at_ : MEng) (index : Nat) (s : State) : State :=
  if s.runningPart then
    match at_ with
    | .block b =>
      match releaseAt (s.blk b).msg.hold s.epoch.num index with
      | some (l, h) => s.blockRelease b l h
      | none => s
    | .edge _ i =>
      match s.outlet i.toNat with
      | some x =>
        match releaseAt x.hold s.epoch.num index with
        | some (l, h) => s.outletRelease i.toNat x l h
        | none => s
      | none => s
  else s

def execMessageRelease (at_ : MEng) (index : Nat) (s : State) : Host.Outcome State Fault Refusal := .next (messageRelease at_ index s)

end Sys2Proof.Machine
end

