-- ==== Sys2Proof/Machine/Link.lean ====
section
/-! DEFINITION. Dzixon links (chapter 10): frames and blocks, link states, what a port sends of the planned and the unplanned class, milestones and
credits. -/

namespace Sys2Proof.Machine

/-- The code of a link state (R424). -/
def LinkSt.code : LinkSt → Nat
  | .down => 0 | .train => 1 | .caps => 2 | .survey => 3 | .active => 4 | .retrain => 5 | .disabled => 6

def sat64 (n m : Nat) : Nat := min (n + m) (2 ^ 64 - 1)

/-! ## Frames and blocks (R426, R430 to R435) -/

/-- The outcome code of a record (R433). -/
def Settled.code : Settled → BitVec 2
  | .none => 0 | .valid => 1 | .bubble => 2 | .void => 3

/-- A record of a milestone frame (R433). -/
def MsRec.bytes (r : MsRec) : List Byte :=
  leBytes 8 r.epoch.toNat ++ [r.origin.setWidth 8, r.outcome.setWidth 8, 0, 0] ++ leBytes 8 r.time.toNat

/-- The record that stands at byte `a` of a frame. -/
def recordAt (l : List Byte) (a : Nat) : MsRec :=
  ⟨BitVec.ofNat 64 (leAt l a 8), BitVec.ofNat 7 (leAt l (a + 8) 1), BitVec.ofNat 2 (leAt l (a + 9) 1), BitVec.ofNat 64 (leAt l (a + 12) 8)⟩

/-- Bytes 8 to 47 of an identity frame (R435). -/
def Identity.bytes (i : Identity) : List Byte :=
  leBytes 8 i.uid.toNat ++ [i.port.setWidth 8, i.stepping] ++ leBytes 2 i.linkAbi.toNat ++ leBytes 4 i.version.toNat
    ++ [i.station, i.devnum.setWidth 8 ||| (if i.devValid then 0x80 else 0)] ++ leBytes 2 i.depth0.toNat ++ leBytes 2 i.depth1.toNat
    ++ leBytes 2 i.rxNext.toNat ++ leBytes 2 i.free0.toNat ++ leBytes 2 i.free1.toNat ++ leBytes 4 i.txstamp.toNat ++ leBytes 4 i.echo.toNat
    ++ leBytes 4 i.echoAge.toNat

/-- The identity that a frame's bytes give. -/
def identityOf (l : List Byte) : Identity :=
  let n (a k : Nat) : Nat := leAt l a k
  { uid := BitVec.ofNat 64 (n 8 8), port := BitVec.ofNat 3 (n 16 1), stepping := BitVec.ofNat 8 (n 17 1), linkAbi := BitVec.ofNat 16 (n 18 2)
    version := BitVec.ofNat 32 (n 20 4), station := BitVec.ofNat 8 (n 24 1), devnum := BitVec.ofNat 7 (n 25 1), devValid := (n 25 1).testBit 7
    depth0 := BitVec.ofNat 16 (n 26 2), depth1 := BitVec.ofNat 16 (n 28 2), rxNext := BitVec.ofNat 16 (n 30 2), free0 := BitVec.ofNat 16 (n 32 2)
    free1 := BitVec.ofNat 16 (n 34 2), txstamp := BitVec.ofNat 32 (n 36 4), echo := BitVec.ofNat 32 (n 40 4), echoAge := BitVec.ofNat 32 (n 44 4) }

/-- The header and body of a frame (R431 to R435), bytes 0 to 251. -/
def Frame.body : Frame → List Byte
  | .planned e l =>
    leBytes 8 (1 + 2 ^ 8 * (2 ^ l.length - 1) + 2 ^ 16 * e.toNat) ++ l.flatMap fun f => leBytes 32 f.payload.toNat ++ leBytes 5 f.tag.toNat
  | .milestone e n l => leBytes 8 (2 + 2 ^ 8 * l.length + 2 ^ 16 * e.toNat + 2 ^ 32 * n.toNat) ++ l.flatMap MsRec.bytes
  | .unplanned u =>
    leBytes 8 (3 + 2 ^ 8 * boolBit u.vc + 2 ^ 16 * u.fseq.toNat + 2 ^ 32 * u.dst.toNat + 2 ^ 40 * u.src.toNat + 2 ^ 48 * u.payload.length
      + 2 ^ 56 * u.kind.toNat + 2 ^ 60 * u.ttl.toNat) ++ u.payload
  | .identity m i => leBytes 8 ((if m = 1 then 5 else 4) + 2 ^ 8 * m) ++ Identity.bytes i

/-- The 256 bytes of a frame, with its CRC-32. -/
def frameBytes (body : List Byte) : List Byte := let l := padTo 252 body; l ++ leBytes 4 (crc32 l).toNat

/-- The 1,290 data bytes of a block: the header with its HCRC, and five frames, idle where there is none (R426, R430). -/
def LinkBlock.bytes (b : LinkBlock) : List Byte :=
  leBytes 8 b.header.toNat ++ leBytes 2 (crc16 64 b.header).toNat
    ++ (List.range 5).flatMap fun i => frameBytes ((b.frames[i]?.map Frame.body).getD [])

/-- What a block is on the lanes (R426 to R428). -/
def LinkBlock.wire (b : LinkBlock) : List (BitVec 16) := fecEncode b.bytes

/-- Bits [63:0] of the next block's header (R430). -/
def DPort.header (x : DPort) : W64 :=
  BitVec.ofNat 64 (x.bseq.toNat + 2 ^ 16 * x.rxNext.toNat + 2 ^ 32 * x.vc0.freed.toNat + 2 ^ 44 * x.vc1.freed.toNat + 2 ^ 56 * x.req.toNat)

/-- Link time (R435), in units of 0.1 ns. -/
def State.linkTime (s : State) : Nat := s.acy * 400 + s.acyFrac * 10000 / s.mhz

/-- This device's identity on a port (R435). -/
def State.identity (s : State) (p : Nat) : Identity :=
  let x := s.port p
  let now := s.linkTime
  { uid := Config.uid, port := BitVec.ofNat 3 p, stepping := Config.stepping, linkAbi := s.bundle.linkAbi, version := s.bundle.version
    station := s.station, devnum := s.devNum, devValid := s.devValid, depth0 := 512, depth1 := 512, rxNext := x.rxNext
    free0 := BitVec.ofNat 16 (512 - x.vc0.rx.length), free1 := BitVec.ofNat 16 (512 - x.vc1.rx.length)
    txstamp := BitVec.ofNat 32 now, echo := x.echo, echoAge := BitVec.ofNat 32 (now - x.echoAt) }

/-- A frame that goes before every unplanned and identity frame (R444). -/
def Frame.urgent : Frame → Bool
  | .planned _ _ => true | .milestone _ _ _ => true | .unplanned _ => false | .identity _ _ => false

/-- A port sends a block (R426, R430, R444): the frames that wait, planned and milestone frames first, after `lead`. REQ 1 goes out once (R450). The model
keeps a block without frames only where its header tells something new. -/
def DPort.sendBlock (x : DPort) (lead : List Frame) : DPort :=
  let l := lead ++ x.out.filter Frame.urgent ++ x.out.filter fun f => !f.urgent
  let b : LinkBlock := ⟨x.header, l.take 5⟩
  let new := !b.frames.isEmpty || decide ((x.blocks.getLast?.map fun c => c.header.extractLsb' 16 48) ≠ some (x.header.extractLsb' 16 48))
  { x with bseq := x.bseq + 1, req := if x.req = 1 then 0 else x.req, out := l.drop 5, blocks := if new then x.blocks ++ [b] else x.blocks }

/-- `n` blocks one after another. -/
def DPort.sendBlocks : Nat → DPort → DPort
  | 0, x => x
  | n + 1, x => DPort.sendBlocks n (x.sendBlock [])

/-- The identity frame that leads a port's block while it trains, exchanges capabilities or retrains (R436). DESIGN CHOICE, log entry 72. -/
def State.leadFrame (s : State) (p : Nat) : List Frame :=
  match (s.port p).st with
  | .train => [.identity 0 (s.identity p)]
  | .caps => [.identity 0 (s.identity p)]
  | .retrain => [.identity 2 (s.identity p)]
  | _ => []

/-- A port's transmitters are on (R436). -/
def LinkSt.sends : LinkSt → Bool
  | .down => false | .disabled => false | _ => true

/-- The blocks of a port that have begun by now: one every 6.4 ns (R428). DESIGN CHOICE, log entry 72. -/
def State.portBlocks (s : State) (p : Nat) : State :=
  let x := s.port p
  let now := s.linkTime
  if x.st.sends && decide (x.nextBlk ≤ now) then
    let n := (now - x.nextBlk) / 64 + 1
    let k := min (n - 1) ((x.out.length + 4) / 5)
    let y := DPort.sendBlocks k (x.sendBlock (s.leadFrame p))
    s.setPort p { y with bseq := x.bseq + BitVec.ofNat 16 n, nextBlk := x.nextBlk + 64 * n }
  else s

/-- Every port sends what is due. -/
def State.sendLinks (s : State) : State := s.eachPort State.portBlocks

/-! ## State changes (R436 to R440, R472) -/

/-- A port changes state, which is journaled (R440); a planned port that leaves ACTIVE voids the epoch (R472). Its blocks begin with TRAIN, what
waited for a boundary is lost when it leaves ACTIVE (R452), and identity frames count anew. -/
def State.linkTo (s : State) (p : Nat) (st : LinkSt) (cause : Option (BitVec 4)) : State :=
  let now := s.linkTime
  let s := s.modPort p fun x =>
    { x with
      st := st, cause := cause.getD x.cause, lock := st.sends && decide (st ≠ .train) && x.lock, out := if st = .active then x.out else []
      nextBlk := if x.st.sends then x.nextBlk else now
      idents := 0, ident := if st = .active then x.ident else none
      measured := if st = .train ∨ st = .retrain then none else x.measured }
  let s := s.noteLinkOut p
  (s.raise 0x0200 (BitVec.ofNat 64 p) (BitVec.ofNat 64 (st.code + 2 ^ 16 * (s.port p).cause.toNat))).hifEvent evtLink

/-- The die of a port works (R43). -/
def State.portUp (s : State) (p : Nat) : Bool := decide (look 0 s.dies (p / 4) = 0)

/-- A port enters RETRAIN (R437): REQ 2 goes out until it locks again. -/
def State.toRetrain (s : State) (p : Nat) (cause : BitVec 4) : State :=
  if (s.port p).st = .active then
    (s.linkTo p .retrain (some cause)).modPort p fun x =>
      { x with retrains := if x.retrains = 0xFFFF then x.retrains else x.retrains + 1, req := 2, lock := false, badRun := 0, stall := 0 }
  else s

/-- Flight time and padding of a trained link (R438, R464): flight and padding together are 30 ns. DEDUCED, log entry 36. -/
def State.setFlight (s : State) (p n : Nat) : State :=
  s.modPort p fun x => { x with flight := BitVec.ofNat 12 n, pad := BitVec.ofNat 12 (300 - n), lock := true }

/-- LINK_SIGNAL_DETECT (R436): once the link microcode is loaded (R818). -/
def linkSignalDetect (p : PortId) (s : State) : State :=
  let n := p.toNat
  if (s.port n).st = .down && (s.port n).en && s.portUp n && s.boot.loaded.isSome then s.linkTo n .train none else s

def execLinkSignalDetect (p : PortId) (s : State) : Host.Outcome State Fault Refusal := .next (linkSignalDetect p s)

/-- LINK_TRAIN_COMPLETE (R425, R436, R438): training ends once the stamps of identity frames give the flight time; one above 30 ns puts the link DOWN
with CAUSE 4. -/
def linkTrainComplete (p : PortId) (s : State) : State :=
  let n := p.toNat
  match (s.port n).st, (s.port n).measured with
  | .train, some f => if 300 < f then s.linkTo n .down (some 4) else (s.setFlight n f).linkTo n .caps none
  | _, _ => s

/-- The command names the flight time that the port has measured; a port that has measured another has not trained with it (log entry 10). -/
def execLinkTrainComplete (p : PortId) (flight : Nat) (s : State) : Host.Outcome State Fault Refusal :=
  .next (if (s.port p.toNat).measured = some flight then linkTrainComplete p s else s)

/-- LINK_TRAIN_TIMEOUT (R436): 20 ms without success. -/
def execLinkTrainTimeout (p : PortId) (s : State) : Host.Outcome State Fault Refusal :=
  .next (if (s.port p.toNat).st = .train then s.linkTo p.toNat .down (some 3) else s)

/-! ## The unplanned class (R449 to R452) -/

def DPort.vc (x : DPort) (v : Bool) : Vc := if v then x.vc1 else x.vc0

def DPort.modVc (x : DPort) (v : Bool) (f : Vc → Vc) : DPort := if v then { x with vc1 := f x.vc1 } else { x with vc0 := f x.vc0 }

/-- The sending side of a port's unplanned frames after retransmissions (R423). -/
def DPort.resend (x : DPort) (l : List UFrame) : DPort :=
  { x with out := x.out ++ l.map Frame.unplanned, retry := sat64 x.retry l.length }

/-- Bytes of a footpath packet as an unplanned frame of KIND 0 carries them (R416, R434): its flits. -/
def packetBytes (p : FpPacket) : List Byte := (packetFlits p).flatMap fun w => leBytes 8 w.toNat

/-- The packet that such bytes carry. -/
def bytesPacket (l : List Byte) : FpPacket :=
  packetOf ((List.range (l.length / 8)).map fun i => BitVec.ofNat 64 (leAt l (8 * i) 8))

/-- The port toward a device, none when the route table has no entry (R451). -/
def State.routeTo (s : State) (d : BitVec 7) : Option Nat := if s.isBound then (s.routes.find? fun e => decide (e.1 = d.toNat)).map Prod.snd else none

/-- Traffic between the two edge dies gets through: it crosses the quarters on the footpath network (R25, R451). DESIGN CHOICE, log entry 58. -/
def State.edgesMeet (s : State) : Bool :=
  decide (look 0 s.dies 0 = 0 ∧ look 0 s.dies 1 = 0) && (s.fpRoute (Edge.code .e0, 0) (Edge.code .e1, 0)).isSome

/-- The port that a frame leaves by, which came in at the edge die `e`; none where no route leads on. -/
def State.wayOut (s : State) (e : Option Edge) (d : BitVec 7) : Option Nat :=
  (s.routeTo d).filter fun p =>
    decide (look 0 s.dies (p / 4) = 0) && (match e with | none => true | some e => decide (edgeOfPort p = e) || s.edgesMeet)

/-- A frame is queued on the port toward its destination; without a route it is not. -/
def State.queueFrame (s : State) (u : UFrame) (from_ : Option (Nat × Bool × BitVec 16) := none) : State :=
  match s.routeTo u.dst with
  | some p => s.modPort p fun x => { x with wait := x.wait ++ [(u, from_)] }
  | none => s

/-- A frame of this device for a footpath packet. -/
def State.packetFrame (s : State) (vc : Bool) (dst : BitVec 7) (p : FpPacket) : UFrame := ⟨0, vc, dst, s.devNum, 0, 15, packetBytes p⟩

/-- The error return with ERR 2 for a frame that went nowhere, to its SRC (R439, R451): over the links, or to the requester on this device when the frame
is its own. One that carries no footpath packet is answered to E0. DESIGN CHOICE, log entry 16. -/
def State.errorReturn (s : State) (p : Nat) (u : UFrame) : State :=
  let k := bytesPacket u.payload
  let a := if u.kind = 0 then answer k 4 2 [] else { answer k 4 2 [] with dpx := 0xFE, dpy := 0 }
  if u.src = s.devNum ∨ s.isBound = false then s.sendPacket (Edge.code (edgeOfPort p), 0) a
  else s.queueFrame (s.packetFrame true u.src a)

/-- A receive buffer entry is free again (R449). -/
def State.freeEntry (s : State) (f : Option (Nat × Bool × BitVec 16)) : State :=
  match f with
  | none => s
  | some (p, vc, n) => s.modPort p fun x => x.modVc vc fun v => { v with rx := v.rx.filter fun u => !decide (u.fseq = n), freed := v.freed + 1 }

/-- UNPLANNED_FRAME_SEND (R434, R449, R768): a frame goes out while the port holds a credit of its VC and fewer than 256 are unacknowledged. A forwarded one
then leaves the receive buffer that held it. -/
def unplannedFrameSend (p : PortId) (vc : Bool) (dst src : BitVec 7) (kind ttl : BitVec 4) (payload : List Byte) (s : State) : State :=
  let n := p.toNat
  let x := s.port n
  if x.st = .active ∧ 0 < (x.vc vc).credits ∧ x.replay.length < 256 then
    let u : UFrame := ⟨x.nextSeq, vc, dst, src, kind, ttl, payload⟩
    let w := x.wait.find? fun w => decide (w.1 = { u with fseq := 0 })
    let s := s.modPort n fun x =>
      { x.modVc vc fun v => { v with credits := v.credits - 1, out := v.out + 1 } with
        nextSeq := x.nextSeq + 1, replay := x.replay ++ [u], out := x.out ++ [.unplanned u], wait := match w with | some w => x.wait.erase w | none => x.wait }
    (s.freeEntry (w.bind Prod.snd)).openBook (0xA010 + n)
  else s

def execUnplannedFrameSend (p : PortId) (vc : Bool) (dst src : BitVec 7) (kind ttl : BitVec 4) (payload : List Byte) (s : State) :
    Host.Outcome State Fault Refusal := .next (unplannedFrameSend p vc dst src kind ttl payload s)

/-- A retransmission without ACK progress (R437): the eighth in a row is a trigger. -/
def State.resendAll (s : State) (p : Nat) : State :=
  let x := s.port p
  if x.replay = [] then s
  else
    let s := s.modPort p fun x => { x.resend x.replay with stall := x.stall + 1 }
    if 8 ≤ (s.port p).stall then s.toRetrain p 8 else s

/-- UNPLANNED_RETRY_TIMEOUT (R450): ACK has not advanced for 2 µs. -/
def execUnplannedRetryTimeout (p : PortId) (s : State) : Host.Outcome State Fault Refusal :=
  .next (if (s.port p.toNat).st = .active then s.resendAll p.toNat else s)

/-! ## The credit book at the entry to ACTIVE (R452, R768 to R770) -/

/-- FSEQ `a` is `b` or comes after it, within the 256 frames of a replay buffer. -/
def seqAtOrAfter (a b : BitVec 16) : Bool := decide ((a - b).toNat < 2 ^ 15)

/-- One VC settles and is reset (R769): whether it balances, and its state after the replayed frames have spent their credits. -/
def Vc.settle (v : Vc) (free lost : Nat) : Bool × Vc :=
  let credits := min free 512
  (decide (free ≤ 512) && decide (v.credits + lost ≤ free),
   { v with credits := credits - lost, out := 512 - credits + lost, seen := 0, freed := 0, peerOcc := 512 - free })

/-- A port enters ACTIVE (R452, R769): the credit book settles and is reset, and the replay buffer is sent again from RXNEXT. -/
def State.toActive (s : State) (p : Nat) (peer : Identity) : State :=
  let x := s.port p
  let again := x.replay.filter fun u => seqAtOrAfter u.fseq peer.rxNext
  let n0 := (again.filter fun u => !u.vc).length
  let n1 := (again.filter fun u => u.vc).length
  let r0 := x.vc0.settle peer.free0.toNat n0
  let r1 := x.vc1.settle peer.free1.toNat n1
  let s := s.settleBook (0xA010 + p) (r0.1 && r1.1) [r0.2.credits, r0.2.out, r1.2.credits, r1.2.out]
  let s := s.modPort p fun x => { x.resend again with replay := again, vc0 := r0.2, vc1 := r1.2, req := 0, badRun := 0, stall := 0, lock := true }
  s.linkTo p .active none

/-- What the peer tells of itself is recorded (R439). Another UID than before discards the replay buffer with error returns and clears PLANNED.
DEDUCED, log entry 36. -/
def State.recordPeer (s : State) (p : Nat) (i : Identity) : State :=
  let x := s.port p
  let other := decide (x.peer.uid ≠ 0) && decide (x.peer.uid ≠ i.uid)
  let s := if other then
      (x.replay.foldl (fun s u => s.errorReturn p u) s).modPort p fun x => { x with replay := [], planned := false }
    else s
  s.modPort p fun x =>
    { x with peer := ⟨i.uid, i.port, i.stepping, i.linkAbi, i.station, i.devnum, i.devValid⟩, abiOk := decide (i.linkAbi = s.bundle.linkAbi) }

/-- CAPS_COMPLETE (R436, R439): three valid identity frames have come. In SURVEY the peer is identified too, and equal levels lead back to CAPS. -/
def capsComplete (p : PortId) (s : State) : State :=
  let n := p.toNat
  let st := (s.port n).st
  match (s.port n).ident with
  | some peer =>
    if (st = .caps ∨ st = .survey) ∧ 3 ≤ (s.port n).idents then
      let s := s.recordPeer n peer
      let ok := (s.port n).abiOk && !(s.port n).forceSurvey
      if st = .caps then (if ok then s.toActive n peer else s.linkTo n .survey none)
      else (if ok then s.linkTo n .caps none else s)
    else s
  | none => s

/-- The command names the identity that the port has heard last (log entry 10). -/
def execCapsComplete (p : PortId) (peer : Identity) (s : State) : Host.Outcome State Fault Refusal :=
  .next (if (s.port p.toNat).ident = some peer then capsComplete p s else s)

/-- SURVEY_IDENTITY_SEND (R436): an identity frame of MODE 1 every 10 µs. -/
def execSurveyIdentitySend (p : PortId) (s : State) : Host.Outcome State Fault Refusal :=
  .next (if (s.port p.toNat).st = .survey then
      s.modPort p.toNat fun x => { x with out := x.out ++ [.identity 1 (s.identity p.toNat)] }
    else s)

/-- RETRAIN_TRIGGER (R437): 2 signal lost, 6 uncorrectable blocks, 7 peer request, 8 retry stall, 9 management request. -/
def execRetrainTrigger (p : PortId) (cause : BitVec 4) (s : State) : Host.Outcome State Fault Refusal :=
  .next (if cause = 2 ∨ cause = 6 ∨ cause = 7 ∨ cause = 8 ∨ cause = 9 then s.toRetrain p.toNat cause else s)

/-- LNK_RETRAIN_REQUEST (R424, R437): a 1 written to RETRAIN. -/
def execLnkRetrainRequest (p : PortId) (s : State) : Host.Outcome State Fault Refusal := .next (s.toRetrain p.toNat 9)

/-- RETRAIN_COMPLETE (R436, R438, R439, R452): the port has locked again, measured the flight time and heard the peer's identity. DEDUCED, log entry 36. -/
def retrainComplete (p : PortId) (s : State) : State :=
  let n := p.toNat
  let x := s.port n
  match x.st, x.measured, x.ident with
  | .retrain, some f, some peer =>
    if !x.lock then s
    else if 300 < f then s.linkTo n .down (some 4)
    else ((s.setFlight n f).recordPeer n peer).toActive n peer
  | _, _, _ => s

/-- The command names the flight time that the port has measured and the identity that it has heard last (log entry 10). -/
def execRetrainComplete (p : PortId) (flight : Nat) (peer : Identity) (s : State) : Host.Outcome State Fault Refusal :=
  .next (if (s.port p.toNat).measured = some flight ∧ (s.port p.toNat).ident = some peer then retrainComplete p s else s)

/-- RETRAIN_TIMEOUT (R436): 50 µs without success lead to TRAIN, with CAUSE 5. -/
def execRetrainTimeout (p : PortId) (s : State) : Host.Outcome State Fault Refusal :=
  .next (if (s.port p.toNat).st = .retrain then s.linkTo p.toNat .train (some 5) else s)

/-- EN of LNK_CTRL changes (R424, R436): 0 takes the port to DOWN with CAUSE 1, and from there to DISABLED; 1 lets a disabled port train, once the link
microcode is loaded (R833). -/
def State.linkEnable (s : State) (p : Nat) (en : Bool) : State :=
  let st := (s.port p).st
  let s := s.modPort p fun x => { x with en := en }
  if en then (if st = .disabled && s.portUp p && s.boot.loaded.isSome then s.linkTo p .train none else s)
  else if st = .disabled then s
  else (if st = .down then s else s.linkTo p .down (some 1)).linkTo p .disabled (some 1)

/-- LNK_ENABLE_CHANGE (R436). -/
def execLnkEnableChange (p : PortId) (en : Bool) (s : State) : Host.Outcome State Fault Refusal := .next (s.linkEnable p.toNat en)

/-! ## The planned class (R441 to R448) -/

/-- The cycle of the `i`-th transmit entry of an epoch (R441, R442). -/
def DPort.txCycle (x : DPort) (i : Nat) : Option (Nat × Nat) :=
  let n := x.txs.length
  if n = 0 then none
  else (x.txs[i % n]?).map fun e => (128 + i / n * x.period + e.1, e.2)

/-- A flit with the LAG that its frame carries (R445); none when it would be negative. -/
def packFlit (f : TxFlit) (sepoch : W64) : Option Flit :=
  if f.epoch + BitVec.ofNat 64 f.flit.lag < sepoch then none
  else some (f.flit.withLag (f.epoch + BitVec.ofNat 64 f.flit.lag - sepoch).toNat)

/-- The first transmit entry that has not been taken and whose cycle does not lie before cycle `c`: one whose cycle passed without it is past (R442). -/
def DPort.nextTx (x : DPort) (c : Nat) : Nat → Nat → Nat
  | 0, i => i
  | fuel + 1, i =>
    match x.txCycle i with
    | some (d, _) => if d < c then x.nextTx c fuel (i + 1) else i
    | none => i

/-- LINK_TRANSMIT_ENTRY (R442, R444, R445, R466, R764): in its cycle the entry takes the first flits that have joined the queue before into one frame;
with none queued no frame is sent, and none by a port that is not ACTIVE. DEDUCED, log entry 36. -/
def linkTransmitEntry (p : PortId) (s : State) : State :=
  let n := p.toNat
  let x := s.port n
  let i := x.nextTx s.epoch.cycle (2 ^ s.k) x.txDone
  match x.txCycle i with
  | none => s
  | some (c, count) =>
    if s.runningPart && x.planned && decide (c < 2 ^ s.k) then
      let s := s.advanceTo c
      if x.st ≠ .active then s.modPort n fun x => { x with txDone := i + 1 }
      else
        let s := s.modPort n fun x => x.queueAt (c - 1)
        let take := ((s.port n).queue.filter fun f => decide (f.cycle < c)).take count
        let e := s.epoch.num
        let flits := take.filterMap fun f => packFlit f e
        let s := s.modPort n fun x =>
          { x.lose (take.length - flits.length) 0 with
            queue := x.queue.drop take.length, txDone := i + 1, short := x.short + (count - take.length)
            sentNow := if flits = [] then x.sentNow else x.sentNow + 1
            out := if flits = [] then x.out else x.out ++ [.planned (e.setWidth 16) flits] }
        s.receivedWords (words flits)
    else s

def execLinkTransmitEntry (p : PortId) (s : State) : Host.Outcome State Fault Refusal := .next (linkTransmitEntry p s)

/-! ## Milestones (R453 to R455) -/

/-- TIME64 of a number of ns (R588). -/
def time64Of (ns : Nat) : W64 := BitVec.ofNat 64 (ns % 1000000000 + ns / 1000000000 * 2 ^ 32)

/-- Records by ascending origin. -/
def insertRec (r : MsRec) : List MsRec → List MsRec
  | [] => [r]
  | q :: t => if r.origin < q.origin then r :: q :: t else q :: insertRec r t

/-- MILESTONE_SEND (R453 to R455): the first milestone cycle of an epoch carries the device's own record; each carries the records that wait. A cycle that
passed without its frame is past. -/
def milestoneSend (p : PortId) (first : Bool) (s : State) : State :=
  let n := p.toNat
  let x := s.port n
  let i := skipPast (fun i => (x.mcycles[i]?).getD 0) x.mcycles.length s.epoch.cycle 4 x.msDone
  let go := decide (s.plan = .running ∨ s.plan = .stopping ∨ s.plan = .halted) && s.epoch.active && decide (s.pl.e0 < s.epoch.num)
    && x.planned && decide (x.st = .active) && decide (first = (i == 0)) && (s.epoch.begun || s.epoch.decision.isSome)
  match x.mcycles[i]? with
  | none => s
  | some c =>
    if go && (decide (c ≤ s.lastCycle) || decide (c ≤ s.epoch.cycle)) then
      let s := s.advanceTo c
      let e := s.epoch
      let own : List MsRec := if first then [⟨e.num - 1, s.devNum, e.nxt.prev.code, time64Of e.at0Prev⟩] else []
      let due := (x.due.filter fun r => decide (r.2 + 16 ≤ s.fcy)).map Prod.fst
      let all := (own ++ due).foldr insertRec []
      let s := s.bump 0xB002 3 (all.length - 12)
      s.modPort n fun x =>
        { x with
          due := x.due.filter fun r => !decide (r.2 + 16 ≤ s.fcy), msDone := i + 1
          out := x.out ++ [.milestone ((e.num - 1).setWidth 16) (BitVec.ofNat 16 x.sentPrev) (all.take 12)] }
    else s

def execMilestoneSend (p : PortId) (first : Bool) (s : State) : Host.Outcome State Fault Refusal := .next (milestoneSend p first s)

end Sys2Proof.Machine
end

