-- ==== Sys2Proof/Machine/HostQueue.lean ====
section
/-! DEFINITION. Host queues (chapter 11): doorbells, fetch, validation, acceptance, completion, interrupts, and what disables a queue. -/

namespace Sys2Proof.Machine

/-! ## Validation (R494) -/

/-- Argument bits that a command uses, by entry byte from 24 on (R500, R747, R789, R803): each pair is a first byte and its masks. -/
def argMasks (op : Nat) : List Byte :=
  let all n := List.replicate n (0xFF : Byte)
  let no n := List.replicate n (0 : Byte)
  padTo 40 (match op with
    | 0x01 => all 16 ++ [1]
    | 0x02 => [0xFF]
    | 0x03 => all 16
    | 0x04 => all 8
    | 0x10 => all 14
    | 0x11 => all 14
    | 0x12 => all 21
    | 0x13 => all 21
    | 0x20 => all 8
    | 0x21 => all 40
    | 0x22 => [0x0F, 0xFF, 0x0F] ++ no 1 ++ all 4
    | 0x24 => [0x8F, 0x1F, 1, 0] ++ all 16
    | 0x25 => all 13
    | 0x30 => all 3 ++ no 1 ++ all 12
    | 0x31 => all 3 ++ no 1 ++ all 12
    | _ => [])

/-- No reserved byte or bit of an entry is set. -/
def noReserved (e : List Byte) : Bool :=
  let op := leAt e 0 2
  decide (leAt e 2 1 < 4) && decide (leAt e 3 5 = 0) && decide (leAt e 20 4 = 0)
    && ((e.drop 24).take 40 |>.zip (argMasks op)).all fun x => decide (x.1 &&& ~~~x.2 = 0)

/-- TIME64 holds a time of the day it names: its NS lies below one second (R588). DEDUCED, log entry 43. -/
def isTime64 (v : Nat) : Bool := decide (v % 2 ^ 32 ≤ 999999999)

/-- The trace sink setting 0x6001:04 (R789). -/
def State.traceSink (s : State) : Nat := s.setting 0x6001 4

/-- The arguments are in the ranges of R500, R747, R789 and R803. -/
def State.argsOk (s : State) (e : List Byte) : Bool :=
  let n (at_ k : Nat) : Nat := leAt e at_ k
  match n 0 2 with
  | 0x01 => decide (n 24 8 % 64 = 0 ∧ 64 ≤ n 32 8 ∧ n 32 8 ≤ 2 ^ 32)
  | 0x03 => isTime64 (n 24 8) && decide (n 32 8 ≤ 2 ^ 64 - 2)
  | 0x10 => decide (n 36 2 ≤ 63)
  | 0x11 => decide (n 36 2 ≤ 63)
  | 0x12 => decide (n 32 8 < 2 ^ 34 ∧ 1 ≤ n 40 4 ∧ n 40 4 ≤ 2 ^ 24)
  | 0x13 => decide (n 32 8 < 2 ^ 34 ∧ 1 ≤ n 40 4 ∧ n 40 4 ≤ 2 ^ 24)
  | 0x22 => decide (n 25 1 ≤ 1 ∧ n 26 1 ≠ 0)
  | 0x24 =>
    decide ((128 ≤ n 24 1 ∨ n 25 1 ≠ 0) ∧ n 28 2 ≤ n 30 2 ∧ n 30 2 ≤ 16383) &&
      (decide (s.traceSink ≠ 1) || decide (n 32 8 % 4096 = 0 ∧ n 40 4 % 4096 = 0 ∧ 65536 ≤ n 40 4 ∧ n 40 4 ≤ 2 ^ 30))
  | 0x25 => decide (n 32 4 % 64 = 0 ∧ n 36 1 ≤ 1)
  | 0x30 => decide (1 ≤ n 28 4 ∧ n 28 4 ≤ 4096)
  | 0x31 => decide (1 ≤ n 28 4 ∧ n 28 4 ≤ 4096)
  | _ => true

/-- Commands that RESTRICTED state admits (R494). -/
def restrictedOk (op : Nat) : Bool := decide (op = 0 ∨ op = 0x20 ∨ op = 0x21 ∨ op = 0x30 ∨ op = 0x31)

/-- The first failing check of R494, 0 for a valid entry. -/
def State.validate (s : State) (e : List Byte) : BitVec 16 :=
  if (unitOf (leAt e 0 2)).isNone then 0x10
  else if !noReserved e then 0x11
  else if !s.argsOk e then 0x12
  else if s.restricted && !restrictedOk (leAt e 0 2) then 0x13
  else 0

/-! ## Acceptance (R494, R495, R520) -/

/-- A rejected entry: no record, a completion with JSEQ 0, and HIF_REJECTS. -/
def State.reject (s : State) (q : QueueId) (e : List Byte) (head : BitVec 12) (gone : Nat) (st : BitVec 16) : State :=
  let s := ((s.hostTerm 0x11 1).hostTerm 0x14 1).settleQueues
  let c : Completion := ⟨q, BitVec.ofNat 64 (leAt e 8 8), 0, 0, st, head, (BitVec.ofNat 8 (leAt e 2 1)).getLsbD 0, none⟩
  s.modHif fun h => { h with rejects := h.rejects + 1, comps := if gone = 0 then h.comps ++ [c] else h.comps }

/-- A valid entry is presented for acceptance (R537). DEDUCED, log entry 43. -/
def State.presentEntry (s : State) (q : QueueId) (e : List Byte) (head : BitVec 12) (gone : Nat) : State :=
  let c : Cmd := ⟨0, q, head, e, .accepted, 0, 0, 0, gone, none, [], 0, false⟩
  let r := s.cmdRecord c 1 0 0
  (s.modJnl fun j => { j with holding := some (r, c) }).noteBp

/-- Fetched entries of one queue are decided in ring order, until one fills the holding register. DEDUCED, log entry 60. -/
def State.decideEntries (s : State) (q : QueueId) : List (List Byte × BitVec 12 × Nat) → State
  | [] => s.modQueue q fun x => { x with fetched := [] }
  | (e, head, gone) :: t =>
    if s.bp then s.modQueue q fun x => { x with fetched := (e, head, gone) :: t }
    else
      let st := s.validate e
      if st = 0 then (s.presentEntry q e head gone).modQueue q fun x => { x with fetched := t }
      else (s.reject q e head gone st).decideEntries q t

/-- Every queue's fetched entries go on while BP is 0. DEDUCED, log entry 60. -/
def State.decideAll (s : State) : State :=
  s.hif.queues.foldl (fun s x => if x.2.fetched = [] then s else s.decideEntries (BitVec.ofNat 6 x.1) x.2.fetched) s

/-- The ACCEPTED record commits (R495, R771): the command is accepted, and abandoned at once when its queue has been disabled. -/
def State.commitAccepted (s : State) (r : Rec) (c : Cmd) : State :=
  let seq := s.jnl.next
  let s := (((s.modJnl fun j => { j with holding := none, lastEvent := false }).commitRec r).settleEvents)
  let s := (((s.hostTerm 0x11 1).hostTerm 0x13 1).hostTerm 0x15 1).settleQueues
  let d : Cmd := { c with seq := seq, time := s.timeNs }
  let s := s.modHif fun h => { h with cmds := h.cmds ++ [d] }
  let s := if d.gone = 0 then s.schedule else s.abandonCmd d d.gone
  (s.noteBp).decideAll

/-- JOURNAL_COMMIT (R532, R536, R690): nothing commits while the power-fail warning is in force; else a command's record of step 1 goes first; the event FIFO and the holding register take turns. -/
def journalCommit (s : State) : State :=
  let j := s.jnl
  if s.supply.pfw then s
  else match j.cmdRecs, j.fifo, j.holding with
  | r :: rest, _, _ => s.commitCmd r rest
  | [], i :: rest, none => s.commitItem i rest
  | [], [], some (r, c) => s.commitAccepted r c
  | [], i :: rest, some (r, c) => if j.lastEvent then s.commitAccepted r c else s.commitItem i rest
  | [], [], none => s

def execJournalCommit (s : State) : Host.Outcome State Fault Refusal := .next (journalCommit s)

/-! ## Doorbells (R481, R490, R492) -/

/-- Entries of a ring (R479). -/
def Queue.size (x : Queue) : Nat := 2 ^ x.slog2.toNat

/-- A queue in error (R492, R525). -/
def State.queueError (s : State) (q : QueueId) (code : BitVec 3) : State :=
  (s.modQueue q fun x => { x with error := true, ecode := code }).hifEvent evtQerr

/-- SQ_DOORBELL_WRITE (R490, R492, R771). A doorbell of a queue that is not enabled has no effect. -/
def sqDoorbellWrite (q : QueueId) (value : BitVec 64) (s : State) : State :=
  let x := s.queue q
  let v : BitVec 12 := value.extractLsb' 0 12
  if !x.en then s
  else if x.size ≤ v.toNat then s.queueError q 1
  else
    let n := (v.toNat + x.size - x.sqTail.toNat) % x.size
    ((s.modQueue q fun x => { x with sqTail := v }).hostTerm 0x10 n).settleQueues

def execSqDoorbellWrite (q : QueueId) (value : BitVec 64) (s : State) : Host.Outcome State Fault Refusal := .next (sqDoorbellWrite q value s)

/-- CQ_DOORBELL_WRITE (R490, R492). -/
def cqDoorbellWrite (q : QueueId) (value : BitVec 64) (s : State) : State :=
  let x := s.queue q
  let v : BitVec 12 := value.extractLsb' 0 12
  if !x.en then s
  else if x.size ≤ v.toNat then s.queueError q 3
  else s.modQueue q fun x => { x with cqHead := v }

def execCqDoorbellWrite (q : QueueId) (value : BitVec 64) (s : State) : Host.Outcome State Fault Refusal := .next (cqDoorbellWrite q value s)

/-! ## Fetch (R493) -/

/-- INFLIGHT (R479): commands accepted and not yet completed into the ring. -/
def State.inflight (s : State) (q : QueueId) : Nat := (s.hif.cmds.filter fun c => decide (c.queue = q ∧ c.gone = 0)).length

/-- Entries submitted and not fetched. -/
def Queue.waiting (x : Queue) : Nat := (x.sqTail.toNat + x.size - x.sqHead.toNat) % x.size

/-- A queue may be fetched, as far as it is concerned. DEDUCED, log entry 58. -/
def State.fetchable (s : State) (q : QueueId) : Bool :=
  let x := s.queue q
  x.en && !x.error && decide (x.waiting ≠ 0) && decide (s.inflight q < 64)

/-- The queue whose turn it is. -/
def State.fetchTurn (s : State) : Option QueueId :=
  ((List.range 64).map fun i => BitVec.ofNat 6 (s.hif.turn + i)).find? s.fetchable

/-- The entries of one turn, with HEAD after each. -/
def fetchedList (size head : Nat) : List (List Byte) → List (List Byte × BitVec 12 × Nat)
  | [] => []
  | e :: t => (padTo 64 (e.take 64), BitVec.ofNat 12 ((head + 1) % size), 0) :: fetchedList size ((head + 1) % size) t

/-- ENTRY_FETCH (R493, R494, R495): up to 8 entries of the queue whose turn it is, while BP is 0 and the function is in D0. `entries` is what the
read of host memory returned, none when it failed. DEDUCED, log entry 60. -/
def entryFetch (q : QueueId) (entries : Option (List (List Byte))) (s : State) : State :=
  let x := s.queue q
  let n := min (min 8 x.waiting) (64 - s.inflight q)
  if s.hif.linkUp && !s.bp && !s.hif.quiet && decide (s.fetchTurn = some q) then
    let s := s.modHif fun h => { h with turn := (q + 1).toNat }
    match entries with
    | none => s.queueError q 2
    | some l =>
      let got := l.take n
      let s := s.modQueue q fun x => { x with sqHead := BitVec.ofNat 12 ((x.sqHead.toNat + got.length) % x.size) }
      s.decideEntries q (fetchedList x.size x.sqHead.toNat got)
  else s

def execEntryFetch (q : QueueId) (entries : Option (List (List Byte))) (s : State) : Host.Outcome State Fault Refusal :=
  .next (entryFetch q entries s)

/-! ## Completion and interrupts (R488, R489, R497 to R499) -/

/-- The queue's vector is raised, and its count of completions begins again. -/
def State.queueIrq (s : State) (q : QueueId) : State :=
  let v := (s.queue q).vec
  (s.modQueue q fun x => { x with since := 0 }).raiseVector v

/-- A completion with NOIRQ 0 has been written (R499). -/
def State.moderate (s : State) (q : QueueId) : State :=
  let x := s.queue q
  if x.time = 0 ∨ x.count.toNat ≤ x.since + 1 then s.queueIrq q
  else
    let now := s.acy
    s.modQueue q fun x => { x with since := x.since + 1, sinceAt := if x.since = 0 then now else x.sinceAt }

/-- The 32 bytes of a completion entry (R488). -/
def Completion.bytes (c : Completion) (phase : Bool) : List Byte :=
  leBytes 8 c.tag.toNat ++ leBytes 8 c.jseq.toNat ++ leBytes 8 c.result.toNat ++ leBytes 2 c.status.toNat ++ leBytes 2 c.sqHead.toNat
    ++ [c.queue.zeroExtend 8, 0, 0, if phase then 1 else 0]

/-- COMPLETION_WRITE (R488, R489, R497, R499, R522): the queue's oldest completion goes to its ring when the ring has room. -/
def completionWrite (q : QueueId) (s : State) : State :=
  let x := s.queue q
  match s.hif.comps.find? fun c => decide (c.queue = q) with
  | none => s
  | some c =>
    if (x.cqTail.toNat + 1) % x.size = x.cqHead.toNat ∨ s.hif.quiet then s
    else
      let next := (x.cqTail.toNat + 1) % x.size
      let s := s.hostWrite (x.cqBase.toNat * 4096 + 32 * x.cqTail.toNat) (c.bytes x.phase)
      let s := s.modQueue q fun x => { x with cqTail := BitVec.ofNat 12 next, phase := if next = 0 then !x.phase else x.phase }
      let s := s.modHif fun h => { h with comps := h.comps.erase c }
      let s := match c.cmd with | some n => s.dropCmd n | none => s
      if c.noirq then s else s.moderate q

def execCompletionWrite (q : QueueId) (s : State) : Host.Outcome State Fault Refusal := .next (completionWrite q s)

/-- IRQ_DELAY_TIMEOUT (R499): TIME µs have passed since the first completion that has raised no interrupt. -/
def execIrqDelayTimeout (q : QueueId) (s : State) : Host.Outcome State Fault Refusal :=
  .next (if (s.queue q).since ≠ 0 ∧ (s.queue q).time ≠ 0 ∧ !s.hif.quiet then s.queueIrq q else s)

/-! ## Enabling and disabling (R490, R520, R521) -/

/-- QUEUE_ENABLE (R490): EN 0 to 1. -/
def State.enableQueue (s : State) (q : QueueId) : State :=
  if (s.queue q).en then s
  else s.modQueue q fun x =>
    { x with en := true, sqHead := 0, sqTail := 0, cqHead := 0, cqTail := 0, phase := true, since := 0, error := false, ecode := 0 }

def execQueueEnable (q : QueueId) (s : State) : Host.Outcome State Fault Refusal := .next (if s.barsUp then s.enableQueue q else s)

/-- A queue is disabled for a reason of R527 (R520, R771): entries not fetched leave the book, commands that have not started are abandoned, and
later completions are discarded. -/
def State.disableQueue (s : State) (q : QueueId) (reason : Nat) : State :=
  let x := s.queue q
  if !x.en then s
  else
    let mine := s.hif.cmds.filter fun c => decide (c.queue = q)
    let s := s.bumpTerm (0xA002 * 256 + 0x10) (2 ^ 64 - x.waiting)
    let s := s.settleQueues
    let s := s.modQueue q fun x =>
      { x with en := false, error := false, ecode := 0, since := 0, fetched := x.fetched.map fun e => (e.1, e.2.1, reason) }
    let s := s.modJnl fun j =>
      { j with holding := j.holding.map fun h => if h.2.queue = q ∧ h.2.gone = 0 then (h.1, { h.2 with gone := reason }) else h }
    let s := s.modHif fun h =>
      { h with comps := h.comps.filter fun c => !decide (c.queue = q)
               cmds := (h.cmds.filter fun c => !decide (c.queue = q ∧ c.phase = .ended)).map fun c =>
                 if c.queue = q ∧ c.gone = 0 then { c with gone := reason } else c }
    (mine.filter fun c => decide (c.phase = .accepted)).foldl (fun s c => s.abandonCmd c reason) s

/-- QUEUE_DISABLE (R520): a write of EN 0. -/
def execQueueDisable (q : QueueId) (s : State) : Host.Outcome State Fault Refusal := .next (s.disableQueue q 1)

/-- ACTIVE (R479): the queue is enabled or has a started command. -/
def State.queueActive (s : State) (q : QueueId) : Bool := (s.queue q).en || s.hif.cmds.any fun c => decide (c.queue = q) && c.busy

/-- The HIF_ registers other than the journal state and the counts since AON power-on are cleared, and so is the MSI-X table (R521). -/
def Hif.cleared (h : Hif) : Hif :=
  { h with
    evtCfg := 0, evtPend := 0, turn := 0, msix := [], pba := 0, dictReq := 0, dictRsp := 0, comps := []
    queues := (h.queues.filter fun x => decide (x.2.fetched ≠ [])).map fun x => (x.1, { Queue.reset with fetched := x.2.fetched }) }

/-- Every queue is disabled for a reason, and the host interface is cleared (R521). -/
def State.clearHif (s : State) (reason : Nat) : State :=
  let s := (List.range 64).foldl (fun s q => s.disableQueue (BitVec.ofNat 6 q) reason) s
  s.modHif Hif.cleared

/-- The configuration space after a function level reset: Max Payload Size and the Link Control register stay. PRESUMED, log entry 75. -/
def PciCfg.flr (c : PciCfg) : PciCfg :=
  { PciCfg.reset with devCtl := (PciCfg.reset.devCtl &&& ~~~0xE0) ||| (c.devCtl &&& 0xE0), linkCtl := c.linkCtl, aerStatus := c.aerStatus,
                      aerMask := c.aerMask, aerSeverity := c.aerSeverity }

/-- FUNCTION_LEVEL_RESET (R521): a function level reset, a hot reset or a link-down. The function is in D0 after it. -/
def State.functionReset (s : State) : State := (s.clearHif 2).modHif fun h => { h with cfg := h.cfg.flr, d3hot := false }

def execFunctionLevelReset (s : State) : Host.Outcome State Fault Refusal := .next s.functionReset

/-- D3HOT_ENTRY (R522). -/
def State.enterD3 (s : State) : State := s.modHif fun h => { h with d3hot := true }

def execD3hotEntry (s : State) : Host.Outcome State Fault Refusal := .next s.enterD3

/-- Vectors that became pending and are not masked are raised, once messages can go (R499, R522). DESIGN CHOICE, log entry 63. -/
def State.flushPba (s : State) : State :=
  if s.hif.silent then s else
  (List.range 64).foldl (fun s v =>
    let e := look MsixEntry.reset s.hif.msix v
    if s.hif.pba.getLsbD v && !e.ctrl.getLsbD 0 then
      (s.modHif fun h => { h with pba := h.pba &&& ~~~(1#64 <<< v) }).hostWrite e.addr.toNat (leBytes 4 e.data.toNat)
    else s) s

/-- D0_RETURN (R522). -/
def State.returnD0 (s : State) : State := (s.modHif fun h => { h with d3hot := false }).flushPba

def execD0Return (s : State) : Host.Outcome State Fault Refusal := .next s.returnD0

end Sys2Proof.Machine
end

