-- ==== Sys2Proof/Machine/Image.lean ====
section
/-! DEFINITION. Plan images (chapter 21): how their bytes lie, and the eighteen checks of PLAN_LOAD in their order (R869). -/

namespace Sys2Proof.Machine

/-! ## Header, sections and records (R845 to R866) -/

/-- A section table entry (R846). -/
structure Sect where
  ty    : Nat
  crc   : Nat
  off   : Nat
  len   : Nat
  count : Nat
  deriving DecidableEq, Repr

def sectAt (d : List Byte) (i : Nat) : Sect :=
  let a := 64 + 32 * i
  ⟨leAt d a 2, leAt d (a + 4) 4, leAt d (a + 8) 8, leAt d (a + 16) 8, leAt d (a + 24) 4⟩

def imgNsect (d : List Byte) : Nat := leAt d 30 2
def imgTrailer (d : List Byte) : Nat := leAt d 40 8
def imgSigned (d : List Byte) : Bool := decide (leAt d 6 1 % 2 = 1)
def imgK (d : List Byte) : Nat := leAt d 16 1
def imgMhz (d : List Byte) : Nat := 1000 + 125 * leAt d 17 1
def imgPower (d : List Byte) : Nat := leAt d 18 1
def imgTarget (d : List Byte) : Nat := leAt d 19 1
def imgGeom (d : List Byte) (q : Nat) : Nat × Nat := (leAt d (20 + 2 * q) 1, leAt d (21 + 2 * q) 1)
/-- Trace ring of a die, in bytes (R845). -/
def imgTrace (d : List Byte) (e : Nat) : Nat := 65536 * leAt d (48 + 4 * e) 4
/-- Cycles of an epoch. -/
def imgSpan (d : List Byte) : Nat := 2 ^ min 20 (imgK d)

def imgSects (d : List Byte) : List Sect := (List.range (imgNsect d)).map (sectAt d)

def findSect (d : List Byte) (ty : Nat) : Option Sect := (imgSects d).find? fun e => decide (e.ty = ty)

/-- The bytes of a section, none when it is absent. -/
def sectBytes (d : List Byte) (ty : Nat) : List Byte :=
  match findSect d ty with
  | some e => (d.drop e.off).take e.len
  | none => []

def sectCount (d : List Byte) (ty : Nat) : Nat := match findSect d ty with | some e => e.count | none => 0

def hasSect (d : List Byte) (ty : Nat) : Bool := (findSect d ty).isSome

/-- `n` records of `size` bytes from offset `at_` on, those that begin in the section. -/
def records (l : List Byte) (at_ size n : Nat) : List (List Byte) :=
  (List.range (min n (l.length / size + 1))).map fun i => (l.drop (at_ + size * i)).take size

/-- Bytes `lo` to `lo + n - 1` are 0. -/
def zeros (l : List Byte) (lo n : Nat) : Bool := ((l.drop lo).take n).all fun x => decide (x = 0)

/-- Block records (R852). -/
def imgBlocks (d : List Byte) : List (List Byte) := records (sectBytes d 3) 0 256 (sectCount d 3)

def recBlock (r : List Byte) : BlockId := BitVec.ofNat 16 (leAt r 0 2 % firstSpare)
/-- Word `n` bytes long of a record, as a register value. -/
def recReg (r : List Byte) (at_ : Nat) : W64 := BitVec.ofNat 64 (leAt r at_ 8)

def pad8 (n : Nat) : Nat := (n + 7) / 8 * 8

/-- A send entry from its words (R386). -/
def sendOf (w0 w1 : Nat) : SendEntry := { SendEntry.reset.withW0 (BitVec.ofNat 64 w0) with src := BitVec.ofNat 48 w1 }

/-- The parts of a block's area in MSG (R857): send entries with their fan-outs, and receive channels. -/
def recSends (m r : List Byte) : List (SendEntry × Nat) :=
  let o := leAt r 152 4
  let n := leAt r 156 2
  (List.range n).map fun i => (sendOf (leAt m (o + 16 * i) 8) (leAt m (o + 16 * i + 8) 8), leAt m (o + 16 * n + i) 1)

def recChans (m r : List Byte) : List RxChan :=
  let n := leAt r 156 2
  let c := leAt r 152 4 + 16 * n + pad8 n
  (List.range (leAt r 158 1)).map fun i =>
    { (RxChan.reset.withCfg (BitVec.ofNat 64 (leAt m (c + 16 * i + 8) 8))) with base := BitVec.ofNat 48 (leAt m (c + 16 * i) 8) }

/-- A block's area lies in MSG. -/
def msgFits (m r : List Byte) : Bool :=
  let n := leAt r 156 2
  decide (leAt r 152 4 + 16 * n + pad8 n + 16 * leAt r 158 1 ≤ m.length)

/-- Power entries of a block (R858): epoch cycle and mode code. -/
def recPower (p r : List Byte) : List (Nat × Nat) :=
  (List.range (leAt r 164 1)).map fun i => let v := leAt p (leAt r 160 4 + 4 * i) 4; (v % 2 ^ 20, v / 2 ^ 20 % 4)

/-- The run pattern of a quarter (R858). -/
def imgPattern (d : List Byte) (q : Nat) : Nat × Nat := let p := sectBytes d 8; (leAt p (16 * q) 1, leAt p (16 * q + 8) 8)

/-- Offsets of the port records of LINKS (R859). -/
def linkOffsets (l : List Byte) : Nat → Nat → List Nat
  | 0, _ => []
  | n + 1, o => o :: linkOffsets l n (o + 48 + 4 * leAt l (o + 2) 2)

def imgLinks (d : List Byte) : List Nat :=
  linkOffsets (sectBytes d 9) (min (sectCount d 9) ((sectBytes d 9).length / 48 + 1)) 0

/-- Transmit entries of a port record: offset and count. -/
def linkTx (l : List Byte) (o : Nat) : List (Nat × Nat) :=
  (List.range (leAt l (o + 2) 2)).map fun j => let v := leAt l (o + 48 + 4 * j) 4; (v % 2 ^ 20, v / 2 ^ 20 % 8)

/-- Milestone cycles in use. -/
def linkMs (l : List Byte) (o : Nat) : List Nat := (List.range (min 4 (leAt l (o + 1) 1))).map fun m => leAt l (o + 8 + 4 * m) 4

/-- Binding records (R860). -/
def imgBindings (d : List Byte) : List (List Byte) := records (sectBytes d 10) 0 64 (sectCount d 10)

/-- The send list of an intake binding. -/
def recInSends (b r : List Byte) : List InSend :=
  (List.range (leAt r 8 2)).map fun j =>
    let o := leAt r 12 4 + 24 * j
    ⟨sendOf (leAt b o 8) 0, leAt b (o + 8) 8, leAt b (o + 16) 1⟩

/-- Devices of the system map (R850). -/
def mapN (d : List Byte) : Nat := sectCount d 1
def mapUid (d : List Byte) (i : Nat) : W64 := BitVec.ofNat 64 (leAt (sectBytes d 1) (64 + 16 * i) 8)

/-- The neighbour that a topology gives device `x` on each port (R460): port, device, and the port on which that device faces it. -/
def neighbours (topo n c r sx sy x : Nat) : List (Nat × Nat × Nat) :=
  let col := if c = 0 then 0 else x % c
  let row := if c = 0 then 0 else x / c
  let at_ (y z : Nat) : Nat := (y % r) * c + z % c
  let torus := [(0, at_ row (col + 1), 1), (1, at_ row (col + c - 1), 0), (2, at_ (row + 1) col, 3), (3, at_ (row + r - 1) col, 2)]
  match topo with
  | 1 => (if x + 1 < n then [(0, x + 1, 1)] else []) ++ (if 0 < x then [(1, x - 1, 0)] else [])
  | 2 => [(0, (x + 1) % n, 1), (1, (x + n - 1) % n, 0)]
  | 3 => torus
  | 4 => torus ++ [(4, at_ row (col + sx), 5), (5, at_ row (col + c - sx), 4), (6, at_ (row + sy) col, 7), (7, at_ (row + r - sy) col, 6)]
  | _ => []

/-- What the system map gives the target device. -/
def imgPorts (d : List Byte) : List (Nat × Nat × Nat) :=
  let m := sectBytes d 1
  neighbours (leAt m 0 1) (leAt m 1 1) (leAt m 3 1) (leAt m 2 1) (leAt m 4 1) (leAt m 5 1) (imgTarget d)

/-! ## Checks 1 to 6 -/

def check1 (len : Nat) (d : List Byte) : Bool :=
  decide (128 ≤ len) && decide (d.take 4 = [0x4D, 0x44, 0x50, 0x4C]) && decide (leAt d 8 8 = len)

def State.check2 (s : State) (d : List Byte) : Bool :=
  decide (s.bundle.planAbiMin.toNat ≤ leAt d 4 2) && decide (leAt d 4 2 ≤ s.bundle.planAbi.toNat)

/-- The digest that the trailer must hold. -/
def imgSha (d : List Byte) : List Byte := sha256 (d.take (imgTrailer d))

def check3 (d : List Byte) : Bool :=
  decide (leAt d 8 8 = imgTrailer d + if imgSigned d then 96 else 32) && decide ((d.drop (imgTrailer d)).take 32 = imgSha d)

/-- The image uses World B (R867). -/
def usesWorldB (d : List Byte) : Bool :=
  let m := sectBytes d 7
  let b := sectBytes d 10
  (imgBlocks d).any (fun r =>
    (recReg r 56).getLsbD 0 || (recReg r 72).getLsbD 0 || decide (leAt r 16 1 / 16 % 8 = 3) || decide (leAt r 16 1 / 16 % 8 = 4)
      || (recSends m r).any (fun e => e.1.world) || (recChans m r).any fun c => c.world)
  || (imgBindings d).any fun r => decide (leAt r 1 1 = 0) && (recInSends b r).any fun e => e.entry.world

/-- The message that a plan signature signs (R848). -/
def planMessage (d : List Byte) : List Byte := [0x4D, 0x44, 0x36, 0x50] ++ imgSha d

def State.check4 (s : State) (reqSig : Bool) (d : List Byte) : Bool :=
  if imgSigned d then s.keys.any fun k => Config.ed25519 k.2 (planMessage d) ((d.drop (imgTrailer d + 32)).take 64)
  else !(reqSig || (decide (s.keys ≠ []) && usesWorldB d))

/-- Sections in their places (R846, R847): ascending, apart, and nothing but zeros between. -/
def sectsLie (d : List Byte) (stop : Nat) : Nat → List Sect → Bool
  | pos, [] => zeros d pos (stop - pos)
  | pos, e :: t =>
    decide (e.off % 64 = 0 ∧ 1 ≤ e.len ∧ pos ≤ e.off ∧ e.off + e.len ≤ stop) && zeros d pos (e.off - pos) && sectsLie d stop (e.off + e.len) t

/-- The Present and COUNT columns of R849. DEDUCED, log entry 38. -/
def sectsPresent (d : List Byte) : Bool :=
  let l := imgSects d
  let has := hasSect d
  l.all (fun e => decide (1 ≤ e.ty ∧ e.ty ≤ 13)) && decide (l.map Sect.ty).Nodup
    && has 1 && has 3 && has 4 && has 6 && has 7 && has 8
    && [4, 5, 6, 7, 8].all (fun t => decide (sectCount d t = 0)) && (!has 2 || decide (sectCount d 2 = 128))
    && (decide (mapN d ≤ 1) || has 2) && (imgPorts d == [] || has 9) && (!(has 9 || has 10) || has 11)

def check5 (d : List Byte) : Bool :=
  let n := imgNsect d
  decide (leAt d 32 8 = 64) && decide (6 ≤ n ∧ n ≤ 13) && decide (64 + 32 * n ≤ imgTrailer d)
    && sectsLie d (imgTrailer d) (64 + 32 * n) (imgSects d) && sectsPresent d

def check6 (d : List Byte) : Bool := (imgSects d).all fun e => decide ((crc32c ((d.drop e.off).take e.len)).toNat = e.crc)

/-! ## Check 7: reserved fields and bits -/

/-- Register fields of a block record with the bits that some field of the register holds. -/
def recFields : List (Nat × W64) :=
  let bound : W64 := 0x0000FFFC00FFFC01
  let split : W64 := 0x3FFFFFFC00FFFC01
  [(8, 0xFFFFFFFFFFFC), (16, 0x77), (24, delegable), (32, delegable), (40, delegable), (48, bound), (56, bound), (64, split), (72, split),
   (80, bound), (88, 0xFFFFFFFFFE00), (96, 0xFFFFFFFFFE00), (104, 0xFFFFFFFFFE01), (112, 0xFFFFFFFFFE01), (120, clkEnRw ||| 1)]

def recReserved (d r : List Byte) : Bool :=
  let data := sectBytes d 5
  let sig := sectBytes d 6
  let m := sectBytes d 7
  let p := sectBytes d 8
  let n := leAt r 156 2
  let o := leAt r 152 4
  let c := o + 16 * n + pad8 n
  zeros r 2 2 && zeros r 150 2 && zeros r 159 1 && zeros r 165 91
    && recFields.all (fun f => decide (recReg r f.1 &&& ~~~f.2 = 0))
    && (records data (leAt r 136 4) 32 (leAt r 140 4)).all (fun x => zeros x 13 3 && zeros x 24 8)
    && (List.range (leAt r 148 2)).all (fun i => decide (leAt sig (leAt r 144 4 + 8 * i) 8 < 2 ^ 15))
    && (List.range n).all (fun i => decide (leAt m (o + 16 * i) 8 < 2 ^ 58 ∧ leAt m (o + 16 * i + 8) 8 < 2 ^ 48))
    && zeros m (o + 17 * n) (pad8 n - n)
    && (List.range (leAt r 158 1)).all (fun i => decide (leAt m (c + 16 * i) 8 < 2 ^ 48 ∧ leAt m (c + 16 * i + 8) 8 < 2 ^ 35))
    && (List.range (leAt r 164 1)).all fun i => decide (leAt p (leAt r 160 4 + 4 * i) 4 < 2 ^ 22)

def linkReserved (l : List Byte) (o : Nat) : Bool :=
  zeros l (o + 28) 4 && (List.range 4).all (fun m => decide (leAt l (o + 8 + 4 * m) 4 < 2 ^ 20))
    && (List.range (leAt l (o + 2) 2)).all fun j => decide (leAt l (o + 48 + 4 * j) 4 < 2 ^ 23)

def bindingReserved (b r : List Byte) : Bool :=
  zeros r 11 1 && zeros r 16 48 &&
    if leAt r 1 1 = 0 then
      zeros r 10 1 && (List.range (leAt r 8 2)).all fun j =>
        let o := leAt r 12 4 + 24 * j
        decide (leAt b o 8 < 2 ^ 58) && zeros b (o + 17) 7
    else zeros r 12 4

/-- DEDUCED, log entry 38. -/
def check7 (d : List Byte) : Bool :=
  let map := sectBytes d 1
  let l := sectBytes d 9
  let b := sectBytes d 10
  decide (leAt d 6 1 < 2) && zeros d 7 1 && zeros d 29 1 && zeros d 56 8
    && (List.range (imgNsect d)).all (fun i => zeros d (64 + 32 * i + 2) 2 && zeros d (64 + 32 * i + 28) 4)
    && zeros map 8 56 && (records map 64 16 (mapN d)).all (fun x => zeros x 9 7)
    && (imgBlocks d).all (recReserved d)
    && (records (sectBytes d 8) 0 16 4).all (fun x => zeros x 1 7)
    && (imgLinks d).all (linkReserved l) && (imgBindings d).all (bindingReserved b)
    && (records (sectBytes d 11) 0 12 (sectCount d 11)).all (fun x => zeros x 1 1 && zeros x 6 2)
    && (records (sectBytes d 12) 0 8 (sectCount d 12)).all (fun x => zeros x 2 6)
    && (records (sectBytes d 13) 0 8 (sectCount d 13)).all fun x => decide (leAt x 4 4 / 2 ^ 20 % 2 ^ 11 = 0)

/-! ## Checks 8 to 13 -/

def geomOk (g : Nat × Nat) : Bool :=
  decide ((g.1 = 0 ↔ g.2 = 0) ∧ g.1 % 8 = 0 ∧ g.2 % 8 = 0 ∧ g.1 ≤ 64 ∧ g.2 ≤ 64)

def check8 (d : List Byte) : Bool :=
  decide (10 ≤ imgK d ∧ imgK d ≤ 20) && decide (leAt d 17 1 ≤ 2) && decide (1 ≤ imgPower d ∧ imgPower d ≤ 4) && decide (imgTarget d ≤ 127)
    && [0, 1, 2, 3].all (fun q => geomOk (imgGeom d q)) && decide (1 ≤ leAt d 28 1) && decide (imgTrailer d % 64 = 0)
    && decide (leAt d 48 4 ≤ 128) && decide (leAt d 52 4 ≤ 128)

/-- The topology's own numbers (R460, R850). -/
def topologyOk (m : List Byte) : Bool :=
  let n := leAt m 1 1
  let r := leAt m 2 1
  let c := leAt m 3 1
  let sx := leAt m 4 1
  let sy := leAt m 5 1
  let torus := decide (2 ≤ r ∧ r ≤ 8 ∧ 2 ≤ c ∧ c ≤ 16 ∧ r * c = n)
  let flat := decide (r = 0 ∧ c = 0 ∧ sx = 0 ∧ sy = 0)
  match leAt m 0 1 with
  | 0 => flat && decide (n = 1)
  | 1 => flat && decide (2 ≤ n)
  | 2 => flat && decide (3 ≤ n)
  | 3 => torus && decide (sx = 0 ∧ sy = 0)
  | 4 => torus && decide (2 ≤ sx ∧ sx ≤ c / 2 ∧ 2 ≤ sy ∧ sy ≤ r / 2)
  | _ => false

/-- ROUTES (R851). -/
def routesOk (d : List Byte) : Bool :=
  let l := sectBytes d 2
  decide (l.length = 128) && (List.range 128).all fun x =>
    let v := leAt l x 1
    if x = imgTarget d then decide (v = 0xFE)
    else if mapN d ≤ x then decide (v = 0xFF)
    else decide (v = 0xFF) || (imgPorts d).any fun p => decide (p.1 = v)

def check9 (d : List Byte) : Bool :=
  let m := sectBytes d 1
  let n := mapN d
  decide (m.length = 64 + 16 * n) && decide (leAt m 1 1 = n ∧ n ≤ 128) && topologyOk m
    && decide (leAt m 6 1 = imgK d ∧ leAt m 7 1 = leAt d 17 1 ∧ imgTarget d < n)
    && (List.range n).all (fun i => decide (leAt m (64 + 16 * i + 8) 1 = i)) && decide ((List.range n).map (mapUid d)).Nodup
    && (!hasSect d 2 || routesOk d)

/-- The grids that the plan uses are offered (R39, R869 check 10). -/
def State.gridOk (s : State) (d : List Byte) : Bool :=
  [0, 1, 2, 3].all fun q => decide ((imgGeom d q).1 ≤ (s.placeOf q).w ∧ (imgGeom d q).2 ≤ (s.placeOf q).h) || decide ((imgGeom d q).1 = 0)

/-- A block record's own ranges (R852). -/
def recOk (d r : List Byte) : Bool :=
  let id := leAt r 0 2
  let g := imgGeom d (id / 4096)
  decide (id < 16384) && decide (id % 64 < g.1 ∧ id / 64 % 64 < g.2) && decide (leAt r 16 1 / 16 % 8 ≤ 4)
    && !(recReg r 104).getLsbD 0 && !(recReg r 112).getLsbD 0
    && decide (leAt r 140 4 ≠ 0 ∨ leAt r 136 4 = 0) && decide (leAt r 148 2 ≤ 1024) && decide (leAt r 156 2 ≤ 512)
    && decide (leAt r 158 1 ≤ 128) && decide (leAt r 164 1 ≤ 16)

/-- Strictly ascending. -/
def ascending : List Nat → Bool
  | [] => true
  | [_] => true
  | a :: b :: t => decide (a < b) && ascending (b :: t)

/-- DEDUCED, log entry 38. -/
def State.check10 (s : State) (d : List Byte) : Bool :=
  s.gridOk d && decide (imgPower d ≤ Config.orderedClass) && decide ((sectBytes d 3).length = 256 * sectCount d 3)
    && ascending ((imgBlocks d).map fun r => leAt r 0 2) && (imgBlocks d).all (recOk d)

def check11 (d : List Byte) : Bool :=
  let code := sectBytes d 4
  (imgBlocks d).all fun r =>
    let n := leAt r 132 4
    let entry := leAt r 8 8
    decide (n % 4 = 0 ∧ 4 ≤ n ∧ n ≤ 31744 ∧ leAt r 128 4 + n ≤ code.length) && decide (0x10000 ≤ entry ∧ entry < 0x17C00)

/-- Data records of a block (R855). -/
def recData (d r : List Byte) : List (List Byte) := records (sectBytes d 5) (leAt r 136 4) 32 (leAt r 140 4)

/-- No two of the ranges meet. -/
def apart (l : List (Nat × Nat)) : Bool := decide (l.Pairwise fun a b => a.1 + a.2 ≤ b.1 ∨ b.1 + b.2 ≤ a.1)

def dataOk (data x : List Byte) : Bool :=
  let a := leAt x 0 8
  let n := leAt x 8 4
  decide (a % 8 = 0 ∧ n % 8 = 0 ∧ 8 ≤ n ∧ leAt x 12 1 ≤ 1) && inLs a n && (decide (leAt x 12 1 = 1) || decide (leAt x 16 8 + n ≤ data.length))

def check12 (d : List Byte) : Bool :=
  let data := sectBytes d 5
  (imgBlocks d).all fun r =>
    decide (leAt r 136 4 + 32 * leAt r 140 4 ≤ data.length) && (recData d r).all (dataOk data)
      && apart ((recData d r).map fun x => (leAt x 0 8, leAt x 8 4))

/-- A phase with no reserved SRC field (R384). -/
def slotOk (v : Nat) : Bool := (List.range 5).all fun i => let c := v / 8 ^ i % 8; decide (c < 6 ∧ c ≠ i + 1)

def check13 (d : List Byte) : Bool :=
  let sig := sectBytes d 6
  (imgBlocks d).all fun r =>
    decide (leAt r 144 4 + 8 * leAt r 148 2 ≤ sig.length)
      && (List.range (leAt r 148 2)).all fun i => slotOk (leAt sig (leAt r 144 4 + 8 * i) 8)

/-! ## Check 14: messages -/

/-- The send rules of R396 and R66 over a list of send entries with their fan-outs, in order: `free` is the first cycle at which the local input
is free again. -/
def sendsOk (span : Nat) : Nat → List (SendEntry × Nat) → Bool
  | _, [] => true
  | free, (e, fan) :: t =>
    let sc := e.scycle.toNat
    decide (128 ≤ sc ∧ free ≤ sc ∧ sc < span) && decide (128 ≤ e.rcycle.toNat ∧ e.rcycle.toNat < span) && decide (1 ≤ fan ∧ fan ≤ 8)
      && sendsOk span (sc + e.nfm1.toNat + 1 + boolBit e.guard) t

/-- The ring of a channel lies in local store, in the shared region or in the region of its world (R405). DEDUCED, log entry 38. -/
def chanOk (r : List Byte) (c : RxChan) : Bool :=
  let a := c.base.toNat
  let n := c.slots.toNat * (c.sfm1.toNat + 1) * 32
  let shared := Bound.ofWord (recReg r 80) false
  let own := Bound.ofWord (recReg r (if c.world then 72 else 64)) true
  let lies (b : Bound) : Bool := b.holds a && b.holds (a + n - 1)
  !c.en || (decide (1 ≤ c.slots.toNat) && decide (a % 32 = 0) && inLs a n && (lies shared || lies own))

/-- Of the distinct cycles of R402 the send cycles are checked: in which block a release falls only the routes tell, and no route is checked (R870).
DEDUCED, log entry 38. -/
def check14 (d : List Byte) : Bool :=
  let m := sectBytes d 7
  (imgBlocks d).all fun r =>
    msgFits m r && sendsOk (imgSpan d) 0 (recSends m r)
      && (recSends m r).all (fun e => decide (e.1.src.toNat % 32 = 0) && inLs e.1.src.toNat (32 * (e.1.nfm1.toNat + 1)))
      && (recChans m r).all (chanOk r)

/-! ## Check 15: the power plan (R645, R655, R750) -/

/-- A block's mode as the power plan traces it: WAKING counts as RUN, with the cycle at which its wake ends, 0 for none. -/
structure PMode where
  mode : Mode
  wake : Nat
  deriving DecidableEq, Repr

/-- An entry applies. -/
def PMode.enter (x : PMode) (mhz c : Nat) (m : Mode) : PMode :=
  if m = .run then (if x.mode = .run then x else ⟨.run, c + wakeFcy x.mode mhz⟩) else ⟨m, 0⟩

/-- The mode at epoch cycle 0 (R642), after an epoch in which the quarter ran or did not. -/
def PMode.next (x : PMode) (mhz span : Nat) (ents : List (Nat × Mode)) (ran : Bool) : PMode :=
  if ran then (⟨x.mode, x.wake - span⟩ : PMode).enter mhz 0 (match ents.getLast? with | some e => e.2 | none => .deep)
  else ⟨.deep, 0⟩

/-- The changes of an epoch, as cycles and the state from then on, newest first (R642, R68). -/
def epochSegs (mhz : Nat) (x : PMode) (ents : List (Nat × Mode)) (run : Bool) : List (Nat × PMode) :=
  let go (l : List (Nat × PMode)) (e : Nat × Mode) : List (Nat × PMode) :=
    match l with
    | [] => l
    | (_, y) :: _ => (e.1, y.enter mhz e.1 e.2) :: l
  let segs := (ents.filter fun e => run || decide (e.1 < 128)).foldl go [(0, x)]
  match segs with
  | (_, y) :: _ => if run ∨ y.mode ≠ .run then segs else (max 128 y.wake, ⟨.sleep, 0⟩) :: segs
  | [] => segs

/-- The state at the end of an epoch: a wake that ends beyond it goes on. -/
def segsEnd (span : Nat) : List (Nat × PMode) → PMode
  | [] => ⟨.deep, 0⟩
  | (c, y) :: t => if c < span then y else segsEnd span t

/-- The state at a cycle. -/
def segAt (c : Nat) : List (Nat × PMode) → PMode
  | [] => ⟨.deep, 0⟩
  | (a, y) :: t => if a ≤ c then y else segAt c t

/-- The pattern has a running epoch at index `i`. -/
def patRuns (p : Nat × Nat) (i : Nat) : Bool := p.2.testBit (i % p.1)

/-- The changes of epoch `i` of a pattern after the outcomes `hist` of the epochs before it, newest first; before those the block is taken in DEEP. -/
def segsOf (mhz span : Nat) (ents : List (Nat × Mode)) (p : Nat × Nat) (run : Bool) : List Bool → Nat → List (Nat × PMode)
  | [], _ => epochSegs mhz ⟨.deep, 0⟩ ents run
  | h :: t, i =>
    let before := i + p.1 - 1
    let x := segsEnd span (segsOf mhz span ents p h t before)
    epochSegs mhz (x.next mhz span ents (patRuns p before)) ents run

/-- Histories of three epochs. -/
def histories : List (List Bool) :=
  [[true, true, true], [true, true, false], [true, false, true], [true, false, false], [false, true, true], [false, true, false],
   [false, false, true], [false, false, false], []]

/-- No entry falls before the wake that an earlier entry began has completed, through `n` epochs that run in a row (R645). -/
def wakesOk (mhz span : Nat) (ents : List (Nat × Mode)) : Nat → PMode → Bool
  | 0, _ => true
  | n + 1, x =>
    let go (a : Bool × PMode) (e : Nat × Mode) : Bool × PMode := (a.1 && decide (a.2.wake ≤ e.1), a.2.enter mhz e.1 e.2)
    let r := ents.foldl go (true, x)
    r.1 && wakesOk mhz span ents n (r.2.next mhz span ents true)

/-- The power entries of a block as modes. -/
def recModes (d r : List Byte) : List (Nat × Mode) := (recPower (sectBytes d 8) r).map fun e => (e.1, Mode.ofCode (BitVec.ofNat 2 e.2))

/-- Two epochs of a pattern run in a row. -/
def patRow (p : Nat × Nat) : Bool := (List.range p.1).any fun i => patRuns p i && patRuns p (i + 1)

/-- Sweep windows (R866): block, segments, start cycle and REGS. -/
def imgSweeps (d : List Byte) : List SweepWin :=
  (records (sectBytes d 13) 0 8 (sectCount d 13)).map fun x =>
    ⟨BitVec.ofNat 16 (leAt x 0 2 % firstSpare), leAt x 2 2, leAt x 4 4 % 2 ^ 20, decide (2 ^ 31 ≤ leAt x 4 4)⟩

/-- A window stands in SLEEP throughout a trace of an epoch. -/
def windowOk (w : SweepWin) (segs : List (Nat × PMode)) : Bool :=
  decide ((segAt w.start segs).mode = .sleep)
    && segs.all fun x => !(decide (w.start < x.1) && decide (x.1 < w.start + 64 * w.segs)) || decide (x.2.mode = .sleep)

/-- Tokens of a block in a mode with its CLK_EN (R653). -/
def modeTokens (en : W64) (m : Mode) : Nat := ({ Clk.reset with en := en, mode := m } : Clk).tokens

/-- A quarter's PLL in cycle `c` of epoch `i` of its pattern (R647, R648): tokens count from its start, blocks from its release. The end of the
last running epoch and the start of the next are found within one period. -/
def pllAt (mhz span : Nat) (p : Nat × Nat) (i c : Nat) : Bool × Bool :=
  if patRuns p i then (true, true)
  else match (List.range' 1 64).find? (fun n => patRuns p (i + n)), (List.range' 1 64).find? (fun n => patRuns p (i + 64 * p.1 - n)) with
    | some j, some h =>
      let gap := (j + h - 1) * span
      let left := j * span - c
      if gap < 15 * mhz then (true, true) else (decide (left ≤ 14 * mhz), decide (left ≤ 2 * mhz))
    | _, _ => (true, true)

/-- A block in the token count: quarter, CLK_EN, power entries and sweep windows. -/
structure PBlock where
  q    : Nat
  en   : W64
  ents : List (Nat × Mode)
  wins : List SweepWin
  deriving DecidableEq, Repr

def imgPBlocks (d : List Byte) : List PBlock :=
  (imgBlocks d).map fun r =>
    ⟨quarterOf (recBlock r), recReg r 120, recModes d r, (imgSweeps d).filter fun w => decide (w.block = recBlock r)⟩

/-- Tokens of a quarter in cycle `c` of epoch `i` (R655): listed blocks by their plan, 35 in a sweep window of a running epoch, every other
logical block offered at 3. -/
def State.planTokens (s : State) (d : List Byte) (bs : List PBlock) (i c q : Nat) (run : Bool) (hist : List Bool) : Nat :=
  let p := imgPattern d q
  let mhz := imgMhz d
  let mine := bs.filter fun b => decide (b.q = q)
  let on := pllAt mhz (imgSpan d) p i c
  let one (b : PBlock) : Nat :=
    if patRuns p i then
      if run ∧ b.wins.any fun w => decide (w.start ≤ c ∧ c < w.start + 64 * w.segs) then 35
      else modeTokens b.en (segAt c (segsOf mhz (imgSpan d) b.ents p run hist i)).mode
    else modeTokens b.en .deep
  if (imgGeom d q).1 = 0 then 0
  else (if on.1 then 4000 else 0)
    + if on.2 then (mine.map one).sum + 3 * ((s.placeOf q).w * (s.placeOf q).h - mine.length) else 0

/-- Cycles of epoch `i` at which some quarter's count may change. -/
def changeCycles (d : List Byte) (bs : List PBlock) (i : Nat) (run : Bool) (hist : List Bool) : List Nat :=
  let span := imgSpan d
  let mhz := imgMhz d
  let l := bs.flatMap fun b =>
    (segsOf mhz span b.ents (imgPattern d b.q) run hist i).map Prod.fst ++ b.wins.flatMap fun w => [w.start, w.start + 64 * w.segs]
  let plls := (List.range' 1 64).flatMap fun n => [n * span - 14 * mhz, n * span - 2 * mhz]
  ((0 :: l ++ plls).filter fun c => decide (c < span)).eraseDups

/-- The peak over every epoch of the patterns, running and as a bubble, after every history. -/
def State.planPeak (s : State) (d : List Byte) : Nat :=
  let bs := imgPBlocks d
  let period := [0, 1, 2, 3].foldl (fun n q => Nat.lcm n (imgPattern d q).1) 1
  let at_ (i : Nat) (run : Bool) (hist : List Bool) : Nat :=
    (changeCycles d bs i run hist).foldl (fun m c => max m (([0, 1, 2, 3].map fun q => s.planTokens d bs i c q run hist).sum)) 0
  (List.range period).foldl (fun m i =>
    [true, false].foldl (fun m run => histories.foldl (fun m h => max m (at_ i run h)) m) m) 0

/-- A quarter record (R858). -/
def patternOk (d : List Byte) (q : Nat) : Bool :=
  let p := imgPattern d q
  decide (1 ≤ p.1 ∧ p.1 ≤ 64 ∧ p.2 < 2 ^ p.1) && (decide ((imgGeom d q).1 ≠ 0) || decide (p = (1, 0)))

/-- A block's power entries, and sends and channels only where its quarter runs (R645). -/
def powerOk (d r : List Byte) : Bool :=
  let p := sectBytes d 8
  let m := sectBytes d 7
  let pat := imgPattern d (quarterOf (recBlock r))
  let n := leAt r 164 1
  decide (n = 0 ∨ (64 ≤ leAt r 160 4 ∧ leAt r 160 4 + 4 * n ≤ p.length)) && ascending ((recPower p r).map Prod.fst)
    && (recPower p r).all (fun e => decide (e.1 < imgSpan d ∧ e.2 ≠ 3))
    && wakesOk (imgMhz d) (imgSpan d) (recModes d r) (if patRow pat then 4 else 1) ⟨.deep, 0⟩
    && (decide (pat.2 ≠ 0) || ((recSends m r).isEmpty && (recChans m r).all fun c => !c.en))

/-- A sweep window (R750, R866). -/
def sweepOk (d : List Byte) (w : SweepWin) : Bool :=
  match (imgBlocks d).find? fun r => decide (recBlock r = w.block) with
  | none => false
  | some r =>
    let pat := imgPattern d (quarterOf w.block)
    decide (1 ≤ w.segs ∧ w.segs ≤ 1024 ∧ 128 ≤ w.start ∧ w.start + 64 * w.segs ≤ imgSpan d) && (recReg r 120).getLsbD 16
      && (List.range pat.1).all fun i => !patRuns pat i
        || histories.all fun h => windowOk w (segsOf (imgMhz d) (imgSpan d) (recModes d r) pat true h i)

/-- DEDUCED, log entry 38. -/
def State.check15 (s : State) (d : List Byte) : Bool :=
  decide (64 ≤ (sectBytes d 8).length) && [0, 1, 2, 3].all (patternOk d) && (imgBlocks d).all (powerOk d)
    && decide (sectCount d 13 ≤ 16384) && decide ((sectBytes d 13).length = 8 * sectCount d 13) && (imgSweeps d).all (sweepOk d)
    && decide (s.planPeak d ≤ budget (imgPower d))

/-! ## Checks 16 to 18 -/

/-- Every two of the cycles lie at least 2 apart (R443). -/
def twoApart (l : List Nat) : Bool := decide (l.Pairwise fun a b => a + 2 ≤ b ∨ b + 2 ≤ a)

/-- Cycles of an epoch in which a port has a transmit entry. -/
def txCycles (span period : Nat) (tx : List (Nat × Nat)) : List Nat :=
  ((List.range ((span - 128) / period + 1)).flatMap fun i => tx.map fun e => 128 + i * period + e.1).filter fun c => decide (c < span)

def linkOk (d l : List Byte) (o : Nat) : Bool :=
  let span := imgSpan d
  let nms := leAt l (o + 1) 1
  let period := leAt l (o + 4) 4
  let tx := linkTx l o
  decide (o + 48 + 4 * leAt l (o + 2) 2 ≤ l.length) && (imgPorts d).any (fun p => decide (p.1 = leAt l o 1))
    && decide (nms ≤ 4 ∧ leAt l (o + 2) 2 ≤ 1024 ∧ 2 ≤ period ∧ period ≤ span - 128)
    && (List.range 4).all (fun m => let c := leAt l (o + 8 + 4 * m) 4; if m < nms then decide (64 ≤ c ∧ c < span) else decide (c = 0))
    && tx.all (fun e => decide (e.1 < period ∧ 1 ≤ e.2 ∧ e.2 ≤ 6)) && twoApart (txCycles span period tx ++ linkMs l o)

def check16 (d : List Byte) : Bool :=
  let l := sectBytes d 9
  (imgLinks d).all (linkOk d l) && decide ((imgLinks d).map fun o => leAt l o 1).Nodup
    && decide (l.length = ((imgLinks d).map fun o => 48 + 4 * leAt l (o + 2) 2).sum)

/-- A binding record (R506, R860, R861). -/
def bindingOk (d b r : List Byte) : Bool :=
  let size := leAt r 4 4
  let n := leAt r 8 2
  let sends := recInSends b r
  decide (leAt r 0 1 ≤ 63 ∧ leAt r 1 1 ≤ 1 ∧ leAt r 2 1 ≤ 1 ∧ 2 ≤ leAt r 3 1 ∧ leAt r 3 1 ≤ 64)
    && decide (size % 64 = 0 ∧ 64 ≤ size ∧ size ≤ 2 ^ 24)
    && if leAt r 1 1 = 0 then
        decide (1 ≤ n ∧ n ≤ 512 ∧ 64 * sectCount d 10 ≤ leAt r 12 4 ∧ leAt r 12 4 + 24 * n ≤ b.length)
          && sendsOk (imgSpan d) 0 (sends.map fun e => (e.entry, e.fan))
          && sends.all fun e => decide (e.off % 32 = 0 ∧ e.off + 32 * (e.entry.nfm1.toNat + 1) ≤ size)
      else decide (1 ≤ n ∧ leAt r 10 1 ≤ 1 ∧ 256 * n ≤ size)

/-- Bytes of a die's edge SRAM that the plan's slots take. -/
def slotBytes (d : List Byte) (e : Nat) : Nat :=
  (((imgBindings d).filter fun r => decide (leAt r 2 1 = e)).map fun r => leAt r 3 1 * leAt r 4 4).sum

/-- R862, against E1's state now in force. -/
def State.edgeFits (s : State) (d : List Byte) : Bool :=
  [0, 1].all (fun e => decide (imgTrace d e + slotBytes d e ≤ 60 * 2 ^ 20))
    && (decide (look 0 s.dies 1 = 0) || (decide (imgTrace d 1 = 0) && decide (slotBytes d 1 = 0)))

/-- Endpoints that R863 allows as an input and as an output. -/
def edgeInput (e : Nat) : Bool := decide (e < 208)
def edgeOutput (e : Nat) : Bool := decide (e < 144 ∨ (208 ≤ e ∧ e < 272))

/-- An output record of EDGE (R864): its slot array. DEDUCED, log entry 37. -/
def edgeSlots (l r : List Byte) : List Nat := (List.range (leAt r 4 2)).map fun i => leAt l (leAt r 8 4 + 2 * i) 2

def edgeOk (n : Nat) (l r : List Byte) : Bool :=
  let out := leAt r 2 2
  decide (leAt r 0 1 ≤ 1) && edgeOutput out && decide (1 ≤ leAt r 4 2 ∧ leAt r 4 2 ≤ 1024 ∧ 12 * n ≤ leAt r 8 4)
    && decide (leAt r 8 4 + 2 * leAt r 4 2 ≤ l.length)
    && (edgeSlots l r).all fun v => decide (v = 0xFFFF) || (edgeInput v && decide (v ≠ out))

def imgEdges (d : List Byte) : List (List Byte) := records (sectBytes d 11) 0 12 (sectCount d 11)

def State.check17 (s : State) (d : List Byte) : Bool :=
  let b := sectBytes d 10
  let l := sectBytes d 11
  decide (64 * sectCount d 10 ≤ b.length) && (imgBindings d).all (bindingOk d b)
    && decide ((imgBindings d).map fun r => (leAt r 1 1, leAt r 0 1)).Nodup && s.edgeFits d
    && decide (12 * sectCount d 11 ≤ l.length) && (imgEdges d).all (edgeOk (sectCount d 11) l)
    && decide ((imgEdges d).map fun r => (leAt r 0 1, leAt r 2 2)).Nodup

/-- Upstream inputs (R865): origin and lag. -/
def imgUpstream (d : List Byte) : List (Nat × Nat) := (records (sectBytes d 12) 0 8 (sectCount d 12)).map fun x => (leAt x 0 1, leAt x 1 1)

def check18 (d : List Byte) : Bool :=
  decide (sectCount d 12 ≤ 127) && decide ((sectBytes d 12).length = 8 * sectCount d 12)
    && (imgUpstream d).all (fun u => decide (u.1 ≠ imgTarget d ∧ u.1 < mapN d ∧ 1 ≤ u.2 ∧ u.2 ≤ 63))
    && decide ((imgUpstream d).map Prod.fst).Nodup

/-- The STATUS of the first failing check of R869, 0 when all pass; `len` is LEN of the command. -/
def State.imageStatus (s : State) (len : Nat) (reqSig : Bool) (d : List Byte) : BitVec 16 :=
  if !check1 len d then 0x100
  else if !s.check2 d then 0x101
  else if !check3 d then 0x102
  else if !s.check4 reqSig d then 0x103
  else if !check5 d then 0x104
  else if !check6 d then 0x105
  else if !check7 d then 0x106
  else if !check8 d then 0x107
  else if !check9 d then 0x108
  else if !s.check10 d then 0x109
  else if !check11 d then 0x10A
  else if !check12 d then 0x10B
  else if !check13 d then 0x10C
  else if !check14 d then 0x10D
  else if !s.check15 d then 0x10E
  else if !check16 d then 0x10F
  else if !s.check17 d then 0x110
  else if !check18 d then 0x111
  else 0

end Sys2Proof.Machine
end

