-- ==== Sys2Proof/Machine/Repair.lean ====
section
/-! DEFINITION. The repair map (R738 to R746): which physical blocks work, where a quarter's logical grid lies, and the application that retires the
candidates. -/

namespace Sys2Proof.Machine

/-- The entries of the repair log, factory entries first. -/
def State.repairLog (s : State) : List RepairEntry := Config.factoryRepair.map factoryEntry ++ s.repair

/-- A physical block is working. -/
def State.works (s : State) (q px py : Nat) : Bool := !(s.repairLog.any fun e => e.names q px py)

/-- Physical rows and columns of a quarter. -/
def gridPos : List Nat := List.range 66

def State.badInRow (s : State) (q py : Nat) : Nat := (gridPos.filter fun px => !s.works q px py).length

/-- At most 2 of the 66 blocks of a row do not work (R741). -/
def State.fullUsable (s : State) (q py : Nat) : Bool := decide (s.badInRow q py ≤ 2)

/-- Position 0 goes when more than 64 remain, then position 65 when more than 64 still remain (R741). -/
def dropEdges (l : List Nat) : List Nat :=
  let l := if 64 < l.length then l.filter fun p => decide (p ≠ 0) else l
  if 64 < l.length then l.filter fun p => decide (p ≠ 65) else l

/-- The placement at full size. -/
def State.fullPlace (s : State) (q : Nat) : Place :=
  let rows := dropEdges (gridPos.filter (s.fullUsable q))
  ⟨64, 64, rows, rows.map fun py => dropEdges (gridPos.filter fun px => s.works q px py)⟩

/-! ## Degraded quarters (R743) -/

/-- The lowest chain of `n` gridPos among those that `ok` admits: `lo` is the first to try, and `most` the last that may be taken. -/
def chain (ok : Nat → Bool) : Nat → Nat → Nat → Option (List Nat)
  | 0, _, _ => some []
  | n + 1, lo, most =>
    match (List.range' lo (66 - lo)).find? ok with
    | none => none
    | some p => if most < p then none else (chain ok n (p + 1) (p + 3)).map (p :: ·)

/-- No two neighbours along a column lie more than 2 columns apart. -/
def columnsClose : List (List Nat) → Bool
  | a :: b :: t => (a.zip b).all (fun p => decide (p.1 ≤ p.2 + 2 ∧ p.2 ≤ p.1 + 2)) && columnsClose (b :: t)
  | _ => true

/-- A grid of W columns and H rows, when it places. -/
def State.tryGrid (s : State) (q w h : Nat) : Option Place :=
  let cols (py : Nat) := chain (fun px => s.works q px py) w 0 2
  match chain (fun py => (cols py).isSome) h 0 2 with
  | none => none
  | some rows =>
    let c := rows.map fun py => (cols py).getD []
    if columnsClose c then some ⟨w, h, rows, c⟩ else none

def insertGrid (g : Nat × Nat) : List (Nat × Nat) → List (Nat × Nat)
  | [] => [g]
  | f :: t => if f.1 * f.2 < g.1 * g.2 ∨ (f.1 * f.2 = g.1 * g.2 ∧ f.1 < g.1) then g :: f :: t else f :: insertGrid g t

/-- The grids in the order in which they are tried: larger products first, and larger W first among equal ones. -/
def gridOrder : List (Nat × Nat) :=
  let sizes := [8, 16, 24, 32, 40, 48, 56, 64]
  ((sizes.flatMap fun w => sizes.map fun h => (w, h)).filter fun g => !decide (g.1 = 64 ∧ g.2 = 64)).foldr insertGrid []

/-- The placement of a quarter under the log (R741, R743). -/
def State.placeQuarter (s : State) (q : Nat) : Place :=
  if 64 ≤ (gridPos.filter (s.fullUsable q)).length then s.fullPlace q
  else (gridOrder.findSome? fun g => s.tryGrid q g.1 g.2).getD ⟨0, 0, [], []⟩

/-! ## Counts (R746, R777) -/

/-- Blocks of a quarter that are in service or spare: a candidate is, until it is retired (R737, R777). -/
def State.working (s : State) (q : Nat) : Nat :=
  let l := s.repairLog.filter fun e => decide (e.kind ≠ 3)
  (gridPos.map fun py => (gridPos.filter fun px => !l.any fun e => e.names q px py).length).sum

/-- Spare free: working blocks that are not placed. -/
def State.spareFree (s : State) (q : Nat) : Nat := s.working q - (s.placeOf q).w * (s.placeOf q).h

def State.retired (s : State) (q : Nat) : Nat := 4356 - s.working q

/-- The repair book settles (R777). -/
def State.settleRepair (s : State) : State :=
  let sum (f : Nat → Nat) : Nat := f 0 + f 1 + f 2 + f 3
  let used := sum fun q => (s.placeOf q).w * (s.placeOf q).h
  s.settleBook 0xA006 (decide (17424 = used + sum s.spareFree + sum s.retired)) [17424, used, sum s.spareFree, sum s.retired]

/-- The places of the footpath nodes in the quarters of a mask that a sweep has tested: those that failed (R745, R748). -/
def State.nodesTested (s : State) (mask : Nat) (l : List (QuarterId × Nat × Nat × Nat)) : State :=
  let place (x : QuarterId × Nat × Nat × Nat) : FpPos := (x.2.1 + 66 * (x.1.toNat % 2), x.2.2.1 + 66 * (x.1.toNat / 2))
  let here (p : FpPos) : Bool := mask.testBit (p.1 / 66 + 2 * (p.2 / 66))
  { s with fpFailed := (s.fpFailed.filter fun p => !here p) ++ ((l.filter fun x => decide (128 ≤ x.2.2.2)).map place).filter here }

/-! ## Application (R738, R740, R741) -/

/-- A quarter is placed at full size. -/
def State.fullSize (s : State) (q : Nat) : Bool := decide (64 ≤ (gridPos.filter (s.fullUsable q)).length)

/-- The rows of a quarter that an application retires whole. -/
def State.rowsToRetire (s : State) (q : Nat) : List Nat :=
  if s.fullSize q then
    gridPos.filter fun py => !s.fullUsable q py && !s.repair.any fun e => decide (e.quarter.toNat = q ∧ e.kind = 2 ∧ e.py.toNat = py)
  else []

/-- A row is retired with a kind 2 entry, which replaces the field entries of its blocks. -/
def State.retireRow (s : State) (q py : Nat) : State :=
  let mine (e : RepairEntry) : Bool := decide (e.quarter.toNat = q ∧ e.py.toNat = py)
  let reason := match (s.repair.filter mine).getLast? with | some e => e.reason | none => 0
  let e : RepairEntry := ⟨BitVec.ofNat 2 q, 2, 0xFF, BitVec.ofNat 8 py, reason, 0, s.time64⟩
  let s := s.setRepair ((s.repair.filter fun e => !mine e) ++ [e])
  s.raise 0x0600 (BitVec.ofNat 64 q) (repairResult 3 0xFF py reason.toNat 0 0)

/-- A candidate is retired with a kind 1 entry. -/
def State.retireBlock (s : State) (e : RepairEntry) : State :=
  let s := s.setRepair (s.repair.map fun x => if x = e then { x with kind := 1 } else x)
  s.raise 0x0600 (e.quarter.zeroExtend 64) (repairResult 2 e.px.toNat e.py.toNat e.reason.toNat 0 0)

/-- The number of a physical block under a placement: its block ID where it is placed. -/
def Place.number (p : Place) (q px py : Nat) : BlockId :=
  match p.logical px py with
  | some (x, y) => blockAt q x y
  | none => physId q px py

/-- A quarter takes a placement: every block's state stays with its physical block (R19, R32). The blocks that change between placed and unplaced are
listed one by one first, with the state that they share with others of their kind. -/
def State.moveQuarter (s : State) (q : Nat) (p : Place) : State :=
  let old := s.placeOf q
  if p = old then s
  else
    let away := s.blocks.filter fun e => decide (quarterNum e.1 ≠ q)
    let pos := gridPos.flatMap fun py => gridPos.map fun px => (px, py)
    let keep (t : Tab Block) (c : Nat × Nat) : Tab Block :=
      let was := (old.number q c.1 c.2).toNat
      let now := (p.number q c.1 c.2).toNat
      if (s.blocks.any fun e => decide (e.1 = was)) || decide (restKey was ≠ restKey now) then put t now (s.blk (old.number q c.1 c.2)) else t
    { s with blocks := pos.foldl keep away, place := store Place.identity s.place q p }

/-- One quarter's share of an application, with the blocks that it newly retires. -/
def State.applyQuarter (s : State) (q : Nat) : State × Nat :=
  let rows := s.rowsToRetire q
  let s := rows.foldl (fun s py => s.retireRow q py) s
  let cands := s.repair.filter fun e => decide (e.quarter.toNat = q ∧ e.kind = 3)
  let s := cands.foldl State.retireBlock s
  let p := s.placeQuarter q
  let was := (s.placeOf q).w * (s.placeOf q).h
  let s := s.moveQuarter q p
  let s := if p.w * p.h < 4096 ∧ was = 4096 then s.raise 0x0600 (BitVec.ofNat 64 q) (repairResult 4 0xFF 0xFF 0 p.w p.h) else s
  (s, 66 * rows.length + cands.length)

/-- The repair map is applied, with the number of blocks newly retired. -/
def State.applyRepair (s : State) : State × Nat :=
  let r := [0, 1, 2, 3].foldl (fun (r : State × Nat) q => let t := r.1.applyQuarter q; (t.1, r.2 + t.2)) (s, 0)
  (r.1.settleRepair, r.2)

end Sys2Proof.Machine
end

