-- ==== Sys2Proof/Machine/Plan.lean ====
section
/-! DEFINITION. The plan commands (R53 to R59, R500 to R504, R872): PLAN_LOAD, PLAN_BIND with everything it writes, PLAN_START, PLAN_STOP and
PLAN_UNLOAD. -/

namespace Sys2Proof.Machine

/-- A command whose STARTED record has committed (R538), of the opcode of a row. -/
def State.startedCmd (s : State) (seq : W64) (op : Nat) : Option Cmd :=
  (s.findCmd seq).filter fun c => decide (c.phase = .started ∧ c.opcode = op)

/-- What a command does at its start is done, and COMMAND_COMPLETION ends it. -/
def State.runCmd (s : State) (c : Cmd) : State := s.modCmd c.seq fun c => { c with phase := .running }

/-- The command carries the current plan identifier (R500). -/
def State.planIdOk (s : State) (c : Cmd) : Bool := decide (c.planId = s.planId)

/-! ## PLAN_LOAD (R40, R502, R503, R738, R869, R871) -/

/-- A start-up failure has occurred since AON power-on (R40, R41): PLAN_LOAD answers with it until the next AON power-on, also after a later boot that reaches
IDLE (DESIGN CHOICE, log entry 70). -/
def State.startFailed (s : State) : Bool := decide (s.counter 0x4000 2 ≠ 0)

/-- A mode 0 sweep runs (R747): PLAN_LOAD and PLAN_BIND would take its quarters from it, and answer ERR_MAINT_BUSY. DEDUCED, log entry 41. -/
def State.sweeping (s : State) : Bool :=
  s.hif.cmds.any fun c => decide (c.opcode = 0x22 ∧ c.arg 25 1 = 0 ∧ c.phase = .running)

/-- PLAN_LOAD: the repair map is applied, and the image is read; COMMAND_COMPLETION brings its bytes. DESIGN CHOICE, log entry 7. -/
def planLoad (seq : BitVec 64) (s : State) : State :=
  match s.startedCmd seq 1 with
  | none => s
  | some c =>
    if s.startFailed then s.endCmd c 0x28 0
    else if s.plan ≠ .empty then s.endCmd c 0x20 0
    else if s.sweeping then s.endCmd c 0x60 0
    else ({ (s.applyRepair).1 with plan := .loading }).runCmd c

def execPlanLoad (seq : BitVec 64) (s : State) : Host.Outcome State Fault Refusal := .next (planLoad seq s)

/-- The plan identifier after `n`, which skips 0 (R502). -/
def nextPlanId (n : BitVec 32) : BitVec 32 := if n + 1 = 0 then 1 else n + 1

/-- The image has been read, or its read has failed. The plan is LOADING as long as its PLAN_LOAD runs (R54). DEDUCED, log entry 39. -/
def State.planLoaded (s : State) (c : Cmd) (e : Ending) : State :=
  if s.plan ≠ .loading then s
  else match e with
  | .done bytes =>
    let n := c.arg 32 8
    let d := padTo n (bytes.take n)
    let st := s.imageStatus n (decide (c.arg 40 1 = 1)) d
    if st = 0 then
      let id := nextPlanId s.lastPlanId
      let s : State :=
        { s with plan := .loaded, planId := id, lastPlanId := id, pl := { PlanRec.reset with addr := c.arg 24 8, len := n, sha := sha256 d } }
      (s.retain 4 (leBytes 4 id.toNat)).endCmd c 0 (id.zeroExtend 64)
    else ({ s with plan := .empty } : State).endCmd c st 0
  | _ => ({ s with plan := .empty } : State).hostReadFail c

/-! ## PLAN_BIND: checks (R461, R504, R872) -/

/-- The device number that the map gives this device's UID. -/
def mapDevice (d : List Byte) : Option Nat := (List.range (mapN d)).find? fun i => decide (mapUid d i = Config.uid)

/-- The port that the map names is ACTIVE, with equal LINK_ABI and the peer that the map gives it (R461). -/
def State.portAgrees (s : State) (d : List Byte) (x : Nat × Nat × Nat) : Bool :=
  let p := s.port x.1
  decide (p.st = .active) && p.abiOk && decide (p.peer.uid = mapUid d x.2.1) && decide (p.peer.port.toNat = x.2.2)

/-- The STATUS of the first check of PLAN_BIND that fails, 0 when the plan binds. -/
def State.bindStatus (s : State) (c : Cmd) (d : List Byte) : BitVec 16 :=
  let dev := mapDevice d
  if sha256 d ≠ s.pl.sha then 0x26
  else if dev ≠ some (imgTarget d) ∨ (128 ≤ c.arg 24 1 ∧ dev ≠ some (c.arg 24 1 % 128)) then 0x27
  else if !(imgPorts d).all (s.portAgrees d) then 0x25
  else if !s.gridOk d then 0x109
  else if !s.edgeFits d then 0x110
  else 0

/-! ## PLAN_BIND: blocks (R55, R347, R852 to R857) -/

/-- What PLAN_BIND does in every block of a used quarter (R107, R198, R236, R292, R298, R381, R385, R632, R853).
ADDR and FROM_REG of an arcade line go with it (DESIGN CHOICE, log entry 80). DEDUCED, log entry 29. -/
def Block.bound (x : Block) (now : Nat) : Block :=
  { x with
    core := { x.core with retired := 0, stallBank := 0, stallQueue := 0, ewaitCycle := 0, ewaitValid := false }
    fp := { x.fp with rm := 0, flags := 0, srDraws := 0 }
    vec := { x.vec with v := [], m := [], ac := [], grp := 0, beats := 0 }
    mtx := { x.mtx with t := [], z := [], ops := 0, arrayFcy := 0 }
    msg := .reset
    xng := .reset
    clk := { x.clk with en := Clk.reset.en, entries := [], done := 0, fcyRun := 0, fcySleep := 0, fcyDeep := 0, since := now } }

/-- Registers that a block record gives, by byte of the record and register offset (R347, R852). -/
def bindRegs : List (Nat × Nat) :=
  [(8, 0x38), (16, 0x408), (24, 0x448), (32, 0x438), (40, 0x440), (48, 0x480), (56, 0x488), (64, 0x490), (72, 0x498), (80, 0x4A0), (88, 0x428),
   (96, 0x430), (104, 0x418), (112, 0x420), (120, 0x3000)]

/-- The bytes that a data record writes (R855). -/
def dataBytes (data x : List Byte) : List Byte :=
  let n := leAt x 8 4
  if leAt x 12 1 = 0 then (data.drop (leAt x 16 8)).take n
  else (List.replicate (n / 8) ((x.drop 16).take 8)).flatten

/-- Instruction memory with a code blob: the plan part takes it, with 0 beyond, and the patch region stays (R94, R95, R854). -/
def withCode (im : Memory) (code : List Byte) : Memory :=
  mstore (im.filter fun e => !decide (0x10000 ≤ e.1 ∧ e.1 < 0x17C00)) 0x10000 code

/-- A table from a list, by position. -/
def tabOf {α : Type} [DecidableEq α] (dflt : α) (l : List α) : Tab α :=
  (l.zipIdx).foldl (fun t e => store dflt t e.2 e.1) []

/-- The contents that a block record gives a block's memories, plan tables and generator. -/
def Block.loaded (x : Block) (d r : List Byte) : Block :=
  let data := sectBytes d 5
  let m := sectBytes d 7
  let sig := sectBytes d 6
  let seed := BitVec.ofNat 32 (leAt r 4 4)
  let seed := if seed = 0 then 1 else seed
  let sends := recSends m r
  { x with
    fp := { x.fp with srState := seed, srBase := seed }
    im := withCode x.im (((sectBytes d 4).drop (leAt r 128 4)).take (leAt r 132 4))
    ls := (recData d r).foldl (fun l y => mstore l (leAt y 0 8) (dataBytes data y)) []
    integ := { x.integ with notes := markWritten 0x100000 0x60000 x.integ.notes }
    xng := { x.xng with
      len := BitVec.ofNat 11 (leAt r 148 2)
      slots := tabOf 0 ((List.range (leAt r 148 2)).map fun i => slotStored (BitVec.ofNat 64 (leAt sig (leAt r 144 4 + 8 * i) 8))) }
    msg := { x.msg with
      nsend := BitVec.ofNat 10 (leAt r 156 2)
      send := tabOf SendEntry.reset (sends.map Prod.fst)
      fan := tabOf 1 (sends.map Prod.snd)
      rxc := tabOf RxChan.reset (recChans m r) }
    clk := { x.clk with entries := recModes d r } }

/-- A block takes its record. DEDUCED, log entry 39. -/
def State.bindBlock (s : State) (d r : List Byte) : State :=
  let b := recBlock r
  let s := bindRegs.foldl (fun s f => s.crWrite b (.foot .m) f.2 (recReg r f.1) allBytes) s
  s.modBlk b fun x => x.loaded d r

/-- A physical block that is not placed: every enable but the RUN bit of its core is 0 (R653). -/
def Block.unplaced (x : Block) : Block := { x with clk := { x.clk with en := 1 } }

def State.bindBlocks (s : State) (d : List Byte) : State :=
  let clear (s : State) (q : Nat) : State :=
    let now := s.quarterTicks q
    (if (imgGeom d q).1 = 0 then s else s.mapQuarter q fun x => x.bound now).mapKey (4 + q) Block.unplaced
  (imgBlocks d).foldl (fun s r => s.bindBlock d r) ([0, 1, 2, 3].foldl clear s)

/-! ## PLAN_BIND: links, bindings and edge crossbars (R461, R859 to R864) -/

/-- Transmit entries in ascending offset. -/
def insertTx (x : Nat × Nat) : List (Nat × Nat) → List (Nat × Nat)
  | [] => [x]
  | y :: t => if x.1 ≤ y.1 then x :: y :: t else y :: insertTx x t

/-- A port with no schedule and nothing of an earlier run. -/
def DPort.unplanned (x : DPort) : DPort :=
  { x with planned := false, period := 0, txs := [], mcycles := [], relay := 0, expect := 0, msDone := 0, txDone := 0, queue := [], sentNow := 0,
           sentPrev := 0, got := [], due := [] }

/-- PLANNED is set on each port that the map names (R461). -/
def State.bindPort (s : State) (p : Nat) : State := s.modPort p fun x => { x with planned := true }

/-- A port takes its link schedule (R859). -/
def State.bindLink (s : State) (l : List Byte) (o : Nat) : State :=
  s.modPort (leAt l o 1) fun x =>
    { x with period := leAt l (o + 4) 4, txs := (linkTx l o).foldr insertTx [], mcycles := linkMs l o, relay := BitVec.ofNat 128 (leAt l (o + 32) 16)
             expect := leAt l (o + 24) 4 }

def State.bindLinks (s : State) (d : List Byte) : State :=
  let s := s.eachPort fun s p => s.modPort p DPort.unplanned
  let s := (imgPorts d).foldl (fun s x => s.bindPort x.1) s
  (imgLinks d).foldl (fun s o => s.bindLink (sectBytes d 9) o) s

/-- Where the slots of the `i`-th binding record begin (R862): after the staging, the ring and the slots of the records before it in its die.
DEDUCED, log entry 37. -/
def slotBase (d : List Byte) (i : Nat) : Nat :=
  let e := leAt ((imgBindings d)[i]?.getD []) 2 1
  4 * 2 ^ 20 + imgTrace d e + ((((imgBindings d).take i).filter fun r => decide (leAt r 2 1 = e)).map fun r => leAt r 3 1 * leAt r 4 4).sum

/-- A binding is placed, its slots FREE or EMPTY (R506, R510). -/
def State.bindBinding (s : State) (d r : List Byte) (i : Nat) : State :=
  let n := leAt r 0 1
  let e := edgeOf (leAt r 2 1)
  if leAt r 1 1 = 0 then
    let x : Intake := ⟨e, leAt r 4 4, slotBase d i, recInSends (sectBytes d 10) r, List.replicate (leAt r 3 1) .free, 0, none, 0, 0⟩
    { s with intakes := put s.intakes n x }
  else
    let x : Outlet :=
      ⟨e, leAt r 4 4, slotBase d i, leAt r 8 2, decide (leAt r 10 1 = 1), List.replicate (leAt r 3 1) .empty, 0, none, [], 0, []⟩
    { s with outlets := put s.outlets n x }

/-- The output tables of a die (R864). -/
def edgeTables (d : List Byte) (e : Nat) : Tab (List (BitVec 16)) :=
  let l := sectBytes d 11
  ((imgEdges d).filter fun r => decide (leAt r 0 1 = e)).foldl (fun t r => put t (leAt r 2 2) ((edgeSlots l r).map (BitVec.ofNat 16))) []

def State.bindEdges (s : State) (d : List Byte) : State :=
  let s := (imgBindings d).zipIdx.foldl (fun s r => s.bindBinding d r.1 r.2) { s with intakes := [], outlets := [] }
  let s := s.modEdge .e0 fun x => { x.discarded with outs := edgeTables d 0 }
  s.modEdge .e1 fun x => { x.discarded with outs := edgeTables d 1 }

/-! ## PLAN_BIND: the device (R28, R55, R605, R649) -/

/-- Objects that count since PLAN_BIND (R605, R766): the statuses of range 0xB000 and the words of the message book. -/
def sinceBind (key : Nat) : Bool := decide (key = 0xB00005 ∨ key / 256 = 0xB001 ∨ key / 256 = 0xB002 ∨ key = ledgerSent ∨ key = ledgerReceived)

/-- The unplanned routes (R851): a port byte for each device that has one. -/
def imgRoutes (d : List Byte) : Tab Nat :=
  ((sectBytes d 2).take 128).zipIdx.foldl (fun t e => if e.1.toNat < 8 then put t e.2 e.1.toNat else t) []

/-- The plan's own record, with what the image gives it. -/
def PlanRec.ofImage (p : PlanRec) (d : List Byte) : PlanRec :=
  { p with
    mhz := imgMhz d, power := imgPower d, target := BitVec.ofNat 7 (imgTarget d), geom := [0, 1, 2, 3].map (imgGeom d), voidLimit := leAt d 28 1
    trace0 := imgTrace d 0, trace1 := imgTrace d 1
    runPat := [0, 1, 2, 3].map fun q => if (imgGeom d q).1 = 0 then (1, 0) else imgPattern d q
    upstream := (imgUpstream d).map fun u => (BitVec.ofNat 7 u.1, u.2), sweeps := imgSweeps d
    e0 := 0, startNs := 0, stopEpoch := 0, lastRan := none, seen := [], recs := [] }

/-- The fabric clocks change (R649): every quarter stops, and those that `use` names start again at `mhz` together, 12 µs later.
DEDUCED, log entry 39. -/
def State.restartPlls (s : State) (use : Nat → Bool) (mhz : Nat) : State :=
  let qs := [0, 1, 2, 3]
  let s := qs.foldl State.stopPll s
  let s : State := { s with mhz := mhz, acyFrac := 0 }
  let s := qs.foldl (fun s q => if use q then s.startPll q mhz else s) s
  let s := s.pass (12 * mhz)
  qs.foldl State.releasePll s

/-- The plan is placed (R55). DEDUCED, log entry 39. -/
def State.bindPlan (s : State) (d : List Byte) : State :=
  let s := s.restartPlls (fun q => decide ((imgGeom d q).1 ≠ 0)) (imgMhz d)
  let s := ((s.bindBlocks d).bindLinks d).bindEdges d
  { s with
    plan := .bound, devNum := BitVec.ofNat 7 (imgTarget d), devValid := true, k := imgK d, epoch := .reset, pl := s.pl.ofImage d
    sysDevs := (List.range (mapN d)).map (BitVec.ofNat 7), routes := imgRoutes d, health := s.health.filter fun e => !sinceBind e.1 }

/-- PLAN_BIND. While trace is armed it is disarmed first, and the command waits for TRACE_DISARM_COMPLETE (R792). -/
def planBind (seq : BitVec 64) (image : Ending) (s : State) : State :=
  match s.startedCmd seq 2 with
  | none => s
  | some c =>
    if s.plan ≠ .loaded then s.endCmd c 0x20 0
    else if !s.planIdOk c then s.endCmd c 0x21 0
    else if s.sweeping then s.endCmd c 0x60 0
    else if s.hif.quiet then s
    else match image with
      | .done bytes =>
        let d := padTo s.pl.len (bytes.take s.pl.len)
        let st := s.bindStatus c d
        if st ≠ 0 then s.endCmd c st 0
        else if s.trace.armed then s.beginDisarm
        else (s.bindPlan d).endCmd c 0 (BitVec.ofNat 64 (imgTarget d))
      | _ => s.hostReadFail c

def execPlanBind (seq : BitVec 64) (image : Ending) (s : State) : Host.Outcome State Fault Refusal := .next (planBind seq image s)

/-! ## PLAN_START, PLAN_STOP, PLAN_UNLOAD (R54, R56 to R59, R459) -/

/-- A TIME64 in nanoseconds (R588). -/
def nsOf (v : Nat) : Nat := v / 2 ^ 32 * 1000000000 + v % 2 ^ 32

/-- The STATUS of PLAN_START, 0 when it is accepted: the start time must lie 20 µs after the commit of its ACCEPTED record (R56, R495). DEDUCED, log
entry 32. -/
def State.startStatus (s : State) (c : Cmd) : BitVec 16 :=
  let e0 := BitVec.ofNat 64 (c.arg 32 8)
  if s.plan ≠ .bound then 0x20
  else if !s.planIdOk c then 0x21
  else if !(s.time.tlock && s.time.flock) then 0x24
  else if nsOf (c.arg 24 8) < c.time + 20000 then 0x22
  else match s.pl.lastRan with
    | some l => if e0 ≤ l then 0x23 else 0
    | none => 0

/-- PLAN_START (R56, R59, R456, R656). DESIGN CHOICE, log entry 7. -/
def planStart (seq : BitVec 64) (s : State) : State :=
  match s.startedCmd seq 3 with
  | none => s
  | some c =>
    let st := s.startStatus c
    if st ≠ 0 then s.endCmd c st 0
    else
      let e0 := BitVec.ofNat 64 (c.arg 32 8)
      let s := s.modPl fun p => { p with e0 := e0, startNs := nsOf (c.arg 24 8), seen := [], recs := [] }
      let s := s.modEpoch fun e => { e with peakTop := 0, peak := 0, peakPrev := 0 }
      let s := s.eachPort fun s p => s.modPort p fun x => { x with skewMax := 0 }
      ({ s with plan := .starting } : State).endCmd c 0 e0

def execPlanStart (seq : BitVec 64) (s : State) : Host.Outcome State Fault Refusal := .next (planStart seq s)

/-- The epoch at whose start the plan stops (R57): S, which is the next boundary when it is 0, or the first boundary whose gate instant is still to come when that
is later. DEDUCED, log entry 33. -/
def State.stopAt (s : State) (asked : W64) : W64 :=
  let next := if s.epoch.active then s.epoch.num + 1 else s.pl.e0
  let first := if s.epoch.active && !s.epoch.begun && s.epoch.decision.isNone then s.epoch.num else next
  let asked := if asked = 0 then next else asked
  if asked < first then first else asked

/-- PLAN_STOP (R54, R57). From HALTED the plan enters BOUND at once, and RESULT is the last epoch that ran, a free value when none did.
DESIGN CHOICE, log entry 1. DEDUCED, log entry 33. -/
def planStop (seq : BitVec 64) (s : State) : State :=
  match s.startedCmd seq 4 with
  | none => s
  | some c =>
    if s.plan ≠ .starting ∧ s.plan ≠ .running ∧ s.plan ≠ .halted then s.endCmd c 0x20 0
    else if !s.planIdOk c then s.endCmd c 0x21 0
    else if s.plan = .halted then
      match s.pl.lastRan with
      | some e => ({ s.toBound with plan := .bound } : State).endCmd c 0 e
      | none => ({ s.toBound with plan := .bound, freeCount := s.freeCount + 1 } : State).endCmd c 0 s.free
    else
      let e := s.stopAt (BitVec.ofNat 64 (c.arg 24 8))
      ({ (s.modPl fun p => { p with stopEpoch := e }) with plan := .stopping } : State).endCmd c 0 e

def execPlanStop (seq : BitVec 64) (s : State) : Host.Outcome State Fault Refusal := .next (planStop seq s)

/-- A quarter works: its placement offers a grid. -/
def State.quarterWorks (s : State) (q : Nat) : Bool := decide (0 < (s.placeOf q).w ∧ 0 < (s.placeOf q).h)

/-- The plan is gone (R28, R52, R406, R513, R649, R777): the epoch exponent tells whether it was bound (R50). -/
def State.unloadPlan (s : State) : State :=
  let bound := decide (s.k ≠ 0)
  let s := if bound then (s.discardHeld false).settleStop else s
  let s := s.eachPort fun s p => s.modPort p DPort.unplanned
  let s : State :=
    { s with
      plan := .empty, planId := 0, devNum := 0, devValid := false, k := 0, epoch := .reset, pl := .reset, intakes := [], outlets := []
      sysDevs := [], routes := [], qpll := s.qpll.map fun e => (e.1, { e.2 with failed := false }) }
  let s := if bound then s.restartPlls s.quarterWorks 1000 else s
  s.settleRepair

/-- PLAN_UNLOAD (R54, R792): the plan is UNLOADING until COMMAND_COMPLETION; armed trace is disarmed. -/
def planUnload (seq : BitVec 64) (s : State) : State :=
  match s.startedCmd seq 5 with
  | none => s
  | some c =>
    if s.plan ≠ .loaded ∧ s.plan ≠ .bound ∧ s.plan ≠ .halted then s.endCmd c 0x20 0
    else if !s.planIdOk c then s.endCmd c 0x21 0
    else
      let s : State := { s with plan := .unloading }
      (if s.trace.armed then s.beginDisarm else s).runCmd c

/-- The plan's resources are released (R53, R54), once trace is disarmed. -/
def State.unloadDone (s : State) (c : Cmd) : State :=
  if s.plan = .unloading ∧ s.trace.armed = false then s.unloadPlan.endCmd c 0 0 else s

def execPlanUnload (seq : BitVec 64) (s : State) : Host.Outcome State Fault Refusal := .next (planUnload seq s)

end Sys2Proof.Machine
end

