-- ==== Sys2Proof/Machine/Time.lean ====
section
/-! DEFINITION. System time (R657 to R671): reading it, setting it, its discipline, locks, and the PPS signals. -/

namespace Sys2Proof.Machine

def State.modTime (s : State) (f : Time → Time) : State := { s with time := f s.time }

/-- A time of `total` units of 2^-32 ns in the TIME64 layout (R588). -/
def unitsTime64 (total : Nat) : W64 :=
  let n := total / 2 ^ 32
  BitVec.ofNat 64 (n % 1000000000 + n / 1000000000 % 2 ^ 32 * 2 ^ 32)

/-- System time in the acy before this one (R670). -/
def State.timeBefore (s : State) : W64 := unitsTime64 (s.time.total - 40 * 2 ^ 32)

/-- A time event (R670). -/
def State.timeEvent (s : State) (code : Nat) (old : W64) : State := s.raise 0x0900 (BitVec.ofNat 64 code) old

/-- An acy passes where the epoch in progress lets it. -/
def State.oneAcy (s : State) : State := (s.passWithin (s.perAcy - s.acyFrac)).getD s

/-! ## Locks (R667) -/

/-- TLOCK and FLOCK take values; each that changes is journaled. DEDUCED, log entry 47. -/
def State.setLocks (s : State) (t f : Bool) (old : W64) : State :=
  let was := s.time
  let s := s.modTime fun x => { x with tlock := t, flock := f }
  let s := if was.tlock = t then s else s.timeEvent (if t then 3 else 4) old
  if was.flock = f then s else s.timeEvent (if f then 5 else 6) old

/-- With SOURCE 0, TLOCK and FLOCK equal TIME_VALID. -/
def State.followValid (s : State) (old : W64) : State := s.setLocks s.time.valid s.time.valid old

/-! ## Setting the time (R661, R662) -/

/-- The time base takes a time, with no fraction and no slew left. -/
def Time.set (t : Time) (ns : Nat) (sec : BitVec 32) : Time := { t with ns := ns, sec := sec, frac := 0, slew := 0, slewing := false }

/-- TLOCK after a time was set: 0, but with SOURCE 0 it follows TIME_VALID. -/
def State.locksAfterSet (s : State) (old : W64) : State :=
  if s.time.source = 0 then s.followValid old else s.setLocks false s.time.flock old

/-- The outcome of an apply: done, refused for its value, refused for the plan state. -/
inductive Applied where
  | done | value | access
  deriving DecidableEq, Repr

/-- An apply is refused (R662). -/
def State.refuseTime (s : State) : State := (s.modTime fun t => { t with refused := true }).timeEvent 7 s.timeBefore

/-- A write of APPLY (R661, R662): the time at the end of the next acy is the staged one, or the apply is refused. DEDUCED, log entry 47. -/
def State.applyTime (s : State) : State × Applied :=
  let ns := s.time.stage.toNat % 2 ^ 32
  if s.planMoves then (s.refuseTime, .access)
  else if 999999999 < ns then (s.refuseTime, .value)
  else
    let old := s.time64
    let stage := s.time.stage
    let s := s.oneAcy
    let s := (s.modTime fun t => { t.set ns (stage.extractLsb' 32 32) with valid := true }).timeEvent 1 old
    (s.locksAfterSet old, .done)

/-! ## Discipline (R664 to R667) -/

def ns20 : Nat := 20
def ns50 : Nat := 50
def ns100 : Nat := 100

/-- Runs of consecutive samples within 20 ns and within 50 ns. -/
def Time.count (t : Time) (x : Nat) : Time :=
  { t with run20 := if x ≤ ns20 then t.run20 + 1 else 0, run50 := if x ≤ ns50 then t.run50 + 1 else 0 }

/-- A sample from the current source, with its offset `x` in ns (R665, R667). `ns` and `sec` are what a step sets. DEDUCED, log entry 47. -/
def State.timeSample (s : State) (x : Int) (ns : Nat) (sec : BitVec 32) : State :=
  let old := s.timeBefore
  let m := x.natAbs
  let big := decide (1000000 < m)
  let valid := s.time.valid
  let step := !valid || (big && !s.planMoves)
  let s := s.modTime fun t => t.count m
  if step then
    let old := s.time64
    let keep := !valid && decide (s.time.source = 2)
    let s := s.modTime fun t => { t.set ns (if keep then t.sec else sec) with valid := t.valid || !keep }
    (s.timeEvent 2 old).setLocks false s.time.flock old
  else
    let s := s.modTime fun t => { t with slew := x * 2 ^ 32, slewing := decide (x ≠ 0) }
    let lock :=
      if ns100 < m ∨ big then false
      else if 8 ≤ s.time.run20 then true
      else s.time.tlock
    s.setLocks lock (s.time.flock || decide (16 ≤ s.time.run50)) old

/-- SOURCE takes a value (R664), with its event and, for free running, its locks (R667). DEDUCED, log entry 47. -/
def State.setSource (s : State) (v : BitVec 2) : State :=
  if s.time.source = v then s
  else
    let old := s.timeBefore
    let s := s.modTime fun t => { t with source := v, run20 := 0, run50 := 0 }
    let s := if v = 0 then s.followValid old else s
    s.timeEvent (8 + v.toNat) old

/-- A time sample of Elette (R580, R664): the local time at the frame's SFD, and the time the sample gives it. -/
def State.eletteSample (s : State) (local_ sample : W64) : State :=
  let toNs (v : W64) : Int := (v.toNat / 2 ^ 32 : Nat) * 1000000000 + (v.toNat % 2 ^ 32 : Nat)
  let x := toNs local_ - toNs sample
  let now : Int := s.timeNs
  let t := (now - x).toNat
  (s.setSource 1).timeSample x (t % 1000000000) (BitVec.ofNat 32 (t / 1000000000))

/-! ## Registers (R631, R659) -/

/-- AON_TIME_NS_READ (R659): the read copies SEC of the same acy into the seconds shadow. -/
def aonTimeNsRead (s : State) : State := s.modTime fun t => { t with shadow := t.sec }

def execAonTimeNsRead (s : State) : Host.Outcome State Fault Refusal := .next (aonTimeNsRead s)

/-- AON_TIME_STATUS. -/
def Time.statusWord (t : Time) : W64 :=
  BitVec.ofNat 64 (boolBit t.valid + 2 * boolBit t.tlock + 4 * boolBit t.flock + 16 * t.source.toNat + 64 * boolBit t.slewing
    + 128 * boolBit t.refused)

/-- AON_TIME_PPS. -/
def Time.ppsWord (t : Time) : W64 := BitVec.ofNat 64 (t.ppsOffset.toNat + 2 ^ 32 * boolBit t.ppsPresent)

/-! ## The time base on its own (R657, R666) -/

/-- TIME_SECOND_ROLLOVER (R657): acy pass until NS would reach 10^9, and SEC increments. -/
def timeSecondRollover (s : State) : State :=
  let left := (1000000000 * 2 ^ 32 - (s.time.ns * 2 ^ 32 + s.time.frac.toNat) + (40 * 2 ^ 32 - 1)) / (40 * 2 ^ 32)
  (s.passWithin (left * s.perAcy - s.acyFrac)).getD s

def execTimeSecondRollover (s : State) : Host.Outcome State Fault Refusal := .next (timeSecondRollover s)

/-- SLEW_END (R666): acy pass until the offset has been slewed out. -/
def slewEnd (s : State) : State :=
  if s.time.slewing then
    let n := (s.time.slew.natAbs + (s.slewRate - 1)) / s.slewRate
    match s.passWithin (n * s.perAcy - s.acyFrac) with
    | some s => s.modTime fun t => { t with slew := 0, slewing := false }
    | none => s
  else s

def execSlewEnd (s : State) : Host.Outcome State Fault Refusal := .next (slewEnd s)

/-! ## PPS (R664, R669) -/

/-- 1.5 s in acy. DEDUCED, log entry 47. -/
def ppsLimit : Nat := 37500000

/-- The time at an edge `sub` ns into the acy, less the nearest whole second (R664). DEDUCED, log entry 47. -/
def State.edgeOffset (s : State) (sub : Nat) : Int :=
  let n := (s.time.ns + sub) % 1000000000
  if 500000000 < n then (n : Int) - 1000000000 else n

/-- PPS_EDGE (R631, R664, R665): the edge comes `sub` ns after the time base took its present value. It is a sample when the PPS input is the source.
DEDUCED, log entry 47. -/
def ppsEdge (sub : BitVec 6) (s : State) : State :=
  let offset : BitVec 32 := BitVec.ofInt 32 (s.edgeOffset sub.toNat)
  let near := match s.time.ppsLast with | some a => decide (s.acy ≤ a + ppsLimit) | none => false
  let now := s.acy
  let s := s.modTime fun t => { t with ppsOffset := offset, ppsPresent := near, ppsLast := some now }
  let s := if s.time.source = 1 then s else s.setSource (if near then 2 else 0)
  if s.time.source = 2 then
    let t := ((s.timeNs : Int) - offset.toInt).toNat
    s.timeSample offset.toInt (t % 1000000000) (BitVec.ofNat 32 (t / 1000000000))
  else s

def execPpsEdge (sub : BitVec 6) (s : State) : Host.Outcome State Fault Refusal := .next (ppsEdge sub s)

/-- TIME_LOCK_TIMEOUT (R664, R667): 20 ms without a sample clear TLOCK; 1.5 s without an edge clear PRESENT, and with it a PPS source.
DESIGN CHOICE, log entry 9. -/
def timeLockTimeout (s : State) : State :=
  let gone := match s.time.ppsLast with | some a => decide (a + ppsLimit < s.acy) | none => true
  match s.time.source.toNat with
  | 1 =>
    let s := if gone then s.modTime fun t => { t with ppsPresent := false } else s
    (s.modTime fun t => { t with run20 := 0, run50 := 0 }).setLocks false s.time.flock s.timeBefore
  | 2 => (s.modTime fun t => { t with ppsPresent := false }).setSource 0
  | _ => s.modTime fun t => { t with ppsPresent := t.ppsPresent && !gone }

def execTimeLockTimeout (s : State) : Host.Outcome State Fault Refusal := .next (timeLockTimeout s)

/-- FREQUENCY_LOCK_LOSS (R667): TLOCK has been 0 for 1 s. -/
def frequencyLockLoss (s : State) : State :=
  if s.time.tlock then s else s.setLocks false false s.timeBefore

def execFrequencyLockLoss (s : State) : Host.Outcome State Fault Refusal := .next (frequencyLockLoss s)

/-- PPS_OUTPUT (R669): while it is enabled and TIME_VALID is 1 the output is high for the first 100 ms of each second, and low otherwise. -/
def ppsOutput (s : State) : State :=
  s.modTime fun t => { t with ppsOut := decide (s.setting 0x3020 3 = 1) && t.valid && decide (t.ns < 100000000) }

def execPpsOutput (s : State) : Host.Outcome State Fault Refusal := .next (ppsOutput s)

/-! ## Retention (R671) -/

/-- The time that a warm start resumes: `ticks` of XTAL32K have passed in RETAIN. DEDUCED, log entry 47. -/
def Time.resumed (t : Time) (ticks : Nat) : Time :=
  let n := t.sec.toNat * 1000000000 + t.ns + ticks * 1000000000 / 32768
  { Time.reset with ns := n % 1000000000, sec := BitVec.ofNat 32 (n / 1000000000), valid := t.valid, rtc := t.rtc + BitVec.ofNat 64 ticks }

end Sys2Proof.Machine
end

