-- ==== Sys2Proof/Machine/Supply.lean ====
section
/-! DEFINITION. Supplies and resets (chapter 16): what a fast-domain reset and a retention clear do, the power sequencer, the rails, power-fail, and the
reset sources. -/

namespace Sys2Proof.Machine

def State.modSup (s : State) (f : Supply → Supply) : State := { s with supply := f s.supply }
def State.modBoot (s : State) (f : Boot → Boot) : State := { s with boot := f s.boot }

/-! ## Sources (R700, R702) -/

def srcRstn : Nat := 2
def srcPerst : Nat := 3
def srcFast : Nat := 4
def srcClear : Nat := 5
def srcWatchdog : Nat := 6
def srcClock : Nat := 7
def srcSupply : Nat := 8
def srcThermal : Nat := 9
def srcPowerFail : Nat := 10

/-- The fast domain is up: its rails are on and no source holds it. -/
def State.fastUp (s : State) : Bool := decide (s.supply.pwr = .on ∧ s.supply.holders = [])

/-- Numbers in ascending order, without repeats. -/
def insertNat (n : Nat) : List Nat → List Nat
  | [] => [n]
  | m :: t => if n < m then n :: m :: t else if n = m then m :: t else m :: insertNat n t

def State.hold (s : State) (src : Nat) : State := s.modSup fun x => { x with holders := insertNat src x.holders }
def State.unhold (s : State) (src : Nat) : State := s.modSup fun x => { x with holders := x.holders.filter fun n => !decide (n = src) }

/-- AON_RST_STATUS keeps the last reset. -/
def State.lastReset (s : State) (src scope : Nat) : State :=
  s.modSup fun x => { x with src := BitVec.ofNat 4 src, scope := BitVec.ofNat 4 scope }

/-- A reset that takes nothing down is journaled through the event FIFO. -/
def State.resetEvent (s : State) (src scope : Nat) : State :=
  (s.lastReset src scope).raise 0x0500 (BitVec.ofNat 64 src) (BitVec.ofNat 64 scope)

/-! ## A fast-domain reset (R546, R701) -/

/-- The PCI Express link goes down (R521, R701): the host interface is cleared; entries read and not decided leave the book; commands without an end
record wait for their ABANDONED records. DEDUCED, log entry 45. -/
def State.hifDown (s : State) : State :=
  let lost := (s.hif.queues.map fun x => x.2.fetched.length).sum + (if s.jnl.holding.isSome then 1 else 0)
  let cmds := s.hif.cmds.filter fun c => !decide (c.phase = .ended)
  let s := (s.clearHif 3).bumpTerm (0xA002 * 256 + 0x10) ((2 ^ 64 - lost) % 2 ^ 64)
  let s := s.modJnl fun j => { j with cmdRecs := [], holding := none }
  let s := s.modHif fun h =>
    { h with cfg := .reset, ready := false, queues := [], comps := [], cmds := cmds, dictData := [], d3hot := false, linkUp := false, width := 0, rate := 0
             flitMode := false, readOut := none }
  s.settleQueues.noteBp

/-- Counts that the fast domain holds, and that its reset clears (R594). DEDUCED, log entry 49. -/
def fastCount (key : Nat) : Bool := sinceBind key || decide (key = 0x601003 ∨ key = 0x601103)

/-- Books of the fast domain: their windows close with it. -/
def fastBook (index : Nat) : Bool := decide (index = 0xA000 ∨ (0xA010 ≤ index ∧ index < 0xA018))

/-- A port held in reset: its enable, and its counters since AON power-on (R423, R424), stay. DEDUCED, log entry 49. -/
def DPort.held (x : DPort) : DPort :=
  { DPort.reset with
    en := x.en, st := if x.en then .down else .disabled, fecCorr := x.fecCorr, fecUncorr := x.fecUncorr, crcFail := x.crcFail, retry := x.retry, dropTx := x.dropTx, dropRx := x.dropRx
    retrains := x.retrains }

/-- What the fast domain held is gone (R701): every quarter, edge die, port and the host interface. DEDUCED, log entry 49. -/
def State.fastCleared (s : State) : State :=
  { s with
    blocks := s.blocks.filter fun e => decide (e.1 = mgmtCore.toNat)
    rest := [], plan := .empty, planId := 0, devNum := 0, devValid := false, k := 0, epoch := .reset, pl := .reset
    intakes := [], outlets := [], sysDevs := [], routes := [], qpll := [], edge0 := .reset, edge1 := .reset, dies := []
    ports := (s.ports.map fun e => (e.1, e.2.held)), proxies := [], arrived := [], footpath := [], fpBusy := []
    trace := .reset, sweep := none, mhz := 1000, acyFrac := 0
    health := s.health.filter fun e => !fastCount e.1
    ledgers := s.ledgers.map fun e => (e.1, if fastBook e.1 then { e.2 with state := 0 } else e.2)
    boot := { s.boot with loaded := none } }

/-- The link events of the ports whose state the reset changes (R440): to DOWN, or DISABLED where EN is 0. -/
def State.portsHeld (s : State) : State :=
  s.eachPort fun s n =>
    let x := s.port n
    if x.st = x.held.st then s else s.raise 0x0200 (BitVec.ofNat 64 n) (BitVec.ofNat 64 (LinkSt.code x.held.st))

/-- The fast domain is taken down by a reset (R701). -/
def State.fastDown (s : State) : State := (s.portsHeld.disarmNow.hifDown.bump 0x2200 2).fastCleared

/-- The reset event is committed at once, before any other record (R546). DEDUCED, log entry 45. -/
def State.resetRecord (s : State) (src scope : Nat) : State :=
  let s := s.lastReset src scope
  let e : Event := ⟨0x0500, BitVec.ofNat 64 src, BitVec.ofNat 64 scope, 0, s.time64, s.recFlags⟩
  let s := s.modJnl fun j => { j with raised := j.raised + 1, recorded := j.recorded + 1 }
  (s.commitRec e.record).settleEvents

/-- RESULT of an ABANDONED record with reason 3 (R527). -/
def abandonResult (c : Cmd) : W64 := if c.began then 0x103 else 3

/-- Commands with an ACCEPTED record and no end record are abandoned, in ascending REF (R546). DEDUCED, log entry 45. -/
def State.abandonLost (s : State) : State :=
  let s' := s.hif.cmds.foldl (fun s c => (s.commitRec (s.cmdRecord c 5 (abandonResult c) 0)).settleEvents) s
  s'.modHif fun h => { h with cmds := [] }

/-- A source takes the fast domain into reset. One that comes while it is down commits its event alone (R702). DEDUCED, log entry 49. -/
def State.fastReset (s : State) (src scope : Nat) : State :=
  if s.fastUp then
    let st : BootSt := match s.boot.st with
      | .flash => .flash | .recovery => .recovery | .rails => .rails | _ => .edge
    ((s.fastDown.resetRecord src scope).abandonLost).modBoot fun b => { b with st := st }
  else s.resetEvent src scope

/-! ## Retention (R594, R698, R699) -/

/-- A cold start's journal actions (R544): a new generation, cleared slots and a GENERATION record with SEQ 1; every term of the event book is 0
(R773). DEDUCED, log entry 46. -/
def State.newGeneration (s : State) : State :=
  let gen := s.jnl.gen + 1
  let s := s.retain recGeneration (leBytes 8 gen.toNat)
  let s := s.modJnl fun j =>
    { j with ring := [], next := 1, gen := gen, lastEvent := false, fifo := [], counters := [], raised := 0, recorded := 0, summarised := 0
             damaged := false }
  let r : Rec := deviceRecord 0x20 s.time64 0 0 gen 0 s.recFlags
  (s.commitRec r).settleEvents

/-- The actions of R698, at a cold start or a retention clear; the firmware data become 0. DEDUCED, log entry 46. -/
def State.clearRetention (s : State) (src scope : Nat) : State :=
  let s : State :=
    { s with
      health := s.health.filter fun e => !retainedCount e.1
      ledgers := s.ledgers.map fun e => (e.1, { e.2 with fails := 0 })
      clkmon := s.clkmon.map fun e => (e.1, { e.2 with fails := 0 })
      elt := { s.elt with delay := 0 } }
  let s := if (s.blk mgmtCore).ls = [] then s else s.modBlk mgmtCore fun x => { x with ls := [] }
  let s := s.newGeneration
  let old := s.timeBefore
  let s := s.modTime fun t => { t with valid := false }
  let s := if s.time.source = 0 then s.followValid old else s
  let s := s.raise 0x0600 0 (repairResult 7 0xFF 0xFF 0 0 0)
  let s := State.freshRetention { s with lastPlanId := 0 }
  (s.modSup fun x => { x with latch := true }).resetEvent src scope

/-- ARM (R693): LATCH becomes 1. -/
def execArm (s : State) : Host.Outcome State Fault Refusal := .next (s.modSup fun x => { x with latch := true })

/-- VRET_TRIP (R693): LATCH becomes 0. -/
def execVretTrip (s : State) : Host.Outcome State Fault Refusal := .next (s.modSup fun x => { x with latch := false })

/-! ## The power sequencer (R683 to R685) -/

/-- Rails of a power-up step. -/
def stepRails (n : Nat) : List Nat :=
  match n with
  | 1 => [5] | 2 => [4, 0, 1, 2, 3] | 3 => [10, 12] | 4 => [11, 13] | _ => []

/-- The sequenced rails (R676). -/
def sequenced (r : Nat) : Bool := decide (r ≤ 5 ∨ (10 ≤ r ∧ r ≤ 13))

/-- GOOD bits of a list of rails. -/
def railBits (l : List Nat) : BitVec 14 := l.foldl (fun g r => g ||| (1#14 <<< r)) 0

/-- A supply event (R717). -/
def State.supplyEvent (s : State) (rail code : Nat) : State := s.raiseThermal 0x0401 rail code

def State.setPwr (s : State) (p : Pwr) : State := s.modSup fun x => { x with pwr := p }

/-- The power-down order begins (R685): the fast domain is held, and step 4 goes off first. -/
def State.startDown (s : State) : State := s.setPwr (.down 4)

/-- Boot states that the power sequencer leaves alone: the boot ROM runs. -/
def BootSt.inRom : BootSt → Bool
  | .off => true | .flash => true | .recovery => true | _ => false

def State.toStandby (s : State) : State := s.modBoot fun b => { b with st := if b.st.inRom then b.st else .standby }

/-- A step of the power-up order begins (R683). It fails at its first rail for which the board configuration block names no regulator: at the first of
all where there is no block (R681, R684, R811). -/
def State.beginStep (s : State) (n : Nat) : State :=
  match (stepRails n).find? fun r => !s.boot.board.getLsbD r with
  | none => s.setPwr (.up n)
  | some r => (s.supplyEvent r 7).startDown.toStandby

/-- The power-up order begins (R683). -/
def State.startUp (s : State) : State :=
  (s.modBoot fun b => { b with st := if b.st.inRom then b.st else .rails }).beginStep 1

/-- A power-up step is complete (R683): after step 4 the fast domain leaves reset. -/
def powerUpStep (s : State) : State :=
  match s.supply.pwr with
  | .up n =>
    let s := s.modSup fun x => { x with good := x.good ||| railBits (stepRails n) }
    if n < 4 then s.beginStep (n + 1)
    else (s.setPwr .on).modBoot fun b => { b with st := if b.st = .rails then .edge else b.st }
  | _ => s

def execPowerUpStep (s : State) : Host.Outcome State Fault Refusal := .next (powerUpStep s)

/-- A power-down step is over (R685, R714): the order ends with REG_EN low, and a power-up order may follow. -/
def State.downStep (s : State) (n : Nat) : State :=
  let s := s.modSup fun x => { x with good := x.good &&& ~~~railBits (stepRails n) }
  if 1 < n then s.setPwr (.down (n - 1))
  else
    let again := s.supply.again
    let s := (s.setPwr .off).modSup fun x => { x with again := false }
    if again then s.startUp else s

/-- POWER_STEP_TIMEOUT (R684, R685): `rail` is the first rail of the step that is out of window. DESIGN CHOICE, log entry 9. -/
def powerStepTimeout (rail : BitVec 4) (s : State) : State :=
  match s.supply.pwr with
  | .up n => if rail.toNat ∈ stepRails n then (s.supplyEvent rail.toNat 7).startDown.toStandby else s
  | .down n => if rail.toNat ∈ stepRails n then (s.supplyEvent rail.toNat 7).downStep n else s
  | _ => s

def execPowerStepTimeout (rail : BitVec 4) (s : State) : Host.Outcome State Fault Refusal := .next (powerStepTimeout rail s)

/-- The power-down steps from `n` on. -/
def State.downAll (s : State) : Nat → State
  | 0 => s
  | n + 1 => (s.downStep (n + 1)).downAll n

/-- POWER_DOWN_ORDER (R685): the rest of the order in progress. DEDUCED, log entry 50. -/
def powerDownOrder (s : State) : State :=
  match s.supply.pwr with
  | .down n => s.downAll n
  | _ => s

def execPowerDownOrder (s : State) : Host.Outcome State Fault Refusal := .next (powerDownOrder s)

/-- A fault takes the device down to STANDBY (R700): sources 8 and 9. -/
def State.powerFault (s : State) (src : Nat) : State :=
  let s := s.fastReset src 2
  match s.supply.pwr with
  | .off => s.toStandby
  | .down _ => s.toStandby
  | _ => s.startDown.toStandby

/-- The rails come up again from STANDBY (R652): not while THERMTRIP_N is asserted (R900). -/
def State.wakeUp (s : State) : State :=
  if s.boot.st = .standby ∧ !s.thermal.trip then
    match s.supply.pwr with
    | .off => s.startUp
    | .down _ => s.modSup fun x => { x with again := true }
    | _ => s
  else s

/-! ## Rails (R676, R677, R717, R718) -/

/-- Millionths that a binary32 value holds, rounded down and rounded up; a negative value, a NaN or an infinity has none. -/
def microVolts (v : BitVec 32) : Option (Nat × Nat) :=
  let e := (v.extractLsb' 23 8).toNat
  let m := (v.extractLsb' 0 23).toNat
  if v.getLsbD 31 ∧ v ≠ 0x80000000 ∨ e = 255 then none
  else
    let (m, e) := if e = 0 then (m, 1) else (m + 2 ^ 23, e)
    let n := m * 1000000
    if 150 ≤ e then some (n * 2 ^ (e - 150), n * 2 ^ (e - 150))
    else some (n / 2 ^ (150 - e), (n + 2 ^ (150 - e) - 1) / 2 ^ (150 - e))

/-- The set value of VDDQ in µV at a fabric clock (R677). -/
def vddqSet (mhz : Nat) : Nat := if mhz = 1250 then 800000 else if mhz = 1125 then 750000 else 700000

/-- A window of ± `pct` percent about a nominal value. -/
def about (v pct : Nat) : Nat × Nat := (v * (100 - pct) / 100, v * (100 + pct) / 100)

/-- The operating window of a rail in µV (R676). VDDIO_E is 1.80 V or 3.30 V as its board has it. DEDUCED, log entry 50. -/
def State.railWindows (s : State) (r : Nat) : List (Nat × Nat) :=
  if r < 4 then [about (vddqSet s.fabricMhz) 3]
  else match r with
    | 4 => [about 750000 3] | 5 => [about 850000 3] | 6 => [(1710000, 1890000)] | 7 => [(2000000, 3600000)] | 8 => [(1710000, 1890000)]
    | 9 => [about 1800000 5, about 3300000 5] | 10 => [about 750000 3] | 11 => [about 1200000 3] | 12 => [about 800000 3]
    | 13 => [about 1200000 3] | _ => []

/-- A voltage lies in a rail's operating window. -/
def State.inWindow (s : State) (r : Nat) (v : BitVec 32) : Bool :=
  match microVolts v with
  | none => false
  | some (lo, hi) => (s.railWindows r).any fun w => decide (w.1 ≤ lo ∧ hi ≤ w.2)

/-- A voltage lies below a number of µV. -/
def below (v : BitVec 32) (n : Nat) : Bool := match microVolts v with | some (_, hi) => decide (hi < n) | none => true

/-- The rails of a running power-up order are the order's own matter; the others that are sequenced are watched while they are on. -/
def State.railOn (s : State) (r : Nat) : Bool := !sequenced r || decide (s.supply.pwr = .on)

/-- A fault of a sequenced rail (R717 code 2). DEDUCED, log entry 50. -/
def State.railFault (s : State) (r : Nat) : State := (s.supplyEvent r 2).powerFault srcSupply

/-- One rail is read over PMBus (R598, R717, R718). A rail that leaves its window is recorded when it does. DEDUCED, log entry 50. -/
def State.railRead (s : State) (x : RailReading) : State :=
  let r := x.rail
  if 14 ≤ r then s
  else if x.failed then s.supplyEvent r 1
  else
    let was := s.supply.good.getLsbD r
    let ok := s.inWindow r x.volts && s.railOn r
    let low := decide (r = 7) && below x.volts 2200000
    let wasLow := s.supply.vbatLow
    let wasDead := s.supply.rails.any fun e => decide (e.1 = 7) && below e.2.volts 1000000
    let s := s.modSup fun y =>
      { y with
        rails := put y.rails r ⟨x.volts, x.amps, x.temp, x.status⟩
        good := if ok then y.good ||| railBits [r] else y.good &&& ~~~railBits [r]
        vbatLow := if r = 7 then low else y.vbatLow }
    if sequenced r then
      if s.railOn r && x.hardFault then s.railFault r
      else if s.railOn r && was && !ok then s.supplyEvent r 1
      else s
    else
      let s := if low && !wasLow then s.supplyEvent 7 4 else s
      if decide (r = 7) && below x.volts 1000000 && !wasDead then s.supplyEvent 7 5 else s

/-- RAIL_POLL (R718): the 1 ms poll. -/
def execRailPoll (readings : List RailReading) (s : State) : Host.Outcome State Fault Refusal := .next (readings.foldl State.railRead s)

/-- SMBALERT_N (R717 code 3): STATUS_WORD is read, and code 1 or 2 applied. -/
def smbalertN (x : RailReading) (s : State) : State :=
  let s := s.supplyEvent x.rail 3
  if x.rail < 14 then
    let s := s.modSup fun y => { y with rails := put y.rails x.rail ⟨x.volts, x.amps, x.temp, x.status⟩ }
    if sequenced x.rail && s.railOn x.rail && x.hardFault then s.railFault x.rail else s.supplyEvent x.rail 1
  else s

def execSmbalertN (reading : RailReading) (s : State) : Host.Outcome State Fault Refusal := .next (smbalertN reading s)

/-! ## Power-fail (R690 to R692) -/

/-- POWER_FAIL_WARNING (R690, R717 code 6): VAON18 has left its window, BP rises, nothing more commits, REG_EN falls and the fast domain is held. DEDUCED, log entry 50. -/
def powerFailWarning (s : State) : State :=
  if s.supply.pfw ∨ s.boot.st = .off then s
  else
    let s := s.supplyEvent 6 6
    let up := s.fastUp
    let s := (s.modSup fun x => { x with pfw := true }).noteBp
    let s := if up then s.fastDown else s
    let s := s.retain 3 s.time.bytes
    (s.modSup fun x => { x with owed := up, pwr := .off, again := false, good := x.good &&& 0x380 }).hold srcPowerFail

def execPowerFailWarning (s : State) : Host.Outcome State Fault Refusal := .next (powerFailWarning s)

/-- POWER_FAIL_RECOVERY (R692): the reset is recorded with source 10, and the rails come up again. -/
def powerFailRecovery (s : State) : State :=
  if s.supply.pfw then
    let s := ((s.modSup fun x => { x with pfw := false }).noteBp).unhold srcPowerFail
    let s := if s.supply.owed then (s.resetRecord srcPowerFail 2).abandonLost else s.resetEvent srcPowerFail 2
    let s := s.modSup fun x => { x with owed := false }
    if s.boot.st.inRom || s.thermal.trip then s else s.startUp
  else s

def execPowerFailRecovery (s : State) : Host.Outcome State Fault Refusal := .next (powerFailRecovery s)

/-! ## Reset sources (R702 to R713) -/

/-- FAST_DOMAIN_RESET (R701, R712): a reset that was asked for starts, and its source holds until FAST_DOMAIN_RELEASE. -/
def fastDomainReset (source : BitVec 4) (s : State) : State :=
  let n := source.toNat
  if n ∈ s.supply.due then
    let s := s.modSup fun x => { x with due := x.due.filter fun m => !decide (m = n) }
    let s := (s.fastReset n (if n = srcClear then 3 else 2)).hold n
    if n = srcClear then s.clearRetention n 3 else s
  else s

def execFastDomainReset (source : BitVec 4) (s : State) : Host.Outcome State Fault Refusal := .next (fastDomainReset source s)

/-- FAST_DOMAIN_RELEASE (R675, R702): a source releases; REFCLK25 must measure good. DEDUCED, log entry 49. -/
def fastDomainRelease (source : BitVec 4) (s : State) : State :=
  let n := source.toNat
  if n ∈ s.supply.holders ∧ (n = srcFast ∨ n = srcClear ∨ (n = srcClock ∧ (look ClkMon.reset s.clkmon 0).failed = false)) then s.unhold n else s

def execFastDomainRelease (source : BitVec 4) (s : State) : Host.Outcome State Fault Refusal := .next (fastDomainRelease source s)

/-- RST_N_ASSERT (R703, R704). -/
def rstNAssert (s : State) : State :=
  if s.supply.rstn.isSome then s
  else
    let now := s.acy
    let s := (s.modSup fun x => { x with rstn := some now, overrode := false }).fastReset srcRstn 2
    s.hold srcRstn

def execRstNAssert (s : State) : Host.Outcome State Fault Refusal := .next (rstNAssert s)

/-- acy in one ms. -/
def acyPerMs : Nat := 25000

/-- The hold time of RST_N in ms (R703), 0 when it is not asserted. -/
def State.heldMs (s : State) : Nat := match s.supply.rstn with | some a => (s.acy - a) / acyPerMs | none => 0

/-- `ms` milliseconds pass, where the epoch in progress lets them. DESIGN CHOICE, log entry 62. -/
def State.passMs (s : State) (ms : Nat) : State := (s.passWithin (ms * acyPerMs * s.perAcy)).getD s

/-- RST_N_DEASSERT (R705 to R709, R831): `ms` more milliseconds of the hold pass first. DESIGN CHOICE, log entry 62. -/
def rstNDeassert (ms : Nat) (s : State) : State :=
  if s.supply.rstn.isNone then s
  else
    let s := s.passMs ms
    let clear := decide (8000 ≤ s.heldMs) && !s.supply.stuck && !s.supply.overrode
    let s := (s.modSup fun x => { x with rstn := none, stuck := false, override := false, overrode := false }).unhold srcRstn
    let s := if clear then s.clearRetention srcRstn 3 else s
    s.modBoot fun b => if b.st = .recovery then { b with st := .flash, restart := false } else b

def execRstNDeassert (ms : Nat) (s : State) : Host.Outcome State Fault Refusal := .next (rstNDeassert ms s)

/-- RESET_STUCK (R706): the hold time reaches 60 s. -/
def resetStuck (s : State) : State :=
  if s.supply.rstn.isSome && !s.supply.stuck then
    let s := s.passMs (60000 - s.heldMs)
    (s.modSup fun x => { x with stuck := true }).raise 0x0501 0 60
  else s

def execResetStuck (s : State) : Host.Outcome State Fault Refusal := .next (resetStuck s)

/-- RST_N_OVERRIDE is written with 1 while RST_N is asserted (R707): the pin stops holding the fast domain. -/
def State.overrideRstn (s : State) : State := (s.modSup fun x => { x with override := true, overrode := true }).unhold srcRstn

/-- PERST_N_ASSERT (R710). -/
def perstNAssert (s : State) : State :=
  if s.supply.perstn then s else ((s.modSup fun x => { x with perstn := true }).fastReset srcPerst 2).hold srcPerst

def execPerstNAssert (s : State) : Host.Outcome State Fault Refusal := .next (perstNAssert s)

/-- PERST_N_DEASSERT (R652, R710, R900): in STANDBY it wakes the device. -/
def perstNDeassert (s : State) : State :=
  if s.supply.perstn then ((s.modSup fun x => { x with perstn := false }).unhold srcPerst).wakeUp else s

def execPerstNDeassert (s : State) : Host.Outcome State Fault Refusal := .next (perstNDeassert s)

/-! ## The watchdog (R713, R824) -/

/-- The watchdog counts: it is enabled and has been started. -/
def State.wdtRuns (s : State) : Bool := s.supply.wdt.isSome && decide (s.setting 0x2220 1 = 1)

/-- LEFT of AON_WDT (R679). -/
def State.wdtLeft (s : State) : Nat :=
  match s.supply.wdt with
  | some a => if s.setting 0x2220 1 = 1 then s.setting 0x2220 2 - (s.acy - a) / acyPerMs else 0
  | none => 0

/-- KICK (R679, R713): the count begins again. -/
def execKick (s : State) : Host.Outcome State Fault Refusal :=
  .next (s.modSup fun x => { x with wdt := x.wdt.map fun _ => s.acy })

/-- The management core starts from its boot ROM with its reset values; the firmware data stay in retention SRAM (R554, R689, R713). -/
def State.coreRestart (s : State) : State :=
  { s.setBlk mgmtCore { Block.reset with ls := (s.blk mgmtCore).ls } with elt := { s.elt with lines := [], btb := [], targets := [], following := [] } }

/-- WATCHDOG_EXPIRY (R713): what is left of the timeout passes, and the management core restarts from its boot ROM. DEDUCED, log entry 59. -/
def watchdogExpiry (s : State) : State :=
  if s.wdtRuns then
    match s.toAcy (s.supply.wdt.getD 0 + s.setting 0x2220 2 * acyPerMs) with
    | none => s
    | some s =>
    let s := (s.modSup fun x => { x with wdt := none }).coreRestart.resetEvent srcWatchdog 1
    let s : State := { s with elt := { s.elt with requests := s.elt.requests.map fun r => { r with served := false } },
                                dirty := s.dirty.map fun d => if d.waiter = .elette then { d with waiter := .none } else d }
    s.modBoot fun b => { b with st := .flash, restart := true, idleAt := none }
  else s

def execWatchdogExpiry (s : State) : Host.Outcome State Fault Refusal := .next (watchdogExpiry s)

end Sys2Proof.Machine
end

