-- ==== Sys2Proof/Machine/Boot.lean ====
section
/-! DEFINITION. AON power-on and the loss of VAON18 (R689 to R698, R544, R545, R671), and the boot of R818: slots, verification, trials,
bring-up, RESTRICTED state, recovery and confirmation (chapter 20). -/

namespace Sys2Proof.Machine

/-! ## Flash-stored objects at AON power-on (R594, R613) -/

/-- The committed flash copy of an object, or its default. -/
def State.flashValue (s : State) (key : Nat) : Nat := look (settingDefault key) s.flash key

/-- Settings whose running values stand in `settings`. -/
def flashSettings : List Nat := [0x222001, 0x222002, 0x302003, 0x900101, 0x900102]

/-- Custodian keys from their flash copies (R602): all zeros marks an empty slot. -/
def State.flashKeys (s : State) : Tab (List Byte) :=
  [0, 1, 2, 3].foldl (fun t i =>
    let v := s.flashValue (0x902001 + i)
    if v = 0 then t else put t i (leBytes 32 v)) []

/-- Every flash-stored object takes its flash copy. -/
def State.loadFlash (s : State) : State :=
  let on k := decide (s.flashValue k = 1)
  { s with
    station := BitVec.ofNat 8 (s.flashValue 0x110001)
    keys := s.flashKeys
    settings := flashSettings.foldl (fun t k => store (settingDefault k) t k (s.flashValue k)) []
    ports := allPorts.foldl (fun t n => if on (0x700017 + 0x1000 * n) then t else put t n { DPort.reset with en := false }) []
    elt := { s.elt with
      etherType := BitVec.ofNat 16 (s.flashValue 0x110002), en := on 0x112001, forceLoop := on 0x112002
      phy0 := BitVec.ofNat 5 (s.flashValue 0x112003), phy1 := BitVec.ofNat 5 (s.flashValue 0x112004) } }

/-! ## VAON18 (R687, R689, R695) -/

/-- The next record that the writer would commit. -/
def Jnl.nextRec (j : Jnl) : Option Rec :=
  match j.cmdRecs, j.fifo, j.holding with
  | r :: _, _, _ => some r
  | [], .event e :: _, _ => some e.record
  | [], .summary c :: _, _ => some c.record
  | [], [], some h => some h.1
  | [], [], none => none

/-- The first `beats` 8-byte beats of a commit that never ended stand in their slot (R532, R545). -/
def State.tornSlot (s : State) (beats : Nat) : State :=
  match s.jnl.nextRec with
  | none => s
  | some r =>
    let n := s.jnl.next.toNat % 4096
    let r : Rec := if 0x10 ≤ r.ty.toNat then { r with planId := s.planId } else r
    let l := (recordBytes s.jnl.next s.jnl.gen r).take (8 * min beats 8) ++ (s.jnl.slot n).drop (8 * min beats 8)
    if beats = 0 then s else s.modJnl fun j => { j with ring := put j.ring n l }

/-- LOSS_OF_VAON18 (R650, R687): the AON domain stops. What stays is flash, fuses, retention and the model's own clock; `beats` says how much of a
commit in progress had been written when a board breaks R691. DEDUCED, log entry 59. -/
def lossOfVaon18 (beats : Nat) (s : State) : State :=
  if s.boot.st = .off then s
  else
    let s := if s.supply.pfw then s else s.tornSlot beats
    let r := State.reset
    { r with
      blocks := if (s.blk mgmtCore).ls = [] then [] else [(mgmtCore.toNat, { Block.reset with ls := (s.blk mgmtCore).ls })]
      pending := s.pending, freeCount := s.freeCount, fcy := s.fcy, acy := s.acy, hostMem := s.hostMem, lastPlanId := s.lastPlanId
      jnl := { s.jnl with cmdRecs := [], holding := none }
      hif := { Hif.reset with cmds := s.hif.cmds.filter fun c => !decide (c.phase = .ended) }
      repair := s.repair, place := s.place, flash := s.flash, time := s.time, ret := (s.retain 3 s.time.bytes).ret
      health := s.health.filter fun e => retainedCount e.1
      ledgers := s.ledgers.map fun e => (e.1, { e.2 with state := 0, terms := [] })
      clkmon := s.clkmon.map fun e => (e.1, { e.2 with failed := e.2.failed && decide (e.1 = 1), ppm := 0 })
      elt := { Elt.reset with delay := s.elt.delay }
      supply := { Supply.reset with latch := s.supply.latch }
      boot := { Boot.reset with slots := s.boot.slots, rollback := s.boot.rollback, revoked := s.boot.revoked } }

def execLossOfVaon18 (beats : Nat) (s : State) : Host.Outcome State Fault Refusal := .next (lossOfVaon18 beats s)

/-- The slot at HIF_JNL_NEXT at a warm start (R545). DEDUCED, log entry 45. -/
def State.warmJournal (s : State) : State :=
  let j := s.jnl
  let n := j.next.toNat % 4096
  let l := j.slot n
  if leAt l 0 8 ≠ j.next.toNat then s
  else if validRecord n j.gen l then s.modJnl fun j => { j with next := j.next + 1 }
  else (s.modJnl fun j => { j with ring := unlist j.ring n }).raise 0x0A00 (BitVec.ofNat 64 n) 1

/-- A warm start (R545, R671, R675, R697). DEDUCED, log entry 46. -/
def State.warmStart (s : State) (ticks : Nat) : State :=
  let old := s.time64
  let rtcBad := (look ClkMon.reset s.clkmon 1).failed
  let t := if rtcBad then { Time.reset with rtc := s.time.rtc } else s.time.resumed ticks
  let s : State := { s with time := t }
  let s := ((s.warmJournal).resetRecord 1 4).abandonLost
  if rtcBad then s.timeEvent 12 old else s.timeEvent 11 old

/-- A cold start (R544, R663, R698). DEDUCED, log entry 46. -/
def State.coldStart (s : State) : State :=
  let s : State := { s with time := .reset, hif := .reset }
  s.clearRetention 1 5

/-! ## Retained structures at AON power-on (R694, R695) -/

/-- A copy as retention SRAM holds it: its bytes, its count and its CRC-32C, with the bits of `flips` turned. -/
def RetCopy.image (c : RetCopy) (flips : List Nat) : List Byte :=
  let l := c.bytes ++ leBytes 4 c.count.toNat
  let l := l ++ leBytes 4 (crc32c l).toNat
  (l.zipIdx).map fun e => e.1 ^^^ BitVec.ofNat 8 (((List.range 8).filter fun i => flips.contains (8 * e.2 + i)).map fun i => 2 ^ i).sum

/-- The bytes and the count of a copy that passes its CRC. -/
def validCopy (l : List Byte) : Option (List Byte × Nat) :=
  let n := l.length - 4
  if 8 ≤ l.length ∧ leAt l n 4 = (crc32c (l.take n)).toNat then some (l.take (n - 4), leAt l (n - 4) 4) else none

/-- The valid copies of a structure, the newer and the older. `damage` names the bits that have turned, by structure, copy and place. -/
def State.copies (s : State) (damage : List (Nat × Bool × List Nat)) (n : Nat) : Option (List Byte × Nat) × Option (List Byte × Nat) :=
  let flips (newer : Bool) : List Nat := (damage.filter fun d => decide (d.1 = n ∧ d.2.1 = newer)).flatMap fun d => d.2.2
  match s.ret.find? fun e => decide (e.1 = n) with
  | none => (none, none)
  | some p => (validCopy (p.2.newer.image (flips true)), p.2.older.bind fun c => validCopy (c.image (flips false)))

/-- The copy that is used: the valid one with the higher count (R694, R812). -/
def usedCopy : Option (List Byte × Nat) → Option (List Byte × Nat) → Option (List Byte)
  | some a, some b => some (if b.2 ≤ a.2 then a.1 else b.1)
  | some a, none => some a.1
  | none, some b => some b.1
  | none, none => none

/-- A retained structure as it is found. -/
def State.retained (s : State) (damage : List (Nat × Bool × List Nat)) (n : Nat) : Option (List Byte) :=
  usedCopy (s.copies damage n).1 (s.copies damage n).2

/-- A flash record as it is found: a copy whose page fails its check is not used (R810, R844). -/
def State.stored (s : State) (damage : List (Nat × Bool × List Nat)) (pages : List (Nat × Bool)) (n : Nat) : Option (List Byte) :=
  usedCopy (if (n, true) ∈ pages then none else (s.copies damage n).1) (if (n, false) ∈ pages then none else (s.copies damage n).2)

/-- Entries of `n` bytes. -/
def chunks (n : Nat) (l : List Byte) : List (List Byte) := (List.range (l.length / n)).map fun i => (l.drop (n * i)).take n

/-- The repair log entry that 16 bytes are (R721). -/
def RepairEntry.ofBytes (l : List Byte) : RepairEntry :=
  ⟨BitVec.ofNat 2 (leAt l 0 1), BitVec.ofNat 3 (leAt l 0 1 / 4), BitVec.ofNat 8 (leAt l 1 1), BitVec.ofNat 8 (leAt l 2 1), BitVec.ofNat 8 (leAt l 3 1),
    BitVec.ofNat 32 (leAt l 4 4), BitVec.ofNat 64 (leAt l 8 8)⟩

/-- The state takes what the records of the persistent store say (R812): the challenge counter, the flash-stored objects, and the field entries of the
repair log, which a cold start reloads (R698, R722). A record that no copy holds takes its default (R844). -/
def State.takeRecords (s : State) (found : Nat → List Byte) : State :=
  let n := leAt (found recChallenge) 0 8
  { s with
    flash := (chunks 36 (found recObjects)).foldl (fun t l => put t (leAt l 0 4) (leAt l 4 32)) (if n = 0 then [] else [(challengeKey, n)])
    repair := (chunks 16 (found recRepair)).map RepairEntry.ofBytes }

/-- The state takes what the retained structures say. -/
def State.takeRetained (s : State) (found : Nat → List Byte) : State :=
  let counts := chunks 12 (found 1)
  { s with
    health := counts.foldl (fun t l => store 0 t (leAt l 0 4) (leAt l 4 8)) (s.health.filter fun e => !retainedCount e.1)
    repair := (chunks 16 (found 2)).map RepairEntry.ofBytes
    time := { s.time with ns := leAt (found 3) 0 4 % 1000000000, sec := BitVec.ofNat 32 (leAt (found 3) 4 4), rtc := BitVec.ofNat 64 (leAt (found 3) 8 8),
                          valid := decide (leAt (found 3) 16 1 = 1) }
    lastPlanId := BitVec.ofNat 32 (leAt (found 4) 0 4) }

/-- The first retained structure without a valid copy, by its order in the retained region (R554, R679). -/
def State.firstInvalid (s : State) (damage : List (Nat × Bool × List Nat)) : Option Nat :=
  [1, 2, 3, 4].find? fun n => (s.retained damage n).isNone

/-- Records of the persistent store that have been written and that no copy holds (R844). -/
def State.lostRecords (s : State) (read : Nat → Option (List Byte)) : List Nat :=
  [recGeneration, recChallenge, recRepair, recObjects].filter fun n => (s.ret.any fun e => decide (e.1 = n)) && (read n).isNone

/-- AON_POWER_ON (R689, R694, R695, R812): `ticks` of XTAL32K have passed in RETAIN; `damage` names the bits of the copies of retained structures and of
flash records that have turned since they were written, and `pages` the copies of flash records whose page fails its check; `sound` says that the generation
which retention holds has kept its value. DESIGN CHOICE, log entries 7, 62, 77. -/
def aonPowerOn (ticks : Nat) (damage : List (Nat × Bool × List Nat)) (sound : Bool) (pages : List (Nat × Bool)) (s : State) : State :=
  if s.boot.st ≠ .off then s
  else
    let latch := s.supply.latch
    let invalid := s.firstInvalid damage
    let read := s.stored damage pages
    let gen : W64 := BitVec.ofNat 64 (leAt ((read recGeneration).getD []) 0 8)
    let warm := latch && invalid.isNone && sound && decide (gen = s.jnl.gen)
    let lost := s.lostRecords read
    let found n := (s.retained damage n).getD []
    let s := (s.takeRecords fun n => (read n).getD []).modJnl fun j => { j with gen := gen }
    let s := (if warm then s.takeRetained found else s).loadFlash
    let s := s.modSup fun x => { x with warm := warm, failed := if latch && !warm then BitVec.ofNat 8 (invalid.getD 0) else 0 }
    let s := if warm then s.warmStart ticks else s.coldStart
    let s := lost.foldl (fun s _ => s.supplyEvent 0xFE 9) s
    s.modBoot fun b => { b with st := .flash }

def execAonPowerOn (ticks : Nat) (damage : List (Nat × Bool × List Nat)) (sound : Bool) (pages : List (Nat × Bool)) (s : State) :
    Host.Outcome State Fault Refusal :=
  .next (aonPowerOn ticks damage sound pages s)

/-! ## Manifests (R813 to R816, R820, R821) -/

def ImgSlot.at_ (x : ImgSlot) (a n : Nat) : Nat := leAt x.manifest a n
def ImgSlot.bytes (x : ImgSlot) (a n : Nat) : List Byte := (x.manifest.drop a).take n

def ImgSlot.version (x : ImgSlot) : BitVec 32 := if x.magic then BitVec.ofNat 32 (x.at_ 8 4) else 0
def ImgSlot.svn (x : ImgSlot) : Nat := x.at_ 12 4
def ImgSlot.confirmed (x : ImgSlot) : Bool := !x.word.getLsbD 8
def ImgSlot.rejected (x : ImgSlot) : Bool := !x.word.getLsbD 9

/-- Trials left (R814). -/
def ImgSlot.trials (x : ImgSlot) : Nat := boolBit (x.word.getLsbD 0) + boolBit (x.word.getLsbD 1) + boolBit (x.word.getLsbD 2)

/-- The highest set bit of TRIALS cleared (R824). -/
def lessTrials (w : BitVec 32) : BitVec 32 :=
  if w.getLsbD 2 then w &&& ~~~4 else if w.getLsbD 1 then w &&& ~~~2 else w &&& ~~~1

/-- Bytes of the manifest that are reserved and 0. -/
def reservedBytes : List Nat :=
  [6, 7, 18, 19, 30, 31, 73, 74, 75, 76, 77, 78, 79] ++ [80, 128, 176].flatMap fun c => [c + 1, c + 2, c + 3, c + 12, c + 13, c + 14, c + 15]

/-- The fused key hash that a manifest's key matches, if it is not revoked. -/
def State.keyOf (s : State) (x : ImgSlot) : Option Nat :=
  [0, 1].find? fun i => decide (sha256 (x.bytes 224 32) = Config.keyHash i) && !s.boot.revoked.getLsbD i

/-- The manifest passes (R820). DESIGN CHOICE, log entry 3. -/
def State.manifestPasses (s : State) (x : ImgSlot) : Bool :=
  x.magic && decide (x.bytes 0 4 = [0x4D, 0x44, 0x4D, 0x46]) && decide (x.at_ 4 2 = 1) && !x.rejected && (s.keyOf x).isSome
    && Config.ed25519 (x.bytes 224 32) (x.bytes 0 256) (x.bytes 256 64) && decide (s.boot.rollback ≤ x.svn)
    && reservedBytes.all (fun a => decide (x.at_ a 1 = 0)) && decide (x.at_ 16 1 < 4) && decide (x.at_ 17 1 < 4)

/-- A mask-ROM level is listed. -/
def ImgSlot.listsRom (x : ImgSlot) : Bool := (List.range 8).any fun i => decide (x.at_ (64 + i) 1 = Config.romLevel.toNat ∧ x.at_ (64 + i) 1 ≠ 0)

/-- A slot is compatible with this part (R821). -/
def ImgSlot.compatible (x : ImgSlot) : Bool :=
  (BitVec.ofNat 8 (x.at_ 16 1)).getLsbD (if Config.stepping = 0xB1 then 1 else 0)
    && (List.range 8).any (fun i => decide (x.at_ (32 + 4 * i) 4 = Config.bootRomVersion.toNat ∧ x.at_ (32 + 4 * i) 4 ≠ 0)) && x.listsRom

/-- A component entry keeps R816: its type, its place in the slot and its length. -/
def ImgSlot.componentOk (x : ImgSlot) (i most : Nat) : Bool :=
  let c := 80 + 48 * i
  let off := x.at_ (c + 4) 4
  let len := x.at_ (c + 8) 4
  decide (x.at_ c 1 = i + 1 ∧ 0x2000 ≤ off ∧ off % 4096 = 0 ∧ len ≤ most ∧ off + len ≤ 0x7FE000)

/-- The bytes of a slot's component, as they are read from flash; none where a page of it fails its check (R810). -/
def componentBytes (inp : BootInput) (slot i : Nat) : Option (List Byte) :=
  (inp.components.find? fun c => decide (c.1 = slot ∧ c.2.1 = i)).map fun c => c.2.2

/-- A component has the length and the SHA-256 that its entry states (R816, R823). -/
def ImgSlot.hashOk (x : ImgSlot) (i : Nat) (l : Option (List Byte)) : Bool :=
  match l with
  | none => false
  | some l => decide (l.length = x.at_ (80 + 48 * i + 8) 4) && decide (sha256 l = x.bytes (80 + 48 * i + 16) 32)

/-- Component verification of slot `n` (R823). -/
def ImgSlot.verifies (x : ImgSlot) (inp : BootInput) (n : Nat) : Bool :=
  x.componentOk 0 (4 * 2 ^ 20) && x.componentOk 1 (512 * 2 ^ 10) && x.componentOk 2 1024 && [0, 1, 2].all fun i => x.hashOk i (componentBytes inp n i)

/-! ## Selection (R822 to R824) -/

def State.slotImg (s : State) (n : Nat) : ImgSlot := look ImgSlot.erased s.boot.slots n

def State.setSlot (s : State) (n : Nat) (x : ImgSlot) : State := s.modBoot fun b => { b with slots := put b.slots n x }

/-- A boot event (R841). -/
def State.bootEvent (s : State) (code : Nat) (version : BitVec 32) : State :=
  s.raise 0x0800 (BitVec.ofNat 64 code) (version.zeroExtend 64)

/-- `better` of R822. -/
def better (x y : ImgSlot) : Bool :=
  if x.compatible ≠ y.compatible then x.compatible
  else if x.version ≠ y.version then decide (y.version < x.version)
  else x.confirmed && !y.confirmed

/-- One slot of the loop of R822. DEDUCED, log entry 51. -/
def State.considerSlot (s : State) (out : List Nat) (best : Option Nat) (n : Nat) : State × Option Nat :=
  let x := s.slotImg n
  let ok := s.manifestPasses x && !decide (n ∈ out)
  let s := s.setSlot n { x with passed := s.manifestPasses x }
  if !ok then (s, best)
  else if !x.confirmed && decide (x.trials = 0) then
    ((s.setSlot n { s.slotImg n with word := x.word &&& ~~~0x200 }).bootEvent 4 x.version, best)
  else match best with
    | none => (s, some n)
    | some m => (s, if better x (s.slotImg m) then some n else some m)

/-- `select` of R822, without the slots of `out`. -/
def State.selectSlot (s : State) (out : List Nat) : State × Option Nat :=
  let r := s.considerSlot out none 0
  r.1.considerSlot out r.2 1

/-- One selection with component verification (R823): the choice, or the slot that fails and is left out next. DEDUCED, log entry 51. -/
def State.trySlot (s : State) (inp : BootInput) (out : List Nat) : State × (Option Nat ⊕ Nat) :=
  let r := s.selectSlot out
  match r.2 with
  | none => (r.1, .inl none)
  | some n =>
    if (r.1.slotImg n).verifies inp n then (r.1, .inl (some n))
    else (r.1.bootEvent 9 (r.1.slotImg n).version, .inr n)

/-- Selection with component verification (R823): at most both slots are tried. -/
def State.chooseSlot (s : State) (inp : BootInput) : State × Option Nat :=
  let r := s.trySlot inp []
  match r.2 with
  | .inl c => (r.1, c)
  | .inr n =>
    let t := r.1.trySlot inp [n]
    match t.2 with
    | .inl c => (t.1, c)
    | .inr _ => (t.1, none)

/-! ## Steps 2 to 4 (R818, R819, R824, R828, R831) -/

/-- The device enters recovery (R831): the fast domain is held in STANDBY, and no bundle runs. DEDUCED, log entry 50. -/
def State.enterRecovery (s : State) : State :=
  let s : State := { s with bundle := ⟨0, 0, 0, 0, 0, 0⟩, restricted := false }
  let s := if s.fastUp then s.powerFault srcWatchdog else match s.supply.pwr with | .up _ => s.startDown | _ => s
  (s.modBoot fun b => { b with st := .recovery, slot := none }).bootEvent 7 0

/-- What the running bundle declares. -/
def ImgSlot.bundle (x : ImgSlot) : Bundle :=
  ⟨x.version, BitVec.ofNat 16 (x.at_ 20 2), BitVec.ofNat 16 (x.at_ 22 2), BitVec.ofNat 16 (x.at_ 24 2), BitVec.ofNat 16 (x.at_ 26 2),
   BitVec.ofNat 16 (x.at_ 28 2)⟩

/-- The end of the boot: IDLE or RESTRICTED (R818, R825). -/
def State.bootDone (s : State) (st : BootSt) : State :=
  let now := s.acy
  (s.modBoot fun b => { b with st := st, idleAt := b.idleAt.or (some now) }).modHif fun h => { h with ready := true }

/-- The board configuration block (R811): absent where its page fails its check, or its magic, version or CRC is wrong. -/
def boardBlock (inp : BootInput) : Option (List Byte) :=
  let l := inp.board.take 256
  if l.length = 256 ∧ l.take 4 = [0x4D, 0x44, 0x42, 0x43] ∧ leAt l 4 2 = 1 ∧ leAt l 252 4 = (crc32c (l.take 252)).toNat then some l else none

/-- The rails for which the block names a regulator: PRESENT of the rail map (R681, R811). -/
def boardRails (inp : BootInput) : BitVec 14 :=
  match boardBlock inp with
  | some l => railBits ((List.range 14).filter fun r => decide (leAt l (8 + 4 * r + 2) 1 % 2 = 1))
  | none => 0

/-- DUMMY (R811, R819): the override of the board configuration block, or what SFDP gives. DEDUCED, log entry 51. -/
def bootDummy (inp : BootInput) (sfdp : BitVec 4) : BitVec 4 :=
  match boardBlock inp with
  | some l => if leAt l 64 1 < 16 then BitVec.ofNat 4 (leAt l 64 1) else sfdp
  | none => sfdp

/-- Step 4 (R683, R714). DEDUCED, log entry 50. -/
def State.bootRails (s : State) (board : BitVec 14) : State :=
  let again := s.boot.restart
  let s := s.modBoot fun b => { b with board := board, st := .rails, restart := false }
  match s.supply.pwr, again with
  | .off, true => s.modBoot fun b => { b with st := .standby }
  | .off, false => s.startUp
  | .on, _ => s.modBoot fun b => { b with st := .edge }
  | .up _, _ => s.startDown.modSup fun x => { x with again := true }
  | .down _, _ => s.modSup fun x => { x with again := true }

/-- The boot ROM jumps to the firmware of slot `n`: trial accounting, the watchdog, and the image switch of R828. -/
def State.bootJump (s : State) (n : Nat) (board : BitVec 14) (patch : List Byte) : State :=
  let x := s.slotImg n
  let now := s.acy
  let s := if x.confirmed then s.bootEvent 1 x.version else (s.setSlot n { x with word := lessTrials x.word }).bootEvent 2 x.version
  let s : State := { s with bundle := x.bundle, restricted := !x.compatible && !s.override }
  let s := (s.modBoot fun b => { b with slot := some n, patch := patch }).modSup fun y => { y with wdt := some now }
  if s.fastUp ∧ s.boot.loaded = some n then s.bootDone .idle
  else if s.fastUp ∧ s.boot.loaded.isSome then
    let s := (s.modBoot fun b => { b with st := .edge, board := board }).bootEvent 11 x.version
    s.fastReset srcFast 2
  else s.bootRails board

/-- Steps 2 to 4. A bundle may have been written into any slot but the one from which the AON firmware ran (R829, R830). -/
def State.bootFlash (s : State) (inp : BootInput) : State :=
  let s := inp.programmed.foldl (fun s p => if p.1 < 2 ∧ s.boot.slot ≠ some p.1 then s.setSlot p.1 ⟨true, 0xFFFFFFFF, padTo 320 (p.2.take 320), false⟩ else s) s
  match inp.sfdp with
  | none => s.enterRecovery
  | some d =>
    let s := s.modBoot fun b => { b with dummy := bootDummy inp d, xip := true }
    match s.chooseSlot inp with
    | (s, none) => s.enterRecovery
    | (s, some n) => s.bootJump n (boardRails inp) ((componentBytes inp n 2).getD [])

/-! ## Steps 5 to 10 (R40, R41, R818, R832 to R835, R755) -/

/-- A start-up failure (R40, R41): the device does not reach IDLE. E1 counts as unreachable when either of its two connections fails (DESIGN CHOICE, log
entry 70), unless its own self-test has failed. DEDUCED, log entry 51. -/
def State.startFail (s : State) (die other code detail : Nat) : State :=
  let s := s.raise 0x0301 (BitVec.ofNat 64 die) (BitVec.ofNat 64 (code + 256 * other + 2 ^ 16 * detail))
  let s := if s.startFailed then s else s.setCounter 0x4000 2 (die + 16 * (if other = 0xFF then 15 else other) + 256 * code)
  let s : State :=
    if 4 ≤ die ∧ code ≤ 3 then { s with dies := put s.dies (die - 4) 1 }
    else if other = 5 ∧ look 0 s.dies 1 = 0 then { s with dies := put s.dies 1 2 }
    else s
  s.modBoot fun b => { b with st := .failed }

/-- A start-up sweep's failing blocks become candidates (R754, R755), and the repair map is applied. -/
def State.startSweep (s : State) (l : List (QuarterId × Nat × Nat × Nat)) : State :=
  let s := (l.foldl (fun s x => s.candidateAt x.1 x.2.1 x.2.2.1 2 (x.2.2.2 % 128)) s).nodesTested 15 l
  let each (s : State) (q : Nat) : State :=
    let n := (l.filter fun x => decide (x.1.toNat = q)).length
    (s.setCounter (0x4010 + q) 5 n).raise 0x0600 (BitVec.ofNat 64 q) (BitVec.ofNat 64 (6 + 0xFFFF00 + 2 ^ 40 * min n 255))
  ([0, 1, 2, 3].foldl each s).applyRepair.1

/-- A block whose monitor has ended its start-up with ewait (R93, R376), with the patch in its patch region (R94, R95). DEDUCED, log entry 28. -/
def Block.booted (level : BitVec 8) (patch : List Byte) : Block :=
  { Block.reset with im := mstore [] 0x17C00 (patch.take 1024), patch := level, core := { Core.reset with fetching := false, stopped := true } }

/-- PATCH_LEVEL of the blocks and the patch (R818, R835), and the event when it is withheld. -/
def State.patchLevel (s : State) : State × BitVec 8 × List Byte :=
  let x := s.slotImg (s.boot.slot.getD 0)
  if s.override && !x.listsRom then (s.bootEvent 10 x.version, 0, []) else (s, BitVec.ofNat 8 (x.at_ 72 1), s.boot.patch)

/-- Steps 7 to 10. -/
def State.bootLinks (s : State) (inp : BootInput) : State :=
  let s := s.modBoot fun b => { b with loaded := b.slot }
  let s := s.eachPort fun s p =>
    let x := s.port p
    if !x.en then s.linkTo p .disabled none else if x.st = .disabled then s.linkTo p .down none else s
  let s := s.startSweep inp.sweepFails
  match s.patchLevel with
  | (s, level, patch) =>
    let s : State :=
      { s with blocks := s.blocks.filter fun e => decide (e.1 = mgmtCore.toNat)
               rest := (List.range 8).foldl (fun t q => put t q (Block.booted level patch)) [] }
    (s.restartPlls s.quarterWorks 1000).bootDone .idle

/-- Steps 5 and 6: the edge dies come up, with the PCI Express link; RESTRICTED state ends the sequence. -/
def State.bootEdge (s : State) (inp : BootInput) : State :=
  let up (s : State) : State :=
    s.modHif fun h => { h with linkUp := true, width := inp.pcieWidth, rate := inp.pcieRate, flitMode := inp.pcieFlit }
  match inp.startFailures.filter fun f => decide (f.1 < 6 ∧ 1 ≤ f.2.2.1 ∧ f.2.2.1 ≤ 6) with
  | f :: l =>
    (f :: l).foldl (fun s f => s.startFail f.1 f.2.1 f.2.2.1 f.2.2.2) (if (f :: l).any fun f => decide (f.1 = 4 ∧ f.2.2.1 ≤ 3) then s else up s)
  | [] =>
    let s := up s
    if s.restricted then
      let s := s.eachPort fun s p => s.linkTo p .disabled none
      (s.bootEvent 5 s.bundle.version).bootDone .restricted
    else s.bootLinks inp

/-- BOOT_SEQUENCE (R818): the boot goes on from where it stands, as far as the rails and the resets let it.
DESIGN CHOICE, log entries 7, 57. DEDUCED, log entry 51. -/
def bootSequence (inp : BootInput) (s : State) : State :=
  match s.boot.st with
  | .flash => s.bootFlash inp
  | .edge => if s.fastUp then s.bootEdge inp else s
  | .links => if s.fastUp then s.bootLinks inp else s
  | _ => s

def execBootSequence (inp : BootInput) (s : State) : Host.Outcome State Fault Refusal := .next (bootSequence inp s)

/-- The override of RESTRICTED state is applied (R834, R835): the boot goes on from step 7. -/
def State.applyOverride (s : State) : State :=
  let s : State := { s with override := true, restricted := false }
  (s.modBoot fun b => { b with st := .links }).bootEvent 6 s.bundle.version

/-! ## Confirmation (R825) -/

/-- CONFIRMATION (R825, R844): 60 s after the device first reached IDLE or RESTRICTED on this start; what is left of them passes. A fuse that fails to
read back gives its event RESULT 0. DESIGN CHOICE, log entry 62. -/
def confirmation (rollOk revokeOk : Bool) (s : State) : State :=
  match s.boot.slot, s.boot.idleAt with
  | some n, some a =>
    let x := s.slotImg n
    if x.confirmed then s
    else
      match s.toAcy (a + 60000 * acyPerMs) with
      | none => s
      | some s =>
      let v := x.version
      let adv := decide (x.at_ 17 1 % 2 = 1 ∧ s.boot.rollback < x.svn)
      let s := if adv then (s.modBoot fun b => { b with rollback := if rollOk then x.svn else b.rollback }).bootEvent 8 (if rollOk then v else 0) else s
      let other := match s.keyOf x with | some 0 => 1 | _ => 0
      let rev := decide (2 ≤ x.at_ 17 1)
      let s :=
        if rev then
          (s.modBoot fun b => { b with revoked := if revokeOk then b.revoked ||| (1#2 <<< other) else b.revoked }).bootEvent 12 (if revokeOk then v else 0)
        else s
      (s.setSlot n { x with word := x.word &&& ~~~0x100 }).bootEvent 3 v
  | _, _ => s

def execConfirmation (rollOk revokeOk : Bool) (s : State) : Host.Outcome State Fault Refusal := .next (confirmation rollOk revokeOk s)

end Sys2Proof.Machine
end

