-- ==== Sys2Proof/Machine/ClockMon.lean ====
section
/-! DEFINITION. The clock monitors (R628, R631, R674, R675) and the thermal monitor (R880, R881, R895 to R901, R904). -/

namespace Sys2Proof.Machine

/-! ## Clock monitors -/

def State.monitor (s : State) (d : Nat) : ClkMon := look ClkMon.reset s.clkmon d

/-- AON_CLKMON_d (R631). -/
def ClkMon.word (m : ClkMon) : W64 := BitVec.ofNat 64 (boolBit m.failed + 2 ^ 16 * m.ppm.toNat + 2 ^ 32 * m.fails.toNat)

/-- The port of a link goes DOWN with CAUSE 2 (R472, R675). -/
def State.linkClockLost (s : State) (p : Nat) : State :=
  if (s.port p).st = .disabled ∨ (s.port p).st = .down then s else s.linkTo p .down (some 2)

/-- A quarter's clock has failed (R84, R675): the plan halts at once, and the quarter stays OFF until PLAN_STOP or PLAN_UNLOAD. -/
def State.quarterClockLost (s : State) (q : Nat) : State :=
  let s := (s.haltNow rowClock).stopPll q
  s.setPll q { s.pll q with failed := true }

/-- E1 no longer works (R43, R675): its ports are down. -/
def State.e1Lost (s : State) : State :=
  let s : State := { s with dies := put s.dies 1 2 }
  [4, 5, 6, 7].foldl State.linkClockLost s

/-- The effect of a failed domain (R675). -/
def State.clockEffect (s : State) (d : Nat) (port : PortId) : State :=
  match d with
  | 0 =>
    let s := (s.setLocks false false s.timeBefore).haltNow rowClock
    ((s.eachPort State.linkClockLost).fastReset srcClock 2).hold srcClock
  | 2 => { s with elt := { s.elt with frame := none } }
  | 3 => s.quarterClockLost 0
  | 4 => s.quarterClockLost 1
  | 5 => s.quarterClockLost 2
  | 6 => s.quarterClockLost 3
  | 7 => s.haltNow rowClock
  | 8 => (s.haltNow rowClock).e1Lost
  | 9 => s.linkClockLost port.toNat
  | 10 => (s.clearHif 2).modHif fun h => { h with cfg := .reset, linkUp := false, width := 0, rate := 0, flitMode := false }
  | _ => s

/-- CLOCK_MONITOR_FAILURE (R674, R675): domain `d` has stopped, or lies `ppm` off; `port` is the Dzixon port concerned when d is 9. -/
def clockMonitorFailure (d : BitVec 4) (port : PortId) (stopped : Bool) (ppm : BitVec 16) (s : State) : State :=
  let n := d.toNat
  let m := s.monitor n
  if 10 < n ∨ m.failed then s
  else
    let f : BitVec 32 := if m.fails = 0xFFFFFFFF then m.fails else m.fails + 1
    let s : State := { s with clkmon := put s.clkmon n ⟨true, if stopped then m.ppm else ppm, f⟩ }
    let s := s.raise 0x0402 (BitVec.ofNat 64 n) (if stopped then 1 else 2)
    let s := if 3 ≤ n ∧ n ≤ 6 then s.bump (0x2110 + n - 3) 2 else s
    s.clockEffect n port

def execClockMonitorFailure (d : BitVec 4) (port : PortId) (stopped : Bool) (ppm : BitVec 16) (s : State) : Host.Outcome State Fault Refusal :=
  .next (clockMonitorFailure d port stopped ppm s)

/-- CLOCK_MONITOR_GOOD (R631, R674): a failed domain has been restarted and measures good. -/
def clockMonitorGood (d : BitVec 4) (ppm : BitVec 16) (s : State) : State :=
  let n := d.toNat
  let m := s.monitor n
  if n ≤ 10 ∧ m.failed then
    ({ s with clkmon := put s.clkmon n { m with failed := false, ppm := ppm } } : State).raise 0x0402 (BitVec.ofNat 64 n) 3
  else s

def execClockMonitorGood (d : BitVec 4) (ppm : BitVec 16) (s : State) : Host.Outcome State Fault Refusal := .next (clockMonitorGood d ppm s)

/-! ## Thermal sites (R880, R881) -/

def State.site (s : State) (n : Nat) : Site := look Site.reset s.thermal.sites n

def State.modTherm (s : State) (f : Thermal → Thermal) : State := { s with thermal := f s.thermal }

/-- The die of a site: quarters 0 to 3, edge dies 4 and 5, and 6 for the AON domain's site 72. -/
def dieOf (n : Nat) : Nat := if n < 64 then n / 16 else 4 + (n - 64) / 4

/-- Sites of a die. -/
def sitesOf (d : Nat) : List Nat := (List.range 73).filter fun n => decide (dieOf n = d)

/-- The rails of a site's die are up: those of the fast domain, and VAON18 for site 72. -/
def State.sitePowered (s : State) (n : Nat) : Bool := decide (n = 72) || decide (s.supply.pwr = .on)

/-- A site's reading counts (R881, R901). -/
def State.siteValid (s : State) (n : Nat) : Bool := s.sitePowered n && (s.site n).valid && !(s.site n).failed

/-- 105.0 °C, in units of 0.125 °C. -/
def temp105 : Int := 840

/-- Three or more sensors of a die have failed (R901). -/
def State.dieBlind (s : State) (d : Nat) : Bool :=
  decide (3 ≤ ((sitesOf d).filter fun n => (s.site n).failed).length)

/-- The site of the highest valid reading of sites 0 to 71 (R881, R895), the lowest-numbered one among equals. -/
def State.hottest (s : State) : Option Nat :=
  (List.range 72).foldl (fun (best : Option Nat) n =>
    if !s.siteValid n then best
    else match best with
      | none => some n
      | some m => if (s.site m).temp.toInt < (s.site n).temp.toInt then some n else some m) none

/-- The highest valid reading. -/
def State.peakTemp (s : State) : Option Int := s.hottest.map fun n => (s.site n).temp.toInt

/-- A die other than the AON domain counts as reading 105.0 °C. -/
def State.anyBlind (s : State) : Bool := (List.range 6).any s.dieBlind

/-- WARN and STOP follow the highest reading (R895, R896, R901, R904). -/
def State.thresholds (s : State) (site : Nat) : State :=
  let t := s.thermal
  let high (n : Int) : Bool := match s.peakTemp with | some x => decide (n ≤ x) | none => false
  let warn := high 760 || (t.warn && high 720)
  let stop := s.anyBlind || high temp105 || (t.stop && high 800)
  let s := s.modTherm fun t => { t with warn := warn, stop := stop }
  let s := if warn && !t.warn then s.raiseThermal 0x0400 site 1 else if !warn && t.warn then s.raiseThermal 0x0400 site 2 else s
  if stop && !t.stop then s.raiseThermal 0x0400 site 3 else if !stop && t.stop then s.raiseThermal 0x0400 site 4 else s

/-- A reading differs by more than 15 °C from the mean of the other valid sensors of its die (R901). -/
def State.isFar (s : State) (n : Nat) (x : Int) : Bool :=
  let l := ((sitesOf (dieOf n)).filter fun m => decide (m ≠ n) && s.siteValid m).map fun m => (s.site m).temp.toInt
  let k : Int := l.length
  decide (k ≠ 0) && decide (120 * k < (x * k - l.sum).natAbs)

/-- SENSOR_CONVERSION (R880, R895, R901): `reading` is in units of 0.125 °C. -/
def sensorConversion (site : BitVec 7) (reading : BitVec 16) (s : State) : State :=
  let n := site.toNat
  if 72 < n ∨ !s.sitePowered n then s
  else
    let x := reading.toInt
    let old := s.site n
    let far := if s.isFar n x then old.far + 1 else 0
    let bad := old.failed || decide (x < -320 ∨ 1200 < x) || decide (8 ≤ far)
    let blind := s.dieBlind (dieOf n)
    let s := s.modTherm fun t => { t with sites := put t.sites n ⟨reading, true, bad, far⟩ }
    let s := if bad && !old.failed then s.raiseThermal 0x0400 n 7 else s
    let s := if s.dieBlind (dieOf n) && !blind && decide (n < 72) then s.raiseThermal 0x0400 n 8 else s
    s.thresholds n

def execSensorConversion (site : BitVec 7) (reading : BitVec 16) (s : State) : Host.Outcome State Fault Refusal :=
  .next (sensorConversion site reading s)

/-- AON_THERM_STATE (R881). -/
def State.thermWord (s : State) : W64 :=
  let t := s.thermal
  let hot := s.hottest.getD 0
  let temp := if s.hottest.isSome then (s.site hot).temp.toNat else 0
  BitVec.ofNat 64 (boolBit t.warn + 2 * boolBit t.stop + 4 * boolBit t.trip + 2 ^ 8 * hot + 2 ^ 16 * temp)

/-- AON_THERM_SITEs (R881). -/
def State.siteWord (s : State) (n : Nat) : W64 :=
  BitVec.ofNat 64 ((s.site n).temp.toNat + 2 ^ 16 * boolBit (s.siteValid n) + 2 ^ 17 * boolBit (s.site n).failed)

/-- THERMTRIP_ASSERT (R899): a comparator of sites 0 to 71 trips; the plan halts at once, and the device goes to STANDBY. -/
def thermtripAssert (site : BitVec 7) (s : State) : State :=
  if s.thermal.trip ∨ 71 < site.toNat then s
  else
    let now := s.acy
    let s := (s.modTherm fun t => { t with trip := true, tripAt := now }).raiseThermal 0x0400 site.toNat 5
    (s.haltNow rowThermtrip).powerFault srcThermal

def execThermtripAssert (site : BitVec 7) (s : State) : Host.Outcome State Fault Refusal := .next (thermtripAssert site s)

/-- THERMTRIP_RELEASE (R900): 60 s after its assertion, once site 72 reads below 60.0 °C. -/
def thermtripRelease (s : State) : State :=
  if s.thermal.trip && s.siteValid 72 && decide ((s.site 72).temp.toInt < 480) then
    let s := (s.passWithin ((s.thermal.tripAt + 60000 * acyPerMs - s.acy) * s.perAcy)).getD s
    (s.modTherm fun t => { t with trip := false }).raiseThermal 0x0400 0xFF 6
  else s

def execThermtripRelease (s : State) : Host.Outcome State Fault Refusal := .next (thermtripRelease s)

end Sys2Proof.Machine
end

