-- ==== Sys2Proof/Machine/Serve.lean ====
section
/-! DEFINITION. Access to a block from outside it (R99, R351, R516, R517, R732), shared by the footpath nodes, BAR2, the tensor commands and the
management core. -/

namespace Sys2Proof.Machine

/-- How an access from outside a block ends: with the bytes read (none for a write), or with an ERR code of R344. -/
inductive Reached where
  | ok (bytes : List Byte)
  | err (code : Nat)
  deriving DecidableEq, Repr

/-- The world tag that a code names (R416). -/
def WTag.ofCode : BitVec 2 → Option WTag
  | 0 => some .a | 1 => some .b | 2 => some .m | _ => none

/-- The bytes of the control registers from offset `off` on, as a context reads them (R99). -/
def State.crBytes (s : State) (b : BlockId) (c : Ctx) (off n : Nat) : List Byte :=
  (List.range' off n).map fun i => BitVec.ofNat 8 ((s.crRead b (i / 8 * 8) c).toNat / 2 ^ (8 * (i % 8)))

/-- A read of `n` bytes at local address `a` of a block with a world tag (R351): the rights are those of the world's supervisor. -/
def State.blockRead (s : State) (b : BlockId) (t : WTag) (a n : Nat) (ecc : Ecc) : State × Reached :=
  let c := (Who.foot t).ctx
  let x := s.blk b
  if !s.reachable b then (s, .err 2)
  else if inLs a n then
    if !x.priv.lsBytes c a n then (s, .err 1)
    else match ecc with
      | .ok => (s, .ok (mload x.ls a n))
      | .corrected => (s.corrected b (a / 8 * 8), .ok (mload x.ls a n))
      | .uncorrectable => (s.uncorrectable b (a / 8 * 8), .err 3)
  else if c ≠ .m ∧ !inCr a then (s, .err 1)
  else if inIm a && inIm (a + n - 1) then
    match ecc with
    | .ok => (s, .ok (mload x.im a n))
    | .corrected => (s.correctedIm b (a / 8 * 8), .ok (mload x.im a n))
    | .uncorrectable => (s.uncorrectable b (a / 8 * 8), .err 3)
  else if inCr a && inCr (a + n - 1) then (s, .ok (s.crBytes b c (a - 0x300000) n))
  else if inRom a && inRom (a + n - 1) then (s, .ok ((List.range' a n).map Config.romByte))
  else (s, .err 1)

/-- The write of the bytes that fall into the register at `off` (R99). -/
def State.crPart (s : State) (b : BlockId) (t : WTag) (off a : Nat) (l : List Byte) : State :=
  let byte i := (l[off + i - a]?).getD 0
  let has i := decide (a ≤ off + i ∧ off + i < a + l.length)
  let v := leNat ((List.range 8).map byte)
  let m := leNat ((List.range 8).map fun i => if has i then (0xFF : Byte) else 0)
  s.crWrite b (.foot t) off (BitVec.ofNat 64 v) (BitVec.ofNat 64 m)

/-- Offsets of the registers that bytes from offset `a` on touch. -/
def crOffsets (a n : Nat) : List Nat := (List.range' (a / 8) ((a + n - 1) / 8 + 1 - a / 8)).map (8 * ·)

/-- A write of bytes at local address `a` of a block with a world tag (R351). A write of less than a word to local store reads the word it
merges into (R731). -/
def State.blockWrite (s : State) (b : BlockId) (t : WTag) (a : Nat) (l : List Byte) (ecc : Ecc) : State × Reached :=
  let c := (Who.foot t).ctx
  let x := s.blk b
  let n := l.length
  if !s.reachable b then (s, .err 2)
  else if inLs a n then
    if !x.priv.lsBytes c a n then (s, .err 1)
    else if a % 8 = 0 ∧ n % 8 = 0 then (s.lsStore b a l, .ok [])
    else match ecc with
      | .ok => (s.lsStore b a l, .ok [])
      | .corrected => ((s.corrected b (a / 8 * 8)).lsStore b a l, .ok [])
      | .uncorrectable => (s.uncorrectable b (a / 8 * 8), .err 3)
  else if inCr a && inCr (a + n - 1) then
    let offs := crOffsets (a - 0x300000) n
    if offs.all fun o => s.crMay b o c then (offs.foldl (fun s o => s.crPart b t o (a - 0x300000) l) s, .ok []) else (s, .err 1)
  else if c = .m ∧ inIm a ∧ inIm (a + n - 1) then (s.imStore b a l, .ok [])
  else (s, .err 1)

end Sys2Proof.Machine
end

