-- ==== Sys2Proof/Machine/DeviceMap.lean ====
section
/-! DEFINITION. The device address map (R484, R485) that BAR2, the tensor commands and the management core share, and the registers of the edge dies
(R423, R424). -/

namespace Sys2Proof.Machine

/-! ## LNK_ registers (R423, R424) -/

def Peer.word (p : Peer) : W64 :=
  BitVec.ofNat 64 (p.port.toNat + 2 ^ 8 * p.stepping.toNat + 2 ^ 16 * p.abi.toNat + 2 ^ 32 * p.station.toNat + 2 ^ 40 * p.devnum.toNat
    + 2 ^ 47 * boolBit p.devValid)

/-- A register of a port, by offset. -/
def DPort.read (x : DPort) (off : Nat) : W64 :=
  match off with
  | 0x00 => BitVec.ofNat 64 (boolBit x.en + 4 * boolBit x.forceSurvey)
  | 0x08 => BitVec.ofNat 64 (LinkSt.code x.st + 2 ^ 3 * boolBit x.planned + 2 ^ 4 * boolBit x.abiOk + 2 ^ 5 * boolBit x.lock
      + 2 ^ 16 * x.cause.toNat + 2 ^ 32 * x.retrains.toNat)
  | 0x10 => x.peer.uid
  | 0x18 => x.peer.word
  | 0x20 => BitVec.ofNat 64 (x.flight.toNat + 2 ^ 16 * x.pad.toNat)
  | 0x28 => BitVec.ofNat 64 x.fecCorr
  | 0x30 => BitVec.ofNat 64 x.fecUncorr
  | 0x38 => BitVec.ofNat 64 x.crcFail
  | 0x40 => BitVec.ofNat 64 x.retry
  | 0x48 => BitVec.ofNat 64 (x.vc0.credits % 1024 + 2 ^ 16 * (x.vc1.credits % 1024) + 2 ^ 32 * (x.vc0.rx.length % 1024)
      + 2 ^ 48 * (x.vc1.rx.length % 1024))
  | 0x50 => BitVec.ofNat 64 (x.skewLast.toNat + 2 ^ 16 * x.skewMax.toNat + 2 ^ 32 * boolBit x.alignLoss)
  | 0x58 => BitVec.ofNat 64 (x.dropTx + 2 ^ 32 * x.dropRx)
  | _ => 0

/-- A write to a register of a port: `w` is the merged value, `act` the bits written. -/
def State.portWrite (s : State) (p off : Nat) (w act : W64) : State :=
  match off with
  | 0x00 =>
    let s := (s.modPort p fun x => { x with forceSurvey := w.getLsbD 2 }).linkEnable p (w.getLsbD 0)
    if act.getLsbD 1 then s.toRetrain p 9 else s
  | 0x50 => if act.getLsbD 32 then s.modPort p fun x => { x with alignLoss := false } else s
  | _ => s

/-- The port and offset of an edge-die register. -/
def edgeReg (e : Edge) (off : Nat) : Option (Nat × Nat) :=
  if 0x40000 ≤ off ∧ off < 0x44000 then some (4 * edgeIndex e + (off - 0x40000) / 0x1000, off % 0x1000) else none

/-- The edge-die register at an offset, a multiple of 8; one that no chapter names reads as 0. -/
def State.edgeRegRead (s : State) (e : Edge) (off : Nat) : W64 :=
  match edgeReg e off with
  | some (p, o) => (s.portNow p).read o
  | none => 0

/-- A write to the edge-die register at an offset: `m` marks the bytes it carries (R99). -/
def State.edgeRegWrite (s : State) (e : Edge) (off : Nat) (v m : W64) : State :=
  match edgeReg e off with
  | some (p, o) => s.portWrite p o (merged (s.edgeRegRead e off) v m) (v &&& m)
  | none => s

/-- Bytes from offset `a` on of registers read one by one. -/
def regBytes (read : Nat → W64) (a n : Nat) : List Byte :=
  (List.range' a n).map fun i => BitVec.ofNat 8 ((read (i / 8 * 8)).toNat / 2 ^ (8 * (i % 8)))

/-- The value and the byte mask that bytes from offset `a` on give to the register at `off`. -/
def regPart (off a : Nat) (l : List Byte) : W64 × W64 :=
  let has i := decide (a ≤ off + i ∧ off + i < a + l.length)
  (BitVec.ofNat 64 (leNat ((List.range 8).map fun i => (l[off + i - a]?).getD 0)),
   BitVec.ofNat 64 (leNat ((List.range 8).map fun i => if has i then (0xFF : Byte) else 0)))

/-! ## The map -/

/-- What a device address names (R484, R485), with the address there. -/
inductive Place6 where
  | block (b : BlockId) (a : Nat)
  | sram (e : Edge) (a : Nat)
  | regs (e : Edge) (a : Nat)
  | reserved
  deriving DecidableEq, Repr

def deviceMap (off : Nat) : Place6 :=
  if off < 0x200000000 then
    let b : BlockId := BitVec.ofNat 16 (off / 0x80000 % firstSpare)
    let w := off % 0x80000
    if w < 0x60000 then .block b (0x100000 + w)
    else if w < 0x68000 then .block b (0x10000 + (w - 0x60000))
    else if w < 0x70000 then .reserved
    else .block b (0x300000 + (w - 0x70000))
  else if off < 0x204000000 then .sram .e0 (off - 0x200000000)
  else if off < 0x208000000 then .sram .e1 (off - 0x204000000)
  else if off < 0x208800000 then .regs .e0 (off - 0x208000000)
  else if off < 0x209000000 then .regs .e1 (off - 0x208800000)
  else .reserved

/-- A range in pieces that no region boundary cuts: at most `k` pieces of the 32 KiB that every boundary is a multiple of. -/
def piecesOf : Nat → Nat → Nat → List (Nat × Nat)
  | 0, _, _ => []
  | k + 1, off, n =>
    if n = 0 then []
    else
      let m := min n (0x8000 - off % 0x8000)
      (off, m) :: piecesOf k (off + m) (n - m)

def pieces (off n : Nat) : List (Nat × Nat) := piecesOf (n / 0x8000 + 2) off n

/-- The die works (R43). -/
def State.dieWorks (s : State) (e : Edge) : Bool := decide (look 0 s.dies (edgeIndex e) = 0)

/-- Bytes of a die's edge SRAM that the bound plan assigns, from offset 0 on (R862). -/
def State.edgeAssigned (s : State) (e : Edge) : Nat :=
  if s.isBound then
    4 * 2 ^ 20 + s.pl.trace e
      + ((s.intakes.filter fun x => decide (x.2.die = e)).map fun x => x.2.slotSize * x.2.slots.length).sum
      + ((s.outlets.filter fun x => decide (x.2.die = e)).map fun x => x.2.slotSize * x.2.slots.length).sum
  else 0

/-- A write to a place is discarded (R515). -/
def State.writeBarred (s : State) (p : Place6) : Bool :=
  match p with
  | .block _ a => s.planMoves && decide (0x300000 ≤ a)
  | .sram e a => decide (a < s.edgeAssigned e)
  | _ => false

/-- A read of `n` bytes that no region boundary cuts. -/
def State.mapRead (s : State) (off n : Nat) (ecc : Ecc) : State × Reached :=
  match deviceMap off with
  | .block b a => s.blockRead b .m a n ecc
  | .sram e a =>
    if !s.dieWorks e then (s, .err 2)
    else match ecc with
      | .ok => (s, .ok (mload (s.edgeDie e).sram a n))
      | .corrected => (s.bump 0x4001 5, .ok (mload (s.edgeDie e).sram a n))
      | .uncorrectable => (s.bump 0x4001 6, .err 3)
  | .regs e a => if s.dieWorks e then (s, .ok (regBytes (s.edgeRegRead e) a n)) else (s, .err 2)
  | .reserved => (s, .ok (List.replicate n 0))

/-- A write of bytes that no region boundary cuts. -/
def State.mapWrite (s : State) (off : Nat) (l : List Byte) (ecc : Ecc) : State × Reached :=
  match deviceMap off with
  | .block b a => s.blockWrite b .m a l ecc
  | .sram e a => if s.dieWorks e then (s.modEdge e fun d => { d with sram := mstore d.sram a l }, .ok []) else (s, .err 2)
  | .regs e a =>
    if s.dieWorks e then
      ((crOffsets a l.length).foldl (fun s o => s.edgeRegWrite e o (regPart o a l).1 (regPart o a l).2) s, .ok [])
    else (s, .err 2)
  | .reserved => (s, .err 1)

/-- The place lies off E0, where the host interface and the management core are: an access crosses the footpath network (R25, R27, R514). -/
def offE0 : Place6 → Bool
  | .block _ _ => true
  | .sram e _ => decide (e = .e1)
  | .regs e _ => decide (e = .e1)
  | .reserved => false

/-- A way leads from E0 to the node that serves a place (R414, R745). -/
def State.wayTo (s : State) : Place6 → Bool
  | .block b _ => (s.fpRoute (Edge.code .e0, 0) (s.fpCoord b)).isSome
  | .sram .e1 _ => (s.fpRoute (Edge.code .e0, 0) (Edge.code .e1, 0)).isSome
  | .regs .e1 _ => (s.fpRoute (Edge.code .e0, 0) (Edge.code .e1, 0)).isSome
  | _ => true

/-- A read of a range from E0, piece by piece, up to the first error. -/
def State.mapReads (s : State) (ecc : Ecc) : List (Nat × Nat) → State × Reached
  | [] => (s, .ok [])
  | (o, n) :: t =>
    match (if s.wayTo (deviceMap o) then s.mapRead o n ecc else (s, .err 2)) with
    | (s, .err e) => (s, .err e)
    | (s, .ok l) =>
      match s.mapReads ecc t with
      | (s, .ok m) => (s, .ok (l ++ m))
      | r => r

/-- A write of a range from E0, piece by piece, up to the first error: what came before it is written. -/
def State.mapWrites (s : State) (ecc : Ecc) (l : List Byte) : List (Nat × Nat) → State × Reached
  | [] => (s, .ok [])
  | (o, n) :: t =>
    match (if s.wayTo (deviceMap o) then s.mapWrite o (l.take n) ecc else (s, .err 2)) with
    | (s, .err e) => (s, .err e)
    | (s, .ok _) => s.mapWrites ecc (l.drop n) t

/-! ## BAR2 (R485, R515, R517, R518, R525) -/

/-- What comes of an access on its way: an access that does not leave E0 is not lost. -/
def viaEcc (via : Direct) (ps : List (Nat × Nat)) : Option Ecc :=
  match via with
  | .served ecc => some ecc
  | .lost => if ps.any fun p => offE0 (deviceMap p.1) then none else some .ok
  | .poisoned => none

/-- A direct write that is discarded is counted in HIF_DIRECT_DROPS; AER reports a poisoned one (R518, R525). -/
def State.directDrop (s : State) (via : Direct) : State :=
  s.modHif fun h => if via = .poisoned then { h with drops := h.drops + 1 }.aer aerPoisoned else { h with drops := h.drops + 1 }

/-- BAR2_WRITE: a write that is poisoned, reserved, barred, unreachable or lost is discarded, and counted in HIF_DIRECT_DROPS. DEDUCED, log entry 40. -/
def bar2Write (off : BitVec 34) (l : List Byte) (via : Direct) (s : State) : State :=
  let ps := pieces off.toNat l.length
  match viaEcc via ps with
  | none => s.directDrop via
  | some ecc =>
    if ps.any fun p => s.writeBarred (deviceMap p.1) || decide (deviceMap p.1 = .reserved) then s.directDrop via
    else
      match s.mapWrites ecc l ps with
      | (s, .ok _) => s
      | (s, .err _) => s.directDrop via

def execBar2Write (off : BitVec 34) (data : BarBytes) (s : State) : Host.Outcome State Fault Refusal :=
  .next (if s.barsUp then bar2Write off data.bytes data.via s else s)

/-- BAR2_READ: the bytes, or a Completer Abort, which AER reports. Every earlier write has been performed, as a write is one step here.
DEDUCED, log entry 40. DESIGN CHOICE, log entry 56. -/
def bar2Read (off : BitVec 34) (len : Nat) (via : Direct) (s : State) : State :=
  let ps := pieces off.toNat len
  let abort (s : State) : State := s.modHif fun h => { h with readOut := none }.aer aerAbort
  match viaEcc via ps with
  | none => abort s
  | some ecc =>
    match s.mapReads ecc ps with
    | (s, .ok l) => s.modHif fun h => { h with readOut := some l }
    | (s, .err _) => abort s

def execBar2Read (off : BitVec 34) (len : Nat) (via : Direct) (s : State) : Host.Outcome State Fault Refusal :=
  .next (if s.barsUp then bar2Read off len via s else s)

end Sys2Proof.Machine
end

