-- ==== Sys2Proof/Machine/Objects.lean ====
section
/-! DEFINITION. The object dictionary (chapter 14): which objects exist, with their types, rights and service class (R587 to R604), and the values that
they read. -/

namespace Sys2Proof.Machine

/-! ## Types (R587, R589) -/

/-- The type of an object with its stated range; U8 to U64, I8 to I64 and the REAL types are named by their size in bytes. -/
inductive OTy where
  | bool
  | nat (size lo hi : Nat)
  | int (size : Nat) (lo hi : Int)
  | real (size : Nat)
  | time
  | octets (most : Nat) (exact : Bool)
  | text (most : Nat)
  deriving DecidableEq, Repr

/-- The size of a fixed type, or the maximum of a string. -/
def OTy.size : OTy → Nat
  | .bool => 1 | .nat n _ _ => n | .int n _ _ => n | .real n => n | .time => 8 | .octets n _ => n | .text n => n

/-- A string type, which a read or write of fewer bytes fits (R589). -/
def OTy.stringy : OTy → Bool
  | .octets _ exact => !exact | .text _ => true | _ => false

/-- A length fits the type (R589). -/
def OTy.fits (t : OTy) (n : Nat) : Bool := if t.stringy then decide (1 ≤ n ∧ n ≤ t.size) else decide (n = t.size)

/-- The number that `n` bytes hold in two's complement. -/
def leInt (l : List Byte) : Int :=
  let v := leNat l
  if 2 * v < 2 ^ (8 * l.length) then v else (v : Int) - 2 ^ (8 * l.length)

/-- A written value lies in the range of the type (R587). No object of a REAL type is writable. -/
def OTy.admits (t : OTy) (l : List Byte) : Bool :=
  match t with
  | .bool => decide (leNat l ≤ 1)
  | .nat _ lo hi => decide (lo ≤ leNat l ∧ leNat l ≤ hi)
  | .int _ lo hi => decide (lo ≤ leInt l ∧ leInt l ≤ hi)
  | .real _ => false
  | .time => decide (leNat l % 2 ^ 32 ≤ 999999999)
  | .octets _ _ => true
  | .text _ => l.all fun b => decide (0x20 ≤ b.toNat ∧ b.toNat ≤ 0x7E)

/-! ## Attributes (R591 to R593) -/

/-- What a path may do with an object. -/
inductive Acc where
  | none | r | w | rw
  deriving DecidableEq, Repr

def Acc.grants (a : Acc) (write : Bool) : Bool :=
  match a with
  | .none => false | .r => !write | .w => write | .rw => true

/-- An object: its type, its rights on Elette, the host path and the firmware's, the authority that a write needs (0 observer, 1 operator, 2
custodian), whether the management core serves it, and whether it needs the fast domain. -/
structure Obj where
  ty : OTy
  e  : Acc
  h  : Acc
  f  : Acc
  auth : Nat
  deferred : Bool
  fastDomain : Bool
  deriving DecidableEq, Repr

def Obj.acc (o : Obj) : Path → Acc
  | .elette => o.e | .host => o.h | .firmware => o.f

def Obj.later (o : Obj) : Obj := { o with deferred := true }
def Obj.dagger (o : Obj) : Obj := { o with fastDomain := true }

/-- R R R. -/
def ro (t : OTy) : Obj := ⟨t, .r, .r, .r, 0, false, false⟩
/-- RW RW RW. -/
def rw3 (t : OTy) (auth : Nat) : Obj := ⟨t, .rw, .rw, .rw, auth, false, false⟩
/-- R RW RW. -/
def rw2 (t : OTy) (auth : Nat) : Obj := ⟨t, .r, .rw, .rw, auth, false, false⟩
/-- W W W. -/
def wo (t : OTy) (auth : Nat) : Obj := ⟨t, .w, .w, .w, auth, false, false⟩

def u8 : OTy := .nat 1 0 0xFF
def u16 : OTy := .nat 2 0 0xFFFF
def u32 : OTy := .nat 4 0 0xFFFFFFFF
def u64 : OTy := .nat 8 0 0xFFFFFFFFFFFFFFFF
/-- The value 1 of a request object. -/
def request : OTy := .nat 1 1 1

def ros (l : List OTy) : List (Option Obj) := l.map fun t => some (ro t)
def daggers (l : List OTy) : List (Option Obj) := l.map fun t => some (ro t).dagger

/-- The objects of a port (R601), each of which needs the fast domain. -/
def portObjects : List (Option Obj) :=
  daggers ([u8, u8, u16, .bool, .bool, u64, u8, u8, u16, u8, u8, u16, u16] ++ List.replicate 4 u64 ++ [u32, u32, .int 2 (-32768) 32767, u16]) ++
    [some (rw3 (.nat 1 0 0) 1).dagger, some (rw3 .bool 1).dagger, some (rw3 .bool 1).dagger, some (wo request 1).dagger]

/-- A ledger's common subindices, a gap, and its own (R604). -/
def ledgerObjects (l : List (Option Obj)) : List (Option Obj) := ros [u8, u64, .time] ++ List.replicate 12 none ++ l

/-- The objects of the indices that stand alone, from subindex 01 on; none marks a subindex that does not exist (R596 to R604). -/
def fixedObjects (i : Nat) : List (Option Obj) :=
  match i with
  | 0x1000 => ros [.text 16, .text 16, .text 24, u8, u64, u16, u16, u16, u32, .text 32]
  | 0x1001 => ros [u8, u8, u8, u8, u8, u8, u8, .bool]
  | 0x1003 => ros (List.replicate 14 u32) ++ [none] ++ ros (List.replicate 10 u32)
  | 0x1100 => [some (rw3 (.nat 1 0 128) 1), some (rw3 (.nat 2 0x0600 0xFFFF) 1).later]
  | 0x1101 => ros (List.replicate 5 u64)
  | 0x1110 => ros [.time, .time] ++ [some (rw3 (.int 4 (-1000000000) 1000000000) 1)]
  | 0x1120 => [some (rw3 .bool 1), some (rw3 .bool 1), some (rw3 (.nat 1 0 31) 1), some (rw3 (.nat 1 0 31) 1)]
  | 0x1121 => ros [.bool, .bool, .bool, u8, u8]
  | 0x1180 => [some (ro (.octets 1032 false)), some (wo u8 1), some (ro u8)]
  | 0x2000 => ros [u8, u8, .real 4, u8] ++ [some (wo (.nat 1 1 2) 1).later]
  | 0x2100 => ros [u16]
  | 0x2120 => ros (List.replicate 11 u8)
  | 0x2200 => ros [u8, u64]
  | 0x2210 => [some (wo request 1).later, some (wo request 2).later]
  | 0x2220 => [some (rw2 .bool 2).later, some (rw2 (.nat 2 100 60000) 2).later]
  | 0x2240 => [some (ro .bool), some (rw3 .bool 2), some (ro .bool), some (ro u32)]
  | 0x3000 => ros [.bool, .bool, .bool]
  | 0x3010 => ros [.time]
  | 0x3011 => [some (rw3 .time 1), some (wo request 1)]
  | 0x3020 => [some (ro (.int 4 (-2147483648) 2147483647)), some (ro .bool), some (rw2 .bool 1)]
  | 0x4000 => ros [u32, u16]
  | 0x4001 => ros (List.replicate 6 u64)
  | 0x4100 => ros [u32, u32]
  | 0x4180 => [some (rw3 u16 0), some (ro (.octets 16 true))]
  | 0x5000 => ros [u64, u64, u64]
  | 0x5010 => [some (rw3 u64 0), some (ro (.octets 64 true))]
  | 0x5100 => ros [u64, u64, u64, u64]
  | 0x5101 => ros [u8]
  | 0x6000 => ros [.bool, u64, u64, u64]
  | 0x6001 => [some (rw2 (.nat 2 256 65535) 1), some (rw2 (.nat 4 1024 0x80000000) 1), some (rw2 .bool 1), some (rw2 (.nat 1 0 1) 1)]
  | 0x7080 => ros [u16]
  | 0x7800 => ros [u8, u16, .bool, u8, u16, u64, u64, u64, u64]
  | 0x8000 => ros [u32, u8, u8, u32, u16, u16, u16, u16, .bool] ++ [some (rw3 request 2), some (ro u32)]
  | 0x9000 => ros [u8, u8, u8]
  | 0x9001 => [some (rw2 (.nat 1 0 1) 2).later, some (rw2 (.nat 1 0 1) 2).later]
  | 0x9010 => [some (⟨.octets 32 true, .r, .r, .none, 0, true, false⟩), some (⟨.octets 66 true, .w, .w, .none, 0, true, false⟩),
      some (⟨u8, .r, .r, .none, 0, false, false⟩), some (⟨request, .w, .w, .none, 0, false, false⟩),
      some (⟨u16, .r, .r, .none, 0, false, false⟩)]
  | 0x9020 => List.replicate 4 (some (rw2 (.octets 32 true) 2).later) ++ ros [u8]
  | 0x9030 => ros [u64, u64]
  | 0xA000 => ledgerObjects (daggers [u64, u64, u64])
  | 0xA002 => ledgerObjects (ros (List.replicate 6 u64))
  | 0xA003 => ledgerObjects (ros (List.replicate 4 u64))
  | 0xA004 => ledgerObjects (ros (List.replicate 3 u64))
  | 0xA005 => ledgerObjects (ros [u32, u32])
  | 0xA006 => ledgerObjects (ros (List.replicate 4 u32))
  | 0xB000 => ros [u8, u32] ++ daggers [u64, u64, u64, u8, u8, u8]
  | 0xB001 => daggers (List.replicate 5 u64)
  | 0xB002 => daggers (List.replicate 5 u64)
  | _ => []

/-- `i` is one of `n` indices from `base` on. -/
def inRange (i base n : Nat) : Bool := decide (base ≤ i ∧ i < base + n)

/-- `i` is the index of a port's objects (R601). -/
def isPortIndex (i : Nat) : Bool := decide (0x7000 ≤ i ∧ i < 0x7080 ∧ i % 16 = 0)

/-- The objects of an index, from subindex 01 on; no objects, no index. The range 0xF000 holds none (R603). -/
def objectsAt (i : Nat) : List (Option Obj) :=
  if inRange i 0x2010 14 then ros [.real 4, .real 4, .real 4, u16]
  else if inRange i 0x2110 4 then ros [u8, u64]
  else if inRange i 0x4010 4 then ros [u64, u64, u64, u64, u16]
  else if inRange i 0x4018 2 then ros [u8]
  else if inRange i 0x4110 4 then ros [u16, u16, u16, u8, u8, .bool]
  else if inRange i 0x6010 2 then ros [u32, u32, u64]
  else if isPortIndex i then portObjects
  else if inRange i 0x7840 64 then ros [.bool, u8, u8, u8]
  else if inRange i 0x8010 2 then ros [u32, .bool, u8]
  else if inRange i 0xA010 8 then ledgerObjects (daggers (List.replicate 8 u32))
  else if inRange i 0xB010 128 then daggers [u8, u8, u8]
  else fixedObjects i

/-- The object index : sub (R590). -/
def objInfo (i sub : Nat) : Option Obj :=
  match objectsAt i, sub with
  | [], _ => none
  | _, 0 => some (ro u8)
  | l, n + 1 => (l[n]?).getD none

/-! ## Values -/

/-- The `sub`-th value of a list. -/
def pick (sub : Nat) (l : List Nat) : Nat := (l[sub - 1]?).getD 0

def pathIx : Path → Nat
  | .elette => 0 | .host => 1 | .firmware => 2

/-- acy in one second. -/
def acyPerS : Nat := 25000000

def State.unlockOf (s : State) (p : Path) : Unlock := look Unlock.reset s.unlock (pathIx p)

/-- A custodian lease is in force on a path (R620). -/
def State.leased (s : State) (p : Path) : Bool := match (s.unlockOf p).lease with | some e => decide (s.acy < e) | none => false

/-- The challenge of a path, while it is valid (R615). -/
def State.validChallenge (s : State) (p : Path) : Option (List Byte) :=
  match (s.unlockOf p).challenge with
  | some (c, t) => if s.acy ≤ t + 60 * acyPerS then some c else none
  | none => none

/-- A path is locked out (R619). -/
def State.lockedOut (s : State) (p : Path) : Bool := match (s.unlockOf p).lockout with | some e => decide (s.acy < e) | none => false

/-- The authority of a path (R593): 0 observer, 1 operator, 2 custodian. -/
def State.authority (s : State) (p : Path) : Nat :=
  match p with
  | .firmware => 2
  | .elette => if s.leased p then 2 else s.setting 0x9001 1
  | .host => if s.leased p then 2 else s.setting 0x9001 2

/-- A response of a path is being verified (R618). -/
def State.verifying (s : State) (p : Path) : Bool :=
  match p with
  | .elette => s.elt.requests.any fun r => r.write && decide (r.index = 0x9010 ∧ r.sub = 2)
  | .host => s.hif.cmds.any fun c => decide (c.opcode = 0x31 ∧ c.arg 24 3 = 0x029010 ∧ c.phase = .running)
  | .firmware => false

/-- 0x9010:03 (R618). DEDUCED, log entry 53. -/
def State.unlockStatus (s : State) (p : Path) : Nat :=
  if s.verifying p then 2
  else if s.lockedOut p then 6
  else if s.leased p then 3
  else if (s.validChallenge p).isSome then 1
  else (s.unlockOf p).rejected

/-- 0x9010:05 (R602), counting a part of a second as one. -/
def State.leaseLeft (s : State) (p : Path) : Nat :=
  match (s.unlockOf p).lease with | some e => (e - s.acy + (acyPerS - 1)) / acyPerS | none => 0

/-- Some key slot is provisioned (R621). -/
def State.provisioned (s : State) : Bool := decide (s.keys ≠ [])

/-- A quarter is degraded (R743). -/
def State.degraded (s : State) (q : Nat) : Bool := decide ((s.placeOf q).w * (s.placeOf q).h < 4096)

def State.anyDegraded (s : State) : Bool := [0, 1, 2, 3].any s.degraded

/-- 0x2000:04 (R650). -/
def State.deviceState (s : State) : Nat := if 3 ≤ s.plan.code then 0 else if s.supply.pwr = .on then 1 else 2

/-- 0x1003 (R905). -/
def designParams : List Nat :=
  [1, 0, 4, 64, 64, 1, 64, 24, 64, 16, 3, 7, 8, 64, 0, 2, 1, 0, 3, 10, 14, 2, 1, 3, 4000]

/-- 0x8000:03 (R826). -/
def State.bootState (s : State) : Nat :=
  match s.boot.slot with
  | none => 0
  | some n =>
    let x := s.slotImg n
    let y := s.slotImg (1 - n)
    if !x.confirmed then 1 else if y.magic && y.rejected && decide (x.version < y.version) then 2 else 0

/-- The values of a port's objects (R601). -/
def DPort.objects (x : DPort) : List Nat :=
  [LinkSt.code x.st, x.cause.toNat, x.retrains.toNat, boolBit x.abiOk, boolBit x.planned, x.peer.uid.toNat, x.peer.port.toNat,
   x.peer.stepping.toNat, x.peer.abi.toNat, x.peer.station.toNat, x.peer.devnum.toNat + 128 * boolBit x.peer.devValid, x.flight.toNat, x.pad.toNat,
   x.fecCorr, x.fecUncorr, x.crcFail, x.retry, x.dropTx, x.dropRx, x.skewLast.toNat, x.skewMax.toNat, boolBit x.alignLoss, boolBit x.en,
   boolBit x.forceSurvey]

/-- Values of the two VCs of a port's credit book (R768). -/
def Vc.book (v : Vc) : List Nat := [v.credits, v.out - v.peerOcc, v.peerOcc, 512]

/-- A ledger's values from subindex 10 on (R604). -/
def State.ledgerTerms (s : State) (i : Nat) : List Nat :=
  let c k := s.counter 0xA002 k
  let sum (f : Nat → Nat) : Nat := f 0 + f 1 + f 2 + f 3
  match i with
  | 0xA000 => (s.ledger i).terms
  | 0xA002 => [c 0x10, c 0x11, (c 0x10 + 2 ^ 64 - c 0x11) % 2 ^ 64, c 0x13, c 0x14, c 0x15]
  | 0xA003 => [s.jnl.raised.toNat, s.jnl.recorded.toNat, s.jnl.summarised.toNat, s.jnl.pending]
  | 0xA004 => s.traceTerms
  | 0xA005 => [s.epoch.peakTop, budget s.pl.power]
  | 0xA006 => [17424, sum fun q => (s.placeOf q).w * (s.placeOf q).h, sum s.spareFree, sum s.retired]
  | _ => (s.port (i - 0xA010)).vc0.book ++ (s.port (i - 0xA010)).vc1.book

/-- The value of an object of a ledger. -/
def State.ledgerValue (s : State) (i sub : Nat) : Nat :=
  let l := s.ledger i
  if sub < 0x10 then pick sub [l.state, l.fails, l.time.toNat] else pick (sub - 15) (s.ledgerTerms i)

def filledSlots (l : List InSlot) : Nat := (l.filter fun x => decide (x = .filled)).length

def OutSlot.isReady : OutSlot → Bool
  | .ready _ _ => true | _ => false

/-- Objects of the bindings (R604, R605). -/
def State.bindingValue (s : State) (i sub : Nat) : Nat :=
  if i < 0xB050 then
    match s.intakes.find? fun e => decide (e.1 = i - 0xB010) with
    | some (_, x) => pick sub [x.slots.length, filledSlots x.slots, x.point]
    | none => 0
  else
    match s.outlets.find? fun e => decide (e.1 = i - 0xB050) with
    | some (_, x) => pick sub [x.slots.length, (x.slots.filter OutSlot.isReady).length, x.next]
    | none => 0

/-- Values of the host interface (R601, R476). -/
def State.hifValues (s : State) : List Nat :=
  let h := s.hif
  [h.width.toNat, h.rate.toNat, boolBit h.flitMode, if h.d3hot then 3 else 0, s.bundle.hostAbi.toNat, h.rejects, h.drops, h.aerCorr, h.aerUncorr]

/-- 0x4000:01 (R599). -/
def State.healthSummary (s : State) : Nat :=
  boolBit s.startFailed + 2 * boolBit s.anyDegraded + 4 * boolBit s.thermal.warn + 8 * boolBit ((List.range 11).any fun d => (s.monitor d).failed)
    + 16 * boolBit s.jnl.damaged

/-- The values of the objects of the indices that stand alone, but for the strings. DEDUCED, log entry 66. -/
def State.fixedValue (s : State) (p : Path) (i sub : Nat) : Nat :=
  let t := s.time
  let j := s.jnl
  let counters (n : Nat) : Nat := s.counter i n
  match i with
  | 0x1000 => pick sub [0, 0, 0, Config.stepping.toNat, Config.uid.toNat, (Config.assignedId 0).toNat, (Config.assignedId 1).toNat, 0x6D06,
      boolBit s.restricted + 2 * boolBit s.override + 8 * boolBit s.anyDegraded + 16 * boolBit (!s.provisioned)]
  | 0x1001 => pick sub [4, 64, 64, 66, 66, 64, s.devNum.toNat, boolBit s.devValid]
  | 0x1003 => pick sub designParams
  | 0x1100 => pick sub [s.station.toNat, s.elt.etherType.toNat]
  | 0x1101 => pick sub [s.elt.frames, s.elt.fcsErr, s.elt.malformed, s.elt.other, s.elt.rsvCmd]
  | 0x1110 => pick sub [s.elt.t0.toNat, s.elt.t1.toNat, s.elt.delay.toNat]
  | 0x1120 => pick sub [boolBit s.elt.en, boolBit s.elt.forceLoop, s.elt.phy0.toNat, s.elt.phy1.toNat]
  | 0x1121 => pick sub [boolBit s.elt.link0, boolBit s.elt.link1, boolBit s.elt.looped, s.elt.requests.length, s.elt.mailbox.length]
  | 0x1180 => pick sub [0, 0, s.elt.mailbox.length]
  | 0x2000 => pick sub [Config.orderedClass, if s.isBound then s.pl.power else 0, (s.free.setWidth 32).toNat, s.deviceState]
  | 0x2100 => if s.isBound then s.pl.mhz else 0
  | 0x2120 => boolBit (s.monitor (sub - 1)).failed
  | 0x2200 => pick sub [s.supply.src.toNat, counters 2]
  | 0x2240 => pick sub [boolBit s.supply.stuck, boolBit s.supply.override, boolBit s.supply.rstn.isSome, s.heldMs]
  | 0x3000 => pick sub [boolBit t.valid, boolBit t.tlock, boolBit t.flock]
  | 0x3010 => s.time64.toNat
  | 0x3011 => t.stage.toNat
  | 0x3020 => pick sub [t.ppsOffset.toNat, boolBit t.ppsPresent, s.setting i 3]
  | 0x4000 => pick sub [s.healthSummary, counters 2]
  | 0x4001 => counters sub
  | 0x4100 => pick sub [(s.repair.filter fun e => decide (e.kind = 3)).length, s.repairLog.length]
  | 0x4180 => look 0 s.selectors (4 * i + pathIx p)
  | 0x5000 => pick sub [j.gen.toNat, j.next.toNat, s.bpTime]
  | 0x5010 => look 0 s.selectors (4 * i + pathIx p)
  | 0x5100 => pick sub [j.raised.toNat, j.recorded.toNat, j.summarised.toNat, j.pending]
  | 0x5101 => j.counters.length
  | 0x6000 => pick sub (boolBit s.trace.armed :: s.traceTerms)
  | 0x7080 => s.bundle.linkAbi.toNat
  | 0x7800 => pick sub s.hifValues
  | 0x8000 => pick sub [s.bundle.version.toNat, s.boot.slot.getD 0, s.bootState, Config.bootRomVersion.toNat, s.bundle.planAbi.toNat,
      s.bundle.hostAbi.toNat, s.bundle.dictAbi.toNat, s.bundle.linkAbi.toNat, boolBit s.restricted, boolBit s.override, s.boot.rollback]
  | 0x9000 => pick sub [s.authority .elette, s.authority .host, s.authority .firmware]
  | 0x9010 => pick sub [0, 0, s.unlockStatus p, 0, s.leaseLeft p]
  | 0x9020 => (s.keys.map fun e => 2 ^ e.1).sum
  | 0x9030 => pick sub [s.flashValue challengeKey, counters 2]
  | 0xB000 => pick sub [s.plan.code, s.planId.toNat, s.epoch.num.toNat, s.epoch.validCount.toNat, counters 5, s.epoch.streak.toNat,
      s.epoch.haltRow.toNat, s.k]
  | 0xB001 => counters sub
  | 0xB002 => counters sub
  | _ => if 0xA000 ≤ i then s.ledgerValue i sub else s.setting i sub

/-- The value of an object of a type that is no string, as an unsigned number. -/
def State.objValue (s : State) (p : Path) (i sub : Nat) : Nat :=
  if sub = 0 then (objectsAt i).length
  else if inRange i 0x2010 14 then
    let x := look (⟨0, 0, 0, 0⟩ : Rail) s.supply.rails (i - 0x2010)
    pick sub [x.volts.toNat, x.amps.toNat, x.temp.toNat, x.status.toNat]
  else if inRange i 0x2110 4 then
    pick sub [match (s.pll (i - 0x2110)).st with | .off => 0 | .standby => 1 | .running => 2, s.counter i 2]
  else if inRange i 0x4010 4 then s.counter i sub
  else if inRange i 0x4018 2 then look 0 s.dies (i - 0x4018)
  else if inRange i 0x4110 4 then
    let q := i - 0x4110
    let x := s.placeOf q
    match sub with
    | 1 => s.spareFree q | 2 => s.retired q | 3 => x.w * x.h | 4 => x.w | 5 => x.h | _ => boolBit (s.degraded q)
  else if inRange i 0x6010 2 then
    let e := edgeOf (i - 0x6010)
    pick sub [if s.trace.armed then (s.sink e).size else (s.ringPlace e).2, (s.sink e).woff, s.counter i 3]
  else if isPortIndex i then pick sub (s.port ((i - 0x7000) / 16)).objects
  else if inRange i 0x7840 64 then
    let q : QueueId := BitVec.ofNat 6 (i - 0x7840)
    let x := s.queue q
    pick sub [boolBit x.en, x.slog2.toNat, s.inflight q, if x.error then x.ecode.toNat else 0]
  else if inRange i 0x8010 2 then
    let x := s.slotImg (i - 0x8010)
    pick sub [x.version.toNat, boolBit x.passed, if x.confirmed || x.rejected then 0 else x.trials]
  else if inRange i 0xA010 8 then s.ledgerValue i sub
  else if inRange i 0xB010 128 then s.bindingValue i sub
  else s.fixedValue p i sub

/-- Characters as bytes. -/
def asciiBytes (t : String) : List Byte := t.toList.map fun c => BitVec.ofNat 8 c.toNat

/-- The bytes of a mailbox entry (R577). -/
def MailEntry.bytes (m : MailEntry) : List Byte :=
  [m.tag, m.status] ++ leBytes 2 m.index.toNat ++ [m.sub, 0] ++ leBytes 2 m.data.length ++ m.data

/-- The value of a string object. -/
def State.objString (s : State) (p : Path) (i sub : Nat) : List Byte :=
  match i, sub with
  | 0x1000, 1 => asciiBytes "Ignoven"
  | 0x1000, 2 => asciiBytes "MD6"
  | 0x1000, 3 => Config.fuseString 0
  | 0x1000, 10 => Config.fuseString 1
  | 0x1180, 1 => match s.elt.mailbox with | m :: _ => m.bytes | [] => []
  | 0x4180, 2 => match s.repairLog[look 0 s.selectors (4 * i + pathIx p)]? with | some e => e.bytes | none => []
  | 0x5010, 2 => s.jnl.slot (look 0 s.selectors (4 * i + pathIx p) % 4096)
  | 0x9020, n => look [] s.keys (n - 1)
  | _, _ => []

/-- The `n` bytes that a read of an object returns (R589). -/
def State.objBytes (s : State) (p : Path) (i sub n : Nat) : List Byte :=
  match objInfo i sub with
  | none => []
  | some o =>
    match o.ty with
    | .octets m _ => padTo n ((s.objString p i sub).take (min n m))
    | .text m => padTo n ((s.objString p i sub).take (min n m))
    | t => leBytes t.size (s.objValue p i sub)

end Sys2Proof.Machine
end

