-- ==== Sys2Proof/Machine/Dictionary.lean ====
section
/-! DEFINITION. Dictionary accesses (R606 to R621): the checks in their order, what a write does, deferred objects, flash copies, the custodian unlock, the
dictionary window, and DICT_READ and DICT_WRITE. -/

namespace Sys2Proof.Machine

/-! ## Statuses (R571, R501) -/

/-- How an access ends. -/
inductive DStat where
  | ok | deferred | busy | noObject | noAccess | authority | length | value | notFast | dataError | timeout
  deriving DecidableEq, Repr

/-- The status code over Elette (R571). -/
def DStat.elette : DStat → Byte
  | .ok => 0 | .deferred => 1 | .busy => 2 | .noObject => 0x10 | .noAccess => 0x11 | .authority => 0x12 | .length => 0x13 | .value => 0x14
  | .notFast => 0x15 | .dataError => 0x16 | .timeout => 0x17

/-- The status code on the host path (R501, R606, R625). -/
def DStat.host : DStat → BitVec 16
  | .noObject => 0x50 | .noAccess => 0x51 | .authority => 0x52 | .length => 0x53 | .value => 0x54 | .dataError => 0x42 | _ => 0

/-! ## Checks (R592, R606 to R608, R619, R621) -/

/-- The management core runs a bundle, so that it serves deferred objects (R607, R831): no machine double fault has stopped it (R586). -/
def State.coreRuns (s : State) : Bool :=
  match s.boot.st with
  | .off => false | .flash => false | .recovery => false | _ => !(s.blk mgmtCore).core.stopped

/-- The unit of an object is available (R607, R619, R662, R831). DEDUCED, log entry 53. -/
def State.available (s : State) (p : Path) (write : Bool) (i sub : Nat) (o : Obj) : Bool :=
  (!o.fastDomain || s.fastUp) && (!o.deferred || s.coreRuns)
    && (decide (s.boot.st ≠ .recovery) || decide (i / 4096 = 1 ∨ i / 4096 = 8))
    && !(decide (i = 0x9010 ∧ sub = 1) && !write && s.lockedOut p)
    && !(decide (i = 0x3011 ∧ sub = 2) && s.planMoves)

/-- The authority that a write needs: while no key slot is provisioned, slot 0 takes operator from the host and the firmware (R621). -/
def State.authNeeded (s : State) (p : Path) (i sub : Nat) (o : Obj) : Nat :=
  if i = 0x9020 ∧ sub = 1 ∧ !s.provisioned ∧ p ≠ .elette then 1 else o.auth

/-- Checks 1 to 5 of R606; `fits` is the length rule that applies. -/
def State.dictCheck (s : State) (p : Path) (write : Bool) (i sub : Nat) (fastOnly : Bool) (fits : OTy → Bool) : DStat :=
  match objInfo i sub with
  | none => .noObject
  | some o =>
    if !((o.acc p).grants write) || !s.available p write i sub o then .noAccess
    else if write && decide (s.authority p < s.authNeeded p i sub o) then .authority
    else if fastOnly && o.deferred then .notFast
    else if !fits o.ty then .length
    else .ok

/-- An object is served by the management core. -/
def isDeferred (i sub : Nat) : Bool := match objInfo i sub with | some o => o.deferred | none => false

/-- What an object's chapter asks of a value, beyond its range (R651, R662, R707, R834, R900). DEDUCED, log entry 53. -/
def State.valueFits (s : State) (i sub : Nat) (l : List Byte) : Bool :=
  let v := leNat l
  if i = 0x2240 ∧ sub = 2 then decide (v = 0) || s.supply.rstn.isSome
  else if i = 0x3011 ∧ sub = 2 then decide (s.time.stage.toNat % 2 ^ 32 ≤ 999999999)
  else if i = 0x8000 ∧ sub = 0x0A then s.restricted
  else if i = 0x2000 ∧ sub = 5 then (if v = 2 then s.fastUp && decide (s.plan.code < 3) else !s.thermal.trip)
  else true

/-- Check 6 of R606. -/
def State.valueOk (s : State) (i sub : Nat) (l : List Byte) : Bool :=
  match objInfo i sub with
  | some o => o.ty.admits l && s.valueFits i sub l
  | none => false

/-! ## Events (R530, R531, R575, R620) -/

/-- PATH of FLAGS (R528): 1 the window, 2 Elette, 3 the firmware. -/
def pathCode : Path → Nat
  | .host => 1 | .elette => 2 | .firmware => 3

/-- A kind 0x0700 event. -/
def State.dictEvent (s : State) (path i sub : Nat) (l : List Byte) : State :=
  s.raisePath path 0x0700 (BitVec.ofNat 64 (i + 2 ^ 16 * sub)) (BitVec.ofNat 64 (leNat (l.take 8)))

/-- A lease is granted or ends: an event for 0x9010:03 with its new value; `code` is the PATH of the write that did it, 0 for one of the host queue. -/
def State.leaseEvent (s : State) (p : Path) (code : Nat) : State := s.dictEvent code 0x9010 3 [BitVec.ofNat 8 (s.unlockStatus p)]

/-! ## The custodian unlock (R615 to R620) -/

def State.modUnlock (s : State) (p : Path) (f : Unlock → Unlock) : State :=
  { s with unlock := put s.unlock (pathIx p) (f (s.unlockOf p)) }

/-- A new challenge (R615). DEDUCED, log entry 59. -/
def State.newChallenge (s : State) (p : Path) : State × List Byte :=
  let n := (s.flashValue challengeKey + 1) % 2 ^ 64
  let s := State.retain { s with flash := store 0 s.flash challengeKey n } recChallenge (leBytes 8 n)
  let c := sha256 (asciiBytes "MD6C" ++ leBytes 8 Config.uid.toNat ++ [BitVec.ofNat 8 (pathIx p)] ++ leBytes 8 n ++ leBytes 8 s.time64.toNat)
  let now := s.acy
  (s.modUnlock p fun u => { u with challenge := some (c, now) }, c)

/-- The message that a response signs (R616). -/
def responseMessage (p : Path) (lease challenge : List Byte) : List Byte :=
  asciiBytes "MD6U" ++ leBytes 8 Config.uid.toNat ++ [BitVec.ofNat 8 (pathIx p)] ++ lease ++ challenge

/-- A response fails (R617 to R619): the eighth failure in a row locks the path out. DEDUCED, log entry 53. -/
def State.responseFailed (s : State) (p : Path) (code : Nat) : State :=
  let now := s.acy
  (s.bump 0x9030 2).modUnlock p fun u =>
    { u with challenge := none, run := u.run + 1, rejected := code, lockout := if 8 ≤ u.run + 1 then some (now + 60 * acyPerS) else u.lockout }

/-- The management core serves a response (R617). DESIGN CHOICE, log entry 3. DEDUCED, log entry 53. -/
def State.serveResponse (s : State) (p : Path) (code : Nat) (l : List Byte) : State × DStat :=
  let lease := leAt l 0 2
  match s.validChallenge p with
  | none => (s.responseFailed p 5, .value)
  | some c =>
    if lease = 0 ∨ 3600 < lease then (s.modUnlock p fun u => { u with challenge := none }, .value)
    else if s.keys.any fun k => Config.ed25519 k.2 (responseMessage p (l.take 2) c) ((l.drop 2).take 64) then
      let now := s.acy
      ((s.modUnlock p fun _ => ⟨none, some (now + lease * acyPerS), 0, none, 0⟩).leaseEvent p code, .ok)
    else (s.responseFailed p 4, .value)

/-- A lease ends (R620). -/
def State.endLease (s : State) (p : Path) (code : Nat) : State :=
  if (s.unlockOf p).lease.isSome then (s.modUnlock p fun u => { u with lease := none }).leaseEvent p code else s

/-! ## What a write does -/

/-- A setting of chapter 14 takes a value. -/
def State.setSetting (s : State) (i sub v : Nat) : State :=
  let k := 256 * i + sub
  { s with settings := store (settingDefault k) s.settings k v }

def State.modElt (s : State) (f : Elt → Elt) : State := { s with elt := f s.elt }

/-- The oldest mailbox entry goes when its TAG is named (R578). -/
def State.removeMail (s : State) (tag : Byte) : State :=
  s.modElt fun e =>
    { e with mailbox := match e.mailbox with | m :: rest => if m.tag = tag then rest else e.mailbox | [] => [] }

/-- The watchdog enable is written (R713): enabling starts the count. DEDUCED, log entry 53. -/
def State.setWatchdog (s : State) (v : Nat) : State :=
  let now := s.acy
  let on := decide (v = 1 ∧ s.setting 0x2220 1 = 0)
  (s.setSetting 0x2220 1 v).modSup fun x => { x with wdt := if on then some now else x.wdt }

/-- RST_N_OVERRIDE is written (R704, R707, R609): 0 lets an asserted RST_N hold the fast domain again. DEDUCED, log entry 53. -/
def State.setOverride (s : State) (v : Nat) : State :=
  if v = 1 then s.overrideRstn
  else if s.supply.override then
    let s := s.modSup fun x => { x with override := false }
    if s.supply.rstn.isSome then (s.fastReset srcRstn 2).hold srcRstn else s
  else s

/-- The device goes to STANDBY (R651, R685): the fast domain is held and its rails are taken down. -/
def State.goStandby (s : State) : State :=
  let s := s.portsHeld.disarmNow.clearHif 2
  let s := s.modHif fun h =>
    { h with cfg := .reset, ready := false, d3hot := false, linkUp := false, width := 0, rate := 0, flitMode := false, dictData := [], readOut := none }
  (s.fastCleared.startDown.toStandby).noteBp

/-- A reset that the dictionary or AON_RST_CMD asks for (R712). -/
def State.askReset (s : State) (src : Nat) : State := s.modSup fun x => { x with due := insertNat src x.due }

/-- A write of a port's object (R424, R601). -/
def State.portObjectWrite (s : State) (n sub v : Nat) : State :=
  match sub with
  | 0x16 => s.modPort n fun x => { x with alignLoss := false }
  | 0x17 => s.linkEnable n (decide (v = 1))
  | 0x18 => s.modPort n fun x => { x with forceSurvey := decide (v = 1) }
  | 0x19 => s.toRetrain n 9
  | _ => s

/-- The running effect of a write that has passed every check (R596 to R604). -/
def State.objWrite (s : State) (p : Path) (code : Nat) (i sub : Nat) (l : List Byte) : State :=
  let v := leNat l
  let on := decide (v = 1)
  if isPortIndex i then s.portObjectWrite ((i - 0x7000) / 16) sub v
  else match i, sub with
  | 0x1100, 1 => { s with station := BitVec.ofNat 8 v }
  | 0x1100, 2 => s
  | 0x1110, 3 => s.modElt fun e => { e with delay := BitVec.ofNat 32 v }
  | 0x1120, 1 => s.modElt fun e => { e with en := on }
  | 0x1120, 2 => s.modElt fun e => { e with forceLoop := on }
  | 0x1120, 3 => s.modElt fun e => { e with phy0 := BitVec.ofNat 5 v }
  | 0x1120, 4 => s.modElt fun e => { e with phy1 := BitVec.ofNat 5 v }
  | 0x1180, 2 => s.removeMail (BitVec.ofNat 8 v)
  | 0x2000, 5 => if v = 2 then s.goStandby else s.wakeUp
  | 0x2210, 1 => s.askReset srcFast
  | 0x2210, 2 => s.askReset srcClear
  | 0x2220, 1 => s.setWatchdog v
  | 0x2240, 2 => s.setOverride v
  | 0x3011, 1 => s.modTime fun t => { t with stage := BitVec.ofNat 64 v }
  | 0x3011, 2 => s.applyTime.1
  | 0x4180, 1 => { s with selectors := store 0 s.selectors (4 * i + pathIx p) v }
  | 0x5010, 1 => { s with selectors := store 0 s.selectors (4 * i + pathIx p) v }
  | 0x8000, 10 => s.applyOverride
  | 0x9010, 4 => s.endLease p code
  | 0x9020, n => { s with keys := store (List.replicate 32 0) s.keys (n - 1) l }
  | _, _ => s.setSetting i sub v

/-- The object is flash-stored (R594, R597 to R602). -/
def isFlash (i sub : Nat) : Bool :=
  decide (i = 0x1100 ∨ i = 0x1120 ∨ i = 0x2220 ∨ i = 0x9001 ∨ (i = 0x9020 ∧ sub ≤ 4) ∨ (i = 0x3020 ∧ sub = 3)) || (isPortIndex i && decide (sub = 0x17))

/-- A write is applied: its event, its effect, and for a flash-stored object the rewrite of its flash copy, which `w` waits for (R613). -/
def State.dictApply (s : State) (p : Path) (event : Option Nat) (i sub : Nat) (l : List Byte) (w : Waiter) : State :=
  let s := match event with | some path => s.dictEvent path i sub l | none => s
  let s := s.objWrite p (event.getD 0) i sub l
  if isFlash i sub then { s with dirty := s.dirty ++ [⟨256 * i + sub, leNat l, w⟩] } else s

/-! ## Reads (R572, R573, R589, R625) -/

/-- A read of a fast object that has passed its checks: the slot of 0x5010:02 is read as R534 and R535 say; an uncorrectable error of the shadow is
counted in 0x4001:02. The power reading is a free value (DESIGN CHOICE, log entry 1). DEDUCED, log entry 54. -/
def State.fastRead (s : State) (p : Path) (i sub n : Nat) (ecc : Ecc) : State × DStat × List Byte :=
  let l := s.objBytes p i sub n
  let s := if i = 0x2000 ∧ sub = 3 then s.useFree else s
  if i = 0x5010 ∧ sub = 2 then
    let t := journalWindowRead (BitVec.ofNat 12 (look 0 s.selectors (4 * i + pathIx p))) ecc s
    (t.modHif fun h => { h with readOut := s.hif.readOut }, .ok, t.hif.readOut.getD [])
  else match ecc with
    | .ok => (s, .ok, l)
    | .corrected => (s.bump 0x4001 3, .ok, l)
    | .uncorrectable => (s.bump 0x4001 2, .dataError, [])

/-! ## Deferred objects (R608, R614) -/

/-- The management core serves a deferred request: its status and data, or none while the rewrite of a flash copy is awaited. -/
def State.serveDeferred (s : State) (p : Path) (event : Option Nat) (write : Bool) (i sub n : Nat) (l : List Byte) (w : Waiter) :
    State × Option (DStat × List Byte) :=
  if write then
    if !s.valueOk i sub l then (s, some (.value, []))
    else if i = 0x9010 ∧ sub = 2 then
      match s.serveResponse p (event.getD 0) l with
      | (s, .ok) => (match event with | some path => s.dictEvent path i sub l | none => s, some (.ok, []))
      | (s, st) => (s, some (st, []))
    else if isFlash i sub then (s.dictApply p event i sub l w, none)
    else (s.dictApply p event i sub l w, some (.ok, []))
  else if i = 0x9010 ∧ sub = 1 then
    match s.newChallenge p with
    | (s, c) => (s, some (.ok, c))
  else (s, some (.ok, s.objBytes p i sub n))

/-! ## Ends of accesses -/

/-- A dictionary command ends (R500). -/
def State.endDict (s : State) (c : Cmd) (st : DStat) (l : List Byte) : State :=
  if st = .ok then (s.hostWrite (c.arg 32 8) l).endCmd c 0 (BitVec.ofNat 64 (c.arg 28 4)) else s.endCmd c st.host 0

/-- RSP of the window (R482). -/
def windowRsp (st : BitVec 16) (n : Nat) : W64 := BitVec.ofNat 64 (st.toNat + 2 ^ 32 * n + 2 ^ 63)

/-- A window access ends: a read leaves its value in the data area. -/
def State.endWindow (s : State) (st : DStat) (l : List Byte) : State :=
  let n := (s.hif.dictReq.extractLsb' 32 13).toNat
  s.modHif fun h =>
    { h with dictRsp := windowRsp st.host (if st = .ok then n else 0), dictData := if st = .ok then mstore h.dictData 0 l else h.dictData }

/-- A request leaves the deferred queue with its mailbox entry (R577). -/
def State.mailResult (s : State) (st : DStat) (l : List Byte) : State :=
  match s.elt.requests with
  | r :: rest => s.modElt fun e => { e with requests := rest, mailbox := e.mailbox ++ [⟨r.tag, st.elette, r.index, r.sub, l⟩] }
  | [] => s

/-- Who waited for a flash copy is told how it ended. -/
def State.flashDone (s : State) (w : Waiter) (st : DStat) : State :=
  match w with
  | .none => s
  | .command seq => match s.findCmd seq with | some c => s.endDict c st [] | none => s
  | .window => s.endWindow st []
  | .elette => match s.elt.requests with | r :: _ => if r.served then s.mailResult st [] else s | [] => s

/-- FLASH_COPY_COMMIT (R613, R614, R625, R812): the oldest rewrite is committed, or has failed three write attempts.
DESIGN CHOICE, log entry 57. DEDUCED, log entry 59. -/
def flashCopyCommit (written : Bool) (s : State) : State :=
  if !s.coreRuns then s
  else match s.dirty with
  | [] => s
  | d :: rest =>
    let s : State := { s with dirty := rest }
    if written then (s.setFlash (store (settingDefault d.key) s.flash d.key d.value)).flashDone d.waiter .ok
    else (s.supplyEvent 0xFE 9).flashDone d.waiter .dataError

def execFlashCopyCommit (written : Bool) (s : State) : Host.Outcome State Fault Refusal := .next (flashCopyCommit written s)

/-! ## An apply that is refused (R661, R662) -/

/-- A write of 1 to 0x3011:02 that a check turned away for the plan state or the staged time. -/
def State.applyRefused (s : State) (p : Path) (write : Bool) (i sub : Nat) (l : List Byte) (st : DStat) : Bool :=
  write && decide (i = 0x3011 ∧ sub = 2 ∧ l = [1] ∧ 1 ≤ s.authority p ∧ (st = .noAccess ∨ st = .value)) &&
    (s.planMoves || decide (999999999 < s.time.stage.toNat % 2 ^ 32))

/-- Its side effect: REFUSED, and an event. -/
def State.noteRefused (s : State) (p : Path) (write : Bool) (i sub : Nat) (l : List Byte) (st : DStat) : State :=
  if s.applyRefused p write i sub l st then s.refuseTime else s

/-! ## An access made at once -/

/-- An access made and served in one step: its status and data, or none while a flash copy is awaited. -/
def State.dictAccess (s : State) (p : Path) (event : Option Nat) (write : Bool) (i sub n : Nat) (l : List Byte) (ecc : Ecc) (w : Waiter) :
    State × Option (DStat × List Byte) :=
  let st := s.dictCheck p write i sub false fun t => t.fits n
  if st ≠ .ok then (s.noteRefused p write i sub l st, some (st, []))
  else if isDeferred i sub then s.serveDeferred p event write i sub n l w
  else if write then
    if s.valueOk i sub l then (s.dictApply p event i sub l w, some (.ok, []))
    else (s.noteRefused p write i sub l .value, some (.value, []))
  else
    let r := s.fastRead p i sub n ecc
    (r.1, some r.2)

/-- The status code of a path. -/
def DStat.code (st : DStat) (p : Path) : BitVec 16 := if p = .elette then st.elette.setWidth 16 else st.host

/-- An access that a row of its own names: its status and data are kept in `dictOut`. A flash-stored write counts as ended when it is applied.
DESIGN CHOICE, log entry 56. -/
def State.rowAccess (s : State) (p : Path) (write : Bool) (i sub n : Nat) (l : List Byte) : State :=
  match s.dictAccess p (some (pathCode p)) write i sub n l .ok .none with
  | (s, some (st, d)) => { s with dictOut := (st.code p, d) }
  | (s, none) => { s with dictOut := (0, []) }

/-! ## The window (R482, R483) -/

/-- An access through the window is running. -/
def Hif.windowBusy (h : Hif) : Bool := h.dictReq.getLsbD 63 && !h.dictRsp.getLsbD 63

/-- Reserved bits of REQ. -/
def reqReserved : W64 := 0x7FFFE000FC000000

/-- A request that passes the checks of the window reaches the dictionary. DEDUCED, log entry 53. -/
def State.windowAccess (s : State) (req : BitVec 64) (ecc : Ecc) : State :=
  let i := (req.extractLsb' 0 16).toNat
  let sub := (req.extractLsb' 16 8).toNat
  let n := (req.extractLsb' 32 13).toNat
  match s.dictAccess .host (some 1) (req.getLsbD 25) i sub n (mload s.hif.dictData 0 n) ecc .window with
  | (s, some (st, d)) => if s.barsUp then s.endWindow st d else s
  | (s, none) => s

/-- DICT_WINDOW_ACCESS (R482): a write of REQ. The link is up; while an access runs the write is ignored. -/
def dictWindowAccess (req : BitVec 64) (ecc : Ecc) (s : State) : State :=
  let op := (req.extractLsb' 24 2).toNat
  let n := (req.extractLsb' 32 13).toNat
  let done (s : State) (st : BitVec 16) : State := s.modHif fun h => { h with dictRsp := windowRsp st 0 }
  if !s.barsUp ∨ s.hif.windowBusy then s
  else if !req.getLsbD 63 then s.modHif fun h => { h with dictReq := req &&& ~~~reqReserved }
  else
    let s := s.modHif fun h => { h with dictReq := req &&& ~~~reqReserved, dictRsp := h.dictRsp &&& ~~~(1#64 <<< 63) }
    if op = 0 ∨ op = 3 then done s 0x10
    else if n = 0 ∨ 4096 < n then done s 0x12
    else if req &&& reqReserved ≠ 0 then done s 0x11
    else s.windowAccess req ecc

def execDictWindowAccess (req : BitVec 64) (ecc : Ecc) (s : State) : Host.Outcome State Fault Refusal := .next (dictWindowAccess req ecc s)

/-! ## DICT_READ and DICT_WRITE (R500, R606, R608, R614) -/

def Cmd.index (c : Cmd) : Nat := c.arg 24 2
def Cmd.subindex (c : Cmd) : Nat := c.arg 26 1
def Cmd.dictLen (c : Cmd) : Nat := c.arg 28 4

/-- DICT_READ: checks 1 to 5; COMMAND_COMPLETION brings the value. -/
def dictRead (seq : BitVec 64) (s : State) : State :=
  match s.startedCmd seq 0x30 with
  | none => s
  | some c =>
    let st := s.dictCheck .host false c.index c.subindex false fun t => t.fits c.dictLen
    if st = .ok then s.runCmd c else s.endDict c st []

def execDictRead (seq : BitVec 64) (s : State) : Host.Outcome State Fault Refusal := .next (dictRead seq s)

/-- The value of a DICT_READ is written to host memory, or is lost. A deferred one waits for the management core. -/
def State.dictReadDone (s : State) (c : Cmd) (e : Ending) : State :=
  match e with
  | .done _ =>
    if isDeferred c.index c.subindex then
      if !s.coreRuns then s
      else match s.serveDeferred .host none false c.index c.subindex c.dictLen [] .none with
        | (s, some (st, d)) => s.endDict c st d
        | (s, none) => s
    else
      let r := s.fastRead .host c.index c.subindex c.dictLen .ok
      r.1.endDict c r.2.1 r.2.2
  | .dataLoss _ =>
    if isDeferred c.index c.subindex then s
    else
      let r := s.fastRead .host c.index c.subindex c.dictLen .uncorrectable
      r.1.endDict c r.2.1 r.2.2
  | _ => s

/-- DICT_WRITE: `data` is what the read of host memory brings. A fast object is written at once; a deferred one waits for the management core. -/
def dictWrite (seq : BitVec 64) (data : Ending) (s : State) : State :=
  match s.startedCmd seq 0x31 with
  | none => s
  | some c =>
    let st := s.dictCheck .host true c.index c.subindex false fun t => t.fits c.dictLen
    match data with
    | .done bytes =>
      let l := padTo c.dictLen (bytes.take c.dictLen)
      if st ≠ .ok then (s.noteRefused .host true c.index c.subindex l st).endDict c st []
      else if s.hif.quiet then s
      else if isDeferred c.index c.subindex then (s.modCmd c.seq fun c => { c with data := l }).runCmd c
      else if s.valueOk c.index c.subindex l then (s.dictApply .host none c.index c.subindex l .none).endDict c .ok []
      else (s.noteRefused .host true c.index c.subindex l .value).endDict c .value []
    | _ => if st ≠ .ok then s.endDict c st [] else if s.hif.quiet then s else s.hostReadFail c

def execDictWrite (seq : BitVec 64) (data : Ending) (s : State) : Host.Outcome State Fault Refusal := .next (dictWrite seq data s)

/-- The management core serves a deferred DICT_WRITE; one of a flash-stored object ends with its flash copy. The command ends before the device leaves
the host. DEDUCED, log entry 53. -/
def State.dictWriteDone (s : State) (c : Cmd) : State :=
  let i := c.index
  let sub := c.subindex
  if !s.coreRuns ∨ s.dirty.any (fun d => decide (d.waiter = .command c.seq)) then s
  else if i = 0x2000 ∧ sub = 5 ∧ s.valueOk i sub c.data then (s.endDict c .ok []).dictApply .host none i sub c.data .none
  else match s.serveDeferred .host none true i sub c.dictLen c.data (.command c.seq) with
    | (s, some (st, _)) => s.endDict c st []
    | (s, none) => s

/-! ## Rows of their own -/

/-- CHALLENGE (R615). -/
def execChallenge (path : Path) (s : State) : Host.Outcome State Fault Refusal := .next (s.rowAccess path false 0x9010 1 32 [])

/-- RESPONSE (R616, R617). -/
def execResponse (path : Path) (bytes : List Byte) (s : State) : Host.Outcome State Fault Refusal :=
  .next (s.rowAccess path true 0x9010 2 bytes.length bytes)

/-- LEASE_END_REQUEST (R620). -/
def execLeaseEndRequest (path : Path) (value : Byte) (s : State) : Host.Outcome State Fault Refusal :=
  .next (s.rowAccess path true 0x9010 4 1 [value])

/-- LEASE_EXPIRY (R620): what is left of a lease's time passes. DESIGN CHOICE, log entry 62. -/
def leaseExpiry (path : Path) (s : State) : State :=
  match (s.unlockOf path).lease with
  | some e =>
    match s.toAcy e with
    | some t => t.endLease path (pathCode path)
    | none => s
  | none => s

def execLeaseExpiry (path : Path) (s : State) : Host.Outcome State Fault Refusal := .next (leaseExpiry path s)

/-- LOCKOUT_EXPIRY (R619): what is left of the lockout passes. DESIGN CHOICE, log entry 62. -/
def lockoutExpiry (path : Path) (s : State) : State :=
  match (s.unlockOf path).lockout with
  | some e =>
    match s.toAcy e with
    | some t => t.modUnlock path fun u => { u with lockout := none }
    | none => s
  | none => s

def execLockoutExpiry (path : Path) (s : State) : Host.Outcome State Fault Refusal := .next (lockoutExpiry path s)

/-- CUSTODIAN_KEY_WRITE (R602, R621). -/
def execCustodianKeyWrite (path : Path) (slot : BitVec 2) (key : List Byte) (s : State) : Host.Outcome State Fault Refusal :=
  .next (s.rowAccess path true 0x9020 (slot.toNat + 1) key.length key)

/-- DEVICE_STATE_REQUEST (R651, R652). -/
def execDeviceStateRequest (path : Path) (value : Byte) (s : State) : Host.Outcome State Fault Refusal :=
  .next (s.rowAccess path true 0x2000 5 1 [value])

/-- FAST_RESET_REQUEST (R712): through 0x2210:01, or, with no path, through FAST of AON_RST_CMD. -/
def execFastResetRequest (path : Option Path) (value : Byte) (s : State) : Host.Outcome State Fault Refusal :=
  .next (match path with
    | some p => s.rowAccess p true 0x2210 1 1 [value]
    | none => if value.getLsbD 0 then s.askReset srcFast else s)

/-- RETENTION_CLEAR_REQUEST (R712): through 0x2210:02, or, with no path, through CLEAR of AON_RST_CMD. -/
def execRetentionClearRequest (path : Option Path) (value : Byte) (s : State) : Host.Outcome State Fault Refusal :=
  .next (match path with
    | some p => s.rowAccess p true 0x2210 2 1 [value]
    | none => if value.getLsbD 0 then s.askReset srcClear else s)

/-- RST_N_OVERRIDE (R707). -/
def execRstNOverride (path : Path) (value : Byte) (s : State) : Host.Outcome State Fault Refusal := .next (s.rowAccess path true 0x2240 2 1 [value])

/-- RESTRICTED_OVERRIDE (R834). -/
def execRestrictedOverride (path : Path) (value : Byte) (s : State) : Host.Outcome State Fault Refusal :=
  .next (s.rowAccess path true 0x8000 0x0A 1 [value])

/-- ALIGN_LOSS_CLEAR (R601, R611). -/
def execAlignLossClear (path : Path) (p : PortId) (value : Byte) (s : State) : Host.Outcome State Fault Refusal :=
  .next (s.rowAccess path true (0x7000 + 16 * p.toNat) 0x16 1 [value])

/-- APPLY (R661, R662): through 0x3011:02, or, with no path, through AON_TIME_CMD. -/
def execApply (path : Option Path) (value : Byte) (s : State) : Host.Outcome State Fault Refusal :=
  .next (match path with
    | some p => s.rowAccess p true 0x3011 2 1 [value]
    | none => if value.getLsbD 0 then s.applyTime.1 else s)

/-- MAILBOX_ENTRY_REMOVE (R578). -/
def execMailboxEntryRemove (path : Path) (tag : Byte) (s : State) : Host.Outcome State Fault Refusal :=
  .next (s.rowAccess path true 0x1180 2 1 [tag])

/-! ## The test access port (R892, R893) -/

/-- IDCODE: version, part number, the 11-bit JEP106 identifier, and a 1. -/
def idcode : BitVec 32 :=
  BitVec.ofNat 32 (1 + 2 * ((Config.assignedId 0).toNat % 2 ^ 11) + 2 ^ 12 * 0x6D06 + 2 ^ 28 * (if Config.stepping = 0xB1 then 1 else 0))

/-- Boundary cells, one for each single-ended digital land of R879, in the order of its table, without those of the port itself. -/
def boundaryCells : Nat := 33

/-- The bits of a word, the least significant first. -/
def bitsOf (n : Nat) (v : Nat) : List Bool := (List.range n).map v.testBit

/-- DEBUG makes accesses: a custodian lease is in force on the Elette path or the host path. -/
def State.debugOpen (s : State) : Bool := s.leased .elette || s.leased .host

/-- The answer that DEBUG's register holds, in the packet layout of R416. -/
def Tap.replyBits (t : Tap) : List Bool := match t.reply with | some p => (packetFlits p).flatMap fun w => bitsOf 64 w.toNat | none => [false]

/-- What the selected data register captures: SAMPLE/PRELOAD and EXTEST the levels at the lands. -/
def State.tapCapture (s : State) (pins : List Bool) : List Bool :=
  match s.tap.ir with
  | .idcode => bitsOf 32 idcode.toNat
  | .sample => (pins ++ List.replicate boundaryCells false).take boundaryCells
  | .extest => (pins ++ List.replicate boundaryCells false).take boundaryCells
  | .debug => if s.debugOpen then s.tap.replyBits else [false]
  | _ => [false]

/-- The levels that the outputs' boundary cells drive, none where the outputs are the device's own, and `some none` where they float. -/
def Tap.drives (t : Tap) : Option (Option (List Bool)) :=
  match t.ir with
  | .extest => some (some t.cells)
  | .clamp => some (some t.cells)
  | .highz => some none
  | _ => none

/-- A scan of the selected data register. SAMPLE/PRELOAD and EXTEST update the boundary cells with what has been shifted in. -/
def State.tapData (s : State) (shifted pins : List Bool) : State :=
  let t := s.tap
  { s with tap := { t with
    out := s.tapCapture pins
    cells := if t.ir = .sample ∨ t.ir = .extest then (shifted ++ t.cells.drop shifted.length).take boundaryCells else t.cells } }

/-- DEBUG carries an access: while a lease is in force it is made from E0 with the M tag, and the session is journaled; otherwise only the instruction is
loaded. -/
def State.debugAccess (s : State) (pkt : FpPacket) : State :=
  let s : State := { s with tap := { s.tap with ir := .debug } }
  if s.fastUp && s.debugOpen then
    let p : FpPacket := { pkt with tag := 2, spx := 0xFE, spy := 0 }
    let s : State := { s with tap := { s.tap with asked := if packetAsks p then some p.txn else none, reply := none } }
    (s.leaseEvent (if s.leased .host then .host else .elette) 0).sendPacket (s.nodePos (.edge .e0)) p
  else s

/-- DEBUG and the other instructions of the test access port. DESIGN CHOICE, log entry 76. -/
def debug (scan : TapScan) (s : State) : State :=
  match scan with
  | .instruction ir => { s with tap := { s.tap with ir := ir } }
  | .data shifted pins => s.tapData shifted pins
  | .access pkt => s.debugAccess pkt

def execDebug (scan : TapScan) (s : State) : Host.Outcome State Fault Refusal := .next (debug scan s)

end Sys2Proof.Machine
end

