-- ==== Sys2Proof/Machine/Integrity.lean ====
section
/-! DEFINITION. Scrubbing and health sweeps (R727 to R729, R747 to R754). -/

namespace Sys2Proof.Machine

/-! ## Scrubbing -/

/-- Lines of 64 bytes of a local store. -/
def scrubLines : Nat := 6144

/-- The scrubber of a block runs (R727): its local store ticks, and the epoch in progress is not in its gate window. -/
def State.scrubs (s : State) (b : BlockId) : Bool := s.reachable b && (!s.epoch.active || s.epoch.begun)

/-- The event of an uncorrectable word that a scrubber finds (R724, R728). -/
def State.scrubFound (s : State) (ref px py : Nat) : State := s.raise 0x0600 (BitVec.ofNat 64 ref) (repairResult 8 px py 0 0 0)

/-- SCRUB_LINE (R725, R727, R728): the scrubber takes the block's next line. -/
def scrubLine (b : BlockId) (find : ScrubFind) (s : State) : State :=
  if s.scrubs b then
    let n := (s.blk b).integ.scrubLine
    let base := 0x100000 + 64 * n
    let s := s.modBlk b fun x => { x with integ := { x.integ with scrubLine := (n + 1) % scrubLines } }
    match find with
    | .clean => s
    | .corrected l => l.foldl (fun s i => s.corrected b (base + 8 * (i % 8))) s
    | .uncorrectable i => (s.uncorrectable b (base + 8 * (i % 8))).scrubFound (quarterOf b) (s.physOf b).1 (s.physOf b).2
  else s

def execScrubLine (b : BlockId) (find : ScrubFind) (s : State) : Host.Outcome State Fault Refusal := .next (scrubLine b find s)

/-- RETENTION_SCRUB (R728, R729): the scrubber of retention SRAM counts what it finds; no quarter is concerned. DEDUCED, log entry 51. -/
def retentionScrub (find : ScrubFind) (s : State) : State :=
  match find with
  | .clean => s
  | .corrected l => s.bump 0x4001 3 l.length
  | .uncorrectable _ => (s.bump 0x4001 4).scrubFound 0xFF 0xFF 0xFF

def execRetentionScrub (find : ScrubFind) (s : State) : Host.Outcome State Fault Refusal := .next (retentionScrub find s)

/-! ## Results of a sweep (R753, R754) -/

/-- A sweep ends in the quarters of its mask: blocks failed (0x4010 + q:05) and the code 6 event (R724). DESIGN CHOICE, log entry 42. -/
def State.sweepReport (s : State) (mask : Nat) (failed : Tab Nat) : State :=
  let each (s : State) (q : Nat) : State :=
    if mask.testBit q then
      let n := look 0 failed q
      (s.setCounter (0x4010 + q) 5 n).raise 0x0600 (BitVec.ofNat 64 q) (BitVec.ofNat 64 (6 + 0xFFFF00 + 2 ^ 40 * min n 255))
    else s
  [0, 1, 2, 3].foldl each s

/-- RESULT of HEALTH_SWEEP (R500). -/
def sweepResult (tested failed : Nat) : W64 := BitVec.ofNat 64 (tested + 2 ^ 32 * failed)

/-- What a mode 0 sweep leaves in a block (R749): its tests clear what they test, and it has woken from DEEP (R638). DESIGN CHOICE, log entry 42. -/
def Block.swept (x : Block) (tests : BitVec 4) : Block :=
  let x : Block := { x.wipeRegs with msg := { x.msg with hold := [] } }
  let x : Block := if tests.getLsbD 0 then { x with im := [] } else x
  if tests.getLsbD 1 then { x with ls := [], integ := { x.integ with notes := markWritten 0x100000 0x60000 x.integ.notes } } else x

/-- Failing blocks, as the sweep's completion gives them: a quarter, PX, PY and the first failing test, to which 128 is added where the footpath node failed,
one byte each (the model's own coding). DESIGN CHOICE, log entry 42. -/
def sweepFails : List Byte → List (QuarterId × Nat × Nat × Nat)
  | q :: px :: py :: t :: l => (q.truncate 2, px.toNat, py.toNat, t.toNat) :: sweepFails l
  | _ => []

/-- A mode 0 sweep has run (R749, R754); its blocks are in DEEP again. -/
def State.sweepDone (s : State) (c : Cmd) (bytes : List Byte) : State :=
  let mask := c.arg 24 1 % 16
  let tests : BitVec 4 := BitVec.ofNat 4 (c.arg 26 1)
  let l := (sweepFails bytes).filter fun x => mask.testBit x.1.toNat
  let s := l.foldl (fun s x => s.candidateAt x.1 x.2.1 x.2.2.1 2 (x.2.2.2 % 128)) s
  let s := if tests.getLsbD 3 then s.nodesTested mask l else s
  let qs := [0, 1, 2, 3].filter fun q => mask.testBit q
  let s := qs.foldl (fun s q => (s.mapQuarter q fun x => x.swept tests).quarterDeep q) s
  let failed := qs.foldl (fun t q => put t q (l.filter fun x => decide (x.1.toNat = q)).length) []
  (s.sweepReport mask failed).endCmd c 0 (sweepResult (4356 * qs.length) l.length)

/-! ## Mode 1 (R750 to R753) -/

/-- Segments of a test in mode 1 (R748). -/
def windowSegs (t : Nat) : Nat := match t with | 0 => 32 | 1 => 80 | 2 => 8 | _ => 12

/-- The next test of a block in a window: the lowest selected one that is not done and that the window allows (R748, R751).
DESIGN CHOICE, log entry 42. -/
def nextTest (tests done : BitVec 4) (regs : Bool) : Option Nat :=
  [0, 1, 2, 3].find? fun t => tests.getLsbD t && !done.getLsbD t && (regs || decide (t < 2))

/-- A window of a block in which a whole segment still fits, and the cycle at which that segment ends. -/
def State.openWindow (s : State) (b : BlockId) : Option (SweepWin × Nat) :=
  (s.pl.sweeps.find? fun w => decide (w.block = b ∧ max s.epoch.cycle w.start + 64 ≤ w.start + 64 * w.segs)).map fun w =>
    (w, max s.epoch.cycle w.start + 64)

/-- A word that a transparent march could not restore holds an uncorrectable error (R754): its value is a free value (DESIGN CHOICE, log entry 1). -/
def State.spoilWord (s : State) (b : BlockId) (a : Nat) : State :=
  let v := leBytes 8 s.free.toNat
  let s := s.useFree
  s.modBlk b fun x => if a < 0x100000 then { x with im := mstore x.im (a / 8 * 8) v } else { x with ls := mstore x.ls (a / 8 * 8) v }

/-- A segment of a test ends in a block: whether the block has now been tested. -/
def Integ.segment (i : Integ) (t : Nat) (bad : Bool) : Integ :=
  if i.segs + 1 < windowSegs t then { i with segs := i.segs + 1, failed := i.failed || bad }
  else { i with segs := 0, tested := i.tested ||| (1#4 <<< t), failed := i.failed || bad }

/-- SWEEP_WINDOW_SEGMENT (R751, R752, R754): one segment in a window of a running epoch. -/
def sweepWindowSegment (b : BlockId) (failedTest unrestored : Option Nat) (s : State) : State :=
  match s.sweep with
  | none => s
  | some w =>
    if !(w.mask.testBit (quarterOf b)) || !s.runningPart || decide (s.plan ≠ .running) then s
    else match s.openWindow b with
      | none => s
      | some (win, stop) =>
        let i := (s.blk b).integ
        match nextTest w.tests i.tested win.regs with
        | none => s
        | some t =>
          let s := s.advanceTo (min stop (2 ^ s.k - 1))
          let j := i.segment t failedTest.isSome
          let s := s.modBlk b fun x => { (if win.regs then x.wipeRegs else x) with integ := j }
          let s := match failedTest with | some n => s.candidate b 2 n | none => s
          let s := match unrestored with | some a => s.spoilWord b a | none => s
          let whole := decide (j.tested &&& w.tests = w.tests)
          let newFail := j.failed && !i.failed
          { s with sweep := some { w with
              tested := w.tested + boolBit whole
              failed := if newFail then put w.failed (quarterOf b) (look 0 w.failed (quarterOf b) + 1) else w.failed } }

def execSweepWindowSegment (b : BlockId) (failedTest unrestored : Option Nat) (s : State) : Host.Outcome State Fault Refusal :=
  .next (sweepWindowSegment b failedTest unrestored s)

/-- A mode 1 sweep ends. -/
def State.endSweep (s : State) (w : Sweep) : State :=
  let s := s.mapAll fun x => { x with integ := { x.integ with tested := 0, segs := 0, failed := false } }
  let s := ({ s with sweep := none } : State).sweepReport w.mask w.failed
  match s.findCmd w.seq with
  | some c => s.endCmd c 0 (sweepResult w.tested ((w.failed.map Prod.snd).sum))
  | none => s

/-- Every declared block of the mask has been tested. -/
def State.allTested (s : State) (w : Sweep) : Bool :=
  s.pl.sweeps.all fun x => !(w.mask.testBit (quarterOf x.block)) || decide ((s.blk x.block).integ.tested &&& w.tests = w.tests)

/-- SWEEP_END (R753): every declared block tested, LIMIT run out, for which what is left of it passes, or the plan no longer RUNNING. DESIGN CHOICE, log entry 42. -/
def sweepEnd (s : State) : State :=
  match s.sweep with
  | none => s
  | some w =>
    if s.allTested w || decide (s.plan ≠ .running) then s.endSweep w
    else if w.limit = 0 then s
    else match s.toAcy (w.start + w.limit * 25000) with
      | some t => t.endSweep w
      | none => s

def execSweepEnd (s : State) : Host.Outcome State Fault Refusal := .next (sweepEnd s)

end Sys2Proof.Machine
end

