-- ==== Sys2Proof/Machine/Commands.lean ====
section
/-! DEFINITION. The host commands that are neither plan nor dictionary commands (R500): buffers (R506 to R512), tensor access (R514 to R516), ordering, sweeps (R747 to
R753), repair (R740) and trace (R789 to R803); and COMMAND_COMPLETION, which ends every command that runs. -/

namespace Sys2Proof.Machine

/-! ## NOP, FENCE, JOURNAL_MARK (R500) -/

/-- NOP completes when it starts. -/
def execNopCommand (seq : BitVec 64) (s : State) : Host.Outcome State Fault Refusal :=
  .next (match s.startedCmd seq 0 with | some c => s.endCmd c 0 0 | none => s)

/-- JOURNAL_MARK returns the sequence number of its ACCEPTED record. -/
def execJournalMark (seq : BitVec 64) (s : State) : Host.Outcome State Fault Refusal :=
  .next (match s.startedCmd seq 0x21 with | some c => s.endCmd c 0 c.seq | none => s)

/-- The queues that a FENCE names: its own when QMASK is 0. -/
def Cmd.fences (c : Cmd) (q : QueueId) : Bool := if c.arg 24 8 = 0 then decide (q = c.queue) else (c.arg 24 8).testBit q.toNat

/-- Every command that those queues accepted before it has completed. DEDUCED, log entry 41. -/
def State.fenced (s : State) (c : Cmd) : Bool :=
  s.hif.cmds.all fun d => !(decide (d.seq < c.seq) && c.fences d.queue) || decide (d.phase = .ended)

/-- FENCE: it waits until the commands before it have completed. -/
def execFenceCommand (seq : BitVec 64) (s : State) : Host.Outcome State Fault Refusal :=
  .next (match s.startedCmd seq 0x20 with | some c => if s.fenced c then s.endCmd c 0 0 else s | none => s)

/-! ## Buffers (R506 to R512) -/

/-- Plan states in which the buffer commands are legal. -/
def PlanSt.buffers (p : PlanSt) : Bool :=
  match p with
  | .bound => true | .starting => true | .running => true | .stopping => true | .halted => true
  | .empty => false | .loading => false | .loaded => false | .unloading => false

/-- BIND of INTAKE_WRITE and OUTLET_READ. -/
def Cmd.bind (c : Cmd) : Nat := c.arg 36 2

def State.intake (s : State) (n : Nat) : Option Intake := (s.intakes.find? fun e => decide (e.1 = n)).map Prod.snd

/-- The first FREE slot in ring order from the consume point (R507). -/
def Intake.freeSlot (x : Intake) : Option Nat :=
  ((List.range x.slots.length).map fun i => (x.point + i) % x.slots.length).find? fun i => decide (x.slots[i]? = some .free)

def Intake.setSlot (x : Intake) (i : Nat) (v : InSlot) : Intake := { x with slots := x.slots.set i v }

def Outlet.setSlot (x : Outlet) (i : Nat) (v : OutSlot) : Outlet := { x with slots := x.slots.set i v }

def State.setIntake (s : State) (n : Nat) (x : Intake) : State := { s with intakes := put s.intakes n x }

/-- The common checks of the buffer commands, 0 when they pass: plan state, plan identifier, binding, LEN, and the binding's edge die. -/
def State.bufferStatus (s : State) (c : Cmd) (b : Option (Nat × Edge)) : BitVec 16 :=
  if !s.plan.buffers then 0x20
  else if !s.planIdOk c then 0x21
  else match b with
    | none => 0x30
    | some (size, die) => if c.arg 32 4 ≠ size then 0x31 else if s.dieWorks die then 0 else 0x41

/-- A data command holds a slot, and runs. -/
def State.holdSlot (s : State) (c : Cmd) (i : Nat) : State := s.modCmd c.seq fun c => { c with slot := some i, phase := .running }

/-- INTAKE_WRITE (R507): it takes a FREE slot, which becomes FILLING. -/
def intakeWrite (seq : BitVec 64) (s : State) : State :=
  match s.startedCmd seq 0x10 with
  | none => s
  | some c =>
    let x := s.intake c.bind
    let st := s.bufferStatus c (x.map fun x => (x.slotSize, x.die))
    match st, x with
    | 0, some x =>
      match x.freeSlot with
      | none => s.endCmd c 0x32 0
      | some i => (s.setIntake c.bind (x.setSlot i .filling)).holdSlot c i
    | st, _ => s.endCmd c st 0

def execIntakeWrite (seq : BitVec 64) (s : State) : Host.Outcome State Fault Refusal := .next (intakeWrite seq s)

/-- The end of an INTAKE_WRITE (R507, R509, R525): the slot is FILLED with the bytes read, or FREE again. A plan that has gone, as its plan identifier
tells, leaves nothing to fill. DEDUCED, log entry 40. -/
def State.intakeDone (s : State) (c : Cmd) (e : Ending) : State :=
  let i := c.slot.getD 0
  match (s.intake c.bind).filter (fun _ => s.planIdOk c), e with
  | some x, .done bytes =>
    let s := s.modEdge x.die fun d => { d with sram := mstore d.sram (x.base + i * x.slotSize) (padTo x.slotSize (bytes.take x.slotSize)) }
    (s.setIntake c.bind (x.setSlot i .filled)).endCmd c 0 (BitVec.ofNat 64 i)
  | none, .done _ => s.endCmd c 0 (BitVec.ofNat 64 i)
  | some x, .hostReadFailed => (s.setIntake c.bind (x.setSlot i .free)).hostReadFail c
  | none, .hostReadFailed => s.hostReadFail c
  | some x, .unreachable => (s.setIntake c.bind (x.setSlot i .free)).endCmd c 0x41 0
  | none, .unreachable => s.endCmd c 0x41 0
  | _, .dataLoss _ => s

/-- OUTLET_READ (R512): the oldest READY slot becomes READING. -/
def outletRead (seq : BitVec 64) (s : State) : State :=
  match s.startedCmd seq 0x11 with
  | none => s
  | some c =>
    let x := s.outlet c.bind
    let st := s.bufferStatus c (x.map fun x => (x.slotSize, x.die))
    match st, x with
    | 0, some x =>
      match x.order with
      | [] => s.endCmd c 0x33 0
      | i :: rest =>
        match x.slots[i]? with
        | some (.ready e v) => (s.setOutlet c.bind { x.setSlot i (.reading e v) with order := rest }).holdSlot c i
        | _ => s.endCmd c 0x33 0
    | st, _ => s.endCmd c st 0

def execOutletRead (seq : BitVec 64) (s : State) : Host.Outcome State Fault Refusal := .next (outletRead seq s)

/-- The end of an OUTLET_READ (R512, R525): its bytes are in host memory, or lost, and the slot is EMPTY. A plan that has gone, as its plan identifier tells,
leaves no slot. DEDUCED, log entry 40. -/
def State.outletDone (s : State) (c : Cmd) (e : Ending) : State :=
  let i := c.slot.getD 0
  match (s.outlet c.bind).filter (fun _ => s.planIdOk c) with
  | none => match e with
    | .done _ => s.endCmd c 0 0
    | .dataLoss _ => s.endCmd c 0x42 0
    | .unreachable => s.endCmd c 0x41 0
    | .hostReadFailed => s
  | some x =>
    let free := s.setOutlet c.bind (x.setSlot i .empty)
    match e with
    | .done _ =>
      let epoch : W64 × Bool := match x.slots[i]? with | some (.reading n v) => (n, v) | _ => (0, false)
      (free.hostWrite (c.arg 24 8) (mload (s.edgeDie x.die).sram (x.base + i * x.slotSize) x.slotSize)).endCmd c (if epoch.2 then 1 else 0) epoch.1
    | .dataLoss _ => (free.bump 0x4001 6).endCmd c 0x42 0
    | .unreachable => free.endCmd c 0x41 0
    | .hostReadFailed => s

/-! ## Tensor access (R514 to R516) -/

def Cmd.daddr (c : Cmd) : Nat := c.arg 32 8
def Cmd.tensorLen (c : Cmd) : Nat := c.arg 40 4
/-- REMOTE and DEV. -/
def Cmd.remote (c : Cmd) : Bool := decide (128 ≤ c.arg 44 1)
def Cmd.dev (c : Cmd) : BitVec 7 := BitVec.ofNat 7 (c.arg 44 1)

/-- The region pieces of a tensor command's range. -/
def Cmd.range (c : Cmd) : List (Nat × Nat) := pieces c.daddr c.tensorLen

/-- The STATUS of a tensor command at its start, 0 when it runs: a route whose port E0 reaches (R43, R451, R514), address, and for a write the protected places (R515).
DEDUCED, log entry 40. -/
def State.tensorStatus (s : State) (c : Cmd) (write : Bool) : BitVec 16 :=
  if c.remote && (s.wayOut (some .e0) c.dev).isNone then 0x41
  else if c.range.any fun p => decide (deviceMap p.1 = .reserved) then 0x43
  else if write && !c.remote && c.range.any (fun p => s.writeBarred (deviceMap p.1)) then 0x34
  else 0

/-- Payloads of the KIND 1 frames of a remote tensor command: OP (0 read, 1 write), LEN and DADDR, then up to 228 bytes (DESIGN CHOICE, log entry 16). -/
def hostFrames : Nat → Nat → Nat → Nat → List Byte → List (List Byte)
  | 0, _, _, _, _ => []
  | k + 1, op, a, n, l =>
    let m := min n 228
    if n = 0 then [] else (leBytes 4 op ++ leBytes 4 m ++ leBytes 8 a ++ l.take m) :: hostFrames k op (a + m) (n - m) (l.drop m)

/-- The frames of a remote tensor command are queued toward its device. -/
def State.sendTensor (s : State) (c : Cmd) (op : Nat) (l : List Byte) : State :=
  (hostFrames (c.tensorLen / 228 + 1) op c.daddr c.tensorLen l).foldl (fun s x => s.queueFrame ⟨0, false, c.dev, s.devNum, 1, 15, x⟩) s

/-- TENSOR_WRITE. -/
def tensorWrite (seq : BitVec 64) (s : State) : State :=
  match s.startedCmd seq 0x12 with
  | none => s
  | some c =>
    let st := s.tensorStatus c true
    if st = 0 then s.runCmd c else s.endCmd c st 0

def execTensorWrite (seq : BitVec 64) (s : State) : Host.Outcome State Fault Refusal := .next (tensorWrite seq s)

/-- TENSOR_READ: a remote one sends its requests. -/
def tensorRead (seq : BitVec 64) (s : State) : State :=
  match s.startedCmd seq 0x13 with
  | none => s
  | some c =>
    let st := s.tensorStatus c false
    if st = 0 then (if c.remote then s.sendTensor c 0 [] else s).runCmd c else s.endCmd c st 0

def execTensorRead (seq : BitVec 64) (s : State) : Host.Outcome State Fault Refusal := .next (tensorRead seq s)

/-- STATUS of a tensor access that met an error of R416. -/
def tensorError (e : BitVec 4) : BitVec 16 := if e = 2 then 0x41 else if e = 3 then 0x42 else 0x43

/-- The end of a TENSOR_WRITE. A remote one first sends what was read, and ends with its last answer. -/
def State.tensorWriteDone (s : State) (c : Cmd) (e : Ending) : State :=
  match e with
  | .done bytes =>
    let l := padTo c.tensorLen (bytes.take c.tensorLen)
    if c.remote then
      if c.slot = none then (s.sendTensor c 1 l).holdSlot c 0 else s.endCmd c 0 (BitVec.ofNat 64 c.tensorLen)
    else if c.range.any fun p => s.writeBarred (deviceMap p.1) then s.endCmd c 0x34 0
    else match s.mapWrites .ok l c.range with
      | (s, .ok _) => s.endCmd c 0 (BitVec.ofNat 64 c.tensorLen)
      | (s, .err e) => s.endCmd c (tensorError e) 0
  | .hostReadFailed => s.hostReadFail c
  | .unreachable => s.endCmd c 0x41 0
  | .dataLoss _ => s

/-- The data of a TENSOR_READ are written to host memory. -/
def State.tensorOut (s : State) (c : Cmd) (l : List Byte) : State :=
  (s.hostWrite (c.arg 24 8) l).endCmd c 0 (BitVec.ofNat 64 c.tensorLen)

/-- The end of a TENSOR_READ. The data of a remote one come with its answers. -/
def State.tensorReadDone (s : State) (c : Cmd) (e : Ending) : State :=
  let read (ecc : Ecc) : State :=
    match s.mapReads ecc c.range with
    | (s, .ok l) => s.tensorOut c l
    | (s, .err e) => s.endCmd c (tensorError e) 0
  match e with
  | .done bytes => if c.remote then s.tensorOut c (padTo c.tensorLen (bytes.take c.tensorLen)) else read .ok
  | .dataLoss _ => if c.remote then s.endCmd c 0x42 0 else read .uncorrectable
  | .unreachable => s.endCmd c 0x41 0
  | .hostReadFailed => s

/-! ## Sweeps and repair (R740, R747 to R753, R898) -/

/-- HEALTH_SWEEP in mode 0. DEDUCED, log entry 41. DESIGN CHOICE, log entry 42. -/
def State.wholeSweep (s : State) (c : Cmd) : State :=
  if s.thermal.stop then s.endCmd c 0x60 0
  else if c.arg 24 1 ≠ 0 ∧ s.plan ≠ .empty ∧ s.plan ≠ .loaded then s.endCmd c 0x20 0
  else s.runCmd c

/-- HEALTH_SWEEP in mode 1: it runs in the windows of the epochs to come, and ends at once while the plan is not RUNNING. DESIGN CHOICE, log entry 42. -/
def State.windowSweep (s : State) (c : Cmd) : State :=
  if s.plan = .running then
    ({ s with sweep := some ⟨c.seq, c.arg 24 1, BitVec.ofNat 4 (c.arg 26 1), c.arg 28 4, 0, [], s.acy⟩ } : State).runCmd c
  else (s.sweepReport (c.arg 24 1) []).endCmd c 0 0

/-- HEALTH_SWEEP. -/
def execHealthSweep (seq : BitVec 64) (s : State) : Host.Outcome State Fault Refusal :=
  .next (match s.startedCmd seq 0x22 with
    | none => s
    | some c => if c.arg 25 1 = 0 then s.wholeSweep c else s.windowSweep c)

/-- REPAIR_APPLY. -/
def execRepairApply (seq : BitVec 64) (s : State) : Host.Outcome State Fault Refusal :=
  .next (match s.startedCmd seq 0x23 with
    | none => s
    | some c =>
      if s.plan = .empty ∨ s.plan = .loaded then s.applyRepair.1.endCmd c 0 (BitVec.ofNat 64 s.applyRepair.2) else s.endCmd c 0x20 0)

/-! ## Trace (R789 to R791, R803) -/

/-- A drain runs. DEDUCED, log entry 41. -/
def State.draining (s : State) : Bool := s.hif.cmds.any fun c => decide (c.opcode = 0x25 ∧ c.phase = .running)

/-- TRACE_ARM: armed trace is disarmed first, and TRACE_DISARM_COMPLETE goes on. -/
def traceArm (seq : BitVec 64) (s : State) : State :=
  match s.startedCmd seq 0x24 with
  | none => s
  | some c =>
    if s.draining then s.endCmd c 0x60 0
    else if s.trace.armed then s.beginDisarm.runCmd c
    else s.finishArm c

def execTraceArm (seq : BitVec 64) (s : State) : Host.Outcome State Fault Refusal := .next (traceArm seq s)

/-- The edge die of a TRACE_DRAIN. -/
def Cmd.drainDie (c : Cmd) : Edge := edgeOf (c.arg 36 1)

/-- TRACE_DRAIN. -/
def traceDrain (seq : BitVec 64) (s : State) : State :=
  match s.startedCmd seq 0x25 with
  | none => s
  | some c =>
    if s.trace.armed || s.trace.disarming then s.endCmd c 0x60 0
    else if !s.dieWorks c.drainDie then s.endCmd c 0x41 0
    else s.runCmd c

def execTraceDrain (seq : BitVec 64) (s : State) : Host.Outcome State Fault Refusal := .next (traceDrain seq s)

/-- The end of a TRACE_DRAIN (R775, R803): entries copied are freed, and those with an uncorrectable error counted. -/
def State.drainDone (s : State) (c : Cmd) (e : Ending) : State :=
  let copy (bad : List Nat) : State :=
    let l := s.drained c.drainDie (c.arg 32 4) bad
    let k := s.sink c.drainDie
    let t := (s.hostWrite (c.arg 24 8) l.flatten).setSink c.drainDie { k with held := k.held - l.length }
    let n := ((List.range l.length).filter fun i => i ∈ bad).length
    ((if n = 0 then t else t.bump 0x4001 6 n).settleTrace).endCmd c 0 (BitVec.ofNat 64 (64 * l.length))
  match e with
  | .done _ => copy []
  | .dataLoss bad => copy bad
  | .unreachable => s.endCmd c 0x41 0
  | .hostReadFailed => s

/-! ## COMMAND_COMPLETION -/

/-- The commands that use host memory, which pause in D3hot (R522). -/
def hostCommand (op : Nat) : Bool := decide (op = 1 ∨ (0x10 ≤ op ∧ op ≤ 0x13) ∨ op = 0x25 ∨ op = 0x30)

/-- What a command that runs does at its end, by its opcode. A mode 1 sweep ends with SWEEP_END, a TRACE_ARM with TRACE_DISARM_COMPLETE. -/
def State.completeCmd (s : State) (c : Cmd) (e : Ending) : State :=
  match c.opcode with
  | 0x01 => s.planLoaded c e
  | 0x05 => s.unloadDone c
  | 0x10 => s.intakeDone c e
  | 0x11 => s.outletDone c e
  | 0x12 => s.tensorWriteDone c e
  | 0x13 => s.tensorReadDone c e
  | 0x22 => if c.arg 25 1 = 0 then match e with | .done bytes => s.sweepDone c bytes | _ => s else s
  | 0x25 => s.drainDone c e
  | 0x30 => s.dictReadDone c e
  | 0x31 => s.dictWriteDone c
  | _ => s

/-- COMMAND_COMPLETION. -/
def commandCompletion (seq : BitVec 64) (e : Ending) (s : State) : State :=
  match (s.findCmd seq).filter fun c => decide (c.phase = .running) with
  | none => s
  | some c => if s.hif.quiet && hostCommand c.opcode then s else s.completeCmd c e

def execCommandCompletion (seq : BitVec 64) (ending : Ending) (s : State) : Host.Outcome State Fault Refusal := .next (commandCompletion seq ending s)

end Sys2Proof.Machine
end

