-- ==== Sys2Proof/Machine/Elette.lean ====
section
/-! DEFINITION. Elette (chapter 13): frames and datagrams as they pass, what a frame applies at its end, deferred requests and the mailbox, and the link poll. -/

namespace Sys2Proof.Machine

/-! ## The passage of a frame (R565 to R570, R584) -/

/-- A counter of the Elette engine saturates (R557). -/
def satN (n : Nat) : Nat := min (n + 1) (2 ^ 64 - 1)

/-- The bytes of a datagram (R568). -/
def dgBytes (d : Datagram) : List Byte :=
  [d.op, d.tag, d.target, d.hops] ++ leBytes 2 d.index.toNat ++ [d.sub, d.flags] ++ leBytes 2 (d.len + 4096 * d.lenRsv.toNat) ++ d.data ++
    [d.status, d.tally, d.last, d.rsv]

/-- The datagram at the head of some bytes (R568). -/
def dgAt (l : List Byte) : Datagram :=
  let at_ i := l.getD i 0
  let n := leAt l 8 2 % 4096
  ⟨at_ 0, at_ 1, at_ 2, at_ 3, BitVec.ofNat 16 (leAt l 4 2), at_ 6, at_ 7, n, BitVec.ofNat 4 (leAt l 8 2 / 4096), (l.drop 10).take n,
    at_ (10 + n), at_ (11 + n), at_ (12 + n), at_ (13 + n)⟩

/-- The datagrams among the first `count` that lie wholly within some bytes (R584). -/
def dgList : Nat → List Byte → List Datagram
  | 0, _ => []
  | n + 1, l => if 14 + leAt l 8 2 % 4096 ≤ l.length then dgAt l :: dgList n (l.drop (14 + leAt l 8 2 % 4096)) else []

/-- The sizes of datagrams together (R568). -/
def dgSizes (l : List Datagram) : Nat := (l.map fun d => 14 + d.len).sum

/-- An operation that R569 assigns and that some device acts on. -/
def actingOp (op : Byte) : Bool :=
  decide (op = 0x10 ∨ op = 0x11 ∨ op = 0x20 ∨ op = 0x21 ∨ op = 0x30 ∨ op = 0x31 ∨ op = 0x40 ∨ op = 0x41)

/-- The datagrams at the head of a list that no device acts on. -/
def plainOf (l : List Datagram) : List Datagram := l.takeWhile fun d => !actingOp d.op

/-- Every processing device adds 1 to HOPS of every datagram (R570). -/
def hopOn (d : Datagram) : Datagram := { d with hops := d.hops + 1 }

/-- Datagrams that no device acts on pass; the reserved ones are counted (R569, R570, R585). DEDUCED, log entry 54. -/
def State.passPlain (s : State) (f : EltFrame) : State :=
  let l := plainOf f.rest
  s.modElt fun e =>
    { e with frame := some { f with rest := f.rest.drop l.length, out := f.out ++ l.map hopOn }
             rsvCmd := min (e.rsvCmd + (l.filter fun d => decide (d.op ≠ 0)).length) (2 ^ 64 - 1) }

/-- The port that a frame from port 0 goes out of has a link (R566). -/
def Elt.outLink (e : Elt) : Bool := if e.looped then e.link0 else e.link1

/-- The bytes of a frame up to its FCS (R567). -/
def eltFrameBytes (addresses : List Byte) (ethertype : BitVec 16) (version count : Byte) (area : BitVec 16) (content : List Byte) : List Byte :=
  addresses ++ (leBytes 2 ethertype.toNat).reverse ++ [version, count] ++ leBytes 2 area.toNat ++ content

/-- ELETTE_FRAME_RECEIVE (R566, R567, R579, R584): a frame reaches port 0; `content` is what lies between AREA and the FCS. The RMII reference is
good; a frame for which the output port has no link is discarded. DEDUCED, log entry 54. -/
def eletteFrameReceive (addresses : List Byte) (ethertype : BitVec 16) (version count : Byte) (area : BitVec 16) (content : List Byte) (s : State) : State :=
  let e := s.elt
  let bytes := eltFrameBytes addresses ethertype version count area content
  if s.boot.st = .off ∨ (s.monitor 2).failed ∨ e.frame.isSome ∨ !e.outLink then s
  else if e.en && decide (ethertype = e.etherType ∧ version = 1) then
    let l := dgList count.toNat (content.take area.toNat)
    let bad := decide (count = 0 ∨ content.length < area.toNat ∨ l.length < count.toNat ∨ dgSizes l ≠ area.toNat)
    let f : EltFrame := ⟨true, bytes, l, content.drop (dgSizes l), bad, s.time64, [], []⟩
    (s.modElt fun e => { e with frames := satN e.frames }).passPlain f
  else
    let f : EltFrame := ⟨false, bytes, [], [], false, s.time64, [], []⟩
    s.modElt fun e => { e with other := satN e.other, frame := some f }

def execEletteFrameReceive (addresses : List Byte) (ethertype : BitVec 16) (version count : Byte) (area : BitVec 16) (content : List Byte) (s : State) :
    Host.Outcome State Fault Refusal := .next (eletteFrameReceive addresses ethertype version count area content s)

/-- The frame whose next datagram is this one, with this operation. -/
def State.frameFor (s : State) (op : Byte) (dg : Datagram) : Option EltFrame :=
  s.elt.frame.filter fun f => decide (f.rest.head? = some dg ∧ dg.op = op)

/-- A datagram leaves the device, with HOPS one higher (R570), and what it asks for is kept for the end of the frame (R574). -/
def State.sendDatagram (s : State) (f : EltFrame) (dg : Datagram) (acts : List EndAct) : State :=
  s.passPlain { f with rest := f.rest.drop 1, acts := f.acts ++ acts, out := f.out ++ [hopOn dg] }

/-- An acting device writes STATUS, TALLY and LAST (R571), and FLAGS.DEFERRED (R576). -/
def answered (dg : Datagram) (st : DStat) (station : Byte) : Datagram :=
  let good := decide (st = .ok ∨ st = .deferred)
  { dg with
    status := if dg.status < st.elette then st.elette else dg.status
    tally := if good then dg.tally + 1 else dg.tally
    last := if good then station else dg.last
    flags := if st = .deferred then dg.flags ||| 1 else dg.flags }

/-- An acting device's own answer: status, data, and what is kept for the end of the frame. -/
def State.reply (s : State) (f : EltFrame) (dg : Datagram) (st : DStat) (data : List Byte) (acts : List EndAct) : State :=
  s.sendDatagram f (answered { dg with data := data } st s.station) acts

/-! ## Reads and writes (R571 to R576) -/

/-- Requests and mailbox entries held, with those that the frame in passage has been granted. DEDUCED, log entry 54. -/
def State.deferredHeld (s : State) (f : EltFrame) : Nat :=
  s.elt.requests.length + s.elt.mailbox.length + (f.acts.filter fun a => match a with | .request _ => true | _ => false).length

/-- The request of a datagram. -/
def dgRequest (dg : Datagram) (write : Bool) : DefReq :=
  ⟨dg.tag, dg.index, dg.sub, write, dg.len, if write then padTo dg.len (dg.data.take dg.len) else [], false⟩

/-- A datagram asks for a deferred object (R576). -/
def State.deferDatagram (s : State) (f : EltFrame) (dg : Datagram) (write : Bool) : State :=
  if 1024 < dg.len then s.reply f dg .length dg.data []
  else if s.deferredHeld f < 8 then s.reply f dg .deferred dg.data [.request (dgRequest dg write)]
  else s.reply f dg .busy dg.data []

/-- The value of a fast object in a frame (R572): system time is that of the frame's SFD. -/
def State.frameRead (s : State) (f : EltFrame) (i sub n : Nat) (ecc : Ecc) : State × DStat × List Byte :=
  match s.fastRead .elette i sub n ecc with
  | (s, st, l) => (s, st, if i = 0x3010 ∧ sub = 1 ∧ st = .ok then leBytes 8 f.t0.toNat else l)

/-- SGET and PGET at the device that acts. -/
def State.getDatagram (s : State) (f : EltFrame) (dg : Datagram) (ecc : Ecc) : State :=
  let i := dg.index.toNat
  let sub := dg.sub.toNat
  let st := s.dictCheck .elette false i sub false fun t => t.fits dg.len
  if st ≠ .ok then s.reply f dg st dg.data []
  else if isDeferred i sub then s.deferDatagram f dg false
  else
    match s.frameRead f i sub dg.len ecc with
    | (s, st, l) => s.reply f dg st (if st = .ok then l else List.replicate dg.len 0xFF) []

/-- SPUT, PPUT and ALLPUT at the device that acts. -/
def State.putDatagram (s : State) (f : EltFrame) (dg : Datagram) (fastOnly : Bool) : State :=
  let i := dg.index.toNat
  let sub := dg.sub.toNat
  let l := padTo dg.len (dg.data.take dg.len)
  let st := s.dictCheck .elette true i sub fastOnly fun t => t.fits dg.len
  let late (st : DStat) : List EndAct := if s.applyRefused .elette true i sub l st then [.refused] else []
  if st ≠ .ok then s.reply f dg st dg.data (late st)
  else if isDeferred i sub then s.deferDatagram f dg true
  else if s.valueOk i sub l then s.reply f dg .ok dg.data [.write dg.index dg.sub l]
  else s.reply f dg .value dg.data (late .value)

/-- The datagram is for this station (R569, R570). -/
def State.forStation (s : State) (dg : Datagram) : Bool := decide (s.station ≠ 0 ∧ dg.target = s.station)

/-- SGET (R569, R571, R572). -/
def sget (dg : Datagram) (ecc : Ecc) (s : State) : State :=
  match s.frameFor 0x10 dg with
  | none => s
  | some f => if s.forStation dg then s.getDatagram f dg ecc else s.sendDatagram f dg []

def execSget (dg : Datagram) (ecc : Ecc) (s : State) : Host.Outcome State Fault Refusal := .next (sget dg ecc s)

/-- SPUT (R569, R574). -/
def sput (dg : Datagram) (s : State) : State :=
  match s.frameFor 0x11 dg with
  | none => s
  | some f => if s.forStation dg then s.putDatagram f dg false else s.sendDatagram f dg []

def execSput (dg : Datagram) (s : State) : Host.Outcome State Fault Refusal := .next (sput dg s)

/-- PGET (R569): the device at the position of TARGET. -/
def pget (dg : Datagram) (ecc : Ecc) (s : State) : State :=
  match s.frameFor 0x20 dg with
  | none => s
  | some f => if dg.target = dg.hops then s.getDatagram f dg ecc else s.sendDatagram f dg []

def execPget (dg : Datagram) (ecc : Ecc) (s : State) : Host.Outcome State Fault Refusal := .next (pget dg ecc s)

/-- PPUT (R569). -/
def pput (dg : Datagram) (s : State) : State :=
  match s.frameFor 0x21 dg with
  | none => s
  | some f => if dg.target = dg.hops then s.putDatagram f dg false else s.sendDatagram f dg []

def execPput (dg : Datagram) (s : State) : Host.Outcome State Fault Refusal := .next (pput dg s)

/-- ALLPUT (R569, R606). -/
def allput (dg : Datagram) (s : State) : State :=
  match s.frameFor 0x31 dg with
  | none => s
  | some f => s.putDatagram f dg true

def execAllput (dg : Datagram) (s : State) : Host.Outcome State Fault Refusal := .next (allput dg s)

/-- The bytes from `a` on of a list replaced by `l`. -/
def splice (d : List Byte) (a : Nat) (l : List Byte) : List Byte := d.take a ++ l ++ d.drop (a + l.length)

/-- GATHER (R573): the device whose slot lies within DATA writes its value there. An object that does not exist has no slot, and every device answers
NO_OBJECT. DEDUCED, log entry 54. -/
def gather (dg : Datagram) (ecc : Ecc) (s : State) : State :=
  let i := dg.index.toNat
  let sub := dg.sub.toNat
  match s.frameFor 0x30 dg with
  | none => s
  | some f =>
    match objInfo i sub with
    | none => s.reply f dg .noObject dg.data []
    | some o =>
      let n := o.ty.size
      let a := n * dg.hops.toNat
      if dg.len < a + n then s.sendDatagram f dg []
      else
        let st := s.dictCheck .elette false i sub true fun _ => decide (dg.len % n = 0)
        if st ≠ .ok then s.reply f dg st dg.data []
        else
          match s.frameRead f i sub n ecc with
          | (s, st, l) => s.reply f dg st (splice dg.data a (if st = .ok then l else List.replicate n 0xFF)) []

def execGather (dg : Datagram) (ecc : Ecc) (s : State) : Host.Outcome State Fault Refusal := .next (gather dg ecc s)

/-! ## Time (R579, R580) -/

/-- TLATCH (R579): every device keeps this frame's latches at its end. -/
def tlatch (dg : Datagram) (s : State) : State :=
  match s.frameFor 0x40 dg with
  | none => s
  | some f => s.reply f dg .ok dg.data [.latch]

def execTlatch (dg : Datagram) (s : State) : Host.Outcome State Fault Refusal := .next (tlatch dg s)

/-- A TIME64 and a signed number of ns, as a TIME64. -/
def timePlus (v : W64) (d : BitVec 32) : W64 :=
  let n := ((v.toNat / 2 ^ 32 * 1000000000 + v.toNat % 2 ^ 32 : Nat) + d.toInt).toNat
  BitVec.ofNat 64 (n % 1000000000 + n / 1000000000 % 2 ^ 32 * 2 ^ 32)

/-- TDIST (R580): the reference writes its T0; a device that the reference has answered before, as TALLY shows, takes a sample. DEDUCED, log entry 54. -/
def tdist (dg : Datagram) (s : State) : State :=
  match s.frameFor 0x41 dg with
  | none => s
  | some f =>
    let ok := decide (dg.len = 8 ∧ dg.index = 0 ∧ dg.sub = 0)
    if s.forStation dg then
      if ok then s.reply f dg .ok (leBytes 8 f.t0.toNat) [] else s.reply f dg .length dg.data []
    else if ok ∧ dg.tally ≠ 0 then
      s.reply f dg .ok dg.data [.sample (timePlus (BitVec.ofNat 64 (leAt dg.data 0 8)) s.elt.delay)]
    else s.sendDatagram f dg []

def execTdist (dg : Datagram) (s : State) : Host.Outcome State Fault Refusal := .next (tdist dg s)

/-! ## The end of a frame (R574, R582, R584, R585) -/

/-- One act of a frame that applies. -/
def State.endAct (s : State) (f : EltFrame) (t1 : W64) (a : EndAct) : State :=
  match a with
  | .write i sub l => s.dictApply .elette (some 2) i.toNat sub.toNat l .none
  | .request r => s.modElt fun e => { e with requests := e.requests ++ [r] }
  | .latch => s.modElt fun e => { e with t0 := f.t0, t1 := if e.looped then f.t0 else t1 }
  | .sample t => s.eletteSample f.t0 t
  | .refused => s.refuseTime

/-- The frame as it is sent out, up to its FCS (R567, R582, R584). -/
def EltFrame.sent (f : EltFrame) : List Byte := if f.processed then f.bytes.take 18 ++ f.out.flatMap dgBytes ++ f.after else f.bytes

/-- Bytes with their FCS, or with its complement (R582). -/
def withFcs (valid : Bool) (l : List Byte) : List Byte := l ++ leBytes 4 (if valid then crc32 l else ~~~crc32 l).toNat

/-- ELETTE_FRAME_END_APPLY (R574, R579, R582, R584, R585): the last FCS byte, once every datagram has passed. A frame with a valid FCS and a well-formed
area applies its acts in datagram order; `t1` is when its SFD came back on port 1. Of a frame cut short the last four bytes stand as its FCS.
DEDUCED, log entry 54. DESIGN CHOICE, log entry 56. -/
def eletteFrameEndApply (fcs : BitVec 32) (rxErr : Bool) (t1 : BitVec 64) (s : State) : State :=
  match s.elt.frame with
  | none => s
  | some f =>
    let valid := decide (fcs = crc32 f.bytes) && !rxErr
    if f.rest ≠ [] then s
    else
      let s := s.modElt fun e =>
        { e with frame := none, sent := withFcs valid f.sent
                 fcsErr := if valid then e.fcsErr else satN e.fcsErr, malformed := if f.bad then satN e.malformed else e.malformed }
      let s := if valid && f.processed && !f.bad then f.acts.foldl (fun s a => s.endAct f t1 a) s else s
      s.modElt fun e => { e with looped := e.loopNext }

def execEletteFrameEndApply (fcs : BitVec 32) (rxErr : Bool) (t1 : BitVec 64) (s : State) : Host.Outcome State Fault Refusal :=
  .next (eletteFrameEndApply fcs rxErr t1 s)

/-- A frame as it is sent out (R582): with its own FCS when that was right and no RX_ER was seen, with the complement of the right one otherwise. -/
def sentFrame (f : WireFrame) : Bool × List Byte :=
  let n := f.bytes.length - 4
  let l := f.bytes.take n
  let valid := decide (f.bytes.drop n = leBytes 4 (crc32 l).toNat) && !f.rxErr
  (valid, withFcs valid l)

/-- ELETTE_RETURN_FORWARD (R566, R582): a frame received on port 1 goes out of port 0, when that has a link. -/
def eletteReturnForward (frame : WireFrame) (s : State) : State :=
  if s.boot.st = .off ∨ (s.monitor 2).failed then s
  else
    let r := sentFrame frame
    s.modElt fun e => { e with fcsErr := if r.1 then e.fcsErr else satN e.fcsErr, returned := if e.link0 then r.2 else e.returned }

def execEletteReturnForward (frame : WireFrame) (s : State) : Host.Outcome State Fault Refusal := .next (eletteReturnForward frame s)

/-- PHY_LINK_POLL (R565): the 1 ms poll; a change of LOOPED waits for the end of a frame in passage. -/
def phyLinkPoll (link0 link1 : Bool) (s : State) : State :=
  if s.boot.st = .off then s
  else s.modElt fun e =>
    let l := !link1 || e.forceLoop
    { e with link0 := link0, link1 := link1, loopNext := l, looped := if e.frame.isSome then e.looped else l }

def execPhyLinkPoll (link0 link1 : Bool) (s : State) : Host.Outcome State Fault Refusal := .next (phyLinkPoll link0 link1 s)

/-! ## Deferred requests (R577, R608) -/

/-- DEFERRED_REQUEST_SERVED (R577): the management core serves the oldest request; one that waits for a flash copy is answered with it.
DESIGN CHOICE, log entry 57. -/
def deferredRequestServed (s : State) : State :=
  match s.elt.requests with
  | [] => s
  | r :: rest =>
    if r.served || !s.coreRuns then s
    else match s.serveDeferred .elette (some 2) r.write r.index.toNat r.sub.toNat r.len r.data .elette with
      | (s, some (st, l)) => s.mailResult st l
      | (s, none) => s.modElt fun e => { e with requests := { r with served := true } :: rest }

def execDeferredRequestServed (s : State) : Host.Outcome State Fault Refusal := .next (deferredRequestServed s)

/-- DEFERRED_REQUEST_TIMEOUT (R577): 1 s has passed since the oldest request was queued; a late result is discarded. DESIGN CHOICE, log entry 9. -/
def deferredRequestTimeout (s : State) : State :=
  match s.elt.requests with
  | [] => s
  | _ :: _ =>
    let s : State := { s with dirty := s.dirty.map fun d => if d.waiter = .elette then { d with waiter := .none } else d }
    s.mailResult .timeout []

def execDeferredRequestTimeout (s : State) : Host.Outcome State Fault Refusal := .next (deferredRequestTimeout s)

end Sys2Proof.Machine
end

