-- ==== Sys2Proof/Machine/EngineOps.lean ====
section
/-! DEFINITION. What the vector and matrix engines share: register groups, masks, what an instruction writes when it completes, the values that
lost data leave, and which registers an instruction reads and writes (R232 to R236, R253, R254, R280, R281, R326). -/

namespace Sys2Proof

/-- The format of a vector floating-point type (R245). -/
def FTy.fmt : FTy → Machine.FFmt
  | .f64 => .f64 | .f32 => .f32 | .f16 => .f16 | .bf16 => .bf16

/-- The element width of a vector integer type (R245). -/
def ITy.width : ITy → Nat
  | .i8 => 8 | .x16 => 16 | .i32 => 32 | .i64 => 64

/-- The source type width of a vector arithmetic operation. -/
def VArith.width : VArith → Nat
  | .flt _ ty => ty.fmt.width | .int _ ty => ty.width

def VCmp.width : VCmp → Nat
  | .feq ty => ty.fmt.width | .flt ty => ty.fmt.width | .fle ty => ty.fmt.width
  | .seq ty => ty.width | .slt ty => ty.width | .sltu ty => ty.width

def VRed.width : VRed → Nat
  | .flt _ ty => ty.fmt.width | .int _ ty => ty.width

def VArith.isWma : VArith → Bool
  | .flt .wma _ => true | _ => false

end Sys2Proof

namespace Sys2Proof.Machine

/-- G: the group size that GRP gives (R239). -/
def groupSize (grp : BitVec 2) : Nat := 2 ^ grp.toNat

/-- `n` elements of width `w` of the group that begins at register `r` (R233). -/
def groupElems (v : Tab (BitVec 16384)) (r w : Nat) : Nat → Nat → List Nat
  | 0, _ => []
  | k + 1, n =>
    let e := 16384 / w
    chop w (min n e) (look 0 v r).toNat ++ groupElems v (r + 1) w k (n - e)

/-- Registers that `n` elements of width `w` occupy (R253). -/
def regCount (n w : Nat) : Nat := (n * w + 16383) / 16384

/-- The elements of an operand of `n` elements of width `w`. -/
def Vec.elems (x : Vec) (r : Reg) (w n : Nat) : List Nat := groupElems x.v r.toNat w (regCount n w) n

/-- Bits `lo` to `lo + len - 1` of `old` replaced. -/
def replaceBits (old lo len new : Nat) : Nat := old - (old / 2 ^ lo % 2 ^ len) * 2 ^ lo + (new % 2 ^ len) * 2 ^ lo

/-- Writes elements of width `w` from bit `lo` of register `r` on, register after register; other bits stay (R253). -/
def putElems (v : Tab (BitVec 16384)) (r lo w : Nat) : Nat → List Nat → Tab (BitVec 16384)
  | 0, _ => v
  | k + 1, l =>
    if l = [] then v
    else
      let e := 16384 / w
      let now := l.take e
      let old := (look 0 v r).toNat
      putElems (store 0 v r (BitVec.ofNat 16384 (replaceBits old lo (now.length * w) (pack w now)))) (r + 1) 0 w k (l.drop e)

/-- The value of a mask register: m0 reads as all ones (R234). -/
def Vec.mask (x : Vec) (m : Nat) : Nat := if m = 0 then 2 ^ 2048 - 1 else (look 0 x.m m).toNat

/-- Writes a mask register: writes to m0 are discarded (R234). -/
def Vec.setMask (x : Vec) (m : Nat) (v : Nat) : Vec := if m = 0 then x else { x with m := store 0 x.m m (BitVec.ofNat 2048 v) }

/-- Which of `n` elements are active: element i by bit i mod E, E positions of width `w` to a register; under m0 all are (R234). -/
def Vec.active (x : Vec) (vm : Nat) (w n : Nat) : List Bool :=
  if vm = 0 then List.replicate n true
  else
    let m := x.mask vm
    (List.range n).map fun i => m.testBit (i % (16384 / w))

/-! ## What an instruction writes at its completion -/

/-- One piece of what an engine instruction writes. -/
inductive VOut where
  /-- elements of width `w` from bit `lo` of vector register `reg` on; each stands for `unit` elements of the instruction -/
  | elems (reg lo w unit : Nat) (l : List Nat)
  /-- the 2,048 bits of a mask register -/
  | mask (m : Nat) (l : List Nat)
  /-- a scalar register, through L2 -/
  | scalar (toF : Bool) (r : Reg) (v : Nat)
  /-- bytes of local store; item i stands for the elements of `eb` bits that 8 bits from bit 8 × i meet: element i where eb is 8 -/
  | mem (eb : Nat) (l : List (Option (Nat × List Byte)))
  /-- an arcade line set valid: its bytes, ADDR and FROM_REG -/
  | line (n : Nat) (l : List Nat) (addr : Nat) (fromReg : Bool)
  /-- arcade lines made invalid -/
  | drop (l : List Nat)
  /-- bytes of a tile register, and of an accumulator tile -/
  | tile (n : Nat) (l : List Nat)
  | acc (n : Nat) (l : List Nat)
  deriving DecidableEq, Repr

/-- One of the elements `lo` to `lo` + `n` − 1 is fed by bad data: `fed` says so of each element. -/
def fedAny (fed : List Bool) (lo n : Nat) : Bool := ((fed.drop lo).take n).any id

/-- The items of a list that bad data feed replaced by free values of width `w` (DESIGN CHOICE, log entry 1); item i stands for elements
unit × i to unit × i + unit − 1. -/
def spoil (base : Nat) (fed : List Bool) (unit w : Nat) (l : List Nat) : List Nat :=
  l.zipIdx.map fun p => if fedAny fed (p.2 * unit) unit then (Config.freeWord (base + p.2)).toNat % 2 ^ w else p.1

/-- What a piece of the result holds where bad data feed its elements (R280, R323). -/
def VOut.spoil (base : Nat) (fed : List Bool) : VOut → VOut
  | .elems r lo w u l => .elems r lo w u (Machine.spoil base fed u w l)
  | .mask m l => .mask m (Machine.spoil base fed 1 1 l)
  | .scalar f r v => .scalar f r (if fedAny fed 0 1 then (Config.freeWord base).toNat else v)
  | .mem eb l => .mem eb (l.zipIdx.map fun p =>
      if fedAny fed (8 * p.2 / eb) ((8 * p.2 + 7) / eb + 1 - 8 * p.2 / eb) then
        p.1.map fun a => (a.1, leBytes a.2.length (Config.freeWord (base + p.2)).toNat)
      else p.1)
  | .line n l a f => .line n (Machine.spoil base fed 1 8 l) a f
  | .drop l => .drop l
  | .tile n l => .tile n (Machine.spoil base fed 1 8 l)
  | .acc n l => .acc n (Machine.spoil base fed 1 8 l)

/-- The pieces of a result where bad data feed the elements of `fed`; the free values of a piece begin 16,384 after those of the piece before. -/
def spoilAll (base : Nat) (fed : List Bool) (l : List VOut) : List VOut := l.zipIdx.map fun p => p.1.spoil (base + 16384 * p.2) fed

/-- A piece of the result is written. -/
def State.putOut (s : State) (b : BlockId) (o : VOut) : State :=
  match o with
  | .elems r lo w _ l => s.modBlk b fun x => { x with vec := { x.vec with v := putElems x.vec.v r lo w 64 l } }
  | .mask m l => s.modBlk b fun x => { x with vec := x.vec.setMask m (pack 1 l) }
  | .scalar f r v => s.modCore b fun c => c.set f r (BitVec.ofNat 64 v)
  | .mem _ l => l.foldl (fun s p => match p with | some a => s.lsStore b a.1 a.2 | none => s) s
  | .line n l a f => s.modBlk b fun x =>
      { x with vec := { x.vec with ac := store AcLine.reset x.vec.ac n ⟨BitVec.ofNat 16384 (pack 8 l), true, BitVec.ofNat 48 a, f⟩ } }
  | .drop l => s.modBlk b fun x =>
      { x with vec := { x.vec with ac := l.foldl (fun t n => store AcLine.reset t n { look AcLine.reset t n with valid := false }) x.vec.ac } }
  | .tile n l => s.modBlk b fun x => { x with mtx := { x.mtx with t := store 0 x.mtx.t n (BitVec.ofNat 16384 (pack 8 l)) } }
  | .acc n l => s.modBlk b fun x => { x with mtx := { x.mtx with z := store 0 x.mtx.z n (BitVec.ofNat 8192 (pack 8 l)) } }

/-- Every piece of a result is written, and its flags ORed in (R228). -/
def State.putOuts (s : State) (b : BlockId) (l : List VOut) (fl : BitVec 6) : State := (l.foldl (fun s o => s.putOut b o) s).orFlags b fl

/-! ## Registers read and written, by number: v 0 to 31, m 100 to 107, ac 200 to 215, t 300 to 307, z 400 to 407 -/

def span (base r n : Nat) : List Nat := (List.range n).map fun i => base + r + i

/-- A vector operand of `n` elements of width `w`. -/
def vspan (r : Reg) (n w : Nat) : List Nat := span 0 r.toNat (regCount n w)

/-- The element width in the register that a memory width field names, and in memory (R250). -/
def memBits (w : BitVec 3) : Nat × Nat :=
  match w.toNat with
  | 0 => (8, 8) | 1 => (16, 16) | 2 => (32, 32) | 3 => (64, 64) | 4 => (4, 4) | _ => (8, 6)

/-- The elements of an instruction with G registers to a group of width `w` (R254). -/
def elemCount (g w : Nat) : Nat := g * (16384 / w)

/-- The registers that the b operand of a form reads. -/
def formReads (form : VForm) (vb : Reg) (n w g : Nat) : List Nat :=
  match form with
  | .vv => vspan vb n w | .vs => [] | .va => span 200 (vb.toNat % 16) g

/-- What an instruction reads and writes of the engines' registers. -/
def uses (i : Instr) (g : Nat) : List Nat × List Nat :=
  match i with
  | .vectorArithmetic _ op form vm vb va vd =>
    let w := op.width
    let n := elemCount g w
    let d := if op.isWma then vspan vd n 32 else vspan vd n w
    (d ++ vspan va n w ++ formReads form vb n w g ++ [100 + vm.toNat], d)
  | .vectorCompare _ op form vm vb va vd =>
    let w := op.width
    let n := elemCount g w
    (vspan va n w ++ formReads form vb n w g ++ [100 + vm.toNat, 100 + vd.toNat % 8], [100 + vd.toNat % 8])
  | .vectorReduction _ op vm _ va _ => (vspan va (elemCount g op.width) op.width ++ [100 + vm.toNat], [])
  | .vectorPermutation _ fn ty vm vb va vd =>
    let w := ty.width
    let n := elemCount g w
    (vspan va n w ++ vspan vd n w ++ (if fn = .perm then vspan vb n w else []) ++ [100 + vm.toNat],
      if fn = .ext then [] else vspan vd n w)
  | .vcvt _ _ dst src vm va vd =>
    let n := elemCount g (max (typeBits dst) (typeBits src))
    (vspan va n (typeBits src) ++ vspan vd n (typeBits dst) ++ [100 + vm.toNat], vspan vd n (typeBits dst))
  | .vmxq _ _ fmt vs va vd =>
    let n := 512 * g
    (vspan va n 32 ++ vspan vd n (typeBits fmt) ++ [vs.toNat], vspan vd n (typeBits fmt) ++ [vs.toNat])
  | .maskOperation _ fn vb va vd =>
    ([100 + va.toNat % 8, 100 + vb.toNat % 8], match fn with | .mpopc => [] | .mfirst => [] | _ => [100 + vd.toNat % 8])
  | .vcsum _ _ va _ => (span 0 va.toNat g, [])
  | .vectorLoad _ fn w vm rx _ vd =>
    let n := elemCount g (memBits w).1
    match fn with
    | .mask => ([], [100 + vd.toNat % 8])
    | .indexed => (vspan rx n 32 ++ vspan vd n (memBits w).1 ++ [100 + vm.toNat], vspan vd n (memBits w).1)
    | _ => (vspan vd n (memBits w).1 ++ [100 + vm.toNat], vspan vd n (memBits w).1)
  | .vectorStore _ fn w vm rx _ vd =>
    let n := elemCount g (memBits w).1
    match fn with
    | .mask => ([100 + vd.toNat % 8], [])
    | .indexed => (vspan rx n 32 ++ vspan vd n (memBits w).1 ++ [100 + vm.toNat], [])
    | _ => (vspan vd n (memBits w).1 ++ [100 + vm.toNat], [])
  | .acfill _ line _ => ([], [200 + line.toNat])
  | .acput _ line vs => ([vs.toNat], [200 + line.toNat])
  | .acdrop _ line => ([], [200 + line.toNat])
  | .acdropall _ => ([], span 200 0 16)
  | .mma _ _ _ _ _ tb ta zd => ([300 + tb.toNat, 300 + ta.toNat, 400 + zd.toNat], [400 + zd.toNat])
  | .mmx _ _ _ _ _ ts tb ta zd => ([300 + ts.toNat, 300 + tb.toNat, 300 + ta.toNat, 400 + zd.toNat], [400 + zd.toNat])
  | .tld _ _ _ r => ([], [300 + r.toNat])
  | .tst _ _ _ r => ([300 + r.toNat], [])
  | .tld6 _ _ _ r => ([], [300 + r.toNat])
  | .tst6 _ _ _ r => ([300 + r.toNat], [])
  | .zld _ _ _ r => ([], [400 + r.toNat])
  | .zst _ _ _ r => ([400 + r.toNat], [])
  | .zclr _ r => ([], [400 + r.toNat])
  | .tfromv _ t v => ([v.toNat], [300 + t.toNat])
  | .tov _ t v => ([300 + t.toNat], [v.toNat])
  | .zfromv _ _ z v => ([v.toNat], [400 + z.toNat])
  | .ztov _ _ z v => ([400 + z.toNat, v.toNat], [v.toNat])
  | .zcvt _ _ _ _ z vd => ([400 + z.toNat, vd.toNat], [vd.toNat])
  | _ => ([], [])

def QEntry.reads (e : QEntry) : List Nat := (uses e.instr (groupSize e.grp)).1
def QEntry.writes (e : QEntry) : List Nat := (uses e.instr (groupSize e.grp)).2

def meets (a b : List Nat) : Bool := a.any fun x => decide (x ∈ b)

/-- An instruction of the vector engine that reads or writes local store. -/
def isVecMem : Instr → Bool
  | .vectorLoad _ _ _ _ _ _ _ => true | .vectorStore _ _ _ _ _ _ _ => true | .acfill _ _ _ => true | _ => false

/-- An instruction of the tile port that reads or writes local store. -/
def isTileMem : Instr → Bool
  | .tld _ _ _ _ => true | .tst _ _ _ _ => true | .tld6 _ _ _ _ => true | .tst6 _ _ _ _ => true
  | .zld _ _ _ _ => true | .zst _ _ _ _ => true | _ => false

/-- The unit on which a matrix-chapter instruction runs (R325). -/
def matrixUnit : Instr → Option MUnit
  | .mma _ _ _ _ _ _ _ _ => some .array
  | .mmx _ _ _ _ _ _ _ _ _ => some .array
  | .tld _ _ _ _ => some .tilePort | .tst _ _ _ _ => some .tilePort | .tld6 _ _ _ _ => some .tilePort | .tst6 _ _ _ _ => some .tilePort
  | .zld _ _ _ _ => some .tilePort | .zst _ _ _ _ => some .tilePort | .zclr _ _ => some .tilePort
  | .tfromv _ _ _ => some .vector | .tov _ _ _ => some .vector | .zfromv _ _ _ _ => some .vector | .ztov _ _ _ _ => some .vector
  | .zcvt _ _ _ _ _ _ => some .vector
  | _ => none

/-- Instructions in the engines, oldest first within each. -/
def Block.running (x : Block) : List QEntry := x.vec.run ++ x.mtx.array ++ x.mtx.port

/-- An instruction in an engine writes what `e` reads or writes, or, where `tiles`, reads a tile or accumulator that `e` writes (R281, R326). -/
def clashes (l : List QEntry) (e : QEntry) (tiles : Bool) : Bool :=
  l.any fun o => meets o.writes (e.reads ++ e.writes) || (tiles && meets (o.reads.filter fun n => decide (300 ≤ n)) e.writes)

/-- An entry of the dispatch queue is free for the instruction in RD (R108, R128): otherwise it waits, and BLK_STALL_QUEUE counts the wait (R100).
DESIGN CHOICE, log entry 10. -/
def State.whenRoom (s : State) (b : BlockId) (k : State → State) : State :=
  let x := s.blk b
  if x.queue.length < 16 then k s
  else if x.core.queueFrom.isSome then s
  else
    let now := s.ticks b
    s.modCore b fun c => { c with queueFrom := some now }

/-- Puts an instruction into the dispatch queue with what it read at issue (R109, R127). Its draws are taken when it starts on its engine, in program
order (R205). DESIGN CHOICE, log entry 67. -/
def State.enqueue (s : State) (b : BlockId) (i : Instr) (sa sb : W64) (rm : BitVec 3) (draws : Nat) : State :=
  let x := s.blk b
  let e : QEntry := ⟨i, x.core.pc, sa, sb, x.vec.grp, rm, draws, 0⟩
  (s.setBlk b { x with queue := x.queue ++ [e] }).advance b

/-- A fault of a vector or tile check (R286, R333): cause, value, and the element or row it names. -/
def State.raiseCheck (s : State) (b : BlockId) (cause : Nat) (value : W64) (elem : Option Nat) (isRow : Bool) : State :=
  s.modCore b fun c => { c with fault := some ⟨BitVec.ofNat 6 cause, value, c.pc, elem, isRow⟩ }

/-- The checks of `n` bytes at an address by R267 and R315: misaligned on `al`, outside local store, or without rights; the cause that
ranks first (R138). DEDUCED, log entry 24. -/
def Priv.memCheck (p : Priv) (a n al : Nat) : Option Nat :=
  if a % al ≠ 0 then some 4
  else if !inLs a n then some 6
  else if !p.lsBytes p.ctx a n then some 7
  else none

end Sys2Proof.Machine
end

