-- ==== Sys2Proof/Machine/Vector.lean ====
section
/-! DEFINITION. What the arithmetic of the vector engine computes (R246 to R248, R255 to R265, R275). -/

namespace Sys2Proof.Machine

/-! ## One element -/

/-- Vector floating-point arithmetic on one element (R246, R257): a, b and the old d; the bits delivered and the flags. -/
def fltElem (fn : VFltFn) (f : FFmt) (rm : Rm) (x y z : Nat) : Nat × BitVec 6 :=
  let a := f.decode x
  let b := f.decode y
  let d := f.decode z
  let mag := x % f.signBit
  match fn with
  | .add => fpDeliver f rm (a.add rm b)
  | .sub => fpDeliver f rm (a.add rm b.neg)
  | .mul => fpDeliver f rm (a.mul b)
  | .div => fpDeliver f rm (a.div b)
  | .sqrt => fpDeliver f rm a.sqrt
  | .min => f.maxMin false x y
  | .max => f.maxMin true x y
  | .fma => fpDeliver f rm (FV.fma rm a b d)
  | .fms => fpDeliver f rm (FV.fma rm a b d.neg)
  | .fnma => fpDeliver f rm (FV.fma rm a.neg b d.neg)
  | .fnms => fpDeliver f rm (FV.fma rm a.neg b d)
  | .abs => (mag, 0)
  | .neg => (mag + if x < f.signBit then f.signBit else 0, 0)
  | .sgnj => (mag + if y < f.signBit then 0 else f.signBit, 0)
  | .wma => fpDeliver .f32 rm (FV.fma rm a b (FFmt.f32.decode z))

/-- Vector integer arithmetic on one element of width `w` (R247). -/
def intElem (fn : VIntFn) (w i x y z : Nat) : Nat × BitVec 6 :=
  let a := sIntOf w x
  let b := sIntOf w y
  let sh := y % w
  let sat (v : Int) : Nat × BitVec 6 := let r := IFmt.narrow ⟨w, true⟩ v; (bitsOfInt w r.1, r.2)
  match fn with
  | .add => ((x + y) % 2 ^ w, 0)
  | .sub => (bitsOfInt w (a - b), 0)
  | .mul => (x * y % 2 ^ w, 0)
  | .mulh => (bitsOfInt w (a * b / 2 ^ w), 0)
  | .and => (x &&& y, 0)
  | .or => (x ||| y, 0)
  | .xor => (x ^^^ y, 0)
  | .sll => (x * 2 ^ sh % 2 ^ w, 0)
  | .srl => (x / 2 ^ sh, 0)
  | .sra => (bitsOfInt w (a / 2 ^ sh), 0)
  | .min => (if a < b then x else y, 0)
  | .max => (if a < b then y else x, 0)
  | .minu => (min x y, 0)
  | .maxu => (max x y, 0)
  | .sadd => sat (a + b)
  | .ssub => sat (a - b)
  | .macc => ((z + x * y) % 2 ^ w, 0)
  | .mv => (y, 0)
  | .vid => (i % 2 ^ w, 0)

/-- A compare of one element (R258). -/
def cmpElem (op : VCmp) (x y : Nat) : Bool × BitVec 6 :=
  match op with
  | .feq ty => fpCompare ty.fmt .feq x y
  | .flt ty => fpCompare ty.fmt .flt x y
  | .fle ty => fpCompare ty.fmt .fle x y
  | .seq _ => (decide (x = y), 0)
  | .slt ty => (decide (sIntOf ty.width x < sIntOf ty.width y), 0)
  | .sltu _ => (decide (x < y), 0)

/-- Active elements take the new value and raise their flags; the others keep the old one (R256). -/
def merge : List Bool → List (Nat × BitVec 6) → List Nat → List Nat × BitVec 6
  | a :: as, n :: ns, o :: os =>
    let r := merge as ns os
    ((if a then n.1 else o) :: r.1, (if a then n.2 else 0) ||| r.2)
  | _, _, _ => ([], 0)

/-! ## Reductions (R260) -/

/-- One combination of a reduction. -/
def redOp (op : VRed) (rm : Rm) (x y : Nat) : Nat × BitVec 6 :=
  match op with
  | .flt .sum ty => fpDeliver ty.fmt rm ((ty.fmt.decode x).add rm (ty.fmt.decode y))
  | .flt .max ty => ty.fmt.maxMin true x y
  | .flt .min ty => ty.fmt.maxMin false x y
  | .int .sum ty => ((x + y) % 2 ^ ty.width, 0)
  | .int .max ty => intElem .max ty.width 0 x y 0
  | .int .min ty => intElem .min ty.width 0 x y 0

/-- The identity of a reduction (R260). -/
def redIdentity : VRed → Nat
  | .flt .sum ty => ty.fmt.signBit
  | .flt .max ty => ty.fmt.signBit + ty.fmt.infBits
  | .flt .min ty => ty.fmt.infBits
  | .int .sum _ => 0
  | .int .max ty => 2 ^ (ty.width - 1)
  | .int .min ty => 2 ^ (ty.width - 1) - 1

/-- One level of the tree: neighbours combine. -/
def redLevel (op : VRed) (rm : Rm) : List Nat → List Nat × BitVec 6
  | x :: y :: l =>
    let r := redOp op rm x y
    let t := redLevel op rm l
    (r.1 :: t.1, r.2 ||| t.2)
  | l => (l, 0)

/-- The levels of the tree, at most `n`. -/
def redTree (op : VRed) (rm : Rm) : Nat → List Nat → Nat × BitVec 6
  | 0, l => (l.headD 0, 0)
  | n + 1, l =>
    match l with
    | [x] => (x, 0)
    | l =>
      let t := redLevel op rm l
      let r := redTree op rm n t.1
      (r.1, t.2 ||| r.2)

/-- A reduction: op(b, x[0]) of the tree over the active elements (R260). -/
def reduce (op : VRed) (rm : Rm) (b : Nat) (act : List Bool) (l : List Nat) : Nat × BitVec 6 :=
  let xs := (act.zip l).map fun p => if p.1 then p.2 else redIdentity op
  let t := redTree op rm 20 xs
  let r := redOp op rm b t.1
  (r.1, t.2 ||| r.2)

/-- A scalar result as it is written to its register (R143, R261). -/
def redResult (op : VRed) (x : Nat) : Bool × Nat :=
  match op with
  | .flt _ _ => (true, x)
  | .int _ ty => (false, bitsOfInt 64 (sIntOf ty.width x))

/-! ## Whole instructions -/

/-- The b operand of a form (R244, R255, R274): a group, a scalar for every element, or arcade lines. -/
def Vec.formElems (x : Vec) (form : VForm) (vb : Reg) (scalar : W64) (w n : Nat) : List Nat :=
  match form with
  | .vv => x.elems vb w n
  | .vs => List.replicate n (scalar.toNat % 2 ^ w)
  | .va => groupElems ((List.range 16).foldl (fun t i => store 0 t i (look AcLine.reset x.ac i).data) []) (vb.toNat % 16) w (regCount n w) n

/-- A list of the positions of a group. -/
def positions (n : Nat) : List Nat := List.range n

/-- The flags of elements that bad data feed are left out: what they raise is not known (R280). -/
def quiet (fed : List Bool) (l : List (Nat × BitVec 6)) : List (Nat × BitVec 6) :=
  if fed = [] then l else l.zipIdx.map fun p => if fedAny fed p.2 1 then (p.1.1, 0) else p.1

/-- VECTOR_ARITHMETIC (R246, R247, R254). -/
def arithOut (x : Vec) (e : QEntry) (fed : List Bool) (op : VArith) (form : VForm) (vm : BitVec 3) (vb va vd : Reg) : List VOut × BitVec 6 :=
  let w := op.width
  let n := elemCount (groupSize e.grp) w
  let dw := if op.isWma then 32 else w
  let a := x.elems va w n
  let b := x.formElems form vb e.sb w n
  let d := x.elems vd dw n
  let act := x.active vm.toNat w n
  let new := match op with
    | .flt fn ty => (a.zip (b.zip d)).map fun p => fltElem fn ty.fmt (Rm.of e.rm) p.1 p.2.1 p.2.2
    | .int fn ty => ((positions n).zip (a.zip (b.zip d))).map fun p => intElem fn ty.width p.1 p.2.1 p.2.2.1 p.2.2.2
  let r := merge act (quiet fed new) d
  ([.elems vd.toNat 0 dw 1 r.1], r.2)

/-- VECTOR_COMPARE (R258): bits of masked-off elements stay, bits E to 2,047 become 0. -/
def compareOut (x : Vec) (e : QEntry) (fed : List Bool) (op : VCmp) (form : VForm) (vm : BitVec 3) (vb va vd : Reg) : List VOut × BitVec 6 :=
  let w := op.width
  let n := elemCount 1 w
  let old := chop 1 n (x.mask (vd.toNat % 8))
  let new := ((x.elems va w n).zip (x.formElems form vb e.sb w n)).map fun p =>
    let r := cmpElem op p.1 p.2
    (boolBit r.1, r.2)
  let r := merge (x.active vm.toNat w n) (quiet fed new) old
  ([.mask (vd.toNat % 8) (r.1 ++ List.replicate (2048 - n) 0)], r.2)

/-- VECTOR_REDUCTION (R260, R261). -/
def reductionOut (x : Vec) (e : QEntry) (fed : List Bool) (op : VRed) (vm : BitVec 3) (va vd : Reg) : List VOut × BitVec 6 :=
  let w := op.width
  let n := elemCount (groupSize e.grp) w
  let r := reduce op (Rm.of e.rm) (e.sb.toNat % 2 ^ w) (x.active vm.toNat w n) (x.elems va w n)
  let d := redResult op r.1
  ([.scalar d.1 vd d.2], if fed = [] then r.2 else 0)

/-- VECTOR_PERMUTATION (R262). -/
def permOut (x : Vec) (e : QEntry) (fn : PermFn) (ty : ITy) (vm : BitVec 3) (vb va vd : Reg) : List VOut × BitVec 6 :=
  let w := ty.width
  let n := elemCount (groupSize e.grp) w
  let a := x.elems va w n
  let s := e.sb.toNat
  let old := x.elems vd w n
  let act := x.active vm.toNat w n
  let out (l : List Nat) : List VOut × BitVec 6 := ([.elems vd.toNat 0 w 1 (merge act (l.map fun v => (v, 0)) old).1], 0)
  match fn with
  | .slideup => out (if n ≤ s then old else old.take s ++ a.take (n - s))
  | .slidedown => out (a.drop (min s n) ++ List.replicate (min s n) 0)
  | .perm => out ((x.elems vb w n).map fun i => if i < n then (a[i]?).getD 0 else 0)
  | .ext => ([.scalar false vd (bitsOfInt 64 (sIntOf w (if s < n then (a[s]?).getD 0 else 0)))], 0)

/-- The draws an instruction uses: those of its seed in rsr, none otherwise (R205). -/
def drawsFor (rm : BitVec 3) (seed : BitVec 32) (n : Nat) : List Nat := if rm = 5 then srDraws n seed else List.replicate n 0

/-- VCVT (R263, R264). -/
def vcvtOut (x : Vec) (e : QEntry) (fed : List Bool) (dst src : BitVec 4) (vm : BitVec 3) (va vd : Reg) : List VOut × BitVec 6 :=
  match vType src.toNat, vType dst.toNat with
  | some st, some dt =>
    let wn := max st.regBits dt.regBits
    let n := elemCount (groupSize e.grp) wn
    let a := x.elems va st.regBits n
    let new := (a.zip (drawsFor e.rm e.seed n)).map fun p => convertElem st dt (Rm.of e.rm) p.2 (p.1 % 2 ^ st.bits)
    let r := merge (x.active vm.toNat wn n) (quiet fed new) (x.elems vd dt.regBits n)
    ([.elems vd.toNat 0 dt.regBits 1 r.1], r.2)
  | _, _ => ([], 0)

/-- The MX element format that a fmt code names (R249, R265). -/
def mxElem (fmt : BitVec 4) : MxElem :=
  match vType fmt.toNat with
  | some (.flt f) => .flt f
  | _ => .int8

/-- MX blocks of 32 values, `n` of them, each with its draws (R225, R265); a block that bad data feed raises no known flag. -/
def mxBlocks (k : MxElem) (rm : Rm) : Nat → List Nat → List Nat → List Bool → List Nat × List Nat × BitVec 6
  | 0, _, _, _ => ([], [], 0)
  | n + 1, l, d, fed =>
    let r := mxQuantise k rm (d.take 32) ((l.take 32).map FFmt.f32.decode)
    let t := mxBlocks k rm n (l.drop 32) (d.drop 32) (fed.drop 32)
    (r.1 :: t.1, r.2.1 ++ t.2.1, (if fedAny fed 0 32 then 0 else r.2.2) ||| t.2.2)

/-- VMXQ (R265). -/
def vmxqOut (x : Vec) (e : QEntry) (fed : List Bool) (fmt : BitVec 4) (vs va vd : Reg) : List VOut × BitVec 6 :=
  let g := groupSize e.grp
  let n := 512 * g
  let r := mxBlocks (mxElem fmt) (Rm.of e.rm) (16 * g) (x.elems va 32 n) (drawsFor e.rm e.seed n) fed
  ([.elems vd.toNat 0 (typeBits fmt) 1 r.2.1, .elems vs.toNat 0 8 32 r.1], r.2.2)

/-- MASK_OPERATION (R248, R259). -/
def maskOut (x : Vec) (fn : MaskFn) (vb va vd : Reg) : List VOut × BitVec 6 :=
  let a := x.mask (va.toNat % 8)
  let b := x.mask (vb.toNat % 8)
  let all := 2 ^ 2048 - 1
  let out (v : Nat) : List VOut × BitVec 6 := ([.mask (vd.toNat % 8) (chop 1 2048 v)], 0)
  match fn with
  | .mand => out (a &&& b)
  | .mor => out (a ||| b)
  | .mxor => out (a ^^^ b)
  | .mandn => out (a &&& (all - b))
  | .mnot => out (all - a)
  | .mpopc => ([.scalar false vd (chop 1 2048 a).sum], 0)
  | .mfirst => ([.scalar false vd (match (chop 1 2048 a).findIdx? (fun v => v == 1) with | some i => i | none => 2 ^ 64 - 1)], 0)

/-- VCSUM (R275). -/
def vcsumOut (x : Vec) (e : QEntry) (va vd : Reg) : List VOut × BitVec 6 :=
  let n := 2048 * groupSize e.grp
  let bytes := (x.elems va 8 n).map fun v => BitVec.ofNat 8 v
  ([.scalar false vd (crc32cFrom (e.sb.setWidth 32) bytes).toNat], 0)

end Sys2Proof.Machine
end

