-- ==== Sys2Proof/Machine/VectorMem.lean ====
section
/-! DEFINITION. Vector loads and stores and the arcade: addresses, what they read and write, and their address checks (R250, R251, R266 to R273,
R276). -/

namespace Sys2Proof.Machine

/-- The byte addresses of the elements (R266): `a` is ra, `s` the stride; sub-byte elements lie in the byte that holds their first bit.
DEDUCED, log entry 25. -/
def Vec.elemAddr (x : Vec) (fn : VmFn) (mw : Nat) (rx : Reg) (a s : W64) (n : Nat) : List Nat :=
  match fn with
  | .strided => (List.range n).map fun i => (a + BitVec.ofNat 64 i * s).toNat
  | .indexed => (x.elems rx 32 n).map fun o => a.toNat + o
  | _ => (List.range n).map fun i => (a + BitVec.ofNat 64 (i * mw / 8)).toNat

/-- Bytes that element i of width `mw` touches. -/
def elemBytes (mw i : Nat) : Nat := (i * mw + mw - 1) / 8 + 1 - i * mw / 8

/-- VECTOR_LOAD (R250, R266, R271). -/
def loadOut (x : Block) (e : QEntry) (fn : VmFn) (w vm : BitVec 3) (rx vd : Reg) : List VOut × BitVec 6 :=
  let v := x.vec
  match fn with
  | .mask => ([.mask (vd.toNat % 8) (chop 1 2048 (mloadN x.ls e.sa.toNat 256))], 0)
  | _ =>
    let mw := (memBits w).2
    let rw := (memBits w).1
    let n := elemCount (groupSize e.grp) rw
    let read := if fn = .unit then chop mw n (mloadN x.ls e.sa.toNat (n * mw / 8))
      else (v.elemAddr fn mw rx e.sa e.sb n).map fun a => mloadN x.ls a (mw / 8)
    ([.elems vd.toNat 0 rw 1 (merge (v.active vm.toNat rw n) (read.map fun d => (d, 0)) (v.elems vd rw n)).1], 0)

/-- VECTOR_STORE (R250, R266, R269, R271). -/
def storeOut (x : Block) (e : QEntry) (fn : VmFn) (w vm : BitVec 3) (rx vd : Reg) : List VOut × BitVec 6 :=
  let v := x.vec
  let a := e.sa.toNat
  let bytes (n m : Nat) : List (Option (Nat × List Byte)) := (leBytes n m).zipIdx.map fun p => some (a + p.2, [p.1])
  match fn with
  | .mask => ([.mem 1 (bytes 256 (v.mask (vd.toNat % 8)))], 0)
  | _ =>
    let mw := (memBits w).2
    let rw := (memBits w).1
    let n := elemCount (groupSize e.grp) rw
    let d := v.elems vd rw n
    if mw < 8 then ([.mem mw (bytes (n * mw / 8) (pack mw d))], 0)
    else
      let l := (v.active vm.toNat rw n).zip ((v.elemAddr fn mw rx e.sa e.sb n).zip d)
      ([.mem 8 (l.map fun p => if p.1 then some (p.2.1, leBytes (mw / 8) p.2.2) else none)], 0)

/-- The arcade instructions (R251, R272, R273). -/
def acfillOut (x : Block) (e : QEntry) (line : BitVec 4) : List VOut × BitVec 6 :=
  ([.line line.toNat (chop 8 2048 (mloadN x.ls e.sa.toNat 2048)) e.sa.toNat false], 0)

def acputOut (x : Block) (line : BitVec 4) (vs : Reg) : List VOut × BitVec 6 :=
  ([.line line.toNat (x.vec.elems vs 8 2048) 0 true], 0)

/-! ## Address checks -/

/-- The checks of a list of accesses (element, address, bytes, alignment): the first that fails decides (R286, R333). -/
def Priv.firstFault (p : Priv) : List (Nat × Nat × Nat × Nat) → Option (Nat × Nat × Nat)
  | [] => none
  | (i, a, n, al) :: t =>
    match p.memCheck a n al with
    | some c => some (c, a, i)
    | none => p.firstFault t

/-- The accesses of a vector load or store, active elements alone (R256, R267, R271): a mask transfer is one access. DEDUCED, log entry 24. -/
def Vec.accesses (x : Vec) (g : Nat) (fn : VmFn) (w vm : BitVec 3) (rx : Reg) (a s : W64) : List (Nat × Nat × Nat × Nat) :=
  match fn with
  | .mask => [(0, a.toNat, 256, 8)]
  | _ =>
    let mw := (memBits w).2
    let rw := (memBits w).1
    let n := elemCount g rw
    ((x.active vm.toNat rw n).zip (x.elemAddr fn mw rx a s n)).zipIdx.filterMap fun p =>
      if p.1.1 then some (p.2, p.1.2, elemBytes mw p.2, max 1 (mw / 8)) else none

end Sys2Proof.Machine
end

