-- ==== Sys2Proof/Machine/Matrix.lean ====
section
/-! DEFINITION. What the matrix instructions compute: tile geometry, the products in ALIGN, STEP and integer form, and the tile transfers and
conversions (R289 to R324). -/

namespace Sys2Proof.Machine

/-! ## Types and geometry (R289, R301) -/

/-- The width of a type in a tile: FP6 is packed (R190, R289). -/
def tileBits (ty : Nat) : Nat := ((vType ty).map Elem.bits).getD 8

/-- K of an input type (R289): 2,048 bytes hold 16 rows, and FP6 has the K of the 8-bit types. -/
def tileK (ty : Nat) : Nat := if tileBits ty = 6 then 128 else 1024 / tileBits ty

/-- The 16 rows of ta, or columns of tb, each of K elements (R290). -/
def tileRows (w k : Nat) (t : BitVec 16384) : List (List Nat) :=
  (List.range 16).map fun r => chop w k (t.toNat / 2 ^ (w * k * r))

/-! ## Terms and products (R306, R307, R311) -/

/-- The value of an element; MXINT8 is INT8 × 2^−6 (R223, R306). -/
def tileValue (mx : Bool) (ty x : Nat) : FV :=
  match vType ty with
  | some (.flt f) => f.decode x
  | some (.int i) => FV.ofInt (i.decode x) (if mx then -6 else 0) false
  | _ => .nan false

/-- An exact product with NV for a signalling operand or 0 × ∞, scaled by block scales where they are given (R306, R307). -/
def product (a b : FV) (sc : Option (Nat × Nat)) : FV × BitVec 6 :=
  match sc with
  | none => a.mul b
  | some (sa, sb) =>
    if sa = 255 ∨ sb = 255 then (.nan false, 0)
    else
      let p := a.mul b
      match p.1 with
      | .fin n m e => (.fin n m (e + (sa : Int) + (sb : Int) - 254), p.2)
      | v => (v, p.2)

def FV.isInf (neg : Bool) : FV → Bool
  | .inf n => n == neg | _ => false

/-- One ALIGN group (R310 to R312): the accumulator's bits, if it is present, and 16 products. The accumulator is a term and no element operand
(DEDUCED, log entry 55). -/
def alignGroup (acc : Option Nat) (prods : List (FV × BitVec 6)) : Nat × BitVec 6 :=
  let f := FFmt.f32
  let av := acc.map f.decode
  let terms := av.toList ++ prods.map Prod.fst
  let both := terms.any (FV.isInf true) && terms.any (FV.isInf false)
  if terms.any FV.isNan || both then
    (f.nan, flagIf (both || prods.any fun p => (p.2 &&& fNV) ≠ 0) fNV)
  else if terms.any (FV.isInf true) then (f.signBit + f.infBits, 0)
  else if terms.any (FV.isInf false) then (f.infBits, 0)
  else
    let fins := terms.filterMap fun t => match t with | .fin n m e => if m = 0 then none else some (n, m, e) | _ => none
    match fins with
    | [] => (if terms.all FV.sign then f.signBit else 0, 0)
    | (_, m0, e0) :: _ =>
      let emax := fins.foldl (fun x t => max x (leadExp t.2.1 t.2.2)) (leadExp m0 e0)
      let q := emax - 26
      let parts := fins.map fun t =>
        let r := roundAt .rtz 0 t.1 t.2.1 t.2.2 q
        ((if t.1 then -(r.1 : Int) else (r.1 : Int)), r.2)
      let s : Int := parts.foldl (fun x p => x + p.1) 0
      let lost := parts.any Prod.snd
      if s = 0 then (0, flagIf lost fNX)
      else
        let neg := decide (s < 0)
        let r := f.round .rne 0 neg s.natAbs q
        let nx := lost || decide ((r.2 &&& fNX) ≠ 0)
        (r.1, (r.2 &&& fOF) ||| flagIf nx fNX ||| flagIf (nx && f.tiny .rne 0 neg s.natAbs q) fUF)

/-- ALIGN over all groups, in ascending k (R310). -/
def alignAll : Nat → Option Nat → List (FV × BitVec 6) → Nat × BitVec 6
  | 0, acc, _ => (acc.getD 0, 0)
  | n + 1, acc, l =>
    let r := alignGroup acc (l.take 16)
    let t := alignAll n (some r.1) (l.drop 16)
    (t.1, r.2 ||| t.2)

/-- STEP (R313): each product is rounded, then the running value takes it by one addition. -/
def stepAll (acc : Option Nat) (l : List (FV × BitVec 6)) : Nat × BitVec 6 :=
  let f := FFmt.f32
  let r := l.foldl (fun (st : Option Nat × BitVec 6) p =>
    let x := fpDeliver f .rne p
    match st.1 with
    | none => (some x.1, st.2 ||| x.2)
    | some a =>
      let y := fpDeliver f .rne ((f.decode a).add .rne (f.decode x.1))
      (some y.1, st.2 ||| x.2 ||| y.2)) (acc, 0)
  (r.1.getD 0, r.2)

/-- One element of a floating-point product (R305): the row, the column, and their scales, one for each 32 elements. -/
def fltElement (mode : Bool) (acc : Option Nat) (row col : List FV) (sc : Option (List Nat × List Nat)) : Nat × BitVec 6 :=
  let prods := (row.zip col).zipIdx.map fun p =>
    product p.1.1 p.1.2 (sc.map fun s => ((s.1[p.2 / 32]?).getD 255, (s.2[p.2 / 32]?).getD 255))
  if mode then stepAll acc prods else alignAll (prods.length / 16) acc prods

/-- One element of an integer product (R308). -/
def intElement (acc : Nat) (row col : List Int) : Nat :=
  bitsOfInt 32 ((row.zip col).foldl (fun x p => x + p.1 * p.2) (acc : Int))

/-- Both block scales of a tile ts, by row and by column (R306). -/
def scaleRows (n : Nat) (t : BitVec 16384) : List (List Nat) × List (List Nat) :=
  ((List.range 16).map fun r => chop 8 n (t.toNat / 2 ^ (8 * n * r)), (List.range 16).map fun c => chop 8 n (t.toNat / 2 ^ (8 * (1024 + n * c))))

/-- The 1,024 bytes of 256 accumulator elements. -/
def accBytes (l : List Nat) : List Nat := chop 8 1024 (pack 32 l)

/-- The current element (r, c) of an accumulator (R291). -/
def Mtx.accElem (x : Mtx) (zd : BitVec 3) (r c : Nat) : Nat := (look 0 x.z zd.toNat).toNat / 2 ^ (32 * (16 * r + c)) % 2 ^ 32

/-- The pairs (r, c) with the row and the column of each, in ascending element index. -/
def cross {α : Type} (rows cols : List α) : List ((Nat × Nat) × (α × α)) :=
  rows.zipIdx.flatMap fun r => cols.zipIdx.map fun c => ((r.2, c.2), (r.1, c.1))

/-- MMA and MMX (R305 to R313). -/
def productOut (x : Mtx) (mx z mode : Bool) (typb typa : BitVec 4) (ts tb ta zd : BitVec 3) : List VOut × BitVec 6 :=
  let k := tileK typa.toNat
  let rows := tileRows (tileBits typa.toNat) k (look 0 x.t ta.toNat)
  let cols := tileRows (tileBits typb.toNat) k (look 0 x.t tb.toNat)
  match mx, vType typa.toNat with
  | false, some (.int i) =>
    let l := (cross (rows.map fun r => r.map i.decode) (cols.map fun c => c.map i.decode)).map fun p =>
      intElement (if z then 0 else x.accElem zd p.1.1 p.1.2) p.2.1 p.2.2
    ([.acc zd.toNat (accBytes l)], 0)
  | _, _ =>
    let sc := scaleRows (k / 32) (look 0 x.t ts.toNat)
    let l := (cross (rows.map fun r => r.map (tileValue mx typa.toNat)) (cols.map fun c => c.map (tileValue mx typb.toNat))).map fun p =>
      fltElement mode (if z then none else some (x.accElem zd p.1.1 p.1.2)) p.2.1 p.2.2
        (if mx then some ((sc.1[p.1.1]?).getD [], (sc.2[p.1.2]?).getD []) else none)
    ([.acc zd.toNat (accBytes (l.map Prod.fst))], l.foldl (fun f p => f ||| p.2) 0)

/-! ## Tile transfers (R302, R314 to R317) -/

/-- Row length of a tile instruction (R302). -/
def rowLen : Instr → Nat
  | .tld6 _ _ _ _ => 96 | .tst6 _ _ _ _ => 96 | .zld _ _ _ _ => 64 | .zst _ _ _ _ => 64 | _ => 128

/-- The address of row r (R314). DEDUCED, log entry 25. -/
def rowAddr (a s : W64) (r : Nat) : Nat := (a + BitVec.ofNat 64 r * s).toNat

/-- The bytes of 16 rows of local store. -/
def rowsRead (x : Block) (a s : W64) (len : Nat) : List Nat :=
  (List.range 16).flatMap fun r => (mload x.ls (rowAddr a s r) len).map BitVec.toNat

/-- The bytes of 16 rows, each to its address. -/
def rowsWrite (a s : W64) (len : Nat) (v : Nat) : VOut :=
  .mem 8 ((List.range 16).map fun r => some (rowAddr a s r, leBytes len (v / 2 ^ (8 * len * r))))

/-- The row accesses of a tile memory instruction (R315). -/
def rowAccesses (a s : W64) (len : Nat) : List (Nat × Nat × Nat × Nat) := (List.range 16).map fun r => (r, rowAddr a s r, len, 32)

/-- ZCVT (R320, R321). -/
def zcvtOut (x : Mtx) (e : QEntry) (isrc : Bool) (dst : BitVec 4) (zn : BitVec 3) (vd : Reg) : List VOut × BitVec 6 :=
  match vType dst.toNat with
  | some dt =>
    let src : Elem := if isrc then .int ⟨32, true⟩ else .flt .f32
    let l := ((chop 32 256 (look 0 x.z zn.toNat).toNat).zip (drawsFor e.rm e.seed 256)).map fun p =>
      convertElem src dt (Rm.of e.rm) p.2 p.1
    ([.elems vd.toNat 0 dt.regBits 1 (l.map Prod.fst)], l.foldl (fun f p => f ||| p.2) 0)
  | none => ([], 0)

/-- The bytes of a vector register, of a tile and of an accumulator. -/
def Vec.regBytes (x : Vec) (v : Reg) : List Nat := chop 8 2048 (look 0 x.v v.toNat).toNat
def Mtx.tileBytes (x : Mtx) (t : BitVec 3) : List Nat := chop 8 2048 (look 0 x.t t.toNat).toNat
def Mtx.accumBytes (x : Mtx) (z : BitVec 3) : List Nat := chop 8 1024 (look 0 x.z z.toNat).toNat

/-- What an engine instruction writes, and its flags, those of elements of `fed` left out. -/
def engineOut (x : Block) (e : QEntry) (fed : List Bool) : List VOut × BitVec 6 :=
  let v := x.vec
  let m := x.mtx
  match e.instr with
  | .vectorArithmetic _ op form vm vb va vd => arithOut v e fed op form vm vb va vd
  | .vectorCompare _ op form vm vb va vd => compareOut v e fed op form vm vb va vd
  | .vectorReduction _ op vm _ va vd => reductionOut v e fed op vm va vd
  | .vectorPermutation _ fn ty vm vb va vd => permOut v e fn ty vm vb va vd
  | .vcvt _ _ dst src vm va vd => vcvtOut v e fed dst src vm va vd
  | .vmxq _ _ fmt vs va vd => vmxqOut v e fed fmt vs va vd
  | .maskOperation _ fn vb va vd => maskOut v fn vb va vd
  | .vcsum _ _ va vd => vcsumOut v e va vd
  | .vectorLoad _ fn w vm rx _ vd => loadOut x e fn w vm rx vd
  | .vectorStore _ fn w vm rx _ vd => storeOut x e fn w vm rx vd
  | .acfill _ line _ => acfillOut x e line
  | .acput _ line vs => acputOut x line vs
  | .acdrop _ line => ([.drop [line.toNat]], 0)
  | .acdropall _ => ([.drop (List.range 16)], 0)
  | .mma _ z mode typb typa tb ta zd => productOut m false z mode typb typa 0 tb ta zd
  | .mmx _ z mode typb typa ts tb ta zd => productOut m true z mode typb typa ts tb ta zd
  | .tld _ _ _ r => ([.tile r.toNat (rowsRead x e.sa e.sb 128)], 0)
  | .tld6 _ _ _ r => ([.tile r.toNat (rowsRead x e.sa e.sb 96 ++ List.replicate 512 0)], 0)
  | .zld _ _ _ r => ([.acc r.toNat (rowsRead x e.sa e.sb 64)], 0)
  | .tst _ _ _ r => ([rowsWrite e.sa e.sb 128 (look 0 m.t r.toNat).toNat], 0)
  | .tst6 _ _ _ r => ([rowsWrite e.sa e.sb 96 (look 0 m.t r.toNat).toNat], 0)
  | .zst _ _ _ r => ([rowsWrite e.sa e.sb 64 (look 0 m.z r.toNat).toNat], 0)
  | .zclr _ r => ([.acc r.toNat (List.replicate 1024 0)], 0)
  | .tfromv _ t r => ([.tile t.toNat (v.regBytes r)], 0)
  | .tov _ t r => ([.elems r.toNat 0 8 1 (m.tileBytes t)], 0)
  | .zfromv _ h z r => ([.acc z.toNat (((v.regBytes r).drop (1024 * boolBit h)).take 1024)], 0)
  | .ztov _ h z r => ([.elems r.toNat (8192 * boolBit h) 8 1 (m.accumBytes z)], 0)
  | .zcvt _ isrc _ dst zn vd => zcvtOut m e isrc dst zn vd
  | _ => ([], 0)

end Sys2Proof.Machine
end

