-- ==== Sys2Proof/Machine/DataLoss.lean ====
section
/-! DEFINITION. Data loss in the engines (R241, R280, R323, R324): which bits each destination element reads, and which elements bad words feed. -/

namespace Sys2Proof.Machine

/-- Bits that an element reads: where (the numbers of `uses`, and 500 for local store), the first bit, and how many. -/
structure Bits where
  at_ : Nat
  lo  : Nat
  len : Nat
  deriving DecidableEq, Repr

/-- What feeds one destination element: whether it is active, the source bits that its computation reads, and the governing mask bits. -/
structure Feed where
  active : Bool
  srcs   : List Bits
  gov    : List Bits
  deriving DecidableEq, Repr

/-- The number of the place that a loss names (R241), and the bits of one of its words. -/
def lossPlace (l : VLoss) : Nat :=
  match l.source.toNat with
  | 1 => 500 | 2 => l.reg.toNat | 3 => 200 + l.reg.toNat | 4 => 100 + l.reg.toNat | _ => 1000

def lossWordBits (l : VLoss) : Nat := if l.source = 1 then 64 else 32

/-- Bits meet a bad word. -/
def lossHits (l : VLoss) (r : Bits) : Bool :=
  decide (r.at_ = lossPlace l) && l.words.any fun w => decide (w * lossWordBits l < r.lo + r.len) && decide (r.lo < (w + 1) * lossWordBits l)

/-- Which elements the bad words feed (R280): active ones by their sources, and all that a bad word of the governing mask governs. DEDUCED, log entry 26. -/
def lossFed (l : VLoss) (f : List Feed) : List Bool := f.map fun e => (e.active && e.srcs.any (lossHits l)) || e.gov.any (lossHits l)

/-- The instruction meets the loss (R280): a beat reads whole registers, so a bad word of a register that it reads counts even where no active element uses
it; a word of local store counts where an active element reads it. -/
def lossFits (l : VLoss) (f : List Feed) : Bool :=
  if l.source = 1 then (lossFed l f).any id
  else
    let most := if l.source = 4 then 64 else 512
    !(l.words.isEmpty) && l.words.all (fun w => decide (w < most)) && !(l.source = 4 && l.reg = 0) &&
      f.any fun e => (e.srcs ++ e.gov).any fun r => decide (r.at_ = lossPlace l)

/-! ## What each element reads -/

/-- Element `k` of width `w` of the group at register or line number `r`. -/
def elemBits (r w k : Nat) : Bits := ⟨r + k * w / 16384, k * w % 16384, w⟩

/-- The governing mask bit of element `k` (R234): m0 is no register. -/
def govBits (vm : BitVec 3) (w k : Nat) : List Bits := if vm = 0 then [] else [⟨100 + vm.toNat, k % (16384 / w), 1⟩]

/-- All bits of `n` registers from number `r` on. -/
def wholeRegs (r n : Nat) : List Bits := (List.range n).map fun i => ⟨r + i, 0, 16384⟩

/-- The feeds of `n` elements of width `w` under a mask. -/
def feedsOf (x : Vec) (vm : BitVec 3) (w n : Nat) (srcs : Nat → List Bits) : List Feed :=
  (x.active vm.toNat w n).zipIdx.map fun p => ⟨p.1, srcs p.2, govBits vm w p.2⟩

/-- The feed of a scalar result. -/
def scalarFeed (srcs gov : List Bits) : List Feed := [⟨true, srcs, gov⟩]

/-- Whether an operation reads its a operand, its b operand and its old destination (R246, R247). -/
def arithReads : VArith → Bool × Bool × Bool
  | .flt fn _ =>
    match fn with
    | .sqrt => (true, false, false) | .abs => (true, false, false) | .neg => (true, false, false)
    | .fma => (true, true, true) | .fms => (true, true, true) | .fnma => (true, true, true) | .fnms => (true, true, true) | .wma => (true, true, true)
    | _ => (true, true, false)
  | .int fn _ =>
    match fn with
    | .mv => (false, true, false) | .vid => (false, false, false) | .macc => (true, true, true)
    | _ => (true, true, false)

/-- Element `k` of the b operand of a form. -/
def formBits (form : VForm) (vb : Reg) (w k : Nat) : List Bits :=
  match form with
  | .vv => [elemBits vb.toNat w k] | .vs => [] | .va => [elemBits (200 + vb.toNat % 16) w k]

/-- Bits of local store that an element at byte `a` of width `w` reads, from bit `o` of that byte on. -/
def memFeed (a o w : Nat) : List Bits := [⟨500, 8 * a + o, w⟩]

def vecLoadFeeds (x : Vec) (e : QEntry) (fn : VmFn) (w vm : BitVec 3) (rx : Reg) : List Feed :=
  match fn with
  | .mask => (List.range 2048).map fun k => ⟨true, memFeed e.sa.toNat k 1, []⟩
  | _ =>
    let mw := (memBits w).2
    let n := elemCount (groupSize e.grp) (memBits w).1
    let at_ := x.elemAddr fn mw rx e.sa e.sb n
    feedsOf x vm (memBits w).1 n fun k =>
      (if fn = .unit then memFeed e.sa.toNat (k * mw) mw else memFeed ((at_[k]?).getD 0) 0 mw) ++
        (if fn = .indexed then [elemBits rx.toNat 32 k] else [])

def vecStoreFeeds (x : Vec) (e : QEntry) (fn : VmFn) (w vm : BitVec 3) (rx vd : Reg) : List Feed :=
  match fn with
  | .mask => (List.range 2048).map fun k => ⟨true, [⟨100 + vd.toNat % 8, k, 1⟩], []⟩
  | _ =>
    let rw := (memBits w).1
    feedsOf x vm rw (elemCount (groupSize e.grp) rw) fun k => elemBits vd.toNat rw k :: (if fn = .indexed then [elemBits rx.toNat 32 k] else [])

/-- What feeds each destination element of an instruction of the vector engine, in the order of its elements (R280, R324). -/
def elemFeeds (x : Block) (e : QEntry) : List Feed :=
  let v := x.vec
  let g := groupSize e.grp
  match e.instr with
  | .vectorArithmetic _ op form vm vb va vd =>
    let w := op.width
    let r := arithReads op
    feedsOf v vm w (elemCount g w) fun k =>
      (if r.1 then [elemBits va.toNat w k] else []) ++ (if r.2.1 then formBits form vb w k else []) ++
        (if r.2.2 then [elemBits vd.toNat (if op.isWma then 32 else w) k] else [])
  | .vectorCompare _ op form vm vb va _ =>
    let w := op.width
    feedsOf v vm w (elemCount 1 w) fun k => elemBits va.toNat w k :: formBits form vb w k
  | .vectorReduction _ op vm _ va _ =>
    scalarFeed (wholeRegs va.toNat g) (if vm = 0 then [] else [⟨100 + vm.toNat, 0, 16384 / op.width⟩])
  | .vectorPermutation _ fn ty vm vb va _ =>
    let w := ty.width
    let n := elemCount g w
    let s := e.sb.toNat
    match fn with
    | .slideup => feedsOf v vm w n fun k => if s ≤ k then [elemBits va.toNat w (k - s)] else []
    | .slidedown => feedsOf v vm w n fun k => if k + s < n then [elemBits va.toNat w (k + s)] else []
    | .perm =>
      let idx := v.elems vb w n
      feedsOf v vm w n fun k =>
        let i := (idx[k]?).getD 0
        elemBits vb.toNat w k :: (if i < n then [elemBits va.toNat w i] else [])
    | .ext => scalarFeed (if s < n then [⟨va.toNat + s * w / 16384, 0, 16384⟩] else []) []
  | .vcvt _ _ dst src vm va _ =>
    let w := max (typeBits dst) (typeBits src)
    feedsOf v vm w (elemCount g w) fun k => [elemBits va.toNat (typeBits src) k]
  | .vmxq _ _ _ _ va _ => (List.range (512 * g)).map fun k => ⟨true, [⟨va.toNat + k / 512, k % 512 / 32 * 1024, 1024⟩], []⟩
  | .maskOperation _ fn vb va _ =>
    let one (r : Reg) (k : Nat) : Bits := ⟨100 + r.toNat % 8, k, 1⟩
    match fn with
    | .mpopc => scalarFeed [⟨100 + va.toNat % 8, 0, 2048⟩] []
    | .mfirst => scalarFeed [⟨100 + va.toNat % 8, 0, 2048⟩] []
    | .mnot => (List.range 2048).map fun k => ⟨true, [one va k], []⟩
    | _ => (List.range 2048).map fun k => ⟨true, [one va k, one vb k], []⟩
  | .vcsum _ _ va _ => scalarFeed (wholeRegs va.toNat g) []
  | .vectorLoad _ fn w vm rx _ _ => vecLoadFeeds v e fn w vm rx
  | .vectorStore _ fn w vm rx _ vd => vecStoreFeeds v e fn w vm rx vd
  | .acfill _ _ _ => (List.range 2048).map fun k => ⟨true, memFeed e.sa.toNat (8 * k) 8, []⟩
  | .acput _ _ vs => (List.range 2048).map fun k => ⟨true, [elemBits vs.toNat 8 k], []⟩
  | .tfromv _ _ r => (List.range 2048).map fun k => ⟨true, [elemBits r.toNat 8 k], []⟩
  | .zfromv _ h _ r => (List.range 1024).map fun k => ⟨true, [elemBits r.toNat 8 (1024 * boolBit h + k)], []⟩
  | _ => []

/-! ## Stores into a bad word (R731) -/

def isVecStore : Instr → Bool
  | .vectorStore _ _ _ _ _ _ _ => true | _ => false

/-- The byte addresses that a result stores to. -/
def storedBytes (l : List VOut) : List Nat :=
  l.flatMap fun o => match o with
    | .mem _ m => m.flatMap fun i => match i with | some a => List.range' a.1 a.2.length | none => []
    | _ => []

/-- A result stores to some, but not all, bytes of the 64-bit word with address 8 × `w`. -/
def partWord (l : List VOut) (w : Nat) : Bool :=
  let n := ((List.range' (8 * w) 8).filter fun a => decide (a ∈ storedBytes l)).length
  decide (0 < n ∧ n < 8)

/-- The piece without its stores to some words: bytes of other words are stored. -/
def VOut.without (bad : List Nat) : VOut → VOut
  | .mem _ m => .mem 8 (m.flatMap fun i => match i with
      | some a => a.2.zipIdx.map fun p => if (a.1 + p.2) / 8 ∈ bad then none else some (a.1 + p.2, [p.1])
      | none => [])
  | o => o

/-! ## Tile loads (R323) -/

/-- Which bytes of the destination of a tile load the bad words feed; the bytes that tld6 clears are fed by none. -/
def rowsFed (e : QEntry) (words : List Nat) : List Bool :=
  (List.range 16).flatMap fun r => (List.range (rowLen e.instr)).map fun j => decide ((rowAddr e.sa e.sb r + j) / 8 ∈ words)

end Sys2Proof.Machine
end

