-- ==== Sys2Proof/Machine/EngineRun.lean ====
section
/-! DEFINITION. Vector and matrix instructions from RD to completion: reserved encodings (R252, R304), the checks in RD (R276, R286, R315, R333),
the dispatch queue, and the start and the completion on an engine (R127 to R130, R281, R282, R325 to R331). -/

namespace Sys2Proof.Machine

/-! ## The checks in RD -/

/-- What the static checks of an instruction look at (R253, R274, R279): vector destinations, other vector operands, each with its register count,
the arcade lines, whether a source must be disjoint from every destination (R279: of operations whose beats may read what an earlier beat has written, and of
conversions whose elements differ in width), and whether the group size is not allowed. -/
structure Shape where
  dests  : List (Nat × Nat) := []
  srcs   : List (Nat × Nat) := []
  lines  : Option (Nat × Nat) := none
  strict : Bool := false
  badG   : Bool := false
  deriving DecidableEq, Repr

def operand (r : Reg) (n w : Nat) : Nat × Nat := (r.toNat, regCount n w)

/-- An operand breaks the alignment of R253. DEDUCED, log entry 23. -/
def badGroup (p : Nat × Nat) : Bool := p.2 ≠ 0 && p.1 % p.2 ≠ 0

def touch (p q : Nat × Nat) : Bool := decide (p.1 < q.1 + q.2) && decide (q.1 < p.1 + p.2)

/-- A destination and a source break R279. DEDUCED, log entry 23. -/
def Shape.breaks (c : Shape) (d p : Nat × Nat) : Bool := touch d p && (c.strict || decide (d ≠ p))

/-- Two destinations that overlap (vmxq). -/
def Shape.destClash (c : Shape) : Bool :=
  match c.dests with
  | [d, e] => touch d e
  | _ => false

/-- The faults of ranks 2 to 5 (R286): cause and fault value. -/
def Block.staticFault (x : Block) (c : Shape) : Option (Nat × Nat) :=
  match (c.dests ++ c.srcs ++ c.lines.toList).find? badGroup with
  | some p => some (13, p.1)
  | none =>
    if c.badG then some (14, x.vec.grp.toNat)
    else match c.dests.find? fun d => c.srcs.any (c.breaks d) with
      | some d => some (15, d.1)
      | none =>
        if c.destClash then some (15, (c.dests.headD (0, 0)).1)
        else
          let lines := match c.lines with | none => [] | some p => List.range' p.1 p.2
          (lines.find? fun n => !(look AcLine.reset x.vec.ac n).valid).map fun n => (16, n)

/-- An instruction of the engines stands in RD (R252, R304, R108): a reserved encoding, as every engine instruction is on the management core (R556),
faults with value 0; the scalar registers it names and an entry of the dispatch queue must be free before its checks (R128, R330, R377). -/
def State.engineIssue (s : State) (b : BlockId) (reserved : Bool) (gs fs : List Reg) (k : State → State) : State :=
  s.issue b fun s => if reserved || decide (b = mgmtCore) then s.raiseSync b 2 0 else s.whenFree b gs fs fun s => s.whenRoom b k

/-- The static checks, then `k` (R276); the instruction waits for queued instructions that write `need`, registers that its checks read
(R129, R284). -/
def State.checked (s : State) (b : BlockId) (c : Shape) (need : List Nat) (k : State → State) : State :=
  let x := s.blk b
  if x.inFlight.any fun e => meets e.writes need then s
  else match x.staticFault c with
    | some (cause, v) => s.raiseCheck b cause (BitVec.ofNat 64 v) none false
    | none => k s

/-- The address checks, then `k` (R267, R286, R315, R333). -/
def State.addressed (s : State) (b : BlockId) (l : List (Nat × Nat × Nat × Nat)) (isRow : Bool) (k : State → State) : State :=
  match (s.blk b).priv.firstFault l with
  | some (cause, a, i) => s.raiseCheck b cause (BitVec.ofNat 64 a) (some i) isRow
  | none => k s

/-- The lines of a VA form (R274). -/
def formLines (form : VForm) (vb : Reg) (n w : Nat) : Option (Nat × Nat) :=
  match form with
  | .va => some (vb.toNat % 16, regCount n w)
  | _ => none

/-- The lines that a check needs, by the numbers of `uses`. -/
def lineNeeds (l : Option (Nat × Nat)) : List Nat := match l with | none => [] | some p => span 200 p.1 p.2

def Block.g (x : Block) : Nat := groupSize x.vec.grp

/-- The b operand as a vector source. -/
def formSrcs (form : VForm) (vb : Reg) (n w : Nat) : List (Nat × Nat) :=
  match form with
  | .vv => [operand vb n w]
  | _ => []

/-! ## Instructions in RD -/

/-- The rounding mode of vector arithmetic: BLK_FPSR.RM with rsr read as rne (R257). -/
def Block.rmDyn (x : Block) : BitVec 3 := x.fp.mode 7 false

def shapeArith (x : Block) (op : VArith) (form : VForm) (vb va vd : Reg) : Shape :=
  let w := op.width
  let n := elemCount x.g w
  let usesA := match op with | .int .mv _ => false | .int .vid _ => false | _ => true
  let usesB := match op with | .flt fn _ => !VFltFn.isUnary fn | .int .vid _ => false | _ => true
  { dests := [operand vd n (if op.isWma then 32 else w)],
    srcs := (if usesA then [operand va n w] else []) ++ (if usesB then formSrcs form vb n w else []),
    lines := formLines form vb n w,
    badG := op.isWma && decide (x.g = 8) }

/-- VECTOR_ARITHMETIC in RD. -/
def issueArith (b : BlockId) (op : VArith) (form : VForm) (vm : BitVec 3) (vb va vd : Reg) (s : State) : State :=
  let isF := match op with | .flt _ _ => true | .int _ _ => false
  let vs := decide (form = .vs)
  s.engineIssue b (reservedArith op form vb va) (if vs && !isF then [vb] else []) (if vs && isF then [vb] else []) fun s =>
    let c := shapeArith (s.blk b) op form vb va vd
    s.checked b c (lineNeeds c.lines) fun s =>
      s.enqueue b (.vectorArithmetic b op form vm vb va vd) 0 (if isF then s.getF b vb else s.getG b vb) (s.blk b).rmDyn 0

def execVectorArithmetic (b : BlockId) (op : VArith) (form : VForm) (vm : BitVec 3) (vb va vd : Reg) (s : State) :
    Host.Outcome State Fault Refusal := .next (issueArith b op form vm vb va vd s)

def shapeCmp (x : Block) (op : VCmp) (form : VForm) (vb va : Reg) : Shape :=
  let w := op.width
  let n := elemCount x.g w
  { srcs := operand va n w :: formSrcs form vb n w, lines := formLines form vb n w, badG := decide (1 < x.g) }

def VCmp.isF : VCmp → Bool
  | .feq _ => true | .flt _ => true | .fle _ => true | _ => false

/-- VECTOR_COMPARE in RD. -/
def issueCmp (b : BlockId) (op : VCmp) (form : VForm) (vm : BitVec 3) (vb va vd : Reg) (s : State) : State :=
  let isF := VCmp.isF op
  let vs := decide (form = .vs)
  s.engineIssue b (reservedCmp op form vb vd) (if vs && !isF then [vb] else []) (if vs && isF then [vb] else []) fun s =>
    let c := shapeCmp (s.blk b) op form vb va
    s.checked b c (lineNeeds c.lines) fun s =>
      s.enqueue b (.vectorCompare b op form vm vb va vd) 0 (if isF then s.getF b vb else s.getG b vb) (s.blk b).rmDyn 0

def execVectorCompare (b : BlockId) (op : VCmp) (form : VForm) (vm : BitVec 3) (vb va vd : Reg) (s : State) :
    Host.Outcome State Fault Refusal := .next (issueCmp b op form vm vb va vd s)

/-- VECTOR_REDUCTION in RD: the scalar b is read at issue (R260). -/
def issueRed (b : BlockId) (op : VRed) (vm : BitVec 3) (vb va vd : Reg) (s : State) : State :=
  let isF := match op with | .flt _ _ => true | .int _ _ => false
  s.engineIssue b (VRed.isX16 op) (if isF then [] else [vb, vd]) (if isF then [vb, vd] else []) fun s =>
    s.checked b { srcs := [operand va (elemCount (s.blk b).g op.width) op.width] } [] fun s =>
      s.enqueue b (.vectorReduction b op vm vb va vd) 0 (if isF then s.getF b vb else s.getG b vb) (s.blk b).rmDyn 0

def execVectorReduction (b : BlockId) (op : VRed) (vm : BitVec 3) (vb va vd : Reg) (s : State) : Host.Outcome State Fault Refusal :=
  .next (issueRed b op vm vb va vd s)

def shapePerm (x : Block) (fn : PermFn) (ty : ITy) (vb va vd : Reg) : Shape :=
  let n := elemCount x.g ty.width
  let a := operand va n ty.width
  match fn with
  | .ext => { srcs := [a] }
  | .perm => { dests := [operand vd n ty.width], srcs := [a, operand vb n ty.width], strict := true }
  | _ => { dests := [operand vd n ty.width], srcs := [a], strict := true }

/-- VECTOR_PERMUTATION in RD (R262). -/
def issuePerm (b : BlockId) (fn : PermFn) (ty : ITy) (vm : BitVec 3) (vb va vd : Reg) (s : State) : State :=
  s.engineIssue b false (match fn with | .perm => [] | .ext => [vb, vd] | _ => [vb]) [] fun s =>
    s.checked b (shapePerm (s.blk b) fn ty vb va vd) [] fun s =>
      s.enqueue b (.vectorPermutation b fn ty vm vb va vd) 0 (s.getG b vb) 0 0

def execVectorPermutation (b : BlockId) (fn : PermFn) (ty : ITy) (vm : BitVec 3) (vb va vd : Reg) (s : State) :
    Host.Outcome State Fault Refusal := .next (issuePerm b fn ty vm vb va vd s)

/-- VCVT in RD (R263, R264): N draws in rsr. -/
def issueVcvt (b : BlockId) (rm : BitVec 3) (dst src : BitVec 4) (vm : BitVec 3) (va vd : Reg) (s : State) : State :=
  s.engineIssue b (reservedVcvt rm dst src vm) [] [] fun s =>
    let x := s.blk b
    let n := elemCount x.g (max (typeBits dst) (typeBits src))
    let mode := x.fp.mode rm false
    s.checked b { dests := [operand vd n (typeBits dst)], srcs := [operand va n (typeBits src)], strict := decide (typeBits dst ≠ typeBits src) } []
        fun s =>
      s.enqueue b (.vcvt b rm dst src vm va vd) 0 0 mode (if mode = 5 then n else 0)

def execVcvt (b : BlockId) (rm : BitVec 3) (dst src : BitVec 4) (vm : BitVec 3) (va vd : Reg) (s : State) :
    Host.Outcome State Fault Refusal := .next (issueVcvt b rm dst src vm va vd s)

/-- VMXQ in RD (R265): 512 × G draws in rsr. -/
def issueVmxq (b : BlockId) (rm : BitVec 3) (fmt : BitVec 4) (vs va vd : Reg) (s : State) : State :=
  s.engineIssue b (reservedVmxq rm fmt) [] [] fun s =>
    let x := s.blk b
    let n := 512 * x.g
    let mode := x.fp.mode rm false
    s.checked b { dests := [operand vd n (typeBits fmt), (vs.toNat, 1)], srcs := [operand va n 32], strict := true } [] fun s =>
      s.enqueue b (.vmxq b rm fmt vs va vd) 0 0 mode (if mode = 5 then n else 0)

def execVmxq (b : BlockId) (rm : BitVec 3) (fmt : BitVec 4) (vs va vd : Reg) (s : State) : Host.Outcome State Fault Refusal :=
  .next (issueVmxq b rm fmt vs va vd s)

/-- MASK_OPERATION in RD (R248). -/
def issueMask (b : BlockId) (fn : MaskFn) (vb va vd : Reg) (s : State) : State :=
  s.engineIssue b (reservedMask fn vb va vd) (match fn with | .mpopc => [vd] | .mfirst => [vd] | _ => []) [] fun s =>
    s.enqueue b (.maskOperation b fn vb va vd) 0 0 0 0

def execMaskOperation (b : BlockId) (fn : MaskFn) (vb va vd : Reg) (s : State) : Host.Outcome State Fault Refusal :=
  .next (issueMask b fn vb va vd s)

/-- VCSUM in RD (R275). -/
def issueVcsum (b : BlockId) (vb va vd : Reg) (s : State) : State :=
  s.engineIssue b false [vb, vd] [] fun s =>
    s.checked b { srcs := [operand va (2048 * (s.blk b).g) 8] } [] fun s => s.enqueue b (.vcsum b vb va vd) 0 (s.getG b vb) 0 0

def execVcsum (b : BlockId) (vb va vd : Reg) (s : State) : Host.Outcome State Fault Refusal := .next (issueVcsum b vb va vd s)

/-- The operands of a vector load or store (R253, R279). -/
def shapeMem (x : Block) (isLoad : Bool) (fn : VmFn) (w : BitVec 3) (rx vd : Reg) : Shape :=
  let n := elemCount x.g (memBits w).1
  let d := operand vd n (memBits w).1
  let i := if fn = .indexed then [operand rx n 32] else []
  if fn = .mask then {}
  else if isLoad then { dests := [d], srcs := i, strict := true }
  else { srcs := d :: i }

/-- Registers that the address checks read (R284): the index group and the governing mask. -/
def memNeeds (x : Block) (fn : VmFn) (w vm : BitVec 3) (rx : Reg) : List Nat :=
  (if fn = .indexed then vspan rx (elemCount x.g (memBits w).1) 32 else []) ++ (if vm = 0 then [] else [100 + vm.toNat])

/-- A vector load or store in RD (R267, R276, R284). -/
def issueMem (b : BlockId) (i : Instr) (isLoad : Bool) (fn : VmFn) (w vm : BitVec 3) (rx ra vd : Reg) (s : State) : State :=
  s.engineIssue b (reservedMem fn w vm rx vd) (if fn = .strided then [ra, rx] else [ra]) [] fun s =>
    let x := s.blk b
    let a := s.getG b ra
    let st := s.getG b rx
    s.checked b (shapeMem x isLoad fn w rx vd) (memNeeds x fn w vm rx) fun s =>
      s.addressed b (x.vec.accesses x.g fn w vm rx a st) false fun s => s.enqueue b i a st 0 0

def execVectorLoad (b : BlockId) (fn : VmFn) (w : BitVec 3) (vm : BitVec 3) (rx ra vd : Reg) (s : State) :
    Host.Outcome State Fault Refusal := .next (issueMem b (.vectorLoad b fn w vm rx ra vd) true fn w vm rx ra vd s)

def execVectorStore (b : BlockId) (fn : VmFn) (w : BitVec 3) (vm : BitVec 3) (rx ra vd : Reg) (s : State) :
    Host.Outcome State Fault Refusal := .next (issueMem b (.vectorStore b fn w vm rx ra vd) false fn w vm rx ra vd s)

/-- ACFILL in RD (R272): its 2,048 bytes are one access, which VEC_FAULT_ELEM names as element 0 (DESIGN CHOICE, log entry 24). -/
def issueAcfill (b : BlockId) (line : BitVec 4) (ra : Reg) (s : State) : State :=
  s.engineIssue b false [ra] [] fun s =>
    let a := s.getG b ra
    s.addressed b [(0, a.toNat, 2048, 64)] false fun s => s.enqueue b (.acfill b line ra) a 0 0 0

def execAcfill (b : BlockId) (line : BitVec 4) (ra : Reg) (s : State) : Host.Outcome State Fault Refusal := .next (issueAcfill b line ra s)

/-- An instruction with nothing to check. -/
def issuePlain (b : BlockId) (i : Instr) (reserved : Bool) (s : State) : State :=
  s.engineIssue b reserved [] [] fun s => s.enqueue b i 0 0 0 0

def execAcput (b : BlockId) (line : BitVec 4) (vs : Reg) (s : State) : Host.Outcome State Fault Refusal :=
  .next (issuePlain b (.acput b line vs) false s)

def execAcdrop (b : BlockId) (line : BitVec 4) (s : State) : Host.Outcome State Fault Refusal :=
  .next (issuePlain b (.acdrop b line) false s)

def execAcdropall (b : BlockId) (s : State) : Host.Outcome State Fault Refusal := .next (issuePlain b (.acdropall b) false s)

def execMma (b : BlockId) (z mode : Bool) (typb typa : BitVec 4) (tb ta zd : BitVec 3) (s : State) : Host.Outcome State Fault Refusal :=
  .next (issuePlain b (.mma b z mode typb typa tb ta zd) (!pairOk false mode typa.toNat typb.toNat) s)

def execMmx (b : BlockId) (z mode : Bool) (typb typa : BitVec 4) (ts tb ta zd : BitVec 3) (s : State) :
    Host.Outcome State Fault Refusal :=
  .next (issuePlain b (.mmx b z mode typb typa ts tb ta zd) (!pairOk true mode typa.toNat typb.toNat) s)

/-- A tile load or store in RD (R314, R315, R330): an rs of g0 makes the stride the row length. -/
def issueTile (b : BlockId) (i : Instr) (rs ra : Reg) (s : State) : State :=
  s.engineIssue b false [ra, rs] [] fun s =>
    let a := s.getG b ra
    let st := if rs = 0 then BitVec.ofNat 64 (rowLen i) else s.getG b rs
    s.addressed b (rowAccesses a st (rowLen i)) true fun s => s.enqueue b i a st 0 0

def execTld (b : BlockId) (rs ra : Reg) (reg : BitVec 3) (s : State) : Host.Outcome State Fault Refusal :=
  .next (issueTile b (.tld b rs ra reg) rs ra s)

def execTst (b : BlockId) (rs ra : Reg) (reg : BitVec 3) (s : State) : Host.Outcome State Fault Refusal :=
  .next (issueTile b (.tst b rs ra reg) rs ra s)

def execTld6 (b : BlockId) (rs ra : Reg) (reg : BitVec 3) (s : State) : Host.Outcome State Fault Refusal :=
  .next (issueTile b (.tld6 b rs ra reg) rs ra s)

def execTst6 (b : BlockId) (rs ra : Reg) (reg : BitVec 3) (s : State) : Host.Outcome State Fault Refusal :=
  .next (issueTile b (.tst6 b rs ra reg) rs ra s)

def execZld (b : BlockId) (rs ra : Reg) (reg : BitVec 3) (s : State) : Host.Outcome State Fault Refusal :=
  .next (issueTile b (.zld b rs ra reg) rs ra s)

def execZst (b : BlockId) (rs ra : Reg) (reg : BitVec 3) (s : State) : Host.Outcome State Fault Refusal :=
  .next (issueTile b (.zst b rs ra reg) rs ra s)

def execZclr (b : BlockId) (reg : BitVec 3) (s : State) : Host.Outcome State Fault Refusal :=
  .next (issuePlain b (.zclr b reg) false s)

def execTfromv (b : BlockId) (tz : BitVec 3) (v : Reg) (s : State) : Host.Outcome State Fault Refusal :=
  .next (issuePlain b (.tfromv b tz v) false s)

def execTov (b : BlockId) (tz : BitVec 3) (v : Reg) (s : State) : Host.Outcome State Fault Refusal :=
  .next (issuePlain b (.tov b tz v) false s)

def execZfromv (b : BlockId) (h : Bool) (tz : BitVec 3) (v : Reg) (s : State) : Host.Outcome State Fault Refusal :=
  .next (issuePlain b (.zfromv b h tz v) false s)

def execZtov (b : BlockId) (h : Bool) (tz : BitVec 3) (v : Reg) (s : State) : Host.Outcome State Fault Refusal :=
  .next (issuePlain b (.ztov b h tz v) false s)

/-- ZCVT in RD (R320, R321): 256 draws in rsr. -/
def issueZcvt (b : BlockId) (isrc : Bool) (rm : BitVec 3) (dst : BitVec 4) (zn : BitVec 3) (vd : Reg) (s : State) : State :=
  s.engineIssue b (reservedZcvt isrc rm dst) [] [] fun s =>
    let mode := (s.blk b).fp.mode rm false
    s.enqueue b (.zcvt b isrc rm dst zn vd) 0 0 mode (if mode = 5 then 256 else 0)

def execZcvt (b : BlockId) (isrc : Bool) (rm : BitVec 3) (dst : BitVec 4) (zn : BitVec 3) (vd : Reg) (s : State) :
    Host.Outcome State Fault Refusal := .next (issueZcvt b isrc rm dst zn vd s)

/-! ## Start -/

/-- The head of the queue departs to its engine: `place` puts it there. It takes its draws (R205), and the freed entry ends a wait for one (R128). -/
def State.depart (s : State) (b : BlockId) (place : Block → QEntry → Block) : State :=
  match (s.blk b).queue with
  | e :: t =>
    let seed := (s.blk b).fp.srState
    let s := (s.modBlk b fun x => place { x with queue := t } { e with seed := seed }).queueWaitEnds b
    if e.draws = 0 then s else s.draw b e.draws
  | [] => s

/-- A vector instruction may start (R281, R328). -/
def Block.vectorReady (x : Block) (e : QEntry) : Bool :=
  (matrixUnit e.instr).isNone && !clashes x.running e false &&
    !(isVecMem e.instr && x.mtx.port.any fun o => isTileMem o.instr)

/-- VECTOR_ENGINE_START (R127, R281, R328). DESIGN CHOICE, log entries 12, 22. -/
def vectorEngineStart (b : BlockId) (s : State) : State :=
  match (s.blk b).queue with
  | e :: _ =>
    if s.branchTicks b 1 && (s.blk b).vectorReady e then
      s.depart b fun x e => { x with vec := { x.vec with run := x.vec.run ++ [e] } }
    else s
  | [] => s

def execVectorEngineStart (b : BlockId) (s : State) : Host.Outcome State Fault Refusal := .next (vectorEngineStart b s)

/-- The instructions whose completion a matrix instruction must await: for a product, not the one that last started on the array into the same
accumulator (R327). -/
def Block.awaited (x : Block) (e : QEntry) (u : MUnit) : List QEntry :=
  match u with
  | .array =>
    match x.mtx.array.getLast? with
    | some l => if l.writes = e.writes then x.vec.run ++ x.mtx.array.dropLast ++ x.mtx.port else x.running
    | none => x.running
  | _ => x.running

/-- A matrix instruction may start (R326, R327). -/
def Block.matrixReady (x : Block) (e : QEntry) (u : MUnit) : Bool :=
  !clashes (x.awaited e u) e true && !(isTileMem e.instr && x.vec.run.any fun o => isVecMem o.instr)

/-- The branch that clocks a unit (R632): the vector engine's or the matrix engine's. -/
def MUnit.branch : MUnit → Nat
  | .vector => 1 | _ => 2

/-- Puts an instruction into its unit. -/
def Block.start (u : MUnit) (x : Block) (e : QEntry) : Block :=
  match u with
  | .array => { x with mtx := { x.mtx with array := x.mtx.array ++ [e] } }
  | .tilePort => { x with mtx := { x.mtx with port := x.mtx.port ++ [e] } }
  | .vector => { x with vec := { x.vec with run := x.vec.run ++ [e] } }

/-- MATRIX_UNIT_START (R127, R325 to R328). DESIGN CHOICE, log entry 12. -/
def matrixUnitStart (b : BlockId) (s : State) : State :=
  match (s.blk b).queue with
  | e :: _ =>
    match matrixUnit e.instr with
    | some u => if s.branchTicks b (MUnit.branch u) && (s.blk b).matrixReady e u then s.depart b (Block.start u) else s
    | none => s
  | [] => s

def execMatrixUnitStart (b : BlockId) (s : State) : Host.Outcome State Fault Refusal := .next (matrixUnitStart b s)

/-! ## Completion -/

/-- Beats of an instruction of the vector engine (R282, R331). DESIGN CHOICE, log entry 12. -/
def beatsOf (i : Instr) (g : Nat) : Nat :=
  match i with
  | .vectorArithmetic _ op _ _ _ _ _ =>
    match op with
    | .int .mul .i64 => 16 * g
    | .int .mulh .i64 => 16 * g
    | .int .macc .i64 => 16 * g
    | .flt .div _ => 32 * g
    | .flt .sqrt _ => 32 * g
    | .flt .wma _ => 16 * g
    | _ => 8 * g
  | .vectorPermutation _ .perm _ _ _ _ _ => 16 * g
  | .vectorPermutation _ .ext _ _ _ _ _ => 1
  | .maskOperation _ _ _ _ _ => 1
  | .vectorLoad _ fn w _ _ _ _ => match fn with | .unit => 8 * g | .mask => 1 | _ => elemCount g (memBits w).1
  | .vectorStore _ fn w _ _ _ _ => match fn with | .unit => 8 * g | .mask => 1 | _ => elemCount g (memBits w).1
  | .acfill _ _ _ => 8
  | .acput _ _ _ => 8
  | .acdrop _ _ => 1
  | .acdropall _ => 1
  | .zfromv _ _ _ _ => 4
  | .ztov _ _ _ _ => 4
  | .tfromv _ _ _ => 8
  | .tov _ _ _ => 8
  | .zcvt _ _ _ _ _ _ => 8
  | _ => 8 * g

/-- How many free values a completion may use: 16,384 for each of at most two pieces. -/
def lossSpan : Nat := 32768

/-- What the block records of a vector data loss (R241, R287). -/
def Block.noteVLoss (x : Block) (pc : W64) (l : VLoss) : Block :=
  let v := x.vec
  let v := if v.dlValid then { v with dlMore := true }
    else { v with dlValid := true, dlPc := pc &&& 0xFFFFFFFFFFFC, dlSource := l.source, dlReg := if l.source = 1 then 0 else l.reg,
                  dlBeat := l.beat }
  { x with vec := v, priv := { x.priv with pendV := true } }

/-- The counts of a vector data loss: an uncorrectable word of local store, or a parity error toward retirement (R725, R736). -/
def State.countVLoss (s : State) (b : BlockId) (l : VLoss) : State :=
  if l.source = 1 then s.bump (0x4010 + quarterOf b) 2 else s.note b 7 (l.source.toNat * 32 + l.reg.toNat) 2

/-- An instruction of the vector engine completes with a data loss (R280, R287): what the bad data feed holds free values, and beside the flags of the other
elements any flag may be raised. DEDUCED, log entry 26. -/
def State.completeVLoss (s : State) (b : BlockId) (e : QEntry) (l : VLoss) : State :=
  let fed := lossFed l (elemFeeds (s.blk b) e)
  let r := engineOut (s.blk b) e fed
  let base := s.freeCount
  let fl := r.2 ||| (Config.freeWord (base + lossSpan)).setWidth 6
  let s := ((s.putOuts b (spoilAll base fed r.1) fl).useFree (lossSpan + 1)).modBlk b fun x => x.noteVLoss e.pc l
  (s.countVLoss b l).charge rowUncorrectable (blkRef b)

/-- A vector store meets uncorrectable words of local store that it does not rewrite whole: it leaves those words as they are, which is charged to the epoch
(R731). DEDUCED, log entry 26. -/
def State.completeVStore (s : State) (b : BlockId) (e : QEntry) (l : VLoss) : State :=
  let r := engineOut (s.blk b) e []
  let bad := l.words.filter fun w => partWord r.1 w
  let s := s.putOuts b (r.1.map (VOut.without bad)) r.2
  bad.foldl (fun s w => s.lost b (8 * w)) s

/-- The words that a read of local store corrected (R725). -/
def State.correctedAll (s : State) (b : BlockId) (l : List (BitVec 48)) : State := l.foldl (fun s a => s.corrected b (a.toNat / 8 * 8)) s

/-- The instruction's whole effect, with or without a loss. -/
def State.completeVec (s : State) (b : BlockId) (e : QEntry) (loss : Option VLoss) (fixed : List (BitVec 48)) : State :=
  let s := s.correctedAll b (if isVecMem e.instr then fixed else [])
  let s := s.modBlk b fun x =>
    { x with vec := { x.vec with run := x.vec.run.tail, beats := x.vec.beats + BitVec.ofNat 64 (beatsOf e.instr (groupSize e.grp)) } }
  let plain := let r := engineOut (s.blk b) e []; s.putOuts b r.1 r.2
  match loss with
  | none => plain
  | some l =>
    if l.source = 1 && isVecStore e.instr then s.completeVStore b e l
    else if lossFits l (elemFeeds (s.blk b) e) then s.completeVLoss b e l
    else plain

/-- The clocks that a completion needs: the vector engine's branch, and local store's for a memory instruction (R635). -/
def State.engineTicks (s : State) (b : BlockId) (branch : Nat) (mem : Bool) : Bool := s.branchTicks b branch && (!mem || s.branchTicks b 5)

/-- VECTOR_ENGINE_COMPLETE (R280 to R283, R287): the oldest instruction of the engine, if it is one of chapter 06. DESIGN CHOICE, log entry 22. -/
def vectorEngineComplete (b : BlockId) (loss : Option VLoss) (fixed : List (BitVec 48)) (s : State) : State :=
  match (s.blk b).vec.run with
  | e :: _ =>
    if (matrixUnit e.instr).isNone && s.engineTicks b 1 (isVecMem e.instr) then s.completeVec b e loss fixed else s
  | [] => s

def execVectorEngineComplete (b : BlockId) (loss : Option VLoss) (fixed : List (BitVec 48)) (s : State) : Host.Outcome State Fault Refusal :=
  .next (vectorEngineComplete b loss fixed s)

/-- The destination of a tile load: its number and whether it is an accumulator (R296). -/
def tileDest : Instr → Option (BitVec 3 × Bool)
  | .tld _ _ _ r => some (r, false)
  | .tld6 _ _ _ r => some (r, false)
  | .zld _ _ _ r => some (r, true)
  | _ => none

/-- What the block records of a matrix data loss (R296, R323). -/
def Block.noteMLoss (x : Block) (pc : W64) (row : BitVec 4) (d : BitVec 3 × Bool) : Block :=
  let m := x.mtx
  let m := if m.dlValid then { m with dlMore := true }
    else { m with dlValid := true, dlPc := pc &&& 0xFFFFFFFFFFFC, dlRow := row, dlReg := d.1, dlZ := d.2 }
  { x with mtx := m, priv := { x.priv with pendM := true } }

/-- A tile memory instruction or zclr completes; a load may have met uncorrectable words (R323): the bytes that they feed hold free values, and the first
row that they feed is logged. DEDUCED, log entry 26. -/
def State.completePort (s : State) (b : BlockId) (e : QEntry) (loss : Option MLoss) (fixed : List (BitVec 48)) : State :=
  let s := s.correctedAll b (if isTileMem e.instr then fixed else [])
  let s := s.modBlk b fun x => { x with mtx := { x.mtx with port := x.mtx.port.tail } }
  let r := engineOut (s.blk b) e []
  match loss, tileDest e.instr with
  | some l, some d =>
    let fed := rowsFed e l.words
    match fed.findIdx? id with
    | none => s.putOuts b r.1 0
    | some k =>
      let base := s.freeCount
      let s := ((s.putOuts b (spoilAll base fed r.1) 0).useFree lossSpan).modBlk b fun x =>
        x.noteMLoss e.pc (BitVec.ofNat 4 (k / rowLen e.instr)) d
      (s.bump (0x4010 + quarterOf b) 2).charge rowUncorrectable (blkRef b)
  | _, _ => s.putOuts b r.1 0

/-- A product completes (R294, R331). -/
def State.completeArray (s : State) (b : BlockId) (e : QEntry) : State :=
  let busy := match e.instr with | .mma _ _ _ _ typa _ _ _ => if typa = 1 then 128 else 64 | _ => 64
  let s := s.modBlk b fun x =>
    { x with mtx := { x.mtx with array := x.mtx.array.tail, ops := x.mtx.ops + 1, arrayFcy := x.mtx.arrayFcy + BitVec.ofNat 64 busy } }
  let r := engineOut (s.blk b) e []
  s.putOuts b r.1 r.2

/-- A loss met by a move on the vector engine (R324): a parity error of the vector register that it reads, 64 words of which a beat takes. -/
def moveLoss (e : QEntry) (l : MLoss) : Option VLoss :=
  let beat (from_ : Nat) := BitVec.ofNat 15 ((l.words.foldl min 511 - from_) / 64)
  match e.instr with
  | .tfromv _ _ v => some ⟨2, v, beat 0, l.words⟩
  | .zfromv _ h _ v => some ⟨2, v, beat (256 * boolBit h), l.words⟩
  | _ => none

/-- MATRIX_UNIT_COMPLETE (R323, R324, R331): the oldest instruction of the unit. DESIGN CHOICE, log entry 22. -/
def matrixUnitComplete (b : BlockId) (unit : MUnit) (loss : Option MLoss) (fixed : List (BitVec 48)) (s : State) : State :=
  let x := s.blk b
  match unit with
  | .array =>
    match x.mtx.array with
    | e :: _ => if s.engineTicks b 2 false then s.completeArray b e else s
    | [] => s
  | .tilePort =>
    match x.mtx.port with
    | e :: _ => if s.engineTicks b 2 (isTileMem e.instr) then s.completePort b e loss fixed else s
    | [] => s
  | .vector =>
    match x.vec.run with
    | e :: _ =>
      if (matrixUnit e.instr).isSome && s.engineTicks b 1 false then s.completeVec b e (loss.bind (moveLoss e)) [] else s
    | [] => s

def execMatrixUnitComplete (b : BlockId) (unit : MUnit) (loss : Option MLoss) (fixed : List (BitVec 48)) (s : State) :
    Host.Outcome State Fault Refusal := .next (matrixUnitComplete b unit loss fixed s)

end Sys2Proof.Machine
end

