-- ==== Sys2Proof/Machine/FootNodes.lean ====
section
/-! DEFINITION. The footpath nodes (R414 to R419, R745): what goes over a link, and what a node does with a packet that reaches it. -/

namespace Sys2Proof.Machine

/-! ## Serving -/

/-- Words of bytes, least significant byte first. -/
def wordsOf (l : List Byte) : List W64 := (List.range ((l.length + 7) / 8)).map fun i => BitVec.ofNat 64 (leAt l (8 * i) 8)

/-- The bytes that a packet's data flits carry: as many as its size says. -/
def packetData (p : FpPacket) : List Byte := (p.data.flatMap fun w => leBytes 8 w.toNat).take p.size

/-- The bytes that a packet asks for: its answer has at most 8 data flits (R416, R421). -/
def packetAsked (p : FpPacket) : Nat := min p.size 64

/-- The answer to a served request. -/
def packetReply (p : FpPacket) : Reached → Nat → FpPacket
  | .ok l, kind => answer p kind 0 (wordsOf l)
  | .err e, _ => answer p 4 (BitVec.ofNat 4 e) []

/-- A mailbox holds 16 words (R417): a word that finds it full is refused with ERR 4. One for which an mbx.recv is outstanding goes to it (R175). -/
def State.mailboxWord (s : State) (b : BlockId) (t : WTag) (w : W64) : State × Reached :=
  let x := s.blk b
  if !s.reachable b then (s, .err 2)
  else match x.core.recvs.find? fun r => decide (r.2 = t) with
    | some r => (s.modCore b fun c => { c with recvs := c.recvs.erase r, longOps := c.longOps ++ [⟨.l1, false, r.1, w, 0, false⟩] }, .ok [])
    | none => if x.mbox.length < 16 then (s.modBlk b fun x => { x with mbox := x.mbox ++ [⟨t, w⟩] }, .ok []) else (s, .err 4)

/-- A request is served at a block's node, and its answer leaves: 0 load, 2 store, 5 mailbox word, and 6 a debug or management access, which
writes when it carries data (DESIGN CHOICE, log entry 17). -/
def State.serve (s : State) (b : BlockId) (p : FpPacket) (t : WTag) (ecc : Ecc) : State :=
  let a := p.addr.toNat % 2 ^ 26
  let load (s : State) : State := let r := s.blockRead b t a (packetAsked p) ecc; r.1.sendPacket (s.fpCoord b) (packetReply p r.2 1)
  let put (s : State) : State := let r := s.blockWrite b t a (packetData p) ecc; r.1.sendPacket (s.fpCoord b) (packetReply p r.2 3)
  match p.kind.toNat with
  | 0 => load s
  | 2 => put s
  | 5 => let r := s.mailboxWord b t ((p.data[0]?).getD 0); r.1.sendPacket (s.fpCoord b) (packetReply p r.2 3)
  | _ => if p.data = [] then load s else put s

/-- A debug or management access at an edge die (R25, R485): its address is that of the BAR2 map, and it reaches that die's SRAM and registers.
DESIGN CHOICE, log entry 17. -/
def State.serveEdge (s : State) (e : Edge) (p : FpPacket) (ecc : Ecc) : State :=
  let here := s.nodePos (.edge e)
  let mine := match deviceMap p.addr.toNat with
    | .sram d _ => decide (d = e)
    | .regs d _ => decide (d = e)
    | _ => false
  if !mine then s.sendPacket here (answer p 4 2 [])
  else if p.data = [] then let r := s.mapRead p.addr.toNat (packetAsked p) ecc; r.1.sendPacket here (packetReply p r.2 1)
  else let r := s.mapWrite p.addr.toNat (packetData p) ecc; r.1.sendPacket here (packetReply p r.2 3)

/-- An acknowledgement ends a posted store (R137). -/
def State.storeAcked (s : State) (b : BlockId) (txn : BitVec 8) : State :=
  match takeStore txn (s.blk b).core.remStores with
  | some (_, rest) => s.modCore b fun c => { c with remStores := rest }
  | none => s

/-- An answer reaches the core that asked (R416). -/
def State.answered (s : State) (b : BlockId) (p : FpPacket) : State :=
  match p.kind.toNat with
  | 1 => remoteLoadResponse b p.txn ((p.data[0]?).getD 0) s
  | 3 => s.storeAcked b p.txn
  | _ => s.accessFailed b p.txn p.err

/-- A packet reaches its block (R416). -/
def State.nodeReceive (s : State) (b : BlockId) (p : FpPacket) (t : WTag) (ecc : Ecc) : State :=
  if packetClass p = 0 then s.answered b p else s.serve b p t ecc

/-- A packet reaches an edge die (R43, R419, R451): requests for another device go out as frames of KIND 0, answers to proxied requests go back
on VC1, and the others answer the management core at E0 (R556). A request without a route, or at a die that does not work, is answered with ERR 2. -/
def State.edgeReceive (s : State) (e : Edge) (p : FpPacket) (ecc : Ecc) : State :=
  if packetClass p = 0 then
    match s.proxies.find? fun x => decide (x.txn = p.txn) with
    | none =>
      if e ≠ .e0 then s
      else if s.tap.asked = some p.txn then { s with tap := { s.tap with asked := none, reply := some p } }
      else s.answered mgmtCore p
    | some x =>
      let s := { s with proxies := s.proxies.erase x }
      s.queueFrame (s.packetFrame true x.dev { p with dpx := x.spx, dpy := x.spy, txn := x.otxn })
  else if !s.dieWorks e then s.sendPacket (s.nodePos (.edge e)) (answer p 4 2 [])
  else if p.kind = 6 then s.serveEdge e p ecc
  else
    let d := remDev (p.addr.zeroExtend 64)
    if s.routeTo d = none then s.sendPacket (s.nodePos (.edge e)) (answer p 4 2 []) else s.queueFrame (s.packetFrame false d p)

/-! ## Links (R412, R414, R415) -/

/-- The die of a place: 0 to 3 the quarters, 4 E0, 5 E1 (R41). -/
def dieAt (p : FpPos) : Nat := if p.1 = 0xFE then 4 else if p.1 = 0xFF then 5 else p.1 / 66 + 2 * (p.2 / 66)

/-- The packet crosses a die boundary: in the frames of UCIe module 0. -/
def FpTransit.crosses (t : FpTransit) : Bool := decide (dieAt t.from_ ≠ dieAt t.at_)

/-- The number of a link within a die. -/
def FpTransit.link (t : FpTransit) : Nat := ((t.from_.1 * 256 + t.from_.2) * 256 + t.at_.1) * 256 + t.at_.2

/-- The packet that goes next among those that wait for one output: the oldest of the first class that has one (R415). -/
def firstByClass (l : List FpTransit) : Option FpTransit :=
  [0, 1, 2].findSome? fun c => l.find? fun t => decide (packetClass t.pkt = c)

/-- A packet has crossed its link: all its flits a die boundary, or the link within a die, which moves one flit per fcy, is its to take. -/
def State.crossed (s : State) (t : FpTransit) : Bool :=
  if t.crosses then decide (t.sent = (packetFlits t.pkt).length)
  else decide (firstByClass (s.footpath.filter fun u => decide (u.from_ = t.from_ ∧ u.at_ = t.at_)) = some t) && decide (look 0 s.fpBusy t.link ≤ s.fcy)

/-- The footpath channel between two dies in one direction: one flit per fcy, in the frames of module 0 (R412, R414). -/
def channelKey (a b : Nat) : Nat := 2 ^ 40 + 8 * a + b

/-- The packet of which module 0's next frame over a boundary carries a flit. -/
def State.fieldPacket (s : State) (a b : Nat) : Option FpTransit :=
  if s.fcy < look 0 s.fpBusy (channelKey a b) then none
  else firstByClass (s.footpath.filter fun t =>
    decide (dieAt t.from_ = a ∧ dieAt t.at_ = b) && t.crosses && decide (t.sent < (packetFlits t.pkt).length))

/-- The packet after a flit of it has crossed: `r` is the footpath field as it arrived. One that fails its CRC-16 is lost (R413). -/
def FpTransit.flitCrossed (t : FpTransit) (r : BitVec 128) : FpTransit :=
  let l := packetFlits t.pkt
  let w : W64 := r.setWidth 64
  let ok := decide (crc16 112 (r.setWidth 112) = r.extractLsb' 112 16) && r.getLsbD 64
  { t with
    sent := t.sent + 1
    bad := t.bad || !ok
    pkt := if ok && decide (some w ≠ l[t.sent]?) then packetOf (l.set t.sent w) else t.pkt }

/-- The footpath field of a frame of module 0 arrives with the bits of `noise` turned (R412, R413). -/
def State.fieldReceive (s : State) (a b : Nat) (noise : BitVec 128) : State :=
  match s.fieldPacket a b with
  | none => s
  | some t =>
    let l := packetFlits t.pkt
    let r := fieldBits (some ((l[t.sent]?).getD 0, packetClass t.pkt, decide (t.sent = 0), decide (t.sent + 1 = l.length))) ^^^ noise
    { s with footpath := s.footpath.replace t (t.flitCrossed r), fpBusy := put s.fpBusy (channelKey a b) (s.fcy + 1) }

/-- UCIE_FRAME_RECEIVE (R412, R413): a frame of a module arrives, the bits of `noise` turned, one word of 64 lanes for each unit interval. Its four slots and,
in module 0, its footpath field are checked. DEDUCED, log entry 58. -/
def ucieFrameReceive (at_ : UcieEnd) (module : BitVec 4) (noise : List (BitVec 64)) (s : State) : State :=
  match ucieDies at_ with
  | none => s
  | some (a, b) =>
    let s := s.frameSlots at_ module.toNat noise
    if module = 0 then s.fieldReceive a b (noiseBits noise 20 128) else s

def execUcieFrameReceive (at_ : UcieEnd) (frame : UcieFrame) (s : State) : Host.Outcome State Fault Refusal :=
  .next (ucieFrameReceive at_ frame.module frame.noise s)

/-- A packet leaves its link. -/
def State.offLink (s : State) (t : FpTransit) : State :=
  { s with
    footpath := s.footpath.erase t
    fpBusy := if t.crosses then s.fpBusy else put s.fpBusy t.link (s.fcy + (packetFlits t.pkt).length) }

/-- A packet is discarded: a trace packet is counted (R774). -/
def State.packetGone (s : State) (p : FpPacket) : State := if p.kind = 7 then s.traceDropped else s

/-- A packet that has come over its link to a node (R413 to R419). -/
def State.nodeTake (s : State) (node : FpNode) (t : FpTransit) (ecc : Ecc) : State :=
  let p := t.pkt
  let s := s.offLink t
  if t.bad then (if packetAsks p then s.sendPacket t.at_ (answer p 4 2 []) else s.packetGone p)
  else
    match (if 8 ≤ p.kind.toNat then none else WTag.ofCode p.tag) with
    | none => (s.packetGone p).bump 0x4001 1
    | some w =>
      if t.at_ ≠ packetDest p then { s with footpath := s.footpath ++ [⟨t.at_, nextHop t.yx t.at_ (packetDest p), t.yx, 0, false, p⟩] }
      else
        match node with
        | .block b => if p.kind = 7 then s.packetGone p else s.nodeReceive b p w ecc
        | .edge e => if p.kind = 7 then s.sinkTake e (packetEntry p) else s.edgeReceive e p ecc

/-- FOOTPATH_PACKET_RECEIVE (R413 to R419): a packet that has come over the link from the node at `from_`. One that lost a flit at a die boundary is discarded, a request with an error return; one with a reserved
KIND or TAG is discarded and counted; one for another node goes on; and the node of a block takes a packet from its own
trace unit's queue. DEDUCED, log entry 58. -/
def footpathPacketReceive (node : FpNode) (p : FpPacket) (from_ : FpPos) (ecc : Ecc) (s : State) : State :=
  match s.footpath.find? fun t => decide (t.at_ = s.nodePos node ∧ t.from_ = from_ ∧ t.pkt = p) with
  | some t => if s.crossed t then s.nodeTake node t ecc else s
  | none => if p.kind = 7 ∧ from_ = s.nodePos node then s.traceLeave node p else s

def execFootpathPacketReceive (node : FpNode) (pkt : FpPacket) (from_ : FpPos) (ecc : Ecc) (s : State) : Host.Outcome State Fault Refusal :=
  .next (footpathPacketReceive node pkt from_ ecc s)

end Sys2Proof.Machine
end

