-- ==== Sys2Proof/Machine/LinkRx.lean ====
section
/-! DEFINITION. What a Dzixon port receives (chapter 10): blocks, frames, identity, unplanned frames and their delivery, planned frames and milestone
records. -/

namespace Sys2Proof.Machine

/-! ## The unplanned class (R434, R450, R451, R514) -/

/-- A transaction number that neither a proxied request nor one of the management core holds. -/
def State.freeTxn (s : State) : Option (BitVec 8) :=
  ((List.range 256).map fun n => BitVec.ofNat 8 n).find? fun t => !s.txnUsed mgmtCore t

/-- A footpath packet of another device enters the footpath network at port `p`'s edge die (R419, R451). A request gets the edge die as its
source and a transaction number of this device (DESIGN CHOICE, log entry 16). -/
def State.fromPeer (s : State) (p : Nat) (src : BitVec 7) (k : FpPacket) : State :=
  let here : FpPos := (Edge.code (edgeOfPort p), 0)
  if !packetAsks k then s.sendPacket here k
  else match s.freeTxn with
    | none => s.queueFrame (s.packetFrame true src (answer k 4 2 []))
    | some t =>
      let d := s.fpCoord (remBlock (k.addr.zeroExtend 64))
      let q := { k with dpx := FpPos.px d, dpy := FpPos.py d, spx := FpPos.px here, spy := 0, txn := t }
      let x : Proxy := ⟨t, src, k.spx, k.spy, k.txn⟩
      ({ s with proxies := s.proxies ++ [x] } : State).sendPacket here q

/-- The answer to a frame of KIND 1 (R514): OP 2 with the data read, OP 3 for a write, OP 4 with an ERR code in LEN (DESIGN CHOICE, log entry 16). -/
def State.hostAnswer (s : State) (u : UFrame) (op n : Nat) (l : List Byte) : State :=
  s.queueFrame ⟨0, true, u.src, s.devNum, 1, 15, leBytes 4 op ++ leBytes 4 n ++ (u.payload.drop 8).take 8 ++ l⟩

/-- A tensor access of another device (R514): OP 0 reads LEN bytes at DADDR, OP 1 writes them, as a tensor command of this device would (R515). -/
def State.hostServe (s : State) (u : UFrame) : State :=
  let n := min (leAt u.payload 4 4) 228
  let r := pieces (leAt u.payload 8 8) n
  if leAt u.payload 0 4 = 0 then
    match s.mapReads .ok r with
    | (s, .ok l) => s.hostAnswer u 2 n l
    | (s, .err e) => s.hostAnswer u 4 e []
  else if r.any fun p => s.writeBarred (deviceMap p.1) then s.hostAnswer u 4 1 []
  else
    match s.mapWrites .ok (padTo n ((u.payload.drop 16).take n)) r with
    | (s, .ok _) => s.hostAnswer u 3 n []
    | (s, .err e) => s.hostAnswer u 4 e []

/-- An accepted unplanned frame is delivered or forwarded (R434, R451, R804); a delivered one leaves its buffer entry at once, a forwarded one when it goes
out. A KIND, VC or LEN that no frame has frees the entry alone (R434; the LEN is a DESIGN CHOICE, log entry 73). -/
def State.deliverFrame (s : State) (p : Nat) (u : UFrame) (ok : Bool) : State :=
  let held := some (p, u.vc, u.fseq)
  let done (s : State) : State := s.freeEntry held
  if !ok ∨ 4 ≤ u.kind.toNat then done s
  else if u.dst = s.devNum then
    match u.kind.toNat with
    | 0 => done (s.fromPeer p u.src (bytesPacket u.payload))
    | 1 => done (if u.vc then { s with arrived := s.arrived ++ [u] } else s.hostServe u)
    | 2 => done { s with arrived := s.arrived ++ [u] }
    | _ => done s
  else if u.ttl = 0 ∨ s.wayOut (some (edgeOfPort p)) u.dst = none then done ((s.bump 0xB002 5).errorReturn p u)
  else s.queueFrame { u with fseq := 0, ttl := u.ttl - 1 } held

/-- UNPLANNED_FRAME_RECEIVE (R449, R450): only the next expected FSEQ is accepted, and takes a buffer entry. -/
def State.unplannedReceive (s : State) (p : Nat) (u : UFrame) (ok : Bool) : State :=
  if u.fseq ≠ (s.port p).rxNext then s.modPort p fun x => { x with req := if x.req = 2 then 2 else 1 }
  else
    let s := s.modPort p fun x => { x.modVc u.vc fun v => { v with rx := v.rx ++ [u] } with rxNext := x.rxNext + 1 }
    s.deliverFrame p u ok

/-! ## The planned class (R431, R432, R446) -/

/-- An epoch number extended from its 16 low bits, nearest the device's own (R431). -/
def extendEpoch (own : W64) (low : BitVec 16) : W64 := own + ((low - own.setWidth 16).signExtend 64)

/-- A record of a planned frame goes to its landing buffer (R446): 64 flits a channel. -/
def State.landRecord (s : State) (p i : Nat) (sepoch : W64) (f : Flit) : State :=
  let e := edgeOf (p / 4)
  let ep := 128 + 4 * (p % 4) + i % 4
  if (look [] (s.edgeDie e).land ep).length < 64 then
    (s.modEdge e fun d => { d with land := pushTab d.land ep ⟨f, true, sepoch + BitVec.ofNat 64 f.lag, 0⟩ }).sentWords (words [f])
  else (s.modEdge e fun d => { d with overflow := d.overflow + 1 }).modPort p fun x => x.lose 0 1

/-- Records of a frame in order. -/
def State.landRecords (s : State) (p : Nat) (sepoch : W64) : Nat → List Flit → State
  | _, [] => s
  | i, f :: t => (s.landRecord p i sepoch f).landRecords p sepoch (i + 1) t

/-- PLANNED_FRAME_RECEIVE (R432, R446). -/
def State.plannedReceive (s : State) (p : Nat) (l : List Byte) : State :=
  let h := BitVec.ofNat 64 (leAt l 0 8)
  let fvalid := (h.extractLsb' 8 6).toNat
  let n := (List.range' 1 6).find? fun n => decide (fvalid = 2 ^ n - 1)
  let low : BitVec 16 := h.extractLsb' 16 16
  match n with
  | none => s.modPort p fun x => x.lose 0 ((List.range 6).filter fun i => fvalid.testBit i).length
  | some n =>
    let flits := (List.range n).map fun i =>
      mkFlit (BitVec.ofNat 40 (leAt l (40 + 37 * i) 5)) (BitVec.ofNat 256 (leAt l (8 + 37 * i) 32))
    let s := s.modPort p fun x => { x with got := put x.got low.toNat (look 0 x.got low.toNat + 1) }
    if s.epoch.active then s.landRecords p (extendEpoch s.epoch.num low) 0 flits else s.modPort p fun x => x.lose 0 n

/-! ## Milestones (R456 to R458) -/

/-- The skew of a record (R458), in ns: its TIME less the device's own time of epoch cycle 0 of its EPOCH. -/
def State.skewOf (s : State) (r : MsRec) : Int :=
  let t : Nat := r.time.toNat / 2 ^ 32 * 1000000000 + r.time.toNat % 2 ^ 32
  let own : Int := (s.epoch.at0 : Int) - (s.epochsNs (s.epoch.num - r.epoch).toNat : Int)
  (t : Int) - own

/-- LNK_SKEW of the port of arrival takes a record's skew; above 40 ns it is journaled (R458). How a record that has been relayed is corrected the manual does
not say: the correction is a free value. DESIGN CHOICE, log entry 74. -/
def State.noteSkew (s : State) (p : Nat) (r : MsRec) : State :=
  let far := decide (r.origin ≠ (s.port p).peer.devnum)
  let d := s.skewOf r - if far then ((s.free.setWidth 16).toInt) else 0
  let s := if far then s.useFree else s
  let s := s.modPort p fun x =>
    { x with skewLast := BitVec.ofInt 16 d, skewMax := if x.skewMax.toNat < d.natAbs then BitVec.ofNat 16 (min d.natAbs 0xFFFF) else x.skewMax,
             alignLoss := x.alignLoss || decide (40 < d.natAbs) }
  if 40 < d.natAbs then s.raise 0x0201 (BitVec.ofNat 64 p) (BitVec.ofInt 64 d) else s

/-- The gate instant that a record would have served has passed (R62). -/
def State.tooLate (s : State) (r : MsRec) : Bool :=
  s.pl.upstream.any fun u =>
    let e := r.epoch + BitVec.ofNat 64 u.2
    decide (u.1 = r.origin) && (decide (e < s.epoch.num) || (decide (e = s.epoch.num) && (s.epoch.begun || s.epoch.decision.isSome)))

/-- One record of a milestone frame (R456); `bad` marks a frame whose PCOUNT differs (R457). -/
def State.milestoneRecord (s : State) (p : Nat) (bad : Bool) (r : MsRec) : State :=
  let last := (s.pl.seen.find? fun e => decide (e.1 = r.origin.toNat)).map Prod.snd
  let again := match last with | some l => decide (r.epoch ≤ l) | none => false
  if !s.epoch.active then s
  else if r.epoch < s.pl.e0 ∨ s.epoch.num ≤ r.epoch then s.haltNext rowMilestone
  else if again then s
  else
    let s := s.noteSkew p r
    let late := s.tooLate r
    let kept := if bad then { r with outcome := 3 } else r
    let s := s.modPl fun x => { x with seen := put x.seen r.origin.toNat r.epoch, recs := if late then x.recs else x.recs ++ [kept] }
    let s := if late then s.bump 0xB002 2 else s
    let now := s.fcy
    s.eachPort fun s q =>
      if (s.port q).planned && (s.port q).relay.getLsbD r.origin.toNat then s.modPort q fun x => { x with due := x.due ++ [(r, now)] } else s

/-- MILESTONE_RECEIVE (R456, R457): PCOUNT is compared with the planned frames received for the same SEPOCH. -/
def State.milestoneReceive (s : State) (p : Nat) (l : List Byte) : State :=
  let h := BitVec.ofNat 64 (leAt l 0 8)
  let n := (h.extractLsb' 8 4).toNat
  let low := (h.extractLsb' 16 16).toNat
  let bad := decide ((h.extractLsb' 32 16).toNat ≠ look 0 (s.port p).got low % 2 ^ 16)
  let s := if bad then s.charge rowLink noBlock else s
  ((List.range (min n 12)).map fun i => recordAt l (8 + 20 * i)).foldl (fun s r => s.milestoneRecord p bad r) s

/-! ## Identity (R435, R438, R439) -/

/-- An identity frame arrives: it counts toward the three of R439, and its stamps give the flight time, half of the round trip (R438). -/
def State.identityReceive (s : State) (p : Nat) (i : Identity) : State :=
  let now := s.linkTime
  s.modPort p fun x =>
    { x with
      idents := x.idents + 1, ident := some i, echo := i.txstamp, echoAt := now
      measured := if i.echo = 0 then x.measured else some ((BitVec.ofNat 32 now - i.echo - i.echoAge).toNat / 2) }

/-! ## Receiving a block (R426 to R431, R448) -/

/-- A planned data frame or milestone frame is lost on a port (R448). -/
def State.planLost (s : State) (p : Nat) : State :=
  if (s.port p).planned && s.runningPart then s.charge rowLink noBlock else s

/-- The unplanned frame that bytes carry (R431, R434). -/
def unplannedOf (l : List Byte) : UFrame :=
  let h := BitVec.ofNat 64 (leAt l 0 8)
  ⟨h.extractLsb' 16 16, h.getLsbD 8, h.extractLsb' 32 7, h.extractLsb' 40 7, h.extractLsb' 56 4, h.extractLsb' 60 4,
    (l.drop 8).take (h.extractLsb' 48 8).toNat⟩

/-- Its VC is none that is reserved, and its LEN lies from 1 to 244 (R434). -/
def unplannedOk (l : List Byte) : Bool :=
  let h := BitVec.ofNat 64 (leAt l 0 8)
  decide ((h.extractLsb' 8 2).toNat < 2) && decide (1 ≤ (h.extractLsb' 48 8).toNat) && decide ((h.extractLsb' 48 8).toNat ≤ 244)

/-- One frame of a decoded block (R431, R436): in ACTIVE planned, milestone and unplanned frames, in the states before and after it identity frames. -/
def State.frameReceive (s : State) (p : Nat) (l : List Byte) : State :=
  let h := BitVec.ofNat 64 (leAt l 0 8)
  let ty := (h.extractLsb' 0 4).toNat
  let mode := (h.extractLsb' 8 2).toNat
  if BitVec.ofNat 32 (leAt l 252 4) ≠ crc32 (l.take 252) then
    let s := s.modPort p fun x => { x with crcFail := sat64 x.crcFail 1, idents := 0 }
    if ty = 1 ∨ ty = 2 then s.planLost p else s
  else if (s.port p).st = .active then
    match ty with
    | 1 => s.plannedReceive p l
    | 2 => s.milestoneReceive p l
    | 3 => s.unplannedReceive p (unplannedOf l) (unplannedOk l)
    | _ => s
  else if (ty = 4 ∧ (mode = 0 ∨ mode = 2)) ∨ (ty = 5 ∧ mode = 1) then s.identityReceive p (identityOf l)
  else s

/-- Credits that a header returns on a VC (R430, R449). -/
def Vc.credit (v : Vc) (cret : BitVec 12) : Vc :=
  let n := (cret - v.seen).toNat
  { v with credits := v.credits + n, out := v.out - n, seen := cret }

/-- A block header whose HCRC is right (R430, R437, R450). -/
def State.headerReceive (s : State) (p : Nat) (h : BitVec 64) : State :=
  let ack : BitVec 16 := h.extractLsb' 16 16
  let x := s.port p
  let left := x.replay.filter fun u => seqAtOrAfter u.fseq ack
  let s := s.modPort p fun x =>
    { x with replay := left, stall := if left.length < x.replay.length then 0 else x.stall,
             vc0 := x.vc0.credit (h.extractLsb' 32 12), vc1 := x.vc1.credit (h.extractLsb' 44 12) }
  let req := (h.extractLsb' 56 2).toNat
  if req = 1 then s.resendAll p else if req = 2 then s.toRetrain p 7 else s

/-- A header whose HCRC is right (R430, R436, R437): in TRAIN and RETRAIN it is the block lock, and REQ 2 ends; in ACTIVE its fields count. -/
def State.headerSeen (s : State) (p : Nat) (h : BitVec 64) : State :=
  match (s.port p).st with
  | .active => s.headerReceive p h
  | .caps => s
  | .survey => s
  | _ => s.modPort p fun x => { x with lock := true, req := 0 }

/-- A block as the decoder delivers it (R429, R430): the header and five frames, or nothing, which is counted; then its `lost` planned frames are lost, and
the fourth in a row is a trigger of R437. -/
def State.blockReceive (s : State) (p : Nat) (r : Option (List Byte × Nat)) (lost : Nat) : State :=
  match r with
  | none =>
    let s := s.modPort p fun x =>
      { x with fecUncorr := sat64 x.fecUncorr 1, badRun := x.badRun + 1, req := if x.st = .active ∧ x.req = 0 then 1 else x.req, idents := 0 }
    let s := (List.range lost).foldl (fun s _ => s.planLost p) s
    if 4 ≤ (s.port p).badRun then s.toRetrain p 6 else s
  | some (l, n) =>
    let s := s.modPort p fun x => { x with fecCorr := sat64 x.fecCorr n, badRun := 0 }
    let h := BitVec.ofNat 64 (leAt l 0 8)
    let s := if BitVec.ofNat 16 (leAt l 8 2) = crc16 64 h then s.headerSeen p h else s
    (List.range 5).foldl (fun s i => s.frameReceive p ((l.drop (10 + 256 * i)).take 256)) s

/-- FEC_BLOCK_RECEIVE (R426 to R431): the levels of the lanes in a block's 680 unit intervals are decoded and handled. `lost` says how many planned data and
milestone frames an undecodable block carried (DESIGN CHOICE, log entry 11). -/
def fecBlockReceive (p : PortId) (wire : List (BitVec 16)) (lost : Nat) (s : State) : State :=
  if (s.port p.toNat).st.sends then s.blockReceive p.toNat (fecDecode wire) lost else s

def execFecBlockReceive (p : PortId) (blk : FecBlock) (s : State) : Host.Outcome State Fault Refusal :=
  .next (fecBlockReceive p blk.wire blk.lost s)

end Sys2Proof.Machine
end

