-- ==== Sys2Proof/Machine/PciConfig.lean ====
section
/-! DEFINITION. The configuration space of the function and its BARs (R473, R474, R499). The manual names the PCI Express standard for it: where the
structures lie, and what the standard's fields are after reset, is PRESUMED, log entry 75. -/

namespace Sys2Proof.Machine

/-- Ignoven's assigned identifier, as vendor and as subsystem vendor. -/
def pciVendor : BitVec 16 := Config.assignedId 1

/-- The base address and the type bits of a BAR, from its size in address bits (R474): a 64-bit memory BAR. -/
def barBits (base : W64) (bits : Nat) (prefetch : Bool) : W64 :=
  base >>> bits <<< bits ||| BitVec.ofNat 64 (4 + 8 * boolBit prefetch)

/-- Current link speed code of the standard: 1 for 2.5 GT/s to 6 for 64 GT/s. -/
def speedCode (rate : Nat) : Nat :=
  if 640 ≤ rate then 6 else if 320 ≤ rate then 5 else if 160 ≤ rate then 4 else if 80 ≤ rate then 3 else if 50 ≤ rate then 2 else 1

/-- The doubleword at a byte offset that is a multiple of 4. The structures: power management at 0x40, PCI Express at 0x50, MSI-X at 0x90, error reporting at
0x100, and 14-bit tags, as the third device structure, at 0x148. -/
def Hif.cfgDword (h : Hif) (off : Nat) : BitVec 32 :=
  let c := h.cfg
  BitVec.ofNat 32 <| match off with
  | 0x00 => pciVendor.toNat + 2 ^ 16 * 0x6D06
  | 0x04 => c.command.toNat + 2 ^ 16 * 0x0010
  | 0x08 => Config.stepping.toNat + 2 ^ 8 * 0x120000
  | 0x0C => c.cacheLine.toNat
  | 0x10 => (barBits c.bar0 26 false).toNat
  | 0x14 => (barBits c.bar0 26 false).toNat / 2 ^ 32
  | 0x18 => (barBits c.bar2 34 true).toNat
  | 0x1C => (barBits c.bar2 34 true).toNat / 2 ^ 32
  | 0x20 => (barBits c.bar4 20 false).toNat
  | 0x24 => (barBits c.bar4 20 false).toNat / 2 ^ 32
  | 0x2C => pciVendor.toNat + 2 ^ 16 * (Config.assignedId 2).toNat
  | 0x34 => 0x40
  | 0x3C => c.intLine.toNat
  -- power management: D3hot keeps the state of the function (R522)
  | 0x40 => 0x01 + 2 ^ 8 * 0x50 + 2 ^ 16 * 3
  | 0x44 => (if h.d3hot then 3 else 0) + 8
  -- PCI Express: an endpoint, FLIT mode; payload 512, 10-bit tags, function level reset; x16 at 64 GT/s, ASPM L1
  | 0x50 => 0x10 + 2 ^ 8 * 0x90 + 2 ^ 16 * (2 + 2 ^ 15)
  | 0x54 => 2 + 2 ^ 5 + 2 ^ 15 + 2 ^ 28
  | 0x58 => c.devCtl.toNat
  | 0x5C => 6 + 2 ^ 4 * 16 + 2 ^ 10 * 2 + 2 ^ 22
  | 0x60 => c.linkCtl.toNat + 2 ^ 16 * (if h.linkUp then speedCode h.rate.toNat + 2 ^ 4 * h.width.toNat else 0)
  | 0x74 => 0xF + 2 ^ 4 + 2 ^ 16 + 2 ^ 17
  | 0x78 => c.devCtl2.toNat
  | 0x7C => 2 * 0x3F
  | 0x80 => 6 + 2 ^ 16 * (2 ^ 10 * boolBit h.flitMode)
  -- MSI-X: 64 vectors, the table and the pending bits where R475 puts them
  | 0x90 => 0x11 + 2 ^ 16 * (63 + 2 ^ 14 * boolBit c.msixMask + 2 ^ 15 * boolBit c.msixEn)
  | 0x94 => 0x00300000
  | 0x98 => 0x00301000
  -- error reporting
  | 0x100 => 0x0001 + 2 ^ 16 * 2 + 2 ^ 20 * 0x148
  | 0x104 => c.aerStatus.toNat
  | 0x108 => c.aerMask.toNat
  | 0x10C => c.aerSeverity.toNat
  | 0x148 => 0x002F + 2 ^ 16 * 1
  | 0x14C => 3
  | _ => 0

/-- The 8 bytes of the configuration space at an offset. -/
def Hif.cfgRead (h : Hif) (off : Nat) : W64 := (h.cfgDword (off + 4)) ++ (h.cfgDword off)

/-- A Max Payload Size of 128 to 512 bytes and a Max Read Request Size of 128 to 4,096 bytes (R473); another value leaves the field. No-snoop is never
set. -/
def devCtlOf (old v : BitVec 16) : BitVec 16 :=
  let mps := if (v.extractLsb' 5 3).toNat ≤ 2 then v else old
  let mrr := if (v.extractLsb' 12 3).toNat ≤ 5 then v else old
  (v &&& 0x051F) ||| (mps &&& 0x00E0) ||| (mrr &&& 0x7000)

/-- A configuration write of a doubleword: `v` is the merged value and `act` the bits that it carries. -/
def PciCfg.write (c : PciCfg) (off : Nat) (v act : BitVec 32) : PciCfg :=
  let lo (b : W64) : W64 := (b.extractLsb' 32 32) ++ v
  let hi (b : W64) : W64 := v ++ (b.extractLsb' 0 32)
  match off with
  | 0x04 => { c with command := v.setWidth 16 &&& 0x0146 }
  | 0x0C => { c with cacheLine := v.setWidth 8 }
  | 0x10 => { c with bar0 := lo c.bar0 >>> 26 <<< 26 }
  | 0x14 => { c with bar0 := hi c.bar0 }
  | 0x18 => { c with bar2 := lo c.bar2 >>> 34 <<< 34 }
  | 0x1C => { c with bar2 := hi c.bar2 >>> 34 <<< 34 }
  | 0x20 => { c with bar4 := lo c.bar4 >>> 20 <<< 20 }
  | 0x24 => { c with bar4 := hi c.bar4 }
  | 0x3C => { c with intLine := v.setWidth 8 }
  | 0x58 => { c with devCtl := devCtlOf c.devCtl (v.setWidth 16) }
  | 0x60 => { c with linkCtl := v.setWidth 16 &&& 0x00CA }
  | 0x78 => { c with devCtl2 := v.setWidth 16 &&& 0x101F }
  | 0x90 => { c with msixEn := v.getLsbD 31, msixMask := v.getLsbD 30 }
  | 0x104 => { c with aerStatus := c.aerStatus &&& ~~~act }
  | 0x108 => { c with aerMask := v }
  | 0x10C => { c with aerSeverity := v }
  | _ => c

/-- A configuration write of a doubleword. Initiate Function Level Reset and the power state are commands of their own (R521, R522); a vector that is pending is
raised once MSI-X lets it (R499). -/
def State.cfgWrite32 (s : State) (off : Nat) (v m : BitVec 32) : State :=
  let w := (s.hif.cfgDword off &&& ~~~m) ||| (v &&& m)
  let act := v &&& m
  if off = 0x58 ∧ act.getLsbD 15 then s.functionReset
  else if off = 0x44 ∧ m.getLsbD 0 then
    (match (w.extractLsb' 0 2).toNat with
     | 3 => if s.hif.d3hot then s else s.enterD3
     | 0 => if s.hif.d3hot then s.returnD0 else s
     | _ => s)
  else (s.modHif fun h => { h with cfg := h.cfg.write off w act }).flushPba

/-- A configuration write of up to 8 bytes: `m` marks those that it carries. -/
def State.cfgWrite (s : State) (off : Nat) (v m : W64) : State :=
  let s := if (m.extractLsb' 0 32) = 0 then s else s.cfgWrite32 off (v.extractLsb' 0 32) (m.extractLsb' 0 32)
  if (m.extractLsb' 32 32) = 0 then s else s.cfgWrite32 (off + 4) (v.extractLsb' 32 32) (m.extractLsb' 32 32)

/-! ## BAR4 (R474, R481) -/

/-- A write of BAR4: only one of 4 or 8 bytes at a doorbell takes effect. -/
def State.bar4Write (s : State) (off : Nat) (v : W64) (bytes : BitVec 8) : State :=
  if 0x40000 ≤ off ∨ (bytes ≠ 0x0F ∧ bytes ≠ 0xFF) then s
  else if off % 0x1000 = 0 then sqDoorbellWrite (BitVec.ofNat 6 (off / 0x1000)) v s
  else if off % 0x1000 = 8 then cqDoorbellWrite (BitVec.ofNat 6 (off / 0x1000)) v s
  else s

/-- A read of BAR4 returns 0. -/
def bar4Read (_off : Nat) : W64 := 0

end Sys2Proof.Machine
end

