-- ==== Sys2Proof/Machine/Registers.lean ====
section
/-! DEFINITION. The register spaces of BAR0 (R475 to R480) and of the AON domain (R557, R630, R679, R881), and REGISTER_WRITE: a write to a register with no
row of its own takes effect by the access codes of its fields (R9). -/

namespace Sys2Proof.Machine

/-! ## BAR0 -/

/-- A device-wide HIF_ register (R476, R477). -/
def State.hifRead (s : State) (off : Nat) : W64 :=
  let h := s.hif
  match off with
  | 0x00 => BitVec.ofNat 64 (s.bundle.hostAbi.toNat + 2 ^ 16 * 64 + 2 ^ 24 * 12 + 2 ^ 32 * Config.stepping.toNat)
  | 0x08 => BitVec.ofNat 64 (boolBit h.ready + 2 * boolBit s.restricted + 4 * boolBit s.bp + 16 * s.plan.code)
  | 0x10 => h.evtCfg.setWidth 64
  | 0x18 => h.evtPend.setWidth 64
  | 0x20 => s.jnl.next
  | 0x28 => s.jnl.gen
  | 0x30 => s.planId.setWidth 64
  | 0x38 => BitVec.ofNat 64 s.bpTime
  | 0x40 => BitVec.ofNat 64 h.rejects
  | 0x48 => BitVec.ofNat 64 h.drops
  | _ => 0

/-- A register of a queue (R479). -/
def State.queueRead (s : State) (q : QueueId) (off : Nat) : W64 :=
  let x := s.queue q
  match off with
  | 0x00 => x.sqBase.setWidth 64 <<< 12
  | 0x08 => x.cqBase.setWidth 64 <<< 12
  | 0x10 => BitVec.ofNat 64 (boolBit x.en + 2 * x.slog2.toNat + 2 ^ 5 * x.vec.toNat + 2 ^ 11 * boolBit (s.queueActive q))
  | 0x18 => BitVec.ofNat 64 (x.sqTail.toNat + 2 ^ 16 * x.sqHead.toNat)
  | 0x20 => BitVec.ofNat 64 (x.cqTail.toNat + 2 ^ 16 * x.cqHead.toNat + 2 ^ 32 * boolBit x.phase)
  | 0x28 => BitVec.ofNat 64 (x.count.toNat + 2 ^ 16 * x.time.toNat)
  | 0x30 => BitVec.ofNat 64 (boolBit x.error + 2 * x.ecode.toNat + 2 ^ 8 * s.inflight q)
  | _ => 0

/-- Half an entry of the MSI-X table, in the layout of the PCI Express standard. -/
def MsixEntry.word (e : MsixEntry) (hi : Bool) : W64 := if hi then BitVec.ofNat 64 (e.data.toNat + 2 ^ 32 * e.ctrl.toNat) else e.addr

/-- The 8 bytes at a BAR0 offset that is a multiple of 8 (R475). -/
def State.bar0Read (s : State) (off : Nat) : W64 :=
  if off < 0x1000 then s.hifRead off
  else if off < 0x2000 then s.queueRead (BitVec.ofNat 6 ((off - 0x1000) / 0x40)) (off % 0x40)
  else if off = 0x100000 then s.hif.dictReq
  else if off = 0x100008 then s.hif.dictRsp
  else if 0x101000 ≤ off ∧ off < 0x102000 then BitVec.ofNat 64 (mloadN s.hif.dictData (off - 0x101000) 8)
  else if 0x200000 ≤ off ∧ off < 0x240000 then BitVec.ofNat 64 (leAt (s.jnl.slot ((off - 0x200000) / 64)) (off % 64) 8)
  else if 0x300000 ≤ off ∧ off < 0x300400 then (look MsixEntry.reset s.hif.msix ((off - 0x300000) / 16)).word (decide (off % 16 = 8))
  else if off = 0x301000 then s.hif.pba
  else 0

/-- SLOG2 as it is stored (R480). -/
def clipSlog (n : Nat) : BitVec 4 := BitVec.ofNat 4 (if n < 4 then 4 else if 12 < n then 12 else n)

/-- A write to a queue's registers: `w` is the merged value (R480, R490, R520). -/
def State.queueWrite (s : State) (q : QueueId) (off : Nat) (w : W64) : State :=
  let idle := !s.queueActive q
  match off with
  | 0x00 => if idle then s.modQueue q fun x => { x with sqBase := w.extractLsb' 12 52 } else s
  | 0x08 => if idle then s.modQueue q fun x => { x with cqBase := w.extractLsb' 12 52 } else s
  | 0x10 =>
    let s := if idle then s.modQueue q fun x => { x with slog2 := clipSlog (w.extractLsb' 1 4).toNat, vec := w.extractLsb' 5 6 } else s
    if w.getLsbD 0 then s.enableQueue q else s.disableQueue q 1
  | 0x28 =>
    let n : BitVec 8 := w.extractLsb' 0 8
    s.modQueue q fun x => { x with count := if n = 0 then 1 else n, time := w.extractLsb' 16 10 }
  | _ => s

/-- An MSI-X entry is written; a vector that is pending and no longer masked is raised. -/
def State.msixWrite (s : State) (v : Nat) (hi : Bool) (w : W64) : State :=
  let e := look MsixEntry.reset s.hif.msix v
  let e : MsixEntry := if hi then { e with data := w.extractLsb' 0 32, ctrl := w.extractLsb' 32 32 &&& 1 } else { e with addr := w &&& ~~~3 }
  let s := s.modHif fun h => { h with msix := put h.msix v e }
  s.flushPba

/-- A write to BAR0: `m` marks the bytes it carries. -/
def State.bar0Write (s : State) (off : Nat) (v m : W64) : State :=
  let w := merged (s.bar0Read off) v m
  let act := v &&& m
  if off = 0x10 then s.modHif fun h => { h with evtCfg := w.setWidth 24 &&& 0xFF007F }
  else if off = 0x18 then s.modHif fun h => { h with evtPend := h.evtPend &&& ~~~act.setWidth 8 }
  else if 0x1000 ≤ off ∧ off < 0x2000 then s.queueWrite (BitVec.ofNat 6 ((off - 0x1000) / 0x40)) (off % 0x40) w
  else if off = 0x100000 then dictWindowAccess w .ok s
  else if 0x101000 ≤ off ∧ off < 0x102000 then s.modHif fun h => { h with dictData := mstore h.dictData (off - 0x101000) (leBytes 8 w.toNat) }
  else if 0x300000 ≤ off ∧ off < 0x300400 then s.msixWrite ((off - 0x300000) / 16) (decide (off % 16 = 8)) w
  else s

/-! ## The AON domain -/

/-- AON_ELT_CFG (R558). -/
def Elt.cfgWord (e : Elt) : W64 :=
  BitVec.ofNat 64 (e.etherType.toNat + 2 ^ 16 * boolBit e.en + 2 ^ 17 * boolBit e.forceLoop + 2 ^ 18 * e.phy0.toNat + 2 ^ 23 * e.phy1.toNat)

/-- AON_ELT_STATUS (R558). -/
def State.eltStatusWord (s : State) : W64 :=
  let e := s.elt
  BitVec.ofNat 64 (boolBit e.link0 + 2 * boolBit e.link1 + 4 * boolBit e.looped + 2 ^ 8 * s.station.toNat + 2 ^ 16 * e.requests.length
    + 2 ^ 20 * e.mailbox.length)

/-- AON_QPLL_q (R631). -/
def QPll.word (p : QPll) : W64 :=
  let st := match p.st with | .off => 0 | .standby => 1 | .running => 2
  BitVec.ofNat 64 (st + 4 * boolBit p.starting + 16 * (if p.st = .off then 0 else p.mhz))

/-- AON_RST_STATUS (R679). -/
def State.rstWord (s : State) : W64 :=
  let x := s.supply
  BitVec.ofNat 64 (x.src.toNat + 16 * x.scope.toNat + 2 ^ 8 * boolBit x.rstn.isSome + 2 ^ 9 * boolBit x.perstn + 2 ^ 10 * boolBit x.override
    + 2 ^ 11 * boolBit x.stuck + 2 ^ 12 * boolBit (!s.fastUp))

/-- AON_PWR_STATUS (R679): REG_EN is high from the start of the power-up order to the end of the power-down order. -/
def Supply.powerWord (x : Supply) : W64 :=
  BitVec.ofNat 64 (x.good.toNat + 2 ^ 16 * boolBit x.pfw + 2 ^ 17 * boolBit (decide (x.pwr ≠ .off)) + 2 ^ 18 * boolBit x.vbatLow)

/-- The AON register at an offset that is a multiple of 8 (R557, R630, R679, R881); AON_TIME_NS has its row for what its read does. -/
def State.aonRead (s : State) (off : Nat) : W64 :=
  let e := s.elt
  let t := s.time
  let x := s.supply
  match off with
  | 0x0100 => BitVec.ofNat 64 (s.boot.dummy.toNat + 16 * boolBit s.boot.xip)
  | 0x0108 => BitVec.ofNat 64 e.misses
  | 0x0200 => BitVec.ofNat 64 t.ns
  | 0x0208 => t.shadow.setWidth 64
  | 0x0210 => t.stage
  | 0x0220 => t.statusWord
  | 0x0228 => t.ppsWord
  | 0x0230 => t.rtc
  | 0x0400 => s.rstWord
  | 0x0410 => BitVec.ofNat 64 (2 ^ 16 * (s.wdtLeft % 2 ^ 16))
  | 0x0418 => BitVec.ofNat 64 (boolBit x.latch + 4 * boolBit x.warm + 2 ^ 8 * x.failed.toNat)
  | 0x0420 => x.powerWord
  | 0x0500 => s.thermWord
  | 0x1000 => e.cfgWord
  | 0x1008 => s.eltStatusWord
  | 0x1010 => BitVec.ofNat 64 e.frames
  | 0x1018 => BitVec.ofNat 64 e.fcsErr
  | 0x1020 => BitVec.ofNat 64 e.malformed
  | 0x1028 => BitVec.ofNat 64 e.other
  | 0x1030 => BitVec.ofNat 64 e.rsvCmd
  | 0x1040 => e.t0
  | 0x1048 => e.t1
  | 0x1050 => e.delay.setWidth 64
  | _ =>
    if 0x0300 ≤ off ∧ off < 0x0358 then (s.monitor ((off - 0x0300) / 8)).word
    else if 0x0380 ≤ off ∧ off < 0x03A0 then (s.pll ((off - 0x0380) / 8)).word
    else if 0x0600 ≤ off ∧ off < 0x0848 then s.siteWord ((off - 0x0600) / 8)
    else 0

/-- A write to an AON register: `m` marks the bytes it carries. -/
def State.aonWrite (s : State) (off : Nat) (v m : W64) : State :=
  let w := merged (s.aonRead off) v m
  let act := v &&& m
  let now := s.acy
  match off with
  | 0x0100 => s.modBoot fun b => { b with dummy := w.extractLsb' 0 4, xip := w.getLsbD 4 }
  | 0x0210 => s.modTime fun t => { t with stage := w }
  | 0x0218 => if act.getLsbD 0 then s.applyTime.1 else s
  | 0x0220 => if act.getLsbD 7 then s.modTime fun t => { t with refused := false } else s
  | 0x0408 =>
    let s := if act.getLsbD 0 then s.askReset srcFast else s
    if act.getLsbD 1 then s.askReset srcClear else s
  | 0x0410 => if act.getLsbD 0 then s.modSup fun x => { x with wdt := x.wdt.map fun _ => now } else s
  | 0x0418 => if act.getLsbD 1 then s.modSup fun x => { x with latch := true } else s
  | 0x1000 => s.modElt fun e =>
      { e with etherType := w.extractLsb' 0 16, en := w.getLsbD 16, forceLoop := w.getLsbD 17, phy0 := w.extractLsb' 18 5, phy1 := w.extractLsb' 23 5 }
  | 0x1050 => s.modElt fun e => { e with delay := w.extractLsb' 0 32 }
  | _ => s

/-! ## REGISTER_WRITE -/

/-- The bits of the bytes that a byte mask names. -/
def byteMask (bytes : BitVec 8) : W64 := BitVec.ofNat 64 (leNat ((List.range 8).map fun i => if bytes.getLsbD i then (0xFF : Byte) else 0))

/-- A write of one register of a block or of an edge die through BAR2 (R485, R515 to R518, R525): discarded and counted when it is poisoned, barred, lost or
meets nothing that works. -/
def State.directWrite (s : State) (at_ : Place6) (via : Direct) (write : State → State) : State :=
  let works := match at_ with | .block b _ => s.reachable b | .regs e _ => s.dieWorks e | _ => true
  if s.writeBarred at_ || !works || !s.wayTo at_ || decide (via = .poisoned) || (decide (via = .lost) && offE0 at_) then s.directDrop via
  else write s

/-- REGISTER_WRITE (R9, R99): `off` lies in the 8 bytes of one register, and `bytes` marks those that the write carries. The host writes the configuration
space, BAR0 and BAR4, and a block's and a die's registers through BAR2; the management core writes the AON registers. A poisoned write of BAR4 is discarded and
counted (R525). -/
def registerWrite (space : RegSpace) (off : BitVec 32) (value : BitVec 64) (bytes : BitVec 8) (via : Direct) (s : State) : State :=
  let o := off.toNat / 8 * 8
  let m := byteMask bytes
  match space with
  | .config => if s.hif.linkUp then s.cfgWrite o value m else s
  | .bar0 => if s.barsUp then s.bar0Write o value m else s
  | .bar4 => if !s.barsUp then s else if via = .poisoned then s.directDrop via else s.bar4Write o value bytes
  | .block b => if 0x10000 ≤ o ∨ !s.barsUp then s else s.directWrite (.block b (0x300000 + o)) via fun s => s.crWrite b (.foot .m) o value m
  | .edge e => if s.barsUp then s.directWrite (.regs e o) via fun s => s.edgeRegWrite e o value m else s
  | .aon => if s.coreRuns then s.aonWrite o value m else s

def execRegisterWrite (space : RegSpace) (off : BitVec 32) (value : BitVec 64) (bytes : RegBytes) (s : State) : Host.Outcome State Fault Refusal :=
  .next (registerWrite space off value bytes.mask bytes.via s)

end Sys2Proof.Machine
end

