-- ==== Sys2Proof/Machine/MgmtCore.lean ====
section
/-! DEFINITION. The management core's address map and its line buffer (R554 to R563), and LOAD and STORE, which go by the map of the core that issues
them. What the manual leaves open here is a DESIGN CHOICE, log entry 57. -/

namespace Sys2Proof.Machine

/-! ## The address map (R554, R555) -/

/-- What an address of the management core names: the boot ROM, the flash window, and in retention SRAM the journal, what units keep there and the firmware
data; the AON registers, and the footpath window with its offset in the BAR2 map. -/
inductive MgmtPlace where
  | rom | flash | journal | kept | data
  | aon (off : Nat)
  | window (off : Nat)
  deriving DecidableEq, Repr

def mgmtPlace (a : Nat) : Option MgmtPlace :=
  if inBootRom a then some .rom
  else if inFlash a then some .flash
  else if 0x20000000 ≤ a ∧ a < 0x20040000 then some .journal
  else if 0x20040000 ≤ a ∧ a < 0x20060000 then some .kept
  else if inFirmwareData a 1 then some .data
  else if 0x30000000 ≤ a ∧ a < 0x30010000 then some (.aon (a - 0x30000000))
  else if 0x40000000 ≤ a ∧ a < 0x440000000 then some (.window (a - 0x40000000))
  else none

/-- A context may load from a place, or store to it: A has the flash window, the firmware data that its bounds grant, and, as supervisor, the AON registers that
they grant. -/
def Priv.mgmtMay (p : Priv) (isStore : Bool) (a n : Nat) (x : MgmtPlace) : Bool :=
  let c := p.ctx
  match x with
  | .rom => !isStore && decide (c = .m)
  | .flash => !isStore
  | .journal => !isStore && decide (c = .m)
  | .kept => decide (c = .m)
  | .data => p.lsBytes c a n
  | .aon _ => decide (c = .m) || (!c.isUser && p.lsBytes c a n)
  | .window _ => decide (c = .m)

/-- The checks of an access in the order of R138: the place, or cause and fault value. -/
def State.mgmtAccess (s : State) (isStore : Bool) (n : Nat) (a : W64) : (Nat × W64) ⊕ MgmtPlace :=
  if a.toNat % n ≠ 0 then .inl (4, a)
  else match mgmtPlace a.toNat with
    | none => .inl (6, a)
    | some x => if (s.blk mgmtCore).priv.mgmtMay isStore a.toNat n x then .inr x else .inl (7, a)

/-- Bytes of the boot ROM (free values). -/
def bootRomWord (a n : Nat) : W64 := BitVec.ofNat 64 (leNat ((List.range n).map fun i => Config.bootRomByte (a + i)))

/-- The low `n` bytes of a value that stand `k` bytes up in a register, and the mask of them. -/
def atBytes (k n : Nat) (v : W64) : W64 × W64 :=
  (v <<< (8 * k), BitVec.ofNat 64 ((2 ^ (8 * n) - 1) * 2 ^ (8 * k)))

/-- An access of the management core to retention SRAM meets its error correction: a value read is there, or the instruction faults (R138, R725). -/
def State.mgmtRead (s : State) (a : W64) (fn : LoadFn) (rd : Reg) (ecc : Ecc) (v : W64) : State :=
  match ecc with
  | .ok => s.loaded mgmtCore fn rd v
  | .corrected => s.retentionCorrected.loaded mgmtCore fn rd v
  | .uncorrectable => s.retentionLost.raiseSync mgmtCore 17 a

/-- An access of the footpath window that E0 itself answers ends in an error: it enters the late-store log as one that comes back does (R369). -/
def State.windowError (s : State) (a : W64) (kind : BitVec 2) (err : Nat) : State :=
  s.modPriv mgmtCore fun p => p.late (a.setWidth 48) kind p.ctx (BitVec.ofNat 4 err)

/-- The node and the address that a request for an offset of the BAR2 map goes to (R484, R485): a block, or E1. -/
def State.windowTarget (s : State) (off : Nat) : FpPos × BitVec 48 :=
  match deviceMap off with
  | .block b a => (s.fpCoord b, BitVec.ofNat 48 a)
  | _ => (s.nodePos (.edge .e1), BitVec.ofNat 48 off)

/-- A load through the footpath window (R485, R555): E0's places at once, others by a packet. -/
def State.windowLoad (s : State) (a : W64) (off : Nat) (fn : LoadFn) (rd : Reg) (ecc : Ecc) : State :=
  if deviceMap off = .reserved then s.loaded mgmtCore fn rd 0
  else if offE0 (deviceMap off) then
    if 4 ≤ (s.blk mgmtCore).core.remLoads.length then s
    else
      let t := s.windowTarget off
      (s.loadLeaves mgmtCore (a.setWidth 48) fn rd (s.requestTo mgmtCore t.1 t.2 6 .m (s.freshTxn mgmtCore) fn.size [])).advance mgmtCore
  else
    match s.mapRead off fn.size ecc with
    | (s, .ok l) => s.loaded mgmtCore fn rd (BitVec.ofNat 64 (leNat l))
    | (s, .err e) => (s.windowError a 2 e).loaded mgmtCore fn rd 0

/-- A store through the footpath window. -/
def State.windowStore (s : State) (a : W64) (off n : Nat) (v : W64) (ecc : Ecc) : State :=
  if deviceMap off = .reserved then s.advance mgmtCore
  else if offE0 (deviceMap off) then
    if 8 ≤ (s.blk mgmtCore).core.remStores.length then s
    else
      let t := s.windowTarget off
      (s.storeLeaves mgmtCore (a.setWidth 48) false (s.requestTo mgmtCore t.1 t.2 6 .m (s.freshTxn mgmtCore) n [v])).advance mgmtCore
  else
    match s.mapWrite off (leBytes n v.toNat) ecc with
    | (s, .ok _) => s.advance mgmtCore
    | (s, .err e) => (s.windowError a 0 e).advance mgmtCore

/-- LOAD on the management core (R555). What units keep in retention SRAM has no layout in the manual: it reads as a free value. -/
def mgmtLoad (fn : LoadFn) (imm : BitVec 14) (ra rd : Reg) (ecc : Ecc) (s : State) : State :=
  s.issue mgmtCore fun s =>
    s.whenFree mgmtCore (if fn.toF then [ra] else [ra, rd]) (if fn.toF then [rd] else []) fun s =>
      let a := s.getG mgmtCore ra + simm14 imm
      let k := a.toNat
      let n := fn.size
      match s.mgmtAccess false n a with
      | .inl f => s.raiseSync mgmtCore f.1 f.2
      | .inr .rom => s.loaded mgmtCore fn rd (bootRomWord k n)
      | .inr .flash =>
        (match s.elt.lines.find? fun l => decide (l.line = flashLine k) with
         | some l => s.loaded mgmtCore fn rd (BitVec.ofNat 64 (leAt l.bytes (k % 32) n))
         | none => s)
      | .inr .journal => s.mgmtRead a fn rd ecc (BitVec.ofNat 64 (leAt (s.jnl.slot ((k - 0x20000000) / 64)) (k % 64) n))
      | .inr .kept => s.useFree.mgmtRead a fn rd ecc s.free
      | .inr .data => s.mgmtRead a fn rd ecc ((s.blk mgmtCore).lsWord k n)
      | .inr (.aon off) =>
        (if off / 8 * 8 = 0x200 then aonTimeNsRead s else s).loaded mgmtCore fn rd (s.aonRead (off / 8 * 8) >>> (8 * (off % 8)))
      | .inr (.window off) => s.windowLoad a off fn rd ecc

/-- STORE on the management core (R555). A store to what units keep in retention SRAM changes no structure that the manual places there. -/
def mgmtStore (fn : StoreFn) (imm : BitVec 14) (ra rs : Reg) (ecc : Ecc) (s : State) : State :=
  s.issue mgmtCore fun s =>
    s.whenFree mgmtCore (if fn.fromF then [ra] else [ra, rs]) (if fn.fromF then [rs] else []) fun s =>
      let a := s.getG mgmtCore ra + simm14 imm
      let k := a.toNat
      let n := fn.size
      let v := if fn.fromF then s.getF mgmtCore rs else s.getG mgmtCore rs
      match s.mgmtAccess true n a with
      | .inl f => s.raiseSync mgmtCore f.1 f.2
      | .inr .data => (s.lsStoreEcc mgmtCore k (leBytes n v.toNat) ecc).advance mgmtCore
      | .inr (.aon off) => let w := atBytes (off % 8) n v; (s.aonWrite (off / 8 * 8) w.1 w.2).advance mgmtCore
      | .inr (.window off) => s.windowStore a off n v ecc
      | .inr _ => s.advance mgmtCore

/-! ## LOAD and STORE -/

def execLoad (b : BlockId) (fn : LoadFn) (imm : BitVec 14) (ra rd : Reg) (ecc : Ecc) (s : State) : Host.Outcome State Fault Refusal :=
  .next (if b = mgmtCore then mgmtLoad fn imm ra rd ecc s else doLoad b fn imm ra rd ecc s)

def execStore (b : BlockId) (fn : StoreFn) (imm : BitVec 14) (ra rs : Reg) (ecc : Ecc) (s : State) : Host.Outcome State Fault Refusal :=
  .next (if b = mgmtCore then mgmtStore fn imm ra rs ecc s else doStore b fn imm ra rs ecc s)

/-! ## The line buffer (R557, R560 to R563) -/

def Elt.hasLine (e : Elt) (n : Nat) : Bool := e.lines.any fun l => decide (l.line = n)

/-- The line that the core waits for (R562): the one of its pc. -/
def State.missing (s : State) : Option Nat :=
  let n := flashLine (s.blk mgmtCore).core.pc.toNat
  if s.fromFlash mgmtCore && (s.blk mgmtCore).core.fetching && !s.elt.hasLine n then some n else none

/-- A fill of line `n` may start (R562): for a demand miss of the core, in its fetch or, while that has its line, in a load; else for the first target line
that waits, and else for the first following line; prefetches of lines that are present have been discarded. -/
def State.mayFill (s : State) (n : Nat) (demand : Bool) : Bool :=
  match s.missing with
  | some m => demand && decide (m = n)
  | none =>
    demand || decide (((s.elt.targets ++ s.elt.following).filter fun m => !s.elt.hasLine m).head? = some n)

/-- The lines after a fill: the least recently fetched line that the core is not fetching from goes when 8 are held (R560). -/
def fillLines (now : Nat) (l : LbLine) (lines : List LbLine) : List LbLine :=
  if lines.length < 8 then l :: lines
  else match (lines.reverse.find? fun x => !decide (x.line = now)) with
    | some old => l :: lines.erase old
    | none => l :: lines.take 7

/-- LINE_BUFFER_FILL (R560 to R562): one 32-byte line is read, in 75 + D acy. A prefetch of a line that is present is discarded.
DEDUCED, log entry 54. DESIGN CHOICE, log entry 57. -/
def lineBufferFill (line : BitVec 23) (demand : Bool) (bytes : List Byte) (s : State) : State :=
  let n := line.toNat
  if !s.boot.xip || s.elt.hasLine n || !s.mayFill n demand then s
  else
    let pcLine := flashLine (s.blk mgmtCore).core.pc.toNat
    let s := (s.passWithin ((75 + s.boot.dummy.toNat) * s.perAcy)).getD s
    s.modElt fun e =>
      { e with
        misses := if demand then satN e.misses else e.misses
        lines := fillLines pcLine ⟨n, padTo 32 (bytes.take 32), false⟩ e.lines
        targets := e.targets.filter fun m => !(e.hasLine m || decide (m = n))
        following := e.following.filter fun m => !(e.hasLine m || decide (m = n)) }

def execLineBufferFill (line : BitVec 23) (demand : Bool) (bytes : List Byte) (s : State) : Host.Outcome State Fault Refusal :=
  .next (lineBufferFill line demand bytes s)

end Sys2Proof.Machine
end

