-- ==== Sys2Proof/Machine/Dispatch.lean ====
section
/-! DEFINITION. One arm for each command: a direct call of its meaning, or a refusal by name while it has none. -/

namespace Sys2Proof.Machine

def exec (i : Instr) (s : State) : Host.Outcome State Fault Refusal :=
  match i with
  | .integerRegisterOp b fn rb ra rd => Sys2Proof.Machine.execIntegerRegisterOp b fn rb ra rd s
  | .integerImmediateOp b fn imm ra rd => Sys2Proof.Machine.execIntegerImmediateOp b fn imm ra rd s
  | .lui b imm rd => Sys2Proof.Machine.execLui b imm rd s
  | .lhi b imm rd => Sys2Proof.Machine.execLhi b imm rd s
  | .multiply b fn rb ra rd => Sys2Proof.Machine.execMultiply b fn rb ra rd s
  | .divideRemainder b fn rb ra rd => Sys2Proof.Machine.execDivideRemainder b fn rb ra rd s
  | .load b fn imm ra rd ecc => Sys2Proof.Machine.execLoad b fn imm ra rd ecc s
  | .store b fn imm ra rs ecc => Sys2Proof.Machine.execStore b fn imm ra rs ecc s
  | .branch b fn imm rb ra => Sys2Proof.Machine.execBranch b fn imm rb ra s
  | .jal b imm rd => Sys2Proof.Machine.execJal b imm rd s
  | .jalr b imm ra rd => Sys2Proof.Machine.execJalr b imm ra rd s
  | .fpOperation b fn rm fmt rb ra rd => Sys2Proof.Machine.execFpOperation b fn rm fmt rb ra rd s
  | .fpFusedMultiplyAdd b fn rm fmt rc rb ra rd => Sys2Proof.Machine.execFpFusedMultiplyAdd b fn rm fmt rc rb ra rd s
  | .fpConversion b rm src dst ra rd => Sys2Proof.Machine.execFpConversion b rm src dst ra rd s
  | .crr b crn rs rd => Sys2Proof.Machine.execCrr b crn rs rd s
  | .crw b crn rs rd => Sys2Proof.Machine.execCrw b crn rs rd s
  | .loop b n1 ra => Sys2Proof.Machine.execLoop b n1 ra s
  | .mwait b ch ra rd => Sys2Proof.Machine.execMwait b ch ra rd s
  | .mcount b ch rd => Sys2Proof.Machine.execMcount b ch rd s
  | .mbxSend b rb ra => Sys2Proof.Machine.execMbxSend b rb ra s
  | .mbxRecv b rd => Sys2Proof.Machine.execMbxRecv b rd s
  | .nop b => Sys2Proof.Machine.execNop b s
  | .ewait b => Sys2Proof.Machine.execEwait b s
  | .fence b imm => Sys2Proof.Machine.execFence b imm s
  | .hold b imm => Sys2Proof.Machine.execHold b imm s
  | .trap b imm => Sys2Proof.Machine.execTrap b imm s
  | .tret b ecc => Sys2Proof.Machine.execTret b ecc s
  | .brk b imm => Sys2Proof.Machine.execBrk b imm s
  | .longOperationComplete b index => Sys2Proof.Machine.execLongOperationComplete b index s
  | .remoteLoadResponse b txn data => Sys2Proof.Machine.execRemoteLoadResponse b txn data s
  | .trapEntry b why table => Sys2Proof.Machine.execTrapEntry b why table s
  | .holdWindowExpiry b => Sys2Proof.Machine.execHoldWindowExpiry b s
  | .lateStoreErrorReturn b txn err => Sys2Proof.Machine.execLateStoreErrorReturn b txn err s
  | .footpathResponseTimeout b txn => Sys2Proof.Machine.execFootpathResponseTimeout b txn s
  | .blkResumeGo b value => Sys2Proof.Machine.execBlkResumeGo b value s
  | .vectorArithmetic b op form vm vb va vd => Sys2Proof.Machine.execVectorArithmetic b op form vm vb va vd s
  | .vectorCompare b op form vm vb va vd => Sys2Proof.Machine.execVectorCompare b op form vm vb va vd s
  | .vectorReduction b op vm vb va vd => Sys2Proof.Machine.execVectorReduction b op vm vb va vd s
  | .vectorPermutation b fn ty vm vb va vd => Sys2Proof.Machine.execVectorPermutation b fn ty vm vb va vd s
  | .vcvt b rm dst src vm va vd => Sys2Proof.Machine.execVcvt b rm dst src vm va vd s
  | .vmxq b rm fmt vs va vd => Sys2Proof.Machine.execVmxq b rm fmt vs va vd s
  | .maskOperation b fn vb va vd => Sys2Proof.Machine.execMaskOperation b fn vb va vd s
  | .vcsum b vb va vd => Sys2Proof.Machine.execVcsum b vb va vd s
  | .vectorLoad b fn w vm rx ra vd => Sys2Proof.Machine.execVectorLoad b fn w vm rx ra vd s
  | .vectorStore b fn w vm rx ra vd => Sys2Proof.Machine.execVectorStore b fn w vm rx ra vd s
  | .acfill b line ra => Sys2Proof.Machine.execAcfill b line ra s
  | .acput b line vs => Sys2Proof.Machine.execAcput b line vs s
  | .acdrop b line => Sys2Proof.Machine.execAcdrop b line s
  | .acdropall b => Sys2Proof.Machine.execAcdropall b s
  | .vectorEngineStart b => Sys2Proof.Machine.execVectorEngineStart b s
  | .vectorEngineComplete b loss fixed => Sys2Proof.Machine.execVectorEngineComplete b loss fixed s
  | .mma b z mode typb typa tb ta zd => Sys2Proof.Machine.execMma b z mode typb typa tb ta zd s
  | .mmx b z mode typb typa ts tb ta zd => Sys2Proof.Machine.execMmx b z mode typb typa ts tb ta zd s
  | .tld b rs ra reg => Sys2Proof.Machine.execTld b rs ra reg s
  | .tst b rs ra reg => Sys2Proof.Machine.execTst b rs ra reg s
  | .tld6 b rs ra reg => Sys2Proof.Machine.execTld6 b rs ra reg s
  | .tst6 b rs ra reg => Sys2Proof.Machine.execTst6 b rs ra reg s
  | .zld b rs ra reg => Sys2Proof.Machine.execZld b rs ra reg s
  | .zst b rs ra reg => Sys2Proof.Machine.execZst b rs ra reg s
  | .zclr b reg => Sys2Proof.Machine.execZclr b reg s
  | .tfromv b tz v => Sys2Proof.Machine.execTfromv b tz v s
  | .tov b tz v => Sys2Proof.Machine.execTov b tz v s
  | .zfromv b h tz v => Sys2Proof.Machine.execZfromv b h tz v s
  | .ztov b h tz v => Sys2Proof.Machine.execZtov b h tz v s
  | .zcvt b isrc rm dst zn vd => Sys2Proof.Machine.execZcvt b isrc rm dst zn vd s
  | .matrixUnitStart b => Sys2Proof.Machine.execMatrixUnitStart b s
  | .matrixUnitComplete b unit loss fixed => Sys2Proof.Machine.execMatrixUnitComplete b unit loss fixed s
  | .epochBoundary => Sys2Proof.Machine.execEpochBoundary s
  | .gateInstant => Sys2Proof.Machine.execGateInstant s
  | .gateDecisionEffect missed => Sys2Proof.Machine.execGateDecisionEffect missed s
  | .epochEnd => Sys2Proof.Machine.execEpochEnd s
  | .planStartTime => Sys2Proof.Machine.execPlanStartTime s
  | .planStopBoundary => Sys2Proof.Machine.execPlanStopBoundary s
  | .powerEntryApply b => Sys2Proof.Machine.execPowerEntryApply b s
  | .wakeComplete b => Sys2Proof.Machine.execWakeComplete b s
  | .clkReqWrite b value => Sys2Proof.Machine.execClkReqWrite b value s
  | .quarterPllStart q => Sys2Proof.Machine.execQuarterPllStart q s
  | .quarterPllRelease q => Sys2Proof.Machine.execQuarterPllRelease q s
  | .quarterPllStop q => Sys2Proof.Machine.execQuarterPllStop q s
  | .messageSend src ecc => Sys2Proof.Machine.execMessageSend src ecc s
  | .crossingFlitArrival at_ noise => Sys2Proof.Machine.execCrossingFlitArrival at_ noise s
  | .landingFlitVisible at_ => Sys2Proof.Machine.execLandingFlitVisible at_ s
  | .holdBufferEntry at_ => Sys2Proof.Machine.execHoldBufferEntry at_ s
  | .messageRelease at_ index => Sys2Proof.Machine.execMessageRelease at_ index s
  | .ucieFrameReceive at_ frame => Sys2Proof.Machine.execUcieFrameReceive at_ frame s
  | .footpathPacketReceive node pkt from_ ecc => Sys2Proof.Machine.execFootpathPacketReceive node pkt from_ ecc s
  | .fecBlockReceive p blk => Sys2Proof.Machine.execFecBlockReceive p blk s
  | .linkTransmitEntry p => Sys2Proof.Machine.execLinkTransmitEntry p s
  | .milestoneSend p first => Sys2Proof.Machine.execMilestoneSend p first s
  | .unplannedFrameSend p vc dst src kind ttl payload => Sys2Proof.Machine.execUnplannedFrameSend p vc dst src kind ttl payload s
  | .unplannedRetryTimeout p => Sys2Proof.Machine.execUnplannedRetryTimeout p s
  | .linkSignalDetect p => Sys2Proof.Machine.execLinkSignalDetect p s
  | .linkTrainComplete p flight => Sys2Proof.Machine.execLinkTrainComplete p flight s
  | .linkTrainTimeout p => Sys2Proof.Machine.execLinkTrainTimeout p s
  | .capsComplete p peer => Sys2Proof.Machine.execCapsComplete p peer s
  | .surveyIdentitySend p => Sys2Proof.Machine.execSurveyIdentitySend p s
  | .retrainTrigger p cause => Sys2Proof.Machine.execRetrainTrigger p cause s
  | .retrainComplete p flight peer => Sys2Proof.Machine.execRetrainComplete p flight peer s
  | .retrainTimeout p => Sys2Proof.Machine.execRetrainTimeout p s
  | .lnkRetrainRequest p => Sys2Proof.Machine.execLnkRetrainRequest p s
  | .lnkEnableChange p en => Sys2Proof.Machine.execLnkEnableChange p en s
  | .sqDoorbellWrite q value => Sys2Proof.Machine.execSqDoorbellWrite q value s
  | .cqDoorbellWrite q value => Sys2Proof.Machine.execCqDoorbellWrite q value s
  | .entryFetch q entries => Sys2Proof.Machine.execEntryFetch q entries s
  | .completionWrite q => Sys2Proof.Machine.execCompletionWrite q s
  | .irqDelayTimeout q => Sys2Proof.Machine.execIrqDelayTimeout q s
  | .queueEnable q => Sys2Proof.Machine.execQueueEnable q s
  | .queueDisable q => Sys2Proof.Machine.execQueueDisable q s
  | .functionLevelReset => Sys2Proof.Machine.execFunctionLevelReset s
  | .d3hotEntry => Sys2Proof.Machine.execD3hotEntry s
  | .d0Return => Sys2Proof.Machine.execD0Return s
  | .bar2Write off data => Sys2Proof.Machine.execBar2Write off data s
  | .bar2Read off len via => Sys2Proof.Machine.execBar2Read off len via s
  | .dictWindowAccess req ecc => Sys2Proof.Machine.execDictWindowAccess req ecc s
  | .nopCommand seq => Sys2Proof.Machine.execNopCommand seq s
  | .planLoad seq => Sys2Proof.Machine.execPlanLoad seq s
  | .planBind seq image => Sys2Proof.Machine.execPlanBind seq image s
  | .planStart seq => Sys2Proof.Machine.execPlanStart seq s
  | .planStop seq => Sys2Proof.Machine.execPlanStop seq s
  | .planUnload seq => Sys2Proof.Machine.execPlanUnload seq s
  | .intakeWrite seq => Sys2Proof.Machine.execIntakeWrite seq s
  | .outletRead seq => Sys2Proof.Machine.execOutletRead seq s
  | .tensorWrite seq => Sys2Proof.Machine.execTensorWrite seq s
  | .tensorRead seq => Sys2Proof.Machine.execTensorRead seq s
  | .fenceCommand seq => Sys2Proof.Machine.execFenceCommand seq s
  | .journalMark seq => Sys2Proof.Machine.execJournalMark seq s
  | .healthSweep seq => Sys2Proof.Machine.execHealthSweep seq s
  | .repairApply seq => Sys2Proof.Machine.execRepairApply seq s
  | .traceArm seq => Sys2Proof.Machine.execTraceArm seq s
  | .traceDrain seq => Sys2Proof.Machine.execTraceDrain seq s
  | .dictRead seq => Sys2Proof.Machine.execDictRead seq s
  | .dictWrite seq data => Sys2Proof.Machine.execDictWrite seq data s
  | .journalCommit => Sys2Proof.Machine.execJournalCommit s
  | .eventRaise kind ref_ result tag => Sys2Proof.Machine.execEventRaise kind ref_ result tag s
  | .summaryClose => Sys2Proof.Machine.execSummaryClose s
  | .journalWindowRead slot ecc => Sys2Proof.Machine.execJournalWindowRead slot ecc s
  | .eletteFrameReceive addresses ethertype version count area content => Sys2Proof.Machine.execEletteFrameReceive addresses ethertype version count area content s
  | .eletteReturnForward frame => Sys2Proof.Machine.execEletteReturnForward frame s
  | .eletteFrameEndApply fcs rxErr t1 => Sys2Proof.Machine.execEletteFrameEndApply fcs rxErr t1 s
  | .sget dg ecc => Sys2Proof.Machine.execSget dg ecc s
  | .sput dg => Sys2Proof.Machine.execSput dg s
  | .pget dg ecc => Sys2Proof.Machine.execPget dg ecc s
  | .pput dg => Sys2Proof.Machine.execPput dg s
  | .gather dg ecc => Sys2Proof.Machine.execGather dg ecc s
  | .allput dg => Sys2Proof.Machine.execAllput dg s
  | .tlatch dg => Sys2Proof.Machine.execTlatch dg s
  | .tdist dg => Sys2Proof.Machine.execTdist dg s
  | .phyLinkPoll link0 link1 => Sys2Proof.Machine.execPhyLinkPoll link0 link1 s
  | .deferredRequestServed => Sys2Proof.Machine.execDeferredRequestServed s
  | .deferredRequestTimeout => Sys2Proof.Machine.execDeferredRequestTimeout s
  | .mailboxEntryRemove path tag => Sys2Proof.Machine.execMailboxEntryRemove path tag s
  | .lineBufferFill line demand bytes => Sys2Proof.Machine.execLineBufferFill line demand bytes s
  | .flashCopyCommit written => Sys2Proof.Machine.execFlashCopyCommit written s
  | .challenge path => Sys2Proof.Machine.execChallenge path s
  | .response path bytes => Sys2Proof.Machine.execResponse path bytes s
  | .leaseEndRequest path value => Sys2Proof.Machine.execLeaseEndRequest path value s
  | .leaseExpiry path => Sys2Proof.Machine.execLeaseExpiry path s
  | .lockoutExpiry path => Sys2Proof.Machine.execLockoutExpiry path s
  | .custodianKeyWrite path slot key => Sys2Proof.Machine.execCustodianKeyWrite path slot key s
  | .deviceStateRequest path value => Sys2Proof.Machine.execDeviceStateRequest path value s
  | .fastResetRequest path value => Sys2Proof.Machine.execFastResetRequest path value s
  | .retentionClearRequest path value => Sys2Proof.Machine.execRetentionClearRequest path value s
  | .rstNOverride path value => Sys2Proof.Machine.execRstNOverride path value s
  | .restrictedOverride path value => Sys2Proof.Machine.execRestrictedOverride path value s
  | .alignLossClear path p value => Sys2Proof.Machine.execAlignLossClear path p value s
  | .apply path value => Sys2Proof.Machine.execApply path value s
  | .aonTimeNsRead => Sys2Proof.Machine.execAonTimeNsRead s
  | .timeSecondRollover => Sys2Proof.Machine.execTimeSecondRollover s
  | .ppsEdge sub => Sys2Proof.Machine.execPpsEdge sub s
  | .timeLockTimeout => Sys2Proof.Machine.execTimeLockTimeout s
  | .ppsOutput => Sys2Proof.Machine.execPpsOutput s
  | .clockMonitorFailure d port stopped ppm => Sys2Proof.Machine.execClockMonitorFailure d port stopped ppm s
  | .clockMonitorGood d ppm => Sys2Proof.Machine.execClockMonitorGood d ppm s
  | .aonPowerOn ticks damage sound pages => Sys2Proof.Machine.execAonPowerOn ticks damage sound pages s
  | .bootSequence inp => Sys2Proof.Machine.execBootSequence inp s
  | .powerUpStep => Sys2Proof.Machine.execPowerUpStep s
  | .powerStepTimeout rail => Sys2Proof.Machine.execPowerStepTimeout rail s
  | .powerDownOrder => Sys2Proof.Machine.execPowerDownOrder s
  | .powerFailWarning => Sys2Proof.Machine.execPowerFailWarning s
  | .powerFailRecovery => Sys2Proof.Machine.execPowerFailRecovery s
  | .vretTrip => Sys2Proof.Machine.execVretTrip s
  | .arm => Sys2Proof.Machine.execArm s
  | .railPoll readings => Sys2Proof.Machine.execRailPoll readings s
  | .smbalertN reading => Sys2Proof.Machine.execSmbalertN reading s
  | .fastDomainReset source => Sys2Proof.Machine.execFastDomainReset source s
  | .fastDomainRelease source => Sys2Proof.Machine.execFastDomainRelease source s
  | .rstNAssert => Sys2Proof.Machine.execRstNAssert s
  | .rstNDeassert ms => Sys2Proof.Machine.execRstNDeassert ms s
  | .resetStuck => Sys2Proof.Machine.execResetStuck s
  | .perstNAssert => Sys2Proof.Machine.execPerstNAssert s
  | .perstNDeassert => Sys2Proof.Machine.execPerstNDeassert s
  | .kick => Sys2Proof.Machine.execKick s
  | .watchdogExpiry => Sys2Proof.Machine.execWatchdogExpiry s
  | .confirmation rollOk revokeOk => Sys2Proof.Machine.execConfirmation rollOk revokeOk s
  | .scrubLine b find => Sys2Proof.Machine.execScrubLine b find s
  | .retentionScrub find => Sys2Proof.Machine.execRetentionScrub find s
  | .sweepWindowSegment b failedTest unrestored => Sys2Proof.Machine.execSweepWindowSegment b failedTest unrestored s
  | .sweepEnd => Sys2Proof.Machine.execSweepEnd s
  | .tracePacketClose b why => Sys2Proof.Machine.execTracePacketClose b why s
  | .tracePacketTimeout b => Sys2Proof.Machine.execTracePacketTimeout b s
  | .gts b => Sys2Proof.Machine.execGts b s
  | .syncReq b => Sys2Proof.Machine.execSyncReq b s
  | .trcMarkWrite b value => Sys2Proof.Machine.execTrcMarkWrite b value s
  | .sinkStore die hostOk => Sys2Proof.Machine.execSinkStore die hostOk s
  | .traceTransitTimeout b => Sys2Proof.Machine.execTraceTransitTimeout b s
  | .traceDisarmComplete => Sys2Proof.Machine.execTraceDisarmComplete s
  | .sensorConversion site reading => Sys2Proof.Machine.execSensorConversion site reading s
  | .thermtripAssert site => Sys2Proof.Machine.execThermtripAssert site s
  | .thermtripRelease => Sys2Proof.Machine.execThermtripRelease s
  | .registerWrite space off value bytes => Sys2Proof.Machine.execRegisterWrite space off value bytes s
  | .pickup at_ => Sys2Proof.Machine.execPickup at_ s
  | .commandCompletion seq ending => Sys2Proof.Machine.execCommandCompletion seq ending s
  | .lossOfVaon18 beats => Sys2Proof.Machine.execLossOfVaon18 beats s
  | .frequencyLockLoss => Sys2Proof.Machine.execFrequencyLockLoss s
  | .slewEnd => Sys2Proof.Machine.execSlewEnd s
  | .debug scan => Sys2Proof.Machine.execDebug scan s

end Sys2Proof.Machine
end

