-- ==== Sys2Proof/Machine/Step.lean ====
section
/-! DEFINITION. One step: the command at the front of the queue, or one tick of the clock when none waits. -/

namespace Sys2Proof.Machine

/-- The queue without its front, and everything else as it is. -/
def State.popped (s : State) (rest : List Instr) : State := { s with pending := rest }

/-- One step. With no command waiting, one cycle of the fast domain passes, and the ports send the blocks that begin in it (DESIGN CHOICE, log entries 4,
72). -/
def step (s : State) : Host.Outcome State Fault Refusal :=
  match s.pending with
  | [] => .next s.tick.sendLinks
  | c :: rest => exec c (s.popped rest)

/-- The state with the command that a word spells at the front of its queue. DESIGN CHOICE, log entry 6. -/
def State.withFetchWord (s : State) (nbits w : Nat) : State :=
  match decodeTableWord nbits w with
  | some c => { s with pending := c :: s.pending }
  | none => s

end Sys2Proof.Machine
end

