-- ==== Sys2Proof/Safety.lean ====
section
/-! DEFINITION. What counts as a safe step and a safe run, and the conditions and parts of the state that the statements name. -/

namespace Sys2Proof

open Sys2Proof.Machine

/-- The step answers a next state. -/
def Safe (s : State) : Prop := ∃ t, step s = .next t

namespace Machine

/-! ## The invariant -/

/-- What R28, R50 and R53 say of the device number, the epoch exponent and the epoch in progress in each plan state. -/
def planOk (p : PlanSt) (valid : Bool) (num : BitVec 7) (k : Nat) (active : Bool) : Prop :=
  match p with
  | .empty => valid = false ∧ num = 0 ∧ k = 0 ∧ active = false
  | .loading => valid = false ∧ num = 0 ∧ k = 0 ∧ active = false
  | .loaded => valid = false ∧ num = 0 ∧ k = 0 ∧ active = false
  | .unloading => valid = false → num = 0 ∧ k = 0 ∧ active = false
  | .bound => valid = true ∧ active = false
  | .starting => valid = true ∧ active = false
  | .running => valid = true ∧ active = true
  | .stopping => valid = true
  | .halted => valid = true

/-- The invariant of the machine. -/
structure Inv (s : State) : Prop where
  /-- NS of the system time stays below 10^9 (R588, R657). -/
  time : s.time.ns < 1000000000
  /-- The event FIFO holds 128 items at most (R539). -/
  fifo : s.jnl.fifo.length ≤ 128
  /-- The journal ring has 4,096 slots of 64 bytes (R526). -/
  ring : ∀ e ∈ s.jnl.ring, e.1 < 4096 ∧ e.2.length = 64
  /-- Host memory is in canonical form. -/
  host : Memory.wf s.hostMem = true
  /-- The plan state fits the device number, the epoch exponent and the epoch in progress (R28, R50, R53). -/
  plan : planOk s.plan s.devValid s.devNum s.k s.epoch.active

/-! ## Conditions of the statements about instructions -/

/-- An instruction of block `b` stands in RD and its fetch is permitted: the core fetches, the block is in RUN and its clock runs, no fault and no
asynchronous event waits for trap entry (R108, R138, R371), and on the management core the line buffer holds what it fetches (R560). Such an instruction
runs on `s.lineFetched b`, which is `s` itself but for a fetch of the management core from the flash window. -/
def State.canIssue (s : State) (b : BlockId) : Bool := s.live b && s.mayFetch b && s.lineReady b

/-- The encoding of an instruction is one that the core of `b` decodes (R180, R252, R304, R556). -/
def decodes (b : BlockId) (i : Instr) : Bool := !(reserved i || (decide (b = mgmtCore) && offMgmt ((instrWord i).getD 0)))

/-- It may issue: no outstanding operation will write a g register of `gs` or an f register of `fs`, the registers that it names (R108, R113). -/
def State.mayIssue (s : State) (b : BlockId) (gs fs : List Reg) : Bool := s.canIssue b && (s.blk b).free gs fs

/-- The core after an instruction that retires at a count of its clock without redirecting control (R116, R119). -/
def Core.stepped (c : Core) (now : Nat) : Core := { c.onward now with retired := c.retired + 1, loopOld := none }

/-- The core of block `b` after an instruction that retires without redirecting control. -/
def State.next (s : State) (b : BlockId) : Core := (s.blk b).core.stepped (s.ticks b)

/-! ## Registers and bytes, as the statements read them -/

/-- The destination of an instruction reads as `v`: register `rd` of f or of g, of which g0 reads as 0 (R92). -/
def State.wrote (t : State) (b : BlockId) (toF : Bool) (rd : Reg) (v : W64) : Prop :=
  (toF = true → t.getF b rd = v) ∧ (toF = false → t.getG b rd = if rd = 0 then 0 else v)

/-- The number that `n` bytes of a memory from `a` spell, least significant first (R7). -/
def bytesAt (m : Memory) (a n : Nat) : Nat := ((List.range n).map fun i => (mget m (a + i)).toNat * 256 ^ i).sum

/-- Memory `t` is memory `s` with the low `n` bytes of a number stored from `a`, least significant first (R7): every other byte is as before. -/
def storedAt (s t : Memory) (a n v : Nat) : Prop :=
  ∀ k, mget t k = if a ≤ k ∧ k < a + n then BitVec.ofNat 8 (v / 256 ^ (k - a)) else mget s k

/-! ## The engines, as the statements read them -/

/-- What the management core fetches through is as in `t`: the line buffer, the branch-target entries and the prefetches (R560 to R563). -/
def State.withFetchOf (s t : State) : State :=
  { s with elt := { s.elt with lines := t.elt.lines, btb := t.elt.btb, targets := t.elt.targets, following := t.elt.following } }

/-- Every block but `b`, and everything outside the blocks, is as before, but for what the management core fetches through. -/
def OnlyBlock (b : BlockId) (s t : State) : Prop :=
  { t.withFetchOf s with blocks := s.blocks } = s ∧ (b ≠ mgmtCore → t.elt = s.elt) ∧ ∀ c, c ≠ b → t.blk c = s.blk c

/-- Element `i` of width `w` of the group that begins at vector register `r` (R233, R253). -/
def Vec.elem (x : Vec) (r w i : Nat) : Nat := (look 0 x.v (r + i * w / 16384)).toNat / 2 ^ (i * w % 16384) % 2 ^ w

/-- Element `i` of width `w` is active under mask register `vm` (R234). -/
def Vec.isActive (x : Vec) (vm : BitVec 3) (w i : Nat) : Bool := vm = 0 || (x.mask vm.toNat).testBit (i % (16384 / w))

/-- Byte `i` of a tile register and of an accumulator tile (R289, R291). -/
def Mtx.tileByte (x : Mtx) (n : BitVec 3) (i : Nat) : Nat := (look 0 x.t n.toNat).toNat / 256 ^ i % 256
def Mtx.accByte (x : Mtx) (n : BitVec 3) (i : Nat) : Nat := (look 0 x.z n.toNat).toNat / 256 ^ i % 256

/-- Instruction `c` has gone to the dispatch queue of block `b` with its pc, the group size of its issue, the scalar operands `sa` and `sb`, the
rounding mode and the `n` draws that it takes of the generator when it starts (R109, R127, R145, R205, R240), and the core has gone on. -/
structure Dispatched (b : BlockId) (c : Instr) (sa sb : W64) (rm : BitVec 3) (n : Nat) (s t : State) : Prop where
  queue : (t.blk b).queue = (s.blk b).queue ++ [⟨c, s.pcOf b, sa, sb, (s.blk b).vec.grp, rm, n, 0⟩]
  pc : t.pcOf b = (s.next b).pc
  fp : (t.blk b).fp = (s.blk b).fp
  keep : OnlyBlock b s t ∧ (t.blk b).ls = (s.blk b).ls ∧ (t.blk b).vec = (s.blk b).vec ∧ (t.blk b).mtx = (s.blk b).mtx ∧
    (∀ r, t.getG b r = s.getG b r ∧ t.getF b r = s.getF b r)

/-- Instruction `c` has raised a fault in RD and changed nothing else (R139). -/
def Faulted (b : BlockId) (cause : Nat) (value : W64) (elem : Option Nat) (isRow : Bool) (s t : State) : Prop :=
  t = (s.lineFetched b).modBlk b fun x => { x with core := { x.core with fault := some ⟨BitVec.ofNat 6 cause, value, x.core.pc, elem, isRow⟩ } }

/-- Command `c` has ended with STATUS `st` and RESULT `v`: its DONE or FAILED record waits for its commit (R496, R527). -/
def EndsWith (t : State) (c : Cmd) (st : BitVec 16) (v : W64) : Prop :=
  t.findCmd c.seq = some { c with phase := .ending, status := st, result := v } ∧
  ∃ l r, t.jnl.cmdRecs = l ++ [r] ∧ r.ty = (if st.toNat ≤ 1 then 3 else 4) ∧ r.ref = c.seq ∧ r.tag = c.tag ∧ r.status = st ∧ r.result = v

/-- Command `c` runs, and COMMAND_COMPLETION is to end it. -/
def Runs (t : State) (c : Cmd) : Prop := ∃ d, t.findCmd c.seq = some d ∧ d.phase = .running ∧ d.entry = c.entry ∧ d.queue = c.queue

/-! ## What the frames of the statements keep -/

/-- A block keeps everything but its core and the records of its trace unit: local store, instruction memory, control registers of privilege,
floating point, the engines, the crossing, the message engine, the clock branches and the mailbox. -/
def CoreOnly (x y : Block) : Prop := y = { x with core := y.core, trc := y.trc }

/-- The same, but for the floating-point status too. -/
def CoreFpOnly (x y : Block) : Prop := y = { x with core := y.core, fp := y.fp, trc := y.trc }

end Machine

end Sys2Proof
end

