-- ==== Sys2Proof/Certificates/Slice0/Obligations.lean ====
section
/-! DEFINITION. The statements for the provers. Each docstring names the rules of spec/ that its statement formalises or rests on. -/

open Sys2Proof Sys2Proof.Machine

/-! ## The machine as a whole -/

/-- A step takes the command at the front of the queue and runs it on the state with the rest of the queue; with no command waiting, one cycle of the
fast domain passes, and the ports send the blocks that begin in it. Where the model chose or inferred: log entries 4, 72. -/
def Obligations.StepRunsFront : Prop :=
  (∀ (c : Instr) (rest : List Instr) (s : State), step { s with pending := c :: rest } = exec c { s with pending := rest }) ∧
  (∀ s : State, s.pending = [] → step s = .next s.tick.sendLinks)

/-- The state after reset has the invariant. -/
def Obligations.ResetHasInvariant : Prop :=
 Inv State.reset

/-- Every block after block reset (R93), which is how State.reset leaves every block: its core runs at level M, its program counter is 0, every g and
f register holds 0, and the dispatch queue is empty. -/
def Obligations.ResetValues : Prop :=
  ∀ b : BlockId, State.reset.blk b = Block.reset ∧ (State.reset.blk b).core.fetching = true ∧ (State.reset.blk b).priv.ctx = .m ∧
    State.reset.pcOf b = 0 ∧ (∀ r, State.reset.getG b r = 0 ∧ State.reset.getF b r = 0) ∧ (State.reset.blk b).queue = []

/-- Every step from a state with the invariant answers a next state, which has the invariant: NS stays below 10^9 (R588, R657), the event FIFO holds
at most 128 items (R539), the journal ring keeps its 4,096 slots of 64 bytes (R526), host memory keeps its canonical form, and the plan state fits the
device number, the epoch exponent and the epoch in progress (R28, R50, R53). The step takes exactly the front command off the queue. Where the model
chose or inferred: log entries 4, 5. -/
def Obligations.StepKeepsInvariant : Prop :=
  ∀ s : State, Inv s → ∃ t, step s = .next t ∧ Inv t ∧ t.pending = s.pending.tail

/-! ## Block core: integer instructions -/

/-- What the integer operations compute (R148), each over the numbers that its operands stand for. The immediate forms (R141, R149): add and compare
take imm14 sign-extended, the logical forms zero-extended, the shifts its low six bits. -/
def Obligations.IntegerOpValues : Prop :=
  (∀ a b : W64,
     (intOp .add a b).toNat = (a.toNat + b.toNat) % 2 ^ 64 ∧
     (intOp .sub a b).toInt = (a.toInt - b.toInt).bmod (2 ^ 64) ∧
     (∀ i < 64, (intOp .and a b).getLsbD i = (a.getLsbD i && b.getLsbD i) ∧ (intOp .or a b).getLsbD i = (a.getLsbD i || b.getLsbD i) ∧
       (intOp .xor a b).getLsbD i = (a.getLsbD i != b.getLsbD i) ∧ (intOp .andn a b).getLsbD i = (a.getLsbD i && !b.getLsbD i)) ∧
     (intOp .sll a b).toNat = a.toNat * 2 ^ (b.toNat % 64) % 2 ^ 64 ∧
     (intOp .srl a b).toNat = a.toNat / 2 ^ (b.toNat % 64) ∧
     (intOp .sra a b).toInt = a.toInt / 2 ^ (b.toNat % 64) ∧
     intOp .slt a b = (if a.toInt < b.toInt then 1 else 0) ∧
     intOp .sltu a b = (if a.toNat < b.toNat then 1 else 0) ∧
     intOp .seq a b = (if a = b then 1 else 0) ∧
     (intOp .min a b).toInt = min a.toInt b.toInt ∧ (intOp .max a b).toInt = max a.toInt b.toInt ∧
     (intOp .minu a b).toNat = min a.toNat b.toNat ∧ (intOp .maxu a b).toNat = max a.toNat b.toNat ∧
     (intOp .addw a b).toInt = (a.toInt + b.toInt).bmod (2 ^ 32) ∧ (intOp .subw a b).toInt = (a.toInt - b.toInt).bmod (2 ^ 32) ∧
     (intOp .sllw a b).toInt = (a.toInt * 2 ^ (b.toNat % 32)).bmod (2 ^ 32) ∧
     (intOp .srlw a b).toInt = ((a.toNat % 2 ^ 32 / 2 ^ (b.toNat % 32) : Nat) : Int).bmod (2 ^ 32) ∧
     (intOp .sraw a b).toInt = a.toInt.bmod (2 ^ 32) / 2 ^ (b.toNat % 32) ∧
     (a = 0 → intOp .clz a b = 64 ∧ intOp .ctz a b = 64) ∧
     (a ≠ 0 → 2 ^ (63 - (intOp .clz a b).toNat) ≤ a.toNat ∧ a.toNat < 2 ^ (64 - (intOp .clz a b).toNat) ∧
       a.getLsbD (intOp .ctz a b).toNat = true ∧ ∀ i < (intOp .ctz a b).toNat, a.getLsbD i = false) ∧
     (intOp .popc a b).toNat = ((List.range 64).filter fun i => a.getLsbD i).length ∧
     (intOp .sextb a b).toInt = a.toInt.bmod (2 ^ 8) ∧ (intOp .sexth a b).toInt = a.toInt.bmod (2 ^ 16) ∧
     (intOp .sextw a b).toInt = a.toInt.bmod (2 ^ 32) ∧
     (intOp .zextb a b).toNat = a.toNat % 2 ^ 8 ∧ (intOp .zexth a b).toNat = a.toNat % 2 ^ 16 ∧
     (intOp .zextw a b).toNat = a.toNat % 2 ^ 32 ∧
     (∀ i < 8, (intOp .bswap a b).toNat / 256 ^ i % 256 = a.toNat / 256 ^ (7 - i) % 256)) ∧
  ∀ (a : W64) (imm : BitVec 14),
    (immOp .addi a imm).toInt = (a.toInt + imm.toInt).bmod (2 ^ 64) ∧
    (immOp .addiw a imm).toInt = (a.toInt + imm.toInt).bmod (2 ^ 32) ∧
    (immOp .andi a imm).toNat = a.toNat &&& imm.toNat ∧ (immOp .ori a imm).toNat = a.toNat ||| imm.toNat ∧
    (immOp .xori a imm).toNat = a.toNat ^^^ imm.toNat ∧
    immOp .slti a imm = (if a.toInt < imm.toInt then 1 else 0) ∧
    immOp .sltiu a imm = (if a.toNat < (imm.toInt % 2 ^ 64).toNat then 1 else 0) ∧
    (immOp .slli a imm).toNat = a.toNat * 2 ^ (imm.toNat % 64) % 2 ^ 64 ∧
    (immOp .srli a imm).toNat = a.toNat / 2 ^ (imm.toNat % 64) ∧
    (immOp .srai a imm).toInt = a.toInt / 2 ^ (imm.toNat % 64)

/-- Products, quotients and remainders (R151), of a divisor that is not 0; the signed quotient is truncated toward zero and the signed remainder takes
the sign of the dividend. The special cases of divide and remainder at every width (R152): a divisor of 0 gives the quotient 0 and the remainder that
is the dividend; the most negative dividend by −1 gives the dividend and 0. The dividend of a 32-bit form is bits [31:0], sign-extended. -/
def Obligations.MultiplyDivideValues : Prop :=
  (∀ a b : W64,
     (mulOp .mul a b).toNat = a.toNat * b.toNat % 2 ^ 64 ∧
     (mulOp .mulh a b).toInt = a.toInt * b.toInt / 2 ^ 64 ∧
     (mulOp .mulhu a b).toNat = a.toNat * b.toNat / 2 ^ 64 ∧
     (mulOp .mulhsu a b).toInt = a.toInt * b.toNat / 2 ^ 64 ∧
     (mulOp .mulw a b).toInt = (a.toInt * b.toInt).bmod (2 ^ 32) ∧
     (b ≠ 0 → (divOp .div a b).toInt = (a.toInt.tdiv b.toInt).bmod (2 ^ 64) ∧ (divOp .rem a b).toInt = a.toInt.tmod b.toInt ∧
       (divOp .divu a b).toNat = a.toNat / b.toNat ∧ (divOp .remu a b).toNat = a.toNat % b.toNat) ∧
     (b.setWidth 32 ≠ 0#32 →
       (divOp .divw a b).toInt = ((a.toInt.bmod (2 ^ 32)).tdiv (b.toInt.bmod (2 ^ 32))).bmod (2 ^ 32) ∧
       (divOp .remw a b).toInt = (a.toInt.bmod (2 ^ 32)).tmod (b.toInt.bmod (2 ^ 32)) ∧
       (divOp .divuw a b).toInt = ((a.toNat % 2 ^ 32 / (b.toNat % 2 ^ 32) : Nat) : Int).bmod (2 ^ 32) ∧
       (divOp .remuw a b).toInt = ((a.toNat % 2 ^ 32 % (b.toNat % 2 ^ 32) : Nat) : Int).bmod (2 ^ 32))) ∧
  ∀ a b : W64,
    (b = 0 → divOp .div a b = 0 ∧ divOp .divu a b = 0 ∧ divOp .rem a b = a ∧ divOp .remu a b = a) ∧
    (b.setWidth 32 = 0#32 → divOp .divw a b = 0 ∧ divOp .divuw a b = 0 ∧ divOp .remw a b = (a.setWidth 32).signExtend 64 ∧
      divOp .remuw a b = (a.setWidth 32).signExtend 64) ∧
    (a = 0x8000000000000000 ∧ b = -1 → divOp .div a b = a ∧ divOp .rem a b = 0) ∧
    (a.setWidth 32 = 0x80000000#32 ∧ b.setWidth 32 = (-1 : BitVec 32) → divOp .divw a b = 0xFFFFFFFF80000000 ∧ divOp .remw a b = 0)

/-- The integer instructions that write through the pipe (R108, R148, R149): each writes its result to rd and goes on. A unary operation carries rb 0,
and a shift immediate carries a shift amount below 64 (R141). They run on the management core too (R556), whose fetch `lineFetched` is. -/
def Obligations.IntegerInstructionsComplete : Prop :=
  ∀ (s : State) (b : BlockId) (rb ra rd : Reg),
    (∀ fn, s.mayIssue b [ra, rb, rd] [] = true → (fn.unary = true → rb = 0) →
      exec (.integerRegisterOp b fn rb ra rd) s = .next (((s.lineFetched b).setG b rd (intOp fn (s.getG b ra) (s.getG b rb))).advance b)) ∧
    (∀ fn imm, s.mayIssue b [ra, rd] [] = true → (fn.isShift = true → imm.toNat < 64) →
      exec (.integerImmediateOp b fn imm ra rd) s = .next (((s.lineFetched b).setG b rd (immOp fn (s.getG b ra) imm)).advance b))

/-- lui and lhi (R150): lui writes sext(imm19) << 13, and lhi replaces bits [63:32] of rd, which it also reads, with bits [31:0] of sext(imm19). The
sequence lui, ori, lhi builds every value whose bits [63:32] lie in −262,144 to 262,143; mov rd, ra is or rd, ra, g0. -/
def Obligations.LuiLhiComplete : Prop :=
  (∀ (s : State) (b : BlockId) (imm : BitVec 19) (rd : Reg), s.mayIssue b [rd] [] = true →
    exec (.lui b imm rd) s = .next (((s.lineFetched b).setG b rd (imm.signExtend 64 <<< 13)).advance b) ∧
    exec (.lhi b imm rd) s = .next (((s.lineFetched b).setG b rd ((imm.signExtend 64).setWidth 32 ++ (s.getG b rd).setWidth 32)).advance b)) ∧
  (∀ (s : State) (b : BlockId) (ra rd : Reg), s.mayIssue b [ra, 0, rd] [] = true →
    exec (.integerRegisterOp b .or 0 ra rd) s = .next (((s.lineFetched b).setG b rd (s.getG b ra)).advance b)) ∧
  ∀ v : W64, -262144 ≤ v.toInt / 2 ^ 32 → v.toInt / 2 ^ 32 ≤ 262143 → ∃ (i k : BitVec 19) (j : BitVec 14),
    (k.signExtend 64).setWidth 32 ++ (immOp .ori (i.signExtend 64 <<< 13) j).setWidth 32 = v

/-- Every register of a core reads as the last write left it: g0 reads as 0 and discards writes, and an f register takes every bit (R92). A control
register of a block reads as the last write left it, its reserved and read-only bits as the manual says (R99 to R105, R238, R336 to R342, R381 to R387,
R633), and of the management core a register of its scalar core does. A narrow footpath write changes the bytes that it carries alone (R99).
Registers of the host interface and of the AON domain read as the last write left them (R477, R480, R557, R558, R630, R660); the host's writes need
memory decoding enabled (log entry 75). -/
def Obligations.RegistersReadBack : Prop :=
  (∀ (s : State) (b : BlockId) (r q : Reg) (v : W64),
     (s.setG b r v).getG b q = (if q = 0 then 0 else if q = r then v else s.getG b q) ∧
     (s.setG b r v).getF b q = s.getF b q ∧
     ((s.blk b).core.setF r v).getF q = (if q = r then v else s.getF b q) ∧ ((s.blk b).core.setF r v).getG q = s.getG b q) ∧
  (∀ (s : State) (b : BlockId) (c : Ctx) (v : W64), b ≠ mgmtCore →
     let after off := (s.crWrite b (.core c) off v allBytes).crRead b off .m
     after 0x38 = v &&& 0xFFFFFFFFFFFC ∧ after 0x40 = v &&& 0xFFFFFFFF ∧ after 0x48 = v &&& 0x807FFFFFFFFFFFFC ∧
     after 0x410 = v &&& 0xFFFFFFFFFE01 ∧ after 0x418 = v &&& 0xFFFFFFFFFE01 ∧ after 0x420 = v &&& 0xFFFFFFFFFE01 ∧
     after 0x428 = v &&& 0xFFFFFFFFFE00 ∧ after 0x430 = v &&& 0xFFFFFFFFFE00 ∧
     after 0x438 = v &&& 0x11FFFE ∧ after 0x440 = v &&& 0x11FFFE ∧ after 0x448 = v &&& 0x11FFFE ∧
     after 0x480 = v &&& 0xFFFC00FFFC01 ∧ after 0x488 = v &&& 0xFFFC00FFFC01 ∧ after 0x4A0 = v &&& 0xFFFC00FFFC01 ∧
     after 0x490 = v &&& 0x3FFFFFFC00FFFC01 ∧ after 0x498 = v &&& 0x3FFFFFFC00FFFC01 ∧
     after 0x1000 = v &&& 3 ∧ after 0xC000 = v &&& 0x3FF ∧
     (s.clkLocked = false → after 0x3000 = (s.crRead b 0x3000 .m &&& ~~~0x3B648) ||| (v &&& 0x3B648)) ∧
     (s.clkLocked = true → after 0x3000 = s.crRead b 0x3000 .m) ∧
     (∀ n < 1024, after (0xA000 + 8 * n) = (slotStored v).zeroExtend 64) ∧
     (∀ n < 128, after (0xC800 + 16 * n) = v &&& 0xFFFFFFFFFFFF ∧ after (0xC808 + 16 * n) = v &&& 0x7FFFFFFFF) ∧
     (∀ n < 512, after (0xE000 + 16 * n) = v &&& 0x3FFFFFFFFFFFFFF ∧ after (0xE008 + 16 * n) = v &&& 0xFFFFFFFFFFFF)) ∧
  (∀ (s : State) (c : Ctx) (v : W64) (off : Nat), off ∈ [0x40, 0x410, 0x418, 0x438, 0x480, 0x490] →
     (s.crWrite mgmtCore (.core c) off v allBytes).crRead mgmtCore off .m =
       v &&& look 0 [(0x40, 0xFFFFFFFF), (0x410, 0xFFFFFFFFFE01), (0x418, 0xFFFFFFFFFE01), (0x438, 0x11FFFE), (0x480, 0xFFFC00FFFC01),
         (0x490, 0x3FFFFFFC00FFFC01)] off) ∧
  (∀ (s : State) (b : BlockId) (v m : W64), b ≠ mgmtCore →
     (s.crWrite b (.foot .m) 0x38 v m).crRead b 0x38 .m = ((s.crRead b 0x38 .m &&& ~~~m) ||| (v &&& m)) &&& 0xFFFFFFFFFFFC) ∧
  ∀ (s : State) (v : W64), s.barsUp = true → s.coreRuns = true →
    let bar0 := fun off => (match exec (.registerWrite .bar0 (BitVec.ofNat 32 off) v ⟨0xFF, .served .ok⟩) s with | .next t => t.bar0Read off | _ => 0)
    let aon := fun off => (match exec (.registerWrite .aon (BitVec.ofNat 32 off) v ⟨0xFF, .served .ok⟩) s with | .next t => t.aonRead off | _ => 0)
    bar0 0x10 = v &&& 0xFF007F ∧ bar0 0x18 = s.hif.evtPend.setWidth 64 &&& ~~~v ∧
    (∀ q < 64, s.queueActive (BitVec.ofNat 6 q) = false →
      bar0 (0x1000 + 0x40 * q) = v &&& 0xFFFFFFFFFFFFF000 ∧ bar0 (0x1008 + 0x40 * q) = v &&& 0xFFFFFFFFFFFFF000) ∧
    (∀ q < 64, bar0 (0x1028 + 0x40 * q) = (if v.extractLsb' 0 8 = 0 then 1 else v &&& 0xFF) ||| (v &&& 0x3FF0000)) ∧
    (∀ i < 512, bar0 (0x101000 + 8 * i) = v) ∧
    (∀ i < 64, bar0 (0x300000 + 16 * i) = v &&& ~~~3) ∧
    aon 0x0100 = v &&& 0x1F ∧ aon 0x0210 = v ∧ aon 0x1000 = v &&& 0xFFFFFFF ∧ aon 0x1050 = v &&& 0xFFFFFFFF

/-- An instruction that does not redirect control, at whatever place it stands (R116): it retires; at the end of an active loop body the next
instruction is the one at START while REMAIN is above 0, which then falls by 1, and otherwise ACTIVE becomes 0 and execution falls through. nop does
only this, and its next pc says so for every instruction that ends in `advance`. The loop instruction (R115, R138 rank 7, R171): with a count of 0 it
branches past the body; otherwise START is the next instruction, LENGTH n, REMAIN the count less 1 and ACTIVE 1. Inside an active loop it raises the
loop-nesting fault and changes nothing else. The loop values of before a write of the core's own govern what issues less than 2 fcy after it (R119): those
that govern count here, and what such an instruction decides on them changes no register (log entry 61). -/
def Obligations.AdvanceAndLoops : Prop :=
  (∀ (s : State) (b : BlockId), s.canIssue b = true →
     let c := (s.blk b).core
     let r := c.governs (s.ticks b)
     ∃ t, exec (.nop b) s = .next t ∧ t = (s.lineFetched b).advance b ∧ (t.blk b).core = s.next b ∧
       (t.blk b).core.retired = c.retired + 1 ∧ (t.blk b).core.loopOld = none ∧
       (r.atEnd c.pc = false → t.pcOf b = c.pc + 4 ∧ (t.blk b).core.loopActive = c.loopActive ∧ (t.blk b).core.loopRemain = c.loopRemain) ∧
       (r.atEnd c.pc = true → r.remain ≠ 0 → t.pcOf b = r.start ∧
         (c.loopOld = none → (t.blk b).core.loopRemain = c.loopRemain - 1 ∧ (t.blk b).core.loopActive = true)) ∧
       (r.atEnd c.pc = true → r.remain = 0 → t.pcOf b = c.pc + 4 ∧ (c.loopOld = none → (t.blk b).core.loopActive = false)) ∧
       (∀ o n, c.loopOld = some (o, n) → s.ticks b < n + 2 → r = o ∧ (t.blk b).core.loopRegs = c.loopRegs) ∧
       (∀ o n, c.loopOld = some (o, n) → n + 2 ≤ s.ticks b → r = c.loopRegs) ∧ (c.loopOld = none → r = c.loopRegs)) ∧
  ∀ (s : State) (b : BlockId) (n1 : BitVec 6) (ra : Reg), s.mayIssue b [ra] [] = true →
    let r := (s.blk b).core.governs (s.ticks b)
    ∃ t, exec (.loop b n1 ra) s = .next t ∧
      (r.active = false → (s.getG b ra).setWidth 32 = 0#32 →
        t.pcOf b = s.pcOf b + 4 + BitVec.ofNat 64 (4 * (n1.toNat + 1)) ∧ ((s.blk b).core.loopOld = none → (t.blk b).core.loopActive = false) ∧
        (t.blk b).core.fault = (s.blk b).core.fault) ∧
      (r.active = false → (s.getG b ra).setWidth 32 ≠ 0#32 →
        t.pcOf b = s.pcOf b + 4 ∧ (t.blk b).core.loopStart = s.pcOf b + 4 ∧ (t.blk b).core.loopLen.toNat = n1.toNat + 1 ∧
        (t.blk b).core.loopRemain = (s.getG b ra).setWidth 32 - 1 ∧ (t.blk b).core.loopActive = true ∧
        (t.blk b).core.fault = (s.blk b).core.fault) ∧
      (r.active = true →
        t = (s.lineFetched b).modBlk b fun x => { x with core := { x.core with fault := some ⟨9, 0, x.core.pc, none, false⟩ } })

/-- Multiply, divide and remainder start a long operation with their result and go on (R111, R151); when the operation completes, rd holds the result
(R111), and no flag of BLK_FPSR changes (R152). -/
def Obligations.MultiplyDivideComplete : Prop :=
  ∀ (s : State) (b : BlockId) (rb ra rd : Reg), s.mayIssue b [ra, rb, rd] [] = true → (s.blk b).core.longOps = [] →
    (∀ fn, ∃ t u, exec (.multiply b fn rb ra rd) s = .next t ∧ exec (.longOperationComplete b 0) t = .next u ∧
      u.getG b rd = (if rd = 0 then 0 else mulOp fn (s.getG b ra) (s.getG b rb)) ∧ (u.blk b).core.longOps = [] ∧
      u.pcOf b = (s.next b).pc ∧ (u.blk b).fp = (s.blk b).fp) ∧
    (∀ fn, ∃ t u, exec (.divideRemainder b fn rb ra rd) s = .next t ∧ exec (.longOperationComplete b 0) t = .next u ∧
      u.getG b rd = (if rd = 0 then 0 else divOp fn (s.getG b ra) (s.getG b rb)) ∧ (u.blk b).core.longOps = [] ∧
      u.pcOf b = (s.next b).pc ∧ (u.blk b).fp = (s.blk b).fp)

/-- Branches and jumps (R117, R141, R155, R156): a branch whose test holds goes to pc + 4 × imm14, jal to pc + 4 × imm19, and jalr to the base that
was read at issue plus imm14 with bits [1:0] cleared; a jump writes pc + 4 to rd. A target outside the active loop body ends the loop, and one inside
leaves it active; REMAIN does not change. (Where a write of the loop registers still governs less than 2 fcy old, R119, the decision changes no register:
log entry 61.) On the management core, in the flash window, a taken branch or jump writes its branch-target entry (R563). -/
def Obligations.BranchesAndJumps : Prop :=
  let loopLeft := fun (b : BlockId) (s t : State) (target : W64) =>
    (t.blk b).core.loopRemain = (s.blk b).core.loopRemain ∧ (t.blk b).core.loopOld = none ∧
    ((s.blk b).core.loopOld = none →
      (t.blk b).core.loopActive = ((s.blk b).core.loopActive && (s.blk b).core.loopRegs.inBody target))
  let targetNoted := fun (b : BlockId) (s t : State) (target : W64) =>
    (s.fromFlash b = true → look (0, 0) t.elt.btb ((s.pcOf b).toNat / 4 % 64) = (s.pcOf b, target)) ∧
    (s.fromFlash b = false → t.elt = s.elt)
  ∀ (s : State) (b : BlockId) (rb ra rd : Reg),
    (∀ fn (imm : BitVec 14), s.mayIssue b [ra, rb] [] = true →
      ∃ t, exec (.branch b fn imm rb ra) s = .next t ∧
        (branchTaken fn (s.getG b ra) (s.getG b rb) = true → t.pcOf b = s.pcOf b + 4 * imm.signExtend 64 ∧
          loopLeft b s t (s.pcOf b + 4 * imm.signExtend 64) ∧ targetNoted b s t (s.pcOf b + 4 * imm.signExtend 64)) ∧
        (branchTaken fn (s.getG b ra) (s.getG b rb) = false → (t.blk b).core = s.next b)) ∧
    (∀ imm : BitVec 19, s.mayIssue b [rd] [] = true →
      ∃ t, exec (.jal b imm rd) s = .next t ∧ t.pcOf b = s.pcOf b + 4 * imm.signExtend 64 ∧
        t.getG b rd = (if rd = 0 then 0 else s.pcOf b + 4) ∧
        loopLeft b s t (s.pcOf b + 4 * imm.signExtend 64) ∧ targetNoted b s t (s.pcOf b + 4 * imm.signExtend 64)) ∧
    (∀ imm : BitVec 14, s.mayIssue b [ra, rd] [] = true →
      ∃ t, exec (.jalr b imm ra rd) s = .next t ∧ t.pcOf b = (s.getG b ra + imm.signExtend 64) &&& ~~~3#64 ∧
        t.getG b rd = (if rd = 0 then 0 else s.pcOf b + 4) ∧
        loopLeft b s t ((s.getG b ra + imm.signExtend 64) &&& ~~~3#64) ∧ targetNoted b s t ((s.getG b ra + imm.signExtend 64) &&& ~~~3#64)) ∧
    (∀ x y : W64, branchTaken .beq x y = decide (x = y) ∧ branchTaken .bne x y = decide (x ≠ y) ∧
      branchTaken .blt x y = decide (x.toInt < y.toInt) ∧ branchTaken .bge x y = decide (y.toInt ≤ x.toInt) ∧
      branchTaken .bltu x y = decide (x.toNat < y.toNat) ∧ branchTaken .bgeu x y = decide (y.toNat ≤ x.toNat))

/-- The frame of the instructions that write one g register at most: every other register of the core, every f register, every other part of the block
(its memories, its privilege and floating-point state, its engines, its messages), every other block and everything outside the blocks stay as they
are, whether the instruction completes, waits or raises a fault. A multiply, a divide, a branch and a loop write no register. The frame of the
floating-point instructions: no register changes before the operation completes, and what else changes lies in the core, in the generator and in the
trace unit of the block; the completion changes its own destination alone. -/
def Obligations.CoreFrames : Prop :=
  (∀ (s t : State) (b : BlockId) (rb ra rd : Reg),
     (∀ c : Instr, (∃ fn, c = .integerRegisterOp b fn rb ra rd) ∨ (∃ fn imm, c = .integerImmediateOp b fn imm ra rd) ∨
         (∃ imm, c = .lui b imm rd ∨ c = .lhi b imm rd ∨ c = .jal b imm rd) ∨ (∃ imm, c = .jalr b imm ra rd) ∨
         (∃ ch, c = .mwait b ch ra rd ∨ c = .mcount b ch rd) ∨ (∃ crn rs, c = .crr b crn rs rd) →
       exec c s = .next t →
       OnlyBlock b s t ∧ CoreOnly (s.blk b) (t.blk b) ∧ (∀ r, r ≠ rd → t.getG b r = s.getG b r) ∧ ∀ r, t.getF b r = s.getF b r) ∧
     (∀ c : Instr, (∃ fn, c = .multiply b fn rb ra rd ∨ ∃ fn', c = .divideRemainder b fn' rb ra rd) ∨ (∃ fn imm, c = .branch b fn imm rb ra) ∨
         (∃ n1, c = .loop b n1 ra) ∨ c = .nop b ∨ c = .ewait b ∨ (∃ imm, c = .fence b imm ∨ c = .trap b imm ∨ c = .brk b imm) →
       exec c s = .next t →
       OnlyBlock b s t ∧ CoreOnly (s.blk b) (t.blk b) ∧ (∀ r, t.getG b r = s.getG b r) ∧ ∀ r, t.getF b r = s.getF b r)) ∧
  ∀ (s t : State) (b : BlockId),
    (∀ c : Instr, (∃ fn rm fmt rb ra rd, c = .fpOperation b fn rm fmt rb ra rd) ∨
        (∃ fn rm fmt rc rb ra rd, c = .fpFusedMultiplyAdd b fn rm fmt rc rb ra rd) ∨
        (∃ rm src dst ra rd, c = .fpConversion b rm src dst ra rd) →
      exec c s = .next t →
      OnlyBlock b s t ∧ CoreFpOnly (s.blk b) (t.blk b) ∧ (t.blk b).fp.flags = (s.blk b).fp.flags ∧
        (∀ r, t.getG b r = s.getG b r) ∧ ∀ r, t.getF b r = s.getF b r) ∧
    (∀ (i : Nat) (o : LongOp), (s.blk b).core.longOps[i]? = some o → exec (.longOperationComplete b i) s = .next t →
      OnlyBlock b s t ∧ CoreFpOnly (s.blk b) (t.blk b) ∧ (t.blk b).core.pc = (s.blk b).core.pc ∧
        (∀ r, (o.toF = true ∨ r ≠ o.rd) → t.getG b r = s.getG b r) ∧ (∀ r, (o.toF = false ∨ r ≠ o.rd) → t.getF b r = s.getF b r) ∧
        (t.blk b).core.longOps = (s.blk b).core.longOps.eraseIdx i)

/-! ## Block core: floating point -/

/-- Floating-point instructions (R111, R157, R161, R163, R193, R228): each starts a long operation; when it completes, the destination holds its
result and its flags are ORed into BLK_FPSR. fcvt.f32.f64 in the stochastic mode takes one draw of the generator (R165, R205), after those of earlier
instructions, which take theirs when they start on an engine (log entry 67). -/
def Obligations.FloatingPointComplete : Prop :=
  ∀ (s : State) (b : BlockId) (rm : BitVec 3) (fmt : Bool) (rc rb ra rd : Reg), (s.blk b).core.longOps = [] →
    (∀ fn, fpReserved fn rm rb = false →
      s.mayIssue b ((if fpToG fn then [rd] else []) ++ (if fn = .fmvf then [ra] else []))
        ((if fpToG fn then [] else [rd]) ++ (if fn = .fmvf then [] else [ra, rb])) = true →
      ∃ t u, exec (.fpOperation b fn rm fmt rb ra rd) s = .next t ∧ exec (.longOperationComplete b 0) t = .next u ∧
        let r := fpOp fn (fmtOf fmt) (Rm.of ((s.blk b).fp.mode rm false)) (if fn = .fmvf then s.getG b ra else s.getF b ra) (s.getF b rb)
        (fpToG fn = true → u.getG b rd = if rd = 0 then 0 else r.1) ∧ (fpToG fn = false → u.getF b rd = r.1) ∧
          (u.blk b).fp.flags = (s.blk b).fp.flags ||| r.2 ∧ u.pcOf b = (s.next b).pc) ∧
    (∀ fn, rm ≠ 5 → rm ≠ 6 → s.mayIssue b [] [ra, rb, rc, rd] = true →
      ∃ t u, exec (.fpFusedMultiplyAdd b fn rm fmt rc rb ra rd) s = .next t ∧ exec (.longOperationComplete b 0) t = .next u ∧
        let r := fmaOp fn (fmtOf fmt) (Rm.of ((s.blk b).fp.mode rm false)) (s.getF b ra) (s.getF b rb) (s.getF b rc)
        u.getF b rd = r.1 ∧ (u.blk b).fp.flags = (s.blk b).fp.flags ||| r.2 ∧ u.pcOf b = (s.next b).pc) ∧
    (∀ (src dst : BitVec 4) (st dt : Elem), cvtType src = some st → cvtType dst = some dt → cvtReserved rm src dst = false →
      s.mayIssue b ((if st.isFlt then [] else [ra]) ++ (if dt.isFlt then [] else [rd]))
        ((if st.isFlt then [ra] else []) ++ (if dt.isFlt then [rd] else [])) = true →
      ((s.blk b).fp.mode rm (decide (src = 5 ∧ dst = 4)) = 5 → (s.blk b).drawn = true) →
      ∃ t u, exec (.fpConversion b rm src dst ra rd) s = .next t ∧ exec (.longOperationComplete b 0) t = .next u ∧
        let m := (s.blk b).fp.mode rm (decide (src = 5 ∧ dst = 4))
        let r := convertElem st dt (Rm.of m) (srNext (s.blk b).fp.srState).toNat (if st.isFlt then s.getF b ra else s.getG b ra).toNat
        (dt.isFlt = false → u.getG b rd = if rd = 0 then 0 else cvtExtend dt r.1) ∧ (dt.isFlt = true → u.getF b rd = cvtExtend dt r.1) ∧
          (u.blk b).fp.flags = (s.blk b).fp.flags ||| r.2 ∧
          (u.blk b).fp.srDraws = (s.blk b).fp.srDraws + (if m = 5 then 1 else 0) ∧
          (u.blk b).fp.srState = (if m = 5 then srAfter 1 (s.blk b).fp.srState else (s.blk b).fp.srState))

/-- fclass sets exactly one bit of rd, according to the class of a (R160): bit 0 a quiet NaN, 1 a signalling NaN, 2 +∞, 3 positive normal, 4 positive
subnormal, 5 +0, 6 −0, 7 negative subnormal, 8 negative normal, 9 −∞. E and M are the exponent and the fraction of a in the format named, and N its
sign. -/
def Obligations.FclassOneBit : Prop :=
  ∀ (fmt : Bool) (rm : Rm) (x y : W64),
    let f := fmtOf fmt
    let r := (fpOp .fclass f rm x y).1
    let v := x.toNat % 2 ^ f.width
    let N := decide (f.signBit ≤ v)
    let E := v % f.signBit / 2 ^ f.fw
    let M := v % 2 ^ f.fw
    let top := 2 ^ f.ew - 1
    (E = top ∧ 2 ^ (f.fw - 1) ≤ M → r = 1) ∧ (E = top ∧ 0 < M ∧ M < 2 ^ (f.fw - 1) → r = 2) ∧
    (E = top ∧ M = 0 ∧ N = false → r = 4) ∧ (0 < E ∧ E < top ∧ N = false → r = 8) ∧ (E = 0 ∧ 0 < M ∧ N = false → r = 0x10) ∧
    (E = 0 ∧ M = 0 ∧ N = false → r = 0x20) ∧ (E = 0 ∧ M = 0 ∧ N = true → r = 0x40) ∧ (E = 0 ∧ 0 < M ∧ N = true → r = 0x80) ∧
    (0 < E ∧ E < top ∧ N = true → r = 0x100) ∧ (E = top ∧ M = 0 ∧ N = true → r = 0x200)

/-! ## Block core: loads, stores and remote accesses -/

/-- A load whose checks pass (R94, R124, R138, R153, R154): its register takes the little-endian bytes at base plus imm14 of the memory that the
address lies in, or the control register there; a correctable error does not change what is read (R725). No byte of memory changes. What a load puts
into its register from the value it read (R153, R154): sign-extended, zero-extended, or whole. On the management core the map is the one of R554 and R555:
boot ROM, a line of the flash window that the line buffer holds, the journal, firmware data and the AON registers. Where the model chose or inferred: log
entries 1, 57. -/
def Obligations.LoadsComplete : Prop :=
  (∀ (s : State) (b : BlockId) (fn : LoadFn) (imm : BitVec 14) (ra rd : Reg) (ecc : Ecc),
     b ≠ mgmtCore → s.mayIssue b (if fn.toF then [ra] else [ra, rd]) (if fn.toF then [rd] else []) = true → ecc ≠ .uncorrectable →
     let a := s.getG b ra + imm.signExtend 64
     ∃ t, exec (.load b fn imm ra rd ecc) s = .next t ∧
       (s.access b false fn.size a = .ls → s.branchTicks b 5 = true →
         t.wrote b fn.toF rd (fn.extend (BitVec.ofNat 64 (bytesAt (s.blk b).ls a.toNat fn.size))) ∧ t.pcOf b = (s.next b).pc) ∧
       (s.access b false fn.size a = .im →
         t.wrote b fn.toF rd (fn.extend (BitVec.ofNat 64 (bytesAt (s.blk b).im a.toNat fn.size))) ∧ t.pcOf b = (s.next b).pc) ∧
       (s.access b false fn.size a = .rom →
         t.wrote b fn.toF rd (fn.extend (romWord a.toNat fn.size)) ∧ t.pcOf b = (s.next b).pc) ∧
       (∀ off, s.access b false fn.size a = .cr off →
         t.wrote b fn.toF rd (fn.extend (s.crRead b off (s.blk b).priv.ctx)) ∧ t.pcOf b = (s.next b).pc) ∧
       (t.blk b).ls = (s.blk b).ls ∧ (t.blk b).im = (s.blk b).im) ∧
  (∀ (s : State) (fn : LoadFn) (imm : BitVec 14) (ra rd : Reg) (ecc : Ecc),
     s.mayIssue mgmtCore (if fn.toF then [ra] else [ra, rd]) (if fn.toF then [rd] else []) = true → ecc ≠ .uncorrectable →
     let a := s.getG mgmtCore ra + imm.signExtend 64
     let k := a.toNat
     let got := fun (t : State) (v : W64) => t.wrote mgmtCore fn.toF rd (fn.extend v) ∧ t.pcOf mgmtCore = (s.next mgmtCore).pc
     ∃ t, exec (.load mgmtCore fn imm ra rd ecc) s = .next t ∧ (t.blk mgmtCore).ls = (s.blk mgmtCore).ls ∧
       (s.mgmtAccess false fn.size a = .inr .data → got t (BitVec.ofNat 64 (bytesAt (s.blk mgmtCore).ls k fn.size))) ∧
       (s.mgmtAccess false fn.size a = .inr .rom → got t (bootRomWord k fn.size)) ∧
       (∀ l, s.mgmtAccess false fn.size a = .inr .flash → (s.elt.lines.find? fun l => decide (l.line = (k - 0x10000000) / 32)) = some l →
         got t (BitVec.ofNat 64 (leAt l.bytes (k % 32) fn.size))) ∧
       (s.mgmtAccess false fn.size a = .inr .journal →
         got t (BitVec.ofNat 64 (leAt (s.jnl.slot ((k - 0x20000000) / 64)) (k % 64) fn.size))) ∧
       (∀ off, s.mgmtAccess false fn.size a = .inr (.aon off) → off / 8 * 8 ≠ 0x200 →
         got t (s.aonRead (off / 8 * 8) >>> (8 * (off % 8))))) ∧
  ∀ v : W64,
    (LoadFn.b.extend v).toInt = v.toInt.bmod (2 ^ 8) ∧ (LoadFn.bu.extend v).toNat = v.toNat % 2 ^ 8 ∧
    (LoadFn.h.extend v).toInt = v.toInt.bmod (2 ^ 16) ∧ (LoadFn.hu.extend v).toNat = v.toNat % 2 ^ 16 ∧
    (LoadFn.w.extend v).toInt = v.toInt.bmod (2 ^ 32) ∧ (LoadFn.wu.extend v).toNat = v.toNat % 2 ^ 32 ∧
    (LoadFn.fw.extend v).toNat = v.toNat % 2 ^ 32 ∧ LoadFn.d.extend v = v ∧ LoadFn.fd.extend v = v

/-- A store whose checks pass (R94, R138, R154, R731): the bytes of the form's width at base plus imm14 take the low bytes of the source, and every
other byte of the block's memories is as before. A store to a control register writes it; one to a loop register leaves the values of before it to what
issues less than 2 fcy after it (R119, log entry 61). On the management core a store reaches firmware data and the AON registers (R554, R555). -/
def Obligations.StoresComplete : Prop :=
  (∀ (s : State) (b : BlockId) (fn : StoreFn) (imm : BitVec 14) (ra rs : Reg) (ecc : Ecc),
    b ≠ mgmtCore → s.mayIssue b (if fn.fromF then [ra] else [ra, rs]) (if fn.fromF then [rs] else []) = true →
    (ecc = .uncorrectable → fn.size = 8) →
    let a := s.getG b ra + imm.signExtend 64
    let v := if fn.fromF then s.getF b rs else s.getG b rs
    ∃ t, exec (.store b fn imm ra rs ecc) s = .next t ∧
      (s.access b true fn.size a = .ls → s.branchTicks b 5 = true →
        storedAt (s.blk b).ls (t.blk b).ls a.toNat fn.size v.toNat ∧ (t.blk b).im = (s.blk b).im ∧
        t.pcOf b = (s.next b).pc ∧ (∀ r, t.getG b r = s.getG b r ∧ t.getF b r = s.getF b r)) ∧
      (s.access b true fn.size a = .im →
        storedAt (s.blk b).im (t.blk b).im a.toNat fn.size v.toNat ∧ (t.blk b).ls = (s.blk b).ls ∧
        t.pcOf b = (s.next b).pc ∧ (∀ r, t.getG b r = s.getG b r ∧ t.getF b r = s.getF b r)) ∧
      (∀ off, s.access b true fn.size a = .cr off →
        let u := (s.advance b).crWrite b (.core (s.blk b).priv.ctx) off v allBytes
        (off ≠ 0x40 → off ≠ 0x48 → t = u) ∧
        (off = 0x40 ∨ off = 0x48 → t = u.modCore b fun c => { c with loopOld := some ((s.next b).loopRegs, s.ticks b) })) ∧
      (∀ c, c ≠ b → (t.blk c).ls = (s.blk c).ls ∧ (t.blk c).im = (s.blk c).im)) ∧
  ∀ (s : State) (fn : StoreFn) (imm : BitVec 14) (ra rs : Reg) (ecc : Ecc),
    s.mayIssue mgmtCore (if fn.fromF then [ra] else [ra, rs]) (if fn.fromF then [rs] else []) = true → (ecc = .uncorrectable → fn.size = 8) →
    let a := s.getG mgmtCore ra + imm.signExtend 64
    let v := if fn.fromF then s.getF mgmtCore rs else s.getG mgmtCore rs
    ∃ t, exec (.store mgmtCore fn imm ra rs ecc) s = .next t ∧
      (s.mgmtAccess true fn.size a = .inr .data →
        storedAt (s.blk mgmtCore).ls (t.blk mgmtCore).ls a.toNat fn.size v.toNat ∧ t.pcOf mgmtCore = (s.next mgmtCore).pc) ∧
      (∀ off, s.mgmtAccess true fn.size a = .inr (.aon off) →
        t = ((s.lineFetched mgmtCore).aonWrite (off / 8 * 8) (v <<< (8 * (off % 8)))
          (BitVec.ofNat 64 ((2 ^ (8 * fn.size) - 1) * 2 ^ (8 * (off % 8))))).advance mgmtCore)

/-- The checks of a load or store come in the order of R138: alignment, the device, the address, the access rights, the width. A failed check, and an
uncorrectable word under a load (R730), raise their fault with the fault value and change no register and no byte. The management core's accesses go by
its own map (R554, R555), which a supervisor reaches in part (log entry 57). -/
def Obligations.AccessFaults : Prop :=
  (∀ (s : State) (b : BlockId) (st : Bool) (n : Nat) (a : W64),
    (a.toNat % n ≠ 0 → s.access b st n a = .fault 4 a) ∧
    (a.toNat % n = 0 → isRemote a = true → s.devMapped (remDev a) = false → s.access b st n a = .fault 5 a) ∧
    (a.toNat % n = 0 → isRemote a = true → s.devMapped (remDev a) = true → mapped (remOff a) = false → s.access b st n a = .fault 6 a) ∧
    (a.toNat % n = 0 → isRemote a = true → s.devMapped (remDev a) = true → mapped (remOff a) = true → (s.blk b).priv.ctx.isUser = true →
      s.access b st n a = .fault 7 a) ∧
    (a.toNat % n = 0 → isRemote a = true → s.devMapped (remDev a) = true → mapped (remOff a) = true → (s.blk b).priv.ctx.isUser = false →
      inCr (remOff a) = true → n ≠ 8 → s.access b st n a = .fault 8 a) ∧
    (a.toNat % n = 0 → isRemote a = false → mapped a.toNat = false → s.access b st n a = .fault 6 a) ∧
    (a.toNat % n = 0 → 0x10000 ≤ a.toNat → a.toNat < 0x18000 → s.access b st n a = if (s.blk b).priv.ctx = .m then .im else .fault 7 a) ∧
    (a.toNat % n = 0 → 0x300000 ≤ a.toNat → a.toNat < 0x310000 → n ≠ 8 → (st = true → (s.blk b).priv.ctx = .m) →
      s.access b st n a = .fault 8 a)) ∧
  (∀ (s : State) (st : Bool) (n : Nat) (a : W64),
    (a.toNat % n ≠ 0 → s.mgmtAccess st n a = .inl (4, a)) ∧
    (a.toNat % n = 0 → mgmtPlace a.toNat = none → s.mgmtAccess st n a = .inl (6, a)) ∧
    (a.toNat % n = 0 → (s.blk mgmtCore).priv.ctx ≠ .m → (0x40000000 ≤ a.toNat ∧ a.toNat < 0x440000000 ∨ 0x20000000 ≤ a.toNat ∧ a.toNat < 0x20060000) →
      s.mgmtAccess st n a = .inl (7, a)) ∧
    (a.toNat % n = 0 → 0x10000000 ≤ a.toNat → a.toNat < 0x20000000 → st = true → s.mgmtAccess st n a = .inl (7, a))) ∧
  (∀ (s : State) (imm : BitVec 14) (ra rd : Reg) (ecc : Ecc) (f : Nat × W64),
    (∀ fn : LoadFn, s.mayIssue mgmtCore (if fn.toF then [ra] else [ra, rd]) (if fn.toF then [rd] else []) = true →
      s.mgmtAccess false fn.size (s.getG mgmtCore ra + imm.signExtend 64) = .inl f →
      exec (.load mgmtCore fn imm ra rd ecc) s = .next ((s.lineFetched mgmtCore).raiseSync mgmtCore f.1 f.2)) ∧
    (∀ fn : StoreFn, s.mayIssue mgmtCore (if fn.fromF then [ra] else [ra, rd]) (if fn.fromF then [rd] else []) = true →
      s.mgmtAccess true fn.size (s.getG mgmtCore ra + imm.signExtend 64) = .inl f →
      exec (.store mgmtCore fn imm ra rd ecc) s = .next ((s.lineFetched mgmtCore).raiseSync mgmtCore f.1 f.2))) ∧
  (∀ (s : State) (b : BlockId) (imm : BitVec 14) (ra rd : Reg) (ecc : Ecc) (c : Nat) (v : W64), b ≠ mgmtCore →
    (∀ fn : LoadFn, s.mayIssue b (if fn.toF then [ra] else [ra, rd]) (if fn.toF then [rd] else []) = true →
      (s.access b false fn.size (s.getG b ra + imm.signExtend 64) = .fault c v →
        exec (.load b fn imm ra rd ecc) s =
          .next (s.modBlk b fun x => { x with core := { x.core with fault := some ⟨BitVec.ofNat 6 c, v, x.core.pc, none, false⟩ } })) ∧
      (ecc = .uncorrectable → s.branchTicks b 5 = true →
        (s.access b false fn.size (s.getG b ra + imm.signExtend 64) = .ls ∨ s.access b false fn.size (s.getG b ra + imm.signExtend 64) = .im) →
        ∃ t, exec (.load b fn imm ra rd ecc) s = .next t ∧
          (t.blk b).core = { (s.blk b).core with fault := some ⟨17, s.getG b ra + imm.signExtend 64, s.pcOf b, none, false⟩ } ∧
          (t.blk b).ls = (s.blk b).ls ∧ (t.blk b).im = (s.blk b).im)) ∧
    (∀ fn : StoreFn, s.mayIssue b (if fn.fromF then [ra] else [ra, rd]) (if fn.fromF then [rd] else []) = true →
      s.access b true fn.size (s.getG b ra + imm.signExtend 64) = .fault c v →
        exec (.store b fn imm ra rd ecc) s =
          .next (s.modBlk b fun x => { x with core := { x.core with fault := some ⟨BitVec.ofNat 6 c, v, x.core.pc, none, false⟩ } })))

/-- Remote accesses (R97, R112, R137, R154, R174, R416): one leaves as a footpath packet while fewer than 4 loads or 8 posted stores are outstanding,
and the core goes on; with the limit reached it waits. The transaction number is one that no outstanding access holds. The packet takes the link toward its
next node (R414); where nodes have failed and no way is clear, the access is answered with ERR 2 (R745). Where the model chose or inferred: log entry 16. -/
def Obligations.RemoteAccessesIssue : Prop :=
  let leaves := fun (b : BlockId) (s t : State) (p : FpPacket) =>
    (∀ yx, s.fpRoute (s.fpCoord b) (packetDest p) = some yx →
      t.footpath = s.footpath ++ [⟨s.fpCoord b, nextHop yx (s.fpCoord b) (packetDest p), yx, 0, false, p⟩]) ∧
    (s.fpRoute (s.fpCoord b) (packetDest p) = none →
      t.footpath = s.footpath ++ [⟨s.fpCoord b, nextHop false (s.fpCoord b) (packetDest (answer p 4 2 [])), false, 0, false, answer p 4 2 []⟩])
  (∀ (s : State) (b : BlockId),
    (s.blk b).core.remLoads.length + (s.blk b).core.remStores.length + s.proxies.length + 1 < 256 →
    (∀ l ∈ (s.blk b).core.remLoads, l.txn ≠ s.freshTxn b) ∧ (∀ l ∈ (s.blk b).core.remStores, l.txn ≠ s.freshTxn b) ∧
    (b = mgmtCore → s.tap.asked ≠ some (s.freshTxn b) ∧ ∀ p ∈ s.proxies, p.txn ≠ s.freshTxn b)) ∧
  (∀ (s : State) (d : FpPos), isNode d = true → s.fpFailed = [] → ∀ h, s.fpRoute h d = some false) ∧
  (∀ (s : State) (b : BlockId) (imm : BitVec 14) (ra rd : Reg) (ecc : Ecc), b ≠ mgmtCore →
    let a := s.getG b ra + imm.signExtend 64
    let x := s.blk b
    (∀ fn : LoadFn, s.mayIssue b (if fn.toF then [ra] else [ra, rd]) (if fn.toF then [rd] else []) = true →
      s.access b false fn.size a = .remote → ∃ t, exec (.load b fn imm ra rd ecc) s = .next t ∧
        (x.core.remLoads.length < 4 →
          (t.blk b).core.remLoads = x.core.remLoads ++ [⟨s.freshTxn b, fn, rd, a.setWidth 48, x.priv.ctx⟩] ∧
          leaves b s t (s.request b a 0 x.priv.ctx.tag (s.freshTxn b) fn.size []) ∧ t.pcOf b = (s.next b).pc ∧
          ∀ r, t.getG b r = s.getG b r ∧ t.getF b r = s.getF b r) ∧
        (4 ≤ x.core.remLoads.length → t = s)) ∧
    (∀ fn : StoreFn, s.mayIssue b (if fn.fromF then [ra] else [ra, rd]) (if fn.fromF then [rd] else []) = true →
      s.access b true fn.size a = .remote → ∃ t, exec (.store b fn imm ra rd ecc) s = .next t ∧
        (x.core.remStores.length < 8 →
          (t.blk b).core.remStores = x.core.remStores ++ [⟨s.freshTxn b, a.setWidth 48, false, x.priv.ctx⟩] ∧
          leaves b s t (s.request b a 2 x.priv.ctx.tag (s.freshTxn b) fn.size [if fn.fromF then s.getF b rd else s.getG b rd]) ∧
          t.pcOf b = (s.next b).pc ∧ ∀ r, t.getG b r = s.getG b r ∧ t.getF b r = s.getF b r) ∧
        (8 ≤ x.core.remStores.length → t = s))) ∧
  (∀ (s : State) (b : BlockId) (rb ra : Reg), b ≠ mgmtCore → s.mayIssue b [ra, rb] [] = true →
    let a := s.getG b ra
    let x := s.blk b
    isRemote a = true → s.devMapped (remDev a) = true → remOff a = 0 → x.core.remStores.length < 8 →
      ∃ t, exec (.mbxSend b rb ra) s = .next t ∧
        (t.blk b).core.remStores = x.core.remStores ++ [⟨s.freshTxn b, a.setWidth 48, true, x.priv.ctx⟩] ∧
        leaves b s t (s.request b a 5 x.priv.ctx.tag (s.freshTxn b) 8 [s.getG b rb]) ∧ t.pcOf b = (s.next b).pc)

/-- Remote accesses end (R112, R351, R369, R418): the response of a load goes to its register, extended; an access that ends in an error leaves the
outstanding ones, a load writing 0, and enters the first free entry of the late-store log with NEW set, or the lost count, which saturates, when all
four are valid. A response that does not come in time counts as an error 2. Where the model chose or inferred: log entry 16. -/
def Obligations.RemoteAccessesEnd : Prop :=
  ∀ (s : State) (b : BlockId) (data : W64) (err : BitVec 4),
    (∀ (pre post : List RemoteLoad) (l : RemoteLoad), (s.blk b).core.remLoads = pre ++ l :: post → (∀ m ∈ pre, m.txn ≠ l.txn) →
      (∃ t, exec (.remoteLoadResponse b l.txn data) s = .next t ∧ t.wrote b l.fn.toF l.rd (l.fn.extend data) ∧
        (t.blk b).core.remLoads = pre ++ post ∧ t.pcOf b = s.pcOf b ∧ (t.blk b).priv = (s.blk b).priv) ∧
      (∃ t, exec (.lateStoreErrorReturn b l.txn err) s = .next t ∧ t.wrote b l.fn.toF l.rd 0 ∧
        (t.blk b).core.remLoads = pre ++ post ∧ (t.blk b).priv = (s.blk b).priv.late l.addr 2 l.ctx err) ∧
      (∃ t, exec (.footpathResponseTimeout b l.txn) s = .next t ∧ t.wrote b l.fn.toF l.rd 0 ∧
        (t.blk b).core.remLoads = pre ++ post ∧ (t.blk b).priv = (s.blk b).priv.late l.addr 2 l.ctx 2)) ∧
    (∀ (pre post : List RemoteStore) (l : RemoteStore), (s.blk b).core.remStores = pre ++ l :: post → (∀ m ∈ pre, m.txn ≠ l.txn) →
      (∀ m ∈ (s.blk b).core.remLoads, m.txn ≠ l.txn) →
      (∃ t, exec (.lateStoreErrorReturn b l.txn err) s = .next t ∧ (t.blk b).core.remStores = pre ++ post ∧
        (t.blk b).priv = (s.blk b).priv.late l.addr (if l.mbx then 1 else 0) l.ctx err) ∧
      (∃ t, exec (.footpathResponseTimeout b l.txn) s = .next t ∧ (t.blk b).core.remStores = pre ++ post ∧
        (t.blk b).priv = (s.blk b).priv.late l.addr (if l.mbx then 1 else 0) l.ctx 2)) ∧
    (∀ (p : Priv) (addr : BitVec 48) (kind : BitVec 2) (ctx : Ctx),
      (∀ (pre post : List LsEntry) (e : LsEntry), p.lslog = pre ++ e :: post → (∀ m ∈ pre, m.valid = true) → e.valid = false →
        p.late addr kind ctx err = { p with lslog := pre ++ ⟨addr, true, kind, ctx.code, true, err⟩ :: post }) ∧
      ((∀ m ∈ p.lslog, m.valid = true) →
        p.late addr kind ctx err = { p with lsLost := BitVec.ofNat 16 (min 0xFFFF (p.lsLost.toNat + 1)) }))

/-! ## Block core: control registers, messages and the system instructions -/

/-- crr and crw (R166 to R170): crr writes the register's value to rd; crw writes the old value to rd and then the register, in a context at or above
its level, and raises the access-rights fault with the register's offset in any other. A read of BLK_FPSR waits for outstanding floating-point
operations, and an access to BLK_SR_SEED for the draws of earlier instructions (R229, log entry 67). What a write of the loop registers leaves to the next
instructions: R119, log entry 61. -/
def Obligations.ControlRegisterInstructions : Prop :=
  ∀ (s : State) (b : BlockId) (crn : BitVec 13) (rs rd : Reg),
    (s.mayIssue b [rd] [] = true → (crn = 0x10 → (s.blk b).core.longOps.any LongOp.isFp = false) → (crn = 0x11 → (s.blk b).drawn = true) →
      ∃ t, exec (.crr b crn 0 rd) s = .next t ∧ t.wrote b false rd (s.crRead b (8 * crn.toNat) (s.blk b).priv.ctx) ∧
        t.pcOf b = (s.next b).pc) ∧
    (s.mayIssue b [rd] [] = true → crn = 0x10 → (s.blk b).core.longOps.any LongOp.isFp = true →
      exec (.crr b crn 0 rd) s = .next (s.lineFetched b)) ∧
    (crn = 0x11 → (s.blk b).drawn = false →
      (s.mayIssue b [rd] [] = true → exec (.crr b crn 0 rd) s = .next (s.lineFetched b)) ∧
      (s.mayIssue b [rs, rd] [] = true → exec (.crw b crn rs rd) s = .next (s.lineFetched b))) ∧
    (s.mayIssue b [rs, rd] [] = true → (crn = 0x11 → (s.blk b).drawn = true) → s.crMay b (8 * crn.toNat) (s.blk b).priv.ctx = true →
      let u := (((s.lineFetched b).setG b rd (s.crRead b (8 * crn.toNat) (s.blk b).priv.ctx)).advance b).crWrite b (.core (s.blk b).priv.ctx)
          (8 * crn.toNat) (s.getG b rs) allBytes
      ∃ t, exec (.crw b crn rs rd) s = .next t ∧ (crn ≠ 8 → crn ≠ 9 → t = u) ∧
        (crn = 8 ∨ crn = 9 → t = u.modCore b fun c => { c with loopOld := some ((s.next b).loopRegs, s.ticks b) })) ∧
    (s.mayIssue b [rs, rd] [] = true → (crn = 0x11 → (s.blk b).drawn = true) → s.crMay b (8 * crn.toNat) (s.blk b).priv.ctx = false →
      exec (.crw b crn rs rd) s = .next ((s.lineFetched b).modBlk b fun x =>
        { x with core := { x.core with fault := some ⟨7, BitVec.ofNat 64 (8 * crn.toNat), x.core.pc, none, false⟩ } }))

/-- Messages and the mailbox (R172, R173, R175, R184, R353): mwait waits until the delivered count of its channel reaches the operand, mcount gives
the count, a channel that is not enabled raises the channel fault and one of the other world the access-rights fault; mbx.recv takes the oldest word
of the context's world, and while there is none it is outstanding as a load is and the core goes on. They are reserved encodings on the management core
(R556). Where the model chose or inferred: log entry 20. -/
def Obligations.MessageInstructions : Prop :=
  (∀ (s : State) (ch : ChanId) (rb ra rd : Reg), s.canIssue mgmtCore = true →
    ∀ c ∈ [Instr.mwait mgmtCore ch ra rd, .mcount mgmtCore ch rd, .mbxSend mgmtCore rb ra, .mbxRecv mgmtCore rd, .ewait mgmtCore],
      exec c s = .next ((s.lineFetched mgmtCore).raiseSync mgmtCore 2 (faultWord c))) ∧
  ∀ (s : State) (b : BlockId) (ch : ChanId) (ra rd : Reg), b ≠ mgmtCore →
    let x := s.blk b
    let r := look RxChan.reset x.msg.rxc ch.toNat
    let n := BitVec.ofNat 64 (look 0 x.core.delivered ch.toNat)
    (r.en = true → (∀ w, x.priv.ctx.world = some w → r.world = decide (w = World.b)) →
      (s.mayIssue b [ra, rd] [] = true → (s.getG b ra).toNat ≤ n.toNat →
        ∃ t, exec (.mwait b ch ra rd) s = .next t ∧ t.wrote b false rd n ∧ t.pcOf b = (s.next b).pc) ∧
      (s.mayIssue b [ra, rd] [] = true → n.toNat < (s.getG b ra).toNat → exec (.mwait b ch ra rd) s = .next s) ∧
      (s.mayIssue b [rd] [] = true → ∃ t, exec (.mcount b ch rd) s = .next t ∧ t.wrote b false rd n ∧ t.pcOf b = (s.next b).pc)) ∧
    (r.en = false → s.mayIssue b [ra, rd] [] = true → s.mayIssue b [rd] [] = true →
      exec (.mwait b ch ra rd) s = .next (s.raiseSync b 10 (ch.zeroExtend 64)) ∧
      exec (.mcount b ch rd) s = .next (s.raiseSync b 10 (ch.zeroExtend 64))) ∧
    (∀ w, r.en = true → x.priv.ctx.world = some w → r.world ≠ decide (w = World.b) → s.mayIssue b [ra, rd] [] = true →
      exec (.mwait b ch ra rd) s = .next (s.raiseSync b 7 (ch.zeroExtend 64))) ∧
    (s.mayIssue b [rd] [] = true → x.core.longOps = [] →
      (∀ (pre post : List MboxWord) (w : MboxWord), x.mbox = pre ++ w :: post → w.tag = x.priv.ctx.tag →
        (∀ m ∈ pre, m.tag ≠ x.priv.ctx.tag) →
        ∃ t u, exec (.mbxRecv b rd) s = .next t ∧ exec (.longOperationComplete b 0) t = .next u ∧ u.wrote b false rd w.word ∧
          (u.blk b).mbox = pre ++ post) ∧
      ((∀ m ∈ x.mbox, m.tag ≠ x.priv.ctx.tag) → ∃ t, exec (.mbxRecv b rd) s = .next t ∧ t.pcOf b = (s.next b).pc ∧
        (t.blk b).core.recvs = x.core.recvs ++ [(rd, x.priv.ctx.tag)] ∧ (t.blk b).mbox = x.mbox ∧
        ∀ r, t.getG b r = s.getG b r ∧ t.getF b r = s.getF b r))

/-- ewait, fence and hold (R131, R176 to R179, R362, R376): ewait retires when the engines and the long operations are done and stops the core's
fetching, leaving the loop inactive and, outside an epoch, the core stopped; fence waits for what its bits name, loads, posted stores and an outstanding
mbx.recv among them; hold opens a window of n fcy, which
ends no later than one that is open already, and 0 ends it. trap and brk raise their fault with their code and with the address of the instruction
after them as the saved pc (R176, R366); the breakpoint and the software trap are taken by trap entry. A footpath write with GO 1 to BLK_RESUME of a
stopped core (R346, R376): the core fetches at ADDR in M with MASK 7 and M's TSB free; of a core that is not stopped it changes nothing. Where the model
chose or inferred: log entries 21, 68. -/
def Obligations.SystemInstructions : Prop :=
  (∀ (s : State) (b : BlockId) (imm : BitVec 9), s.canIssue b = true →
     let x := s.blk b
     (b ≠ mgmtCore → (x.enginesIdle = true ∧ x.core.longOps = [] → ∃ t, exec (.ewait b) s = .next t ∧ (t.blk b).core.fetching = false ∧
         (t.blk b).core.ewaited = true ∧ (t.blk b).core.inProgram = false ∧ (t.blk b).core.loopActive = false ∧ (t.blk b).core.loopRemain = 0 ∧
         (t.blk b).core.ewaitValid = true ∧
         (t.blk b).core.ewaitCycle = BitVec.ofNat 20 (if s.epoch.active then s.epoch.cycle else 0) ∧
         (t.blk b).core.retired = x.core.retired + 1 ∧
         (t.blk b).core.stopped = (x.core.stopped || decide (s.epoch.outcome = .none)))) ∧
     (b ≠ mgmtCore → ¬(x.enginesIdle = true ∧ x.core.longOps = []) → exec (.ewait b) s = .next s) ∧
     (0 < imm.toNat ∧ imm.toNat < 8 → (imm.getLsbD 2 = true → x.priv.ctx = .m) →
       exec (.fence b imm) s = .next
         (if (imm.getLsbD 0 = true → x.enginesIdle = true) ∧
             (imm.getLsbD 1 = true → x.core.remLoads = [] ∧ x.core.recvs = [] ∧ x.core.remStores = [])
          then (s.lineFetched b).advance b else s.lineFetched b)) ∧
     (0 < imm.toNat ∧ imm.toNat < 8 → imm.getLsbD 2 = true → x.priv.ctx ≠ .m →
       exec (.fence b imm) s = .next ((s.lineFetched b).raiseSync b 3 (faultWord (.fence b imm)))) ∧
     (imm.toNat ≤ 64 → x.priv.ctx.isUser = false → ∃ t, exec (.hold b imm) s = .next t ∧ t.pcOf b = (s.next b).pc ∧
       t.holdLeft b = (if s.holdLeft b = 0 then imm.toNat else min imm.toNat (s.holdLeft b)) ∧
       ∃ u, exec (.holdWindowExpiry b) t = .next u ∧ u.holdLeft b = 0) ∧
     (imm.toNat ≤ 64 → x.priv.ctx.isUser = true → exec (.hold b imm) s = .next ((s.lineFetched b).raiseSync b 3 (faultWord (.hold b imm))))) ∧
  (∀ (s : State) (b : BlockId) (imm : BitVec 9), s.canIssue b = true →
     exec (.trap b imm) s = .next ((s.lineFetched b).modBlk b fun x =>
       { x with core := { x.core with fault := some ⟨11, imm.zeroExtend 64, x.core.pc + 4, none, false⟩ } }) ∧
     exec (.brk b imm) s = .next ((s.lineFetched b).modBlk b fun x =>
       { x with core := { x.core with fault := some ⟨12, imm.zeroExtend 64, x.core.pc + 4, none, false⟩ } })) ∧
  ∀ (s : State) (b : BlockId) (v : W64), ∃ t, exec (.blkResumeGo b v) s = .next t ∧
    ((s.blk b).core.stopped = true → (t.blk b).core.resumeAddr = v &&& 0xFFFFFFFFFFFC ∧ t.pcOf b = v &&& 0xFFFFFFFFFFFC ∧ (t.blk b).core.fetching = true ∧ (t.blk b).core.stopped = false ∧
      (t.blk b).priv = { (s.blk b).priv with ctx := .m, mask := 7, tsbpM := { (s.blk b).priv.tsbpM with occ := false } }) ∧
    ((s.blk b).core.stopped = false → t = s)

/-! ## Traps -/

/-- A synchronous trap raised in M outside an epoch program, with M's TSB free and in local store, or in firmware data on the management core (R341, R354 to
R364): the TSB takes the saved pc,
BLK_STATUS, the cause word, the fault value and g1 to g4; g1 to g4 take the cause word, the fault value, the TSB address and the saved pc; the core
goes on in M at 0x100 + 16 × cause with MASK 7, OCC set, no loop active and no window open. Every byte of local store outside the TSB is as before.
The first target of a trap, and its escalation to M (R354, R356, R357): the cause's delegation in the world in which it was raised decides between the
world's supervisor and M; outside an epoch program a synchronous cause escalates, in this order, for a level that MASK holds back (REASON 1, after 2
for an open HOLD window), an occupied TSB (3), an invalid TSB (4) and a handler that is missing (5). Where the model chose or inferred: log entry 19. -/
def Obligations.TrapEntry : Prop :=
  (∀ (s : State) (b : BlockId) (f : SyncFault) (why : TrapTrigger) (table : Ecc),
     let x := s.blk b
     let tsb := x.priv.tsbpM.base.toNat * 512
     x.core.fetching = true → x.clk.mode = .run → s.clocked b = true → s.branchTicks b 5 = true → s.mayRun b = true → x.core.longOps = [] →
     x.core.remLoads = [] → x.core.recvs = [] → s.asyncReady b = false → x.core.inProgram = false → x.priv.ctx = .m →
     x.core.fault = some f → f.elem = none → s.holdOpen b = false → x.priv.mask.toNat < causeLevel f.cause.toNat →
     x.priv.tsbpM.occ = false → inData b tsb 512 = true →
     ∃ t, exec (.trapEntry b why table) s = .next t ∧
       t.pcOf b = BitVec.ofNat 64 (0x100 + 16 * f.cause.toNat) ∧ (t.blk b).priv.ctx = .m ∧ (t.blk b).priv.mask = 7 ∧
       (t.blk b).priv.tsbpM.occ = true ∧ (t.blk b).core.loopActive = false ∧ (t.blk b).core.fault = none ∧ t.holdLeft b = 0 ∧
       t.getG b 1 = f.cause.zeroExtend 64 ∧ t.getG b 2 = f.value ∧ t.getG b 3 = BitVec.ofNat 64 tsb ∧ t.getG b 4 = f.savedPc ∧
       (∀ r, r ≠ 1 → r ≠ 2 → r ≠ 3 → r ≠ 4 → t.getG b r = s.getG b r) ∧ (∀ r, t.getF b r = s.getF b r) ∧
       (let m := (t.blk b).ls
        bytesAt m tsb 8 = f.savedPc.toNat ∧ bytesAt m (tsb + 8) 8 = (s.crRead b 0x400 .m).toNat ∧ bytesAt m (tsb + 16) 8 = f.cause.toNat ∧
        bytesAt m (tsb + 24) 8 = f.value.toNat ∧ bytesAt m (tsb + 32) 8 = (s.getG b 1).toNat ∧ bytesAt m (tsb + 40) 8 = (s.getG b 2).toNat ∧
        bytesAt m (tsb + 48) 8 = (s.getG b 3).toNat ∧ bytesAt m (tsb + 56) 8 = (s.getG b 4).toNat ∧
        ∀ k, (k < tsb ∨ tsb + 64 ≤ k) → mget m k = mget x.ls k)) ∧
  ∀ (s : State) (b : BlockId) (f : SyncFault) (w : World),
    let x := s.blk b
    let t := syncTrap x f
    let deleg := match w with | .a => x.priv.delegA | .b => x.priv.delegB
    x.core.inProgram = false → x.priv.ctx.world = some w → f.cause.toNat ≠ 18 → f.cause.toNat ≠ 19 →
    ((deleg &&& 0x11FFFE).getLsbD f.cause.toNat = false → s.holdOpen b = false → x.priv.mask.toNat < causeLevel f.cause.toNat →
      s.route b t = (t, .m)) ∧
    (f.cause = 11 → x.priv.ctx = w.sup → (s.route b t).2 = .m) ∧
    (s.holdOpen b = true → s.route b t = ({ t with reason := 2 }, .m)) ∧
    (s.holdOpen b = false → causeLevel f.cause.toNat ≤ x.priv.mask.toNat → s.route b t = ({ t with reason := 1 }, .m)) ∧
    (s.holdOpen b = false → x.priv.mask.toNat < causeLevel f.cause.toNat → (deleg &&& 0x11FFFE).getLsbD f.cause.toNat = true →
      (f.cause = 11 → x.priv.ctx.isUser = true) →
      s.route b t =
        (if (x.priv.tsbp w.sup).occ then ({ t with reason := 3 }, .m)
         else if x.priv.tsbValid b w.sup = false then ({ t with reason := 4 }, .m)
         else if ¬(inData b (x.priv.entryAddr w.sup f.cause.toNat) 8 = true ∧
                   x.priv.lsBytes w.sup (x.priv.entryAddr w.sup f.cause.toNat) 8 = true) ∨
                 x.handler w.sup f.cause.toNat = 0 then ({ t with reason := 5 }, .m)
         else (t, w.sup)))

/-- Where the system instructions complete (R131, R176 to R179, R362, R363, R366, R367, R374, R376). ewait stops the fetching of a core whose engines are
idle and that has no long operation outstanding. A fence whose operations are all done, and a hold outside user mode, go on. trap and brk end in a trap
entry: in M, with M's TSB free and in local store and outside an epoch program, the core goes on at the vector of cause 11 or 12 with the code in g2 and the
address of the next instruction in g4. tret restores what the TSB of its level holds: the pc, the context, MASK, the loop and g1 to g4, and frees the TSB.
The expiry of a window leaves none open. BLK_RESUME with GO starts a stopped core at its ADDR. Where the model chose or inferred: log entries 19, 21, 68. -/
def Obligations.SystemInstructionsComplete : Prop :=
  ∀ (s : State) (b : BlockId),
    let x := s.blk b
    (s.canIssue b = true →
      (b ≠ mgmtCore → x.enginesIdle = true → x.core.longOps = [] → ∃ t, exec (.ewait b) s = .next t ∧ (t.blk b).core.fetching = false ∧
        (t.blk b).core.ewaited = true ∧ (t.blk b).core.inProgram = false) ∧
      (∀ imm : BitVec 9, 0 < imm.toNat → imm.toNat < 8 → x.priv.ctx = .m → x.enginesIdle = true → x.core.remLoads = [] → x.core.recvs = [] →
        x.core.remStores = [] → ∃ t, exec (.fence b imm) s = .next t ∧ t.pcOf b = (s.next b).pc ∧ (t.blk b).core.fault = none) ∧
      (∀ imm : BitVec 9, imm.toNat ≤ 64 → x.priv.ctx.isUser = false → ∃ t, exec (.hold b imm) s = .next t ∧ t.pcOf b = (s.next b).pc ∧
        t.holdLeft b = (if s.holdLeft b = 0 then imm.toNat else min imm.toNat (s.holdLeft b))) ∧
      (∀ (imm : BitVec 9) (why : TrapTrigger) (table : Ecc),
        let entered := fun (cause : Nat) (t : State) => x.core.longOps = [] → x.core.remLoads = [] → x.core.recvs = [] → s.branchTicks b 5 = true →
          x.core.inProgram = false → x.priv.ctx = .m → s.holdOpen b = false → x.priv.mask = 0 → x.priv.tsbpM.occ = false →
          inData b (x.priv.tsbpM.base.toNat * 512) 512 = true → ∃ u, exec (.trapEntry b why table) t = .next u ∧
            u.pcOf b = BitVec.ofNat 64 (0x100 + 16 * cause) ∧ (u.blk b).priv.ctx = .m ∧ (u.blk b).priv.mask = 7 ∧ (u.blk b).priv.tsbpM.occ = true ∧
            u.getG b 1 = BitVec.ofNat 64 cause ∧ u.getG b 2 = imm.zeroExtend 64 ∧ u.getG b 4 = s.pcOf b + 4
        (∃ t, exec (.trap b imm) s = .next t ∧ entered 11 t) ∧ (∃ t, exec (.brk b imm) s = .next t ∧ entered 12 t)) ∧
      (∀ d, x.free [1, 2, 3, 4] [] = true → x.priv.ctx.isUser = false → x.priv.tsbValid b x.priv.ctx = true → s.branchTicks b 5 = true →
        let a := baseAddr (x.priv.tsbp x.priv.ctx).base
        let st := x.lsWord (a + 8) 8
        Ctx.ofCode (st.extractLsb' 4 3) = some d → mayRestore b x.priv.ctx d = true →
        ∃ t, exec (.tret b .ok) s = .next t ∧ t.pcOf b = x.lsWord a 8 &&& ~~~3#64 ∧ (t.blk b).priv.ctx = d ∧ (t.blk b).priv.mask = st.extractLsb' 0 3 ∧
          ((t.blk b).priv.tsbp x.priv.ctx).occ = false ∧ t.holdLeft b = 0 ∧ (t.blk b).core.loopActive = st.getLsbD 7 ∧
          t.getG b 1 = x.lsWord (a + 0x20) 8 ∧ t.getG b 2 = x.lsWord (a + 0x28) 8 ∧ t.getG b 3 = x.lsWord (a + 0x30) 8 ∧
          t.getG b 4 = x.lsWord (a + 0x38) 8)) ∧
    (∃ t, exec (.holdWindowExpiry b) s = .next t ∧ t.holdLeft b = 0 ∧ t.pcOf b = s.pcOf b) ∧
    (∀ v : W64, x.core.stopped = true → ∃ t, exec (.blkResumeGo b v) s = .next t ∧ t.pcOf b = v &&& 0xFFFFFFFFFFFC ∧ (t.blk b).core.fetching = true ∧
      (t.blk b).core.stopped = false ∧ (t.blk b).priv.ctx = .m ∧ (t.blk b).priv.mask = 7 ∧ (t.blk b).priv.tsbpM.occ = false)

/-- A trap that M takes is undone by tret (R363 to R368): the context, MASK, the loop, the pc and g1 to g4 return, with bits [1:0] of the pc cleared,
OCC falls, and the window is closed; the TSB keeps what the entry wrote. Where the model chose or inferred: log entry 19. -/
def Obligations.TrapThenReturn : Prop :=
  ∀ (s : State) (b : BlockId) (f : SyncFault) (why : TrapTrigger) (table : Ecc),
    let x := s.blk b
    let tsb := x.priv.tsbpM.base.toNat * 512
    x.core.fetching = true → x.core.parked = false → x.clk.mode = .run → s.clocked b = true → s.branchTicks b 5 = true → s.mayRun b = true →
    x.core.longOps = [] → x.core.remLoads = [] → x.core.recvs = [] → x.inFlight = [] → s.asyncReady b = false → x.priv.latePending = false →
    x.core.inProgram = false → x.priv.ctx = .m → f.cause.toNat < 0x3F →
    x.core.fault = some f → f.elem = none → s.holdOpen b = false → x.priv.mask.toNat < causeLevel f.cause.toNat →
    x.priv.tsbpM.occ = false → inData b tsb 512 = true →
    ∃ t u, exec (.trapEntry b why table) s = .next t ∧ exec (.tret b .ok) t = .next u ∧ u.pcOf b = f.savedPc &&& ~~~3#64 ∧ (u.blk b).priv = { x.priv with hold := none } ∧
      (∀ r, u.getG b r = s.getG b r ∧ u.getF b r = s.getF b r) ∧ (u.blk b).core.loopActive = x.core.loopActive ∧
      (u.blk b).core.fault = none ∧ (u.blk b).ls = (t.blk b).ls

/-! ## Vector and matrix engines -/

/-- The vector instructions go to the dispatch queue (R109, R127, R240, R276) when their encoding is not reserved, the registers that they name are
free, no queued instruction writes what their checks read, every static check passes and, for an access to local store, every address check passes. -/
def Obligations.VectorInstructionsDispatch : Prop :=
  ∀ (s : State) (b : BlockId) (vm w rm : BitVec 3) (dst src line : BitVec 4) (rx ra vs vb va vd : Reg),
    b ≠ mgmtCore → (s.blk b).queue.length < 16 →
    let x := s.blk b
    let quiet := fun need => (x.inFlight.any fun e => meets e.writes need) = false
    (∀ fn ty form, reservedArith (.flt fn ty) form vb va = false → s.mayIssue b [] (if form = .vs then [vb] else []) = true →
      quiet (lineNeeds (shapeArith x (.flt fn ty) form vb va vd).lines) → x.staticFault (shapeArith x (.flt fn ty) form vb va vd) = none →
      ∃ t, exec (.vectorArithmetic b (.flt fn ty) form vm vb va vd) s = .next t ∧
        Dispatched b (.vectorArithmetic b (.flt fn ty) form vm vb va vd) 0 (s.getF b vb) (x.fp.mode 7 false) 0 s t) ∧
    (∀ fn ty form, reservedArith (.int fn ty) form vb va = false → s.mayIssue b (if form = .vs then [vb] else []) [] = true →
      quiet (lineNeeds (shapeArith x (.int fn ty) form vb va vd).lines) → x.staticFault (shapeArith x (.int fn ty) form vb va vd) = none →
      ∃ t, exec (.vectorArithmetic b (.int fn ty) form vm vb va vd) s = .next t ∧
        Dispatched b (.vectorArithmetic b (.int fn ty) form vm vb va vd) 0 (s.getG b vb) (x.fp.mode 7 false) 0 s t) ∧
    (∀ op form, reservedCmp op form vb vd = false →
      s.mayIssue b (if form = .vs ∧ VCmp.isF op = false then [vb] else []) (if form = .vs ∧ VCmp.isF op = true then [vb] else []) = true →
      quiet (lineNeeds (shapeCmp x op form vb va).lines) → x.staticFault (shapeCmp x op form vb va) = none →
      ∃ t, exec (.vectorCompare b op form vm vb va vd) s = .next t ∧
        Dispatched b (.vectorCompare b op form vm vb va vd) 0 (if VCmp.isF op then s.getF b vb else s.getG b vb) (x.fp.mode 7 false) 0 s t) ∧
    (∀ fn ty, s.mayIssue b [] [vb, vd] = true → quiet [] → x.staticFault { srcs := [operand va (elemCount x.g ty.fmt.width) ty.fmt.width] } = none →
      ∃ t, exec (.vectorReduction b (.flt fn ty) vm vb va vd) s = .next t ∧
        Dispatched b (.vectorReduction b (.flt fn ty) vm vb va vd) 0 (s.getF b vb) (x.fp.mode 7 false) 0 s t) ∧
    (∀ fn ty, ty ≠ .x16 → s.mayIssue b [vb, vd] [] = true → quiet [] →
      x.staticFault { srcs := [operand va (elemCount x.g ty.width) ty.width] } = none →
      ∃ t, exec (.vectorReduction b (.int fn ty) vm vb va vd) s = .next t ∧
        Dispatched b (.vectorReduction b (.int fn ty) vm vb va vd) 0 (s.getG b vb) (x.fp.mode 7 false) 0 s t) ∧
    (∀ fn ty, s.mayIssue b (match fn with | .perm => [] | .ext => [vb, vd] | _ => [vb]) [] = true → quiet [] →
      x.staticFault (shapePerm x fn ty vb va vd) = none →
      ∃ t, exec (.vectorPermutation b fn ty vm vb va vd) s = .next t ∧
        Dispatched b (.vectorPermutation b fn ty vm vb va vd) 0 (s.getG b vb) 0 0 s t) ∧
    (s.canIssue b = true → quiet [] → reservedVcvt rm dst src vm = false →
      (let n := elemCount x.g (max (typeBits dst) (typeBits src))
       x.staticFault { dests := [operand vd n (typeBits dst)], srcs := [operand va n (typeBits src)], strict := decide (typeBits dst ≠ typeBits src) }
         = none →
       ∃ t, exec (.vcvt b rm dst src vm va vd) s = .next t ∧
         Dispatched b (.vcvt b rm dst src vm va vd) 0 0 (x.fp.mode rm false) (if rm = 5 then n else 0) s t)) ∧
    (s.canIssue b = true → quiet [] → reservedVmxq rm dst = false →
      x.staticFault { dests := [operand vd (512 * x.g) (typeBits dst), (vs.toNat, 1)], srcs := [operand va (512 * x.g) 32], strict := true } = none →
      ∃ t, exec (.vmxq b rm dst vs va vd) s = .next t ∧
        Dispatched b (.vmxq b rm dst vs va vd) 0 0 (x.fp.mode rm false) (if rm = 5 then 512 * x.g else 0) s t) ∧
    (∀ fn, reservedMask fn vb va vd = false → s.mayIssue b (match fn with | .mpopc => [vd] | .mfirst => [vd] | _ => []) [] = true →
      ∃ t, exec (.maskOperation b fn vb va vd) s = .next t ∧ Dispatched b (.maskOperation b fn vb va vd) 0 0 0 0 s t) ∧
    (s.mayIssue b [vb, vd] [] = true → quiet [] → x.staticFault { srcs := [operand va (2048 * x.g) 8] } = none →
      ∃ t, exec (.vcsum b vb va vd) s = .next t ∧ Dispatched b (.vcsum b vb va vd) 0 (s.getG b vb) 0 0 s t) ∧
    (∀ fn, reservedMem fn w vm rx vd = false → s.mayIssue b (if fn = .strided then [ra, rx] else [ra]) [] = true →
      quiet (memNeeds x fn w vm rx) → x.priv.firstFault (x.vec.accesses x.g fn w vm rx (s.getG b ra) (s.getG b rx)) = none →
      (x.staticFault (shapeMem x true fn w rx vd) = none → ∃ t, exec (.vectorLoad b fn w vm rx ra vd) s = .next t ∧
        Dispatched b (.vectorLoad b fn w vm rx ra vd) (s.getG b ra) (s.getG b rx) 0 0 s t) ∧
      (x.staticFault (shapeMem x false fn w rx vd) = none → ∃ t, exec (.vectorStore b fn w vm rx ra vd) s = .next t ∧
        Dispatched b (.vectorStore b fn w vm rx ra vd) (s.getG b ra) (s.getG b rx) 0 0 s t)) ∧
    (s.mayIssue b [ra] [] = true → x.priv.memCheck (s.getG b ra).toNat 2048 64 = none →
      ∃ t, exec (.acfill b line ra) s = .next t ∧ Dispatched b (.acfill b line ra) (s.getG b ra) 0 0 0 s t) ∧
    (s.canIssue b = true → (∃ t, exec (.acput b line vs) s = .next t ∧ Dispatched b (.acput b line vs) 0 0 0 0 s t) ∧
      (∃ t, exec (.acdrop b line) s = .next t ∧ Dispatched b (.acdrop b line) 0 0 0 0 s t) ∧
      (∃ t, exec (.acdropall b) s = .next t ∧ Dispatched b (.acdropall b) 0 0 0 0 s t))

/-- The matrix instructions go to the dispatch queue (R127, R301, R304, R314, R315, R320, R321, R330) when their encoding is not reserved, their
scalar registers are free and every row of a tile transfer passes its checks; a stride register of g0 makes the stride the row length. -/
def Obligations.MatrixInstructionsDispatch : Prop :=
  ∀ (s : State) (b : BlockId) (z mode h isrc : Bool) (typb typa dst : BitVec 4) (rm ts tb ta zd r : BitVec 3) (rs ra v : Reg),
    b ≠ mgmtCore → (s.blk b).queue.length < 16 →
    let x := s.blk b
    let went := fun (c : Instr) (sa sb : W64) (m : BitVec 3) (n : Nat) => ∃ t, exec c s = .next t ∧ Dispatched b c sa sb m n s t
    (s.canIssue b = true →
      (pairOk false mode typa.toNat typb.toNat = true → went (.mma b z mode typb typa tb ta zd) 0 0 0 0) ∧
      (pairOk true mode typa.toNat typb.toNat = true → went (.mmx b z mode typb typa ts tb ta zd) 0 0 0 0) ∧
      went (.zclr b r) 0 0 0 0 ∧ went (.tfromv b r v) 0 0 0 0 ∧ went (.tov b r v) 0 0 0 0 ∧ went (.zfromv b h r v) 0 0 0 0 ∧
      went (.ztov b h r v) 0 0 0 0 ∧
      (reservedZcvt isrc rm dst = false → went (.zcvt b isrc rm dst r v) 0 0 (x.fp.mode rm false) (if rm = 5 then 256 else 0))) ∧
    (s.mayIssue b [ra, rs] [] = true →
      ∀ (c : Instr) (len : Nat), (c, len) ∈ [(.tld b rs ra r, 128), (.tst b rs ra r, 128), (.tld6 b rs ra r, 96), (.tst6 b rs ra r, 96),
          (.zld b rs ra r, 64), (.zst b rs ra r, 64)] →
        let st : W64 := if rs = 0 then BitVec.ofNat 64 len else s.getG b rs
        (∀ i < 16, x.priv.memCheck (s.getG b ra + BitVec.ofNat 64 i * st).toNat len 32 = none) → went c (s.getG b ra) st 0 0)

/-- The checks of an engine instruction in RD (R252, R253, R267, R279, R286, R304, R315, R333, R556): a reserved encoding raises cause 2 with value 0,
as every encoding of an engine does on the management core; then a group that is not aligned to its size raises cause 13 with its first register, an overlap of a destination and a source that is not the same group
raises cause 15 with the destination, as the same group does in a conversion whose elements differ in width, an arcade line that is not valid raises cause 16 with the line, and a row or an access outside local store
raises cause 6 with its address, naming the row or the element. Each leaves everything but the fault as it was. Where the model chose or inferred: log
entries 23, 24. -/
def Obligations.EngineChecksFault : Prop :=
  ∀ (s : State) (b : BlockId) (vm : BitVec 3) (rs ra vb va vd : Reg) (line r : BitVec 3) (z mode : Bool) (typb typa : BitVec 4),
    let x := s.blk b
    (s.canIssue b = true → pairOk false mode typa.toNat typb.toNat = false →
      ∃ t, exec (.mma b z mode typb typa r line vm) s = .next t ∧ Faulted b 2 0 none false s t) ∧
    (s.canIssue b = true → ∃ t, exec (.vectorArithmetic b (.int .add .x16) .vv vm vb va vd) s = .next t ∧ Faulted b 2 0 none false s t) ∧
    (b = mgmtCore → s.canIssue b = true →
      (∃ t, exec (.vectorArithmetic b (.int .add .i32) .vv vm vb va vd) s = .next t ∧ Faulted b 2 0 none false s t) ∧
      (∃ t, exec (.acdropall b) s = .next t ∧ Faulted b 2 0 none false s t) ∧
      (∃ t, exec (.mma b z mode typb typa r line vm) s = .next t ∧ Faulted b 2 0 none false s t) ∧
      ∃ t, exec (.tld b rs ra r) s = .next t ∧ Faulted b 2 0 none false s t) ∧
    (b ≠ mgmtCore → x.queue.length < 16 → s.canIssue b = true → x.inFlight = [] →
      ∃ t, exec (.vectorArithmetic b (.int .add .i32) .vv vm vb va vd) s = .next t ∧
        (vd.toNat % x.g ≠ 0 → Faulted b 13 (vd.zeroExtend 64) none false s t) ∧
        (vd.toNat % x.g = 0 → va.toNat % x.g ≠ 0 → Faulted b 13 (va.zeroExtend 64) none false s t)) ∧
    (b ≠ mgmtCore → x.queue.length < 16 → s.mayIssue b [vb] [] = true → x.inFlight = [] → vd.toNat % x.g = 0 → va.toNat % x.g = 0 →
      ∃ t, exec (.vectorPermutation b .slideup .i32 vm vb va vd) s = .next t ∧ (vd = va → Faulted b 15 (vd.zeroExtend 64) none false s t) ∧
        (vd ≠ va → (t.blk b).core.fault = x.core.fault)) ∧
    (∀ (rm : BitVec 3) (dst src : BitVec 4), b ≠ mgmtCore → x.queue.length < 16 → s.canIssue b = true → x.inFlight = [] → x.g = 1 →
      reservedVcvt rm dst src vm = false → typeBits dst ≠ typeBits src →
      ∃ t, exec (.vcvt b rm dst src vm vd vd) s = .next t ∧ Faulted b 15 (vd.zeroExtend 64) none false s t) ∧
    (b ≠ mgmtCore → x.queue.length < 16 → s.canIssue b = true → x.inFlight = [] → x.g = 1 → vb.toNat < 16 → (look AcLine.reset x.vec.ac vb.toNat).valid = false →
      ∃ t, exec (.vectorArithmetic b (.int .add .i32) .va vm vb va vd) s = .next t ∧ Faulted b 16 (vb.zeroExtend 64) none false s t) ∧
    (b ≠ mgmtCore → x.queue.length < 16 → s.mayIssue b [ra, rs] [] = true → rs ≠ 0 → (∀ i < 16, (s.getG b ra + BitVec.ofNat 64 i * s.getG b rs).toNat % 32 = 0) →
      ∀ n < 16, (∀ i < n, x.priv.memCheck (s.getG b ra + BitVec.ofNat 64 i * s.getG b rs).toNat 128 32 = none) →
        inLs (s.getG b ra + BitVec.ofNat 64 n * s.getG b rs).toNat 128 = false →
        ∃ t, exec (.tld b rs ra r) s = .next t ∧ Faulted b 6 (s.getG b ra + BitVec.ofNat 64 n * s.getG b rs) (some n) true s t)

/-- The head of the dispatch queue departs to its unit (R127, R281, R325 to R328) when the unit's clock ticks and no instruction in an engine writes
what it reads or writes; otherwise it stays. It takes its draws of the stochastic source as it departs (R205, R229), and the freed entry ends a wait
for one. Where the model chose or inferred: log entries 22, 67. -/
def Obligations.EngineStarts : Prop :=
  ∀ (s : State) (b : BlockId) (e : QEntry) (rest : List QEntry), (s.blk b).queue = e :: rest →
    let x := s.blk b
    let left : Block :=
      { x with queue := rest, core := x.core.settleQueue (s.ticks b),
               fp := { x.fp with srState := srAfter e.draws x.fp.srState, srDraws := x.fp.srDraws + BitVec.ofNat 64 e.draws } }
    let e' : QEntry := { e with seed := x.fp.srState }
    (∃ t, exec (.vectorEngineStart b) s = .next t ∧
      (s.branchTicks b 1 = true → matrixUnit e.instr = none →
        (∀ o ∈ x.running, ∀ n ∈ o.writes, n ∉ e.reads ∧ n ∉ e.writes) →
        (isVecMem e.instr = true → ∀ o ∈ x.mtx.port, isTileMem o.instr = false) →
        t.blk b = { left with vec := { x.vec with run := x.vec.run ++ [e'] } }) ∧
      ((s.branchTicks b 1 = false ∨ matrixUnit e.instr ≠ none ∨ ∃ o ∈ x.running, ∃ n ∈ o.writes, n ∈ e.reads ∨ n ∈ e.writes) → t = s)) ∧
    (∃ t, exec (.matrixUnitStart b) s = .next t ∧
      (x.vec.run = [] → x.mtx.array = [] → x.mtx.port = [] →
        (matrixUnit e.instr = some .array → s.branchTicks b 2 = true →
          t.blk b = { left with mtx := { x.mtx with array := [e'] } }) ∧
        (matrixUnit e.instr = some .tilePort → s.branchTicks b 2 = true →
          t.blk b = { left with mtx := { x.mtx with port := [e'] } }) ∧
        (matrixUnit e.instr = some .vector → s.branchTicks b 1 = true →
          t.blk b = { left with vec := { x.vec with run := [e'] } })) ∧
      (matrixUnit e.instr = none → t = s))

/-- Vector arithmetic completes (R234, R244, R253 to R256, R282): every active element of the destination group takes the operation on the elements of
its operands, every other element and every other register keeps its value, and the flags of the active elements alone are ORed in. What the integer
operations of the vector engine compute in one element of width w (R247, R259): sums, differences and products modulo 2^w, the high half of a signed
product, saturating sums, shifts by the operand modulo w. Where the model chose or inferred: log entry 22. -/
def Obligations.VectorArithmeticCompletes : Prop :=
  (∀ (s : State) (b : BlockId) (e : QEntry) (rest : List QEntry) (op : VArith) (form : VForm) (vm : BitVec 3) (vb va vd : Reg),
     (s.blk b).vec.run = e :: rest → e.instr = .vectorArithmetic b op form vm vb va vd → s.branchTicks b 1 = true →
     (form = .va → vb.toNat < 16) →
     let x := (s.blk b).vec
     let w := op.width
     let dw := if op.isWma then 32 else w
     let n := elemCount (groupSize e.grp) w
     let bOf := fun i => match form with
       | .vv => x.elem vb.toNat w i
       | .vs => e.sb.toNat % 2 ^ w
       | .va => (look AcLine.reset x.ac (vb.toNat + i * w / 16384)).data.toNat / 2 ^ (i * w % 16384) % 2 ^ w
     let new := fun i => match op with
       | .flt fn ty => fltElem fn ty.fmt (Rm.of e.rm) (x.elem va.toNat w i) (bOf i) (x.elem vd.toNat dw i)
       | .int fn ty => intElem fn ty.width i (x.elem va.toNat w i) (bOf i) (x.elem vd.toNat dw i)
     (form = .va → vb.toNat + groupSize e.grp ≤ 16) →
     ∃ t, exec (.vectorEngineComplete b none []) s = .next t ∧ (t.blk b).vec.run = rest ∧
       (∀ i < n, (t.blk b).vec.elem vd.toNat dw i = if x.isActive vm w i then (new i).1 % 2 ^ dw else x.elem vd.toNat dw i) ∧
       (∀ r, (r < vd.toNat ∨ vd.toNat + regCount n dw ≤ r) → look 0 (t.blk b).vec.v r = look 0 x.v r) ∧
       (t.blk b).fp.flags = ((List.range n).filter fun i => x.isActive vm w i).foldl (fun f i => f ||| (new i).2) (s.blk b).fp.flags ∧
       (t.blk b).vec.m = x.m ∧ (t.blk b).vec.ac = x.ac ∧ (t.blk b).ls = (s.blk b).ls ∧ (t.blk b).core = (s.blk b).core) ∧
  ∀ (w i x y z : Nat), (w = 8 ∨ w = 16 ∨ w = 32 ∨ w = 64) → x < 2 ^ w → y < 2 ^ w → z < 2 ^ w →
    let a := (BitVec.ofNat w x).toInt
    let b := (BitVec.ofNat w y).toInt
    let r fn := (intElem fn w i x y z).1
    r .add = (x + y) % 2 ^ w ∧ ((r .sub : Nat) : Int) = (a - b) % 2 ^ w ∧ r .mul = x * y % 2 ^ w ∧
    ((r .mulh : Nat) : Int) = a * b / 2 ^ w % 2 ^ w ∧
    r .and = x &&& y ∧ r .or = x ||| y ∧ r .xor = x ^^^ y ∧
    r .sll = x * 2 ^ (y % w) % 2 ^ w ∧ r .srl = x / 2 ^ (y % w) ∧ ((r .sra : Nat) : Int) = a / 2 ^ (y % w) % 2 ^ w ∧
    (BitVec.ofNat w (r .min)).toInt = min a b ∧ (BitVec.ofNat w (r .max)).toInt = max a b ∧ r .minu = min x y ∧ r .maxu = max x y ∧
    (BitVec.ofNat w (r .sadd)).toInt = max (-(2 ^ (w - 1))) (min (2 ^ (w - 1) - 1) (a + b)) ∧
    (BitVec.ofNat w (r .ssub)).toInt = max (-(2 ^ (w - 1))) (min (2 ^ (w - 1) - 1) (a - b)) ∧
    r .macc = (z + x * y) % 2 ^ w ∧ r .mv = y ∧ r .vid = i % 2 ^ w ∧
    (∀ fn, fn ≠ .sadd → fn ≠ .ssub → (intElem fn w i x y z).2 = 0)

/-- Compares, mask operations, reductions and the checksum complete (R248, R258 to R261, R275): a compare writes the bits of active elements of its
mask register, keeps those of the others and clears the rest; a mask operation works on every bit, with m0 all ones and its writes discarded; an
integer sum goes to its scalar register modulo 2^w, sign-extended. Where the model chose or inferred: log entry 22. -/
def Obligations.VectorMaskAndScalarResults : Prop :=
  ∀ (s : State) (b : BlockId) (e : QEntry) (rest : List QEntry) (vm : BitVec 3) (vb va vd : Reg),
    (s.blk b).vec.run = e :: rest → s.branchTicks b 1 = true → matrixUnit e.instr = none → isVecMem e.instr = false →
    let x := (s.blk b).vec
    ∃ t, exec (.vectorEngineComplete b none []) s = .next t ∧ (t.blk b).vec.run = rest ∧
      (∀ op, e.instr = .vectorCompare b op .vv vm vb va vd → 0 < vd.toNat → vd.toNat < 8 →
        (∀ i < 16384 / op.width, ((t.blk b).vec.mask vd.toNat).testBit i =
          if x.isActive vm op.width i then (cmpElem op (x.elem va.toNat op.width i) (x.elem vb.toNat op.width i)).1
          else (x.mask vd.toNat).testBit i) ∧
        (∀ i, 16384 / op.width ≤ i → ((t.blk b).vec.mask vd.toNat).testBit i = false)) ∧
      (∀ fn, e.instr = .maskOperation b fn vb va vd → reservedMask fn vb va vd = false →
        let A := fun i => (x.mask va.toNat).testBit i
        let B := fun i => (x.mask vb.toNat).testBit i
        (fn = .mpopc → t.wrote b false vd (BitVec.ofNat 64 ((List.range 2048).filter A).length)) ∧
        (fn = .mfirst → t.wrote b false vd (match (List.range 2048).find? A with | some i => BitVec.ofNat 64 i | none => 0xFFFFFFFFFFFFFFFF)) ∧
        (fn ≠ .mpopc → fn ≠ .mfirst → ∀ i < 2048, ((t.blk b).vec.mask vd.toNat).testBit i =
          if vd = 0 then true
          else match fn with
            | .mand => A i && B i | .mor => A i || B i | .mxor => A i != B i | .mandn => A i && !B i | _ => !A i)) ∧
      (∀ ty, e.instr = .vectorReduction b (.int .sum ty) vm vb va vd → ty ≠ .x16 →
        let w := ty.width
        t.wrote b false vd (BitVec.ofInt 64 (Int.bmod ((e.sb.toNat +
          (((List.range (elemCount (groupSize e.grp) w)).filter fun i => x.isActive vm w i).map fun i => x.elem va.toNat w i).sum : Nat) : Int)
          (2 ^ w)))) ∧
      (e.instr = .vcsum b vb va vd →
        t.wrote b false vd ((crc32cFrom (e.sb.setWidth 32)
          ((List.range (2048 * groupSize e.grp)).map fun i => BitVec.ofNat 8 (x.elem va.toNat 8 i))).zeroExtend 64))

/-- Vector loads and stores of whole bytes complete (R250, R266, R269, R271): element i moves between its register and the bytes at its address, which
is ra + i × size, ra + i × rx, or ra plus element i of the index group. A store leaves every byte as it is that lies in no active element; where
elements overlap, the highest stands. The arcade (R235, R243, R251, R272, R273): acfill takes 2,048 bytes of local store into a line, acput a vector
register, each setting the line valid with its address or FROM_REG; acdrop and acdropall make lines invalid. Where the model chose or inferred: log
entries 22, 24, 25. -/
def Obligations.VectorMemoryCompletes : Prop :=
  (∀ (s : State) (b : BlockId) (e : QEntry) (rest : List QEntry) (fn : VmFn) (w vm : BitVec 3) (rx ra vd : Reg),
     (s.blk b).vec.run = e :: rest → s.branchTicks b 1 = true → s.branchTicks b 5 = true →
     matrixUnit e.instr = none → w.toNat < 4 → fn ≠ .mask →
     let x := s.blk b
     let m := 2 ^ w.toNat
     let n := elemCount (groupSize e.grp) (8 * m)
     let addr := fun i => match fn with
       | .strided => (e.sa + BitVec.ofNat 64 i * e.sb).toNat
       | .indexed => e.sa.toNat + x.vec.elem rx.toNat 32 i
       | _ => e.sa.toNat + i * m
     let act := fun i => x.vec.isActive vm (8 * m) i
     e.sa.toNat + n * m ≤ 2 ^ 64 →
     ∃ t, exec (.vectorEngineComplete b none []) s = .next t ∧ (t.blk b).vec.run = rest ∧
       (e.instr = .vectorLoad b fn w vm rx ra vd →
         (∀ i < n, (t.blk b).vec.elem vd.toNat (8 * m) i = if act i then bytesAt x.ls (addr i) m else x.vec.elem vd.toNat (8 * m) i) ∧
         (∀ r, (r < vd.toNat ∨ vd.toNat + regCount n (8 * m) ≤ r) → look 0 (t.blk b).vec.v r = look 0 x.vec.v r) ∧ (t.blk b).ls = x.ls) ∧
       (e.instr = .vectorStore b fn w vm rx ra vd →
         (∀ i < n, act i = true → (∀ j, i < j → j < n → act j = true → addr j + m ≤ addr i ∨ addr i + m ≤ addr j) →
           bytesAt (t.blk b).ls (addr i) m = x.vec.elem vd.toNat (8 * m) i) ∧
         (∀ k, (∀ i < n, act i = true → k < addr i ∨ addr i + m ≤ k) → mget (t.blk b).ls k = mget x.ls k) ∧
         (t.blk b).vec.v = x.vec.v)) ∧
  ∀ (s : State) (b : BlockId) (e : QEntry) (rest : List QEntry) (line : BitVec 4) (vs ra : Reg),
    (s.blk b).vec.run = e :: rest → s.branchTicks b 1 = true → s.branchTicks b 5 = true →
    e.instr ∈ [.acfill b line ra, .acput b line vs, .acdrop b line, .acdropall b] →
    let x := s.blk b
    let l := fun (y : Block) (n : Nat) => look AcLine.reset y.vec.ac n
    ∃ t, exec (.vectorEngineComplete b none []) s = .next t ∧ (t.blk b).vec.run = rest ∧ (t.blk b).ls = x.ls ∧ (t.blk b).vec.v = x.vec.v ∧
      (e.instr = .acfill b line ra → (l (t.blk b) line.toNat).valid = true ∧ (l (t.blk b) line.toNat).fromReg = false ∧
        (l (t.blk b) line.toNat).addr = e.sa.setWidth 48 ∧ (l (t.blk b) line.toNat).data.toNat = mloadN x.ls e.sa.toNat 2048 ∧
        ∀ n, n ≠ line.toNat → l (t.blk b) n = l x n) ∧
      (e.instr = .acput b line vs → (l (t.blk b) line.toNat) = ⟨look 0 x.vec.v vs.toNat, true, 0, true⟩ ∧
        ∀ n, n ≠ line.toNat → l (t.blk b) n = l x n) ∧
      (e.instr = .acdrop b line → (l (t.blk b) line.toNat).valid = false ∧ (l (t.blk b) line.toNat).data = (l x line.toNat).data ∧
        ∀ n, n ≠ line.toNat → l (t.blk b) n = l x n) ∧
      (e.instr = .acdropall b → ∀ n < 16, (l (t.blk b) n).valid = false)

/-- A matrix product of INT8 tiles completes exactly (R290, R305, R308): accumulator element (r, c) takes the sum of the products of row r of ta and
column c of tb, modulo 2^32, on top of its old value or of 0; the tile registers, the other accumulators and the flags keep their values. A
floating-point product completes element by element (R291, R305 to R313): element (r, c) depends on row r of ta, column c of tb, their block scales
and its own old value alone, and the flags of all 256 elements are ORed in. Where the model chose or inferred: log entries 22, 55. -/
def Obligations.MatrixProductsComplete : Prop :=
  (∀ (s : State) (b : BlockId) (e : QEntry) (rest : List QEntry) (z : Bool) (tb ta zd : BitVec 3),
     (s.blk b).mtx.array = e :: rest → e.instr = .mma b z false 10 10 tb ta zd → s.branchTicks b 2 = true →
     let x := (s.blk b).mtx
     let val := fun (t : BitVec 3) (i k : Nat) => (BitVec.ofNat 8 (x.tileByte t (128 * i + k))).toInt
     ∃ t, exec (.matrixUnitComplete b .array none []) s = .next t ∧ (t.blk b).mtx.array = rest ∧ (t.blk b).mtx.ops = x.ops + 1 ∧
       (∀ r < 16, ∀ c < 16, ((t.blk b).mtx.accElem zd r c : Int) =
         (((if z then 0 else x.accElem zd r c : Nat) : Int) + ((List.range 128).map fun k => val ta r k * val tb c k).sum) % 2 ^ 32) ∧
       (∀ n, n ≠ zd.toNat → look 0 (t.blk b).mtx.z n = look 0 x.z n) ∧ (t.blk b).mtx.t = x.t ∧ (t.blk b).fp = (s.blk b).fp ∧
       (t.blk b).vec = (s.blk b).vec ∧ (t.blk b).ls = (s.blk b).ls) ∧
  ∀ (s : State) (b : BlockId) (e : QEntry) (rest : List QEntry) (mx z mode : Bool) (typb typa : BitVec 4) (ts tb ta zd : BitVec 3),
    (s.blk b).mtx.array = e :: rest → s.branchTicks b 2 = true →
    (mx = false → e.instr = .mma b z mode typb typa tb ta zd ∧ typa ≠ 9 ∧ typa ≠ 10) → (mx = true → e.instr = .mmx b z mode typb typa ts tb ta zd) →
    pairOk mx mode typa.toNat typb.toNat = true →
    let x := (s.blk b).mtx
    let k := tileK typa.toNat
    let row := fun (t : BitVec 3) (ty i : Nat) =>
      (chop (tileBits ty) k ((look 0 x.t t.toNat).toNat / 2 ^ (tileBits ty * k * i))).map (tileValue mx ty)
    let scale := fun i => chop 8 (k / 32) ((look 0 x.t ts.toNat).toNat / 2 ^ (8 * i))
    let elem := fun r c => fltElement mode (if z then none else some (x.accElem zd r c)) (row ta typa.toNat r) (row tb typb.toNat c)
      (if mx then some (scale (k / 32 * r), scale (1024 + k / 32 * c)) else none)
    ∃ t, exec (.matrixUnitComplete b .array none []) s = .next t ∧ (t.blk b).mtx.array = rest ∧
      (∀ r < 16, ∀ c < 16, (t.blk b).mtx.accElem zd r c = (elem r c).1 % 2 ^ 32) ∧
      (∀ n, n ≠ zd.toNat → look 0 (t.blk b).mtx.z n = look 0 x.z n) ∧ (t.blk b).mtx.t = x.t ∧
      (∀ i < 6, (t.blk b).fp.flags.getLsbD i = ((s.blk b).fp.flags.getLsbD i ||
        (List.range 256).any fun j => (elem (j / 16) (j % 16)).2.getLsbD i)) ∧
      (t.blk b).vec = (s.blk b).vec ∧ (t.blk b).ls = (s.blk b).ls

/-- Tile transfers and moves complete (R302, R314 to R319): row r of a tile load comes from ra + r × stride, 96-byte rows leave the last 512 bytes 0,
a tile store writes its rows there and no other byte, zclr clears an accumulator, and the moves copy whole registers or halves. Where the model chose
or inferred: log entries 22, 25. -/
def Obligations.TileTransfersComplete : Prop :=
  ∀ (s : State) (b : BlockId) (e : QEntry) (rest : List QEntry) (rs ra v : Reg) (r : BitVec 3) (h : Bool),
    let x := s.blk b
    let row := fun i => (e.sa + BitVec.ofNat 64 i * e.sb).toNat
    (x.mtx.port = e :: rest → s.branchTicks b 2 = true → s.branchTicks b 5 = true →
      ∃ t, exec (.matrixUnitComplete b .tilePort none []) s = .next t ∧ (t.blk b).mtx.port = rest ∧
        (e.instr = .tld b rs ra r → ∀ i < 16, ∀ j < 128, (t.blk b).mtx.tileByte r (128 * i + j) = (mget x.ls (row i + j)).toNat) ∧
        (e.instr = .tld6 b rs ra r → (∀ i < 16, ∀ j < 96, (t.blk b).mtx.tileByte r (96 * i + j) = (mget x.ls (row i + j)).toNat) ∧
          ∀ j < 512, (t.blk b).mtx.tileByte r (1536 + j) = 0) ∧
        (e.instr = .zld b rs ra r → ∀ i < 16, ∀ j < 64, (t.blk b).mtx.accByte r (64 * i + j) = (mget x.ls (row i + j)).toNat) ∧
        (e.instr = .zclr b r → ∀ j, (t.blk b).mtx.accByte r j = 0) ∧
        (∀ len, (e.instr = .tst b rs ra r ∧ len = 128) ∨ (e.instr = .tst6 b rs ra r ∧ len = 96) ∨ (e.instr = .zst b rs ra r ∧ len = 64) →
          (∀ i < 16, (∀ i', i < i' → i' < 16 → row i' + len ≤ row i ∨ row i + len ≤ row i') → ∀ j < len,
            (mget (t.blk b).ls (row i + j)).toNat =
              if len = 64 then x.mtx.accByte r (len * i + j) else x.mtx.tileByte r (len * i + j)) ∧
          (∀ k, (∀ i < 16, k < row i ∨ row i + len ≤ k) → mget (t.blk b).ls k = mget x.ls k) ∧
          (t.blk b).mtx.t = x.mtx.t ∧ (t.blk b).mtx.z = x.mtx.z)) ∧
    (x.vec.run = e :: rest → s.branchTicks b 1 = true →
      ∃ t, exec (.matrixUnitComplete b .vector none []) s = .next t ∧
        (e.instr = .tfromv b r v → look 0 (t.blk b).mtx.t r.toNat = look 0 x.vec.v v.toNat ∧ (t.blk b).vec.v = x.vec.v) ∧
        (e.instr = .tov b r v → look 0 (t.blk b).vec.v v.toNat = look 0 x.mtx.t r.toNat ∧ (t.blk b).mtx.t = x.mtx.t) ∧
        (e.instr = .zfromv b h r v → look 0 (t.blk b).mtx.z r.toNat = (look 0 x.vec.v v.toNat).extractLsb' (if h then 8192 else 0) 8192 ∧
          (t.blk b).vec.v = x.vec.v) ∧
        (e.instr = .ztov b h r v →
          (look 0 (t.blk b).vec.v v.toNat).extractLsb' (if h then 8192 else 0) 8192 = look 0 x.mtx.z r.toNat ∧
          (look 0 (t.blk b).vec.v v.toNat).extractLsb' (if h then 0 else 8192) 8192 =
            (look 0 x.vec.v v.toNat).extractLsb' (if h then 0 else 8192) 8192 ∧ (t.blk b).mtx.z = x.mtx.z))

/-! ## Planned execution -/

/-- Epochs from boundary to boundary (R50, R51, R57, R79, R83): cycle 0 of the next epoch latches what the epoch before did and changes none of the
gate registers, which change together at cycle 128; the last cycle ends the planned part; the start time begins E0 and makes a plan that is STARTING
run; no epoch 2^64 − 1 begins, the plan stops there; the stop boundary, up to the gate instant of the stop epoch, makes a plan that is STOPPING bound. The gate (R60, R61, R63, R75, R76, R87): at the gate instant epoch E − 1 settles, valid
without a voiding fault and void otherwise, with the void streak and the valid count following; then the decision for E is formed, whose cause is the
first that fails of: the plan is not halted, E − 1 was not void, every upstream milestone of its epoch has come and says that it ran, every intake has
a filled slot. A running epoch consumes one slot of each intake, and a bubble is counted under its cause. Where the model chose or inferred: log
entries 8, 29, 30, 31, 33. -/
def Obligations.EpochCommands : Prop :=
  (∀ s : State,
     (s.epoch.atEnd = true → (s.plan = .running ∨ s.plan = .halted) → s.epoch.num + 1 = 0xFFFFFFFFFFFFFFFF →
       ∃ t, exec .epochBoundary s = .next t ∧ t.plan = .bound ∧ t.epoch.active = false) ∧
     (s.epoch.atEnd = true → (s.plan = .running ∨ s.plan = .halted) → s.epoch.num + 1 ≠ 0xFFFFFFFFFFFFFFFF →
       ∃ t, exec .epochBoundary s = .next t ∧ t.plan = s.plan ∧
         t.epoch.num = s.epoch.num + 1 ∧ t.epoch.cycle = 0 ∧ t.epoch.active = true ∧ t.epoch.begun = false ∧ t.epoch.ended = false ∧
         t.epoch.decision = none ∧ t.epoch.latched = s.epoch.faults ∧
         ((∀ p < 8, (s.port p).planned = true → (s.port p).st = .active) → t.epoch.faults = .reset) ∧
         t.epoch.prevRan = (if s.epoch.settled then .none else s.epoch.outcome) ∧
         t.epoch.outcome = s.epoch.outcome ∧ t.epoch.prev = s.epoch.prev ∧ t.epoch.cause = s.epoch.cause ∧ t.epoch.streak = s.epoch.streak ∧
         t.epoch.validCount = s.epoch.validCount) ∧
     (∀ (missed : List BlockId) (run : Bool) (cause : BitVec 3), s.epoch.active = true → s.epoch.begun = false → s.epoch.decision = some (run, cause) →
       ∃ t, exec (.gateDecisionEffect missed) s = .next t ∧ t.epoch.begun = true ∧ t.epoch.cycle = max 128 s.epoch.cycle ∧
         t.epoch.outcome = s.epoch.nxt.outcome ∧ t.epoch.prev = s.epoch.nxt.prev ∧ t.epoch.lastRunVoid = s.epoch.nxt.lastRunVoid ∧
         t.epoch.cause = s.epoch.nxt.cause ∧ t.epoch.streak = s.epoch.nxt.streak ∧ t.epoch.validCount = s.epoch.nxt.validCount ∧
         (missed ≠ [] → s.planMoves = true → s.epoch.haltAt = none → t.epoch.haltAt = some 9) ∧
         (run = true → ∀ b ∈ s.listed, isLogical b = true → b ∉ missed → (s.blk b).clk.mode = .run → s.pllOn (quarterOf b) = true →
           t.pcOf b = (s.blk b).core.entry ∧ (t.blk b).core.fetching = true ∧ (t.blk b).core.inProgram = true ∧
           (t.blk b).core.loopActive = false ∧ (t.blk b).core.delivered = [] ∧ (t.blk b).priv.ctx = (s.blk b).priv.epochCtx ∧
           (t.blk b).priv.mask = (s.blk b).priv.epochMask ∧ (t.blk b).priv.tsbpM.occ = false)) ∧
     (s.epoch.active = true → s.epoch.begun = true → s.epoch.ended = false →
       ∃ t, exec .epochEnd s = .next t ∧ t.epoch.ended = true ∧ t.epoch.cycle = max (2 ^ s.k - 1) s.epoch.cycle ∧ t.epoch.num = s.epoch.num ∧
         t.plan = s.plan) ∧
     (s.plan = .starting → s.epoch.active = false → s.pl.e0 = 0xFFFFFFFFFFFFFFFF →
       ∃ t, exec .planStartTime s = .next t ∧ t.plan = .bound ∧ t.epoch.active = false) ∧
     (s.plan = .starting → s.epoch.active = false → s.pl.e0 ≠ 0xFFFFFFFFFFFFFFFF →
       ∃ t, exec .planStartTime s = .next t ∧ t.plan = .running ∧ t.epoch.active = true ∧ t.epoch.num = s.pl.e0 ∧ t.epoch.cycle = 0 ∧
         t.epoch.begun = false ∧ t.epoch.decision = none) ∧
     (s.plan = .stopping → (s.epoch.atEnd = true ∧ s.pl.stopEpoch ≤ s.epoch.num + 1 ∨
         s.epoch.active = true ∧ s.epoch.begun = false ∧ s.epoch.decision = none ∧ s.pl.stopEpoch ≤ s.epoch.num ∨
         s.epoch.active = false ∧ s.pl.stopEpoch ≤ s.pl.e0) →
       ∃ t, exec .planStopBoundary s = .next t ∧ t.plan = .bound ∧ t.epoch.active = false ∧ t.pl.recs = [] ∧
         (∀ e ∈ t.blocks, e.2.msg.hold = []))) ∧
  ∀ s : State,
    (s.gateCause =
      if s.plan = .halted then 5
      else if s.epoch.lastGated = some (s.epoch.num - 1) ∧ s.epoch.nxt.prev = .void then 1
      else if ∃ u ∈ s.pl.upstream, ∃ o, s.pl.milestone u.1 (s.epoch.num - BitVec.ofNat 64 u.2) = some o ∧ o ≠ 1 then 2
      else if ∃ u ∈ s.pl.upstream, s.pl.milestone u.1 (s.epoch.num - BitVec.ofNat 64 u.2) = none then 3
      else if ∃ i ∈ s.intakes, i.2.slots[i.2.point]? ≠ some .filled then 4 else 0) ∧
    (s.epoch.active = true → s.epoch.begun = false → s.epoch.decision = none → (s.plan = .stopping → s.epoch.num < s.pl.stopEpoch) →
      ∃ t cause, exec .gateInstant s = .next t ∧ t.epoch.decision = some (decide (cause = 0), cause) ∧
        t.epoch.nxt.outcome = (if cause = 0 then .run else .bubble) ∧ t.epoch.prevRan = .none ∧ t.epoch.num = s.epoch.num ∧
        (s.plan = .halted → cause = 5) ∧
        (s.epoch.prevRan = .none → s.plan = .running → s.epoch.haltAt = none → s.thermal.stop = false →
          cause = s.gateCause ∧ (cause = 0 → t.intakes = s.intakes.map fun e => (e.1, e.2.consume)) ∧
          (cause ≠ 0 → t.intakes = s.intakes ∧
            t.counter 0xB001 cause.toNat = min (s.counter 0xB001 cause.toNat + 1) (2 ^ 64 - 1))) ∧
        (s.epoch.prevRan = .run → s.epoch.latched.first = none →
          s.epoch.bookSent % 2 ^ 64 = (s.epoch.bookRecv + s.epoch.bookFlight) % 2 ^ 64 →
          t.epoch.nxt.prev = .valid ∧ t.epoch.nxt.streak = 0 ∧ t.epoch.nxt.validCount = s.epoch.nxt.validCount + 1 ∧
          t.epoch.nxt.lastRunVoid = false) ∧
        (s.epoch.prevRan = .run → s.epoch.latched.first ≠ none →
          t.epoch.nxt.prev = .void ∧ t.epoch.nxt.lastRunVoid = true ∧ t.epoch.nxt.validCount = s.epoch.nxt.validCount ∧
          t.epoch.nxt.streak = BitVec.ofNat 8 (min 255 (s.epoch.nxt.streak.toNat + 1)) ∧ cause ≠ 0))

/-! ## Clocks and power -/

/-- The modes of a block and the clocks of a quarter (R632, R634, R635, R637, R638, R640, R642, R646, R647): a power plan entry and a request take a
block to SLEEP or DEEP at once and to RUN by a wake of 8 fcy from SLEEP; a wake that completes leaves RUN, and from DEEP the registers are lost; a
request while a plan moves is ignored; a quarter's clock starts, is released in STANDBY with its blocks in DEEP, and stops. Where the model chose or
inferred: log entries 8, 28, 62. -/
def Obligations.ClockCommands : Prop :=
  ∀ (s : State) (b : BlockId) (q : QuarterId) (v : W64),
    let x := s.blk b
    (∀ c m, x.clk.entries[x.clk.done]? = some (c, m) → s.epoch.active = true → s.thermalHold = false →
      s.pl.runs (quarterOf b) s.epoch.num = true → s.pllOn (quarterOf b) = true → (c < 128 ∨ s.runningPart = true) →
      ∃ t, exec (.powerEntryApply b) s = .next t ∧ (t.blk b).clk.done = x.clk.done + 1 ∧ t.epoch.cycle = max c s.epoch.cycle ∧
        ((m = .sleep ∨ m = .deep) → (t.blk b).clk.mode = m) ∧
        (m = .run → x.clk.mode = .sleep → (t.blk b).clk.mode = .waking ∧ t.wakeLeft b = 8)) ∧
    (x.clk.mode = .waking → s.pllOn (quarterOf b) = true → x.clk.req = none →
      (s.epoch.active = true → s.epoch.cycle + s.wakeLeft b ≤ s.lastCycle) →
      ∃ t, exec (.wakeComplete b) s = .next t ∧ (t.blk b).clk.mode = .run ∧ (t.blk b).clk.wake = none ∧
        (x.clk.left = .deep → (∀ r, t.getG b r = 0 ∧ t.getF b r = 0) ∧ (t.blk b).vec.v = [] ∧ (t.blk b).mtx.t = [] ∧ (t.blk b).mtx.z = [] ∧
          (x.core.inProgram = false → (t.blk b).core.stopped = true)) ∧
        (x.clk.left = .sleep → ∀ r, t.getG b r = s.getG b r ∧ t.getF b r = s.getF b r)) ∧
    (∃ t, exec (.clkReqWrite b v) s = .next t ∧
      (s.clkLocked = true → t = s) ∧
      (s.clkLocked = false → v.toNat % 4 = 3 → t = s) ∧
      (s.clkLocked = false → x.clk.mode = .run → v.toNat % 4 = 1 → (t.blk b).clk.mode = .sleep) ∧
      (s.clkLocked = false → x.clk.mode = .run → v.toNat % 4 = 2 → (t.blk b).clk.mode = .deep ∧ (t.blk b).msg.hold = []) ∧
      (s.clkLocked = false → x.clk.mode = .sleep → v.toNat % 4 = 0 → (t.blk b).clk.mode = .waking) ∧
      (s.clkLocked = false → x.clk.mode = .waking → v.toNat % 4 = 1 → (t.blk b).clk.mode = .waking ∧ (t.blk b).clk.req = some .sleep)) ∧
    (let p := s.pll q.toNat
     (s.planMoves = false → s.isBound = false → p.st = .off → p.starting = false → p.failed = false →
       ∃ t, exec (.quarterPllStart q) s = .next t ∧ t.pll q.toNat = { p with starting := true, mhz := 1000, startAt := s.timeNs }) ∧
     (s.planMoves = true → s.pl.uses q.toNat = true → p.st = .off → p.starting = false → p.failed = false →
       (s.toPllStart q.toNat = none → exec (.quarterPllStart q) s = .next s) ∧
       ∀ e, s.epoch.active = true → s.pl.nextRun q.toNat s.epoch.num = some e →
         let left := (e - s.epoch.num).toNat * 2 ^ s.k - s.epoch.cycle
         14 * s.pl.mhz ≤ left → s.epoch.cycle + (left - 14 * s.pl.mhz) ≤ s.lastCycle →
         ∃ t, exec (.quarterPllStart q) s = .next t ∧ t.epoch.cycle = s.epoch.cycle + (left - 14 * s.pl.mhz) ∧
           t.pll q.toNat = { p with starting := true, mhz := s.pl.mhz, startAt := t.timeNs }) ∧
     (p.starting = true → s.passWithin (s.cyclesTo (p.startAt + 12000)) ≠ none → ∃ t, exec (.quarterPllRelease q) s = .next t ∧
       (t.pll q.toNat).st = .standby ∧ (t.pll q.toNat).starting = false ∧
       ∀ c, quarterOf c = q.toNat → (t.blk c).clk.mode = .deep) ∧
     (s.planMoves = true → s.epoch.active = true → s.pl.uses q.toNat = true → s.pl.runs q.toNat s.epoch.num = false →
       (s.epoch.num = s.pl.e0 ∨ s.pl.runs q.toNat (s.epoch.num - 1) = true) → s.pl.nextRun q.toNat s.epoch.num = none →
       ∃ t, exec (.quarterPllStop q) s = .next t ∧ (t.pll q.toNat).st = .off ∧ ∀ c, quarterOf c = q.toNat → (t.blk c).clk.mode = .deep))

/-! ## Messages on the crossing -/

/-- A message on its way (R388 to R400, R405, R408, R409, R412, R413): the flits of a send entry carry its bytes, its tag and good parity, one per cycle,
behind what the local input holds already; an entry whose cycle the epoch does not have is never sent; a flit that fails its parity is discarded and charged,
a flit at an input that no output names is dropped, and one that a neighbour's output takes is there two cycles later; a frame's slot carries a flit's tag
and payload under a CRC-16, and one that fails it brings none and charges the epoch; a landing buffer holds 8 flits and shows them in their order, no
earlier than 8 cycles after they left; a pickup takes the head once it is visible, or from the thirteenth cycle on; a hold buffer takes a flit with its release epoch; a complete message in its release cycle is
delivered to the slot of its count. Where the model chose or inferred: log entries 8, 34, 35. -/
def Obligations.MessageCommands : Prop :=
  (∀ (e : SendEntry) (l : List Byte) (c : Nat), l.length = 32 * (e.nfm1.toNat + 1) →
    (messageFlits e l c).length = e.nfm1.toNat + 1 + (if e.guard then 1 else 0) ∧
    ∀ j < e.nfm1.toNat + 1, ∃ f, (messageFlits e l c)[j]? = some (f, c + 1 + j) ∧ leBytes 32 f.payload.toNat = (l.drop (32 * j)).take 32 ∧
      f.ch = e.ch ∧ f.last = decide (j = e.nfm1.toNat) ∧ f.world = e.world ∧ f.trailer = false ∧ f.lag = e.lag.toNat ∧ f.rcycle = e.rcycle.toNat ∧
      f.parityOk = true) ∧
  (∀ f : Flit, let r := slotBits (some f)
    crc16 304 (r.setWidth 304) = r.extractLsb' 304 16 ∧ r.getLsbD 296 = true ∧ r.extractLsb' 256 40 = f.tag ∧ r.extractLsb' 0 256 = f.payload) ∧
  (∀ (s : State) (u : UcieEnd) (m : BitVec 4) (noise : List (BitVec 64)), ucieDies u ≠ none → ∀ n < 4,
    let at_ := ucieInput u (4 * m.toNat + n)
    ∀ f c rest, s.wireOf at_ = (f, c) :: rest → s.frameCycle u m.toNat = some c →
      let r := slotBits (some f) ^^^ noiseBits noise (5 * n) 320
      let good := crc16 304 (r.setWidth 304) = r.extractLsb' 304 16
      ∃ t, exec (.ucieFrameReceive u ⟨m, noise⟩) s = .next t ∧ t.wireOf at_ = rest ∧
        (good → r.getLsbD 296 = true → (s.landOf at_).length < 8 →
          t.landOf at_ = s.landOf at_ ++ [⟨mkFlit (r.extractLsb' 256 40) (r.extractLsb' 0 256), false, 0, c⟩]) ∧
        (8 ≤ (s.landOf at_).length → t.landOf at_ = s.landOf at_) ∧
        (¬good → t.landOf at_ = s.landOf at_ ∧ (s.epoch.charges = true → t.epoch.faults.first ≠ none))) ∧
  (∀ (s : State) (b : BlockId) (d : Dir),
    let x := s.blk b
    let k := dirCode d
    let i := x.msg.nextAt s.epoch.cycle
    let e := look SendEntry.reset x.msg.send i
    let n := e.nfm1.toNat + 1
    (s.runningPart = true → s.branchTicks b 3 = true → i < x.msg.nsend.toNat → 2 ^ s.k ≤ e.scycle.toNat →
      ∃ t, exec (.messageSend (.block b) .ok) s = .next t ∧ (t.blk b).xng = x.xng ∧ (t.blk b).msg.tx = x.msg.tx ∧ t.epoch = s.epoch) ∧
    (s.runningPart = true → s.branchTicks b 3 = true → s.branchTicks b 5 = true → i < x.msg.nsend.toNat → e.scycle.toNat < 2 ^ s.k →
      s.epoch.cycle ≤ e.scycle.toNat → x.core.parked = false → inLs e.src.toNat (32 * n) = true → x.msg.busyTo ≤ e.scycle.toNat →
      ∃ t, exec (.messageSend (.block b) .ok) s = .next t ∧ t.epoch.cycle = e.scycle.toNat ∧
        look [] (t.blk b).xng.inp 5 = look [] x.xng.inp 5 ++ messageFlits e (mload x.ls e.src.toNat (32 * n)) e.scycle.toNat ∧
        (t.blk b).msg.next = BitVec.ofNat 10 (i + 1) ∧ (t.blk b).msg.tx = x.msg.tx + BitVec.ofNat 64 (n + if e.guard then 1 else 0) ∧
        (t.blk b).ls = x.ls) ∧
    (∀ f c rest noise, look [] x.xng.inp k = (f, c) :: rest → s.pllOn (quarterOf b) = true → c < 2 ^ s.k →
      let f' := f.turned noise
      ∃ t, exec (.crossingFlitArrival (.block b d) noise) s = .next t ∧
        (f'.parityOk = false → (t.blk b).xng.parity = x.xng.parity + 1 ∧ look [] (t.blk b).xng.inp k = rest ∧
          (s.epoch.charges = true → t.epoch.faults = s.epoch.faults.add 2 (blkRef b))) ∧
        (f'.parityOk = true → s.runningPart = false ∨ x.xng.outputs c k = [] →
          (t.blk b).xng.drops = x.xng.drops + 1 ∧ look [] (t.blk b).xng.inp k = rest) ∧
        (∀ o m j, f'.parityOk = true → s.runningPart = true → x.xng.outputs c k = [o] → m ≠ b →
          (s.hop b o = .inner m j → look [] (t.blk m).xng.inp j = look [] (s.blk m).xng.inp j ++ [(f', c + 2)] ∧
            look [] (t.blk b).xng.inp k = rest ∧ (t.blk b).xng.drops = x.xng.drops) ∧
          (s.hop b o = .across m j → look [] (t.blk m).xng.wire j = look [] (s.blk m).xng.wire j ++ [(f', c)] ∧
            look [] (t.blk b).xng.inp k = rest ∧ (t.blk b).xng.drops = x.xng.drops))) ∧
    (∀ f c rest noise, look [] x.xng.inp k = (f, c) :: rest → 2 ^ s.k ≤ c → exec (.crossingFlitArrival (.block b d) noise) s = .next s) ∧
    (∀ pre h post, look [] x.xng.land k = pre ++ h :: post → (∀ g ∈ pre, g.visible = true) → h.visible = false → h.left + 8 < 2 ^ s.k →
      ∃ t, exec (.landingFlitVisible (.block b d)) s = .next t ∧ look [] (t.blk b).xng.land k = pre ++ { h with visible := true } :: post ∧
        (s.epoch.active = true → t.epoch.cycle = max (h.left + 8) s.epoch.cycle)) ∧
    (s.runningPart = true → s.pllOn (quarterOf b) = true → s.landingInput (.block b d) = true → s.pickedOf (.block b d) ≠ s.epoch.cycle + 1 →
      x.xng.outputs s.epoch.cycle k ≠ [] →
      ∃ t, exec (.pickup (.block b d)) s = .next t ∧ t.pickedOf (.block b d) = s.epoch.cycle + 1 ∧
        ((∀ h rest, look [] x.xng.land k = h :: rest → h.visible = false ∧ s.epoch.cycle < h.left + 13) → (t.blk b).xng.miss.toNat = min (x.xng.miss.toNat + 1) 0xFFFFFFFF ∧
          (t.blk b).xng.land = x.xng.land) ∧
        (∀ h rest o m j, look [] x.xng.land k = h :: rest → h.visible = true ∨ h.left + 13 ≤ s.epoch.cycle → x.xng.outputs s.epoch.cycle k = [o] →
          s.hop b o = .inner m j → m ≠ b → look [] (t.blk b).xng.land k = rest ∧
          look [] (t.blk m).xng.inp j = look [] (s.blk m).xng.inp j ++ [(h.flit, s.epoch.cycle + 2)])) ∧
    (∀ f c rest, x.xng.outL = (f, c) :: rest →
      ∃ t, exec (.holdBufferEntry (.block b)) s = .next t ∧ (t.blk b).xng.outL = rest ∧
        (x.msg.hold.length < 128 → (f.trailer = true → (look RxChan.reset x.msg.rxc f.ch.toNat).guard = true) →
          (t.blk b).msg.hold = x.msg.hold ++ [⟨f, s.epoch.num + BitVec.ofNat 64 f.lag, s.epoch.num, c⟩] ∧ (t.blk b).msg.rx = x.msg.rx + 1) ∧
        (128 ≤ x.msg.hold.length → (t.blk b).msg.hold = x.msg.hold ∧
          (s.epoch.charges = true → t.epoch.faults = s.epoch.faults.add 4 (blkRef b)))) ∧
    (∀ i l h, s.runningPart = true → releaseAt x.msg.hold s.epoch.num i = some (l, h) →
      let r := look RxChan.reset x.msg.rxc h.flit.ch.toNat
      let n := look 0 x.core.delivered h.flit.ch.toNat
      let a := r.base.toNat + n % (max r.slots.toNat 1) * (r.sfm1.toNat + 1) * 32
      complete r.guard l = true → lateHeld l s.epoch.num = false → s.receives b = true → (r.guard = true → guardOk l = true) → r.en = true →
      h.flit.world = r.world → heldWords l ≤ r.sfm1.toNat + 1 → n < r.expect.toNat → inLs a (32 * heldWords l) = true →
      ∃ t, exec (.messageRelease (.block b) i) s = .next t ∧ look 0 (t.blk b).core.delivered h.flit.ch.toNat = n + 1 ∧
        mload (t.blk b).ls a (32 * heldWords l) = messageBytes l ∧
        (∀ j, (j < a ∨ a + 32 * heldWords l ≤ j) → mget (t.blk b).ls j = mget x.ls j) ∧
        (t.blk b).msg.hold = x.msg.hold.filter (fun g => !decide (g.key = h.key)) ∧ t.epoch.cycle = max h.flit.rcycle s.epoch.cycle))

/-! ## Access from outside a block -/

/-- Footpath packets and register writes (R9, R99, R175, R344, R351, R414 to R417, R893), for a packet that has come over its link whole: one for another
node goes on toward it; a load is answered with the bytes, a store writes its bytes and is acknowledged, each with the rights of its tag; a word goes to an
outstanding mbx.recv, or to a mailbox of fewer than 16; a packet with a reserved KIND or TAG is counted and gone; a write by the host to a block's register
has the rights of M; a debug access leaves from E0 with the M tag while a custodian lease is in force, and else only the instruction is loaded. Where the
model chose or inferred: log entries 16, 17, 58, 76. -/
def Obligations.OutsideAccesses : Prop :=
  ∀ (s : State) (b : BlockId) (p : FpPacket),
    let x := s.blk b
    let a := p.addr.toNat % 2 ^ 26
    let here := s.fpCoord b
    (∀ link tr, s.footpath.find? (fun t => decide (t.at_ = s.nodePos (.block b) ∧ t.from_ = link ∧ t.pkt = p)) = some tr → s.crossed tr = true → tr.bad = false →
      let arrives := fun (u : State) => exec (.footpathPacketReceive (.block b) p link .ok) s = .next u
      let replies := fun (u : State) (r : FpPacket) => ∀ yx, s.fpRoute here (packetSource p) = some yx →
        u.footpath = s.footpath.erase tr ++ [⟨here, nextHop yx here (packetSource p), yx, 0, false, r⟩]
      (packetDest p = tr.at_ → s.reachable b = true → ∀ t, WTag.ofCode p.tag = some t →
        (p.kind = 0 → inLs a (packetAsked p) = true → x.priv.lsBytes (Who.foot t).ctx a (packetAsked p) = true →
          ∃ u, arrives u ∧ u.blocks = s.blocks ∧ replies u (answer p 1 0 (wordsOf (mload x.ls a (packetAsked p))))) ∧
        (p.kind = 2 → p.size ≤ 8 * p.data.length → inLs a p.size = true → x.priv.lsBytes (Who.foot t).ctx a p.size = true →
          ∃ u, arrives u ∧ mload (u.blk b).ls a p.size = packetData p ∧ (∀ k, (k < a ∨ a + p.size ≤ k) → mget (u.blk b).ls k = mget x.ls k) ∧
            replies u (answer p 3 0 [])) ∧
        (p.kind = 5 → let w := (p.data[0]?).getD 0
          ∃ u, arrives u ∧
            (∀ r, x.core.recvs.find? (fun r => decide (r.2 = t)) = some r → (u.blk b).mbox = x.mbox ∧ (u.blk b).core.recvs = x.core.recvs.erase r ∧
              (u.blk b).core.longOps = x.core.longOps ++ [⟨.l1, false, r.1, w, 0, false⟩] ∧ u.pcOf b = s.pcOf b ∧ replies u (answer p 3 0 [])) ∧
            ((∀ r ∈ x.core.recvs, r.2 ≠ t) → x.mbox.length < 16 → (u.blk b).mbox = x.mbox ++ [⟨t, w⟩] ∧ replies u (answer p 3 0 [])) ∧
            ((∀ r ∈ x.core.recvs, r.2 ≠ t) → 16 ≤ x.mbox.length → (u.blk b).mbox = x.mbox ∧ replies u (answer p 4 4 [])))) ∧
      ((8 ≤ p.kind.toNat ∨ p.tag = 3) → p.kind ≠ 7 → ∃ u, arrives u ∧
        u.footpath = s.footpath.erase tr ∧ u.counter 0x4001 1 = min (s.counter 0x4001 1 + 1) (2 ^ 64 - 1) ∧ u.blocks = s.blocks) ∧
      (p.kind = 7 → p.tag = 3 → ∃ u, arrives u ∧ u.footpath = s.footpath.erase tr ∧ u.blocks = s.blocks) ∧
      (p.kind.toNat < 8 → p.tag ≠ 3 → packetDest p ≠ tr.at_ → ∃ u, arrives u ∧ u.blocks = s.blocks ∧
        u.footpath = s.footpath.erase tr ++ [⟨tr.at_, nextHop tr.yx tr.at_ (packetDest p), tr.yx, 0, false, p⟩])) ∧
    (∀ (off : BitVec 32) (v : W64) (m : BitVec 8), off.toNat < 0x10000 → s.barsUp = true →
      s.writeBarred (.block b (0x300000 + off.toNat / 8 * 8)) = false → s.reachable b = true →
      s.wayTo (.block b (0x300000 + off.toNat / 8 * 8)) = true →
      exec (.registerWrite (.block b) off v ⟨m, .served .ok⟩) s = .next (s.crWrite b (.foot .m) (off.toNat / 8 * 8) v (byteMask m)) ∧
      ∀ i < 64, (byteMask m).getLsbD i = m.getLsbD (i / 8)) ∧
    (let q : FpPacket := { p with tag := 2, spx := 0xFE, spy := 0 }
     (s.fastUp && s.debugOpen) = true → ∀ yx, s.fpRoute (0xFE, 0) (packetDest q) = some yx →
       ∃ u, exec (.debug (.access p)) s = .next u ∧ u.footpath = s.footpath ++ [⟨(0xFE, 0), nextHop yx (0xFE, 0) (packetDest q), yx, 0, false, q⟩] ∧
         u.blocks = s.blocks ∧ u.tap.ir = .debug ∧ u.tap.asked = (if packetAsks q then some q.txn else none) ∧ u.tap.reply = none) ∧
    ((s.fastUp && s.debugOpen) = false → exec (.debug (.access p)) s = .next { s with tap := { s.tap with ir := .debug } })

/-! ## Dzixon links -/

/-- The states of a link (R424, R436 to R440, R471, R472): what each event of training, capability exchange and retraining leads to, with the cause; every
change of state is journaled with the new state and the cause; a planned port that is not ACTIVE charges the link fault of R84 once to the epoch. The
stamps of identity frames give the flight time (R438), and three identity frames the peer (R439). Where the model chose or inferred: log entries 36, 69, 72. -/
def Obligations.LinkStates : Prop :=
  ∀ (s : State) (p : PortId) (peer : Identity) (flight : Nat) (cause : BitVec 4),
    let n := p.toNat
    let x := s.port n
    let up := s.portUp n = true ∧ s.boot.loaded.isSome = true
    let goes := fun (c : Instr) (st : LinkSt) (cs : BitVec 4) (events : Nat) => ∃ t, exec c s = .next t ∧ (t.port n).st = st ∧ (t.port n).cause = cs ∧
      t.jnl.raised = s.jnl.raised + events ∧
      (x.planned = true → st ≠ .active → s.epoch.charges = true →
        t.epoch.faults = if n ∈ s.epoch.linkOut then s.epoch.faults else s.epoch.faults.add 7 0xFFFF)
    (x.st = .down → x.en = true → up → goes (.linkSignalDetect p) .train x.cause 1) ∧
    (x.st = .down → x.en = false → exec (.linkSignalDetect p) s = .next s) ∧
    (x.st = .train → goes (.linkTrainTimeout p) .down 3 1 ∧ (x.measured ≠ some flight → exec (.linkTrainComplete p flight) s = .next s) ∧
      (x.measured = some flight →
        (flight ≤ 300 → goes (.linkTrainComplete p flight) .caps x.cause 1 ∧
          ∃ t, exec (.linkTrainComplete p flight) s = .next t ∧ (t.port n).flight.toNat = flight ∧ (t.port n).pad.toNat = 300 - flight) ∧
        (300 < flight → goes (.linkTrainComplete p flight) .down 4 1))) ∧
    (x.st = .caps ∨ x.st = .survey → x.idents < 3 ∨ x.ident ≠ some peer → exec (.capsComplete p peer) s = .next s) ∧
    (x.ident = some peer → 3 ≤ x.idents → x.peer.uid = 0 ∨ x.peer.uid = peer.uid →
      (x.st = .caps → x.forceSurvey = false → peer.linkAbi = s.bundle.linkAbi → goes (.capsComplete p peer) .active x.cause 1) ∧
      (x.st = .caps → x.forceSurvey = true ∨ peer.linkAbi ≠ s.bundle.linkAbi → goes (.capsComplete p peer) .survey x.cause 1) ∧
      (x.st = .survey → x.forceSurvey = false → peer.linkAbi = s.bundle.linkAbi → goes (.capsComplete p peer) .caps x.cause 1) ∧
      (x.st = .caps ∨ x.st = .survey → ∃ t, exec (.capsComplete p peer) s = .next t ∧
        (t.port n).peer = ⟨peer.uid, peer.port, peer.stepping, peer.linkAbi, peer.station, peer.devnum, peer.devValid⟩ ∧
        (t.port n).abiOk = decide (peer.linkAbi = s.bundle.linkAbi))) ∧
    (x.st = .survey → ∃ t, exec (.surveyIdentitySend p) s = .next t ∧ (t.port n).out = x.out ++ [.identity 1 (s.identity n)]) ∧
    (x.st = .active → cause ∈ [2, 6, 7, 8, 9] → goes (.retrainTrigger p cause) .retrain cause 1 ∧ goes (.lnkRetrainRequest p) .retrain 9 1 ∧
      ∃ t, exec (.retrainTrigger p cause) s = .next t ∧ (t.port n).req = 2 ∧ (t.port n).lock = false ∧
        (t.port n).retrains.toNat = min (x.retrains.toNat + 1) 0xFFFF) ∧
    (x.st = .retrain → goes (.retrainTimeout p) .train 5 1 ∧ (x.lock = false ∨ x.ident ≠ some peer ∨ x.measured ≠ some flight → exec (.retrainComplete p flight peer) s = .next s) ∧
      (x.lock = true → x.ident = some peer → x.measured = some flight →
        (flight ≤ 300 → x.peer.uid = 0 ∨ x.peer.uid = peer.uid → goes (.retrainComplete p flight peer) .active x.cause 1) ∧
        (300 < flight → goes (.retrainComplete p flight peer) .down 4 1))) ∧
    (x.st ≠ .disabled → goes (.lnkEnableChange p false) .disabled 1 (if x.st = .down then 1 else 2)) ∧
    (x.st = .disabled → up → goes (.lnkEnableChange p true) .train x.cause 1 ∧
      ∃ t, exec (.lnkEnableChange p true) s = .next t ∧ (t.port n).en = true) ∧
    ∀ l : List Byte, x.st ≠ .active → BitVec.ofNat 32 (leAt l 252 4) = crc32 (l.take 252) → leAt l 0 1 % 16 = 4 → leAt l 1 1 % 4 = 0 →
      let i := identityOf l
      (s.frameReceive n l).port n = { x with
        idents := x.idents + 1, ident := some i, echo := i.txstamp, echoAt := s.linkTime
        measured := if i.echo = 0 then x.measured else some ((BitVec.ofNat 32 s.linkTime - i.echo - i.echoAge).toNat / 2) }

/-- What links carry (R423, R426, R429, R430, R435, R437, R442, R449, R450, R452 to R455): the error counts of decoded and lost blocks, and the lock that a
good header gives a port that trains; the fields of a header that a port sends, and what one that it receives does to credits and replay; an identity frame
carries every field of R435; the flits of a transmit entry in queue order, and none without a frame or by a port that is not ACTIVE; an unplanned frame
against a credit, kept for replay, which frees the receive buffer entry that held a forwarded one; a replay when its acknowledgement does not come, the
eighth of which retrains; a milestone with the record of the epoch before. Where the model chose or inferred: log entries 8, 11, 36. -/
def Obligations.LinkTraffic : Prop :=
  (∀ (m : Nat) (i : Identity), m < 4 → identityOf (Frame.identity m i).body = i ∧ leAt (Frame.identity m i).body 1 1 = m) ∧
  (∀ x : DPort, x.header.extractLsb' 0 16 = x.bseq ∧ x.header.extractLsb' 16 16 = x.rxNext ∧ x.header.extractLsb' 32 12 = x.vc0.freed ∧
    x.header.extractLsb' 44 12 = x.vc1.freed ∧ x.header.extractLsb' 56 2 = x.req ∧ x.header.extractLsb' 58 6 = 0) ∧
  ∀ (s : State) (p : PortId),
    let n := p.toNat
    let x := s.port n
    (∀ blk, x.st.sends = false → exec (.fecBlockReceive p blk) s = .next s) ∧
    (∀ wire lost l c, fecDecode wire = some (l, c) → x.st.sends = true → x.st ≠ .active →
      ∃ t, exec (.fecBlockReceive p ⟨wire, lost⟩) s = .next t ∧ (t.port n).fecCorr = min (x.fecCorr + c) (2 ^ 64 - 1) ∧ (t.port n).badRun = 0 ∧
        (t.port n).st = x.st ∧
        (BitVec.ofNat 16 (leAt l 8 2) = crc16 64 (BitVec.ofNat 64 (leAt l 0 8)) → x.st = .train ∨ x.st = .retrain →
          (t.port n).lock = true ∧ (t.port n).req = 0)) ∧
    (∀ wire lost, fecDecode wire = none → x.st.sends = true →
      ∃ t, exec (.fecBlockReceive p ⟨wire, lost⟩) s = .next t ∧ (t.port n).fecUncorr = min (x.fecUncorr + 1) (2 ^ 64 - 1) ∧
        (x.badRun < 3 → (t.port n).badRun = x.badRun + 1 ∧ (t.port n).st = x.st ∧ (x.st = .active → x.req = 0 → (t.port n).req = 1) ∧
          (0 < lost → x.planned = true → s.runningPart = true → t.epoch.faults.first ≠ none)) ∧
        (3 ≤ x.badRun → x.st = .active → (t.port n).st = .retrain ∧ (t.port n).cause = 6)) ∧
    (∀ h : BitVec 64, h.extractLsb' 56 2 = 0 →
      let y := (s.headerReceive n h).port n
      y.replay = x.replay.filter (fun u => decide ((u.fseq - h.extractLsb' 16 16).toNat < 2 ^ 15)) ∧
      y.vc0.credits = x.vc0.credits + (h.extractLsb' 32 12 - x.vc0.seen).toNat ∧ y.vc0.seen = h.extractLsb' 32 12 ∧
      y.vc1.credits = x.vc1.credits + (h.extractLsb' 44 12 - x.vc1.seen).toNat ∧ y.vc1.seen = h.extractLsb' 44 12) ∧
    (∀ c count, let i := x.nextTx s.epoch.cycle (2 ^ s.k) x.txDone
      x.txCycle i = some (c, count) → s.runningPart = true → x.planned = true → c < 2 ^ s.k → s.epoch.cycle ≤ c →
      ∃ t, exec (.linkTransmitEntry p) s = .next t ∧ (t.port n).txDone = i + 1 ∧ t.epoch.cycle = c ∧
        (x.st ≠ .active → (t.port n).out = x.out ∧ (t.port n).queue = x.queue) ∧
        (x.st = .active → x.queue.length ≤ 64 → (∀ f ∈ x.queue, f.cycle < c ∧ f.epoch = s.epoch.num ∧ f.epoch.toNat + f.flit.lag < 2 ^ 64) →
          (t.port n).queue = x.queue.drop count ∧
          (x.queue = [] ∨ count = 0 → (t.port n).out = x.out ∧ (t.port n).short = x.short + count) ∧
          (x.queue ≠ [] → 0 < count → ∃ fl, (t.port n).out = x.out ++ [.planned (s.epoch.num.setWidth 16) fl] ∧
            fl.map Flit.payload = (x.queue.take count).map (fun f => f.flit.payload) ∧ (t.port n).sentNow = x.sentNow + 1))) ∧
    (∀ vc dst src kind ttl payload, x.st = .active → 0 < (x.vc vc).credits → x.replay.length < 256 →
      let w := x.wait.find? (fun w => decide (w.1 = ⟨0, vc, dst, src, kind, ttl, payload⟩))
      ∃ t, exec (.unplannedFrameSend p vc dst src kind ttl payload) s = .next t ∧
        (t.port n).out = x.out ++ [.unplanned ⟨x.nextSeq, vc, dst, src, kind, ttl, payload⟩] ∧
        (t.port n).replay = x.replay ++ [⟨x.nextSeq, vc, dst, src, kind, ttl, payload⟩] ∧ (t.port n).nextSeq = x.nextSeq + 1 ∧
        ((t.port n).vc vc).credits = (x.vc vc).credits - 1 ∧
        (w.bind Prod.snd = none → (t.port n).vc (!vc) = x.vc (!vc)) ∧
        (∀ q v m, w.bind Prod.snd = some (q, v, m) → ((t.port q).vc v).freed = ((s.port q).vc v).freed + 1 ∧
          ∀ u ∈ ((t.port q).vc v).rx, u.fseq ≠ m)) ∧
    (∀ vc dst src kind ttl payload, (x.vc vc).credits = 0 → exec (.unplannedFrameSend p vc dst src kind ttl payload) s = .next s) ∧
    (x.st = .active → x.replay ≠ [] → ∃ t, exec (.unplannedRetryTimeout p) s = .next t ∧ (t.port n).replay = x.replay ∧
      (t.port n).retry = min (x.retry + x.replay.length) (2 ^ 64 - 1) ∧
      (x.stall < 7 → (t.port n).st = .active ∧ (t.port n).stall = x.stall + 1 ∧ (t.port n).out = x.out ++ x.replay.map Frame.unplanned) ∧
      (7 ≤ x.stall → (t.port n).st = .retrain ∧ (t.port n).cause = 8)) ∧
    (∀ c, x.mcycles[0]? = some c → x.msDone = 0 → s.plan = .running → s.epoch.active = true → s.pl.e0 < s.epoch.num → x.planned = true →
      x.st = .active → s.epoch.begun = true → s.epoch.cycle ≤ c → c ≤ s.lastCycle → x.due = [] →
      ∃ t r, exec (.milestoneSend p true) s = .next t ∧ (t.port n).msDone = 1 ∧
        (t.port n).out = x.out ++ [.milestone ((s.epoch.num - 1).setWidth 16) (BitVec.ofNat 16 x.sentPrev) [r]] ∧
        r.epoch = s.epoch.num - 1 ∧ r.origin = s.devNum ∧ r.outcome = s.epoch.nxt.prev.code)

/-! ## Host interface -/

/-- Doorbells, fetch, validation, completion entries, interrupts, enabling and disabling of queues, resets and power states of the function (R475,
R488 to R495, R497 to R499, R520 to R522). A doorbell moves its pointer, or stops a queue that it points outside of; a fetched entry that passes the
checks of R494 enters the holding register with its ACCEPTED record, and another is rejected with a completion; a completion entry goes to the ring
that has room for it. Other queues are as before. No request goes upstream in D3hot or without Bus Master Enable, and no vector sends its message while
MSI-X is not enabled or the function is masked. Where the model chose or inferred: log entries 11, 60, 63, 75. -/
def Obligations.HostQueueCommands : Prop :=
  ∀ (s : State) (q : QueueId) (v : BitVec 64),
    let x := s.queue q
    let n := (v.extractLsb' 0 12).toNat
    let only := fun (t : State) (y : Queue) => t.queue q = y ∧ ∀ r, r ≠ q → t.queue r = s.queue r
    (x.en = true → n < x.size →
      (∃ t, exec (.sqDoorbellWrite q v) s = .next t ∧ only t { x with sqTail := BitVec.ofNat 12 n } ∧
        t.counter 0xA002 0x10 = (s.counter 0xA002 0x10 + (n + x.size - x.sqTail.toNat) % x.size) % 2 ^ 64) ∧
      (∃ t, exec (.cqDoorbellWrite q v) s = .next t ∧ only t { x with cqHead := BitVec.ofNat 12 n })) ∧
    (x.en = true → x.size ≤ n →
      (∃ t, exec (.sqDoorbellWrite q v) s = .next t ∧ only t { x with error := true, ecode := 1 } ∧ t.hif.evtPend.getLsbD 6 = true) ∧
      (∃ t, exec (.cqDoorbellWrite q v) s = .next t ∧ only t { x with error := true, ecode := 3 } ∧ t.hif.evtPend.getLsbD 6 = true)) ∧
    (x.en = false → exec (.sqDoorbellWrite q v) s = .next s ∧ exec (.cqDoorbellWrite q v) s = .next s) ∧
    (s.hif.linkUp = true → s.bp = false → s.hif.quiet = false → s.fetchTurn = some q →
      (∃ t, exec (.entryFetch q none) s = .next t ∧ only t { x with error := true, ecode := 2 }) ∧
      ∀ e : List Byte, e.length = 64 →
        let head := BitVec.ofNat 12 ((x.sqHead.toNat + 1) % x.size)
        ∃ t, exec (.entryFetch q (some [e])) s = .next t ∧ only t { x with sqHead := head, fetched := [] } ∧ t.hif.turn = (q + 1).toNat ∧
          (s.validate e = 0 → t.bp = true ∧ ∃ r c, t.jnl.holding = some (r, c) ∧ c.entry = e ∧ c.queue = q ∧ c.sqHead = head ∧ r.ty = 1 ∧
            r.time = s.time64 ∧ r.tag.toNat = leAt e 8 8 ∧ r.opcode.toNat = leAt e 0 2 ∧ t.hif.rejects = s.hif.rejects) ∧
          (s.validate e ≠ 0 → t.bp = false ∧ t.hif.rejects = s.hif.rejects + 1 ∧ ∃ c, t.hif.comps = s.hif.comps ++ [c] ∧ c.queue = q ∧
            c.tag.toNat = leAt e 8 8 ∧ c.jseq = 0 ∧ c.status = s.validate e ∧ c.sqHead = head)) ∧
    (∀ c, s.hif.comps.find? (fun c => decide (c.queue = q)) = some c → s.hif.quiet = false →
      let next := (x.cqTail.toNat + 1) % x.size
      (next = x.cqHead.toNat → exec (.completionWrite q) s = .next s) ∧
      (next ≠ x.cqHead.toNat → ∃ t, exec (.completionWrite q) s = .next t ∧ t.hif.comps = s.hif.comps.erase c ∧
        (t.queue q).cqTail = BitVec.ofNat 12 next ∧ (t.queue q).phase = (if next = 0 then !x.phase else x.phase) ∧
        (c.noirq = true → t.hostMem = mstore s.hostMem (x.cqBase.toNat * 4096 + 32 * x.cqTail.toNat) (c.bytes x.phase)) ∧
        (c.noirq = false → (t.queue q).since = if x.time = 0 ∨ x.count.toNat ≤ x.since + 1 then 0 else x.since + 1))) ∧
    (x.since ≠ 0 → x.time ≠ 0 → s.hif.quiet = false → ∃ t, exec (.irqDelayTimeout q) s = .next t ∧ only t { x with since := 0 } ∧
      let e := look MsixEntry.reset s.hif.msix x.vec.toNat
      (e.ctrl.getLsbD 0 = false → s.hif.cfg.msixEn = true → s.hif.cfg.msixMask = false →
        t.hostMem = mstore s.hostMem e.addr.toNat (leBytes 4 e.data.toNat)) ∧
      (e.ctrl.getLsbD 0 = true ∨ s.hif.cfg.msixEn = false ∨ s.hif.cfg.msixMask = true → t.hif.pba.getLsbD x.vec.toNat = true ∧ t.hostMem = s.hostMem)) ∧
    (s.barsUp = true → x.en = false → ∃ t, exec (.queueEnable q) s = .next t ∧
      only t { x with en := true, sqHead := 0, sqTail := 0, cqHead := 0, cqTail := 0, phase := true, since := 0, error := false, ecode := 0 }) ∧
    (x.en = true → ∃ t, exec (.queueDisable q) s = .next t ∧ (t.queue q).en = false ∧ (t.queue q).error = false ∧
      (∀ r, r ≠ q → t.queue r = s.queue r) ∧ (∀ c ∈ t.hif.comps, c.queue ≠ q) ∧
      ∀ c ∈ t.hif.cmds, c.queue = q → c.gone ≠ 0 ∧ c.phase ≠ .accepted) ∧
    (∃ t, exec .functionLevelReset s = .next t ∧ (∀ r, (t.queue r).en = false) ∧ t.hif.comps = [] ∧ t.hif.evtPend = 0 ∧ t.hif.evtCfg = 0 ∧
      t.hif.msix = [] ∧ t.hif.pba = 0 ∧ t.hif.d3hot = false ∧ t.hif.cfg = s.hif.cfg.flr ∧ t.jnl.ring = s.jnl.ring ∧ t.jnl.next = s.jnl.next ∧ t.blocks = s.blocks ∧ t.plan = s.plan) ∧
    exec .d3hotEntry s = .next { s with hif := { s.hif with d3hot := true } } ∧
    (∃ t, exec .d0Return s = .next t ∧ t.hif.d3hot = false ∧
      (s.hif.cfg.msixEn = false ∨ s.hif.cfg.msixMask = true ∨ s.hif.cfg.command.getLsbD 2 = false → t.hif.pba = s.hif.pba) ∧
      (s.hif.cfg.msixEn = true → s.hif.cfg.msixMask = false → s.hif.cfg.command.getLsbD 2 = true → ∀ i < 64, t.hif.pba.getLsbD i = (s.hif.pba.getLsbD i && (look MsixEntry.reset s.hif.msix i).ctrl.getLsbD 0)))

/-- BAR2 and the dictionary window (R482, R484, R485, R515, R517, R518, R606, R608). A write that a bound plan bars, or that reaches nothing, is
discarded and counted, as one is that is poisoned or lost on the footpath; such a read ends in a Completer Abort. Where the model chose or inferred: log
entries 40, 53, 58, 75. -/
def Obligations.BarAccesses : Prop :=
  ∀ (s : State) (off : BitVec 34) (l : List Byte) (n : Nat), s.barsUp = true → 0 < l.length → 0 < n →
    off.toNat % 0x8000 + l.length ≤ 0x8000 → off.toNat % 0x8000 + n ≤ 0x8000 →
    let ok : Direct := .served .ok
    let dropped := { s with hif := { s.hif with drops := s.hif.drops + 1 } }
    let aborted := { s with hif := { s.hif with readOut := none }.aer aerAbort }
    (∀ e a, deviceMap off.toNat = .sram e a → s.dieWorks e = true → s.wayTo (.sram e a) = true →
      (s.edgeAssigned e ≤ a → ∃ t, exec (.bar2Write off ⟨l, ok⟩) s = .next t ∧ mload (t.edgeDie e).sram a l.length = l ∧
        (∀ k, k < a ∨ a + l.length ≤ k → mget (t.edgeDie e).sram k = mget (s.edgeDie e).sram k) ∧ t.blocks = s.blocks ∧ t.hif = s.hif) ∧
      (a < s.edgeAssigned e → exec (.bar2Write off ⟨l, ok⟩) s = .next dropped) ∧
      exec (.bar2Read off n ok) s = .next { s with hif := { s.hif with readOut := some (mload (s.edgeDie e).sram a n) } }) ∧
    (∀ e a, deviceMap off.toNat = .sram e a → s.dieWorks e = false → exec (.bar2Write off ⟨l, ok⟩) s = .next dropped ∧
      exec (.bar2Read off n ok) s = .next aborted) ∧
    (offE0 (deviceMap off.toNat) = true → exec (.bar2Write off ⟨l, .lost⟩) s = .next dropped ∧ exec (.bar2Read off n .lost) s = .next aborted) ∧
    (exec (.bar2Write off ⟨l, .poisoned⟩) s = .next { s with hif := { s.hif with drops := s.hif.drops + 1 }.aer aerPoisoned }) ∧
    (∀ b a, deviceMap off.toNat = .block b a → s.reachable b = true → s.wayTo (.block b a) = true → inLs a l.length = true → inLs a n = true →
      (s.blk b).priv.lsBytes .m a l.length = true → (s.blk b).priv.lsBytes .m a n = true → a % 8 = 0 → l.length % 8 = 0 →
      (∃ t, exec (.bar2Write off ⟨l, ok⟩) s = .next t ∧ mload (t.blk b).ls a l.length = l ∧
        (∀ k, k < a ∨ a + l.length ≤ k → mget (t.blk b).ls k = mget (s.blk b).ls k) ∧ ∀ c, c ≠ b → t.blk c = s.blk c) ∧
      exec (.bar2Read off n ok) s = .next { s with hif := { s.hif with readOut := some (mload (s.blk b).ls a n) } }) ∧
    (deviceMap off.toNat = .reserved → exec (.bar2Write off ⟨l, ok⟩) s = .next dropped ∧
      exec (.bar2Read off n ok) s = .next { s with hif := { s.hif with readOut := some (List.replicate n 0) } }) ∧
    (∀ req : BitVec 64, s.hif.windowBusy = false →
      (req.getLsbD 63 = false → exec (.dictWindowAccess req .ok) s = .next { s with hif := { s.hif with dictReq := req &&& ~~~reqReserved } }) ∧
      (req.getLsbD 63 = true → req &&& reqReserved = 0 → 0 < (req.extractLsb' 32 13).toNat → (req.extractLsb' 32 13).toNat ≤ 4096 →
        let i := (req.extractLsb' 0 16).toNat
        let sub := (req.extractLsb' 16 8).toNat
        let len := (req.extractLsb' 32 13).toNat
        (req.extractLsb' 24 2 = 1 ∨ req.extractLsb' 24 2 = 2 → objInfo i sub = none → ∃ t, exec (.dictWindowAccess req .ok) s = .next t ∧
          t.hif.dictReq = req ∧ t.hif.dictRsp = 0x8000000000000050) ∧
        (req.extractLsb' 24 2 = 1 → s.dictCheck .host false i sub false (fun t => t.fits len) = .ok → isDeferred i sub = false →
          ¬(i = 0x5010 ∧ sub = 2) → ∃ t, exec (.dictWindowAccess req .ok) s = .next t ∧
            t.hif.dictRsp.toNat = 2 ^ 63 + 2 ^ 32 * len ∧ mload t.hif.dictData 0 len = s.objBytes .host i sub len) ∧
        (req.extractLsb' 24 2 = 2 → i = 0x6001 → sub ∈ [1, 2, 3, 4] →
          s.dictCheck .host true i sub false (fun t => t.fits len) = .ok → s.valueOk i sub (mload s.hif.dictData 0 len) = true →
          ∃ t, exec (.dictWindowAccess req .ok) s = .next t ∧ t.hif.dictRsp.toNat = 2 ^ 63 + 2 ^ 32 * len ∧
            t.setting i sub = leNat (mload s.hif.dictData 0 len))))

/-! ## Host commands -/

/-- The plan commands (R54 to R59, R500, R502 to R504, R738): for each, the STATUS of the first check that fails, and what the command leaves when
none does. PLAN_STOP takes effect at the first boundary whose gate instant is still to come; PLAN_UNLOAD leaves the plan UNLOADING, with armed trace
disarming, until its resources are released. Where the model chose or inferred: log entries 32, 33, 39, 70. -/
def Obligations.PlanCommands : Prop :=
  ∀ (s : State) (seq : W64) (c : Cmd),
    let ends := fun (i : Instr) (st : BitVec 16) (v : W64) => ∃ t, exec i s = .next t ∧ EndsWith t c st v
    (s.startedCmd seq 1 = some c →
      (s.startFailed = true → ends (.planLoad seq) 0x28 0) ∧
      (s.startFailed = false → s.plan ≠ .empty → ends (.planLoad seq) 0x20 0) ∧
      (s.startFailed = false → s.plan = .empty → s.sweeping = true → ends (.planLoad seq) 0x60 0) ∧
      (s.startFailed = false → s.plan = .empty → s.sweeping = false → ∃ t, exec (.planLoad seq) s = .next t ∧ t.plan = .loading ∧ Runs t c)) ∧
    (s.findCmd seq = some c → c.phase = .running → c.opcode = 1 → s.plan = .loading → s.hif.quiet = false →
      (∀ l : List Byte, l.length = c.arg 32 8 →
        let st := s.imageStatus l.length (decide (c.arg 40 1 = 1)) l
        let id := if s.lastPlanId + 1 = 0 then 1 else s.lastPlanId + 1
        ∃ t, exec (.commandCompletion seq (.done l)) s = .next t ∧
          (st = 0 → t.plan = .loaded ∧ t.planId = id ∧ t.lastPlanId = id ∧ t.pl.len = l.length ∧ t.pl.sha = sha256 l ∧
            EndsWith t c 0 (id.setWidth 64)) ∧
          (st ≠ 0 → t.plan = .empty ∧ t.planId = s.planId ∧ EndsWith t c st 0)) ∧
      ∃ t, exec (.commandCompletion seq .hostReadFailed) s = .next t ∧ t.plan = .empty ∧ EndsWith t c 0x40 0) ∧
    (s.startedCmd seq 2 = some c →
      (∀ e, s.plan ≠ .loaded → ends (.planBind seq e) 0x20 0) ∧
      (s.plan = .loaded →
        (∀ e, c.planId ≠ s.planId → ends (.planBind seq e) 0x21 0) ∧
        (c.planId = s.planId → s.sweeping = false → s.hif.quiet = false → ends (.planBind seq .hostReadFailed) 0x40 0 ∧
          ∀ l : List Byte, l.length = s.pl.len →
            (s.bindStatus c l ≠ 0 → ends (.planBind seq (.done l)) (s.bindStatus c l) 0) ∧
            (s.bindStatus c l = 0 → s.trace.armed = false → ∃ t, exec (.planBind seq (.done l)) s = .next t ∧ t.plan = .bound ∧
              t.devNum.toNat = imgTarget l % 128 ∧ t.devValid = true ∧ t.k = imgK l ∧ t.epoch = .reset ∧ t.mhz = imgMhz l ∧
              EndsWith t c 0 (BitVec.ofNat 64 (imgTarget l)))))) ∧
    (s.startedCmd seq 3 = some c → let e0 := BitVec.ofNat 64 (c.arg 32 8)
      (s.plan ≠ .bound → ends (.planStart seq) 0x20 0) ∧
      (s.plan = .bound → (c.planId ≠ s.planId → ends (.planStart seq) 0x21 0) ∧
        (c.planId = s.planId → (s.time.tlock = false ∨ s.time.flock = false → ends (.planStart seq) 0x24 0) ∧
          (s.time.tlock = true → s.time.flock = true → (nsOf (c.arg 24 8) < c.time + 20000 → ends (.planStart seq) 0x22 0) ∧
            (c.time + 20000 ≤ nsOf (c.arg 24 8) → (∀ l, s.pl.lastRan = some l → e0 ≤ l → ends (.planStart seq) 0x23 0) ∧
              ((∀ l, s.pl.lastRan = some l → l < e0) → ∃ t, exec (.planStart seq) s = .next t ∧ t.plan = .starting ∧ t.pl.e0 = e0 ∧
                t.pl.startNs = nsOf (c.arg 24 8) ∧ EndsWith t c 0 e0)))))) ∧
    (s.startedCmd seq 4 = some c →
      (s.plan ∈ [.empty, .loading, .loaded, .bound, .stopping] → ends (.planStop seq) 0x20 0) ∧
      (s.plan ∈ [.starting, .running] → (c.planId ≠ s.planId → ends (.planStop seq) 0x21 0) ∧
        (c.planId = s.planId → let next := if s.epoch.active then s.epoch.num + 1 else s.pl.e0
          let first := if s.epoch.active = true ∧ s.epoch.begun = false ∧ s.epoch.decision = none then s.epoch.num else next
          let asked := if c.arg 24 8 = 0 then next else BitVec.ofNat 64 (c.arg 24 8)
          let at_ := if asked.toNat < first.toNat then first else asked
          ∃ t, exec (.planStop seq) s = .next t ∧ t.plan = .stopping ∧ t.pl.stopEpoch = at_ ∧ EndsWith t c 0 at_)) ∧
      (s.plan = .halted → c.planId = s.planId → ∀ e, s.pl.lastRan = some e → ∃ t, exec (.planStop seq) s = .next t ∧ t.plan = .bound ∧
        t.epoch.active = false ∧ EndsWith t c 0 e)) ∧
    (s.startedCmd seq 5 = some c →
      (s.plan ∈ [.empty, .loading, .starting, .running, .stopping] → ends (.planUnload seq) 0x20 0) ∧
      (s.plan ∈ [.loaded, .bound, .halted] → (c.planId ≠ s.planId → ends (.planUnload seq) 0x21 0) ∧
        (c.planId = s.planId → ∃ t, exec (.planUnload seq) s = .next t ∧ t.plan = .unloading ∧ Runs t c ∧
          (s.trace.armed = true → t.trace.disarming = true)))) ∧
    (s.findCmd seq = some c → c.phase = .running → c.opcode = 5 → s.plan = .unloading → s.trace.armed = false → ∀ e,
      ∃ t, exec (.commandCompletion seq e) s = .next t ∧ t.plan = .empty ∧ t.planId = 0 ∧
        t.devValid = false ∧ t.devNum = 0 ∧ t.k = 0 ∧ t.intakes = [] ∧ t.outlets = [] ∧ t.lastPlanId = s.lastPlanId ∧ EndsWith t c 0 0)

/-- The buffer commands (R507 to R509, R512, R525): INTAKE_WRITE takes the first FREE slot in ring order and fills it with the bytes read; OUTLET_READ
takes the oldest READY slot, whose bytes go to host memory and which is EMPTY again. One that outlives its plan touches no slot. Where the model chose or inferred: log entry 40. -/
def Obligations.BufferCommands : Prop :=
  ∀ (s : State) (seq : W64) (c : Cmd),
    let ends := fun (i : Instr) (st : BitVec 16) (v : W64) => ∃ t, exec i s = .next t ∧ EndsWith t c st v
    (s.startedCmd seq 0x10 = some c →
      (s.bufferStatus c ((s.intake c.bind).map fun x => (x.slotSize, x.die)) ≠ 0 →
        ends (.intakeWrite seq) (s.bufferStatus c ((s.intake c.bind).map fun x => (x.slotSize, x.die))) 0) ∧
      (∀ x, s.intake c.bind = some x → s.bufferStatus c (some (x.slotSize, x.die)) = 0 →
        ((∀ i < x.slots.length, x.slots[i]? ≠ some .free) → ends (.intakeWrite seq) 0x32 0) ∧
        (∀ j < x.slots.length, x.slots[(x.point + j) % x.slots.length]? = some .free →
          (∀ k < j, x.slots[(x.point + k) % x.slots.length]? ≠ some .free) → ∃ t, exec (.intakeWrite seq) s = .next t ∧ Runs t c ∧
            t.intake c.bind = some { x with slots := x.slots.set ((x.point + j) % x.slots.length) .filling } ∧
            ∀ d, t.findCmd seq = some d → d.slot = some ((x.point + j) % x.slots.length)))) ∧
    (s.findCmd seq = some c → c.phase = .running → s.hif.quiet = false → c.opcode = 0x10 → ∀ x i, s.intake c.bind = some x → c.planId = s.planId → c.slot = some i →
      (∀ l : List Byte, l.length = x.slotSize → ∃ t, exec (.commandCompletion seq (.done l)) s = .next t ∧
        t.intake c.bind = some { x with slots := x.slots.set i .filled } ∧ EndsWith t c 0 (BitVec.ofNat 64 i) ∧
        mload (t.edgeDie x.die).sram (x.base + i * x.slotSize) x.slotSize = l ∧
        ∀ k, k < x.base + i * x.slotSize ∨ x.base + (i + 1) * x.slotSize ≤ k → mget (t.edgeDie x.die).sram k = mget (s.edgeDie x.die).sram k) ∧
      (∃ t, exec (.commandCompletion seq .hostReadFailed) s = .next t ∧ EndsWith t c 0x40 0 ∧
        t.intake c.bind = some { x with slots := x.slots.set i .free } ∧ t.edge0 = s.edge0 ∧ t.edge1 = s.edge1) ∧
      (∃ t, exec (.commandCompletion seq .unreachable) s = .next t ∧ EndsWith t c 0x41 0 ∧
        t.intake c.bind = some { x with slots := x.slots.set i .free })) ∧
    (s.findCmd seq = some c → c.phase = .running → s.hif.quiet = false → c.opcode = 0x10 ∨ c.opcode = 0x11 → c.planId ≠ s.planId →
      ∀ l, ∃ t st v, exec (.commandCompletion seq (.done l)) s = .next t ∧ EndsWith t c st v ∧ t.intakes = s.intakes ∧ t.outlets = s.outlets ∧
        t.edge0 = s.edge0 ∧ t.edge1 = s.edge1 ∧ t.hostMem = s.hostMem) ∧
    (s.startedCmd seq 0x11 = some c → ∀ x, s.outlet c.bind = some x → s.bufferStatus c (some (x.slotSize, x.die)) = 0 →
      (x.order = [] → ends (.outletRead seq) 0x33 0) ∧
      (∀ i rest e v, x.order = i :: rest → x.slots[i]? = some (.ready e v) → ∃ t, exec (.outletRead seq) s = .next t ∧ Runs t c ∧
        t.outlet c.bind = some { x with slots := x.slots.set i (.reading e v), order := rest })) ∧
    (s.findCmd seq = some c → c.phase = .running → s.hif.quiet = false → c.opcode = 0x11 → ∀ x i e v, s.outlet c.bind = some x → c.planId = s.planId → c.slot = some i →
      x.slots[i]? = some (.reading e v) →
      (∃ t, exec (.commandCompletion seq (.done [])) s = .next t ∧ t.outlet c.bind = some { x with slots := x.slots.set i .empty } ∧
        mload t.hostMem (c.arg 24 8) x.slotSize = mload (s.edgeDie x.die).sram (x.base + i * x.slotSize) x.slotSize ∧
        (∀ k, k < c.arg 24 8 ∨ c.arg 24 8 + x.slotSize ≤ k → mget t.hostMem k = mget s.hostMem k) ∧ EndsWith t c (if v then 1 else 0) e) ∧
      (∃ t, exec (.commandCompletion seq (.dataLoss [])) s = .next t ∧ EndsWith t c 0x42 0 ∧ t.hostMem = s.hostMem ∧
        t.outlet c.bind = some { x with slots := x.slots.set i .empty }))

/-- Tensor access (R514 to R516): the checks, the bytes moved between host memory and a place of the device map, and RESULT. The cases of one region,
the edge SRAM of a die that works. A remote command without a way to its device ends with ERR_UNREACHABLE (R43, R451). Where the model chose or
inferred: log entries 16, 40. -/
def Obligations.TensorCommands : Prop :=
  ∀ (s : State) (seq : W64) (c : Cmd) (e : Edge) (a : Nat),
    let ends := fun (i : Instr) (st : BitVec 16) (v : W64) => ∃ t, exec i s = .next t ∧ EndsWith t c st v
    let starts := fun (i : Instr) (bad : BitVec 16) =>
      (c.remote = true → s.wayOut (some .e0) c.dev = none → ends i 0x41 0) ∧
      (c.remote = true → s.wayOut (some .e0) c.dev ≠ none → ((∃ p ∈ c.range, deviceMap p.1 = .reserved) → ends i 0x43 0) ∧
        ((∀ p ∈ c.range, deviceMap p.1 ≠ .reserved) → ∃ t, exec i s = .next t ∧ Runs t c)) ∧
      (c.remote = false → (∃ p ∈ c.range, deviceMap p.1 = .reserved) → ends i 0x43 0) ∧
      (c.remote = false → (∀ p ∈ c.range, deviceMap p.1 ≠ .reserved) →
        ((∀ p ∈ c.range, s.writeBarred (deviceMap p.1) = false) → ∃ t, exec i s = .next t ∧ Runs t c) ∧
        ((∃ p ∈ c.range, s.writeBarred (deviceMap p.1) = true) → bad ≠ 0 → ends i bad 0) ∧
        (bad = 0 → ∃ t, exec i s = .next t ∧ Runs t c))
    (s.startedCmd seq 0x12 = some c → starts (.tensorWrite seq) 0x34) ∧
    (s.startedCmd seq 0x13 = some c → starts (.tensorRead seq) 0) ∧
    (s.findCmd seq = some c → c.phase = .running → s.hif.quiet = false → c.remote = false → deviceMap c.daddr = .sram e a → s.dieWorks e = true →
      s.wayTo (.sram e a) = true →
      0 < c.tensorLen → c.daddr % 0x8000 + c.tensorLen ≤ 0x8000 →
      (c.opcode = 0x12 → (ends (.commandCompletion seq .hostReadFailed) 0x40 0) ∧ (∀ l : List Byte, l.length = c.tensorLen →
        (a < s.edgeAssigned e → ends (.commandCompletion seq (.done l)) 0x34 0) ∧
        (s.edgeAssigned e ≤ a → ∃ t, exec (.commandCompletion seq (.done l)) s = .next t ∧ EndsWith t c 0 (BitVec.ofNat 64 c.tensorLen) ∧
          mload (t.edgeDie e).sram a c.tensorLen = l ∧
          ∀ k, k < a ∨ a + c.tensorLen ≤ k → mget (t.edgeDie e).sram k = mget (s.edgeDie e).sram k))) ∧
      (c.opcode = 0x13 → (∃ t, exec (.commandCompletion seq (.done [])) s = .next t ∧ EndsWith t c 0 (BitVec.ofNat 64 c.tensorLen) ∧
          mload t.hostMem (c.arg 24 8) c.tensorLen = mload (s.edgeDie e).sram a c.tensorLen ∧
          ∀ k, k < c.arg 24 8 ∨ c.arg 24 8 + c.tensorLen ≤ k → mget t.hostMem k = mget s.hostMem k) ∧
        ends (.commandCompletion seq (.dataLoss [])) 0x42 0))

/-- The other host commands (R500, R740, R747 to R749, R753, R789 to R791, R803, R606 to R608): ordering, sweeps, repair, trace and dictionary. Where
the model chose or inferred: log entries 41, 42. -/
def Obligations.OtherHostCommands : Prop :=
  ∀ (s : State) (seq : W64) (c : Cmd),
    let ends := fun (i : Instr) (st : BitVec 16) (v : W64) => ∃ t, exec i s = .next t ∧ EndsWith t c st v
    (s.startedCmd seq 0 = some c → ends (.nopCommand seq) 0 0) ∧
    (s.startedCmd seq 0x21 = some c → ends (.journalMark seq) 0 c.seq) ∧
    (s.startedCmd seq 0x20 = some c →
      let before := fun d : Cmd => d.seq.toNat < c.seq.toNat ∧ (if c.arg 24 8 = 0 then d.queue = c.queue else (c.arg 24 8).testBit d.queue.toNat = true)
      ((∀ d ∈ s.hif.cmds, before d → d.phase = .ended) → ends (.fenceCommand seq) 0 0) ∧
      ((∃ d ∈ s.hif.cmds, before d ∧ d.phase ≠ .ended) → exec (.fenceCommand seq) s = .next s)) ∧
    (s.startedCmd seq 0x22 = some c →
      (c.arg 25 1 = 0 → (s.thermal.stop = true → ends (.healthSweep seq) 0x60 0) ∧
        (s.thermal.stop = false → c.arg 24 1 ≠ 0 → s.plan ≠ .empty → s.plan ≠ .loaded → ends (.healthSweep seq) 0x20 0) ∧
        (s.thermal.stop = false → s.plan = .empty ∨ s.plan = .loaded → ∃ t, exec (.healthSweep seq) s = .next t ∧ Runs t c)) ∧
      (c.arg 25 1 = 1 → (s.plan = .running → ∃ t w, exec (.healthSweep seq) s = .next t ∧ Runs t c ∧ t.sweep = some w ∧ w.seq = c.seq ∧
          w.mask = c.arg 24 1 ∧ w.limit = c.arg 28 4 ∧ w.tested = 0) ∧
        (s.plan ≠ .running → ends (.healthSweep seq) 0 0))) ∧
    (s.findCmd seq = some c → c.phase = .running → c.opcode = 0x22 → c.arg 25 1 = 0 →
      let n := ([0, 1, 2, 3].filter fun q => (c.arg 24 1).testBit q).length
      ∃ t, exec (.commandCompletion seq (.done [])) s = .next t ∧ EndsWith t c 0 (BitVec.ofNat 64 (4356 * n)) ∧
        (∀ q < 4, (c.arg 24 1).testBit q = true → t.counter (0x4010 + q) 5 = 0) ∧
        ∀ b : BlockId, ((c.arg 24 1).testBit (quarterOf b) = false → t.blk b = s.blk b) ∧
          ((c.arg 24 1).testBit (quarterOf b) = true → quarterOf b < 4 → ((c.arg 26 1).testBit 0 = true → (t.blk b).im = []) ∧
            ((c.arg 26 1).testBit 0 = false → (t.blk b).im = (s.blk b).im) ∧ ((c.arg 26 1).testBit 1 = true → (t.blk b).ls = []) ∧
            ((c.arg 26 1).testBit 1 = false → (t.blk b).ls = (s.blk b).ls))) ∧
    (s.startedCmd seq 0x23 = some c →
      (s.plan = .empty ∨ s.plan = .loaded → ends (.repairApply seq) 0 (BitVec.ofNat 64 s.applyRepair.2)) ∧
      (s.plan ≠ .empty → s.plan ≠ .loaded → ends (.repairApply seq) 0x20 0)) ∧
    (s.startedCmd seq 0x24 = some c →
      (s.draining = true → ends (.traceArm seq) 0x60 0) ∧
      (s.draining = false → s.trace.armed = true → ∃ t, exec (.traceArm seq) s = .next t ∧ Runs t c ∧ t.trace.disarming = true) ∧
      (s.draining = false → s.trace.armed = false →
        (128 ≤ c.arg 24 1 → ends (.traceArm seq) 0 0) ∧
        (c.arg 24 1 < 128 → ∃ t, exec (.traceArm seq) s = .next t ∧ EndsWith t c 0 0 ∧ t.trace.armed = true ∧ t.trace.first = c.arg 28 2 ∧
          t.trace.last = c.arg 30 2 ∧ t.trace.host = decide (s.setting 0x6001 4 = 1) ∧ t.trace.sink0.seq = 1 ∧ t.trace.sink1.seq = 1 ∧
          t.trace.sink0.held = 0 ∧ t.trace.sink1.held = 0))) ∧
    (s.startedCmd seq 0x25 = some c →
      (s.trace.armed = true ∨ s.trace.disarming = true → ends (.traceDrain seq) 0x60 0) ∧
      (s.trace.armed = false → s.trace.disarming = false → (s.dieWorks c.drainDie = false → ends (.traceDrain seq) 0x41 0) ∧
        (s.dieWorks c.drainDie = true → ∃ t, exec (.traceDrain seq) s = .next t ∧ Runs t c))) ∧
    (s.findCmd seq = some c → c.phase = .running → s.hif.quiet = false → c.opcode = 0x25 →
      let k := s.sink c.drainDie
      let n := min k.held (c.arg 32 4 / 64)
      64 * k.held ≤ k.size → ∃ t, exec (.commandCompletion seq (.done [])) s = .next t ∧ EndsWith t c 0 (BitVec.ofNat 64 (64 * n)) ∧
        (t.sink c.drainDie).held = k.held - n ∧
        (∀ i < n, mload t.hostMem (c.arg 24 8 + 64 * i) 64 =
          mload (s.edgeDie c.drainDie).sram (k.base + (k.woff + k.size - 64 * k.held + 64 * i) % k.size) 64) ∧
        ∀ i, i < c.arg 24 8 ∨ c.arg 24 8 + 64 * n ≤ i → mget t.hostMem i = mget s.hostMem i) ∧
    (s.startedCmd seq 0x30 = some c →
      (objInfo c.index c.subindex = none → ends (.dictRead seq) 0x50 0) ∧
      (s.dictCheck .host false c.index c.subindex false (fun t => t.fits c.dictLen) = .ok → ∃ t, exec (.dictRead seq) s = .next t ∧ Runs t c)) ∧
    (s.findCmd seq = some c → c.phase = .running → s.hif.quiet = false → c.opcode = 0x30 → isDeferred c.index c.subindex = false →
      ¬(c.index = 0x5010 ∧ c.subindex = 2) → ∃ t, exec (.commandCompletion seq (.done [])) s = .next t ∧
        t.hostMem = mstore s.hostMem (c.arg 32 8) (s.objBytes .host c.index c.subindex c.dictLen) ∧ EndsWith t c 0 (BitVec.ofNat 64 c.dictLen)) ∧
    (s.startedCmd seq 0x31 = some c → (objInfo c.index c.subindex = none → ∀ l, ends (.dictWrite seq (.done l)) 0x50 0) ∧
      (s.hif.quiet = false → s.dictCheck .host true c.index c.subindex false (fun t => t.fits c.dictLen) = .ok → c.index = 0x6001 →
        c.subindex ∈ [1, 2, 3, 4] → ends (.dictWrite seq .hostReadFailed) 0x40 0 ∧ ∀ l : List Byte, l.length = c.dictLen →
          (s.valueOk 0x6001 c.subindex l = false → ends (.dictWrite seq (.done l)) 0x54 0) ∧
          (s.valueOk 0x6001 c.subindex l = true → ∃ t, exec (.dictWrite seq (.done l)) s = .next t ∧ EndsWith t c 0 (BitVec.ofNat 64 c.dictLen) ∧
            t.setting 0x6001 c.subindex = leNat l)))

/-! ## The command journal -/

/-- The journal writer (R496, R497, R526, R532, R533, R536 to R538, R542, R690): which record commits next, the 64 bytes that its slot takes, a record
that the checks of R533 find valid, and what a commit moves on. Where the model chose or inferred: log entry 43. -/
def Obligations.JournalWriter : Prop :=
  (∀ (n gen : W64) (r : Rec), r.ty ≠ 0 → (recordBytes n gen r).length = 64 ∧ validRecord (n.toNat % 4096) gen (recordBytes n gen r) = true ∧
    leAt (recordBytes n gen r) 0 8 = n.toNat ∧ leAt (recordBytes n gen r) 8 8 = r.time.toNat ∧ leAt (recordBytes n gen r) 16 8 = r.ref.toNat ∧
    leAt (recordBytes n gen r) 24 8 = r.tag.toNat ∧ leAt (recordBytes n gen r) 32 8 = r.result.toNat) ∧
  ∀ s : State,
    let j := s.jnl
    let took := fun (t : State) (r : Rec) => t.jnl.next = j.next + 1 ∧ t.jnl.slot (j.next.toNat % 4096) = recordBytes j.next j.gen r ∧
      (∀ n, n ≠ j.next.toNat % 4096 → t.jnl.slot n = j.slot n) ∧ t.jnl.gen = j.gen
    (s.supply.pfw = true → exec .journalCommit s = .next s) ∧
    (s.supply.pfw = false →
      (j.cmdRecs = [] → j.fifo = [] → j.holding = none → exec .journalCommit s = .next s) ∧
      (∀ r rest c, j.cmdRecs = r :: rest → s.findCmd r.ref = some c → c.gone = 0 →
        (r.ty = 2 → ∃ t, exec .journalCommit s = .next t ∧ took t r ∧ t.jnl.cmdRecs = rest ∧
          t.findCmd r.ref = some { c with phase := .started, began := true }) ∧
        (r.ty = 3 ∨ r.ty = 4 → ∃ t l, exec .journalCommit s = .next t ∧ took t r ∧ t.jnl.cmdRecs = rest ++ l ∧
          t.hif.comps = s.hif.comps ++ [⟨c.queue, c.tag, j.next, c.result, c.status, c.sqHead, c.noirq, some c.seq⟩])) ∧
      (∀ e rest, j.cmdRecs = [] → j.fifo = .event e :: rest → j.holding = none ∨ j.lastEvent = false →
        ∃ t, exec .journalCommit s = .next t ∧ took t { e.record with planId := s.planId } ∧ t.jnl.fifo = rest ∧ t.jnl.recorded = j.recorded + 1 ∧
          t.jnl.holding = j.holding ∧ t.jnl.lastEvent = true) ∧
      (∀ c rest, j.cmdRecs = [] → j.fifo = .summary c :: rest → j.holding = none ∨ j.lastEvent = false →
        ∃ t, exec .journalCommit s = .next t ∧ took t { c.record with planId := s.planId } ∧ t.jnl.fifo = rest ∧
          t.jnl.summarised = j.summarised + c.count ∧ t.hif.evtPend.getLsbD 3 = true) ∧
      (∀ r c, j.cmdRecs = [] → j.holding = some (r, c) → j.fifo = [] ∨ j.lastEvent = true → r.ty = 1 → c.gone = 0 →
        (∀ e ∈ s.hif.queues, e.2.fetched = []) → ∃ t, exec .journalCommit s = .next t ∧ took t r ∧ t.jnl.holding = none ∧ t.bp = false ∧
          t.jnl.fifo = j.fifo ∧ t.jnl.lastEvent = false ∧ ∃ d ∈ t.hif.cmds, d.seq = j.next ∧ d.entry = c.entry ∧ d.queue = c.queue ∧ d.gone = 0 ∧ d.time = s.timeNs))

/-- Events, summary counters and reads of the journal window (R528, R534, R535, R539 to R542): every event that is raised is held in the FIFO or
counted in an open summary counter, and no item is lost when a counter closes; a thermal or power event shows in HIF_EVT_PEND (R477). -/
def Obligations.JournalEvents : Prop :=
  ∀ (s : State) (kind : BitVec 16) (ref result tag : W64),
    let j := s.jnl
    let e : Event := ⟨kind, ref, result, tag, s.time64, s.recFlags⟩
    (∃ t, exec (.eventRaise kind ref result tag) s = .next t ∧ t.jnl.raised = j.raised + 1 ∧ t.jnl.ring = j.ring ∧ t.jnl.next = j.next ∧
      (kind = 0x0400 ∨ kind = 0x0401 → t.hif.evtPend.getLsbD 5 = true) ∧
      (j.counters = [] → j.fifo.length < 128 → t.jnl.fifo = j.fifo ++ [.event e] ∧ t.jnl.counters = []) ∧
      (j.counters ≠ [] ∨ 128 ≤ j.fifo.length → t.jnl.fifo = j.fifo ∧
        ((∀ c ∈ j.counters, c.kind ≠ kind) → t.jnl.counters = j.counters ++ [⟨kind, 1, s.time64, s.time64, s.recFlags⟩]) ∧
        (∀ l c m, j.counters = l ++ c :: m → c.kind = kind → (∀ d ∈ l, d.kind ≠ kind) →
          t.jnl.counters = l ++ { c with count := c.count + 1, last := s.time64, flags := s.recFlags } :: m))) ∧
    (∀ c rest, j.counters = c :: rest →
      (j.fifo.length < 128 → ∃ t, exec .summaryClose s = .next t ∧ t.jnl.counters = rest ∧ t.jnl.fifo = j.fifo ++ [.summary c] ∧
        t.jnl.pending = j.pending) ∧
      (128 ≤ j.fifo.length → exec .summaryClose s = .next s)) ∧
    (j.counters = [] → exec .summaryClose s = .next s) ∧
    (s.barsUp = true → ∀ slot : BitVec 12,
      (∃ t, exec (.journalWindowRead slot .ok) s = .next t ∧ t.hif.readOut = some (j.slot slot.toNat) ∧ t.jnl = j) ∧
      (∃ t, exec (.journalWindowRead slot .corrected) s = .next t ∧ t.hif.readOut = some (j.slot slot.toNat) ∧
        t.counter 0x4001 3 = min (s.counter 0x4001 3 + 1) (2 ^ 64 - 1)) ∧
      (∃ t, exec (.journalWindowRead slot .uncorrectable) s = .next t ∧ t.hif.readOut = some (List.replicate 64 0xFF) ∧
        t.counter 0x4001 4 = min (s.counter 0x4001 4 + 1) (2 ^ 64 - 1) ∧ t.jnl.raised = j.raised + 1 ∧ t.jnl.ring = j.ring))

/-! ## Integrity and trace -/

/-- Scrubbing and the sweeps in windows (R725, R727 to R729, R751 to R754): the scrubber takes one line of a local store after another and wraps; what
it finds is counted; a window segment advances the lowest test that is not done, and time to its end; a sweep that ends reports. Where the model chose
or inferred: log entries 42, 51. -/
def Obligations.Scrubbing : Prop :=
  ∀ (s : State) (b : BlockId),
    let n := (s.blk b).integ.scrubLine
    let q := 0x4010 + quarterOf b
    (s.scrubs b = true → ∀ i : Nat,
      (∃ t, exec (.scrubLine b .clean) s = .next t ∧ OnlyBlock b s t ∧
        t.blk b = { s.blk b with integ := { (s.blk b).integ with scrubLine := (n + 1) % 6144 } }) ∧
      (∃ t, exec (.scrubLine b (.corrected [i])) s = .next t ∧ (t.blk b).integ.scrubLine = (n + 1) % 6144 ∧ (t.blk b).ls = (s.blk b).ls ∧
        t.counter q 1 = min (s.counter q 1 + 1) (2 ^ 64 - 1) ∧ t.counter q 2 = s.counter q 2) ∧
      (∃ t, exec (.scrubLine b (.uncorrectable i)) s = .next t ∧ (t.blk b).integ.scrubLine = (n + 1) % 6144 ∧
        t.counter q 2 = min (s.counter q 2 + 1) (2 ^ 64 - 1) ∧ (t.jnl.raised = s.jnl.raised + 1 ∨ t.jnl.raised = s.jnl.raised + 2))) ∧
    (s.scrubs b = false → ∀ f, exec (.scrubLine b f) s = .next s) ∧
    (exec (.retentionScrub .clean) s = .next s ∧
      (∀ l, ∃ t, exec (.retentionScrub (.corrected l)) s = .next t ∧ t.counter 0x4001 3 = min (s.counter 0x4001 3 + l.length) (2 ^ 64 - 1)) ∧
      ∀ i, ∃ t, exec (.retentionScrub (.uncorrectable i)) s = .next t ∧ t.counter 0x4001 4 = min (s.counter 0x4001 4 + 1) (2 ^ 64 - 1) ∧
        t.jnl.raised = s.jnl.raised + 1) ∧
    (∀ w win stop k, s.sweep = some w → w.mask.testBit (quarterOf b) = true → s.runningPart = true → s.plan = .running →
      s.openWindow b = some (win, stop) → nextTest w.tests (s.blk b).integ.tested win.regs = some k →
      ∃ t, exec (.sweepWindowSegment b none none) s = .next t ∧ t.epoch.cycle = max (min stop (2 ^ s.k - 1)) s.epoch.cycle ∧
        (t.blk b).ls = (s.blk b).ls ∧ (t.blk b).im = (s.blk b).im ∧ (∀ c, c ≠ b → t.blk c = s.blk c) ∧
        ((s.blk b).integ.segs + 1 < windowSegs k → (t.blk b).integ.segs = (s.blk b).integ.segs + 1 ∧ (t.blk b).integ.tested = (s.blk b).integ.tested) ∧
        (windowSegs k ≤ (s.blk b).integ.segs + 1 → (t.blk b).integ.segs = 0 ∧ (t.blk b).integ.tested.getLsbD k = true)) ∧
    (∀ w, s.sweep = some w → s.plan = .running → s.allTested w = false →
      (w.limit = 0 ∨ s.toAcy (w.start + w.limit * 25000) = none → exec .sweepEnd s = .next s) ∧
      (w.limit ≠ 0 → s.toAcy (w.start + w.limit * 25000) ≠ none → ∃ t, exec .sweepEnd s = .next t ∧ t.sweep = none)) ∧
    (∀ w, s.sweep = some w → s.plan ≠ .running → ∃ t, exec .sweepEnd s = .next t ∧ t.sweep = none ∧ (quarterOf b < 4 → (t.blk b).integ.tested = 0) ∧
      (∀ i < 4, w.mask.testBit i = true → t.counter (0x4010 + i) 5 = look 0 w.failed i) ∧
      ∀ c, s.findCmd w.seq = some c → EndsWith t c 0 (BitVec.ofNat 64 (w.tested + 2 ^ 32 * (w.failed.map Prod.snd).sum)))

/-- Trace (R774, R784, R787, R788, R793, R795, R796, R798 to R802): packets go from the unit of a block to its node, or are dropped and counted; GTS,
SYNC and MARK records join the packet being formed; a sink numbers what it stores, at its ring's write offset or in the host's buffer, or drops it; a
disarming that is complete settles the book. Where the model chose or inferred: log entries 52, 62. -/
def Obligations.TraceCommands : Prop :=
  ∀ (s : State) (b : BlockId) (v : W64) (e : Edge),
    let x := (s.blk b).trc
    let made := fun t : State => (t.counter 0x6000 2, t.counter 0x6000 3, t.counter 0x6000 4)
    let up := fun n : Nat => (n + 1) % 2 ^ 64
    let forms := fun (c : Instr) (r : List Byte) => x.outcomes = [] → x.form ≠ [] → x.form.length + r.length ≤ 56 → ∃ t, exec c s = .next t ∧
      (t.blk b).trc.form = x.form ++ r ∧ (t.blk b).trc.records = x.records + 1 ∧ (t.blk b).trc.closed = x.closed ∧ ∀ d, d ≠ b → t.blk d = s.blk d
    (∀ w p rest, x.closed = (w, p) :: rest →
      (x.node.length < 4 → ∃ t, exec (.tracePacketClose b w) s = .next t ∧ (t.blk b).trc.closed = rest ∧ (t.blk b).trc.node = x.node ++ [p] ∧
        made t = (up (made s).1, (made s).2.1, (made s).2.2)) ∧
      (4 ≤ x.node.length → ∃ t, exec (.tracePacketClose b w) s = .next t ∧ (t.blk b).trc.closed = rest ∧ (t.blk b).trc.node = x.node ∧
        (t.blk b).trc.drops = x.drops + 1 ∧ (t.blk b).trc.needSync = true ∧ made t = (up (made s).1, (made s).2.1, up (made s).2.2))) ∧
    (x.en = true → x.outcomes = [] → x.form ≠ [] → x.node.length < 4 → s.passWithin (x.formFrom + 4096 - s.ticks b) ≠ none →
      ∃ t, exec (.tracePacketTimeout b) s = .next t ∧ (t.blk b).trc.form = [] ∧
      (t.blk b).trc.seq = x.seq + 1 ∧ (t.blk b).trc.node = x.node ++ [⟨b, x.seq, x.form⟩] ∧ (t.blk b).trc.closed = x.closed) ∧
    (s.tracing b = true → s.passWithin (s.gtsLeft b) ≠ none → x.outcomes = [] → x.form ≠ [] → x.form.length ≤ 43 → ∃ t, exec (.gts b) s = .next t ∧
      (t.blk b).trc.form = x.form ++ [0x09] ++ leBytes 8 t.time64.toNat ++ leBytes 4 (t.blkCycles b) ∧ (t.blk b).trc.lastGts = t.blkCycles b ∧
      (t.blk b).trc.records = x.records + 1) ∧
    (s.tracing b = true → forms (.syncReq b) (syncRecord s b) ∧
      (s.traced b (s.blk b).priv.ctx = true → x.chanC = false → forms (.trcMarkWrite b v) ([0x0C] ++ leBytes 2 v.toNat))) ∧
    (s.tracing b = false → exec (.gts b) s = .next s ∧ exec (.syncReq b) s = .next s ∧ exec (.trcMarkWrite b v) s = .next s) ∧
    (let k := s.sink e
     let line := fun l : List Byte => l.take 4 ++ leBytes 4 k.seq.toNat ++ l.drop 8
     ∀ l rest, k.buf = l :: rest → l.length = 64 →
      (s.trace.host = false → k.lost = 0 → k.takes s.trace.wrap = true → ∃ t, exec (.sinkStore e true) s = .next t ∧
        mload (t.edgeDie e).sram (k.base + k.woff) 64 = line l ∧
        (∀ i, i < k.base + k.woff ∨ k.base + k.woff + 64 ≤ i → mget (t.edgeDie e).sram i = mget (s.edgeDie e).sram i) ∧
        t.sink e = { k with buf := rest, seq := k.seq + 1, woff := (k.woff + 64) % k.size, held := min (k.held + 1) (k.size / 64) } ∧
        made t = ((made s).1, up (made s).2.1, (made s).2.2)) ∧
      (s.trace.host = false → k.takes s.trace.wrap = false → ∃ t, exec (.sinkStore e true) s = .next t ∧
        t.sink e = { k with buf := rest, lost := k.lost + 1 } ∧ made t = ((made s).1, (made s).2.1, up (made s).2.2)) ∧
      (s.trace.host = true → s.hif.quiet = true → ∀ ok, exec (.sinkStore e ok) s = .next s) ∧
      (s.trace.host = true → s.hif.quiet = false → k.lost = 0 → ∃ t, exec (.sinkStore e true) s = .next t ∧
        mload t.hostMem (s.trace.hostAddr + 64 * ((k.seq.toNat - 1) % (s.trace.hostLen / 64))) 64 = line l ∧
        t.sink e = { k with buf := rest, seq := k.seq + 1 } ∧ made t = ((made s).1, up (made s).2.1, (made s).2.2))) ∧
    (∀ p rest, (s.sink (s.sinkDie b)).buf = [] → s.footpath = [] → x.node = p :: rest → ∃ t, exec (.traceTransitTimeout b) s = .next t ∧
      (t.blk b).trc.node = rest ∧ made t = ((made s).1, (made s).2.1, up (made s).2.2)) ∧
    (s.trace.disarming = true → s.traceDone = true → (∀ c ∈ s.hif.cmds, c.phase ≠ .running) → ∃ t, exec .traceDisarmComplete s = .next t ∧
      t.trace.armed = false ∧ t.trace.disarming = false ∧ (t.ledger 0xA004).state = 0 ∧ (t.ledger 0xA004).fails = (s.ledger 0xA004).fails ∧
      made t = made s)

/-! ## Time, clocks and temperature -/

/-- System time (R588, R631, R657, R659, R661, R662, R664, R666, R667, R669). Outside an epoch: the seconds shadow, an apply and its refusals, the
second's rollover, the end of a slew, PPS edges, the losses of locks, and the PPS output. Where the model chose or inferred: log entries 47, 48. -/
def Obligations.TimeCommands : Prop :=
  ∀ (s : State) (sub : BitVec 6),
    let m := s.time
    let at_ := (m.ns + sub.toNat) % 1000000000
    let off : Int := if 500000000 < at_ then (at_ : Int) - 1000000000 else at_
    let now := m.ns + m.sec.toNat * 2 ^ 32
    exec .aonTimeNsRead s = .next { s with time := { m with shadow := m.sec } } ∧
    (s.planMoves = false → s.epoch.active = false → m.stage.toNat % 2 ^ 32 ≤ 999999999 → ∃ t, exec (.apply none 1) s = .next t ∧
      t.time.ns = m.stage.toNat % 2 ^ 32 ∧ t.time.sec.toNat = m.stage.toNat / 2 ^ 32 ∧ t.time.frac = 0 ∧ t.time.slew = 0 ∧ t.time.valid = true ∧
      (m.source ≠ 0 → t.time.tlock = false ∧ t.time.flock = m.flock) ∧ (m.source = 0 → t.time.tlock = true ∧ t.time.flock = true)) ∧
    (s.planMoves = true ∨ 999999999 < m.stage.toNat % 2 ^ 32 → ∃ t, exec (.apply none 1) s = .next t ∧ t.time = { m with refused := true } ∧
      t.jnl.raised = s.jnl.raised + 1) ∧
    (∀ v : Byte, v.getLsbD 0 = false → exec (.apply none v) s = .next s) ∧
    (s.epoch.active = false → s.acyFrac < s.perAcy → m.slew = 0 → m.ns < 1000000000 → ∃ t, exec .timeSecondRollover s = .next t ∧ t.time.ns < 40 ∧
      t.time.sec = m.sec + 1 ∧ t.blocks = s.blocks ∧ t.jnl = s.jnl) ∧
    (s.epoch.active = false → m.slewing = true → ∃ t, exec .slewEnd s = .next t ∧ t.time.slew = 0 ∧ t.time.slewing = false ∧ t.time.valid = m.valid) ∧
    (m.slewing = false → exec .slewEnd s = .next s) ∧
    (∃ t, exec (.ppsEdge sub) s = .next t ∧ t.time.ppsOffset = BitVec.ofInt 32 off ∧ t.time.ppsLast = some s.acy ∧
      (t.time.ppsPresent = true ↔ ∃ a, m.ppsLast = some a ∧ s.acy ≤ a + 37500000) ∧ (m.source = 1 → t.time.source = 1) ∧
      (m.source ≠ 1 → t.time.source = if t.time.ppsPresent then 2 else 0)) ∧
    (m.source = 2 → (∃ a, m.ppsLast = some a ∧ s.acy ≤ a + 37500000) → m.valid = true → off.natAbs ≤ 1000000 →
      ∃ t, exec (.ppsEdge sub) s = .next t ∧ t.time.slew = off * 2 ^ 32 ∧ t.time.ns = m.ns ∧ t.time.sec = m.sec ∧
        t.time.run20 = (if off.natAbs ≤ 20 then m.run20 + 1 else 0) ∧ t.time.run50 = (if off.natAbs ≤ 50 then m.run50 + 1 else 0) ∧
        (100 < off.natAbs → t.time.tlock = false) ∧
        (off.natAbs ≤ 100 → t.time.tlock = (m.tlock || decide (8 ≤ t.time.run20))) ∧
        t.time.flock = (m.flock || decide (16 ≤ t.time.run50))) ∧
    (m.source = 1 → ∃ t, exec .timeLockTimeout s = .next t ∧ t.time.tlock = false ∧ t.time.flock = m.flock ∧ t.time.run20 = 0 ∧ t.time.run50 = 0) ∧
    (m.source = 2 → ∃ t, exec .timeLockTimeout s = .next t ∧ t.time.source = 0 ∧ t.time.ppsPresent = false ∧ t.time.tlock = m.valid ∧
      t.time.flock = m.valid) ∧
    (m.tlock = false → ∃ t, exec .frequencyLockLoss s = .next t ∧ t.time.flock = false ∧ t.time.tlock = false ∧
      t.jnl.raised = s.jnl.raised + (if m.flock then 1 else 0)) ∧
    (m.tlock = true → exec .frequencyLockLoss s = .next s) ∧
    (exec .ppsOutput s = .next { s with time := { m with ppsOut := decide (s.setting 0x3020 3 = 1 ∧ m.valid = true ∧ m.ns < 100000000) } }) ∧
    (m.ns < 1000000000 → s.time64.toNat = now)

/-- Clock monitors (R43, R628, R631, R674, R675): a failure is recorded once, and its effect on links, quarters and the plan is that of R675; a domain
that measures good again is recorded, and restores nothing by itself. Where the model chose or inferred: log entry 49. -/
def Obligations.ClockMonitors : Prop :=
  ∀ (s : State) (d : BitVec 4) (p : PortId) (stopped : Bool) (ppm : BitVec 16),
    let m := s.monitor d.toNat
    (m.failed = true ∨ 10 < d.toNat → exec (.clockMonitorFailure d p stopped ppm) s = .next s) ∧
    (m.failed = false → d.toNat ≤ 10 → ∃ t, exec (.clockMonitorFailure d p stopped ppm) s = .next t ∧ (t.monitor d.toNat).failed = true ∧
      (t.monitor d.toNat).fails.toNat = min (m.fails.toNat + 1) 0xFFFFFFFF ∧ (t.monitor d.toNat).ppm = (if stopped then m.ppm else ppm) ∧
      (d = 0 → t.time.tlock = false ∧ t.time.flock = false ∧ srcClock ∈ t.supply.holders ∧ t.fastUp = false) ∧
      (d = 2 → t.elt.frame = none ∧ t.blocks = s.blocks) ∧
      (d ∈ [3, 4, 5, 6] → (t.pll (d.toNat - 3)).st = .off ∧ (t.pll (d.toNat - 3)).failed = true ∧
        t.counter (0x2110 + d.toNat - 3) 2 = min (s.counter (0x2110 + d.toNat - 3) 2 + 1) (2 ^ 64 - 1)) ∧
      (d = 8 → t.dieWorks .e1 = false ∧ ∀ i, 4 ≤ i → i < 8 → (t.port i).st = .down ∨ (t.port i).st = .disabled) ∧
      (d = 9 → (s.port p.toNat).st ≠ .disabled → (t.port p.toNat).st = .down ∧ ((s.port p.toNat).st ≠ .down → (t.port p.toNat).cause = 2)) ∧
      (d = 10 → t.hif.linkUp = false ∧ ∀ r, (t.queue r).en = false) ∧
      (d ∈ [0, 3, 4, 5, 6, 7, 8] → s.plan = .running → t.plan ≠ .running)) ∧
    (m.failed = true → d.toNat ≤ 10 → ∃ t, exec (.clockMonitorGood d ppm) s = .next t ∧ t.monitor d.toNat = { m with failed := false, ppm := ppm } ∧
      t.jnl.raised = s.jnl.raised + 1 ∧ t.supply = s.supply ∧ t.qpll = s.qpll ∧ t.ports = s.ports ∧ t.time = s.time) ∧
    (m.failed = false → exec (.clockMonitorGood d ppm) s = .next s)

/-- The thermal monitor (R880, R881, R895, R896, R899 to R901): a conversion gives its site's reading and moves WARN at 95.0 and 90.0 °C and STOP at
105.0 and 100.0 °C; THERMTRIP halts the plan and takes the device to STANDBY until it is released. -/
def Obligations.ThermalCommands : Prop :=
  ∀ (s : State) (site : BitVec 7) (x : BitVec 16),
    let n := site.toNat
    (72 < n ∨ s.sitePowered n = false → exec (.sensorConversion site x) s = .next s) ∧
    (n ≤ 72 → s.sitePowered n = true → ∃ t, exec (.sensorConversion site x) s = .next t ∧ (t.site n).temp = x ∧ (t.site n).valid = true ∧
      (x.toInt < -320 ∨ 1200 < x.toInt → (t.site n).failed = true) ∧ ((s.site n).failed = true → (t.site n).failed = true) ∧
      (∀ i, i ≠ n → t.site i = s.site i) ∧
      (t.thermal.warn = true ↔ (∃ y, t.peakTemp = some y ∧ 760 ≤ y) ∨ (s.thermal.warn = true ∧ ∃ y, t.peakTemp = some y ∧ 720 ≤ y)) ∧
      (t.thermal.stop = true ↔ t.anyBlind = true ∨ (∃ y, t.peakTemp = some y ∧ 840 ≤ y) ∨
        (s.thermal.stop = true ∧ ∃ y, t.peakTemp = some y ∧ 800 ≤ y)) ∧
      (t.thermal.warn ≠ s.thermal.warn ∨ t.thermal.stop ≠ s.thermal.stop → t.hif.evtPend.getLsbD 5 = true)) ∧
    (∀ y, s.peakTemp = some y → ∃ i < 72, s.siteValid i = true ∧ (s.site i).temp.toInt = y ∧
      ∀ k < 72, s.siteValid k = true → (s.site k).temp.toInt ≤ y) ∧
    (s.thermal.trip = true ∨ 71 < n → exec (.thermtripAssert site) s = .next s) ∧
    (s.thermal.trip = false → n ≤ 71 → ∃ t, exec (.thermtripAssert site) s = .next t ∧ t.thermal.trip = true ∧ t.thermal.tripAt = s.acy ∧
      t.fastUp = false ∧ (s.boot.st.inRom = false → t.boot.st = .standby) ∧ t.plan ≠ .running) ∧
    (s.thermal.trip = true → s.siteValid 72 = true → (s.site 72).temp.toInt < 480 → ∃ t, exec .thermtripRelease s = .next t ∧
      t.thermal.trip = false ∧ t.jnl.raised = s.jnl.raised + 1 ∧ t.boot = s.boot) ∧
    (s.thermal.trip = true → s.siteValid 72 = true → 480 ≤ (s.site 72).temp.toInt → exec .thermtripRelease s = .next s)

/-! ## Supplies, resets and boot -/

/-- The power sequencer, the rails, power-fail and retention (R650, R676, R683 to R685, R687, R690 to R693, R717, R718). Where the model chose or
inferred: log entries 50, 59. -/
def Obligations.SupplyCommands : Prop :=
  ∀ (s : State) (r : BitVec 4),
    let x := s.supply
    let step := fun n : Nat => if n = 1 then [5] else if n = 2 then [0, 1, 2, 3, 4] else if n = 3 then [10, 12] else if n = 4 then [11, 13] else []
    exec .arm s = .next { s with supply := { x with latch := true } } ∧ exec .vretTrip s = .next { s with supply := { x with latch := false } } ∧
    (∀ n, x.pwr = .up n → 1 ≤ n → n ≤ 4 →
      ((n < 4 → ∀ i ∈ step (n + 1), s.boot.board.getLsbD i = true) → ∃ t, exec .powerUpStep s = .next t ∧
        t.supply.pwr = (if n < 4 then .up (n + 1) else .on) ∧
        (∀ i < 14, t.supply.good.getLsbD i = (x.good.getLsbD i || decide (i ∈ step n))) ∧ t.blocks = s.blocks) ∧
      (n < 4 → (∃ i ∈ step (n + 1), s.boot.board.getLsbD i = false) → ∃ t, exec .powerUpStep s = .next t ∧ t.supply.pwr = .down 4 ∧
        t.jnl.raised = s.jnl.raised + 1 ∧ (s.boot.st.inRom = false → t.boot.st = .standby)) ∧
      (r.toNat ∈ step n → ∃ t, exec (.powerStepTimeout r) s = .next t ∧ t.supply.pwr = .down 4 ∧ t.jnl.raised = s.jnl.raised + 1 ∧
        (s.boot.st.inRom = false → t.boot.st = .standby)) ∧
      (r.toNat ∉ step n → exec (.powerStepTimeout r) s = .next s)) ∧
    (∀ n, x.pwr = .down n → 1 ≤ n → n ≤ 4 → x.again = false →
      (r.toNat ∈ step n → ∃ t, exec (.powerStepTimeout r) s = .next t ∧ t.supply.pwr = (if 1 < n then .down (n - 1) else .off) ∧
        t.jnl.raised = s.jnl.raised + 1) ∧
      (∃ t, exec .powerDownOrder s = .next t ∧ t.supply.pwr = .off ∧
        ∀ i < 14, t.supply.good.getLsbD i = (x.good.getLsbD i && !decide (∃ j < n + 1, i ∈ step j)))) ∧
    (x.pfw = false → s.boot.st ≠ .off → ∃ t, exec .powerFailWarning s = .next t ∧ t.supply.pfw = true ∧ t.bp = true ∧ t.supply.pwr = .off ∧
      srcPowerFail ∈ t.supply.holders ∧ t.fastUp = false ∧ t.jnl.ring = s.jnl.ring ∧ t.jnl.next = s.jnl.next ∧ t.supply.latch = x.latch ∧
      t.supply.good = x.good &&& 0x380) ∧
    (x.pfw = true → exec .powerFailWarning s = .next s ∧ ∃ t, exec .powerFailRecovery s = .next t ∧ t.supply.pfw = false ∧
      srcPowerFail ∉ t.supply.holders ∧ t.supply.src = 10 ∧ t.supply.scope = 2 ∧
      (s.boot.board.getLsbD 5 = true → s.boot.st.inRom = false → s.thermal.trip = false → t.supply.pwr = .up 1)) ∧
    (x.pfw = false → exec .powerFailRecovery s = .next s) ∧
    exec (.railPoll []) s = .next s ∧
    (∀ y : RailReading, y.rail < 14 →
      (y.failed = true → ∃ t, exec (.railPoll [y]) s = .next t ∧ t.supply = x ∧ t.jnl.raised = s.jnl.raised + 1) ∧
      (y.failed = false → y.hardFault = false → ∃ t, exec (.railPoll [y]) s = .next t ∧
        look ⟨0, 0, 0, 0⟩ t.supply.rails y.rail = ⟨y.volts, y.amps, y.temp, y.status⟩ ∧
        t.supply.good.getLsbD y.rail = (s.inWindow y.rail y.volts && s.railOn y.rail) ∧ t.supply.pwr = x.pwr) ∧
      (sequenced y.rail = true → s.railOn y.rail = true → y.hardFault = true →
        (y.failed = false → ∃ t, exec (.railPoll [y]) s = .next t ∧ t.fastUp = false ∧ (s.boot.st.inRom = false → t.boot.st = .standby)) ∧
        (∃ t, exec (.smbalertN y) s = .next t ∧ t.fastUp = false ∧ (s.boot.st.inRom = false → t.boot.st = .standby))) ∧
      (y.hardFault = false → ∃ t, exec (.smbalertN y) s = .next t ∧ t.jnl.raised = s.jnl.raised + 2 ∧ t.supply.pwr = x.pwr)) ∧
    (∀ beats, (s.boot.st = .off → exec (.lossOfVaon18 beats) s = .next s) ∧
      (s.boot.st ≠ .off → ∃ t, exec (.lossOfVaon18 beats) s = .next t ∧ t.boot.st = .off ∧ t.plan = .empty ∧
        (∀ c, c ≠ mgmtCore → t.blk c = Block.reset) ∧ (t.blk mgmtCore).ls = (s.blk mgmtCore).ls ∧ t.jnl.gen = s.jnl.gen ∧
        t.jnl.next = s.jnl.next ∧ t.jnl.fifo = s.jnl.fifo ∧ (x.pfw = true → t.jnl.ring = s.jnl.ring) ∧ t.repair = s.repair ∧ t.flash = s.flash ∧
        t.boot.slots = s.boot.slots ∧ t.boot.rollback = s.boot.rollback ∧ t.supply.latch = x.latch ∧ t.pending = s.pending))

/-- Reset sources (R546, R675, R679, R698, R700 to R713): what each takes down, holds and releases, the reset record, the retention clear, and the
watchdog. Where the model chose or inferred: log entries 45, 46, 49, 62. -/
def Obligations.ResetCommands : Prop :=
  ∀ (s : State) (src : BitVec 4),
    let x := s.supply
    let n := src.toNat
    (n ∉ x.due → exec (.fastDomainReset src) s = .next s) ∧
    (n ∈ x.due → ∃ t, exec (.fastDomainReset src) s = .next t ∧ t.fastUp = false ∧ n ∈ t.supply.holders ∧ n ∉ t.supply.due ∧ t.supply.src = src ∧
      t.supply.scope = (if n = 5 then 3 else 2) ∧ (n = 5 → t.jnl.gen = s.jnl.gen + 1 ∧ t.lastPlanId = 0 ∧ t.supply.latch = true) ∧
      (s.fastUp = true → t.plan = .empty ∧ (∀ c, c ≠ mgmtCore → t.blk c = Block.reset) ∧
        (n ≠ 5 → (∃ x, (mgmtCore.toNat, x) ∈ s.blocks) → (t.blk mgmtCore).core = (s.blk mgmtCore).core ∧ (t.blk mgmtCore).ls = (s.blk mgmtCore).ls) ∧
        (n = 5 → (t.blk mgmtCore).ls = []) ∧ t.hif.linkUp = false ∧ t.hif.cmds = [] ∧
        t.counter 0x2200 2 = if n = 5 then 0 else min (s.counter 0x2200 2 + 1) (2 ^ 64 - 1)) ∧
      (s.fastUp = true → n ≠ 5 → s.hif.cmds = [] → t.jnl.next = s.jnl.next + 1 ∧
        let l := t.jnl.slot (s.jnl.next.toNat % 4096)
        leAt l 0 8 = s.jnl.next.toNat ∧ leAt l 16 8 = n ∧ leAt l 32 8 = 2 ∧ leAt l 48 2 = 0x0500 ∧ leAt l 50 1 = 0x10)) ∧
    (n ∈ x.holders → n ∈ [4, 5] ∨ n = 7 ∧ (s.monitor 0).failed = false → ∃ t, exec (.fastDomainRelease src) s = .next t ∧
      (∀ m, m ∈ t.supply.holders ↔ m ∈ x.holders ∧ m ≠ n)) ∧
    (n ∉ [4, 5, 7] → exec (.fastDomainRelease src) s = .next s) ∧
    (x.rstn = none → (∃ t, exec .rstNAssert s = .next t ∧ t.supply.rstn = some s.acy ∧ 2 ∈ t.supply.holders ∧ t.fastUp = false ∧ t.supply.src = 2) ∧
      (∀ ms, exec (.rstNDeassert ms) s = .next s) ∧ exec .resetStuck s = .next s) ∧
    (∀ a, x.rstn = some a → exec .rstNAssert s = .next s ∧
      (x.stuck = false → ∃ t, exec .resetStuck s = .next t ∧ t.supply.stuck = true ∧ t.jnl.raised = s.jnl.raised + 1 ∧ t.supply.holders = x.holders) ∧
      (x.stuck = true → exec .resetStuck s = .next s) ∧
      ∀ ms, s.epoch.active = false → s.acyFrac < s.perAcy → a ≤ s.acy → let held := (s.acy - a) / 25000 + ms
        ∃ t, exec (.rstNDeassert ms) s = .next t ∧ t.supply.rstn = none ∧ 2 ∉ t.supply.holders ∧ t.supply.stuck = false ∧ t.supply.override = false ∧
          (8000 ≤ held → x.stuck = false → x.overrode = false → t.jnl.gen = s.jnl.gen + 1 ∧ t.lastPlanId = 0 ∧ t.supply.scope = 3) ∧
          (held < 8000 ∨ x.stuck = true ∨ x.overrode = true → t.jnl = s.jnl ∧ t.lastPlanId = s.lastPlanId) ∧
          (s.boot.st = .recovery → t.boot.st = .flash) ∧ (s.boot.st ≠ .recovery → t.boot.st = s.boot.st)) ∧
    (x.perstn = false → exec .perstNDeassert s = .next s ∧ ∃ t, exec .perstNAssert s = .next t ∧ t.supply.perstn = true ∧ 3 ∈ t.supply.holders ∧
      t.fastUp = false ∧ t.supply.src = 3) ∧
    (x.perstn = true → exec .perstNAssert s = .next s ∧ ∃ t, exec .perstNDeassert s = .next t ∧ t.supply.perstn = false ∧ 3 ∉ t.supply.holders ∧
      (s.boot.st = .standby → s.thermal.trip = false → x.pwr = .off → s.boot.board.getLsbD 5 = true → t.supply.pwr = .up 1)) ∧
    exec .kick s = .next { s with supply := { x with wdt := x.wdt.map fun _ => s.acy } } ∧
    (s.wdtRuns = true → s.toAcy (x.wdt.getD 0 + s.setting 0x2220 2 * 25000) = none → exec .watchdogExpiry s = .next s) ∧
    (s.wdtRuns = true → ∀ s', s.toAcy (x.wdt.getD 0 + s.setting 0x2220 2 * 25000) = some s' → ∃ t, exec .watchdogExpiry s = .next t ∧
      (∀ a, x.wdt = some a → s.acyFrac < s.perAcy → a + s.setting 0x2220 2 * 25000 ≤ t.acy) ∧ t.boot.st = .flash ∧ t.boot.restart = true ∧ t.supply.wdt = none ∧ t.supply.src = 6 ∧
      t.supply.scope = 1 ∧ t.jnl.raised = s.jnl.raised + 1 ∧ (∀ c, c ≠ mgmtCore → t.blk c = s.blk c) ∧
      t.blk mgmtCore = { Block.reset with ls := (s.blk mgmtCore).ls } ∧ t.elt.lines = [] ∧ t.elt.btb = [] ∧ t.plan = s.plan ∧
      t.epoch = s'.epoch ∧ t.hif.queues = s.hif.queues) ∧
    (s.wdtRuns = false → exec .watchdogExpiry s = .next s)

/-- Power-on of the AON domain and the boot (R544, R545, R689, R694, R695, R697, R698, R813, R814, R818 to R825, R831 to R833, R40, R41). Of a retained
structure or a record of persistent store the copy with the higher count is used; a structure without a valid copy makes the start cold. Each start-up failure is an event, and the first
stands in 0x4000:02. The blocks come up with the patch. Where the model chose or inferred: log entries 3, 46, 47, 51, 62, 70, 77. -/
def Obligations.BootCommands : Prop :=
  ∀ (s : State) (inp : BootInput),
    (∀ n p, s.ret.find? (fun e => decide (e.1 = n)) = some (n, p) → (∀ o, p.older = some o → o.count ≤ p.newer.count) → s.retained [] n = some p.newer.bytes) ∧
    (s.boot.st ≠ .off → ∀ ticks damage sound pages, exec (.aonPowerOn ticks damage sound pages) s = .next s) ∧
    (s.boot.st = .off → ∀ ticks damage sound pages,
      let read := s.stored damage pages
      let gen : W64 := BitVec.ofNat 64 (leAt ((read 16).getD []) 0 8)
      let whole := s.supply.latch = true ∧ sound = true ∧ gen = s.jnl.gen ∧ ∀ n ∈ [1, 2, 3, 4], s.retained damage n ≠ none
      (∀ n, (n, true) ∉ pages → (n, false) ∉ pages → read n = s.retained damage n) ∧
      (∀ n, (n, true) ∈ pages → (n, false) ∈ pages → read n = none) ∧
      ∃ t, exec (.aonPowerOn ticks damage sound pages) s = .next t ∧ t.boot.st = .flash ∧
      t.flash = (s.takeRecords fun n => (read n).getD []).flash ∧ t.station.toNat = t.flashValue 0x110001 % 256 ∧ t.supply.src = 1 ∧
      (whole → t.supply.warm = true ∧ t.jnl.gen = gen ∧ t.supply.scope = 4 ∧ t.time.tlock = false ∧ t.time.flock = false ∧
        (∀ l, s.retained damage 4 = some l → t.lastPlanId = BitVec.ofNat 32 (leAt l 0 4)) ∧
        (∀ l, s.retained damage 3 = some l → t.time.valid = true → leAt l 16 1 = 1)) ∧
      (¬whole → t.supply.warm = false ∧ t.jnl.gen = gen + 1 ∧ t.supply.scope = 5 ∧
        t.jnl.next = 2 ∧ leAt (t.jnl.slot 1) 50 1 = 0x20 ∧ leAt (t.jnl.slot 1) 32 8 = t.jnl.gen.toNat ∧ t.lastPlanId = 0 ∧ t.time.valid = false ∧
        t.supply.latch = true)) ∧
    (s.boot.st = .flash → inp.programmed = [] →
      (inp.sfdp = none → ∃ t, exec (.bootSequence inp) s = .next t ∧ t.boot.st = .recovery ∧ t.boot.slot = none ∧ t.fastUp = false) ∧
      (∀ d, inp.sfdp = some d →
        let u := ({ s with boot := { s.boot with dummy := bootDummy inp d, xip := true } } : State).chooseSlot inp
        (u.2 = none → ∃ t, exec (.bootSequence inp) s = .next t ∧ t.boot.st = .recovery ∧ t.boot.slot = none) ∧
        (∀ n, u.2 = some n → s.supply.pwr = .off → s.boot.restart = false → (boardRails inp).getLsbD 5 = true → ∃ t, exec (.bootSequence inp) s = .next t ∧
          t.boot.slot = some n ∧ t.boot.patch = (componentBytes inp n 2).getD [] ∧ t.boot.board = boardRails inp ∧ t.boot.st = .rails ∧ t.supply.pwr = .up 1 ∧ t.supply.wdt = some s.acy ∧ t.bundle = (u.1.slotImg n).bundle ∧
          ((u.1.slotImg n).confirmed = false → (t.slotImg n).trials = (u.1.slotImg n).trials - 1) ∧
          (t.restricted = true ↔ (u.1.slotImg n).compatible = false ∧ s.override = false)))) ∧
    (s.boot.st = .edge → s.fastUp = true →
      (∀ die other code detail l, inp.startFailures = (die, other, code, detail) :: l → (∀ f ∈ inp.startFailures, f.1 < 6 ∧ 1 ≤ f.2.2.1 ∧ f.2.2.1 ≤ 6) →
        ∃ t, exec (.bootSequence inp) s = .next t ∧ t.boot.st = .failed ∧ t.jnl.raised = s.jnl.raised + BitVec.ofNat 64 (l.length + 1) ∧
          (s.counter 0x4000 2 = 0 → other < 16 → t.counter 0x4000 2 = die + 16 * other + 256 * code)) ∧
      (inp.startFailures = [] → s.restricted = true → ∃ t, exec (.bootSequence inp) s = .next t ∧ t.boot.st = .restricted ∧ t.hif.ready = true ∧
        t.hif.linkUp = true ∧ ∀ p < 8, (t.port p).st = .disabled) ∧
      (inp.startFailures = [] → s.restricted = false → ∃ t, exec (.bootSequence inp) s = .next t ∧ t.boot.st = .idle ∧ t.hif.ready = true ∧
        t.hif.linkUp = true ∧ t.mhz = 1000 ∧ t.boot.loaded = s.boot.slot ∧
        (∀ q < 4, (s.pll q).failed = false → t.quarterWorks q = true → (t.pll q).st = .standby) ∧
        ∀ b : BlockId, restKey b.toNat < 8 → (t.blk b).core.fetching = false ∧ (t.blk b).ls = [] ∧ (s.override = false →
          let x := s.slotImg (s.boot.slot.getD 0)
          (t.blk b).patch = BitVec.ofNat 8 (x.at_ 72 1) ∧ (t.blk b).im = mstore [] 0x17C00 (s.boot.patch.take 1024)))) ∧
    (s.boot.st = .links → s.fastUp = true → ∃ t, exec (.bootSequence inp) s = .next t ∧ t.boot.st = .idle ∧ t.hif.ready = true) ∧
    (s.boot.st ∈ [.off, .rails, .recovery, .failed, .restricted, .idle, .standby] → exec (.bootSequence inp) s = .next s) ∧
    (∀ n a ok ok', s.boot.slot = some n → s.boot.idleAt = some a → (s.slotImg n).confirmed = false → s.toAcy (a + 60 * 25000000) ≠ none →
      ∃ t, exec (.confirmation ok ok') s = .next t ∧ (s.acyFrac < s.perAcy → a + 60 * 25000000 ≤ t.acy) ∧ (t.slotImg n).confirmed = true ∧ (t.slotImg n).trials = (s.slotImg n).trials ∧ (∀ m, m ≠ n → t.slotImg m = s.slotImg m) ∧
      ((s.slotImg n).at_ 17 1 % 2 = 1 → s.boot.rollback < (s.slotImg n).svn → ok = true → t.boot.rollback = (s.slotImg n).svn) ∧
      ((s.slotImg n).at_ 17 1 % 2 = 0 → t.boot.rollback = s.boot.rollback) ∧ ((s.slotImg n).at_ 17 1 < 2 → t.boot.revoked = s.boot.revoked)) ∧
    (∀ ok ok', s.boot.slot = none ∨ s.boot.idleAt = none → exec (.confirmation ok ok') s = .next s)

/-! ## Elette and the dictionary -/

/-- Frames on Elette (R565 to R574, R576, R579, R580, R582, R584, R585). `f` is the frame in passage, whose next datagram is `dg`: the
device that a datagram is for answers with data, STATUS, TALLY and LAST, and keeps what a write asks until the end of the frame; any other device
passes the datagram on, as every device does with HOPS one higher. A frame whose end is valid applies its acts; one whose FCS is wrong applies nothing,
and goes out with the complement of the FCS. The bytes of a frame give its datagrams back. Where the model chose or inferred: log
entry 54. -/
def Obligations.EletteFrames : Prop :=
  ∀ (s : State) (f : EltFrame) (dg : Datagram) (rest : List Datagram),
    let e := s.elt
    let op := dg.op
    let plain := rest.takeWhile fun d => !actingOp d.op
    let hop := fun d : Datagram => { d with hops := d.hops + 1 }
    let i := dg.index.toNat
    let sub := dg.sub.toNat
    let sent := fun (c : Instr) (d : Datagram) (acts : List EndAct) => ∃ t, exec c s = .next t ∧
      t.elt.frame = some { f with rest := rest.drop plain.length, acts := f.acts ++ acts, out := f.out ++ [hop d] ++ plain.map hop } ∧
      t.elt.rsvCmd = min (e.rsvCmd + (plain.filter fun d => decide (d.op ≠ 0)).length) (2 ^ 64 - 1)
    let done := fun (d : List Byte) => { dg with data := d, status := dg.status, tally := dg.tally + 1, last := s.station }
    let refused := fun (st : Byte) => { dg with status := if dg.status < st then st else dg.status }
    let value := fun n : Nat => if i = 0x3010 ∧ sub = 1 then leBytes 8 f.t0.toNat else s.objBytes .elette i sub n
    let mine := s.station ≠ 0 ∧ dg.target = s.station
    let reads := fun c : Instr =>
      (objInfo i sub = none → sent c (refused 0x10) []) ∧
      (s.dictCheck .elette false i sub false (fun t => t.fits dg.len) = .ok →
        (isDeferred i sub = false → ¬(i = 0x5010 ∧ sub = 2) → sent c (done (value dg.len)) []) ∧
        (isDeferred i sub = true → dg.len ≤ 1024 →
          (s.deferredHeld f < 8 → sent c { refused 1 with tally := dg.tally + 1, last := s.station, flags := dg.flags ||| 1 }
            [.request ⟨dg.tag, dg.index, dg.sub, false, dg.len, [], false⟩]) ∧
          (8 ≤ s.deferredHeld f → sent c (refused 2) [])))
    let writes := fun (c : Instr) (fast : Bool) =>
      (objInfo i sub = none → sent c (refused 0x10) []) ∧
      (dg.data.length = dg.len → isDeferred i sub = false → s.dictCheck .elette true i sub fast (fun t => t.fits dg.len) = .ok →
        s.valueOk i sub dg.data = true → sent c (done dg.data) [.write dg.index dg.sub dg.data])
    (e.frame = some f → f.rest = dg :: rest →
      (op = 0x10 → (mine → reads (.sget dg .ok)) ∧ (¬mine → sent (.sget dg .ok) dg [])) ∧
      (op = 0x11 → (mine → writes (.sput dg) false) ∧ (¬mine → sent (.sput dg) dg [])) ∧
      (op = 0x20 → (dg.target = dg.hops → reads (.pget dg .ok)) ∧ (dg.target ≠ dg.hops → sent (.pget dg .ok) dg [])) ∧
      (op = 0x21 → (dg.target = dg.hops → writes (.pput dg) false) ∧ (dg.target ≠ dg.hops → sent (.pput dg) dg [])) ∧
      (op = 0x31 → writes (.allput dg) true) ∧
      (op = 0x30 → ∀ o, objInfo i sub = some o → let n := o.ty.size; let a := n * dg.hops.toNat
        (dg.len < a + n → sent (.gather dg .ok) dg []) ∧
        (a + n ≤ dg.len → s.dictCheck .elette false i sub true (fun _ => decide (dg.len % n = 0)) = .ok → ¬(i = 0x5010 ∧ sub = 2) →
          sent (.gather dg .ok) (done (dg.data.take a ++ value n ++ dg.data.drop (a + (value n).length))) [])) ∧
      (op = 0x40 → sent (.tlatch dg) (done dg.data) [.latch]) ∧
      (op = 0x41 → dg.len = 8 → dg.index = 0 → dg.sub = 0 → (mine → sent (.tdist dg) (done (leBytes 8 f.t0.toNat)) []) ∧
        (¬mine → dg.tally = 0 → sent (.tdist dg) dg []) ∧
        (¬mine → dg.tally ≠ 0 → sent (.tdist dg) (done dg.data) [.sample (timePlus (BitVec.ofNat 64 (leAt dg.data 0 8)) e.delay)]))) ∧
    (∀ t1 : W64, e.frame = some f → f.processed = true → f.bad = false →
      let fcs := crc32 f.bytes
      let out := f.bytes.take 18 ++ f.out.flatMap dgBytes ++ f.after
      (f.rest = [] → f.acts = [.latch] → ∃ t, exec (.eletteFrameEndApply fcs false t1) s = .next t ∧ t.elt.frame = none ∧
        t.elt.sent = out ++ leBytes 4 (crc32 out).toNat ∧
        t.elt.t0 = f.t0 ∧ t.elt.t1 = (if e.looped then f.t0 else t1) ∧ t.elt.looped = e.loopNext) ∧
      (f.rest = [] → ∀ r, f.acts = [.request r] → ∃ t, exec (.eletteFrameEndApply fcs false t1) s = .next t ∧ t.elt.requests = e.requests ++ [r]) ∧
      (f.rest = [] → ∀ l, f.acts = [.write 0x1110 3 l] → ∃ t, exec (.eletteFrameEndApply fcs false t1) s = .next t ∧
        t.elt.delay = BitVec.ofNat 32 (leNat l) ∧ t.jnl.raised = s.jnl.raised + 1) ∧
      (f.rest = [] → ∀ fcs' er, fcs' ≠ fcs ∨ er = true → ∃ t, exec (.eletteFrameEndApply fcs' er t1) s = .next t ∧ t.elt.frame = none ∧
        t.elt.sent = out ++ leBytes 4 (~~~crc32 out).toNat ∧ t.elt.fcsErr = min (e.fcsErr + 1) (2 ^ 64 - 1) ∧
        t.elt.t0 = e.t0 ∧ t.elt.requests = e.requests ∧ t.settings = s.settings ∧ t.jnl = s.jnl)) ∧
    (∀ fcs er t1, e.frame = none ∨ (e.frame = some f ∧ f.rest ≠ []) → exec (.eletteFrameEndApply fcs er t1) s = .next s) ∧
    (∀ (addr : List Byte) (eth : BitVec 16) (ver count : Byte) (area : BitVec 16) (l : List Datagram) (pad : List Byte), s.boot.st ≠ .off → (s.monitor 2).failed = false →
      e.frame = none → e.outLink = true →
      let body := l.flatMap dgBytes
      let bytes := addr ++ [BitVec.ofNat 8 (eth.toNat / 256), BitVec.ofNat 8 eth.toNat, ver, count] ++ leBytes 2 area.toNat ++ body ++ pad
      let plain := l.takeWhile fun d => !actingOp d.op
      (e.en = true → eth = e.etherType → ver = 1 → l.length = count.toNat → body.length = area.toNat → 0 < count.toNat →
        (∀ d ∈ l, d.data.length = d.len ∧ d.len < 4096) → ∃ t, exec (.eletteFrameReceive addr eth ver count area (body ++ pad)) s = .next t ∧
          t.elt.frame = some ⟨true, bytes, l.drop plain.length, pad, false, s.time64, [], plain.map hop⟩ ∧ t.elt.frames = min (e.frames + 1) (2 ^ 64 - 1)) ∧
      (e.en = false ∨ eth ≠ e.etherType ∨ ver ≠ 1 → ∃ t, exec (.eletteFrameReceive addr eth ver count area (body ++ pad)) s = .next t ∧
        t.elt.frame = some ⟨false, bytes, [], [], false, s.time64, [], []⟩ ∧ t.elt.other = min (e.other + 1) (2 ^ 64 - 1) ∧ t.elt.frames = e.frames)) ∧
    (∀ (l : List Byte) (er : Bool), s.boot.st ≠ .off → (s.monitor 2).failed = false → e.link0 = true → 4 ≤ l.length → let body := l.take (l.length - 4)
      (er = false → l.drop (l.length - 4) = leBytes 4 (crc32 body).toNat → exec (.eletteReturnForward ⟨l, er⟩) s = .next
        { s with elt := { e with returned := l } }) ∧
      (er = true ∨ l.drop (l.length - 4) ≠ leBytes 4 (crc32 body).toNat → exec (.eletteReturnForward ⟨l, er⟩) s = .next
        { s with elt := { e with returned := body ++ leBytes 4 (~~~crc32 body).toNat, fcsErr := min (e.fcsErr + 1) (2 ^ 64 - 1) } })) ∧
    (∀ a b : Bool, s.boot.st ≠ .off → e.frame = none → exec (.phyLinkPoll a b) s = .next
      { s with elt := { e with link0 := a, link1 := b, loopNext := !b || e.forceLoop, looped := !b || e.forceLoop } })

/-- What the management core serves (R560 to R562, R577, R578, R608, R613, R614): the oldest deferred request leaves its answer in the mailbox, from
which an entry is removed by its TAG; a flash copy is committed, or its failure recorded; a line that the core misses, or that it asks for while its own is
there, joins the line buffer, and of eight the one fetched least recently goes that the core is not fetching from. Where the model chose or inferred: log
entries 53, 57, 59. -/
def Obligations.DeferredService : Prop :=
  ∀ (s : State) (p : Path),
    let e := s.elt
    (∀ r rest, e.requests = r :: rest → r.served = false → s.coreRuns = true →
      (r.write = false → ¬(r.index = 0x9010 ∧ r.sub = 1) → ∃ t, exec .deferredRequestServed s = .next t ∧ t.elt.requests = rest ∧
        t.elt.mailbox = e.mailbox ++ [⟨r.tag, 0, r.index, r.sub, s.objBytes .elette r.index.toNat r.sub.toNat r.len⟩]) ∧
      (r.write = true → s.valueOk r.index.toNat r.sub.toNat r.data = false → ∃ t, exec .deferredRequestServed s = .next t ∧ t.elt.requests = rest ∧
        t.elt.mailbox = e.mailbox ++ [⟨r.tag, 0x14, r.index, r.sub, []⟩] ∧ t.settings = s.settings ∧ t.dirty = s.dirty)) ∧
    (e.requests = [] ∨ s.coreRuns = false → exec .deferredRequestServed s = .next s) ∧
    (∀ r rest, e.requests = r :: rest → ∃ t, exec .deferredRequestTimeout s = .next t ∧ t.elt.requests = rest ∧
      t.elt.mailbox = e.mailbox ++ [⟨r.tag, 0x17, r.index, r.sub, []⟩]) ∧
    (e.requests = [] → exec .deferredRequestTimeout s = .next s) ∧
    (∀ m rest, e.mailbox = m :: rest → 1 ≤ s.authority p →
      (∃ t, exec (.mailboxEntryRemove p m.tag) s = .next t ∧ t.elt.mailbox = rest ∧ t.dictOut.1 = 0) ∧
      ∀ g, g ≠ m.tag → ∃ t, exec (.mailboxEntryRemove p g) s = .next t ∧ t.elt.mailbox = e.mailbox) ∧
    (∀ d rest, s.coreRuns = true → s.dirty = d :: rest → d.waiter = .none →
      (∃ t, exec (.flashCopyCommit true) s = .next t ∧ t.dirty = rest ∧ t.flashValue d.key = d.value ∧ ∀ k, k ≠ d.key → t.flashValue k = s.flashValue k) ∧
      (∃ t, exec (.flashCopyCommit false) s = .next t ∧ t.dirty = rest ∧ t.flash = s.flash ∧ t.jnl.raised = s.jnl.raised + 1)) ∧
    (s.coreRuns = false ∨ s.dirty = [] → ∀ w, exec (.flashCopyCommit w) s = .next s) ∧
    (∀ (n : BitVec 23) (l : List Byte), s.boot.xip = true → l.length = 32 → (∀ x ∈ e.lines, x.line ≠ n.toNat) →
      s.missing = none ∨ s.missing = some n.toNat → ∃ t, exec (.lineBufferFill n true l) s = .next t ∧
        (e.lines.length < 8 → t.elt.lines = ⟨n.toNat, l, false⟩ :: e.lines) ∧
        (∀ a old b, e.lines = a ++ old :: b → 8 ≤ e.lines.length → (e.lines.map LbLine.line).Nodup → let now := flashLine (s.blk mgmtCore).core.pc.toNat
          old.line ≠ now → (∀ x ∈ b, x.line = now) → t.elt.lines = ⟨n.toNat, l, false⟩ :: (a ++ b)) ∧
        t.elt.misses = min (e.misses + 1) (2 ^ 64 - 1) ∧ t.blocks = s.blocks) ∧
    (∀ (n : BitVec 23) (l : List Byte) (d : Bool), s.boot.xip = false ∨ (∃ x ∈ e.lines, x.line = n.toNat) ∨ (∃ m, s.missing = some m ∧ m ≠ n.toNat) →
      exec (.lineBufferFill n d l) s = .next s)

/-- The custodian unlock and the request objects (R593, R602, R609, R615 to R621, R651, R652, R707, R712, R834, R424): on each path, with the
authority that the object needs. Where the model chose or inferred: log entries 3, 53. -/
def Obligations.DictionaryRequests : Prop :=
  ∀ (s : State) (p : Path),
    let u := s.unlockOf p
    let ok := fun (c : Instr) (after : State → Prop) => ∃ t, exec c s = .next t ∧ t.dictOut.1 = 0 ∧ after t
    let bad := fun (c : Instr) (el ho : BitVec 16) => ∃ t, exec c s = .next t ∧ t.dictOut.1 = (if p = .elette then el else ho) ∧ t.supply = s.supply ∧
      t.boot = s.boot ∧ t.keys = s.keys ∧ t.ports = s.ports ∧ t.restricted = s.restricted
    (p ≠ .firmware → s.coreRuns = true →
      (s.lockedOut p = false → ok (.challenge p) fun t => (t.unlockOf p).challenge = some (t.dictOut.2, s.acy) ∧
        t.flashValue 0x903001 = (s.flashValue 0x903001 + 1) % 2 ^ 64 ∧ (t.unlockOf p).lease = u.lease) ∧
      (s.lockedOut p = true → bad (.challenge p) 0x11 0x51) ∧
      (∀ l : List Byte, l.length = 66 →
        (∀ c, s.validChallenge p = some c → 1 ≤ leAt l 0 2 → leAt l 0 2 ≤ 3600 →
          let verified := ∃ k ∈ s.keys, Config.ed25519 k.2 (responseMessage p (l.take 2) c) (l.drop 2) = true
          (verified → ok (.response p l) fun t => (t.unlockOf p).lease = some (s.acy + leAt l 0 2 * 25000000) ∧ (t.unlockOf p).challenge = none ∧
            (t.unlockOf p).run = 0 ∧ t.leased p = true ∧ t.authority p = 2) ∧
          (¬verified → ∃ t, exec (.response p l) s = .next t ∧ (t.unlockOf p).challenge = none ∧ (t.unlockOf p).run = u.run + 1 ∧
            (t.unlockOf p).lease = u.lease ∧ (7 ≤ u.run → (t.unlockOf p).lockout = some (s.acy + 60 * 25000000)) ∧
            t.counter 0x9030 2 = min (s.counter 0x9030 2 + 1) (2 ^ 64 - 1))) ∧
        (s.validChallenge p = none → bad (.response p l) 0x14 0x54))) ∧
    (p ≠ .firmware → s.boot.st ≠ .recovery → (ok (.leaseEndRequest p 1) fun t => (t.unlockOf p).lease = none) ∧
      ∀ v : Byte, v ≠ 1 → bad (.leaseEndRequest p v) 0x14 0x54) ∧
    (∀ e, u.lease = some e → s.toAcy e ≠ none → ∃ t, exec (.leaseExpiry p) s = .next t ∧ (t.unlockOf p).lease = none) ∧
    (u.lease = none → exec (.leaseExpiry p) s = .next s) ∧
    (∀ e, u.lockout = some e → s.toAcy e ≠ none → ∃ t, exec (.lockoutExpiry p) s = .next t ∧ (t.unlockOf p).lockout = none) ∧
    (u.lockout = none → exec (.lockoutExpiry p) s = .next s) ∧
    (s.coreRuns = true → ∀ (k : BitVec 2) (key : List Byte), key.length = 32 →
      (p ≠ .elette → s.authority p = 2 → ok (.custodianKeyWrite p k key) fun t => look (List.replicate 32 0) t.keys k.toNat = key ∧
        t.dirty = s.dirty ++ [⟨0x902001 + k.toNat, leNat key, .none⟩]) ∧
      (p ≠ .elette → s.authority p = 1 → s.provisioned = false → ok (.custodianKeyWrite p 0 key) fun t =>
        look (List.replicate 32 0) t.keys 0 = key) ∧
      (p ≠ .elette → s.authority p < 2 → s.provisioned = true → bad (.custodianKeyWrite p k key) 0x12 0x52) ∧
      (p = .elette → bad (.custodianKeyWrite p k key) 0x11 0x51)) ∧
    (s.coreRuns = true → 1 ≤ s.authority p →
      (s.fastUp = true → s.plan ∈ [.empty, .loading, .loaded] → ok (.deviceStateRequest p 2) fun t => t.fastUp = false ∧ t.plan = .empty ∧ t.boot.st = .standby) ∧
      (s.fastUp = false ∨ s.plan ∈ [.bound, .starting, .running, .stopping, .halted] → bad (.deviceStateRequest p 2) 0x14 0x54) ∧
      (s.boot.st = .standby → s.thermal.trip = false → s.supply.pwr = .off → s.boot.board.getLsbD 5 = true → ok (.deviceStateRequest p 1) fun t => t.supply.pwr = .up 1) ∧
      (ok (.fastResetRequest (some p) 1) fun t => srcFast ∈ t.supply.due ∧ t.plan = s.plan)) ∧
    (s.coreRuns = true → s.authority p = 2 → ok (.retentionClearRequest (some p) 1) fun t => srcClear ∈ t.supply.due) ∧
    (s.coreRuns = true → s.authority p < 2 → bad (.retentionClearRequest (some p) 1) 0x12 0x52) ∧
    (∀ v : Byte, (v.getLsbD 0 = true → ∃ t, exec (.fastResetRequest none v) s = .next t ∧ srcFast ∈ t.supply.due) ∧
      (v.getLsbD 0 = false → exec (.fastResetRequest none v) s = .next s ∧ exec (.retentionClearRequest none v) s = .next s) ∧
      (v.getLsbD 0 = true → ∃ t, exec (.retentionClearRequest none v) s = .next t ∧ srcClear ∈ t.supply.due)) ∧
    (s.boot.st ≠ .recovery →
      (s.authority p = 2 → s.supply.rstn.isSome = true → ok (.rstNOverride p 1) fun t => t.supply.override = true ∧ srcRstn ∉ t.supply.holders) ∧
      (s.authority p = 2 → s.supply.rstn = none → bad (.rstNOverride p 1) 0x14 0x54) ∧
      (s.authority p < 2 → bad (.rstNOverride p 1) 0x12 0x52)) ∧
    (s.authority p = 2 → s.restricted = true → ok (.restrictedOverride p 1) fun t => t.restricted = false ∧ t.override = true ∧ t.boot.st = .links) ∧
    (s.authority p < 2 → bad (.restrictedOverride p 1) 0x12 0x52) ∧
    (∀ q : PortId, s.fastUp = true → s.boot.st ≠ .recovery → 1 ≤ s.authority p → ok (.alignLossClear p q 0) fun t => (t.port q.toNat).alignLoss = false) ∧
    (∀ q : PortId, s.fastUp = false → bad (.alignLossClear p q 0) 0x11 0x51)
end

