-- ==== Sys2Proof/Laws/Tables.lean ====
section
/-! SUPPORT. Laws of tables and memories: what a read after a write gives, and that every memory operation keeps the canonical form. -/

namespace Sys2Proof.Machine

variable {α : Type}

/-! ## Reads after writes -/

@[simp] theorem look_put_same (d : α) (t : Tab α) (k : Nat) (v : α) : look d (put t k v) k = v := by
  induction t with
  | nil => simp [put, look]
  | cons e t ih =>
    obtain ⟨j, w⟩ := e
    simp only [put]
    split
    · simp [look]
    · split
      · simp [look]
      · simp [look, *]

theorem look_put_ne (d : α) (t : Tab α) {k n : Nat} (v : α) (h : n ≠ k) : look d (put t k v) n = look d t n := by
  induction t with
  | nil => simp [put, look, h]
  | cons e t ih =>
    obtain ⟨j, w⟩ := e
    simp only [put]
    split
    · simp [look, h]
    · split
      · subst k; simp [look, h]
      · simp [look, ih]

theorem look_unlist_ne (d : α) (t : Tab α) {k n : Nat} (h : n ≠ k) : look d (unlist t k) n = look d t n := by
  induction t with
  | nil => rfl
  | cons e t ih =>
    obtain ⟨j, w⟩ := e
    simp only [unlist]
    split
    · subst k; simp [look, h, ih]
    · simp [look, ih]

/-! ## Keys strictly rising -/

/-- Every key of a table lies above `k`. -/
def Tab.above (k : Nat) (t : Tab α) : Prop := ∀ e ∈ t, k < e.1

theorem rising_cons {j : Nat} {v : α} {t : Tab α} : Tab.rising ((j, v) :: t) = true ↔ Tab.above j t ∧ Tab.rising t = true := by
  induction t generalizing j v with
  | nil => simp [Tab.rising, Tab.above]
  | cons e t ih =>
    obtain ⟨k, w⟩ := e
    simp only [Tab.rising, Bool.and_eq_true, decide_eq_true_eq]
    constructor
    · rintro ⟨h, hr⟩
      refine ⟨?_, hr⟩
      intro e he
      rcases List.mem_cons.mp he with rfl | he
      · exact h
      · exact Nat.lt_trans h ((ih.mp hr).1 e he)
    · rintro ⟨h, hr⟩
      exact ⟨h (k, w) (by simp), hr⟩

theorem above_put {j k : Nat} {v : α} {t : Tab α} (h : Tab.above j t) (hk : j < k) : Tab.above j (put t k v) := by
  induction t with
  | nil => intro e he; simp [put] at he; subst he; exact hk
  | cons e t ih =>
    obtain ⟨i, w⟩ := e
    simp only [put]
    split
    · intro x hx
      rcases List.mem_cons.mp hx with rfl | hx
      · exact hk
      · exact h x hx
    · split
      · intro x hx
        rcases List.mem_cons.mp hx with rfl | hx
        · exact hk
        · exact h x (List.mem_cons_of_mem _ hx)
      · intro x hx
        rcases List.mem_cons.mp hx with rfl | hx
        · exact h _ (by simp)
        · exact ih (fun y hy => h y (List.mem_cons_of_mem _ hy)) x hx

theorem above_unlist {j k : Nat} {t : Tab α} (h : Tab.above j t) : Tab.above j (unlist t k) := by
  induction t with
  | nil => exact h
  | cons e t ih =>
    obtain ⟨i, w⟩ := e
    simp only [unlist]
    split
    · exact ih fun y hy => h y (List.mem_cons_of_mem _ hy)
    · intro x hx
      rcases List.mem_cons.mp hx with rfl | hx
      · exact h _ (by simp)
      · exact ih (fun y hy => h y (List.mem_cons_of_mem _ hy)) x hx

theorem put_rising {t : Tab α} (h : Tab.rising t = true) (k : Nat) (v : α) : Tab.rising (put t k v) = true := by
  induction t with
  | nil => simp [put, Tab.rising]
  | cons e t ih =>
    obtain ⟨j, w⟩ := e
    obtain ⟨ha, hr⟩ := rising_cons.mp h
    simp only [put]
    split
    · exact rising_cons.mpr ⟨fun x hx => by
        rcases List.mem_cons.mp hx with rfl | hx
        · assumption
        · exact Nat.lt_trans ‹_› (ha x hx), h⟩
    · split
      · subst k; exact rising_cons.mpr ⟨ha, hr⟩
      · exact rising_cons.mpr ⟨above_put ha (by omega), ih hr⟩

theorem unlist_rising {t : Tab α} (h : Tab.rising t = true) (k : Nat) : Tab.rising (unlist t k) = true := by
  induction t with
  | nil => rfl
  | cons e t ih =>
    obtain ⟨j, w⟩ := e
    obtain ⟨ha, hr⟩ := rising_cons.mp h
    simp only [unlist]
    split
    · exact ih hr
    · exact rising_cons.mpr ⟨above_unlist ha, ih hr⟩

@[simp] theorem look_unlist_same (d : α) (t : Tab α) (k : Nat) : look d (unlist t k) k = d := by
  induction t with
  | nil => rfl
  | cons e t ih =>
    obtain ⟨j, w⟩ := e
    simp only [unlist]
    split
    · exact ih
    · simp only [look]; rw [if_neg (by assumption)]; exact ih

/-! ## Tables with a default -/

variable [DecidableEq α]

theorem wf_iff {d : α} {t : Tab α} : Tab.wf d t = true ↔ Tab.rising t = true ∧ ∀ e ∈ t, e.2 ≠ d := by
  induction t with
  | nil => simp [Tab.wf, Tab.rising]
  | cons e t ih =>
    obtain ⟨j, v⟩ := e
    cases t with
    | nil => simp [Tab.wf, Tab.rising]
    | cons f t =>
      obtain ⟨k, w⟩ := f
      simp only [Tab.wf, Tab.rising, Bool.and_eq_true, decide_eq_true_eq, ih]
      constructor
      · rintro ⟨⟨h1, h2⟩, h3, h4⟩
        refine ⟨⟨h1, h3⟩, ?_⟩
        intro e he
        rcases List.mem_cons.mp he with rfl | he
        · exact h2
        · exact h4 e he
      · rintro ⟨⟨h1, h3⟩, h4⟩
        exact ⟨⟨h1, h4 (j, v) (by simp)⟩, h3, fun e he => h4 e (List.mem_cons_of_mem _ he)⟩

omit [DecidableEq α] in
theorem mem_put {e : Nat × α} {t : Tab α} {k : Nat} {v : α} (h : e ∈ put t k v) : e = (k, v) ∨ e ∈ t := by
  induction t with
  | nil => simp [put] at h; exact .inl h
  | cons f t ih =>
    obtain ⟨j, w⟩ := f
    simp only [put] at h
    split at h
    · rcases List.mem_cons.mp h with h | h
      · exact .inl h
      · exact .inr h
    · split at h
      · rcases List.mem_cons.mp h with h | h
        · exact .inl h
        · exact .inr (List.mem_cons_of_mem _ h)
      · rcases List.mem_cons.mp h with h | h
        · exact .inr (by simp [h])
        · rcases ih h with h | h
          · exact .inl h
          · exact .inr (List.mem_cons_of_mem _ h)

omit [DecidableEq α] in
theorem mem_unlist {e : Nat × α} {t : Tab α} {k : Nat} (h : e ∈ unlist t k) : e ∈ t := by
  induction t with
  | nil => exact h
  | cons f t ih =>
    obtain ⟨j, w⟩ := f
    simp only [unlist] at h
    split at h
    · exact List.mem_cons_of_mem _ (ih h)
    · rcases List.mem_cons.mp h with h | h
      · simp [h]
      · exact List.mem_cons_of_mem _ (ih h)

/-- A write with a default keeps the canonical form. -/
theorem store_wf {d : α} {t : Tab α} (h : Tab.wf d t = true) (k : Nat) (v : α) : Tab.wf d (store d t k v) = true := by
  obtain ⟨hr, hd⟩ := wf_iff.mp h
  unfold store
  split
  · exact wf_iff.mpr ⟨unlist_rising hr k, fun e he => hd e (mem_unlist he)⟩
  · refine wf_iff.mpr ⟨put_rising hr k v, fun e he => ?_⟩
    rcases mem_put he with rfl | he
    · assumption
    · exact hd e he

@[simp] theorem look_store_same (d : α) (t : Tab α) (k : Nat) (v : α) : look d (store d t k v) k = v := by
  unfold store
  split
  · subst v; exact look_unlist_same d t k
  · exact look_put_same d t k v

theorem look_store_ne (d : α) (t : Tab α) {k n : Nat} (v : α) (h : n ≠ k) : look d (store d t k v) n = look d t n := by
  unfold store
  split
  · exact look_unlist_ne d t h
  · exact look_put_ne d t v h

/-! ## Memory -/

theorem mset_wf {m : Memory} (h : Memory.wf m = true) (a : Nat) (v : Byte) : Memory.wf (mset m a v) = true := store_wf h a v

/-- A store of bytes keeps the canonical form. -/
theorem mstore_wf {m : Memory} (h : Memory.wf m = true) (a : Nat) (l : List Byte) : Memory.wf (mstore m a l) = true := by
  induction l generalizing m a with
  | nil => exact h
  | cons v t ih => exact ih (mset_wf h a v) (a + 1)

theorem mget_mset_same (m : Memory) (a : Nat) (v : Byte) : mget (mset m a v) a = v := look_store_same Memory.unlisted m a v

theorem mget_mset_ne (m : Memory) {a n : Nat} (v : Byte) (h : n ≠ a) : mget (mset m a v) n = mget m n :=
  look_store_ne Memory.unlisted m v h

/-- A byte outside the bytes stored reads as before. -/
theorem mget_mstore_out (m : Memory) (a : Nat) (l : List Byte) {n : Nat} (h : n < a ∨ a + l.length ≤ n) :
    mget (mstore m a l) n = mget m n := by
  induction l generalizing m a with
  | nil => rfl
  | cons v t ih =>
    simp only [mstore]
    rw [ih _ _ (by simp only [List.length_cons] at h; omega)]
    exact mget_mset_ne m v (by simp only [List.length_cons] at h; omega)

/-- A byte stored reads as the byte written. -/
theorem mget_mstore_in (m : Memory) (a : Nat) (l : List Byte) {i : Nat} (hi : i < l.length) :
    mget (mstore m a l) (a + i) = l[i] := by
  induction l generalizing m a i with
  | nil => simp at hi
  | cons v t ih =>
    simp only [mstore]
    cases i with
    | zero =>
      rw [mget_mstore_out _ _ _ (by omega)]
      simpa using mget_mset_same m a v
    | succ n =>
      have := ih (mset m a v) (a + 1) (i := n) (by simpa using hi)
      rw [show a + (n + 1) = a + 1 + n by omega, this]
      simp

/-- A read after a write to the same place gives the bytes written. -/
theorem mload_mstore_same (m : Memory) (a : Nat) (l : List Byte) : mload (mstore m a l) a l.length = l := by
  suffices H : ∀ (k : Nat) (r : List Byte), r.length = k → ∀ (p : List Byte), l = p ++ r → mload (mstore m a l) (a + p.length) k = r by
    simpa using H l.length l rfl [] rfl
  intro k
  induction k with
  | zero => intro r hr p _; simp [mload, List.length_eq_zero_iff.mp hr]
  | succ k ih =>
    intro r hr p hp
    cases r with
    | nil => simp at hr
    | cons v t =>
      have h1 : mget (mstore m a l) (a + p.length) = v := by
        rw [mget_mstore_in m a l (i := p.length) (by simp [hp])]
        simp [hp]
      have h2 := ih t (by simpa using hr) (p ++ [v]) (by simp [hp])
      simp only [List.length_append, List.length_cons, List.length_nil, Nat.zero_add, ← Nat.add_assoc] at h2
      simp [mload, h1, h2]

theorem mload_mstore_apart (m : Memory) (a : Nat) (l : List Byte) (c n : Nat) (h : c + n ≤ a ∨ a + l.length ≤ c) :
    mload (mstore m a l) c n = mload m c n := by
  induction n generalizing c with
  | zero => rfl
  | succ n ih =>
    simp only [mload]
    rw [mget_mstore_out m a l (by omega), ih (c + 1) (by omega)]

theorem filter_wf {m : Memory} (h : Memory.wf m = true) (p : Nat × Byte → Bool) : Memory.wf (m.filter p) = true := by
  obtain ⟨hr, hd⟩ := wf_iff.mp h
  refine wf_iff.mpr ⟨?_, fun e he => hd e (List.mem_filter.mp he).1⟩
  clear h hd
  induction m with
  | nil => rfl
  | cons e t ih =>
    obtain ⟨j, v⟩ := e
    obtain ⟨ha, hr⟩ := rising_cons.mp hr
    simp only [List.filter_cons]
    split
    · exact rising_cons.mpr ⟨fun x hx => ha x (List.mem_filter.mp hx).1, ih hr⟩
    · exact ih hr

theorem empty_wf : Memory.wf [] = true := rfl

@[simp] theorem leBytes_length (n v : Nat) : (leBytes n v).length = n := by
  induction n generalizing v with
  | zero => rfl
  | succ n ih => simp [leBytes, ih]

/-- The bytes of a number spell the number (R7). -/
theorem leNat_leBytes (n v : Nat) : leNat (leBytes n v) = v % 256 ^ n := by
  induction n generalizing v with
  | zero => simp [leBytes, leNat, Nat.mod_one]
  | succ n ih =>
    have h : (BitVec.ofNat 8 v).toNat = v % 256 := by simp
    rw [leBytes, leNat, ih, h, Nat.pow_succ, Nat.mul_comm (256 ^ n) 256, Nat.mod_mul]

theorem leNat_lt (l : List Byte) : leNat l < 256 ^ l.length := by
  induction l with
  | nil => simp [leNat]
  | cons b t ih =>
    simp only [leNat, List.length_cons, Nat.pow_succ]
    have := b.isLt
    omega

/-- A word stored and read again is the word. -/
theorem mloadN_mstore (m : Memory) (a n v : Nat) : mloadN (mstore m a (leBytes n v)) a n = v % 256 ^ n := by
  have := mload_mstore_same m a (leBytes n v)
  rw [leBytes_length] at this
  rw [mloadN, this, leNat_leBytes]

end Sys2Proof.Machine
end

