-- ==== Sys2Proof/Laws/Blocks.lean ====
section
/-! SUPPORT. Laws of blocks, registers and issue: what one read after one change gives, and what the shared operations of an instruction do. -/

namespace Sys2Proof.Machine

/-! ## Blocks -/

@[simp] theorem blk_setBlk_same (s : State) (b : BlockId) (x : Block) : (s.setBlk b x).blk b = x := by
  simp [State.setBlk, State.blk]

theorem blk_setBlk_ne (s : State) {b c : BlockId} (x : Block) (h : c ≠ b) : (s.setBlk b x).blk c = s.blk c := by
  have hn : c.toNat ≠ b.toNat := fun e => h (BitVec.eq_of_toNat_eq e)
  simp [State.setBlk, State.blk, look_put_ne _ _ _ hn]

@[simp] theorem blk_modBlk_same (s : State) (b : BlockId) (f : Block → Block) : (s.modBlk b f).blk b = f (s.blk b) := by
  simp [State.modBlk]

theorem blk_modBlk_ne (s : State) {b c : BlockId} (f : Block → Block) (h : c ≠ b) : (s.modBlk b f).blk c = s.blk c :=
  blk_setBlk_ne s _ h

theorem onlyBlock_refl (b : BlockId) (s : State) : OnlyBlock b s s := ⟨rfl, fun _ => rfl, fun _ _ => rfl⟩

theorem onlyBlock_trans {b : BlockId} {s t u : State} (h : OnlyBlock b s t) (k : OnlyBlock b t u) : OnlyBlock b s u := by
  refine ⟨?_, fun hb => (k.2.1 hb).trans (h.2.1 hb), fun c hc => (k.2.2 c hc).trans (h.2.2 c hc)⟩
  have h1 := h.1
  rw [← k.1] at h1
  exact h1

theorem OnlyBlock.ticks {b : BlockId} {s t : State} (h : OnlyBlock b s t) (c : BlockId) : t.ticks c = s.ticks c := by
  have k := congrArg (fun u : State => u.ticks c) h.1
  exact k

theorem onlyBlock_setBlk (b : BlockId) (s : State) (x : Block) : OnlyBlock b s (s.setBlk b x) :=
  ⟨rfl, fun _ => rfl, fun _ hc => blk_setBlk_ne s x hc⟩

/-! ## What the management core fetches through (R560 to R563) -/

/-- Only the line buffer, the branch-target entries and the prefetches differ, and on the management core alone. -/
def FetchOnly (b : BlockId) (s t : State) : Prop := t.withFetchOf s = s ∧ (b ≠ mgmtCore → t = s)

theorem FetchOnly.blk {b : BlockId} {s t : State} (h : FetchOnly b s t) (c : BlockId) : t.blk c = s.blk c := by
  have := congrArg (fun u : State => u.blk c) h.1
  exact this

theorem FetchOnly.ticks {b : BlockId} {s t : State} (h : FetchOnly b s t) (c : BlockId) : t.ticks c = s.ticks c := by
  have k := congrArg (fun u : State => u.ticks c) h.1
  exact k

theorem FetchOnly.onlyBlock {b : BlockId} {s t : State} (h : FetchOnly b s t) : OnlyBlock b s t := by
  refine ⟨?_, fun hb => by rw [h.2 hb], fun c _ => h.blk c⟩
  have h1 := h.1
  have h2 : (t.withFetchOf s).blocks = s.blocks := by rw [h1]
  exact (show { t.withFetchOf s with blocks := s.blocks } = t.withFetchOf s by rw [← h2]).trans h1

theorem fetchOnly_lineFetched (s : State) (b : BlockId) : FetchOnly b s (s.lineFetched b) := by
  unfold State.lineFetched
  split
  · rename_i h
    simp only [State.fromFlash, Bool.and_eq_true, decide_eq_true_eq] at h
    refine ⟨?_, fun k => absurd h.1 k⟩
    unfold Elt.fetchLine
    split
    · rfl
    · dsimp only
      split <;> rfl
  · exact ⟨rfl, fun _ => rfl⟩

theorem fetchOnly_noteTaken (s : State) (b : BlockId) (v : W64) : FetchOnly b s (s.noteTaken b v) := by
  unfold State.noteTaken
  split
  · rename_i h
    simp only [State.fromFlash, Bool.and_eq_true, decide_eq_true_eq] at h
    exact ⟨rfl, fun k => absurd h.1 k⟩
  · exact ⟨rfl, fun _ => rfl⟩

@[simp] theorem blk_lineFetched (s : State) (b c : BlockId) : (s.lineFetched b).blk c = s.blk c := (fetchOnly_lineFetched s b).blk c
@[simp] theorem blk_noteTaken (s : State) (b c : BlockId) (v : W64) : (s.noteTaken b v).blk c = s.blk c := (fetchOnly_noteTaken s b v).blk c

@[simp] theorem ticks_lineFetched (s : State) (b c : BlockId) : (s.lineFetched b).ticks c = s.ticks c := (fetchOnly_lineFetched s b).ticks c
@[simp] theorem ticks_noteTaken (s : State) (b c : BlockId) (v : W64) : (s.noteTaken b v).ticks c = s.ticks c := (fetchOnly_noteTaken s b v).ticks c
@[simp] theorem ticks_modBlk (s : State) (b c : BlockId) (f : Block → Block) : (s.modBlk b f).ticks c = s.ticks c := rfl

theorem lineFetched_ne {b : BlockId} (s : State) (h : b ≠ mgmtCore) : s.lineFetched b = s := (fetchOnly_lineFetched s b).2 h
theorem noteTaken_ne {b : BlockId} (s : State) (v : W64) (h : b ≠ mgmtCore) : s.noteTaken b v = s := (fetchOnly_noteTaken s b v).2 h

theorem onlyBlock_modBlk (b : BlockId) (s : State) (f : Block → Block) : OnlyBlock b s (s.modBlk b f) := onlyBlock_setBlk b s _

/-! ## Registers (R92) -/

@[simp] theorem Core.getG_zero (c : Core) : c.getG 0 = 0 := rfl

@[simp] theorem Core.getG_setG_same (c : Core) (r : Reg) (v : W64) : (c.setG r v).getG r = if r = 0 then 0 else v := by
  unfold Core.getG Core.setG
  split <;> simp_all

theorem Core.getG_setG_ne (c : Core) {r q : Reg} (v : W64) (h : q ≠ r) : (c.setG r v).getG q = c.getG q := by
  have hn : q.toNat ≠ r.toNat := fun e => h (BitVec.eq_of_toNat_eq e)
  unfold Core.getG Core.setG
  split
  · rfl
  · split
    · rfl
    · exact look_store_ne _ _ _ hn

@[simp] theorem Core.getF_setF_same (c : Core) (r : Reg) (v : W64) : (c.setF r v).getF r = v := by simp [Core.getF, Core.setF]

theorem Core.getF_setF_ne (c : Core) {r q : Reg} (v : W64) (h : q ≠ r) : (c.setF r v).getF q = c.getF q := by
  have hn : q.toNat ≠ r.toNat := fun e => h (BitVec.eq_of_toNat_eq e)
  exact look_store_ne _ _ _ hn

@[simp] theorem Core.getF_setG (c : Core) (r q : Reg) (v : W64) : (c.setG r v).getF q = c.getF q := by
  unfold Core.getF Core.setG; split <;> rfl

@[simp] theorem Core.getG_setF (c : Core) (r q : Reg) (v : W64) : (c.setF r v).getG q = c.getG q := rfl

/-! ## Issue -/

theorem issue_eq {s : State} {b : BlockId} (h : s.canIssue b = true) (k : State → State) : s.issue b k = k (s.lineFetched b) := by
  simp only [State.canIssue, Bool.and_eq_true] at h
  simp [State.issue, h.1.1, h.1.2, h.2]

theorem decoded_eq {s : State} {b : BlockId} {i : Instr} (h : decodes b i = true) (k : State → State) : s.decoded b i k = k s := by
  unfold State.decoded
  rw [if_neg]
  intro k
  rw [decodes, k] at h
  exact absurd h (by decide)

theorem whenFree_eq {s : State} {b : BlockId} {gs fs : List Reg} (h : (s.blk b).free gs fs = true) (k : State → State) :
    s.whenFree b gs fs k = k s := by simp [State.whenFree, h]

/-- An instruction that may issue runs. -/
theorem issue_whenFree {s : State} {b : BlockId} {gs fs : List Reg} (h : s.mayIssue b gs fs = true) (k : State → State) :
    (s.issue b fun s => s.whenFree b gs fs k) = k (s.lineFetched b) := by
  simp only [State.mayIssue, Bool.and_eq_true] at h
  rw [issue_eq h.1, whenFree_eq (by simpa using h.2)]

theorem issue_decoded {s : State} {b : BlockId} {i : Instr} (h : s.canIssue b = true) (hd : decodes b i = true) (k : State → State) :
    (s.issue b fun s => s.decoded b i k) = k (s.lineFetched b) := by
  rw [issue_eq h, decoded_eq hd]

/-- An instruction that may issue and whose encoding is one that the core decodes runs. -/
theorem issue_decoded_whenFree {s : State} {b : BlockId} {i : Instr} {gs fs : List Reg} (h : s.mayIssue b gs fs = true) (hd : decodes b i = true)
    (k : State → State) : (s.issue b fun s => s.decoded b i fun s => s.whenFree b gs fs k) = k (s.lineFetched b) := by
  simp only [State.mayIssue, Bool.and_eq_true] at h
  rw [issue_eq h.1, decoded_eq hd, whenFree_eq (by simpa using h.2)]

theorem canIssue_of_mayIssue {s : State} {b : BlockId} {gs fs : List Reg} (h : s.mayIssue b gs fs = true) : s.canIssue b = true := by
  simp only [State.mayIssue, Bool.and_eq_true] at h; exact h.1

theorem free_of_mayIssue {s : State} {b : BlockId} {gs fs : List Reg} (h : s.mayIssue b gs fs = true) : (s.blk b).free gs fs = true := by
  simp only [State.mayIssue, Bool.and_eq_true] at h; exact h.2

end Sys2Proof.Machine
end

