-- ==== Sys2Proof/Laws/Datagrams.lean ====
section
/-! SUPPORT. The bytes of the datagrams of an Elette frame give them back (R568). -/

namespace Sys2Proof.Machine

/-- A datagram whose DATA has the length of its LEN field (R568). -/
def dgWhole (d : Datagram) : Prop := d.data.length = d.len ∧ d.len < 4096

/-- The 10-byte head of a datagram. -/
def dgHead (d : Datagram) : List Byte :=
  [d.op, d.tag, d.target, d.hops] ++ leBytes 2 d.index.toNat ++ [d.sub, d.flags] ++ leBytes 2 (d.len + 4096 * d.lenRsv.toNat)

theorem dgBytes_append (d : Datagram) (t : List Byte) :
    dgBytes d ++ t = dgHead d ++ (d.data ++ ([d.status, d.tally, d.last, d.rsv] ++ t)) := by
  simp [dgBytes, dgHead]

theorem dgBytes_length (d : Datagram) (h : dgWhole d) : (dgBytes d).length = 14 + d.len := by
  simp [dgBytes, leBytes, h.1]
  omega

theorem dgBytes_len (d : Datagram) (t : List Byte) (h : dgWhole d) : leAt (dgBytes d ++ t) 8 2 = d.len + 4096 * d.lenRsv.toNat := by
  have h1 := d.lenRsv.isLt
  have h2 := h.2
  simp [leAt, dgBytes, leBytes, leNat]
  omega

/-- The tail of a datagram stands behind its DATA. -/
theorem dgBytes_tail (d : Datagram) (t : List Byte) (h : dgWhole d) (k : Nat) :
    (dgBytes d ++ t).getD (10 + d.len + k) 0 = ([d.status, d.tally, d.last, d.rsv] ++ t).getD k 0 := by
  have hl : (dgHead d ++ d.data).length = 10 + d.len := by simp [dgHead, leBytes, h.1]; omega
  rw [dgBytes_append, ← List.append_assoc, List.getD_append_right _ _ _ _ (by omega), hl]
  congr 1
  omega

/-- Reading a datagram's bytes gives the datagram. -/
theorem dgAt_dgBytes (d : Datagram) (t : List Byte) (h : dgWhole d) : dgAt (dgBytes d ++ t) = d := by
  have h1 := d.lenRsv.isLt
  have h2 := h.2
  have hm : leAt (dgBytes d ++ t) 8 2 % 4096 = d.len := by rw [dgBytes_len d t h]; omega
  have hq : leAt (dgBytes d ++ t) 8 2 / 4096 = d.lenRsv.toNat := by rw [dgBytes_len d t h]; omega
  have hi : BitVec.ofNat 16 (leAt (dgBytes d ++ t) 4 2) = d.index := by
    apply BitVec.eq_of_toNat_eq
    have := d.index.isLt
    simp [leAt, dgBytes, leBytes, leNat]
    omega
  have hd : ((dgBytes d ++ t).drop 10).take d.len = d.data := by
    have : (dgHead d).length = 10 := by simp [dgHead, leBytes]
    rw [dgBytes_append, List.drop_append_of_le_length (by omega), List.drop_eq_nil_of_le (by omega), List.nil_append, ← h.1]
    simp
  have a0 := dgBytes_tail d t h 0
  have a1 := dgBytes_tail d t h 1
  have a2 := dgBytes_tail d t h 2
  have a3 := dgBytes_tail d t h 3
  rw [show 10 + d.len + 1 = 11 + d.len by omega] at a1
  rw [show 10 + d.len + 2 = 12 + d.len by omega] at a2
  rw [show 10 + d.len + 3 = 13 + d.len by omega] at a3
  simp only [dgAt, hm, hq, hi, hd, a1, a2, a3, show (dgBytes d ++ t).getD (10 + d.len) 0 = _ from a0]
  simp [dgBytes, leBytes]

/-- Reading the bytes of datagrams gives the datagrams. -/
theorem dgList_dgBytes (l : List Datagram) (h : ∀ d ∈ l, dgWhole d) : dgList l.length (l.flatMap dgBytes) = l := by
  induction l with
  | nil => rfl
  | cons d l ih =>
    have hd := h d (by simp)
    have hm : leAt (dgBytes d ++ l.flatMap dgBytes) 8 2 % 4096 = d.len := by
      have := hd.2
      rw [dgBytes_len d _ hd]; omega
    simp only [List.length_cons, List.flatMap_cons, dgList, hm, dgAt_dgBytes d _ hd, List.length_append, dgBytes_length d hd]
    rw [if_pos (by omega), List.drop_append_of_le_length (by rw [dgBytes_length d hd]), List.drop_eq_nil_of_le (by rw [dgBytes_length d hd]),
      List.nil_append, ih fun x hx => h x (by simp [hx])]

end Sys2Proof.Machine
end

