-- ==== Sys2Proof/Laws/Frames.lean ====
section
/-! SUPPORT. Frames of the shared operations of an instruction: what tracing, going on and raising a fault leave as it was. -/

namespace Sys2Proof.Machine

/-- Only the trace unit of block `b` differs. -/
structure TrcOnly (b : BlockId) (s t : State) : Prop where
  only : OnlyBlock b s t
  blk : t.blk b = { s.blk b with trc := (t.blk b).trc }

theorem trcOnly_refl (b : BlockId) (s : State) : TrcOnly b s s := ⟨onlyBlock_refl b s, rfl⟩

theorem trcOnly_trans {b : BlockId} {s t u : State} (h : TrcOnly b s t) (k : TrcOnly b t u) : TrcOnly b s u :=
  ⟨onlyBlock_trans h.only k.only, by rw [k.blk, h.blk]⟩

theorem trcOnly_modBlk (b : BlockId) (s : State) (f : Trc → Trc) : TrcOnly b s (s.modBlk b fun x => { x with trc := f x.trc }) :=
  ⟨onlyBlock_modBlk b s _, by simp⟩

theorem trcOnly_const (b : BlockId) (s : State) (t : Trc) : TrcOnly b s (s.modBlk b fun x => { x with trc := t }) :=
  ⟨onlyBlock_modBlk b s _, by simp⟩

theorem trcOnly_openPacket (b : BlockId) (s : State) (n : Nat) : TrcOnly b s (s.openPacket b n) := by
  unfold State.openPacket
  dsimp only
  generalize (if 56 < (s.blk b).trc.form.length + n then (s.blk b).trc.close b .full else (s.blk b).trc) = t
  split
  · split
    · exact trcOnly_const b s _
    · exact trcOnly_const b s _
  · exact trcOnly_const b s _

theorem trcOnly_putRecord (b : BlockId) (s : State) (r : List Byte) : TrcOnly b s (s.putRecord b r) :=
  trcOnly_trans (trcOnly_openPacket b s _) (trcOnly_modBlk b _ fun t => { t with form := t.form ++ r, records := t.records + 1 })

theorem trcOnly_flushOutcomes (b : BlockId) (s : State) : TrcOnly b s (s.flushOutcomes b) := by
  unfold State.flushOutcomes
  split
  · exact trcOnly_refl b s
  · exact trcOnly_trans (trcOnly_modBlk b s fun t => { t with outcomes := [] }) (trcOnly_putRecord b _ _)

theorem trcOnly_setTimed (b : BlockId) (s : State) : TrcOnly b s (s.setTimed b) :=
  trcOnly_modBlk b s fun t => { t with lastTimed := s.blkCycles b }

theorem trcOnly_putGts (b : BlockId) (s : State) : TrcOnly b s (s.putGts b) :=
  trcOnly_trans (trcOnly_putRecord b s _) (trcOnly_modBlk b _ fun t => { t with lastTimed := s.blkCycles b, lastGts := s.blkCycles b })

theorem trcOnly_putDelta (b : BlockId) (s : State) : TrcOnly b s (s.putDelta b) := by
  unfold State.putDelta
  split
  · dsimp only
    split
    · exact trcOnly_trans (trcOnly_openPacket b s _) (trcOnly_trans (trcOnly_putRecord b _ _) (trcOnly_setTimed b _))
    · exact trcOnly_trans (trcOnly_openPacket b s _) (trcOnly_putGts b _)
  · exact trcOnly_refl b s

theorem trcOnly_traceRecord (b : BlockId) (s : State) (on : Bool) (r : List Byte) : TrcOnly b s (s.traceRecord b on r) := by
  unfold State.traceRecord
  split
  · exact trcOnly_trans (trcOnly_flushOutcomes b s) (trcOnly_trans (trcOnly_putDelta b _) (trcOnly_putRecord b _ _))
  · exact trcOnly_refl b s

theorem trcOnly_traceOutcome (b : BlockId) (s : State) (taken : Bool) : TrcOnly b s (s.traceOutcome b taken) := by
  unfold State.traceOutcome
  split
  · split
    · exact trcOnly_trans (trcOnly_flushOutcomes b s) (trcOnly_trans (trcOnly_putDelta b _) (trcOnly_putRecord b _ _))
    · have h := trcOnly_modBlk b s fun t => { t with outcomes := (s.blk b).trc.outcomes ++ [taken] }
      dsimp only
      split
      · exact trcOnly_trans h (trcOnly_flushOutcomes b _)
      · exact h
  · exact trcOnly_refl b s

theorem trcOnly_traceClose (b : BlockId) (s : State) (why : CloseWhy) : TrcOnly b s (s.traceClose b why) := by
  unfold State.traceClose
  split
  · exact trcOnly_trans (trcOnly_flushOutcomes b s) (trcOnly_modBlk b _ fun t => t.close b why)
  · exact trcOnly_refl b s

theorem trcOnly_traceTarget (b : BlockId) (s : State) (a : W64) : TrcOnly b s (s.traceTarget b a) := trcOnly_traceRecord b s _ _

theorem trcOnly_traceEwait (b : BlockId) (s : State) : TrcOnly b s (s.traceEwait b) :=
  trcOnly_trans (trcOnly_traceRecord b s _ _) (trcOnly_traceClose b _ _)

theorem trcOnly_traceTret (b : BlockId) (s : State) (c d : Ctx) (pc : W64) : TrcOnly b s (s.traceTret b c d pc) :=
  trcOnly_traceRecord b s _ _

theorem trcOnly_traceTrap (b : BlockId) (s : State) (cause : BitVec 6) (async esc : Bool) (src dst : Ctx) (saved handler : W64) :
    TrcOnly b s (s.traceTrap b cause async esc src dst saved handler) := trcOnly_traceRecord b s _ _

theorem trcOnly_tracePark (b : BlockId) (s : State) (cause : Nat) : TrcOnly b s (s.tracePark b cause) :=
  trcOnly_trans (trcOnly_traceRecord b s _ _) (trcOnly_traceClose b _ _)

theorem TrcOnly.core {b : BlockId} {s t : State} (h : TrcOnly b s t) : (t.blk b).core = (s.blk b).core := by rw [h.blk]

@[simp] theorem traceOutcome_core (b : BlockId) (s : State) (k : Bool) : ((s.traceOutcome b k).blk b).core = (s.blk b).core :=
  (trcOnly_traceOutcome b s k).core
@[simp] theorem traceTarget_core (b : BlockId) (s : State) (a : W64) : ((s.traceTarget b a).blk b).core = (s.blk b).core :=
  (trcOnly_traceTarget b s a).core
@[simp] theorem traceEwait_core (b : BlockId) (s : State) : ((s.traceEwait b).blk b).core = (s.blk b).core := (trcOnly_traceEwait b s).core
@[simp] theorem tracePark_core (b : BlockId) (s : State) (c : Nat) : ((s.tracePark b c).blk b).core = (s.blk b).core :=
  (trcOnly_tracePark b s c).core
@[simp] theorem traceTret_core (b : BlockId) (s : State) (c d : Ctx) (pc : W64) : ((s.traceTret b c d pc).blk b).core = (s.blk b).core :=
  (trcOnly_traceTret b s c d pc).core
@[simp] theorem traceTrap_core (b : BlockId) (s : State) (cause : BitVec 6) (async esc : Bool) (src dst : Ctx) (saved handler : W64) :
    ((s.traceTrap b cause async esc src dst saved handler).blk b).core = (s.blk b).core :=
  (trcOnly_traceTrap b s cause async esc src dst saved handler).core

/-- What going on does to the core (R116). -/
@[simp] theorem advance_core (b : BlockId) (s : State) : ((s.advance b).blk b).core = s.next b := by
  unfold State.advance State.next Core.stepped
  dsimp only
  split <;> simp

/-- Only the core and the trace unit of block `b` differ, and no register of the core. -/
structure CtlOnly (b : BlockId) (s t : State) : Prop where
  only : OnlyBlock b s t
  blk : CoreOnly (s.blk b) (t.blk b)
  g : (t.blk b).core.g = (s.blk b).core.g
  f : (t.blk b).core.f = (s.blk b).core.f

theorem ctlOnly_refl (b : BlockId) (s : State) : CtlOnly b s s := ⟨onlyBlock_refl b s, rfl, rfl, rfl⟩

theorem coreOnly_trans {x y z : Block} (h : CoreOnly x y) (k : CoreOnly y z) : CoreOnly x z := by
  unfold CoreOnly at *
  rw [k, h]

theorem ctlOnly_trans {b : BlockId} {s t u : State} (h : CtlOnly b s t) (k : CtlOnly b t u) : CtlOnly b s u :=
  ⟨onlyBlock_trans h.only k.only, coreOnly_trans h.blk k.blk, k.g.trans h.g, k.f.trans h.f⟩

theorem TrcOnly.ctl {b : BlockId} {s t : State} (h : TrcOnly b s t) : CtlOnly b s t := by
  refine ⟨h.only, ?_, ?_, ?_⟩
  · unfold CoreOnly; rw [h.blk]
  · rw [h.blk]
  · rw [h.blk]

theorem ctlOnly_modBlk {b : BlockId} (s : State) {f : Core → Core} (hg : ∀ c, (f c).g = c.g) (hf : ∀ c, (f c).f = c.f) :
    CtlOnly b s (s.modBlk b fun x => { x with core := f x.core }) :=
  ⟨onlyBlock_modBlk b s _, by simp [CoreOnly], by simp [hg], by simp [hf]⟩

theorem ctlOnly_setPc (b : BlockId) (s : State) (v : W64) : CtlOnly b s (s.setPc b v) :=
  ctlOnly_modBlk (f := fun c => { c with pc := v, retired := c.retired + 1, loopOld := none }) s (fun _ => rfl) (fun _ => rfl)

theorem ctlOnly_raiseSync (b : BlockId) (s : State) (c : Nat) (v : W64) : CtlOnly b s (s.raiseSync b c v) :=
  ctlOnly_modBlk (f := fun k => { k with fault := some ⟨BitVec.ofNat 6 c, v, k.pc, none, false⟩ }) s (fun _ => rfl) (fun _ => rfl)

/-- The loop decision writes the loop registers alone, and going on the program counter too (R116). -/
theorem decideLoop_ctl (c : Core) (now : Nat) (n : BitVec 32) (a : Bool) :
    c.decideLoop now n a = { c with loopRemain := (c.decideLoop now n a).loopRemain, loopActive := (c.decideLoop now n a).loopActive } := by
  unfold Core.decideLoop; split <;> rfl

theorem onward_ctl (c : Core) (now : Nat) :
    c.onward now = { c with loopRemain := (c.onward now).loopRemain, loopActive := (c.onward now).loopActive, pc := (c.onward now).pc } := by
  unfold Core.onward
  dsimp only
  split
  · split <;> (rw [decideLoop_ctl])
  · rfl

/-- What an instruction that goes on leaves of the core (R116). -/
theorem stepped_ctl (c : Core) (now : Nat) :
    c.stepped now = { c with
      loopRemain := (c.onward now).loopRemain, loopActive := (c.onward now).loopActive, pc := (c.onward now).pc,
      retired := c.retired + 1, loopOld := none } := by
  unfold Core.stepped
  rw [onward_ctl]

theorem ctlOnly_advance (b : BlockId) (s : State) : CtlOnly b s (s.advance b) := by
  have k := fun u : State => ctlOnly_modBlk (b := b) (f := fun c => { c.onward (s.ticks b) with retired := c.retired + 1, loopOld := none }) u
    (fun c => by rw [onward_ctl]) (fun c => by rw [onward_ctl])
  unfold State.advance
  dsimp only
  split
  · exact ctlOnly_trans (trcOnly_traceOutcome b s _).ctl (k _)
  · exact k s

theorem ctlOnly_redirect (b : BlockId) (s : State) (v : W64) : CtlOnly b s (s.redirect b v) := by
  have k := ctlOnly_modBlk (b := b)
    (f := fun c => c.decideLoop (s.ticks b) (c.governs (s.ticks b)).remain ((c.governs (s.ticks b)).active && (c.governs (s.ticks b)).inBody v)) s
    (fun c => by rw [decideLoop_ctl]) (fun c => by rw [decideLoop_ctl])
  exact ctlOnly_trans k (ctlOnly_setPc b _ v)

theorem ctlOnly_startLong (b : BlockId) (s : State) (o : LongOp) : CtlOnly b s (s.startLong b o) :=
  ctlOnly_trans (ctlOnly_modBlk (f := fun c => { c with longOps := c.longOps ++ [o] }) s (fun _ => rfl) (fun _ => rfl)) (ctlOnly_advance b _)

/-- Only the core and the trace unit of block `b` differ, and of the registers only `rd`. -/
structure RegOnly (b : BlockId) (rd : Reg) (s t : State) : Prop where
  only : OnlyBlock b s t
  blk : CoreOnly (s.blk b) (t.blk b)
  g : ∀ r, r ≠ rd → t.getG b r = s.getG b r
  f : ∀ r, t.getF b r = s.getF b r

theorem CtlOnly.getG {b : BlockId} {s t : State} (h : CtlOnly b s t) (r : Reg) : t.getG b r = s.getG b r := by
  simp [State.getG, Core.getG, h.g]

theorem CtlOnly.getF {b : BlockId} {s t : State} (h : CtlOnly b s t) (r : Reg) : t.getF b r = s.getF b r := by
  simp [State.getF, Core.getF, h.f]

theorem CtlOnly.reg {b : BlockId} {s t : State} (h : CtlOnly b s t) (rd : Reg) : RegOnly b rd s t :=
  ⟨h.only, h.blk, fun r _ => h.getG r, h.getF⟩

theorem regOnly_setG (b : BlockId) (rd : Reg) (s : State) (v : W64) : RegOnly b rd s (s.setG b rd v) :=
  ⟨onlyBlock_modBlk b s _, by simp [CoreOnly, State.setG], fun r h => by simp [State.getG, State.setG, Core.getG_setG_ne _ _ h],
    fun r => by simp [State.getF, State.setG]⟩

theorem regOnly_trans {b : BlockId} {rd : Reg} {s t u : State} (h : RegOnly b rd s t) (k : RegOnly b rd t u) : RegOnly b rd s u :=
  ⟨onlyBlock_trans h.only k.only, coreOnly_trans h.blk k.blk, fun r hr => (k.g r hr).trans (h.g r hr), fun r => (k.f r).trans (h.f r)⟩

theorem regOnly_finish (b : BlockId) (rd : Reg) (s : State) (v : W64) : RegOnly b rd s (s.finish b rd v) :=
  regOnly_trans (regOnly_setG b rd s v) ((ctlOnly_advance b _).reg rd)

theorem stepped_g (c : Core) (n : Nat) : (c.stepped n).g = c.g := by rw [stepped_ctl]
theorem stepped_f (c : Core) (n : Nat) : (c.stepped n).f = c.f := by rw [stepped_ctl]
@[simp] theorem stepped_getG (c : Core) (n : Nat) (r : Reg) : (c.stepped n).getG r = c.getG r := by simp [Core.getG, stepped_g]
@[simp] theorem stepped_getF (c : Core) (n : Nat) (r : Reg) : (c.stepped n).getF r = c.getF r := by simp [Core.getF, stepped_f]
@[simp] theorem stepped_longOps (c : Core) (n : Nat) : (c.stepped n).longOps = c.longOps := by rw [stepped_ctl]
@[simp] theorem stepped_retired (c : Core) (n : Nat) : (c.stepped n).retired = c.retired + 1 := by rw [stepped_ctl]
@[simp] theorem stepped_fault (c : Core) (n : Nat) : (c.stepped n).fault = c.fault := by rw [stepped_ctl]
@[simp] theorem next_getG (s : State) (b : BlockId) (r : Reg) : (s.next b).getG r = s.getG b r := stepped_getG _ _ r
@[simp] theorem next_getF (s : State) (b : BlockId) (r : Reg) : (s.next b).getF r = s.getF b r := stepped_getF _ _ r
@[simp] theorem next_longOps (s : State) (b : BlockId) : (s.next b).longOps = (s.blk b).core.longOps := stepped_longOps _ _
@[simp] theorem next_retired (s : State) (b : BlockId) : (s.next b).retired = (s.blk b).core.retired + 1 := stepped_retired _ _
@[simp] theorem next_fault (s : State) (b : BlockId) : (s.next b).fault = (s.blk b).core.fault := stepped_fault _ _
@[simp] theorem next_lineFetched (s : State) (b c : BlockId) : (s.lineFetched c).next b = s.next b := by simp [State.next]

/-- Going on, apart from the trace unit. -/
theorem advance_blk (b : BlockId) (s : State) :
    (s.advance b).blk b = { s.blk b with core := s.next b, trc := ((s.advance b).blk b).trc } := by
  have h := (ctlOnly_advance b s).blk
  unfold CoreOnly at h
  rw [advance_core] at h
  exact h

/-- What a redirection does to the core (R117). -/
@[simp] theorem redirect_core (b : BlockId) (s : State) (v : W64) :
    ((s.redirect b v).blk b).core =
      (let c := (s.blk b).core
       let r := c.governs (s.ticks b)
       { c.decideLoop (s.ticks b) r.remain (r.active && r.inBody v) with pc := v, retired := c.retired + 1, loopOld := none }) := by
  have h : ∀ (c : Core) n m a, (c.decideLoop n m a).retired = c.retired := fun c n m a => by rw [decideLoop_ctl]
  simp [State.redirect, State.setPc, h]

@[simp] theorem setG_core (b : BlockId) (s : State) (r : Reg) (v : W64) : ((s.setG b r v).blk b).core = (s.blk b).core.setG r v := by
  simp [State.setG]

theorem Core.setG_ctl (c : Core) (r : Reg) (v : W64) : c.setG r v = { c with g := (c.setG r v).g } := by
  unfold Core.setG; split <;> rfl

theorem Core.setF_ctl (c : Core) (r : Reg) (v : W64) : c.setF r v = { c with f := (c.setF r v).f } := rfl

/-- Where execution goes on (R116). -/
theorem stepped_pc (c : Core) (n : Nat) :
    (c.stepped n).pc =
      if (c.governs n).atEnd c.pc = true ∧ (c.governs n).remain ≠ 0 then (c.governs n).start else c.pc + 4 := by
  unfold Core.stepped Core.onward
  dsimp only
  by_cases h : (c.governs n).atEnd c.pc = true
  · by_cases k : (c.governs n).remain ≠ 0
    · rw [if_pos h, if_pos k, if_pos ⟨h, k⟩]
    · rw [if_pos h, if_neg k, if_neg fun q => k q.2]
  · simp [h]

theorem stepped_longOps_pc (c : Core) (n : Nat) (l : List LongOp) : (({ c with longOps := l } : Core).stepped n).pc = (c.stepped n).pc := by
  rw [stepped_pc, stepped_pc]
  rfl

/-- An operation that was started completes: its destination takes its value, and its flags are ORed in. -/
theorem startLong_complete (b : BlockId) (s : State) (o : LongOp) (h : (s.blk b).core.longOps = []) :
    ∃ u, exec (.longOperationComplete b 0) (s.startLong b o) = .next u ∧
      (o.toF = false → u.getG b o.rd = if o.rd = 0 then 0 else o.value) ∧ (o.toF = true → u.getF b o.rd = o.value) ∧
      (u.blk b).core.longOps = [] ∧ u.pcOf b = (s.next b).pc ∧
      (u.blk b).fp = { (s.blk b).fp with flags := (s.blk b).fp.flags ||| o.flags } := by
  have hl : ((s.startLong b o).blk b).core.longOps = [o] := by simp [State.startLong, h]
  have hp : ((s.startLong b o).blk b).core.pc = (s.next b).pc := by
    simp only [State.startLong, advance_core, State.next, blk_modBlk_same, ticks_modBlk, stepped_longOps_pc]
  have hf : ((s.startLong b o).blk b).fp = (s.blk b).fp := by
    have hc := (ctlOnly_startLong b s o).blk
    unfold CoreOnly at hc
    rw [hc]
  refine ⟨_, rfl, ?_, ?_, ?_, ?_, ?_⟩
  · intro ht; simp [longOperationComplete, hl, State.orFlags, State.modCore, State.getG, Core.set, ht]
  · intro ht; simp [longOperationComplete, hl, State.orFlags, State.modCore, State.getF, Core.set, ht]
  · simp only [longOperationComplete, hl, State.orFlags, State.modCore, Core.set, List.getElem?_cons_zero, blk_modBlk_same, List.eraseIdx_zero,
      List.tail_cons]
    split
    · rfl
    · unfold Core.setG; split <;> rfl
  · simp only [longOperationComplete, hl, State.orFlags, State.modCore, State.pcOf, Core.set, List.getElem?_cons_zero, blk_modBlk_same,
      List.eraseIdx_zero, List.tail_cons]
    split
    · exact hp
    · unfold Core.setG; split <;> exact hp
  · simp [longOperationComplete, hl, State.orFlags, State.modCore, hf]

end Sys2Proof.Machine
end

