-- ==== Sys2Proof/Laws/Kept.lean ====
section
/-! SUPPORT. What every operation keeps: the queue of waiting commands and the parts of `Inv`, with one lemma for each operation of the block. -/

set_option maxRecDepth 4000

namespace Sys2Proof.Machine

abbrev PlanPred := PlanSt → Bool → BitVec 7 → Nat → Bool → Prop

structure Kept (qs : List Instr) (P : PlanPred) (s : State) : Prop where
  queue : s.pending = qs
  time : s.time.ns < 1000000000
  fifo : s.jnl.fifo.length ≤ 128
  ring : ∀ e ∈ s.jnl.ring, e.1 < 4096 ∧ e.2.length = 64
  host : Memory.wf s.hostMem = true
  plan : P s.plan s.devValid s.devNum s.k s.epoch.active

variable {qs : List Instr} {P : PlanPred}

theorem keep_mkJ {t : State} (h : Kept qs P t) {x_jnl x_blocks x_rest x_planId x_pl x_lastPlanId x_intakes x_outlets x_edge0 x_edge1 x_ports
    x_proxies x_arrived x_dies x_bundle x_station x_ledgers x_hif x_trace x_supply x_boot x_thermal x_clkmon x_elt x_tap x_unlock x_selectors
    x_flash x_dirty x_dictOut x_qpll x_sweep x_repair x_ret x_place x_restricted x_override x_sysDevs x_routes x_health x_keys x_settings x_footpath
    x_fpBusy x_fpFailed x_fcy x_mhz x_acyFrac x_acy x_freeCount} (hf : x_jnl.fifo.length ≤ 128)
    (hr : ∀ e ∈ x_jnl.ring, e.1 < 4096 ∧ e.2.length
    = 64) :
    Kept qs P (State.mk x_blocks x_rest t.devNum t.devValid t.plan x_planId t.k t.epoch x_pl x_lastPlanId x_intakes x_outlets x_edge0 x_edge1 x_ports
    x_proxies x_arrived x_dies x_bundle x_station x_ledgers x_hif x_jnl x_trace x_supply x_boot x_thermal t.time x_clkmon x_elt x_tap x_unlock
    x_selectors x_flash x_dirty x_dictOut x_qpll x_sweep x_repair x_ret x_place x_restricted x_override x_sysDevs x_routes x_health x_keys
    x_settings t.hostMem x_footpath x_fpBusy x_fpFailed x_fcy x_mhz x_acyFrac x_acy x_freeCount t.pending) :=
  ⟨h.1, h.2, hf, hr, h.5, h.6⟩

/-- Writing anything but what `Kept` reads keeps it. -/
theorem kept_mk {t : State} {x_blocks x_rest x_planId x_pl x_lastPlanId x_intakes x_outlets x_edge0 x_edge1 x_ports x_proxies x_arrived x_dies
    x_bundle x_station x_ledgers x_hif x_trace x_supply x_boot x_thermal x_clkmon x_elt x_tap x_unlock x_selectors x_flash x_dirty x_dictOut x_qpll
    x_sweep x_repair x_ret x_place x_restricted x_override x_sysDevs x_routes x_health x_keys x_settings x_footpath x_fpBusy x_fpFailed x_fcy x_mhz
    x_acyFrac x_acy x_freeCount} :
    Kept qs P (State.mk x_blocks x_rest t.devNum t.devValid t.plan x_planId t.k t.epoch x_pl x_lastPlanId x_intakes x_outlets x_edge0 x_edge1 x_ports
    x_proxies x_arrived x_dies x_bundle x_station x_ledgers x_hif t.jnl x_trace x_supply x_boot x_thermal t.time x_clkmon x_elt x_tap x_unlock
    x_selectors x_flash x_dirty x_dictOut x_qpll x_sweep x_repair x_ret x_place x_restricted x_override x_sysDevs x_routes x_health x_keys
    x_settings t.hostMem x_footpath x_fpBusy x_fpFailed x_fcy x_mhz x_acyFrac x_acy x_freeCount t.pending) = Kept qs P t :=
  propext ⟨fun h => ⟨h.1, h.2, h.3, h.4, h.5, h.6⟩, fun h => ⟨h.1, h.2, h.3, h.4, h.5, h.6⟩⟩

theorem kept_mkE {t : State} {y_num y_cycle y_begun y_ended y_settled y_outcome y_prev y_lastRunVoid y_cause y_streak y_validCount y_nxt y_decision
    y_faults y_latched y_prevRan y_linkOut y_haltAt y_haltRow y_lastGated y_bookSent y_bookRecv y_bookFlight y_peak y_peakPrev y_peakTop y_at0
    y_at0Prev x_blocks x_rest x_planId x_pl x_lastPlanId x_intakes x_outlets x_edge0 x_edge1 x_ports x_proxies x_arrived x_dies x_bundle x_station
    x_ledgers x_hif x_trace x_supply x_boot x_thermal x_clkmon x_elt x_tap x_unlock x_selectors x_flash x_dirty x_dictOut x_qpll x_sweep x_repair
    x_ret x_place x_restricted x_override x_sysDevs x_routes x_health x_keys x_settings x_footpath x_fpBusy x_fpFailed x_fcy x_mhz x_acyFrac x_acy
    x_freeCount} :
    Kept qs P (State.mk x_blocks x_rest t.devNum t.devValid t.plan x_planId t.k (Epoch.mk t.epoch.active y_num y_cycle y_begun y_ended y_settled
    y_outcome y_prev y_lastRunVoid y_cause y_streak y_validCount y_nxt y_decision y_faults y_latched y_prevRan y_linkOut y_haltAt y_haltRow
    y_lastGated y_bookSent y_bookRecv y_bookFlight y_peak y_peakPrev y_peakTop y_at0 y_at0Prev) x_pl x_lastPlanId x_intakes x_outlets x_edge0
    x_edge1 x_ports x_proxies x_arrived x_dies x_bundle x_station x_ledgers x_hif t.jnl x_trace x_supply x_boot x_thermal t.time x_clkmon x_elt
    x_tap x_unlock x_selectors x_flash x_dirty x_dictOut x_qpll x_sweep x_repair x_ret x_place x_restricted x_override x_sysDevs x_routes x_health
    x_keys x_settings t.hostMem x_footpath x_fpBusy x_fpFailed x_fcy x_mhz x_acyFrac x_acy x_freeCount t.pending) = Kept qs P t :=
  propext ⟨fun h => ⟨h.1, h.2, h.3, h.4, h.5, h.6⟩, fun h => ⟨h.1, h.2, h.3, h.4, h.5, h.6⟩⟩

theorem kept_mkT {t : State} {y_sec y_frac y_shadow y_stage y_valid y_tlock y_flock y_source y_slewing y_refused y_slew y_run20 y_run50 y_ppsOffset
    y_ppsPresent y_ppsOut y_ppsLast y_rtc y_rtcFrac x_blocks x_rest x_planId x_pl x_lastPlanId x_intakes x_outlets x_edge0 x_edge1 x_ports x_proxies
    x_arrived x_dies x_bundle x_station x_ledgers x_hif x_trace x_supply x_boot x_thermal x_clkmon x_elt x_tap x_unlock x_selectors x_flash x_dirty
    x_dictOut x_qpll x_sweep x_repair x_ret x_place x_restricted x_override x_sysDevs x_routes x_health x_keys x_settings x_footpath x_fpBusy
    x_fpFailed x_fcy x_mhz x_acyFrac x_acy x_freeCount} :
    Kept qs P (State.mk x_blocks x_rest t.devNum t.devValid t.plan x_planId t.k t.epoch x_pl x_lastPlanId x_intakes x_outlets x_edge0 x_edge1 x_ports
    x_proxies x_arrived x_dies x_bundle x_station x_ledgers x_hif t.jnl x_trace x_supply x_boot x_thermal (Time.mk t.time.ns y_sec y_frac y_shadow
    y_stage y_valid y_tlock y_flock y_source y_slewing y_refused y_slew y_run20 y_run50 y_ppsOffset y_ppsPresent y_ppsOut y_ppsLast y_rtc y_rtcFrac)
    x_clkmon x_elt x_tap x_unlock x_selectors x_flash x_dirty x_dictOut x_qpll x_sweep x_repair x_ret x_place x_restricted x_override x_sysDevs
    x_routes x_health x_keys x_settings t.hostMem x_footpath x_fpBusy x_fpFailed x_fcy x_mhz x_acyFrac x_acy x_freeCount t.pending) = Kept qs P t :=
  propext ⟨fun h => ⟨h.1, h.2, h.3, h.4, h.5, h.6⟩, fun h => ⟨h.1, h.2, h.3, h.4, h.5, h.6⟩⟩

theorem kept_mkJ {t : State} {y_next y_gen y_cmdRecs y_holding y_lastEvent y_counters y_raised y_recorded y_summarised y_damaged x_blocks x_rest
    x_planId x_pl x_lastPlanId x_intakes x_outlets x_edge0 x_edge1 x_ports x_proxies x_arrived x_dies x_bundle x_station x_ledgers x_hif x_trace
    x_supply x_boot x_thermal x_clkmon x_elt x_tap x_unlock x_selectors x_flash x_dirty x_dictOut x_qpll x_sweep x_repair x_ret x_place x_restricted
    x_override x_sysDevs x_routes x_health x_keys x_settings x_footpath x_fpBusy x_fpFailed x_fcy x_mhz x_acyFrac x_acy x_freeCount} :
    Kept qs P (State.mk x_blocks x_rest t.devNum t.devValid t.plan x_planId t.k t.epoch x_pl x_lastPlanId x_intakes x_outlets x_edge0 x_edge1 x_ports
    x_proxies x_arrived x_dies x_bundle x_station x_ledgers x_hif (Jnl.mk t.jnl.ring y_next y_gen y_cmdRecs y_holding y_lastEvent t.jnl.fifo
    y_counters y_raised y_recorded y_summarised y_damaged) x_trace x_supply x_boot x_thermal t.time x_clkmon x_elt x_tap x_unlock x_selectors
    x_flash x_dirty x_dictOut x_qpll x_sweep x_repair x_ret x_place x_restricted x_override x_sysDevs x_routes x_health x_keys x_settings t.hostMem
    x_footpath x_fpBusy x_fpFailed x_fcy x_mhz x_acyFrac x_acy x_freeCount t.pending) = Kept qs P t :=
  propext ⟨fun h => ⟨h.1, h.2, h.3, h.4, h.5, h.6⟩, fun h => ⟨h.1, h.2, h.3, h.4, h.5, h.6⟩⟩

theorem keep_ite {c : Prop} [Decidable c] {a b : State} (ha : Kept qs P a) (hb : Kept qs P b) : Kept qs P (if c then a else b) := by
  split <;> assumption

theorem keep_cases {c : Prop} [Decidable c] {a b : State} (ha : c → Kept qs P a) (hb : ¬c → Kept qs P b) : Kept qs P (if c then a else b) := by
  split
  · exact ha ‹_›
  · exact hb ‹_›

theorem keep_foldl {α : Type} {f : State → α → State} (hf : ∀ s x, Kept qs P s → Kept qs P (f s x)) (l : List α) {s : State}
    (h : Kept qs P s) : Kept qs P (l.foldl f s) := by
  induction l generalizing s with
  | nil => exact h
  | cons x t ih => exact ih (hf s x h)

/-- The state that may be there keeps what `Kept` says. -/
structure KeptOpt (qs : List Instr) (P : PlanPred) (o : Option State) : Prop where
  out : ∀ t, o = some t → Kept qs P t

theorem accept_fifo {j : Jnl} (e : Event) (h : j.fifo.length ≤ 128) : (j.accept e).fifo.length ≤ 128 := by
  simp only [Jnl.accept]
  split
  · have : j.fifo.length < 128 := by rename_i hc; exact hc.2
    simp; omega
  · exact h

theorem accept_ring (j : Jnl) (e : Event) : (j.accept e).ring = j.ring := by
  simp only [Jnl.accept]
  split <;> rfl

theorem keepopt_some {t : State} (h : Kept qs P t) : KeptOpt qs P (some t) := by
  constructor; intro u hu; cases hu; exact h

theorem keepopt_none : KeptOpt qs P none := by
  constructor; intro u hu; cases hu

theorem keep_some {o : Option State} {t : State} (ho : o = some t) (h : KeptOpt qs P o) : Kept qs P t := h.out t ho

theorem keep_fst {β : Type} {p : State × β} {t : State} {x : β} (hp : p = (t, x)) (h : Kept qs P p.1) : Kept qs P t := by
  rw [hp] at h; exact h

theorem keep_pair {β : Type} {t : State} {x : β} (h : Kept qs P t) : Kept qs P (Prod.mk t x).1 := h

theorem keep_getD {o : Option State} {t : State} (h : KeptOpt qs P o) (ht : Kept qs P t) : Kept qs P (o.getD t) := by
  cases o with
  | none => exact ht
  | some u => exact h.out u rfl

theorem Kept.weaken {Q : PlanPred} {s : State} (h : Kept qs P s)
    (hp : P s.plan s.devValid s.devNum s.k s.epoch.active → Q s.plan s.devValid s.devNum s.k s.epoch.active) : Kept qs Q s := by
  obtain ⟨h1, h2, h3, h4, h5, h6⟩ := h
  exact ⟨h1, h2, h3, h4, h5, hp h6⟩

theorem keep_plan {Q : PlanPred} {s : State} {p : PlanSt} (h : Kept qs P s)
    (hp : P s.plan s.devValid s.devNum s.k s.epoch.active → Q p s.devValid s.devNum s.k s.epoch.active) : Kept qs Q { s with plan := p } := by
  obtain ⟨h1, h2, h3, h4, h5, h6⟩ := h
  exact ⟨h1, h2, h3, h4, h5, hp h6⟩

/-! ## The plan state -/

/-- The device has a valid device number. -/
def isValid : PlanPred := fun _ v _ _ _ => v = true

/-- The plan state fits the rest, and the device has a valid device number. -/
def okValid : PlanPred := fun p v n k a => planOk p v n k a ∧ v = true

theorem Kept.valid {s : State} (h : Kept qs okValid s) : Kept qs isValid s := h.weaken fun h => h.2

theorem Kept.ok {s : State} (h : Kept qs okValid s) : Kept qs planOk s := h.weaken fun h => h.1

theorem planOk_moves {p : PlanSt} {v : Bool} {n : BitVec 7} {k : Nat} {a : Bool} (hp : p = .starting ∨ p = .running ∨ p = .stopping)
    (h : planOk p v n k a) : v = true := by
  rcases hp with rfl | rfl | rfl
  · exact h.1
  · exact h.1
  · exact h

theorem planOk_active {p : PlanSt} {v : Bool} {n : BitVec 7} {k : Nat} (h : planOk p v n k true) : v = true := by
  cases p <;> simp [planOk] at h <;> first | exact h

theorem Kept.okValid_of_active {s : State} (h : Kept qs planOk s) (ha : s.epoch.active = true) : Kept qs okValid s :=
  h.weaken fun h => by rw [ha] at h ⊢; exact ⟨h, planOk_active h⟩

theorem Kept.okValid_of_moves {s : State} (h : Kept qs planOk s)
    (hp : s.plan = .starting ∨ s.plan = .running ∨ s.plan = .stopping) : Kept qs okValid s :=
  h.weaken fun h => ⟨h, planOk_moves hp h⟩

theorem planMoves_cases {s : State} (h : s.planMoves = true) : s.plan = .starting ∨ s.plan = .running ∨ s.plan = .stopping := by
  unfold State.planMoves at h
  cases hp : s.plan <;> simp [hp] at h ⊢

theorem keep_State_setBlk (b : _) (x : _) {s : State} (hK : Kept qs P s) : Kept qs P (State.setBlk s b x) := by
  unfold State.setBlk
  repeat' first | intro _ | (with_reducible first | assumption | apply keep_ite) | simp only [kept_mk] | split | dsimp only

theorem keep_State_modBlk (b : _) (f : _) {s : State} (hK : Kept qs P s) : Kept qs P (State.modBlk s b f) := by
  unfold State.modBlk
  repeat' first | intro _ | (with_reducible first | assumption | apply keep_ite | apply keep_State_setBlk) | split | dsimp only

theorem keep_State_mapKey (k : _) (f : _) {s : State} (hK : Kept qs P s) : Kept qs P (State.mapKey s k f) := by
  unfold State.mapKey
  repeat' first | intro _ | (with_reducible first | assumption | apply keep_ite) | simp only [kept_mk] | split | dsimp only

theorem keep_State_mapQuarter (q : _) (f : _) {s : State} (hK : Kept qs P s) : Kept qs P (State.mapQuarter s q f) := by
  unfold State.mapQuarter
  repeat' first | intro _ | (with_reducible first | assumption | apply keep_ite | apply keep_State_mapKey) | split | dsimp only

theorem keep_State_mapAll (f : _) {s : State} (hK : Kept qs P s) : Kept qs P (State.mapAll s f) := by
  unfold State.mapAll
  repeat' first | intro _ | (with_reducible first | assumption | apply keep_ite | apply keep_State_mapQuarter) | split | dsimp only

theorem keep_State_eachListed (f : State → BlockId → State) {s : State} (hK : Kept qs P s) (hKf : ∀ x0 x1, Kept qs P x0 → Kept qs P (f x0 x1)) : Kept
    qs P (State.eachListed s f) := by
  unfold State.eachListed
  repeat' first | intro _ | (with_reducible first | assumption | apply keep_ite | apply keep_foldl | apply hKf) | split | dsimp only

theorem keep_State_eachPlaced (f : State → BlockId → State) {s : State} (hK : Kept qs P s) (hKf : ∀ x0 x1, Kept qs P x0 → Kept qs P (f x0 x1)) : Kept
    qs P (State.eachPlaced s f) := by
  unfold State.eachPlaced
  repeat' first | intro _ | (with_reducible first | assumption | apply keep_ite | apply keep_foldl | apply hKf) | split | dsimp only

theorem keep_State_keepNext (b : _) {s : State} (hK : Kept qs P s) : Kept qs P (State.keepNext s b) := by
  unfold State.keepNext
  repeat' first | intro _ | (with_reducible first | assumption | apply keep_ite | apply keep_State_modBlk) | simp only [kept_mk] | split | dsimp only

theorem keep_State_retain (n : _) (l : _) {s : State} (hK : Kept qs P s) : Kept qs P (State.retain s n l) := by
  unfold State.retain
  repeat' first | intro _ | (with_reducible first | assumption | apply keep_ite) | simp only [kept_mk] | split | dsimp only

theorem keep_State_setRepair (l : _) {s : State} (hK : Kept qs P s) : Kept qs P (State.setRepair s l) := by
  unfold State.setRepair
  repeat' first | intro _ | (with_reducible first | assumption | apply keep_ite | apply keep_State_retain) | simp only [kept_mk] | split | dsimp only

theorem keep_State_setFlash (t : _) {s : State} (hK : Kept qs P s) : Kept qs P (State.setFlash s t) := by
  unfold State.setFlash
  repeat' first | intro _ | (with_reducible first | assumption | apply keep_ite | apply keep_State_retain) | simp only [kept_mk] | split | dsimp only

theorem keep_State_keepCounter (key : _) {s : State} (hK : Kept qs P s) : Kept qs P (State.keepCounter s key) := by
  unfold State.keepCounter
  repeat' first | intro _ | (with_reducible first | assumption | apply keep_ite | apply keep_State_retain) | split | dsimp only

theorem keep_State_freshRetention {s : State} (hK : Kept qs P s) : Kept qs P (State.freshRetention s) := by
  unfold State.freshRetention
  repeat' first | intro _ | (with_reducible first | assumption | apply keep_ite) | simp only [kept_mk] | split | dsimp only

theorem keep_State_bump (index : _) (sub : _) (n : _) {s : State} (hK : Kept qs P s) : Kept qs P (State.bump s index sub n) := by
  unfold State.bump
  repeat' first
    | intro _ | (with_reducible first | assumption | apply keep_ite | apply keep_State_keepCounter)
    | simp only [kept_mk] | split | dsimp only

theorem keep_State_bumpTerm (key : _) (n : _) {s : State} (hK : Kept qs P s) : Kept qs P (State.bumpTerm s key n) := by
  unfold State.bumpTerm
  repeat' first | intro _ | (with_reducible first | assumption | apply keep_ite) | simp only [kept_mk] | split | dsimp only

theorem keep_State_setCounter (index : _) (sub : _) (v : _) {s : State} (hK : Kept qs P s) : Kept qs P (State.setCounter s index sub v) := by
  unfold State.setCounter
  repeat' first
    | intro _ | (with_reducible first | assumption | apply keep_ite | apply keep_State_keepCounter)
    | simp only [kept_mk] | split | dsimp only

theorem keep_State_useFree (n : _) {s : State} (hK : Kept qs P s) : Kept qs P (State.useFree s n) := by
  unfold State.useFree
  repeat' first | intro _ | (with_reducible first | assumption | apply keep_ite) | simp only [kept_mk] | split | dsimp only

theorem keep_State_openBook (index : _) {s : State} (hK : Kept qs P s) : Kept qs P (State.openBook s index) := by
  unfold State.openBook
  repeat' first | intro _ | (with_reducible first | assumption | apply keep_ite) | simp only [kept_mk] | split | dsimp only

theorem keep_State_moveWords (key : _) (n : _) {s : State} (hK : Kept qs P s) : Kept qs P (State.moveWords s key n) := by
  unfold State.moveWords
  repeat' first
    | intro _ | (with_reducible first | assumption | apply keep_ite | apply keep_State_bumpTerm | apply keep_State_openBook)
    | split | dsimp only

theorem keep_State_sentWords (n : _) {s : State} (hK : Kept qs P s) : Kept qs P (State.sentWords s n) := by
  unfold State.sentWords
  repeat' first | intro _ | (with_reducible first | assumption | apply keep_ite | apply keep_State_moveWords) | split | dsimp only

theorem keep_State_receivedWords (n : _) {s : State} (hK : Kept qs P s) : Kept qs P (State.receivedWords s n) := by
  unfold State.receivedWords
  repeat' first | intro _ | (with_reducible first | assumption | apply keep_ite | apply keep_State_moveWords) | split | dsimp only

theorem keep_State_settleBook (index : _) (ok : _) (terms : _) {s : State} (hK : Kept qs P s) : Kept qs P (State.settleBook s index ok terms) := by
  unfold State.settleBook
  repeat' first | intro _ | (with_reducible first | assumption | apply keep_ite) | simp only [kept_mk] | split | dsimp only

theorem keep_State_raisePath {qs : List Instr} {P : PlanPred} {s : State} (path : _) (kind : _) (ref : _) (result : _) (tag : _) (h : Kept qs P s) :
    Kept qs P (State.raisePath s path kind ref result tag) := by
  unfold State.raisePath
  exact keep_State_openBook _ (keep_mkJ h (accept_fifo _ h.fifo) (by rw [accept_ring]; exact h.ring))

theorem keep_State_raise (kind : _) (ref : _) (result : _) (tag : _) {s : State} (hK : Kept qs P s) : Kept qs P (State.raise s kind ref result tag) :=
    by
  unfold State.raise
  repeat' first | intro _ | (with_reducible first | assumption | apply keep_ite | apply keep_State_raisePath) | split | dsimp only

theorem keep_State_charge (row : _) (blk : _) {s : State} (hK : Kept qs P s) : Kept qs P (State.charge s row blk) := by
  unfold State.charge
  repeat' first | intro _ | (with_reducible first | assumption | apply keep_ite) | simp only [kept_mk] | simp only [kept_mkE] | split | dsimp only

theorem keep_State_candidateAt (q : _) (px : _) (py : _) (reason : _) (detail : _) {s : State} (hK : Kept qs P s) : Kept qs P (State.candidateAt s q
    px py reason detail) := by
  unfold State.candidateAt
  repeat' first
    | intro _ | (with_reducible first | assumption | apply keep_ite | apply keep_State_setRepair | apply keep_State_raise)
    | split | dsimp only

theorem keep_State_candidate (b : _) (reason : _) (detail : _) {s : State} (hK : Kept qs P s) : Kept qs P (State.candidate s b reason detail) := by
  unfold State.candidate
  repeat' first | intro _ | (with_reducible first | assumption | apply keep_ite | apply keep_State_candidateAt) | split | dsimp only

theorem keep_State_setNotes (b : _) (l : _) {s : State} (hK : Kept qs P s) : Kept qs P (State.setNotes s b l) := by
  unfold State.setNotes
  repeat' first | intro _ | (with_reducible first | assumption | apply keep_ite | apply keep_State_modBlk) | simp only [kept_mk] | split | dsimp only

theorem keep_State_note (b : _) (reason : _) (word : _) (limit : _) {s : State} (hK : Kept qs P s) : Kept qs P (State.note s b reason word limit) :=
    by
  unfold State.note
  repeat' first
    | intro _ | (with_reducible first | assumption | apply keep_ite | apply keep_State_candidate | apply keep_State_setNotes)
    | split | dsimp only

theorem keep_State_retentionCorrected {s : State} (hK : Kept qs P s) : Kept qs P (State.retentionCorrected s) := by
  unfold State.retentionCorrected
  repeat' first | intro _ | (with_reducible first | assumption | apply keep_ite | apply keep_State_bump) | split | dsimp only

theorem keep_State_retentionLost {s : State} (hK : Kept qs P s) : Kept qs P (State.retentionLost s) := by
  unfold State.retentionLost
  repeat' first | intro _ | (with_reducible first | assumption | apply keep_ite | apply keep_State_bump) | split | dsimp only

theorem keep_State_corrected (b : _) (word : _) {s : State} (hK : Kept qs P s) : Kept qs P (State.corrected s b word) := by
  unfold State.corrected
  repeat' first
    | intro _ | (with_reducible first
        | assumption | apply keep_ite | apply keep_State_bump | apply keep_State_candidate | apply keep_State_note
        | apply keep_State_retentionCorrected)
    | split | dsimp only

theorem keep_State_correctedIm (b : _) (word : _) {s : State} (hK : Kept qs P s) : Kept qs P (State.correctedIm s b word) := by
  unfold State.correctedIm
  repeat' first | intro _ | (with_reducible first | assumption | apply keep_ite | apply keep_State_bump | apply keep_State_note) | split | dsimp only

theorem keep_State_uncorrectable (b : _) (word : _) {s : State} (hK : Kept qs P s) : Kept qs P (State.uncorrectable s b word) := by
  unfold State.uncorrectable
  repeat' first
    | intro _ | (with_reducible first
        | assumption | apply keep_ite | apply keep_State_bump | apply keep_State_candidate | apply keep_State_setNotes
        | apply keep_State_retentionLost)
    | split | dsimp only

theorem keep_State_orFlags (b : _) (fl : _) {s : State} (hK : Kept qs P s) : Kept qs P (State.orFlags s b fl) := by
  unfold State.orFlags
  repeat' first | intro _ | (with_reducible first | assumption | apply keep_ite | apply keep_State_modBlk) | simp only [kept_mk] | split | dsimp only

theorem keep_State_draw (b : _) (n : _) {s : State} (hK : Kept qs P s) : Kept qs P (State.draw s b n) := by
  unfold State.draw
  repeat' first | intro _ | (with_reducible first | assumption | apply keep_ite | apply keep_State_modBlk) | simp only [kept_mk] | split | dsimp only

theorem keep_State_sendPacket (here : _) (p : _) {s : State} (hK : Kept qs P s) : Kept qs P (State.sendPacket s here p) := by
  unfold State.sendPacket
  repeat' first | intro _ | (with_reducible first | assumption | apply keep_ite) | simp only [kept_mk] | split | dsimp only

theorem keep_State_loadLeaves (b : _) (a : _) (fn : _) (rd : _) (p : _) {s : State} (hK : Kept qs P s) : Kept qs P (State.loadLeaves s b a fn rd p) :=
    by
  unfold State.loadLeaves
  repeat' first
    | intro _ | (with_reducible first | assumption | apply keep_ite | apply keep_State_setBlk | apply keep_State_sendPacket)
    | simp only [kept_mk] | split | dsimp only

theorem keep_State_storeLeaves (b : _) (a : _) (mbx : _) (p : _) {s : State} (hK : Kept qs P s) : Kept qs P (State.storeLeaves s b a mbx p) := by
  unfold State.storeLeaves
  repeat' first
    | intro _ | (with_reducible first | assumption | apply keep_ite | apply keep_State_setBlk | apply keep_State_sendPacket)
    | simp only [kept_mk] | split | dsimp only

theorem keep_State_sendLoad (b : _) (a : _) (fn : _) (rd : _) {s : State} (hK : Kept qs P s) : Kept qs P (State.sendLoad s b a fn rd) := by
  unfold State.sendLoad
  repeat' first | intro _ | (with_reducible first | assumption | apply keep_ite | apply keep_State_loadLeaves) | split | dsimp only

theorem keep_State_sendStore (b : _) (a : _) (mbx : _) (size : _) (v : _) {s : State} (hK : Kept qs P s) : Kept qs P (State.sendStore s b a mbx size
    v) := by
  unfold State.sendStore
  repeat' first | intro _ | (with_reducible first | assumption | apply keep_ite | apply keep_State_storeLeaves) | split | dsimp only

theorem keep_State_openPacket (b : _) (n : _) {s : State} (hK : Kept qs P s) : Kept qs P (State.openPacket s b n) := by
  unfold State.openPacket
  repeat' first | intro _ | (with_reducible first | assumption | apply keep_ite | apply keep_State_modBlk) | simp only [kept_mk] | split | dsimp only

theorem keep_State_putRecord (b : _) (rec : _) {s : State} (hK : Kept qs P s) : Kept qs P (State.putRecord s b rec) := by
  unfold State.putRecord
  repeat' first
    | intro _ | (with_reducible first | assumption | apply keep_ite | apply keep_State_modBlk | apply keep_State_openPacket)
    | simp only [kept_mk] | split | dsimp only

theorem keep_State_flushOutcomes (b : _) {s : State} (hK : Kept qs P s) : Kept qs P (State.flushOutcomes s b) := by
  unfold State.flushOutcomes
  repeat' first
    | intro _ | (with_reducible first | assumption | apply keep_ite | apply keep_State_modBlk | apply keep_State_putRecord)
    | simp only [kept_mk] | split | dsimp only

theorem keep_State_setTimed (b : _) {s : State} (hK : Kept qs P s) : Kept qs P (State.setTimed s b) := by
  unfold State.setTimed
  repeat' first | intro _ | (with_reducible first | assumption | apply keep_ite | apply keep_State_modBlk) | simp only [kept_mk] | split | dsimp only

theorem keep_State_putGts (b : _) {s : State} (hK : Kept qs P s) : Kept qs P (State.putGts s b) := by
  unfold State.putGts
  repeat' first
    | intro _ | (with_reducible first | assumption | apply keep_ite | apply keep_State_modBlk | apply keep_State_putRecord)
    | simp only [kept_mk] | split | dsimp only

theorem keep_State_putDelta (b : _) {s : State} (hK : Kept qs P s) : Kept qs P (State.putDelta s b) := by
  unfold State.putDelta
  repeat' first
    | intro _ | (with_reducible first
        | assumption | apply keep_ite | apply keep_State_openPacket | apply keep_State_putRecord | apply keep_State_setTimed
        | apply keep_State_putGts)
    | split | dsimp only

theorem keep_State_traceRecord (b : _) (on : _) (rec : _) {s : State} (hK : Kept qs P s) : Kept qs P (State.traceRecord s b on rec) := by
  unfold State.traceRecord
  repeat' first
    | intro _ | (with_reducible first
        | assumption | apply keep_ite | apply keep_State_putRecord | apply keep_State_flushOutcomes | apply keep_State_putDelta)
    | split | dsimp only

theorem keep_State_traceOutcome (b : _) (taken : _) {s : State} (hK : Kept qs P s) : Kept qs P (State.traceOutcome s b taken) := by
  unfold State.traceOutcome
  repeat' first
    | intro _ | (with_reducible first
        | assumption | apply keep_ite | apply keep_State_modBlk | apply keep_State_putRecord | apply keep_State_flushOutcomes
        | apply keep_State_putDelta)
    | simp only [kept_mk] | split | dsimp only

theorem keep_State_traceClose (b : _) (why : _) {s : State} (hK : Kept qs P s) : Kept qs P (State.traceClose s b why) := by
  unfold State.traceClose
  repeat' first
    | intro _ | (with_reducible first | assumption | apply keep_ite | apply keep_State_modBlk | apply keep_State_flushOutcomes)
    | simp only [kept_mk] | split | dsimp only

theorem keep_State_traceTarget (b : _) (target : _) {s : State} (hK : Kept qs P s) : Kept qs P (State.traceTarget s b target) := by
  unfold State.traceTarget
  repeat' first | intro _ | (with_reducible first | assumption | apply keep_ite | apply keep_State_traceRecord) | split | dsimp only

theorem keep_State_traceEwait (b : _) {s : State} (hK : Kept qs P s) : Kept qs P (State.traceEwait s b) := by
  unfold State.traceEwait
  repeat' first
    | intro _ | (with_reducible first | assumption | apply keep_ite | apply keep_State_traceRecord | apply keep_State_traceClose)
    | split | dsimp only

theorem keep_State_tracePark (b : _) (cause : _) {s : State} (hK : Kept qs P s) : Kept qs P (State.tracePark s b cause) := by
  unfold State.tracePark
  repeat' first
    | intro _ | (with_reducible first
        | assumption | apply keep_ite | apply keep_State_traceRecord | apply keep_State_traceClose | apply keep_State_park)
    | split | dsimp only

theorem keep_State_traceEpoch (b : _) {s : State} (hK : Kept qs P s) : Kept qs P (State.traceEpoch s b) := by
  unfold State.traceEpoch
  repeat' first | intro _ | (with_reducible first | assumption | apply keep_ite | apply keep_State_traceRecord) | split | dsimp only

theorem keep_State_traceTrap (b : _) (cause : _) (async : _) (esc : _) (src : _) (dst : _) (saved : _) (handler : _) {s : State} (hK : Kept qs P s) :
    Kept qs P (State.traceTrap s b cause async esc src dst saved handler) := by
  unfold State.traceTrap
  repeat' first | intro _ | (with_reducible first | assumption | apply keep_ite | apply keep_State_traceRecord) | split | dsimp only

theorem keep_State_traceTret (b : _) (src : _) (dst : _) (pc : _) {s : State} (hK : Kept qs P s) : Kept qs P (State.traceTret s b src dst pc) := by
  unfold State.traceTret
  repeat' first | intro _ | (with_reducible first | assumption | apply keep_ite | apply keep_State_traceRecord) | split | dsimp only

theorem keep_State_traceMark (b : _) (v : _) {s : State} (hK : Kept qs P s) : Kept qs P (State.traceMark s b v) := by
  unfold State.traceMark
  repeat' first | intro _ | (with_reducible first | assumption | apply keep_ite | apply keep_State_traceRecord) | split | dsimp only

theorem keep_State_traceGts (b : _) {s : State} (hK : Kept qs P s) : Kept qs P (State.traceGts s b) := by
  unfold State.traceGts
  repeat' first
    | intro _ | (with_reducible first | assumption | apply keep_ite | apply keep_State_flushOutcomes | apply keep_State_putGts)
    | split | dsimp only

theorem keep_State_traceSync (b : _) {s : State} (hK : Kept qs P s) : Kept qs P (State.traceSync s b) := by
  unfold State.traceSync
  repeat' first
    | intro _ | (with_reducible first
        | assumption | apply keep_ite | apply keep_State_putRecord | apply keep_State_flushOutcomes | apply keep_State_setTimed)
    | split | dsimp only

theorem keep_State_lineFetched (b : _) {s : State} (hK : Kept qs P s) : Kept qs P (State.lineFetched s b) := by
  unfold State.lineFetched
  repeat' first | intro _ | (with_reducible first | assumption | apply keep_ite) | simp only [kept_mk] | split | dsimp only

theorem keep_State_noteTaken (b : _) (target : _) {s : State} (hK : Kept qs P s) : Kept qs P (State.noteTaken s b target) := by
  unfold State.noteTaken
  repeat' first | intro _ | (with_reducible first | assumption | apply keep_ite) | simp only [kept_mk] | split | dsimp only

theorem keep_State_raiseSync (b : _) (cause : _) (value : _) {s : State} (hK : Kept qs P s) : Kept qs P (State.raiseSync s b cause value) := by
  unfold State.raiseSync
  repeat' first | intro _ | (with_reducible first | assumption | apply keep_ite | apply keep_State_modBlk) | simp only [kept_mk] | split | dsimp only

theorem keep_State_issue (b : _) (k : State → State) {s : State} (hK : Kept qs P s) (hKk : ∀ x0, Kept qs P x0 → Kept qs P (k x0)) : Kept qs P
    (State.issue s b k) := by
  unfold State.issue
  repeat' first
    | intro _ | (with_reducible first | assumption | apply keep_ite | apply hKk | apply keep_State_lineFetched | apply keep_State_raiseSync)
    | split | dsimp only

theorem keep_State_decoded (b : _) (i : _) (k : State → State) {s : State} (hK : Kept qs P s) (hKk : ∀ x0, Kept qs P x0 → Kept qs P (k x0)) : Kept qs
    P (State.decoded s b i k) := by
  unfold State.decoded
  repeat' first | intro _ | (with_reducible first | assumption | apply keep_ite | apply hKk | apply keep_State_raiseSync) | split | dsimp only

theorem keep_State_whenFree (b : _) (gs : _) (fs : _) (k : State → State) {s : State} (hK : Kept qs P s) (hKk : ∀ x0, Kept qs P x0 → Kept qs P (k x0))
    : Kept qs P (State.whenFree s b gs fs k) := by
  unfold State.whenFree
  repeat' first | intro _ | (with_reducible first | assumption | apply keep_ite | apply hKk) | split | dsimp only

theorem keep_State_setG (b : _) (r : _) (v : _) {s : State} (hK : Kept qs P s) : Kept qs P (State.setG s b r v) := by
  unfold State.setG
  repeat' first | intro _ | (with_reducible first | assumption | apply keep_ite | apply keep_State_modBlk) | simp only [kept_mk] | split | dsimp only

theorem keep_State_setPc (b : _) (v : _) {s : State} (hK : Kept qs P s) : Kept qs P (State.setPc s b v) := by
  unfold State.setPc
  repeat' first | intro _ | (with_reducible first | assumption | apply keep_ite | apply keep_State_modBlk) | simp only [kept_mk] | split | dsimp only

theorem keep_State_advance (b : _) {s : State} (hK : Kept qs P s) : Kept qs P (State.advance s b) := by
  unfold State.advance
  repeat' first
    | intro _ | (with_reducible first | assumption | apply keep_ite | apply keep_State_modBlk | apply keep_State_traceOutcome)
    | simp only [kept_mk] | split | dsimp only

theorem keep_State_redirect (b : _) (target : _) {s : State} (hK : Kept qs P s) : Kept qs P (State.redirect s b target) := by
  unfold State.redirect
  repeat' first
    | intro _ | (with_reducible first | assumption | apply keep_ite | apply keep_State_modBlk | apply keep_State_setPc)
    | simp only [kept_mk] | split | dsimp only

theorem keep_State_finish (b : _) (rd : _) (v : _) {s : State} (hK : Kept qs P s) : Kept qs P (State.finish s b rd v) := by
  unfold State.finish
  repeat' first
    | intro _ | (with_reducible first | assumption | apply keep_ite | apply keep_State_setG | apply keep_State_advance)
    | split | dsimp only

theorem keep_State_startLong (b : _) (o : _) {s : State} (hK : Kept qs P s) : Kept qs P (State.startLong s b o) := by
  unfold State.startLong
  repeat' first
    | intro _ | (with_reducible first | assumption | apply keep_ite | apply keep_State_modBlk | apply keep_State_advance)
    | simp only [kept_mk] | split | dsimp only

theorem keep_State_changeMode (b : _) (m : _) {s : State} (hK : Kept qs P s) : Kept qs P (State.changeMode s b m) := by
  unfold State.changeMode
  repeat' first
    | intro _ | (with_reducible first
        | assumption | apply keep_ite | apply keep_State_setBlk | apply keep_State_keepNext | apply keep_State_traceClose)
    | simp only [kept_mk] | split | dsimp only

theorem keep_State_requestMode (b : _) (m : _) {s : State} (hK : Kept qs P s) : Kept qs P (State.requestMode s b m) := by
  unfold State.requestMode
  repeat' first
    | intro _ | (with_reducible first | assumption | apply keep_ite | apply keep_State_modBlk | apply keep_State_changeMode)
    | simp only [kept_mk] | split | dsimp only

theorem keep_State_wakeDone (b : _) {s : State} (hK : Kept qs P s) : Kept qs P (State.wakeDone s b) := by
  unfold State.wakeDone
  repeat' first
    | intro _ | (with_reducible first | assumption | apply keep_ite | apply keep_State_setBlk | apply keep_State_changeMode)
    | simp only [kept_mk] | split | dsimp only

theorem keep_State_clkReq (b : _) (v : _) {s : State} (hK : Kept qs P s) : Kept qs P (State.clkReq s b v) := by
  unfold State.clkReq
  repeat' first
    | intro _ | (with_reducible first | assumption | apply keep_ite | apply keep_State_requestMode)
    | simp only [kept_mk] | split | dsimp only

theorem keep_State_queueWaitEnds (b : _) {s : State} (hK : Kept qs P s) : Kept qs P (State.queueWaitEnds s b) := by
  unfold State.queueWaitEnds
  repeat' first | intro _ | (with_reducible first | assumption | apply keep_ite | apply keep_State_modBlk) | simp only [kept_mk] | split | dsimp only

theorem keep_State_modCore (b : _) (f : _) {s : State} (hK : Kept qs P s) : Kept qs P (State.modCore s b f) := by
  unfold State.modCore
  repeat' first | intro _ | (with_reducible first | assumption | apply keep_ite | apply keep_State_modBlk) | simp only [kept_mk] | split | dsimp only

theorem keep_State_modPriv (b : _) (f : _) {s : State} (hK : Kept qs P s) : Kept qs P (State.modPriv s b f) := by
  unfold State.modPriv
  repeat' first | intro _ | (with_reducible first | assumption | apply keep_ite | apply keep_State_modBlk) | simp only [kept_mk] | split | dsimp only

theorem keep_State_privWrite (b : _) (off : _) (w : _) (act : _) {s : State} (hK : Kept qs P s) : Kept qs P (State.privWrite s b off w act) := by
  unfold State.privWrite
  repeat' first | intro _ | (with_reducible first | assumption | apply keep_ite | apply keep_State_modPriv) | simp only [kept_mk] | split | dsimp only

theorem keep_State_coreWrite (b : _) (off : _) (w : _) (act : _) {s : State} (hK : Kept qs P s) : Kept qs P (State.coreWrite s b off w act) := by
  unfold State.coreWrite
  repeat' first
    | intro _ | (with_reducible first | assumption | apply keep_ite | apply keep_State_modBlk | apply keep_State_modCore)
    | simp only [kept_mk] | split | dsimp only

theorem keep_State_trcControl (b : _) (w : _) {s : State} (hK : Kept qs P s) : Kept qs P (State.trcControl s b w) := by
  unfold State.trcControl
  repeat' first
    | intro _ | (with_reducible first | assumption | apply keep_ite | apply keep_State_modBlk | apply keep_State_traceClose)
    | simp only [kept_mk] | split | dsimp only

theorem keep_State_fabricWrite (b : _) (who : _) (off : _) (w : _) (act : _) (m : _) {s : State} (hK : Kept qs P s) : Kept qs P (State.fabricWrite s b
    who off w act m) := by
  unfold State.fabricWrite
  repeat' first
    | intro _ | (with_reducible first
        | assumption | apply keep_ite | apply keep_State_modBlk | apply keep_State_keepNext | apply keep_State_traceMark
        | apply keep_State_traceSync | apply keep_State_clkReq | apply keep_State_trcControl)
    | simp only [kept_mk] | split | dsimp only

theorem keep_State_resumeGo (b : _) {s : State} (hK : Kept qs P s) : Kept qs P (State.resumeGo s b) := by
  unfold State.resumeGo
  repeat' first
    | intro _ | (with_reducible first | assumption | apply keep_ite | apply keep_State_modCore | apply keep_State_modPriv)
    | simp only [kept_mk] | split | dsimp only

theorem keep_State_resumeWrite (b : _) (w : _) (act : _) {s : State} (hK : Kept qs P s) : Kept qs P (State.resumeWrite s b w act) := by
  unfold State.resumeWrite
  repeat' first
    | intro _ | (with_reducible first | assumption | apply keep_ite | apply keep_State_modCore | apply keep_State_resumeGo)
    | simp only [kept_mk] | split | dsimp only

theorem keep_State_crWrite (b : _) (who : _) (off : _) (v : _) (m : _) {s : State} (hK : Kept qs P s) : Kept qs P (State.crWrite s b who off v m) :=
    by
  unfold State.crWrite
  repeat' first
    | intro _ | (with_reducible first
        | assumption | apply keep_ite | apply keep_State_privWrite | apply keep_State_coreWrite | apply keep_State_fabricWrite
        | apply keep_State_resumeWrite)
    | split | dsimp only

theorem keep_State_crStore (b : _) (off : _) (v : _) {s : State} (hK : Kept qs P s) : Kept qs P (State.crStore s b off v) := by
  unfold State.crStore
  repeat' first
    | intro _ | (with_reducible first
        | assumption | apply keep_ite | apply keep_State_advance | apply keep_State_modCore | apply keep_State_crWrite)
    | simp only [kept_mk] | split | dsimp only

theorem keep_State_lsStore (b : _) (a : _) (l : _) {s : State} (hK : Kept qs P s) : Kept qs P (State.lsStore s b a l) := by
  unfold State.lsStore
  repeat' first | intro _ | (with_reducible first | assumption | apply keep_ite | apply keep_State_modBlk) | simp only [kept_mk] | split | dsimp only

theorem keep_State_imStore (b : _) (a : _) (l : _) {s : State} (hK : Kept qs P s) : Kept qs P (State.imStore s b a l) := by
  unfold State.imStore
  repeat' first | intro _ | (with_reducible first | assumption | apply keep_ite | apply keep_State_modBlk) | simp only [kept_mk] | split | dsimp only

theorem keep_State_lost (b : _) (word : _) {s : State} (hK : Kept qs P s) : Kept qs P (State.lost s b word) := by
  unfold State.lost
  repeat' first
    | intro _ | (with_reducible first | assumption | apply keep_ite | apply keep_State_charge | apply keep_State_uncorrectable)
    | split | dsimp only

theorem keep_integerRegisterOp (b : _) (fn : _) (rb : _) (ra : _) (rd : _) {s : State} (hK : Kept qs P s) : Kept qs P (integerRegisterOp b fn rb ra rd
    s) := by
  unfold integerRegisterOp
  repeat' first
    | intro _ | (with_reducible first
        | assumption | apply keep_ite | apply keep_State_issue | apply keep_State_decoded | apply keep_State_whenFree | apply keep_State_finish)
    | split | dsimp only

theorem keep_integerImmediateOp (b : _) (fn : _) (imm : _) (ra : _) (rd : _) {s : State} (hK : Kept qs P s) : Kept qs P (integerImmediateOp b fn imm
    ra rd s) := by
  unfold integerImmediateOp
  repeat' first
    | intro _ | (with_reducible first
        | assumption | apply keep_ite | apply keep_State_issue | apply keep_State_decoded | apply keep_State_whenFree | apply keep_State_finish)
    | split | dsimp only

theorem keep_State_loaded (b : _) (fn : _) (rd : _) (v : _) {s : State} (hK : Kept qs P s) : Kept qs P (State.loaded s b fn rd v) := by
  unfold State.loaded
  repeat' first
    | intro _ | (with_reducible first | assumption | apply keep_ite | apply keep_State_advance | apply keep_State_modCore)
    | split | dsimp only

theorem keep_doLoad (b : _) (fn : _) (imm : _) (ra : _) (rd : _) (ecc : _) {s : State} (hK : Kept qs P s) : Kept qs P (doLoad b fn imm ra rd ecc s) :=
    by
  unfold doLoad
  repeat' first
    | intro _ | (with_reducible first
        | assumption | apply keep_ite | apply keep_State_corrected | apply keep_State_correctedIm | apply keep_State_uncorrectable
        | apply keep_State_sendLoad | apply keep_State_raiseSync | apply keep_State_issue | apply keep_State_whenFree | apply keep_State_advance
        | apply keep_State_lost | apply keep_State_loaded)
    | simp only [kept_mk] | split | dsimp only

theorem keep_State_lsStoreEcc (b : _) (k : _) (l : _) (ecc : _) {s : State} (hK : Kept qs P s) : Kept qs P (State.lsStoreEcc s b k l ecc) := by
  unfold State.lsStoreEcc
  repeat' first
    | intro _ | (with_reducible first
        | assumption | apply keep_ite | apply keep_State_corrected | apply keep_State_uncorrectable | apply keep_State_lsStore
        | apply keep_State_lost)
    | simp only [kept_mk] | split | dsimp only

theorem keep_doStore (b : _) (fn : _) (imm : _) (ra : _) (rs : _) (ecc : _) {s : State} (hK : Kept qs P s) : Kept qs P (doStore b fn imm ra rs ecc s)
    := by
  unfold doStore
  repeat' first
    | intro _ | (with_reducible first
        | assumption | apply keep_ite | apply keep_State_sendStore | apply keep_State_raiseSync | apply keep_State_issue
        | apply keep_State_whenFree | apply keep_State_advance | apply keep_State_crStore | apply keep_State_imStore | apply keep_State_lsStoreEcc)
    | simp only [kept_mk] | split | dsimp only

theorem keep_doFpOperation (b : _) (fn : _) (rm : _) (fmt : _) (rb : _) (ra : _) (rd : _) {s : State} (hK : Kept qs P s) : Kept qs P (doFpOperation b
    fn rm fmt rb ra rd s) := by
  unfold doFpOperation
  repeat' first
    | intro _ | (with_reducible first
        | assumption | apply keep_ite | apply keep_State_issue | apply keep_State_decoded | apply keep_State_whenFree | apply keep_State_startLong)
    | split | dsimp only

theorem keep_doFma (b : _) (fn : _) (rm : _) (fmt : _) (rc : _) (rb : _) (ra : _) (rd : _) {s : State} (hK : Kept qs P s) : Kept qs P (doFma b fn rm
    fmt rc rb ra rd s) := by
  unfold doFma
  repeat' first
    | intro _ | (with_reducible first
        | assumption | apply keep_ite | apply keep_State_issue | apply keep_State_decoded | apply keep_State_whenFree | apply keep_State_startLong)
    | split | dsimp only

theorem keep_doConversion (b : _) (rm : _) (src : _) (dst : _) (ra : _) (rd : _) {s : State} (hK : Kept qs P s) : Kept qs P (doConversion b rm src dst
    ra rd s) := by
  unfold doConversion
  repeat' first
    | intro _ | (with_reducible first
        | assumption | apply keep_ite | apply keep_State_draw | apply keep_State_issue | apply keep_State_decoded | apply keep_State_whenFree
        | apply keep_State_startLong)
    | simp only [kept_mk] | split | dsimp only

theorem keep_longOperationComplete (b : _) (index : _) {s : State} (hK : Kept qs P s) : Kept qs P (longOperationComplete b index s) := by
  unfold longOperationComplete
  repeat' first
    | intro _ | (with_reducible first | assumption | apply keep_ite | apply keep_State_orFlags | apply keep_State_modCore)
    | simp only [kept_mk] | split | dsimp only

theorem keep_doCrr (b : _) (crn : _) (rs : _) (rd : _) {s : State} (hK : Kept qs P s) : Kept qs P (doCrr b crn rs rd s) := by
  unfold doCrr
  repeat' first
    | intro _ | (with_reducible first
        | assumption | apply keep_ite | apply keep_State_issue | apply keep_State_decoded | apply keep_State_whenFree | apply keep_State_finish)
    | split | dsimp only

theorem keep_doCrw (b : _) (crn : _) (rs : _) (rd : _) {s : State} (hK : Kept qs P s) : Kept qs P (doCrw b crn rs rd s) := by
  unfold doCrw
  repeat' first
    | intro _ | (with_reducible first
        | assumption | apply keep_ite | apply keep_State_raiseSync | apply keep_State_issue | apply keep_State_whenFree | apply keep_State_setG
        | apply keep_State_crStore)
    | split | dsimp only

theorem keep_doLoop (b : _) (n1 : _) (ra : _) {s : State} (hK : Kept qs P s) : Kept qs P (doLoop b n1 ra s) := by
  unfold doLoop
  repeat' first
    | intro _ | (with_reducible first
        | assumption | apply keep_ite | apply keep_State_traceOutcome | apply keep_State_raiseSync | apply keep_State_issue
        | apply keep_State_whenFree | apply keep_State_setPc | apply keep_State_redirect | apply keep_State_modCore)
    | simp only [kept_mk] | split | dsimp only

theorem keep_State_chanCheck (b : _) (ch : _) (k : State → State) {s : State} (hK : Kept qs P s) (hKk : ∀ x0, Kept qs P x0 → Kept qs P (k x0)) : Kept
    qs P (State.chanCheck s b ch k) := by
  unfold State.chanCheck
  repeat' first | intro _ | (with_reducible first | assumption | apply keep_ite | apply hKk | apply keep_State_raiseSync) | split | dsimp only

theorem keep_doMwait (b : _) (ch : _) (ra : _) (rd : _) {s : State} (hK : Kept qs P s) : Kept qs P (doMwait b ch ra rd s) := by
  unfold doMwait
  repeat' first
    | intro _ | (with_reducible first
        | assumption | apply keep_ite | apply keep_State_issue | apply keep_State_decoded | apply keep_State_whenFree | apply keep_State_finish
        | apply keep_State_chanCheck)
    | split | dsimp only

theorem keep_doMbxSend (b : _) (rb : _) (ra : _) {s : State} (hK : Kept qs P s) : Kept qs P (doMbxSend b rb ra s) := by
  unfold doMbxSend
  repeat' first
    | intro _ | (with_reducible first
        | assumption | apply keep_ite | apply keep_State_sendStore | apply keep_State_raiseSync | apply keep_State_issue | apply keep_State_decoded
        | apply keep_State_whenFree | apply keep_State_advance)
    | split | dsimp only

theorem keep_doMbxRecv (b : _) (rd : _) {s : State} (hK : Kept qs P s) : Kept qs P (doMbxRecv b rd s) := by
  unfold doMbxRecv
  repeat' first
    | intro _ | (with_reducible first
        | assumption | apply keep_ite | apply keep_State_setBlk | apply keep_State_issue | apply keep_State_decoded | apply keep_State_whenFree
        | apply keep_State_advance | apply keep_State_startLong | apply keep_State_modCore)
    | simp only [kept_mk] | split | dsimp only

theorem keep_doEwait (b : _) {s : State} (hK : Kept qs P s) : Kept qs P (doEwait b s) := by
  unfold doEwait
  repeat' first
    | intro _ | (with_reducible first
        | assumption | apply keep_ite | apply keep_State_traceEwait | apply keep_State_issue | apply keep_State_decoded | apply keep_State_modCore)
    | simp only [kept_mk] | split | dsimp only

theorem keep_doFence (b : _) (imm : _) {s : State} (hK : Kept qs P s) : Kept qs P (doFence b imm s) := by
  unfold doFence
  repeat' first
    | intro _ | (with_reducible first
        | assumption | apply keep_ite | apply keep_State_raiseSync | apply keep_State_issue | apply keep_State_decoded | apply keep_State_advance)
    | split | dsimp only

theorem keep_doHold (b : _) (imm : _) {s : State} (hK : Kept qs P s) : Kept qs P (doHold b imm s) := by
  unfold doHold
  repeat' first
    | intro _ | (with_reducible first
        | assumption | apply keep_ite | apply keep_State_raiseSync | apply keep_State_issue | apply keep_State_decoded | apply keep_State_advance
        | apply keep_State_modPriv | apply keep_State_hold)
    | simp only [kept_mk] | split | dsimp only

theorem keep_State_raiseAfter (b : _) (cause : _) (value : _) {s : State} (hK : Kept qs P s) : Kept qs P (State.raiseAfter s b cause value) := by
  unfold State.raiseAfter
  repeat' first | intro _ | (with_reducible first | assumption | apply keep_ite | apply keep_State_modCore) | simp only [kept_mk] | split | dsimp only

theorem keep_State_restore (b : _) (d : _) {s : State} (hK : Kept qs P s) : Kept qs P (State.restore s b d) := by
  unfold State.restore
  repeat' first
    | intro _ | (with_reducible first
        | assumption | apply keep_ite | apply keep_State_traceTret | apply keep_State_setG | apply keep_State_modCore | apply keep_State_modPriv)
    | simp only [kept_mk] | split | dsimp only

theorem keep_doTret (b : _) (ecc : _) {s : State} (hK : Kept qs P s) : Kept qs P (doTret b ecc s) := by
  unfold doTret
  repeat' first
    | intro _ | (with_reducible first
        | assumption | apply keep_ite | apply keep_State_corrected | apply keep_State_uncorrectable | apply keep_State_raiseSync
        | apply keep_State_issue | apply keep_State_whenFree | apply keep_State_lost | apply keep_State_restore)
    | simp only [kept_mk] | split | dsimp only

theorem keep_State_loadDone (b : _) (l : _) (rest : _) (v : _) {s : State} (hK : Kept qs P s) : Kept qs P (State.loadDone s b l rest v) := by
  unfold State.loadDone
  repeat' first | intro _ | (with_reducible first | assumption | apply keep_ite | apply keep_State_modCore) | simp only [kept_mk] | split | dsimp only

theorem keep_remoteLoadResponse (b : _) (txn : _) (data : _) {s : State} (hK : Kept qs P s) : Kept qs P (remoteLoadResponse b txn data s) := by
  unfold remoteLoadResponse
  repeat' first
    | intro _ | (with_reducible first | assumption | apply keep_ite | apply keep_State_loadDone)
    | simp only [kept_mk] | split | dsimp only

theorem keep_State_accessFailed (b : _) (txn : _) (err : _) {s : State} (hK : Kept qs P s) : Kept qs P (State.accessFailed s b txn err) := by
  unfold State.accessFailed
  repeat' first
    | intro _ | (with_reducible first
        | assumption | apply keep_ite | apply keep_State_modCore | apply keep_State_modPriv | apply keep_State_loadDone)
    | simp only [kept_mk] | split | dsimp only

theorem keep_State_park (b : _) (cause : _) {s : State} (hK : Kept qs P s) : Kept qs P (State.park s b cause) := by
  unfold State.park
  repeat' first
    | intro _ | (with_reducible first | assumption | apply keep_ite | apply keep_State_tracePark | apply keep_State_modCore)
    | simp only [kept_mk] | split | dsimp only

theorem keep_State_overrun (b : _) {s : State} (hK : Kept qs P s) : Kept qs P (State.overrun s b) := by
  unfold State.overrun
  repeat' first
    | intro _ | (with_reducible first
        | assumption | apply keep_ite | apply keep_State_charge | apply keep_State_modCore | apply keep_State_modPriv | apply keep_State_park)
    | simp only [kept_mk] | split | dsimp only

theorem keep_State_enterTrap (b : _) (t : _) (dst : _) {s : State} (hK : Kept qs P s) : Kept qs P (State.enterTrap s b t dst) := by
  unfold State.enterTrap
  repeat' first
    | intro _ | (with_reducible first
        | assumption | apply keep_ite | apply keep_State_traceTrap | apply keep_State_setG | apply keep_State_modCore | apply keep_State_modPriv
        | apply keep_State_lsStore)
    | simp only [kept_mk] | split | dsimp only

theorem keep_State_trapToM (b : _) (t : _) {s : State} (hK : Kept qs P s) : Kept qs P (State.trapToM s b t) := by
  unfold State.trapToM
  repeat' first
    | intro _ | (with_reducible first
        | assumption | apply keep_ite | apply keep_State_raise | apply keep_State_charge | apply keep_State_traceTrap | apply keep_State_modCore
        | apply keep_State_modPriv | apply keep_State_park | apply keep_State_enterTrap)
    | simp only [kept_mk] | split | dsimp only

theorem keep_State_trapM (b : _) (t : _) {s : State} (hK : Kept qs P s) : Kept qs P (State.trapM s b t) := by
  unfold State.trapM
  repeat' first
    | intro _ | (with_reducible first | assumption | apply keep_ite | apply keep_State_enterTrap | apply keep_State_trapToM)
    | split | dsimp only

theorem keep_State_trapToSup (b : _) (t : _) (sup : _) (table : _) {s : State} (hK : Kept qs P s) : Kept qs P (State.trapToSup s b t sup table) := by
  unfold State.trapToSup
  repeat' first
    | intro _ | (with_reducible first
        | assumption | apply keep_ite | apply keep_State_corrected | apply keep_State_uncorrectable | apply keep_State_lsStore
        | apply keep_State_lost | apply keep_State_enterTrap | apply keep_State_trapM)
    | simp only [kept_mk] | split | dsimp only

theorem keep_State_takeTrap (b : _) (t : _) (table : _) {s : State} (hK : Kept qs P s) : Kept qs P (State.takeTrap s b t table) := by
  unfold State.takeTrap
  repeat' first
    | intro _ | (with_reducible first | assumption | apply keep_ite | apply keep_State_modBlk | apply keep_State_trapM | apply keep_State_trapToSup)
    | simp only [kept_mk] | split | dsimp only

theorem keep_trapEntry (b : _) (why : _) (table : _) {s : State} (hK : Kept qs P s) : Kept qs P (trapEntry b why table s) := by
  unfold trapEntry
  repeat' first
    | intro _ | (with_reducible first
        | assumption | apply keep_ite | apply keep_State_queueWaitEnds | apply keep_State_modPriv | apply keep_State_lost
        | apply keep_State_takeTrap)
    | simp only [kept_mk] | split | dsimp only

theorem pass_ns (t : Time) (n rate : Nat) : (t.pass n rate).ns < 1000000000 := by
  simp only [Time.pass, Time.withTotal]
  exact Nat.mod_lt _ (by decide)

theorem keep_State_pass {qs : List Instr} {P : PlanPred} {s : State} (n : _) (h : Kept qs P s) : Kept qs P (State.pass s n) := by
  obtain ⟨h1, h2, h3, h4, h5, h6⟩ := h
  exact ⟨h1, pass_ns _ _ _, h3, h4, h5, h6⟩

theorem keep_State_advanceTo (c : _) {s : State} (hK : Kept qs P s) : Kept qs P (State.advanceTo s c) := by
  unfold State.advanceTo
  repeat' first
    | intro _ | (with_reducible first | assumption | apply keep_ite | apply keep_State_pass)
    | simp only [kept_mk] | simp only [kept_mkE] | split | dsimp only

theorem keep_State_passWithin (n : _) {s : State} (hK : Kept qs P s) : KeptOpt qs P (State.passWithin s n) := by
  unfold State.passWithin
  repeat' first
    | intro _ | (with_reducible first
        | assumption | apply keep_ite | apply keep_State_pass | apply keep_State_advanceTo | apply keepopt_some | exact keepopt_none
        | refine keep_some (by assumption) ?_ | apply keep_getD)
    | split | dsimp only

theorem keep_State_toAcy (acy : _) {s : State} (hK : Kept qs P s) : KeptOpt qs P (State.toAcy s acy) := by
  unfold State.toAcy
  repeat' first
    | intro _ | (with_reducible first
        | assumption | apply keep_ite | apply keep_State_passWithin | apply keepopt_some | exact keepopt_none | refine keep_some (by assumption) ?_
        | apply keep_getD)
    | split | dsimp only

theorem keep_State_tick {s : State} (hK : Kept qs P s) : Kept qs P (State.tick s) := by
  unfold State.tick
  repeat' first
    | intro _ | (with_reducible first | assumption | apply keep_ite | apply keep_State_pass | apply keep_State_advanceTo)
    | split | dsimp only

theorem keep_State_setEdge (e : _) (d : _) {s : State} (hK : Kept qs P s) : Kept qs P (State.setEdge s e d) := by
  unfold State.setEdge
  repeat' first | intro _ | (with_reducible first | assumption | apply keep_ite) | simp only [kept_mk] | split | dsimp only

theorem keep_State_modEdge (e : _) (f : _) {s : State} (hK : Kept qs P s) : Kept qs P (State.modEdge s e f) := by
  unfold State.modEdge
  repeat' first | intro _ | (with_reducible first | assumption | apply keep_ite | apply keep_State_setEdge) | split | dsimp only

theorem keep_State_setPort (p : _) (x : _) {s : State} (hK : Kept qs P s) : Kept qs P (State.setPort s p x) := by
  unfold State.setPort
  repeat' first | intro _ | (with_reducible first | assumption | apply keep_ite) | simp only [kept_mk] | split | dsimp only

theorem keep_State_modPort (p : _) (f : _) {s : State} (hK : Kept qs P s) : Kept qs P (State.modPort s p f) := by
  unfold State.modPort
  repeat' first | intro _ | (with_reducible first | assumption | apply keep_ite | apply keep_State_setPort) | split | dsimp only

theorem keep_State_eachPort (f : State → Nat → State) {s : State} (hK : Kept qs P s) (hKf : ∀ x0 x1, Kept qs P x0 → Kept qs P (f x0 x1)) : Kept qs P
    (State.eachPort s f) := by
  unfold State.eachPort
  repeat' first | intro _ | (with_reducible first | assumption | apply keep_ite | apply keep_foldl | apply hKf) | split | dsimp only

theorem keep_State_discardHeld (now : _) {s : State} (hK : Kept qs P s) : Kept qs P (State.discardHeld s now) := by
  unfold State.discardHeld
  repeat' first
    | intro _ | (with_reducible first
        | assumption | apply keep_ite | apply keep_State_receivedWords | apply keep_State_setPort | apply keep_State_modPort
        | apply keep_State_eachPort | apply keep_State_hold)
    | simp only [kept_mk] | split | dsimp only

end Sys2Proof.Machine
end

