-- ==== Sys2Proof/Laws/KeptTime.lean ====
section
/-! SUPPORT. What the journal, the trace sinks, the clocks and the time base keep: one lemma for each operation. -/

set_option maxRecDepth 4000

namespace Sys2Proof.Machine

variable {qs : List Instr} {P : PlanPred}

theorem keep_State_hostWrite {qs : List Instr} {P : PlanPred} {s : State} (a : _) (l : _) (h : Kept qs P s) : Kept qs P (State.hostWrite s a l) := by
  obtain ⟨h1, h2, h3, h4, h5, h6⟩ := h
  exact ⟨h1, h2, h3, h4, mstore_wf h5 _ _, h6⟩

theorem keep_State_raiseVector (v : _) {s : State} (hK : Kept qs P s) : Kept qs P (State.raiseVector s v) := by
  unfold State.raiseVector
  repeat' first
    | intro _ | (with_reducible first | assumption | apply keep_ite | apply keep_State_hostWrite)
    | simp only [kept_mk] | split | dsimp only

theorem keep_State_hifEvent (n : _) {s : State} (hK : Kept qs P s) : Kept qs P (State.hifEvent s n) := by
  unfold State.hifEvent
  repeat' first
    | intro _ | (with_reducible first | assumption | apply keep_ite | apply keep_State_raiseVector)
    | simp only [kept_mk] | split | dsimp only

theorem keep_State_planChange {qs : List Instr} {P Q : PlanPred} {s : State} (p : _) (h : Kept qs P s)
    (hp : P s.plan s.devValid s.devNum s.k s.epoch.active → Q p s.devValid s.devNum s.k s.epoch.active) : Kept qs Q (State.planChange s p) := by
  unfold State.planChange
  exact keep_State_hifEvent _ (keep_State_raise _ _ _ _ (keep_plan h hp))

theorem keep_State_raiseThermal (kind : _) (ref : _) (code : _) {s : State} (hK : Kept qs P s) : Kept qs P (State.raiseThermal s kind ref code) := by
  unfold State.raiseThermal
  repeat' first
    | intro _ | (with_reducible first | assumption | apply keep_ite | apply keep_State_raise | apply keep_State_hifEvent)
    | split | dsimp only

theorem keep_State_settleEvents {s : State} (hK : Kept qs P s) : Kept qs P (State.settleEvents s) := by
  unfold State.settleEvents
  repeat' first | intro _ | (with_reducible first | assumption | apply keep_ite | apply keep_State_settleBook) | split | dsimp only

theorem recordBytes_length (seq gen : W64) (r : Rec) : (recordBytes seq gen r).length = 64 := by
  simp [recordBytes, leBytes_length]

theorem put_ring {l : List (Nat × List Byte)} (h : ∀ e ∈ l, e.1 < 4096 ∧ e.2.length = 64) (k : Nat) (v : List Byte) (hk : k < 4096)
    (hv : v.length = 64) : ∀ e ∈ put l k v, e.1 < 4096 ∧ e.2.length = 64 := by
  intro e he
  have := mem_put he
  rcases this with rfl | hm
  · exact ⟨hk, hv⟩
  · exact h e hm

theorem keep_State_commitRec {qs : List Instr} {P : PlanPred} {s : State} (r : _) (h : Kept qs P s) : Kept qs P (State.commitRec s r) := by
  obtain ⟨h1, h2, h3, h4, h5, h6⟩ := h
  exact ⟨h1, h2, h3, put_ring h4 _ _ (Nat.mod_lt _ (by decide)) (recordBytes_length _ _ _), h5, h6⟩

theorem keep_State_modHif (f : _) {s : State} (hK : Kept qs P s) : Kept qs P (State.modHif s f) := by
  unfold State.modHif
  repeat' first | intro _ | (with_reducible first | assumption | apply keep_ite) | simp only [kept_mk] | split | dsimp only

theorem keep_State_modQueue (q : _) (f : _) {s : State} (hK : Kept qs P s) : Kept qs P (State.modQueue s q f) := by
  unfold State.modQueue
  repeat' first | intro _ | (with_reducible first | assumption | apply keep_ite | apply keep_State_modHif) | simp only [kept_mk] | split | dsimp only

theorem keep_State_modJnl {qs : List Instr} {P : PlanPred} {s : State} {f : _} (h : Kept qs P s) (hf : ∀ e, (f e).fifo = e.fifo) (hr : ∀ e, (f e).ring = e.ring) : Kept qs P (State.modJnl s f) := by
  obtain ⟨h1, h2, h3, h4, h5, h6⟩ := h
  exact ⟨h1, h2, by show (f s.jnl).fifo.length ≤ _; rw [hf]; exact h3, by show ∀ e ∈ (f s.jnl).ring, _; rw [hr]; exact h4, h5, h6⟩

theorem keep_State_modCmd (seq : _) (f : _) {s : State} (hK : Kept qs P s) : Kept qs P (State.modCmd s seq f) := by
  unfold State.modCmd
  repeat' first | intro _ | (with_reducible first | assumption | apply keep_ite | apply keep_State_modHif) | simp only [kept_mk] | split | dsimp only

theorem keep_State_dropCmd (seq : _) {s : State} (hK : Kept qs P s) : Kept qs P (State.dropCmd s seq) := by
  unfold State.dropCmd
  repeat' first | intro _ | (with_reducible first | assumption | apply keep_ite | apply keep_State_modHif) | simp only [kept_mk] | split | dsimp only

theorem keep_State_startCmd (c : _) {s : State} (hK : Kept qs P s) : Kept qs P (State.startCmd s c) := by
  unfold State.startCmd
  repeat' first
    | intro _ | (with_reducible first | assumption | apply keep_ite | apply keep_State_modJnl | apply keep_State_modCmd | rfl)
    | simp only [kept_mk] | split | dsimp only

theorem keep_State_startCmds {qs : List Instr} {P : PlanPred} (n : Nat) {s : State} (h : Kept qs P s) : Kept qs P (State.startCmds n s) := by
  induction n generalizing s with
  | zero => exact h
  | succ n ih =>
    unfold State.startCmds
    split
    · exact h
    · exact ih (keep_State_startCmd _ h)

theorem keep_State_schedule {s : State} (hK : Kept qs P s) : Kept qs P (State.schedule s) := by
  unfold State.schedule
  repeat' first | intro _ | (with_reducible first | assumption | apply keep_ite | apply keep_State_startCmds) | split | dsimp only

theorem keep_State_endCmd (c : _) (status : _) (result : _) {s : State} (hK : Kept qs P s) : Kept qs P (State.endCmd s c status result) := by
  unfold State.endCmd
  repeat' first
    | intro _ | (with_reducible first | assumption | apply keep_ite | apply keep_State_modJnl | apply keep_State_modCmd | rfl)
    | simp only [kept_mk] | split | dsimp only

theorem keep_State_hostReadFail (c : _) {s : State} (hK : Kept qs P s) : Kept qs P (State.hostReadFail s c) := by
  unfold State.hostReadFail
  repeat' first
    | intro _ | (with_reducible first | assumption | apply keep_ite | apply keep_State_useFree | apply keep_State_modHif | apply keep_State_endCmd)
    | split | dsimp only

theorem keep_State_cmdCommitted (seq : _) (r : _) {s : State} (hK : Kept qs P s) : Kept qs P (State.cmdCommitted s seq r) := by
  unfold State.cmdCommitted
  repeat' first
    | intro _ | (with_reducible first
        | assumption | apply keep_ite | apply keep_State_modHif | apply keep_State_modCmd | apply keep_State_dropCmd | apply keep_State_schedule)
    | simp only [kept_mk] | split | dsimp only

theorem keep_State_abandonCmd (c : _) (reason : _) {s : State} (hK : Kept qs P s) : Kept qs P (State.abandonCmd s c reason) := by
  unfold State.abandonCmd
  repeat' first
    | intro _ | (with_reducible first | assumption | apply keep_ite | apply keep_State_modJnl | apply keep_State_modCmd | rfl)
    | simp only [kept_mk] | split | dsimp only

theorem keep_State_hostTerm (sub : _) (n : _) {s : State} (hK : Kept qs P s) : Kept qs P (State.hostTerm s sub n) := by
  unfold State.hostTerm
  repeat' first | intro _ | (with_reducible first | assumption | apply keep_ite | apply keep_State_bumpTerm) | split | dsimp only

theorem keep_State_settleQueues {s : State} (hK : Kept qs P s) : Kept qs P (State.settleQueues s) := by
  unfold State.settleQueues
  repeat' first | intro _ | (with_reducible first | assumption | apply keep_ite | apply keep_State_settleBook) | split | dsimp only

theorem keep_State_noteBp {s : State} (hK : Kept qs P s) : Kept qs P (State.noteBp s) := by
  unfold State.noteBp
  repeat' first
    | intro _ | (with_reducible first | assumption | apply keep_ite | apply keep_State_hifEvent | apply keep_State_modHif)
    | simp only [kept_mk] | split | dsimp only

theorem keep_State_commitCmd (r : _) (rest : _) {s : State} (hK : Kept qs P s) : Kept qs P (State.commitCmd s r rest) := by
  unfold State.commitCmd
  repeat' first
    | intro _ | (with_reducible first
        | assumption | apply keep_ite | apply keep_State_settleEvents | apply keep_State_commitRec | apply keep_State_modJnl
        | apply keep_State_cmdCommitted | rfl)
    | simp only [kept_mk] | split | dsimp only

theorem keep_State_commitItem {qs : List Instr} {P : PlanPred} {s : State} (i : _) (rest : List Item) (hl : rest.length ≤ 128) (h : Kept qs P s) : Kept qs P (State.commitItem s i rest) := by
  have h0 : Kept qs P (s.modJnl fun j => { j with fifo := rest, lastEvent := true }) := by
    obtain ⟨h1, h2, h3, h4, h5, h6⟩ := h
    exact ⟨h1, h2, hl, h4, h5, h6⟩
  unfold State.commitItem
  split
  · exact keep_State_settleEvents (keep_State_modJnl (keep_State_commitRec _ h0) (fun _ => rfl) (fun _ => rfl))
  · exact keep_State_hifEvent _ (keep_State_settleEvents (keep_State_modJnl (keep_State_commitRec _ h0) (fun _ => rfl) (fun _ => rfl)))

theorem keep_summaryClose {qs : List Instr} {P : PlanPred} {s : State} (h : Kept qs P s) : Kept qs P (summaryClose s) := by
  unfold summaryClose
  split
  · split
    · rename_i hl
      obtain ⟨h1, h2, h3, h4, h5, h6⟩ := h
      refine ⟨h1, h2, ?_, h4, h5, h6⟩
      show (s.jnl.fifo ++ _).length ≤ 128
      simp; omega
    · exact h
  · exact h

theorem keep_eventRaise (kind : _) (ref : _) (result : _) (tag : _) {s : State} (hK : Kept qs P s) : Kept qs P (eventRaise kind ref result tag s) :=
    by
  unfold eventRaise
  repeat' first
    | intro _ | (with_reducible first | assumption | apply keep_ite | apply keep_State_raise | apply keep_State_hifEvent)
    | split | dsimp only

theorem keep_journalWindowRead (slot : _) (ecc : _) {s : State} (hK : Kept qs P s) : Kept qs P (journalWindowRead slot ecc s) := by
  unfold journalWindowRead
  repeat' first
    | intro _ | (with_reducible first
        | assumption | apply keep_ite | apply keep_State_bump | apply keep_State_raise | apply keep_State_corrected
        | apply keep_State_uncorrectable | apply keep_State_modHif)
    | simp only [kept_mk] | split | dsimp only

theorem keep_State_modTrace (f : _) {s : State} (hK : Kept qs P s) : Kept qs P (State.modTrace s f) := by
  unfold State.modTrace
  repeat' first | intro _ | (with_reducible first | assumption | apply keep_ite) | simp only [kept_mk] | split | dsimp only

theorem keep_State_setSink (e : _) (k : _) {s : State} (hK : Kept qs P s) : Kept qs P (State.setSink s e k) := by
  unfold State.setSink
  repeat' first
    | intro _ | (with_reducible first | assumption | apply keep_ite | apply keep_State_modTrace)
    | simp only [kept_mk] | split | dsimp only

theorem keep_State_traceGenerated (n : _) {s : State} (hK : Kept qs P s) : Kept qs P (State.traceGenerated s n) := by
  unfold State.traceGenerated
  repeat' first | intro _ | (with_reducible first | assumption | apply keep_ite | apply keep_State_bumpTerm) | split | dsimp only

theorem keep_State_traceStored {s : State} (hK : Kept qs P s) : Kept qs P (State.traceStored s) := by
  unfold State.traceStored
  repeat' first | intro _ | (with_reducible first | assumption | apply keep_ite | apply keep_State_bumpTerm) | split | dsimp only

theorem keep_State_traceDropped {s : State} (hK : Kept qs P s) : Kept qs P (State.traceDropped s) := by
  unfold State.traceDropped
  repeat' first | intro _ | (with_reducible first | assumption | apply keep_ite | apply keep_State_bumpTerm) | split | dsimp only

theorem keep_State_settleTrace {s : State} (hK : Kept qs P s) : Kept qs P (State.settleTrace s) := by
  unfold State.settleTrace
  repeat' first | intro _ | (with_reducible first | assumption | apply keep_ite | apply keep_State_settleBook) | split | dsimp only

theorem keep_State_handPacket (b : _) (p : _) {s : State} (hK : Kept qs P s) : Kept qs P (State.handPacket s b p) := by
  unfold State.handPacket
  repeat' first
    | intro _ | (with_reducible first
        | assumption | apply keep_ite | apply keep_State_modBlk | apply keep_State_traceGenerated | apply keep_State_traceDropped)
    | simp only [kept_mk] | split | dsimp only

theorem keep_tracePacketClose (b : _) (why : _) {s : State} (hK : Kept qs P s) : Kept qs P (tracePacketClose b why s) := by
  unfold tracePacketClose
  repeat' first
    | intro _ | (with_reducible first | assumption | apply keep_ite | apply keep_State_modBlk | apply keep_State_handPacket)
    | simp only [kept_mk] | split | dsimp only

theorem keep_State_closeAndHand (b : _) {s : State} (hK : Kept qs P s) : Kept qs P (State.closeAndHand s b) := by
  unfold State.closeAndHand
  repeat' first
    | intro _ | (with_reducible first
        | assumption | apply keep_ite | apply keep_State_modBlk | apply keep_State_traceClose | apply keep_State_handPacket)
    | simp only [kept_mk] | split | dsimp only

theorem keep_tracePacketTimeout (b : _) {s : State} (hK : Kept qs P s) : Kept qs P (tracePacketTimeout b s) := by
  unfold tracePacketTimeout
  repeat' first
    | intro _ | (with_reducible first
        | assumption | apply keep_ite | apply keep_State_passWithin | apply keep_State_closeAndHand | apply keepopt_some | exact keepopt_none
        | refine keep_some (by assumption) ?_ | apply keep_getD)
    | simp only [kept_mk] | split | dsimp only

theorem keep_gts (b : _) {s : State} (hK : Kept qs P s) : Kept qs P (gts b s) := by
  unfold gts
  repeat' first
    | intro _ | (with_reducible first
        | assumption | apply keep_ite | apply keep_State_traceGts | apply keep_State_passWithin | apply keepopt_some | exact keepopt_none
        | refine keep_some (by assumption) ?_ | apply keep_getD)
    | simp only [kept_mk] | split | dsimp only

theorem keep_State_sinkDrop (e : _) {s : State} (hK : Kept qs P s) : Kept qs P (State.sinkDrop s e) := by
  unfold State.sinkDrop
  repeat' first
    | intro _ | (with_reducible first
        | assumption | apply keep_ite | apply keep_State_lost | apply keep_State_setSink | apply keep_State_traceDropped)
    | simp only [kept_mk] | split | dsimp only

theorem keep_State_sinkTake (e : _) (l : _) {s : State} (hK : Kept qs P s) : Kept qs P (State.sinkTake s e l) := by
  unfold State.sinkTake
  repeat' first
    | intro _ | (with_reducible first
        | assumption | apply keep_ite | apply keep_State_setSink | apply keep_State_traceDropped | apply keep_State_sinkDrop)
    | simp only [kept_mk] | split | dsimp only

theorem keep_State_sinkEntry (e : _) (l : _) {s : State} (hK : Kept qs P s) : Kept qs P (State.sinkEntry s e l) := by
  unfold State.sinkEntry
  repeat' first
    | intro _ | (with_reducible first
        | assumption | apply keep_ite | apply keep_State_modEdge | apply keep_State_hostWrite | apply keep_State_setSink)
    | simp only [kept_mk] | split | dsimp only

theorem keep_State_sinkMarker (e : _) {s : State} (hK : Kept qs P s) : Kept qs P (State.sinkMarker s e) := by
  unfold State.sinkMarker
  repeat' first
    | intro _ | (with_reducible first
        | assumption | apply keep_ite | apply keep_State_bump | apply keep_State_lost | apply keep_State_setSink | apply keep_State_sinkEntry)
    | simp only [kept_mk] | split | dsimp only

theorem keep_sinkStore (e : _) (hostOk : _) {s : State} (hK : Kept qs P s) : Kept qs P (sinkStore e hostOk s) := by
  unfold sinkStore
  repeat' first
    | intro _ | (with_reducible first
        | assumption | apply keep_ite | apply keep_State_modHif | apply keep_State_setSink | apply keep_State_traceStored
        | apply keep_State_sinkDrop | apply keep_State_sinkEntry | apply keep_State_sinkMarker)
    | simp only [kept_mk] | split | dsimp only

theorem keep_State_traceLeave (node : _) (p : _) {s : State} (hK : Kept qs P s) : Kept qs P (State.traceLeave s node p) := by
  unfold State.traceLeave
  repeat' first
    | intro _ | (with_reducible first
        | assumption | apply keep_ite | apply keep_State_modBlk | apply keep_State_sendPacket | apply keep_State_traceDropped)
    | simp only [kept_mk] | split | dsimp only

theorem keep_traceTransitTimeout (b : _) {s : State} (hK : Kept qs P s) : Kept qs P (traceTransitTimeout b s) := by
  unfold traceTransitTimeout
  repeat' first
    | intro _ | (with_reducible first
        | assumption | apply keep_ite | apply keep_State_modBlk | apply keep_State_setSink | apply keep_State_traceDropped
        | apply keep_State_sinkDrop)
    | simp only [kept_mk] | split | dsimp only

theorem keep_State_armQuarter (q : _) {s : State} (hK : Kept qs P s) : Kept qs P (State.armQuarter s q) := by
  unfold State.armQuarter
  repeat' first | intro _ | (with_reducible first | assumption | apply keep_ite | apply keep_foldl | apply keep_State_trcControl) | split | dsimp only

theorem keep_State_armHeld (q : _) {s : State} (hK : Kept qs P s) : Kept qs P (State.armHeld s q) := by
  unfold State.armHeld
  repeat' first
    | intro _ | (with_reducible first | assumption | apply keep_ite | apply keep_State_modTrace | apply keep_State_armQuarter)
    | simp only [kept_mk] | split | dsimp only

theorem keep_State_armTrace (c : _) {s : State} (hK : Kept qs P s) : Kept qs P (State.armTrace s c) := by
  unfold State.armTrace
  repeat' first
    | intro _ | (with_reducible first | assumption | apply keep_ite | apply keep_foldl | apply keep_State_modTrace | apply keep_State_armQuarter)
    | simp only [kept_mk] | split | dsimp only

theorem keep_State_disarmBlock (b : _) {s : State} (hK : Kept qs P s) : Kept qs P (State.disarmBlock s b) := by
  unfold State.disarmBlock
  repeat' first
    | intro _ | (with_reducible first | assumption | apply keep_ite | apply keep_State_modBlk | apply keep_State_traceClose)
    | simp only [kept_mk] | split | dsimp only

theorem keep_State_beginDisarm {s : State} (hK : Kept qs P s) : Kept qs P (State.beginDisarm s) := by
  unfold State.beginDisarm
  repeat' first
    | intro _ | (with_reducible first
        | assumption | apply keep_ite | apply keep_State_eachListed | apply keep_State_modTrace | apply keep_State_disarmBlock)
    | simp only [kept_mk] | split | dsimp only

theorem keep_State_endDisarm {s : State} (hK : Kept qs P s) : Kept qs P (State.endDisarm s) := by
  unfold State.endDisarm
  repeat' first
    | intro _ | (with_reducible first
        | assumption | apply keep_ite | apply keep_State_modTrace | apply keep_State_settleTrace | apply keep_State_sinkMarker)
    | simp only [kept_mk] | split | dsimp only

theorem keep_State_finishArm (c : _) {s : State} (hK : Kept qs P s) : Kept qs P (State.finishArm s c) := by
  unfold State.finishArm
  repeat' first
    | intro _ | (with_reducible first | assumption | apply keep_ite | apply keep_State_endCmd | apply keep_State_armTrace)
    | split | dsimp only

theorem keep_traceDisarmComplete {s : State} (hK : Kept qs P s) : Kept qs P (traceDisarmComplete s) := by
  unfold traceDisarmComplete
  repeat' first
    | intro _ | (with_reducible first | assumption | apply keep_ite | apply keep_State_endDisarm | apply keep_State_finishArm)
    | simp only [kept_mk] | split | dsimp only

theorem keep_State_flushBlock (b : _) {s : State} (hK : Kept qs P s) : Kept qs P (State.flushBlock s b) := by
  unfold State.flushBlock
  repeat' first
    | intro _ | (with_reducible first
        | assumption | apply keep_ite | apply keep_foldl | apply keep_State_modBlk | apply keep_State_traceGenerated | apply keep_State_sinkTake
        | apply keep_sinkStore)
    | simp only [kept_mk] | split | dsimp only

theorem keep_State_disarmNow {s : State} (hK : Kept qs P s) : Kept qs P (State.disarmNow s) := by
  unfold State.disarmNow
  repeat' first
    | intro _ | (with_reducible first
        | assumption | apply keep_ite | apply keep_foldl | apply keep_State_eachListed | apply keep_State_sinkTake | apply keep_sinkStore
        | apply keep_State_beginDisarm | apply keep_State_endDisarm | apply keep_State_flushBlock)
    | simp only [kept_mk] | split | dsimp only

theorem keep_State_notePeak {s : State} (hK : Kept qs P s) : Kept qs P (State.notePeak s) := by
  unfold State.notePeak
  repeat' first | intro _ | (with_reducible first | assumption | apply keep_ite) | simp only [kept_mk] | simp only [kept_mkE] | split | dsimp only

theorem keep_State_setPll (q : _) (p : _) {s : State} (hK : Kept qs P s) : Kept qs P (State.setPll s q p) := by
  unfold State.setPll
  repeat' first | intro _ | (with_reducible first | assumption | apply keep_ite) | simp only [kept_mk] | split | dsimp only

theorem keep_State_quarterDeep (q : _) {s : State} (hK : Kept qs P s) : Kept qs P (State.quarterDeep s q) := by
  unfold State.quarterDeep
  repeat' first
    | intro _ | (with_reducible first
        | assumption | apply keep_ite | apply keep_State_mapQuarter | apply keep_State_eachListed | apply keep_State_changeMode)
    | split | dsimp only

theorem keep_State_startPll (q : _) (mhz : _) {s : State} (hK : Kept qs P s) : Kept qs P (State.startPll s q mhz) := by
  unfold State.startPll
  repeat' first
    | intro _ | (with_reducible first | assumption | apply keep_ite | apply keep_State_notePeak | apply keep_State_setPll)
    | simp only [kept_mk] | split | dsimp only

theorem keep_State_releasePll (q : _) {s : State} (hK : Kept qs P s) : Kept qs P (State.releasePll s q) := by
  unfold State.releasePll
  repeat' first
    | intro _ | (with_reducible first
        | assumption | apply keep_ite | apply keep_State_armHeld | apply keep_State_notePeak | apply keep_State_setPll
        | apply keep_State_quarterDeep)
    | simp only [kept_mk] | split | dsimp only

theorem keep_State_stopPll (q : _) {s : State} (hK : Kept qs P s) : Kept qs P (State.stopPll s q) := by
  unfold State.stopPll
  repeat' first
    | intro _ | (with_reducible first | assumption | apply keep_ite | apply keep_State_setPll | apply keep_State_quarterDeep)
    | simp only [kept_mk] | split | dsimp only

theorem keep_State_planMode (b : _) (m : _) {s : State} (hK : Kept qs P s) : Kept qs P (State.planMode s b m) := by
  unfold State.planMode
  repeat' first
    | intro _ | (with_reducible first | assumption | apply keep_ite | apply keep_State_modBlk | apply keep_State_changeMode)
    | simp only [kept_mk] | split | dsimp only

theorem keep_State_quarterModes (q : _) (before : _) {s : State} (hK : Kept qs P s) : Kept qs P (State.quarterModes s q before) := by
  unfold State.quarterModes
  repeat' first
    | intro _ | (with_reducible first
        | assumption | apply keep_ite | apply keep_State_modBlk | apply keep_State_eachPlaced | apply keep_State_setPll
        | apply keep_State_quarterDeep | apply keep_State_planMode)
    | simp only [kept_mk] | split | dsimp only

theorem keep_State_planSleep {s : State} (hK : Kept qs P s) : Kept qs P (State.planSleep s) := by
  unfold State.planSleep
  repeat' first
    | intro _ | (with_reducible first
        | assumption | apply keep_ite | apply keep_foldl | apply keep_State_modBlk | apply keep_State_eachPlaced | apply keep_State_changeMode)
    | simp only [kept_mk] | split | dsimp only

theorem keep_State_epochModes (first : _) {s : State} (hK : Kept qs P s) : Kept qs P (State.epochModes s first) := by
  unfold State.epochModes
  repeat' first
    | intro _ | (with_reducible first | assumption | apply keep_ite | apply keep_foldl | apply keep_State_notePeak | apply keep_State_quarterModes)
    | split | dsimp only

theorem keep_State_bubbleModes {s : State} (hK : Kept qs P s) : Kept qs P (State.bubbleModes s) := by
  unfold State.bubbleModes
  repeat' first
    | intro _ | (with_reducible first
        | assumption | apply keep_ite | apply keep_State_modBlk | apply keep_State_eachPlaced | apply keep_State_changeMode
        | apply keep_State_notePeak)
    | simp only [kept_mk] | split | dsimp only

theorem keep_powerEntryApply (b : _) {s : State} (hK : Kept qs P s) : Kept qs P (powerEntryApply b s) := by
  unfold powerEntryApply
  repeat' first
    | intro _ | (with_reducible first
        | assumption | apply keep_ite | apply keep_State_modBlk | apply keep_State_overrun | apply keep_State_advanceTo | apply keep_State_notePeak
        | apply keep_State_planMode)
    | simp only [kept_mk] | split | dsimp only

theorem keep_wakeComplete (b : _) {s : State} (hK : Kept qs P s) : Kept qs P (wakeComplete b s) := by
  unfold wakeComplete
  repeat' first
    | intro _ | (with_reducible first
        | assumption | apply keep_ite | apply keep_State_wakeDone | apply keep_State_passWithin | apply keep_State_notePeak | apply keepopt_some
        | exact keepopt_none | refine keep_some (by assumption) ?_ | apply keep_getD)
    | simp only [kept_mk] | split | dsimp only

theorem keep_State_toPllStart (q : _) {s : State} (hK : Kept qs P s) : KeptOpt qs P (State.toPllStart s q) := by
  unfold State.toPllStart
  repeat' first
    | intro _ | (with_reducible first
        | assumption | apply keep_ite | apply keep_State_passWithin | apply keepopt_some | exact keepopt_none | refine keep_some (by assumption) ?_
        | apply keep_getD)
    | simp only [kept_mk] | split | dsimp only

theorem keep_quarterPllStart (q : _) {s : State} (hK : Kept qs P s) : Kept qs P (quarterPllStart q s) := by
  unfold quarterPllStart
  repeat' first
    | intro _ | (with_reducible first
        | assumption | apply keep_ite | apply keep_State_startPll | apply keep_State_toPllStart | apply keepopt_some | exact keepopt_none
        | refine keep_some (by assumption) ?_ | apply keep_getD)
    | simp only [kept_mk] | split | dsimp only

theorem keep_quarterPllRelease (q : _) {s : State} (hK : Kept qs P s) : Kept qs P (quarterPllRelease q s) := by
  unfold quarterPllRelease
  repeat' first
    | intro _ | (with_reducible first
        | assumption | apply keep_ite | apply keep_State_passWithin | apply keep_State_releasePll | apply keepopt_some | exact keepopt_none
        | refine keep_some (by assumption) ?_ | apply keep_getD)
    | simp only [kept_mk] | split | dsimp only

theorem keep_quarterPllStop (q : _) {s : State} (hK : Kept qs P s) : Kept qs P (quarterPllStop q s) := by
  unfold quarterPllStop
  repeat' first | intro _ | (with_reducible first | assumption | apply keep_ite | apply keep_State_stopPll) | simp only [kept_mk] | split | dsimp only

theorem keep_State_modTime {qs : List Instr} {P : PlanPred} {s : State} {f : _} (h : Kept qs P s) (hf : ∀ e, (f e).ns = e.ns) : Kept qs P (State.modTime s f) := by
  obtain ⟨h1, h2, h3, h4, h5, h6⟩ := h
  exact ⟨h1, by show (f s.time).ns < _; rw [hf]; exact h2, h3, h4, h5, h6⟩

theorem keep_State_timeEvent (code : _) (old : _) {s : State} (hK : Kept qs P s) : Kept qs P (State.timeEvent s code old) := by
  unfold State.timeEvent
  repeat' first | intro _ | (with_reducible first | assumption | apply keep_ite | apply keep_State_raise) | split | dsimp only

theorem keep_State_oneAcy {s : State} (hK : Kept qs P s) : Kept qs P (State.oneAcy s) := by
  unfold State.oneAcy
  repeat' first
    | intro _ | (with_reducible first
        | assumption | apply keep_ite | apply keep_State_passWithin | apply keepopt_some | exact keepopt_none | refine keep_some (by assumption) ?_
        | apply keep_getD)
    | split | dsimp only

theorem keep_State_setLocks (t : _) (f : _) (old : _) {s : State} (hK : Kept qs P s) : Kept qs P (State.setLocks s t f old) := by
  unfold State.setLocks
  repeat' first
    | intro _ | (with_reducible first | assumption | apply keep_ite | apply keep_State_modTime | apply keep_State_timeEvent | rfl)
    | simp only [kept_mk] | split | dsimp only

theorem keep_State_followValid (old : _) {s : State} (hK : Kept qs P s) : Kept qs P (State.followValid s old) := by
  unfold State.followValid
  repeat' first | intro _ | (with_reducible first | assumption | apply keep_ite | apply keep_State_setLocks) | split | dsimp only

theorem keep_State_locksAfterSet (old : _) {s : State} (hK : Kept qs P s) : Kept qs P (State.locksAfterSet s old) := by
  unfold State.locksAfterSet
  repeat' first
    | intro _ | (with_reducible first | assumption | apply keep_ite | apply keep_State_setLocks | apply keep_State_followValid)
    | split | dsimp only

theorem keep_State_refuseTime {s : State} (hK : Kept qs P s) : Kept qs P (State.refuseTime s) := by
  unfold State.refuseTime
  repeat' first
    | intro _ | (with_reducible first | assumption | apply keep_ite | apply keep_State_modTime | apply keep_State_timeEvent | rfl)
    | simp only [kept_mk] | split | dsimp only

theorem keep_setTime {qs : List Instr} {P : PlanPred} {s : State} (ns : Nat) (sec : BitVec 32) (v : Bool) (hn : ns < 1000000000) (h : Kept qs P s) :
    Kept qs P (s.modTime fun t => { t.set ns sec with valid := v }) := by
  obtain ⟨h1, h2, h3, h4, h5, h6⟩ := h
  exact ⟨h1, hn, h3, h4, h5, h6⟩

theorem keep_State_applyTime {qs : List Instr} {P : PlanPred} {s : State} (h : Kept qs P s) : Kept qs P (State.applyTime s).1 := by
  unfold State.applyTime
  dsimp only
  split
  · exact keep_State_refuseTime h
  · split
    · exact keep_State_refuseTime h
    · refine keep_State_locksAfterSet _ (keep_State_timeEvent _ _ (keep_setTime _ _ true (by omega) (keep_State_oneAcy h)))

theorem keep_State_timeSample {qs : List Instr} {P : PlanPred} {s : State} (x : _) (ns : _) (sec : _) (h : Kept qs P s) (hn : ns < 1000000000) :
    Kept qs P (State.timeSample s x ns sec) := by
  have hc : Kept qs P (s.modTime fun t => t.count x.natAbs) := keep_State_modTime h (fun _ => rfl)
  unfold State.timeSample
  dsimp only
  split
  · refine keep_State_setLocks _ _ _ (keep_State_timeEvent _ _ ?_)
    obtain ⟨h1, h2, h3, h4, h5, h6⟩ := hc
    exact ⟨h1, hn, h3, h4, h5, h6⟩
  · exact keep_State_setLocks _ _ _ (keep_State_modTime hc (fun _ => rfl))

theorem keep_State_setSource (v : _) {s : State} (hK : Kept qs P s) : Kept qs P (State.setSource s v) := by
  unfold State.setSource
  repeat' first
    | intro _ | (with_reducible first
        | assumption | apply keep_ite | apply keep_State_modTime | apply keep_State_timeEvent | apply keep_State_followValid | rfl)
    | simp only [kept_mk] | split | dsimp only

theorem keep_State_eletteSample (local_ : _) (sample : _) {s : State} (hK : Kept qs P s) : Kept qs P (State.eletteSample s local_ sample) := by
  unfold State.eletteSample
  repeat' first
    | intro _ | (with_reducible first | assumption | apply keep_ite | apply keep_State_timeSample | apply keep_State_setSource)
    | exact Nat.mod_lt _ (by decide) | split | dsimp only

theorem keep_aonTimeNsRead {s : State} (hK : Kept qs P s) : Kept qs P (aonTimeNsRead s) := by
  unfold aonTimeNsRead
  repeat' first
    | intro _ | (with_reducible first | assumption | apply keep_ite | apply keep_State_modTime | rfl)
    | simp only [kept_mk] | split | dsimp only

theorem keep_timeSecondRollover {s : State} (hK : Kept qs P s) : Kept qs P (timeSecondRollover s) := by
  unfold timeSecondRollover
  repeat' first
    | intro _ | (with_reducible first
        | assumption | apply keep_ite | apply keep_State_passWithin | apply keepopt_some | exact keepopt_none | refine keep_some (by assumption) ?_
        | apply keep_getD)
    | split | dsimp only

theorem keep_slewEnd {s : State} (hK : Kept qs P s) : Kept qs P (slewEnd s) := by
  unfold slewEnd
  repeat' first
    | intro _ | (with_reducible first
        | assumption | apply keep_ite | apply keep_State_passWithin | apply keep_State_modTime | apply keepopt_some | exact keepopt_none
        | refine keep_some (by assumption) ?_ | apply keep_getD | rfl)
    | simp only [kept_mk] | split | dsimp only

theorem keep_ppsEdge (sub : _) {s : State} (hK : Kept qs P s) : Kept qs P (ppsEdge sub s) := by
  unfold ppsEdge
  repeat' first
    | intro _ | (with_reducible first
        | assumption | apply keep_ite | apply keep_State_modTime | apply keep_State_timeSample | apply keep_State_setSource | rfl)
    | simp only [kept_mk] | exact Nat.mod_lt _ (by decide) | split | dsimp only

theorem keep_timeLockTimeout {s : State} (hK : Kept qs P s) : Kept qs P (timeLockTimeout s) := by
  unfold timeLockTimeout
  repeat' first
    | intro _ | (with_reducible first
        | assumption | apply keep_ite | apply keep_State_modTime | apply keep_State_setLocks | apply keep_State_setSource | rfl)
    | simp only [kept_mk] | split | dsimp only

theorem keep_frequencyLockLoss {s : State} (hK : Kept qs P s) : Kept qs P (frequencyLockLoss s) := by
  unfold frequencyLockLoss
  repeat' first | intro _ | (with_reducible first | assumption | apply keep_ite | apply keep_State_setLocks) | split | dsimp only

theorem keep_ppsOutput {s : State} (hK : Kept qs P s) : Kept qs P (ppsOutput s) := by
  unfold ppsOutput
  repeat' first
    | intro _ | (with_reducible first | assumption | apply keep_ite | apply keep_State_modTime | rfl)
    | simp only [kept_mk] | split | dsimp only

end Sys2Proof.Machine
end

