-- ==== Sys2Proof/Laws/KeptEpoch.lean ====
section
/-! SUPPORT. What epochs, messages, links and repair keep: one lemma for each operation. -/

set_option maxRecDepth 4000

namespace Sys2Proof.Machine

variable {qs : List Instr} {P : PlanPred}

theorem keep_State_modEpoch {qs : List Instr} {P : PlanPred} {s : State} {f : _} (h : Kept qs P s) (hf : ∀ e, (f e).active = e.active) : Kept qs P (State.modEpoch s f) := by
  obtain ⟨h1, h2, h3, h4, h5, h6⟩ := h
  exact ⟨h1, h2, h3, h4, h5, by show P _ _ _ _ (f s.epoch).active; rw [hf]; exact h6⟩

theorem keep_State_modPl (f : _) {s : State} (hK : Kept qs P s) : Kept qs P (State.modPl s f) := by
  unfold State.modPl
  repeat' first | intro _ | (with_reducible first | assumption | apply keep_ite) | simp only [kept_mk] | split | dsimp only

theorem keep_State_mapIntakes (f : _) {s : State} (hK : Kept qs P s) : Kept qs P (State.mapIntakes s f) := by
  unfold State.mapIntakes
  repeat' first | intro _ | (with_reducible first | assumption | apply keep_ite) | simp only [kept_mk] | split | dsimp only

theorem keep_State_mapOutlets (f : _) {s : State} (hK : Kept qs P s) : Kept qs P (State.mapOutlets s f) := by
  unfold State.mapOutlets
  repeat' first | intro _ | (with_reducible first | assumption | apply keep_ite) | simp only [kept_mk] | split | dsimp only

theorem keep_State_settleMessages (sent : _) (recv : _) (flight : _) {s : State} (hK : Kept qs P s) : Kept qs P (State.settleMessages s sent recv
    flight).1 := by
  unfold State.settleMessages
  repeat' first
    | intro _ | (with_reducible first | assumption | apply keep_ite | apply keep_State_settleBook | refine keep_fst (by assumption) ?_)
    | split | dsimp only

theorem keep_State_settleStop {s : State} (hK : Kept qs P s) : Kept qs P (State.settleStop s) := by
  unfold State.settleStop
  repeat' first
    | intro _ | (with_reducible first | assumption | apply keep_ite | apply keep_State_settleMessages | refine keep_fst (by assumption) ?_)
    | split | dsimp only

theorem keep_State_settlePower {s : State} (hK : Kept qs P s) : Kept qs P (State.settlePower s) := by
  unfold State.settlePower
  repeat' first
    | intro _ | (with_reducible first
        | assumption | apply keep_ite | apply keep_State_settleBook | apply keep_State_raiseThermal | apply keep_State_modEpoch | rfl)
    | simp only [kept_mk] | split | dsimp only

theorem keep_State_settleSlots (epoch : _) (void : _) {s : State} (hK : Kept qs P s) : Kept qs P (State.settleSlots s epoch void) := by
  unfold State.settleSlots
  repeat' first
    | intro _ | (with_reducible first | assumption | apply keep_ite | apply keep_State_mapIntakes | apply keep_State_mapOutlets)
    | split | dsimp only

theorem keep_State_settleVoid (e : _) (f : _) {s : State} (hK : Kept qs P s) : Kept qs P (State.settleVoid s e f) := by
  unfold State.settleVoid
  repeat' first
    | intro _ | (with_reducible first
        | assumption | apply keep_ite | apply keep_State_bump | apply keep_State_raise | apply keep_State_hifEvent | apply keep_State_settleSlots)
    | split | dsimp only

theorem keep_State_settleRun (e : _) (f : _) {s : State} (hK : Kept qs P s) : Kept qs P (State.settleRun s e f) := by
  unfold State.settleRun
  repeat' first
    | intro _ | (with_reducible first
        | assumption | apply keep_ite | apply keep_State_modEpoch | apply keep_State_settleSlots | apply keep_State_settleVoid | rfl)
    | simp only [kept_mk] | split | dsimp only

theorem keep_State_settleEpoch {s : State} (hK : Kept qs P s) : Kept qs P (State.settleEpoch s) := by
  unfold State.settleEpoch
  repeat' first
    | intro _ | (with_reducible first
        | assumption | apply keep_ite | apply keep_State_modEpoch | apply keep_State_settleMessages | apply keep_State_settlePower
        | apply keep_State_settleRun | refine keep_fst (by assumption) ?_ | rfl)
    | split | dsimp only

theorem keep_State_enterHalted {qs : List Instr} {s : State} (row : _) (now : _) (h : Kept qs isValid s) : Kept qs planOk (State.enterHalted s row now) := by
  unfold State.enterHalted
  refine keep_State_hifEvent _ (keep_State_planChange (P := isValid) _ ?_ (fun h => h))
  refine keep_State_raise _ _ _ _ (keep_State_modEpoch ?_ (fun _ => rfl))
  exact keep_State_settleStop (keep_State_discardHeld _ h)

theorem keep_State_haltNext (row : _) {s : State} (hK : Kept qs P s) : Kept qs P (State.haltNext s row) := by
  unfold State.haltNext
  repeat' first
    | intro _ | (with_reducible first | assumption | apply keep_ite | apply keep_State_modEpoch | rfl)
    | simp only [kept_mk] | split | dsimp only

theorem keep_State_voidNow (row : _) {s : State} (hK : Kept qs P s) : Kept qs P (State.voidNow s row) := by
  unfold State.voidNow
  repeat' first
    | intro _ | (with_reducible first
        | assumption | apply keep_ite | apply keep_State_modEpoch | apply keep_State_settleVoid | apply keep_State_settleEpoch | rfl)
    | simp only [kept_mk] | split | dsimp only

theorem keep_State_haltNow {qs : List Instr} {s : State} (row : _) (h : Kept qs planOk s) : Kept qs planOk (State.haltNow s row) := by
  unfold State.haltNow
  split
  · rename_i hm
    have hv : Kept qs isValid s := (h.okValid_of_moves (planMoves_cases hm)).valid
    exact keep_State_enterHalted _ _ (keep_State_voidNow _ (keep_State_mapAll _ hv))
  · exact h

theorem keep_State_latch {s : State} (hK : Kept qs P s) : Kept qs P (State.latch s) := by
  unfold State.latch
  repeat' first
    | intro _ | (with_reducible first | assumption | apply keep_ite | apply keep_State_modEpoch | rfl)
    | simp only [kept_mk] | split | dsimp only

theorem keep_State_noteLinkOut (p : _) {s : State} (hK : Kept qs P s) : Kept qs P (State.noteLinkOut s p) := by
  unfold State.noteLinkOut
  repeat' first
    | intro _ | (with_reducible first | assumption | apply keep_ite | apply keep_State_charge | apply keep_State_modEpoch | rfl)
    | simp only [kept_mk] | split | dsimp only

theorem keep_State_newPortEpoch {s : State} (hK : Kept qs P s) : Kept qs P (State.newPortEpoch s) := by
  unfold State.newPortEpoch
  repeat' first
    | intro _ | (with_reducible first
        | assumption | apply keep_ite | apply keep_State_eachPort | apply keep_State_modEpoch | apply keep_State_noteLinkOut | rfl)
    | simp only [kept_mk] | split | dsimp only

theorem keep_State_toBound {qs : List Instr} {s : State} (h : Kept qs isValid s) :
    Kept qs (fun _ v _ _ a => v = true ∧ a = false) (State.toBound s) := by
  have h' := keep_State_settleStop (keep_State_discardHeld false h)
  unfold State.toBound
  dsimp only
  generalize (s.discardHeld false).settleStop = t at h' ⊢
  obtain ⟨h1, h2, h3, h4, h5, h6⟩ := h'
  exact ⟨h1, h2, h3, h4, h5, h6, rfl⟩

theorem keep_State_stopHere {qs : List Instr} {s : State} (h : Kept qs isValid s) : Kept qs planOk (State.stopHere s) := by
  unfold State.stopHere
  refine keep_State_planChange (P := fun _ v _ _ a => v = true ∧ a = false) _ (keep_State_toBound (keep_State_settleEpoch ?_)) (fun h => h)
  exact keep_State_modEpoch (keep_State_latch (keep_State_pass _ h)) (fun _ => rfl)

theorem keep_epochBoundary {qs : List Instr} {s : State} (h : Kept qs planOk s) : Kept qs planOk (epochBoundary s) := by
  unfold epochBoundary
  dsimp only
  split
  · exact h
  · rename_i ha
    have hv := h.okValid_of_active (by simp [Epoch.atEnd] at ha; exact ha.1.1)
    split
    · exact h
    · split
      · exact keep_State_stopHere hv.valid
      · exact keep_State_epochModes _ (keep_State_newPortEpoch (keep_State_modEpoch (keep_State_latch (keep_State_pass _ h)) (fun _ => rfl)))

theorem keep_planStopBoundary {qs : List Instr} {s : State} (h : Kept qs planOk s) : Kept qs planOk (planStopBoundary s) := by
  unfold planStopBoundary
  split
  · rename_i hs
    have hv := h.okValid_of_moves (.inr (.inr hs))
    split
    · exact keep_State_stopHere hv.valid
    · split
      · exact keep_State_planChange (P := fun _ v _ _ a => v = true ∧ a = false) _ (keep_State_toBound (keep_State_settleEpoch hv.valid)) (fun h => h)
      · split
        · exact keep_State_planChange (P := fun _ v _ _ a => v = true ∧ a = false) _ (keep_State_toBound hv.valid) (fun h => h)
        · exact h
  · exact h

/-- A plan whose first epoch is in progress is RUNNING, or STOPPING still (R56). -/
theorem keep_started {s : State} (h : Kept qs (fun p v _ _ a => (p = .starting ∨ p = .stopping) ∧ v = true ∧ a = true) s) :
    Kept qs planOk (if s.plan = .starting then s.planChange .running else s) := by
  refine keep_cases (fun _ => keep_State_planChange _ h (fun h => h.2)) fun hn => h.weaken fun h => ?_
  rcases h.1 with hh | hh
  · exact absurd hh hn
  · rw [hh]; exact h.2.1

theorem keep_planStartTime {s : State} (h : Kept qs planOk s) : Kept qs planOk (planStartTime s) := by
  unfold planStartTime
  refine keep_cases (fun hg => ?_) fun _ => h
  have hp : s.plan = .starting ∨ s.plan = .stopping := by
    simp at hg; rcases hg.1 with h | h
    · exact .inl h
    · exact .inr h.1
  have hv := h.okValid_of_moves (by rcases hp with h | h <;> simp [h])
  have h1 : Kept qs (fun p v _ _ _ => (p = .starting ∨ p = .stopping) ∧ v = true) s := h.weaken fun _ => ⟨hp, hv.plan.2⟩
  have h2 := keep_State_pass (s.cyclesTo s.pl.startNs) h1
  have h3 : ∀ f : Epoch → Epoch, (∀ e, (f e).active = true) → Kept qs (fun p v _ _ a => (p = .starting ∨ p = .stopping) ∧ v = true ∧ a = true)
      ((s.pass (s.cyclesTo s.pl.startNs)).modEpoch f) := by
    intro f hf
    obtain ⟨a1, a2, a3, a4, a5, a6⟩ := h2
    exact ⟨a1, a2, a3, a4, a5, a6.1, a6.2, hf _⟩
  have h4 := fun f hf => keep_State_newPortEpoch (h3 f hf)
  refine keep_ite ?_ (keep_State_epochModes _ ?_)
  · exact keep_State_planChange (P := fun _ v _ _ a => v = true ∧ a = false) _ (keep_State_toBound (keep_State_pass _ hv.valid)) (fun h => h)
  exact keep_started (h4 _ (fun _ => rfl))

theorem keep_gateInstant {qs : List Instr} {s : State} (h : Kept qs planOk s) : Kept qs planOk (gateInstant s) := by
  unfold gateInstant
  dsimp only
  split
  · rename_i ha
    have hv := keep_State_settleEpoch (keep_State_advanceTo 48 (h.okValid_of_active (by simp at ha; exact ha.1.1.1)))
    have key : ∀ t, Kept qs planOk t → Kept qs planOk
        (if (t.modPl fun p => { p with recs := p.recs.filter fun r => decide (t.epoch.num < r.epoch + 64) }).gateCause = 0 then t else t) := by
      intro t ht; split <;> exact ht
    have halt : Kept qs planOk (if ((s.advanceTo 48).settleEpoch).plan = .halted then ((s.advanceTo 48).settleEpoch)
      else match ((s.advanceTo 48).settleEpoch).epoch.haltAt with
        | some row => ((s.advanceTo 48).settleEpoch).enterHalted row false
        | none =>
          if (decide (s.epoch.prevRan = .run) && decide (((s.advanceTo 48).settleEpoch).pl.voidLimit ≤ ((s.advanceTo 48).settleEpoch).epoch.nxt.streak.toNat) && decide (((s.advanceTo 48).settleEpoch).epoch.nxt.prev = .void)) then ((s.advanceTo 48).settleEpoch).enterHalted (BitVec.ofNat 8 rowStreak) false
          else if ((s.advanceTo 48).settleEpoch).thermal.stop then (((s.advanceTo 48).settleEpoch).enterHalted (BitVec.ofNat 8 rowThermal) false).planSleep
          else ((s.advanceTo 48).settleEpoch)) := by
      split
      · exact hv.ok
      · split
        · exact keep_State_enterHalted _ _ hv.valid
        · split
          · exact keep_State_enterHalted _ _ hv.valid
          · split
            · exact keep_State_planSleep (keep_State_enterHalted _ _ hv.valid)
            · exact hv.ok
    generalize (if ((s.advanceTo 48).settleEpoch).plan = .halted then _ else _ : State) = t at halt ⊢
    split
    · exact keep_State_modEpoch (keep_State_modPl _ (keep_State_mapIntakes _ (keep_State_modPl _ halt))) (fun _ => rfl)
    · exact keep_State_modEpoch (keep_State_bump _ _ _ (keep_State_modPl _ halt)) (fun _ => rfl)
  · exact h

theorem keep_State_startPrograms (missed : _) {s : State} (hK : Kept qs P s) : Kept qs P (State.startPrograms s missed) := by
  unfold State.startPrograms
  repeat' first
    | intro _ | (with_reducible first
        | assumption | apply keep_ite | apply keep_State_setBlk | apply keep_State_modBlk | apply keep_State_eachPlaced)
    | simp only [kept_mk] | split | dsimp only

theorem keep_State_takeOutlets {s : State} (hK : Kept qs P s) : Kept qs P (State.takeOutlets s) := by
  unfold State.takeOutlets
  repeat' first
    | intro _ | (with_reducible first
        | assumption | apply keep_ite | apply keep_foldl | apply keep_State_bump | apply keep_State_raise | apply keep_State_mapOutlets)
    | split | dsimp only

theorem keep_State_beginRun (missed : _) {s : State} (hK : Kept qs P s) : Kept qs P (State.beginRun s missed) := by
  unfold State.beginRun
  repeat' first
    | intro _ | (with_reducible first
        | assumption | apply keep_ite | apply keep_State_mapAll | apply keep_State_mapIntakes | apply keep_State_startPrograms
        | apply keep_State_takeOutlets)
    | simp only [kept_mk] | split | dsimp only

theorem keep_State_beginBubble {s : State} (hK : Kept qs P s) : Kept qs P (State.beginBubble s) := by
  unfold State.beginBubble
  repeat' first
    | intro _ | (with_reducible first
        | assumption | apply keep_ite | apply keep_State_bump | apply keep_State_receivedWords | apply keep_State_modPort
        | apply keep_State_eachPort | apply keep_State_bubbleModes | apply keep_State_mapOutlets | apply keep_State_hold)
    | simp only [kept_mk] | split | dsimp only

theorem keep_gateDecisionEffect (missed : _) {s : State} (hK : Kept qs P s) : Kept qs P (gateDecisionEffect missed s) := by
  unfold gateDecisionEffect
  repeat' first
    | intro _ | (with_reducible first
        | assumption | apply keep_ite | apply keep_State_advanceTo | apply keep_State_modEpoch | apply keep_State_haltNext
        | apply keep_State_beginRun | apply keep_State_beginBubble | rfl)
    | simp only [kept_mk] | split | dsimp only

theorem keep_State_chargeMany (row : _) (blk : _) (n : _) {s : State} (hK : Kept qs P s) : Kept qs P (State.chargeMany s row blk n) := by
  unfold State.chargeMany
  repeat' first | intro _ | (with_reducible first | assumption | apply keep_ite | apply keep_foldl | apply keep_State_charge) | split | dsimp only

theorem keep_State_endBlock (b : _) {s : State} (hK : Kept qs P s) : Kept qs P (State.endBlock s b) := by
  unfold State.endBlock
  repeat' first
    | intro _ | (with_reducible first
        | assumption | apply keep_ite | apply keep_State_modBlk | apply keep_State_receivedWords | apply keep_State_overrun
        | apply keep_State_chargeMany | apply keep_State_hold)
    | simp only [kept_mk] | split | dsimp only

theorem keep_State_endOutlet (x : _) {s : State} (hK : Kept qs P s) : Kept qs P (State.endOutlet s x) := by
  unfold State.endOutlet
  repeat' first
    | intro _ | (with_reducible first
        | assumption | apply keep_ite | apply keep_State_receivedWords | apply keep_State_charge | apply keep_State_chargeMany
        | apply keep_State_hold)
    | simp only [kept_mk] | split | dsimp only

theorem keep_State_endOutlets {s : State} (hK : Kept qs P s) : Kept qs P (State.endOutlets s) := by
  unfold State.endOutlets
  repeat' first
    | intro _ | (with_reducible first | assumption | apply keep_ite | apply keep_foldl | apply keep_State_mapOutlets | apply keep_State_endOutlet)
    | split | dsimp only

theorem keep_epochEnd {s : State} (hK : Kept qs P s) : Kept qs P (epochEnd s) := by
  unfold epochEnd
  repeat' first
    | intro _ | (with_reducible first
        | assumption | apply keep_ite | apply keep_State_eachPlaced | apply keep_State_keepNext | apply keep_State_advanceTo
        | apply keep_State_modEdge | apply keep_State_modPort | apply keep_State_eachPort | apply keep_State_modEpoch | apply keep_State_endBlock
        | apply keep_State_endOutlets | rfl)
    | simp only [kept_mk] | split | dsimp only

theorem keep_State_modXng (b : _) (f : _) {s : State} (hK : Kept qs P s) : Kept qs P (State.modXng s b f) := by
  unfold State.modXng
  repeat' first | intro _ | (with_reducible first | assumption | apply keep_ite | apply keep_State_modBlk) | simp only [kept_mk] | split | dsimp only

theorem keep_State_modMsg (b : _) (f : _) {s : State} (hK : Kept qs P s) : Kept qs P (State.modMsg s b f) := by
  unfold State.modMsg
  repeat' first | intro _ | (with_reducible first | assumption | apply keep_ite | apply keep_State_modBlk) | simp only [kept_mk] | split | dsimp only

theorem keep_State_leave (b : _) (c : _) (f : _) (o : _) {s : State} (hK : Kept qs P s) : Kept qs P (State.leave s b c f o) := by
  unfold State.leave
  repeat' first
    | intro _ | (with_reducible first | assumption | apply keep_ite | apply keep_State_modEdge | apply keep_State_modXng)
    | simp only [kept_mk] | split | dsimp only

theorem keep_State_parityFail (b : _) {s : State} (hK : Kept qs P s) : Kept qs P (State.parityFail s b) := by
  unfold State.parityFail
  repeat' first
    | intro _ | (with_reducible first
        | assumption | apply keep_ite | apply keep_State_bump | apply keep_State_charge | apply keep_State_note | apply keep_State_modXng)
    | simp only [kept_mk] | split | dsimp only

theorem keep_State_leaveEdge (e : _) (c : _) (f : _) (o : _) {s : State} (hK : Kept qs P s) : Kept qs P (State.leaveEdge s e c f o) := by
  unfold State.leaveEdge
  repeat' first
    | intro _ | (with_reducible first | assumption | apply keep_ite | apply keep_State_modEdge | apply keep_State_modPort | apply keep_State_modXng)
    | simp only [kept_mk] | split | dsimp only

theorem keep_State_forward (b : _) (c : _) (code : _) (f : _) {s : State} (hK : Kept qs P s) : Kept qs P (State.forward s b c code f) := by
  unfold State.forward
  repeat' first
    | intro _ | (with_reducible first | assumption | apply keep_ite | apply keep_foldl | apply keep_State_modXng | apply keep_State_leave)
    | simp only [kept_mk] | split | dsimp only

theorem keep_State_forwardEdge (e : _) (c : _) (endpoint : _) (f : _) {s : State} (hK : Kept qs P s) : Kept qs P (State.forwardEdge s e c endpoint f)
    := by
  unfold State.forwardEdge
  repeat' first
    | intro _ | (with_reducible first | assumption | apply keep_ite | apply keep_foldl | apply keep_State_modEdge | apply keep_State_leaveEdge)
    | simp only [kept_mk] | split | dsimp only

theorem keep_State_inputFails (at_ : XIn) {s : State} (hK : Kept qs P s) : Kept qs P (State.inputFails s at_) := by
  cases at_
  · exact keep_State_parityFail _ hK
  · exact keep_State_charge _ _ (keep_State_modEdge _ _ hK)

theorem keep_State_passOn (at_ : _) (c : _) (f : _) {s : State} (hK : Kept qs P s) : Kept qs P (State.passOn s at_ c f) := by
  unfold State.passOn
  repeat' first
    | intro _ | (with_reducible first | assumption | apply keep_ite | apply keep_State_forward | apply keep_State_forwardEdge)
    | simp only [kept_mk] | split | dsimp only

theorem keep_State_setInp (at_ : _) (l : _) {s : State} (hK : Kept qs P s) : Kept qs P (State.setInp s at_ l) := by
  unfold State.setInp
  repeat' first
    | intro _ | (with_reducible first | assumption | apply keep_ite | apply keep_State_modEdge | apply keep_State_modXng)
    | simp only [kept_mk] | split | dsimp only

theorem keep_State_setLand (at_ : _) (l : _) {s : State} (hK : Kept qs P s) : Kept qs P (State.setLand s at_ l) := by
  unfold State.setLand
  repeat' first
    | intro _ | (with_reducible first | assumption | apply keep_ite | apply keep_State_modEdge | apply keep_State_modXng)
    | simp only [kept_mk] | split | dsimp only

theorem keep_crossingFlitArrival (at_ : _) (noise : _) {s : State} (hK : Kept qs P s) : Kept qs P (crossingFlitArrival at_ noise s) := by
  unfold crossingFlitArrival
  repeat' first
    | intro _ | (with_reducible first
        | assumption | apply keep_ite | apply keep_State_advanceTo | apply keep_State_passOn | apply keep_State_setInp | apply keep_State_setLand
        | apply keep_State_inputFails)
    | simp only [kept_mk] | split | dsimp only

theorem keep_landingFlitVisible (at_ : _) {s : State} (hK : Kept qs P s) : Kept qs P (landingFlitVisible at_ s) := by
  unfold landingFlitVisible
  repeat' first
    | intro _ | (with_reducible first | assumption | apply keep_ite | apply keep_State_advanceTo | apply keep_State_setLand)
    | simp only [kept_mk] | split | dsimp only

theorem keep_State_setWire (at_ : _) (l : _) {s : State} (hK : Kept qs P s) : Kept qs P (State.setWire s at_ l) := by
  unfold State.setWire
  repeat' first
    | intro _ | (with_reducible first | assumption | apply keep_ite | apply keep_State_modEdge | apply keep_State_modXng)
    | simp only [kept_mk] | split | dsimp only

theorem keep_State_slotFails (at_ : XIn) {s : State} (hK : Kept qs P s) : Kept qs P (State.slotFails s at_) := by
  cases at_
  · exact keep_State_charge _ _ (keep_State_bump _ _ _ hK)
  · exact keep_State_charge _ _ hK

theorem keep_State_landFlit (at_ : _) (f : _) (t : _) {s : State} (hK : Kept qs P s) : Kept qs P (State.landFlit s at_ f t) := by
  unfold State.landFlit
  repeat' first
    | intro _ | (with_reducible first | assumption | apply keep_ite | apply keep_State_modEdge | apply keep_State_modXng | apply keep_State_setLand)
    | simp only [kept_mk] | split | dsimp only

theorem keep_State_slotReceive (u : _) (m : _) (n : _) (t : _) (noise : _) {s : State} (hK : Kept qs P s) : Kept qs P (State.slotReceive s u m n t
    noise) := by
  unfold State.slotReceive
  repeat' first
    | intro _ | (with_reducible first
        | assumption | apply keep_ite | apply keep_State_setWire | apply keep_State_landFlit | apply keep_State_slotFails)
    | split | dsimp only

theorem keep_State_frameSlots (u : _) (m : _) (noise : _) {s : State} (hK : Kept qs P s) : Kept qs P (State.frameSlots s u m noise) := by
  unfold State.frameSlots
  repeat' first
    | intro _ | (with_reducible first | assumption | apply keep_ite | apply keep_foldl | apply keep_State_slotReceive)
    | split | dsimp only

theorem keep_State_setPicked (at_ : _) (n : _) {s : State} (hK : Kept qs P s) : Kept qs P (State.setPicked s at_ n) := by
  unfold State.setPicked
  repeat' first
    | intro _ | (with_reducible first | assumption | apply keep_ite | apply keep_State_modEdge | apply keep_State_modXng)
    | simp only [kept_mk] | split | dsimp only

theorem keep_State_pickupMiss (at_ : XIn) {s : State} (hK : Kept qs P s) : Kept qs P (State.pickupMiss s at_) := by
  unfold State.pickupMiss
  split
  · exact keep_State_modXng _ _ hK
  · exact keep_State_modEdge _ _ hK

theorem keep_State_takeLanded (at_ : _) (c : _) (h : _) {s : State} (hK : Kept qs P s) : Kept qs P (State.takeLanded s at_ c h) := by
  unfold State.takeLanded
  repeat' first
    | intro _ | (with_reducible first | assumption | apply keep_ite | apply keep_State_modPort | apply keep_State_passOn)
    | simp only [kept_mk] | split | dsimp only

theorem keep_pickup (at_ : _) {s : State} (hK : Kept qs P s) : Kept qs P (pickup at_ s) := by
  unfold pickup
  repeat' first
    | intro _ | (with_reducible first
        | assumption | apply keep_ite | apply keep_State_setLand | apply keep_State_setPicked | apply keep_State_takeLanded
        | apply keep_State_pickupMiss)
    | simp only [kept_mk] | split | dsimp only

theorem keep_State_blockSend (b : _) (ecc : _) {s : State} (hK : Kept qs P s) : Kept qs P (State.blockSend s b ecc) := by
  unfold State.blockSend
  repeat' first
    | intro _ | (with_reducible first
        | assumption | apply keep_ite | apply keep_State_modBlk | apply keep_State_sentWords | apply keep_State_corrected
        | apply keep_State_uncorrectable | apply keep_State_lost | apply keep_State_advanceTo | apply keep_State_modMsg)
    | simp only [kept_mk] | split | dsimp only

theorem keep_State_intakeSend (die : _) (i : _) (x : _) (ecc : _) {s : State} (hK : Kept qs P s) : Kept qs P (State.intakeSend s die i x ecc) := by
  unfold State.intakeSend
  repeat' first
    | intro _ | (with_reducible first
        | assumption | apply keep_ite | apply keep_State_bump | apply keep_State_sentWords | apply keep_State_charge | apply keep_State_corrected
        | apply keep_State_uncorrectable | apply keep_State_advanceTo | apply keep_State_modEdge)
    | simp only [kept_mk] | split | dsimp only

theorem keep_messageSend (src : _) (ecc : _) {s : State} (hK : Kept qs P s) : Kept qs P (messageSend src ecc s) := by
  unfold messageSend
  repeat' first
    | intro _ | (with_reducible first | assumption | apply keep_ite | apply keep_State_blockSend | apply keep_State_intakeSend)
    | simp only [kept_mk] | split | dsimp only

theorem keep_State_setOutlet (i : _) (x : _) {s : State} (hK : Kept qs P s) : Kept qs P (State.setOutlet s i x) := by
  unfold State.setOutlet
  repeat' first | intro _ | (with_reducible first | assumption | apply keep_ite) | simp only [kept_mk] | split | dsimp only

theorem keep_holdBufferEntry (at_ : _) {s : State} (hK : Kept qs P s) : Kept qs P (holdBufferEntry at_ s) := by
  unfold holdBufferEntry
  repeat' first
    | intro _ | (with_reducible first
        | assumption | apply keep_ite | apply keep_State_charge | apply keep_State_advanceTo | apply keep_State_modEdge | apply keep_State_modXng
        | apply keep_State_modMsg | apply keep_State_setOutlet | apply keep_State_hold)
    | simp only [kept_mk] | split | dsimp only

theorem keep_State_deliver (b : _) (r : _) (ch : _) (l : _) {s : State} (hK : Kept qs P s) : Kept qs P (State.deliver s b r ch l) := by
  unfold State.deliver
  repeat' first
    | intro _ | (with_reducible first
        | assumption | apply keep_ite | apply keep_State_receivedWords | apply keep_State_modCore | apply keep_State_lsStore)
    | simp only [kept_mk] | split | dsimp only

theorem keep_State_blockRelease (b : _) (l : _) (h : _) {s : State} (hK : Kept qs P s) : Kept qs P (State.blockRelease s b l h) := by
  unfold State.blockRelease
  repeat' first
    | intro _ | (with_reducible first
        | assumption | apply keep_ite | apply keep_State_charge | apply keep_State_advanceTo | apply keep_State_modMsg | apply keep_State_deliver
        | apply keep_State_hold)
    | simp only [kept_mk] | split | dsimp only

theorem keep_State_outletRelease (i : _) (x : _) (l : _) (h : _) {s : State} (hK : Kept qs P s) : Kept qs P (State.outletRelease s i x l h) := by
  unfold State.outletRelease
  repeat' first
    | intro _ | (with_reducible first
        | assumption | apply keep_ite | apply keep_State_receivedWords | apply keep_State_charge | apply keep_State_advanceTo
        | apply keep_State_modEdge | apply keep_State_setOutlet | apply keep_State_hold)
    | simp only [kept_mk] | split | dsimp only

theorem keep_messageRelease (at_ : _) (index : _) {s : State} (hK : Kept qs P s) : Kept qs P (messageRelease at_ index s) := by
  unfold messageRelease
  repeat' first
    | intro _ | (with_reducible first
        | assumption | apply keep_ite | apply keep_State_blockRelease | apply keep_State_outletRelease | apply keep_State_hold)
    | simp only [kept_mk] | split | dsimp only

theorem keep_State_portBlocks (p : _) {s : State} (hK : Kept qs P s) : Kept qs P (State.portBlocks s p) := by
  unfold State.portBlocks
  repeat' first | intro _ | (with_reducible first | assumption | apply keep_ite | apply keep_State_setPort) | simp only [kept_mk] | split | dsimp only

theorem keep_State_sendLinks {s : State} (hK : Kept qs P s) : Kept qs P (State.sendLinks s) := by
  unfold State.sendLinks
  repeat' first
    | intro _ | (with_reducible first | assumption | apply keep_ite | apply keep_State_eachPort | apply keep_State_portBlocks)
    | split | dsimp only

theorem keep_State_linkTo (p : _) (st : _) (cause : _) {s : State} (hK : Kept qs P s) : Kept qs P (State.linkTo s p st cause) := by
  unfold State.linkTo
  repeat' first
    | intro _ | (with_reducible first
        | assumption | apply keep_ite | apply keep_State_raise | apply keep_State_modPort | apply keep_State_hifEvent
        | apply keep_State_noteLinkOut)
    | simp only [kept_mk] | split | dsimp only

theorem keep_State_toRetrain (p : _) (cause : _) {s : State} (hK : Kept qs P s) : Kept qs P (State.toRetrain s p cause) := by
  unfold State.toRetrain
  repeat' first
    | intro _ | (with_reducible first | assumption | apply keep_ite | apply keep_State_modPort | apply keep_State_linkTo)
    | simp only [kept_mk] | split | dsimp only

theorem keep_State_setFlight (p : _) (n : _) {s : State} (hK : Kept qs P s) : Kept qs P (State.setFlight s p n) := by
  unfold State.setFlight
  repeat' first | intro _ | (with_reducible first | assumption | apply keep_ite | apply keep_State_modPort) | simp only [kept_mk] | split | dsimp only

theorem keep_linkSignalDetect (p : _) {s : State} (hK : Kept qs P s) : Kept qs P (linkSignalDetect p s) := by
  unfold linkSignalDetect
  repeat' first
    | intro _ | (with_reducible first | assumption | apply keep_ite | apply keep_State_loaded | apply keep_State_linkTo)
    | split | dsimp only

theorem keep_linkTrainComplete (p : _) {s : State} (hK : Kept qs P s) : Kept qs P (linkTrainComplete p s) := by
  unfold linkTrainComplete
  repeat' first
    | intro _ | (with_reducible first | assumption | apply keep_ite | apply keep_State_linkTo | apply keep_State_setFlight)
    | simp only [kept_mk] | split | dsimp only

theorem keep_State_queueFrame (u : _) (from_ : _) {s : State} (hK : Kept qs P s) : Kept qs P (State.queueFrame s u from_) := by
  unfold State.queueFrame
  repeat' first | intro _ | (with_reducible first | assumption | apply keep_ite | apply keep_State_modPort) | simp only [kept_mk] | split | dsimp only

theorem keep_State_errorReturn (p : _) (u : _) {s : State} (hK : Kept qs P s) : Kept qs P (State.errorReturn s p u) := by
  unfold State.errorReturn
  repeat' first
    | intro _ | (with_reducible first | assumption | apply keep_ite | apply keep_State_sendPacket | apply keep_State_queueFrame)
    | simp only [kept_mk] | split | dsimp only

theorem keep_State_freeEntry (f : _) {s : State} (hK : Kept qs P s) : Kept qs P (State.freeEntry s f) := by
  unfold State.freeEntry
  repeat' first | intro _ | (with_reducible first | assumption | apply keep_ite | apply keep_State_modPort) | simp only [kept_mk] | split | dsimp only

theorem keep_unplannedFrameSend (p : _) (vc : _) (dst : _) (src : _) (kind : _) (ttl : _) (payload : _) {s : State} (hK : Kept qs P s) : Kept qs P
    (unplannedFrameSend p vc dst src kind ttl payload s) := by
  unfold unplannedFrameSend
  repeat' first
    | intro _ | (with_reducible first
        | assumption | apply keep_ite | apply keep_State_openBook | apply keep_State_modPort | apply keep_State_freeEntry)
    | simp only [kept_mk] | split | dsimp only

theorem keep_State_resendAll (p : _) {s : State} (hK : Kept qs P s) : Kept qs P (State.resendAll s p) := by
  unfold State.resendAll
  repeat' first
    | intro _ | (with_reducible first | assumption | apply keep_ite | apply keep_State_modPort | apply keep_State_toRetrain)
    | simp only [kept_mk] | split | dsimp only

theorem keep_State_toActive (p : _) (peer : _) {s : State} (hK : Kept qs P s) : Kept qs P (State.toActive s p peer) := by
  unfold State.toActive
  repeat' first
    | intro _ | (with_reducible first
        | assumption | apply keep_ite | apply keep_State_settleBook | apply keep_State_modPort | apply keep_State_linkTo)
    | simp only [kept_mk] | split | dsimp only

theorem keep_State_recordPeer (p : _) (i : _) {s : State} (hK : Kept qs P s) : Kept qs P (State.recordPeer s p i) := by
  unfold State.recordPeer
  repeat' first
    | intro _ | (with_reducible first | assumption | apply keep_ite | apply keep_foldl | apply keep_State_modPort | apply keep_State_errorReturn)
    | simp only [kept_mk] | split | dsimp only

theorem keep_capsComplete (p : _) {s : State} (hK : Kept qs P s) : Kept qs P (capsComplete p s) := by
  unfold capsComplete
  repeat' first
    | intro _ | (with_reducible first
        | assumption | apply keep_ite | apply keep_State_linkTo | apply keep_State_toActive | apply keep_State_recordPeer)
    | simp only [kept_mk] | split | dsimp only

theorem keep_retrainComplete (p : _) {s : State} (hK : Kept qs P s) : Kept qs P (retrainComplete p s) := by
  unfold retrainComplete
  repeat' first
    | intro _ | (with_reducible first
        | assumption | apply keep_ite | apply keep_State_linkTo | apply keep_State_setFlight | apply keep_State_toActive
        | apply keep_State_recordPeer)
    | simp only [kept_mk] | split | dsimp only

theorem keep_State_linkEnable (p : _) (en : _) {s : State} (hK : Kept qs P s) : Kept qs P (State.linkEnable s p en) := by
  unfold State.linkEnable
  repeat' first
    | intro _ | (with_reducible first | assumption | apply keep_ite | apply keep_State_loaded | apply keep_State_modPort | apply keep_State_linkTo)
    | simp only [kept_mk] | split | dsimp only

theorem keep_linkTransmitEntry (p : _) {s : State} (hK : Kept qs P s) : Kept qs P (linkTransmitEntry p s) := by
  unfold linkTransmitEntry
  repeat' first
    | intro _ | (with_reducible first
        | assumption | apply keep_ite | apply keep_State_receivedWords | apply keep_State_advanceTo | apply keep_State_modPort)
    | simp only [kept_mk] | split | dsimp only

theorem keep_milestoneSend (p : _) (first : _) {s : State} (hK : Kept qs P s) : Kept qs P (milestoneSend p first s) := by
  unfold milestoneSend
  repeat' first
    | intro _ | (with_reducible first | assumption | apply keep_ite | apply keep_State_bump | apply keep_State_advanceTo | apply keep_State_modPort)
    | simp only [kept_mk] | split | dsimp only

theorem keep_State_settleRepair {s : State} (hK : Kept qs P s) : Kept qs P (State.settleRepair s) := by
  unfold State.settleRepair
  repeat' first | intro _ | (with_reducible first | assumption | apply keep_ite | apply keep_State_settleBook) | split | dsimp only

theorem keep_State_nodesTested (mask : _) (l : _) {s : State} (hK : Kept qs P s) : Kept qs P (State.nodesTested s mask l) := by
  unfold State.nodesTested
  repeat' first | intro _ | (with_reducible first | assumption | apply keep_ite) | simp only [kept_mk] | split | dsimp only

theorem keep_State_retireRow (q : _) (py : _) {s : State} (hK : Kept qs P s) : Kept qs P (State.retireRow s q py) := by
  unfold State.retireRow
  repeat' first
    | intro _ | (with_reducible first | assumption | apply keep_ite | apply keep_State_setRepair | apply keep_State_raise)
    | simp only [kept_mk] | split | dsimp only

theorem keep_State_retireBlock (e : _) {s : State} (hK : Kept qs P s) : Kept qs P (State.retireBlock s e) := by
  unfold State.retireBlock
  repeat' first
    | intro _ | (with_reducible first | assumption | apply keep_ite | apply keep_State_setRepair | apply keep_State_raise)
    | simp only [kept_mk] | split | dsimp only

theorem keep_State_moveQuarter (q : _) (p : _) {s : State} (hK : Kept qs P s) : Kept qs P (State.moveQuarter s q p) := by
  unfold State.moveQuarter
  repeat' first | intro _ | (with_reducible first | assumption | apply keep_ite | apply keep_foldl) | simp only [kept_mk] | split | dsimp only

theorem keep_State_applyQuarter (q : _) {s : State} (hK : Kept qs P s) : Kept qs P (State.applyQuarter s q).1 := by
  unfold State.applyQuarter
  repeat' first
    | intro _ | (with_reducible first
        | assumption | apply keep_ite | apply keep_foldl | apply keep_State_raise | apply keep_State_retireRow | apply keep_State_retireBlock
        | apply keep_State_moveQuarter | refine keep_fst (by assumption) ?_)
    | split | dsimp only

theorem keep_foldl_fst {qs : List Instr} {P : PlanPred} {α β : Type} {f : State × β → α → State × β} (hf : ∀ p x, Kept qs P p.1 → Kept qs P (f p x).1) (l : List α) {p : State × β}
    (h : Kept qs P p.1) : Kept qs P (l.foldl f p).1 := by
  induction l generalizing p with
  | nil => exact h
  | cons x t ih => exact ih (hf p x h)

theorem keep_State_applyRepair {qs : List Instr} {P : PlanPred} {s : State} (h : Kept qs P s) : Kept qs P (State.applyRepair s).1 := by
  unfold State.applyRepair
  have h0 : Kept qs P (Prod.mk s (0 : Nat)).1 := h
  dsimp only
  refine keep_State_settleRepair ?_
  with_reducible refine keep_foldl_fst ?_ _ h0
  intro p x hp
  have := keep_State_applyQuarter x hp
  exact this

end Sys2Proof.Machine
end

