-- ==== Sys2Proof/Laws/KeptPlan.lean ====
section
/-! SUPPORT. What the queues, the plan commands, the supplies, the resets and the boot keep: one lemma for each operation. -/

set_option maxRecDepth 4000

namespace Sys2Proof.Machine

variable {qs : List Instr} {P : PlanPred}

theorem keep_State_reject (q : _) (e : _) (head : _) (gone : _) (st : _) {s : State} (hK : Kept qs P s) : Kept qs P (State.reject s q e head gone st)
    := by
  unfold State.reject
  repeat' first
    | intro _ | (with_reducible first
        | assumption | apply keep_ite | apply keep_State_modHif | apply keep_State_hostTerm | apply keep_State_settleQueues)
    | simp only [kept_mk] | split | dsimp only

theorem keep_State_presentEntry (q : _) (e : _) (head : _) (gone : _) {s : State} (hK : Kept qs P s) : Kept qs P (State.presentEntry s q e head gone)
    := by
  unfold State.presentEntry
  repeat' first
    | intro _ | (with_reducible first | assumption | apply keep_ite | apply keep_State_modJnl | apply keep_State_noteBp | rfl)
    | simp only [kept_mk] | split | dsimp only

theorem keep_State_decideEntries {qs : List Instr} {P : PlanPred} (q : _) (l : List (List Byte × BitVec 12 × Nat)) : ∀ {s : State}, Kept qs P s → Kept qs P (State.decideEntries s q l) := by
  induction l with
  | nil => intro s h; exact keep_State_modQueue _ _ h
  | cons e t ih =>
    intro s h
    obtain ⟨e, head, gone⟩ := e
    unfold State.decideEntries
    split
    · exact keep_State_modQueue _ _ h
    · dsimp only
      split
      · exact keep_State_modQueue _ _ (keep_State_presentEntry _ _ _ _ h)
      · exact ih (keep_State_reject _ _ _ _ _ h)

theorem keep_State_decideAll {s : State} (hK : Kept qs P s) : Kept qs P (State.decideAll s) := by
  unfold State.decideAll
  repeat' first
    | intro _ | (with_reducible first | assumption | apply keep_ite | apply keep_foldl | apply keep_State_decideEntries)
    | split | dsimp only

theorem keep_State_commitAccepted {qs : List Instr} {P : PlanPred} {s : State} (r : _) (c : _) (h : Kept qs P s) : Kept qs P (State.commitAccepted s r c) := by
  unfold State.commitAccepted
  dsimp only
  refine keep_State_decideAll (keep_State_noteBp ?_)
  have h1 : Kept qs P (((s.modJnl fun j => { j with holding := none, lastEvent := false }).commitRec r).settleEvents) :=
    keep_State_settleEvents (keep_State_commitRec _ (keep_State_modJnl h (fun _ => rfl) (fun _ => rfl)))
  have h2 := fun f => keep_State_modHif f
    (keep_State_settleQueues (keep_State_hostTerm 0x15 1 (keep_State_hostTerm 0x13 1 (keep_State_hostTerm 0x11 1 h1))))
  exact keep_ite (keep_State_schedule (h2 _)) (keep_State_abandonCmd _ _ (h2 _))

theorem keep_journalCommit {qs : List Instr} {P : PlanPred} {s : State} (h : Kept qs P s) : Kept qs P (journalCommit s) := by
  unfold journalCommit
  dsimp only
  have hf := h.fifo
  split
  · exact h
  · split
    · exact keep_State_commitCmd _ _ h
    · rename_i heq _; rw [heq] at hf; simp at hf; exact keep_State_commitItem _ _ (by omega) h
    · exact keep_State_commitAccepted _ _ h
    · split
      · exact keep_State_commitAccepted _ _ h
      · rename_i heq _ _; rw [heq] at hf; simp at hf; exact keep_State_commitItem _ _ (by omega) h
    · exact h

theorem keep_State_queueError (q : _) (code : _) {s : State} (hK : Kept qs P s) : Kept qs P (State.queueError s q code) := by
  unfold State.queueError
  repeat' first
    | intro _ | (with_reducible first | assumption | apply keep_ite | apply keep_State_hifEvent | apply keep_State_modQueue)
    | simp only [kept_mk] | split | dsimp only

theorem keep_sqDoorbellWrite (q : _) (value : _) {s : State} (hK : Kept qs P s) : Kept qs P (sqDoorbellWrite q value s) := by
  unfold sqDoorbellWrite
  repeat' first
    | intro _ | (with_reducible first
        | assumption | apply keep_ite | apply keep_State_modQueue | apply keep_State_hostTerm | apply keep_State_settleQueues
        | apply keep_State_queueError)
    | simp only [kept_mk] | split | dsimp only

theorem keep_cqDoorbellWrite (q : _) (value : _) {s : State} (hK : Kept qs P s) : Kept qs P (cqDoorbellWrite q value s) := by
  unfold cqDoorbellWrite
  repeat' first
    | intro _ | (with_reducible first | assumption | apply keep_ite | apply keep_State_modQueue | apply keep_State_queueError)
    | simp only [kept_mk] | split | dsimp only

theorem keep_entryFetch (q : _) (entries : _) {s : State} (hK : Kept qs P s) : Kept qs P (entryFetch q entries s) := by
  unfold entryFetch
  repeat' first
    | intro _ | (with_reducible first
        | assumption | apply keep_ite | apply keep_State_modHif | apply keep_State_modQueue | apply keep_State_queueError
        | apply keep_State_decideEntries)
    | simp only [kept_mk] | split | dsimp only

theorem keep_State_queueIrq (q : _) {s : State} (hK : Kept qs P s) : Kept qs P (State.queueIrq s q) := by
  unfold State.queueIrq
  repeat' first
    | intro _ | (with_reducible first | assumption | apply keep_ite | apply keep_State_raiseVector | apply keep_State_modQueue)
    | simp only [kept_mk] | split | dsimp only

theorem keep_State_moderate (q : _) {s : State} (hK : Kept qs P s) : Kept qs P (State.moderate s q) := by
  unfold State.moderate
  repeat' first
    | intro _ | (with_reducible first | assumption | apply keep_ite | apply keep_State_modQueue | apply keep_State_queueIrq)
    | simp only [kept_mk] | split | dsimp only

theorem keep_completionWrite (q : _) {s : State} (hK : Kept qs P s) : Kept qs P (completionWrite q s) := by
  unfold completionWrite
  repeat' first
    | intro _ | (with_reducible first
        | assumption | apply keep_ite | apply keep_State_hostWrite | apply keep_State_modHif | apply keep_State_modQueue | apply keep_State_dropCmd
        | apply keep_State_moderate)
    | simp only [kept_mk] | split | dsimp only

theorem keep_State_enableQueue (q : _) {s : State} (hK : Kept qs P s) : Kept qs P (State.enableQueue s q) := by
  unfold State.enableQueue
  repeat' first
    | intro _ | (with_reducible first | assumption | apply keep_ite | apply keep_State_modQueue)
    | simp only [kept_mk] | split | dsimp only

theorem keep_State_disableQueue (q : _) (reason : _) {s : State} (hK : Kept qs P s) : Kept qs P (State.disableQueue s q reason) := by
  unfold State.disableQueue
  repeat' first
    | intro _ | (with_reducible first
        | assumption | apply keep_ite | apply keep_foldl | apply keep_State_bumpTerm | apply keep_State_modHif | apply keep_State_modQueue
        | apply keep_State_modJnl | apply keep_State_abandonCmd | apply keep_State_settleQueues | rfl)
    | simp only [kept_mk] | split | dsimp only

theorem keep_State_clearHif (reason : _) {s : State} (hK : Kept qs P s) : Kept qs P (State.clearHif s reason) := by
  unfold State.clearHif
  repeat' first
    | intro _ | (with_reducible first | assumption | apply keep_ite | apply keep_foldl | apply keep_State_modHif | apply keep_State_disableQueue)
    | split | dsimp only

theorem keep_State_functionReset {s : State} (hK : Kept qs P s) : Kept qs P (State.functionReset s) := by
  unfold State.functionReset
  repeat' first
    | intro _ | (with_reducible first | assumption | apply keep_ite | apply keep_State_modHif | apply keep_State_clearHif)
    | simp only [kept_mk] | split | dsimp only

theorem keep_State_enterD3 {s : State} (hK : Kept qs P s) : Kept qs P (State.enterD3 s) := by
  unfold State.enterD3
  repeat' first | intro _ | (with_reducible first | assumption | apply keep_ite | apply keep_State_modHif) | simp only [kept_mk] | split | dsimp only

theorem keep_State_flushPba {s : State} (hK : Kept qs P s) : Kept qs P (State.flushPba s) := by
  unfold State.flushPba
  repeat' first
    | intro _ | (with_reducible first | assumption | apply keep_ite | apply keep_foldl | apply keep_State_hostWrite | apply keep_State_modHif)
    | simp only [kept_mk] | split | dsimp only

theorem keep_State_returnD0 {s : State} (hK : Kept qs P s) : Kept qs P (State.returnD0 s) := by
  unfold State.returnD0
  repeat' first
    | intro _ | (with_reducible first | assumption | apply keep_ite | apply keep_State_modHif | apply keep_State_flushPba)
    | simp only [kept_mk] | split | dsimp only

theorem keep_State_runCmd (c : _) {s : State} (hK : Kept qs P s) : Kept qs P (State.runCmd s c) := by
  unfold State.runCmd
  repeat' first | intro _ | (with_reducible first | assumption | apply keep_ite | apply keep_State_modCmd) | simp only [kept_mk] | split | dsimp only

theorem keep_planLoad {qs : List Instr} {s : State} (seq : _) (h : Kept qs planOk s) : Kept qs planOk (planLoad seq s) := by
  unfold planLoad
  split
  · exact h
  · split
    · exact keep_State_endCmd _ _ _ h
    · split
      · exact keep_State_endCmd _ _ _ h
      · rename_i he
        split
        · exact keep_State_endCmd _ _ _ h
        · have he : s.plan = .empty := by simpa using he
          have h1 : Kept qs (fun _ v n k a => v = false ∧ n = 0 ∧ k = 0 ∧ a = false) s := h.weaken fun h => by rw [he] at h; exact h
          exact keep_State_runCmd _ (keep_plan (keep_State_applyRepair h1) fun h => h)

theorem keep_State_planLoaded {qs : List Instr} {s : State} (c : _) (e : _) (h : Kept qs planOk s) : Kept qs planOk (State.planLoaded s c e) := by
  unfold State.planLoaded
  split
  · exact h
  · rename_i hl
    have hl : s.plan = .loading := by simpa using hl
    have h1 : Kept qs (fun _ v n k a => v = false ∧ n = 0 ∧ k = 0 ∧ a = false) s := h.weaken fun h => by rw [hl] at h; exact h
    split
    · dsimp only
      split
      · refine keep_State_endCmd _ _ _ ?_
        obtain ⟨a1, a2, a3, a4, a5, a6⟩ := h1
        exact ⟨a1, a2, a3, a4, a5, a6⟩
      · exact keep_State_endCmd _ _ _ (keep_plan h1 fun h => h)
    · exact keep_State_hostReadFail _ (keep_plan h1 fun h => h)

theorem keep_State_bindBlock (d : _) (r : _) {s : State} (hK : Kept qs P s) : Kept qs P (State.bindBlock s d r) := by
  unfold State.bindBlock
  repeat' first
    | intro _ | (with_reducible first
        | assumption | apply keep_ite | apply keep_foldl | apply keep_State_modBlk | apply keep_State_crWrite | apply keep_State_loaded)
    | split | dsimp only

theorem keep_State_bindBlocks (d : _) {s : State} (hK : Kept qs P s) : Kept qs P (State.bindBlocks s d) := by
  unfold State.bindBlocks
  repeat' first
    | intro _ | (with_reducible first
        | assumption | apply keep_ite | apply keep_foldl | apply keep_State_mapKey | apply keep_State_mapQuarter | apply keep_State_bindBlock)
    | split | dsimp only

theorem keep_State_bindPort (p : _) {s : State} (hK : Kept qs P s) : Kept qs P (State.bindPort s p) := by
  unfold State.bindPort
  repeat' first | intro _ | (with_reducible first | assumption | apply keep_ite | apply keep_State_modPort) | simp only [kept_mk] | split | dsimp only

theorem keep_State_bindLink (l : _) (o : _) {s : State} (hK : Kept qs P s) : Kept qs P (State.bindLink s l o) := by
  unfold State.bindLink
  repeat' first | intro _ | (with_reducible first | assumption | apply keep_ite | apply keep_State_modPort) | simp only [kept_mk] | split | dsimp only

theorem keep_State_bindLinks (d : _) {s : State} (hK : Kept qs P s) : Kept qs P (State.bindLinks s d) := by
  unfold State.bindLinks
  repeat' first
    | intro _ | (with_reducible first
        | assumption | apply keep_ite | apply keep_foldl | apply keep_State_modPort | apply keep_State_eachPort | apply keep_State_bindPort
        | apply keep_State_bindLink)
    | split | dsimp only

theorem keep_State_bindBinding (d : _) (r : _) (i : _) {s : State} (hK : Kept qs P s) : Kept qs P (State.bindBinding s d r i) := by
  unfold State.bindBinding
  repeat' first | intro _ | (with_reducible first | assumption | apply keep_ite) | simp only [kept_mk] | split | dsimp only

theorem keep_State_bindEdges (d : _) {s : State} (hK : Kept qs P s) : Kept qs P (State.bindEdges s d) := by
  unfold State.bindEdges
  repeat' first
    | intro _ | (with_reducible first | assumption | apply keep_ite | apply keep_foldl | apply keep_State_modEdge | apply keep_State_bindBinding)
    | simp only [kept_mk] | split | dsimp only

theorem keep_State_restartPlls (use : _) (mhz : _) {s : State} (hK : Kept qs P s) : Kept qs P (State.restartPlls s use mhz) := by
  unfold State.restartPlls
  repeat' first
    | intro _ | (with_reducible first
        | assumption | apply keep_ite | apply keep_foldl | apply keep_State_pass | apply keep_State_startPll | apply keep_State_releasePll
        | apply keep_State_stopPll)
    | simp only [kept_mk] | split | dsimp only

theorem keep_State_bindPlan {qs : List Instr} {P : PlanPred} {s : State} (d : _) (h : Kept qs P s) : Kept qs planOk (State.bindPlan s d) := by
  unfold State.bindPlan
  dsimp only
  have h1 := keep_State_bindEdges d (keep_State_bindLinks d (keep_State_bindBlocks d (keep_State_restartPlls (fun q => decide ((imgGeom d q).1 ≠ 0)) (imgMhz d) h)))
  generalize (((s.restartPlls _ _).bindBlocks d).bindLinks d).bindEdges d = t at h1 ⊢
  obtain ⟨a1, a2, a3, a4, a5, a6⟩ := h1
  exact ⟨a1, a2, a3, a4, a5, rfl, rfl⟩

theorem keep_planBind {qs : List Instr} {s : State} (seq : _) (image : _) (h : Kept qs planOk s) : Kept qs planOk (planBind seq image s) := by
  unfold planBind
  repeat' first
    | with_reducible exact h
    | with_reducible apply keep_State_endCmd
    | with_reducible apply keep_State_hostReadFail
    | with_reducible apply keep_State_beginDisarm
    | with_reducible apply keep_State_bindPlan
    | split
    | dsimp only

theorem keep_planStart {qs : List Instr} {s : State} (seq : _) (h : Kept qs planOk s) : Kept qs planOk (planStart seq s) := by
  unfold planStart
  split
  · exact h
  · rename_i c _
    dsimp only
    split
    · exact keep_State_endCmd _ _ _ h
    · rename_i hs
      have hb : s.plan = .bound := by
        by_contra hb
        simp [State.startStatus, hb] at hs
      have h1 : Kept qs (fun _ v _ _ a => v = true ∧ a = false) s := h.weaken fun h => by rw [hb] at h; exact h
      refine keep_State_endCmd _ _ _ (keep_plan (P := fun _ v _ _ a => v = true ∧ a = false) ?_ fun h => h)
      exact keep_State_eachPort _ (keep_State_modEpoch (keep_State_modPl _ h1) (fun _ => rfl)) (fun _ _ h => keep_State_modPort _ _ h)

theorem keep_planStop {qs : List Instr} {s : State} (seq : _) (h : Kept qs planOk s) : Kept qs planOk (planStop seq s) := by
  unfold planStop
  split
  · exact h
  · split
    · exact keep_State_endCmd _ _ _ h
    · rename_i hp
      split
      · exact keep_State_endCmd _ _ _ h
      · have hv : Kept qs isValid s := h.weaken fun h => by
          by_cases h1 : s.plan = .starting
          · exact planOk_moves (.inl h1) h
          by_cases h2 : s.plan = .running
          · exact planOk_moves (.inr (.inl h2)) h
          by_cases h3 : s.plan = .halted
          · rw [h3] at h; exact h
          exact absurd ⟨h1, h2, h3⟩ hp
        split
        · have h1 := keep_State_toBound hv
          split
          · exact keep_State_endCmd _ _ _ (keep_plan h1 fun h => h)
          · refine keep_State_endCmd _ _ _ ?_
            generalize s.toBound = t at h1 ⊢
            obtain ⟨a1, a2, a3, a4, a5, a6⟩ := h1
            exact ⟨a1, a2, a3, a4, a5, a6⟩
        · exact keep_State_endCmd _ _ _ (keep_plan (keep_State_modPl _ hv) fun h => h)

theorem keep_State_unloadPlan {qs : List Instr} {P : PlanPred} {s : State} (h : Kept qs P s) : Kept qs planOk (State.unloadPlan s) := by
  unfold State.unloadPlan
  dsimp only
  refine keep_State_settleRepair ?_
  have h1 : Kept qs P (if decide (s.k ≠ 0) = true then (s.discardHeld false).settleStop else s) :=
    keep_ite (keep_State_settleStop (keep_State_discardHeld _ h)) h
  have h2 := keep_State_eachPort (fun s p => s.modPort p DPort.unplanned) h1 (fun _ _ h => keep_State_modPort _ _ h)
  generalize State.eachPort _ _ = t at h2 ⊢
  have h3 : Kept qs planOk { t with
      plan := .empty, planId := 0, devNum := 0, devValid := false, k := 0, epoch := .reset, pl := .reset, intakes := [], outlets := []
      sysDevs := [], routes := [], qpll := t.qpll.map fun e => (e.1, { e.2 with failed := false }) } := by
    obtain ⟨a1, a2, a3, a4, a5, a6⟩ := h2
    exact ⟨a1, a2, a3, a4, a5, rfl, rfl, rfl, rfl⟩
  exact keep_ite (keep_State_restartPlls _ _ h3) h3

theorem keep_planUnload (seq : _) {s : State} (h : Kept qs planOk s) : Kept qs planOk (planUnload seq s) := by
  unfold planUnload
  split
  · exact h
  · refine keep_cases (fun _ => keep_State_endCmd _ _ _ h) fun hp => keep_ite (keep_State_endCmd _ _ _ h) (keep_State_runCmd _ ?_)
    have hu : Kept qs planOk { s with plan := .unloading } := keep_plan h fun h => by
      by_cases h1 : s.plan = .loaded
      · rw [h1] at h; exact fun _ => h.2
      by_cases h2 : s.plan = .bound
      · rw [h2] at h; exact fun hv => absurd (hv.symm.trans h.1) (by decide)
      by_cases h3 : s.plan = .halted
      · rw [h3] at h; exact fun hv => absurd (hv.symm.trans h) (by decide)
      exact absurd ⟨h1, h2, h3⟩ hp
    exact keep_ite (keep_State_beginDisarm hu) hu

theorem keep_State_unloadDone (c : _) {s : State} (hK : Kept qs planOk s) : Kept qs planOk (State.unloadDone s c) := by
  unfold State.unloadDone
  repeat' first
    | intro _ | (with_reducible first | assumption | apply keep_ite | apply keep_State_endCmd | apply keep_State_unloadPlan)
    | split | dsimp only

theorem keep_State_modSup (f : _) {s : State} (hK : Kept qs P s) : Kept qs P (State.modSup s f) := by
  unfold State.modSup
  repeat' first | intro _ | (with_reducible first | assumption | apply keep_ite) | simp only [kept_mk] | split | dsimp only

theorem keep_State_modBoot (f : _) {s : State} (hK : Kept qs P s) : Kept qs P (State.modBoot s f) := by
  unfold State.modBoot
  repeat' first | intro _ | (with_reducible first | assumption | apply keep_ite) | simp only [kept_mk] | split | dsimp only

theorem keep_State_hold (src : _) {s : State} (hK : Kept qs P s) : Kept qs P (State.hold s src) := by
  unfold State.hold
  repeat' first | intro _ | (with_reducible first | assumption | apply keep_ite | apply keep_State_modSup) | simp only [kept_mk] | split | dsimp only

theorem keep_State_unhold (src : _) {s : State} (hK : Kept qs P s) : Kept qs P (State.unhold s src) := by
  unfold State.unhold
  repeat' first | intro _ | (with_reducible first | assumption | apply keep_ite | apply keep_State_modSup) | simp only [kept_mk] | split | dsimp only

theorem keep_State_lastReset (src : _) (scope : _) {s : State} (hK : Kept qs P s) : Kept qs P (State.lastReset s src scope) := by
  unfold State.lastReset
  repeat' first | intro _ | (with_reducible first | assumption | apply keep_ite | apply keep_State_modSup) | simp only [kept_mk] | split | dsimp only

theorem keep_State_resetEvent (src : _) (scope : _) {s : State} (hK : Kept qs P s) : Kept qs P (State.resetEvent s src scope) := by
  unfold State.resetEvent
  repeat' first
    | intro _ | (with_reducible first | assumption | apply keep_ite | apply keep_State_raise | apply keep_State_lastReset)
    | split | dsimp only

theorem keep_State_hifDown {s : State} (hK : Kept qs P s) : Kept qs P (State.hifDown s) := by
  unfold State.hifDown
  repeat' first
    | intro _ | (with_reducible first
        | assumption | apply keep_ite | apply keep_State_bumpTerm | apply keep_State_modHif | apply keep_State_modJnl
        | apply keep_State_settleQueues | apply keep_State_noteBp | apply keep_State_clearHif | rfl)
    | simp only [kept_mk] | split | dsimp only

theorem keep_State_fastCleared {qs : List Instr} {P : PlanPred} {s : State} (h : Kept qs P s) : Kept qs planOk (State.fastCleared s) := by
  obtain ⟨a1, a2, a3, a4, a5, a6⟩ := h
  exact ⟨a1, a2, a3, a4, a5, rfl, rfl, rfl, rfl⟩

theorem keep_State_portsHeld {s : State} (hK : Kept qs P s) : Kept qs P (State.portsHeld s) := by
  unfold State.portsHeld
  repeat' first
    | intro _ | (with_reducible first | assumption | apply keep_ite | apply keep_State_raise | apply keep_State_eachPort)
    | split | dsimp only

theorem keep_State_fastDown {s : State} (hK : Kept qs planOk s) : Kept qs planOk (State.fastDown s) := by
  unfold State.fastDown
  repeat' first
    | intro _ | (with_reducible first
        | assumption | apply keep_ite | apply keep_State_bump | apply keep_State_disarmNow | apply keep_State_hifDown
        | apply keep_State_fastCleared | apply keep_State_portsHeld)
    | split | dsimp only

theorem keep_State_resetRecord (src : _) (scope : _) {s : State} (hK : Kept qs P s) : Kept qs P (State.resetRecord s src scope) := by
  unfold State.resetRecord
  repeat' first
    | intro _ | (with_reducible first
        | assumption | apply keep_ite | apply keep_State_settleEvents | apply keep_State_commitRec | apply keep_State_modJnl
        | apply keep_State_lastReset | rfl)
    | simp only [kept_mk] | split | dsimp only

theorem keep_State_abandonLost {s : State} (hK : Kept qs P s) : Kept qs P (State.abandonLost s) := by
  unfold State.abandonLost
  repeat' first
    | intro _ | (with_reducible first
        | assumption | apply keep_ite | apply keep_foldl | apply keep_State_settleEvents | apply keep_State_commitRec | apply keep_State_modHif)
    | simp only [kept_mk] | split | dsimp only

theorem keep_State_fastReset (src : _) (scope : _) {s : State} (hK : Kept qs planOk s) : Kept qs planOk (State.fastReset s src scope) := by
  unfold State.fastReset
  repeat' first
    | intro _ | (with_reducible first
        | assumption | apply keep_ite | apply keep_State_modBoot | apply keep_State_resetEvent | apply keep_State_fastDown
        | apply keep_State_resetRecord | apply keep_State_abandonLost)
    | simp only [kept_mk] | split | dsimp only

theorem keep_State_newGeneration {qs : List Instr} {P : PlanPred} {s : State} (h : Kept qs P s) : Kept qs P (State.newGeneration s) := by
  unfold State.newGeneration
  dsimp only
  refine keep_State_settleEvents (keep_State_commitRec _ ?_)
  obtain ⟨a1, a2, a3, a4, a5, a6⟩ := h
  exact ⟨a1, a2, by simp [State.modJnl], by simp [State.modJnl], a5, a6⟩

theorem keep_State_clearRetention (src : _) (scope : _) {s : State} (hK : Kept qs P s) : Kept qs P (State.clearRetention s src scope) := by
  unfold State.clearRetention
  repeat' first
    | intro _ | (with_reducible first
        | assumption | apply keep_ite | apply keep_State_modBlk | apply keep_State_freshRetention | apply keep_State_raise
        | apply keep_State_modTime | apply keep_State_followValid | apply keep_State_modSup | apply keep_State_resetEvent
        | apply keep_State_newGeneration | rfl)
    | simp only [kept_mk] | split | dsimp only

theorem keep_State_supplyEvent (rail : _) (code : _) {s : State} (hK : Kept qs P s) : Kept qs P (State.supplyEvent s rail code) := by
  unfold State.supplyEvent
  repeat' first | intro _ | (with_reducible first | assumption | apply keep_ite | apply keep_State_raiseThermal) | split | dsimp only

theorem keep_State_setPwr (p : _) {s : State} (hK : Kept qs P s) : Kept qs P (State.setPwr s p) := by
  unfold State.setPwr
  repeat' first | intro _ | (with_reducible first | assumption | apply keep_ite | apply keep_State_modSup) | simp only [kept_mk] | split | dsimp only

theorem keep_State_startDown {s : State} (hK : Kept qs P s) : Kept qs P (State.startDown s) := by
  unfold State.startDown
  repeat' first | intro _ | (with_reducible first | assumption | apply keep_ite | apply keep_State_setPwr) | split | dsimp only

theorem keep_State_toStandby {s : State} (hK : Kept qs P s) : Kept qs P (State.toStandby s) := by
  unfold State.toStandby
  repeat' first | intro _ | (with_reducible first | assumption | apply keep_ite | apply keep_State_modBoot) | simp only [kept_mk] | split | dsimp only

theorem keep_State_beginStep (n : _) {s : State} (hK : Kept qs P s) : Kept qs P (State.beginStep s n) := by
  unfold State.beginStep
  repeat' first
    | intro _ | (with_reducible first
        | assumption | apply keep_ite | apply keep_State_supplyEvent | apply keep_State_setPwr | apply keep_State_startDown
        | apply keep_State_toStandby)
    | simp only [kept_mk] | split | dsimp only

theorem keep_State_startUp {s : State} (hK : Kept qs P s) : Kept qs P (State.startUp s) := by
  unfold State.startUp
  repeat' first
    | intro _ | (with_reducible first | assumption | apply keep_ite | apply keep_State_modBoot | apply keep_State_beginStep)
    | simp only [kept_mk] | split | dsimp only

theorem keep_powerUpStep {s : State} (hK : Kept qs P s) : Kept qs P (powerUpStep s) := by
  unfold powerUpStep
  repeat' first
    | intro _ | (with_reducible first
        | assumption | apply keep_ite | apply keep_State_modSup | apply keep_State_modBoot | apply keep_State_setPwr | apply keep_State_beginStep)
    | simp only [kept_mk] | split | dsimp only

theorem keep_State_downStep (n : _) {s : State} (hK : Kept qs P s) : Kept qs P (State.downStep s n) := by
  unfold State.downStep
  repeat' first
    | intro _ | (with_reducible first | assumption | apply keep_ite | apply keep_State_modSup | apply keep_State_setPwr | apply keep_State_startUp)
    | simp only [kept_mk] | split | dsimp only

theorem keep_powerStepTimeout (rail : _) {s : State} (hK : Kept qs P s) : Kept qs P (powerStepTimeout rail s) := by
  unfold powerStepTimeout
  repeat' first
    | intro _ | (with_reducible first
        | assumption | apply keep_ite | apply keep_State_supplyEvent | apply keep_State_startDown | apply keep_State_toStandby
        | apply keep_State_downStep)
    | simp only [kept_mk] | split | dsimp only

theorem keep_State_downAll {qs : List Instr} {P : PlanPred} (n : Nat) : ∀ {s : State}, Kept qs P s → Kept qs P (State.downAll s n) := by
  induction n with
  | zero => intro s h; exact h
  | succ n ih => intro s h; exact ih (keep_State_downStep _ h)

theorem keep_powerDownOrder {s : State} (hK : Kept qs P s) : Kept qs P (powerDownOrder s) := by
  unfold powerDownOrder
  repeat' first | intro _ | (with_reducible first | assumption | apply keep_ite | apply keep_State_downAll) | simp only [kept_mk] | split | dsimp only

theorem keep_State_powerFault (src : _) {s : State} (hK : Kept qs planOk s) : Kept qs planOk (State.powerFault s src) := by
  unfold State.powerFault
  repeat' first
    | intro _ | (with_reducible first
        | assumption | apply keep_ite | apply keep_State_fastReset | apply keep_State_startDown | apply keep_State_toStandby)
    | simp only [kept_mk] | split | dsimp only

theorem keep_State_wakeUp {s : State} (hK : Kept qs P s) : Kept qs P (State.wakeUp s) := by
  unfold State.wakeUp
  repeat' first
    | intro _ | (with_reducible first | assumption | apply keep_ite | apply keep_State_modSup | apply keep_State_startUp)
    | simp only [kept_mk] | split | dsimp only

theorem keep_State_railFault (r : _) {s : State} (hK : Kept qs planOk s) : Kept qs planOk (State.railFault s r) := by
  unfold State.railFault
  repeat' first
    | intro _ | (with_reducible first | assumption | apply keep_ite | apply keep_State_supplyEvent | apply keep_State_powerFault)
    | split | dsimp only

theorem keep_State_railRead (x : _) {s : State} (hK : Kept qs planOk s) : Kept qs planOk (State.railRead s x) := by
  unfold State.railRead
  repeat' first
    | intro _ | (with_reducible first
        | assumption | apply keep_ite | apply keep_State_modSup | apply keep_State_supplyEvent | apply keep_State_railFault)
    | simp only [kept_mk] | split | dsimp only

theorem keep_smbalertN (x : _) {s : State} (hK : Kept qs planOk s) : Kept qs planOk (smbalertN x s) := by
  unfold smbalertN
  repeat' first
    | intro _ | (with_reducible first
        | assumption | apply keep_ite | apply keep_State_modSup | apply keep_State_supplyEvent | apply keep_State_railFault)
    | simp only [kept_mk] | split | dsimp only

theorem keep_powerFailWarning {s : State} (hK : Kept qs planOk s) : Kept qs planOk (powerFailWarning s) := by
  unfold powerFailWarning
  repeat' first
    | intro _ | (with_reducible first
        | assumption | apply keep_ite | apply keep_State_retain | apply keep_State_noteBp | apply keep_State_modSup | apply keep_State_hold
        | apply keep_State_fastDown | apply keep_State_supplyEvent)
    | simp only [kept_mk] | split | dsimp only

theorem keep_powerFailRecovery {s : State} (hK : Kept qs P s) : Kept qs P (powerFailRecovery s) := by
  unfold powerFailRecovery
  repeat' first
    | intro _ | (with_reducible first
        | assumption | apply keep_ite | apply keep_State_noteBp | apply keep_State_modSup | apply keep_State_unhold | apply keep_State_resetEvent
        | apply keep_State_resetRecord | apply keep_State_abandonLost | apply keep_State_startUp)
    | simp only [kept_mk] | split | dsimp only

theorem keep_fastDomainReset (source : _) {s : State} (hK : Kept qs planOk s) : Kept qs planOk (fastDomainReset source s) := by
  unfold fastDomainReset
  repeat' first
    | intro _ | (with_reducible first
        | assumption | apply keep_ite | apply keep_State_modSup | apply keep_State_hold | apply keep_State_fastReset
        | apply keep_State_clearRetention)
    | simp only [kept_mk] | split | dsimp only

theorem keep_fastDomainRelease (source : _) {s : State} (hK : Kept qs P s) : Kept qs P (fastDomainRelease source s) := by
  unfold fastDomainRelease
  repeat' first | intro _ | (with_reducible first | assumption | apply keep_ite | apply keep_State_unhold) | split | dsimp only

theorem keep_rstNAssert {s : State} (hK : Kept qs planOk s) : Kept qs planOk (rstNAssert s) := by
  unfold rstNAssert
  repeat' first
    | intro _ | (with_reducible first | assumption | apply keep_ite | apply keep_State_modSup | apply keep_State_hold | apply keep_State_fastReset)
    | simp only [kept_mk] | split | dsimp only

theorem keep_State_passMs (ms : _) {s : State} (hK : Kept qs P s) : Kept qs P (State.passMs s ms) := by
  unfold State.passMs
  repeat' first
    | intro _ | (with_reducible first
        | assumption | apply keep_ite | apply keep_State_passWithin | apply keepopt_some | exact keepopt_none | refine keep_some (by assumption) ?_
        | apply keep_getD)
    | split | dsimp only

theorem keep_rstNDeassert (ms : _) {s : State} (hK : Kept qs P s) : Kept qs P (rstNDeassert ms s) := by
  unfold rstNDeassert
  repeat' first
    | intro _ | (with_reducible first
        | assumption | apply keep_ite | apply keep_State_modSup | apply keep_State_modBoot | apply keep_State_unhold
        | apply keep_State_clearRetention | apply keep_State_passMs)
    | simp only [kept_mk] | split | dsimp only

theorem keep_resetStuck {s : State} (hK : Kept qs P s) : Kept qs P (resetStuck s) := by
  unfold resetStuck
  repeat' first
    | intro _ | (with_reducible first | assumption | apply keep_ite | apply keep_State_raise | apply keep_State_modSup | apply keep_State_passMs)
    | simp only [kept_mk] | split | dsimp only

theorem keep_State_overrideRstn {s : State} (hK : Kept qs P s) : Kept qs P (State.overrideRstn s) := by
  unfold State.overrideRstn
  repeat' first
    | intro _ | (with_reducible first | assumption | apply keep_ite | apply keep_State_modSup | apply keep_State_unhold)
    | simp only [kept_mk] | split | dsimp only

theorem keep_perstNAssert {s : State} (hK : Kept qs planOk s) : Kept qs planOk (perstNAssert s) := by
  unfold perstNAssert
  repeat' first
    | intro _ | (with_reducible first | assumption | apply keep_ite | apply keep_State_modSup | apply keep_State_hold | apply keep_State_fastReset)
    | simp only [kept_mk] | split | dsimp only

theorem keep_perstNDeassert {s : State} (hK : Kept qs P s) : Kept qs P (perstNDeassert s) := by
  unfold perstNDeassert
  repeat' first
    | intro _ | (with_reducible first | assumption | apply keep_ite | apply keep_State_modSup | apply keep_State_unhold | apply keep_State_wakeUp)
    | simp only [kept_mk] | split | dsimp only

theorem keep_State_coreRestart {s : State} (hK : Kept qs P s) : Kept qs P (State.coreRestart s) := by
  unfold State.coreRestart
  repeat' first | intro _ | (with_reducible first | assumption | apply keep_ite | apply keep_State_setBlk) | simp only [kept_mk] | split | dsimp only

theorem keep_watchdogExpiry {s : State} (hK : Kept qs P s) : Kept qs P (watchdogExpiry s) := by
  unfold watchdogExpiry
  repeat' first
    | intro _ | (with_reducible first
        | assumption | apply keep_ite | apply keep_State_toAcy | apply keep_State_modSup | apply keep_State_modBoot | apply keep_State_resetEvent
        | apply keep_State_coreRestart | apply keepopt_some | exact keepopt_none | refine keep_some (by assumption) ?_ | apply keep_getD)
    | simp only [kept_mk] | split | dsimp only

theorem keep_State_loadFlash {s : State} (hK : Kept qs P s) : Kept qs P (State.loadFlash s) := by
  unfold State.loadFlash
  repeat' first | intro _ | (with_reducible first | assumption | apply keep_ite | apply keep_foldl) | simp only [kept_mk] | split | dsimp only

theorem look_ring {t : List (Nat × List Byte)} (h : ∀ e ∈ t, e.1 < 4096 ∧ e.2.length = 64) (n : Nat) :
    (look (List.replicate 64 0) t n).length = 64 := by
  induction t with
  | nil => rfl
  | cons e t ih =>
    unfold look
    split
    · exact (h _ (by simp)).2
    · exact ih fun e he => h e (by simp [he])

theorem keep_State_tornSlot {qs : List Instr} {P : PlanPred} {s : State} (beats : _) (h : Kept qs P s) : Kept qs P (State.tornSlot s beats) := by
  unfold State.tornSlot
  split
  · exact h
  · dsimp only
    split
    · exact h
    · have h4 := h.ring
      obtain ⟨a1, a2, a3, a4, a5, a6⟩ := h
      refine ⟨a1, a2, a3, put_ring a4 _ _ (Nat.mod_lt _ (by decide)) ?_, a5, a6⟩
      have := look_ring h4 (s.jnl.next.toNat % 4096)
      simp only [List.length_append, List.length_take, List.length_drop, recordBytes_length, Jnl.slot, this]
      omega

theorem keep_lossOfVaon18 {qs : List Instr} {s : State} (beats : _) (h : Kept qs planOk s) : Kept qs planOk (lossOfVaon18 beats s) := by
  unfold lossOfVaon18
  split
  · exact h
  · have h1 : Kept qs planOk (if s.supply.pfw = true then s else s.tornSlot beats) := by
      split
      · exact h
      · exact keep_State_tornSlot _ h
    dsimp only
    generalize (if s.supply.pfw = true then s else s.tornSlot beats) = t at h1 ⊢
    obtain ⟨a1, a2, a3, a4, a5, a6⟩ := h1
    exact ⟨a1, a2, a3, a4, a5, rfl, rfl, rfl, rfl⟩

theorem keep_State_warmJournal {qs : List Instr} {P : PlanPred} {s : State} (h : Kept qs P s) : Kept qs P (State.warmJournal s) := by
  unfold State.warmJournal
  dsimp only
  split
  · exact h
  · split
    · exact keep_State_modJnl h (fun _ => rfl) (fun _ => rfl)
    · refine keep_State_raise _ _ _ _ ?_
      obtain ⟨a1, a2, a3, a4, a5, a6⟩ := h
      exact ⟨a1, a2, a3, fun e he => a4 e (mem_unlist he), a5, a6⟩

theorem resumed_ns (t : Time) (n : Nat) : (t.resumed n).ns < 1000000000 := Nat.mod_lt _ (by decide)

theorem keep_State_warmStart {qs : List Instr} {P : PlanPred} {s : State} (ticks : _) (h : Kept qs P s) : Kept qs P (State.warmStart s ticks) := by
  have h1 : ∀ t : Time, t.ns < 1000000000 → Kept qs P { s with time := t } := by
    intro t ht
    obtain ⟨a1, a2, a3, a4, a5, a6⟩ := h
    exact ⟨a1, ht, a3, a4, a5, a6⟩
  unfold State.warmStart
  dsimp only
  split
  · exact keep_State_timeEvent _ _ (keep_State_abandonLost (keep_State_resetRecord _ _ (keep_State_warmJournal (h1 _ (by show 0 < 1000000000; decide)))))
  · exact keep_State_timeEvent _ _ (keep_State_abandonLost (keep_State_resetRecord _ _ (keep_State_warmJournal (h1 _ (resumed_ns _ _)))))

theorem keep_State_coldStart {qs : List Instr} {P : PlanPred} {s : State} (h : Kept qs P s) : Kept qs P (State.coldStart s) := by
  unfold State.coldStart
  dsimp only
  refine keep_State_clearRetention _ _ ?_
  obtain ⟨a1, a2, a3, a4, a5, a6⟩ := h
  exact ⟨a1, by show 0 < 1000000000; decide, a3, a4, a5, a6⟩

theorem keep_State_takeRecords (found : _) {s : State} (hK : Kept qs P s) : Kept qs P (State.takeRecords s found) := by
  unfold State.takeRecords
  repeat' first | intro _ | (with_reducible first | assumption | apply keep_ite | apply keep_foldl) | simp only [kept_mk] | split | dsimp only

theorem keep_State_takeRetained (found : _) {s : State} (h : Kept qs P s) : Kept qs P (State.takeRetained s found) := by
  obtain ⟨a1, a2, a3, a4, a5, a6⟩ := h
  exact ⟨a1, Nat.mod_lt _ (by decide), a3, a4, a5, a6⟩

theorem keep_aonPowerOn (ticks : _) (damage : _) (sound : _) (pages : _) {s : State} (hK : Kept qs P s) : Kept qs P (aonPowerOn ticks damage sound
    pages s) := by
  unfold aonPowerOn
  repeat' first
    | intro _ | (with_reducible first
        | assumption | apply keep_ite | apply keep_foldl | apply keep_State_modJnl | apply keep_State_latch | apply keep_State_modSup
        | apply keep_State_modBoot | apply keep_State_supplyEvent | apply keep_State_loadFlash | apply keep_State_warmStart
        | apply keep_State_coldStart | apply keep_State_takeRecords | apply keep_State_takeRetained | rfl)
    | simp only [kept_mk] | split | dsimp only

theorem keep_State_setSlot (n : _) (x : _) {s : State} (hK : Kept qs P s) : Kept qs P (State.setSlot s n x) := by
  unfold State.setSlot
  repeat' first | intro _ | (with_reducible first | assumption | apply keep_ite | apply keep_State_modBoot) | simp only [kept_mk] | split | dsimp only

theorem keep_State_bootEvent (code : _) (version : _) {s : State} (hK : Kept qs P s) : Kept qs P (State.bootEvent s code version) := by
  unfold State.bootEvent
  repeat' first | intro _ | (with_reducible first | assumption | apply keep_ite | apply keep_State_raise) | split | dsimp only

theorem keep_State_considerSlot (out : _) (best : _) (n : _) {s : State} (hK : Kept qs P s) : Kept qs P (State.considerSlot s out best n).1 := by
  unfold State.considerSlot
  repeat' first
    | intro _ | (with_reducible first
        | assumption | apply keep_ite | apply keep_State_setSlot | apply keep_State_bootEvent | refine keep_fst (by assumption) ?_)
    | split | dsimp only | simp only [kept_mk]

theorem keep_State_selectSlot (out : _) {s : State} (hK : Kept qs P s) : Kept qs P (State.selectSlot s out).1 := by
  unfold State.selectSlot
  repeat' first
    | intro _ | (with_reducible first | assumption | apply keep_ite | apply keep_State_considerSlot | refine keep_fst (by assumption) ?_)
    | split | dsimp only

theorem keep_State_trySlot (inp : _) (out : _) {s : State} (hK : Kept qs P s) : Kept qs P (State.trySlot s inp out).1 := by
  unfold State.trySlot
  repeat' first
    | intro _ | (with_reducible first
        | assumption | apply keep_ite | apply keep_State_bootEvent | apply keep_State_selectSlot | refine keep_fst (by assumption) ?_)
    | split | dsimp only | simp only [kept_mk]

theorem keep_State_chooseSlot (inp : _) {s : State} (hK : Kept qs P s) : Kept qs P (State.chooseSlot s inp).1 := by
  unfold State.chooseSlot
  repeat' first
    | intro _ | (with_reducible first | assumption | apply keep_ite | apply keep_State_trySlot | refine keep_fst (by assumption) ?_)
    | split | dsimp only | simp only [kept_mk]

theorem keep_State_enterRecovery {s : State} (hK : Kept qs planOk s) : Kept qs planOk (State.enterRecovery s) := by
  unfold State.enterRecovery
  repeat' first
    | intro _ | (with_reducible first
        | assumption | apply keep_ite | apply keep_State_modBoot | apply keep_State_startDown | apply keep_State_powerFault
        | apply keep_State_bootEvent)
    | simp only [kept_mk] | split | dsimp only

theorem keep_State_bootDone (st : _) {s : State} (hK : Kept qs P s) : Kept qs P (State.bootDone s st) := by
  unfold State.bootDone
  repeat' first
    | intro _ | (with_reducible first | assumption | apply keep_ite | apply keep_State_modHif | apply keep_State_modBoot)
    | simp only [kept_mk] | split | dsimp only

theorem keep_State_bootRails (board : _) {s : State} (hK : Kept qs P s) : Kept qs P (State.bootRails s board) := by
  unfold State.bootRails
  repeat' first
    | intro _ | (with_reducible first
        | assumption | apply keep_ite | apply keep_State_modSup | apply keep_State_modBoot | apply keep_State_startDown | apply keep_State_startUp)
    | simp only [kept_mk] | split | dsimp only

theorem keep_State_bootJump (n : _) (board : _) (patch : _) {s : State} (hK : Kept qs planOk s) : Kept qs planOk (State.bootJump s n board patch) :=
    by
  unfold State.bootJump
  repeat' first
    | intro _ | (with_reducible first
        | assumption | apply keep_ite | apply keep_State_loaded | apply keep_State_modSup | apply keep_State_modBoot | apply keep_State_fastReset
        | apply keep_State_setSlot | apply keep_State_bootEvent | apply keep_State_bootDone | apply keep_State_bootRails)
    | simp only [kept_mk] | split | dsimp only

theorem keep_State_bootFlash (inp : _) {s : State} (hK : Kept qs planOk s) : Kept qs planOk (State.bootFlash s inp) := by
  unfold State.bootFlash
  repeat' first
    | intro _ | (with_reducible first
        | assumption | apply keep_ite | apply keep_foldl | apply keep_State_modBoot | apply keep_State_setSlot | apply keep_State_chooseSlot
        | apply keep_State_enterRecovery | apply keep_State_bootJump | refine keep_fst (by assumption) ?_)
    | simp only [kept_mk] | split | dsimp only

theorem keep_State_startFail (die : _) (other : _) (code : _) (detail : _) {s : State} (hK : Kept qs P s) : Kept qs P (State.startFail s die other
    code detail) := by
  unfold State.startFail
  repeat' first
    | intro _ | (with_reducible first
        | assumption | apply keep_ite | apply keep_State_setCounter | apply keep_State_raise | apply keep_State_modBoot)
    | simp only [kept_mk] | split | dsimp only

theorem keep_State_startSweep (l : _) {s : State} (hK : Kept qs P s) : Kept qs P (State.startSweep s l) := by
  unfold State.startSweep
  repeat' first
    | intro _ | (with_reducible first
        | assumption | apply keep_ite | apply keep_foldl | apply keep_State_setCounter | apply keep_State_raise | apply keep_State_candidateAt
        | apply keep_State_nodesTested | apply keep_State_applyRepair | refine keep_fst (by assumption) ?_)
    | split | dsimp only

theorem keep_State_patchLevel {s : State} (hK : Kept qs P s) : Kept qs P (State.patchLevel s).1 := by
  unfold State.patchLevel
  repeat' first
    | intro _ | (with_reducible first | assumption | apply keep_ite | apply keep_State_bootEvent | refine keep_fst (by assumption) ?_)
    | split | dsimp only

theorem keep_State_bootLinks (inp : _) {s : State} (hK : Kept qs P s) : Kept qs P (State.bootLinks s inp) := by
  unfold State.bootLinks
  repeat' first
    | intro _ | (with_reducible first
        | assumption | apply keep_ite | apply keep_foldl | apply keep_State_eachPort | apply keep_State_linkTo | apply keep_State_restartPlls
        | apply keep_State_modBoot | apply keep_State_bootDone | apply keep_State_startSweep | apply keep_State_patchLevel
        | refine keep_fst (by assumption) ?_)
    | simp only [kept_mk] | split | dsimp only

theorem keep_State_bootEdge (inp : _) {s : State} (hK : Kept qs P s) : Kept qs P (State.bootEdge s inp) := by
  unfold State.bootEdge
  repeat' first
    | intro _ | (with_reducible first
        | assumption | apply keep_ite | apply keep_foldl | apply keep_State_eachPort | apply keep_State_modHif | apply keep_State_linkTo
        | apply keep_State_bootEvent | apply keep_State_bootDone | apply keep_State_startFail | apply keep_State_bootLinks)
    | simp only [kept_mk] | split | dsimp only

theorem keep_bootSequence (inp : _) {s : State} (hK : Kept qs planOk s) : Kept qs planOk (bootSequence inp s) := by
  unfold bootSequence
  repeat' first
    | intro _ | (with_reducible first
        | assumption | apply keep_ite | apply keep_State_bootFlash | apply keep_State_bootLinks | apply keep_State_bootEdge)
    | simp only [kept_mk] | split | dsimp only

theorem keep_State_applyOverride {s : State} (hK : Kept qs P s) : Kept qs P (State.applyOverride s) := by
  unfold State.applyOverride
  repeat' first
    | intro _ | (with_reducible first | assumption | apply keep_ite | apply keep_State_modBoot | apply keep_State_bootEvent)
    | simp only [kept_mk] | split | dsimp only

theorem keep_confirmation (rollOk : _) (revokeOk : _) {s : State} (hK : Kept qs P s) : Kept qs P (confirmation rollOk revokeOk s) := by
  unfold confirmation
  repeat' first
    | intro _ | (with_reducible first
        | assumption | apply keep_ite | apply keep_State_toAcy | apply keep_State_modBoot | apply keep_State_setSlot | apply keep_State_bootEvent
        | apply keepopt_some | exact keepopt_none | refine keep_some (by assumption) ?_ | apply keep_getD)
    | simp only [kept_mk] | split | dsimp only

end Sys2Proof.Machine
end

