-- ==== Sys2Proof/Laws/KeptRest.lean ====
section
/-! SUPPORT. What the clock monitors, the dictionary, accesses, sweeps and the commands keep: one lemma for each operation. -/

set_option maxRecDepth 4000

namespace Sys2Proof.Machine

variable {qs : List Instr} {P : PlanPred}

theorem keep_State_linkClockLost (p : _) {s : State} (hK : Kept qs P s) : Kept qs P (State.linkClockLost s p) := by
  unfold State.linkClockLost
  repeat' first | intro _ | (with_reducible first | assumption | apply keep_ite | apply keep_State_linkTo) | split | dsimp only

theorem keep_State_quarterClockLost (q : _) {s : State} (hK : Kept qs planOk s) : Kept qs planOk (State.quarterClockLost s q) := by
  unfold State.quarterClockLost
  repeat' first
    | intro _ | (with_reducible first | assumption | apply keep_ite | apply keep_State_setPll | apply keep_State_stopPll | apply keep_State_haltNow)
    | simp only [kept_mk] | split | dsimp only

theorem keep_State_e1Lost {s : State} (hK : Kept qs P s) : Kept qs P (State.e1Lost s) := by
  unfold State.e1Lost
  repeat' first
    | intro _ | (with_reducible first | assumption | apply keep_ite | apply keep_foldl | apply keep_State_linkClockLost)
    | simp only [kept_mk] | split | dsimp only

theorem keep_State_clockEffect (d : _) (port : _) {s : State} (hK : Kept qs planOk s) : Kept qs planOk (State.clockEffect s d port) := by
  unfold State.clockEffect
  repeat' first
    | intro _ | (with_reducible first
        | assumption | apply keep_ite | apply keep_State_eachPort | apply keep_State_modHif | apply keep_State_setLocks | apply keep_State_haltNow
        | apply keep_State_clearHif | apply keep_State_hold | apply keep_State_fastReset | apply keep_State_linkClockLost
        | apply keep_State_quarterClockLost | apply keep_State_e1Lost)
    | simp only [kept_mk] | split | dsimp only

theorem keep_clockMonitorFailure (d : _) (port : _) (stopped : _) (ppm : _) {s : State} (hK : Kept qs planOk s) : Kept qs planOk (clockMonitorFailure
    d port stopped ppm s) := by
  unfold clockMonitorFailure
  repeat' first
    | intro _ | (with_reducible first | assumption | apply keep_ite | apply keep_State_bump | apply keep_State_raise | apply keep_State_clockEffect)
    | simp only [kept_mk] | split | dsimp only

theorem keep_clockMonitorGood (d : _) (ppm : _) {s : State} (hK : Kept qs P s) : Kept qs P (clockMonitorGood d ppm s) := by
  unfold clockMonitorGood
  repeat' first | intro _ | (with_reducible first | assumption | apply keep_ite | apply keep_State_raise) | simp only [kept_mk] | split | dsimp only

theorem keep_State_modTherm (f : _) {s : State} (hK : Kept qs P s) : Kept qs P (State.modTherm s f) := by
  unfold State.modTherm
  repeat' first | intro _ | (with_reducible first | assumption | apply keep_ite) | simp only [kept_mk] | split | dsimp only

theorem keep_State_thresholds (site : _) {s : State} (hK : Kept qs P s) : Kept qs P (State.thresholds s site) := by
  unfold State.thresholds
  repeat' first
    | intro _ | (with_reducible first | assumption | apply keep_ite | apply keep_State_raiseThermal | apply keep_State_modTherm)
    | simp only [kept_mk] | split | dsimp only

theorem keep_sensorConversion (site : _) (reading : _) {s : State} (hK : Kept qs P s) : Kept qs P (sensorConversion site reading s) := by
  unfold sensorConversion
  repeat' first
    | intro _ | (with_reducible first
        | assumption | apply keep_ite | apply keep_State_raiseThermal | apply keep_State_modTherm | apply keep_State_thresholds)
    | simp only [kept_mk] | split | dsimp only

theorem keep_thermtripAssert (site : _) {s : State} (hK : Kept qs planOk s) : Kept qs planOk (thermtripAssert site s) := by
  unfold thermtripAssert
  repeat' first
    | intro _ | (with_reducible first
        | assumption | apply keep_ite | apply keep_State_raiseThermal | apply keep_State_haltNow | apply keep_State_powerFault
        | apply keep_State_modTherm)
    | simp only [kept_mk] | split | dsimp only

theorem keep_thermtripRelease {s : State} (hK : Kept qs P s) : Kept qs P (thermtripRelease s) := by
  unfold thermtripRelease
  repeat' first
    | intro _ | (with_reducible first
        | assumption | apply keep_ite | apply keep_State_passWithin | apply keep_State_raiseThermal | apply keep_State_modTherm
        | apply keepopt_some | exact keepopt_none | refine keep_some (by assumption) ?_ | apply keep_getD)
    | simp only [kept_mk] | split | dsimp only

theorem keep_State_dictEvent (path : _) (i : _) (sub : _) (l : _) {s : State} (hK : Kept qs P s) : Kept qs P (State.dictEvent s path i sub l) := by
  unfold State.dictEvent
  repeat' first | intro _ | (with_reducible first | assumption | apply keep_ite | apply keep_State_raisePath) | split | dsimp only

theorem keep_State_leaseEvent (p : _) (code : _) {s : State} (hK : Kept qs P s) : Kept qs P (State.leaseEvent s p code) := by
  unfold State.leaseEvent
  repeat' first | intro _ | (with_reducible first | assumption | apply keep_ite | apply keep_State_dictEvent) | split | dsimp only

theorem keep_State_modUnlock (p : _) (f : _) {s : State} (hK : Kept qs P s) : Kept qs P (State.modUnlock s p f) := by
  unfold State.modUnlock
  repeat' first | intro _ | (with_reducible first | assumption | apply keep_ite) | simp only [kept_mk] | split | dsimp only

theorem keep_State_newChallenge (p : _) {s : State} (hK : Kept qs P s) : Kept qs P (State.newChallenge s p).1 := by
  unfold State.newChallenge
  repeat' first
    | intro _ | (with_reducible first
        | assumption | apply keep_ite | apply keep_State_retain | apply keep_State_modUnlock | refine keep_fst (by assumption) ?_)
    | split | dsimp only | simp only [kept_mk]

theorem keep_State_responseFailed (p : _) (code : _) {s : State} (hK : Kept qs P s) : Kept qs P (State.responseFailed s p code) := by
  unfold State.responseFailed
  repeat' first
    | intro _ | (with_reducible first | assumption | apply keep_ite | apply keep_State_bump | apply keep_State_modUnlock)
    | simp only [kept_mk] | split | dsimp only

theorem keep_State_serveResponse (p : _) (code : _) (l : _) {s : State} (hK : Kept qs P s) : Kept qs P (State.serveResponse s p code l).1 := by
  unfold State.serveResponse
  repeat' first
    | intro _ | (with_reducible first
        | assumption | apply keep_ite | apply keep_State_leaseEvent | apply keep_State_modUnlock | apply keep_State_responseFailed
        | refine keep_fst (by assumption) ?_)
    | split | dsimp only | simp only [kept_mk]

theorem keep_State_endLease (p : _) (code : _) {s : State} (hK : Kept qs P s) : Kept qs P (State.endLease s p code) := by
  unfold State.endLease
  repeat' first
    | intro _ | (with_reducible first | assumption | apply keep_ite | apply keep_State_leaseEvent | apply keep_State_modUnlock)
    | simp only [kept_mk] | split | dsimp only

theorem keep_State_setSetting (i : _) (sub : _) (v : _) {s : State} (hK : Kept qs P s) : Kept qs P (State.setSetting s i sub v) := by
  unfold State.setSetting
  repeat' first | intro _ | (with_reducible first | assumption | apply keep_ite) | simp only [kept_mk] | split | dsimp only

theorem keep_State_modElt (f : _) {s : State} (hK : Kept qs P s) : Kept qs P (State.modElt s f) := by
  unfold State.modElt
  repeat' first | intro _ | (with_reducible first | assumption | apply keep_ite) | simp only [kept_mk] | split | dsimp only

theorem keep_State_removeMail (tag : _) {s : State} (hK : Kept qs P s) : Kept qs P (State.removeMail s tag) := by
  unfold State.removeMail
  repeat' first | intro _ | (with_reducible first | assumption | apply keep_ite | apply keep_State_modElt) | simp only [kept_mk] | split | dsimp only

theorem keep_State_setWatchdog (v : _) {s : State} (hK : Kept qs P s) : Kept qs P (State.setWatchdog s v) := by
  unfold State.setWatchdog
  repeat' first
    | intro _ | (with_reducible first | assumption | apply keep_ite | apply keep_State_modSup | apply keep_State_setSetting)
    | simp only [kept_mk] | split | dsimp only

theorem keep_State_setOverride (v : _) {s : State} (hK : Kept qs planOk s) : Kept qs planOk (State.setOverride s v) := by
  unfold State.setOverride
  repeat' first
    | intro _ | (with_reducible first
        | assumption | apply keep_ite | apply keep_State_modSup | apply keep_State_hold | apply keep_State_fastReset
        | apply keep_State_overrideRstn)
    | simp only [kept_mk] | split | dsimp only

theorem keep_State_goStandby {s : State} (hK : Kept qs planOk s) : Kept qs planOk (State.goStandby s) := by
  unfold State.goStandby
  repeat' first
    | intro _ | (with_reducible first
        | assumption | apply keep_ite | apply keep_State_modHif | apply keep_State_noteBp | apply keep_State_disarmNow | apply keep_State_clearHif
        | apply keep_State_fastCleared | apply keep_State_portsHeld | apply keep_State_startDown | apply keep_State_toStandby)
    | simp only [kept_mk] | split | dsimp only

theorem keep_State_askReset (src : _) {s : State} (hK : Kept qs P s) : Kept qs P (State.askReset s src) := by
  unfold State.askReset
  repeat' first | intro _ | (with_reducible first | assumption | apply keep_ite | apply keep_State_modSup) | simp only [kept_mk] | split | dsimp only

theorem keep_State_portObjectWrite (n : _) (sub : _) (v : _) {s : State} (hK : Kept qs P s) : Kept qs P (State.portObjectWrite s n sub v) := by
  unfold State.portObjectWrite
  repeat' first
    | intro _ | (with_reducible first
        | assumption | apply keep_ite | apply keep_State_modPort | apply keep_State_toRetrain | apply keep_State_linkEnable)
    | simp only [kept_mk] | split | dsimp only

theorem keep_State_objWrite (p : _) (code : _) (i : _) (sub : _) (l : _) {s : State} (hK : Kept qs planOk s) : Kept qs planOk (State.objWrite s p code
    i sub l) := by
  unfold State.objWrite
  repeat' first
    | intro _ | (with_reducible first
        | assumption | apply keep_ite | apply keep_State_modTime | apply keep_State_applyTime | apply keep_State_wakeUp
        | apply keep_State_applyOverride | apply keep_State_endLease | apply keep_State_setSetting | apply keep_State_modElt
        | apply keep_State_removeMail | apply keep_State_setWatchdog | apply keep_State_setOverride | apply keep_State_goStandby
        | apply keep_State_askReset | apply keep_State_portObjectWrite | refine keep_fst (by assumption) ?_ | rfl)
    | simp only [kept_mk] | split | dsimp only

theorem keep_State_dictApply (p : _) (event : _) (i : _) (sub : _) (l : _) (w : _) {s : State} (hK : Kept qs planOk s) : Kept qs planOk
    (State.dictApply s p event i sub l w) := by
  unfold State.dictApply
  repeat' first
    | intro _ | (with_reducible first | assumption | apply keep_ite | apply keep_State_dictEvent | apply keep_State_objWrite)
    | simp only [kept_mk] | split | dsimp only

theorem keep_State_fastRead (p : _) (i : _) (sub : _) (n : _) (ecc : _) {s : State} (hK : Kept qs P s) : Kept qs P (State.fastRead s p i sub n ecc).1
    := by
  unfold State.fastRead
  repeat' first
    | intro _ | (with_reducible first
        | assumption | apply keep_ite | apply keep_State_bump | apply keep_State_useFree | apply keep_State_corrected
        | apply keep_State_uncorrectable | apply keep_State_modHif | apply keep_journalWindowRead | refine keep_fst (by assumption) ?_)
    | split | dsimp only | simp only [kept_mk]

theorem keep_State_serveDeferred (p : _) (event : _) (write : _) (i : _) (sub : _) (n : _) (l : _) (w : _) {s : State} (hK : Kept qs planOk s) : Kept
    qs planOk (State.serveDeferred s p event write i sub n l w).1 := by
  unfold State.serveDeferred
  repeat' first
    | intro _ | (with_reducible first
        | assumption | apply keep_ite | apply keep_State_dictEvent | apply keep_State_newChallenge | apply keep_State_serveResponse
        | apply keep_State_dictApply | refine keep_fst (by assumption) ?_)
    | split | dsimp only | simp only [kept_mk]

theorem keep_State_endDict (c : _) (st : _) (l : _) {s : State} (hK : Kept qs P s) : Kept qs P (State.endDict s c st l) := by
  unfold State.endDict
  repeat' first
    | intro _ | (with_reducible first | assumption | apply keep_ite | apply keep_State_hostWrite | apply keep_State_endCmd)
    | split | dsimp only

theorem keep_State_endWindow (st : _) (l : _) {s : State} (hK : Kept qs P s) : Kept qs P (State.endWindow s st l) := by
  unfold State.endWindow
  repeat' first | intro _ | (with_reducible first | assumption | apply keep_ite | apply keep_State_modHif) | simp only [kept_mk] | split | dsimp only

theorem keep_State_mailResult (st : _) (l : _) {s : State} (hK : Kept qs P s) : Kept qs P (State.mailResult s st l) := by
  unfold State.mailResult
  repeat' first | intro _ | (with_reducible first | assumption | apply keep_ite | apply keep_State_modElt) | simp only [kept_mk] | split | dsimp only

theorem keep_State_flashDone (w : _) (st : _) {s : State} (hK : Kept qs P s) : Kept qs P (State.flashDone s w st) := by
  unfold State.flashDone
  repeat' first
    | intro _ | (with_reducible first
        | assumption | apply keep_ite | apply keep_State_endDict | apply keep_State_endWindow | apply keep_State_mailResult)
    | simp only [kept_mk] | split | dsimp only

theorem keep_flashCopyCommit (written : _) {s : State} (hK : Kept qs P s) : Kept qs P (flashCopyCommit written s) := by
  unfold flashCopyCommit
  repeat' first
    | intro _ | (with_reducible first
        | assumption | apply keep_ite | apply keep_State_setFlash | apply keep_State_supplyEvent | apply keep_State_flashDone)
    | simp only [kept_mk] | split | dsimp only

theorem keep_State_noteRefused (p : _) (write : _) (i : _) (sub : _) (l : _) (st : _) {s : State} (hK : Kept qs P s) : Kept qs P (State.noteRefused s
    p write i sub l st) := by
  unfold State.noteRefused
  repeat' first | intro _ | (with_reducible first | assumption | apply keep_ite | apply keep_State_refuseTime) | split | dsimp only

theorem keep_State_dictAccess (p : _) (event : _) (write : _) (i : _) (sub : _) (n : _) (l : _) (ecc : _) (w : _) {s : State} (hK : Kept qs planOk s)
    : Kept qs planOk (State.dictAccess s p event write i sub n l ecc w).1 := by
  unfold State.dictAccess
  repeat' first
    | intro _ | (with_reducible first
        | assumption | apply keep_ite | apply keep_State_dictApply | apply keep_State_fastRead | apply keep_State_serveDeferred
        | apply keep_State_noteRefused | refine keep_fst (by assumption) ?_)
    | split | dsimp only

theorem keep_State_rowAccess (p : _) (write : _) (i : _) (sub : _) (n : _) (l : _) {s : State} (hK : Kept qs planOk s) : Kept qs planOk
    (State.rowAccess s p write i sub n l) := by
  unfold State.rowAccess
  repeat' first
    | intro _ | (with_reducible first | assumption | apply keep_ite | apply keep_State_dictAccess | refine keep_fst (by assumption) ?_)
    | simp only [kept_mk] | split | dsimp only

theorem keep_State_windowAccess (req : _) (ecc : _) {s : State} (hK : Kept qs planOk s) : Kept qs planOk (State.windowAccess s req ecc) := by
  unfold State.windowAccess
  repeat' first
    | intro _ | (with_reducible first
        | assumption | apply keep_ite | apply keep_State_endWindow | apply keep_State_dictAccess | refine keep_fst (by assumption) ?_)
    | simp only [kept_mk] | split | dsimp only

theorem keep_dictWindowAccess (req : _) (ecc : _) {s : State} (hK : Kept qs planOk s) : Kept qs planOk (dictWindowAccess req ecc s) := by
  unfold dictWindowAccess
  repeat' first
    | intro _ | (with_reducible first | assumption | apply keep_ite | apply keep_State_modHif | apply keep_State_windowAccess)
    | simp only [kept_mk] | split | dsimp only

theorem keep_dictRead (seq : _) {s : State} (hK : Kept qs P s) : Kept qs P (dictRead seq s) := by
  unfold dictRead
  repeat' first
    | intro _ | (with_reducible first | assumption | apply keep_ite | apply keep_State_runCmd | apply keep_State_endDict)
    | simp only [kept_mk] | split | dsimp only

theorem keep_State_dictReadDone (c : _) (e : _) {s : State} (hK : Kept qs planOk s) : Kept qs planOk (State.dictReadDone s c e) := by
  unfold State.dictReadDone
  repeat' first
    | intro _ | (with_reducible first
        | assumption | apply keep_ite | apply keep_State_uncorrectable | apply keep_State_fastRead | apply keep_State_serveDeferred
        | apply keep_State_endDict | refine keep_fst (by assumption) ?_)
    | simp only [kept_mk] | split | dsimp only

theorem keep_dictWrite (seq : _) (data : _) {s : State} (hK : Kept qs planOk s) : Kept qs planOk (dictWrite seq data s) := by
  unfold dictWrite
  repeat' first
    | intro _ | (with_reducible first
        | assumption | apply keep_ite | apply keep_State_modCmd | apply keep_State_hostReadFail | apply keep_State_runCmd
        | apply keep_State_dictApply | apply keep_State_endDict | apply keep_State_noteRefused)
    | simp only [kept_mk] | split | dsimp only

theorem keep_State_dictWriteDone (c : _) {s : State} (hK : Kept qs planOk s) : Kept qs planOk (State.dictWriteDone s c) := by
  unfold State.dictWriteDone
  repeat' first
    | intro _ | (with_reducible first
        | assumption | apply keep_ite | apply keep_State_dictApply | apply keep_State_serveDeferred | apply keep_State_endDict
        | refine keep_fst (by assumption) ?_)
    | simp only [kept_mk] | split | dsimp only

theorem keep_leaseExpiry (path : _) {s : State} (hK : Kept qs P s) : Kept qs P (leaseExpiry path s) := by
  unfold leaseExpiry
  repeat' first
    | intro _ | (with_reducible first
        | assumption | apply keep_ite | apply keep_State_toAcy | apply keep_State_endLease | apply keepopt_some | exact keepopt_none
        | refine keep_some (by assumption) ?_ | apply keep_getD)
    | simp only [kept_mk] | split | dsimp only

theorem keep_lockoutExpiry (path : _) {s : State} (hK : Kept qs P s) : Kept qs P (lockoutExpiry path s) := by
  unfold lockoutExpiry
  repeat' first
    | intro _ | (with_reducible first
        | assumption | apply keep_ite | apply keep_State_toAcy | apply keep_State_modUnlock | apply keepopt_some | exact keepopt_none
        | refine keep_some (by assumption) ?_ | apply keep_getD)
    | simp only [kept_mk] | split | dsimp only

theorem keep_State_tapData (shifted : _) (pins : _) {s : State} (hK : Kept qs P s) : Kept qs P (State.tapData s shifted pins) := by
  unfold State.tapData
  repeat' first | intro _ | (with_reducible first | assumption | apply keep_ite) | simp only [kept_mk] | split | dsimp only

theorem keep_State_debugAccess (pkt : _) {s : State} (hK : Kept qs P s) : Kept qs P (State.debugAccess s pkt) := by
  unfold State.debugAccess
  repeat' first
    | intro _ | (with_reducible first | assumption | apply keep_ite | apply keep_State_sendPacket | apply keep_State_leaseEvent)
    | simp only [kept_mk] | split | dsimp only

theorem keep_debug (scan : _) {s : State} (hK : Kept qs P s) : Kept qs P (debug scan s) := by
  unfold debug
  repeat' first
    | intro _ | (with_reducible first | assumption | apply keep_ite | apply keep_State_tapData | apply keep_State_debugAccess)
    | simp only [kept_mk] | split | dsimp only

theorem keep_State_blockRead (b : _) (t : _) (a : _) (n : _) (ecc : _) {s : State} (hK : Kept qs P s) : Kept qs P (State.blockRead s b t a n ecc).1 :=
    by
  unfold State.blockRead
  repeat' first
    | intro _ | (with_reducible first
        | assumption | apply keep_ite | apply keep_State_corrected | apply keep_State_correctedIm | apply keep_State_uncorrectable
        | refine keep_fst (by assumption) ?_)
    | split | dsimp only | simp only [kept_mk]

theorem keep_State_crPart (b : _) (t : _) (off : _) (a : _) (l : _) {s : State} (hK : Kept qs P s) : Kept qs P (State.crPart s b t off a l) := by
  unfold State.crPart
  repeat' first | intro _ | (with_reducible first | assumption | apply keep_ite | apply keep_State_crWrite) | split | dsimp only

theorem keep_State_blockWrite (b : _) (t : _) (a : _) (l : _) (ecc : _) {s : State} (hK : Kept qs P s) : Kept qs P (State.blockWrite s b t a l ecc).1
    := by
  unfold State.blockWrite
  repeat' first
    | intro _ | (with_reducible first
        | assumption | apply keep_ite | apply keep_foldl | apply keep_State_corrected | apply keep_State_uncorrectable | apply keep_State_lsStore
        | apply keep_State_imStore | apply keep_State_crPart | refine keep_fst (by assumption) ?_)
    | split | dsimp only | simp only [kept_mk]

theorem keep_State_portWrite (p : _) (off : _) (w : _) (act : _) {s : State} (hK : Kept qs P s) : Kept qs P (State.portWrite s p off w act) := by
  unfold State.portWrite
  repeat' first
    | intro _ | (with_reducible first
        | assumption | apply keep_ite | apply keep_State_modPort | apply keep_State_toRetrain | apply keep_State_linkEnable)
    | simp only [kept_mk] | split | dsimp only

theorem keep_State_edgeRegWrite (e : _) (off : _) (v : _) (m : _) {s : State} (hK : Kept qs P s) : Kept qs P (State.edgeRegWrite s e off v m) := by
  unfold State.edgeRegWrite
  repeat' first
    | intro _ | (with_reducible first | assumption | apply keep_ite | apply keep_State_portWrite)
    | simp only [kept_mk] | split | dsimp only

theorem keep_State_mapRead (off : _) (n : _) (ecc : _) {s : State} (hK : Kept qs P s) : Kept qs P (State.mapRead s off n ecc).1 := by
  unfold State.mapRead
  repeat' first
    | intro _ | (with_reducible first
        | assumption | apply keep_ite | apply keep_State_bump | apply keep_State_corrected | apply keep_State_uncorrectable
        | apply keep_State_blockRead | refine keep_fst (by assumption) ?_)
    | split | dsimp only | simp only [kept_mk]

theorem keep_State_mapWrite (off : _) (l : _) (ecc : _) {s : State} (hK : Kept qs P s) : Kept qs P (State.mapWrite s off l ecc).1 := by
  unfold State.mapWrite
  repeat' first
    | intro _ | (with_reducible first
        | assumption | apply keep_ite | apply keep_foldl | apply keep_State_modEdge | apply keep_State_blockWrite | apply keep_State_edgeRegWrite
        | refine keep_fst (by assumption) ?_)
    | split | dsimp only | simp only [kept_mk]

theorem keep_State_mapReads {qs : List Instr} {P : PlanPred} (ecc : _) (l : List (Nat × Nat)) : ∀ {s : State}, Kept qs P s → Kept qs P (State.mapReads s ecc l).1 := by
  induction l with
  | nil => intro s h; exact h
  | cons e t ih =>
    intro s h
    obtain ⟨o, n⟩ := e
    unfold State.mapReads
    have h1 : Kept qs P (if s.wayTo (deviceMap o) = true then s.mapRead o n ecc else (s, .err 2)).1 := by
      split
      · exact keep_State_mapRead o n ecc h
      · exact h
    split
    · rename_i heq; rw [heq] at h1; exact h1
    · rename_i heq; rw [heq] at h1
      have h2 := ih h1
      split
      · rename_i heq; rw [heq] at h2; exact h2
      · exact h2

theorem keep_State_mapWrites {qs : List Instr} {P : PlanPred} (ecc : _) (l : _) (m : List (Nat × Nat)) : ∀ {s : State}, Kept qs P s → Kept qs P (State.mapWrites s ecc l m).1 := by
  induction m generalizing l with
  | nil => intro s h; exact h
  | cons e t ih =>
    intro s h
    obtain ⟨o, n⟩ := e
    unfold State.mapWrites
    have h1 : Kept qs P (if s.wayTo (deviceMap o) = true then s.mapWrite o (l.take n) ecc else (s, .err 2)).1 := by
      split
      · exact keep_State_mapWrite o (l.take n) ecc h
      · exact h
    split
    · rename_i heq; rw [heq] at h1; exact h1
    · rename_i heq; rw [heq] at h1
      exact ih _ h1

theorem keep_State_directDrop (via : _) {s : State} (hK : Kept qs P s) : Kept qs P (State.directDrop s via) := by
  unfold State.directDrop
  repeat' first | intro _ | (with_reducible first | assumption | apply keep_ite | apply keep_State_modHif) | simp only [kept_mk] | split | dsimp only

theorem keep_bar2Write (off : _) (l : _) (via : _) {s : State} (hK : Kept qs P s) : Kept qs P (bar2Write off l via s) := by
  unfold bar2Write
  repeat' first
    | intro _ | (with_reducible first
        | assumption | apply keep_ite | apply keep_State_directDrop | apply keep_State_mapWrites | refine keep_fst (by assumption) ?_)
    | simp only [kept_mk] | split | dsimp only

theorem keep_bar2Read (off : _) (len : _) (via : _) {s : State} (hK : Kept qs P s) : Kept qs P (bar2Read off len via s) := by
  unfold bar2Read
  repeat' first
    | intro _ | (with_reducible first
        | assumption | apply keep_ite | apply keep_State_modHif | apply keep_State_mapReads | refine keep_fst (by assumption) ?_)
    | simp only [kept_mk] | split | dsimp only

theorem keep_State_scrubFound (ref : _) (px : _) (py : _) {s : State} (hK : Kept qs P s) : Kept qs P (State.scrubFound s ref px py) := by
  unfold State.scrubFound
  repeat' first | intro _ | (with_reducible first | assumption | apply keep_ite | apply keep_State_raise) | split | dsimp only

theorem keep_scrubLine (b : _) (find : _) {s : State} (hK : Kept qs P s) : Kept qs P (scrubLine b find s) := by
  unfold scrubLine
  repeat' first
    | intro _ | (with_reducible first
        | assumption | apply keep_ite | apply keep_foldl | apply keep_State_modBlk | apply keep_State_corrected | apply keep_State_uncorrectable
        | apply keep_State_scrubFound)
    | simp only [kept_mk] | split | dsimp only

theorem keep_retentionScrub (find : _) {s : State} (hK : Kept qs P s) : Kept qs P (retentionScrub find s) := by
  unfold retentionScrub
  repeat' first
    | intro _ | (with_reducible first
        | assumption | apply keep_ite | apply keep_State_bump | apply keep_State_corrected | apply keep_State_uncorrectable
        | apply keep_State_scrubFound)
    | simp only [kept_mk] | split | dsimp only

theorem keep_State_sweepReport (mask : _) (failed : _) {s : State} (hK : Kept qs P s) : Kept qs P (State.sweepReport s mask failed) := by
  unfold State.sweepReport
  repeat' first
    | intro _ | (with_reducible first | assumption | apply keep_ite | apply keep_foldl | apply keep_State_setCounter | apply keep_State_raise)
    | split | dsimp only

theorem keep_State_sweepDone (c : _) (bytes : _) {s : State} (hK : Kept qs P s) : Kept qs P (State.sweepDone s c bytes) := by
  unfold State.sweepDone
  repeat' first
    | intro _ | (with_reducible first
        | assumption | apply keep_ite | apply keep_foldl | apply keep_State_mapQuarter | apply keep_State_candidateAt | apply keep_State_endCmd
        | apply keep_State_quarterDeep | apply keep_State_nodesTested | apply keep_State_sweepReport)
    | split | dsimp only

theorem keep_State_spoilWord (b : _) (a : _) {s : State} (hK : Kept qs P s) : Kept qs P (State.spoilWord s b a) := by
  unfold State.spoilWord
  repeat' first
    | intro _ | (with_reducible first | assumption | apply keep_ite | apply keep_State_modBlk | apply keep_State_useFree)
    | simp only [kept_mk] | split | dsimp only

theorem keep_sweepWindowSegment (b : _) (failedTest : _) (unrestored : _) {s : State} (hK : Kept qs P s) : Kept qs P (sweepWindowSegment b failedTest
    unrestored s) := by
  unfold sweepWindowSegment
  repeat' first
    | intro _ | (with_reducible first
        | assumption | apply keep_ite | apply keep_State_modBlk | apply keep_State_candidate | apply keep_State_advanceTo
        | apply keep_State_spoilWord)
    | simp only [kept_mk] | split | dsimp only

theorem keep_State_endSweep (w : _) {s : State} (hK : Kept qs P s) : Kept qs P (State.endSweep s w) := by
  unfold State.endSweep
  repeat' first
    | intro _ | (with_reducible first
        | assumption | apply keep_ite | apply keep_State_mapAll | apply keep_State_endCmd | apply keep_State_sweepReport)
    | simp only [kept_mk] | split | dsimp only

theorem keep_sweepEnd {s : State} (hK : Kept qs P s) : Kept qs P (sweepEnd s) := by
  unfold sweepEnd
  repeat' first
    | intro _ | (with_reducible first
        | assumption | apply keep_ite | apply keep_State_toAcy | apply keep_State_endSweep | apply keepopt_some | exact keepopt_none
        | refine keep_some (by assumption) ?_ | apply keep_getD)
    | simp only [kept_mk] | split | dsimp only

theorem keep_State_setIntake (n : _) (x : _) {s : State} (hK : Kept qs P s) : Kept qs P (State.setIntake s n x) := by
  unfold State.setIntake
  repeat' first | intro _ | (with_reducible first | assumption | apply keep_ite) | simp only [kept_mk] | split | dsimp only

theorem keep_State_holdSlot (c : _) (i : _) {s : State} (hK : Kept qs P s) : Kept qs P (State.holdSlot s c i) := by
  unfold State.holdSlot
  repeat' first | intro _ | (with_reducible first | assumption | apply keep_ite | apply keep_State_modCmd) | simp only [kept_mk] | split | dsimp only

theorem keep_intakeWrite (seq : _) {s : State} (hK : Kept qs P s) : Kept qs P (intakeWrite seq s) := by
  unfold intakeWrite
  repeat' first
    | intro _ | (with_reducible first
        | assumption | apply keep_ite | apply keep_State_endCmd | apply keep_State_setSlot | apply keep_State_setIntake | apply keep_State_holdSlot)
    | simp only [kept_mk] | split | dsimp only

theorem keep_State_intakeDone (c : _) (e : _) {s : State} (hK : Kept qs P s) : Kept qs P (State.intakeDone s c e) := by
  unfold State.intakeDone
  repeat' first
    | intro _ | (with_reducible first
        | assumption | apply keep_ite | apply keep_State_modEdge | apply keep_State_endCmd | apply keep_State_hostReadFail
        | apply keep_State_setSlot | apply keep_State_setIntake)
    | simp only [kept_mk] | split | dsimp only

theorem keep_outletRead (seq : _) {s : State} (hK : Kept qs P s) : Kept qs P (outletRead seq s) := by
  unfold outletRead
  repeat' first
    | intro _ | (with_reducible first
        | assumption | apply keep_ite | apply keep_State_endCmd | apply keep_State_setOutlet | apply keep_State_setSlot | apply keep_State_holdSlot)
    | simp only [kept_mk] | split | dsimp only

theorem keep_State_outletDone (c : _) (e : _) {s : State} (hK : Kept qs P s) : Kept qs P (State.outletDone s c e) := by
  unfold State.outletDone
  repeat' first
    | intro _ | (with_reducible first
        | assumption | apply keep_ite | apply keep_State_bump | apply keep_State_hostWrite | apply keep_State_endCmd | apply keep_State_setOutlet
        | apply keep_State_setSlot)
    | simp only [kept_mk] | split | dsimp only

theorem keep_State_sendTensor (c : _) (op : _) (l : _) {s : State} (hK : Kept qs P s) : Kept qs P (State.sendTensor s c op l) := by
  unfold State.sendTensor
  repeat' first | intro _ | (with_reducible first | assumption | apply keep_ite | apply keep_foldl | apply keep_State_queueFrame) | split | dsimp only

theorem keep_tensorWrite (seq : _) {s : State} (hK : Kept qs P s) : Kept qs P (tensorWrite seq s) := by
  unfold tensorWrite
  repeat' first
    | intro _ | (with_reducible first | assumption | apply keep_ite | apply keep_State_endCmd | apply keep_State_runCmd)
    | simp only [kept_mk] | split | dsimp only

theorem keep_tensorRead (seq : _) {s : State} (hK : Kept qs P s) : Kept qs P (tensorRead seq s) := by
  unfold tensorRead
  repeat' first
    | intro _ | (with_reducible first
        | assumption | apply keep_ite | apply keep_State_endCmd | apply keep_State_runCmd | apply keep_State_sendTensor)
    | simp only [kept_mk] | split | dsimp only

theorem keep_State_tensorWriteDone (c : _) (e : _) {s : State} (hK : Kept qs P s) : Kept qs P (State.tensorWriteDone s c e) := by
  unfold State.tensorWriteDone
  repeat' first
    | intro _ | (with_reducible first
        | assumption | apply keep_ite | apply keep_State_endCmd | apply keep_State_hostReadFail | apply keep_State_holdSlot
        | apply keep_State_sendTensor | apply keep_State_mapWrites | refine keep_fst (by assumption) ?_)
    | simp only [kept_mk] | split | dsimp only

theorem keep_State_tensorOut (c : _) (l : _) {s : State} (hK : Kept qs P s) : Kept qs P (State.tensorOut s c l) := by
  unfold State.tensorOut
  repeat' first
    | intro _ | (with_reducible first | assumption | apply keep_ite | apply keep_State_hostWrite | apply keep_State_endCmd)
    | split | dsimp only

theorem keep_State_tensorReadDone (c : _) (e : _) {s : State} (hK : Kept qs P s) : Kept qs P (State.tensorReadDone s c e) := by
  unfold State.tensorReadDone
  repeat' first
    | intro _ | (with_reducible first
        | assumption | apply keep_ite | apply keep_State_uncorrectable | apply keep_State_endCmd | apply keep_State_tensorOut
        | apply keep_State_mapReads | refine keep_fst (by assumption) ?_)
    | simp only [kept_mk] | split | dsimp only

theorem keep_State_wholeSweep (c : _) {s : State} (hK : Kept qs P s) : Kept qs P (State.wholeSweep s c) := by
  unfold State.wholeSweep
  repeat' first
    | intro _ | (with_reducible first | assumption | apply keep_ite | apply keep_State_loaded | apply keep_State_endCmd | apply keep_State_runCmd)
    | split | dsimp only

theorem keep_State_windowSweep (c : _) {s : State} (hK : Kept qs P s) : Kept qs P (State.windowSweep s c) := by
  unfold State.windowSweep
  repeat' first
    | intro _ | (with_reducible first
        | assumption | apply keep_ite | apply keep_State_endCmd | apply keep_State_runCmd | apply keep_State_sweepReport)
    | simp only [kept_mk] | split | dsimp only

theorem keep_traceArm (seq : _) {s : State} (hK : Kept qs P s) : Kept qs P (traceArm seq s) := by
  unfold traceArm
  repeat' first
    | intro _ | (with_reducible first
        | assumption | apply keep_ite | apply keep_State_endCmd | apply keep_State_beginDisarm | apply keep_State_finishArm
        | apply keep_State_runCmd)
    | simp only [kept_mk] | split | dsimp only

theorem keep_traceDrain (seq : _) {s : State} (hK : Kept qs P s) : Kept qs P (traceDrain seq s) := by
  unfold traceDrain
  repeat' first
    | intro _ | (with_reducible first | assumption | apply keep_ite | apply keep_State_endCmd | apply keep_State_runCmd)
    | simp only [kept_mk] | split | dsimp only

theorem keep_State_drainDone (c : _) (e : _) {s : State} (hK : Kept qs P s) : Kept qs P (State.drainDone s c e) := by
  unfold State.drainDone
  repeat' first
    | intro _ | (with_reducible first
        | assumption | apply keep_ite | apply keep_State_bump | apply keep_State_hostWrite | apply keep_State_endCmd | apply keep_State_setSink
        | apply keep_State_settleTrace)
    | simp only [kept_mk] | split | dsimp only

theorem keep_State_completeCmd (c : _) (e : _) {s : State} (hK : Kept qs planOk s) : Kept qs planOk (State.completeCmd s c e) := by
  unfold State.completeCmd
  repeat' first
    | intro _ | (with_reducible first
        | assumption | apply keep_ite | apply keep_State_planLoaded | apply keep_State_unloadDone | apply keep_State_dictReadDone
        | apply keep_State_dictWriteDone | apply keep_State_sweepDone | apply keep_State_intakeDone | apply keep_State_outletDone
        | apply keep_State_tensorWriteDone | apply keep_State_tensorReadDone | apply keep_State_drainDone)
    | simp only [kept_mk] | split | dsimp only

theorem keep_commandCompletion (seq : _) (e : _) {s : State} (hK : Kept qs planOk s) : Kept qs planOk (commandCompletion seq e s) := by
  unfold commandCompletion
  repeat' first
    | intro _ | (with_reducible first | assumption | apply keep_ite | apply keep_State_completeCmd)
    | simp only [kept_mk] | split | dsimp only

end Sys2Proof.Machine
end

