-- ==== Sys2Proof/Laws/KeptFabric.lean ====
section
/-! SUPPORT. What Elette, the engines, the footpath, the ports, the host registers and the management core keep, and what is kept gives the invariant. -/

set_option maxRecDepth 4000

namespace Sys2Proof.Machine

variable {qs : List Instr} {P : PlanPred}

theorem keep_State_passPlain (f : _) {s : State} (hK : Kept qs P s) : Kept qs P (State.passPlain s f) := by
  unfold State.passPlain
  repeat' first | intro _ | (with_reducible first | assumption | apply keep_ite | apply keep_State_modElt) | simp only [kept_mk] | split | dsimp only

theorem keep_eletteFrameReceive (addresses : _) (ethertype : _) (version : _) (count : _) (area : _) (content : _) {s : State} (hK : Kept qs P s) :
    Kept qs P (eletteFrameReceive addresses ethertype version count area content s) := by
  unfold eletteFrameReceive
  repeat' first
    | intro _ | (with_reducible first | assumption | apply keep_ite | apply keep_State_modElt | apply keep_State_passPlain)
    | simp only [kept_mk] | split | dsimp only

theorem keep_State_sendDatagram (f : _) (dg : _) (acts : _) {s : State} (hK : Kept qs P s) : Kept qs P (State.sendDatagram s f dg acts) := by
  unfold State.sendDatagram
  repeat' first
    | intro _ | (with_reducible first | assumption | apply keep_ite | apply keep_State_passPlain)
    | simp only [kept_mk] | split | dsimp only

theorem keep_State_reply (f : _) (dg : _) (st : _) (data : _) (acts : _) {s : State} (hK : Kept qs P s) : Kept qs P (State.reply s f dg st data acts)
    := by
  unfold State.reply
  repeat' first
    | intro _ | (with_reducible first | assumption | apply keep_ite | apply keep_State_sendDatagram)
    | simp only [kept_mk] | split | dsimp only

theorem keep_State_deferDatagram (f : _) (dg : _) (write : _) {s : State} (hK : Kept qs P s) : Kept qs P (State.deferDatagram s f dg write) := by
  unfold State.deferDatagram
  repeat' first | intro _ | (with_reducible first | assumption | apply keep_ite | apply keep_State_reply) | split | dsimp only

theorem keep_State_frameRead (f : _) (i : _) (sub : _) (n : _) (ecc : _) {s : State} (hK : Kept qs P s) : Kept qs P (State.frameRead s f i sub n
    ecc).1 := by
  unfold State.frameRead
  repeat' first
    | intro _ | (with_reducible first | assumption | apply keep_ite | apply keep_State_fastRead | refine keep_fst (by assumption) ?_)
    | split | dsimp only | simp only [kept_mk]

theorem keep_State_getDatagram (f : _) (dg : _) (ecc : _) {s : State} (hK : Kept qs P s) : Kept qs P (State.getDatagram s f dg ecc) := by
  unfold State.getDatagram
  repeat' first
    | intro _ | (with_reducible first
        | assumption | apply keep_ite | apply keep_State_reply | apply keep_State_deferDatagram | apply keep_State_frameRead
        | refine keep_fst (by assumption) ?_)
    | simp only [kept_mk] | split | dsimp only

theorem keep_State_putDatagram (f : _) (dg : _) (fastOnly : _) {s : State} (hK : Kept qs P s) : Kept qs P (State.putDatagram s f dg fastOnly) := by
  unfold State.putDatagram
  repeat' first
    | intro _ | (with_reducible first | assumption | apply keep_ite | apply keep_State_reply | apply keep_State_deferDatagram)
    | split | dsimp only

theorem keep_sget (dg : _) (ecc : _) {s : State} (hK : Kept qs P s) : Kept qs P (sget dg ecc s) := by
  unfold sget
  repeat' first
    | intro _ | (with_reducible first | assumption | apply keep_ite | apply keep_State_sendDatagram | apply keep_State_getDatagram)
    | simp only [kept_mk] | split | dsimp only

theorem keep_sput (dg : _) {s : State} (hK : Kept qs P s) : Kept qs P (sput dg s) := by
  unfold sput
  repeat' first
    | intro _ | (with_reducible first | assumption | apply keep_ite | apply keep_State_sendDatagram | apply keep_State_putDatagram)
    | simp only [kept_mk] | split | dsimp only

theorem keep_pget (dg : _) (ecc : _) {s : State} (hK : Kept qs P s) : Kept qs P (pget dg ecc s) := by
  unfold pget
  repeat' first
    | intro _ | (with_reducible first | assumption | apply keep_ite | apply keep_State_sendDatagram | apply keep_State_getDatagram)
    | simp only [kept_mk] | split | dsimp only

theorem keep_pput (dg : _) {s : State} (hK : Kept qs P s) : Kept qs P (pput dg s) := by
  unfold pput
  repeat' first
    | intro _ | (with_reducible first | assumption | apply keep_ite | apply keep_State_sendDatagram | apply keep_State_putDatagram)
    | simp only [kept_mk] | split | dsimp only

theorem keep_allput (dg : _) {s : State} (hK : Kept qs P s) : Kept qs P (allput dg s) := by
  unfold allput
  repeat' first
    | intro _ | (with_reducible first | assumption | apply keep_ite | apply keep_State_putDatagram)
    | simp only [kept_mk] | split | dsimp only

theorem keep_gather (dg : _) (ecc : _) {s : State} (hK : Kept qs P s) : Kept qs P (gather dg ecc s) := by
  unfold gather
  repeat' first
    | intro _ | (with_reducible first
        | assumption | apply keep_ite | apply keep_State_sendDatagram | apply keep_State_reply | apply keep_State_frameRead
        | refine keep_fst (by assumption) ?_)
    | simp only [kept_mk] | split | dsimp only

theorem keep_tlatch (dg : _) {s : State} (hK : Kept qs P s) : Kept qs P (tlatch dg s) := by
  unfold tlatch
  repeat' first
    | intro _ | (with_reducible first | assumption | apply keep_ite | apply keep_State_latch | apply keep_State_reply)
    | simp only [kept_mk] | split | dsimp only

theorem keep_tdist (dg : _) {s : State} (hK : Kept qs P s) : Kept qs P (tdist dg s) := by
  unfold tdist
  repeat' first
    | intro _ | (with_reducible first | assumption | apply keep_ite | apply keep_State_sendDatagram | apply keep_State_reply)
    | simp only [kept_mk] | split | dsimp only

theorem keep_State_endAct (f : _) (t1 : _) (a : _) {s : State} (hK : Kept qs planOk s) : Kept qs planOk (State.endAct s f t1 a) := by
  unfold State.endAct
  repeat' first
    | intro _ | (with_reducible first
        | assumption | apply keep_ite | apply keep_State_refuseTime | apply keep_State_eletteSample | apply keep_State_latch
        | apply keep_State_modElt | apply keep_State_dictApply)
    | simp only [kept_mk] | split | dsimp only

theorem keep_eletteFrameEndApply (fcs : _) (rxErr : _) (t1 : _) {s : State} (hK : Kept qs planOk s) : Kept qs planOk (eletteFrameEndApply fcs rxErr t1
    s) := by
  unfold eletteFrameEndApply
  repeat' first
    | intro _ | (with_reducible first | assumption | apply keep_ite | apply keep_foldl | apply keep_State_modElt | apply keep_State_endAct)
    | simp only [kept_mk] | split | dsimp only

theorem keep_eletteReturnForward (frame : _) {s : State} (hK : Kept qs P s) : Kept qs P (eletteReturnForward frame s) := by
  unfold eletteReturnForward
  repeat' first | intro _ | (with_reducible first | assumption | apply keep_ite | apply keep_State_modElt) | simp only [kept_mk] | split | dsimp only

theorem keep_phyLinkPoll (link0 : _) (link1 : _) {s : State} (hK : Kept qs P s) : Kept qs P (phyLinkPoll link0 link1 s) := by
  unfold phyLinkPoll
  repeat' first | intro _ | (with_reducible first | assumption | apply keep_ite | apply keep_State_modElt) | simp only [kept_mk] | split | dsimp only

theorem keep_deferredRequestServed {s : State} (hK : Kept qs planOk s) : Kept qs planOk (deferredRequestServed s) := by
  unfold deferredRequestServed
  repeat' first
    | intro _ | (with_reducible first
        | assumption | apply keep_ite | apply keep_State_modElt | apply keep_State_serveDeferred | apply keep_State_mailResult
        | refine keep_fst (by assumption) ?_)
    | simp only [kept_mk] | split | dsimp only

theorem keep_deferredRequestTimeout {s : State} (hK : Kept qs P s) : Kept qs P (deferredRequestTimeout s) := by
  unfold deferredRequestTimeout
  repeat' first
    | intro _ | (with_reducible first | assumption | apply keep_ite | apply keep_State_mailResult)
    | simp only [kept_mk] | split | dsimp only

theorem keep_State_putOut (b : _) (o : _) {s : State} (hK : Kept qs P s) : Kept qs P (State.putOut s b o) := by
  unfold State.putOut
  repeat' first
    | intro _ | (with_reducible first
        | assumption | apply keep_ite | apply keep_foldl | apply keep_State_modBlk | apply keep_State_modCore | apply keep_State_lsStore)
    | simp only [kept_mk] | split | dsimp only

theorem keep_State_putOuts (b : _) (l : _) (fl : _) {s : State} (hK : Kept qs P s) : Kept qs P (State.putOuts s b l fl) := by
  unfold State.putOuts
  repeat' first
    | intro _ | (with_reducible first | assumption | apply keep_ite | apply keep_foldl | apply keep_State_orFlags | apply keep_State_putOut)
    | split | dsimp only

theorem keep_State_whenRoom (b : _) (k : State → State) {s : State} (hK : Kept qs P s) (hKk : ∀ x0, Kept qs P x0 → Kept qs P (k x0)) : Kept qs P
    (State.whenRoom s b k) := by
  unfold State.whenRoom
  repeat' first
    | intro _ | (with_reducible first | assumption | apply keep_ite | apply hKk | apply keep_State_modCore)
    | simp only [kept_mk] | split | dsimp only

theorem keep_State_enqueue (b : _) (i : _) (sa : _) (sb : _) (rm : _) (draws : _) {s : State} (hK : Kept qs P s) : Kept qs P (State.enqueue s b i sa
    sb rm draws) := by
  unfold State.enqueue
  repeat' first
    | intro _ | (with_reducible first | assumption | apply keep_ite | apply keep_State_setBlk | apply keep_State_advance)
    | simp only [kept_mk] | split | dsimp only

theorem keep_State_raiseCheck (b : _) (cause : _) (value : _) (elem : _) (isRow : _) {s : State} (hK : Kept qs P s) : Kept qs P (State.raiseCheck s b
    cause value elem isRow) := by
  unfold State.raiseCheck
  repeat' first | intro _ | (with_reducible first | assumption | apply keep_ite | apply keep_State_modCore) | simp only [kept_mk] | split | dsimp only

theorem keep_State_engineIssue (b : _) (reserved : _) (gs : _) (fs : _) (k : State → State) {s : State} (hK : Kept qs P s) (hKk : ∀ x0, Kept qs P x0 →
    Kept qs P (k x0)) : Kept qs P (State.engineIssue s b reserved gs fs k) := by
  unfold State.engineIssue
  repeat' first
    | intro _ | (with_reducible first
        | assumption | apply keep_ite | apply hKk | apply keep_State_raiseSync | apply keep_State_issue | apply keep_State_whenFree
        | apply keep_State_whenRoom)
    | split | dsimp only

theorem keep_State_checked (b : _) (c : _) (need : _) (k : State → State) {s : State} (hK : Kept qs P s) (hKk : ∀ x0, Kept qs P x0 → Kept qs P (k x0))
    : Kept qs P (State.checked s b c need k) := by
  unfold State.checked
  repeat' first
    | intro _ | (with_reducible first | assumption | apply keep_ite | apply hKk | apply keep_State_raiseCheck)
    | simp only [kept_mk] | split | dsimp only

theorem keep_State_addressed (b : _) (l : _) (isRow : _) (k : State → State) {s : State} (hK : Kept qs P s) (hKk : ∀ x0, Kept qs P x0 → Kept qs P (k
    x0)) : Kept qs P (State.addressed s b l isRow k) := by
  unfold State.addressed
  repeat' first
    | intro _ | (with_reducible first | assumption | apply keep_ite | apply hKk | apply keep_State_raiseCheck)
    | simp only [kept_mk] | split | dsimp only

theorem keep_issueArith (b : _) (op : _) (form : _) (vm : _) (vb : _) (va : _) (vd : _) {s : State} (hK : Kept qs P s) : Kept qs P (issueArith b op
    form vm vb va vd s) := by
  unfold issueArith
  repeat' first
    | intro _ | (with_reducible first
        | assumption | apply keep_ite | apply keep_State_enqueue | apply keep_State_engineIssue | apply keep_State_checked)
    | simp only [kept_mk] | split | dsimp only

theorem keep_issueCmp (b : _) (op : _) (form : _) (vm : _) (vb : _) (va : _) (vd : _) {s : State} (hK : Kept qs P s) : Kept qs P (issueCmp b op form
    vm vb va vd s) := by
  unfold issueCmp
  repeat' first
    | intro _ | (with_reducible first
        | assumption | apply keep_ite | apply keep_State_enqueue | apply keep_State_engineIssue | apply keep_State_checked)
    | split | dsimp only

theorem keep_issueRed (b : _) (op : _) (vm : _) (vb : _) (va : _) (vd : _) {s : State} (hK : Kept qs P s) : Kept qs P (issueRed b op vm vb va vd s) :=
    by
  unfold issueRed
  repeat' first
    | intro _ | (with_reducible first
        | assumption | apply keep_ite | apply keep_State_enqueue | apply keep_State_engineIssue | apply keep_State_checked)
    | simp only [kept_mk] | split | dsimp only

theorem keep_issuePerm (b : _) (fn : _) (ty : _) (vm : _) (vb : _) (va : _) (vd : _) {s : State} (hK : Kept qs P s) : Kept qs P (issuePerm b fn ty vm
    vb va vd s) := by
  unfold issuePerm
  repeat' first
    | intro _ | (with_reducible first
        | assumption | apply keep_ite | apply keep_State_enqueue | apply keep_State_engineIssue | apply keep_State_checked)
    | simp only [kept_mk] | split | dsimp only

theorem keep_issueVcvt (b : _) (rm : _) (dst : _) (src : _) (vm : _) (va : _) (vd : _) {s : State} (hK : Kept qs P s) : Kept qs P (issueVcvt b rm dst
    src vm va vd s) := by
  unfold issueVcvt
  repeat' first
    | intro _ | (with_reducible first
        | assumption | apply keep_ite | apply keep_State_enqueue | apply keep_State_engineIssue | apply keep_State_checked)
    | split | dsimp only

theorem keep_issueVmxq (b : _) (rm : _) (fmt : _) (vs : _) (va : _) (vd : _) {s : State} (hK : Kept qs P s) : Kept qs P (issueVmxq b rm fmt vs va vd
    s) := by
  unfold issueVmxq
  repeat' first
    | intro _ | (with_reducible first
        | assumption | apply keep_ite | apply keep_State_enqueue | apply keep_State_engineIssue | apply keep_State_checked)
    | split | dsimp only

theorem keep_issueMask (b : _) (fn : _) (vb : _) (va : _) (vd : _) {s : State} (hK : Kept qs P s) : Kept qs P (issueMask b fn vb va vd s) := by
  unfold issueMask
  repeat' first
    | intro _ | (with_reducible first | assumption | apply keep_ite | apply keep_State_enqueue | apply keep_State_engineIssue)
    | simp only [kept_mk] | split | dsimp only

theorem keep_issueVcsum (b : _) (vb : _) (va : _) (vd : _) {s : State} (hK : Kept qs P s) : Kept qs P (issueVcsum b vb va vd s) := by
  unfold issueVcsum
  repeat' first
    | intro _ | (with_reducible first
        | assumption | apply keep_ite | apply keep_State_enqueue | apply keep_State_engineIssue | apply keep_State_checked)
    | split | dsimp only

theorem keep_issueMem (b : _) (i : _) (isLoad : _) (fn : _) (w : _) (vm : _) (rx : _) (ra : _) (vd : _) {s : State} (hK : Kept qs P s) : Kept qs P
    (issueMem b i isLoad fn w vm rx ra vd s) := by
  unfold issueMem
  repeat' first
    | intro _ | (with_reducible first
        | assumption | apply keep_ite | apply keep_State_enqueue | apply keep_State_engineIssue | apply keep_State_checked
        | apply keep_State_addressed)
    | split | dsimp only

theorem keep_issueAcfill (b : _) (line : _) (ra : _) {s : State} (hK : Kept qs P s) : Kept qs P (issueAcfill b line ra s) := by
  unfold issueAcfill
  repeat' first
    | intro _ | (with_reducible first
        | assumption | apply keep_ite | apply keep_State_enqueue | apply keep_State_engineIssue | apply keep_State_addressed)
    | split | dsimp only

theorem keep_issuePlain (b : _) (i : _) (reserved : _) {s : State} (hK : Kept qs P s) : Kept qs P (issuePlain b i reserved s) := by
  unfold issuePlain
  repeat' first
    | intro _ | (with_reducible first | assumption | apply keep_ite | apply keep_State_enqueue | apply keep_State_engineIssue)
    | split | dsimp only

theorem keep_issueTile (b : _) (i : _) (rs : _) (ra : _) {s : State} (hK : Kept qs P s) : Kept qs P (issueTile b i rs ra s) := by
  unfold issueTile
  repeat' first
    | intro _ | (with_reducible first
        | assumption | apply keep_ite | apply keep_State_enqueue | apply keep_State_engineIssue | apply keep_State_addressed)
    | split | dsimp only

theorem keep_issueZcvt (b : _) (isrc : _) (rm : _) (dst : _) (zn : _) (vd : _) {s : State} (hK : Kept qs P s) : Kept qs P (issueZcvt b isrc rm dst zn
    vd s) := by
  unfold issueZcvt
  repeat' first
    | intro _ | (with_reducible first | assumption | apply keep_ite | apply keep_State_enqueue | apply keep_State_engineIssue)
    | split | dsimp only

theorem keep_State_depart (b : _) (place : _) {s : State} (hK : Kept qs P s) : Kept qs P (State.depart s b place) := by
  unfold State.depart
  repeat' first
    | intro _ | (with_reducible first
        | assumption | apply keep_ite | apply keep_State_modBlk | apply keep_State_draw | apply keep_State_queueWaitEnds)
    | simp only [kept_mk] | split | dsimp only

theorem keep_vectorEngineStart (b : _) {s : State} (hK : Kept qs P s) : Kept qs P (vectorEngineStart b s) := by
  unfold vectorEngineStart
  repeat' first | intro _ | (with_reducible first | assumption | apply keep_ite | apply keep_State_depart) | simp only [kept_mk] | split | dsimp only

theorem keep_matrixUnitStart (b : _) {s : State} (hK : Kept qs P s) : Kept qs P (matrixUnitStart b s) := by
  unfold matrixUnitStart
  repeat' first | intro _ | (with_reducible first | assumption | apply keep_ite | apply keep_State_depart) | simp only [kept_mk] | split | dsimp only

theorem keep_State_countVLoss (b : _) (l : _) {s : State} (hK : Kept qs P s) : Kept qs P (State.countVLoss s b l) := by
  unfold State.countVLoss
  repeat' first | intro _ | (with_reducible first | assumption | apply keep_ite | apply keep_State_bump | apply keep_State_note) | split | dsimp only

theorem keep_State_completeVLoss (b : _) (e : _) (l : _) {s : State} (hK : Kept qs P s) : Kept qs P (State.completeVLoss s b e l) := by
  unfold State.completeVLoss
  repeat' first
    | intro _ | (with_reducible first
        | assumption | apply keep_ite | apply keep_State_modBlk | apply keep_State_useFree | apply keep_State_charge | apply keep_State_putOuts
        | apply keep_State_countVLoss)
    | split | dsimp only

theorem keep_State_completeVStore (b : _) (e : _) (l : _) {s : State} (hK : Kept qs P s) : Kept qs P (State.completeVStore s b e l) := by
  unfold State.completeVStore
  repeat' first
    | intro _ | (with_reducible first | assumption | apply keep_ite | apply keep_foldl | apply keep_State_lost | apply keep_State_putOuts)
    | simp only [kept_mk] | split | dsimp only

theorem keep_State_correctedAll (b : _) (l : _) {s : State} (hK : Kept qs P s) : Kept qs P (State.correctedAll s b l) := by
  unfold State.correctedAll
  repeat' first | intro _ | (with_reducible first | assumption | apply keep_ite | apply keep_foldl | apply keep_State_corrected) | split | dsimp only

theorem keep_State_completeVec (b : _) (e : _) (loss : _) (fixed : _) {s : State} (hK : Kept qs P s) : Kept qs P (State.completeVec s b e loss fixed)
    := by
  unfold State.completeVec
  repeat' first
    | intro _ | (with_reducible first
        | assumption | apply keep_ite | apply keep_State_modBlk | apply keep_State_putOuts | apply keep_State_completeVLoss
        | apply keep_State_completeVStore | apply keep_State_correctedAll)
    | simp only [kept_mk] | split | dsimp only

theorem keep_vectorEngineComplete (b : _) (loss : _) (fixed : _) {s : State} (hK : Kept qs P s) : Kept qs P (vectorEngineComplete b loss fixed s) :=
    by
  unfold vectorEngineComplete
  repeat' first
    | intro _ | (with_reducible first | assumption | apply keep_ite | apply keep_State_completeVec)
    | simp only [kept_mk] | split | dsimp only

theorem keep_State_completePort (b : _) (e : _) (loss : _) (fixed : _) {s : State} (hK : Kept qs P s) : Kept qs P (State.completePort s b e loss
    fixed) := by
  unfold State.completePort
  repeat' first
    | intro _ | (with_reducible first
        | assumption | apply keep_ite | apply keep_State_modBlk | apply keep_State_bump | apply keep_State_useFree | apply keep_State_charge
        | apply keep_State_putOuts | apply keep_State_correctedAll)
    | simp only [kept_mk] | split | dsimp only

theorem keep_State_completeArray (b : _) (e : _) {s : State} (hK : Kept qs P s) : Kept qs P (State.completeArray s b e) := by
  unfold State.completeArray
  repeat' first
    | intro _ | (with_reducible first | assumption | apply keep_ite | apply keep_State_modBlk | apply keep_State_putOuts)
    | simp only [kept_mk] | split | dsimp only

theorem keep_matrixUnitComplete (b : _) (unit : _) (loss : _) (fixed : _) {s : State} (hK : Kept qs P s) : Kept qs P (matrixUnitComplete b unit loss
    fixed s) := by
  unfold matrixUnitComplete
  repeat' first
    | intro _ | (with_reducible first
        | assumption | apply keep_ite | apply keep_State_completeVec | apply keep_State_completePort | apply keep_State_completeArray)
    | simp only [kept_mk] | split | dsimp only

theorem keep_State_mailboxWord (b : _) (t : _) (w : _) {s : State} (hK : Kept qs P s) : Kept qs P (State.mailboxWord s b t w).1 := by
  unfold State.mailboxWord
  repeat' first
    | intro _ | (with_reducible first
        | assumption | apply keep_ite | apply keep_State_modBlk | apply keep_State_modCore | refine keep_fst (by assumption) ?_)
    | split | dsimp only | simp only [kept_mk]

theorem keep_State_serve (b : _) (p : _) (t : _) (ecc : _) {s : State} (hK : Kept qs P s) : Kept qs P (State.serve s b p t ecc) := by
  unfold State.serve
  repeat' first
    | intro _ | (with_reducible first
        | assumption | apply keep_ite | apply keep_State_sendPacket | apply keep_State_blockRead | apply keep_State_blockWrite
        | apply keep_State_mailboxWord | refine keep_fst (by assumption) ?_)
    | simp only [kept_mk] | split | dsimp only

theorem keep_State_serveEdge (e : _) (p : _) (ecc : _) {s : State} (hK : Kept qs P s) : Kept qs P (State.serveEdge s e p ecc) := by
  unfold State.serveEdge
  repeat' first
    | intro _ | (with_reducible first
        | assumption | apply keep_ite | apply keep_State_sendPacket | apply keep_State_mapRead | apply keep_State_mapWrite
        | refine keep_fst (by assumption) ?_)
    | simp only [kept_mk] | split | dsimp only

theorem keep_State_storeAcked (b : _) (txn : _) {s : State} (hK : Kept qs P s) : Kept qs P (State.storeAcked s b txn) := by
  unfold State.storeAcked
  repeat' first | intro _ | (with_reducible first | assumption | apply keep_ite | apply keep_State_modCore) | simp only [kept_mk] | split | dsimp only

theorem keep_State_answered (b : _) (p : _) {s : State} (hK : Kept qs P s) : Kept qs P (State.answered s b p) := by
  unfold State.answered
  repeat' first
    | intro _ | (with_reducible first
        | assumption | apply keep_ite | apply keep_remoteLoadResponse | apply keep_State_accessFailed | apply keep_State_storeAcked)
    | simp only [kept_mk] | split | dsimp only

theorem keep_State_nodeReceive (b : _) (p : _) (t : _) (ecc : _) {s : State} (hK : Kept qs P s) : Kept qs P (State.nodeReceive s b p t ecc) := by
  unfold State.nodeReceive
  repeat' first
    | intro _ | (with_reducible first | assumption | apply keep_ite | apply keep_State_serve | apply keep_State_answered)
    | split | dsimp only

theorem keep_State_edgeReceive (e : _) (p : _) (ecc : _) {s : State} (hK : Kept qs P s) : Kept qs P (State.edgeReceive s e p ecc) := by
  unfold State.edgeReceive
  repeat' first
    | intro _ | (with_reducible first
        | assumption | apply keep_ite | apply keep_State_sendPacket | apply keep_State_queueFrame | apply keep_State_serveEdge
        | apply keep_State_answered)
    | simp only [kept_mk] | split | dsimp only

theorem keep_State_fieldReceive (a : _) (b : _) (noise : _) {s : State} (hK : Kept qs P s) : Kept qs P (State.fieldReceive s a b noise) := by
  unfold State.fieldReceive
  repeat' first | intro _ | (with_reducible first | assumption | apply keep_ite) | simp only [kept_mk] | split | dsimp only

theorem keep_ucieFrameReceive (at_ : _) (module : _) (noise : _) {s : State} (hK : Kept qs P s) : Kept qs P (ucieFrameReceive at_ module noise s) :=
    by
  unfold ucieFrameReceive
  repeat' first
    | intro _ | (with_reducible first | assumption | apply keep_ite | apply keep_State_frameSlots | apply keep_State_fieldReceive)
    | simp only [kept_mk] | split | dsimp only

theorem keep_State_offLink (t : _) {s : State} (hK : Kept qs P s) : Kept qs P (State.offLink s t) := by
  unfold State.offLink
  repeat' first | intro _ | (with_reducible first | assumption | apply keep_ite) | simp only [kept_mk] | split | dsimp only

theorem keep_State_packetGone (p : _) {s : State} (hK : Kept qs P s) : Kept qs P (State.packetGone s p) := by
  unfold State.packetGone
  repeat' first | intro _ | (with_reducible first | assumption | apply keep_ite | apply keep_State_traceDropped) | split | dsimp only

theorem keep_State_nodeTake (node : _) (t : _) (ecc : _) {s : State} (hK : Kept qs P s) : Kept qs P (State.nodeTake s node t ecc) := by
  unfold State.nodeTake
  repeat' first
    | intro _ | (with_reducible first
        | assumption | apply keep_ite | apply keep_State_bump | apply keep_State_sendPacket | apply keep_State_sinkTake
        | apply keep_State_nodeReceive | apply keep_State_edgeReceive | apply keep_State_offLink | apply keep_State_packetGone)
    | simp only [kept_mk] | split | dsimp only

theorem keep_footpathPacketReceive (node : _) (p : _) (from_ : _) (ecc : _) {s : State} (hK : Kept qs P s) : Kept qs P (footpathPacketReceive node p
    from_ ecc s) := by
  unfold footpathPacketReceive
  repeat' first
    | intro _ | (with_reducible first | assumption | apply keep_ite | apply keep_State_traceLeave | apply keep_State_nodeTake)
    | simp only [kept_mk] | split | dsimp only

theorem keep_State_fromPeer (p : _) (src : _) (k : _) {s : State} (hK : Kept qs P s) : Kept qs P (State.fromPeer s p src k) := by
  unfold State.fromPeer
  repeat' first
    | intro _ | (with_reducible first | assumption | apply keep_ite | apply keep_State_sendPacket | apply keep_State_queueFrame)
    | simp only [kept_mk] | split | dsimp only

theorem keep_State_hostAnswer (u : _) (op : _) (n : _) (l : _) {s : State} (hK : Kept qs P s) : Kept qs P (State.hostAnswer s u op n l) := by
  unfold State.hostAnswer
  repeat' first | intro _ | (with_reducible first | assumption | apply keep_ite | apply keep_State_queueFrame) | split | dsimp only

theorem keep_State_hostServe (u : _) {s : State} (hK : Kept qs P s) : Kept qs P (State.hostServe s u) := by
  unfold State.hostServe
  repeat' first
    | intro _ | (with_reducible first
        | assumption | apply keep_ite | apply keep_State_hostAnswer | apply keep_State_mapReads | apply keep_State_mapWrites
        | refine keep_fst (by assumption) ?_)
    | simp only [kept_mk] | split | dsimp only

theorem keep_State_deliverFrame (p : _) (u : _) (ok : _) {s : State} (hK : Kept qs P s) : Kept qs P (State.deliverFrame s p u ok) := by
  unfold State.deliverFrame
  repeat' first
    | intro _ | (with_reducible first
        | assumption | apply keep_ite | apply keep_State_bump | apply keep_State_queueFrame | apply keep_State_errorReturn
        | apply keep_State_freeEntry | apply keep_State_fromPeer | apply keep_State_hostServe)
    | simp only [kept_mk] | split | dsimp only

theorem keep_State_unplannedReceive (p : _) (u : _) (ok : _) {s : State} (hK : Kept qs P s) : Kept qs P (State.unplannedReceive s p u ok) := by
  unfold State.unplannedReceive
  repeat' first
    | intro _ | (with_reducible first | assumption | apply keep_ite | apply keep_State_modPort | apply keep_State_deliverFrame)
    | simp only [kept_mk] | split | dsimp only

theorem keep_State_landRecord (p : _) (i : _) (sepoch : _) (f : _) {s : State} (hK : Kept qs P s) : Kept qs P (State.landRecord s p i sepoch f) := by
  unfold State.landRecord
  repeat' first
    | intro _ | (with_reducible first
        | assumption | apply keep_ite | apply keep_State_sentWords | apply keep_State_modEdge | apply keep_State_modPort)
    | simp only [kept_mk] | split | dsimp only

theorem keep_State_landRecords {qs : List Instr} {P : PlanPred} (p : _) (sepoch : _) (l : List Flit) : ∀ {s : State} (i : Nat), Kept qs P s → Kept qs P (State.landRecords s p sepoch i l) := by
  induction l with
  | nil => intro s i h; exact h
  | cons f t ih => intro s i h; exact ih (i + 1) (keep_State_landRecord _ _ _ _ h)

theorem keep_State_plannedReceive (p : _) (l : _) {s : State} (hK : Kept qs P s) : Kept qs P (State.plannedReceive s p l) := by
  unfold State.plannedReceive
  repeat' first
    | intro _ | (with_reducible first | assumption | apply keep_ite | apply keep_State_modPort | apply keep_State_landRecords)
    | simp only [kept_mk] | split | dsimp only

theorem keep_State_noteSkew (p : _) (r : _) {s : State} (hK : Kept qs P s) : Kept qs P (State.noteSkew s p r) := by
  unfold State.noteSkew
  repeat' first
    | intro _ | (with_reducible first | assumption | apply keep_ite | apply keep_State_useFree | apply keep_State_raise | apply keep_State_modPort)
    | simp only [kept_mk] | split | dsimp only

theorem keep_State_milestoneRecord (p : _) (bad : _) (r : _) {s : State} (hK : Kept qs P s) : Kept qs P (State.milestoneRecord s p bad r) := by
  unfold State.milestoneRecord
  repeat' first
    | intro _ | (with_reducible first
        | assumption | apply keep_ite | apply keep_State_bump | apply keep_State_modPort | apply keep_State_eachPort | apply keep_State_modPl
        | apply keep_State_haltNext | apply keep_State_noteSkew)
    | simp only [kept_mk] | split | dsimp only

theorem keep_State_milestoneReceive (p : _) (l : _) {s : State} (hK : Kept qs P s) : Kept qs P (State.milestoneReceive s p l) := by
  unfold State.milestoneReceive
  repeat' first
    | intro _ | (with_reducible first | assumption | apply keep_ite | apply keep_foldl | apply keep_State_charge | apply keep_State_milestoneRecord)
    | split | dsimp only

theorem keep_State_identityReceive (p : _) (i : _) {s : State} (hK : Kept qs P s) : Kept qs P (State.identityReceive s p i) := by
  unfold State.identityReceive
  repeat' first | intro _ | (with_reducible first | assumption | apply keep_ite | apply keep_State_modPort) | simp only [kept_mk] | split | dsimp only

theorem keep_State_planLost (p : _) {s : State} (hK : Kept qs P s) : Kept qs P (State.planLost s p) := by
  unfold State.planLost
  repeat' first | intro _ | (with_reducible first | assumption | apply keep_ite | apply keep_State_charge) | split | dsimp only

theorem keep_State_frameReceive (p : _) (l : _) {s : State} (hK : Kept qs P s) : Kept qs P (State.frameReceive s p l) := by
  unfold State.frameReceive
  repeat' first
    | intro _ | (with_reducible first
        | assumption | apply keep_ite | apply keep_State_modPort | apply keep_State_unplannedReceive | apply keep_State_plannedReceive
        | apply keep_State_milestoneReceive | apply keep_State_identityReceive | apply keep_State_planLost)
    | simp only [kept_mk] | split | dsimp only

theorem keep_State_headerReceive (p : _) (h : _) {s : State} (hK : Kept qs P s) : Kept qs P (State.headerReceive s p h) := by
  unfold State.headerReceive
  repeat' first
    | intro _ | (with_reducible first
        | assumption | apply keep_ite | apply keep_State_modPort | apply keep_State_toRetrain | apply keep_State_resendAll)
    | simp only [kept_mk] | split | dsimp only

theorem keep_State_headerSeen (p : _) (h : _) {s : State} (hK : Kept qs P s) : Kept qs P (State.headerSeen s p h) := by
  unfold State.headerSeen
  repeat' first
    | intro _ | (with_reducible first | assumption | apply keep_ite | apply keep_State_modPort | apply keep_State_headerReceive)
    | simp only [kept_mk] | split | dsimp only

theorem keep_State_blockReceive (p : _) (r : _) (lost : _) {s : State} (hK : Kept qs P s) : Kept qs P (State.blockReceive s p r lost) := by
  unfold State.blockReceive
  repeat' first
    | intro _ | (with_reducible first
        | assumption | apply keep_ite | apply keep_foldl | apply keep_State_modPort | apply keep_State_toRetrain | apply keep_State_planLost
        | apply keep_State_frameReceive | apply keep_State_headerSeen)
    | simp only [kept_mk] | split | dsimp only

theorem keep_fecBlockReceive (p : _) (wire : _) (lost : _) {s : State} (hK : Kept qs P s) : Kept qs P (fecBlockReceive p wire lost s) := by
  unfold fecBlockReceive
  repeat' first | intro _ | (with_reducible first | assumption | apply keep_ite | apply keep_State_blockReceive) | split | dsimp only

theorem keep_State_cfgWrite32 (off : _) (v : _) (m : _) {s : State} (hK : Kept qs P s) : Kept qs P (State.cfgWrite32 s off v m) := by
  unfold State.cfgWrite32
  repeat' first
    | intro _ | (with_reducible first
        | assumption | apply keep_ite | apply keep_State_modHif | apply keep_State_functionReset | apply keep_State_enterD3
        | apply keep_State_flushPba | apply keep_State_returnD0)
    | simp only [kept_mk] | split | dsimp only

theorem keep_State_cfgWrite (off : _) (v : _) (m : _) {s : State} (hK : Kept qs P s) : Kept qs P (State.cfgWrite s off v m) := by
  unfold State.cfgWrite
  repeat' first | intro _ | (with_reducible first | assumption | apply keep_ite | apply keep_State_cfgWrite32) | split | dsimp only

theorem keep_State_bar4Write (off : _) (v : _) (bytes : _) {s : State} (hK : Kept qs P s) : Kept qs P (State.bar4Write s off v bytes) := by
  unfold State.bar4Write
  repeat' first
    | intro _ | (with_reducible first | assumption | apply keep_ite | apply keep_sqDoorbellWrite | apply keep_cqDoorbellWrite)
    | split | dsimp only

theorem keep_State_queueWrite (q : _) (off : _) (w : _) {s : State} (hK : Kept qs P s) : Kept qs P (State.queueWrite s q off w) := by
  unfold State.queueWrite
  repeat' first
    | intro _ | (with_reducible first
        | assumption | apply keep_ite | apply keep_State_modQueue | apply keep_State_enableQueue | apply keep_State_disableQueue)
    | simp only [kept_mk] | simp only [kept_mkT] | split | dsimp only

theorem keep_State_msixWrite (v : _) (hi : _) (w : _) {s : State} (hK : Kept qs P s) : Kept qs P (State.msixWrite s v hi w) := by
  unfold State.msixWrite
  repeat' first
    | intro _ | (with_reducible first | assumption | apply keep_ite | apply keep_State_modHif | apply keep_State_flushPba)
    | simp only [kept_mk] | split | dsimp only

theorem keep_State_bar0Write (off : _) (v : _) (m : _) {s : State} (hK : Kept qs planOk s) : Kept qs planOk (State.bar0Write s off v m) := by
  unfold State.bar0Write
  repeat' first
    | intro _ | (with_reducible first
        | assumption | apply keep_ite | apply keep_State_modHif | apply keep_dictWindowAccess | apply keep_State_queueWrite
        | apply keep_State_msixWrite)
    | simp only [kept_mk] | split | dsimp only

theorem keep_State_aonWrite (off : _) (v : _) (m : _) {s : State} (hK : Kept qs P s) : Kept qs P (State.aonWrite s off v m) := by
  unfold State.aonWrite
  repeat' first
    | intro _ | (with_reducible first
        | assumption | apply keep_ite | apply keep_State_modTime | apply keep_State_applyTime | apply keep_State_modSup | apply keep_State_modBoot
        | apply keep_State_modElt | apply keep_State_askReset | refine keep_fst (by assumption) ?_ | rfl)
    | simp only [kept_mk] | split | dsimp only

theorem keep_State_directWrite (at_ : _) (via : _) (write : State → State) {s : State} (hK : Kept qs P s) (hKwrite : ∀ x0, Kept qs P x0 → Kept qs P
    (write x0)) : Kept qs P (State.directWrite s at_ via write) := by
  unfold State.directWrite
  repeat' first
    | intro _ | (with_reducible first | assumption | apply keep_ite | apply hKwrite | apply keep_State_lost | apply keep_State_directDrop)
    | simp only [kept_mk] | split | dsimp only

theorem keep_registerWrite (space : _) (off : _) (value : _) (bytes : _) (via : _) {s : State} (hK : Kept qs planOk s) : Kept qs planOk (registerWrite
    space off value bytes via s) := by
  unfold registerWrite
  repeat' first
    | intro _ | (with_reducible first
        | assumption | apply keep_ite | apply keep_State_crWrite | apply keep_State_edgeRegWrite | apply keep_State_directDrop
        | apply keep_State_cfgWrite | apply keep_State_bar4Write | apply keep_State_bar0Write | apply keep_State_aonWrite
        | apply keep_State_directWrite)
    | simp only [kept_mk] | split | dsimp only

theorem keep_State_mgmtRead (a : _) (fn : _) (rd : _) (ecc : _) (v : _) {s : State} (hK : Kept qs P s) : Kept qs P (State.mgmtRead s a fn rd ecc v) :=
    by
  unfold State.mgmtRead
  repeat' first
    | intro _ | (with_reducible first
        | assumption | apply keep_ite | apply keep_State_retentionCorrected | apply keep_State_retentionLost | apply keep_State_corrected
        | apply keep_State_uncorrectable | apply keep_State_raiseSync | apply keep_State_loaded)
    | simp only [kept_mk] | split | dsimp only

theorem keep_State_windowError (a : _) (kind : _) (err : _) {s : State} (hK : Kept qs P s) : Kept qs P (State.windowError s a kind err) := by
  unfold State.windowError
  repeat' first | intro _ | (with_reducible first | assumption | apply keep_ite | apply keep_State_modPriv) | split | dsimp only

theorem keep_State_windowLoad (a : _) (off : _) (fn : _) (rd : _) (ecc : _) {s : State} (hK : Kept qs P s) : Kept qs P (State.windowLoad s a off fn rd
    ecc) := by
  unfold State.windowLoad
  repeat' first
    | intro _ | (with_reducible first
        | assumption | apply keep_ite | apply keep_State_loadLeaves | apply keep_State_advance | apply keep_State_loaded | apply keep_State_mapRead
        | apply keep_State_windowError | refine keep_fst (by assumption) ?_)
    | simp only [kept_mk] | split | dsimp only

theorem keep_State_windowStore (a : _) (off : _) (n : _) (v : _) (ecc : _) {s : State} (hK : Kept qs P s) : Kept qs P (State.windowStore s a off n v
    ecc) := by
  unfold State.windowStore
  repeat' first
    | intro _ | (with_reducible first
        | assumption | apply keep_ite | apply keep_State_storeLeaves | apply keep_State_advance | apply keep_State_mapWrite
        | apply keep_State_windowError | refine keep_fst (by assumption) ?_)
    | simp only [kept_mk] | split | dsimp only

theorem keep_mgmtLoad (fn : _) (imm : _) (ra : _) (rd : _) (ecc : _) {s : State} (hK : Kept qs P s) : Kept qs P (mgmtLoad fn imm ra rd ecc s) := by
  unfold mgmtLoad
  repeat' first
    | intro _ | (with_reducible first
        | assumption | apply keep_ite | apply keep_State_useFree | apply keep_State_raiseSync | apply keep_State_issue | apply keep_State_whenFree
        | apply keep_State_loaded | apply keep_aonTimeNsRead | apply keep_State_mgmtRead | apply keep_State_windowLoad)
    | simp only [kept_mk] | split | dsimp only

theorem keep_mgmtStore (fn : _) (imm : _) (ra : _) (rs : _) (ecc : _) {s : State} (hK : Kept qs P s) : Kept qs P (mgmtStore fn imm ra rs ecc s) := by
  unfold mgmtStore
  repeat' first
    | intro _ | (with_reducible first
        | assumption | apply keep_ite | apply keep_State_raiseSync | apply keep_State_issue | apply keep_State_whenFree | apply keep_State_advance
        | apply keep_State_lsStoreEcc | apply keep_State_aonWrite | apply keep_State_windowStore)
    | simp only [kept_mk] | split | dsimp only

theorem keep_lineBufferFill (line : _) (demand : _) (bytes : _) {s : State} (hK : Kept qs P s) : Kept qs P (lineBufferFill line demand bytes s) := by
  unfold lineBufferFill
  repeat' first
    | intro _ | (with_reducible first
        | assumption | apply keep_ite | apply keep_State_passWithin | apply keep_State_modElt | apply keepopt_some | exact keepopt_none
        | refine keep_some (by assumption) ?_ | apply keep_getD)
    | simp only [kept_mk] | split | dsimp only

/-- What is kept from a state with the invariant is the invariant. -/
theorem Kept.inv {qs : List Instr} {s : State} (h : Kept qs planOk s) : Inv s := ⟨h.time, h.fifo, h.ring, h.host, h.plan⟩

theorem Inv.kept {s : State} (h : Inv s) : Kept s.pending planOk s := ⟨rfl, h.time, h.fifo, h.ring, h.host, h.plan⟩

theorem Kept.popped {qs rest : List Instr} {P : PlanPred} {s : State} (h : Kept qs P s) : Kept rest P (s.popped rest) := by
  obtain ⟨_, h2, h3, h4, h5, h6⟩ := h
  exact ⟨rfl, h2, h3, h4, h5, h6⟩

end Sys2Proof.Machine
end

