-- ==== Sys2Proof/Laws/State.lean ====
section
/-! SUPPORT. What each named update of State changes, field by field: every lemma is true by rfl, so that no proof unfolds a record
update. -/

namespace Sys2Proof.Machine

variable (s : State)

/-! ## setBlk -/

@[simp] theorem setBlk_blocks (b : BlockId) (x : Block) : (s.setBlk b x).blocks = put s.blocks b.toNat x := rfl
@[simp] theorem setBlk_rest (b : BlockId) (x : Block) : (s.setBlk b x).rest = s.rest := rfl
@[simp] theorem setBlk_devNum (b : BlockId) (x : Block) : (s.setBlk b x).devNum = s.devNum := rfl
@[simp] theorem setBlk_devValid (b : BlockId) (x : Block) : (s.setBlk b x).devValid = s.devValid := rfl
@[simp] theorem setBlk_plan (b : BlockId) (x : Block) : (s.setBlk b x).plan = s.plan := rfl
@[simp] theorem setBlk_planId (b : BlockId) (x : Block) : (s.setBlk b x).planId = s.planId := rfl
@[simp] theorem setBlk_k (b : BlockId) (x : Block) : (s.setBlk b x).k = s.k := rfl
@[simp] theorem setBlk_epoch (b : BlockId) (x : Block) : (s.setBlk b x).epoch = s.epoch := rfl
@[simp] theorem setBlk_pl (b : BlockId) (x : Block) : (s.setBlk b x).pl = s.pl := rfl
@[simp] theorem setBlk_lastPlanId (b : BlockId) (x : Block) : (s.setBlk b x).lastPlanId = s.lastPlanId := rfl
@[simp] theorem setBlk_intakes (b : BlockId) (x : Block) : (s.setBlk b x).intakes = s.intakes := rfl
@[simp] theorem setBlk_outlets (b : BlockId) (x : Block) : (s.setBlk b x).outlets = s.outlets := rfl
@[simp] theorem setBlk_edge0 (b : BlockId) (x : Block) : (s.setBlk b x).edge0 = s.edge0 := rfl
@[simp] theorem setBlk_edge1 (b : BlockId) (x : Block) : (s.setBlk b x).edge1 = s.edge1 := rfl
@[simp] theorem setBlk_ports (b : BlockId) (x : Block) : (s.setBlk b x).ports = s.ports := rfl
@[simp] theorem setBlk_proxies (b : BlockId) (x : Block) : (s.setBlk b x).proxies = s.proxies := rfl
@[simp] theorem setBlk_tap (b : BlockId) (x : Block) : (s.setBlk b x).tap = s.tap := rfl
@[simp] theorem setBlk_ret (b : BlockId) (x : Block) : (s.setBlk b x).ret = s.ret := rfl
@[simp] theorem setBlk_fpBusy (b : BlockId) (x : Block) : (s.setBlk b x).fpBusy = s.fpBusy := rfl
@[simp] theorem setBlk_fpFailed (b : BlockId) (x : Block) : (s.setBlk b x).fpFailed = s.fpFailed := rfl
@[simp] theorem setBlk_arrived (b : BlockId) (x : Block) : (s.setBlk b x).arrived = s.arrived := rfl
@[simp] theorem setBlk_dies (b : BlockId) (x : Block) : (s.setBlk b x).dies = s.dies := rfl
@[simp] theorem setBlk_bundle (b : BlockId) (x : Block) : (s.setBlk b x).bundle = s.bundle := rfl
@[simp] theorem setBlk_station (b : BlockId) (x : Block) : (s.setBlk b x).station = s.station := rfl
@[simp] theorem setBlk_ledgers (b : BlockId) (x : Block) : (s.setBlk b x).ledgers = s.ledgers := rfl
@[simp] theorem setBlk_hif (b : BlockId) (x : Block) : (s.setBlk b x).hif = s.hif := rfl
@[simp] theorem setBlk_jnl (b : BlockId) (x : Block) : (s.setBlk b x).jnl = s.jnl := rfl
@[simp] theorem setBlk_trace (b : BlockId) (x : Block) : (s.setBlk b x).trace = s.trace := rfl
@[simp] theorem setBlk_supply (b : BlockId) (x : Block) : (s.setBlk b x).supply = s.supply := rfl
@[simp] theorem setBlk_boot (b : BlockId) (x : Block) : (s.setBlk b x).boot = s.boot := rfl
@[simp] theorem setBlk_thermal (b : BlockId) (x : Block) : (s.setBlk b x).thermal = s.thermal := rfl
@[simp] theorem setBlk_time (b : BlockId) (x : Block) : (s.setBlk b x).time = s.time := rfl
@[simp] theorem setBlk_clkmon (b : BlockId) (x : Block) : (s.setBlk b x).clkmon = s.clkmon := rfl
@[simp] theorem setBlk_elt (b : BlockId) (x : Block) : (s.setBlk b x).elt = s.elt := rfl
@[simp] theorem setBlk_unlock (b : BlockId) (x : Block) : (s.setBlk b x).unlock = s.unlock := rfl
@[simp] theorem setBlk_selectors (b : BlockId) (x : Block) : (s.setBlk b x).selectors = s.selectors := rfl
@[simp] theorem setBlk_flash (b : BlockId) (x : Block) : (s.setBlk b x).flash = s.flash := rfl
@[simp] theorem setBlk_dirty (b : BlockId) (x : Block) : (s.setBlk b x).dirty = s.dirty := rfl
@[simp] theorem setBlk_dictOut (b : BlockId) (x : Block) : (s.setBlk b x).dictOut = s.dictOut := rfl
@[simp] theorem setBlk_qpll (b : BlockId) (x : Block) : (s.setBlk b x).qpll = s.qpll := rfl
@[simp] theorem setBlk_sweep (b : BlockId) (x : Block) : (s.setBlk b x).sweep = s.sweep := rfl
@[simp] theorem setBlk_repair (b : BlockId) (x : Block) : (s.setBlk b x).repair = s.repair := rfl
@[simp] theorem setBlk_place (b : BlockId) (x : Block) : (s.setBlk b x).place = s.place := rfl
@[simp] theorem setBlk_restricted (b : BlockId) (x : Block) : (s.setBlk b x).restricted = s.restricted := rfl
@[simp] theorem setBlk_override (b : BlockId) (x : Block) : (s.setBlk b x).override = s.override := rfl
@[simp] theorem setBlk_sysDevs (b : BlockId) (x : Block) : (s.setBlk b x).sysDevs = s.sysDevs := rfl
@[simp] theorem setBlk_routes (b : BlockId) (x : Block) : (s.setBlk b x).routes = s.routes := rfl
@[simp] theorem setBlk_health (b : BlockId) (x : Block) : (s.setBlk b x).health = s.health := rfl
@[simp] theorem setBlk_keys (b : BlockId) (x : Block) : (s.setBlk b x).keys = s.keys := rfl
@[simp] theorem setBlk_settings (b : BlockId) (x : Block) : (s.setBlk b x).settings = s.settings := rfl
@[simp] theorem setBlk_hostMem (b : BlockId) (x : Block) : (s.setBlk b x).hostMem = s.hostMem := rfl
@[simp] theorem setBlk_footpath (b : BlockId) (x : Block) : (s.setBlk b x).footpath = s.footpath := rfl
@[simp] theorem setBlk_fcy (b : BlockId) (x : Block) : (s.setBlk b x).fcy = s.fcy := rfl
@[simp] theorem setBlk_mhz (b : BlockId) (x : Block) : (s.setBlk b x).mhz = s.mhz := rfl
@[simp] theorem setBlk_acyFrac (b : BlockId) (x : Block) : (s.setBlk b x).acyFrac = s.acyFrac := rfl
@[simp] theorem setBlk_acy (b : BlockId) (x : Block) : (s.setBlk b x).acy = s.acy := rfl
@[simp] theorem setBlk_freeCount (b : BlockId) (x : Block) : (s.setBlk b x).freeCount = s.freeCount := rfl
@[simp] theorem setBlk_pending (b : BlockId) (x : Block) : (s.setBlk b x).pending = s.pending := rfl

/-! ## modBlk -/

@[simp] theorem modBlk_blocks (b : BlockId) (f : Block → Block) : (s.modBlk b f).blocks = put s.blocks b.toNat (f (s.blk b)) := rfl
@[simp] theorem modBlk_rest (b : BlockId) (f : Block → Block) : (s.modBlk b f).rest = s.rest := rfl
@[simp] theorem modBlk_devNum (b : BlockId) (f : Block → Block) : (s.modBlk b f).devNum = s.devNum := rfl
@[simp] theorem modBlk_devValid (b : BlockId) (f : Block → Block) : (s.modBlk b f).devValid = s.devValid := rfl
@[simp] theorem modBlk_plan (b : BlockId) (f : Block → Block) : (s.modBlk b f).plan = s.plan := rfl
@[simp] theorem modBlk_planId (b : BlockId) (f : Block → Block) : (s.modBlk b f).planId = s.planId := rfl
@[simp] theorem modBlk_k (b : BlockId) (f : Block → Block) : (s.modBlk b f).k = s.k := rfl
@[simp] theorem modBlk_epoch (b : BlockId) (f : Block → Block) : (s.modBlk b f).epoch = s.epoch := rfl
@[simp] theorem modBlk_pl (b : BlockId) (f : Block → Block) : (s.modBlk b f).pl = s.pl := rfl
@[simp] theorem modBlk_lastPlanId (b : BlockId) (f : Block → Block) : (s.modBlk b f).lastPlanId = s.lastPlanId := rfl
@[simp] theorem modBlk_intakes (b : BlockId) (f : Block → Block) : (s.modBlk b f).intakes = s.intakes := rfl
@[simp] theorem modBlk_outlets (b : BlockId) (f : Block → Block) : (s.modBlk b f).outlets = s.outlets := rfl
@[simp] theorem modBlk_edge0 (b : BlockId) (f : Block → Block) : (s.modBlk b f).edge0 = s.edge0 := rfl
@[simp] theorem modBlk_edge1 (b : BlockId) (f : Block → Block) : (s.modBlk b f).edge1 = s.edge1 := rfl
@[simp] theorem modBlk_ports (b : BlockId) (f : Block → Block) : (s.modBlk b f).ports = s.ports := rfl
@[simp] theorem modBlk_proxies (b : BlockId) (f : Block → Block) : (s.modBlk b f).proxies = s.proxies := rfl
@[simp] theorem modBlk_tap (b : BlockId) (f : Block → Block) : (s.modBlk b f).tap = s.tap := rfl
@[simp] theorem modBlk_ret (b : BlockId) (f : Block → Block) : (s.modBlk b f).ret = s.ret := rfl
@[simp] theorem modBlk_fpBusy (b : BlockId) (f : Block → Block) : (s.modBlk b f).fpBusy = s.fpBusy := rfl
@[simp] theorem modBlk_fpFailed (b : BlockId) (f : Block → Block) : (s.modBlk b f).fpFailed = s.fpFailed := rfl
@[simp] theorem modBlk_arrived (b : BlockId) (f : Block → Block) : (s.modBlk b f).arrived = s.arrived := rfl
@[simp] theorem modBlk_dies (b : BlockId) (f : Block → Block) : (s.modBlk b f).dies = s.dies := rfl
@[simp] theorem modBlk_bundle (b : BlockId) (f : Block → Block) : (s.modBlk b f).bundle = s.bundle := rfl
@[simp] theorem modBlk_station (b : BlockId) (f : Block → Block) : (s.modBlk b f).station = s.station := rfl
@[simp] theorem modBlk_ledgers (b : BlockId) (f : Block → Block) : (s.modBlk b f).ledgers = s.ledgers := rfl
@[simp] theorem modBlk_hif (b : BlockId) (f : Block → Block) : (s.modBlk b f).hif = s.hif := rfl
@[simp] theorem modBlk_jnl (b : BlockId) (f : Block → Block) : (s.modBlk b f).jnl = s.jnl := rfl
@[simp] theorem modBlk_trace (b : BlockId) (f : Block → Block) : (s.modBlk b f).trace = s.trace := rfl
@[simp] theorem modBlk_supply (b : BlockId) (f : Block → Block) : (s.modBlk b f).supply = s.supply := rfl
@[simp] theorem modBlk_boot (b : BlockId) (f : Block → Block) : (s.modBlk b f).boot = s.boot := rfl
@[simp] theorem modBlk_thermal (b : BlockId) (f : Block → Block) : (s.modBlk b f).thermal = s.thermal := rfl
@[simp] theorem modBlk_time (b : BlockId) (f : Block → Block) : (s.modBlk b f).time = s.time := rfl
@[simp] theorem modBlk_clkmon (b : BlockId) (f : Block → Block) : (s.modBlk b f).clkmon = s.clkmon := rfl
@[simp] theorem modBlk_elt (b : BlockId) (f : Block → Block) : (s.modBlk b f).elt = s.elt := rfl
@[simp] theorem modBlk_unlock (b : BlockId) (f : Block → Block) : (s.modBlk b f).unlock = s.unlock := rfl
@[simp] theorem modBlk_selectors (b : BlockId) (f : Block → Block) : (s.modBlk b f).selectors = s.selectors := rfl
@[simp] theorem modBlk_flash (b : BlockId) (f : Block → Block) : (s.modBlk b f).flash = s.flash := rfl
@[simp] theorem modBlk_dirty (b : BlockId) (f : Block → Block) : (s.modBlk b f).dirty = s.dirty := rfl
@[simp] theorem modBlk_dictOut (b : BlockId) (f : Block → Block) : (s.modBlk b f).dictOut = s.dictOut := rfl
@[simp] theorem modBlk_qpll (b : BlockId) (f : Block → Block) : (s.modBlk b f).qpll = s.qpll := rfl
@[simp] theorem modBlk_sweep (b : BlockId) (f : Block → Block) : (s.modBlk b f).sweep = s.sweep := rfl
@[simp] theorem modBlk_repair (b : BlockId) (f : Block → Block) : (s.modBlk b f).repair = s.repair := rfl
@[simp] theorem modBlk_place (b : BlockId) (f : Block → Block) : (s.modBlk b f).place = s.place := rfl
@[simp] theorem modBlk_restricted (b : BlockId) (f : Block → Block) : (s.modBlk b f).restricted = s.restricted := rfl
@[simp] theorem modBlk_override (b : BlockId) (f : Block → Block) : (s.modBlk b f).override = s.override := rfl
@[simp] theorem modBlk_sysDevs (b : BlockId) (f : Block → Block) : (s.modBlk b f).sysDevs = s.sysDevs := rfl
@[simp] theorem modBlk_routes (b : BlockId) (f : Block → Block) : (s.modBlk b f).routes = s.routes := rfl
@[simp] theorem modBlk_health (b : BlockId) (f : Block → Block) : (s.modBlk b f).health = s.health := rfl
@[simp] theorem modBlk_keys (b : BlockId) (f : Block → Block) : (s.modBlk b f).keys = s.keys := rfl
@[simp] theorem modBlk_settings (b : BlockId) (f : Block → Block) : (s.modBlk b f).settings = s.settings := rfl
@[simp] theorem modBlk_hostMem (b : BlockId) (f : Block → Block) : (s.modBlk b f).hostMem = s.hostMem := rfl
@[simp] theorem modBlk_footpath (b : BlockId) (f : Block → Block) : (s.modBlk b f).footpath = s.footpath := rfl
@[simp] theorem modBlk_fcy (b : BlockId) (f : Block → Block) : (s.modBlk b f).fcy = s.fcy := rfl
@[simp] theorem modBlk_mhz (b : BlockId) (f : Block → Block) : (s.modBlk b f).mhz = s.mhz := rfl
@[simp] theorem modBlk_acyFrac (b : BlockId) (f : Block → Block) : (s.modBlk b f).acyFrac = s.acyFrac := rfl
@[simp] theorem modBlk_acy (b : BlockId) (f : Block → Block) : (s.modBlk b f).acy = s.acy := rfl
@[simp] theorem modBlk_freeCount (b : BlockId) (f : Block → Block) : (s.modBlk b f).freeCount = s.freeCount := rfl
@[simp] theorem modBlk_pending (b : BlockId) (f : Block → Block) : (s.modBlk b f).pending = s.pending := rfl

/-! ## popped -/

@[simp] theorem popped_blocks (l : List Instr) : (s.popped l).blocks = s.blocks := rfl
@[simp] theorem popped_rest (l : List Instr) : (s.popped l).rest = s.rest := rfl
@[simp] theorem popped_devNum (l : List Instr) : (s.popped l).devNum = s.devNum := rfl
@[simp] theorem popped_devValid (l : List Instr) : (s.popped l).devValid = s.devValid := rfl
@[simp] theorem popped_plan (l : List Instr) : (s.popped l).plan = s.plan := rfl
@[simp] theorem popped_planId (l : List Instr) : (s.popped l).planId = s.planId := rfl
@[simp] theorem popped_k (l : List Instr) : (s.popped l).k = s.k := rfl
@[simp] theorem popped_epoch (l : List Instr) : (s.popped l).epoch = s.epoch := rfl
@[simp] theorem popped_pl (l : List Instr) : (s.popped l).pl = s.pl := rfl
@[simp] theorem popped_lastPlanId (l : List Instr) : (s.popped l).lastPlanId = s.lastPlanId := rfl
@[simp] theorem popped_intakes (l : List Instr) : (s.popped l).intakes = s.intakes := rfl
@[simp] theorem popped_outlets (l : List Instr) : (s.popped l).outlets = s.outlets := rfl
@[simp] theorem popped_edge0 (l : List Instr) : (s.popped l).edge0 = s.edge0 := rfl
@[simp] theorem popped_edge1 (l : List Instr) : (s.popped l).edge1 = s.edge1 := rfl
@[simp] theorem popped_ports (l : List Instr) : (s.popped l).ports = s.ports := rfl
@[simp] theorem popped_proxies (l : List Instr) : (s.popped l).proxies = s.proxies := rfl
@[simp] theorem popped_tap (l : List Instr) : (s.popped l).tap = s.tap := rfl
@[simp] theorem popped_ret (l : List Instr) : (s.popped l).ret = s.ret := rfl
@[simp] theorem popped_fpBusy (l : List Instr) : (s.popped l).fpBusy = s.fpBusy := rfl
@[simp] theorem popped_fpFailed (l : List Instr) : (s.popped l).fpFailed = s.fpFailed := rfl
@[simp] theorem popped_arrived (l : List Instr) : (s.popped l).arrived = s.arrived := rfl
@[simp] theorem popped_dies (l : List Instr) : (s.popped l).dies = s.dies := rfl
@[simp] theorem popped_bundle (l : List Instr) : (s.popped l).bundle = s.bundle := rfl
@[simp] theorem popped_station (l : List Instr) : (s.popped l).station = s.station := rfl
@[simp] theorem popped_ledgers (l : List Instr) : (s.popped l).ledgers = s.ledgers := rfl
@[simp] theorem popped_hif (l : List Instr) : (s.popped l).hif = s.hif := rfl
@[simp] theorem popped_jnl (l : List Instr) : (s.popped l).jnl = s.jnl := rfl
@[simp] theorem popped_trace (l : List Instr) : (s.popped l).trace = s.trace := rfl
@[simp] theorem popped_supply (l : List Instr) : (s.popped l).supply = s.supply := rfl
@[simp] theorem popped_boot (l : List Instr) : (s.popped l).boot = s.boot := rfl
@[simp] theorem popped_thermal (l : List Instr) : (s.popped l).thermal = s.thermal := rfl
@[simp] theorem popped_time (l : List Instr) : (s.popped l).time = s.time := rfl
@[simp] theorem popped_clkmon (l : List Instr) : (s.popped l).clkmon = s.clkmon := rfl
@[simp] theorem popped_elt (l : List Instr) : (s.popped l).elt = s.elt := rfl
@[simp] theorem popped_unlock (l : List Instr) : (s.popped l).unlock = s.unlock := rfl
@[simp] theorem popped_selectors (l : List Instr) : (s.popped l).selectors = s.selectors := rfl
@[simp] theorem popped_flash (l : List Instr) : (s.popped l).flash = s.flash := rfl
@[simp] theorem popped_dirty (l : List Instr) : (s.popped l).dirty = s.dirty := rfl
@[simp] theorem popped_dictOut (l : List Instr) : (s.popped l).dictOut = s.dictOut := rfl
@[simp] theorem popped_qpll (l : List Instr) : (s.popped l).qpll = s.qpll := rfl
@[simp] theorem popped_sweep (l : List Instr) : (s.popped l).sweep = s.sweep := rfl
@[simp] theorem popped_repair (l : List Instr) : (s.popped l).repair = s.repair := rfl
@[simp] theorem popped_place (l : List Instr) : (s.popped l).place = s.place := rfl
@[simp] theorem popped_restricted (l : List Instr) : (s.popped l).restricted = s.restricted := rfl
@[simp] theorem popped_override (l : List Instr) : (s.popped l).override = s.override := rfl
@[simp] theorem popped_sysDevs (l : List Instr) : (s.popped l).sysDevs = s.sysDevs := rfl
@[simp] theorem popped_routes (l : List Instr) : (s.popped l).routes = s.routes := rfl
@[simp] theorem popped_health (l : List Instr) : (s.popped l).health = s.health := rfl
@[simp] theorem popped_keys (l : List Instr) : (s.popped l).keys = s.keys := rfl
@[simp] theorem popped_settings (l : List Instr) : (s.popped l).settings = s.settings := rfl
@[simp] theorem popped_hostMem (l : List Instr) : (s.popped l).hostMem = s.hostMem := rfl
@[simp] theorem popped_footpath (l : List Instr) : (s.popped l).footpath = s.footpath := rfl
@[simp] theorem popped_fcy (l : List Instr) : (s.popped l).fcy = s.fcy := rfl
@[simp] theorem popped_mhz (l : List Instr) : (s.popped l).mhz = s.mhz := rfl
@[simp] theorem popped_acyFrac (l : List Instr) : (s.popped l).acyFrac = s.acyFrac := rfl
@[simp] theorem popped_acy (l : List Instr) : (s.popped l).acy = s.acy := rfl
@[simp] theorem popped_freeCount (l : List Instr) : (s.popped l).freeCount = s.freeCount := rfl
@[simp] theorem popped_pending (l : List Instr) : (s.popped l).pending = l := rfl

/-! ## modHif -/

@[simp] theorem modHif_blocks (f : Hif → Hif) : (s.modHif f).blocks = s.blocks := rfl
@[simp] theorem modHif_rest (f : Hif → Hif) : (s.modHif f).rest = s.rest := rfl
@[simp] theorem modHif_devNum (f : Hif → Hif) : (s.modHif f).devNum = s.devNum := rfl
@[simp] theorem modHif_devValid (f : Hif → Hif) : (s.modHif f).devValid = s.devValid := rfl
@[simp] theorem modHif_plan (f : Hif → Hif) : (s.modHif f).plan = s.plan := rfl
@[simp] theorem modHif_planId (f : Hif → Hif) : (s.modHif f).planId = s.planId := rfl
@[simp] theorem modHif_k (f : Hif → Hif) : (s.modHif f).k = s.k := rfl
@[simp] theorem modHif_epoch (f : Hif → Hif) : (s.modHif f).epoch = s.epoch := rfl
@[simp] theorem modHif_pl (f : Hif → Hif) : (s.modHif f).pl = s.pl := rfl
@[simp] theorem modHif_lastPlanId (f : Hif → Hif) : (s.modHif f).lastPlanId = s.lastPlanId := rfl
@[simp] theorem modHif_intakes (f : Hif → Hif) : (s.modHif f).intakes = s.intakes := rfl
@[simp] theorem modHif_outlets (f : Hif → Hif) : (s.modHif f).outlets = s.outlets := rfl
@[simp] theorem modHif_edge0 (f : Hif → Hif) : (s.modHif f).edge0 = s.edge0 := rfl
@[simp] theorem modHif_edge1 (f : Hif → Hif) : (s.modHif f).edge1 = s.edge1 := rfl
@[simp] theorem modHif_ports (f : Hif → Hif) : (s.modHif f).ports = s.ports := rfl
@[simp] theorem modHif_proxies (f : Hif → Hif) : (s.modHif f).proxies = s.proxies := rfl
@[simp] theorem modHif_tap (f : Hif → Hif) : (s.modHif f).tap = s.tap := rfl
@[simp] theorem modHif_ret (f : Hif → Hif) : (s.modHif f).ret = s.ret := rfl
@[simp] theorem modHif_fpBusy (f : Hif → Hif) : (s.modHif f).fpBusy = s.fpBusy := rfl
@[simp] theorem modHif_fpFailed (f : Hif → Hif) : (s.modHif f).fpFailed = s.fpFailed := rfl
@[simp] theorem modHif_arrived (f : Hif → Hif) : (s.modHif f).arrived = s.arrived := rfl
@[simp] theorem modHif_dies (f : Hif → Hif) : (s.modHif f).dies = s.dies := rfl
@[simp] theorem modHif_bundle (f : Hif → Hif) : (s.modHif f).bundle = s.bundle := rfl
@[simp] theorem modHif_station (f : Hif → Hif) : (s.modHif f).station = s.station := rfl
@[simp] theorem modHif_ledgers (f : Hif → Hif) : (s.modHif f).ledgers = s.ledgers := rfl
@[simp] theorem modHif_hif (f : Hif → Hif) : (s.modHif f).hif = f s.hif := rfl
@[simp] theorem modHif_jnl (f : Hif → Hif) : (s.modHif f).jnl = s.jnl := rfl
@[simp] theorem modHif_trace (f : Hif → Hif) : (s.modHif f).trace = s.trace := rfl
@[simp] theorem modHif_supply (f : Hif → Hif) : (s.modHif f).supply = s.supply := rfl
@[simp] theorem modHif_boot (f : Hif → Hif) : (s.modHif f).boot = s.boot := rfl
@[simp] theorem modHif_thermal (f : Hif → Hif) : (s.modHif f).thermal = s.thermal := rfl
@[simp] theorem modHif_time (f : Hif → Hif) : (s.modHif f).time = s.time := rfl
@[simp] theorem modHif_clkmon (f : Hif → Hif) : (s.modHif f).clkmon = s.clkmon := rfl
@[simp] theorem modHif_elt (f : Hif → Hif) : (s.modHif f).elt = s.elt := rfl
@[simp] theorem modHif_unlock (f : Hif → Hif) : (s.modHif f).unlock = s.unlock := rfl
@[simp] theorem modHif_selectors (f : Hif → Hif) : (s.modHif f).selectors = s.selectors := rfl
@[simp] theorem modHif_flash (f : Hif → Hif) : (s.modHif f).flash = s.flash := rfl
@[simp] theorem modHif_dirty (f : Hif → Hif) : (s.modHif f).dirty = s.dirty := rfl
@[simp] theorem modHif_dictOut (f : Hif → Hif) : (s.modHif f).dictOut = s.dictOut := rfl
@[simp] theorem modHif_qpll (f : Hif → Hif) : (s.modHif f).qpll = s.qpll := rfl
@[simp] theorem modHif_sweep (f : Hif → Hif) : (s.modHif f).sweep = s.sweep := rfl
@[simp] theorem modHif_repair (f : Hif → Hif) : (s.modHif f).repair = s.repair := rfl
@[simp] theorem modHif_place (f : Hif → Hif) : (s.modHif f).place = s.place := rfl
@[simp] theorem modHif_restricted (f : Hif → Hif) : (s.modHif f).restricted = s.restricted := rfl
@[simp] theorem modHif_override (f : Hif → Hif) : (s.modHif f).override = s.override := rfl
@[simp] theorem modHif_sysDevs (f : Hif → Hif) : (s.modHif f).sysDevs = s.sysDevs := rfl
@[simp] theorem modHif_routes (f : Hif → Hif) : (s.modHif f).routes = s.routes := rfl
@[simp] theorem modHif_health (f : Hif → Hif) : (s.modHif f).health = s.health := rfl
@[simp] theorem modHif_keys (f : Hif → Hif) : (s.modHif f).keys = s.keys := rfl
@[simp] theorem modHif_settings (f : Hif → Hif) : (s.modHif f).settings = s.settings := rfl
@[simp] theorem modHif_hostMem (f : Hif → Hif) : (s.modHif f).hostMem = s.hostMem := rfl
@[simp] theorem modHif_footpath (f : Hif → Hif) : (s.modHif f).footpath = s.footpath := rfl
@[simp] theorem modHif_fcy (f : Hif → Hif) : (s.modHif f).fcy = s.fcy := rfl
@[simp] theorem modHif_mhz (f : Hif → Hif) : (s.modHif f).mhz = s.mhz := rfl
@[simp] theorem modHif_acyFrac (f : Hif → Hif) : (s.modHif f).acyFrac = s.acyFrac := rfl
@[simp] theorem modHif_acy (f : Hif → Hif) : (s.modHif f).acy = s.acy := rfl
@[simp] theorem modHif_freeCount (f : Hif → Hif) : (s.modHif f).freeCount = s.freeCount := rfl
@[simp] theorem modHif_pending (f : Hif → Hif) : (s.modHif f).pending = s.pending := rfl

/-! ## modJnl -/

@[simp] theorem modJnl_blocks (f : Jnl → Jnl) : (s.modJnl f).blocks = s.blocks := rfl
@[simp] theorem modJnl_rest (f : Jnl → Jnl) : (s.modJnl f).rest = s.rest := rfl
@[simp] theorem modJnl_devNum (f : Jnl → Jnl) : (s.modJnl f).devNum = s.devNum := rfl
@[simp] theorem modJnl_devValid (f : Jnl → Jnl) : (s.modJnl f).devValid = s.devValid := rfl
@[simp] theorem modJnl_plan (f : Jnl → Jnl) : (s.modJnl f).plan = s.plan := rfl
@[simp] theorem modJnl_planId (f : Jnl → Jnl) : (s.modJnl f).planId = s.planId := rfl
@[simp] theorem modJnl_k (f : Jnl → Jnl) : (s.modJnl f).k = s.k := rfl
@[simp] theorem modJnl_epoch (f : Jnl → Jnl) : (s.modJnl f).epoch = s.epoch := rfl
@[simp] theorem modJnl_pl (f : Jnl → Jnl) : (s.modJnl f).pl = s.pl := rfl
@[simp] theorem modJnl_lastPlanId (f : Jnl → Jnl) : (s.modJnl f).lastPlanId = s.lastPlanId := rfl
@[simp] theorem modJnl_intakes (f : Jnl → Jnl) : (s.modJnl f).intakes = s.intakes := rfl
@[simp] theorem modJnl_outlets (f : Jnl → Jnl) : (s.modJnl f).outlets = s.outlets := rfl
@[simp] theorem modJnl_edge0 (f : Jnl → Jnl) : (s.modJnl f).edge0 = s.edge0 := rfl
@[simp] theorem modJnl_edge1 (f : Jnl → Jnl) : (s.modJnl f).edge1 = s.edge1 := rfl
@[simp] theorem modJnl_ports (f : Jnl → Jnl) : (s.modJnl f).ports = s.ports := rfl
@[simp] theorem modJnl_proxies (f : Jnl → Jnl) : (s.modJnl f).proxies = s.proxies := rfl
@[simp] theorem modJnl_tap (f : Jnl → Jnl) : (s.modJnl f).tap = s.tap := rfl
@[simp] theorem modJnl_ret (f : Jnl → Jnl) : (s.modJnl f).ret = s.ret := rfl
@[simp] theorem modJnl_fpBusy (f : Jnl → Jnl) : (s.modJnl f).fpBusy = s.fpBusy := rfl
@[simp] theorem modJnl_fpFailed (f : Jnl → Jnl) : (s.modJnl f).fpFailed = s.fpFailed := rfl
@[simp] theorem modJnl_arrived (f : Jnl → Jnl) : (s.modJnl f).arrived = s.arrived := rfl
@[simp] theorem modJnl_dies (f : Jnl → Jnl) : (s.modJnl f).dies = s.dies := rfl
@[simp] theorem modJnl_bundle (f : Jnl → Jnl) : (s.modJnl f).bundle = s.bundle := rfl
@[simp] theorem modJnl_station (f : Jnl → Jnl) : (s.modJnl f).station = s.station := rfl
@[simp] theorem modJnl_ledgers (f : Jnl → Jnl) : (s.modJnl f).ledgers = s.ledgers := rfl
@[simp] theorem modJnl_hif (f : Jnl → Jnl) : (s.modJnl f).hif = s.hif := rfl
@[simp] theorem modJnl_jnl (f : Jnl → Jnl) : (s.modJnl f).jnl = f s.jnl := rfl
@[simp] theorem modJnl_trace (f : Jnl → Jnl) : (s.modJnl f).trace = s.trace := rfl
@[simp] theorem modJnl_supply (f : Jnl → Jnl) : (s.modJnl f).supply = s.supply := rfl
@[simp] theorem modJnl_boot (f : Jnl → Jnl) : (s.modJnl f).boot = s.boot := rfl
@[simp] theorem modJnl_thermal (f : Jnl → Jnl) : (s.modJnl f).thermal = s.thermal := rfl
@[simp] theorem modJnl_time (f : Jnl → Jnl) : (s.modJnl f).time = s.time := rfl
@[simp] theorem modJnl_clkmon (f : Jnl → Jnl) : (s.modJnl f).clkmon = s.clkmon := rfl
@[simp] theorem modJnl_elt (f : Jnl → Jnl) : (s.modJnl f).elt = s.elt := rfl
@[simp] theorem modJnl_unlock (f : Jnl → Jnl) : (s.modJnl f).unlock = s.unlock := rfl
@[simp] theorem modJnl_selectors (f : Jnl → Jnl) : (s.modJnl f).selectors = s.selectors := rfl
@[simp] theorem modJnl_flash (f : Jnl → Jnl) : (s.modJnl f).flash = s.flash := rfl
@[simp] theorem modJnl_dirty (f : Jnl → Jnl) : (s.modJnl f).dirty = s.dirty := rfl
@[simp] theorem modJnl_dictOut (f : Jnl → Jnl) : (s.modJnl f).dictOut = s.dictOut := rfl
@[simp] theorem modJnl_qpll (f : Jnl → Jnl) : (s.modJnl f).qpll = s.qpll := rfl
@[simp] theorem modJnl_sweep (f : Jnl → Jnl) : (s.modJnl f).sweep = s.sweep := rfl
@[simp] theorem modJnl_repair (f : Jnl → Jnl) : (s.modJnl f).repair = s.repair := rfl
@[simp] theorem modJnl_place (f : Jnl → Jnl) : (s.modJnl f).place = s.place := rfl
@[simp] theorem modJnl_restricted (f : Jnl → Jnl) : (s.modJnl f).restricted = s.restricted := rfl
@[simp] theorem modJnl_override (f : Jnl → Jnl) : (s.modJnl f).override = s.override := rfl
@[simp] theorem modJnl_sysDevs (f : Jnl → Jnl) : (s.modJnl f).sysDevs = s.sysDevs := rfl
@[simp] theorem modJnl_routes (f : Jnl → Jnl) : (s.modJnl f).routes = s.routes := rfl
@[simp] theorem modJnl_health (f : Jnl → Jnl) : (s.modJnl f).health = s.health := rfl
@[simp] theorem modJnl_keys (f : Jnl → Jnl) : (s.modJnl f).keys = s.keys := rfl
@[simp] theorem modJnl_settings (f : Jnl → Jnl) : (s.modJnl f).settings = s.settings := rfl
@[simp] theorem modJnl_hostMem (f : Jnl → Jnl) : (s.modJnl f).hostMem = s.hostMem := rfl
@[simp] theorem modJnl_footpath (f : Jnl → Jnl) : (s.modJnl f).footpath = s.footpath := rfl
@[simp] theorem modJnl_fcy (f : Jnl → Jnl) : (s.modJnl f).fcy = s.fcy := rfl
@[simp] theorem modJnl_mhz (f : Jnl → Jnl) : (s.modJnl f).mhz = s.mhz := rfl
@[simp] theorem modJnl_acyFrac (f : Jnl → Jnl) : (s.modJnl f).acyFrac = s.acyFrac := rfl
@[simp] theorem modJnl_acy (f : Jnl → Jnl) : (s.modJnl f).acy = s.acy := rfl
@[simp] theorem modJnl_freeCount (f : Jnl → Jnl) : (s.modJnl f).freeCount = s.freeCount := rfl
@[simp] theorem modJnl_pending (f : Jnl → Jnl) : (s.modJnl f).pending = s.pending := rfl

/-! ## modEpoch -/

@[simp] theorem modEpoch_blocks (f : Epoch → Epoch) : (s.modEpoch f).blocks = s.blocks := rfl
@[simp] theorem modEpoch_rest (f : Epoch → Epoch) : (s.modEpoch f).rest = s.rest := rfl
@[simp] theorem modEpoch_devNum (f : Epoch → Epoch) : (s.modEpoch f).devNum = s.devNum := rfl
@[simp] theorem modEpoch_devValid (f : Epoch → Epoch) : (s.modEpoch f).devValid = s.devValid := rfl
@[simp] theorem modEpoch_plan (f : Epoch → Epoch) : (s.modEpoch f).plan = s.plan := rfl
@[simp] theorem modEpoch_planId (f : Epoch → Epoch) : (s.modEpoch f).planId = s.planId := rfl
@[simp] theorem modEpoch_k (f : Epoch → Epoch) : (s.modEpoch f).k = s.k := rfl
@[simp] theorem modEpoch_epoch (f : Epoch → Epoch) : (s.modEpoch f).epoch = f s.epoch := rfl
@[simp] theorem modEpoch_pl (f : Epoch → Epoch) : (s.modEpoch f).pl = s.pl := rfl
@[simp] theorem modEpoch_lastPlanId (f : Epoch → Epoch) : (s.modEpoch f).lastPlanId = s.lastPlanId := rfl
@[simp] theorem modEpoch_intakes (f : Epoch → Epoch) : (s.modEpoch f).intakes = s.intakes := rfl
@[simp] theorem modEpoch_outlets (f : Epoch → Epoch) : (s.modEpoch f).outlets = s.outlets := rfl
@[simp] theorem modEpoch_edge0 (f : Epoch → Epoch) : (s.modEpoch f).edge0 = s.edge0 := rfl
@[simp] theorem modEpoch_edge1 (f : Epoch → Epoch) : (s.modEpoch f).edge1 = s.edge1 := rfl
@[simp] theorem modEpoch_ports (f : Epoch → Epoch) : (s.modEpoch f).ports = s.ports := rfl
@[simp] theorem modEpoch_proxies (f : Epoch → Epoch) : (s.modEpoch f).proxies = s.proxies := rfl
@[simp] theorem modEpoch_tap (f : Epoch → Epoch) : (s.modEpoch f).tap = s.tap := rfl
@[simp] theorem modEpoch_ret (f : Epoch → Epoch) : (s.modEpoch f).ret = s.ret := rfl
@[simp] theorem modEpoch_fpBusy (f : Epoch → Epoch) : (s.modEpoch f).fpBusy = s.fpBusy := rfl
@[simp] theorem modEpoch_fpFailed (f : Epoch → Epoch) : (s.modEpoch f).fpFailed = s.fpFailed := rfl
@[simp] theorem modEpoch_arrived (f : Epoch → Epoch) : (s.modEpoch f).arrived = s.arrived := rfl
@[simp] theorem modEpoch_dies (f : Epoch → Epoch) : (s.modEpoch f).dies = s.dies := rfl
@[simp] theorem modEpoch_bundle (f : Epoch → Epoch) : (s.modEpoch f).bundle = s.bundle := rfl
@[simp] theorem modEpoch_station (f : Epoch → Epoch) : (s.modEpoch f).station = s.station := rfl
@[simp] theorem modEpoch_ledgers (f : Epoch → Epoch) : (s.modEpoch f).ledgers = s.ledgers := rfl
@[simp] theorem modEpoch_hif (f : Epoch → Epoch) : (s.modEpoch f).hif = s.hif := rfl
@[simp] theorem modEpoch_jnl (f : Epoch → Epoch) : (s.modEpoch f).jnl = s.jnl := rfl
@[simp] theorem modEpoch_trace (f : Epoch → Epoch) : (s.modEpoch f).trace = s.trace := rfl
@[simp] theorem modEpoch_supply (f : Epoch → Epoch) : (s.modEpoch f).supply = s.supply := rfl
@[simp] theorem modEpoch_boot (f : Epoch → Epoch) : (s.modEpoch f).boot = s.boot := rfl
@[simp] theorem modEpoch_thermal (f : Epoch → Epoch) : (s.modEpoch f).thermal = s.thermal := rfl
@[simp] theorem modEpoch_time (f : Epoch → Epoch) : (s.modEpoch f).time = s.time := rfl
@[simp] theorem modEpoch_clkmon (f : Epoch → Epoch) : (s.modEpoch f).clkmon = s.clkmon := rfl
@[simp] theorem modEpoch_elt (f : Epoch → Epoch) : (s.modEpoch f).elt = s.elt := rfl
@[simp] theorem modEpoch_unlock (f : Epoch → Epoch) : (s.modEpoch f).unlock = s.unlock := rfl
@[simp] theorem modEpoch_selectors (f : Epoch → Epoch) : (s.modEpoch f).selectors = s.selectors := rfl
@[simp] theorem modEpoch_flash (f : Epoch → Epoch) : (s.modEpoch f).flash = s.flash := rfl
@[simp] theorem modEpoch_dirty (f : Epoch → Epoch) : (s.modEpoch f).dirty = s.dirty := rfl
@[simp] theorem modEpoch_dictOut (f : Epoch → Epoch) : (s.modEpoch f).dictOut = s.dictOut := rfl
@[simp] theorem modEpoch_qpll (f : Epoch → Epoch) : (s.modEpoch f).qpll = s.qpll := rfl
@[simp] theorem modEpoch_sweep (f : Epoch → Epoch) : (s.modEpoch f).sweep = s.sweep := rfl
@[simp] theorem modEpoch_repair (f : Epoch → Epoch) : (s.modEpoch f).repair = s.repair := rfl
@[simp] theorem modEpoch_place (f : Epoch → Epoch) : (s.modEpoch f).place = s.place := rfl
@[simp] theorem modEpoch_restricted (f : Epoch → Epoch) : (s.modEpoch f).restricted = s.restricted := rfl
@[simp] theorem modEpoch_override (f : Epoch → Epoch) : (s.modEpoch f).override = s.override := rfl
@[simp] theorem modEpoch_sysDevs (f : Epoch → Epoch) : (s.modEpoch f).sysDevs = s.sysDevs := rfl
@[simp] theorem modEpoch_routes (f : Epoch → Epoch) : (s.modEpoch f).routes = s.routes := rfl
@[simp] theorem modEpoch_health (f : Epoch → Epoch) : (s.modEpoch f).health = s.health := rfl
@[simp] theorem modEpoch_keys (f : Epoch → Epoch) : (s.modEpoch f).keys = s.keys := rfl
@[simp] theorem modEpoch_settings (f : Epoch → Epoch) : (s.modEpoch f).settings = s.settings := rfl
@[simp] theorem modEpoch_hostMem (f : Epoch → Epoch) : (s.modEpoch f).hostMem = s.hostMem := rfl
@[simp] theorem modEpoch_footpath (f : Epoch → Epoch) : (s.modEpoch f).footpath = s.footpath := rfl
@[simp] theorem modEpoch_fcy (f : Epoch → Epoch) : (s.modEpoch f).fcy = s.fcy := rfl
@[simp] theorem modEpoch_mhz (f : Epoch → Epoch) : (s.modEpoch f).mhz = s.mhz := rfl
@[simp] theorem modEpoch_acyFrac (f : Epoch → Epoch) : (s.modEpoch f).acyFrac = s.acyFrac := rfl
@[simp] theorem modEpoch_acy (f : Epoch → Epoch) : (s.modEpoch f).acy = s.acy := rfl
@[simp] theorem modEpoch_freeCount (f : Epoch → Epoch) : (s.modEpoch f).freeCount = s.freeCount := rfl
@[simp] theorem modEpoch_pending (f : Epoch → Epoch) : (s.modEpoch f).pending = s.pending := rfl

/-! ## modPl -/

@[simp] theorem modPl_blocks (f : PlanRec → PlanRec) : (s.modPl f).blocks = s.blocks := rfl
@[simp] theorem modPl_rest (f : PlanRec → PlanRec) : (s.modPl f).rest = s.rest := rfl
@[simp] theorem modPl_devNum (f : PlanRec → PlanRec) : (s.modPl f).devNum = s.devNum := rfl
@[simp] theorem modPl_devValid (f : PlanRec → PlanRec) : (s.modPl f).devValid = s.devValid := rfl
@[simp] theorem modPl_plan (f : PlanRec → PlanRec) : (s.modPl f).plan = s.plan := rfl
@[simp] theorem modPl_planId (f : PlanRec → PlanRec) : (s.modPl f).planId = s.planId := rfl
@[simp] theorem modPl_k (f : PlanRec → PlanRec) : (s.modPl f).k = s.k := rfl
@[simp] theorem modPl_epoch (f : PlanRec → PlanRec) : (s.modPl f).epoch = s.epoch := rfl
@[simp] theorem modPl_pl (f : PlanRec → PlanRec) : (s.modPl f).pl = f s.pl := rfl
@[simp] theorem modPl_lastPlanId (f : PlanRec → PlanRec) : (s.modPl f).lastPlanId = s.lastPlanId := rfl
@[simp] theorem modPl_intakes (f : PlanRec → PlanRec) : (s.modPl f).intakes = s.intakes := rfl
@[simp] theorem modPl_outlets (f : PlanRec → PlanRec) : (s.modPl f).outlets = s.outlets := rfl
@[simp] theorem modPl_edge0 (f : PlanRec → PlanRec) : (s.modPl f).edge0 = s.edge0 := rfl
@[simp] theorem modPl_edge1 (f : PlanRec → PlanRec) : (s.modPl f).edge1 = s.edge1 := rfl
@[simp] theorem modPl_ports (f : PlanRec → PlanRec) : (s.modPl f).ports = s.ports := rfl
@[simp] theorem modPl_proxies (f : PlanRec → PlanRec) : (s.modPl f).proxies = s.proxies := rfl
@[simp] theorem modPl_tap (f : PlanRec → PlanRec) : (s.modPl f).tap = s.tap := rfl
@[simp] theorem modPl_ret (f : PlanRec → PlanRec) : (s.modPl f).ret = s.ret := rfl
@[simp] theorem modPl_fpBusy (f : PlanRec → PlanRec) : (s.modPl f).fpBusy = s.fpBusy := rfl
@[simp] theorem modPl_fpFailed (f : PlanRec → PlanRec) : (s.modPl f).fpFailed = s.fpFailed := rfl
@[simp] theorem modPl_arrived (f : PlanRec → PlanRec) : (s.modPl f).arrived = s.arrived := rfl
@[simp] theorem modPl_dies (f : PlanRec → PlanRec) : (s.modPl f).dies = s.dies := rfl
@[simp] theorem modPl_bundle (f : PlanRec → PlanRec) : (s.modPl f).bundle = s.bundle := rfl
@[simp] theorem modPl_station (f : PlanRec → PlanRec) : (s.modPl f).station = s.station := rfl
@[simp] theorem modPl_ledgers (f : PlanRec → PlanRec) : (s.modPl f).ledgers = s.ledgers := rfl
@[simp] theorem modPl_hif (f : PlanRec → PlanRec) : (s.modPl f).hif = s.hif := rfl
@[simp] theorem modPl_jnl (f : PlanRec → PlanRec) : (s.modPl f).jnl = s.jnl := rfl
@[simp] theorem modPl_trace (f : PlanRec → PlanRec) : (s.modPl f).trace = s.trace := rfl
@[simp] theorem modPl_supply (f : PlanRec → PlanRec) : (s.modPl f).supply = s.supply := rfl
@[simp] theorem modPl_boot (f : PlanRec → PlanRec) : (s.modPl f).boot = s.boot := rfl
@[simp] theorem modPl_thermal (f : PlanRec → PlanRec) : (s.modPl f).thermal = s.thermal := rfl
@[simp] theorem modPl_time (f : PlanRec → PlanRec) : (s.modPl f).time = s.time := rfl
@[simp] theorem modPl_clkmon (f : PlanRec → PlanRec) : (s.modPl f).clkmon = s.clkmon := rfl
@[simp] theorem modPl_elt (f : PlanRec → PlanRec) : (s.modPl f).elt = s.elt := rfl
@[simp] theorem modPl_unlock (f : PlanRec → PlanRec) : (s.modPl f).unlock = s.unlock := rfl
@[simp] theorem modPl_selectors (f : PlanRec → PlanRec) : (s.modPl f).selectors = s.selectors := rfl
@[simp] theorem modPl_flash (f : PlanRec → PlanRec) : (s.modPl f).flash = s.flash := rfl
@[simp] theorem modPl_dirty (f : PlanRec → PlanRec) : (s.modPl f).dirty = s.dirty := rfl
@[simp] theorem modPl_dictOut (f : PlanRec → PlanRec) : (s.modPl f).dictOut = s.dictOut := rfl
@[simp] theorem modPl_qpll (f : PlanRec → PlanRec) : (s.modPl f).qpll = s.qpll := rfl
@[simp] theorem modPl_sweep (f : PlanRec → PlanRec) : (s.modPl f).sweep = s.sweep := rfl
@[simp] theorem modPl_repair (f : PlanRec → PlanRec) : (s.modPl f).repair = s.repair := rfl
@[simp] theorem modPl_place (f : PlanRec → PlanRec) : (s.modPl f).place = s.place := rfl
@[simp] theorem modPl_restricted (f : PlanRec → PlanRec) : (s.modPl f).restricted = s.restricted := rfl
@[simp] theorem modPl_override (f : PlanRec → PlanRec) : (s.modPl f).override = s.override := rfl
@[simp] theorem modPl_sysDevs (f : PlanRec → PlanRec) : (s.modPl f).sysDevs = s.sysDevs := rfl
@[simp] theorem modPl_routes (f : PlanRec → PlanRec) : (s.modPl f).routes = s.routes := rfl
@[simp] theorem modPl_health (f : PlanRec → PlanRec) : (s.modPl f).health = s.health := rfl
@[simp] theorem modPl_keys (f : PlanRec → PlanRec) : (s.modPl f).keys = s.keys := rfl
@[simp] theorem modPl_settings (f : PlanRec → PlanRec) : (s.modPl f).settings = s.settings := rfl
@[simp] theorem modPl_hostMem (f : PlanRec → PlanRec) : (s.modPl f).hostMem = s.hostMem := rfl
@[simp] theorem modPl_footpath (f : PlanRec → PlanRec) : (s.modPl f).footpath = s.footpath := rfl
@[simp] theorem modPl_fcy (f : PlanRec → PlanRec) : (s.modPl f).fcy = s.fcy := rfl
@[simp] theorem modPl_mhz (f : PlanRec → PlanRec) : (s.modPl f).mhz = s.mhz := rfl
@[simp] theorem modPl_acyFrac (f : PlanRec → PlanRec) : (s.modPl f).acyFrac = s.acyFrac := rfl
@[simp] theorem modPl_acy (f : PlanRec → PlanRec) : (s.modPl f).acy = s.acy := rfl
@[simp] theorem modPl_freeCount (f : PlanRec → PlanRec) : (s.modPl f).freeCount = s.freeCount := rfl
@[simp] theorem modPl_pending (f : PlanRec → PlanRec) : (s.modPl f).pending = s.pending := rfl

/-! ## modSup -/

@[simp] theorem modSup_blocks (f : Supply → Supply) : (s.modSup f).blocks = s.blocks := rfl
@[simp] theorem modSup_rest (f : Supply → Supply) : (s.modSup f).rest = s.rest := rfl
@[simp] theorem modSup_devNum (f : Supply → Supply) : (s.modSup f).devNum = s.devNum := rfl
@[simp] theorem modSup_devValid (f : Supply → Supply) : (s.modSup f).devValid = s.devValid := rfl
@[simp] theorem modSup_plan (f : Supply → Supply) : (s.modSup f).plan = s.plan := rfl
@[simp] theorem modSup_planId (f : Supply → Supply) : (s.modSup f).planId = s.planId := rfl
@[simp] theorem modSup_k (f : Supply → Supply) : (s.modSup f).k = s.k := rfl
@[simp] theorem modSup_epoch (f : Supply → Supply) : (s.modSup f).epoch = s.epoch := rfl
@[simp] theorem modSup_pl (f : Supply → Supply) : (s.modSup f).pl = s.pl := rfl
@[simp] theorem modSup_lastPlanId (f : Supply → Supply) : (s.modSup f).lastPlanId = s.lastPlanId := rfl
@[simp] theorem modSup_intakes (f : Supply → Supply) : (s.modSup f).intakes = s.intakes := rfl
@[simp] theorem modSup_outlets (f : Supply → Supply) : (s.modSup f).outlets = s.outlets := rfl
@[simp] theorem modSup_edge0 (f : Supply → Supply) : (s.modSup f).edge0 = s.edge0 := rfl
@[simp] theorem modSup_edge1 (f : Supply → Supply) : (s.modSup f).edge1 = s.edge1 := rfl
@[simp] theorem modSup_ports (f : Supply → Supply) : (s.modSup f).ports = s.ports := rfl
@[simp] theorem modSup_proxies (f : Supply → Supply) : (s.modSup f).proxies = s.proxies := rfl
@[simp] theorem modSup_tap (f : Supply → Supply) : (s.modSup f).tap = s.tap := rfl
@[simp] theorem modSup_ret (f : Supply → Supply) : (s.modSup f).ret = s.ret := rfl
@[simp] theorem modSup_fpBusy (f : Supply → Supply) : (s.modSup f).fpBusy = s.fpBusy := rfl
@[simp] theorem modSup_fpFailed (f : Supply → Supply) : (s.modSup f).fpFailed = s.fpFailed := rfl
@[simp] theorem modSup_arrived (f : Supply → Supply) : (s.modSup f).arrived = s.arrived := rfl
@[simp] theorem modSup_dies (f : Supply → Supply) : (s.modSup f).dies = s.dies := rfl
@[simp] theorem modSup_bundle (f : Supply → Supply) : (s.modSup f).bundle = s.bundle := rfl
@[simp] theorem modSup_station (f : Supply → Supply) : (s.modSup f).station = s.station := rfl
@[simp] theorem modSup_ledgers (f : Supply → Supply) : (s.modSup f).ledgers = s.ledgers := rfl
@[simp] theorem modSup_hif (f : Supply → Supply) : (s.modSup f).hif = s.hif := rfl
@[simp] theorem modSup_jnl (f : Supply → Supply) : (s.modSup f).jnl = s.jnl := rfl
@[simp] theorem modSup_trace (f : Supply → Supply) : (s.modSup f).trace = s.trace := rfl
@[simp] theorem modSup_supply (f : Supply → Supply) : (s.modSup f).supply = f s.supply := rfl
@[simp] theorem modSup_boot (f : Supply → Supply) : (s.modSup f).boot = s.boot := rfl
@[simp] theorem modSup_thermal (f : Supply → Supply) : (s.modSup f).thermal = s.thermal := rfl
@[simp] theorem modSup_time (f : Supply → Supply) : (s.modSup f).time = s.time := rfl
@[simp] theorem modSup_clkmon (f : Supply → Supply) : (s.modSup f).clkmon = s.clkmon := rfl
@[simp] theorem modSup_elt (f : Supply → Supply) : (s.modSup f).elt = s.elt := rfl
@[simp] theorem modSup_unlock (f : Supply → Supply) : (s.modSup f).unlock = s.unlock := rfl
@[simp] theorem modSup_selectors (f : Supply → Supply) : (s.modSup f).selectors = s.selectors := rfl
@[simp] theorem modSup_flash (f : Supply → Supply) : (s.modSup f).flash = s.flash := rfl
@[simp] theorem modSup_dirty (f : Supply → Supply) : (s.modSup f).dirty = s.dirty := rfl
@[simp] theorem modSup_dictOut (f : Supply → Supply) : (s.modSup f).dictOut = s.dictOut := rfl
@[simp] theorem modSup_qpll (f : Supply → Supply) : (s.modSup f).qpll = s.qpll := rfl
@[simp] theorem modSup_sweep (f : Supply → Supply) : (s.modSup f).sweep = s.sweep := rfl
@[simp] theorem modSup_repair (f : Supply → Supply) : (s.modSup f).repair = s.repair := rfl
@[simp] theorem modSup_place (f : Supply → Supply) : (s.modSup f).place = s.place := rfl
@[simp] theorem modSup_restricted (f : Supply → Supply) : (s.modSup f).restricted = s.restricted := rfl
@[simp] theorem modSup_override (f : Supply → Supply) : (s.modSup f).override = s.override := rfl
@[simp] theorem modSup_sysDevs (f : Supply → Supply) : (s.modSup f).sysDevs = s.sysDevs := rfl
@[simp] theorem modSup_routes (f : Supply → Supply) : (s.modSup f).routes = s.routes := rfl
@[simp] theorem modSup_health (f : Supply → Supply) : (s.modSup f).health = s.health := rfl
@[simp] theorem modSup_keys (f : Supply → Supply) : (s.modSup f).keys = s.keys := rfl
@[simp] theorem modSup_settings (f : Supply → Supply) : (s.modSup f).settings = s.settings := rfl
@[simp] theorem modSup_hostMem (f : Supply → Supply) : (s.modSup f).hostMem = s.hostMem := rfl
@[simp] theorem modSup_footpath (f : Supply → Supply) : (s.modSup f).footpath = s.footpath := rfl
@[simp] theorem modSup_fcy (f : Supply → Supply) : (s.modSup f).fcy = s.fcy := rfl
@[simp] theorem modSup_mhz (f : Supply → Supply) : (s.modSup f).mhz = s.mhz := rfl
@[simp] theorem modSup_acyFrac (f : Supply → Supply) : (s.modSup f).acyFrac = s.acyFrac := rfl
@[simp] theorem modSup_acy (f : Supply → Supply) : (s.modSup f).acy = s.acy := rfl
@[simp] theorem modSup_freeCount (f : Supply → Supply) : (s.modSup f).freeCount = s.freeCount := rfl
@[simp] theorem modSup_pending (f : Supply → Supply) : (s.modSup f).pending = s.pending := rfl

/-! ## modBoot -/

@[simp] theorem modBoot_blocks (f : Boot → Boot) : (s.modBoot f).blocks = s.blocks := rfl
@[simp] theorem modBoot_rest (f : Boot → Boot) : (s.modBoot f).rest = s.rest := rfl
@[simp] theorem modBoot_devNum (f : Boot → Boot) : (s.modBoot f).devNum = s.devNum := rfl
@[simp] theorem modBoot_devValid (f : Boot → Boot) : (s.modBoot f).devValid = s.devValid := rfl
@[simp] theorem modBoot_plan (f : Boot → Boot) : (s.modBoot f).plan = s.plan := rfl
@[simp] theorem modBoot_planId (f : Boot → Boot) : (s.modBoot f).planId = s.planId := rfl
@[simp] theorem modBoot_k (f : Boot → Boot) : (s.modBoot f).k = s.k := rfl
@[simp] theorem modBoot_epoch (f : Boot → Boot) : (s.modBoot f).epoch = s.epoch := rfl
@[simp] theorem modBoot_pl (f : Boot → Boot) : (s.modBoot f).pl = s.pl := rfl
@[simp] theorem modBoot_lastPlanId (f : Boot → Boot) : (s.modBoot f).lastPlanId = s.lastPlanId := rfl
@[simp] theorem modBoot_intakes (f : Boot → Boot) : (s.modBoot f).intakes = s.intakes := rfl
@[simp] theorem modBoot_outlets (f : Boot → Boot) : (s.modBoot f).outlets = s.outlets := rfl
@[simp] theorem modBoot_edge0 (f : Boot → Boot) : (s.modBoot f).edge0 = s.edge0 := rfl
@[simp] theorem modBoot_edge1 (f : Boot → Boot) : (s.modBoot f).edge1 = s.edge1 := rfl
@[simp] theorem modBoot_ports (f : Boot → Boot) : (s.modBoot f).ports = s.ports := rfl
@[simp] theorem modBoot_proxies (f : Boot → Boot) : (s.modBoot f).proxies = s.proxies := rfl
@[simp] theorem modBoot_tap (f : Boot → Boot) : (s.modBoot f).tap = s.tap := rfl
@[simp] theorem modBoot_ret (f : Boot → Boot) : (s.modBoot f).ret = s.ret := rfl
@[simp] theorem modBoot_fpBusy (f : Boot → Boot) : (s.modBoot f).fpBusy = s.fpBusy := rfl
@[simp] theorem modBoot_fpFailed (f : Boot → Boot) : (s.modBoot f).fpFailed = s.fpFailed := rfl
@[simp] theorem modBoot_arrived (f : Boot → Boot) : (s.modBoot f).arrived = s.arrived := rfl
@[simp] theorem modBoot_dies (f : Boot → Boot) : (s.modBoot f).dies = s.dies := rfl
@[simp] theorem modBoot_bundle (f : Boot → Boot) : (s.modBoot f).bundle = s.bundle := rfl
@[simp] theorem modBoot_station (f : Boot → Boot) : (s.modBoot f).station = s.station := rfl
@[simp] theorem modBoot_ledgers (f : Boot → Boot) : (s.modBoot f).ledgers = s.ledgers := rfl
@[simp] theorem modBoot_hif (f : Boot → Boot) : (s.modBoot f).hif = s.hif := rfl
@[simp] theorem modBoot_jnl (f : Boot → Boot) : (s.modBoot f).jnl = s.jnl := rfl
@[simp] theorem modBoot_trace (f : Boot → Boot) : (s.modBoot f).trace = s.trace := rfl
@[simp] theorem modBoot_supply (f : Boot → Boot) : (s.modBoot f).supply = s.supply := rfl
@[simp] theorem modBoot_boot (f : Boot → Boot) : (s.modBoot f).boot = f s.boot := rfl
@[simp] theorem modBoot_thermal (f : Boot → Boot) : (s.modBoot f).thermal = s.thermal := rfl
@[simp] theorem modBoot_time (f : Boot → Boot) : (s.modBoot f).time = s.time := rfl
@[simp] theorem modBoot_clkmon (f : Boot → Boot) : (s.modBoot f).clkmon = s.clkmon := rfl
@[simp] theorem modBoot_elt (f : Boot → Boot) : (s.modBoot f).elt = s.elt := rfl
@[simp] theorem modBoot_unlock (f : Boot → Boot) : (s.modBoot f).unlock = s.unlock := rfl
@[simp] theorem modBoot_selectors (f : Boot → Boot) : (s.modBoot f).selectors = s.selectors := rfl
@[simp] theorem modBoot_flash (f : Boot → Boot) : (s.modBoot f).flash = s.flash := rfl
@[simp] theorem modBoot_dirty (f : Boot → Boot) : (s.modBoot f).dirty = s.dirty := rfl
@[simp] theorem modBoot_dictOut (f : Boot → Boot) : (s.modBoot f).dictOut = s.dictOut := rfl
@[simp] theorem modBoot_qpll (f : Boot → Boot) : (s.modBoot f).qpll = s.qpll := rfl
@[simp] theorem modBoot_sweep (f : Boot → Boot) : (s.modBoot f).sweep = s.sweep := rfl
@[simp] theorem modBoot_repair (f : Boot → Boot) : (s.modBoot f).repair = s.repair := rfl
@[simp] theorem modBoot_place (f : Boot → Boot) : (s.modBoot f).place = s.place := rfl
@[simp] theorem modBoot_restricted (f : Boot → Boot) : (s.modBoot f).restricted = s.restricted := rfl
@[simp] theorem modBoot_override (f : Boot → Boot) : (s.modBoot f).override = s.override := rfl
@[simp] theorem modBoot_sysDevs (f : Boot → Boot) : (s.modBoot f).sysDevs = s.sysDevs := rfl
@[simp] theorem modBoot_routes (f : Boot → Boot) : (s.modBoot f).routes = s.routes := rfl
@[simp] theorem modBoot_health (f : Boot → Boot) : (s.modBoot f).health = s.health := rfl
@[simp] theorem modBoot_keys (f : Boot → Boot) : (s.modBoot f).keys = s.keys := rfl
@[simp] theorem modBoot_settings (f : Boot → Boot) : (s.modBoot f).settings = s.settings := rfl
@[simp] theorem modBoot_hostMem (f : Boot → Boot) : (s.modBoot f).hostMem = s.hostMem := rfl
@[simp] theorem modBoot_footpath (f : Boot → Boot) : (s.modBoot f).footpath = s.footpath := rfl
@[simp] theorem modBoot_fcy (f : Boot → Boot) : (s.modBoot f).fcy = s.fcy := rfl
@[simp] theorem modBoot_mhz (f : Boot → Boot) : (s.modBoot f).mhz = s.mhz := rfl
@[simp] theorem modBoot_acyFrac (f : Boot → Boot) : (s.modBoot f).acyFrac = s.acyFrac := rfl
@[simp] theorem modBoot_acy (f : Boot → Boot) : (s.modBoot f).acy = s.acy := rfl
@[simp] theorem modBoot_freeCount (f : Boot → Boot) : (s.modBoot f).freeCount = s.freeCount := rfl
@[simp] theorem modBoot_pending (f : Boot → Boot) : (s.modBoot f).pending = s.pending := rfl

/-! ## modTime -/

@[simp] theorem modTime_blocks (f : Time → Time) : (s.modTime f).blocks = s.blocks := rfl
@[simp] theorem modTime_rest (f : Time → Time) : (s.modTime f).rest = s.rest := rfl
@[simp] theorem modTime_devNum (f : Time → Time) : (s.modTime f).devNum = s.devNum := rfl
@[simp] theorem modTime_devValid (f : Time → Time) : (s.modTime f).devValid = s.devValid := rfl
@[simp] theorem modTime_plan (f : Time → Time) : (s.modTime f).plan = s.plan := rfl
@[simp] theorem modTime_planId (f : Time → Time) : (s.modTime f).planId = s.planId := rfl
@[simp] theorem modTime_k (f : Time → Time) : (s.modTime f).k = s.k := rfl
@[simp] theorem modTime_epoch (f : Time → Time) : (s.modTime f).epoch = s.epoch := rfl
@[simp] theorem modTime_pl (f : Time → Time) : (s.modTime f).pl = s.pl := rfl
@[simp] theorem modTime_lastPlanId (f : Time → Time) : (s.modTime f).lastPlanId = s.lastPlanId := rfl
@[simp] theorem modTime_intakes (f : Time → Time) : (s.modTime f).intakes = s.intakes := rfl
@[simp] theorem modTime_outlets (f : Time → Time) : (s.modTime f).outlets = s.outlets := rfl
@[simp] theorem modTime_edge0 (f : Time → Time) : (s.modTime f).edge0 = s.edge0 := rfl
@[simp] theorem modTime_edge1 (f : Time → Time) : (s.modTime f).edge1 = s.edge1 := rfl
@[simp] theorem modTime_ports (f : Time → Time) : (s.modTime f).ports = s.ports := rfl
@[simp] theorem modTime_proxies (f : Time → Time) : (s.modTime f).proxies = s.proxies := rfl
@[simp] theorem modTime_tap (f : Time → Time) : (s.modTime f).tap = s.tap := rfl
@[simp] theorem modTime_ret (f : Time → Time) : (s.modTime f).ret = s.ret := rfl
@[simp] theorem modTime_fpBusy (f : Time → Time) : (s.modTime f).fpBusy = s.fpBusy := rfl
@[simp] theorem modTime_fpFailed (f : Time → Time) : (s.modTime f).fpFailed = s.fpFailed := rfl
@[simp] theorem modTime_arrived (f : Time → Time) : (s.modTime f).arrived = s.arrived := rfl
@[simp] theorem modTime_dies (f : Time → Time) : (s.modTime f).dies = s.dies := rfl
@[simp] theorem modTime_bundle (f : Time → Time) : (s.modTime f).bundle = s.bundle := rfl
@[simp] theorem modTime_station (f : Time → Time) : (s.modTime f).station = s.station := rfl
@[simp] theorem modTime_ledgers (f : Time → Time) : (s.modTime f).ledgers = s.ledgers := rfl
@[simp] theorem modTime_hif (f : Time → Time) : (s.modTime f).hif = s.hif := rfl
@[simp] theorem modTime_jnl (f : Time → Time) : (s.modTime f).jnl = s.jnl := rfl
@[simp] theorem modTime_trace (f : Time → Time) : (s.modTime f).trace = s.trace := rfl
@[simp] theorem modTime_supply (f : Time → Time) : (s.modTime f).supply = s.supply := rfl
@[simp] theorem modTime_boot (f : Time → Time) : (s.modTime f).boot = s.boot := rfl
@[simp] theorem modTime_thermal (f : Time → Time) : (s.modTime f).thermal = s.thermal := rfl
@[simp] theorem modTime_time (f : Time → Time) : (s.modTime f).time = f s.time := rfl
@[simp] theorem modTime_clkmon (f : Time → Time) : (s.modTime f).clkmon = s.clkmon := rfl
@[simp] theorem modTime_elt (f : Time → Time) : (s.modTime f).elt = s.elt := rfl
@[simp] theorem modTime_unlock (f : Time → Time) : (s.modTime f).unlock = s.unlock := rfl
@[simp] theorem modTime_selectors (f : Time → Time) : (s.modTime f).selectors = s.selectors := rfl
@[simp] theorem modTime_flash (f : Time → Time) : (s.modTime f).flash = s.flash := rfl
@[simp] theorem modTime_dirty (f : Time → Time) : (s.modTime f).dirty = s.dirty := rfl
@[simp] theorem modTime_dictOut (f : Time → Time) : (s.modTime f).dictOut = s.dictOut := rfl
@[simp] theorem modTime_qpll (f : Time → Time) : (s.modTime f).qpll = s.qpll := rfl
@[simp] theorem modTime_sweep (f : Time → Time) : (s.modTime f).sweep = s.sweep := rfl
@[simp] theorem modTime_repair (f : Time → Time) : (s.modTime f).repair = s.repair := rfl
@[simp] theorem modTime_place (f : Time → Time) : (s.modTime f).place = s.place := rfl
@[simp] theorem modTime_restricted (f : Time → Time) : (s.modTime f).restricted = s.restricted := rfl
@[simp] theorem modTime_override (f : Time → Time) : (s.modTime f).override = s.override := rfl
@[simp] theorem modTime_sysDevs (f : Time → Time) : (s.modTime f).sysDevs = s.sysDevs := rfl
@[simp] theorem modTime_routes (f : Time → Time) : (s.modTime f).routes = s.routes := rfl
@[simp] theorem modTime_health (f : Time → Time) : (s.modTime f).health = s.health := rfl
@[simp] theorem modTime_keys (f : Time → Time) : (s.modTime f).keys = s.keys := rfl
@[simp] theorem modTime_settings (f : Time → Time) : (s.modTime f).settings = s.settings := rfl
@[simp] theorem modTime_hostMem (f : Time → Time) : (s.modTime f).hostMem = s.hostMem := rfl
@[simp] theorem modTime_footpath (f : Time → Time) : (s.modTime f).footpath = s.footpath := rfl
@[simp] theorem modTime_fcy (f : Time → Time) : (s.modTime f).fcy = s.fcy := rfl
@[simp] theorem modTime_mhz (f : Time → Time) : (s.modTime f).mhz = s.mhz := rfl
@[simp] theorem modTime_acyFrac (f : Time → Time) : (s.modTime f).acyFrac = s.acyFrac := rfl
@[simp] theorem modTime_acy (f : Time → Time) : (s.modTime f).acy = s.acy := rfl
@[simp] theorem modTime_freeCount (f : Time → Time) : (s.modTime f).freeCount = s.freeCount := rfl
@[simp] theorem modTime_pending (f : Time → Time) : (s.modTime f).pending = s.pending := rfl

/-! ## setPort -/

@[simp] theorem setPort_blocks (p : Nat) (x : DPort) : (s.setPort p x).blocks = s.blocks := rfl
@[simp] theorem setPort_rest (p : Nat) (x : DPort) : (s.setPort p x).rest = s.rest := rfl
@[simp] theorem setPort_devNum (p : Nat) (x : DPort) : (s.setPort p x).devNum = s.devNum := rfl
@[simp] theorem setPort_devValid (p : Nat) (x : DPort) : (s.setPort p x).devValid = s.devValid := rfl
@[simp] theorem setPort_plan (p : Nat) (x : DPort) : (s.setPort p x).plan = s.plan := rfl
@[simp] theorem setPort_planId (p : Nat) (x : DPort) : (s.setPort p x).planId = s.planId := rfl
@[simp] theorem setPort_k (p : Nat) (x : DPort) : (s.setPort p x).k = s.k := rfl
@[simp] theorem setPort_epoch (p : Nat) (x : DPort) : (s.setPort p x).epoch = s.epoch := rfl
@[simp] theorem setPort_pl (p : Nat) (x : DPort) : (s.setPort p x).pl = s.pl := rfl
@[simp] theorem setPort_lastPlanId (p : Nat) (x : DPort) : (s.setPort p x).lastPlanId = s.lastPlanId := rfl
@[simp] theorem setPort_intakes (p : Nat) (x : DPort) : (s.setPort p x).intakes = s.intakes := rfl
@[simp] theorem setPort_outlets (p : Nat) (x : DPort) : (s.setPort p x).outlets = s.outlets := rfl
@[simp] theorem setPort_edge0 (p : Nat) (x : DPort) : (s.setPort p x).edge0 = s.edge0 := rfl
@[simp] theorem setPort_edge1 (p : Nat) (x : DPort) : (s.setPort p x).edge1 = s.edge1 := rfl
@[simp] theorem setPort_ports (p : Nat) (x : DPort) : (s.setPort p x).ports = put s.ports p x := rfl
@[simp] theorem setPort_proxies (p : Nat) (x : DPort) : (s.setPort p x).proxies = s.proxies := rfl
@[simp] theorem setPort_tap (p : Nat) (x : DPort) : (s.setPort p x).tap = s.tap := rfl
@[simp] theorem setPort_ret (p : Nat) (x : DPort) : (s.setPort p x).ret = s.ret := rfl
@[simp] theorem setPort_fpBusy (p : Nat) (x : DPort) : (s.setPort p x).fpBusy = s.fpBusy := rfl
@[simp] theorem setPort_fpFailed (p : Nat) (x : DPort) : (s.setPort p x).fpFailed = s.fpFailed := rfl
@[simp] theorem setPort_arrived (p : Nat) (x : DPort) : (s.setPort p x).arrived = s.arrived := rfl
@[simp] theorem setPort_dies (p : Nat) (x : DPort) : (s.setPort p x).dies = s.dies := rfl
@[simp] theorem setPort_bundle (p : Nat) (x : DPort) : (s.setPort p x).bundle = s.bundle := rfl
@[simp] theorem setPort_station (p : Nat) (x : DPort) : (s.setPort p x).station = s.station := rfl
@[simp] theorem setPort_ledgers (p : Nat) (x : DPort) : (s.setPort p x).ledgers = s.ledgers := rfl
@[simp] theorem setPort_hif (p : Nat) (x : DPort) : (s.setPort p x).hif = s.hif := rfl
@[simp] theorem setPort_jnl (p : Nat) (x : DPort) : (s.setPort p x).jnl = s.jnl := rfl
@[simp] theorem setPort_trace (p : Nat) (x : DPort) : (s.setPort p x).trace = s.trace := rfl
@[simp] theorem setPort_supply (p : Nat) (x : DPort) : (s.setPort p x).supply = s.supply := rfl
@[simp] theorem setPort_boot (p : Nat) (x : DPort) : (s.setPort p x).boot = s.boot := rfl
@[simp] theorem setPort_thermal (p : Nat) (x : DPort) : (s.setPort p x).thermal = s.thermal := rfl
@[simp] theorem setPort_time (p : Nat) (x : DPort) : (s.setPort p x).time = s.time := rfl
@[simp] theorem setPort_clkmon (p : Nat) (x : DPort) : (s.setPort p x).clkmon = s.clkmon := rfl
@[simp] theorem setPort_elt (p : Nat) (x : DPort) : (s.setPort p x).elt = s.elt := rfl
@[simp] theorem setPort_unlock (p : Nat) (x : DPort) : (s.setPort p x).unlock = s.unlock := rfl
@[simp] theorem setPort_selectors (p : Nat) (x : DPort) : (s.setPort p x).selectors = s.selectors := rfl
@[simp] theorem setPort_flash (p : Nat) (x : DPort) : (s.setPort p x).flash = s.flash := rfl
@[simp] theorem setPort_dirty (p : Nat) (x : DPort) : (s.setPort p x).dirty = s.dirty := rfl
@[simp] theorem setPort_dictOut (p : Nat) (x : DPort) : (s.setPort p x).dictOut = s.dictOut := rfl
@[simp] theorem setPort_qpll (p : Nat) (x : DPort) : (s.setPort p x).qpll = s.qpll := rfl
@[simp] theorem setPort_sweep (p : Nat) (x : DPort) : (s.setPort p x).sweep = s.sweep := rfl
@[simp] theorem setPort_repair (p : Nat) (x : DPort) : (s.setPort p x).repair = s.repair := rfl
@[simp] theorem setPort_place (p : Nat) (x : DPort) : (s.setPort p x).place = s.place := rfl
@[simp] theorem setPort_restricted (p : Nat) (x : DPort) : (s.setPort p x).restricted = s.restricted := rfl
@[simp] theorem setPort_override (p : Nat) (x : DPort) : (s.setPort p x).override = s.override := rfl
@[simp] theorem setPort_sysDevs (p : Nat) (x : DPort) : (s.setPort p x).sysDevs = s.sysDevs := rfl
@[simp] theorem setPort_routes (p : Nat) (x : DPort) : (s.setPort p x).routes = s.routes := rfl
@[simp] theorem setPort_health (p : Nat) (x : DPort) : (s.setPort p x).health = s.health := rfl
@[simp] theorem setPort_keys (p : Nat) (x : DPort) : (s.setPort p x).keys = s.keys := rfl
@[simp] theorem setPort_settings (p : Nat) (x : DPort) : (s.setPort p x).settings = s.settings := rfl
@[simp] theorem setPort_hostMem (p : Nat) (x : DPort) : (s.setPort p x).hostMem = s.hostMem := rfl
@[simp] theorem setPort_footpath (p : Nat) (x : DPort) : (s.setPort p x).footpath = s.footpath := rfl
@[simp] theorem setPort_fcy (p : Nat) (x : DPort) : (s.setPort p x).fcy = s.fcy := rfl
@[simp] theorem setPort_mhz (p : Nat) (x : DPort) : (s.setPort p x).mhz = s.mhz := rfl
@[simp] theorem setPort_acyFrac (p : Nat) (x : DPort) : (s.setPort p x).acyFrac = s.acyFrac := rfl
@[simp] theorem setPort_acy (p : Nat) (x : DPort) : (s.setPort p x).acy = s.acy := rfl
@[simp] theorem setPort_freeCount (p : Nat) (x : DPort) : (s.setPort p x).freeCount = s.freeCount := rfl
@[simp] theorem setPort_pending (p : Nat) (x : DPort) : (s.setPort p x).pending = s.pending := rfl

end Sys2Proof.Machine
end

