-- ==== Sys2Proof/Tests/Slice0.lean ====
section
/-! SUPPORT. Tests: the well-formedness checks refuse ill-formed terms, and each statement's hypotheses are met by a concrete state. Each test runs
one command on a small state; its expected values come from the manual. -/

namespace Sys2Proof.Tests

-- Kernel evaluations run one after another: in parallel each holds a thread and its stack.
set_option Elab.async false

open Sys2Proof Sys2Proof.Machine

/-- The state that a command leaves. -/
def go (c : Instr) (s : State) : State :=
  match exec c s with
  | .next t => t
  | _ => State.reset

/-- The command answers a next state. -/
def ran (c : Instr) (s : State) : Bool :=
  match exec c s with
  | .next _ => true
  | _ => false

/-- A device after its boot: the first quarter's clock runs, the host link is up and the core of block 0 stands at its first instruction. -/
def base : State :=
  { State.reset with
    qpll := [(0, { QPll.reset with st := .running, mhz := 1000 })]
    supply := { Supply.reset with pwr := .on, holders := [] }
    boot := { Boot.reset with st := .idle, slot := some 0, loaded := some 0, xip := true }
    hif := { Hif.reset with linkUp := true, ready := true, cfg := { PciCfg.reset with command := 6, msixEn := true } } }

/-- Block 0 of the base state, changed. -/
def blk0 (f : Block → Block) : State :=
  base.modBlk 0 f

/-- The management core of the base state, changed. -/
def core (f : Block → Block) : State :=
  base.modBlk mgmtCore f

/-- Block 0 with these g registers. -/
def withG (l : Tab W64) : State :=
  blk0 fun x => { x with core := { x.core with g := l } }

/-! ## The machine as a whole -/

theorem witness_StepRunsFront : base.pending = [] ∧ (match step { base with pending := [.nop 0] } with | .next t => t.pcOf 0 = 4 | _ => False) := by
  refine ⟨rfl, ?_⟩
  show (go (.nop 0) base).pcOf 0 = 4
  decide +kernel

theorem witness_StepKeepsInvariant : Inv base := by
  refine ⟨?_, ?_, ?_, ?_, ?_⟩
  · decide +kernel
  · decide +kernel
  · intro e h; cases h
  · decide +kernel
  · simp [base, planOk, State.reset, Epoch.reset]

/-! ## Integer instructions -/

theorem test_add_wraps : (go (.integerRegisterOp 0 .add 2 1 3) (withG [(1, 0xFFFFFFFFFFFFFFFF), (2, 2)])).getG 0 3 = 1 := by
  decide +kernel

theorem witness_IntegerOpValues : (0 : W64) = 0 ∧ (1 : W64) ≠ 0 ∧ (0x8000000000000000 : W64) ≠ 0 ∧ intOp .clz 1 0 = 63 ∧
    intOp .ctz 0x8000000000000000 0 = 63 := by
  decide +kernel

theorem witness_MultiplyDivideValues : divOp .div 7 0 = 0 ∧ divOp .rem 7 0 = 7 ∧ divOp .div 0x8000000000000000 (-1) = 0x8000000000000000 ∧
    divOp .div (-7) 2 = -3 ∧ divOp .rem (-7) 2 = -1 ∧ divOp .divw 0x180000000 (-1) = 0xFFFFFFFF80000000 ∧
    divOp .remw 0x80000005 0x100000000 = 0xFFFFFFFF80000005 := by
  decide +kernel

/-- The registers of block 0 are free: the hypotheses of the completion statements of the core. -/
theorem witness_IntegerInstructionsComplete : base.mayIssue 0 [1, 2, 3] [] = true ∧ base.mayIssue 0 [0, 0, 0] [] = true ∧
    base.mayIssue 0 [31, 31, 31] [] = true ∧ IntFn.unary .clz = true ∧ ImmFn.isShift .slli = true ∧ (63 : BitVec 14).toNat < 64 := by
  decide +kernel

theorem witness_management_core : base.mayIssue mgmtCore [1, 2, 3] [] = true ∧ base.canIssue mgmtCore = true ∧
    (core fun x => { x with core := { x.core with pc := 0x10000040 } }).canIssue mgmtCore = false := by
  decide +kernel

theorem test_slli : (go (.integerImmediateOp 0 .slli 63 1 3) (withG [(1, 3)])).getG 0 3 = 0x8000000000000000 ∧
    (go (.integerImmediateOp 0 .slli 63 1 3) (withG [(1, 3)])).pcOf 0 = 4 := by
  decide +kernel

theorem witness_LuiLhiComplete : base.mayIssue 0 [3] [] = true ∧ base.mayIssue 0 [1, 0, 3] [] = true ∧
    -262144 ≤ (0x8000000000000000 : W64).toInt / 2 ^ 32 - (-2147483648) ∧ (-262144 : Int) ≤ (-1 : W64).toInt / 2 ^ 32 ∧
    (-1 : W64).toInt / 2 ^ 32 ≤ 262143 ∧ (0x3FFFF00000000 : W64).toInt / 2 ^ 32 = 262143 := by
  decide +kernel

theorem test_lui_lhi : (go (.lui 0 0x40000 3) base).getG 0 3 = 0xFFFFFFFF80000000 ∧
    (go (.lhi 0 0x7FFFF 3) (withG [(3, 5)])).getG 0 3 = 0xFFFFFFFF00000005 := by
  decide +kernel

theorem witness_RegistersReadBack : base.barsUp = true ∧ base.coreRuns = true ∧ (1 : BlockId) ≠ mgmtCore ∧ base.clkLocked = false ∧
    { base with plan := .running }.clkLocked = true ∧ base.queueActive 63 = false := by
  decide +kernel

theorem test_read_back : (base.setG 0 0 7).getG 0 0 = 0 ∧ ((base.crWrite 0 (.core .m) 0x418 (-1) allBytes).crRead 0 0x418 .m) = 0xFFFFFFFFFE01 ∧
    (base.crWrite 0 (.core .m) 0x3000 0 allBytes).crRead 0 0x3000 .m = 0x39649 &&& ~~~0x3B648 := by
  decide +kernel

theorem test_registers_outside : (go (.registerWrite .bar0 0x10 (-1) ⟨0xFF, .served .ok⟩) base).bar0Read 0x10 = 0xFF007F ∧
    (go (.registerWrite .bar0 0x1028 0 ⟨0xFF, .served .ok⟩) base).bar0Read 0x1028 = 1 ∧ (go (.registerWrite .aon 0x1000 (-1) ⟨0xFF, .served .ok⟩) base).aonRead 0x1000 = 0xFFFFFFF := by
  decide +kernel

/-! ## Loops, long operations, jumps -/

/-- At the last instruction of an active loop body of two. -/
def looping (n : BitVec 32) : State :=
  blk0 fun x => { x with core := { x.core with pc := 0x104, loopActive := true, loopStart := 0x100, loopLen := 2, loopRemain := n, g := [(1, 5)] } }

theorem witness_AdvanceAndLoops : base.canIssue 0 = true ∧ (((base.blk 0).core.governs (base.ticks 0)).atEnd (base.pcOf 0) = false) ∧ (looping 3).canIssue 0 = true ∧
    (((looping 3).blk 0).core.governs ((looping 3).ticks 0)).atEnd ((looping 3).pcOf 0) = true ∧ (looping 3).mayIssue 0 [1] [] = true ∧ (base.blk 0).core.loopActive = false ∧
    (base.getG 0 1).setWidth 32 = 0#32 ∧ ((withG [(1, 5)]).getG 0 1).setWidth 32 ≠ 0#32 := by
  decide +kernel

theorem test_loop_back : (go (.nop 0) (looping 3)).pcOf 0 = 0x100 ∧ ((go (.nop 0) (looping 3)).blk 0).core.loopRemain = 2 ∧
    (go (.nop 0) (looping 0)).pcOf 0 = 0x108 ∧ ((go (.nop 0) (looping 0)).blk 0).core.loopActive = false ∧
    ((go (.loop 0 1 1) (looping 0)).blk 0).core.fault = some ⟨9, 0, 0x104, none, false⟩ ∧
    (go (.loop 0 1 1) base).pcOf 0 = 12 := by
  decide +kernel

theorem test_loop_start : ((go (.loop 0 1 1) (withG [(1, 5)])).blk 0).core.loopRemain = 4 ∧
    ((go (.loop 0 1 1) (withG [(1, 5)])).blk 0).core.loopLen = 2 ∧ ((go (.loop 0 1 1) (withG [(1, 5)])).blk 0).core.loopStart = 4 := by
  decide +kernel

/-- One fcy after a write of its loop registers the core still goes by the old ones (R119). -/
theorem test_loop_stale : (go (.nop 0) ((looping 3).modCore 0 fun c => { c with loopOld := some (⟨0, 0, 0, false⟩, 0) })).pcOf 0 = 0x108 ∧
    (go (.nop 0) { ((looping 3).modCore 0 fun c => { c with loopOld := some (⟨0, 0, 0, false⟩, 0) }) with fcy := 2 }).pcOf 0 = 0x100 := by
  decide +kernel

theorem witness_MultiplyDivideComplete : base.mayIssue 0 [1, 2, 3] [] = true ∧ (base.blk 0).core.longOps = [] ∧
    (go (.longOperationComplete 0 0) (go (.multiply 0 .mulhu 2 1 3) (withG [(1, 0xFFFFFFFFFFFFFFFF), (2, 3)]))).getG 0 3 = 2 ∧
    (go (.longOperationComplete 0 0) (go (.divideRemainder 0 .rem 2 1 3) (withG [(1, 7), (2, 0)]))).getG 0 3 = 7 := by
  decide +kernel

theorem witness_BranchesAndJumps : base.mayIssue 0 [1, 2] [] = true ∧ base.mayIssue 0 [3] [] = true ∧ base.mayIssue 0 [1, 3] [] = true ∧
    branchTaken .bltu (base.getG 0 1) 1 = true ∧ branchTaken .blt 0 (base.getG 0 2) = false := by
  decide +kernel

theorem test_jumps : (go (.branch 0 .beq 0x3FFF 0 0) (looping 3)).pcOf 0 = 0x100 ∧
    ((go (.branch 0 .beq 0x3FFF 0 0) (looping 3)).blk 0).core.loopActive = true ∧
    ((go (.branch 0 .beq 8 0 0) (looping 3)).blk 0).core.loopActive = false ∧
    (go (.jalr 0 3 1 1) (withG [(1, 0x200)])).pcOf 0 = 0x200 ∧ (go (.jalr 0 3 1 1) (withG [(1, 0x200)])).getG 0 1 = 4 ∧
    (go (.jal 0 2 0) base).getG 0 0 = 0 ∧ (go (.jal 0 2 0) base).pcOf 0 = 8 := by
  decide +kernel

/-- The management core at 0x10000040 of the flash window, with the line there in the line buffer. -/
def flashCore : State :=
  { core fun x => { x with core := { x.core with pc := 0x10000040, g := [(1, 0x10000048), (2, 0x20060000), (3, 0x30001000), (4, 0x1122334455667788)] } } with
    elt := { Elt.reset with lines := [⟨2, (List.range 32).map fun i => BitVec.ofNat 8 i, false⟩] } }

/-- A fetch from a line queues the next line, and a taken jump writes its branch-target entry (R562, R563). -/
theorem test_branch_target : flashCore.canIssue mgmtCore = true ∧ (go (.jal mgmtCore 8 0) flashCore).elt.following = [3] ∧
    look (0, 0) (go (.jal mgmtCore 8 0) flashCore).elt.btb 16 = (0x10000040, 0x10000060) := by
  decide +kernel

theorem witness_CoreFrames : ran (.lui 0 1 3) base = true ∧ ran (.nop 0) base = true ∧ ran (.fpOperation 0 .fadd 0 true 1 2 3) base = true ∧
    ((go (.fpOperation 0 .fadd 0 true 1 2 3) base).blk 0).core.longOps.length = 1 := by
  decide +kernel

/-! ## Floating point -/

/-- Block 0 with these f registers. -/
def withF (l : Tab W64) : State :=
  blk0 fun x => { x with core := { x.core with f := l } }

/-- A long operation runs to its end. -/
def long (c : Instr) (s : State) : State :=
  go (.longOperationComplete 0 0) (go c s)

theorem witness_FloatingPointComplete : fpReserved .fadd 0 2 = false ∧ fpReserved .fmvg 0 0 = false ∧ base.mayIssue 0 [] [3, 1, 2] = true ∧
    base.mayIssue 0 [3] [1, 0] = true ∧ base.mayIssue 0 [1] [3] = true ∧ base.mayIssue 0 [] [1, 2, 4, 3] = true ∧
    cvtReserved 5 5 4 = false ∧ cvtType 5 = some (.flt .f64) ∧ cvtType 4 = some (.flt .f32) ∧ Elem.isFlt (.flt .f64) = true := by
  decide +kernel

theorem test_fadd : (long (.fpOperation 0 .fadd 0 true 1 2 3) (withF [(1, 0x3FF8000000000000), (2, 0x4002000000000000)])).getF 0 3 =
    0x400E000000000000 := by
  decide +kernel

/-- 1 / 0 is infinite and raises DZ (flag bit [7] of BLK_FPSR). -/
theorem test_fdiv_by_zero : (long (.fpOperation 0 .fdiv 0 true 1 2 3) (withF [(2, 0x3FF0000000000000)])).getF 0 3 = 0x7FF0000000000000 ∧
    ((long (.fpOperation 0 .fdiv 0 true 1 2 3) (withF [(2, 0x3FF0000000000000)])).crRead 0 0x80 .m).getLsbD 7 = true := by
  decide +kernel

theorem test_fmadd : (long (.fpFusedMultiplyAdd 0 .fmadd 0 true 3 2 1 4)
    (withF [(1, 0x4000000000000000), (2, 0x4008000000000000), (3, 0x3FF0000000000000)])).getF 0 4 = 0x401C000000000000 := by
  decide +kernel

theorem test_fcvt : (long (.fpConversion 0 0 5 2 1 3) (withF [(1, 0xC000000000000000)])).getG 0 3 = 0xFFFFFFFFFFFFFFFE := by
  decide +kernel

theorem witness_FclassOneBit : (fpOp .fclass (fmtOf true) .rne 0x7FF8000000000000 0).1 = 1 ∧ (fpOp .fclass (fmtOf true) .rne 0x7FF0000000000001 0).1 = 2 ∧
    (fpOp .fclass (fmtOf true) .rne 0x7FF0000000000000 0).1 = 4 ∧ (fpOp .fclass (fmtOf true) .rne 0x0010000000000000 0).1 = 8 ∧
    (fpOp .fclass (fmtOf true) .rne 1 0).1 = 0x10 ∧ (fpOp .fclass (fmtOf true) .rne 0 0).1 = 0x20 ∧
    (fpOp .fclass (fmtOf false) .rne 0x80000000 0).1 = 0x40 ∧ (fpOp .fclass (fmtOf false) .rne 0x80000001 0).1 = 0x80 ∧
    (fpOp .fclass (fmtOf false) .rne 0x80800000 0).1 = 0x100 ∧ (fpOp .fclass (fmtOf false) .rne 0xFF800000 0).1 = 0x200 := by
  decide +kernel

/-! ## Loads and stores -/

/-- Block 0 with g1 at `a`, g2 at `v` and the eight bytes 81 02 03 04 05 06 07 08 at 0x100000 of local store. -/
def mem (a v : W64) : State :=
  blk0 fun x => { x with core := { x.core with g := [(1, a), (2, v)] }, ls := mstore [] 0x100000 [0x81, 2, 3, 4, 5, 6, 7, 8] }

theorem witness_LoadsComplete : (mem 0x100000 0).mayIssue 0 [1, 3] [] = true ∧ (mem 0x100000 0).mayIssue 0 [1] [3] = true ∧
    (mem 0x100000 0).access 0 false 8 0x100000 = .ls ∧ (mem 0x100000 0).access 0 false 1 0x15FFFF = .ls ∧ (mem 0 0).branchTicks 0 5 = true ∧
    (mem 0 0).access 0 false 8 0x17FF8 = .im ∧ (mem 0 0).access 0 false 4 0x1FFC = .rom ∧ (mem 0 0).access 0 false 8 0x300418 = .cr 0x418 := by
  decide +kernel

theorem witness_LoadsCompleteCore : flashCore.mayIssue mgmtCore [1, 5] [] = true ∧ flashCore.mgmtAccess false 8 0x10000048 = .inr .flash ∧
    flashCore.mgmtAccess false 8 0x20060000 = .inr .data ∧ flashCore.mgmtAccess false 8 0x20000040 = .inr .journal ∧
    flashCore.mgmtAccess false 4 0 = .inr .rom ∧ flashCore.mgmtAccess false 8 0x30001000 = .inr (.aon 0x1000) := by
  decide +kernel

theorem test_core_loads : (go (.load mgmtCore .w 0 1 5 .ok) flashCore).getG mgmtCore 5 = 0x0B0A0908 ∧
    (go (.load mgmtCore .d 0 2 5 .ok) (go (.store mgmtCore .d 0 2 4 .ok) flashCore)).getG mgmtCore 5 = 0x1122334455667788 ∧
    (go (.store mgmtCore .d 0 3 4 .ok) flashCore).aonRead 0x1000 = 0x5667788 := by
  decide +kernel

theorem test_loads : (go (.load 0 .b 0 1 3 .ok) (mem 0x100000 0)).getG 0 3 = 0xFFFFFFFFFFFFFF81 ∧
    (go (.load 0 .bu 0 1 3 .ok) (mem 0x100000 0)).getG 0 3 = 0x81 ∧ (go (.load 0 .h 2 1 3 .ok) (mem 0x100000 0)).getG 0 3 = 0x0403 ∧
    (go (.load 0 .fd 0 1 3 .corrected) (mem 0x100000 0)).getF 0 3 = 0x0807060504030281 ∧
    (go (.load 0 .d 0 1 3 .ok) (mem 0x300418 0)).getG 0 3 = 0 := by
  decide +kernel

theorem witness_StoresComplete : (mem 0x100000 0).mayIssue 0 [1, 2] [] = true ∧ (mem 0x100000 0).mayIssue 0 [1] [2] = true ∧
    (mem 0 0).access 0 true 8 0x15FFF8 = .ls ∧ (mem 0 0).access 0 true 4 0x10000 = .im ∧ (mem 0 0).access 0 true 8 0x300040 = .cr 0x40 ∧
    StoreFn.d.size = 8 ∧ flashCore.mgmtAccess true 8 0x20060000 = .inr .data ∧ flashCore.mgmtAccess true 8 0x30001000 = .inr (.aon 0x1000) := by
  decide +kernel

theorem test_stores : bytesAt ((go (.store 0 .w 0 1 2 .ok) (mem 0x100000 0x11223344)).blk 0).ls 0x100000 8 = 0x0807060511223344 ∧
    bytesAt ((go (.store 0 .d 0 1 2 .ok) (mem 0x10000 0x1122334455667788)).blk 0).im 0x10000 8 = 0x1122334455667788 ∧
    (go (.store 0 .d 0 1 2 .ok) (mem 0x300040 (-1))).crRead 0 0x40 .m = 0xFFFFFFFF := by
  decide +kernel

/-- Block 0 of the base state in the context of a user of world A. -/
def user : State :=
  blk0 fun x => { x with core := { x.core with pc := 0x10000 }, priv := { x.priv with ctx := .aU, boundIA := ⟨true, 64, 64, 0⟩ } }

theorem witness_AccessFaults : (mem 0 0).access 0 false 8 0x100001 = .fault 4 0x100001 ∧
    (mem 0 0).access 0 false 8 0x850000000000 = .fault 5 0x850000000000 ∧ (mem 0 0).devMapped (remDev 0x800000000000) = true ∧
    (mem 0 0).access 0 false 8 0x800000200000 = .fault 6 0x800000200000 ∧ (user.blk 0).priv.ctx.isUser = true ∧
    user.access 0 false 8 0x800000100000 = .fault 7 0x800000100000 ∧ (mem 0 0).access 0 true 8 0x160000 = .fault 6 0x160000 ∧
    user.access 0 false 4 0x10000 = .fault 7 0x10000 ∧ (mem 0 0).access 0 true 4 0x300000 = .fault 8 0x300000 ∧
    (mem 0 0).access 0 false 4 0x800000300000 = .fault 8 0x800000300000 ∧ flashCore.mgmtAccess true 8 0x10000048 = .inl (7, 0x10000048) ∧
    mgmtPlace 0x60000000000 = none ∧ flashCore.mgmtAccess false 8 1 = .inl (4, 1) ∧
    (core fun x => { x with priv := { x.priv with ctx := .aS } }).mgmtAccess false 8 0x20000000 = .inl (7, 0x20000000) := by
  decide +kernel

theorem test_access_faults : ((go (.load 0 .d 1 1 3 .ok) (mem 0x100000 0)).blk 0).core.fault = some ⟨4, 0x100001, 0, none, false⟩ ∧
    ((go (.store 0 .w 0 1 2 .ok) (mem 0x300000 0)).blk 0).core.fault = some ⟨8, 0x300000, 0, none, false⟩ ∧
    ((go (.load 0 .d 0 1 3 .uncorrectable) (mem 0x100000 0)).blk 0).core.fault = some ⟨17, 0x100000, 0, none, false⟩ := by
  decide +kernel

/-! ## Remote accesses -/

/-- A remote address of block 1 in this device, with so many loads and stores outstanding. -/
def remote (loads stores : Nat) : State :=
  blk0 fun x => { x with core := { x.core with
    g := [(1, 0x800004100000), (2, 9), (4, 0x800004000000)],
    remLoads := (List.range loads).map fun i => ⟨BitVec.ofNat 8 i, .d, 5, 0x800004100000, .m⟩,
    remStores := (List.range stores).map fun i => ⟨BitVec.ofNat 8 (16 + i), 0x800004100000, false, .m⟩ } }

theorem witness_RemoteAccessesIssue : (remote 3 7).mayIssue 0 [1, 3] [] = true ∧ (remote 3 7).mayIssue 0 [1, 2] [] = true ∧
    (remote 3 7).access 0 false 8 0x800004100000 = .remote ∧ (remote 3 7).access 0 true 8 0x800004100000 = .remote ∧
    (remote 4 8).mayIssue 0 [1, 3] [] = true ∧ (remote 4 8).mayIssue 0 [4, 2] [] = true ∧ isRemote 0x800004000000 = true ∧
    remOff 0x800004000000 = 0 ∧ (remote 0 7).devMapped (remDev 0x800004000000) = true ∧ (0 : BlockId) ≠ mgmtCore ∧ (remote 3 7).fpFailed = [] ∧
    isNode (0, 0) = true ∧ (remote 3 7).fpRoute (0, 0) (5, 7) = some false ∧
    { remote 3 7 with fpFailed := [(1, 0)] }.fpRoute (0, 0) (5, 0) = none ∧ { remote 3 7 with fpFailed := [(1, 0)] }.fpRoute (0, 0) (5, 7) = some true := by
  decide +kernel

theorem test_remote_issue : ((go (.load 0 .d 0 1 3 .ok) (remote 3 0)).blk 0).core.remLoads.length = 4 ∧
    (go (.load 0 .d 0 1 3 .ok) (remote 3 0)).footpath.length = 1 ∧ go (.load 0 .d 0 1 3 .ok) (remote 4 0) = remote 4 0 ∧
    ((go (.store 0 .d 0 1 2 .ok) (remote 0 7)).blk 0).core.remStores.length = 8 ∧ go (.store 0 .d 0 1 2 .ok) (remote 0 8) = remote 0 8 ∧
    ((go (.mbxSend 0 2 4) (remote 0 7)).footpath.map fun p => (p.pkt.kind, p.pkt.data)) = [(5, [9])] := by
  decide +kernel

theorem witness_RemoteAccessesEnd :
    ((remote 2 2).blk 0).core.remLoads = [⟨0, .d, 5, 0x800004100000, .m⟩] ++ ⟨1, .d, 5, 0x800004100000, .m⟩ :: [] ∧
    ((remote 2 2).blk 0).core.remStores = [] ++ ⟨16, 0x800004100000, false, .m⟩ :: [⟨17, 0x800004100000, false, .m⟩] ∧
    (∀ m ∈ ((remote 2 2).blk 0).core.remLoads, m.txn ≠ 16) ∧ ((remote 0 0).blk 0).priv.lslog.all (fun m => !m.valid) = true ∧
    ((remote 0 0).blk 0).priv.lslog.length = 4 := by
  decide +kernel

theorem test_remote_end : (go (.remoteLoadResponse 0 1 77) (remote 2 0)).getG 0 5 = 77 ∧
    ((go (.remoteLoadResponse 0 1 77) (remote 2 0)).blk 0).core.remLoads.length = 1 ∧
    (((go (.lateStoreErrorReturn 0 17 3) (remote 0 2)).blk 0).priv.lslog.map fun e => (e.valid, e.isNew, e.err)) =
      [(true, true, 3), (false, false, 0), (false, false, 0), (false, false, 0)] ∧
    (((go (.footpathResponseTimeout 0 0) (remote 1 0)).blk 0).priv.lslog[0]?.map fun e => (e.kind, e.err)) = some (2, 2) ∧
    (go (.footpathResponseTimeout 0 0) (remote 1 0)).getG 0 5 = 0 := by
  decide +kernel

/-! ## Control registers, messages, system instructions -/

theorem witness_ControlRegisterInstructions : base.mayIssue 0 [3] [] = true ∧ base.mayIssue 0 [2, 3] [] = true ∧
    base.crMay 0 0x40 (base.blk 0).priv.ctx = true ∧ user.mayIssue 0 [2, 3] [] = true ∧ user.crMay 0 0x410 (user.blk 0).priv.ctx = false ∧
    (base.blk 0).core.longOps.any LongOp.isFp = false ∧
    (long (.fpOperation 0 .fadd 0 true 1 2 3) base).mayIssue 0 [3] [] = true ∧
    ((go (.fpOperation 0 .fadd 0 true 1 2 3) base).blk 0).core.longOps.any LongOp.isFp = true ∧
    (go (.fpOperation 0 .fadd 0 true 1 2 3) base).mayIssue 0 [3] [] = true := by
  decide +kernel

theorem test_crw : (go (.crw 0 8 2 3) (withG [(2, 0x123456789ABC)])).crRead 0 0x40 .m = 0x56789ABC ∧
    (go (.crw 0 8 2 3) (withG [(2, 0x123456789ABC)])).getG 0 3 = 0 ∧
    ((go (.crw 0 0x82 2 3) user).blk 0).core.fault = some ⟨7, 0x410, 0x10000, none, false⟩ := by
  decide +kernel

theorem test_crr : (go (.crr 0 0x200 0 3) base).getG 0 3 = base.crRead 0 0x1000 .m ∧
    (go (.crw 0 0x200 1 3) (withG [(1, 2)])).crRead 0 0x1000 .m = 2 := by
  decide +kernel

/-- Block 0 with channel 5 enabled for world B when `w` is, two of its messages delivered, and words of world A and of M in the mailbox. -/
def msgs (w : Bool) : State :=
  blk0 fun x => { x with
    core := { x.core with g := [(1, 2), (2, 3)], pc := 0x10000, delivered := [(5, 2)] }
    msg := { x.msg with rxc := [(5, { RxChan.reset with en := true, world := w })] }
    mbox := [⟨.a, 11⟩, ⟨.m, 22⟩]
    priv := { x.priv with ctx := if w then .aU else .m, boundIA := ⟨true, 64, 64, 0⟩ } }

theorem witness_MessageInstructions : (look RxChan.reset ((msgs false).blk 0).msg.rxc 5).en = true ∧ ((msgs false).blk 0).priv.ctx.world = none ∧
    (msgs false).mayIssue 0 [1, 3] [] = true ∧ (msgs false).mayIssue 0 [3] [] = true ∧ (msgs true).mayIssue 0 [1, 3] [] = true ∧
    ((msgs true).blk 0).priv.ctx.world = some .a ∧ (look RxChan.reset ((msgs true).blk 0).msg.rxc 5).world ≠ decide (World.a = World.b) ∧
    ((msgs false).blk 0).mbox = [⟨.a, 11⟩] ++ ⟨.m, 22⟩ :: [] ∧ WTag.m = ((msgs false).blk 0).priv.ctx.tag ∧
    (base.blk 0).mbox = [] ∧ base.canIssue mgmtCore = true ∧ (0 : BlockId) ≠ mgmtCore := by
  decide +kernel

theorem test_messages : (go (.mwait 0 5 1 3) (msgs false)).getG 0 3 = 2 ∧ go (.mwait 0 5 2 3) (msgs false) = msgs false ∧
    (go (.mcount 0 5 3) (msgs false)).getG 0 3 = 2 ∧ ((go (.mcount 0 6 3) (msgs false)).blk 0).core.fault = some ⟨10, 6, 0x10000, none, false⟩ ∧
    ((go (.mwait 0 5 1 3) (msgs true)).blk 0).core.fault = some ⟨7, 5, 0x10000, none, false⟩ ∧
    (long (.mbxRecv 0 3) (msgs false)).getG 0 3 = 22 ∧ ((long (.mbxRecv 0 3) (msgs false)).blk 0).mbox = [⟨.a, 11⟩] ∧
    ((go (.mbxRecv 0 3) base).blk 0).core.recvs = [(3, .m)] ∧ (go (.mbxRecv 0 3) base).pcOf 0 = 4 ∧
    (go (.fence 0 2) (go (.mbxRecv 0 3) base)).pcOf 0 = 4 ∧
    ((go (.mcount mgmtCore 5 3) base).blk mgmtCore).core.fault.map (fun f => f.cause) = some 2 := by
  decide +kernel

theorem witness_SystemInstructions : base.canIssue 0 = true ∧ (base.blk 0).enginesIdle = true ∧ (base.blk 0).core.longOps = [] ∧
    (base.blk 0).priv.ctx = .m ∧ user.canIssue 0 = true ∧ (user.blk 0).priv.ctx.isUser = true ∧ base.holdLeft 0 = 0 ∧
    (base.blk 0).core.stopped = false ∧ ((go (.ewait 0) base).blk 0).core.stopped = true := by
  decide +kernel

theorem test_system : ((go (.ewait 0) base).blk 0).core.fetching = false ∧ (go (.fence 0 7) base).pcOf 0 = 4 ∧
    (go (.hold 0 64) base).holdLeft 0 = 64 ∧ (go (.hold 0 9) (go (.hold 0 64) base)).holdLeft 0 = 9 ∧ (go (.hold 0 0) (go (.hold 0 64) base)).holdLeft 0 = 0 ∧
    (go (.holdWindowExpiry 0) (go (.hold 0 64) base)).holdLeft 0 = 0 ∧
    ((go (.trap 0 300) base).blk 0).core.fault = some ⟨11, 300, 4, none, false⟩ ∧
    ((go (.brk 0 1) base).blk 0).core.fault = some ⟨12, 1, 4, none, false⟩ := by
  decide +kernel

theorem witness_SystemInstructionsComplete : (base.blk 0).free [1, 2, 3, 4] [] = true ∧
    (blk0 fun x => { x with priv := { x.priv with tsbpM := ⟨false, 0x800⟩, mask := 0 } }).canIssue 0 = true ∧ base.branchTicks 0 5 = true ∧
    (base.blk 0).core.inProgram = false ∧ base.holdOpen 0 = false ∧ inData 0 (0x800 * 512) 512 = true ∧
    ((blk0 fun x => { x with priv := { x.priv with tsbpM := ⟨true, 0x800⟩ } }).blk 0).priv.tsbValid 0 .m = true ∧
    (∀ d ∈ [Ctx.m, .aS, .aU, .bS, .bU], Ctx.ofCode d.code = some d ∧ mayRestore 0 .m d = true) ∧ mayRestore mgmtCore .m .bS = false := by
  decide +kernel

theorem test_trap_taken : (go (.trapEntry 0 .pending .ok) (go (.trap 0 300)
      (blk0 fun x => { x with priv := { x.priv with tsbpM := ⟨false, 0x800⟩, mask := 0 } }))).pcOf 0 = 0x1B0 ∧
    (go (.trapEntry 0 .pending .ok) (go (.brk 0 9)
      (blk0 fun x => { x with priv := { x.priv with tsbpM := ⟨false, 0x800⟩, mask := 0 } }))).getG 0 2 = 9 := by
  decide +kernel

theorem test_system_user : ((go (.fence 0 4) user).blk 0).core.fault.map (fun f => f.cause) = some 3 ∧
    ((go (.hold 0 1) user).blk 0).core.fault.map (fun f => f.cause) = some 3 ∧
    (go (.blkResumeGo 0 0x203) (go (.ewait 0) base)).pcOf 0 = 0x200 ∧ (go (.blkResumeGo 0 0x203) base).pcOf 0 = 0 := by
  decide +kernel

/-! ## Traps -/

/-- Block 0 in M with MASK 0, its TSB at the start of local store and a breakpoint raised. -/
def trapped : State :=
  blk0 fun x => { x with
    core := { x.core with g := [(1, 11), (2, 12), (3, 13), (4, 14)], pc := 0x204, fault := some ⟨12, 7, 0x208, none, false⟩ }
    priv := { x.priv with mask := 0, tsbpM := { occ := false, base := 0x800 } } }

theorem witness_TrapEntry : (trapped.blk 0).core.fetching = true ∧ (trapped.blk 0).clk.mode = .run ∧ trapped.clocked 0 = true ∧ trapped.mayRun 0 = true ∧
    trapped.branchTicks 0 5 = true ∧ trapped.asyncReady 0 = false ∧ trapped.holdOpen 0 = false ∧ 0 < causeLevel 12 ∧
    (trapped.blk 0).priv.tsbpM.base.toNat * 512 = 0x100000 ∧ (trapped.blk 0).priv.latePending = false ∧ (trapped.blk 0).inFlight = [] := by
  decide +kernel

theorem test_trap_entry : (go (.trapEntry 0 .pending .ok) trapped).pcOf 0 = 0x1C0 ∧ (go (.trapEntry 0 .pending .ok) trapped).getG 0 4 = 0x208 ∧
    (go (.trapEntry 0 .pending .ok) trapped).getG 0 3 = 0x100000 ∧ (go (.trapEntry 0 .pending .ok) trapped).getG 0 2 = 7 ∧
    bytesAt ((go (.trapEntry 0 .pending .ok) trapped).blk 0).ls 0x100038 8 = 14 ∧
    ((go (.trapEntry 0 .pending .ok) trapped).blk 0).priv.mask = 7 := by
  decide +kernel

/-- A world A supervisor with a fault of this cause, its delegation, its MASK and its TSB. -/
def worldA (c : BitVec 6) (deleg : W64) (mask : BitVec 3) (occ : Bool) (hold : Bool) : State :=
  blk0 fun x => { x with
    core := { x.core with fault := some ⟨c, 0, 0x204, none, false⟩ }
    priv := { x.priv with ctx := .aS, mask := mask, delegA := deleg, hold := if hold then some (64, 0) else none,
                          tsbpA := { occ := occ, base := 0x800 } } }

theorem witness_TrapTargets : ((worldA 6 0x11FFFE 0 false false).blk 0).priv.ctx.world = some .a ∧
    ((0x11FFFE : W64) &&& 0x11FFFE).getLsbD 6 = true ∧ ((0 : W64) &&& 0x11FFFE).getLsbD 6 = false ∧ (worldA 6 0 0 false true).holdOpen 0 = true ∧
    causeLevel 6 ≤ 7 ∧ 0 < causeLevel 6 ∧ (worldA 6 0x11FFFE 0 true false).holdOpen 0 = false ∧
    ((worldA 6 0x11FFFE 0 false false).blk 0).priv.tsbValid 0 .aS = false := by
  decide +kernel

theorem test_escalation : ((worldA 6 0 0 false false).route 0 (syncTrap ((worldA 6 0 0 false false).blk 0) ⟨6, 0, 0x204, none, false⟩)).2 = .m ∧
    ((worldA 6 0x11FFFE 0 false true).route 0 (syncTrap ((worldA 6 0 0 false false).blk 0) ⟨6, 0, 0x204, none, false⟩)).1.reason = 2 ∧
    ((worldA 6 0x11FFFE 7 false false).route 0 (syncTrap ((worldA 6 0 0 false false).blk 0) ⟨6, 0, 0x204, none, false⟩)).1.reason = 1 ∧
    ((worldA 6 0x11FFFE 0 true false).route 0 (syncTrap ((worldA 6 0 0 false false).blk 0) ⟨6, 0, 0x204, none, false⟩)).1.reason = 3 ∧
    ((worldA 6 0x11FFFE 0 false false).route 0 (syncTrap ((worldA 6 0 0 false false).blk 0) ⟨6, 0, 0x204, none, false⟩)).1.reason = 4 := by
  decide +kernel

theorem witness_TrapThenReturn : ran (.trapEntry 0 .pending .ok) trapped = true ∧
    (go (.tret 0 .ok) (go (.trapEntry 0 .pending .ok) trapped)).pcOf 0 = 0x208 ∧
    (go (.tret 0 .ok) (go (.trapEntry 0 .pending .ok) trapped)).getG 0 1 = 11 ∧
    ((go (.tret 0 .ok) (go (.trapEntry 0 .pending .ok) trapped)).blk 0).priv = (trapped.blk 0).priv := by
  decide +kernel

/-! ## Engines -/

/-- Block 0 with the bytes 1, 2, 3, … at the start of local store, g1 there, g2 64, and v1 the elements 5, 6 and v2 the elements 7, −1 of width 32. -/
def eng : State :=
  blk0 fun x => { x with
    core := { x.core with g := [(1, 0x100000), (2, 64), (3, 0x160000)] }
    ls := mstore [] 0x100000 ((List.range 64).map fun i => BitVec.ofNat 8 (i + 1))
    vec := { x.vec with v := [(1, 0x600000005), (2, 0xFFFFFFFF00000007)], m := [(1, 1)] } }

/-- An engine instruction goes to the queue, starts and completes on the vector engine. -/
def vrun (c : Instr) (s : State) : State :=
  go (.vectorEngineComplete 0 none []) (go (.vectorEngineStart 0) (go c s))

/-- A matrix-chapter instruction goes to the queue, starts and completes on its unit. -/
def mrun (u : MUnit) (c : Instr) (s : State) : State :=
  go (.matrixUnitComplete 0 u none []) (go (.matrixUnitStart 0) (go c s))

theorem witness_VectorInstructionsDispatch : (eng.blk 0).queue = [] ∧ (eng.blk 0).inFlight = [] ∧ eng.canIssue 0 = true ∧
    reservedArith (.flt .add .f32) .vv 2 1 = false ∧ reservedArith (.flt .mul .bf16) .vs 2 1 = false ∧ reservedArith (.int .add .i32) .va 2 1 = false ∧
    (eng.blk 0).staticFault (shapeArith (eng.blk 0) (.flt .add .f32) .vv 2 1 3) = none ∧
    (eng.blk 0).staticFault (shapeArith (eng.blk 0) (.flt .wma .f16) .vv 2 1 4) = none ∧
    (eng.blk 0).staticFault (shapeArith (eng.blk 0) (.int .add .i32) .vs 2 1 3) = none ∧
    eng.mayIssue 0 [] [2] = true ∧ eng.mayIssue 0 [2] [] = true ∧ reservedCmp (.slt .i32) .vv 2 3 = false ∧
    (eng.blk 0).staticFault (shapeCmp (eng.blk 0) (.slt .i32) .vv 2 1) = none := by
  decide +kernel

theorem witness_VectorInstructionsDispatch2 :
    (eng.blk 0).staticFault { srcs := [operand 1 (elemCount (eng.blk 0).g 32) 32] } = none ∧ ITy.i32 ≠ .x16 ∧ eng.mayIssue 0 [2, 3] [] = true ∧
    (eng.blk 0).staticFault (shapePerm (eng.blk 0) .slideup .i32 2 1 3) = none ∧ reservedVcvt 0 4 10 0 = false ∧
    (eng.blk 0).staticFault { dests := [operand 4 (elemCount 1 32) 32], srcs := [operand 2 (elemCount 1 8) 8] } = none ∧
    reservedVmxq 0 7 = false ∧ reservedMask .mand 2 1 3 = false ∧ eng.mayIssue 0 [1] [] = true ∧ eng.mayIssue 0 [1, 2] [] = true ∧
    reservedMem .unit 2 0 0 4 = false ∧ reservedMem .strided 3 1 2 4 = false ∧ reservedMem .mask 0 0 0 1 = false ∧
    (eng.blk 0).priv.firstFault ((eng.blk 0).vec.accesses 1 .unit 2 0 0 0x100000 0) = none ∧
    (eng.blk 0).staticFault (shapeMem (eng.blk 0) true .unit 2 0 4) = none ∧ (eng.blk 0).priv.memCheck 0x100000 2048 64 = none := by
  decide +kernel

theorem test_vector_dispatch : ((go (.vectorArithmetic 0 (.int .add .i32) .vv 0 2 1 3) eng).blk 0).queue.length = 1 ∧
    ((go (.vectorCompare 0 (.slt .i32) .vv 0 2 1 3) eng).blk 0).queue.length = 1 ∧
    ((go (.vectorReduction 0 (.int .sum .i32) 0 2 1 3) eng).blk 0).queue.length = 1 ∧
    ((go (.vectorPermutation 0 .slideup .i32 0 2 1 3) eng).blk 0).queue.length = 1 ∧
    ((go (.vcvt 0 0 4 10 0 2 4) eng).blk 0).queue.length = 1 ∧ ((go (.vmxq 0 0 7 6 2 4) eng).blk 0).queue.length = 1 ∧
    ((go (.maskOperation 0 .mand 2 1 3) eng).blk 0).queue.length = 1 ∧ ((go (.vcsum 0 2 1 3) eng).blk 0).queue.length = 1 ∧
    ((go (.vectorLoad 0 .unit 2 0 0 1 4) eng).blk 0).queue.length = 1 ∧ ((go (.vectorStore 0 .unit 2 0 0 1 4) eng).blk 0).queue.length = 1 ∧
    ((go (.acfill 0 15 1) eng).blk 0).queue.length = 1 ∧ ((go (.acput 0 15 1) eng).blk 0).queue.length = 1 ∧
    ((go (.acdrop 0 0) eng).blk 0).queue.length = 1 ∧ ((go (.acdropall 0) eng).blk 0).queue.length = 1 := by
  decide +kernel

theorem witness_MatrixInstructionsDispatch : pairOk false false 10 10 = true ∧ pairOk true false 7 7 = true ∧ reservedZcvt false 0 4 = false ∧
    eng.mayIssue 0 [1, 2] [] = true ∧ eng.mayIssue 0 [1, 0] [] = true ∧
    (∀ i < 16, (eng.blk 0).priv.memCheck (eng.getG 0 1 + BitVec.ofNat 64 i * eng.getG 0 2).toNat 64 32 = none) ∧
    (∀ i < 16, (eng.blk 0).priv.memCheck (eng.getG 0 1 + BitVec.ofNat 64 i * 128).toNat 128 32 = none) := by
  decide +kernel

theorem test_matrix_dispatch : ((go (.mma 0 true false 10 10 1 0 0) eng).blk 0).queue.length = 1 ∧
    ((go (.mmx 0 true false 7 7 2 1 0 0) eng).blk 0).queue.length = 1 ∧ ((go (.zclr 0 7) eng).blk 0).queue.length = 1 ∧
    ((go (.tfromv 0 1 2) eng).blk 0).queue.length = 1 ∧ ((go (.tov 0 1 2) eng).blk 0).queue.length = 1 ∧
    ((go (.zfromv 0 true 1 2) eng).blk 0).queue.length = 1 ∧ ((go (.ztov 0 true 1 2) eng).blk 0).queue.length = 1 ∧
    ((go (.zcvt 0 false 0 4 1 2) eng).blk 0).queue.length = 1 ∧ ((go (.tld 0 2 1 3) eng).blk 0).queue.length = 1 ∧
    ((go (.tst 0 0 1 3) eng).blk 0).queue.length = 1 ∧ ((go (.tld6 0 0 1 3) eng).blk 0).queue.length = 1 ∧
    ((go (.tst6 0 0 1 3) eng).blk 0).queue.length = 1 ∧ ((go (.zld 0 2 1 3) eng).blk 0).queue.length = 1 ∧
    ((go (.zst 0 2 1 3) eng).blk 0).queue.length = 1 := by
  decide +kernel

/-- Groups of two registers. -/
def eng2 : State :=
  eng.modBlk 0 fun x => { x with vec := { x.vec with grp := 1 } }

theorem witness_EngineChecksFault : pairOk false true 10 10 = false ∧ (eng.blk 0).inFlight = [] ∧ (eng2.blk 0).g = 2 ∧ (3 : Reg).toNat % 2 ≠ 0 ∧
    eng2.canIssue 0 = true ∧ eng.mayIssue 0 [2] [] = true ∧ (look AcLine.reset (eng.blk 0).vec.ac 15).valid = false ∧ (eng.blk 0).g = 1 ∧
    eng.mayIssue 0 [3, 2] [] = true ∧ (∀ i < 16, (eng.getG 0 3 + BitVec.ofNat 64 i * eng.getG 0 2).toNat % 32 = 0) ∧
    inLs (eng.getG 0 3 + BitVec.ofNat 64 0 * eng.getG 0 2).toNat 128 = false ∧ base.canIssue mgmtCore = true ∧ reservedVcvt 0 1 2 0 = false ∧
    typeBits 1 ≠ typeBits 2 := by
  decide +kernel

theorem test_engine_faults : ((go (.mma 0 false true 10 10 0 1 2) eng).blk 0).core.fault = some ⟨2, 0, 0, none, false⟩ ∧
    ((go (.vectorArithmetic 0 (.int .add .x16) .vv 0 1 2 3) eng).blk 0).core.fault = some ⟨2, 0, 0, none, false⟩ ∧
    ((go (.vectorArithmetic 0 (.int .add .i32) .vv 0 2 4 3) eng2).blk 0).core.fault = some ⟨13, 3, 0, none, false⟩ ∧
    ((go (.vectorPermutation 0 .slideup .i32 0 2 1 1) eng).blk 0).core.fault = some ⟨15, 1, 0, none, false⟩ ∧
    ((go (.vectorArithmetic 0 (.int .add .i32) .va 0 15 1 3) eng).blk 0).core.fault = some ⟨16, 15, 0, none, false⟩ ∧
    ((go (.tld 0 2 3 1) eng).blk 0).core.fault = some ⟨6, 0x160000, 0, some 0, true⟩ ∧
    ((go (.vcvt 0 0 1 2 0 4 4) eng).blk 0).core.fault = some ⟨15, 4, 0, none, false⟩ ∧
    ((go (.acdropall mgmtCore) base).blk mgmtCore).core.fault = some ⟨2, 0, 0, none, false⟩ := by
  decide +kernel

theorem witness_EngineStarts : ((go (.vectorArithmetic 0 (.int .add .i32) .vv 0 2 1 3) eng).blk 0).queue.length = 1 ∧ eng.branchTicks 0 1 = true ∧
    eng.branchTicks 0 2 = true ∧ matrixUnit (.vectorArithmetic 0 (.int .add .i32) .vv 0 2 1 3) = none ∧
    matrixUnit (.mma 0 true false 10 10 1 0 0) = some .array ∧ matrixUnit (.tld 0 2 1 3) = some .tilePort ∧
    matrixUnit (.tov 0 1 2) = some .vector ∧ (eng.blk 0).running = [] ∧
    (base.modBlk 0 fun x => { x with clk := { x.clk with mode := .sleep } }).branchTicks 0 1 = false := by
  decide +kernel

theorem test_vadd : ((vrun (.vectorArithmetic 0 (.int .add .i64) .vv 0 2 1 3) eng).blk 0).vec.elem 3 64 0 = 0x50000000C := by
  decide +kernel

theorem witness_VectorArithmeticCompletes : ((go (.vectorEngineStart 0) (go (.vectorArithmetic 0 (.int .add .i32) .vv 1 2 1 3) eng)).blk 0).vec.run.length = 1 ∧
    (15 : Reg).toNat + groupSize 0 ≤ 16 ∧ (8 : Nat) < 64 ∧ (255 : Nat) < 2 ^ 8 ∧ (intElem .sadd 8 0 127 1 0) = (127, fSAT) ∧
    (intElem .mulh 8 0 128 128 0).1 = 64 ∧ (intElem .sll 8 0 3 9 0).1 = 6 := by
  decide +kernel

theorem test_compare : ((vrun (.vectorCompare 0 (.slt .i64) .vv 0 2 1 3) eng).blk 0).vec.mask 3 % 2 = 0 := by
  decide +kernel

theorem test_masks : (vrun (.maskOperation 0 .mfirst 0 1 3) eng).getG 0 3 = 0 ∧ (vrun (.maskOperation 0 .mpopc 0 1 3) eng).getG 0 3 = 1 ∧
    ((vrun (.maskOperation 0 .mnot 0 1 1) eng).blk 0).vec.mask 1 = 2 ^ 2048 - 2 := by
  decide +kernel

theorem test_reduction : (vrun (.vectorReduction 0 (.int .sum .i64) 0 2 1 3) eng).getG 0 3 = 0x600000045 := by
  decide +kernel

theorem witness_VectorMaskAndScalarResults : matrixUnit (.vcsum 0 2 1 3) = none ∧ isVecMem (.vcsum 0 2 1 3) = false ∧
    isVecMem (.maskOperation 0 .mand 1 1 2) = false ∧ reservedMask .mand 1 1 2 = false ∧ reservedMask .mpopc 0 1 2 = false ∧
    ((go (.vectorEngineStart 0) (go (.maskOperation 0 .mand 1 1 2) eng)).blk 0).vec.run.length = 1 ∧
    ((go (.vectorEngineStart 0) (go (.vcsum 0 2 1 3) eng)).blk 0).vec.run.length = 1 := by
  decide +kernel

theorem witness_VectorMemoryCompletes : isVecMem (.vectorLoad 0 .unit 2 0 0 1 4) = true ∧ matrixUnit (.vectorLoad 0 .unit 2 0 0 1 4) = none ∧
    ((go (.vectorEngineStart 0) (go (.vectorLoad 0 .unit 2 0 0 1 4) eng)).blk 0).vec.run.length = 1 ∧
    ((go (.vectorEngineStart 0) (go (.acfill 0 15 1) eng)).blk 0).vec.run.length = 1 ∧ eng.branchTicks 0 5 = true ∧
    (0x100000 : Nat) + elemCount 1 32 * 4 ≤ 2 ^ 64 := by
  decide +kernel

theorem test_vector_store : bytesAt ((vrun (.vectorStore 0 .unit 3 1 0 1 1) eng).blk 0).ls 0x100000 8 = 0x600000005 := by
  decide +kernel

theorem test_arcade : (look AcLine.reset ((vrun (.acdrop 0 15) (vrun (.acput 0 15 1) eng)).blk 0).vec.ac 15).valid = false := by
  decide +kernel

/-- Tiles 0 and 1 with rows of INT8: a(0, 0) = −1, a(0, 1) = 2, b(0, 0) = 3, b(0, 1) = 4, and a(1, 0) = 5. -/
def tiles : State :=
  blk0 fun x => { x with
    core := { x.core with g := [(1, 0x100000)] }
    mtx := { x.mtx with t := [(0, 0x02FF + 5 * 2 ^ 1024), (1, 0x0403)], z := [(2, 10)] } }

theorem witness_MatrixProductsComplete : ((go (.matrixUnitStart 0) (go (.mma 0 false false 10 10 1 0 2) tiles)).blk 0).mtx.array.length = 1 ∧
    tiles.branchTicks 0 2 = true ∧ pairOk false false 1 1 = true ∧ pairOk true false 7 7 = true ∧
    ((go (.matrixUnitStart 0) (go (.mmx 0 false false 7 7 2 1 0 2) tiles)).blk 0).mtx.array.length = 1 := by
  decide +kernel

theorem witness_TileTransfersComplete : ((go (.matrixUnitStart 0) (go (.tld 0 0 1 3) tiles)).blk 0).mtx.port.length = 1 ∧
    ((go (.matrixUnitStart 0) (go (.tfromv 0 3 1) eng)).blk 0).vec.run.length = 1 ∧ tiles.branchTicks 0 5 = true := by
  decide +kernel

set_option maxRecDepth 100000 in
theorem test_tiles : ((mrun .tilePort (.zclr 0 2) tiles).blk 0).mtx.accByte 2 0 = 0 ∧
    bytesAt ((mrun .tilePort (.zst 0 0 1 2) tiles).blk 0).ls 0x100000 2 = 10 := by
  decide +kernel

theorem test_moves : ((mrun .vector (.tfromv 0 3 1) eng).blk 0).mtx.tileByte 3 0 = 5 ∧
    ((mrun .vector (.ztov 0 true 2 4) tiles).blk 0).vec.elem 4 32 256 = 10 := by
  decide +kernel

/-! ## Planned execution -/

/-- A plan of 1,024-cycle epochs on the first quarter, running, in epoch 5 at a cycle of its running part. -/
def plan (c : Nat) : State :=
  { base with
    plan := .running, k := 10, devValid := true, planId := 1, lastPlanId := 1
    pl := { PlanRec.reset with geom := [(4, 4), (0, 0), (0, 0), (0, 0)], runPat := [(1, 1), (0, 0), (0, 0), (0, 0)], mhz := 1000, e0 := 1,
                               voidLimit := 4 }
    epoch := { Epoch.reset with active := true, num := 5, cycle := c, begun := true, outcome := .run }
    time := { Time.reset with valid := true, tlock := true, flock := true } }

/-- The gate window of epoch 5: epoch 4 ran, with a fault of the class named when there is one. -/
def gate (fault : Option (BitVec 8 × BitVec 16)) : State :=
  { plan 64 with epoch := { (plan 64).epoch with begun := false, outcome := .none, prevRan := .run, latched := ⟨fault, 0⟩ } }

/-- The running plan's epoch, changed. -/
def epoch (c : Nat) (f : Epoch → Epoch) : State :=
  { plan c with epoch := f (plan c).epoch }

/-- Before its cycle 128 the epoch has the decision to run. -/
def decided : State :=
  { gate none with
    epoch := { (gate none).epoch with decision := some (true, 0), nxt := ⟨.run, .valid, false, 0, 0, 7⟩, prevRan := .none }
    blocks := [(0, { Block.reset with core := { Core.reset with entry := 0x10000, fetching := false } })] }

theorem witness_EpochCommands : (epoch 1023 fun e => { e with ended := true }).epoch.atEnd = true ∧ (plan 1023).epoch.num + 1 ≠ 0xFFFFFFFFFFFFFFFF ∧
    (epoch 1023 fun e => { e with ended := true, num := 0xFFFFFFFFFFFFFFFE }).epoch.num + 1 = 0xFFFFFFFFFFFFFFFF ∧
    decided.epoch.active = true ∧ decided.epoch.begun = false ∧ decided.epoch.decision = some (true, 0) ∧ decided.listed = [0] ∧
    decided.planMoves = true ∧ (decided.blk 0).clk.mode = .run ∧ decided.pllOn (quarterOf 0) = true ∧ (plan 1023).epoch.ended = false ∧
    { plan 0 with plan := .starting, epoch := .reset }.epoch.active = false ∧
    { epoch 1023 (fun e => { e with ended := true }) with plan := .stopping }.pl.stopEpoch ≤ (plan 0).epoch.num + 1 ∧
    { gate none with plan := .stopping }.pl.stopEpoch ≤ (gate none).epoch.num ∧ (∀ p < 8, ((plan 1023).port p).planned = false) := by
  decide +kernel

theorem witness_EpochGate : (gate none).gateCause = 0 ∧ (gate none).epoch.decision = none ∧ { gate none with plan := .halted }.gateCause = 5 ∧
    { gate none with pl := { (gate none).pl with upstream := [(3, 1)] } }.gateCause = 3 ∧
    { gate none with pl := { (gate none).pl with upstream := [(3, 1)], recs := [⟨4, 3, 3, 0⟩] } }.gateCause = 2 ∧
    { gate none with intakes := [(0, ⟨.e0, 64, 0, [], [.free], 0, none, 0, 0⟩)] }.gateCause = 4 ∧
    (gate none).epoch.bookSent % 2 ^ 64 = ((gate none).epoch.bookRecv + (gate none).epoch.bookFlight) % 2 ^ 64 ∧
    (gate (some (2, 0))).epoch.latched.first ≠ none := by
  decide +kernel

theorem test_boundary : (go .epochBoundary (epoch 1023 fun e => { e with ended := true })).epoch.num = 6 ∧
    (go .epochBoundary (epoch 1023 fun e => { e with ended := true })).epoch.outcome = .run ∧
    (go .epochBoundary (epoch 1023 fun e => { e with ended := true })).epoch.prevRan = .run ∧
    (go .planStopBoundary { epoch 1023 (fun e => { e with ended := true }) with plan := .stopping }).plan = .bound ∧
    (go .planStopBoundary { gate none with plan := .stopping }).plan = .bound ∧
    (go .epochBoundary (epoch 1023 fun e => { e with ended := true, num := 0xFFFFFFFFFFFFFFFE })).plan = .bound := by
  decide +kernel

theorem test_gate : (go .gateInstant (gate none)).epoch.decision = some (true, 0) ∧ (go .gateInstant (gate none)).epoch.nxt.validCount = 1 ∧
    (go .gateInstant (gate (some (2, 0)))).epoch.decision = some (false, 1) ∧ (go .gateInstant (gate (some (2, 0)))).epoch.nxt.streak = 1 ∧
    (go .gateInstant { gate none with intakes := [(0, ⟨.e0, 64, 0, [], [.filled, .free], 0, none, 0, 0⟩)] }).intakes.map (fun e => e.2.slots[0]?) =
      [some .inUse] := by
  decide +kernel

theorem test_gate_effect : (go (.gateDecisionEffect []) decided).epoch.outcome = .run ∧ (go (.gateDecisionEffect []) decided).epoch.cycle = 128 ∧
    (go (.gateDecisionEffect []) decided).pcOf 0 = 0x10000 ∧ ((go (.gateDecisionEffect []) decided).blk 0).core.fetching = true ∧
    (go (.gateDecisionEffect [0]) decided).epoch.haltAt = some 9 := by
  decide +kernel

theorem test_epoch_end : (go .epochEnd (plan 300)).epoch.ended = true ∧ (go .epochEnd (plan 300)).epoch.cycle = 1023 ∧
    (go .planStartTime { plan 0 with plan := .starting, epoch := .reset }).epoch.num = 1 ∧
    (go .planStartTime { plan 0 with plan := .starting, epoch := .reset }).plan = .running := by
  decide +kernel

/-! ## Clocks -/

/-- Block 0 with these clock fields, in the running plan or outside one. -/
def clk (p : Bool) (f : Clk → Clk) : State :=
  (if p then plan 200 else base).modBlk 0 fun x => { x with clk := f x.clk }

/-- The running plan, whose Q0 is OFF and runs next in an epoch whose cycle 0 lies 14.136 µs ahead. -/
def later : State := { plan 200 with pl := { (plan 200).pl with runPat := [(64, 0x40000)] }, qpll := [] }

theorem witness_ClockCommands : (((clk true fun c => { c with entries := [(300, .sleep)] }).blk 0).clk.entries[0]? = some (300, .sleep)) ∧
    (plan 200).thermalHold = false ∧ (plan 200).pl.runs (quarterOf 0) 5 = true ∧ (plan 200).runningPart = true ∧
    ((clk false fun c => { c with mode := .waking, left := .deep }).blk 0).clk.mode = .waking ∧ (plan 200).clkLocked = true ∧ base.clkLocked = false ∧
    base.planMoves = false ∧ base.isBound = false ∧ (base.pll 3).st = .off ∧ (base.pll 3).starting = false ∧ (base.pll 3).failed = false ∧
    (go (.quarterPllStart 3) base |>.pll 3).starting = true ∧
    { plan 200 with pl := { (plan 200).pl with runPat := [(2, 0)], e0 := 5 } }.pl.nextRun 0 5 = none ∧
    (later.pl.nextRun 0 5 = some 19 ∧ later.toPllStart 0 ≠ none) ∧
    (go (.quarterPllStart 3) base).passWithin ((go (.quarterPllStart 3) base).cyclesTo (((go (.quarterPllStart 3) base).pll 3).startAt + 12000)) ≠ none := by
  decide +kernel

theorem test_modes : ((go (.powerEntryApply 0) (clk true fun c => { c with entries := [(300, .sleep)] })).blk 0).clk.mode = .sleep ∧
    (go (.powerEntryApply 0) (clk true fun c => { c with mode := .sleep, entries := [(300, .run)] })).wakeLeft 0 = 8 ∧
    ((go (.clkReqWrite 0 1) base).blk 0).clk.mode = .sleep ∧ ((go (.clkReqWrite 0 2) base).blk 0).clk.mode = .deep ∧
    ((go (.clkReqWrite 0 0) (go (.clkReqWrite 0 1) base)).blk 0).clk.mode = .waking ∧ (go (.clkReqWrite 0 2) (plan 200)) = plan 200 ∧
    ((go (.wakeComplete 0) (go (.clkReqWrite 0 0) (go (.clkReqWrite 0 1) base))).blk 0).clk.mode = .run := by
  decide +kernel

theorem test_wake_from_deep : (go (.wakeComplete 0) (clk false fun c => { c with mode := .waking, left := .deep })).getG 0 1 = 0 ∧
    ((go (.wakeComplete 0) (clk false fun c => { c with mode := .waking, left := .deep })).blk 0).core.stopped = true := by
  decide +kernel

theorem test_quarters : ((go (.quarterPllRelease 3) (go (.quarterPllStart 3) base)).pll 3).st = .standby ∧
    ((go (.quarterPllRelease 3) (go (.quarterPllStart 3) base)).blk 0x3000).clk.mode = .deep ∧
    ((go (.quarterPllStop 0) { plan 200 with pl := { (plan 200).pl with runPat := [(2, 0)], e0 := 5 } }).pll 0).st = .off ∧
    (go (.quarterPllStart 0) later).epoch.cycle = 336 ∧ ((go (.quarterPllStart 0) later).pll 0).starting = true ∧
    (go (.quarterPllStart 0) { later with epoch := { later.epoch with cycle := 337 } }).qpll = [] := by
  decide +kernel

/-! ## Messages -/

/-- A flit of a message of one word on channel 5, to be delivered at cycle 400. -/
def flit : Flit :=
  mkFlit (mkTag 5 true false false 0 400) 0xAB

/-- Block 0 in the running part: a send entry at cycle 300, a phase that feeds the east output from the north input and the local output from the
local input, and an enabled channel 5. -/
def xng (f : Block → Block) : State :=
  { plan 200 with blocks := [(0, f { Block.reset with
    ls := mstore [] 0x100000 [7]
    msg := { Msg.reset with nsend := 1, send := [(0, ⟨300, 0, false, 5, false, 0, 400, 0x100000⟩)],
                            rxc := [(5, ⟨0x100040, 0, 2, 1, false, false, true⟩)] }
    xng := { Xng.reset with len := 1, slots := [(0, 0x5008)] } })], place := [(0, ⟨4, 4, [], []⟩)] }

theorem witness_MessageCommands : (xng id).runningPart = true ∧ (xng id).branchTicks 0 3 = true ∧ (xng id).branchTicks 0 5 = true ∧
    ((xng id).blk 0).msg.next.toNat < ((xng id).blk 0).msg.nsend.toNat ∧ (xng id).epoch.cycle ≤ 300 ∧ inLs 0x100000 32 = true ∧
    (xng id).pllOn (quarterOf 0) = true ∧ ((xng id).blk 0).xng.outputs 200 1 = [2] ∧ (xng id).hop 0 2 = .inner 1 4 ∧ (1 : BlockId) ≠ 0 ∧
    (xng id).epoch.charges = true ∧ (xng id).receives 0 = true ∧ complete false [⟨flit, 5, 5, 300⟩] = true ∧
    lateHeld [⟨flit, 5, 5, 300⟩] 5 = false ∧ releaseAt [⟨flit, 5, 5, 300⟩] 5 0 = some ([⟨flit, 5, 5, 300⟩], ⟨flit, 5, 5, 300⟩) ∧
    heldWords [⟨flit, 5, 5, 300⟩] = 1 ∧ flit.parityOk = true ∧ (flit.turned 1).parityOk = false ∧ (xng id).landingInput (.block 0 .n) = true ∧
    (xng id).pickedOf (.block 0 .n) ≠ 201 ∧ ucieDies (.quarter 0 .n) ≠ none ∧
    (xng fun x => { x with xng := { x.xng with wire := [(1, [(flit, 195)])] } }).frameCycle (.quarter 0 .n) 0 = some 195 ∧ (400 : Nat) < 2 ^ (xng id).k := by
  decide +kernel

theorem test_send : (look [] ((go (.messageSend (.block 0) .ok) (xng id)).blk 0).xng.inp 5).map (fun f => (f.1.ch, f.1.last, f.1.payload, f.2)) =
    [(5, true, 7, 301)] ∧ ((go (.messageSend (.block 0) .ok) (xng id)).blk 0).msg.next = 1 := by
  decide +kernel

theorem test_arrival :
    look [] ((go (.crossingFlitArrival (.block 0 .n) 0) (xng fun x => { x with xng := { x.xng with inp := [(1, [(flit, 200)])] } })).blk 1).xng.inp 4 =
      [(flit, 202)] ∧
    ((go (.crossingFlitArrival (.block 0 .n) 1) (xng fun x => { x with xng := { x.xng with inp := [(1, [(flit, 200)])] } })).blk 0).xng.parity = 1 ∧
    ((go (.crossingFlitArrival (.block 0 .e) 0) (xng fun x => { x with xng := { x.xng with inp := [(2, [(flit, 200)])] } })).blk 0).xng.drops = 1 := by
  decide +kernel

set_option maxRecDepth 100000 in
theorem test_landing :
    look [] ((go (.landingFlitVisible (.block 0 .n)) (xng fun x => { x with xng := { x.xng with land := [(1, [⟨flit, false, 0, 190⟩])] } })).blk 0).xng.land 1 =
      [⟨flit, true, 0, 190⟩] ∧
    look [] ((go (.ucieFrameReceive (.quarter 0 .n) ⟨0, []⟩) (xng fun x => { x with xng := { x.xng with wire := [(1, [(flit, 195)])] } })).blk 0).xng.land 1 =
      [⟨flit, false, 0, 195⟩] ∧
    (go (.ucieFrameReceive (.quarter 0 .n) ⟨0, [1]⟩) (xng fun x => { x with xng := { x.xng with wire := [(1, [(flit, 195)])] } })).epoch.faults.first ≠ none ∧
    look [] ((go (.pickup (.block 0 .n)) (xng fun x => { x with xng := { x.xng with land := [(1, [⟨flit, true, 0, 190⟩])] } })).blk 1).xng.inp 4 =
      [(flit, 202)] ∧ ((go (.pickup (.block 0 .n)) (xng id)).blk 0).xng.miss = 1 := by
  decide +kernel

theorem test_hold_and_release :
    ((go (.holdBufferEntry (.block 0)) (xng fun x => { x with xng := { x.xng with outL := [(flit, 210)] } })).blk 0).msg.hold = [⟨flit, 5, 5, 210⟩] ∧
    bytesAt ((go (.messageRelease (.block 0) 0) (xng fun x => { x with msg := { x.msg with hold := [⟨flit, 5, 5, 300⟩] } })).blk 0).ls 0x100040 8 = 0xAB ∧
    look 0 ((go (.messageRelease (.block 0) 0) (xng fun x => { x with msg := { x.msg with hold := [⟨flit, 5, 5, 300⟩] } })).blk 0).core.delivered 5 = 1 ∧
    ((go (.messageRelease (.block 0) 0) (xng fun x => { x with msg := { x.msg with hold := [⟨flit, 5, 5, 300⟩] } })).blk 0).msg.hold = [] := by
  decide +kernel

/-! ## Access from outside a block -/

/-- A packet of the host's edge node to block 0. -/
def packet (kind : BitVec 4) (tag : BitVec 2) (data : List W64) : FpPacket :=
  { dpx := FpPos.px (base.fpCoord 0), dpy := FpPos.py (base.fpCoord 0), spx := 0xFE, spy := 0, kind := kind, tag := tag, txn := 3, err := 0, addr := 0x100000,
    size := 8, data := data }

/-- The node east of block 0's. -/
def east : FpPos := ((base.fpCoord 0).1 + 1, (base.fpCoord 0).2)

/-- It has come over the link from that node. -/
def coming (p : FpPacket) (s : State) : State :=
  { s with footpath := [⟨east, s.fpCoord 0, false, 0, false, p⟩] }

theorem witness_OutsideAccesses :
    ((coming (packet 0 2 []) base).footpath.find? fun t => decide (t.at_ = base.nodePos (.block 0) ∧ t.from_ = east ∧ t.pkt = packet 0 2 [])).isSome = true ∧
    ((coming (packet 0 2 []) base).footpath.all fun t => (coming (packet 0 2 []) base).crossed t && decide (packetDest t.pkt = t.at_)) = true ∧
    base.fpRoute (base.fpCoord 0) (packetSource (packet 0 2 [])) = some false ∧ base.reachable 0 = true ∧
    WTag.ofCode 2 = some .m ∧ inLs ((packet 0 2 []).addr.toNat % 2 ^ 26) 8 = true ∧
    (base.blk 0).priv.lsBytes (Who.foot .m).ctx 0x100000 8 = true ∧ (packet 2 2 [5]).size ≤ 8 * (packet 2 2 [5]).data.length ∧
    base.barsUp = true ∧ base.wayTo (.block 0 0x300040) = true ∧
    base.writeBarred (.block 0 0x300040) = false ∧ (base.fastUp && base.debugOpen) = false ∧
    ({ base with unlock := [(0, { Unlock.reset with lease := some 100 })] }.fastUp &&
      ({ base with unlock := [(0, { Unlock.reset with lease := some 100 })] }.debugOpen)) = true := by
  decide +kernel

theorem test_outside : ((go (.footpathPacketReceive (.block 0) (packet 0 2 []) east .ok) (coming (packet 0 2 []) (mem 0 0))).footpath.map
      fun t => (t.pkt.kind, t.pkt.data, t.pkt.dpx)) = [(1, [0x0807060504030281], 0xFE)] ∧
    bytesAt ((go (.footpathPacketReceive (.block 0) (packet 2 2 [5]) east .ok) (coming (packet 2 2 [5]) base)).blk 0).ls 0x100000 8 = 5 ∧
    ((go (.footpathPacketReceive (.block 0) (packet 5 0 [9]) east .ok) (coming (packet 5 0 [9]) base)).blk 0).mbox = [⟨.a, 9⟩] ∧
    (go (.footpathPacketReceive (.block 0) (packet 9 0 []) east .ok) (coming (packet 9 0 []) base)).counter 0x4001 1 = 1 ∧
    (go (.registerWrite (.block 0) 0x40 (-1) ⟨0x01, .served .ok⟩) base).crRead 0 0x40 .m = 0xFF ∧
    (go (.debug (.access (packet 0 0 []))) { base with unlock := [(0, { Unlock.reset with lease := some 100 })] }).footpath.map (fun t => (t.pkt.tag, t.pkt.spx)) =
      [(2, 0xFE)] := by
  decide +kernel

/-- The test access port (R892): BYPASS captures one 0, SAMPLE/PRELOAD the levels at the lands, and EXTEST drives what was shifted in. -/
theorem test_tap : (go (.debug (.data [true] [])) (go (.debug (.instruction .bypass)) base)).tap.out = [false] ∧
    (go (.debug (.data [true] [false, true])) (go (.debug (.instruction .sample)) base)).tap.out.take 3 = [false, true, false] ∧
    (go (.debug (.data [true] [])) (go (.debug (.instruction .extest)) base)).tap.drives.map (fun l => (l.map fun l => l.take 1)) = some (some [true]) := by
  decide +kernel

/-! ## Links -/

/-- Port 0, changed. -/
def port (f : DPort → DPort) : State :=
  base.modPort 0 fun x => f { x with st := .active }

/-- The identity of a peer. -/
def peer (uid : W64) (abi : BitVec 16) : Identity :=
  ⟨uid, 1, 0xB1, abi, 0, 9, 3, true, 512, 512, 0, 256, 256, 100, 0, 0⟩

/-- Three identity frames of a peer have come, and they give a flight time. -/
def met (st : LinkSt) (i : Identity) (flight : Nat) : State :=
  port fun x => { x with st := st, ident := some i, idents := 3, measured := some flight, lock := true }

theorem witness_LinkStates : (port fun x => { x with st := .down }).portUp 0 = true ∧ base.boot.loaded.isSome = true ∧
    ((port fun x => { x with st := .down }).port 0).en = true ∧ ((port fun x => { x with st := .down, en := false }).port 0).en = false ∧
    ((port id).port 0).st = .active ∧ ((port id).port 0).peer.uid = 0 ∧ ((port id).port 0).forceSurvey = false ∧
    (peer 7 0).linkAbi = base.bundle.linkAbi ∧ (peer 7 1).linkAbi ≠ base.bundle.linkAbi ∧ (6 : BitVec 4) ∈ [2, 6, 7, 8, 9] ∧
    ((met .caps (peer 7 0) 300).port 0).idents = 3 ∧ ((port id).port 0).idents < 3 ∧
    ({ plan 200 with ports := [(0, { DPort.reset with st := .active, planned := true })] }).epoch.charges = true := by
  decide +kernel

theorem test_link_up : ((go (.linkSignalDetect 0) (port fun x => { x with st := .down })).port 0).st = .train ∧
    ((go (.linkTrainComplete 0 300) (met .train (peer 7 0) 300)).port 0).st = .caps ∧
    ((go (.linkTrainComplete 0 301) (met .train (peer 7 0) 301)).port 0).cause = 4 ∧
    ((go (.linkTrainTimeout 0) (port fun x => { x with st := .train })).port 0).cause = 3 ∧
    ((go (.capsComplete 0 (peer 7 0)) (met .caps (peer 7 0) 300)).port 0).st = .active ∧
    ((go (.capsComplete 0 (peer 7 1)) (met .caps (peer 7 1) 300)).port 0).st = .survey ∧
    ((go (.surveyIdentitySend 0) (port fun x => { x with st := .survey })).port 0).out.length = 1 := by
  decide +kernel

theorem test_link_down : ((go (.retrainTrigger 0 6) (port id)).port 0).st = .retrain ∧ ((go (.lnkRetrainRequest 0) (port id)).port 0).cause = 9 ∧
    ((go (.retrainComplete 0 300 (peer 7 0)) (met .retrain (peer 7 0) 300)).port 0).st = .active ∧
    ((go (.retrainTimeout 0) (port fun x => { x with st := .retrain })).port 0).st = .train ∧
    ((go (.lnkEnableChange 0 false) (port id)).port 0).st = .disabled ∧
    ((go (.lnkEnableChange 0 true) (port fun x => { x with st := .disabled, en := false })).port 0).st = .train := by
  decide +kernel

/-- An identity frame of 256 bytes as it stands in a block, with its CRC-32. -/
def identFrame (i : Identity) : List Byte :=
  let l := padTo 252 (Frame.identity 0 i).body
  l ++ leBytes 4 (crc32 l).toNat

set_option maxRecDepth 100000 in
theorem test_identity_frame : ((((port fun x => { x with st := .caps }).frameReceive 0 (identFrame (peer 7 0))).port 0).ident) = some (peer 7 0) ∧
    (((port fun x => { x with st := .caps }).frameReceive 0 (identFrame (peer 7 0))).port 0).idents = 1 := by
  decide +kernel

/-- Port 0 of the running plan: it sends one flit at cycle 200 and a milestone at cycle 190. -/
def planPort : State :=
  { plan 180 with ports := [(0, { DPort.reset with st := .active, planned := true, period := 100, txs := [(72, 1)], mcycles := [190],
                                                   queue := [⟨flit, 150, 0, 5⟩] })] }

theorem witness_LinkTraffic : ((port fun x => { x with st := .down }).port 0).st.sends = false ∧ ((port fun x => { x with badRun := 2 }).port 0).badRun < 3 ∧
    ((port fun x => { x with st := .caps }).port 0).st.sends = true ∧
    3 ≤ ((port fun x => { x with badRun := 3 }).port 0).badRun ∧ (0x123400010002 : BitVec 64).extractLsb' 56 2 = 0 ∧
    (planPort.port 0).nextTx 180 1024 0 = 0 ∧ (planPort.port 0).txCycle 0 = some (200, 1) ∧ planPort.runningPart = true ∧
    (planPort.port 0).mcycles[0]? = some 190 ∧ planPort.pl.e0 < planPort.epoch.num ∧ 190 ≤ planPort.lastCycle ∧ (planPort.port 0).due = [] ∧
    (∀ f ∈ (planPort.port 0).queue, f.cycle < 200 ∧ f.epoch = planPort.epoch.num ∧ f.epoch.toNat + f.flit.lag < 2 ^ 64) ∧
    0 < (((port fun x => { x with vc0 := { x.vc0 with credits := 1 } }).port 0).vc false).credits ∧ (((port id).port 0).vc true).credits = 0 ∧
    ((port fun x => { x with replay := [⟨0, false, 1, 0, 1, 0, [1]⟩] }).port 0).replay ≠ [] ∧ ((port fun x => { x with stall := 7 }).port 0).stall = 7 := by
  decide +kernel

theorem test_traffic : ((go (.linkTransmitEntry 0) planPort).port 0).out.length = 1 ∧ ((go (.linkTransmitEntry 0) planPort).port 0).queue = [] ∧
    ((go (.milestoneSend 0 true) planPort).port 0).msDone = 1 ∧
    ((go (.unplannedRetryTimeout 0) (port fun x => { x with stall := 7, replay := [⟨0, false, 1, 0, 1, 0, [1]⟩] })).port 0).st = .retrain ∧
    ((go (.unplannedFrameSend 0 false 1 0 1 0 [1]) (port fun x => { x with vc0 := { x.vc0 with credits := 1 } })).port 0).replay.length = 1 := by
  decide +kernel

/-- A frame with no payload at all reads 0 in every field; α^10 = α^3 + 1 (R427). -/
theorem test_field : gfAlpha 10 = 9 ∧ gfMul 2 (gfInv 2) = 1 ∧ rsGenerator.length = 15 ∧ gfAlpha 1023 = 1 ∧
    (rsSyndromes (List.range 258 ++ rsParity (List.range 258))).all (fun v => decide (v = 0)) = true := by
  decide +kernel

/-- Seven wrong symbols are corrected, eight are not (R427, R429). -/
theorem test_correction :
    rsDecode ((List.range 7).foldl (fun w i => w.modify (40 * i) fun a => a ^^^ (i + 1)) (List.replicate 272 0)) = some (List.replicate 272 0, 7) ∧
    rsDecode ((List.range 8).foldl (fun w i => w.modify (30 * i) fun a => a ^^^ (i + 1)) (List.replicate 272 0)) = none := by
  decide +kernel

/-! ## Host queues -/

/-- Queue 0 enabled with 16 entries, and commands of these entries in these phases. -/
def host (q : Queue → Queue) (cmds : List Cmd) : State :=
  { base with hif := { base.hif with queues := [(0, q { Queue.reset with en := true, sqTail := 1 })], cmds := cmds } }

/-- A submission entry: OPCODE, HOST_TAG 0x77 and argument bytes 24 to 63. -/
def entry (op : Nat) (args : List Byte) : List Byte :=
  leBytes 2 op ++ List.replicate 6 0 ++ leBytes 8 0x77 ++ List.replicate 8 0 ++ args ++ List.replicate (40 - args.length) 0

/-- A command with ACCEPTED record 9 in a phase. -/
def cmd (op : Nat) (ph : CmdPhase) (args : List Byte) : Cmd :=
  { seq := 9, queue := 0, sqHead := 0, entry := entry op args, phase := ph, status := 0, result := 0, endSeq := 0, gone := 0, slot := none, data := [],
    time := 0, began := decide (ph = .started ∨ ph = .running) }

/-- The completion entry of command 9. -/
def comp : Completion :=
  ⟨0, 0x77, 10, 0, 0, 1, false, some 9⟩

theorem witness_HostQueueCommands : ((host id []).queue 0).en = true ∧ (15 : BitVec 64).extractLsb' 0 12 < 16 ∧ ((host id []).queue 0).size = 16 ∧
    ((host id []).queue 1).en = false ∧ (host id []).bp = false ∧ (host id []).fetchTurn = some 0 ∧ (entry 0 []).length = 64 ∧
    (host id []).validate (entry 0 []) = 0 ∧ (host id []).validate (entry 0x99 []) = 0x10 ∧
    ({ host id [] with hif := { (host id []).hif with comps := [comp] } }).hif.comps.find? (fun c => decide (c.queue = 0)) = some comp ∧
    (host (fun q => { q with cqHead := 1 }) []).queue 0 = { Queue.reset with en := true, sqTail := 1, cqHead := 1 } ∧
    ((host (fun q => { q with since := 1, time := 5 }) []).queue 0).since ≠ 0 ∧ (host id []).hif.quiet = false ∧
    (host id []).hif.cfg.msixEn = true ∧ (host id []).hif.cfg.msixMask = false ∧ base.barsUp = true ∧
    ((host (fun q => { q with cqHead := 1 }) []).queue 0).cqTail = 0 ∧ (host id []).hif.cfg.command.getLsbD 2 = true := by
  decide +kernel

theorem test_doorbells : ((go (.sqDoorbellWrite 0 15) (host id [])).queue 0).sqTail = 15 ∧ ((go (.sqDoorbellWrite 0 16) (host id [])).queue 0).ecode = 1 ∧
    ((go (.cqDoorbellWrite 0 15) (host id [])).queue 0).cqHead = 15 ∧ ((go (.cqDoorbellWrite 0 16) (host id [])).queue 0).ecode = 3 := by
  decide +kernel

theorem test_fetch : (go (.entryFetch 0 (some [entry 0 []])) (host id [])).bp = true ∧
    ((go (.entryFetch 0 (some [entry 0 []])) (host id [])).jnl.holding.map fun h => (h.1.ty, h.1.tag)) = some (1, 0x77) ∧
    ((go (.entryFetch 0 (some [entry 0x99 []])) (host id [])).hif.comps.map fun c => c.status) = [0x10] ∧
    ((go (.entryFetch 0 none) (host id [])).queue 0).ecode = 2 := by
  decide +kernel

theorem test_completions :
    mload (go (.completionWrite 0) { host id [] with hif := { (host id []).hif with comps := [comp] } }).hostMem 0 8 = leBytes 8 0x77 ∧
    ((go (.completionWrite 0) { host id [] with hif := { (host id []).hif with comps := [comp] } }).queue 0).cqTail = 1 ∧
    ((go (.irqDelayTimeout 0) (host (fun q => { q with since := 1, time := 5 }) [])).queue 0).since = 0 ∧
    (go (.irqDelayTimeout 0) (host (fun q => { q with since := 1, time := 5 }) [])).hif.pba = 1 := by
  decide +kernel

theorem test_queues : ((go (.queueEnable 1) base).queue 1).en = true ∧ ((go (.queueDisable 0) (host id [cmd 0 .accepted []])).queue 0).en = false ∧
    ((go (.queueDisable 0) (host id [cmd 0 .accepted []])).hif.cmds.map fun c => decide (c.gone ≠ 0)) = [true] ∧
    ((go .functionLevelReset (host id [])).queue 0).en = false ∧ (go .d3hotEntry base).hif.d3hot = true ∧
    (go .d0Return (go .d3hotEntry base)).hif.d3hot = false := by
  decide +kernel

theorem witness_BarAccesses : base.barsUp = true ∧ base.wayTo (.sram .e0 0) = true ∧ base.wayTo (.block 0 0x100000) = true ∧ offE0 (.sram .e1 0) = true ∧
    (0 : Nat) % 8 = 0 ∧ deviceMap 0 = .block 0 0x100000 ∧ deviceMap 0x200000000 = .sram .e0 0 ∧ base.dieWorks .e0 = true ∧
    base.edgeAssigned .e0 = 0 ∧ (plan 0).edgeAssigned .e0 = 4 * 2 ^ 20 ∧ { base with dies := [(1, 1)] }.dieWorks .e1 = false ∧
    deviceMap 0x68000 = .reserved ∧ base.reachable 0 = true ∧ inLs 0x100000 8 = true ∧ (base.blk 0).priv.lsBytes .m 0x100000 8 = true ∧
    deviceMap 0x204000000 = .sram .e1 0 ∧
    base.hif.windowBusy = false ∧ (0x8000000201016001 : BitVec 64) &&& reqReserved = 0 ∧ objInfo 0x1FFF 0 = none ∧
    base.dictCheck .host false 0x6001 1 false (fun t => t.fits 2) = .ok ∧ isDeferred 0x6001 1 = false := by
  decide +kernel

theorem test_bar2 : mload (go (.bar2Write 0x200000000 ⟨[1, 2], .served .ok⟩) base).edge0.sram 0 2 = [1, 2] ∧
    (go (.bar2Write 0x200000000 ⟨[1, 2], .served .ok⟩) (plan 0)).hif.drops = 1 ∧
    (go (.bar2Write 0x204000000 ⟨[1, 2], .lost⟩) base).hif.drops = 1 ∧ (go (.bar2Write 0x200000000 ⟨[1, 2], .poisoned⟩) base).hif.drops = 1 ∧
    bytesAt ((go (.bar2Write 0 ⟨[1, 2, 3, 4, 5, 6, 7, 8], .served .ok⟩) base).blk 0).ls 0x100000 2 = 0x0201 ∧
    (go (.bar2Read 0 8 (.served .ok)) (mem 0 0)).hif.readOut = some [0x81, 2, 3, 4, 5, 6, 7, 8] ∧
    (go (.bar2Read 0x204000000 8 (.served .ok)) { base with dies := [(1, 1)] }).hif.readOut = none := by
  decide +kernel

theorem test_window : (go (.dictWindowAccess 0x8000000101001FFF .ok) base).hif.dictRsp = 0x8000000000000050 ∧
    (go (.dictWindowAccess 0x6001 .ok) base).hif.dictReq = 0x6001 ∧
    (go (.dictWindowAccess 0x8000000201016001 .ok) base).hif.dictRsp = 0x8000000200000000 := by
  decide +kernel

/-! ## Host commands -/

/-- The base state with command 9 in a phase. -/
def cmds (op : Nat) (ph : CmdPhase) (args : List Byte) : State :=
  host id [cmd op ph args]

/-- The running plan's state in a plan state, with command 9 carrying plan identifier 1. -/
def planCmd (p : PlanSt) (op : Nat) (ph : CmdPhase) (args : List Byte) : State :=
  let c := { cmd op ph args with entry := (cmd op ph args).entry.set 16 1 }
  { plan 200 with
    plan := p
    epoch := if p = .running ∨ p = .stopping then (plan 200).epoch else .reset
    hif := { base.hif with cmds := [c] } }

/-- STATUS and RESULT of command 9. -/
def ended (s : State) : Option (BitVec 16 × W64) :=
  ((s.findCmd 9).filter fun c => decide (c.phase = .ending)).map fun c => (c.status, c.result)

theorem witness_PlanCommands : ((cmds 1 .started []).startedCmd 9 1).isSome = true ∧ (cmds 1 .started []).startFailed = false ∧
    (cmds 1 .started []).sweeping = false ∧ ((planCmd .loading 1 .running []).findCmd 9).map (fun c => (c.phase, c.opcode)) = some (.running, 1) ∧
    ((planCmd .loaded 2 .started []).startedCmd 9 2).map Cmd.planId = some 1 ∧ (planCmd .loaded 2 .started []).planId = 1 ∧
    ((planCmd .bound 3 .started []).startedCmd 9 3).isSome = true ∧ ((planCmd .running 4 .started []).startedCmd 9 4).isSome = true ∧
    ((planCmd .halted 5 .started []).startedCmd 9 5).isSome = true ∧ (planCmd .bound 3 .started []).time.tlock = true ∧
    (planCmd .bound 3 .started []).timeNs = 0 ∧ nsOf (leAt (leBytes 8 20000) 0 8) = 20000 ∧
    ((cmds 1 .started []).setCounter 0x4000 2 5).startFailed = true ∧
    ((planCmd .unloading 5 .running []).findCmd 9).map (fun c => (c.phase, c.opcode)) = some (.running, 5) ∧
    (planCmd .unloading 5 .running []).trace.armed = false ∧ (planCmd .loading 1 .running []).hif.quiet = false ∧
    { planCmd .halted 4 .started [] with pl := { PlanRec.reset with lastRan := some 7 } }.pl.lastRan = some 7 ∧
    ((planCmd .bound 3 .started (leBytes 8 20000 ++ leBytes 8 2)).startedCmd 9 3).map (fun c => (nsOf (c.arg 24 8), c.time)) = some (20000, 0) ∧
    (gate none).epoch.active = true ∧ (gate none).epoch.begun = false ∧ (gate none).epoch.decision = none := by
  decide +kernel

theorem test_plan_commands : (go (.planLoad 9) (cmds 1 .started [])).plan = .loading ∧ ended (go (.planLoad 9) (planCmd .bound 1 .started [])) = some (0x20, 0) ∧
    ended (go (.commandCompletion 9 .hostReadFailed) (planCmd .loading 1 .running [])) = some (0x40, 0) ∧
    ended (go (.planBind 9 .hostReadFailed) (planCmd .loaded 2 .started [])) = some (0x40, 0) ∧
    ended (go (.planBind 9 (.done [])) (planCmd .bound 2 .started [])) = some (0x20, 0) ∧
    (go (.planStart 9) (planCmd .bound 3 .started (leBytes 8 20000 ++ leBytes 8 2))).plan = .starting ∧
    ended (go (.planStart 9) (planCmd .bound 3 .started (leBytes 8 19999 ++ leBytes 8 2))) = some (0x22, 0) := by
  decide +kernel

theorem test_plan_stop : (go (.planStop 9) (planCmd .running 4 .started [])).plan = .stopping ∧
    ended (go (.planStop 9) (planCmd .running 4 .started [])) = some (0, 6) ∧ ended (go (.planStop 9) (planCmd .bound 4 .started [])) = some (0x20, 0) ∧
    (go (.planUnload 9) (planCmd .bound 5 .started [])).plan = .unloading ∧ ended (go (.planUnload 9) (planCmd .running 5 .started [])) = some (0x20, 0) ∧
    (go (.commandCompletion 9 (.done [])) (planCmd .unloading 5 .running [])).plan = .empty ∧
    ended (go (.commandCompletion 9 (.done [])) (planCmd .unloading 5 .running [])) = some (0, 0) := by
  decide +kernel

/-- A plan with one intake binding 3 of two slots of 64 bytes and one outlet binding 4 of the same shape, and command 9. -/
def buffers (op : Nat) (ph : CmdPhase) (slot : Option Nat) (ins : List InSlot) (outs : List OutSlot) (order : List Nat) : State :=
  let s := planCmd .bound op ph (leBytes 8 0x1000 ++ leBytes 4 64)
  { s with
    intakes := [(3, ⟨.e0, 64, 4 * 2 ^ 20, [], ins, 1, none, 0, 0⟩)]
    outlets := [(4, ⟨.e0, 64, 4 * 2 ^ 20 + 128, 1, false, outs, 0, none, order, 0, []⟩)]
    hif := { s.hif with cmds := s.hif.cmds.map fun c => { c with slot := slot, entry := c.entry.set 36 (if op = 0x10 then 3 else 4) } } }

theorem witness_BufferCommands :
    (∃ c, (buffers 0x10 .started none [.free, .filled] [.empty, .empty] []).startedCmd 9 0x10 = some c ∧
      (buffers 0x10 .started none [.free, .filled] [.empty, .empty] []).bufferStatus c (some (64, .e0)) = 0 ∧ c.bind = 3) ∧
    (∃ x, (buffers 0x10 .started none [.free, .filled] [.empty, .empty] []).intake 3 = some x ∧ x.slots[(x.point + 1) % 2]? = some .free ∧
      x.slots[x.point % 2]? ≠ some .free) := by
  refine ⟨⟨_, rfl, ?_, ?_⟩, ⟨_, rfl, ?_, ?_⟩⟩ <;> decide +kernel

theorem witness_BufferCommands2 :
    ((buffers 0x11 .running (some 0) [] [.reading 4 true, .empty] []).outlet 4).map (fun x => x.slots[0]?) = some (some (.reading 4 true)) ∧
    ((buffers 0x11 .running (some 0) [] [.reading 4 true, .empty] []).findCmd 9).map (fun c => (c.phase, c.opcode, c.bind, c.slot, c.planId)) =
      some (.running, 0x11, 4, some 0, 1) ∧ (buffers 0x11 .running (some 0) [] [] []).planId = 1 ∧
    (buffers 0x11 .running (some 0) [] [] []).hif.quiet = false ∧ ({ buffers 0x10 .running (some 0) [] [] [] with planId := 2 }).planId = 2 := by
  decide +kernel

theorem test_outlived : ((go (.commandCompletion 9 (.done (List.replicate 64 5)))
      { buffers 0x10 .running (some 0) [.filling, .filled] [.empty, .empty] [] with planId := 2 }).intake 3).map (fun x => x.slots) = some [.filling, .filled] ∧
    (go (.commandCompletion 9 (.done (List.replicate 64 5)))
      { buffers 0x10 .running (some 0) [.filling, .filled] [.empty, .empty] [] with planId := 2 }).edge0.sram = [] := by
  decide +kernel

theorem test_intake : ((go (.intakeWrite 9) (buffers 0x10 .started none [.free, .filled] [.empty, .empty] [])).intake 3).map (fun x => x.slots) =
      some [.filling, .filled] ∧
    ended (go (.intakeWrite 9) (buffers 0x10 .started none [.inUse, .filled] [.empty, .empty] [])) = some (0x32, 0) ∧
    ((go (.commandCompletion 9 (.done (List.replicate 64 5))) (buffers 0x10 .running (some 0) [.filling, .filled] [.empty, .empty] [])).intake 3).map
      (fun x => x.slots) = some [.filled, .filled] ∧
    mload (go (.commandCompletion 9 (.done (List.replicate 64 5))) (buffers 0x10 .running (some 0) [.filling, .filled] [.empty, .empty] [])).edge0.sram
      (4 * 2 ^ 20) 2 = [5, 5] := by
  decide +kernel

theorem test_outlet : ended (go (.outletRead 9) (buffers 0x11 .started none [] [.empty, .empty] [])) = some (0x33, 0) ∧
    ((go (.outletRead 9) (buffers 0x11 .started none [] [.ready 4 true, .ready 3 false] [1, 0])).outlet 4).map (fun x => (x.slots, x.order)) =
      some ([.ready 4 true, .reading 3 false], [0]) ∧
    ended (go (.commandCompletion 9 (.done [])) (buffers 0x11 .running (some 0) [] [.reading 4 true, .empty] [])) = some (1, 4) ∧
    ended (go (.commandCompletion 9 (.dataLoss [])) (buffers 0x11 .running (some 0) [] [.reading 4 true, .empty] [])) = some (0x42, 0) := by
  decide +kernel

/-- Command 9 is a tensor access of the host buffer 0x1000 and 8 bytes at a device address. -/
def tensor (op : Nat) (ph : CmdPhase) (daddr : Nat) : State :=
  cmds op ph (leBytes 8 0x1000 ++ leBytes 8 daddr ++ leBytes 4 8)

/-- A tensor write to the device map of device 5. -/
def farTensor (daddr : Nat) : State :=
  cmds 0x12 .started (leBytes 8 0x1000 ++ leBytes 8 daddr ++ leBytes 4 8 ++ [0x85])

theorem witness_TensorCommands : ((tensor 0x12 .started 0x200000000).startedCmd 9 0x12).map (fun c => (c.daddr, c.tensorLen, c.remote)) =
      some (0x200000000, 8, false) ∧
    ((tensor 0x12 .started 0x68000).startedCmd 9 0x12).map (fun c => c.range.map fun p => decide (deviceMap p.1 = .reserved)) = some [true] ∧
    ((tensor 0x13 .running 0x200000000).findCmd 9).map (fun c => (c.phase, c.opcode)) = some (.running, 0x13) ∧
    (tensor 0x12 .running 0).edgeAssigned .e0 ≤ 0 ∧ 0x200000000 % 0x8000 + 8 ≤ 0x8000 ∧ (tensor 0x12 .running 0).wayTo (.sram .e0 0) = true ∧
    (tensor 0x12 .running 0).hif.quiet = false ∧ ((farTensor 0x68000).startedCmd 9 0x12).map (fun c => (c.remote, c.dev)) = some (true, 5) ∧
    (farTensor 0x68000).wayOut (some .e0) 5 = none ∧ { farTensor 0x68000 with plan := .bound, routes := [(5, 0)] }.wayOut (some .e0) 5 = some 0 ∧
    (plan 0).writeBarred (.sram .e0 0) = true := by
  decide +kernel

theorem test_tensor : ended (go (.tensorWrite 9) (tensor 0x12 .started 0x68000)) = some (0x43, 0) ∧
    ((go (.tensorWrite 9) (tensor 0x12 .started 0x200000000)).findCmd 9).map Cmd.phase = some .running ∧
    ended (go (.commandCompletion 9 (.done [1, 2, 3, 4, 5, 6, 7, 8])) (tensor 0x12 .running 0x200000000)) = some (0, 8) ∧
    mload (go (.commandCompletion 9 (.done [1, 2, 3, 4, 5, 6, 7, 8])) (tensor 0x12 .running 0x200000000)).edge0.sram 0 2 = [1, 2] ∧
    ended (go (.commandCompletion 9 (.done [])) (tensor 0x13 .running 0x200000000)) = some (0, 8) ∧
    ((go (.tensorRead 9) (tensor 0x13 .started 0x200000000)).findCmd 9).map Cmd.phase = some .running := by
  decide +kernel

theorem witness_OtherHostCommands : ((cmds 0 .started []).startedCmd 9 0).isSome = true ∧ ((cmds 0x21 .started []).startedCmd 9 0x21).isSome = true ∧
    ((cmds 0x20 .started []).startedCmd 9 0x20).isSome = true ∧ ((cmds 0x22 .started []).startedCmd 9 0x22).map (fun c => c.arg 25 1) = some 0 ∧
    ((planCmd .running 0x22 .started [1, 1]).startedCmd 9 0x22).map (fun c => (c.arg 24 1, c.arg 25 1)) = some (1, 1) ∧
    ((cmds 0x22 .running [1, 0, 3]).findCmd 9).map (fun c => (c.phase, c.arg 25 1)) = some (.running, 0) ∧
    ((cmds 0x23 .started []).startedCmd 9 0x23).isSome = true ∧ (cmds 0x24 .started [128]).draining = false ∧
    ((cmds 0x25 .started []).startedCmd 9 0x25).map (fun c => base.dieWorks c.drainDie) = some true ∧
    ((cmds 0x30 .started [1, 0x60, 1]).startedCmd 9 0x30).isSome = true := by
  decide +kernel

theorem test_other_commands : ended (go (.nopCommand 9) (cmds 0 .started [])) = some (0, 0) ∧ ended (go (.journalMark 9) (cmds 0x21 .started [])) = some (0, 9) ∧
    ended (go (.fenceCommand 9) (cmds 0x20 .started [])) = some (0, 0) ∧
    ((go (.healthSweep 9) (cmds 0x22 .started [1])).findCmd 9).map Cmd.phase = some .running ∧
    ended (go (.healthSweep 9) (planCmd .bound 0x22 .started [1])) = some (0x20, 0) ∧
    (go (.healthSweep 9) (planCmd .running 0x22 .started [1, 1])).sweep.map (fun w => w.mask) = some 1 ∧
    ended (go (.commandCompletion 9 (.done [])) (cmds 0x22 .running [1, 0, 3])) = some (0, 4356) := by
  decide +kernel

theorem test_trace_and_dictionary : ended (go (.traceArm 9) (cmds 0x24 .started [128])) = some (0, 0) ∧
    (go (.traceArm 9) (cmds 0x24 .started [0, 0, 0, 0, 0, 0, 5, 0])).trace.armed = true ∧
    ((go (.traceDrain 9) (cmds 0x25 .started [])).findCmd 9).map Cmd.phase = some .running ∧
    ended (go (.commandCompletion 9 (.done [])) (cmds 0x25 .running [])) = some (0, 0) ∧
    ended (go (.repairApply 9) (planCmd .bound 0x23 .started [])) = some (0x20, 0) ∧
    ended (go (.dictRead 9) (cmds 0x30 .started [])) = some (0x50, 0) ∧ ended (go (.dictWrite 9 (.done [])) (cmds 0x31 .started [])) = some (0x50, 0) := by
  decide +kernel

/-! ## A plan image, written from the layouts of chapter 21 -/

/-- `l` with zeros up to `n` bytes. -/
def pad (n : Nat) (l : List Byte) : List Byte :=
  l ++ List.replicate (n - l.length) 0

/-- An entry of the section table (R846). -/
def sect (ty off count : Nat) (l : List Byte) : List Byte :=
  leBytes 2 ty ++ [0, 0] ++ leBytes 4 (crc32c l).toNat ++ leBytes 8 off ++ leBytes 8 l.length ++ leBytes 4 count ++ [0, 0, 0, 0]

/-- SYSMAP of one device with this UID, k 10, 1.000 GHz (R850). -/
def sysmap (uid : List Byte) : List Byte :=
  pad 64 [0, 1, 0, 0, 0, 0, 10, 0] ++ uid ++ pad 8 [0]

/-- One block record: block 0, entry at 0x10000, four bytes of code (R852). -/
def record : List Byte :=
  pad 8 [0, 0] ++ leBytes 8 0x10000 ++ List.replicate 116 0 ++ leBytes 4 4 ++ List.replicate 120 0

/-- A run pattern for each quarter: the first runs every epoch (R858). -/
def power : List Byte :=
  pad 8 [1] ++ pad 8 [1] ++ pad 8 [1] ++ pad 8 [0] ++ pad 8 [1] ++ pad 8 [0] ++ pad 8 [1] ++ pad 8 [0]

/-- The image but for its trailer (R845 to R849). -/
def body (uid : List Byte) : List Byte :=
  [0x4D, 0x44, 0x50, 0x4C, 0, 0, 0, 0] ++ leBytes 8 992 ++ [10, 0, 1, 0, 8, 8, 0, 0, 0, 0, 0, 0, 1, 0, 6, 0] ++ leBytes 8 64 ++ leBytes 8 960
    ++ List.replicate 16 0
    ++ sect 1 256 1 (sysmap uid) ++ sect 3 384 1 record ++ sect 4 640 0 [0, 0, 0, 0] ++ sect 6 704 0 (pad 8 []) ++ sect 7 768 0 (pad 8 []) ++ sect 8 832 0 power
    ++ pad 128 (sysmap uid) ++ record ++ pad 64 [] ++ pad 64 [] ++ pad 64 [] ++ pad 128 power

def image (uid : List Byte) : List Byte :=
  body uid ++ sha256 (body uid)


set_option maxRecDepth 100000 in
theorem witness_image_valid : (planCmd .loading 1 .running []).imageStatus 992 false (image (List.replicate 8 0)) = 0 := by
  decide +kernel

/-- What PLAN_BIND looks at in an image of one device, up to the UID: the header, the section table and the head of SYSMAP. -/
def bindHead : List Byte :=
  List.replicate 30 0 ++ [1, 0] ++ List.replicate 32 0 ++ (leBytes 2 1 ++ List.replicate 6 0 ++ leBytes 8 96 ++ leBytes 8 80 ++ leBytes 4 1 ++ List.replicate 4 0)
    ++ pad 64 [0, 1, 0, 0, 0, 0, 10, 0]

theorem leAt_head {a r : List Byte} {lo n : Nat} (h : lo + n ≤ a.length) : leAt (a ++ r) lo n = leAt a lo n := by
  unfold leAt
  rw [List.drop_append_of_le_length (by omega), List.take_append_of_le_length (by simp; omega)]

theorem leNat_bytes (v : Nat) (h : v < 2 ^ 64) : leAt (leBytes 8 v) 0 8 = v := by
  rw [leAt, List.drop_zero, List.take_of_length_le (by simp [leBytes])]
  simp only [leBytes, leNat, BitVec.toNat_ofNat]
  omega

/-- The image of the device's own UID binds: its one device is this one. -/
theorem witness_image_binds : ∃ (s : State) (c : Cmd) (l : List Byte), s.startedCmd 9 2 = some c ∧ s.plan = .loaded ∧ c.planId = s.planId ∧
    s.trace.armed = false ∧ s.sweeping = false ∧ s.hif.d3hot = false ∧ l.length = s.pl.len ∧ s.bindStatus c l = 0 := by
  have hb : bindHead.length = 160 := by decide +kernel
  have hr : ∀ u : W64, (leBytes 8 u.toNat ++ pad 8 [0]).length = 16 := fun u => by simp [leBytes, pad]
  generalize hx : leBytes 8 Config.uid.toNat ++ pad 8 [0] = r
  have hr : r.length = 16 := by rw [← hx]; exact hr _
  have h0 : leAt r 0 8 = Config.uid.toNat := by
    rw [← hx, leAt_head (by simp [leBytes])]
    exact leNat_bytes _ Config.uid.isLt
  have hd : ∀ lo n, lo + n ≤ 160 → leAt (bindHead ++ r) lo n = leAt bindHead lo n := fun lo n h => leAt_head (by omega)
  have hs : imgSects (bindHead ++ r) = [⟨1, 0, 96, 80, 1⟩] := by
    simp only [imgSects, imgNsect, hd 30 2 (by omega)]
    rw [show leAt bindHead 30 2 = 1 by decide +kernel]
    simp only [List.range_succ, List.range_zero, List.nil_append, List.map_cons, List.map_nil, sectAt]
    rw [hd _ _ (by omega), hd _ _ (by omega), hd _ _ (by omega), hd _ _ (by omega), hd _ _ (by omega)]
    decide +kernel
  have hm : sectBytes (bindHead ++ r) 1 = bindHead.drop 96 ++ r := by
    simp only [sectBytes, findSect, hs]
    rw [show (List.find? (fun e : Sect => decide (e.ty = 1)) [⟨1, 0, 96, 80, 1⟩]) = some ⟨1, 0, 96, 80, 1⟩ from rfl]
    simp only
    rw [List.drop_append_of_le_length (by omega), List.take_of_length_le (by simp; omega)]
  have hz : ∀ ty, ty ≠ 1 → sectBytes (bindHead ++ r) ty = [] ∧ sectCount (bindHead ++ r) ty = 0 := by
    intro ty h
    simp [sectBytes, sectCount, findSect, hs, Ne.symm h]
  have hn : mapN (bindHead ++ r) = 1 := by simp [mapN, sectCount, findSect, hs]
  have hu : mapUid (bindHead ++ r) 0 = Config.uid := by
    simp only [mapUid, hm, Nat.mul_zero, Nat.add_zero, leAt]
    rw [List.drop_append, List.drop_of_length_le (by simp; omega)]
    simp only [List.length_drop, hb, List.nil_append]
    rw [show 64 - (160 - 96) = 0 from rfl]
    change BitVec.ofNat 64 (leAt r 0 8) = _
    rw [h0]; simp
  have hdev : mapDevice (bindHead ++ r) = some 0 := by simp [mapDevice, hn, List.range_succ, hu]
  have ht : imgTarget (bindHead ++ r) = 0 := by rw [imgTarget, hd _ _ (by omega)]; decide +kernel
  have hp : imgPorts (bindHead ++ r) = [] := by
    have hq : ∀ lo, lo + 1 ≤ 64 → leAt (bindHead.drop 96 ++ r) lo 1 = leAt (bindHead.drop 96) lo 1 := fun lo h => leAt_head (by simp; omega)
    simp only [imgPorts, hm, hq 0 (by omega), hq 1 (by omega), hq 2 (by omega), hq 3 (by omega), hq 4 (by omega), hq 5 (by omega), ht]
    decide +kernel
  have hg : ∀ q < 4, imgGeom (bindHead ++ r) q = (0, 0) := by
    intro q h
    rw [imgGeom, hd _ _ (by omega), hd _ _ (by omega)]
    exact (show ∀ q < 4, (leAt bindHead (20 + 2 * q) 1, leAt bindHead (21 + 2 * q) 1) = (0, 0) by decide +kernel) q h
  have htr : ∀ e < 2, imgTrace (bindHead ++ r) e = 0 := by
    intro e h
    rw [imgTrace, hd _ _ (by omega)]
    exact (show ∀ e < 2, 65536 * leAt bindHead (48 + 4 * e) 4 = 0 by decide +kernel) e h
  refine ⟨{ planCmd .loaded 2 .started [] with pl := { PlanRec.reset with sha := sha256 (bindHead ++ r), len := 176 } }, _, bindHead ++ r, rfl, rfl, rfl,
    rfl, rfl, rfl, by simp [hb, hr], ?_⟩
  simp [State.bindStatus, hdev, ht, hp, State.gridOk, hg, State.edgeFits, htr, slotBytes, imgBindings, hz, records]
  exact fun h => absurd h (by decide +kernel)


/-! ## The journal -/

/-- The base state with a journal. -/
def journal (f : Jnl → Jnl) : State :=
  { base with jnl := f { Jnl.reset with next := 7, gen := 3 } }

/-- A record of type `ty` for command 9. -/
def jrec (ty : BitVec 8) : Rec :=
  ⟨ty, 5, 9, 0, 0, 1, 0, 1, 0, 0, 0⟩

/-- An event of kind 0x0102. -/
def event : Event := ⟨0x0102, 1, 2, 3, 4, 0⟩

theorem witness_JournalWriter : (jrec 2).ty ≠ 0 ∧ (journal id).supply.pfw = false ∧
    (journal fun j => { j with cmdRecs := [jrec 2] }).jnl.cmdRecs = [jrec 2] ∧
    (((cmds 1 .accepted []).findCmd (jrec 2).ref).map fun c => c.gone) = some 0 ∧
    (∀ q ∈ base.hif.queues, q.2.fetched = []) ∧ (journal fun j => { j with fifo := [.event event] }).jnl.lastEvent = false ∧
    (journal fun j => { j with holding := some (jrec 1, cmd 1 .accepted []) }).jnl.fifo = [] := by
  decide +kernel

theorem test_commit : (go .journalCommit { cmds 1 .accepted [] with jnl := { Jnl.reset with next := 7, gen := 3, cmdRecs := [jrec 2] } }).jnl.next = 8 ∧
    leAt ((go .journalCommit (journal fun j => { j with fifo := [.event event] })).jnl.slot 7) 0 8 = 7 ∧
    ((go .journalCommit (journal fun j => { j with fifo := [.event event] })).jnl.slot 7)[50]? = some 0x10 ∧
    (go .journalCommit (journal fun j => { j with fifo := [.summary ⟨0x0700, 4, 1, 2, 0⟩] })).jnl.summarised = 4 ∧
    (go .journalCommit (journal fun j => { j with holding := some (jrec 1, cmd 1 .accepted []) })).hif.cmds.map (fun c => c.seq) = [7] := by
  decide +kernel

theorem witness_JournalEvents : base.jnl.counters = [] ∧ base.jnl.fifo.length < 128 ∧
    (journal fun j => { j with counters := [⟨0x0700, 1, 0, 0, 0⟩] }).jnl.counters ≠ [] ∧
    128 ≤ (journal fun j => { j with fifo := List.replicate 128 (.event event) }).jnl.fifo.length ∧ base.hif.linkUp = true := by
  decide +kernel

theorem test_events : (go (.eventRaise 0x0102 1 2 3) base).jnl.fifo.length = 1 ∧
    (go (.eventRaise 0x0102 1 2 3) (journal fun j => { j with fifo := List.replicate 128 (.event event) })).jnl.counters.map (fun c => c.count) = [1] ∧
    (go (.eventRaise 0x0102 1 2 3) (journal fun j => { j with counters := [⟨0x0102, 6, 0, 0, 0⟩] })).jnl.counters.map (fun c => c.count) = [7] ∧
    (go .summaryClose (journal fun j => { j with counters := [⟨0x0102, 6, 0, 0, 0⟩] })).jnl.fifo = [.summary ⟨0x0102, 6, 0, 0, 0⟩] ∧
    (go (.journalWindowRead 3 .uncorrectable) base).hif.readOut = some (List.replicate 64 0xFF) := by
  decide +kernel

/-! ## Integrity and trace -/

/-- The running plan with a sweep of Q0 and a window of eight segments of block 0 from cycle 192. -/
def sweeping (segs : Nat) : State :=
  let s := plan 192
  { s with
    sweep := some ⟨9, 1, 1, 100, 0, [], 0⟩
    pl := { s.pl with sweeps := [⟨0, 8, 192, true⟩] }
    blocks := [(0, { Block.reset with integ := { Integ.reset with segs := segs } })] }

theorem witness_Scrubbing : base.scrubs 0 = true ∧ State.reset.scrubs 0 = false ∧ (sweeping 0).runningPart = true ∧ (sweeping 0).plan = .running ∧
    (sweeping 0).openWindow 0 = some (⟨0, 8, 192, true⟩, 256) ∧ nextTest 1 0 true = some 0 ∧ ((sweeping 0).sweep.map fun w => w.mask.testBit 0) = some true ∧
    0 + 1 < windowSegs 0 ∧ windowSegs 0 ≤ (windowSegs 0 - 1) + 1 ∧ ({ sweeping 0 with plan := .bound }).sweep.isSome = true ∧
    (sweeping 0).allTested ⟨9, 1, 1, 100, 0, [], 0⟩ = false ∧ (sweeping 0).toAcy (0 + 100 * 25000) = none ∧ (sweeping 0).toAcy 9 ≠ none := by
  decide +kernel

theorem test_scrub : ((go (.scrubLine 0 .clean) (blk0 fun x => { x with integ := { x.integ with scrubLine := 6143 } })).blk 0).integ.scrubLine = 0 ∧
    (go (.scrubLine 0 (.corrected [2])) base).counter 0x4010 1 = 1 ∧ (go (.scrubLine 0 (.uncorrectable 2)) base).counter 0x4010 2 = 1 ∧
    (go (.retentionScrub (.corrected [0, 1])) base).counter 0x4001 3 = 2 ∧ (go (.retentionScrub (.uncorrectable 0)) base).jnl.raised = 1 := by
  decide +kernel

theorem test_sweep : ((go (.sweepWindowSegment 0 none none) (sweeping 0)).blk 0).integ.segs = 1 ∧
    (go (.sweepWindowSegment 0 none none) (sweeping 0)).epoch.cycle = 256 ∧
    ((go (.sweepWindowSegment 0 none none) (sweeping (windowSegs 0 - 1))).blk 0).integ.tested = 1 ∧
    (go .sweepEnd { sweeping 0 with plan := .bound }).sweep = none ∧ (go .sweepEnd (sweeping 0)).sweep.isSome = true := by
  decide +kernel

/-- Block 0 traced, with a packet being formed. -/
def traced (f : Trc → Trc) : State :=
  { blk0 fun x => { x with trc := f { Trc.reset with en := true, ctxMask := 31, form := [1, 2] } } with
    trace := { TraceSys.reset with armed := true } }

/-- A trace packet of block 0. -/
def tpkt : TrcPacket := ⟨0, 4, [7]⟩

/-- The trace system with one entry of 64 bytes at the sink of E0, whose ring of two entries stands at 4096. -/
def sunk (host : Bool) (held : Nat) : State :=
  { base with trace := { TraceSys.reset with armed := true, host := host, hostAddr := 0x2000, hostLen := 128,
                                             sink0 := { Sink.reset with buf := [List.replicate 64 9], base := 4096, size := 128, held := held } } }

theorem witness_TraceCommands : ((traced fun x => { x with closed := [(.full, tpkt)] }).blk 0).trc.closed = [(.full, tpkt)] ∧
    ((traced fun x => { x with node := List.replicate 4 tpkt }).blk 0).trc.node.length = 4 ∧ ((traced id).blk 0).trc.outcomes = [] ∧
    ((traced id).blk 0).trc.form ≠ [] ∧ (traced id).tracing 0 = true ∧ base.tracing 0 = false ∧
    (traced id).traced 0 ((traced id).blk 0).priv.ctx = true ∧ ((traced id).blk 0).trc.chanC = false ∧
    (traced id).passWithin (0 + 4096 - 0) ≠ none ∧ (traced id).ticks 0 = 0 ∧ (traced id).passWithin ((traced id).gtsLeft 0) ≠ none ∧
    (traced fun x => { x with gtsInt := 2048, lastGts := 2047 }).gtsLeft 0 = 2048 ∧
    ((sunk false 0).sink .e0).takes false = true ∧ ((sunk false 2).sink .e0).takes false = false ∧ (sunk true 0).hif.quiet = false ∧
    ({ sunk true 0 with hif := { base.hif with d3hot := true } }).hif.quiet = true ∧ base.hif.cmds = [] ∧ (traced fun x => { x with node := [tpkt] }).footpath = [] ∧
    ((traced fun x => { x with node := [tpkt] }).sink ((traced fun x => { x with node := [tpkt] }).sinkDie 0)).buf = [] ∧
    ({ base with trace := { TraceSys.reset with armed := true, disarming := true } }).traceDone = true := by
  decide +kernel

theorem test_trace : (go (.tracePacketClose 0 .full) (traced fun x => { x with closed := [(.full, tpkt)] })).counter 0x6000 2 = 1 ∧
    (go (.tracePacketClose 0 .full) (traced fun x => { x with closed := [(.full, tpkt)], node := List.replicate 4 tpkt })).counter 0x6000 4 = 1 ∧
    ((go (.trcMarkWrite 0 0x1234) (traced id)).blk 0).trc.form = [1, 2, 0x0C, 0x34, 0x12] ∧
    (((go (.gts 0) (traced id)).blk 0).trc.form.drop 2).head? = some 9 ∧ ((go (.tracePacketTimeout 0) (traced id)).blk 0).trc.node.length = 1 ∧
    (go (.traceTransitTimeout 0) (traced fun x => { x with node := [tpkt] })).counter 0x6000 4 = 1 ∧
    (go .traceDisarmComplete { base with trace := { TraceSys.reset with armed := true, disarming := true } }).trace.armed = false := by
  decide +kernel

theorem test_sink : mload (go (.sinkStore .e0 true) (sunk false 0)).edge0.sram 4096 9 = [9, 9, 9, 9, 1, 0, 0, 0, 9] ∧
    ((go (.sinkStore .e0 true) (sunk false 2)).sink .e0).lost = 1 ∧
    mload (go (.sinkStore .e0 true) (sunk true 0)).hostMem 0x2000 5 = [9, 9, 9, 9, 1] := by
  decide +kernel

/-! ## Time, clocks and temperature -/

/-- The base state with a system time. -/
def timed (f : Time → Time) : State :=
  { base with time := f { Time.reset with ns := 999999000, sec := 5, valid := true } }

theorem witness_TimeCommands : (timed fun m => { m with stage := 0x700000005 }).planMoves = false ∧ (timed id).epoch.active = false ∧
    (timed fun m => { m with stage := 0x700000005 }).time.stage.toNat % 2 ^ 32 ≤ 999999999 ∧ (plan 0).planMoves = true ∧
    999999999 < (timed fun m => { m with stage := 0x73B9ACA00 }).time.stage.toNat % 2 ^ 32 ∧ (timed id).acyFrac < (timed id).perAcy ∧
    (timed id).time.slew = 0 ∧ (timed id).time.ns < 1000000000 ∧ (2 : Byte).getLsbD 0 = false ∧
    (timed fun m => { m with slewing := true, slew := 3 }).time.slewing = true ∧
    (timed fun m => { m with source := 2, ppsLast := some 0 }).acy ≤ 0 + 37500000 ∧ (timed fun m => { m with ns := 80 }).edgeOffset 20 = 100 ∧
    (timed fun m => { m with ns := 999999990 }).edgeOffset 7 = -3 := by
  decide +kernel

theorem test_time : (go (.apply none 1) (timed fun m => { m with stage := 0x700000005 })).time.sec = 7 ∧
    (go (.apply none 1) (timed fun m => { m with stage := 0x700000005 })).time.ns = 5 ∧
    (go (.apply none 1) (timed fun m => { m with stage := 0x73B9ACA00 })).time.refused = true ∧ (go .timeSecondRollover (timed id)).time.sec = 6 ∧
    (go .slewEnd (timed fun m => { m with slewing := true, slew := 3 })).time.slewing = false ∧ (go .aonTimeNsRead (timed id)).time.shadow = 5 := by
  decide +kernel

theorem test_pps : (go (.ppsEdge 20) (timed fun m => { m with ns := 0, source := 2, ppsLast := some 0, run20 := 7 })).time.tlock = true ∧
    (go (.ppsEdge 20) (timed fun m => { m with ns := 0, source := 2, ppsLast := some 0, run20 := 6 })).time.tlock = false ∧
    (go (.ppsEdge 21) (timed fun m => { m with ns := 80, source := 2, ppsLast := some 0, tlock := true })).time.tlock = false ∧
    (go (.ppsEdge 20) (timed id)).time.ppsPresent = false ∧
    (go .timeLockTimeout (timed fun m => { m with source := 2, ppsPresent := true })).time.source = 0 ∧
    (go .frequencyLockLoss (timed fun m => { m with flock := true })).time.flock = false ∧
    (go .ppsOutput (timed fun m => { m with ns := 5 })).time.ppsOut = true := by
  decide +kernel

theorem witness_ClockMonitors : (base.monitor 3).failed = false ∧ (4 : BitVec 4).toNat ≤ 10 ∧ (base.port 0).st ≠ .disabled ∧ (plan 200).plan = .running ∧
    (({ base with clkmon := [(3, ⟨true, 0, 1⟩)] }).monitor 3).failed = true := by
  decide +kernel

theorem test_clocks : ((go (.clockMonitorFailure 3 0 false 900) base).pll 0).st = .off ∧ (go (.clockMonitorFailure 0 0 false 900) base).fastUp = false ∧
    (go (.clockMonitorFailure 8 0 true 0) base).dieWorks .e1 = false ∧ (go (.clockMonitorFailure 10 0 true 0) base).hif.linkUp = false ∧
    ((go (.clockMonitorFailure 9 0 true 0) (port id)).port 0).cause = 2 ∧ (go (.clockMonitorFailure 4 0 true 0) (plan 200)).plan = .halted ∧
    (go (.clockMonitorGood 3 5) { base with clkmon := [(3, ⟨true, 0, 1⟩)] }).monitor 3 = ⟨false, 5, 1⟩ := by
  decide +kernel

/-- The base state with a reading at site 8. -/
def hot (x : BitVec 16) (f : Thermal → Thermal) : State :=
  { base with thermal := f { Thermal.reset with sites := [(8, ⟨x, true, false, 0⟩), (72, ⟨x, true, false, 0⟩)] } }

theorem witness_ThermalCommands : base.sitePowered 72 = true ∧ ({ base with supply := Supply.reset }).sitePowered 0 = false ∧
    (hot 700 id).peakTemp = some 700 ∧ (hot 700 id).thermal.trip = false ∧ (hot 479 fun t => { t with trip := true }).siteValid 72 = true ∧
    ((hot 479 fun t => { t with trip := true }).site 72).temp.toInt < 480 ∧ 480 ≤ ((hot 480 id).site 72).temp.toInt := by
  decide +kernel

theorem test_thermal : (go (.sensorConversion 8 760) (hot 700 id)).thermal.warn = true ∧ (go (.sensorConversion 8 759) (hot 700 id)).thermal.warn = false ∧
    (go (.sensorConversion 8 720) (hot 700 fun t => { t with warn := true })).thermal.warn = true ∧
    (go (.sensorConversion 8 719) (hot 700 fun t => { t with warn := true })).thermal.warn = false ∧
    (go (.sensorConversion 8 840) (hot 700 id)).thermal.stop = true ∧ ((go (.sensorConversion 8 1201) (hot 700 id)).site 8).failed = true ∧
    (go (.thermtripAssert 3) (hot 700 id)).boot.st = .standby ∧ (go .thermtripRelease (hot 479 fun t => { t with trip := true })).thermal.trip = false ∧
    (go .thermtripRelease (hot 480 fun t => { t with trip := true })).thermal.trip = true := by
  decide +kernel

/-! ## Supplies, resets and boot -/

/-- The base state with a supply state. -/
def supplied (f : Supply → Supply) : State :=
  { base with supply := f base.supply, boot := { base.boot with board := 0x3FFF } }

/-- A reading of rail 5. -/
def rail (hard failed : Bool) : RailReading := ⟨5, 0, 0, 0, 0, hard, failed⟩

theorem witness_SupplyCommands : (supplied fun x => { x with pwr := .up 1 }).supply.pwr = .up 1 ∧ (supplied fun x => { x with pwr := .down 2 }).supply.again = false ∧
    base.supply.pfw = false ∧ base.boot.st ≠ .off ∧ (supplied fun x => { x with pfw := true }).boot.st.inRom = false ∧ sequenced 5 = true ∧
    (supplied id).railOn 5 = true ∧ (rail true false).hardFault = true ∧ (rail false true).rail < 14 := by
  decide +kernel

theorem test_supply : (go .powerUpStep (supplied fun x => { x with pwr := .up 1 })).supply.pwr = .up 2 ∧
    (go .powerUpStep (supplied fun x => { x with pwr := .up 1 })).supply.good = 0x20 ∧
    (go (.powerStepTimeout 5) (supplied fun x => { x with pwr := .up 1 })).supply.pwr = .down 4 ∧
    (go .powerDownOrder (supplied fun x => { x with pwr := .down 2 })).supply.pwr = .off ∧
    (go (.powerStepTimeout 0) (supplied fun x => { x with pwr := .down 2 })).supply.pwr = .down 1 ∧
    (go .powerFailWarning (supplied id)).bp = true ∧ (go .powerFailRecovery (supplied fun x => { x with pfw := true, pwr := .off })).supply.pwr = .up 1 ∧
    (go (.lossOfVaon18 0) (supplied id)).boot.st = .off ∧ (go .arm base).supply.latch = true ∧
    (go (.smbalertN (rail true false)) (supplied id)).boot.st = .standby ∧ (go (.railPoll [rail false true]) (supplied id)).jnl.raised = 1 := by
  decide +kernel

theorem witness_ResetCommands : (4 : BitVec 4).toNat ∈ (supplied fun x => { x with due := [4] }).supply.due ∧ base.fastUp = true ∧ base.hif.cmds = [] ∧
    4 ∈ (supplied fun x => { x with holders := [4] }).supply.holders ∧ (base.monitor 0).failed = false ∧ base.supply.rstn = none ∧
    base.epoch.active = false ∧ base.acyFrac < base.perAcy ∧ base.wdtRuns = false ∧ (supplied fun x => { x with perstn := true }).supply.perstn = true ∧
    ({ supplied fun x => { x with wdt := some 0 } with boot := { base.boot with st := .idle } }).wdtRuns = true ∧
    (supplied fun x => { x with wdt := some 0 }).toAcy (0 + 2000 * 25000) ≠ none ∧
    (plan 200).toAcy 1000 = none ∧ (4 : Nat) ∉ [5, 7] := by
  decide +kernel

theorem test_resets : (go (.fastDomainReset 4) (supplied fun x => { x with due := [4] })).supply.holders = [4] ∧
    (go (.fastDomainReset 4) (supplied fun x => { x with due := [4] })).jnl.next = 1 ∧
    (go (.fastDomainReset 5) (supplied fun x => { x with due := [5] })).jnl.gen = 1 ∧
    (go (.fastDomainRelease 4) (supplied fun x => { x with holders := [4] })).supply.holders = [] ∧
    (go .rstNAssert (supplied id)).fastUp = false ∧ (go .resetStuck (supplied fun x => { x with rstn := some 0 })).supply.stuck = true ∧
    (go (.rstNDeassert 8000) (supplied fun x => { x with rstn := some 0, holders := [2] })).jnl.gen = 1 ∧
    (go (.rstNDeassert 7999) (supplied fun x => { x with rstn := some 0, holders := [2] })).jnl.gen = 0 ∧
    (go .perstNAssert (supplied id)).supply.src = 3 ∧
    (go .watchdogExpiry (supplied fun x => { x with wdt := some 0 })).boot.restart = true := by
  decide +kernel

/-- The boot meets nothing unexpected. -/
def meets : BootInput := ⟨[], some 8, [], [], [], [], 16, 640, true⟩

/-- The state after the boot ROM, with the rails up. -/
def atEdge : State :=
  { supplied id with boot := { base.boot with st := .edge, board := 0x3FFF }, qpll := [] }

/-- A clause on an image that verifies rests on the signature check, a free function (log entry 3): here, the slots that are erased select none. -/
theorem witness_BootCommands : State.reset.boot.st = .off ∧ base.boot.st ≠ .off ∧
    ({ State.reset with boot := { Boot.reset with st := .flash } }).boot.st = .flash ∧
    (({ State.reset with boot := { Boot.reset with st := .flash } }).chooseSlot meets).2 = none ∧ atEdge.boot.st = .edge ∧ atEdge.fastUp = true ∧
    meets.startFailures = [] ∧ atEdge.restricted = false ∧ ({ atEdge with restricted := true }).fastUp = true ∧
    ({ atEdge with boot := { atEdge.boot with st := .links } }).boot.st = .links ∧
    ({ base with boot := { base.boot with idleAt := some 0 } }).boot.slot = some 0 ∧ (base.slotImg 0).confirmed = false ∧
    ({ base with boot := { base.boot with idleAt := some 0 } }).toAcy (0 + 60 * 25000000) ≠ none := by
  decide +kernel

/-- The device without power, its retention kept; the last plan identifier stands in two copies. -/
def kept : State :=
  { State.reset.freshRetention.retain 4 [9, 0, 0, 0] with supply := { Supply.reset with latch := true } }

theorem witness_retained : (kept.ret.find? fun e => decide (e.1 = 4)).map (fun p => (p.2.newer.count, p.2.older.map RetCopy.count)) = some (2, some 1) ∧
    kept.boot.st = .off ∧ kept.supply.latch = true ∧ (∀ n ∈ [1, 2, 3, 4], kept.retained [] n ≠ none) ∧ kept.retained [] 4 = some [9, 0, 0, 0] ∧
    kept.retained [(4, true, [3])] 4 = some [0, 0, 0, 0] ∧ kept.retained [(4, true, [3]), (4, false, [70])] 4 = none := by
  decide +kernel

theorem test_retained : (go (.aonPowerOn 0 [] true []) kept).supply.warm = true ∧ (go (.aonPowerOn 0 [] true []) kept).lastPlanId = 9 ∧
    (go (.aonPowerOn 0 [(4, true, [3])] true []) kept).supply.warm = true ∧ (go (.aonPowerOn 0 [(4, true, [3])] true []) kept).lastPlanId = 0 ∧
    (go (.aonPowerOn 0 [(4, true, [3]), (4, false, [70])] true []) kept).supply.warm = false := by
  decide +kernel

theorem test_board : boardRails meets = 0 ∧ bootDummy meets 8 = 8 ∧ boardRails { meets with board := List.replicate 256 0 } = 0 ∧
    (go .powerUpStep { supplied (fun x => { x with pwr := .up 1 }) with boot := { base.boot with board := 0x20 } }).supply.pwr = .down 4 := by
  decide +kernel

/-- The journal generation and one object in flash, in one copy each. -/
def flashed : State := (kept.setFlash [(0x110001, 77)]).retain recGeneration (leBytes 8 0)

theorem test_flash_records : (go (.aonPowerOn 0 [] true []) flashed).station = 77 ∧ (go (.aonPowerOn 0 [] true []) flashed).supply.warm = true ∧
    (go (.aonPowerOn 0 [] true [(19, true)]) flashed).station = 0 := by
  decide +kernel

theorem test_generations : (go (.aonPowerOn 0 [] true []) (flashed.retain recGeneration (leBytes 8 3))).supply.warm = false ∧
    (go (.aonPowerOn 0 [] true []) (flashed.retain recGeneration (leBytes 8 3))).jnl.gen = 4 ∧
    (go (.aonPowerOn 0 [] true [(16, true)]) (flashed.retain recGeneration (leBytes 8 3))).supply.warm = true := by
  decide +kernel

theorem test_boot : (go (.aonPowerOn 0 [] true []) State.reset).boot.st = .flash ∧ (go (.aonPowerOn 0 [] true []) State.reset).jnl.gen = 1 ∧
    (go (.bootSequence { meets with sfdp := none }) { State.reset with boot := { Boot.reset with st := .flash } }).boot.st = .recovery ∧
    (go (.bootSequence meets) atEdge).hif.ready = true ∧
    (go (.bootSequence { meets with startFailures := [(1, 2, 3, 4), (0, 1, 2, 0)] }) atEdge).counter 0x4000 2 = 1 + 32 + 768 := by
  decide +kernel

/-! ## Elette and the dictionary -/

/-- A datagram for target 5 that names object 0x1110:03. -/
def dgram (op : Byte) : Datagram := ⟨op, 1, 5, 0, 0x1110, 3, 0, 4, 0, [0, 8, 0, 0], 0, 0, 0, 0⟩

/-- Station 5 with a frame in passage whose next datagram is `dg`. -/
def passing (dg : Datagram) (f : EltFrame → EltFrame) : State :=
  { supplied id with station := 5, elt := { Elt.reset with link0 := true, link1 := true, delay := 7, frame := some (f ⟨true, [], [dg], [], false, 3, [], []⟩) } }

/-- Station 5 once every datagram has passed. -/
def passed (f : EltFrame → EltFrame) : State := passing (dgram 0) fun x => f { x with rest := [] }

theorem witness_EletteFrames : (passing (dgram 0x10) id).elt.frame = some ⟨true, [], [dgram 0x10], [], false, 3, [], []⟩ ∧
    ((passing (dgram 0x10) id).station ≠ 0 ∧ (dgram 0x10).target = (passing (dgram 0x10) id).station) ∧
    (passing (dgram 0x10) id).dictCheck .elette false 0x1110 3 false (fun t => t.fits 4) = .ok ∧ isDeferred 0x1110 3 = false ∧
    (passing (dgram 0x11) id).dictCheck .elette true 0x1110 3 false (fun t => t.fits 4) = .ok ∧
    (passing (dgram 0x11) id).valueOk 0x1110 3 [0, 8, 0, 0] = true ∧
    (passing (dgram 0x31) id).dictCheck .elette true 0x1110 3 true (fun t => t.fits 4) = .ok ∧ (dgram 0x31).data.length = (dgram 0x31).len ∧
    objInfo 0x1110 9 = none ∧ isDeferred 0x2220 1 = true ∧ (passing (dgram 0x10) id).dictCheck .elette false 0x2220 1 false (fun t => t.fits 1) = .ok ∧
    (passing (dgram 0x10) id).deferredHeld ⟨true, [], [], [], false, 3, [], []⟩ < 8 ∧
    8 ≤ (passing (dgram 0x10) id).deferredHeld ⟨true, [], [], [], false, 3, List.replicate 8 (.request ⟨0, 0, 0, false, 0, [], false⟩), []⟩ ∧
    (objInfo 0x1110 3).isSome = true ∧ (passing (dgram 0x30) id).dictCheck .elette false 0x1110 3 true (fun _ => decide (4 % 4 = 0)) = .ok ∧
    (passed id).boot.st ≠ .off ∧ ((passed id).monitor 2).failed = false ∧ (passed id).elt.outLink = true ∧
    ([dgram 0x40, dgram 0].flatMap dgBytes).length = 36 := by
  decide +kernel

theorem test_datagrams : (go (.sget (dgram 0x10) .ok) (passing (dgram 0x10) id)).elt.frame.map (fun f => f.out) =
      some [{ dgram 0x10 with data := [7, 0, 0, 0], tally := 1, last := 5, hops := 1 }] ∧
    (let d := { dgram 0x10 with target := 6 }; (go (.sget d .ok) (passing d id)).elt.frame.map fun f => f.out.map Datagram.tally) = some [0] ∧
    (go (.sput (dgram 0x11)) (passing (dgram 0x11) id)).elt.frame.map (fun f => f.acts) = some [.write 0x1110 3 [0, 8, 0, 0]] ∧
    (let d := { dgram 0x20 with hops := 5 }; (go (.pget d .ok) (passing d id)).elt.frame.map fun f => f.out.map Datagram.tally) = some [1] ∧
    (let d := { dgram 0x21 with sub := 9, hops := 5 }; (go (.pput d) (passing d id)).elt.frame.map fun f => f.out.map Datagram.status) = some [0x10] ∧
    (go (.allput (dgram 0x31)) (passing (dgram 0x31) id)).elt.frame.map (fun f => f.acts.length) = some 1 := by
  decide +kernel

theorem test_datagrams_all :
    (go (.gather (dgram 0x30) .ok) (passing (dgram 0x30) id)).elt.frame.map (fun f => f.out.map Datagram.data) = some [[7, 0, 0, 0]] ∧
    (let d := { dgram 0x30 with hops := 1 }; (go (.gather d .ok) (passing d id)).elt.frame.map fun f => f.out.map Datagram.data) = some [[0, 8, 0, 0]] ∧
    (let d := { dgram 0x40 with len := 0, data := [] }; (go (.tlatch d) (passing d id)).elt.frame.map fun f => f.acts) = some [.latch] ∧
    (let d := { dgram 0x41 with index := 0, sub := 0, len := 8, data := List.replicate 8 0 }
     (go (.tdist d) (passing d id)).elt.frame.map fun f => f.out.map Datagram.data) = some [[3, 0, 0, 0, 0, 0, 0, 0]] := by
  decide +kernel

theorem test_frames : (go (.eletteFrameEndApply (crc32 []) false 8) (passed fun f => { f with acts := [.write 0x1110 3 [0, 8, 0, 0]] })).elt.delay = 2048 ∧
    (go (.eletteFrameEndApply 1 false 8) (passed fun f => { f with acts := [.write 0x1110 3 [0, 8, 0, 0]] })).elt.fcsErr = 1 ∧
    (go (.eletteFrameEndApply (crc32 []) false 8) (passed fun f => { f with acts := [.latch] })).elt.t0 = 3 ∧
    (go (.eletteFrameEndApply (crc32 []) false 8) (passed fun f => { f with bad := true })).elt.malformed = 1 ∧
    (go (.eletteReturnForward ⟨leBytes 4 0xFFFFFFFF, false⟩) (passed id)).elt.fcsErr = 1 ∧
    (go (.phyLinkPoll true false) { passed id with elt := { (passed id).elt with frame := none } }).elt.looped = true := by
  decide +kernel

/-- The datagrams of the worked example after R582 as they reach station 3: TLATCH, and SGET of 0x1100:01 for station 3. -/
def exampleDatagrams : List Datagram := [⟨0x40, 0, 0, 2, 0, 0, 0, 0, 0, [], 0, 2, 2, 0⟩, ⟨0x10, 0, 3, 2, 0x1100, 1, 0, 1, 0, [0], 0, 0, 0, 0⟩]

/-- Station 3 with the frame of that example received: 64 bytes, COUNT 2, AREA 29. -/
def exampleFrame : State :=
  go (.eletteFrameReceive (List.replicate 12 0) 0x88B5 1 2 29 (exampleDatagrams.flatMap dgBytes ++ List.replicate 13 0))
    { passed id with station := 3, elt := { (passed id).elt with frame := none } }

theorem test_frame_parsed : exampleFrame.elt.frame.map (fun f => (f.rest, f.bytes.length + 4, f.bad)) = some (exampleDatagrams, 64, false) := by
  decide +kernel

/-- The values of steps 5 and 6 of the example. -/
theorem test_frame_sent :
    let s := go (.sget ⟨0x10, 0, 3, 2, 0x1100, 1, 0, 1, 0, [0], 0, 0, 0, 0⟩ .ok) (go (.tlatch ⟨0x40, 0, 0, 2, 0, 0, 0, 0, 0, [], 0, 2, 2, 0⟩) exampleFrame)
    (s.elt.frame.map fun f => ([35, 42, 43, 44, 45].map fun i => f.sent.getD i 0, f.sent.getD 29 0)) = some ([3, 3, 0, 1, 3], 3) := by
  decide +kernel

/-- A deferred request that stands, and a flash copy that waits. -/
def deferred (r : DefReq) : State :=
  { passed id with
    elt := { (passed id).elt with requests := [r], mailbox := [⟨9, 0, 0, 0, []⟩] }, dirty := [⟨0x222001, 0, .none⟩]
    flash := [(0x110001, 5)] }

/-- A read of 0x2220:02 and a write of 99 to it, whose least value is 100. -/
def reads : DefReq := ⟨1, 0x2220, 2, false, 2, [], false⟩

def writes : DefReq := ⟨1, 0x2220, 2, true, 2, [99, 0], false⟩

/-- A full line buffer, whose oldest line is the one that the core is fetching from. -/
def fullBuffer : State :=
  { base with elt := { Elt.reset with lines := [1, 2, 3, 4, 5, 6, 7, 0].map fun n => ⟨n, List.replicate 32 0, true⟩ } }

theorem test_eviction : (go (.lineBufferFill 9 true (List.replicate 32 0)) fullBuffer).elt.lines.map LbLine.line = [9, 1, 2, 3, 4, 5, 6, 0] := by
  decide +kernel

theorem witness_DeferredService : (deferred reads).elt.requests = [reads] ∧ reads.served = false ∧ (deferred reads).coreRuns = true ∧
    (deferred writes).valueOk 0x2220 2 [99, 0] = false ∧ base.elt.requests = [] ∧ (deferred reads).elt.mailbox = [⟨9, 0, 0, 0, []⟩] ∧
    1 ≤ (deferred reads).authority .host ∧ (deferred reads).dirty = [⟨0x222001, 0, .none⟩] ∧ base.boot.xip = true ∧
    (∀ x ∈ (deferred reads).elt.lines, x.1 ≠ 3) ∧ State.reset.boot.xip = false ∧
    (deferred reads).missing = none ∧ fullBuffer.elt.lines.length = 8 ∧ (fullBuffer.elt.lines.map LbLine.line).Nodup ∧ fullBuffer.missing = none ∧
    flashLine (fullBuffer.blk mgmtCore).core.pc.toNat = 0 ∧ (flashCore.modElt fun e => { e with lines := [] }).missing = some 2 := by
  decide +kernel

theorem test_deferred : (go .deferredRequestServed (deferred reads)).elt.mailbox.getLast? = some ⟨1, 0, 0x2220, 2, [0xD0, 7]⟩ ∧
    (go .deferredRequestServed (deferred writes)).elt.mailbox.getLast? = some ⟨1, 0x14, 0x2220, 2, []⟩ ∧
    (go .deferredRequestTimeout (deferred reads)).elt.mailbox.getLast? = some ⟨1, 0x17, 0x2220, 2, []⟩ ∧
    (go (.mailboxEntryRemove .host 9) (deferred reads)).elt.mailbox = [] ∧ (go (.flashCopyCommit true) (deferred reads)).flashValue 0x222001 = 0 ∧
    (go (.flashCopyCommit false) (deferred reads)).jnl.raised = 1 ∧ (go (.lineBufferFill 3 true (List.replicate 32 0)) base).elt.misses = 1 := by
  decide +kernel

/-- The unlock exchange of the Elette path; whether a response verifies is a free function (log entry 3), so its clauses have the premise for witness. -/
def unlocking (f : Unlock → Unlock) : State :=
  { supplied id with unlock := [(0, f Unlock.reset)] }

/-- A response that asks for a lease of one second. -/
def answer : List Byte := [1, 0] ++ List.replicate 64 0

theorem witness_DictionaryRequests : (unlocking id).coreRuns = true ∧ (unlocking id).lockedOut .elette = false ∧
    (unlocking fun u => { u with lockout := some 60 }).lockedOut .elette = true ∧ answer.length = 66 ∧
    (unlocking fun u => { u with challenge := some ([], 0) }).validChallenge .elette = some [] ∧ leAt answer 0 2 = 1 ∧
    (unlocking id).validChallenge .elette = none ∧ base.keys = [] ∧ (unlocking id).provisioned = false ∧
    ({ base with keys := [(0, List.replicate 32 1)] }).provisioned = true ∧ (unlocking id).authority .elette = 1 ∧
    (unlocking fun u => { u with lease := some 9 }).authority .elette = 2 ∧
    ((unlocking fun u => { u with lease := some 9 }).unlockOf .elette).lease = some 9 ∧ (unlocking fun u => { u with lease := some 9 }).toAcy 9 ≠ none ∧
    ((unlocking fun u => { u with lockout := some 60 }).unlockOf .elette).lockout = some 60 ∧
    (unlocking fun u => { u with lockout := some 60 }).toAcy 60 ≠ none ∧ base.authority .firmware = 2 ∧ base.plan ∈ [PlanSt.empty, .loading, .loaded] ∧
    base.fastUp = true ∧ (plan 0).plan ∈ [PlanSt.bound, .starting, .running, .stopping, .halted] ∧
    ({ base with boot := { base.boot with st := .standby, board := 0x20 }, supply := Supply.reset }).supply.pwr = .off ∧
    (supplied fun x => { x with rstn := some 0 }).supply.rstn.isSome = true ∧ ({ base with restricted := true }).restricted = true := by
  decide +kernel

theorem test_unlock : (go (.challenge .elette) (unlocking id)).dictOut.1 = 0 ∧ (go (.challenge .elette) (unlocking fun u => { u with lockout := some 60 })).dictOut.1 = 0x11 ∧
    (go (.response .elette answer) (unlocking id)).dictOut.1 = 0x14 ∧
    ((go (.response .elette answer) (unlocking fun u => { u with challenge := some ([], 0), run := 7 })).unlockOf .elette).lockout = some 1500000000 ∧
    ((go (.leaseEndRequest .elette 1) (unlocking fun u => { u with lease := some 9 })).unlockOf .elette).lease = none ∧
    (go (.custodianKeyWrite .host 0 (List.replicate 32 1)) (unlocking id)).keys = [(0, List.replicate 32 1)] ∧
    (go (.custodianKeyWrite .elette 0 (List.replicate 32 1)) (unlocking id)).dictOut.1 = 0x11 := by
  decide +kernel

theorem test_requests : (go (.deviceStateRequest .host 2) (supplied id)).boot.st = .standby ∧ (go (.deviceStateRequest .host 2) (plan 0)).dictOut.1 = 0x54 ∧
    (go (.deviceStateRequest .host 1) { base with boot := { base.boot with st := .standby, board := 0x20 }, supply := Supply.reset }).supply.pwr = .up 1 ∧
    (go (.fastResetRequest none 1) base).supply.due = [4] ∧ (go (.retentionClearRequest (some .host) 1) base).dictOut.1 = 0x52 ∧
    (go (.retentionClearRequest (some .firmware) 1) base).supply.due = [5] ∧ (go (.rstNOverride .host 1) base).dictOut.1 = 0x52 ∧
    (go (.restrictedOverride .firmware 1) { base with restricted := true }).boot.st = .links ∧
    ((go (.alignLossClear .host 0 0) (port fun x => { x with alignLoss := true })).port 0).alignLoss = false := by
  decide +kernel

/-! ## Well-formedness: one ill-formed term for each check -/

theorem test_wf_fec : Instr.wf (.fecBlockReceive 0 ⟨[], 0⟩) = false ∧ Instr.wf (.fecBlockReceive 0 ⟨List.replicate 680 0, 6⟩) = false ∧
    Instr.wf (.fecBlockReceive 0 ⟨List.replicate 680 0, 5⟩) = true := by
  decide +kernel

theorem test_wf_frames : Instr.wf (.ucieFrameReceive (.quarter 0 .e) ⟨0, List.replicate 23 0⟩) = false ∧
    Instr.wf (.footpathPacketReceive (.block 0) (packet 0 2 (List.replicate 9 0)) east .ok) = false ∧
    Instr.wf (.footpathPacketReceive (.block 0) { packet 0 2 [] with size := 65 } east .ok) = false ∧ Instr.wf (.debug (.data [true] [])) = false ∧
    Instr.wf (.bootSequence { meets with startFailures := [(6, 0, 1, 0)] }) = false ∧
    Instr.wf (.bootSequence { meets with startFailures := [(0, 0, 7, 0)] }) = false ∧
    Instr.wf (.bootSequence { meets with components := [(0, 3, [])] }) = false ∧ Instr.wf (.ppsEdge 40) = false := by
  decide +kernel

theorem test_wf_unplanned : Instr.wf (.unplannedFrameSend 0 false 1 0 1 15 []) = false ∧
    Instr.wf (.unplannedFrameSend 0 false 1 0 1 15 (List.replicate 245 0)) = false ∧
    Instr.wf (.unplannedFrameSend 0 false 1 0 1 15 (List.replicate 244 0)) = true := by
  decide +kernel

theorem test_wf_fetch : Instr.wf (.entryFetch 0 (some (List.replicate 9 (List.replicate 64 0)))) = false ∧
    Instr.wf (.entryFetch 0 (some [[0]])) = false ∧ Instr.wf (.entryFetch 0 (some [List.replicate 64 0])) = true := by
  decide +kernel

theorem test_wf_elette : Instr.wf (.eletteFrameReceive [] 0x88B5 1 0 0 []) = false ∧
    Instr.wf (.eletteFrameReceive (List.replicate 12 0) 0x88B5 1 0 0 (List.replicate 1497 0)) = false ∧
    Instr.wf (.eletteReturnForward ⟨[], false⟩) = false ∧ Instr.wf (.eletteReturnForward ⟨List.replicate 1519 0, false⟩) = false := by
  decide +kernel

theorem test_wf_bytes : Instr.wf (.response .host []) = false ∧ Instr.wf (.custodianKeyWrite .host 0 []) = false ∧
    Instr.wf (.lineBufferFill 0 true []) = false := by
  decide +kernel

theorem test_wf_clocks : Instr.wf (.clockMonitorFailure 11 0 true 0) = false ∧ Instr.wf (.clockMonitorGood 11 0) = false := by
  decide +kernel

theorem test_wf_rails : Instr.wf (.powerStepTimeout 14) = false ∧ Instr.wf (.railPoll [⟨14, 0, 0, 0, 0, false, false⟩]) = false ∧
    Instr.wf (.smbalertN ⟨14, 0, 0, 0, 0, false, false⟩) = false := by
  decide +kernel

theorem test_wf_sites : Instr.wf (.sensorConversion 73 0) = false ∧ Instr.wf (.thermtripAssert 72) = false := by
  decide +kernel

theorem test_wf_sources : Instr.wf (.fastDomainReset 0) = false ∧ Instr.wf (.fastDomainReset 11) = false ∧
    Instr.wf (.fastDomainRelease 0) = false ∧ Instr.wf (.fastDomainRelease 11) = false := by
  decide +kernel

theorem test_wf_scrub : Instr.wf (.scrubLine 0 (.corrected [8])) = false ∧ Instr.wf (.scrubLine 0 (.uncorrectable 8)) = false ∧
    Instr.wf (.scrubLine 0 .clean) = true := by
  decide +kernel

end Sys2Proof.Tests
end

/-! # Block reset, and going on through loops: the proofs -/

section
open Sys2Proof Sys2Proof.Machine

namespace Sys2Proof.Machine

/-! ## The block after reset (R93) -/

theorem blk_reset (b : BlockId) : State.reset.blk b = Block.reset := rfl

/-- No register is listed after reset, so each one reads as 0 (R92, R93). -/
theorem Core.getG_reset (r : Reg) : Core.reset.getG r = 0 := ite_self 0

theorem Core.getF_reset (r : Reg) : Core.reset.getF r = 0 := rfl

/-! ## Which loop values govern (R119) -/

theorem Core.staleLoop_of_none {c : Core} (n : Nat) (h : c.loopOld = none) : c.staleLoop n = none := by simp [Core.staleLoop, h]

theorem Core.staleLoop_of_recent {c : Core} {o : LoopRegs} {t n : Nat} (h : c.loopOld = some (o, t)) (hn : n < t + 2) :
    c.staleLoop n = some o := by simp [Core.staleLoop, h, hn]

theorem Core.staleLoop_of_settled {c : Core} {o : LoopRegs} {t n : Nat} (h : c.loopOld = some (o, t)) (hn : t + 2 ≤ n) :
    c.staleLoop n = none := by simp [Core.staleLoop, h, hn]

theorem Core.governs_of_stale {c : Core} {o : LoopRegs} {n : Nat} (h : c.staleLoop n = some o) : c.governs n = o := by
  simp [Core.governs, h]

theorem Core.governs_of_not_stale {c : Core} {n : Nat} (h : c.staleLoop n = none) : c.governs n = c.loopRegs := by
  simp [Core.governs, h]

/-- A decision on the registers' own values is written to them. -/
theorem Core.decideLoop_of_not_stale {c : Core} {n : Nat} (h : c.staleLoop n = none) (k : BitVec 32) (a : Bool) :
    c.decideLoop n k a = { c with loopRemain := k, loopActive := a } := by
  simp [Core.decideLoop, h]

/-- A decision on superseded values changes nothing. -/
theorem Core.decideLoop_of_stale {c : Core} {o : LoopRegs} {n : Nat} (h : c.staleLoop n = some o) (k : BitVec 32) (a : Bool) :
    c.decideLoop n k a = c := by
  simp [Core.decideLoop, h]

/-! ## The core after an instruction that goes on (R116) -/

@[simp] theorem stepped_loopOld (c : Core) (n : Nat) : (c.stepped n).loopOld = none := rfl

/-- Away from the end of an active body, going on is going to the next instruction. -/
theorem stepped_of_not_atEnd {c : Core} {n : Nat} (h : (c.governs n).atEnd c.pc = false) :
    c.stepped n = { c with pc := c.pc + 4, retired := c.retired + 1, loopOld := none } := by
  simp [Core.stepped, Core.onward, h]

/-- At the end of a pass that is not the last, execution goes back to START. -/
theorem stepped_of_atEnd_again {c : Core} {n : Nat} (h : (c.governs n).atEnd c.pc = true) (hr : (c.governs n).remain ≠ 0) :
    c.stepped n = { c.decideLoop n ((c.governs n).remain - 1) true with
      pc := (c.governs n).start, retired := c.retired + 1, loopOld := none } := by
  simp only [Core.stepped, Core.onward, if_pos h, if_pos hr]

/-- At the end of the last pass, execution falls through. -/
theorem stepped_of_atEnd_last {c : Core} {n : Nat} (h : (c.governs n).atEnd c.pc = true) (hr : (c.governs n).remain = 0) :
    c.stepped n = { c.decideLoop n 0 false with pc := c.pc + 4, retired := c.retired + 1, loopOld := none } := by
  simp only [Core.stepped, Core.onward, if_pos h, if_neg (not_not_intro hr)]

/-- An instruction that superseded values govern leaves the loop registers as they are, at whatever place it stands. -/
theorem stepped_loopRegs_of_stale {c : Core} {o : LoopRegs} {n : Nat} (h : c.staleLoop n = some o) : (c.stepped n).loopRegs = c.loopRegs := by
  cases he : (c.governs n).atEnd c.pc with
  | false => rw [stepped_of_not_atEnd he]; rfl
  | true =>
    by_cases hr : (c.governs n).remain = 0
    · rw [stepped_of_atEnd_last he hr, Core.decideLoop_of_stale h]; rfl
    · rw [stepped_of_atEnd_again he hr, Core.decideLoop_of_stale h]; rfl

/-! ## nop -/

theorem exec_nop {s : State} {b : BlockId} (h : s.canIssue b = true) : exec (.nop b) s = .next ((s.lineFetched b).advance b) :=
  congrArg Host.Outcome.next (issue_eq h _)

theorem advance_lineFetched_core (s : State) (b : BlockId) : (((s.lineFetched b).advance b).blk b).core = s.next b := by simp

/-! ## The loop instruction (R115, R138 rank 7, R171) -/

@[simp] theorem ticks_traceOutcome (b : BlockId) (s : State) (k : Bool) (c : BlockId) : (s.traceOutcome b k).ticks c = s.ticks c :=
  (trcOnly_traceOutcome b s k).only.ticks c

section
variable {s : State} {b : BlockId} {ra : Reg} (n1 : BitVec 6) (h : s.mayIssue b [ra] [] = true)
include h

theorem doLoop_nested (ha : ((s.blk b).core.governs (s.ticks b)).active = true) :
    doLoop b n1 ra s = (s.lineFetched b).raiseSync b 9 0 := by
  rw [doLoop, issue_whenFree h]
  simp [ha]

/-- With a count of 0 it redirects control past the body. -/
theorem doLoop_zero (ha : ((s.blk b).core.governs (s.ticks b)).active = false) (hc : (s.getG b ra).setWidth 32 = 0#32) :
    doLoop b n1 ra s =
      ((s.lineFetched b).traceOutcome b true).redirect b (s.pcOf b + 4 + BitVec.ofNat 64 (4 * (n1.toNat + 1))) := by
  have hc' : ((s.blk b).core.getG ra).setWidth 32 = 0#32 := hc
  rw [doLoop, issue_whenFree h]
  simp [ha, hc', State.getG, State.pcOf]

/-- With another count it makes the body that follows active. -/
theorem doLoop_start (ha : ((s.blk b).core.governs (s.ticks b)).active = false) (hc : (s.getG b ra).setWidth 32 ≠ 0#32) :
    doLoop b n1 ra s =
      (((s.lineFetched b).traceOutcome b false).modCore b fun k =>
        { k with loopStart := s.pcOf b + 4, loopLen := BitVec.ofNat 7 (n1.toNat + 1), loopRemain := (s.getG b ra).setWidth 32 - 1,
                 loopActive := true }).setPc b (s.pcOf b + 4) := by
  have hc' : ((s.blk b).core.getG ra).setWidth 32 ≠ 0#32 := hc
  rw [doLoop, issue_whenFree h]
  simp [ha, hc', State.getG, State.pcOf]

/-- The core after a loop instruction that skips its body: it stands past the body, and no loop is active. -/
theorem doLoop_zero_core (ha : ((s.blk b).core.governs (s.ticks b)).active = false) (hc : (s.getG b ra).setWidth 32 = 0#32) :
    ((doLoop b n1 ra s).blk b).core =
      { (s.blk b).core.decideLoop (s.ticks b) ((s.blk b).core.governs (s.ticks b)).remain false with
        pc := s.pcOf b + 4 + BitVec.ofNat 64 (4 * (n1.toNat + 1)), retired := (s.blk b).core.retired + 1, loopOld := none } := by
  rw [doLoop_zero n1 h ha hc]
  simp [ha]

/-- The core after a loop instruction that starts its loop. -/
theorem doLoop_start_core (ha : ((s.blk b).core.governs (s.ticks b)).active = false) (hc : (s.getG b ra).setWidth 32 ≠ 0#32) :
    ((doLoop b n1 ra s).blk b).core =
      { (s.blk b).core with
        pc := s.pcOf b + 4, retired := (s.blk b).core.retired + 1, loopOld := none,
        loopStart := s.pcOf b + 4, loopLen := BitVec.ofNat 7 (n1.toNat + 1), loopRemain := (s.getG b ra).setWidth 32 - 1,
        loopActive := true } := by
  rw [doLoop_start n1 h ha hc]
  simp [State.setPc, State.modCore]

end

/-- A body length of 1 to 64 fits LENGTH. -/
theorem toNat_loopLength (n1 : BitVec 6) : (BitVec.ofNat 7 (n1.toNat + 1)).toNat = n1.toNat + 1 := by
  have := n1.isLt
  simp only [BitVec.toNat_ofNat]
  omega

end Sys2Proof.Machine

/-! ## The statements -/

/-- Settles O3: no block is listed after reset, so each is the block after block reset, in which no register is listed. -/
theorem resetValues : Obligations.ResetValues := by
  intro b
  exact ⟨blk_reset b, rfl, rfl, rfl, fun r => ⟨Core.getG_reset r, Core.getF_reset r⟩, rfl⟩

/-- Settles O10: nop by the place where it stands and by whether superseded loop values govern, loop by its three outcomes. -/
theorem advanceAndLoops : Obligations.AdvanceAndLoops := by
  refine ⟨fun s b h => ?_, fun s b n1 ra h => ?_⟩
  · have hcore := advance_lineFetched_core s b
    refine ⟨_, exec_nop h, rfl, hcore, ?_⟩
    simp only [State.pcOf, hcore, State.next]
    refine ⟨stepped_retired _ _, stepped_loopOld _ _, fun he => ?_, fun he hr => ?_, fun he hr => ?_, fun o n ho hn => ?_,
      fun o n ho hn => ?_, fun ho => ?_⟩
    · rw [stepped_of_not_atEnd he]
      exact ⟨rfl, rfl, rfl⟩
    · rw [stepped_of_atEnd_again he hr]
      refine ⟨rfl, fun ho => ?_⟩
      have hs := Core.staleLoop_of_none (s.ticks b) ho
      rw [Core.decideLoop_of_not_stale hs, Core.governs_of_not_stale hs]
      exact ⟨rfl, rfl⟩
    · rw [stepped_of_atEnd_last he hr]
      refine ⟨rfl, fun ho => ?_⟩
      rw [Core.decideLoop_of_not_stale (Core.staleLoop_of_none _ ho)]
    · have hs := Core.staleLoop_of_recent ho hn
      exact ⟨Core.governs_of_stale hs, stepped_loopRegs_of_stale hs⟩
    · exact Core.governs_of_not_stale (Core.staleLoop_of_settled ho hn)
    · exact Core.governs_of_not_stale (Core.staleLoop_of_none _ ho)
  · refine ⟨doLoop b n1 ra s, rfl, fun ha hc => ?_, fun ha hc => ?_, fun ha => doLoop_nested n1 h ha⟩
    · have hcore := doLoop_zero_core n1 h ha hc
      refine ⟨congrArg Core.pc hcore, fun ho => ?_, ?_⟩
      · rw [hcore, Core.decideLoop_of_not_stale (Core.staleLoop_of_none _ ho)]
      · rw [hcore, decideLoop_ctl]
    · rw [State.pcOf, doLoop_start_core n1 h ha hc]
      exact ⟨rfl, rfl, toNat_loopLength n1, rfl, rfl, rfl⟩

end

/-! # The class of a floating-point value: the proofs -/

section
open Sys2Proof Sys2Proof.Machine

namespace Sys2Proof.Machine

/-! ## The class of an encoding (R160, R185, R186) -/

/-- The fraction lies below the sign bit, so clearing that bit first leaves it. -/
theorem mod_signBit_mod (f : FFmt) (x : Nat) : x % f.signBit % 2 ^ f.fw = x % 2 ^ f.fw :=
  Nat.mod_mod_of_dvd _ (Nat.pow_dvd_pow 2 (Nat.le_add_left f.fw f.ew))

section
variable {f : FFmt} {x : Nat} (hs : f.spec = .ieee) (hx : x < 2 ^ f.width)
include hs hx

/-- The largest exponent encodes the special values. -/
theorem decode_of_top (he : x % f.signBit / 2 ^ f.fw = 2 ^ f.ew - 1) :
    f.decode x = if x % 2 ^ f.fw = 0 then .inf (decide (f.signBit ≤ x)) else .nan (decide (x % 2 ^ f.fw < 2 ^ (f.fw - 1))) := by
  simp [FFmt.decode, hs, Nat.mod_eq_of_lt hx, mod_signBit_mod, he]

/-- Every other exponent encodes a finite value. -/
theorem decode_of_not_top (he : x % f.signBit / 2 ^ f.fw ≠ 2 ^ f.ew - 1) :
    f.decode x =
      if x % f.signBit / 2 ^ f.fw = 0 then .fin (decide (f.signBit ≤ x)) (x % 2 ^ f.fw) f.qmin
      else .fin (decide (f.signBit ≤ x)) (2 ^ f.fw + x % 2 ^ f.fw) (f.qmin + (x % f.signBit / 2 ^ f.fw - 1 : Nat)) := by
  simp [FFmt.decode, hs, Nat.mod_eq_of_lt hx, mod_signBit_mod, he]

theorem classMask_nan (he : x % f.signBit / 2 ^ f.fw = 2 ^ f.ew - 1) (hm : x % 2 ^ f.fw ≠ 0) :
    classMask f x = if x % 2 ^ f.fw < 2 ^ (f.fw - 1) then 2 else 1 := by
  simp [classMask, decode_of_top hs hx he, hm]

theorem classMask_inf (he : x % f.signBit / 2 ^ f.fw = 2 ^ f.ew - 1) (hm : x % 2 ^ f.fw = 0) :
    classMask f x = if f.signBit ≤ x then 0x200 else 4 := by
  simp [classMask, decode_of_top hs hx he, hm]

theorem classMask_zero (hw : 2 ^ f.ew - 1 ≠ 0) (he : x % f.signBit / 2 ^ f.fw = 0) (hm : x % 2 ^ f.fw = 0) :
    classMask f x = if f.signBit ≤ x then 0x40 else 0x20 := by
  simp [classMask, decode_of_not_top hs hx (he ▸ hw.symm), he, hm]

/-- A magnitude below the least normal one is subnormal. -/
theorem classMask_subnormal (hw : 2 ^ f.ew - 1 ≠ 0) (he : x % f.signBit / 2 ^ f.fw = 0) (hm : x % 2 ^ f.fw ≠ 0) :
    classMask f x = if f.signBit ≤ x then 0x80 else 0x10 := by
  have hlt : x % f.signBit < 2 ^ f.fw := (Nat.div_eq_zero_iff_lt (by positivity)).mp he
  simp [classMask, decode_of_not_top hs hx (he ▸ hw.symm), he, hm, hlt]

theorem classMask_normal (he : x % f.signBit / 2 ^ f.fw ≠ 0) (ht : x % f.signBit / 2 ^ f.fw ≠ 2 ^ f.ew - 1) :
    classMask f x = if f.signBit ≤ x then 0x100 else 8 := by
  have hge : ¬x % f.signBit < 2 ^ f.fw := fun h => he (Nat.div_eq_of_lt h)
  simp [classMask, decode_of_not_top hs hx ht, he, hge]

end

/-- The formats of the scalar core spell their special values as IEEE does and have a normal exponent. -/
theorem fmtOf_ieee (fmt : Bool) : (fmtOf fmt).spec = .ieee ∧ 2 ^ (fmtOf fmt).ew - 1 ≠ 0 := by
  cases fmt <;> decide

end Sys2Proof.Machine

/-- Settles O15: the ten classes by exponent, fraction and sign. -/
theorem fclassOneBit : Obligations.FclassOneBit := by
  intro fmt rm x y f r v N E M top
  obtain ⟨hs, hw⟩ : f.spec = .ieee ∧ top ≠ 0 := fmtOf_ieee fmt
  have hx : v < 2 ^ f.width := Nat.mod_lt _ (by positivity)
  have hr : r = BitVec.ofNat 64 (classMask f v) := rfl
  have hN : N = decide (f.signBit ≤ v) := rfl
  have half : 0 < 2 ^ (f.fw - 1) := by positivity
  rw [hr, hN]
  refine ⟨?_, ?_, ?_, ?_, ?_, ?_, ?_, ?_, ?_, ?_⟩
  · rintro ⟨he, hm⟩
    rw [classMask_nan hs hx he (half.trans_le hm).ne', if_neg hm.not_gt]; rfl
  · rintro ⟨he, h0, hm⟩
    rw [classMask_nan hs hx he h0.ne', if_pos hm]; rfl
  · rintro ⟨he, hm, hn⟩
    rw [classMask_inf hs hx he hm, if_neg (of_decide_eq_false hn)]; rfl
  · rintro ⟨h0, he, hn⟩
    rw [classMask_normal hs hx h0.ne' he.ne, if_neg (of_decide_eq_false hn)]; rfl
  · rintro ⟨he, hm, hn⟩
    rw [classMask_subnormal hs hx hw he hm.ne', if_neg (of_decide_eq_false hn)]; rfl
  · rintro ⟨he, hm, hn⟩
    rw [classMask_zero hs hx hw he hm, if_neg (of_decide_eq_false hn)]; rfl
  · rintro ⟨he, hm, hn⟩
    rw [classMask_zero hs hx hw he hm, if_pos (of_decide_eq_true hn)]; rfl
  · rintro ⟨he, hm, hn⟩
    rw [classMask_subnormal hs hx hw he hm.ne', if_pos (of_decide_eq_true hn)]; rfl
  · rintro ⟨h0, he, hn⟩
    rw [classMask_normal hs hx h0.ne' he.ne, if_pos (of_decide_eq_true hn)]; rfl
  · rintro ⟨he, hm, hn⟩
    rw [classMask_inf hs hx he hm, if_pos (of_decide_eq_true hn)]; rfl

end

/-! # Branches and jumps: the proofs -/

section
open Sys2Proof Sys2Proof.Machine

namespace Sys2Proof.Machine

/-! ## Tracing, register writes and redirections leave the management plane as it is -/

@[simp] theorem openPacket_elt (s : State) (b : BlockId) (n : Nat) : (s.openPacket b n).elt = s.elt := by
  unfold State.openPacket
  dsimp only
  repeat' split
  all_goals rfl

@[simp] theorem putRecord_elt (s : State) (b : BlockId) (r : List Byte) : (s.putRecord b r).elt = s.elt := openPacket_elt s b _

@[simp] theorem flushOutcomes_elt (s : State) (b : BlockId) : (s.flushOutcomes b).elt = s.elt := by
  unfold State.flushOutcomes
  split
  · rfl
  · exact putRecord_elt _ b _

@[simp] theorem putDelta_elt (s : State) (b : BlockId) : (s.putDelta b).elt = s.elt := by
  unfold State.putDelta
  split
  · dsimp only
    split
    · simp [State.setTimed]
    · simp [State.putGts]
  · rfl

@[simp] theorem traceRecord_elt (s : State) (b : BlockId) (on : Bool) (r : List Byte) : (s.traceRecord b on r).elt = s.elt := by
  unfold State.traceRecord
  split
  · simp
  · rfl

@[simp] theorem traceTarget_elt (s : State) (b : BlockId) (a : W64) : (s.traceTarget b a).elt = s.elt := traceRecord_elt s b _ _

@[simp] theorem traceOutcome_elt (s : State) (b : BlockId) (k : Bool) : (s.traceOutcome b k).elt = s.elt := by
  unfold State.traceOutcome
  split
  · split
    · simp
    · dsimp only
      split
      · exact flushOutcomes_elt _ b
      · rfl
  · rfl

@[simp] theorem setG_elt (s : State) (b : BlockId) (r : Reg) (v : W64) : (s.setG b r v).elt = s.elt := rfl

@[simp] theorem redirect_elt (s : State) (b : BlockId) (v : W64) : (s.redirect b v).elt = s.elt := rfl

/-! ## The branch-target entries (R563) -/

/-- Where a core fetches from is said by its pc. -/
theorem fromFlash_congr {s t : State} {b : BlockId} (h : t.pcOf b = s.pcOf b) : t.fromFlash b = s.fromFlash b := by
  unfold State.fromFlash
  rw [show (t.blk b).core.pc = (s.blk b).core.pc from h]

theorem lineFetched_of_not_fromFlash {s : State} {b : BlockId} (h : s.fromFlash b = false) : s.lineFetched b = s :=
  if_neg (ne_of_eq_of_ne h Bool.false_ne_true)

theorem noteTaken_of_not_fromFlash {s : State} {b : BlockId} (v : W64) (h : s.fromFlash b = false) : s.noteTaken b v = s :=
  if_neg (ne_of_eq_of_ne h Bool.false_ne_true)

/-- The entry of a branch in the flash window holds the branch and its target. -/
theorem look_btb_noteTaken {s : State} {b : BlockId} (v : W64) (h : s.fromFlash b = true) :
    look (0, 0) (s.noteTaken b v).elt.btb ((s.pcOf b).toNat / 4 % 64) = (s.pcOf b, v) := by
  unfold State.noteTaken
  rw [if_pos h]
  exact look_put_same _ _ _ _

/-! ## What a taken branch or jump leaves (R117, R119, R563) -/

/-- After control went to `target`, REMAIN is as before, and a loop is active when it was and `target` lies in its body. -/
def LoopLeft (b : BlockId) (s t : State) (target : W64) : Prop :=
  (t.blk b).core.loopRemain = (s.blk b).core.loopRemain ∧ (t.blk b).core.loopOld = none ∧
    ((s.blk b).core.loopOld = none → (t.blk b).core.loopActive = ((s.blk b).core.loopActive && (s.blk b).core.loopRegs.inBody target))

/-- In the flash window the instruction that stood in RD has its branch-target entry, and elsewhere nothing of the management plane changed. -/
def TargetNoted (b : BlockId) (s t : State) (target : W64) : Prop :=
  (s.fromFlash b = true → look (0, 0) t.elt.btb ((s.pcOf b).toNat / 4 % 64) = (s.pcOf b, target)) ∧
    (s.fromFlash b = false → t.elt = s.elt)

/-- `u` is `s` with the instruction in RD under way: of its core the g registers alone changed, and of what it fetches through nothing outside the
flash window. -/
structure UnderWay (b : BlockId) (s u : State) : Prop where
  core : ∃ g, (u.blk b).core = { (s.blk b).core with g := g }
  elt : s.fromFlash b = false → u.elt = s.elt

/-- A redirection under superseded loop values keeps the loop registers; else a target outside the body ends the loop. -/
theorem loopLeft_redirect (b : BlockId) (s : State) (v : W64) : LoopLeft b s (s.redirect b v) v := by
  rw [LoopLeft, redirect_core]
  refine ⟨?_, rfl, fun ho => ?_⟩
  · cases hs : (s.blk b).core.staleLoop (s.ticks b) with
    | none => simp only [Core.decideLoop_of_not_stale hs, Core.governs_of_not_stale hs]; rfl
    | some o => simp only [Core.decideLoop_of_stale hs]
  · have hs := Core.staleLoop_of_none (s.ticks b) ho
    simp only [Core.decideLoop_of_not_stale hs, Core.governs_of_not_stale hs]; rfl

@[simp] theorem redirect_pcOf (b : BlockId) (s : State) (v : W64) : (s.redirect b v).pcOf b = v := by simp [State.pcOf]

@[simp] theorem redirect_getG (b : BlockId) (s : State) (v : W64) (r : Reg) : (s.redirect b v).getG b r = s.getG b r :=
  (ctlOnly_redirect b s v).getG r

theorem UnderWay.loopLeft {b : BlockId} {s u : State} (h : UnderWay b s u) (v : W64) : LoopLeft b s ((u.noteTaken b v).redirect b v) v := by
  obtain ⟨g, hg⟩ := h.core
  have hl := loopLeft_redirect b (u.noteTaken b v) v
  rw [LoopLeft, blk_noteTaken, hg] at hl
  exact hl

theorem UnderWay.targetNoted {b : BlockId} {s u : State} (h : UnderWay b s u) (v : W64) :
    TargetNoted b s ((u.noteTaken b v).redirect b v) v := by
  obtain ⟨g, hg⟩ := h.core
  have hpc : u.pcOf b = s.pcOf b := by rw [State.pcOf, hg]; rfl
  have hflash := fromFlash_congr hpc
  rw [TargetNoted, redirect_elt, ← hflash, ← hpc]
  refine ⟨look_btb_noteTaken v, fun hn => ?_⟩
  rw [noteTaken_of_not_fromFlash v hn]
  exact h.elt (hflash ▸ hn)

theorem underWay_lineFetched (s : State) (b : BlockId) : UnderWay b s (s.lineFetched b) :=
  ⟨⟨(s.blk b).core.g, by rw [blk_lineFetched]⟩, fun h => by rw [lineFetched_of_not_fromFlash h]⟩

theorem UnderWay.traceOutcome {b : BlockId} {s u : State} (h : UnderWay b s u) (k : Bool) : UnderWay b s (u.traceOutcome b k) :=
  ⟨traceOutcome_core b u k ▸ h.core, fun hn => (traceOutcome_elt u b k).trans (h.elt hn)⟩

theorem UnderWay.traceTarget {b : BlockId} {s u : State} (h : UnderWay b s u) (a : W64) : UnderWay b s (u.traceTarget b a) :=
  ⟨traceTarget_core b u a ▸ h.core, fun hn => (traceTarget_elt u b a).trans (h.elt hn)⟩

theorem UnderWay.setG {b : BlockId} {s u : State} (h : UnderWay b s u) (r : Reg) (v : W64) : UnderWay b s (u.setG b r v) := by
  obtain ⟨g, hg⟩ := h.core
  exact ⟨⟨((u.blk b).core.setG r v).g, by rw [setG_core, Core.setG_ctl, hg]⟩, h.elt⟩

/-! ## The branch and the jumps (R155, R156) -/

theorem exec_branch {s : State} {b : BlockId} {rb ra : Reg} (fn : BranchFn) (imm : BitVec 14) (h : s.mayIssue b [ra, rb] [] = true) :
    exec (.branch b fn imm rb ra) s = .next
      (let u := (s.lineFetched b).traceOutcome b (branchTaken fn (s.getG b ra) (s.getG b rb))
       let target := s.pcOf b + 4 * imm.signExtend 64
       if branchTaken fn (s.getG b ra) (s.getG b rb) = true then (u.noteTaken b target).redirect b target else u.advance b) := by
  refine congrArg Host.Outcome.next ((issue_whenFree h _).trans ?_)
  simp only [State.getG, State.pcOf, blk_lineFetched, simm14]
  rfl

theorem exec_jal {s : State} {b : BlockId} {rd : Reg} (imm : BitVec 19) (h : s.mayIssue b [rd] [] = true) :
    exec (.jal b imm rd) s = .next
      (let target := s.pcOf b + 4 * imm.signExtend 64
       (((s.lineFetched b).setG b rd (s.pcOf b + 4)).noteTaken b target).redirect b target) := by
  refine congrArg Host.Outcome.next ((issue_whenFree h _).trans ?_)
  simp only [State.pcOf, blk_lineFetched, simm19]

theorem exec_jalr {s : State} {b : BlockId} {ra rd : Reg} (imm : BitVec 14) (h : s.mayIssue b [ra, rd] [] = true) :
    exec (.jalr b imm ra rd) s = .next
      (let target := (s.getG b ra + imm.signExtend 64) &&& ~~~3#64
       ((((s.lineFetched b).traceTarget b target).setG b rd (s.pcOf b + 4)).noteTaken b target).redirect b target) := by
  refine congrArg Host.Outcome.next ((issue_whenFree h _).trans ?_)
  simp only [State.getG, State.pcOf, blk_lineFetched, jalrTarget, simm14]

@[simp] theorem setG_getG_same (s : State) (b : BlockId) (r : Reg) (v : W64) : (s.setG b r v).getG b r = if r = 0 then 0 else v := by
  simp [State.getG]

@[simp] theorem noteTaken_getG (s : State) (b : BlockId) (v : W64) (r : Reg) : (s.noteTaken b v).getG b r = s.getG b r := by
  simp [State.getG]

/-- The tests of the branches are the comparisons of their operands (R155). -/
theorem branchTaken_eq_decide (x y : W64) :
    branchTaken .beq x y = decide (x = y) ∧ branchTaken .bne x y = decide (x ≠ y) ∧
      branchTaken .blt x y = decide (x.toInt < y.toInt) ∧ branchTaken .bge x y = decide (y.toInt ≤ x.toInt) ∧
      branchTaken .bltu x y = decide (x.toNat < y.toNat) ∧ branchTaken .bgeu x y = decide (y.toNat ≤ x.toNat) := by
  have hs : (!decide (x.toInt < y.toInt)) = decide (y.toInt ≤ x.toInt) := by rw [← decide_not]; exact decide_eq_decide.mpr Int.not_lt
  have hu : (!decide (x.toNat < y.toNat)) = decide (y.toNat ≤ x.toNat) := by rw [← decide_not]; exact decide_eq_decide.mpr Nat.not_lt
  exact ⟨rfl, (decide_not (p := x = y)).symm, rfl, hs, rfl, hu⟩

end Sys2Proof.Machine

/-- Settles O12: a taken branch, jal and jalr redirect control from a state that is `s` under way, and a branch not taken goes on. -/
theorem branchesAndJumps : Obligations.BranchesAndJumps := by
  intro s b rb ra rd
  have way := underWay_lineFetched s b
  refine ⟨fun fn imm h => ⟨_, exec_branch fn imm h, fun ht => ?_, fun hn => ?_⟩, fun imm h => ⟨_, exec_jal imm h, ?_⟩,
    fun imm h => ⟨_, exec_jalr imm h, ?_⟩, branchTaken_eq_decide⟩
  · simp only [if_pos ht]
    exact ⟨redirect_pcOf b _ _, (way.traceOutcome _).loopLeft _, (way.traceOutcome _).targetNoted _⟩
  · simp [hn, State.next]
  · have wayJ := way.setG rd (s.pcOf b + 4)
    exact ⟨redirect_pcOf b _ _, by simp, wayJ.loopLeft _, wayJ.targetNoted _⟩
  · have wayJ := (way.traceTarget ((s.getG b ra + imm.signExtend 64) &&& ~~~3#64)).setG rd (s.pcOf b + 4)
    exact ⟨redirect_pcOf b _ _, by simp, wayJ.loopLeft _, wayJ.targetNoted _⟩

end

/-! # crr and crw: the proofs -/

section
open Sys2Proof Sys2Proof.Machine

namespace Sys2Proof.Machine

/-! ## crr is an instruction of every core (R166, R556) -/

/-- The opcode stands in the low byte of a word of format CR. -/
theorem fmtCR_opcode (w : Bool) (crn : BitVec 13) (rs rd : Reg) (op : Byte) : (fmtCR w crn rs rd op).toNat % 256 = op.toNat :=
  congrArg BitVec.toNat (BitVec.setWidth_append_eq_right : (fmtCR w crn rs rd op).setWidth 8 = op)

/-- Opcode 0x34 is not among those that the management core lacks. -/
theorem offMgmt_of_opcode {w : BitVec 32} (h : w.toNat % 256 = 0x34) : offMgmt w = false := by
  have hne : w ≠ fmtSY 0 1 0 0 0x37 := by rintro rfl; exact absurd h (by decide)
  rw [offMgmt, isEngineWord, h, decide_eq_false hne]
  rfl

theorem decodes_crr (b : BlockId) (crn : BitVec 13) (rd : Reg) : decodes b (.crr b crn 0 rd) = true := by
  have hoff : offMgmt ((instrWord (.crr b crn 0 rd)).getD 0) = false := offMgmt_of_opcode (fmtCR_opcode false crn 0 rd 0x34)
  rw [decodes, hoff, Bool.and_false]
  rfl

/-! ## What control registers hold does not depend on what the core fetches through -/

theorem FetchOnly.crRead {b : BlockId} {s t : State} (h : FetchOnly b s t) (d : BlockId) (off : Nat) (c : Ctx) :
    t.crRead d off c = s.crRead d off c := by
  have k := congrArg (fun u : State => u.crRead d off c) h.1
  exact k

@[simp] theorem crRead_lineFetched (s : State) (b d : BlockId) (off : Nat) (c : Ctx) : (s.lineFetched b).crRead d off c = s.crRead d off c :=
  (fetchOnly_lineFetched s b).crRead d off c

@[simp] theorem crMay_lineFetched (s : State) (b d : BlockId) (off : Nat) (c : Ctx) : (s.lineFetched b).crMay d off c = s.crMay d off c := by
  simp [State.crMay]

/-! ## A write of a register and going on -/

theorem Core.decideLoop_with_g (c : Core) (g : Tab W64) (n : Nat) (k : BitVec 32) (a : Bool) :
    ({ c with g := g } : Core).decideLoop n k a = { c.decideLoop n k a with g := g } := by
  cases hs : c.staleLoop n with
  | none => rw [Core.decideLoop_of_not_stale hs, Core.decideLoop_of_not_stale (c := { c with g := g }) hs]
  | some o => rw [Core.decideLoop_of_stale hs, Core.decideLoop_of_stale (c := { c with g := g }) hs]

/-- Going on neither reads nor writes a g register. -/
theorem Core.stepped_with_g (c : Core) (g : Tab W64) (n : Nat) : ({ c with g := g } : Core).stepped n = { c.stepped n with g := g } := by
  cases he : (c.governs n).atEnd c.pc with
  | false => rw [stepped_of_not_atEnd he, stepped_of_not_atEnd (c := { c with g := g }) he]
  | true =>
    by_cases hr : (c.governs n).remain = 0
    · rw [stepped_of_atEnd_last he hr, stepped_of_atEnd_last (c := { c with g := g }) he hr, Core.decideLoop_with_g]
    · rw [stepped_of_atEnd_again he hr, stepped_of_atEnd_again (c := { c with g := g }) he hr, Core.decideLoop_with_g]; rfl

theorem Core.stepped_setG (c : Core) (r : Reg) (v : W64) (n : Nat) : (c.setG r v).stepped n = (c.stepped n).setG r v := by
  unfold Core.setG
  split
  · rfl
  · rw [Core.stepped_with_g, stepped_g]

@[simp] theorem Core.setG_pc (c : Core) (r : Reg) (v : W64) : (c.setG r v).pc = c.pc := by rw [Core.setG_ctl]
@[simp] theorem Core.setG_loopRegs (c : Core) (r : Reg) (v : W64) : (c.setG r v).loopRegs = c.loopRegs := by rw [Core.setG_ctl]; rfl

@[simp] theorem next_setG (s : State) (b : BlockId) (r : Reg) (v : W64) : (s.setG b r v).next b = (s.next b).setG r v := by
  simp [State.next, Core.stepped_setG, State.setG]

/-- An instruction that ends in a register write has written it and goes on. -/
theorem finish_wrote (s : State) (b : BlockId) (rd : Reg) (v : W64) :
    (s.finish b rd v).wrote b false rd v ∧ (s.finish b rd v).pcOf b = (s.next b).pc := by
  simp [State.wrote, State.finish, State.getG, State.pcOf]

/-! ## A write of a control register by the core (R119, R167) -/

@[simp] theorem ticks_setG (s : State) (b : BlockId) (r : Reg) (v : W64) (c : BlockId) : (s.setG b r v).ticks c = s.ticks c := rfl

@[simp] theorem setG_priv (s : State) (b : BlockId) (r : Reg) (v : W64) : ((s.setG b r v).blk b).priv = (s.blk b).priv := by simp [State.setG]

/-- A write of any register but those of the loop is the write and going on. -/
theorem crStore_of_not_loop (s : State) (b : BlockId) {off : Nat} (v : W64) (h : ¬(off = 0x40 ∨ off = 0x48)) :
    s.crStore b off v = (s.advance b).crWrite b (.core (s.blk b).priv.ctx) off v allBytes :=
  if_neg h

/-- A write of a loop register leaves the values of before it, with the count of the core's clock (R119). -/
theorem crStore_of_loop (s : State) (b : BlockId) {off : Nat} (v : W64) (h : off = 0x40 ∨ off = 0x48) :
    s.crStore b off v =
      ((s.advance b).crWrite b (.core (s.blk b).priv.ctx) off v allBytes).modCore b fun c =>
        { c with loopOld := some ((s.next b).loopRegs, s.ticks b) } := by
  rw [← advance_core]
  exact if_pos h

/-! ## crr and crw -/

/-- A control register stands at 8 times its number (R166). -/
theorem crOffset_eq_iff (crn : BitVec 13) {k : Nat} (hk : k < 2 ^ 13) : 8 * crn.toNat = 8 * k ↔ crn = BitVec.ofNat 13 k := by
  rw [Nat.mul_right_inj (by decide), BitVec.toNat_eq, BitVec.toNat_ofNat, Nat.mod_eq_of_lt hk]

/-- BLK_LOOP_COUNT and BLK_LOOP_SPAN are registers 8 and 9 (R103, R104). -/
theorem loopOffset_iff {crn : BitVec 13} : 8 * crn.toNat = 0x40 ∨ 8 * crn.toNat = 0x48 ↔ crn = 8 ∨ crn = 9 :=
  or_congr (crOffset_eq_iff crn (k := 8) (by decide)) (crOffset_eq_iff crn (k := 9) (by decide))

section
variable {s : State} {b : BlockId} {rs rd : Reg} (crn : BitVec 13)

theorem not_awaiting_draws {crn : BitVec 13} (h : crn = 0x11 → (s.blk b).drawn = true) : ¬(crn = 0x11 ∧ (s.blk b).drawn = false) :=
  fun k => Bool.false_ne_true (k.2.symm.trans (h k.1))

/-- crr that may issue waits for the flags or for the draws, or writes what it reads. -/
theorem doCrr_eq (h : s.mayIssue b [rd] [] = true) :
    doCrr b crn 0 rd s =
      if crn = 0x10 ∧ (s.blk b).core.longOps.any LongOp.isFp = true then s.lineFetched b
      else if crn = 0x11 ∧ (s.blk b).drawn = false then s.lineFetched b
      else (s.lineFetched b).finish b rd (s.crRead b (8 * crn.toNat) (s.blk b).priv.ctx) := by
  rw [doCrr, issue_decoded_whenFree h (decodes_crr b crn rd)]
  simp only [Nat.mul_comm crn.toNat 8, crOffset_eq_iff crn (k := 0x10) (by decide), crOffset_eq_iff crn (k := 0x11) (by decide),
    blk_lineFetched, crRead_lineFetched]
  rfl

/-- crw that may issue waits for the draws, or writes rd and then the register, or lacks the right to. -/
theorem doCrw_eq (h : s.mayIssue b [rs, rd] [] = true) :
    doCrw b crn rs rd s =
      if crn = 0x11 ∧ (s.blk b).drawn = false then s.lineFetched b
      else if s.crMay b (8 * crn.toNat) (s.blk b).priv.ctx = true then
        ((s.lineFetched b).setG b rd (s.crRead b (8 * crn.toNat) (s.blk b).priv.ctx)).crStore b (8 * crn.toNat) (s.getG b rs)
      else (s.lineFetched b).raiseSync b 7 (BitVec.ofNat 64 (8 * crn.toNat)) := by
  rw [doCrw, issue_whenFree h]
  simp only [Nat.mul_comm crn.toNat 8, crOffset_eq_iff crn (k := 0x11) (by decide), blk_lineFetched, crRead_lineFetched, crMay_lineFetched,
    State.getG]
  rfl

end

end Sys2Proof.Machine

/-- Settles O21: crr and crw by what they wait for, and crw by the right to write and by whether the register is one of the loop. -/
theorem controlRegisterInstructions : Obligations.ControlRegisterInstructions := by
  intro s b crn rs rd
  refine ⟨fun h hf hd => ?_, fun h hc hf => ?_, fun hc hd => ⟨fun h => ?_, fun h => ?_⟩, fun h hd hm => ?_, fun h hd hm => ?_⟩
  · have hfp : ¬(crn = 0x10 ∧ (s.blk b).core.longOps.any LongOp.isFp = true) := fun k => Bool.false_ne_true ((hf k.1).symm.trans k.2)
    refine ⟨_, congrArg Host.Outcome.next ((doCrr_eq crn h).trans ((if_neg hfp).trans (if_neg (not_awaiting_draws hd)))), ?_⟩
    simpa using finish_wrote (s.lineFetched b) b rd _
  · exact congrArg Host.Outcome.next ((doCrr_eq crn h).trans (if_pos ⟨hc, hf⟩))
  · have hfp : ¬(crn = 0x10 ∧ (s.blk b).core.longOps.any LongOp.isFp = true) := fun k => absurd (hc.symm.trans k.1) (by decide)
    exact congrArg Host.Outcome.next ((doCrr_eq crn h).trans ((if_neg hfp).trans (if_pos ⟨hc, hd⟩)))
  · exact congrArg Host.Outcome.next ((doCrw_eq crn h).trans (if_pos ⟨hc, hd⟩))
  · refine ⟨_, congrArg Host.Outcome.next ((doCrw_eq crn h).trans ((if_neg (not_awaiting_draws hd)).trans (if_pos hm))),
      fun h8 h9 => ?_, fun hl => ?_⟩
    · rw [crStore_of_not_loop _ _ _ fun k => (loopOffset_iff.mp k).elim h8 h9]
      simp
    · rw [crStore_of_loop _ _ _ (loopOffset_iff.mpr hl)]
      simp
  · have hmay : ¬s.crMay b (8 * crn.toNat) (s.blk b).priv.ctx = true := ne_of_eq_of_ne hm Bool.false_ne_true
    exact congrArg Host.Outcome.next ((doCrw_eq crn h).trans ((if_neg (not_awaiting_draws hd)).trans (if_neg hmay)))

end

/-! # Events and summary counters: the proofs -/

section
open Sys2Proof Sys2Proof.Machine

namespace Sys2Proof.Machine

/-! ## The summary counters (R540) -/

/-- The counter that opens with its first event. -/
def Event.opened (e : Event) : Summary := ⟨e.kind, 1, e.time, e.time, e.flags⟩

/-- A counter of the event's kind after one more event. -/
def Summary.counted (c : Summary) (e : Event) : Summary := { c with count := c.count + 1, last := e.time, flags := e.flags }

theorem addSummary_cons_same {e : Event} {c : Summary} (m : List Summary) (h : c.kind = e.kind) :
    addSummary e (c :: m) = c.counted e :: m := if_pos h

theorem addSummary_cons_ne {e : Event} {c : Summary} (m : List Summary) (h : c.kind ≠ e.kind) :
    addSummary e (c :: m) = c :: addSummary e m := if_neg h

/-- Counters of other kinds stand as they are, before those that the event may belong to. -/
theorem addSummary_append_of_ne {e : Event} {l : List Summary} (m : List Summary) (h : ∀ d ∈ l, d.kind ≠ e.kind) :
    addSummary e (l ++ m) = l ++ addSummary e m := by
  induction l with
  | nil => rfl
  | cons d l ih =>
    obtain ⟨hd, hl⟩ := List.forall_mem_cons.mp h
    rw [List.cons_append, addSummary_cons_ne _ hd, ih hl, List.cons_append]

/-- An event of a kind with no open counter opens one, behind the others. -/
theorem addSummary_of_closed {e : Event} {l : List Summary} (h : ∀ c ∈ l, c.kind ≠ e.kind) : addSummary e l = l ++ [e.opened] := by
  simpa [addSummary, Event.opened] using addSummary_append_of_ne [] h

/-- An event of a kind with an open counter is counted there. -/
theorem addSummary_of_open {e : Event} {l : List Summary} {c : Summary} (m : List Summary) (hc : c.kind = e.kind)
    (hl : ∀ d ∈ l, d.kind ≠ e.kind) : addSummary e (l ++ c :: m) = l ++ c.counted e :: m := by
  rw [addSummary_append_of_ne _ hl, addSummary_cons_same m hc]

/-! ## Where the journal holds an event (R539, R540) -/

@[simp] theorem accept_raised (j : Jnl) (e : Event) : (j.accept e).raised = j.raised + 1 := by
  unfold Jnl.accept; dsimp only; split <;> rfl

@[simp] theorem accept_next (j : Jnl) (e : Event) : (j.accept e).next = j.next := by
  unfold Jnl.accept; dsimp only; split <;> rfl

/-- With no counter open and room in the FIFO the event enters the FIFO. -/
theorem accept_of_room {j : Jnl} (e : Event) (hc : j.counters = []) (hf : j.fifo.length < 128) :
    (j.accept e).fifo = j.fifo ++ [.event e] ∧ (j.accept e).counters = [] := by
  simp [Jnl.accept, hc, hf]

/-- With a counter open or the FIFO full the event is counted. -/
theorem accept_of_no_room {j : Jnl} (e : Event) (h : j.counters ≠ [] ∨ 128 ≤ j.fifo.length) :
    (j.accept e).fifo = j.fifo ∧ (j.accept e).counters = addSummary e j.counters := by
  have hn : ¬(j.counters = [] ∧ j.fifo.length < 128) := fun ⟨hc, hf⟩ => h.elim (· hc) (Nat.not_le_of_lt hf)
  simp [Jnl.accept, hn]

/-- A summary counter that closes into the FIFO takes its events with it (R541, R542). -/
theorem pending_closed (j : Jnl) {c : Summary} {rest : List Summary} (h : j.counters = c :: rest) :
    Jnl.pending { j with counters := rest, fifo := j.fifo ++ [.summary c] } = j.pending := by
  simp [Jnl.pending, h, Nat.add_assoc]

/-! ## What raising, showing and counting leave -/

variable (s : State)

/-- An event with the time and the flags of now (R528), and no PATH. -/
def State.eventNow (kind : BitVec 16) (ref result tag : W64) : Event := ⟨kind, ref, result, tag, s.time64, s.recFlags⟩

/-- An event that is raised goes to the journal. -/
theorem raise_jnl (kind : Nat) (ref result tag : W64) :
    (s.raise kind ref result tag).jnl = s.jnl.accept (s.eventNow (BitVec.ofNat 16 kind) ref result tag) := by
  simp [State.raise, State.raisePath, State.openBook, State.eventNow]

@[simp] theorem raise_counter (kind : Nat) (ref result tag : W64) (index sub : Nat) :
    (s.raise kind ref result tag).counter index sub = s.counter index sub := rfl

@[simp] theorem modHif_counter (f : Hif → Hif) (index sub : Nat) : (s.modHif f).counter index sub = s.counter index sub := rfl

@[simp] theorem raiseVector_jnl (v : BitVec 6) : (s.raiseVector v).jnl = s.jnl := by
  unfold State.raiseVector; dsimp only; split <;> rfl

@[simp] theorem raiseVector_evtPend (v : BitVec 6) : (s.raiseVector v).hif.evtPend = s.hif.evtPend := by
  unfold State.raiseVector; dsimp only; split <;> rfl

@[simp] theorem hifEvent_jnl (n : Nat) : (s.hifEvent n).jnl = s.jnl := by
  unfold State.hifEvent; dsimp only; split <;> simp

theorem hifEvent_evtPend (n : Nat) : (s.hifEvent n).hif.evtPend = s.hif.evtPend ||| (1#8 <<< n) := by
  unfold State.hifEvent; dsimp only; split <;> simp

/-- The event's own bit of HIF_EVT_PEND is set (R477). -/
theorem hifEvent_pending {n : Nat} (h : n < 8) : (s.hifEvent n).hif.evtPend.getLsbD n = true := by
  simp [hifEvent_evtPend, h]

@[simp] theorem keepCounter_jnl (key : Nat) : (s.keepCounter key).jnl = s.jnl := by
  unfold State.keepCounter; split <;> rfl

@[simp] theorem keepCounter_health (key : Nat) : (s.keepCounter key).health = s.health := by
  unfold State.keepCounter; split <;> rfl

@[simp] theorem bump_jnl (index sub n : Nat) : (s.bump index sub n).jnl = s.jnl := by simp [State.bump]

/-- Counting changes neither the time nor the flags of a record. -/
@[simp] theorem bump_eventNow (index sub n : Nat) (kind : BitVec 16) (ref result tag : W64) :
    (s.bump index sub n).eventNow kind ref result tag = s.eventNow kind ref result tag := by
  unfold State.bump State.keepCounter; dsimp only; split <;> rfl

/-- A counter object counts up to its largest value (R611). -/
theorem bump_counter (index sub n : Nat) : (s.bump index sub n).counter index sub = min (s.counter index sub + n) (2 ^ 64 - 1) := by
  simp [State.bump, State.counter]

/-! ## EVENT_RAISE -/

/-- What EVENT_RAISE leaves of the journal, whether or not the event is shown to the host as well. -/
theorem eventRaise_jnl (kind : BitVec 16) (ref result tag : W64) :
    (eventRaise kind ref result tag s).jnl = s.jnl.accept (s.eventNow kind ref result tag) := by
  unfold eventRaise
  dsimp only
  split <;> simp [raise_jnl]

theorem eventRaise_evtPend {kind : BitVec 16} (ref result tag : W64) (h : kind = 0x0400 ∨ kind = 0x0401) :
    (eventRaise kind ref result tag s).hif.evtPend.getLsbD 5 = true := by
  rw [eventRaise, if_pos h]
  exact hifEvent_pending _ (by decide)

/-! ## SUMMARY_CLOSE (R541) -/

variable {s}

theorem summaryClose_of_room {c : Summary} {rest : List Summary} (h : s.jnl.counters = c :: rest) (hf : s.jnl.fifo.length < 128) :
    summaryClose s = s.modJnl fun j => { j with counters := rest, fifo := j.fifo ++ [.summary c] } := by
  simp [summaryClose, h, hf]

theorem summaryClose_of_full (hf : 128 ≤ s.jnl.fifo.length) : summaryClose s = s := by
  unfold summaryClose
  split
  · exact if_neg (Nat.not_lt_of_le hf)
  · rfl

theorem summaryClose_of_none_open (h : s.jnl.counters = []) : summaryClose s = s := by
  simp [summaryClose, h]

/-! ## JOURNAL_WINDOW_READ (R534, R535) -/

theorem exec_journalWindowRead (slot : BitVec 12) (ecc : Ecc) (h : s.barsUp = true) :
    exec (.journalWindowRead slot ecc) s = .next (journalWindowRead slot ecc s) :=
  congrArg Host.Outcome.next (if_pos h)

variable (s)

theorem journalWindowRead_corrected_counter (slot : BitVec 12) :
    (journalWindowRead slot .corrected s).counter 0x4001 3 = min (s.counter 0x4001 3 + 1) (2 ^ 64 - 1) :=
  bump_counter s 0x4001 3 1

theorem journalWindowRead_uncorrectable_counter (slot : BitVec 12) :
    (journalWindowRead slot .uncorrectable s).counter 0x4001 4 = min (s.counter 0x4001 4 + 1) (2 ^ 64 - 1) := by
  rw [journalWindowRead, modHif_counter, raise_counter, bump_counter]

/-- A read that meets an uncorrectable error raises an event with the damaged slot. -/
theorem journalWindowRead_uncorrectable_jnl (slot : BitVec 12) :
    (journalWindowRead slot .uncorrectable s).jnl = s.jnl.accept (s.eventNow 0x0A00 (slot.zeroExtend 64) 2 0) := by
  rw [journalWindowRead, modHif_jnl, raise_jnl, bump_jnl, bump_eventNow]
  rfl

end Sys2Proof.Machine

/-- Settles O48: an event that is raised is accepted into the FIFO or into the counter of its kind, and a counter that closes keeps its count pending. -/
theorem journalEvents : Obligations.JournalEvents := by
  intro s kind ref result tag j e
  have hj : (eventRaise kind ref result tag s).jnl = j.accept e := eventRaise_jnl s kind ref result tag
  refine ⟨⟨_, rfl, ?_, ?_, ?_, eventRaise_evtPend s ref result tag, fun hc hf => ?_, fun h => ?_⟩,
    fun c rest hc => ⟨fun hf => ?_, fun hf => congrArg Host.Outcome.next (summaryClose_of_full hf)⟩,
    fun hc => congrArg Host.Outcome.next (summaryClose_of_none_open hc), fun hb slot => ⟨?_, ?_, ?_⟩⟩
  · rw [hj, accept_raised]
  · rw [hj, accept_ring]
  · rw [hj, accept_next]
  · rw [hj]
    exact accept_of_room e hc hf
  · obtain ⟨hfifo, hcounters⟩ := accept_of_no_room e h
    rw [hj, hfifo, hcounters]
    refine ⟨rfl, addSummary_of_closed (e := e), fun l c m hl hk hd => ?_⟩
    rw [hl]
    exact addSummary_of_open (e := e) m hk hd
  · exact ⟨_, congrArg Host.Outcome.next (summaryClose_of_room hc hf), rfl, rfl, pending_closed j hc⟩
  · exact ⟨_, exec_journalWindowRead slot .ok hb, rfl, rfl⟩
  · exact ⟨_, exec_journalWindowRead slot .corrected hb, rfl, journalWindowRead_corrected_counter s slot⟩
  · have hu := journalWindowRead_uncorrectable_jnl s slot
    refine ⟨_, exec_journalWindowRead slot .uncorrectable hb, rfl, journalWindowRead_uncorrectable_counter s slot, ?_, ?_⟩
    · rw [hu, accept_raised]
    · rw [hu, accept_ring]

end

/-! # Every step keeps the invariant: the proofs -/

section
open Sys2Proof Sys2Proof.Machine

namespace Sys2Proof.Machine

/-- The outcome is a next state that has the waiting queue `qs` and the parts of the invariant. -/
def AnswersKept (qs : List Instr) (o : Host.Outcome State Fault Refusal) : Prop := ∃ t, o = .next t ∧ Kept qs planOk t

theorem keep_issueFree {qs : List Instr} {P : PlanPred} {s : State} (b : BlockId) (gs fs : List Reg) {k : State → State} (h : Kept qs P s)
    (hk : ∀ u, Kept qs P u → Kept qs P (k u)) : Kept qs P (s.issue b fun s => s.whenFree b gs fs k) :=
  keep_State_issue _ _ h fun _ hu => keep_State_whenFree _ _ _ _ hu hk

/-! ## The commands whose meaning is a case split of its own -/

section
variable {qs : List Instr} {s : State} (h : Kept qs planOk s)
include h

theorem answersKept_branch (b : BlockId) (fn : BranchFn) (imm : BitVec 14) (rb ra : Reg) : AnswersKept qs (exec (.branch b fn imm rb ra) s) := by
  refine ⟨_, rfl, keep_issueFree _ _ _ h fun u h => ?_⟩
  have ht := keep_State_traceOutcome b (branchTaken fn (u.getG b ra) (u.getG b rb)) h
  exact keep_ite (keep_State_redirect _ _ (keep_State_noteTaken _ _ ht)) (keep_State_advance _ ht)

theorem answersKept_nopCommand (seq : BitVec 64) : AnswersKept qs (exec (.nopCommand seq) s) := by
  refine ⟨_, rfl, ?_⟩
  split
  · exact keep_State_endCmd _ _ _ h
  · exact h

theorem answersKept_fenceCommand (seq : BitVec 64) : AnswersKept qs (exec (.fenceCommand seq) s) := by
  refine ⟨_, rfl, ?_⟩
  split
  · exact keep_ite (keep_State_endCmd _ _ _ h) h
  · exact h

theorem answersKept_journalMark (seq : BitVec 64) : AnswersKept qs (exec (.journalMark seq) s) := by
  refine ⟨_, rfl, ?_⟩
  split
  · exact keep_State_endCmd _ _ _ h
  · exact h

theorem answersKept_healthSweep (seq : BitVec 64) : AnswersKept qs (exec (.healthSweep seq) s) := by
  refine ⟨_, rfl, ?_⟩
  split
  · exact h
  · exact keep_ite (keep_State_wholeSweep _ h) (keep_State_windowSweep _ h)

theorem answersKept_repairApply (seq : BitVec 64) : AnswersKept qs (exec (.repairApply seq) s) := by
  refine ⟨_, rfl, ?_⟩
  split
  · exact h
  · exact keep_ite (keep_State_endCmd _ _ _ (keep_State_applyRepair h)) (keep_State_endCmd _ _ _ h)

theorem answersKept_fastResetRequest (path : Option Path) (v : Byte) : AnswersKept qs (exec (.fastResetRequest path v) s) := by
  refine ⟨_, rfl, ?_⟩
  split
  · exact keep_State_rowAccess _ _ _ _ _ _ h
  · exact keep_ite (keep_State_askReset _ h) h

theorem answersKept_retentionClearRequest (path : Option Path) (v : Byte) : AnswersKept qs (exec (.retentionClearRequest path v) s) := by
  refine ⟨_, rfl, ?_⟩
  split
  · exact keep_State_rowAccess _ _ _ _ _ _ h
  · exact keep_ite (keep_State_askReset _ h) h

theorem answersKept_apply (path : Option Path) (v : Byte) : AnswersKept qs (exec (.apply path v) s) := by
  refine ⟨_, rfl, ?_⟩
  split
  · exact keep_State_rowAccess _ _ _ _ _ _ h
  · exact keep_ite (keep_State_applyTime h) h

end

/-- Every command answers a next state, and keeps the parts of the invariant and the queue. -/
theorem answersKept_exec {qs : List Instr} {s : State} (h : Kept qs planOk s) (c : Instr) : AnswersKept qs (exec c s) := by
  cases c with
  | integerRegisterOp _ _ _ _ _ => exact ⟨_, rfl, keep_integerRegisterOp _ _ _ _ _ h⟩
  | integerImmediateOp _ _ _ _ _ => exact ⟨_, rfl, keep_integerImmediateOp _ _ _ _ _ h⟩
  | lui _ _ _ => exact ⟨_, rfl, keep_issueFree _ _ _ h fun _ h => keep_State_finish _ _ _ h⟩
  | lhi _ _ _ => exact ⟨_, rfl, keep_issueFree _ _ _ h fun _ h => keep_State_finish _ _ _ h⟩
  | multiply _ _ _ _ _ => exact ⟨_, rfl, keep_issueFree _ _ _ h fun _ h => keep_State_startLong _ _ h⟩
  | divideRemainder _ _ _ _ _ => exact ⟨_, rfl, keep_issueFree _ _ _ h fun _ h => keep_State_startLong _ _ h⟩
  | load _ _ _ _ _ _ => exact ⟨_, rfl, keep_ite (keep_mgmtLoad _ _ _ _ _ h) (keep_doLoad _ _ _ _ _ _ h)⟩
  | store _ _ _ _ _ _ => exact ⟨_, rfl, keep_ite (keep_mgmtStore _ _ _ _ _ h) (keep_doStore _ _ _ _ _ _ h)⟩
  | branch _ _ _ _ _ => exact answersKept_branch h _ _ _ _ _
  | jal _ _ _ => exact ⟨_, rfl, keep_issueFree _ _ _ h fun _ h => keep_State_redirect _ _ (keep_State_noteTaken _ _ (keep_State_setG _ _ _ h))⟩
  | jalr _ _ _ _ =>
    exact ⟨_, rfl, keep_issueFree _ _ _ h fun _ h =>
      keep_State_redirect _ _ (keep_State_noteTaken _ _ (keep_State_setG _ _ _ (keep_State_traceTarget _ _ h)))⟩
  | fpOperation _ _ _ _ _ _ _ => exact ⟨_, rfl, keep_doFpOperation _ _ _ _ _ _ _ h⟩
  | fpFusedMultiplyAdd _ _ _ _ _ _ _ _ => exact ⟨_, rfl, keep_doFma _ _ _ _ _ _ _ _ h⟩
  | fpConversion _ _ _ _ _ _ => exact ⟨_, rfl, keep_doConversion _ _ _ _ _ _ h⟩
  | crr _ _ _ _ => exact ⟨_, rfl, keep_doCrr _ _ _ _ h⟩
  | crw _ _ _ _ => exact ⟨_, rfl, keep_doCrw _ _ _ _ h⟩
  | loop _ _ _ => exact ⟨_, rfl, keep_doLoop _ _ _ h⟩
  | mwait _ _ _ _ => exact ⟨_, rfl, keep_doMwait _ _ _ _ h⟩
  | mcount _ _ _ =>
    exact ⟨_, rfl, keep_State_issue _ _ h fun _ h => keep_State_decoded _ _ _ h fun _ h => keep_State_whenFree _ _ _ _ h fun _ h =>
      keep_State_chanCheck _ _ _ h fun _ h => keep_State_finish _ _ _ h⟩
  | mbxSend _ _ _ => exact ⟨_, rfl, keep_doMbxSend _ _ _ h⟩
  | mbxRecv _ _ => exact ⟨_, rfl, keep_doMbxRecv _ _ h⟩
  | nop _ => exact ⟨_, rfl, keep_State_issue _ _ h fun _ h => keep_State_advance _ h⟩
  | ewait _ => exact ⟨_, rfl, keep_doEwait _ h⟩
  | fence _ _ => exact ⟨_, rfl, keep_doFence _ _ h⟩
  | hold _ _ => exact ⟨_, rfl, keep_doHold _ _ h⟩
  | trap _ _ => exact ⟨_, rfl, keep_State_issue _ _ h fun _ h => keep_State_raiseAfter _ _ _ h⟩
  | tret _ _ => exact ⟨_, rfl, keep_doTret _ _ h⟩
  | brk _ _ => exact ⟨_, rfl, keep_State_issue _ _ h fun _ h => keep_State_raiseAfter _ _ _ h⟩
  | longOperationComplete _ _ => exact ⟨_, rfl, keep_longOperationComplete _ _ h⟩
  | remoteLoadResponse _ _ _ => exact ⟨_, rfl, keep_remoteLoadResponse _ _ _ h⟩
  | trapEntry _ _ _ => exact ⟨_, rfl, keep_trapEntry _ _ _ h⟩
  | holdWindowExpiry _ => exact ⟨_, rfl, keep_State_modPriv _ _ h⟩
  | lateStoreErrorReturn _ _ _ => exact ⟨_, rfl, keep_State_accessFailed _ _ _ h⟩
  | footpathResponseTimeout _ _ => exact ⟨_, rfl, keep_State_accessFailed _ _ _ h⟩
  | blkResumeGo _ _ => exact ⟨_, rfl, keep_State_resumeWrite _ _ _ h⟩
  | vectorArithmetic _ _ _ _ _ _ _ => exact ⟨_, rfl, keep_issueArith _ _ _ _ _ _ _ h⟩
  | vectorCompare _ _ _ _ _ _ _ => exact ⟨_, rfl, keep_issueCmp _ _ _ _ _ _ _ h⟩
  | vectorReduction _ _ _ _ _ _ => exact ⟨_, rfl, keep_issueRed _ _ _ _ _ _ h⟩
  | vectorPermutation _ _ _ _ _ _ _ => exact ⟨_, rfl, keep_issuePerm _ _ _ _ _ _ _ h⟩
  | vcvt _ _ _ _ _ _ _ => exact ⟨_, rfl, keep_issueVcvt _ _ _ _ _ _ _ h⟩
  | vmxq _ _ _ _ _ _ => exact ⟨_, rfl, keep_issueVmxq _ _ _ _ _ _ h⟩
  | maskOperation _ _ _ _ _ => exact ⟨_, rfl, keep_issueMask _ _ _ _ _ h⟩
  | vcsum _ _ _ _ => exact ⟨_, rfl, keep_issueVcsum _ _ _ _ h⟩
  | vectorLoad _ _ _ _ _ _ _ => exact ⟨_, rfl, keep_issueMem _ _ _ _ _ _ _ _ _ h⟩
  | vectorStore _ _ _ _ _ _ _ => exact ⟨_, rfl, keep_issueMem _ _ _ _ _ _ _ _ _ h⟩
  | acfill _ _ _ => exact ⟨_, rfl, keep_issueAcfill _ _ _ h⟩
  | acput _ _ _ => exact ⟨_, rfl, keep_issuePlain _ _ _ h⟩
  | acdrop _ _ => exact ⟨_, rfl, keep_issuePlain _ _ _ h⟩
  | acdropall _ => exact ⟨_, rfl, keep_issuePlain _ _ _ h⟩
  | vectorEngineStart _ => exact ⟨_, rfl, keep_vectorEngineStart _ h⟩
  | vectorEngineComplete _ _ _ => exact ⟨_, rfl, keep_vectorEngineComplete _ _ _ h⟩
  | mma _ _ _ _ _ _ _ _ => exact ⟨_, rfl, keep_issuePlain _ _ _ h⟩
  | mmx _ _ _ _ _ _ _ _ _ => exact ⟨_, rfl, keep_issuePlain _ _ _ h⟩
  | tld _ _ _ _ => exact ⟨_, rfl, keep_issueTile _ _ _ _ h⟩
  | tst _ _ _ _ => exact ⟨_, rfl, keep_issueTile _ _ _ _ h⟩
  | tld6 _ _ _ _ => exact ⟨_, rfl, keep_issueTile _ _ _ _ h⟩
  | tst6 _ _ _ _ => exact ⟨_, rfl, keep_issueTile _ _ _ _ h⟩
  | zld _ _ _ _ => exact ⟨_, rfl, keep_issueTile _ _ _ _ h⟩
  | zst _ _ _ _ => exact ⟨_, rfl, keep_issueTile _ _ _ _ h⟩
  | zclr _ _ => exact ⟨_, rfl, keep_issuePlain _ _ _ h⟩
  | tfromv _ _ _ => exact ⟨_, rfl, keep_issuePlain _ _ _ h⟩
  | tov _ _ _ => exact ⟨_, rfl, keep_issuePlain _ _ _ h⟩
  | zfromv _ _ _ _ => exact ⟨_, rfl, keep_issuePlain _ _ _ h⟩
  | ztov _ _ _ _ => exact ⟨_, rfl, keep_issuePlain _ _ _ h⟩
  | zcvt _ _ _ _ _ _ => exact ⟨_, rfl, keep_issueZcvt _ _ _ _ _ _ h⟩
  | matrixUnitStart _ => exact ⟨_, rfl, keep_matrixUnitStart _ h⟩
  | matrixUnitComplete _ _ _ _ => exact ⟨_, rfl, keep_matrixUnitComplete _ _ _ _ h⟩
  | epochBoundary => exact ⟨_, rfl, keep_epochBoundary h⟩
  | gateInstant => exact ⟨_, rfl, keep_gateInstant h⟩
  | gateDecisionEffect _ => exact ⟨_, rfl, keep_gateDecisionEffect _ h⟩
  | epochEnd => exact ⟨_, rfl, keep_epochEnd h⟩
  | planStartTime => exact ⟨_, rfl, keep_planStartTime h⟩
  | planStopBoundary => exact ⟨_, rfl, keep_planStopBoundary h⟩
  | powerEntryApply _ => exact ⟨_, rfl, keep_powerEntryApply _ h⟩
  | wakeComplete _ => exact ⟨_, rfl, keep_wakeComplete _ h⟩
  | clkReqWrite _ _ => exact ⟨_, rfl, keep_State_clkReq _ _ h⟩
  | quarterPllStart _ => exact ⟨_, rfl, keep_quarterPllStart _ h⟩
  | quarterPllRelease _ => exact ⟨_, rfl, keep_quarterPllRelease _ h⟩
  | quarterPllStop _ => exact ⟨_, rfl, keep_quarterPllStop _ h⟩
  | messageSend _ _ => exact ⟨_, rfl, keep_messageSend _ _ h⟩
  | crossingFlitArrival _ _ => exact ⟨_, rfl, keep_crossingFlitArrival _ _ h⟩
  | landingFlitVisible _ => exact ⟨_, rfl, keep_landingFlitVisible _ h⟩
  | holdBufferEntry _ => exact ⟨_, rfl, keep_holdBufferEntry _ h⟩
  | messageRelease _ _ => exact ⟨_, rfl, keep_messageRelease _ _ h⟩
  | ucieFrameReceive _ _ => exact ⟨_, rfl, keep_ucieFrameReceive _ _ _ h⟩
  | footpathPacketReceive _ _ _ _ => exact ⟨_, rfl, keep_footpathPacketReceive _ _ _ _ h⟩
  | fecBlockReceive _ _ => exact ⟨_, rfl, keep_fecBlockReceive _ _ _ h⟩
  | linkTransmitEntry _ => exact ⟨_, rfl, keep_linkTransmitEntry _ h⟩
  | milestoneSend _ _ => exact ⟨_, rfl, keep_milestoneSend _ _ h⟩
  | unplannedFrameSend _ _ _ _ _ _ _ => exact ⟨_, rfl, keep_unplannedFrameSend _ _ _ _ _ _ _ h⟩
  | unplannedRetryTimeout _ => exact ⟨_, rfl, keep_ite (keep_State_resendAll _ h) h⟩
  | linkSignalDetect _ => exact ⟨_, rfl, keep_linkSignalDetect _ h⟩
  | linkTrainComplete _ _ => exact ⟨_, rfl, keep_ite (keep_linkTrainComplete _ h) h⟩
  | linkTrainTimeout _ => exact ⟨_, rfl, keep_ite (keep_State_linkTo _ _ _ h) h⟩
  | capsComplete _ _ => exact ⟨_, rfl, keep_ite (keep_capsComplete _ h) h⟩
  | surveyIdentitySend _ => exact ⟨_, rfl, keep_ite (keep_State_modPort _ _ h) h⟩
  | retrainTrigger _ _ => exact ⟨_, rfl, keep_ite (keep_State_toRetrain _ _ h) h⟩
  | retrainComplete _ _ _ => exact ⟨_, rfl, keep_ite (keep_retrainComplete _ h) h⟩
  | retrainTimeout _ => exact ⟨_, rfl, keep_ite (keep_State_linkTo _ _ _ h) h⟩
  | lnkRetrainRequest _ => exact ⟨_, rfl, keep_State_toRetrain _ _ h⟩
  | lnkEnableChange _ _ => exact ⟨_, rfl, keep_State_linkEnable _ _ h⟩
  | sqDoorbellWrite _ _ => exact ⟨_, rfl, keep_sqDoorbellWrite _ _ h⟩
  | cqDoorbellWrite _ _ => exact ⟨_, rfl, keep_cqDoorbellWrite _ _ h⟩
  | entryFetch _ _ => exact ⟨_, rfl, keep_entryFetch _ _ h⟩
  | completionWrite _ => exact ⟨_, rfl, keep_completionWrite _ h⟩
  | irqDelayTimeout _ => exact ⟨_, rfl, keep_ite (keep_State_queueIrq _ h) h⟩
  | queueEnable _ => exact ⟨_, rfl, keep_ite (keep_State_enableQueue _ h) h⟩
  | queueDisable _ => exact ⟨_, rfl, keep_State_disableQueue _ _ h⟩
  | functionLevelReset => exact ⟨_, rfl, keep_State_functionReset h⟩
  | d3hotEntry => exact ⟨_, rfl, keep_State_enterD3 h⟩
  | d0Return => exact ⟨_, rfl, keep_State_returnD0 h⟩
  | bar2Write _ _ => exact ⟨_, rfl, keep_ite (keep_bar2Write _ _ _ h) h⟩
  | bar2Read _ _ _ => exact ⟨_, rfl, keep_ite (keep_bar2Read _ _ _ h) h⟩
  | dictWindowAccess _ _ => exact ⟨_, rfl, keep_dictWindowAccess _ _ h⟩
  | nopCommand _ => exact answersKept_nopCommand h _
  | planLoad _ => exact ⟨_, rfl, keep_planLoad _ h⟩
  | planBind _ _ => exact ⟨_, rfl, keep_planBind _ _ h⟩
  | planStart _ => exact ⟨_, rfl, keep_planStart _ h⟩
  | planStop _ => exact ⟨_, rfl, keep_planStop _ h⟩
  | planUnload _ => exact ⟨_, rfl, keep_planUnload _ h⟩
  | intakeWrite _ => exact ⟨_, rfl, keep_intakeWrite _ h⟩
  | outletRead _ => exact ⟨_, rfl, keep_outletRead _ h⟩
  | tensorWrite _ => exact ⟨_, rfl, keep_tensorWrite _ h⟩
  | tensorRead _ => exact ⟨_, rfl, keep_tensorRead _ h⟩
  | fenceCommand _ => exact answersKept_fenceCommand h _
  | journalMark _ => exact answersKept_journalMark h _
  | healthSweep _ => exact answersKept_healthSweep h _
  | repairApply _ => exact answersKept_repairApply h _
  | traceArm _ => exact ⟨_, rfl, keep_traceArm _ h⟩
  | traceDrain _ => exact ⟨_, rfl, keep_traceDrain _ h⟩
  | dictRead _ => exact ⟨_, rfl, keep_dictRead _ h⟩
  | dictWrite _ _ => exact ⟨_, rfl, keep_dictWrite _ _ h⟩
  | journalCommit => exact ⟨_, rfl, keep_journalCommit h⟩
  | eventRaise _ _ _ _ => exact ⟨_, rfl, keep_eventRaise _ _ _ _ h⟩
  | summaryClose => exact ⟨_, rfl, keep_summaryClose h⟩
  | journalWindowRead _ _ => exact ⟨_, rfl, keep_ite (keep_journalWindowRead _ _ h) h⟩
  | eletteFrameReceive _ _ _ _ _ _ => exact ⟨_, rfl, keep_eletteFrameReceive _ _ _ _ _ _ h⟩
  | eletteReturnForward _ => exact ⟨_, rfl, keep_eletteReturnForward _ h⟩
  | eletteFrameEndApply _ _ _ => exact ⟨_, rfl, keep_eletteFrameEndApply _ _ _ h⟩
  | sget _ _ => exact ⟨_, rfl, keep_sget _ _ h⟩
  | sput _ => exact ⟨_, rfl, keep_sput _ h⟩
  | pget _ _ => exact ⟨_, rfl, keep_pget _ _ h⟩
  | pput _ => exact ⟨_, rfl, keep_pput _ h⟩
  | gather _ _ => exact ⟨_, rfl, keep_gather _ _ h⟩
  | allput _ => exact ⟨_, rfl, keep_allput _ h⟩
  | tlatch _ => exact ⟨_, rfl, keep_tlatch _ h⟩
  | tdist _ => exact ⟨_, rfl, keep_tdist _ h⟩
  | phyLinkPoll _ _ => exact ⟨_, rfl, keep_phyLinkPoll _ _ h⟩
  | deferredRequestServed => exact ⟨_, rfl, keep_deferredRequestServed h⟩
  | deferredRequestTimeout => exact ⟨_, rfl, keep_deferredRequestTimeout h⟩
  | mailboxEntryRemove _ _ => exact ⟨_, rfl, keep_State_rowAccess _ _ _ _ _ _ h⟩
  | lineBufferFill _ _ _ => exact ⟨_, rfl, keep_lineBufferFill _ _ _ h⟩
  | flashCopyCommit _ => exact ⟨_, rfl, keep_flashCopyCommit _ h⟩
  | challenge _ => exact ⟨_, rfl, keep_State_rowAccess _ _ _ _ _ _ h⟩
  | response _ _ => exact ⟨_, rfl, keep_State_rowAccess _ _ _ _ _ _ h⟩
  | leaseEndRequest _ _ => exact ⟨_, rfl, keep_State_rowAccess _ _ _ _ _ _ h⟩
  | leaseExpiry _ => exact ⟨_, rfl, keep_leaseExpiry _ h⟩
  | lockoutExpiry _ => exact ⟨_, rfl, keep_lockoutExpiry _ h⟩
  | custodianKeyWrite _ _ _ => exact ⟨_, rfl, keep_State_rowAccess _ _ _ _ _ _ h⟩
  | deviceStateRequest _ _ => exact ⟨_, rfl, keep_State_rowAccess _ _ _ _ _ _ h⟩
  | fastResetRequest _ _ => exact answersKept_fastResetRequest h _ _
  | retentionClearRequest _ _ => exact answersKept_retentionClearRequest h _ _
  | rstNOverride _ _ => exact ⟨_, rfl, keep_State_rowAccess _ _ _ _ _ _ h⟩
  | restrictedOverride _ _ => exact ⟨_, rfl, keep_State_rowAccess _ _ _ _ _ _ h⟩
  | alignLossClear _ _ _ => exact ⟨_, rfl, keep_State_rowAccess _ _ _ _ _ _ h⟩
  | apply _ _ => exact answersKept_apply h _ _
  | aonTimeNsRead => exact ⟨_, rfl, keep_aonTimeNsRead h⟩
  | timeSecondRollover => exact ⟨_, rfl, keep_timeSecondRollover h⟩
  | ppsEdge _ => exact ⟨_, rfl, keep_ppsEdge _ h⟩
  | timeLockTimeout => exact ⟨_, rfl, keep_timeLockTimeout h⟩
  | ppsOutput => exact ⟨_, rfl, keep_ppsOutput h⟩
  | clockMonitorFailure _ _ _ _ => exact ⟨_, rfl, keep_clockMonitorFailure _ _ _ _ h⟩
  | clockMonitorGood _ _ => exact ⟨_, rfl, keep_clockMonitorGood _ _ h⟩
  | aonPowerOn _ _ _ _ => exact ⟨_, rfl, keep_aonPowerOn _ _ _ _ h⟩
  | bootSequence _ => exact ⟨_, rfl, keep_bootSequence _ h⟩
  | powerUpStep => exact ⟨_, rfl, keep_powerUpStep h⟩
  | powerStepTimeout _ => exact ⟨_, rfl, keep_powerStepTimeout _ h⟩
  | powerDownOrder => exact ⟨_, rfl, keep_powerDownOrder h⟩
  | powerFailWarning => exact ⟨_, rfl, keep_powerFailWarning h⟩
  | powerFailRecovery => exact ⟨_, rfl, keep_powerFailRecovery h⟩
  | vretTrip => exact ⟨_, rfl, keep_State_modSup _ h⟩
  | arm => exact ⟨_, rfl, keep_State_modSup _ h⟩
  | railPoll _ => exact ⟨_, rfl, keep_foldl (fun _ _ h => keep_State_railRead _ h) _ h⟩
  | smbalertN _ => exact ⟨_, rfl, keep_smbalertN _ h⟩
  | fastDomainReset _ => exact ⟨_, rfl, keep_fastDomainReset _ h⟩
  | fastDomainRelease _ => exact ⟨_, rfl, keep_fastDomainRelease _ h⟩
  | rstNAssert => exact ⟨_, rfl, keep_rstNAssert h⟩
  | rstNDeassert _ => exact ⟨_, rfl, keep_rstNDeassert _ h⟩
  | resetStuck => exact ⟨_, rfl, keep_resetStuck h⟩
  | perstNAssert => exact ⟨_, rfl, keep_perstNAssert h⟩
  | perstNDeassert => exact ⟨_, rfl, keep_perstNDeassert h⟩
  | kick => exact ⟨_, rfl, keep_State_modSup _ h⟩
  | watchdogExpiry => exact ⟨_, rfl, keep_watchdogExpiry h⟩
  | confirmation _ _ => exact ⟨_, rfl, keep_confirmation _ _ h⟩
  | scrubLine _ _ => exact ⟨_, rfl, keep_scrubLine _ _ h⟩
  | retentionScrub _ => exact ⟨_, rfl, keep_retentionScrub _ h⟩
  | sweepWindowSegment _ _ _ => exact ⟨_, rfl, keep_sweepWindowSegment _ _ _ h⟩
  | sweepEnd => exact ⟨_, rfl, keep_sweepEnd h⟩
  | tracePacketClose _ _ => exact ⟨_, rfl, keep_tracePacketClose _ _ h⟩
  | tracePacketTimeout _ => exact ⟨_, rfl, keep_tracePacketTimeout _ h⟩
  | gts _ => exact ⟨_, rfl, keep_gts _ h⟩
  | syncReq _ => exact ⟨_, rfl, keep_State_traceSync _ h⟩
  | trcMarkWrite _ _ => exact ⟨_, rfl, keep_State_traceMark _ _ h⟩
  | sinkStore _ _ => exact ⟨_, rfl, keep_sinkStore _ _ h⟩
  | traceTransitTimeout _ => exact ⟨_, rfl, keep_traceTransitTimeout _ h⟩
  | traceDisarmComplete => exact ⟨_, rfl, keep_traceDisarmComplete h⟩
  | sensorConversion _ _ => exact ⟨_, rfl, keep_sensorConversion _ _ h⟩
  | thermtripAssert _ => exact ⟨_, rfl, keep_thermtripAssert _ h⟩
  | thermtripRelease => exact ⟨_, rfl, keep_thermtripRelease h⟩
  | registerWrite _ _ _ _ => exact ⟨_, rfl, keep_registerWrite _ _ _ _ _ h⟩
  | pickup _ => exact ⟨_, rfl, keep_pickup _ h⟩
  | commandCompletion _ _ => exact ⟨_, rfl, keep_commandCompletion _ _ h⟩
  | lossOfVaon18 _ => exact ⟨_, rfl, keep_lossOfVaon18 _ h⟩
  | frequencyLockLoss => exact ⟨_, rfl, keep_frequencyLockLoss h⟩
  | slewEnd => exact ⟨_, rfl, keep_slewEnd h⟩
  | debug _ => exact ⟨_, rfl, keep_debug _ h⟩

end Sys2Proof.Machine

/-- Settles O1: by the two cases of the queue. -/
theorem stepRunsFront : Obligations.StepRunsFront := by
  refine ⟨fun _ _ _ => rfl, fun s hs => ?_⟩
  rw [step, hs]

/-- Settles O2: after reset every clock reads 0, and no item, record, byte or plan is there. -/
theorem resetHasInvariant : Obligations.ResetHasInvariant where
  time := by decide
  fifo := by decide
  ring := by decide
  host := rfl
  plan := ⟨rfl, rfl, rfl, rfl⟩

/-- Settles O4: one tick with an empty queue, and the front command on the rest of the queue otherwise. -/
theorem stepKeepsInvariant : Obligations.StepKeepsInvariant := by
  intro s hs
  cases hq : s.pending with
  | nil =>
    have h := keep_State_sendLinks (keep_State_tick hs.kept)
    exact ⟨_, by rw [step, hq], h.inv, h.queue.trans hq⟩
  | cons c rest =>
    obtain ⟨t, ht, hk⟩ := answersKept_exec (hs.kept.popped (rest := rest)) c
    exact ⟨t, by rw [step, hq]; exact ht, hk.inv, hk.queue⟩

end

/-! # What the integer operations compute: the proofs -/

section
open Sys2Proof Sys2Proof.Machine

namespace Sys2Proof.Machine

/-! ## Bytes of a number (R7) -/

/-- Byte `i` of the number that bytes spell. -/
theorem leNat_byte (l : List Byte) (i : Nat) : leNat l / 256 ^ i % 256 = (l.getD i 0).toNat := by
  induction l generalizing i with
  | nil => simp [leNat]
  | cons b t ih =>
    have hb := b.isLt
    cases i with
    | zero => simp only [leNat, pow_zero, Nat.div_one, List.getD_cons_zero]; omega
    | succ i =>
      have hd : (b.toNat + 256 * leNat t) / 256 = leNat t := by omega
      rw [leNat, Nat.pow_succ', ← Nat.div_div_eq_div_mul, hd, ih, List.getD_cons_succ]

theorem leBytes_getD (n v i : Nat) (h : i < n) : (leBytes n v).getD i 0 = BitVec.ofNat 8 (v / 256 ^ i) := by
  induction n generalizing v i with
  | zero => omega
  | succ n ih =>
    cases i with
    | zero => simp [leBytes]
    | succ i => rw [leBytes, List.getD_cons_succ, ih _ _ (by omega), Nat.pow_succ', ← Nat.div_div_eq_div_mul]

/-! ## Narrow operations (R148): the low bits, extended -/

theorem toInt_sextW (v : BitVec 32) : (sextW v).toInt = v.toInt := BitVec.toInt_signExtend_of_le (by decide)

/-- The low bits of a word, as a signed number. -/
theorem toInt_setWidth_bmod (v : W64) {k : Nat} (hk : k ≤ 64) : (v.setWidth k).toInt = v.toInt.bmod (2 ^ k) := by
  rw [BitVec.toInt_setWidth, BitVec.toInt_eq_toNat_bmod, Int.bmod_bmod_of_dvd (by exact_mod_cast Nat.pow_dvd_pow 2 hk)]

theorem toInt_signExtend_setWidth (v : W64) {k : Nat} (hk : k ≤ 64) : ((v.setWidth k).signExtend 64).toInt = v.toInt.bmod (2 ^ k) := by
  rw [BitVec.toInt_signExtend_of_le hk, toInt_setWidth_bmod v hk]

theorem toNat_zeroExtend_setWidth (v : W64) {k : Nat} (hk : k ≤ 64) : ((v.setWidth k).zeroExtend 64).toNat = v.toNat % 2 ^ k := by
  have : v.toNat % 2 ^ k < 2 ^ 64 := (Nat.mod_lt _ (Nat.two_pow_pos k)).trans_le (Nat.pow_le_pow_right (by decide) hk)
  rw [BitVec.zeroExtend, BitVec.toNat_setWidth, BitVec.toNat_setWidth, Nat.mod_eq_of_lt this]

theorem toInt_addW (a b : W64) : (sextW (a.setWidth 32 + b.setWidth 32)).toInt = (a.toInt + b.toInt).bmod (2 ^ 32) := by
  rw [toInt_sextW, BitVec.toInt_add, toInt_setWidth_bmod a (by decide), toInt_setWidth_bmod b (by decide), Int.add_bmod_bmod, Int.bmod_add_bmod]

theorem toInt_subW (a b : W64) : (sextW (a.setWidth 32 - b.setWidth 32)).toInt = (a.toInt - b.toInt).bmod (2 ^ 32) := by
  rw [toInt_sextW, BitVec.toInt_sub, toInt_setWidth_bmod a (by decide), toInt_setWidth_bmod b (by decide), Int.sub_bmod_bmod, Int.bmod_sub_bmod]

theorem toInt_sllW (a : W64) (n : Nat) : (sextW (a.setWidth 32 <<< n)).toInt = (a.toInt * 2 ^ n).bmod (2 ^ 32) := by
  rw [toInt_sextW, BitVec.toInt_shiftLeft, Nat.shiftLeft_eq, Int.natCast_mul, Nat.cast_pow, Nat.cast_ofNat, ← Int.bmod_mul_bmod,
    ← BitVec.toInt_eq_toNat_bmod, toInt_setWidth_bmod a (by decide), Int.bmod_mul_bmod]

theorem toInt_srlW (a : W64) (n : Nat) : (sextW (a.setWidth 32 >>> n)).toInt = ((a.toNat % 2 ^ 32 / 2 ^ n : Nat) : Int).bmod (2 ^ 32) := by
  rw [toInt_sextW, BitVec.toInt_eq_toNat_bmod, BitVec.toNat_ushiftRight, BitVec.toNat_setWidth, Nat.shiftRight_eq_div_pow]

theorem toInt_sraW (a : W64) (n : Nat) : (sextW ((a.setWidth 32).sshiftRight n)).toInt = a.toInt.bmod (2 ^ 32) / 2 ^ n := by
  rw [toInt_sextW, BitVec.toInt_sshiftRight, toInt_setWidth_bmod a (by decide), Int.shiftRight_eq_div_pow, Nat.cast_pow, Nat.cast_ofNat]

/-! ## Shifts, minima and maxima -/

theorem toNat_sll (a : W64) (n : Nat) : (a <<< n).toNat = a.toNat * 2 ^ n % 2 ^ 64 := by rw [BitVec.toNat_shiftLeft, Nat.shiftLeft_eq]

theorem toNat_srl (a : W64) (n : Nat) : (a >>> n).toNat = a.toNat / 2 ^ n := by rw [BitVec.toNat_ushiftRight, Nat.shiftRight_eq_div_pow]

theorem toInt_sra (a : W64) (n : Nat) : (a.sshiftRight n).toInt = a.toInt / 2 ^ n := by
  rw [BitVec.toInt_sshiftRight, Int.shiftRight_eq_div_pow, Nat.cast_pow, Nat.cast_ofNat]

theorem b2w_eq_ite {b : Bool} {p : Prop} [Decidable p] (h : b = true ↔ p) : b2w b = if p then 1 else 0 := if_congr h rfl rfl

/-- A choice by a comparison of two words, read as numbers. -/
theorem apply_choice {α β : Type} (f : α → β) {c : Bool} {p : Prop} [Decidable p] (h : c = true ↔ p) (x y : α) :
    f (if c then x else y) = if p then f x else f y := (apply_ite f _ x y).trans (if_congr h rfl rfl)

theorem slt_iff (a b : W64) : a.slt b = true ↔ a.toInt < b.toInt := BitVec.slt_iff_toInt_lt
theorem ult_iff (a b : W64) : a.ult b = true ↔ a.toNat < b.toNat := BitVec.ult_iff_lt.trans BitVec.lt_def

theorem toInt_min_slt (a b : W64) : (if a.slt b then a else b).toInt = min a.toInt b.toInt := by
  rw [apply_choice BitVec.toInt (slt_iff a b)]
  split <;> omega

theorem toInt_max_slt (a b : W64) : (if a.slt b then b else a).toInt = max a.toInt b.toInt := by
  rw [apply_choice BitVec.toInt (slt_iff a b)]
  split <;> omega

theorem toNat_min_ult (a b : W64) : (if a.ult b then a else b).toNat = min a.toNat b.toNat := by
  rw [apply_choice BitVec.toNat (ult_iff a b)]
  split <;> omega

theorem toNat_max_ult (a b : W64) : (if a.ult b then b else a).toNat = max a.toNat b.toNat := by
  rw [apply_choice BitVec.toNat (ult_iff a b)]
  split <;> omega

/-! ## Counting bits -/

/-- The leading 1 bit of a word stands where `clz64` says. -/
theorem clz64_bounds {a : W64} (h : a ≠ 0) : 2 ^ (63 - (clz64 a).toNat) ≤ a.toNat ∧ a.toNat < 2 ^ (64 - (clz64 a).toNat) := by
  have hn : a.toNat ≠ 0 := fun k => h (BitVec.eq_of_toNat_eq k)
  have hl : a.toNat.log2 < 64 := (Nat.log2_lt hn).mpr a.isLt
  have hc : (clz64 a).toNat = 63 - a.toNat.log2 := by
    rw [clz64, if_neg h, BitVec.toNat_ofNat, Nat.mod_eq_of_lt (by omega)]
  rw [hc, show 63 - (63 - a.toNat.log2) = a.toNat.log2 by omega, show 64 - (63 - a.toNat.log2) = a.toNat.log2 + 1 by omega]
  exact ⟨Nat.log2_self_le hn, Nat.lt_log2_self⟩

/-- The search for the first 1 bit from `i` on finds one that is there. -/
theorem firstOne_spec (a : W64) (n i : Nat) (h : ∃ j, i ≤ j ∧ j < i + n ∧ a.getLsbD j = true) :
    a.getLsbD (firstOne a n i) = true ∧ firstOne a n i < i + n ∧ ∀ j, i ≤ j → j < firstOne a n i → a.getLsbD j = false := by
  induction n generalizing i with
  | zero => omega
  | succ n ih =>
    rw [firstOne]
    by_cases hb : a.getLsbD i = true
    · rw [if_pos hb]
      exact ⟨hb, by omega, fun j h1 h2 => absurd h2 (by omega)⟩
    · rw [if_neg hb]
      obtain ⟨j, h1, h2, h3⟩ := h
      have hj : j ≠ i := fun e => hb (e ▸ h3)
      obtain ⟨k1, k2, k3⟩ := ih (i + 1) ⟨j, by omega, by omega, h3⟩
      refine ⟨k1, by omega, fun m h1 h2 => ?_⟩
      rcases Nat.eq_or_lt_of_le h1 with rfl | h1
      · exact eq_false_of_ne_true hb
      · exact k3 m h1 h2

/-- The lowest 1 bit of a word stands where `ctz64` says. -/
theorem ctz64_spec {a : W64} (h : a ≠ 0) : a.getLsbD (ctz64 a).toNat = true ∧ ∀ i < (ctz64 a).toNat, a.getLsbD i = false := by
  have hex : ∃ j, 0 ≤ j ∧ j < 0 + 64 ∧ a.getLsbD j = true := by
    by_contra hn
    exact h (BitVec.eq_of_getLsbD_eq fun i hi => by
      exact (eq_false_of_ne_true fun k => hn ⟨i, by omega, by omega, k⟩).trans BitVec.getLsbD_zero.symm)
  obtain ⟨h1, h2, h3⟩ := firstOne_spec a 64 0 hex
  have hc : (ctz64 a).toNat = firstOne a 64 0 := by rw [ctz64, BitVec.toNat_ofNat, Nat.mod_eq_of_lt (by omega)]
  rw [hc]
  exact ⟨h1, fun i hi => h3 i (by omega) hi⟩

theorem popNat_eq (a : W64) (n : Nat) : popNat a.toNat n = ((List.range n).filter fun i => a.getLsbD i).length := by
  induction n with
  | zero => rfl
  | succ n ih =>
    rw [popNat, ih, List.range_succ, List.filter_append, List.length_append, Nat.add_comm, BitVec.testBit_toNat]
    cases h : a.getLsbD n <;> simp [h]

theorem popNat_le (a n : Nat) : popNat a n ≤ n := by
  induction n with
  | zero => exact Nat.le_refl 0
  | succ n ih => rw [popNat]; split <;> omega

theorem bswap64_byte (a : W64) (i : Nat) (hi : i < 8) : (bswap64 a).toNat / 256 ^ i % 256 = a.toNat / 256 ^ (7 - i) % 256 := by
  have hl : leNat (leBytes 8 a.toNat).reverse < 2 ^ 64 := by simpa using leNat_lt (leBytes 8 a.toNat).reverse
  have hd : (leBytes 8 a.toNat).reverse.getD i 0 = BitVec.ofNat 8 (a.toNat / 256 ^ (7 - i)) := by
    rw [← leBytes_getD 8 a.toNat (7 - i) (by omega), List.getD_eq_getElem?_getD, List.getElem?_reverse (by simpa using hi),
      List.getD_eq_getElem?_getD, leBytes_length]
  rw [bswap64, BitVec.toNat_ofNat, Nat.mod_eq_of_lt hl, leNat_byte, hd, BitVec.toNat_ofNat]

/-! ## Immediates (R141) -/

theorem toInt_simm14 (imm : BitVec 14) : (simm14 imm).toInt = imm.toInt := BitVec.toInt_signExtend_of_le (by decide)

theorem toNat_simm14 (imm : BitVec 14) : (simm14 imm).toNat = (imm.toInt % 2 ^ 64).toNat := by
  have := (simm14 imm).isLt
  rw [← toInt_simm14, BitVec.toInt_eq_toNat_cond]
  split <;> omega

theorem toNat_zimm14 (imm : BitVec 14) : (zimm14 imm).toNat = imm.toNat := by
  have := imm.isLt
  rw [zimm14, BitVec.zeroExtend, BitVec.toNat_setWidth, Nat.mod_eq_of_lt (by omega)]

end Sys2Proof.Machine

/-- Settles O5: each operation by the number that its result stands for. -/
theorem integerOpValues : Obligations.IntegerOpValues := by
  refine ⟨fun a b => ⟨BitVec.toNat_add a b, BitVec.toInt_sub, fun i hi => ?_, toNat_sll a _, toNat_srl a _, toInt_sra a _,
    b2w_eq_ite (slt_iff a b), b2w_eq_ite (ult_iff a b), b2w_eq_ite beq_iff_eq, toInt_min_slt a b,
    toInt_max_slt a b, toNat_min_ult a b, toNat_max_ult a b, toInt_addW a b, toInt_subW a b, toInt_sllW a _, toInt_srlW a _, toInt_sraW a _,
    ?_, fun h => ?_, ?_, toInt_signExtend_setWidth a (by decide), toInt_signExtend_setWidth a (by decide),
    toInt_signExtend_setWidth a (by decide), toNat_zeroExtend_setWidth a (by decide), toNat_zeroExtend_setWidth a (by decide),
    toNat_zeroExtend_setWidth a (by decide), bswap64_byte a⟩, fun a imm => ?_⟩
  · simp [intOp, hi]
  · rintro rfl
    exact ⟨rfl, rfl⟩
  · obtain ⟨hlow, hhigh⟩ := clz64_bounds h
    obtain ⟨hone, hzero⟩ := ctz64_spec h
    exact ⟨hlow, hhigh, hone, hzero⟩
  · have := popNat_le a.toNat 64
    rw [← popNat_eq, intOp, BitVec.toNat_ofNat, Nat.mod_eq_of_lt (by omega)]
  · have hi := toInt_simm14 imm
    have hw : ((simm14 imm).setWidth 32).toInt = imm.toInt.bmod (2 ^ 32) := by rw [toInt_setWidth_bmod _ (by decide), hi]
    refine ⟨by rw [immOp, BitVec.toInt_add, hi], by rw [immOp, toInt_addW, hi], ?_, ?_, ?_, b2w_eq_ite ?_, b2w_eq_ite ?_, toNat_sll a _,
      toNat_srl a _, toInt_sra a _⟩
    · rw [immOp, BitVec.toNat_and, toNat_zimm14]
    · rw [immOp, BitVec.toNat_or, toNat_zimm14]
    · rw [immOp, BitVec.toNat_xor, toNat_zimm14]
    · rw [slt_iff, hi]
    · rw [ult_iff, toNat_simm14]

end

/-! # Products, quotients and remainders: the proofs -/

section
open Sys2Proof Sys2Proof.Machine

namespace Sys2Proof.Machine

/-! ## High halves of products (R151) -/

/-- A number that a signed word holds is the word's value. -/
theorem toInt_ofInt_of_range {i : Int} (h1 : -2 ^ 63 ≤ i) (h2 : i < 2 ^ 63) : (BitVec.ofInt 64 i).toInt = i := by
  rw [BitVec.toInt_ofInt, Int.bmod_eq_of_le] <;> omega

theorem toInt_range (a : W64) : -2 ^ 63 ≤ a.toInt ∧ a.toInt < 2 ^ 63 := ⟨BitVec.le_toInt a, BitVec.toInt_lt⟩

theorem toInt_mulh (a b : W64) : (mulOp .mulh a b).toInt = a.toInt * b.toInt / 2 ^ 64 := by
  obtain ⟨ha, ha'⟩ := toInt_range a
  obtain ⟨hb, hb'⟩ := toInt_range b
  have hp : |a.toInt * b.toInt| ≤ 2 ^ 63 * 2 ^ 63 := by
    rw [abs_mul]
    exact mul_le_mul (abs_le.mpr ⟨ha, ha'.le⟩) (abs_le.mpr ⟨hb, hb'.le⟩) (abs_nonneg _) (by decide)
  obtain ⟨h1, h2⟩ := abs_le.mp hp
  exact toInt_ofInt_of_range (by omega) (by omega)

theorem toNat_mulhu (a b : W64) : (mulOp .mulhu a b).toNat = a.toNat * b.toNat / 2 ^ 64 := by
  have h : a.toNat * b.toNat < 2 ^ 64 * 2 ^ 64 := Nat.mul_lt_mul'' a.isLt b.isLt
  rw [mulOp, BitVec.toNat_ofNat, Nat.mod_eq_of_lt (Nat.div_lt_of_lt_mul h)]

theorem toInt_mulhsu (a b : W64) : (mulOp .mulhsu a b).toInt = a.toInt * b.toNat / 2 ^ 64 := by
  obtain ⟨ha, ha'⟩ := toInt_range a
  have hb : (b.toNat : Int) < 2 ^ 64 := by exact_mod_cast b.isLt
  have h0 : (0 : Int) ≤ b.toNat := Int.natCast_nonneg _
  have h1 : -2 ^ 63 * 2 ^ 64 ≤ a.toInt * b.toNat := by nlinarith
  have h2 : a.toInt * b.toNat < 2 ^ 63 * 2 ^ 64 := by nlinarith
  exact toInt_ofInt_of_range (by omega) (by omega)

theorem toInt_mulw (a b : W64) : (mulOp .mulw a b).toInt = (a.toInt * b.toInt).bmod (2 ^ 32) := by
  rw [mulOp, toInt_sextW, BitVec.toInt_mul, toInt_setWidth_bmod a (by decide), toInt_setWidth_bmod b (by decide), Int.mul_bmod_bmod,
    Int.bmod_mul_bmod]

/-! ## Quotients and remainders, at every width (R151, R152) -/

section
variable {w : Nat} {a b : BitVec w} (h : b ≠ 0)
include h

theorem toInt_quoS : (quoS a b).toInt = (a.toInt.tdiv b.toInt).bmod (2 ^ w) := by rw [quoS, if_neg h, BitVec.toInt_ofInt]

/-- The remainder lies within the word, as the library's `srem` has it. -/
theorem toInt_remS : (remS a b).toInt = a.toInt.tmod b.toInt := by
  rw [remS, if_neg h, ← BitVec.toInt_srem, BitVec.ofInt_toInt]

theorem toNat_quoU : (quoU a b).toNat = a.toNat / b.toNat := by rw [quoU, if_neg h, BitVec.toNat_udiv]

theorem toNat_remU : (remU a b).toNat = a.toNat % b.toNat := by rw [remU, if_neg h, BitVec.toNat_umod]

end

section
variable {w : Nat} (a : BitVec w)

theorem quoS_zero : quoS a 0 = 0 := if_pos rfl
theorem remS_zero : remS a 0 = a := if_pos rfl
theorem quoU_zero : quoU a 0 = 0 := if_pos rfl
theorem remU_zero : remU a 0 = a := if_pos rfl

end

/-- The unsigned 32-bit results are sign-extended. -/
theorem toInt_sextW_toNat (v : BitVec 32) : (sextW v).toInt = (v.toNat : Int).bmod (2 ^ 32) := by
  rw [toInt_sextW, BitVec.toInt_eq_toNat_bmod]

end Sys2Proof.Machine

/-- Settles O6: the products by their exact values, and quotients and remainders by the case of a divisor of 0. -/
theorem multiplyDivideValues : Obligations.MultiplyDivideValues := by
  refine ⟨fun a b => ⟨BitVec.toNat_mul a b, toInt_mulh a b, toNat_mulhu a b, toInt_mulhsu a b, toInt_mulw a b,
    fun h => ⟨toInt_quoS h, toInt_remS h, toNat_quoU h, toNat_remU h⟩, fun h => ?_⟩, fun a b => ⟨?_, fun h => ?_, ?_, fun h => ?_⟩⟩
  · have ha := toInt_setWidth_bmod a (k := 32) (by decide)
    have hb := toInt_setWidth_bmod b (k := 32) (by decide)
    refine ⟨?_, ?_, ?_, ?_⟩
    · rw [divOp, toInt_sextW, toInt_quoS h, ha, hb]
    · rw [divOp, toInt_sextW, toInt_remS h, ha, hb]
    · rw [divOp, toInt_sextW_toNat, toNat_quoU h, BitVec.toNat_setWidth, BitVec.toNat_setWidth]
    · rw [divOp, toInt_sextW_toNat, toNat_remU h, BitVec.toNat_setWidth, BitVec.toNat_setWidth]
  · rintro rfl
    exact ⟨quoS_zero a, quoU_zero a, remS_zero a, remU_zero a⟩
  · simp only [divOp, h]
    exact ⟨congrArg sextW (quoS_zero _), congrArg sextW (quoU_zero _), congrArg sextW (remS_zero _), congrArg sextW (remU_zero _)⟩
  · rintro ⟨rfl, rfl⟩
    decide
  · obtain ⟨ha, hb⟩ := h
    simp only [divOp, ha, hb]
    decide

end

/-! # Integer instructions, lui and lhi: the proofs -/

section
open Sys2Proof Sys2Proof.Machine

namespace Sys2Proof.Machine

/-! ## Which instructions every core decodes (R180, R556) -/

/-- The opcode of a word is its low byte. -/
theorem toNat_append_opcode {n : Nat} (x : BitVec n) (op : Byte) : (x ++ op).toNat % 256 = op.toNat := by
  rw [← congrArg BitVec.toNat (BitVec.setWidth_append_eq_right : (x ++ op).setWidth 8 = op), BitVec.toNat_setWidth]

/-- The opcodes below 0x40 other than 0x36 and 0x37 hold instructions of every core. -/
def coreOpcode (op : Byte) : Bool := decide (op.toNat < 0x40 ∧ op ≠ 0x36 ∧ op ≠ 0x37)

theorem offMgmt_of_coreOpcode {w : BitVec 32} {op : Byte} (hw : w.toNat % 256 = op.toNat) (h : coreOpcode op = true) : offMgmt w = false := by
  obtain ⟨hlt, h36, h37⟩ := of_decide_eq_true h
  have n36 : op.toNat ≠ 0x36 := fun e => h36 (BitVec.eq_of_toNat_eq e)
  have hne : w ≠ fmtSY 0 1 0 0 0x37 := by
    rintro rfl
    exact h37 (BitVec.eq_of_toNat_eq hw.symm)
  rw [offMgmt, isEngineWord, hw, decide_eq_false hne, decide_eq_false n36, decide_eq_false (Nat.not_le.mpr hlt)]
  rfl

/-- An instruction that is not reserved and has such an opcode is decoded by every core. -/
theorem decodes_of_coreOpcode (b : BlockId) {i : Instr} {w : BitVec 32} {op : Byte} (hi : instrWord i = some w) (hr : reserved i = false)
    (hw : w.toNat % 256 = op.toNat) (h : coreOpcode op = true) : decodes b i = true := by
  rw [decodes, hr, hi, Option.getD_some, offMgmt_of_coreOpcode hw h, Bool.and_false]
  rfl

theorem coreOpcode_immFn (fn : ImmFn) : coreOpcode fn.code = true := by cases fn <;> decide

theorem decodes_integerRegisterOp (b : BlockId) (fn : IntFn) {rb : Reg} (ra rd : Reg) (h : fn.unary = true → rb = 0) :
    decodes b (.integerRegisterOp b fn rb ra rd) = true := by
  refine decodes_of_coreOpcode b (op := 0x01) rfl ?_ (toNat_append_opcode (fn.code ++ rb ++ ra ++ rd) _) (by decide)
  rw [reserved, Bool.and_eq_false_imp]
  intro hu
  exact decide_eq_false (not_not_intro (h hu))

theorem decodes_integerImmediateOp (b : BlockId) (fn : ImmFn) {imm : BitVec 14} (ra rd : Reg) (h : fn.isShift = true → imm.toNat < 64) :
    decodes b (.integerImmediateOp b fn imm ra rd) = true := by
  refine decodes_of_coreOpcode b (op := fn.code) rfl ?_ (toNat_append_opcode (imm ++ ra ++ rd) _) (coreOpcode_immFn fn)
  rw [reserved, Bool.and_eq_false_imp]
  intro hs
  exact decide_eq_false (Nat.not_le.mpr (h hs))

/-! ## The integer instructions that write through the pipe (R148 to R150) -/

@[simp] theorem getG_lineFetched (s : State) (b c : BlockId) (r : Reg) : (s.lineFetched b).getG c r = s.getG c r := by simp [State.getG]
@[simp] theorem getF_lineFetched (s : State) (b c : BlockId) (r : Reg) : (s.lineFetched b).getF c r = s.getF c r := by simp [State.getF]
@[simp] theorem pcOf_lineFetched (s : State) (b c : BlockId) : (s.lineFetched b).pcOf c = s.pcOf c := by simp [State.pcOf]

theorem exec_integerRegisterOp {s : State} {b : BlockId} {fn : IntFn} {rb ra rd : Reg} (h : s.mayIssue b [ra, rb, rd] [] = true)
    (hu : fn.unary = true → rb = 0) : exec (.integerRegisterOp b fn rb ra rd) s =
      .next (((s.lineFetched b).setG b rd (intOp fn (s.getG b ra) (s.getG b rb))).advance b) := by
  refine congrArg Host.Outcome.next ((issue_decoded_whenFree h (decodes_integerRegisterOp b fn ra rd hu) _).trans ?_)
  rw [getG_lineFetched, getG_lineFetched]
  rfl

theorem exec_integerImmediateOp {s : State} {b : BlockId} {fn : ImmFn} {imm : BitVec 14} {ra rd : Reg} (h : s.mayIssue b [ra, rd] [] = true)
    (hs : fn.isShift = true → imm.toNat < 64) : exec (.integerImmediateOp b fn imm ra rd) s =
      .next (((s.lineFetched b).setG b rd (immOp fn (s.getG b ra) imm)).advance b) := by
  refine congrArg Host.Outcome.next ((issue_decoded_whenFree h (decodes_integerImmediateOp b fn ra rd hs) _).trans ?_)
  rw [getG_lineFetched]
  rfl

/-! ## Constants from lui, ori and lhi (R150) -/

/-- lui and ori together build any low half: lui gives bits [31:13], which ori leaves but for the low fourteen. -/
theorem lui_ori_low (v : BitVec 32) :
    (immOp .ori ((v.extractLsb' 13 19).signExtend 64 <<< 13) ((v.extractLsb' 0 13).setWidth 14)).setWidth 32 = v := by
  apply BitVec.eq_of_getLsbD_eq
  intro i hi
  simp only [immOp, zimm14, BitVec.zeroExtend, BitVec.getLsbD_setWidth, BitVec.getLsbD_or, BitVec.getLsbD_shiftLeft, BitVec.getLsbD_signExtend,
    BitVec.getLsbD_extractLsb']
  by_cases h : i < 13
  · have h14 : i < 14 := by omega
    have h64 : i < 64 := by omega
    simp [h, h14, h64, hi]
  · have h19 : i - 13 < 19 := by omega
    have h64 : i < 64 := by omega
    have h51 : i - 13 < 64 := by omega
    simp [h, h19, h64, h51, hi, Nat.add_sub_cancel' (Nat.le_of_not_lt h)]

/-- A number from −262,144 to 262,143 is a value of imm19. -/
theorem signExtend_setWidth19 {h : BitVec 32} (h1 : -262144 ≤ h.toInt) (h2 : h.toInt ≤ 262143) :
    ((h.setWidth 19).signExtend 64).setWidth 32 = h := by
  have hk : ((h.setWidth 19).signExtend 64).toInt = h.toInt := by
    rw [BitVec.toInt_signExtend_of_le (by decide), BitVec.toInt_setWidth]
    rw [BitVec.toInt_eq_toNat_cond] at h1 h2 ⊢
    have := h.isLt
    simp only [Int.bmod]
    split at h1 <;> omega
  apply BitVec.eq_of_toInt_eq
  rw [toInt_setWidth_bmod _ (by decide), hk, Int.bmod_eq_of_le] <;> omega

/-- Bits [63:32] of a word, as a signed number. -/
theorem toInt_highHalf (v : W64) : (v.extractLsb' 32 32).toInt = v.toInt / 2 ^ 32 := by
  have := v.isLt
  rw [BitVec.toInt_eq_toNat_cond, BitVec.toInt_eq_toNat_cond, BitVec.extractLsb'_toNat, Nat.shiftRight_eq_div_pow]
  split <;> split <;> omega

theorem highHalf_append_lowHalf (v : W64) : v.extractLsb' 32 32 ++ v.setWidth 32 = v := by
  apply BitVec.eq_of_getLsbD_eq
  intro i hi
  rw [BitVec.getLsbD_append, BitVec.getLsbD_setWidth, BitVec.getLsbD_extractLsb']
  by_cases h : i < 32
  · simp [h]
  · simp [h, show i - 32 < 32 by omega, Nat.add_sub_cancel' (Nat.le_of_not_lt h)]

/-- g0 is the neutral operand of or. -/
theorem intOp_or_g0 (s : State) (b : BlockId) (a : W64) : intOp .or a (s.getG b 0) = a := BitVec.or_zero

end Sys2Proof.Machine

/-- Settles O7: each encoding is one that every core decodes, and the instruction that may issue writes its result. -/
theorem integerInstructionsComplete : Obligations.IntegerInstructionsComplete :=
  fun _ _ _ _ _ => ⟨fun _ h hu => exec_integerRegisterOp h hu, fun _ _ h hs => exec_integerImmediateOp h hs⟩

/-- Settles O8: the instructions as they issue, and each value by its low half and its high half. -/
theorem luiLhiComplete : Obligations.LuiLhiComplete := by
  refine ⟨fun s b imm rd h => ⟨congrArg Host.Outcome.next (issue_whenFree h _), ?_⟩, fun s b ra rd h => ?_, fun v h1 h2 => ?_⟩
  · refine congrArg Host.Outcome.next ((issue_whenFree h _).trans ?_)
    rw [getG_lineFetched]
    rfl
  · rw [exec_integerRegisterOp h fun _ => rfl, intOp_or_g0]
  · refine ⟨(v.setWidth 32).extractLsb' 13 19, (v.extractLsb' 32 32).setWidth 19, ((v.setWidth 32).extractLsb' 0 13).setWidth 14, ?_⟩
    rw [lui_ori_low, signExtend_setWidth19 (by rwa [toInt_highHalf]) (by rwa [toInt_highHalf]), highHalf_append_lowHalf]

end

/-! # Long operations: multiply, divide and floating point: the proofs -/

section
open Sys2Proof Sys2Proof.Machine

namespace Sys2Proof.Machine

/-! ## Multiply, divide and remainder (R111, R151) -/

section
variable {s : State} {b : BlockId} {rb ra rd : Reg}

theorem exec_multiply (fn : MulFn) (h : s.mayIssue b [ra, rb, rd] [] = true) : exec (.multiply b fn rb ra rd) s =
    .next ((s.lineFetched b).startLong b ⟨.l1, false, rd, mulOp fn (s.getG b ra) (s.getG b rb), 0, false⟩) := by
  refine congrArg Host.Outcome.next ((issue_whenFree h _).trans ?_)
  rw [getG_lineFetched, getG_lineFetched]

theorem exec_divideRemainder (fn : DivFn) (h : s.mayIssue b [ra, rb, rd] [] = true) : exec (.divideRemainder b fn rb ra rd) s =
    .next ((s.lineFetched b).startLong b ⟨.l1, false, rd, divOp fn (s.getG b ra) (s.getG b rb), 0, false⟩) := by
  refine congrArg Host.Outcome.next ((issue_whenFree h _).trans ?_)
  rw [getG_lineFetched, getG_lineFetched]

end

/-- An operation without flags that writes a g register, from its start to its completion. -/
theorem startLong_complete_g (s : State) (b : BlockId) (p : Port) (rd : Reg) (v : W64) (h : (s.blk b).core.longOps = []) :
    ∃ u, exec (.longOperationComplete b 0) ((s.lineFetched b).startLong b ⟨p, false, rd, v, 0, false⟩) = .next u ∧
      u.getG b rd = (if rd = 0 then 0 else v) ∧ (u.blk b).core.longOps = [] ∧ u.pcOf b = (s.next b).pc ∧ (u.blk b).fp = (s.blk b).fp := by
  obtain ⟨u, hu, hg, -, hl, hpc, hfp⟩ := startLong_complete b (s.lineFetched b) ⟨p, false, rd, v, 0, false⟩ (by rwa [blk_lineFetched])
  refine ⟨u, hu, hg rfl, hl, by rw [hpc, next_lineFetched], ?_⟩
  rw [hfp, blk_lineFetched]
  exact congrArg (fun f => { (s.blk b).fp with flags := f }) BitVec.or_zero

/-! ## Floating-point instructions are decoded by every core (R144, R157, R161, R163, R180) -/

theorem decodes_fpOperation (b : BlockId) {fn : FpFn} {rm : BitVec 3} (fmt : Bool) {rb : Reg} (ra rd : Reg) (h : fpReserved fn rm rb = false) :
    decodes b (.fpOperation b fn rm fmt rb ra rd) = true :=
  decodes_of_coreOpcode b (op := 0x30) rfl h (toNat_append_opcode (fn.code ++ rm ++ BitVec.ofBool fmt ++ rb ++ ra ++ rd) _) (by decide)

theorem coreOpcode_fmaFn (fn : FmaFn) : coreOpcode fn.code = true := by cases fn <;> decide

theorem decodes_fpFusedMultiplyAdd (b : BlockId) (fn : FmaFn) {rm : BitVec 3} (fmt : Bool) (rc rb ra rd : Reg) (h5 : rm ≠ 5) (h6 : rm ≠ 6) :
    decodes b (.fpFusedMultiplyAdd b fn rm fmt rc rb ra rd) = true :=
  decodes_of_coreOpcode b (op := fn.code) rfl (decide_eq_false fun h => h.elim h5 h6)
    (toNat_append_opcode (rm ++ BitVec.ofBool fmt ++ rc ++ rb ++ ra ++ rd) _) (coreOpcode_fmaFn fn)

theorem decodes_fpConversion (b : BlockId) {rm : BitVec 3} {src dst : BitVec 4} (ra rd : Reg) (h : cvtReserved rm src dst = false) :
    decodes b (.fpConversion b rm src dst ra rd) = true :=
  decodes_of_coreOpcode b (op := 0x32) rfl h (toNat_append_opcode (0#3 ++ rm ++ src ++ dst ++ ra ++ rd) _) (by decide)

/-! ## Floating-point instructions start a long operation (R111) -/

section
variable {s : State} {b : BlockId} {rm : BitVec 3} {rc rb ra rd : Reg}

theorem exec_fpOperation {fn : FpFn} (fmt : Bool) (hr : fpReserved fn rm rb = false)
    (h : s.mayIssue b ((if fpToG fn then [rd] else []) ++ (if fn = .fmvf then [ra] else []))
      ((if fpToG fn then [] else [rd]) ++ (if fn = .fmvf then [] else [ra, rb])) = true) :
    exec (.fpOperation b fn rm fmt rb ra rd) s = .next ((s.lineFetched b).startLong b
      (let r := fpOp fn (fmtOf fmt) (Rm.of ((s.blk b).fp.mode rm false)) (if fn = .fmvf then s.getG b ra else s.getF b ra) (s.getF b rb)
       ⟨fpPort fn, !fpToG fn, rd, r.1, r.2, true⟩)) := by
  refine congrArg Host.Outcome.next ?_
  simp only [doFpOperation, decide_eq_true_eq]
  rw [issue_decoded_whenFree h (decodes_fpOperation b fmt ra rd hr)]
  simp only [blk_lineFetched, getG_lineFetched, getF_lineFetched]

theorem exec_fpFusedMultiplyAdd (fn : FmaFn) (fmt : Bool) (h5 : rm ≠ 5) (h6 : rm ≠ 6) (h : s.mayIssue b [] [ra, rb, rc, rd] = true) :
    exec (.fpFusedMultiplyAdd b fn rm fmt rc rb ra rd) s = .next ((s.lineFetched b).startLong b
      (let r := fmaOp fn (fmtOf fmt) (Rm.of ((s.blk b).fp.mode rm false)) (s.getF b ra) (s.getF b rb) (s.getF b rc)
       ⟨.f1, true, rd, r.1, r.2, true⟩)) := by
  refine congrArg Host.Outcome.next ((issue_decoded_whenFree h (decodes_fpFusedMultiplyAdd b fn fmt rc rb ra rd h5 h6) _).trans ?_)
  simp only [blk_lineFetched, getF_lineFetched]

/-- A conversion takes its draw, in the stochastic mode alone, and starts. -/
theorem exec_fpConversion {src dst : BitVec 4} {st dt : Elem} (hs : cvtType src = some st) (hd : cvtType dst = some dt)
    (hr : cvtReserved rm src dst = false)
    (h : s.mayIssue b ((if st.isFlt then [] else [ra]) ++ (if dt.isFlt then [] else [rd]))
      ((if st.isFlt then [ra] else []) ++ (if dt.isFlt then [rd] else [])) = true)
    (hdrawn : (s.blk b).fp.mode rm (decide (src = 5 ∧ dst = 4)) = 5 → (s.blk b).drawn = true) :
    exec (.fpConversion b rm src dst ra rd) s = .next
      (let m := (s.blk b).fp.mode rm (decide (src = 5 ∧ dst = 4))
       let r := convertElem st dt (Rm.of m) (srNext (s.blk b).fp.srState).toNat (if st.isFlt then s.getF b ra else s.getG b ra).toNat
       (if m = 5 then (s.lineFetched b).draw b 1 else s.lineFetched b).startLong b
         ⟨if dt.isFlt then .f1 else .l1, dt.isFlt, rd, cvtExtend dt r.1, r.2, true⟩) := by
  have hwait : ¬((s.blk b).fp.mode rm (decide (src = 5 ∧ dst = 4)) = 5 ∧ (s.blk b).drawn = false) :=
    fun k => Bool.false_ne_true (k.2.symm.trans (hdrawn k.1))
  refine congrArg Host.Outcome.next ?_
  simp only [doConversion, hs, hd]
  rw [issue_decoded_whenFree h (decodes_fpConversion b ra rd hr)]
  simp only [blk_lineFetched, getG_lineFetched, getF_lineFetched, if_neg hwait]

end

/-! ## What a conversion's draw leaves (R197, R204, R205) -/

/-- A draw, where there is one, changes the generator alone. -/
theorem drawIf_blk (s : State) (b : BlockId) (p : Prop) [Decidable p] : (if p then s.draw b 1 else s).blk b =
    { s.blk b with fp := { (s.blk b).fp with
      srState := if p then srAfter 1 (s.blk b).fp.srState else (s.blk b).fp.srState,
      srDraws := (s.blk b).fp.srDraws + if p then 1 else 0 } } := by
  split
  · exact blk_modBlk_same s b _
  · simp

@[simp] theorem drawIf_core (s : State) (b : BlockId) (p : Prop) [Decidable p] :
    ((if p then s.draw b 1 else s).blk b).core = (s.blk b).core := by rw [drawIf_blk]

end Sys2Proof.Machine

/-- Settles O11: the long operation that each starts completes with its result. -/
theorem multiplyDivideComplete : Obligations.MultiplyDivideComplete := by
  intro s b rb ra rd h hl
  refine ⟨fun fn => ?_, fun fn => ?_⟩
  · obtain ⟨u, hu, hres⟩ := startLong_complete_g s b .l1 rd (mulOp fn (s.getG b ra) (s.getG b rb)) hl
    exact ⟨_, u, exec_multiply fn h, hu, hres⟩
  · obtain ⟨u, hu, hres⟩ := startLong_complete_g s b .l1 rd (divOp fn (s.getG b ra) (s.getG b rb)) hl
    exact ⟨_, u, exec_divideRemainder fn h, hu, hres⟩

/-- Settles O14: each kind of instruction by the operation that it starts, a conversion after its draw. -/
theorem floatingPointComplete : Obligations.FloatingPointComplete := by
  intro s b rm fmt rc rb ra rd hl
  have hl' : ((s.lineFetched b).blk b).core.longOps = [] := by rwa [blk_lineFetched]
  refine ⟨fun fn hr h => ?_, fun fn h5 h6 h => ?_, fun src dst st dt hs hd hr h hdrawn => ?_⟩
  · obtain ⟨u, hu, hg, hf, -, hpc, hfp⟩ := startLong_complete b (s.lineFetched b) _ hl'
    refine ⟨_, u, exec_fpOperation fmt hr h, hu, fun k => hg (by rw [k]; rfl), fun k => hf (by rw [k]; rfl), ?_, ?_⟩
    · rw [hfp, blk_lineFetched]
    · rw [hpc, next_lineFetched]
  · obtain ⟨u, hu, -, hf, -, hpc, hfp⟩ := startLong_complete b (s.lineFetched b) _ hl'
    refine ⟨_, u, exec_fpFusedMultiplyAdd fn fmt h5 h6 h, hu, hf rfl, ?_, ?_⟩
    · rw [hfp, blk_lineFetched]
    · rw [hpc, next_lineFetched]
  · obtain ⟨u, hu, hg, hf, -, -, hfp⟩ := startLong_complete b
      (if (s.blk b).fp.mode rm (decide (src = 5 ∧ dst = 4)) = 5 then (s.lineFetched b).draw b 1 else s.lineFetched b) _ (by rwa [drawIf_core])
    refine ⟨_, u, exec_fpConversion hs hd hr h hdrawn, hu, hg, hf, ?_, ?_, ?_⟩
    · rw [hfp, drawIf_blk, blk_lineFetched]
    · rw [hfp, drawIf_blk, blk_lineFetched]
    · rw [hfp, drawIf_blk, blk_lineFetched]

end

/-! # What core instructions leave unchanged: the proofs -/

section
open Sys2Proof Sys2Proof.Machine

namespace Sys2Proof.Machine

/-! ## Frames: what every instruction of a kind relates its states by -/

theorem FetchOnly.ctl {b : BlockId} {s t : State} (h : FetchOnly b s t) : CtlOnly b s t :=
  ⟨h.onlyBlock, by rw [h.blk]; rfl, by rw [h.blk], by rw [h.blk]⟩

/-- A relation of states that an instruction of block `b` may make: it is closed under one instruction's parts, and holds when the core and the trace
unit of the block alone change, and of the core no register. -/
structure InstrFrame (b : BlockId) (R : State → State → Prop) : Prop where
  trans : ∀ {s t u}, R s t → R t u → R s u
  ctl : ∀ {s t}, CtlOnly b s t → R s t

namespace InstrFrame
variable {b : BlockId} {R : State → State → Prop} (F : InstrFrame b R)
include F

theorem refl (s : State) : R s s := F.ctl (ctlOnly_refl b s)

theorem fault (s : State) (c : Nat) (v : W64) : R s (s.raiseSync b c v) := F.ctl (ctlOnly_raiseSync b s c v)

omit F in
theorem ite {c : Prop} [Decidable c] {s t u : State} (ht : R s t) (hu : R s u) : R s (if c then t else u) := by
  split
  · exact ht
  · exact hu

/-- An instruction waits, raises the fetch fault, or runs. -/
theorem issue {k : State → State} (hk : ∀ u, R u (k u)) (s : State) : R s (s.issue b k) :=
  ite (ite (ite (F.trans (F.ctl (fetchOnly_lineFetched s b).ctl) (hk _)) (F.refl s)) (F.fault s _ _)) (F.refl s)

theorem whenFree {gs fs : List Reg} {k : State → State} (hk : ∀ u, R u (k u)) (s : State) : R s (s.whenFree b gs fs k) :=
  ite (hk s) (F.refl s)

theorem decoded {i : Instr} {k : State → State} (hk : ∀ u, R u (k u)) (s : State) : R s (s.decoded b i k) :=
  ite (F.fault s _ _) (hk s)

theorem chanCheck {ch : ChanId} {k : State → State} (hk : ∀ u, R u (k u)) (s : State) : R s (s.chanCheck b ch k) :=
  ite (F.fault s _ _) (ite (F.fault s _ _) (hk s))

theorem issueFree {gs fs : List Reg} {k : State → State} (hk : ∀ u, R u (k u)) (s : State) :
    R s (s.issue b fun s => s.whenFree b gs fs k) := F.issue (F.whenFree hk) s

theorem issueDecodedFree {i : Instr} {gs fs : List Reg} {k : State → State} (hk : ∀ u, R u (k u)) (s : State) :
    R s (s.issue b fun s => s.decoded b i fun s => s.whenFree b gs fs k) := F.issue (F.decoded (F.whenFree hk)) s

end InstrFrame

theorem ctlFrame (b : BlockId) : InstrFrame b (CtlOnly b) := ⟨ctlOnly_trans, id⟩

theorem regFrame (b : BlockId) (rd : Reg) : InstrFrame b (RegOnly b rd) := ⟨regOnly_trans, fun h => h.reg rd⟩

/-! ## Instructions that write one g register -/

section
variable (b : BlockId) (rb ra rd : Reg) (s : State)

theorem ctlOnly_noteTaken (u : State) (v : W64) : CtlOnly b u (u.noteTaken b v) := (fetchOnly_noteTaken u b v).ctl

/-- A jump writes its link register and redirects control. -/
theorem regOnly_link (u : State) (v w : W64) : RegOnly b rd u (((u.setG b rd v).noteTaken b w).redirect b w) :=
  regOnly_trans (regOnly_setG b rd u v) (ctlOnly_trans (ctlOnly_noteTaken b _ w) (ctlOnly_redirect b _ w) |>.reg rd)

theorem regOnly_integerRegisterOp (fn : IntFn) : RegOnly b rd s (integerRegisterOp b fn rb ra rd s) :=
  (regFrame b rd).issueDecodedFree (fun u => regOnly_finish b rd u _) s

theorem regOnly_integerImmediateOp (fn : ImmFn) (imm : BitVec 14) : RegOnly b rd s (integerImmediateOp b fn imm ra rd s) :=
  (regFrame b rd).issueDecodedFree (fun u => regOnly_finish b rd u _) s

theorem regOnly_mwait (ch : ChanId) : RegOnly b rd s (doMwait b ch ra rd s) :=
  have F := regFrame b rd
  F.issueDecodedFree (F.chanCheck fun u => InstrFrame.ite (F.refl u) (regOnly_finish b rd u _)) s

theorem regOnly_crr (crn : BitVec 13) (rs : Reg) : RegOnly b rd s (doCrr b crn rs rd s) :=
  have F := regFrame b rd
  F.issueDecodedFree (fun u => InstrFrame.ite (F.refl u) (InstrFrame.ite (F.refl u) (regOnly_finish b rd u _))) s

/-! ## Instructions that write no register -/

omit rb ra rd s in
theorem ctlOnly_modCore (u : State) {f : Core → Core} (hg : ∀ c, (f c).g = c.g) (hf : ∀ c, (f c).f = c.f) : CtlOnly b u (u.modCore b f) :=
  ctlOnly_modBlk u hg hf

theorem ctlOnly_branch (fn : BranchFn) (imm : BitVec 14) : ∀ t, exec (.branch b fn imm rb ra) s = .next t → CtlOnly b s t := by
  intro t h
  cases h
  refine (ctlFrame b).issueFree (fun u => ?_) s
  have ht := (trcOnly_traceOutcome b u (branchTaken fn (u.getG b ra) (u.getG b rb))).ctl
  exact InstrFrame.ite (ctlOnly_trans ht (ctlOnly_trans (ctlOnly_noteTaken b _ _) (ctlOnly_redirect b _ _))) (ctlOnly_trans ht (ctlOnly_advance b _))

theorem ctlOnly_loop (n1 : BitVec 6) : CtlOnly b s (doLoop b n1 ra s) := by
  refine (ctlFrame b).issueFree (fun u => InstrFrame.ite (ctlOnly_raiseSync b u _ _) ?_) s
  have ht := fun k => (trcOnly_traceOutcome b u k).ctl
  exact InstrFrame.ite (ctlOnly_trans (ht _) (ctlOnly_redirect b _ _))
    (ctlOnly_trans (ht _) (ctlOnly_trans (ctlOnly_modCore b _ (by intro; rfl) (by intro; rfl)) (ctlOnly_setPc b _ _)))

theorem ctlOnly_ewait : CtlOnly b s (doEwait b s) := by
  refine (ctlFrame b).issue ((ctlFrame b).decoded fun u => InstrFrame.ite ?_ (ctlOnly_refl b u)) s
  exact ctlOnly_trans (trcOnly_traceEwait b u).ctl (ctlOnly_modCore b _ (by intro; rfl) (by intro; rfl))

theorem ctlOnly_fence (imm : BitVec 9) : CtlOnly b s (doFence b imm s) := by
  refine (ctlFrame b).issue ((ctlFrame b).decoded fun u => InstrFrame.ite (ctlOnly_raiseSync b u _ _) ?_) s
  exact InstrFrame.ite (ctlOnly_refl b u) (InstrFrame.ite (ctlOnly_refl b u) (ctlOnly_advance b u))

theorem ctlOnly_raiseAfter (u : State) (c : Nat) (v : W64) : CtlOnly b u (u.raiseAfter b c v) := ctlOnly_modCore b u (by intro; rfl) (by intro; rfl)

end

/-! ## Floating-point instructions (R111, R205) -/

/-- Only the core, the generator and the trace unit of block `b` differ, and no register of the core. -/
structure FpOnly (b : BlockId) (s t : State) : Prop where
  only : OnlyBlock b s t
  blk : CoreFpOnly (s.blk b) (t.blk b)
  flags : (t.blk b).fp.flags = (s.blk b).fp.flags
  g : ∀ r, t.getG b r = s.getG b r
  f : ∀ r, t.getF b r = s.getF b r

theorem coreFpOnly_trans {x y z : Block} (h : CoreFpOnly x y) (k : CoreFpOnly y z) : CoreFpOnly x z := by
  unfold CoreFpOnly at *
  rw [k, h]

theorem CoreOnly.fp {x y : Block} (h : CoreOnly x y) : y.fp = x.fp := by
  unfold CoreOnly at h
  rw [h]

theorem CoreOnly.coreFp {x y : Block} (h : CoreOnly x y) : CoreFpOnly x y := by
  unfold CoreFpOnly
  rw [h.fp]
  exact h

theorem fpFrame (b : BlockId) : InstrFrame b (FpOnly b) where
  trans h k := ⟨onlyBlock_trans h.only k.only, coreFpOnly_trans h.blk k.blk, k.flags.trans h.flags, fun r => (k.g r).trans (h.g r),
    fun r => (k.f r).trans (h.f r)⟩
  ctl h := ⟨h.only, h.blk.coreFp, congrArg Fp.flags h.blk.fp, h.getG, h.getF⟩

theorem fpOnly_startLong (b : BlockId) (s : State) (o : LongOp) : FpOnly b s (s.startLong b o) := (fpFrame b).ctl (ctlOnly_startLong b s o)

theorem fpOnly_draw (b : BlockId) (s : State) (n : Nat) : FpOnly b s (s.draw b n) :=
  ⟨onlyBlock_modBlk b s _, by simp [CoreFpOnly, State.draw], by simp [State.draw], fun r => by simp [State.getG, State.draw],
    fun r => by simp [State.getF, State.draw]⟩

section
variable (b : BlockId) (rm : BitVec 3) (rc rb ra rd : Reg) (s : State)

theorem fpOnly_fpOperation (fn : FpFn) (fmt : Bool) : FpOnly b s (doFpOperation b fn rm fmt rb ra rd s) :=
  (fpFrame b).issueDecodedFree (fun u => fpOnly_startLong b u _) s

theorem fpOnly_fma (fn : FmaFn) (fmt : Bool) : FpOnly b s (doFma b fn rm fmt rc rb ra rd s) :=
  (fpFrame b).issueDecodedFree (fun u => fpOnly_startLong b u _) s

theorem fpOnly_conversion (src dst : BitVec 4) : FpOnly b s (doConversion b rm src dst ra rd s) := by
  refine (fpFrame b).issue ((fpFrame b).decoded fun u => ?_) s
  split
  · refine (fpFrame b).whenFree (fun v => InstrFrame.ite ((fpFrame b).refl v) ?_) u
    exact (fpFrame b).trans (InstrFrame.ite (fpOnly_draw b v 1) ((fpFrame b).refl v)) (fpOnly_startLong b _ _)
  · exact (fpFrame b).refl u

end

/-! ## The completion of a long operation (R111, R228) -/

theorem Core.set_pc (c : Core) (toF : Bool) (r : Reg) (v : W64) : (c.set toF r v).pc = c.pc := by
  cases toF
  · exact Core.setG_pc c r v
  · rfl

theorem Core.set_longOps (c : Core) (toF : Bool) (r : Reg) (v : W64) : (c.set toF r v).longOps = c.longOps := by
  cases toF
  · rw [Core.set, if_neg Bool.false_ne_true, Core.setG_ctl]
  · rfl

theorem Core.getG_set_other (c : Core) {toF : Bool} {r q : Reg} (v : W64) (h : toF = true ∨ q ≠ r) : (c.set toF r v).getG q = c.getG q := by
  cases toF
  · exact Core.getG_setG_ne c v (h.resolve_left Bool.false_ne_true)
  · rfl

theorem Core.getF_set_other (c : Core) {toF : Bool} {r q : Reg} (v : W64) (h : toF = false ∨ q ≠ r) : (c.set toF r v).getF q = c.getF q := by
  cases toF
  · exact Core.getF_setG c r q v
  · exact Core.getF_setF_ne c v (h.resolve_left (Ne.symm Bool.false_ne_true))

/-- The block after the completion of an outstanding operation. -/
theorem longOperationComplete_blk {s : State} {b : BlockId} {i : Nat} {o : LongOp} (h : (s.blk b).core.longOps[i]? = some o) :
    (longOperationComplete b i s).blk b = { s.blk b with
      core := ({ (s.blk b).core with longOps := (s.blk b).core.longOps.eraseIdx i } : Core).set o.toF o.rd o.value,
      fp := { (s.blk b).fp with flags := (s.blk b).fp.flags ||| o.flags } } := by
  simp only [longOperationComplete, h, State.orFlags, State.modCore, blk_modBlk_same]

theorem onlyBlock_longOperationComplete {s : State} {b : BlockId} {i : Nat} {o : LongOp} (h : (s.blk b).core.longOps[i]? = some o) :
    OnlyBlock b s (longOperationComplete b i s) := by
  simp only [longOperationComplete, h, State.orFlags, State.modCore]
  exact onlyBlock_trans (onlyBlock_modBlk b s _) (onlyBlock_modBlk b _ _)

end Sys2Proof.Machine

/-- Settles O13: each instruction by the frame of its parts. -/
theorem coreFrames : Obligations.CoreFrames := by
  refine ⟨fun s t b rb ra rd => ⟨fun c hc ht => ?_, fun c hc ht => ?_⟩, fun s t b => ⟨fun c hc ht => ?_, fun i o hi ht => ?_⟩⟩
  · suffices H : RegOnly b rd s t from ⟨H.only, H.blk, H.g, H.f⟩
    have F := regFrame b rd
    rcases hc with ⟨fn, rfl⟩ | ⟨fn, imm, rfl⟩ | ⟨imm, rfl | rfl | rfl⟩ | ⟨imm, rfl⟩ | ⟨ch, rfl | rfl⟩ | ⟨crn, rs, rfl⟩ <;> cases ht
    · exact regOnly_integerRegisterOp b rb ra rd s fn
    · exact regOnly_integerImmediateOp b ra rd s fn imm
    · exact F.issueFree (fun u => regOnly_finish b rd u _) s
    · exact F.issueFree (fun u => regOnly_finish b rd u _) s
    · exact F.issueFree (fun u => regOnly_link b rd u _ _) s
    · exact F.issueFree (fun u => F.trans (F.ctl (trcOnly_traceTarget b u _).ctl) (regOnly_link b rd _ _ _)) s
    · exact regOnly_mwait b ra rd s ch
    · exact F.issueDecodedFree (F.chanCheck fun u => regOnly_finish b rd u _) s
    · exact regOnly_crr b rd s crn rs
  · suffices H : CtlOnly b s t from ⟨H.only, H.blk, H.getG, H.getF⟩
    have F := ctlFrame b
    rcases hc with ⟨fn, rfl | ⟨fn', rfl⟩⟩ | ⟨fn, imm, rfl⟩ | ⟨n1, rfl⟩ | rfl | rfl | ⟨imm, rfl | rfl | rfl⟩
    · cases ht; exact F.issueFree (fun u => ctlOnly_startLong b u _) s
    · cases ht; exact F.issueFree (fun u => ctlOnly_startLong b u _) s
    · exact ctlOnly_branch b rb ra s fn imm t ht
    · cases ht; exact ctlOnly_loop b ra s n1
    · cases ht; exact F.issue (fun u => ctlOnly_advance b u) s
    · cases ht; exact ctlOnly_ewait b s
    · cases ht; exact ctlOnly_fence b s imm
    · cases ht; exact F.issue (fun u => ctlOnly_raiseAfter b u _ _) s
    · cases ht; exact F.issue (fun u => ctlOnly_raiseAfter b u _ _) s
  · suffices H : FpOnly b s t from ⟨H.only, H.blk, H.flags, H.g, H.f⟩
    rcases hc with ⟨fn, rm, fmt, rb, ra, rd, rfl⟩ | ⟨fn, rm, fmt, rc, rb, ra, rd, rfl⟩ | ⟨rm, src, dst, ra, rd, rfl⟩ <;> cases ht
    · exact fpOnly_fpOperation b rm rb ra rd s fn fmt
    · exact fpOnly_fma b rm rc rb ra rd s fn fmt
    · exact fpOnly_conversion b rm ra rd s src dst
  · cases ht
    have hb := longOperationComplete_blk hi
    refine ⟨onlyBlock_longOperationComplete hi, ?_, ?_, fun r h => ?_, fun r h => ?_, ?_⟩
    · rw [hb]; rfl
    · rw [hb]; exact Core.set_pc _ _ _ _
    · rw [State.getG, hb]; exact Core.getG_set_other _ _ h
    · rw [State.getF, hb]; exact Core.getF_set_other _ _ h
    · rw [hb]; exact Core.set_longOps _ _ _ _

end

/-! # What books and counters leave unchanged -/

section
open Sys2Proof Sys2Proof.Machine

namespace Sys2Proof.Machine

/-! ## Operations that count, record and charge alone (R84, R540, R611, R722, R725) -/

/-- The books of `t`, its retained copies and its blocks, and everything else of `s`. -/
def State.withBooksOf (s t : State) : State :=
  { s with blocks := t.blocks, ledgers := t.ledgers, hif := t.hif, jnl := t.jnl, repair := t.repair, ret := t.ret, health := t.health,
           freeCount := t.freeCount, epoch := { s.epoch with faults := t.epoch.faults } }

/-- Only the books, the retained copies and the health counters of blocks differ. -/
structure BooksOnly (s t : State) : Prop where
  rest : t.withBooksOf s = s
  blk : ∀ c, ∃ i, t.blk c = { s.blk c with integ := i }

theorem booksOnly_refl (s : State) : BooksOnly s s := ⟨rfl, fun c => ⟨(s.blk c).integ, rfl⟩⟩

theorem booksOnly_trans {s t u : State} (h : BooksOnly s t) (k : BooksOnly t u) : BooksOnly s u := by
  refine ⟨?_, fun c => ?_⟩
  · have hs := h.rest
    rw [← k.rest] at hs
    exact hs
  · obtain ⟨i, hi⟩ := h.blk c
    obtain ⟨j, hj⟩ := k.blk c
    exact ⟨j, by rw [hj, hi]⟩

theorem booksOnly_ite {s t u : State} {p : Prop} [Decidable p] (ht : BooksOnly s t) (hu : BooksOnly s u) : BooksOnly s (if p then t else u) := by
  split
  · exact ht
  · exact hu

section
variable (s : State)

/-- Blocks that are not touched stand as they are. -/
theorem booksOnly_of_blocks {t : State} (h : t.withBooksOf s = s) (hb : t.blocks = s.blocks) : BooksOnly s t := by
  have hr := congrArg (fun u : State => u.rest) h
  have hblk : ∀ c, t.blk c = s.blk c := fun c => by rw [State.blk, State.blk, ← hr, hb]; rfl
  exact ⟨h, fun c => ⟨(s.blk c).integ, hblk c⟩⟩

theorem booksOnly_retain (n : Nat) (l : List Byte) : BooksOnly s (s.retain n l) := booksOnly_of_blocks s rfl rfl

theorem booksOnly_keepCounter (key : Nat) : BooksOnly s (s.keepCounter key) := booksOnly_ite (booksOnly_retain s _ _) (booksOnly_refl s)

theorem booksOnly_bump (i j n : Nat) : BooksOnly s (s.bump i j n) :=
  booksOnly_trans (t := { s with health := store 0 s.health (256 * i + j) (min (look 0 s.health (256 * i + j) + n) (2 ^ 64 - 1)) })
    (booksOnly_of_blocks s rfl rfl) (booksOnly_keepCounter _ _)

theorem booksOnly_raise (kind : Nat) (ref result tag : W64) : BooksOnly s (s.raise kind ref result tag) := booksOnly_of_blocks s rfl rfl

theorem booksOnly_charge (row : Nat) (b : BitVec 16) : BooksOnly s (s.charge row b) :=
  booksOnly_ite (booksOnly_of_blocks s rfl rfl) (booksOnly_refl s)

theorem booksOnly_useFree (n : Nat) : BooksOnly s (s.useFree n) := booksOnly_of_blocks s rfl rfl

theorem booksOnly_setRepair (l : List RepairEntry) : BooksOnly s (s.setRepair l) :=
  booksOnly_of_blocks s rfl rfl

theorem booksOnly_setNotes (b : BlockId) (l : List ErrNote) : BooksOnly s (s.setNotes b l) := by
  refine ⟨rfl, fun c => ?_⟩
  by_cases h : c = b
  · subst h
    exact ⟨_, blk_modBlk_same s c _⟩
  · exact ⟨_, blk_modBlk_ne s _ h⟩

theorem booksOnly_candidateAt (q : QuarterId) (px py reason detail : Nat) : BooksOnly s (s.candidateAt q px py reason detail) :=
  booksOnly_ite (booksOnly_refl s)
    (booksOnly_ite (booksOnly_raise s _ _ _ _) (booksOnly_trans (booksOnly_setRepair s _) (booksOnly_raise _ _ _ _ _)))

theorem booksOnly_candidate (b : BlockId) (reason detail : Nat) : BooksOnly s (s.candidate b reason detail) := booksOnly_candidateAt s _ _ _ _ _

theorem booksOnly_note (b : BlockId) (reason word limit : Nat) : BooksOnly s (s.note b reason word limit) :=
  booksOnly_ite (booksOnly_refl s)
    (booksOnly_trans (booksOnly_setNotes s b _) (booksOnly_ite (booksOnly_candidate _ b _ _) (booksOnly_refl _)))

theorem booksOnly_corrected (b : BlockId) (word : Nat) : BooksOnly s (s.corrected b word) :=
  booksOnly_ite (booksOnly_bump s _ _ _) <|
    booksOnly_trans (booksOnly_trans (booksOnly_bump s _ _ _) (booksOnly_note _ b _ _ _))
      (booksOnly_ite (booksOnly_candidate _ b _ _) (booksOnly_refl _))

theorem booksOnly_correctedIm (b : BlockId) (word : Nat) : BooksOnly s (s.correctedIm b word) :=
  booksOnly_trans (booksOnly_bump s _ _ _) (booksOnly_note _ b _ _ _)

theorem booksOnly_uncorrectable (b : BlockId) (word : Nat) : BooksOnly s (s.uncorrectable b word) :=
  booksOnly_ite (booksOnly_bump s _ _ _) <|
    booksOnly_trans (booksOnly_trans (booksOnly_bump s _ _ _) (booksOnly_setNotes _ b _)) (booksOnly_ite (booksOnly_candidate _ b _ _) (booksOnly_refl _))

theorem booksOnly_lost (b : BlockId) (word : Nat) : BooksOnly s (s.lost b word) :=
  booksOnly_ite (booksOnly_uncorrectable s b word) (booksOnly_trans (booksOnly_uncorrectable s b word) (booksOnly_charge _ _ _))

end

namespace BooksOnly
variable {s t : State} (h : BooksOnly s t) (b : BlockId)
include h

theorem core : (t.blk b).core = (s.blk b).core := by obtain ⟨i, hi⟩ := h.blk b; rw [hi]
theorem priv : (t.blk b).priv = (s.blk b).priv := by obtain ⟨i, hi⟩ := h.blk b; rw [hi]
theorem ls : (t.blk b).ls = (s.blk b).ls := by obtain ⟨i, hi⟩ := h.blk b; rw [hi]
theorem im : (t.blk b).im = (s.blk b).im := by obtain ⟨i, hi⟩ := h.blk b; rw [hi]
theorem getG (r : Reg) : t.getG b r = s.getG b r := by rw [State.getG, State.getG, h.core b]
theorem getF (r : Reg) : t.getF b r = s.getF b r := by rw [State.getF, State.getF, h.core b]

theorem ticks : t.ticks b = s.ticks b := by
  have k := congrArg (fun u : State => u.ticks b) h.rest
  exact k

theorem next : t.next b = s.next b := by rw [State.next, State.next, h.core b, h.ticks b]

theorem footpath : t.footpath = s.footpath := by
  have k := congrArg State.footpath h.rest
  exact k

end BooksOnly

end Sys2Proof.Machine

end

/-! # Loads: the proofs -/

section
open Sys2Proof Sys2Proof.Machine

namespace Sys2Proof.Machine

/-! ## The number that bytes spell (R7) -/

theorem bytesAt_succ (m : Memory) (a n : Nat) : bytesAt m a (n + 1) = (mget m a).toNat + 256 * bytesAt m (a + 1) n := by
  have hs : ∀ i, (mget m (a + (i + 1))).toNat * 256 ^ (i + 1) = 256 * ((mget m (a + 1 + i)).toNat * 256 ^ i) := fun i => by
    rw [Nat.add_right_comm a 1 i, Nat.add_assoc a i 1, Nat.pow_succ]; ring
  simp [bytesAt, List.range_succ_eq_map, Function.comp_def, hs, List.sum_map_mul_left]

theorem mloadN_eq_bytesAt (m : Memory) (a n : Nat) : mloadN m a n = bytesAt m a n := by
  induction n generalizing a with
  | zero => rfl
  | succ n ih => rw [bytesAt_succ, ← ih]; rfl

/-! ## A register that takes the value read -/

/-- Going on neither reads nor writes an f register. -/
theorem Core.stepped_with_f (c : Core) (f : Tab W64) (n : Nat) : ({ c with f := f } : Core).stepped n = { c.stepped n with f := f } := by
  have hd : ∀ k a, ({ c with f := f } : Core).decideLoop n k a = { c.decideLoop n k a with f := f } := fun k a => by
    cases hs : c.staleLoop n with
    | none => rw [Core.decideLoop_of_not_stale hs, Core.decideLoop_of_not_stale (c := { c with f := f }) hs]
    | some o => rw [Core.decideLoop_of_stale hs, Core.decideLoop_of_stale (c := { c with f := f }) hs]
  cases he : (c.governs n).atEnd c.pc with
  | false => rw [stepped_of_not_atEnd he, stepped_of_not_atEnd (c := { c with f := f }) he]
  | true =>
    by_cases hr : (c.governs n).remain = 0
    · rw [stepped_of_atEnd_last he hr, stepped_of_atEnd_last (c := { c with f := f }) he hr, hd]
    · rw [stepped_of_atEnd_again he hr, stepped_of_atEnd_again (c := { c with f := f }) he hr, hd]; rfl

theorem Core.stepped_setF (c : Core) (r : Reg) (v : W64) (n : Nat) : (c.setF r v).stepped n = (c.stepped n).setF r v := by
  rw [Core.setF_ctl, Core.stepped_with_f, Core.setF_ctl (c.stepped n), Core.setF, Core.setF, stepped_f]

theorem Core.stepped_set (c : Core) (toF : Bool) (r : Reg) (v : W64) (n : Nat) : (c.set toF r v).stepped n = (c.stepped n).set toF r v := by
  unfold Core.set
  split
  · exact Core.stepped_setF c r v n
  · exact Core.stepped_setG c r v n

@[simp] theorem Core.getF_set_true (c : Core) (r : Reg) (v : W64) : (c.set true r v).getF r = v := Core.getF_setF_same c r v
@[simp] theorem Core.getG_set_false (c : Core) (r : Reg) (v : W64) : (c.set false r v).getG r = if r = 0 then 0 else v := Core.getG_setG_same c r v

/-- The memories of the block `b` are as before. -/
def MemKept (b : BlockId) (s t : State) : Prop := (t.blk b).ls = (s.blk b).ls ∧ (t.blk b).im = (s.blk b).im

section
variable {b : BlockId} {s t u : State}

theorem memKept_refl (b : BlockId) (s : State) : MemKept b s s := ⟨rfl, rfl⟩

theorem memKept_trans (h : MemKept b s t) (k : MemKept b t u) : MemKept b s u := ⟨k.1.trans h.1, k.2.trans h.2⟩

theorem memKept_ite {p : Prop} [Decidable p] (ht : MemKept b s t) (hu : MemKept b s u) : MemKept b s (if p then t else u) := by
  split
  · exact ht
  · exact hu

theorem CtlOnly.memKept (h : CtlOnly b s t) : MemKept b s t := by
  have hb := h.blk
  unfold CoreOnly at hb
  exact ⟨by rw [hb], by rw [hb]⟩

theorem BooksOnly.memKept (h : BooksOnly s t) (b : BlockId) : MemKept b s t := ⟨h.ls b, h.im b⟩

theorem memKept_modCore (b : BlockId) (s : State) (f : Core → Core) : MemKept b s (s.modCore b f) := by simp [MemKept, State.modCore]

theorem memKept_loaded (b : BlockId) (s : State) (fn : LoadFn) (rd : Reg) (v : W64) : MemKept b s (s.loaded b fn rd v) :=
  memKept_trans (memKept_modCore b s _) (ctlOnly_advance b _).memKept

/-- Memories do not change as a packet leaves. -/
theorem blk_sendPacket (s : State) (h : FpPos) (p : FpPacket) (c : BlockId) : (s.sendPacket h p).blk c = s.blk c := by
  unfold State.sendPacket
  split
  · rfl
  · split <;> rfl

theorem memKept_loadLeaves (b : BlockId) (s : State) (a : BitVec 48) (fn : LoadFn) (rd : Reg) (p : FpPacket) :
    MemKept b s (s.loadLeaves b a fn rd p) := by
  simp [MemKept, State.loadLeaves, blk_sendPacket]

end

/-- The register has taken the value and the core goes on. -/
theorem loaded_got (s : State) (b : BlockId) (fn : LoadFn) (rd : Reg) (v : W64) :
    (s.loaded b fn rd v).wrote b fn.toF rd (fn.extend v) ∧ (s.loaded b fn rd v).pcOf b = (s.next b).pc := by
  have hc : ((s.loaded b fn rd v).blk b).core = (s.next b).set fn.toF rd (fn.extend v) := by
    simp only [State.loaded, State.modCore, advance_core, State.next, blk_modBlk_same, ticks_modBlk, Core.stepped_set]
  refine ⟨⟨fun hf => ?_, fun hf => ?_⟩, ?_⟩
  · rw [State.getF, hc, hf, Core.getF_set_true]
  · rw [State.getG, hc, hf, Core.getG_set_false]
  · rw [State.pcOf, hc, Core.set_pc]

/-- The same after books and counters have been kept. -/
theorem loaded_got_of_books {s t : State} (h : BooksOnly s t) (b : BlockId) (fn : LoadFn) (rd : Reg) (v : W64) :
    (t.loaded b fn rd v).wrote b fn.toF rd (fn.extend v) ∧ (t.loaded b fn rd v).pcOf b = (s.next b).pc := by
  rw [← h.next b]
  exact loaded_got t b fn rd v

/-! ## Loads of a block (R138, R153) -/

/-- What a load of `a` does once its checks have answered. -/
def State.loadBy (s : State) (b : BlockId) (fn : LoadFn) (rd : Reg) (ecc : Ecc) (a : W64) : Access → State
  | .fault c v => s.raiseSync b c v
  | .remote => if (s.blk b).core.remLoads.length < 4 then (s.sendLoad b a fn rd).advance b else s
  | .rom => s.loaded b fn rd (romWord a.toNat fn.size)
  | .cr off => s.loaded b fn rd (s.crRead b off (s.blk b).priv.ctx)
  | .im =>
    match ecc with
    | .ok => s.loaded b fn rd ((s.blk b).imWord a.toNat fn.size)
    | .corrected => (s.correctedIm b (a.toNat / 8 * 8)).loaded b fn rd ((s.blk b).imWord a.toNat fn.size)
    | .uncorrectable => (s.lost b (a.toNat / 8 * 8)).raiseSync b 17 a
  | .ls =>
    if s.branchTicks b 5 then
      match ecc with
      | .ok => s.loaded b fn rd ((s.blk b).lsWord a.toNat fn.size)
      | .corrected => (s.corrected b (a.toNat / 8 * 8)).loaded b fn rd ((s.blk b).lsWord a.toNat fn.size)
      | .uncorrectable => (s.lost b (a.toNat / 8 * 8)).raiseSync b 17 a
    else s

theorem exec_load {s : State} {b : BlockId} {fn : LoadFn} {ra rd : Reg} (hb : b ≠ mgmtCore)
    (h : s.mayIssue b (if fn.toF then [ra] else [ra, rd]) (if fn.toF then [rd] else []) = true) (imm : BitVec 14) (ecc : Ecc) :
    exec (.load b fn imm ra rd ecc) s =
      .next (s.loadBy b fn rd ecc (s.getG b ra + imm.signExtend 64) (s.access b false fn.size (s.getG b ra + imm.signExtend 64))) := by
  refine congrArg Host.Outcome.next ((if_neg hb).trans ((issue_whenFree h _).trans ?_))
  rw [lineFetched_ne s hb]
  unfold State.loadBy
  rfl

theorem memKept_loadBy (s : State) (b : BlockId) (fn : LoadFn) (rd : Reg) (ecc : Ecc) (a : W64) (x : Access) :
    MemKept b s (s.loadBy b fn rd ecc a x) := by
  cases x with
  | fault c v => exact (ctlOnly_raiseSync b s c v).memKept
  | rom => exact memKept_loaded b s _ _ _
  | cr off => exact memKept_loaded b s _ _ _
  | remote => exact memKept_ite (memKept_trans (memKept_loadLeaves b s _ _ _ _) (ctlOnly_advance b _).memKept) (memKept_refl b s)
  | im =>
    cases ecc with
    | ok => exact memKept_loaded b s _ _ _
    | corrected => exact memKept_trans ((booksOnly_correctedIm s b _).memKept b) (memKept_loaded b _ _ _ _)
    | uncorrectable => exact memKept_trans ((booksOnly_lost s b _).memKept b) (ctlOnly_raiseSync b _ _ _).memKept
  | ls =>
    refine memKept_ite ?_ (memKept_refl b s)
    cases ecc with
    | ok => exact memKept_loaded b s _ _ _
    | corrected => exact memKept_trans ((booksOnly_corrected s b _).memKept b) (memKept_loaded b _ _ _ _)
    | uncorrectable => exact memKept_trans ((booksOnly_lost s b _).memKept b) (ctlOnly_raiseSync b _ _ _).memKept

section
variable (s : State) (b : BlockId) (fn : LoadFn) (rd : Reg) {ecc : Ecc} (a : W64) (he : ecc ≠ .uncorrectable)
include he

/-- A correctable error does not change what is read (R725). -/
theorem loadBy_im_got : (s.loadBy b fn rd ecc a .im).wrote b fn.toF rd (fn.extend (BitVec.ofNat 64 (bytesAt (s.blk b).im a.toNat fn.size))) ∧
    (s.loadBy b fn rd ecc a .im).pcOf b = (s.next b).pc := by
  rw [← mloadN_eq_bytesAt]
  cases ecc with
  | ok => exact loaded_got s b fn rd _
  | corrected => exact loaded_got_of_books (booksOnly_correctedIm s b _) b fn rd _
  | uncorrectable => exact absurd rfl he

theorem loadBy_ls_got (ht : s.branchTicks b 5 = true) :
    (s.loadBy b fn rd ecc a .ls).wrote b fn.toF rd (fn.extend (BitVec.ofNat 64 (bytesAt (s.blk b).ls a.toNat fn.size))) ∧
    (s.loadBy b fn rd ecc a .ls).pcOf b = (s.next b).pc := by
  rw [← mloadN_eq_bytesAt]
  cases ecc with
  | ok => rw [show s.loadBy b fn rd .ok a .ls = _ from if_pos ht]; exact loaded_got s b fn rd _
  | corrected =>
    rw [show s.loadBy b fn rd .corrected a .ls = _ from if_pos ht]
    exact loaded_got_of_books (booksOnly_corrected s b _) b fn rd _
  | uncorrectable => exact absurd rfl he

end

/-! ## Loads of the management core (R554, R555) -/

/-- What a load of the management core does once its checks have answered. -/
def State.mgmtLoadBy (s : State) (fn : LoadFn) (rd : Reg) (ecc : Ecc) (a : W64) : (Nat × W64) ⊕ MgmtPlace → State
  | .inl f => s.raiseSync mgmtCore f.1 f.2
  | .inr .rom => s.loaded mgmtCore fn rd (bootRomWord a.toNat fn.size)
  | .inr .flash =>
    match s.elt.lines.find? fun l => decide (l.line = flashLine a.toNat) with
    | some l => s.loaded mgmtCore fn rd (BitVec.ofNat 64 (leAt l.bytes (a.toNat % 32) fn.size))
    | none => s
  | .inr .journal => s.mgmtRead a fn rd ecc (BitVec.ofNat 64 (leAt (s.jnl.slot ((a.toNat - 0x20000000) / 64)) (a.toNat % 64) fn.size))
  | .inr .kept => s.useFree.mgmtRead a fn rd ecc s.free
  | .inr .data => s.mgmtRead a fn rd ecc ((s.blk mgmtCore).lsWord a.toNat fn.size)
  | .inr (.aon off) =>
    (if off / 8 * 8 = 0x200 then aonTimeNsRead s else s).loaded mgmtCore fn rd (s.aonRead (off / 8 * 8) >>> (8 * (off % 8)))
  | .inr (.window off) => s.windowLoad a off fn rd ecc

/-- The checks go by the privilege registers of the core alone. -/
theorem mgmtAccess_lineFetched (s : State) (b : BlockId) (st : Bool) (n : Nat) (a : W64) :
    (s.lineFetched b).mgmtAccess st n a = s.mgmtAccess st n a := by
  unfold State.mgmtAccess
  rw [blk_lineFetched]

theorem exec_load_mgmt {s : State} {fn : LoadFn} {ra rd : Reg}
    (h : s.mayIssue mgmtCore (if fn.toF then [ra] else [ra, rd]) (if fn.toF then [rd] else []) = true) (imm : BitVec 14) (ecc : Ecc) :
    exec (.load mgmtCore fn imm ra rd ecc) s = .next ((s.lineFetched mgmtCore).mgmtLoadBy fn rd ecc (s.getG mgmtCore ra + imm.signExtend 64)
      (s.mgmtAccess false fn.size (s.getG mgmtCore ra + imm.signExtend 64))) := by
  refine congrArg Host.Outcome.next ((if_pos rfl).trans ((issue_whenFree h _).trans ?_))
  rw [getG_lineFetched, ← mgmtAccess_lineFetched s mgmtCore]
  unfold State.mgmtLoadBy
  rfl

/-! ### What the fetch of a line leaves -/

theorem FetchOnly.aonRead {b : BlockId} {s t : State} (h : FetchOnly b s t) (off : Nat) : t.aonRead off = s.aonRead off := by
  have k := congrArg (fun u : State => u.aonRead off) h.1
  exact k

theorem FetchOnly.jnl {b : BlockId} {s t : State} (h : FetchOnly b s t) : t.jnl = s.jnl := by
  have k := congrArg (fun u : State => u.jnl) h.1
  exact k

/-- A line of the buffer is there with its bytes after the fetch of any line (R560). -/
theorem fetchLine_find (e : Elt) (n m : Nat) {l : LbLine} (h : (e.lines.find? fun l => decide (l.line = m)) = some l) :
    ∃ k, ((e.fetchLine n).lines.find? fun l => decide (l.line = m)) = some k ∧ k.bytes = l.bytes := by
  cases hf : e.lines.find? fun l => decide (l.line = n) with
  | none => exact ⟨l, by rw [Elt.fetchLine, hf]; exact h, rfl⟩
  | some x =>
    have hl : (e.fetchLine n).lines = { x with fetched := true } :: e.lines.filter fun l => !decide (l.line = n) := by
      rw [Elt.fetchLine, hf]
      dsimp only
      split <;> rfl
    have hx : x.line = n := by simpa using List.find?_some hf
    rw [hl]
    by_cases hm : m = n
    · subst hm
      rw [hf] at h
      obtain rfl := Option.some.inj h
      exact ⟨_, List.find?_cons_of_pos (by simpa using hx), rfl⟩
    · refine ⟨l, ?_, rfl⟩
      have hne : x.line ≠ m := fun k => hm (k.symm.trans hx)
      rw [List.find?_cons_of_neg (by simpa using hne), List.find?_filter, ← h]
      congr 1
      funext l
      by_cases hlm : l.line = m
      · simp [hlm, hm]
      · simp [hlm]

theorem lineFetched_find (s : State) (b : BlockId) (m : Nat) {l : LbLine} (h : (s.elt.lines.find? fun l => decide (l.line = m)) = some l) :
    ∃ k, ((s.lineFetched b).elt.lines.find? fun l => decide (l.line = m)) = some k ∧ k.bytes = l.bytes := by
  cases hf : s.fromFlash b with
  | false => rw [lineFetched_of_not_fromFlash hf]; exact ⟨l, h, rfl⟩
  | true => rw [State.lineFetched, if_pos hf]; exact fetchLine_find s.elt _ m h

/-! ### The memory of the core -/

theorem memKept_mgmtRead (s : State) (a : W64) (fn : LoadFn) (rd : Reg) (ecc : Ecc) (v : W64) : MemKept mgmtCore s (s.mgmtRead a fn rd ecc v) := by
  cases ecc with
  | ok => exact memKept_loaded _ s _ _ _
  | corrected => exact memKept_trans ((booksOnly_bump s _ _ _).memKept _) (memKept_loaded _ _ _ _ _)
  | uncorrectable => exact memKept_trans ((booksOnly_bump s _ _ _).memKept _) (ctlOnly_raiseSync _ _ _ _).memKept

theorem mgmtRead_got (s : State) (a : W64) (fn : LoadFn) (rd : Reg) {ecc : Ecc} (v : W64) (he : ecc ≠ .uncorrectable) :
    (s.mgmtRead a fn rd ecc v).wrote mgmtCore fn.toF rd (fn.extend v) ∧ (s.mgmtRead a fn rd ecc v).pcOf mgmtCore = (s.next mgmtCore).pc := by
  cases ecc with
  | ok => exact loaded_got s mgmtCore fn rd _
  | corrected => exact loaded_got_of_books (booksOnly_bump s _ _ _) mgmtCore fn rd _
  | uncorrectable => exact absurd rfl he

/-- A read of the map books at most (R725). -/
theorem booksOnly_blockRead (s : State) (b : BlockId) (t : WTag) (a n : Nat) (ecc : Ecc) : BooksOnly s (s.blockRead b t a n ecc).1 := by
  have hr := booksOnly_refl s
  unfold State.blockRead
  dsimp only
  split
  · exact hr
  split
  · split
    · exact hr
    · cases ecc with
      | ok => exact hr
      | corrected => exact booksOnly_corrected s b _
      | uncorrectable => exact booksOnly_uncorrectable s b _
  split
  · exact hr
  split
  · cases ecc with
    | ok => exact hr
    | corrected => exact booksOnly_correctedIm s b _
    | uncorrectable => exact booksOnly_uncorrectable s b _
  split
  · exact hr
  · split <;> exact hr

theorem booksOnly_mapRead (s : State) (off n : Nat) (ecc : Ecc) : BooksOnly s (s.mapRead off n ecc).1 := by
  have hr := booksOnly_refl s
  unfold State.mapRead
  split
  case h_1 b a _ => exact booksOnly_blockRead s b .m a n ecc
  case h_2 e a _ =>
    split
    · exact hr
    · cases ecc with
      | ok => exact hr
      | corrected => exact booksOnly_bump s 0x4001 5 1
      | uncorrectable => exact booksOnly_bump s 0x4001 6 1
  case h_3 => split <;> exact hr
  case h_4 => exact hr

theorem memKept_windowError (s : State) (a : W64) (kind : BitVec 2) (err : Nat) : MemKept mgmtCore s (s.windowError a kind err) := by
  simp [MemKept, State.windowError, State.modPriv]

theorem memKept_windowLoad (s : State) (a : W64) (off : Nat) (fn : LoadFn) (rd : Reg) (ecc : Ecc) :
    MemKept mgmtCore s (s.windowLoad a off fn rd ecc) := by
  unfold State.windowLoad
  refine memKept_ite (memKept_loaded _ s _ _ _) (memKept_ite (memKept_ite (memKept_refl _ s) ?_) ?_)
  · exact memKept_trans (memKept_loadLeaves _ s _ _ _ _) (ctlOnly_advance _ _).memKept
  · have hm := (booksOnly_mapRead s off fn.size ecc).memKept mgmtCore
    split
    next u l hu => exact memKept_trans (by rwa [hu] at hm) (memKept_loaded _ u _ _ _)
    next u e hu => exact memKept_trans (by rwa [hu] at hm) (memKept_trans (memKept_windowError u _ _ _) (memKept_loaded _ _ _ _ _))

theorem memKept_aonTimeNsRead (s : State) : MemKept mgmtCore s (aonTimeNsRead s) := ⟨rfl, rfl⟩

theorem memKept_mgmtLoadBy (s : State) (fn : LoadFn) (rd : Reg) (ecc : Ecc) (a : W64) (x : (Nat × W64) ⊕ MgmtPlace) :
    MemKept mgmtCore s (s.mgmtLoadBy fn rd ecc a x) := by
  unfold State.mgmtLoadBy
  split
  case h_1 f => exact (ctlOnly_raiseSync _ s _ _).memKept
  case h_2 => exact memKept_loaded _ s _ _ _
  case h_3 =>
    split
    · exact memKept_loaded _ s _ _ _
    · exact memKept_refl _ s
  case h_4 => exact memKept_mgmtRead s _ _ _ _ _
  case h_5 => exact memKept_trans ((booksOnly_useFree s 1).memKept _) (memKept_mgmtRead _ _ _ _ _ _)
  case h_6 => exact memKept_mgmtRead s _ _ _ _ _
  case h_7 off =>
    refine memKept_trans (t := if off / 8 * 8 = 0x200 then aonTimeNsRead s else s) ?_ (memKept_loaded _ _ _ _ _)
    exact memKept_ite (memKept_aonTimeNsRead s) (memKept_refl _ s)
  case h_8 off => exact memKept_windowLoad s _ _ _ _ _

theorem mgmtLoadBy_flash_got (s : State) (fn : LoadFn) (rd : Reg) (ecc : Ecc) (a : W64) {l : LbLine}
    (h : (s.elt.lines.find? fun l => decide (l.line = flashLine a.toNat)) = some l) :
    let t := s.mgmtLoadBy fn rd ecc a (.inr .flash)
    let v := BitVec.ofNat 64 (leAt l.bytes (a.toNat % 32) fn.size)
    t.wrote mgmtCore fn.toF rd (fn.extend v) ∧ t.pcOf mgmtCore = (s.next mgmtCore).pc := by
  have ht : s.mgmtLoadBy fn rd ecc a (.inr .flash) = s.loaded mgmtCore fn rd (BitVec.ofNat 64 (leAt l.bytes (a.toNat % 32) fn.size)) := by
    simp only [State.mgmtLoadBy, h]
  rw [ht]
  exact loaded_got s mgmtCore fn rd _

theorem mgmtLoadBy_aon_got (s : State) (fn : LoadFn) (rd : Reg) (ecc : Ecc) (a : W64) {off : Nat} (h : off / 8 * 8 ≠ 0x200) :
    let t := s.mgmtLoadBy fn rd ecc a (.inr (.aon off))
    t.wrote mgmtCore fn.toF rd (fn.extend (s.aonRead (off / 8 * 8) >>> (8 * (off % 8)))) ∧ t.pcOf mgmtCore = (s.next mgmtCore).pc := by
  have ht : s.mgmtLoadBy fn rd ecc a (.inr (.aon off)) = s.loaded mgmtCore fn rd (s.aonRead (off / 8 * 8) >>> (8 * (off % 8))) := by
    simp only [State.mgmtLoadBy, if_neg h]
  rw [ht]
  exact loaded_got s mgmtCore fn rd _

end Sys2Proof.Machine

/-- Settles O16: each place that an address can lie in gives its value to the register, and no branch of a load writes a memory. -/
theorem loadsComplete : Obligations.LoadsComplete := by
  refine ⟨fun s b fn imm ra rd ecc hb h he => ?_, fun s fn imm ra rd ecc h he => ?_, fun v => ?_⟩
  · refine ⟨_, exec_load hb h imm ecc, fun ha ht => ?_, fun ha => ?_, fun ha => ?_, fun off ha => ?_, memKept_loadBy s b fn rd ecc _ _⟩
    · rw [ha]; exact loadBy_ls_got s b fn rd _ he ht
    · rw [ha]; exact loadBy_im_got s b fn rd _ he
    · rw [ha]; exact loaded_got s b fn rd _
    · rw [ha]; exact loaded_got s b fn rd _
  · have hf := fetchOnly_lineFetched s mgmtCore
    have hm := memKept_mgmtLoadBy (s.lineFetched mgmtCore) fn rd ecc (s.getG mgmtCore ra + imm.signExtend 64)
      (s.mgmtAccess false fn.size (s.getG mgmtCore ra + imm.signExtend 64))
    have hn : (s.lineFetched mgmtCore).next mgmtCore = s.next mgmtCore := next_lineFetched s _ _
    refine ⟨_, exec_load_mgmt h imm ecc, hm.1.trans (by rw [blk_lineFetched]), fun ha => ?_, fun ha => ?_, fun l ha hl => ?_, fun ha => ?_,
      fun off ha ho => ?_⟩ <;> rw [ha, ← hn]
    · rw [← mloadN_eq_bytesAt, ← blk_lineFetched s mgmtCore mgmtCore]
      exact mgmtRead_got _ _ _ _ _ he
    · exact loaded_got _ _ _ _ _
    · obtain ⟨k, hk, hkb⟩ := lineFetched_find s mgmtCore _ hl
      rw [← hkb]
      exact mgmtLoadBy_flash_got _ _ _ _ _ hk
    · rw [← hf.jnl]
      exact mgmtRead_got _ _ _ _ _ he
    · rw [← hf.aonRead]
      exact mgmtLoadBy_aon_got _ _ _ _ _ ho
  · exact ⟨toInt_signExtend_setWidth v (k := 8) (by decide), toNat_zeroExtend_setWidth v (k := 8) (by decide),
      toInt_signExtend_setWidth v (k := 16) (by decide), toNat_zeroExtend_setWidth v (k := 16) (by decide),
      toInt_signExtend_setWidth v (k := 32) (by decide), toNat_zeroExtend_setWidth v (k := 32) (by decide),
      toNat_zeroExtend_setWidth v (k := 32) (by decide), rfl, rfl⟩

end

/-! # Stores: the proofs -/

section
open Sys2Proof Sys2Proof.Machine

namespace Sys2Proof.Machine

/-! ## A write of a control register stays in its block (R99) -/

section
variable {b : BlockId} (s : State)

theorem onlyBlock_ite {t u : State} {p : Prop} [Decidable p] (ht : OnlyBlock b s t) (hu : OnlyBlock b s u) : OnlyBlock b s (if p then t else u) := by
  split
  · exact ht
  · exact hu

theorem onlyBlock_modCore (f : Core → Core) : OnlyBlock b s (s.modCore b f) := onlyBlock_modBlk b s _

theorem onlyBlock_modPriv (f : Priv → Priv) : OnlyBlock b s (s.modPriv b f) := onlyBlock_modBlk b s _

theorem onlyBlock_keepNext : OnlyBlock b s (s.keepNext b) := onlyBlock_modBlk b s _

theorem onlyBlock_changeMode (m : Mode) : OnlyBlock b s (s.changeMode b m) := by
  refine onlyBlock_ite s (onlyBlock_refl b s) (onlyBlock_trans (t := (if (s.blk b).clk.mode = .run then s.traceClose b .mode else s).keepNext b) ?_
    (onlyBlock_setBlk b _ _))
  exact onlyBlock_trans (onlyBlock_ite s (trcOnly_traceClose b s _).only (onlyBlock_refl b s)) (onlyBlock_keepNext _)

theorem onlyBlock_requestMode (m : Mode) : OnlyBlock b s (s.requestMode b m) :=
  onlyBlock_ite s (onlyBlock_modBlk b s _) (onlyBlock_changeMode s m)

theorem onlyBlock_clkReq (v : W64) : OnlyBlock b s (s.clkReq b v) := by
  refine onlyBlock_ite s (onlyBlock_refl b s) ?_
  split
  · exact onlyBlock_requestMode s _
  · exact onlyBlock_requestMode s _
  · exact onlyBlock_requestMode s _
  · exact onlyBlock_refl b s

theorem onlyBlock_traceSync : OnlyBlock b s (s.traceSync b) :=
  onlyBlock_ite s (trcOnly_trans (trcOnly_flushOutcomes b s) (trcOnly_trans (trcOnly_putRecord b _ _) (trcOnly_setTimed b _))).only (onlyBlock_refl b s)

theorem onlyBlock_trcControl (w : W64) : OnlyBlock b s (s.trcControl b w) :=
  onlyBlock_trans (onlyBlock_ite s (onlyBlock_refl b s) (trcOnly_traceClose b s _).only) (onlyBlock_modBlk b _ _)

theorem onlyBlock_privWrite (off : Nat) (w act : W64) : OnlyBlock b s (s.privWrite b off w act) := by
  unfold State.privWrite
  split
  case h_11 => exact onlyBlock_ite s (onlyBlock_modPriv s _) (onlyBlock_refl b s)
  case h_17 => exact onlyBlock_ite s (onlyBlock_modPriv s _) (onlyBlock_refl b s)
  case h_18 => exact onlyBlock_ite s (onlyBlock_modPriv s _) (onlyBlock_refl b s)
  all_goals exact onlyBlock_modPriv s _

theorem onlyBlock_coreWrite (off : Nat) (w act : W64) : OnlyBlock b s (s.coreWrite b off w act) := by
  unfold State.coreWrite
  split
  case h_7 => exact onlyBlock_ite s (onlyBlock_modBlk b s _) (onlyBlock_refl b s)
  case h_8 => exact onlyBlock_ite s (onlyBlock_modBlk b s _) (onlyBlock_refl b s)
  case h_9 => exact onlyBlock_refl b s
  all_goals exact onlyBlock_modBlk b s _

theorem onlyBlock_fabricWrite (who : Who) (off : Nat) (w act m : W64) : OnlyBlock b s (s.fabricWrite b who off w act m) := by
  unfold State.fabricWrite
  split
  case h_1 => exact onlyBlock_ite s (onlyBlock_refl b s) (onlyBlock_modBlk b s _)
  case h_2 => exact onlyBlock_ite s (onlyBlock_refl b s) (onlyBlock_clkReq s _)
  case h_3 =>
    have ht : OnlyBlock b s (if who = .foot .m then s.trcControl b w else s) := onlyBlock_ite s (onlyBlock_trcControl s w) (onlyBlock_refl b s)
    exact onlyBlock_ite s (onlyBlock_trans ht (onlyBlock_traceSync _)) ht
  case h_4 => exact onlyBlock_ite s (onlyBlock_refl b s) (trcOnly_traceRecord b s _ _).only
  case h_5 => exact onlyBlock_modBlk b s _
  case h_6 => exact onlyBlock_trans (onlyBlock_keepNext s) (onlyBlock_modBlk b _ _)
  case h_7 =>
    exact onlyBlock_ite s (onlyBlock_modBlk b s _) (onlyBlock_ite s (onlyBlock_modBlk b s _)
      (onlyBlock_ite s (onlyBlock_trans (onlyBlock_keepNext s) (onlyBlock_modBlk b _ _)) (onlyBlock_refl b s)))

theorem onlyBlock_resumeGo : OnlyBlock b s (s.resumeGo b) :=
  onlyBlock_ite s (onlyBlock_trans (onlyBlock_modCore s _) (onlyBlock_modPriv _ _)) (onlyBlock_refl b s)

theorem onlyBlock_resumeWrite (w act : W64) : OnlyBlock b s (s.resumeWrite b w act) := by
  have hm := onlyBlock_modCore (b := b) s fun c => { c with resumeAddr := w &&& 0xFFFFFFFFFFFC }
  exact onlyBlock_ite s (onlyBlock_refl b s) (onlyBlock_ite s (onlyBlock_trans hm (onlyBlock_resumeGo _)) hm)

/-- A write of a control register changes nothing outside its block. -/
theorem onlyBlock_crWrite (who : Who) (off : Nat) (v m : W64) : OnlyBlock b s (s.crWrite b who off v m) :=
  onlyBlock_ite s (onlyBlock_refl b s) <|
    onlyBlock_ite s (onlyBlock_coreWrite s _ _ _) <|
      onlyBlock_ite s (onlyBlock_ite s (onlyBlock_ite s (onlyBlock_resumeWrite s _ _) (onlyBlock_refl b s)) (onlyBlock_privWrite s _ _ _)) <|
        onlyBlock_ite s (onlyBlock_coreWrite s _ _ _) (onlyBlock_fabricWrite s _ _ _ _ _)

theorem onlyBlock_crStore (off : Nat) (v : W64) : OnlyBlock b s (s.crStore b off v) := by
  have hw := onlyBlock_trans (ctlOnly_advance b s).only (onlyBlock_crWrite (b := b) (s.advance b) (.core (s.blk b).priv.ctx) off v allBytes)
  exact onlyBlock_ite s (onlyBlock_trans hw (onlyBlock_modCore _ _)) hw

end

/-! ## Bytes stored (R7, R154) -/

theorem storedAt_mstore (m : Memory) (a n v : Nat) : storedAt m (mstore m a (leBytes n v)) a n v := by
  intro k
  split
  next h =>
    have hk : k - a < n := by omega
    have hin := mget_mstore_in m a (leBytes n v) (i := k - a) (by rwa [leBytes_length])
    rw [Nat.add_sub_cancel' h.1] at hin
    rw [hin, ← leBytes_getD n v (k - a) hk, List.getD_eq_getElem]
  next h => exact mget_mstore_out m a _ (by rw [leBytes_length]; omega)

/-- Block `b` has the memory `ls` in its local store; its core and its instruction memory, and the count of its clock, are those of `s`. -/
structure LsWritten (b : BlockId) (s u : State) (ls : Memory) : Prop where
  ls : (u.blk b).ls = ls
  im : (u.blk b).im = (s.blk b).im
  core : (u.blk b).core = (s.blk b).core
  ticks : u.ticks b = s.ticks b

section
variable {b : BlockId} {s u : State}

theorem advance_getG (b : BlockId) (s : State) (r : Reg) : (s.advance b).getG b r = s.getG b r := (ctlOnly_advance b s).getG r
theorem advance_getF (b : BlockId) (s : State) (r : Reg) : (s.advance b).getF b r = s.getF b r := (ctlOnly_advance b s).getF r
theorem advance_pcOf (b : BlockId) (s : State) : (s.advance b).pcOf b = (s.next b).pc := by rw [State.pcOf, advance_core]

/-- A core that goes on from a state with the same core at the same count is at the same next instruction with the same registers. -/
theorem advance_of_same_core (hc : (u.blk b).core = (s.blk b).core) (ht : u.ticks b = s.ticks b) :
    (u.advance b).pcOf b = (s.next b).pc ∧ ∀ r, (u.advance b).getG b r = s.getG b r ∧ (u.advance b).getF b r = s.getF b r := by
  refine ⟨?_, fun r => ⟨?_, ?_⟩⟩
  · rw [advance_pcOf, State.next, hc, ht]
    rfl
  · rw [advance_getG, State.getG, hc]
    rfl
  · rw [advance_getF, State.getF, hc]
    rfl

theorem lsWritten_lsStore (b : BlockId) (s : State) (a : Nat) (l : List Byte) : LsWritten b s (s.lsStore b a l) (mstore (s.blk b).ls a l) := by
  constructor <;> simp [State.lsStore]

theorem BooksOnly.lsWritten {ls : Memory} {t : State} (h : BooksOnly s t) (k : LsWritten b t u ls) : LsWritten b s u ls :=
  ⟨k.ls, k.im.trans (h.im b), k.core.trans (h.core b), k.ticks.trans (h.ticks b)⟩

/-- A store that meets no uncorrectable word it has to merge into writes its bytes (R731). -/
theorem lsWritten_lsStoreEcc (b : BlockId) (s : State) (k : Nat) (l : List Byte) {ecc : Ecc} (h : ecc = .uncorrectable → l.length = 8) :
    LsWritten b s (s.lsStoreEcc b k l ecc) (mstore (s.blk b).ls k l) := by
  unfold State.lsStoreEcc
  split
  next hl =>
    cases ecc with
    | ok => exact lsWritten_lsStore b s k l
    | corrected =>
      have hb := booksOnly_corrected s b (k / 8 * 8)
      rw [← hb.ls b]
      exact hb.lsWritten (lsWritten_lsStore b _ k l)
    | uncorrectable => exact absurd (h rfl) (by omega)
  next => exact lsWritten_lsStore b s k l

/-- What a store to local store leaves of its own block. -/
theorem storedAt_of_lsWritten {a n v : Nat} (h : LsWritten b s u (mstore (s.blk b).ls a (leBytes n v))) :
    storedAt (s.blk b).ls ((u.advance b).blk b).ls a n v ∧ ((u.advance b).blk b).im = (s.blk b).im ∧
      (u.advance b).pcOf b = (s.next b).pc ∧ ∀ r, (u.advance b).getG b r = s.getG b r ∧ (u.advance b).getF b r = s.getF b r := by
  have hk := (ctlOnly_advance b u).memKept
  refine ⟨?_, hk.2.trans h.im, advance_of_same_core h.core h.ticks⟩
  rw [hk.1, h.ls]
  exact storedAt_mstore _ _ _ _

/-- What a store to instruction memory leaves of its own block. -/
theorem storedAt_imStore (b : BlockId) (s : State) (a n v : Nat) :
    let t := (s.imStore b a (leBytes n v)).advance b
    storedAt (s.blk b).im (t.blk b).im a n v ∧ (t.blk b).ls = (s.blk b).ls ∧ t.pcOf b = (s.next b).pc ∧
      ∀ r, t.getG b r = s.getG b r ∧ t.getF b r = s.getF b r := by
  have hk := (ctlOnly_advance b (s.imStore b a (leBytes n v))).memKept
  refine ⟨?_, ?_, advance_of_same_core (by simp [State.imStore]) rfl⟩
  · rw [hk.2, show ((s.imStore b a (leBytes n v)).blk b).im = mstore (s.blk b).im a (leBytes n v) by simp [State.imStore]]
    exact storedAt_mstore _ _ _ _
  · rw [hk.1]
    simp [State.imStore]

end

/-! ## Other blocks keep their memories -/

theorem OnlyBlock.memKept {b : BlockId} {s t : State} (h : OnlyBlock b s t) {c : BlockId} (hc : c ≠ b) : MemKept c s t := by
  obtain ⟨-, -, hblk⟩ := h
  exact ⟨by rw [hblk c hc], by rw [hblk c hc]⟩

theorem memKept_storeLeaves {b c : BlockId} (s : State) (a : BitVec 48) (mbx : Bool) (p : FpPacket) (hc : c ≠ b) :
    MemKept c s (s.storeLeaves b a mbx p) := by
  simp [MemKept, State.storeLeaves, blk_sendPacket, blk_setBlk_ne _ _ hc]

theorem memKept_lsStoreEcc {b c : BlockId} (s : State) (k : Nat) (l : List Byte) (ecc : Ecc) (hc : c ≠ b) : MemKept c s (s.lsStoreEcc b k l ecc) := by
  have hs : ∀ u : State, MemKept c u (u.lsStore b k l) := fun u => (onlyBlock_modBlk b u _).memKept hc
  unfold State.lsStoreEcc
  refine memKept_ite ?_ (hs s)
  cases ecc with
  | ok => exact hs s
  | corrected => exact memKept_trans ((booksOnly_corrected s b _).memKept c) (hs _)
  | uncorrectable => exact (booksOnly_lost s b _).memKept c

/-! ## Stores of a block (R138, R154) -/

/-- What a store of `v` at `a` does once its checks have answered. -/
def State.storeBy (s : State) (b : BlockId) (n : Nat) (v : W64) (ecc : Ecc) (a : W64) : Access → State
  | .fault c w => s.raiseSync b c w
  | .remote => if (s.blk b).core.remStores.length < 8 then (s.sendStore b a false n v).advance b else s
  | .rom => s
  | .cr off => s.crStore b off v
  | .im => (s.imStore b a.toNat (leBytes n v.toNat)).advance b
  | .ls => if s.branchTicks b 5 then (s.lsStoreEcc b a.toNat (leBytes n v.toNat) ecc).advance b else s

theorem exec_store {s : State} {b : BlockId} {fn : StoreFn} {ra rs : Reg} (hb : b ≠ mgmtCore)
    (h : s.mayIssue b (if fn.fromF then [ra] else [ra, rs]) (if fn.fromF then [rs] else []) = true) (imm : BitVec 14) (ecc : Ecc) :
    exec (.store b fn imm ra rs ecc) s =
      .next (s.storeBy b fn.size (if fn.fromF then s.getF b rs else s.getG b rs) ecc (s.getG b ra + imm.signExtend 64)
        (s.access b true fn.size (s.getG b ra + imm.signExtend 64))) := by
  refine congrArg Host.Outcome.next ((if_neg hb).trans ((issue_whenFree h _).trans ?_))
  rw [lineFetched_ne s hb]
  unfold State.storeBy
  rfl

theorem memKept_storeBy {b c : BlockId} (s : State) (n : Nat) (v : W64) (ecc : Ecc) (a : W64) (x : Access) (hc : c ≠ b) :
    MemKept c s (s.storeBy b n v ecc a x) := by
  have ha : ∀ u : State, MemKept c u (u.advance b) := fun u => (ctlOnly_advance b u).only.memKept hc
  cases x with
  | fault k w => exact (ctlOnly_raiseSync b s k w).only.memKept hc
  | rom => exact memKept_refl c s
  | cr off => exact (onlyBlock_crStore s off v).memKept hc
  | remote => exact memKept_ite (memKept_trans (memKept_storeLeaves s _ _ _ hc) (ha _)) (memKept_refl c s)
  | im => exact memKept_trans ((onlyBlock_modBlk b s _).memKept hc) (ha _)
  | ls => exact memKept_ite (memKept_trans (memKept_lsStoreEcc s _ _ _ hc) (ha _)) (memKept_refl c s)

/-! ## Stores of the management core (R554, R555) -/

/-- What a store of the management core does once its checks have answered. -/
def State.mgmtStoreBy (s : State) (n : Nat) (v : W64) (ecc : Ecc) (a : W64) : (Nat × W64) ⊕ MgmtPlace → State
  | .inl f => s.raiseSync mgmtCore f.1 f.2
  | .inr .data => (s.lsStoreEcc mgmtCore a.toNat (leBytes n v.toNat) ecc).advance mgmtCore
  | .inr (.aon off) => (s.aonWrite (off / 8 * 8) (atBytes (off % 8) n v).1 (atBytes (off % 8) n v).2).advance mgmtCore
  | .inr (.window off) => s.windowStore a off n v ecc
  | .inr _ => s.advance mgmtCore

theorem exec_store_mgmt {s : State} {fn : StoreFn} {ra rs : Reg}
    (h : s.mayIssue mgmtCore (if fn.fromF then [ra] else [ra, rs]) (if fn.fromF then [rs] else []) = true) (imm : BitVec 14) (ecc : Ecc) :
    exec (.store mgmtCore fn imm ra rs ecc) s =
      .next ((s.lineFetched mgmtCore).mgmtStoreBy fn.size (if fn.fromF then s.getF mgmtCore rs else s.getG mgmtCore rs) ecc
        (s.getG mgmtCore ra + imm.signExtend 64) (s.mgmtAccess true fn.size (s.getG mgmtCore ra + imm.signExtend 64))) := by
  refine congrArg Host.Outcome.next ((if_pos rfl).trans ((issue_whenFree h _).trans ?_))
  rw [getG_lineFetched, getG_lineFetched, getF_lineFetched, ← mgmtAccess_lineFetched s mgmtCore]
  unfold State.mgmtStoreBy
  rfl

end Sys2Proof.Machine

/-- Settles O17: each place that an address can lie in takes the bytes, and every branch of a store leaves the memories of the other blocks. -/
theorem storesComplete : Obligations.StoresComplete := by
  refine ⟨fun s b fn imm ra rs ecc hb h he => ?_, fun s fn imm ra rs ecc h he => ?_⟩
  · refine ⟨_, exec_store hb h imm ecc, fun ha ht => ?_, fun ha => ?_, fun off ha => ⟨fun h1 h2 => ?_, fun ho => ?_⟩,
      fun c hc => memKept_storeBy s _ _ ecc _ _ hc⟩ <;> rw [ha]
    · rw [show s.storeBy b _ _ ecc _ .ls = _ from if_pos ht]
      exact storedAt_of_lsWritten (lsWritten_lsStoreEcc b s _ _ fun k => by rw [leBytes_length, he k])
    · exact storedAt_imStore b s _ _ _
    · exact crStore_of_not_loop s b _ (not_or.mpr ⟨h1, h2⟩)
    · exact crStore_of_loop s b _ ho
  · refine ⟨_, exec_store_mgmt h imm ecc, fun ha => ?_, fun off ha => ?_⟩ <;> rw [ha]
    · have hw := storedAt_of_lsWritten (lsWritten_lsStoreEcc mgmtCore (s.lineFetched mgmtCore)
        (s.getG mgmtCore ra + imm.signExtend 64).toNat (leBytes fn.size (if fn.fromF then s.getF mgmtCore rs else s.getG mgmtCore rs).toNat)
        (ecc := ecc) fun k => by rw [leBytes_length, he k])
      rw [blk_lineFetched, next_lineFetched] at hw
      exact ⟨hw.1, hw.2.2.1⟩
    · rfl

end

/-! # The checks of loads and stores: the proofs -/

section
open Sys2Proof Sys2Proof.Machine

namespace Sys2Proof.Machine

/-! ## The checks of a block, in their order (R138, R352) -/

section
variable (s : State) (b : BlockId) (st : Bool) (n : Nat) (a : W64)

theorem access_of_misaligned (h : a.toNat % n ≠ 0) : s.access b st n a = .fault 4 a := if_pos h

/-- The checks of an aligned remote access. -/
theorem access_remote (h : a.toNat % n = 0) (hr : isRemote a = true) : s.access b st n a =
    if !s.devMapped (remDev a) then .fault 5 a
    else if !mapped (remOff a) then .fault 6 a
    else if (s.blk b).priv.ctx.isUser then .fault 7 a
    else if inCr (remOff a) && decide (n ≠ 8) then .fault 8 a
    else .remote := (if_neg (not_not.mpr h)).trans (if_pos hr)

theorem isRemote_of_lt {a : W64} (h : a.toNat < 2 ^ 47) : isRemote a = false := by
  unfold isRemote
  rw [Nat.div_eq_of_lt h]
  rfl

theorem access_of_unmapped (h : a.toNat % n = 0) (hr : isRemote a = false) (hm : mapped a.toNat = false) : s.access b st n a = .fault 6 a := by
  simp [State.access, h, hr, hm]

theorem access_im (h : a.toNat % n = 0) (h1 : 0x10000 ≤ a.toNat) (h2 : a.toNat < 0x18000) :
    s.access b st n a = if (s.blk b).priv.ctx = .m then .im else .fault 7 a := by
  have hr : isRemote a = false := isRemote_of_lt (by omega)
  have hi : inIm a.toNat = true := by simp [inIm, h1, h2]
  have hl : inLs a.toNat n = false := by simp [inLs]; omega
  simp [State.access, h, hr, hi, hl, mapped]

/-- Every register level lets M write. -/
theorem admits_m (l : Level) (p : Priv) : l.admits p .m = true := by
  cases l <;> simp [Level.admits, Ctx.isUser]

theorem access_cr_narrow (h : a.toNat % n = 0) (h1 : 0x300000 ≤ a.toNat) (h2 : a.toNat < 0x310000) (hn : n ≠ 8)
    (hs : st = true → (s.blk b).priv.ctx = .m) : s.access b st n a = .fault 8 a := by
  have hr : isRemote a = false := isRemote_of_lt (by omega)
  have hi : inIm a.toNat = false := by simp [inIm]; omega
  have hl : inLs a.toNat n = false := by simp [inLs]; omega
  have ho : inRom a.toNat = false := by simp [inRom]; omega
  have hc : inCr a.toNat = true := by simp [inCr, h1, h2]
  have hm : st = true → s.crMay b ((a.toNat - 0x300000) / 8 * 8) (s.blk b).priv.ctx = true := fun k => by
    rw [State.crMay, hs k]
    exact admits_m _ _
  cases st with
  | false => simp [State.access, h, hr, hi, hl, ho, hc, mapped, hn]
  | true => simp [State.access, h, hr, hi, hl, ho, hc, mapped, hn, hm]

end

/-! ## The checks of the management core (R554, R555) -/

section
variable (s : State) (st : Bool) (n : Nat) (a : W64)

theorem mgmtAccess_of_misaligned (h : a.toNat % n ≠ 0) : s.mgmtAccess st n a = .inl (4, a) := if_pos h

theorem mgmtAccess_of_unmapped (h : a.toNat % n = 0) (hp : mgmtPlace a.toNat = none) : s.mgmtAccess st n a = .inl (6, a) := by
  simp [State.mgmtAccess, h, hp]

/-- An access to a place that the context may not touch. -/
theorem mgmtAccess_of_barred (h : a.toNat % n = 0) {x : MgmtPlace} (hp : mgmtPlace a.toNat = some x)
    (hx : (s.blk mgmtCore).priv.mgmtMay st a.toNat n x = false) : s.mgmtAccess st n a = .inl (7, a) := by
  simp [State.mgmtAccess, h, hp, hx]

theorem mgmtPlace_window {k : Nat} (h1 : 0x40000000 ≤ k) (h2 : k < 0x440000000) : mgmtPlace k = some (.window (k - 0x40000000)) := by
  have hr : inBootRom k = false := by simp [inBootRom]; omega
  have hf : inFlash k = false := by simp [inFlash]; omega
  have hd : inFirmwareData k 1 = false := by simp [inFirmwareData]; omega
  rw [mgmtPlace, hr, hf, hd, if_neg (by decide), if_neg (by decide), if_neg (by omega), if_neg (by omega), if_neg (by decide), if_neg (by omega),
    if_pos ⟨h1, h2⟩]

theorem mgmtPlace_retention {k : Nat} (h1 : 0x20000000 ≤ k) (h2 : k < 0x20060000) :
    mgmtPlace k = some (if k < 0x20040000 then .journal else .kept) := by
  have hr : inBootRom k = false := by simp [inBootRom]; omega
  have hf : inFlash k = false := by simp [inFlash]; omega
  rw [mgmtPlace, hr, hf, if_neg (by decide), if_neg (by decide)]
  by_cases hk : k < 0x20040000
  · rw [if_pos ⟨h1, hk⟩, if_pos hk]
  · rw [if_neg (by omega), if_pos (by omega), if_neg hk]

theorem mgmtPlace_flash {k : Nat} (h1 : 0x10000000 ≤ k) (h2 : k < 0x20000000) : mgmtPlace k = some .flash := by
  have hr : inBootRom k = false := by simp [inBootRom]; omega
  have hf : inFlash k = true := by simp [inFlash, h1, h2]
  rw [mgmtPlace, hr, hf, if_neg (by decide), if_pos rfl]

/-- A context of a world has neither the window nor the journal and what units keep (log entry 57). -/
theorem mgmtAccess_of_world (h : a.toNat % n = 0) (hc : (s.blk mgmtCore).priv.ctx ≠ .m)
    (hp : 0x40000000 ≤ a.toNat ∧ a.toNat < 0x440000000 ∨ 0x20000000 ≤ a.toNat ∧ a.toNat < 0x20060000) : s.mgmtAccess st n a = .inl (7, a) := by
  obtain ⟨h1, h2⟩ | ⟨h1, h2⟩ := hp
  · exact mgmtAccess_of_barred s st n a h (mgmtPlace_window h1 h2) (by simp [Priv.mgmtMay, hc])
  · refine mgmtAccess_of_barred s st n a h (mgmtPlace_retention h1 h2) ?_
    split <;> simp [Priv.mgmtMay, hc]

theorem mgmtAccess_flash_store (h : a.toNat % n = 0) (h1 : 0x10000000 ≤ a.toNat) (h2 : a.toNat < 0x20000000) :
    s.mgmtAccess true n a = .inl (7, a) := mgmtAccess_of_barred s true n a h (mgmtPlace_flash h1 h2) rfl

end

/-! ## An uncorrectable word under a load (R730) -/

/-- The fault is raised and no register and no byte changes. -/
theorem lost_raiseSync (s : State) (b : BlockId) (word : Nat) (a : W64) :
    let t := (s.lost b word).raiseSync b 17 a
    (t.blk b).core = { (s.blk b).core with fault := some ⟨17, a, s.pcOf b, none, false⟩ } ∧ (t.blk b).ls = (s.blk b).ls ∧ (t.blk b).im = (s.blk b).im := by
  have hb := booksOnly_lost s b word
  refine ⟨?_, memKept_trans (hb.memKept b) (ctlOnly_raiseSync b _ _ _).memKept⟩
  simp only [State.raiseSync, blk_modBlk_same, hb.core b, State.pcOf]
  rfl

theorem loadBy_uncorrectable (s : State) (b : BlockId) (fn : LoadFn) (rd : Reg) (a : W64) {x : Access} (ht : s.branchTicks b 5 = true)
    (hx : x = .ls ∨ x = .im) : s.loadBy b fn rd .uncorrectable a x = (s.lost b (a.toNat / 8 * 8)).raiseSync b 17 a := by
  obtain rfl | rfl := hx
  · exact if_pos ht
  · rfl

end Sys2Proof.Machine

/-- Settles O18: the chain of checks answers with the first that fails, and what a fault leaves is the core with its fault. -/
theorem accessFaults : Obligations.AccessFaults := by
  refine ⟨fun s b st n a => ⟨access_of_misaligned s b st n a, fun h hr hd => ?_, fun h hr hd hm => ?_, fun h hr hd hm hu => ?_,
      fun h hr hd hm hu hc hn => ?_, access_of_unmapped s b st n a, access_im s b st n a, access_cr_narrow s b st n a⟩,
    fun s st n a => ⟨mgmtAccess_of_misaligned s st n a, mgmtAccess_of_unmapped s st n a, mgmtAccess_of_world s st n a,
      fun h h1 h2 hs => hs ▸ mgmtAccess_flash_store s n a h h1 h2⟩,
    fun s imm ra rd ecc f => ⟨fun fn h hf => ?_, fun fn h hf => ?_⟩,
    fun s b imm ra rd ecc c v hb => ⟨fun fn h => ⟨fun hf => ?_, fun he ht hx => ?_⟩, fun fn h hf => ?_⟩⟩
  · simp [access_remote s b st n a h hr, hd]
  · simp [access_remote s b st n a h hr, hd, hm]
  · simp [access_remote s b st n a h hr, hd, hm, hu]
  · simp [access_remote s b st n a h hr, hd, hm, hu, hc, hn]
  · rw [exec_load_mgmt h, hf]; rfl
  · rw [exec_store_mgmt h, hf]; rfl
  · rw [exec_load hb h, hf]; rfl
  · subst he
    refine ⟨_, exec_load hb h imm _, ?_⟩
    rw [loadBy_uncorrectable s b fn rd _ ht hx]
    exact lost_raiseSync s b _ _
  · rw [exec_store hb h, hf]; rfl

end

/-! # Remote accesses that leave: the proofs -/

section
open Sys2Proof Sys2Proof.Machine

namespace Sys2Proof.Machine

/-! ## Transaction numbers (R416) -/

/-- The numbers that a core's node holds. -/
def State.heldTxns (s : State) (b : BlockId) : List (BitVec 8) :=
  (s.blk b).core.remLoads.map RemoteLoad.txn ++ ((s.blk b).core.remStores.map RemoteStore.txn ++ (s.tap.asked.toList ++ s.proxies.map Proxy.txn))

theorem mem_heldTxns {s : State} {b : BlockId} {t : BitVec 8} (h : s.txnUsed b t = true) : t ∈ s.heldTxns b := by
  simp only [State.txnUsed, Bool.or_eq_true, Bool.and_eq_true, List.any_eq_true, decide_eq_true_eq] at h
  simp only [State.heldTxns, List.mem_append, List.mem_map, Option.mem_toList]
  obtain (h | h) | ⟨-, h⟩ := h
  · exact .inl h
  · exact .inr (.inl h)
  · exact .inr (.inr h)

/-- The 256 numbers from `t` on differ. -/
theorem nodup_txnsFrom (t : BitVec 8) : ((List.range 256).map fun n => t + BitVec.ofNat 8 n).Nodup := by
  refine List.Nodup.map_on (fun m hm n hn h => ?_) List.nodup_range
  have hmn := congrArg BitVec.toNat (BitVec.add_right_inj t |>.mp h)
  rwa [BitVec.toNat_ofNat, BitVec.toNat_ofNat, Nat.mod_eq_of_lt (List.mem_range.mp hm), Nat.mod_eq_of_lt (List.mem_range.mp hn)] at hmn

/-- While fewer than 256 numbers are held, one of those from any number on is free. -/
theorem exists_unused {s : State} {b : BlockId} (h : (s.heldTxns b).length < 256) (t : BitVec 8) :
    ∃ n ∈ List.range 256, s.txnUsed b (t + BitVec.ofNat 8 n) = false := by
  by_contra hc
  push Not at hc
  have hsub : ((List.range 256).map fun n => t + BitVec.ofNat 8 n) ⊆ s.heldTxns b := fun x hx => by
    obtain ⟨n, hn, rfl⟩ := List.mem_map.mp hx
    exact mem_heldTxns (Bool.of_not_eq_false (hc n hn))
  have hle := (List.subperm_of_subset (nodup_txnsFrom t) hsub).length_le
  rw [List.length_map, List.length_range] at hle
  omega

theorem freshTxn_unused {s : State} {b : BlockId} (h : (s.heldTxns b).length < 256) : s.txnUsed b (s.freshTxn b) = false := by
  obtain ⟨n, hn, hu⟩ := exists_unused h (s.blk b).core.nextTxn
  have hs : ((List.range 256).find? fun n => !s.txnUsed b ((s.blk b).core.nextTxn + BitVec.ofNat 8 n)).isSome := by
    rw [List.find?_isSome]
    exact ⟨n, hn, by rw [hu]; rfl⟩
  obtain ⟨k, hk⟩ := Option.isSome_iff_exists.mp hs
  have hf := List.find?_some hk
  rw [State.freshTxn, hk]
  simpa using hf

theorem not_txnUsed {s : State} {b : BlockId} {t : BitVec 8} (h : s.txnUsed b t = false) :
    (∀ l ∈ (s.blk b).core.remLoads, l.txn ≠ t) ∧ (∀ l ∈ (s.blk b).core.remStores, l.txn ≠ t) ∧
      (b = mgmtCore → s.tap.asked ≠ some t ∧ ∀ p ∈ s.proxies, p.txn ≠ t) := by
  simp only [State.txnUsed, Bool.or_eq_false_iff, Bool.and_eq_false_iff, List.any_eq_false, decide_eq_true_eq, decide_eq_false_iff_not] at h
  obtain ⟨⟨hl, hs⟩, hm⟩ := h
  refine ⟨hl, hs, fun hb => ?_⟩
  obtain hm | ⟨ha, hp⟩ := hm
  · exact absurd hb hm
  · exact ⟨ha, hp⟩

/-! ## A packet leaves (R414, R745) -/

section
variable (b : BlockId) (s : State)

theorem sendPacket_of_way (here : FpPos) (p : FpPacket) {yx : Bool} (h : s.fpRoute here (packetDest p) = some yx) :
    (s.sendPacket here p).footpath = s.footpath ++ [⟨here, nextHop yx here (packetDest p), yx, 0, false, p⟩] := by
  rw [State.sendPacket, h]

theorem sendPacket_of_no_way (here : FpPos) (p : FpPacket) (h : s.fpRoute here (packetDest p) = none) (hp : packetAsks p = true) :
    (s.sendPacket here p).footpath =
      s.footpath ++ [⟨here, nextHop false here (packetDest (answer p 4 2 [])), false, 0, false, answer p 4 2 []⟩] := by
  rw [State.sendPacket, h]
  exact congrArg State.footpath (if_pos hp)

theorem OnlyBlock.footpath {b : BlockId} {s t : State} (h : OnlyBlock b s t) : t.footpath = s.footpath := by
  obtain ⟨hrest, -⟩ := h
  have k := congrArg State.footpath hrest
  exact k

theorem ticks_sendPacket (h : FpPos) (p : FpPacket) (c : BlockId) : (s.sendPacket h p).ticks c = s.ticks c := by
  unfold State.sendPacket
  split
  · rfl
  · split <;> rfl

/-- What a packet that has left shows on the links from the place of `b`: itself, or the answer of a request that no way leads on. -/
def Leaves (t : State) (p : FpPacket) : Prop :=
  (∀ yx, s.fpRoute (s.fpCoord b) (packetDest p) = some yx →
    t.footpath = s.footpath ++ [⟨s.fpCoord b, nextHop yx (s.fpCoord b) (packetDest p), yx, 0, false, p⟩]) ∧
  (s.fpRoute (s.fpCoord b) (packetDest p) = none →
    t.footpath = s.footpath ++ [⟨s.fpCoord b, nextHop false (s.fpCoord b) (packetDest (answer p 4 2 [])), false, 0, false, answer p 4 2 []⟩])

/-- A packet that asks leaves from a state that differs in a block alone, and the core goes on. -/
theorem leaves_sendPacket_advance (x : Block) {p : FpPacket} (hp : packetAsks p = true) :
    Leaves b s (((s.setBlk b x).sendPacket (s.fpCoord b) p).advance b) p :=
  ⟨fun _ h => (ctlOnly_advance b _).only.footpath.trans (sendPacket_of_way (s.setBlk b x) _ p h),
    fun h => (ctlOnly_advance b _).only.footpath.trans (sendPacket_of_no_way (s.setBlk b x) _ p h hp)⟩

/-- What an outstanding access leaves of the core beside the accesses. -/
theorem accessed_pc (c : Core) (l : List RemoteLoad) (r : List RemoteStore) (t : BitVec 8) (n : Nat) :
    (({ c with remLoads := l, remStores := r, nextTxn := t } : Core).stepped n).pc = (c.stepped n).pc := by
  rw [stepped_pc, stepped_pc]
  rfl

theorem sendPacket_advance_core (x : Block) (here : FpPos) (p : FpPacket) :
    ((((s.setBlk b x).sendPacket here p).advance b).blk b).core = x.core.stepped (s.ticks b) := by
  rw [advance_core, State.next, blk_sendPacket, blk_setBlk_same, ticks_sendPacket]
  rfl

end

/-! ## Loads and posted stores (R97, R137) -/

section
variable (s : State) (b : BlockId) (a : W64)

theorem sendLoad_advance (fn : LoadFn) (rd : Reg) :
    let t := (s.sendLoad b a fn rd).advance b
    let x := s.blk b
    (t.blk b).core.remLoads = x.core.remLoads ++ [⟨s.freshTxn b, fn, rd, a.setWidth 48, x.priv.ctx⟩] ∧
      Leaves b s t (s.request b a 0 x.priv.ctx.tag (s.freshTxn b) fn.size []) ∧ t.pcOf b = (s.next b).pc ∧
      ∀ r, t.getG b r = s.getG b r ∧ t.getF b r = s.getF b r := by
  dsimp only
  refine ⟨?_, leaves_sendPacket_advance b s _ rfl, ?_, fun r => ⟨?_, ?_⟩⟩
  · rw [State.sendLoad, State.loadLeaves, sendPacket_advance_core, stepped_ctl]
    rfl
  · rw [State.pcOf, State.sendLoad, State.loadLeaves, sendPacket_advance_core]
    exact accessed_pc _ _ _ _ _
  · rw [State.getG, State.sendLoad, State.loadLeaves, sendPacket_advance_core, stepped_getG]
    rfl
  · rw [State.getF, State.sendLoad, State.loadLeaves, sendPacket_advance_core, stepped_getF]
    rfl

theorem sendStore_advance (mbx : Bool) (size : Nat) (v : W64) :
    let t := (s.sendStore b a mbx size v).advance b
    let x := s.blk b
    (t.blk b).core.remStores = x.core.remStores ++ [⟨s.freshTxn b, a.setWidth 48, mbx, x.priv.ctx⟩] ∧
      Leaves b s t (s.request b a (if mbx then 5 else 2) x.priv.ctx.tag (s.freshTxn b) size [v]) ∧ t.pcOf b = (s.next b).pc ∧
      ∀ r, t.getG b r = s.getG b r ∧ t.getF b r = s.getF b r := by
  dsimp only
  refine ⟨?_, leaves_sendPacket_advance b s _ (by cases mbx <;> rfl), ?_, fun r => ⟨?_, ?_⟩⟩
  · rw [State.sendStore, State.storeLeaves, sendPacket_advance_core, stepped_ctl]
    rfl
  · rw [State.pcOf, State.sendStore, State.storeLeaves, sendPacket_advance_core]
    exact accessed_pc _ _ _ _ _
  · rw [State.getG, State.sendStore, State.storeLeaves, sendPacket_advance_core, stepped_getG]
    rfl
  · rw [State.getF, State.sendStore, State.storeLeaves, sendPacket_advance_core, stepped_getF]
    rfl

theorem loadBy_remote (fn : LoadFn) (rd : Reg) (ecc : Ecc) :
    s.loadBy b fn rd ecc a .remote = if (s.blk b).core.remLoads.length < 4 then (s.sendLoad b a fn rd).advance b else s := rfl

theorem storeBy_remote (n : Nat) (v : W64) (ecc : Ecc) :
    s.storeBy b n v ecc a .remote = if (s.blk b).core.remStores.length < 8 then (s.sendStore b a false n v).advance b else s := rfl

end

/-- An mbx.send to the start of a mapped device leaves while fewer than 8 stores are outstanding (R174). -/
theorem exec_mbxSend {s : State} {b : BlockId} {rb ra : Reg} (hb : b ≠ mgmtCore) (h : s.mayIssue b [ra, rb] [] = true)
    (hr : isRemote (s.getG b ra) = true) (hd : s.devMapped (remDev (s.getG b ra)) = true) (ho : remOff (s.getG b ra) = 0)
    (hl : (s.blk b).core.remStores.length < 8) :
    exec (.mbxSend b rb ra) s = .next ((s.sendStore b (s.getG b ra) true 8 (s.getG b rb)).advance b) := by
  have hdec : decodes b (.mbxSend b rb ra) = true := by simp [decodes, reserved, hb]
  refine congrArg Host.Outcome.next ((issue_decoded_whenFree h hdec _).trans ?_)
  rw [lineFetched_ne s hb]
  simp [hr, hd, ho, hl]

end Sys2Proof.Machine

/-- Settles O19: 256 numbers for fewer outstanding accesses, and one packet for each access within its limit. -/
theorem remoteAccessesIssue : Obligations.RemoteAccessesIssue := by
  refine ⟨fun s b h => not_txnUsed (freshTxn_unused ?_), fun s d hd hf h => ?_, fun s b imm ra rd ecc hb => ⟨fun fn h ha => ?_, fun fn h ha => ?_⟩,
    fun s b rb ra hb h hr hd ho hl => ?_⟩
  · have ht : s.tap.asked.toList.length ≤ 1 := by cases s.tap.asked <;> simp
    simp only [State.heldTxns, List.length_append, List.length_map]
    omega
  · simp [State.fpRoute, hd, hf]
  · refine ⟨_, exec_load hb h imm ecc, fun hl => ?_, fun hl => ?_⟩ <;> rw [ha, loadBy_remote]
    · rw [if_pos hl]; exact sendLoad_advance s b _ fn rd
    · exact if_neg (Nat.not_lt.mpr hl)
  · refine ⟨_, exec_store hb h imm ecc, fun hl => ?_, fun hl => ?_⟩ <;> rw [ha, storeBy_remote]
    · rw [if_pos hl]; exact sendStore_advance s b _ false fn.size _
    · exact if_neg (Nat.not_lt.mpr hl)
  · obtain ⟨hstores, hleaves, hpc, -⟩ := sendStore_advance s b (s.getG b ra) true 8 (s.getG b rb)
    exact ⟨_, exec_mbxSend hb h hr hd ho hl, hstores, hleaves, hpc⟩

end

/-! # Remote accesses that end: the proofs -/

section
open Sys2Proof Sys2Proof.Machine

namespace Sys2Proof.Machine

/-! ## The outstanding access with a number -/

theorem takeLoad_append {pre : List RemoteLoad} {l : RemoteLoad} (post : List RemoteLoad) (h : ∀ m ∈ pre, m.txn ≠ l.txn) :
    takeLoad l.txn (pre ++ l :: post) = some (l, pre ++ post) := by
  induction pre with
  | nil => exact if_pos rfl
  | cons m pre ih =>
    rw [List.forall_mem_cons] at h
    obtain ⟨hm, hpre⟩ := h
    rw [List.cons_append, takeLoad, if_neg hm, ih hpre]
    rfl

theorem takeLoad_none {t : BitVec 8} {l : List RemoteLoad} (h : ∀ m ∈ l, m.txn ≠ t) : takeLoad t l = none := by
  induction l with
  | nil => rfl
  | cons m l ih =>
    rw [List.forall_mem_cons] at h
    obtain ⟨hm, hl⟩ := h
    rw [takeLoad, if_neg hm, ih hl]
    rfl

theorem takeStore_append {pre : List RemoteStore} {l : RemoteStore} (post : List RemoteStore) (h : ∀ m ∈ pre, m.txn ≠ l.txn) :
    takeStore l.txn (pre ++ l :: post) = some (l, pre ++ post) := by
  induction pre with
  | nil => exact if_pos rfl
  | cons m pre ih =>
    rw [List.forall_mem_cons] at h
    obtain ⟨hm, hpre⟩ := h
    rw [List.cons_append, takeStore, if_neg hm, ih hpre]
    rfl

/-! ## Its end (R112, R351, R369) -/

section
variable (s : State) (b : BlockId)

/-- A register write keeps the outstanding loads. -/
theorem Core.set_remLoads (c : Core) (toF : Bool) (r : Reg) (v : W64) : (c.set toF r v).remLoads = c.remLoads := by
  cases toF
  · rw [Core.set, if_neg (by decide), Core.setG_ctl]
  · rfl

theorem loadDone_core (l : RemoteLoad) (rest : List RemoteLoad) (v : W64) :
    ((s.loadDone b l rest v).blk b).core = ({ (s.blk b).core with remLoads := rest } : Core).set l.fn.toF l.rd (l.fn.extend v) := by
  simp [State.loadDone, State.modCore]

theorem loadDone_priv (l : RemoteLoad) (rest : List RemoteLoad) (v : W64) : ((s.loadDone b l rest v).blk b).priv = (s.blk b).priv := by
  simp [State.loadDone, State.modCore]

/-- A load that ends has written its register and is outstanding no longer. -/
theorem loadDone_end {t : State} {l : RemoteLoad} {rest : List RemoteLoad} {v : W64}
    (h : (t.blk b).core = ({ (s.blk b).core with remLoads := rest } : Core).set l.fn.toF l.rd (l.fn.extend v)) :
    t.wrote b l.fn.toF l.rd (l.fn.extend v) ∧ (t.blk b).core.remLoads = rest ∧ t.pcOf b = s.pcOf b := by
  refine ⟨⟨fun hf => ?_, fun hf => ?_⟩, ?_, ?_⟩
  · rw [State.getF, h, hf, Core.getF_set_true]
  · rw [State.getG, h, hf, Core.getG_set_false]
  · rw [h, Core.set_remLoads]
  · rw [State.pcOf, h, Core.set_pc]
    rfl

theorem extend_zero (fn : LoadFn) : fn.extend 0 = 0 := by cases fn <;> rfl

/-- An error of a load is logged and the load writes 0. -/
theorem accessFailed_load {pre post : List RemoteLoad} {l : RemoteLoad} (hl : (s.blk b).core.remLoads = pre ++ l :: post)
    (hp : ∀ m ∈ pre, m.txn ≠ l.txn) (err : BitVec 4) :
    (s.accessFailed b l.txn err).wrote b l.fn.toF l.rd 0 ∧ ((s.accessFailed b l.txn err).blk b).core.remLoads = pre ++ post ∧
      ((s.accessFailed b l.txn err).blk b).priv = (s.blk b).priv.late l.addr 2 l.ctx err := by
  have ht : s.accessFailed b l.txn err = (s.loadDone b l (pre ++ post) 0).modPriv b fun p => p.late l.addr 2 l.ctx err := by
    rw [State.accessFailed, hl, takeLoad_append post hp]
  have hc : ((s.accessFailed b l.txn err).blk b).core = ((s.loadDone b l (pre ++ post) 0).blk b).core := by
    rw [ht, State.modPriv, blk_modBlk_same]
  obtain ⟨hw, hr, -⟩ := loadDone_end s b (hc.trans (loadDone_core s b l (pre ++ post) 0))
  rw [extend_zero] at hw
  refine ⟨hw, hr, ?_⟩
  rw [ht, State.modPriv, blk_modBlk_same, loadDone_priv]

/-- An error of a store is logged. -/
theorem accessFailed_store {pre post : List RemoteStore} {l : RemoteStore} (hl : (s.blk b).core.remStores = pre ++ l :: post)
    (hp : ∀ m ∈ pre, m.txn ≠ l.txn) (hn : ∀ m ∈ (s.blk b).core.remLoads, m.txn ≠ l.txn) (err : BitVec 4) :
    ((s.accessFailed b l.txn err).blk b).core.remStores = pre ++ post ∧
      ((s.accessFailed b l.txn err).blk b).priv = (s.blk b).priv.late l.addr (if l.mbx then 1 else 0) l.ctx err := by
  simp [State.accessFailed, hl, takeLoad_none hn, takeStore_append post hp, State.modPriv, State.modCore]

end

/-! ## The late-store log (R369) -/

theorem logLate_append {e x : LsEntry} {pre : List LsEntry} (post : List LsEntry) (h : ∀ m ∈ pre, m.valid = true) (hx : x.valid = false) :
    logLate e (pre ++ x :: post) = (pre ++ e :: post, true) := by
  induction pre with
  | nil => exact if_neg (by rw [hx]; decide)
  | cons m pre ih =>
    rw [List.forall_mem_cons] at h
    obtain ⟨hm, hpre⟩ := h
    rw [List.cons_append, logLate, if_pos hm, ih hpre]
    rfl

theorem logLate_full {e : LsEntry} {l : List LsEntry} (h : ∀ m ∈ l, m.valid = true) : logLate e l = (l, false) := by
  induction l with
  | nil => rfl
  | cons m l ih =>
    rw [List.forall_mem_cons] at h
    obtain ⟨hm, hl⟩ := h
    rw [logLate, if_pos hm, ih hl]

/-- A count of 16 bits that saturates. -/
theorem satNext_eq_min (n : BitVec 16) : (if n = 0xFFFF then n else n + 1) = BitVec.ofNat 16 (min 0xFFFF (n.toNat + 1)) := by
  have hn := n.isLt
  split
  next h => rw [h]; rfl
  next h =>
    have hne : n.toNat ≠ 0xFFFF := fun k => h (BitVec.eq_of_toNat_eq k)
    rw [Nat.min_eq_right (by omega)]
    exact BitVec.eq_of_toNat_eq (by rw [BitVec.toNat_add, BitVec.toNat_ofNat]; rfl)

theorem late_of_free {p : Priv} {pre post : List LsEntry} {e : LsEntry} (h : p.lslog = pre ++ e :: post) (hp : ∀ m ∈ pre, m.valid = true)
    (he : e.valid = false) (addr : BitVec 48) (kind : BitVec 2) (ctx : Ctx) (err : BitVec 4) :
    p.late addr kind ctx err = { p with lslog := pre ++ ⟨addr, true, kind, ctx.code, true, err⟩ :: post } := by
  simp [Priv.late, h, logLate_append post hp he]

theorem late_of_full {p : Priv} (h : ∀ m ∈ p.lslog, m.valid = true) (addr : BitVec 48) (kind : BitVec 2) (ctx : Ctx) (err : BitVec 4) :
    p.late addr kind ctx err = { p with lsLost := BitVec.ofNat 16 (min 0xFFFF (p.lsLost.toNat + 1)) } := by
  rw [← satNext_eq_min]
  simp [Priv.late, logLate_full h]

end Sys2Proof.Machine

/-- Settles O20: the access with the number leaves the outstanding ones, and an error takes the first free entry of the log. -/
theorem remoteAccessesEnd : Obligations.RemoteAccessesEnd := by
  intro s b data err
  refine ⟨fun pre post l hl hp => ⟨?_, ?_, ?_⟩, fun pre post l hl hp hn => ⟨?_, ?_⟩, fun p addr kind ctx => ⟨fun pre post e h hp he => ?_, fun h => ?_⟩⟩
  · have hc := loadDone_core s b l (pre ++ post) data
    obtain ⟨hw, hr, hpc⟩ := loadDone_end s b hc
    have ht : remoteLoadResponse b l.txn data s = s.loadDone b l (pre ++ post) data := by rw [remoteLoadResponse, hl, takeLoad_append post hp]
    exact ⟨_, congrArg Host.Outcome.next ht, hw, hr, hpc, loadDone_priv s b l _ data⟩
  · exact ⟨_, rfl, accessFailed_load s b hl hp err⟩
  · exact ⟨_, rfl, accessFailed_load s b hl hp 2⟩
  · exact ⟨_, rfl, accessFailed_store s b hl hp hn err⟩
  · exact ⟨_, rfl, accessFailed_store s b hl hp hn 2⟩
  · exact late_of_free h hp he addr kind ctx err
  · exact late_of_full h addr kind ctx err

end

/-! # Message and mailbox instructions: the proofs -/

section
open Sys2Proof Sys2Proof.Machine

namespace Sys2Proof.Machine

/-! ## Which instructions a core decodes (R180, R556) -/

theorem decodes_of_block {b : BlockId} {i : Instr} (hb : b ≠ mgmtCore) (h : reserved i = false) : decodes b i = true := by
  simp [decodes, h, hb]

/-- An encoding that the management core lacks raises its fault there. -/
theorem issue_decoded_offMgmt {s : State} {i : Instr} (h : s.canIssue mgmtCore = true) (ho : offMgmt ((instrWord i).getD 0) = true) (k : State → State) :
    (s.issue mgmtCore fun s => s.decoded mgmtCore i k) = (s.lineFetched mgmtCore).raiseSync mgmtCore 2 (faultWord i) := by
  rw [issue_eq h, State.decoded, ho, decide_eq_true rfl, Bool.and_true, Bool.or_true]
  exact if_pos rfl

theorem offMgmt_message (ch : ChanId) (fn : BitVec 2) (rb ra rd : Reg) : offMgmt (fmtMG ch fn rb ra rd 0x36) = true := by
  have h36 : (fmtMG ch fn rb ra rd 0x36).toNat % 256 = 0x36 := toNat_append_opcode _ _
  rw [offMgmt, h36, decide_eq_true rfl, Bool.true_or, Bool.true_or]

/-! ## The checks of a channel (R184, R353) -/

section
variable {s : State} {b : BlockId} {ch : ChanId} (k : State → State)

theorem chanCheck_of_disabled (h : ((s.blk b).chan ch).en = false) : s.chanCheck b ch k = s.raiseSync b 10 (ch.zeroExtend 64) := by
  simp [State.chanCheck, h]

/-- The channel's world is the one that its bit names. -/
theorem world_eq_iff (r : Bool) (w : World) : w = (if r then World.a else World.b) ↔ r ≠ decide (w = World.b) := by
  cases r <;> cases w <;> decide

theorem chanCheck_of_other_world {w : World} (h : ((s.blk b).chan ch).en = true) (hw : (s.blk b).priv.ctx.world = some w)
    (hr : ((s.blk b).chan ch).world ≠ decide (w = World.b)) : s.chanCheck b ch k = s.raiseSync b 7 (ch.zeroExtend 64) := by
  simp [State.chanCheck, h, hw, (world_eq_iff _ w).mpr hr]

theorem chanCheck_of_own_world (h : ((s.blk b).chan ch).en = true)
    (hr : ∀ w, (s.blk b).priv.ctx.world = some w → ((s.blk b).chan ch).world = decide (w = World.b)) : s.chanCheck b ch k = k s := by
  have hne : (s.blk b).priv.ctx.world ≠ some (if ((s.blk b).chan ch).world then World.a else World.b) := fun hw =>
    (world_eq_iff _ _).mp rfl (hr _ hw)
  simp [State.chanCheck, h, hne]

end

/-! ## mwait and mcount on a block (R172, R173) -/

section
variable {s : State} {b : BlockId} {ra rd : Reg} (ch : ChanId)

theorem exec_mwait (hb : b ≠ mgmtCore) (h : s.mayIssue b [ra, rd] [] = true) : exec (.mwait b ch ra rd) s = .next (s.chanCheck b ch fun s =>
    if ((s.blk b).count ch).ult (s.getG b ra) then s else s.finish b rd ((s.blk b).count ch)) := by
  refine congrArg Host.Outcome.next ((issue_decoded_whenFree h (decodes_of_block hb rfl) _).trans ?_)
  rw [lineFetched_ne s hb]

theorem exec_mcount (hb : b ≠ mgmtCore) (h : s.mayIssue b [rd] [] = true) :
    exec (.mcount b ch rd) s = .next (s.chanCheck b ch fun s => s.finish b rd ((s.blk b).count ch)) := by
  refine congrArg Host.Outcome.next ((issue_decoded_whenFree h (decodes_of_block hb rfl) _).trans ?_)
  rw [lineFetched_ne s hb]

end

/-! ## mbx.recv on a block (R175, R353) -/

theorem takeWord_append {t : WTag} {pre : List MboxWord} {w : MboxWord} (post : List MboxWord) (hw : w.tag = t) (h : ∀ m ∈ pre, m.tag ≠ t) :
    takeWord t (pre ++ w :: post) = some (w.word, pre ++ post) := by
  induction pre with
  | nil => exact if_pos hw
  | cons m pre ih =>
    rw [List.forall_mem_cons] at h
    obtain ⟨hm, hpre⟩ := h
    rw [List.cons_append, takeWord, if_neg hm, ih hpre]
    rfl

theorem takeWord_none {t : WTag} {l : List MboxWord} (h : ∀ m ∈ l, m.tag ≠ t) : takeWord t l = none := by
  induction l with
  | nil => rfl
  | cons m l ih =>
    rw [List.forall_mem_cons] at h
    obtain ⟨hm, hl⟩ := h
    rw [takeWord, if_neg hm, ih hl]
    rfl

section
variable {s : State} {b : BlockId} {rd : Reg}

theorem exec_mbxRecv (hb : b ≠ mgmtCore) (h : s.mayIssue b [rd] [] = true) : exec (.mbxRecv b rd) s = .next
    (match takeWord (s.blk b).priv.ctx.tag (s.blk b).mbox with
     | none => (s.modCore b fun c => { c with recvs := c.recvs ++ [(rd, (s.blk b).priv.ctx.tag)] }).advance b
     | some (w, l) => (s.setBlk b { s.blk b with mbox := l }).startLong b ⟨.l1, false, rd, w, 0, false⟩) := by
  refine congrArg Host.Outcome.next ((issue_decoded_whenFree h (decodes_of_block hb rfl) _).trans ?_)
  rw [lineFetched_ne s hb] <;> rfl

/-- A word that has been taken goes to the register when the operation completes, and the mailbox keeps the others. -/
theorem mbxRecv_complete (l : List MboxWord) (w : W64) (h : (s.blk b).core.longOps = []) :
    let t := (s.setBlk b { s.blk b with mbox := l }).startLong b ⟨.l1, false, rd, w, 0, false⟩
    ∃ u, exec (.longOperationComplete b 0) t = .next u ∧ u.wrote b false rd w ∧ (u.blk b).mbox = l := by
  intro t
  obtain ⟨u, hu, hg, -⟩ := startLong_complete b (s.setBlk b { s.blk b with mbox := l }) ⟨.l1, false, rd, w, 0, false⟩ (by simpa using h)
  refine ⟨u, hu, ⟨nofun, hg⟩, ?_⟩
  have ht : (t.blk b).core.longOps[0]? = some ⟨.l1, false, rd, w, 0, false⟩ := by simp [t, State.startLong, h]
  have hblk := (ctlOnly_startLong b (s.setBlk b { s.blk b with mbox := l }) ⟨.l1, false, rd, w, 0, false⟩).blk
  unfold CoreOnly at hblk
  obtain rfl : longOperationComplete b 0 t = u := Host.Outcome.next.inj hu
  rw [longOperationComplete_blk ht, hblk, blk_setBlk_same]

/-- A word that is waited for is asked for as a load is, and the core goes on. -/
theorem mbxRecv_waits (tag : WTag) :
    let t := (s.modCore b fun c => { c with recvs := c.recvs ++ [(rd, tag)] }).advance b
    t.pcOf b = (s.next b).pc ∧ (t.blk b).core.recvs = (s.blk b).core.recvs ++ [(rd, tag)] ∧ (t.blk b).mbox = (s.blk b).mbox ∧
      ∀ r, t.getG b r = s.getG b r ∧ t.getF b r = s.getF b r := by
  intro t
  have hc : (t.blk b).core = ({ (s.blk b).core with recvs := (s.blk b).core.recvs ++ [(rd, tag)] } : Core).stepped (s.ticks b) := by
    simp [t, State.modCore, State.next]
  refine ⟨?_, ?_, ?_, fun r => ⟨?_, ?_⟩⟩
  · rw [State.pcOf, hc, stepped_pc, State.next, stepped_pc]
    rfl
  · rw [hc, stepped_ctl]
  · rw [show t = State.advance _ b from rfl, advance_blk]
    simp [State.modCore]
  · rw [State.getG, hc, stepped_getG]
    rfl
  · rw [State.getF, hc, stepped_getF]
    rfl

end

end Sys2Proof.Machine

/-- Settles O22: the checks of a channel in their order, then the count; the oldest word with the tag of the context's world. -/
theorem messageInstructions : Obligations.MessageInstructions := by
  refine ⟨fun s ch rb ra rd h => ?_, fun s b ch ra rd hb => ⟨fun he hw => ⟨fun h hle => ?_, fun h hlt => ?_, fun h => ?_⟩, fun he h h' => ⟨?_, ?_⟩,
    fun w he hc hw h => ?_, fun h hl => ⟨fun pre post w hm ht hp => ?_, fun hm => ?_⟩⟩⟩
  · simp only [List.forall_mem_cons, List.not_mem_nil, false_implies, implies_true, and_true]
    exact ⟨congrArg Host.Outcome.next (issue_decoded_offMgmt (i := .mwait mgmtCore ch ra rd) h (offMgmt_message ch 0 0 ra rd) _),
      congrArg Host.Outcome.next (issue_decoded_offMgmt (i := .mcount mgmtCore ch rd) h (offMgmt_message ch 1 0 0 rd) _),
      congrArg Host.Outcome.next (issue_decoded_offMgmt (i := .mbxSend mgmtCore rb ra) h (offMgmt_message 0 2 rb ra 0) _),
      congrArg Host.Outcome.next (issue_decoded_offMgmt (i := .mbxRecv mgmtCore rd) h (offMgmt_message 0 3 0 0 rd) _),
      congrArg Host.Outcome.next (issue_decoded_offMgmt (i := .ewait mgmtCore) h (by decide) _)⟩
  · have hu : ((s.blk b).count ch).ult (s.getG b ra) = false := by
      rw [Bool.eq_false_iff, Ne, ult_iff]
      exact Nat.not_lt.mpr hle
    rw [exec_mwait ch hb h, chanCheck_of_own_world _ he hw, hu]
    exact ⟨_, rfl, finish_wrote s b rd _⟩
  · rw [exec_mwait ch hb h, chanCheck_of_own_world _ he hw]
    exact congrArg Host.Outcome.next (if_pos ((ult_iff _ _).mpr hlt))
  · rw [exec_mcount ch hb h, chanCheck_of_own_world _ he hw]
    exact ⟨_, rfl, finish_wrote s b rd _⟩
  · rw [exec_mwait ch hb h, chanCheck_of_disabled _ he]
  · rw [exec_mcount ch hb h', chanCheck_of_disabled _ he]
  · rw [exec_mwait ch hb h, chanCheck_of_other_world _ he hc hw]
  · rw [exec_mbxRecv hb h, hm, takeWord_append post ht hp]
    obtain ⟨u, hu, hw, hk⟩ := mbxRecv_complete (rd := rd) (pre ++ post) w.word hl
    exact ⟨_, u, rfl, hu, hw, hk⟩
  · rw [exec_mbxRecv hb h, takeWord_none hm]
    exact ⟨_, rfl, mbxRecv_waits _⟩

end

/-! # System instructions: the proofs -/

section
open Sys2Proof Sys2Proof.Machine

namespace Sys2Proof.Machine

/-! ## Encodings -/

/-- The word of a system instruction is ewait's for fn 1 alone. -/
theorem offMgmt_system {fn : BitVec 5} (imm : BitVec 9) (h : fn ≠ 1) : offMgmt (fmtSY imm fn 0 0 0x37) = false := by
  have h37 : (fmtSY imm fn 0 0 0x37).toNat % 256 = 0x37 := toNat_append_opcode _ _
  have hfn : (fmtSY imm fn 0 0 0x37).extractLsb' 18 5 = fn := by
    unfold fmtSY
    rw [BitVec.extractLsb'_append_eq_of_le (by decide), BitVec.extractLsb'_append_eq_of_le (by decide), BitVec.extractLsb'_append_eq_of_le (by decide),
      BitVec.extractLsb'_append_eq_of_add_le (by decide)]
    exact BitVec.extractLsb'_eq_self
  have hne : fmtSY imm fn 0 0 0x37 ≠ fmtSY 0 1 0 0 0x37 := fun k => h (by rw [← hfn, k]; decide)
  rw [offMgmt, isEngineWord, h37, decide_eq_false hne]
  rfl

theorem decodes_of_system (b : BlockId) {i : Instr} {imm : BitVec 9} {fn : BitVec 5} (hi : instrWord i = some (fmtSY imm fn 0 0 0x37)) (h : fn ≠ 1)
    (hr : reserved i = false) : decodes b i = true := by
  rw [decodes, hr, hi, Option.getD_some, offMgmt_system imm h, Bool.and_false]
  rfl

theorem decodes_fence (b : BlockId) {imm : BitVec 9} (h : 0 < imm.toNat ∧ imm.toNat < 8) : decodes b (.fence b imm) = true := by
  refine decodes_of_system b (fn := 2) rfl (by decide) (decide_eq_false ?_)
  omega

theorem decodes_hold (b : BlockId) {imm : BitVec 9} (h : imm.toNat ≤ 64) : decodes b (.hold b imm) = true :=
  decodes_of_system b (fn := 3) rfl (by decide) (decide_eq_false (Nat.not_lt.mpr h))

/-! ## ewait (R131, R178) -/

section
variable {s : State} {b : BlockId}

theorem exec_ewait (hb : b ≠ mgmtCore) (h : s.canIssue b = true) : exec (.ewait b) s = .next
    (if (s.blk b).enginesIdle && (s.blk b).core.longOps.isEmpty then
      (s.traceEwait b).modCore b fun c =>
        { c with ewaitCycle := BitVec.ofNat 20 (if s.epoch.active then s.epoch.cycle else 0), ewaitValid := true, loopActive := false, loopRemain := 0,
                 loopOld := none, fetching := false, ewaited := true, inProgram := false,
                 stopped := c.stopped || decide (s.epoch.outcome = .none), retired := c.retired + 1 }
     else s) := by
  refine congrArg Host.Outcome.next ((issue_decoded h (decodes_of_block hb rfl) _).trans ?_)
  rw [lineFetched_ne s hb]

/-! ## fence (R177) -/

theorem exec_fence {imm : BitVec 9} (h : s.canIssue b = true) (hi : 0 < imm.toNat ∧ imm.toNat < 8) : exec (.fence b imm) s = .next
    (if imm.getLsbD 2 && !decide ((s.blk b).priv.ctx = .m) then (s.lineFetched b).raiseSync b 3 (faultWord (.fence b imm))
     else if imm.getLsbD 0 && !(s.blk b).enginesIdle then s.lineFetched b
     else if imm.getLsbD 1 && !((s.blk b).core.remLoads.isEmpty && (s.blk b).core.recvs.isEmpty && (s.blk b).core.remStores.isEmpty) then s.lineFetched b
     else (s.lineFetched b).advance b) := by
  refine congrArg Host.Outcome.next ((issue_decoded h (decodes_fence b hi) _).trans ?_)
  rw [blk_lineFetched]

theorem exec_fence_done {imm : BitVec 9} (h : s.canIssue b = true) (hi : 0 < imm.toNat ∧ imm.toNat < 8)
    (hm : imm.getLsbD 2 = true → (s.blk b).priv.ctx = .m) : exec (.fence b imm) s = .next
    (if (imm.getLsbD 0 = true → (s.blk b).enginesIdle = true) ∧
        (imm.getLsbD 1 = true → (s.blk b).core.remLoads = [] ∧ (s.blk b).core.recvs = [] ∧ (s.blk b).core.remStores = [])
     then (s.lineFetched b).advance b else s.lineFetched b) := by
  have h2 : (imm.getLsbD 2 && !decide ((s.blk b).priv.ctx = .m)) = false := by
    cases hb : imm.getLsbD 2 with
    | false => rfl
    | true => simp [hm hb]
  rw [exec_fence h hi, h2, if_neg (by decide)]
  by_cases h0 : imm.getLsbD 0 = true → (s.blk b).enginesIdle = true
  · rw [if_neg (by simpa using h0)]
    by_cases h1 : imm.getLsbD 1 = true → (s.blk b).core.remLoads = [] ∧ (s.blk b).core.recvs = [] ∧ (s.blk b).core.remStores = []
    · rw [if_neg (by simpa [and_assoc] using h1), if_pos ⟨h0, h1⟩]
    · rw [if_pos (by simpa [not_and_or, or_assoc, imp_iff_not_or] using h1), if_neg fun k => h1 k.2]
  · rw [if_pos (by simpa using h0), if_neg fun k => h0 k.1]

/-! ## hold (R179, R362) -/

@[simp] theorem holdLeft_lineFetched (s : State) (b c : BlockId) : (s.lineFetched b).holdLeft c = s.holdLeft c := by simp [State.holdLeft]

theorem exec_hold {imm : BitVec 9} (h : s.canIssue b = true) (hi : imm.toNat ≤ 64) : exec (.hold b imm) s = .next
    (if (s.blk b).priv.ctx.isUser then (s.lineFetched b).raiseSync b 3 (faultWord (.hold b imm))
     else
      ((s.lineFetched b).modPriv b fun p =>
        { p with hold := if (if s.holdLeft b = 0 then imm.toNat else min imm.toNat (s.holdLeft b)) = 0 then none
                         else some (if s.holdLeft b = 0 then imm.toNat else min imm.toNat (s.holdLeft b), s.ticks b) }).advance b) := by
  refine congrArg Host.Outcome.next ((issue_decoded h (decodes_hold b hi) _).trans ?_)
  rw [blk_lineFetched, holdLeft_lineFetched, ticks_lineFetched]

/-- A window opened now has all its fcy left. -/
theorem holdLeft_opened (p : Priv) (m now : Nat) : ({ p with hold := if m = 0 then none else some (m, now) } : Priv).holdLeft now = m := by
  by_cases h : m = 0
  · simp [Priv.holdLeft, h]
  · simp [Priv.holdLeft, h]

theorem advance_priv (b : BlockId) (s : State) : ((s.advance b).blk b).priv = (s.blk b).priv := by rw [advance_blk]

theorem ticks_advance (b : BlockId) (s : State) (c : BlockId) : (s.advance b).ticks c = s.ticks c := (ctlOnly_advance b s).only.ticks c

/-- After a hold the core goes on with the window of `m` fcy. -/
theorem hold_opens (s : State) (b : BlockId) (m : Nat) :
    let t := ((s.lineFetched b).modPriv b fun p => { p with hold := if m = 0 then none else some (m, s.ticks b) }).advance b
    t.pcOf b = (s.next b).pc ∧ t.holdLeft b = m := by
  refine ⟨?_, ?_⟩
  · rw [advance_pcOf]
    simp [State.next, State.modPriv]
  · rw [State.holdLeft, ticks_advance, advance_priv, State.modPriv, blk_modBlk_same, ticks_modBlk, ticks_lineFetched]
    exact holdLeft_opened _ _ _

/-- The expiry of a window leaves none open. -/
theorem holdWindowExpiry_closes (s : State) (b : BlockId) :
    ∃ u, exec (.holdWindowExpiry b) s = .next u ∧ u.holdLeft b = 0 ∧ u.pcOf b = s.pcOf b := by
  refine ⟨_, rfl, ?_, ?_⟩
  · simp [State.holdLeft, State.modPriv, Priv.holdLeft]
  · simp [State.pcOf, State.modPriv]

/-! ## The resume of a stopped core (R346, R376) -/

theorem resume_of_stopped (s : State) (b : BlockId) (v : W64) (h : (s.blk b).core.stopped = true) :
    ∃ t, exec (.blkResumeGo b v) s = .next t ∧ (t.blk b).core.resumeAddr = v &&& 0xFFFFFFFFFFFC ∧ t.pcOf b = v &&& 0xFFFFFFFFFFFC ∧
      (t.blk b).core.fetching = true ∧ (t.blk b).core.stopped = false ∧
      (t.blk b).priv = { (s.blk b).priv with ctx := .m, mask := 7, tsbpM := { (s.blk b).priv.tsbpM with occ := false } } := by
  refine ⟨_, rfl, ?_⟩
  simp [State.resumeWrite, State.resumeGo, State.pcOf, h, State.modCore, State.modPriv]

theorem resume_of_running (s : State) (b : BlockId) (v : W64) (h : (s.blk b).core.stopped = false) : exec (.blkResumeGo b v) s = .next s := by
  exact congrArg Host.Outcome.next (if_pos (by rw [h]; simp))

end

end Sys2Proof.Machine

/-- Settles O23: what each system instruction does where it may issue. -/
theorem systemInstructions : Obligations.SystemInstructions := by
  refine ⟨fun s b imm h => ⟨fun hb hi => ?_, fun hb hi => ?_, fun hi hm => exec_fence_done h hi hm, fun hi h2 hm => ?_, fun hi hu => ?_, fun hi hu => ?_⟩,
    fun s b imm h => ⟨?_, ?_⟩, fun s b v => ?_⟩
  · obtain ⟨hidle, hlong⟩ := hi
    rw [exec_ewait hb h, hidle, hlong]
    exact ⟨_, rfl, by simp [State.modCore]⟩
  · rw [exec_ewait hb h, if_neg (by simpa using hi)]
  · rw [exec_fence h hi, if_pos (by simp [h2, hm])]
  · rw [exec_hold h hi, hu]
    obtain ⟨hpc, hleft⟩ := hold_opens s b (if s.holdLeft b = 0 then imm.toNat else min imm.toNat (s.holdLeft b))
    obtain ⟨u, hu, hz, -⟩ := holdWindowExpiry_closes (((s.lineFetched b).modPriv b fun p =>
        { p with hold := if (if s.holdLeft b = 0 then imm.toNat else min imm.toNat (s.holdLeft b)) = 0 then none
                         else some (if s.holdLeft b = 0 then imm.toNat else min imm.toNat (s.holdLeft b), s.ticks b) }).advance b) b
    exact ⟨_, rfl, hpc, hleft, u, hu, hz⟩
  · rw [exec_hold h hi, if_pos hu]
  · exact congrArg Host.Outcome.next (issue_eq h _)
  · exact congrArg Host.Outcome.next (issue_eq h _)
  · cases hs : (s.blk b).core.stopped with
    | true =>
      obtain ⟨t, ht, hres⟩ := resume_of_stopped s b v hs
      exact ⟨t, ht, fun _ => hres, nofun⟩
    | false => exact ⟨s, resume_of_running s b v hs, nofun, fun _ => rfl⟩

end

/-! # Taking a trap in M, and returning from it: the proofs -/

section
open Sys2Proof Sys2Proof.Machine

namespace Sys2Proof.Machine

/-! ## Words in memory (R7, R364) -/

theorem mstore_append (m : Memory) (a : Nat) (l k : List Byte) : mstore m a (l ++ k) = mstore (mstore m a l) (a + l.length) k := by
  induction l generalizing m a with
  | nil => rfl
  | cons v l ih => rw [List.cons_append, mstore, ih, mstore, List.length_cons, Nat.add_right_comm, Nat.add_assoc]

/-- Words stored one after another are there, each at its place. -/
theorem mloadN_words (m : Memory) (a : Nat) (ws : List W64) (k : Nat) {w : W64} (h : ws[k]? = some w) :
    mloadN (mstore m a (ws.flatMap fun w => leBytes 8 w.toNat)) (a + 8 * k) 8 = w.toNat := by
  induction ws generalizing m a k with
  | nil => exact absurd h (by simp)
  | cons v ws ih =>
    rw [List.flatMap_cons, mstore_append, leBytes_length]
    cases k with
    | zero =>
      obtain rfl : v = w := by simpa using h
      have hout := mload_mstore_apart (mstore m a (leBytes 8 v.toNat)) (a + 8) (ws.flatMap fun w => leBytes 8 w.toNat) a 8 (by omega)
      refine (congrArg leNat hout).trans ?_
      exact (mloadN_mstore m a 8 v.toNat).trans (Nat.mod_eq_of_lt v.isLt)
    | succ k =>
      rw [show a + 8 * (k + 1) = a + 8 + 8 * k by omega]
      exact ih _ _ k (by simpa using h)

/-! ## The registers that a trap passes its arguments in -/

/-- A core whose g1 to g4 take four values (R363, R367). -/
def Core.withArgs (c : Core) (v1 v2 v3 v4 : W64) : Core := (((c.setG 1 v1).setG 2 v2).setG 3 v3).setG 4 v4

section
variable (c : Core) (v1 v2 v3 v4 : W64)

theorem withArgs_getG_args : (c.withArgs v1 v2 v3 v4).getG 1 = v1 ∧ (c.withArgs v1 v2 v3 v4).getG 2 = v2 ∧
    (c.withArgs v1 v2 v3 v4).getG 3 = v3 ∧ (c.withArgs v1 v2 v3 v4).getG 4 = v4 := by
  refine ⟨?_, ?_, ?_, ?_⟩ <;> unfold Core.withArgs
  · rw [Core.getG_setG_ne _ _ (by decide), Core.getG_setG_ne _ _ (by decide), Core.getG_setG_ne _ _ (by decide), Core.getG_setG_same]; rfl
  · rw [Core.getG_setG_ne _ _ (by decide), Core.getG_setG_ne _ _ (by decide), Core.getG_setG_same]; rfl
  · rw [Core.getG_setG_ne _ _ (by decide), Core.getG_setG_same]; rfl
  · rw [Core.getG_setG_same]; rfl

theorem withArgs_getG_other {r : Reg} (h1 : r ≠ 1) (h2 : r ≠ 2) (h3 : r ≠ 3) (h4 : r ≠ 4) : (c.withArgs v1 v2 v3 v4).getG r = c.getG r := by
  rw [Core.withArgs, Core.getG_setG_ne _ _ h4, Core.getG_setG_ne _ _ h3, Core.getG_setG_ne _ _ h2, Core.getG_setG_ne _ _ h1]

@[simp] theorem withArgs_getF (r : Reg) : (c.withArgs v1 v2 v3 v4).getF r = c.getF r := by
  rw [Core.withArgs, Core.getF_setG, Core.getF_setG, Core.getF_setG, Core.getF_setG]

/-- Nothing but the g registers differs. -/
theorem withArgs_ctl : c.withArgs v1 v2 v3 v4 = { c with g := (c.withArgs v1 v2 v3 v4).g } := by
  unfold Core.withArgs
  rw [Core.setG_ctl _ 4, Core.setG_ctl _ 3, Core.setG_ctl _ 2, Core.setG_ctl _ 1]

end

/-! ## Reading BLK_STATUS (R337) -/

theorem crRead_status (s : State) (b : BlockId) : s.crRead b 0x400 .m = s.statusWord b := by
  simp [State.crRead, crHidden, mgmtHas, State.privRead]

/-- The word of M's status with no window open. -/
def statusOfM (mask : BitVec 3) (loop : Bool) : W64 := BitVec.ofNat 64 (mask.toNat + 2 ^ 7 * boolBit loop)

theorem statusWord_of_m {s : State} {b : BlockId} (hc : (s.blk b).priv.ctx = .m) (hh : s.holdOpen b = false) :
    s.statusWord b = statusOfM (s.blk b).priv.mask (s.blk b).core.loopActive := by
  have h0 : s.holdLeft b = 0 := by simpa [State.holdOpen] using hh
  simp [State.statusWord, h0, hc, Ctx.code, statusOfM, boolBit]

theorem statusOfM_fields (mask : BitVec 3) (loop : Bool) : (statusOfM mask loop).extractLsb' 0 3 = mask ∧ (statusOfM mask loop).extractLsb' 4 3 = 0 ∧
    (statusOfM mask loop).getLsbD 7 = loop := by
  revert mask loop
  decide

/-! ## The wait for the queue that ends first -/

section
variable (s : State) (b : BlockId)

theorem settleQueue_ctl (c : Core) (n : Nat) :
    c.settleQueue n = { c with stallQueue := (c.settleQueue n).stallQueue, queueFrom := (c.settleQueue n).queueFrom } := by
  unfold Core.settleQueue
  split <;> rfl

/-- The end of a wait counts it and changes nothing else. -/
theorem queueWaitEnds_blk :
    (s.queueWaitEnds b).blk b = { s.blk b with core := { (s.blk b).core with
      stallQueue := ((s.queueWaitEnds b).blk b).core.stallQueue, queueFrom := ((s.queueWaitEnds b).blk b).core.queueFrom } } := by
  unfold State.queueWaitEnds
  split
  · simp only [blk_modBlk_same]
    rw [← settleQueue_ctl]
  · rfl

theorem onlyBlock_queueWaitEnds : OnlyBlock b s (s.queueWaitEnds b) := onlyBlock_ite s (onlyBlock_modBlk b s _) (onlyBlock_refl b s)

end

/-! ## Entry into M -/

section
variable (s : State) (b : BlockId) (t : Trap)

theorem ctlOnly_traceTrap (cause : BitVec 6) (async esc : Bool) (src dst : Ctx) (saved handler : W64) :
    CtlOnly b s (s.traceTrap b cause async esc src dst saved handler) := (trcOnly_traceTrap b s cause async esc src dst saved handler).ctl

/-- The core after the entry of a trap into M (R363). -/
def Core.enteredM (c : Core) (t : Trap) (tsb : Nat) : Core :=
  { c.withArgs (t.word t.cause) t.value (BitVec.ofNat 64 tsb) t.saved with
    pc := BitVec.ofNat 64 (0x100 + 16 * t.cause), loopActive := false, loopOld := none, fault := none }

/-- The block after it: the notes of written words and the trace unit aside. -/
theorem enterTrap_m_blk : ∃ i r, (s.enterTrap b t .m).blk b = { s.blk b with
    core := (s.blk b).core.enteredM t (baseAddr (s.blk b).priv.tsbpM.base)
    priv := { (s.blk b).priv with tsbpM := { (s.blk b).priv.tsbpM with occ := true }, ctx := .m, mask := 7, hold := none }
    ls := mstore (s.blk b).ls (baseAddr (s.blk b).priv.tsbpM.base) (s.tsbLine b t)
    integ := i
    trc := r } := by
  simp only [State.enterTrap, if_true, State.modPriv, State.modCore, blk_modBlk_same]
  generalize hu : State.lsStore s b (baseAddr ((s.blk b).priv.tsbp .m).base) (s.tsbLine b t) = u
  have hub : u.blk b = { s.blk b with ls := (u.blk b).ls, integ := (u.blk b).integ } := by rw [← hu]; simp [State.lsStore]
  have huls : (u.blk b).ls = mstore (s.blk b).ls (baseAddr (s.blk b).priv.tsbpM.base) (s.tsbLine b t) := by rw [← hu]; simp [State.lsStore]; rfl
  generalize hw : u.traceTrap b (BitVec.ofNat 6 t.cause) t.async (decide (t.reason ≠ 0)) t.src .m t.saved (BitVec.ofNat 64 (0x100 + 16 * t.cause)) = w
  have hv : w.blk b = { u.blk b with trc := (w.blk b).trc } := by rw [← hw]; exact (trcOnly_traceTrap b u _ _ _ _ _ _ _).blk
  refine ⟨(u.blk b).integ, (w.blk b).trc, ?_⟩
  rw [hv, hub, huls]
  rfl

theorem onlyBlock_enterTrap (dst : Ctx) : OnlyBlock b s (s.enterTrap b t dst) :=
  onlyBlock_trans (onlyBlock_modBlk b s _) <| onlyBlock_trans (trcOnly_traceTrap b _ _ _ _ _ _ _ _).only <|
    onlyBlock_trans (onlyBlock_modCore _ _) (onlyBlock_modPriv _ _)

end

/-! ## A trap that M takes outside an epoch program (R354 to R364) -/

/-- The synchronous fault `f` of block `b` stands at a boundary at which M takes it, with its TSB free and in the data memory of the core. -/
structure TakenByM (s : State) (b : BlockId) (f : SyncFault) : Prop where
  fetching : (s.blk b).core.fetching = true
  run : (s.blk b).clk.mode = .run
  clocked : s.clocked b = true
  ticks : s.branchTicks b 5 = true
  mayRun : s.mayRun b = true
  longOps : (s.blk b).core.longOps = []
  remLoads : (s.blk b).core.remLoads = []
  recvs : (s.blk b).core.recvs = []
  quiet : s.asyncReady b = false
  outside : (s.blk b).core.inProgram = false
  ctx : (s.blk b).priv.ctx = .m
  fault : (s.blk b).core.fault = some f
  whole : f.elem = none
  closed : s.holdOpen b = false
  level : (s.blk b).priv.mask.toNat < causeLevel f.cause.toNat
  free : (s.blk b).priv.tsbpM.occ = false
  data : inData b (baseAddr (s.blk b).priv.tsbpM.base) 512 = true

/-- M may use every byte. -/
theorem lsBytes_m (p : Priv) (a n : Nat) : p.lsBytes .m a n = true := by
  rw [Priv.lsBytes, List.all_eq_true]
  intro g _
  rfl

/-- Outside an epoch program a trap of M with no obstacle goes to M. -/
theorem route_m {s : State} {b : BlockId} {t : Trap} (hc : t.src = .m) (hr : t.reason = 0) (ha : t.async = false) (hh : s.holdOpen b = false)
    (hl : (s.blk b).priv.mask.toNat < causeLevel t.cause) (hp : (s.blk b).core.inProgram = false) : s.route b t = (t, .m) := by
  have hf : (s.blk b).priv.firstTarget t.src t.cause = .m := by rw [hc]; rfl
  simp only [State.route, hf, hr, ha, hh, hp, Nat.not_le.mpr hl, if_true, if_false, ne_eq, not_true_eq_false, Bool.false_eq_true, ite_self,
    Bool.false_and]
  rw [← hr, ← ha]

theorem holdOpen_congr {s t : State} {b : BlockId} (h : OnlyBlock b s t) (hp : (t.blk b).priv.hold = (s.blk b).priv.hold) :
    t.holdOpen b = s.holdOpen b := by
  rw [State.holdOpen, State.holdOpen, State.holdLeft, State.holdLeft, h.ticks b, Priv.holdLeft, Priv.holdLeft, hp]

theorem OnlyBlock.clocked {b : BlockId} {s t : State} (h : OnlyBlock b s t) (c : BlockId) : t.clocked c = s.clocked c := by
  obtain ⟨hrest, -⟩ := h
  have k := congrArg (fun u : State => u.clocked c) hrest
  exact k

theorem OnlyBlock.present {b : BlockId} {s t : State} (h : OnlyBlock b s t) (c : BlockId) : t.present c = s.present c := by
  obtain ⟨hrest, -⟩ := h
  have k := congrArg (fun u : State => u.present c) hrest
  exact k

namespace TakenByM
variable {s : State} {b : BlockId} {f : SyncFault} (h : TakenByM s b f)
include h

theorem pendV : (s.blk b).priv.pendV = false := by
  have hq := h.quiet
  simp only [State.asyncReady, Bool.or_eq_false_iff] at hq
  exact hq.1.1

theorem pendM : (s.blk b).priv.pendM = false := by
  have hq := h.quiet
  simp only [State.asyncReady, Bool.or_eq_false_iff] at hq
  exact hq.1.2

/-- The entry of the trap. -/
theorem trapEntry_eq (why : TrapTrigger) (table : Ecc) :
    trapEntry b why table s = (s.queueWaitEnds b).enterTrap b (syncTrap (s.blk b) f) .m := by
  have hq := queueWaitEnds_blk s b
  have ho := onlyBlock_queueWaitEnds s b
  have hopen : (s.queueWaitEnds b).holdOpen b = false := (holdOpen_congr ho (by rw [hq])).trans h.closed
  have hlate : (s.queueWaitEnds b).asyncReady b = false := by
    rw [← h.quiet, State.asyncReady, State.asyncReady, hopen, h.closed, hq]
  have hvalid : (s.blk b).priv.tsbValid b .m = true := by
    rw [Priv.tsbValid, lsBytes_m, Bool.and_true]
    exact h.data
  have hroute : (s.queueWaitEnds b).route b (syncTrap (s.blk b) f) = (syncTrap (s.blk b) f, .m) :=
    route_m h.ctx rfl rfl hopen (by rw [hq]; exact h.level) (by rw [hq]; exact h.outside)
  have htake : (s.queueWaitEnds b).takeTrap b (syncTrap (s.blk b) f) table = (s.queueWaitEnds b).enterTrap b (syncTrap (s.blk b) f) .m := by
    simp only [State.takeTrap, show (syncTrap (s.blk b) f).elem = none from h.whole, hroute, if_true, State.trapM, State.trapToM]
    rw [hq]
    simp [h.outside, h.free, hvalid, show (syncTrap (s.blk b) f).reason = 0 from rfl]
  rw [← htake]
  simp [trapEntry, h.fetching, h.run, h.clocked, h.ticks, h.mayRun, h.longOps, h.remLoads, h.recvs, h.pendV, h.pendM, hlate, boundaryFault, h.fault]

/-- The entry leaves the block with M's entered core, and its TSB written. -/
theorem trapEntry_blk (why : TrapTrigger) (table : Ecc) : ∃ n q i r, (trapEntry b why table s).blk b = { s.blk b with
    core := { (s.blk b).core with stallQueue := n, queueFrom := q }.enteredM (syncTrap (s.blk b) f) (baseAddr (s.blk b).priv.tsbpM.base)
    priv := { (s.blk b).priv with tsbpM := { (s.blk b).priv.tsbpM with occ := true }, ctx := .m, mask := 7, hold := none }
    ls := mstore (s.blk b).ls (baseAddr (s.blk b).priv.tsbpM.base) (s.tsbLine b (syncTrap (s.blk b) f))
    integ := i
    trc := r } := by
  obtain ⟨i, r, hb⟩ := enterTrap_m_blk (s.queueWaitEnds b) b (syncTrap (s.blk b) f)
  have hq := queueWaitEnds_blk s b
  have hleft : (s.queueWaitEnds b).holdLeft b = s.holdLeft b := by
    rw [State.holdLeft, State.holdLeft, (onlyBlock_queueWaitEnds s b).ticks, hq]
  have hline : (s.queueWaitEnds b).tsbLine b (syncTrap (s.blk b) f) = s.tsbLine b (syncTrap (s.blk b) f) := by
    rw [State.tsbLine, State.statusWord, State.getG, State.getG, State.getG, State.getG, hleft, hq]
    rfl
  refine ⟨((s.queueWaitEnds b).blk b).core.stallQueue, ((s.queueWaitEnds b).blk b).core.queueFrom, i, r, ?_⟩
  rw [h.trapEntry_eq, hb, hline, hq]

theorem onlyBlock_trapEntry (why : TrapTrigger) (table : Ecc) : OnlyBlock b s (trapEntry b why table s) := by
  rw [h.trapEntry_eq]
  exact onlyBlock_trans (onlyBlock_queueWaitEnds s b) (onlyBlock_enterTrap _ b _ _)

/-- The cause word of a trap of M that no condition escalates is the cause. -/
theorem word_eq : (syncTrap (s.blk b) f).word f.cause.toNat = f.cause.zeroExtend 64 := by
  apply BitVec.eq_of_toNat_eq
  simp [Trap.word, h.ctx, syncTrap, boolBit, Ctx.code]

/-- The eight words of the TSB. -/
theorem tsbLine_eq : s.tsbLine b (syncTrap (s.blk b) f) = [f.savedPc, s.statusWord b, f.cause.zeroExtend 64, f.value, s.getG b 1, s.getG b 2,
    s.getG b 3, s.getG b 4].flatMap fun w => leBytes 8 w.toNat := by
  rw [State.tsbLine, show (syncTrap (s.blk b) f).cause = f.cause.toNat from rfl, h.word_eq]
  simp only [List.flatMap_cons, List.flatMap_nil, List.append_nil, List.append_assoc]
  rfl

/-- What the TSB holds after the entry. -/
theorem tsb_word (why : TrapTrigger) (table : Ecc) (k : Nat) {w : W64}
    (hw : [f.savedPc, s.statusWord b, f.cause.zeroExtend 64, f.value, s.getG b 1, s.getG b 2, s.getG b 3, s.getG b 4][k]? = some w) :
    mloadN ((trapEntry b why table s).blk b).ls (baseAddr (s.blk b).priv.tsbpM.base + 8 * k) 8 = w.toNat := by
  obtain ⟨n, q, i, r, hb⟩ := h.trapEntry_blk why table
  rw [hb, h.tsbLine_eq]
  exact mloadN_words _ _ _ k hw

theorem ls_outside_tsb (why : TrapTrigger) (table : Ecc) {k : Nat}
    (hk : k < baseAddr (s.blk b).priv.tsbpM.base ∨ baseAddr (s.blk b).priv.tsbpM.base + 64 ≤ k) :
    mget ((trapEntry b why table s).blk b).ls k = mget (s.blk b).ls k := by
  obtain ⟨n, q, i, r, hb⟩ := h.trapEntry_blk why table
  rw [hb, h.tsbLine_eq]
  exact mget_mstore_out _ _ _ (by simpa using hk)

/-- What the entry leaves of the registers of the core. -/
theorem entered_regs (why : TrapTrigger) (table : Ecc) :
    let t := trapEntry b why table s
    t.getG b 1 = f.cause.zeroExtend 64 ∧ t.getG b 2 = f.value ∧ t.getG b 3 = BitVec.ofNat 64 (baseAddr (s.blk b).priv.tsbpM.base) ∧
      t.getG b 4 = f.savedPc ∧ (∀ r, r ≠ 1 → r ≠ 2 → r ≠ 3 → r ≠ 4 → t.getG b r = s.getG b r) ∧ ∀ r, t.getF b r = s.getF b r := by
  intro t
  obtain ⟨n, q, i, r, hb⟩ := h.trapEntry_blk why table
  have hf : ∀ r, t.getF b r = ({ (s.blk b).core with stallQueue := n, queueFrom := q }.withArgs ((syncTrap (s.blk b) f).word f.cause.toNat) f.value
      (BitVec.ofNat 64 (baseAddr (s.blk b).priv.tsbpM.base)) f.savedPc).getF r := fun r => by rw [State.getF, show t.blk b = _ from hb]; rfl
  have hg : ∀ r, t.getG b r = ({ (s.blk b).core with stallQueue := n, queueFrom := q }.withArgs ((syncTrap (s.blk b) f).word f.cause.toNat) f.value
      (BitVec.ofNat 64 (baseAddr (s.blk b).priv.tsbpM.base)) f.savedPc).getG r := fun r => by rw [State.getG, show t.blk b = _ from hb]; rfl
  obtain ⟨h1, h2, h3, h4⟩ := withArgs_getG_args { (s.blk b).core with stallQueue := n, queueFrom := q } ((syncTrap (s.blk b) f).word f.cause.toNat)
    f.value (BitVec.ofNat 64 (baseAddr (s.blk b).priv.tsbpM.base)) f.savedPc
  refine ⟨(hg 1).trans (h1.trans h.word_eq), (hg 2).trans h2, (hg 3).trans h3, (hg 4).trans h4, fun r n1 n2 n3 n4 => ?_, fun r => ?_⟩
  · rw [hg, withArgs_getG_other _ _ _ _ _ n1 n2 n3 n4]
    rfl
  · rw [hf, withArgs_getF]
    rfl

/-- What it leaves of the rest of the core and of the privilege registers. -/
theorem entered_state (why : TrapTrigger) (table : Ecc) :
    let t := trapEntry b why table s
    t.pcOf b = BitVec.ofNat 64 (0x100 + 16 * f.cause.toNat) ∧ (t.blk b).priv.ctx = .m ∧ (t.blk b).priv.mask = 7 ∧ (t.blk b).priv.tsbpM.occ = true ∧
      (t.blk b).core.loopActive = false ∧ (t.blk b).core.fault = none ∧ t.holdLeft b = 0 := by
  obtain ⟨n, q, i, r, hb⟩ := h.trapEntry_blk why table
  intro t
  have ht : t.blk b = _ := hb
  rw [State.pcOf, State.holdLeft, ht]
  exact ⟨rfl, rfl, rfl, rfl, rfl, rfl, rfl⟩

end TakenByM

/-! ## The first target of a trap and its escalation (R356, R357) -/

section
variable {s : State} {b : BlockId} {f : SyncFault}

/-- Outside an epoch program a synchronous cause other than the data-loss faults is routed by the first condition that holds. -/
theorem route_sync (hp : (s.blk b).core.inProgram = false) (h18 : f.cause.toNat ≠ 18) (h19 : f.cause.toNat ≠ 19) {first : Ctx}
    (hf : (s.blk b).priv.firstTarget (s.blk b).priv.ctx f.cause.toNat = first) {r : Nat}
    (hr : (if s.holdOpen b then 2 else if causeLevel f.cause.toNat ≤ (s.blk b).priv.mask.toNat then 1
      else if first = .m then 0 else (s.blk b).supReason b first f.cause.toNat) = r) :
    s.route b (syncTrap (s.blk b) f) = ({ syncTrap (s.blk b) f with reason := r }, if r ≠ 0 then .m else first) := by
  subst hr
  simp [State.route, syncTrap, hp, h18, h19, hf]

/-- The delegation of a world (R342). -/
def Priv.deleg (p : Priv) : World → W64
  | .a => p.delegA
  | .b => p.delegB

theorem firstTarget_world {p : Priv} {c : Ctx} {w : World} (hw : c.world = some w) (n : Nat) :
    p.firstTarget c n = if (p.deleg w &&& 0x11FFFE).getLsbD n = true ∧ (n = 11 → c.isUser = true) then w.sup else .m := by
  have he : p.firstTarget c n = if !delegable.getLsbD n || (decide (n = 11) && !c.isUser) then .m
      else if (p.deleg w).getLsbD n then w.sup else .m := by
    rw [Priv.firstTarget, hw]
    cases w <;> rfl
  rw [he, show (0x11FFFE : W64) = delegable from rfl, BitVec.getLsbD_and]
  cases hd : delegable.getLsbD n with
  | false => simp
  | true =>
    by_cases hu : n = 11 → c.isUser = true
    · have hn : (decide (n = 11) && !c.isUser) = false := by
        by_cases h11 : n = 11
        · simp [hu h11]
        · simp [h11]
      simp [hn, and_iff_left hu]
    · rw [Classical.not_imp, Bool.not_eq_true] at hu
      simp [hu]

/-- The conditions of a supervisor's TSB and table, in their order. -/
theorem supReason_eq (x : Block) (b : BlockId) (sup : Ctx) (n : Nat) : x.supReason b sup n =
    if (x.priv.tsbp sup).occ then 3
    else if x.priv.tsbValid b sup = false then 4
    else if ¬(inData b (x.priv.entryAddr sup n) 8 = true ∧ x.priv.lsBytes sup (x.priv.entryAddr sup n) 8 = true) ∨ x.handler sup n = 0 then 5
    else 0 := by
  simp only [Block.supReason, not_and_or, Bool.not_eq_true, Bool.not_eq_true', Bool.or_eq_true, Bool.and_eq_false_iff, decide_eq_true_eq]

/-- The supervisor of a world is not M. -/
theorem sup_ne_m (w : World) : w.sup ≠ .m := by cases w <;> decide

theorem sup_not_user (w : World) : w.sup.isUser = false := by cases w <;> rfl

end

/-! ## Return (R367, R368) -/

section
variable {s : State} {b : BlockId}

theorem exec_tret {d : Ctx} (h : s.canIssue b = true) (hf : (s.blk b).free [1, 2, 3, 4] [] = true) (hu : (s.blk b).priv.ctx.isUser = false)
    (hv : (s.blk b).priv.tsbValid b (s.blk b).priv.ctx = true) (ht : s.branchTicks b 5 = true)
    (hd : Ctx.ofCode (((s.blk b).lsWord (baseAddr ((s.blk b).priv.tsbp (s.blk b).priv.ctx).base + 8) 8).extractLsb' 4 3) = some d)
    (hm : mayRestore b (s.blk b).priv.ctx d = true) : exec (.tret b .ok) s = .next ((s.lineFetched b).restore b d) := by
  have hi : s.mayIssue b [1, 2, 3, 4] [] = true := by rw [State.mayIssue, h, hf]; rfl
  have ht' : (s.lineFetched b).branchTicks b 5 = true := by
    have k := congrArg (fun u : State => u.branchTicks b 5) (fetchOnly_lineFetched s b).1
    exact Eq.trans k ht
  refine congrArg Host.Outcome.next ((issue_whenFree hi _).trans ?_)
  rw [blk_lineFetched]
  simp [hu, hv, ht', hd, hm]

/-- The core after a return to `pc` with a status word and four registers (R367). -/
def Core.returned (c : Core) (pc st v1 v2 v3 v4 : W64) : Core :=
  { c.withArgs v1 v2 v3 v4 with
    pc := pc, loopActive := st.getLsbD 7, loopOld := none, retired := c.retired + 1, fetching := c.fetching && !c.parked }

theorem returned_getG (c : Core) (pc st v1 v2 v3 v4 : W64) (r : Reg) : (c.returned pc st v1 v2 v3 v4).getG r = (c.withArgs v1 v2 v3 v4).getG r := rfl

theorem returned_getF (c : Core) (pc st v1 v2 v3 v4 : W64) (r : Reg) : (c.returned pc st v1 v2 v3 v4).getF r = c.getF r := withArgs_getF c v1 v2 v3 v4 r

theorem returned_fault (c : Core) (pc st v1 v2 v3 v4 : W64) : (c.returned pc st v1 v2 v3 v4).fault = c.fault := by
  rw [Core.returned, withArgs_ctl]

/-- The block after a return, its trace unit aside. -/
theorem restore_blk (s : State) (b : BlockId) (d : Ctx) :
    let x := s.blk b
    let c := x.priv.ctx
    let a := baseAddr (x.priv.tsbp c).base
    let st := x.lsWord (a + 8) 8
    ∃ r, (s.restore b d).blk b = { x with
      core := x.core.returned (x.lsWord a 8 &&& ~~~3#64) st (x.lsWord (a + 0x20) 8) (x.lsWord (a + 0x28) 8) (x.lsWord (a + 0x30) 8)
        (x.lsWord (a + 0x38) 8)
      priv := { x.priv.setTsbp c { x.priv.tsbp c with occ := false } with ctx := d, mask := st.extractLsb' 0 3, hold := none }
      trc := r } := by
  intro x c a st
  have hv := (trcOnly_traceTret b s c d (x.lsWord a 8 &&& ~~~3#64)).blk
  refine ⟨((s.traceTret b c d (x.lsWord a 8 &&& ~~~3#64)).blk b).trc, ?_⟩
  simp only [State.restore, State.modCore, State.modPriv, blk_modBlk_same]
  rw [hv]
  rfl

end

/-! ## A return from a trap that M took (R363 to R368) -/

namespace TakenByM
variable {s : State} {b : BlockId} {f : SyncFault} (h : TakenByM s b f)
include h

/-- M's handler lies in the mask ROM, or in the boot ROM of the management core, where M may fetch and no line is missing. -/
theorem entered_fetches (why : TrapTrigger) (table : Ecc) (hc : f.cause.toNat < 0x3F) :
    (trapEntry b why table s).mayFetch b = true ∧ (trapEntry b why table s).lineReady b = true := by
  obtain ⟨n, q, i, r, hb⟩ := h.trapEntry_blk why table
  have hpc : ((trapEntry b why table s).blk b).core.pc.toNat = 0x100 + 16 * f.cause.toNat := by
    rw [hb]
    exact (BitVec.toNat_ofNat _ _).trans (Nat.mod_eq_of_lt (by show 0x100 + 16 * f.cause.toNat < _; omega))
  have hctx : ((trapEntry b why table s).blk b).priv.ctx = .m := by rw [hb]
  refine ⟨?_, ?_⟩
  · unfold State.mayFetch
    dsimp only
    rw [hpc, hctx]
    split
    · simp [inBootRom]; omega
    · rw [Priv.fetchOk, hpc]
      simp [Ctx.world, inRom]; omega
  · have hflash : (trapEntry b why table s).fromFlash b = false := by simp [State.fromFlash, hpc, inFlash]; omega
    rw [State.lineReady, hflash]
    rfl

theorem entered_canIssue (why : TrapTrigger) (table : Ecc) (hl : (s.blk b).priv.latePending = false) (hc : f.cause.toNat < 0x3F) :
    (trapEntry b why table s).canIssue b = true := by
  obtain ⟨hfetch, hline⟩ := h.entered_fetches why table hc
  have ho := h.onlyBlock_trapEntry why table
  obtain ⟨n, q, i, r, hb⟩ := h.trapEntry_blk why table
  generalize trapEntry b why table s = t at *
  have hclock : t.clocked b = true := (ho.clocked b).trans h.clocked
  have hpres : t.present b = s.present b := ho.present b
  have hrun : t.mayRun b = true := by
    have hm := h.mayRun
    rw [State.mayRun, h.ctx, Bool.and_eq_true] at hm
    rw [State.mayRun, hpres, hm.1, hb]
    exact Bool.or_true _
  have hlive : t.live b = true := by
    have hfe := h.fetching
    have hmo := h.run
    have hpriv : (t.blk b).priv.pendV = false ∧ (t.blk b).priv.pendM = false ∧ (t.blk b).priv.latePending = false := by
      rw [hb]
      exact ⟨h.pendV, h.pendM, hl⟩
    have hq : t.asyncReady b = false := by simp [State.asyncReady, hpriv]
    have hout : (t.blk b).core.inProgram = false := by
      rw [hb, Core.enteredM, withArgs_ctl]
      exact h.outside
    have hp : t.pastStart b = true := by simp [State.pastStart, hout]
    have hcore : (t.blk b).core.fetching = true ∧ (t.blk b).clk.mode = .run ∧ (t.blk b).core.fault.isNone = true := by
      rw [hb]
      refine ⟨?_, hmo, rfl⟩
      rw [Core.enteredM, withArgs_ctl]
      exact hfe
    rw [State.live, hcore.1, hcore.2.1, hclock, hcore.2.2, hq, hrun, hp]
    rfl
  rw [State.canIssue, hlive, hfetch, hline]
  rfl

/-- No outstanding operation writes a register that the return restores. -/
theorem entered_free (why : TrapTrigger) (table : Ecc) (hi : (s.blk b).inFlight = []) : ((trapEntry b why table s).blk b).free [1, 2, 3, 4] [] = true := by
  obtain ⟨n, q, i, r, hb⟩ := h.trapEntry_blk why table
  have hflight : ((trapEntry b why table s).blk b).inFlight = [] := by rw [hb]; exact hi
  have hcore : ((trapEntry b why table s).blk b).core.longOps = [] ∧ ((trapEntry b why table s).blk b).core.remLoads = [] ∧
      ((trapEntry b why table s).blk b).core.recvs = [] := by
    rw [hb]
    refine ⟨?_, ?_, ?_⟩ <;> rw [Core.enteredM, withArgs_ctl]
    · exact h.longOps
    · exact h.remLoads
    · exact h.recvs
  obtain ⟨hl, hr, hv⟩ := hcore
  simp [Block.free, Block.awaits, hflight, hl, hr, hv]

/-- The return from the entry. -/
theorem tret_eq (why : TrapTrigger) (table : Ecc) (hl : (s.blk b).priv.latePending = false) (hc : f.cause.toNat < 0x3F)
    (hi : (s.blk b).inFlight = []) : exec (.tret b .ok) (trapEntry b why table s) =
      .next (((trapEntry b why table s).lineFetched b).restore b .m) := by
  have hissue := h.entered_canIssue why table hl hc
  have hfree := h.entered_free why table hi
  have hst := h.tsb_word why table 1 (w := s.statusWord b) rfl
  obtain ⟨n, q, i, r, hb⟩ := h.trapEntry_blk why table
  obtain ⟨-, hctx, -⟩ := h.entered_state why table
  have hbase : ((trapEntry b why table s).blk b).priv.tsbpM.base = (s.blk b).priv.tsbpM.base := by rw [hb]
  have hclk : ((trapEntry b why table s).blk b).clk = (s.blk b).clk := by rw [hb]
  have hticks : (trapEntry b why table s).branchTicks b 5 = true := by
    have ht := h.ticks
    rw [State.branchTicks] at ht
    rw [State.branchTicks, hclk, (h.onlyBlock_trapEntry why table).clocked b, ht]
  have hword : ((trapEntry b why table s).blk b).lsWord (baseAddr (s.blk b).priv.tsbpM.base + 8) 8 = statusOfM (s.blk b).priv.mask (s.blk b).core.loopActive := by
    rw [← statusWord_of_m h.ctx h.closed, Block.lsWord, hst, BitVec.ofNat_toNat, BitVec.setWidth_eq]
  refine exec_tret hissue hfree (by rw [hctx]; rfl) ?_ hticks ?_ ?_
  · rw [hctx, Priv.tsbValid, lsBytes_m, Bool.and_true, Priv.tsbp, hbase]
    exact h.data
  · rw [hctx, Priv.tsbp, hbase, hword]
    obtain ⟨-, hcode, -⟩ := statusOfM_fields (s.blk b).priv.mask (s.blk b).core.loopActive
    rw [hcode]
    rfl
  · rw [hctx]
    simp [mayRestore, Ctx.world]

/-- The words of the TSB as the return reads them. -/
theorem tsb_lsWord (why : TrapTrigger) (table : Ecc) (k : Nat) {w : W64}
    (hw : [f.savedPc, s.statusWord b, f.cause.zeroExtend 64, f.value, s.getG b 1, s.getG b 2, s.getG b 3, s.getG b 4][k]? = some w) :
    ((trapEntry b why table s).blk b).lsWord (baseAddr (s.blk b).priv.tsbpM.base + 8 * k) 8 = w := by
  rw [Block.lsWord, h.tsb_word why table k hw, BitVec.ofNat_toNat, BitVec.setWidth_eq]

end TakenByM

/-! ## What the return leaves -/

namespace TakenByM
variable {s : State} {b : BlockId} {f : SyncFault} (h : TakenByM s b f)
include h

/-- The return undoes the entry: the block is as before but for its counts, its TSB, its trace unit, and the bits [1:0] of its pc. -/
theorem returned (why : TrapTrigger) (table : Ecc) :
    let t := trapEntry b why table s
    let u := (t.lineFetched b).restore b .m
    u.pcOf b = f.savedPc &&& ~~~3#64 ∧ (u.blk b).priv = { (s.blk b).priv with hold := none } ∧
      (∀ r, u.getG b r = s.getG b r ∧ u.getF b r = s.getF b r) ∧ (u.blk b).core.loopActive = (s.blk b).core.loopActive ∧
      (u.blk b).core.fault = none ∧ (u.blk b).ls = (t.blk b).ls := by
  intro t u
  let tsb := baseAddr (s.blk b).priv.tsbpM.base
  have hpc : (t.blk b).lsWord tsb 8 = f.savedPc := by
    have h0 := h.tsb_lsWord why table 0 (w := f.savedPc) rfl
    rwa [Nat.mul_zero, Nat.add_zero] at h0
  have hst : (t.blk b).lsWord (tsb + 8) 8 = s.statusWord b := h.tsb_lsWord why table 1 rfl
  have hg1 : (t.blk b).lsWord (tsb + 0x20) 8 = s.getG b 1 := h.tsb_lsWord why table 4 rfl
  have hg2 : (t.blk b).lsWord (tsb + 0x28) 8 = s.getG b 2 := h.tsb_lsWord why table 5 rfl
  have hg3 : (t.blk b).lsWord (tsb + 0x30) 8 = s.getG b 3 := h.tsb_lsWord why table 6 rfl
  have hg4 : (t.blk b).lsWord (tsb + 0x38) 8 = s.getG b 4 := h.tsb_lsWord why table 7 rfl
  obtain ⟨-, hctx, -, -, -, hfault, -⟩ := h.entered_state why table
  obtain ⟨-, -, -, -, hother, hf⟩ := h.entered_regs why table
  obtain ⟨n, q, i, r, hb⟩ := h.trapEntry_blk why table
  have hbase : (t.blk b).priv.tsbpM.base = (s.blk b).priv.tsbpM.base := congrArg (fun x => x.priv.tsbpM.base) hb
  obtain ⟨hmask, -, hloop⟩ := statusOfM_fields (s.blk b).priv.mask (s.blk b).core.loopActive
  obtain ⟨tr, hu⟩ := restore_blk (t.lineFetched b) b .m
  have hctx' : (t.blk b).priv.ctx = .m := hctx
  simp only [blk_lineFetched, hctx', Priv.tsbp, hbase] at hu
  rw [hpc, hst, hg1, hg2, hg3, hg4, statusWord_of_m h.ctx h.closed, hmask] at hu
  have hub : u.blk b = _ := hu
  refine ⟨by rw [State.pcOf, hub]; rfl, ?_, fun r => ⟨?_, ?_⟩, by rw [hub]; exact hloop, ?_, by rw [hub]⟩
  · rw [hub, show t.blk b = _ from hb]
    simp only [Priv.setTsbp]
    rw [← h.free, ← h.ctx]
  · obtain ⟨e1, e2, e3, e4⟩ := withArgs_getG_args (t.blk b).core (s.getG b 1) (s.getG b 2) (s.getG b 3) (s.getG b 4)
    rw [State.getG, hub, returned_getG]
    by_cases r1 : r = 1
    · rw [r1, e1]
    by_cases r2 : r = 2
    · rw [r2, e2]
    by_cases r3 : r = 3
    · rw [r3, e3]
    by_cases r4 : r = 4
    · rw [r4, e4]
    rw [withArgs_getG_other _ _ _ _ _ r1 r2 r3 r4]
    exact hother r r1 r2 r3 r4
  · rw [State.getF, hub, returned_getF]
    exact hf r
  · rw [hub, returned_fault]
    exact hfault

end TakenByM

/-! ## trap and brk (R176, R366) -/

section
variable {s : State} {b : BlockId}

theorem live_of_canIssue (h : s.canIssue b = true) : s.live b = true := by
  simp only [State.canIssue, Bool.and_eq_true] at h
  exact h.1.1

theorem fault_of_canIssue (h : s.canIssue b = true) : (s.blk b).core.fault = none := by
  have hl := live_of_canIssue h
  simp only [State.live, Bool.and_eq_true, Option.isNone_iff_eq_none] at hl
  obtain ⟨⟨⟨⟨-, hf⟩, -⟩, -⟩, -⟩ := hl
  exact hf

/-- A software trap of M is taken by M. -/
theorem takenByM_raiseAfter {cause : Nat} {v : W64} (h : s.canIssue b = true) (hlong : (s.blk b).core.longOps = []) (hloads : (s.blk b).core.remLoads = [])
    (hrecvs : (s.blk b).core.recvs = []) (hticks : s.branchTicks b 5 = true) (hp : (s.blk b).core.inProgram = false)
    (hc : (s.blk b).priv.ctx = .m) (ho : s.holdOpen b = false) (hl : (s.blk b).priv.mask.toNat < causeLevel (BitVec.ofNat 6 cause).toNat)
    (hf : (s.blk b).priv.tsbpM.occ = false) (hd : inData b (baseAddr (s.blk b).priv.tsbpM.base) 512 = true) :
    TakenByM ((s.lineFetched b).raiseAfter b cause v) b ⟨BitVec.ofNat 6 cause, v, s.pcOf b + 4, none, false⟩ := by
  have hlive := live_of_canIssue h
  simp only [State.live, Bool.and_eq_true, decide_eq_true_eq, Bool.not_eq_true'] at hlive
  obtain ⟨⟨⟨⟨⟨⟨hfetch, hrun⟩, hclock⟩, -⟩, hq⟩, hmay⟩, -⟩ := hlive
  have hb : ((s.lineFetched b).raiseAfter b cause v).blk b = { s.blk b with core := { (s.blk b).core with
      fault := some ⟨BitVec.ofNat 6 cause, v, s.pcOf b + 4, none, false⟩ } } := by
    simp [State.raiseAfter, State.modCore, State.pcOf]
  have hon : OnlyBlock b s ((s.lineFetched b).raiseAfter b cause v) :=
    onlyBlock_trans (fetchOnly_lineFetched s b).onlyBlock (onlyBlock_modCore _ _)
  generalize (s.lineFetched b).raiseAfter b cause v = t at *
  have hopen : t.holdOpen b = false := (holdOpen_congr hon (by rw [hb])).trans ho
  have hct : t.clocked b = true := (hon.clocked b).trans hclock
  have hen : (s.blk b).clk.enables 5 = true := by
    rw [State.branchTicks, hclock] at hticks
    exact hticks
  constructor
  case fetching => rw [hb]; exact hfetch
  case run => rw [hb]; exact hrun
  case clocked => exact hct
  case ticks => rw [State.branchTicks, hct, hb]; exact hen
  case mayRun =>
    rw [State.mayRun] at hmay ⊢
    rw [hon.present b, hb]
    exact hmay
  case longOps => rw [hb]; exact hlong
  case remLoads => rw [hb]; exact hloads
  case recvs => rw [hb]; exact hrecvs
  case quiet =>
    rw [State.asyncReady, ho] at hq
    rw [State.asyncReady, hopen, hb]
    exact hq
  case outside => rw [hb]; exact hp
  case ctx => rw [hb]; exact hc
  case fault => rw [hb]
  case whole => rfl
  case closed => exact hopen
  case level => rw [hb]; exact hl
  case free => rw [hb]; exact hf
  case data => rw [hb]; exact hd

theorem raiseAfter_entered {cause : Nat} {v : W64} (h : s.canIssue b = true) (hcause : cause < 64) (hlong : (s.blk b).core.longOps = [])
    (hloads : (s.blk b).core.remLoads = []) (hrecvs : (s.blk b).core.recvs = []) (hticks : s.branchTicks b 5 = true)
    (hp : (s.blk b).core.inProgram = false) (hc : (s.blk b).priv.ctx = .m) (ho : s.holdOpen b = false)
    (hl : (s.blk b).priv.mask.toNat < causeLevel (BitVec.ofNat 6 cause).toNat) (hf : (s.blk b).priv.tsbpM.occ = false)
    (hd : inData b (baseAddr (s.blk b).priv.tsbpM.base) 512 = true) (why : TrapTrigger) (table : Ecc) :
    ∃ u, exec (.trapEntry b why table) ((s.lineFetched b).raiseAfter b cause v) = .next u ∧ u.pcOf b = BitVec.ofNat 64 (0x100 + 16 * cause) ∧
      (u.blk b).priv.ctx = .m ∧ (u.blk b).priv.mask = 7 ∧ (u.blk b).priv.tsbpM.occ = true ∧ u.getG b 1 = BitVec.ofNat 64 cause ∧ u.getG b 2 = v ∧
      u.getG b 4 = s.pcOf b + 4 := by
  have ht := takenByM_raiseAfter (v := v) h hlong hloads hrecvs hticks hp hc ho hl hf hd
  obtain ⟨hpc, hctx, hmask, hocc, -⟩ := ht.entered_state why table
  obtain ⟨hg1, hg2, -, hg4, -⟩ := ht.entered_regs why table
  have hn : (BitVec.ofNat 6 cause).toNat = cause := (BitVec.toNat_ofNat _ _).trans (Nat.mod_eq_of_lt hcause)
  rw [hn] at hpc
  refine ⟨_, rfl, hpc, hctx, hmask, hocc, hg1.trans ?_, hg2, hg4⟩
  exact BitVec.eq_of_toNat_eq (by rw [BitVec.toNat_setWidth, hn, BitVec.toNat_ofNat])

theorem setTsbp_occ (p : Priv) (c d : Ctx) (m : BitVec 3) :
    (({ p.setTsbp c { p.tsbp c with occ := false } with ctx := d, mask := m, hold := none } : Priv).tsbp c).occ = false := by cases c <;> rfl

end

end Sys2Proof.Machine

/-- Settles O24: the entry writes the TSB and the four registers, and the conditions of R357 are looked at in their order. -/
theorem trapEntry : Obligations.TrapEntry := by
  refine ⟨fun s b f why table h1 h2 h3 h4 h5 h6 h7 h8 h9 h10 h11 h12 h13 h14 h15 h16 h17 => ?_, fun s b f w hp hw h18 h19 => ?_⟩
  · have h : TakenByM s b f := ⟨h1, h2, h3, h4, h5, h6, h7, h8, h9, h10, h11, h12, h13, h14, h15, h16, h17⟩
    obtain ⟨hpc, hctx, hmask, hocc, hloop, hfault, hleft⟩ := h.entered_state why table
    obtain ⟨hg1, hg2, hg3, hg4, hg, hf⟩ := h.entered_regs why table
    have hword := fun k {w : W64} => h.tsb_word why table k (w := w)
    simp only [mloadN_eq_bytesAt] at hword
    have h0 := hword 0 (w := f.savedPc) rfl
    rw [Nat.mul_zero, Nat.add_zero] at h0
    refine ⟨_, rfl, hpc, hctx, hmask, hocc, hloop, hfault, hleft, hg1, hg2, hg3, hg4, hg, hf, h0, ?_, ?_, hword 3 rfl, hword 4 rfl, hword 5 rfl,
      hword 6 rfl, hword 7 rfl, fun k => h.ls_outside_tsb why table⟩
    · rw [crRead_status]
      exact hword 1 rfl
    · refine (hword 2 rfl).trans ?_
      rw [BitVec.toNat_setWidth]
      exact Nat.mod_eq_of_lt (f.cause.isLt.trans (by decide))
  · have hfirst := firstTarget_world (p := (s.blk b).priv) hw f.cause.toNat
    have h11 : f.cause.toNat = 11 ↔ f.cause = 11 := ⟨fun k => BitVec.eq_of_toNat_eq k, fun k => by rw [k]; rfl⟩
    simp only [h11] at hfirst
    refine ⟨fun hdel ho hl => ?_, fun hc hs => ?_, fun ho => ?_, fun ho hl => ?_, fun ho hl hdel hu => ?_⟩
    · have hdel' : ((s.blk b).priv.deleg w &&& 0x11FFFE).getLsbD f.cause.toNat = false := by cases w <;> exact hdel
      rw [if_neg fun k => by rw [hdel'] at k; exact absurd k.1 (by decide)] at hfirst
      rw [route_sync hp h18 h19 hfirst (r := 0) (by rw [ho, if_neg (by decide), if_neg (Nat.not_le.mpr hl), if_pos rfl])]
      rfl
    · rw [if_neg fun k => by have := k.2 hc; rw [hs, sup_not_user] at this; exact absurd this (by decide)] at hfirst
      rw [route_sync hp h18 h19 hfirst rfl]
      exact ite_self _
    · rw [route_sync hp h18 h19 rfl (r := 2) (if_pos ho)]
      rfl
    · rw [route_sync hp h18 h19 rfl (r := 1) (by rw [ho, if_neg (by decide), if_pos hl])]
      rfl
    · have hdel' : ((s.blk b).priv.deleg w &&& 0x11FFFE).getLsbD f.cause.toNat = true := by cases w <;> exact hdel
      rw [if_pos ⟨hdel', hu⟩] at hfirst
      rw [route_sync hp h18 h19 hfirst (by rw [ho, if_neg (by decide), if_neg (Nat.not_le.mpr hl), if_neg (sup_ne_m w)]), supReason_eq]
      split
      · rfl
      split
      · rfl
      split <;> rfl

/-- Settles O25: tret reads back what the entry wrote. -/
theorem trapThenReturn : Obligations.TrapThenReturn := by
  intro s b f why table x tsb h1 _ h3 h4 h5 h6 h7 h8 h9 hi h11 hl h13 h14 hc h16 h17 h18 h19 h20 h21
  have h : TakenByM s b f := ⟨h1, h3, h4, h5, h6, h7, h8, h9, h11, h13, h14, h16, h17, h18, h19, h20, h21⟩
  exact ⟨_, _, rfl, h.tret_eq why table hl hc hi, h.returned why table⟩

/-- Settles O60: each system instruction completes, and trap and brk end in the entry of their cause. -/
theorem systemInstructionsComplete : Obligations.SystemInstructionsComplete := by
  intro s b x
  refine ⟨fun h => ⟨fun hb hidle hlong => ?_, fun imm h0 h8 hm hidle hl hr hs => ?_, fun imm hi hu => ?_, fun imm why table => ?_,
    fun d hf hu hv ht hd hm => ?_⟩, ?_, fun v hs => ?_⟩
  · rw [exec_ewait hb h, show (s.blk b).enginesIdle = true from hidle, show (s.blk b).core.longOps = [] from hlong]
    exact ⟨_, rfl, by simp [State.modCore]⟩
  · have hdone : (imm.getLsbD 0 = true → (s.blk b).enginesIdle = true) ∧
        (imm.getLsbD 1 = true → (s.blk b).core.remLoads = [] ∧ (s.blk b).core.recvs = [] ∧ (s.blk b).core.remStores = []) :=
      ⟨fun _ => hidle, fun _ => ⟨hl, hr, hs⟩⟩
    rw [exec_fence_done h ⟨h0, h8⟩ fun _ => hm, if_pos hdone]
    refine ⟨_, rfl, by rw [advance_pcOf, next_lineFetched], ?_⟩
    rw [advance_core, next_lineFetched, next_fault]
    exact fault_of_canIssue h
  · rw [exec_hold h hi, if_neg (by rw [show (s.blk b).priv.ctx.isUser = false from hu]; decide)]
    exact ⟨_, rfl, hold_opens s b _⟩
  · refine ⟨⟨_, congrArg Host.Outcome.next (issue_eq h _), ?_⟩, ⟨_, congrArg Host.Outcome.next (issue_eq h _), ?_⟩⟩
    · intro h6 h7 h8 h5 h13 h14 h18 hmask h20 h21
      exact raiseAfter_entered h (by decide) h6 h7 h8 h5 h13 h14 h18 (by rw [hmask]; decide) h20 h21 why table
    · intro h6 h7 h8 h5 h13 h14 h18 hmask h20 h21
      exact raiseAfter_entered h (by decide) h6 h7 h8 h5 h13 h14 h18 (by rw [hmask]; decide) h20 h21 why table
  · refine ⟨_, exec_tret h hf hu hv ht hd hm, ?_⟩
    obtain ⟨r, hb⟩ := restore_blk (s.lineFetched b) b d
    rw [blk_lineFetched] at hb
    let a := baseAddr (x.priv.tsbp x.priv.ctx).base
    obtain ⟨e1, e2, e3, e4⟩ := withArgs_getG_args x.core (x.lsWord (a + 0x20) 8) (x.lsWord (a + 0x28) 8) (x.lsWord (a + 0x30) 8) (x.lsWord (a + 0x38) 8)
    refine ⟨?_, ?_, ?_, ?_, ?_, ?_, ?_, ?_, ?_, ?_⟩
    · rw [State.pcOf, hb]; rfl
    · rw [hb]
    · rw [hb]
    · rw [hb]; exact setTsbp_occ x.priv x.priv.ctx d _
    · rw [State.holdLeft, hb]; rfl
    · rw [hb]; rfl
    · rw [State.getG, hb, returned_getG]; exact e1
    · rw [State.getG, hb, returned_getG]; exact e2
    · rw [State.getG, hb, returned_getG]; exact e3
    · rw [State.getG, hb, returned_getG]; exact e4
  · obtain ⟨u, hu, hz, hpc⟩ := holdWindowExpiry_closes s b
    exact ⟨u, hu, hz, hpc⟩
  · obtain ⟨t, ht, -, hpc, hfetch, hstop, hpriv⟩ := resume_of_stopped s b v hs
    exact ⟨t, ht, hpc, hfetch, hstop, by rw [hpriv], by rw [hpriv], by rw [hpriv]⟩

end

/-! # Engine instructions from RD to their unit: the proofs -/

section
open Sys2Proof Sys2Proof.Machine

namespace Sys2Proof.Machine

/-! ## The checks in RD (R252, R276, R286) -/

section
variable {s : State} {b : BlockId} {gs fs : List Reg} {reserved : Bool}

theorem engineIssue_eq (hb : b ≠ mgmtCore) (hq : (s.blk b).queue.length < 16) (hr : reserved = false) (h : s.mayIssue b gs fs = true)
    (k : State → State) : s.engineIssue b reserved gs fs k = k s := by
  rw [State.engineIssue, issue_eq (canIssue_of_mayIssue h), lineFetched_ne s hb, hr, decide_eq_false hb, Bool.or_false, if_neg (by decide),
    whenFree_eq (free_of_mayIssue h), State.whenRoom, if_pos hq]

/-- With no scalar register to wait for, an instruction that can issue may. -/
theorem mayIssue_nil (h : s.canIssue b = true) : s.mayIssue b [] [] = true := by rw [State.mayIssue, h]; rfl

theorem checked_eq {c : Shape} {need : List Nat} (hq : ((s.blk b).inFlight.any fun e => meets e.writes need) = false)
    (hs : (s.blk b).staticFault c = none) (k : State → State) : s.checked b c need k = k s := by
  rw [State.checked, hq, hs, if_neg (by decide)]

theorem addressed_eq {l : List (Nat × Nat × Nat × Nat)} (h : (s.blk b).priv.firstFault l = none) (isRow : Bool) (k : State → State) :
    s.addressed b l isRow k = k s := by
  rw [State.addressed, h]

/-- Accesses that all pass have no first fault. -/
theorem firstFault_none {p : Priv} {l : List (Nat × Nat × Nat × Nat)} (h : ∀ q ∈ l, p.memCheck q.2.1 q.2.2.1 q.2.2.2 = none) : p.firstFault l = none := by
  induction l with
  | nil => rfl
  | cons q l ih =>
    rw [List.forall_mem_cons] at h
    obtain ⟨hq, hl⟩ := h
    rw [Priv.firstFault, hq, ih hl]

/-! ## The dispatch queue (R109, R127) -/

/-- An entry of the dispatch queue goes in behind the others and the core goes on. -/
theorem dispatched_enqueue (b : BlockId) (s : State) (c : Instr) (sa sb : W64) (rm : BitVec 3) (n : Nat) :
    Dispatched b c sa sb rm n s (s.enqueue b c sa sb rm n) := by
  have hb := advance_blk b (s.setBlk b { s.blk b with queue := (s.blk b).queue ++ [⟨c, (s.blk b).core.pc, sa, sb, (s.blk b).vec.grp, rm, n, 0⟩] })
  rw [blk_setBlk_same] at hb
  have hn : State.next (s.setBlk b { s.blk b with queue := (s.blk b).queue ++ [⟨c, (s.blk b).core.pc, sa, sb, (s.blk b).vec.grp, rm, n, 0⟩] }) b =
      s.next b := by
    rw [State.next, blk_setBlk_same]
    rfl
  rw [hn] at hb
  have ho : OnlyBlock b s (s.enqueue b c sa sb rm n) := onlyBlock_trans (onlyBlock_setBlk b s _) (ctlOnly_advance b _).only
  refine ⟨?_, ?_, ?_, ho, ?_, ?_, ?_, fun r => ⟨?_, ?_⟩⟩ <;> unfold State.enqueue
  · rw [hb]; rfl
  · rw [State.pcOf, hb]
  · rw [hb]
  · rw [hb]
  · rw [hb]
  · rw [hb]
  · rw [State.getG, hb]
    exact next_getG s b r
  · rw [State.getF, hb]
    exact next_getF s b r

/-- An instruction that runs into the queue has been dispatched. -/
theorem dispatched_of_enqueue {c : Instr} {sa sb : W64} {rm : BitVec 3} {n : Nat} (h : exec c s = .next (s.enqueue b c sa sb rm n)) :
    ∃ t, exec c s = .next t ∧ Dispatched b c sa sb rm n s t :=
  ⟨_, h, dispatched_enqueue b s c sa sb rm n⟩

/-- An instruction with nothing to check. -/
theorem issuePlain_eq (hb : b ≠ mgmtCore) (hq : (s.blk b).queue.length < 16) (h : s.canIssue b = true) (i : Instr) (hr : reserved = false) :
    issuePlain b i reserved s = s.enqueue b i 0 0 0 0 := engineIssue_eq hb hq hr (mayIssue_nil h) _

/-- rsr draws for an explicit rm field alone (R145). -/
theorem draws_eq (fp : Fp) (rm : BitVec 3) (n : Nat) : (if fp.mode rm false = 5 then n else 0) = if rm = 5 then n else 0 := by
  have h : fp.mode rm false = 5 ↔ rm = 5 := by
    unfold Fp.mode
    by_cases h7 : rm = 7
    · rw [if_pos h7, h7]
      by_cases h5 : fp.rm = 5
      · simp [h5]
      · simp only [h5, false_and, if_false]
        decide
    · rw [if_neg h7]
  simp only [h]

end

/-! ## Tile transfers in RD (R314, R315) -/

section
variable {s : State} {b : BlockId} {rs ra : Reg}

theorem issueTile_eq (hb : b ≠ mgmtCore) (hq : (s.blk b).queue.length < 16) (h : s.mayIssue b [ra, rs] [] = true) (i : Instr)
    (hm : ∀ k < 16, (s.blk b).priv.memCheck (s.getG b ra + BitVec.ofNat 64 k * (if rs = 0 then BitVec.ofNat 64 (rowLen i) else s.getG b rs)).toNat
      (rowLen i) 32 = none) :
    issueTile b i rs ra s = s.enqueue b i (s.getG b ra) (if rs = 0 then BitVec.ofNat 64 (rowLen i) else s.getG b rs) 0 0 := by
  refine (engineIssue_eq hb hq rfl h _).trans (addressed_eq (firstFault_none ?_) true _)
  simp only [rowAccesses, List.forall_mem_map, List.mem_range]
  exact hm

end

/-! ## The head of the queue departs (R127, R205) -/

section
variable (s : State) (b : BlockId)

/-- Nothing is drawn for an instruction that takes no draw. -/
theorem drawsTaken_blk (s : State) (b : BlockId) (n : Nat) : ((if n = 0 then s else s.draw b n).blk b) = { s.blk b with
    fp := { (s.blk b).fp with srState := srAfter n (s.blk b).fp.srState, srDraws := (s.blk b).fp.srDraws + BitVec.ofNat 64 n } } := by
  cases n with
  | zero =>
    rw [if_pos rfl]
    have h0 : (s.blk b).fp.srDraws + BitVec.ofNat 64 0 = (s.blk b).fp.srDraws := BitVec.add_zero _
    rw [h0]
    rfl
  | succ n =>
    rw [if_neg (Nat.succ_ne_zero n), State.draw, blk_modBlk_same]

theorem queueWaitEnds_core_eq : (s.queueWaitEnds b).blk b = { s.blk b with core := (s.blk b).core.settleQueue (s.ticks b) } := by
  unfold State.queueWaitEnds
  cases hq : (s.blk b).core.queueFrom with
  | none =>
    have hc : (s.blk b).core.settleQueue (s.ticks b) = (s.blk b).core := by rw [Core.settleQueue, hq]
    rw [hc]
    rfl
  | some n =>
    rw [if_pos Option.isSome_some]
    exact blk_modBlk_same s b _

/-- The block after its head has departed, `place` having put it into its unit. -/
theorem depart_blk {e : QEntry} {rest : List QEntry} (h : (s.blk b).queue = e :: rest) (place : Block → QEntry → Block)
    (hc : ∀ x f, (place x f).core = x.core) (hf : ∀ x f, (place x f).fp = x.fp) :
    (s.depart b place).blk b = { place { s.blk b with queue := rest } { e with seed := (s.blk b).fp.srState } with
      core := (s.blk b).core.settleQueue (s.ticks b)
      fp := { (s.blk b).fp with
        srState := srAfter e.draws (s.blk b).fp.srState, srDraws := (s.blk b).fp.srDraws + BitVec.ofNat 64 e.draws } } := by
  unfold State.depart
  rw [h]
  dsimp only
  rw [drawsTaken_blk, queueWaitEnds_core_eq, blk_modBlk_same, hc, hf]
  rfl

theorem meets_iff (l k : List Nat) : meets l k = true ↔ ∃ n ∈ l, n ∈ k := by simp [meets]

theorem clashes_false_iff (l : List QEntry) (e : QEntry) :
    clashes l e false = false ↔ ∀ o ∈ l, ∀ n ∈ o.writes, n ∉ e.reads ∧ n ∉ e.writes := by
  simp [clashes, meets]

/-- A vector instruction that may start departs. -/
theorem vectorEngineStart_departs {e : QEntry} {rest : List QEntry} (h : (s.blk b).queue = e :: rest) (ht : s.branchTicks b 1 = true)
    (hu : matrixUnit e.instr = none) (hc : clashes (s.blk b).running e false = false)
    (hm : isVecMem e.instr = true → ∀ o ∈ (s.blk b).mtx.port, isTileMem o.instr = false) :
    vectorEngineStart b s = s.depart b fun x e => { x with vec := { x.vec with run := x.vec.run ++ [e] } } := by
  have hready : (s.blk b).vectorReady e = true := by
    have hp : (isVecMem e.instr && (s.blk b).mtx.port.any fun o => isTileMem o.instr) = false := by
      rw [Bool.and_eq_false_imp]
      intro k
      rw [List.any_eq_false]
      exact fun o ho => by rw [hm k o ho]; decide
    rw [Block.vectorReady, hu, hc, hp]
    rfl
  simp [vectorEngineStart, h, ht, hready]

theorem vectorEngineStart_stays {e : QEntry} {rest : List QEntry} (h : (s.blk b).queue = e :: rest)
    (hw : s.branchTicks b 1 = false ∨ matrixUnit e.instr ≠ none ∨ clashes (s.blk b).running e false = true) : vectorEngineStart b s = s := by
  have hready : (s.branchTicks b 1 && (s.blk b).vectorReady e) = false := by
    obtain ht | hu | hc := hw
    · rw [ht, Bool.false_and]
    · have hn : (matrixUnit e.instr).isNone = false := by
        rw [Bool.eq_false_iff, Ne, Option.isNone_iff_eq_none]
        exact hu
      rw [Block.vectorReady, hn, Bool.false_and, Bool.false_and, Bool.and_false]
    · rw [Block.vectorReady, hc, Bool.not_true, Bool.and_false, Bool.false_and, Bool.and_false]
  simp [vectorEngineStart, h, hready]

theorem start_core (u : MUnit) (x : Block) (e : QEntry) : (Block.start u x e).core = x.core := by cases u <;> rfl
theorem start_fp (u : MUnit) (x : Block) (e : QEntry) : (Block.start u x e).fp = x.fp := by cases u <;> rfl

/-- On idle engines a matrix instruction departs. -/
theorem matrixUnitStart_departs {e : QEntry} {rest : List QEntry} (h : (s.blk b).queue = e :: rest) {u : MUnit} (hu : matrixUnit e.instr = some u)
    (ht : s.branchTicks b (MUnit.branch u) = true) (hv : (s.blk b).vec.run = []) (ha : (s.blk b).mtx.array = []) (hp : (s.blk b).mtx.port = []) :
    matrixUnitStart b s = s.depart b (Block.start u) := by
  have hr : (s.blk b).running = [] := by simp [Block.running, hv, ha, hp]
  have hw : (s.blk b).awaited e u = [] := by
    cases u <;> simp [Block.awaited, ha, hr]
  have hready : (s.blk b).matrixReady e u = true := by simp [Block.matrixReady, hw, clashes, hv]
  simp [matrixUnitStart, h, hu, ht, hready]

end

end Sys2Proof.Machine

/-- Settles O26: each vector form passes its checks and goes into the queue. -/
theorem vectorInstructionsDispatch : Obligations.VectorInstructionsDispatch := by
  intro s b vm w rm dst src line rx ra vs vb va vd hb hq
  refine ⟨fun fn ty form hr h hn hs => ?_, fun fn ty form hr h hn hs => ?_, fun op form hr h hn hs => ?_, fun fn ty h hn hs => ?_,
    fun fn ty hx h hn hs => ?_, fun fn ty h hn hs => ?_, fun h hn hr hs => ?_, fun h hn hr hs => ?_, fun fn hr h => ?_, fun h hn hs => ?_,
    fun fn hr h hn hf => ⟨fun hs => ?_, fun hs => ?_⟩, fun h hm => ?_, fun h => ⟨?_, ?_, ?_⟩⟩ <;>
    refine dispatched_of_enqueue (congrArg Host.Outcome.next ?_)
  · exact (engineIssue_eq hb hq hr (by simpa using h) _).trans (checked_eq hn hs _)
  · exact (engineIssue_eq hb hq hr (by simpa using h) _).trans (checked_eq hn hs _)
  · exact (engineIssue_eq hb hq hr (by simpa using h) _).trans (checked_eq hn hs _)
  · exact (engineIssue_eq hb hq rfl h _).trans (checked_eq hn hs _)
  · exact (engineIssue_eq hb hq (decide_eq_false hx) h _).trans (checked_eq hn hs _)
  · exact (engineIssue_eq hb hq rfl h _).trans (checked_eq hn hs _)
  · rw [← draws_eq (s.blk b).fp]
    exact (engineIssue_eq hb hq hr (mayIssue_nil h) _).trans (checked_eq hn hs _)
  · rw [← draws_eq (s.blk b).fp]
    exact (engineIssue_eq hb hq hr (mayIssue_nil h) _).trans (checked_eq hn hs _)
  · exact engineIssue_eq hb hq hr h _
  · exact (engineIssue_eq hb hq rfl h _).trans (checked_eq hn hs _)
  · exact (engineIssue_eq hb hq hr h _).trans ((checked_eq hn hs _).trans (addressed_eq hf _ _))
  · exact (engineIssue_eq hb hq hr h _).trans ((checked_eq hn hs _).trans (addressed_eq hf _ _))
  · exact (engineIssue_eq hb hq rfl h _).trans (addressed_eq (firstFault_none (by simpa using hm)) _ _)
  · exact issuePlain_eq hb hq h _ rfl
  · exact issuePlain_eq hb hq h _ rfl
  · exact issuePlain_eq hb hq h _ rfl

/-- Settles O27: each matrix form passes its checks and goes into the queue. -/
theorem matrixInstructionsDispatch : Obligations.MatrixInstructionsDispatch := by
  intro s b z mode h isrc typb typa dst rm ts tb ta zd r rs ra v hb hq
  refine ⟨fun hi => ⟨fun hp => ?_, fun hp => ?_, ?_, ?_, ?_, ?_, ?_, fun hr => ?_⟩, fun hi c len hc => ?_⟩
  · exact dispatched_of_enqueue (congrArg Host.Outcome.next <| issuePlain_eq hb hq hi _ (by rw [hp]; rfl))
  · exact dispatched_of_enqueue (congrArg Host.Outcome.next <| issuePlain_eq hb hq hi _ (by rw [hp]; rfl))
  · exact dispatched_of_enqueue (congrArg Host.Outcome.next <| issuePlain_eq hb hq hi _ rfl)
  · exact dispatched_of_enqueue (congrArg Host.Outcome.next <| issuePlain_eq hb hq hi _ rfl)
  · exact dispatched_of_enqueue (congrArg Host.Outcome.next <| issuePlain_eq hb hq hi _ rfl)
  · exact dispatched_of_enqueue (congrArg Host.Outcome.next <| issuePlain_eq hb hq hi _ rfl)
  · exact dispatched_of_enqueue (congrArg Host.Outcome.next <| issuePlain_eq hb hq hi _ rfl)
  · rw [← draws_eq (s.blk b).fp]
    exact dispatched_of_enqueue (congrArg Host.Outcome.next <| engineIssue_eq hb hq hr (mayIssue_nil hi) _)
  · intro st hm
    simp only [List.mem_cons, Prod.mk.injEq, List.not_mem_nil, or_false] at hc
    obtain ⟨rfl, rfl⟩ | ⟨rfl, rfl⟩ | ⟨rfl, rfl⟩ | ⟨rfl, rfl⟩ | ⟨rfl, rfl⟩ | ⟨rfl, rfl⟩ := hc <;>
      exact dispatched_of_enqueue (congrArg Host.Outcome.next <| issueTile_eq hb hq hi _ hm)

/-- Settles O29: the head departs exactly when its unit ticks and no instruction in an engine is in its way. -/
theorem engineStarts : Obligations.EngineStarts := by
  intro s b e rest h
  have hsome : ∀ (l : List QEntry), (∃ o ∈ l, ∃ n ∈ o.writes, n ∈ e.reads ∨ n ∈ e.writes) → clashes l e false = true := fun l hc => by
    rw [← Bool.not_eq_false, clashes_false_iff]
    push Not
    obtain ⟨o, ho, n, hn, hk⟩ := hc
    exact ⟨o, ho, n, hn, fun hr => hk.resolve_left hr⟩
  refine ⟨⟨_, rfl, fun ht hu hc hm => ?_, fun hw => ?_⟩, ⟨_, rfl, fun hv ha hp => ⟨fun hu ht => ?_, fun hu ht => ?_, fun hu ht => ?_⟩, fun hu => ?_⟩⟩
  · rw [vectorEngineStart_departs s b h ht hu ((clashes_false_iff _ _).mpr hc) hm]
    exact depart_blk s b h _ (fun _ _ => rfl) fun _ _ => rfl
  · exact vectorEngineStart_stays s b h (hw.imp_right fun k => k.imp_right (hsome _))
  · rw [matrixUnitStart_departs s b h hu ht hv ha hp, depart_blk s b h _ (start_core _) (start_fp _)]
    simp [Block.start, ha]
  · rw [matrixUnitStart_departs s b h hu ht hv ha hp, depart_blk s b h _ (start_core _) (start_fp _)]
    simp [Block.start, hp]
  · rw [matrixUnitStart_departs s b h hu ht hv ha hp, depart_blk s b h _ (start_core _) (start_fp _)]
    simp [Block.start, hv]
  · simp [matrixUnitStart, h, hu]

end

/-! # System time (R588, R631, R657 to R669): the proofs -/

section
open Sys2Proof Sys2Proof.Machine

namespace Sys2Proof.Machine

/-! ## Events of the time base and the locks -/

section
variable (s : State)

@[simp] theorem raise_time (kind : Nat) (ref result tag : W64) : (s.raise kind ref result tag).time = s.time := rfl
@[simp] theorem timeEvent_time (code : Nat) (old : W64) : (s.timeEvent code old).time = s.time := rfl

theorem timeEvent_raised (code : Nat) (old : W64) : (s.timeEvent code old).jnl.raised = s.jnl.raised + 1 := by
  rw [State.timeEvent, raise_jnl, accept_raised]

/-- The locks take their values, and nothing else of the time base changes. -/
@[simp] theorem setLocks_time (t f : Bool) (old : W64) : (s.setLocks t f old).time = { s.time with tlock := t, flock := f } := by
  unfold State.setLocks
  dsimp only
  split <;> split <;> rfl

/-- A lock that changes is journaled, each with one event. -/
theorem setLocks_raised (t f : Bool) (old : W64) :
    (s.setLocks t f old).jnl.raised = s.jnl.raised + (if s.time.tlock = t then 0 else 1) + (if s.time.flock = f then 0 else 1) := by
  unfold State.setLocks
  dsimp only
  split <;> split <;> simp [timeEvent_raised]

@[simp] theorem followValid_time (old : W64) :
    (s.followValid old).time = { s.time with tlock := s.time.valid, flock := s.time.valid } := setLocks_time s _ _ old

theorem locksAfterSet_time (old : W64) : (s.locksAfterSet old).time = if s.time.source = 0 then
    { s.time with tlock := s.time.valid, flock := s.time.valid } else { s.time with tlock := false } := by
  unfold State.locksAfterSet
  split
  · exact followValid_time s old
  · exact setLocks_time s _ _ old

theorem setSource_same {v : BitVec 2} (h : s.time.source = v) : s.setSource v = s := if_pos h

/-- A new source starts with no samples counted; for free running the locks follow TIME_VALID. -/
theorem setSource_time {v : BitVec 2} (h : s.time.source ≠ v) :
    (s.setSource v).time = { s.time with source := v, run20 := 0, run50 := 0, tlock := if v = 0 then s.time.valid else s.time.tlock,
                                         flock := if v = 0 then s.time.valid else s.time.flock } := by
  unfold State.setSource
  rw [if_neg h]
  dsimp only
  split <;> simp

@[simp] theorem setSource_source (v : BitVec 2) : (s.setSource v).time.source = v := by
  by_cases h : s.time.source = v
  · rw [setSource_same s h, h]
  · rw [setSource_time s h]

/-! ## The passage of time outside an epoch -/

/-- Outside an epoch nothing bars a wait. -/
theorem passWithin_idle {s : State} (n : Nat) (h : s.epoch.active = false) : s.passWithin n = some (s.pass n) := by
  simp [State.passWithin, h]

theorem oneAcy_idle {s : State} (h : s.epoch.active = false) : s.oneAcy = s.pass (s.perAcy - s.acyFrac) := by
  simp [State.oneAcy, passWithin_idle _ h]

/-- Time passes on the clocks and the time base alone. -/
theorem pass_time (n : Nat) : (s.pass n).time = s.time.pass ((s.acyFrac + n) / s.perAcy) s.slewRate := rfl

end

/-! ## The number that TIME64 holds (R588) -/

theorem time64_toNat {s : State} (h : s.time.ns < 1000000000) : s.time64.toNat = s.time.ns + s.time.sec.toNat * 2 ^ 32 := by
  have hs := s.time.sec.isLt
  rw [State.time64, BitVec.toNat_ofNat]
  exact Nat.mod_eq_of_lt (by omega)

/-! ## APPLY (R661, R662) -/

theorem exec_apply_none (v : Byte) (s : State) :
    exec (.apply none v) s = .next (if v.getLsbD 0 then s.applyTime.1 else s) := rfl

/-- The upper half of a TIME64 word is its seconds. -/
theorem seconds_toNat (v : W64) : (v.extractLsb' 32 32).toNat = v.toNat / 2 ^ 32 := by
  have := v.isLt
  rw [BitVec.extractLsb'_toNat, Nat.shiftRight_eq_div_pow]
  exact Nat.mod_eq_of_lt (by omega)

section
variable {s : State}

theorem applyTime_of_refused (h : s.planMoves = true ∨ 999999999 < s.time.stage.toNat % 2 ^ 32) : s.applyTime.1 = s.refuseTime := by
  unfold State.applyTime
  dsimp only
  split
  · rfl
  · next hp => rw [if_pos (h.resolve_left hp)]

/-- The staged time, which is valid and has no slew to come. -/
def Time.staged (t : Time) (stage : W64) : Time := { t.set (stage.toNat % 2 ^ 32) (stage.extractLsb' 32 32) with valid := true }

theorem applyTime_time (hp : s.planMoves = false) (hv : s.time.stage.toNat % 2 ^ 32 ≤ 999999999) :
    s.applyTime.1.time = if s.oneAcy.time.source = 0 then { s.oneAcy.time.staged s.time.stage with tlock := true, flock := true }
      else { s.oneAcy.time.staged s.time.stage with tlock := false } := by
  unfold State.applyTime
  dsimp only
  rw [if_neg (by simp [hp]), if_neg (by omega), locksAfterSet_time, timeEvent_time, modTime_time]
  rfl

/-! ## TIME_SECOND_ROLLOVER (R657) -/

/-- The acy until the next second. -/
def Time.acyLeft (t : Time) : Nat := (1000000000 * 2 ^ 32 - (t.ns * 2 ^ 32 + t.frac.toNat) + (40 * 2 ^ 32 - 1)) / (40 * 2 ^ 32)

theorem acyLeft_pos {t : Time} (h : t.ns < 1000000000) : 0 < t.acyLeft := by
  have := t.frac.isLt
  rw [Time.acyLeft]
  omega

/-- With no slew, as many acy bring the time base past the second by less than one acy. -/
theorem pass_acyLeft {t : Time} (rate : Nat) (hs : t.slew = 0) (hn : t.ns < 1000000000) :
    (t.pass t.acyLeft rate).ns < 40 ∧ (t.pass t.acyLeft rate).sec = t.sec + 1 := by
  have hf := t.frac.isLt
  have hl : ∃ r, r < 40 * 2 ^ 32 ∧ t.ns * 2 ^ 32 + t.frac.toNat + t.acyLeft * 40 * 2 ^ 32 = 1000000000 * 2 ^ 32 + r := by
    refine ⟨t.ns * 2 ^ 32 + t.frac.toNat + t.acyLeft * 40 * 2 ^ 32 - 1000000000 * 2 ^ 32, ?_, ?_⟩ <;> rw [Time.acyLeft] <;> omega
  obtain ⟨r, hr, hsum⟩ := hl
  have htotal : ((t.total : Int) + t.acyLeft * 40 * 2 ^ 32).toNat / 2 ^ 32 = (t.sec.toNat + 1) * 1000000000 + r / 2 ^ 32 := by
    rw [Time.total]
    omega
  have hd : r / 2 ^ 32 < 40 := by omega
  have hsec : BitVec.ofNat 32 (t.sec.toNat + 1) = t.sec + 1 := by
    apply BitVec.eq_of_toNat_eq
    simp
  simp only [Time.pass, Time.withTotal, hs, Int.natAbs_zero, Nat.zero_min, lt_self_iff_false, if_false, Int.natCast_zero, Int.sub_zero, htotal]
  refine ⟨by omega, ?_⟩
  rw [show ((t.sec.toNat + 1) * 1000000000 + r / 2 ^ 32) / 1000000000 = t.sec.toNat + 1 by omega, hsec]

theorem timeSecondRollover_idle (h : s.epoch.active = false) :
    timeSecondRollover s = s.pass (s.time.acyLeft * s.perAcy - s.acyFrac) := by
  unfold timeSecondRollover
  dsimp only
  rw [passWithin_idle _ h]
  rfl

/-! ## SLEW_END (R666) -/

theorem slewEnd_idle (h : s.epoch.active = false) (hs : s.time.slewing = true) :
    ∃ n, slewEnd s = (s.pass n).modTime fun t => { t with slew := 0, slewing := false } := by
  unfold slewEnd
  simp only [hs, if_true, passWithin_idle _ h]
  exact ⟨_, rfl⟩

end

/-! ## PPS_EDGE (R664, R665) -/

section
variable (s : State)

/-- An edge is the first for 1.5 s, or within it of the one before. -/
def State.nearEdge : Bool :=
  match s.time.ppsLast with
  | some a => decide (s.acy ≤ a + 37500000)
  | none => false

theorem nearEdge_iff : s.nearEdge = true ↔ ∃ a, s.time.ppsLast = some a ∧ s.acy ≤ a + 37500000 := by
  unfold State.nearEdge
  split
  · next a h => simp [h]
  · next h => simp [h]

/-- What an edge leaves in the PPS registers. -/
def State.edgeSeen (sub : BitVec 6) : State :=
  s.modTime fun t => { t with ppsOffset := BitVec.ofInt 32 (s.edgeOffset sub.toNat), ppsPresent := s.nearEdge, ppsLast := some s.acy }

/-- Elette stays the source; of the others the edge chooses. -/
def State.edgeSource (sub : BitVec 6) : State :=
  if s.time.source = 1 then s.edgeSeen sub else (s.edgeSeen sub).setSource (if s.nearEdge then 2 else 0)

theorem ppsEdge_eq (sub : BitVec 6) :
    ∃ ns sec, ppsEdge sub s = if (s.edgeSource sub).time.source = 2 then
      (s.edgeSource sub).timeSample (BitVec.ofInt 32 (s.edgeOffset sub.toNat)).toInt ns sec else s.edgeSource sub := ⟨_, _, rfl⟩

/-- A sample sets the time, its slew, its runs and its locks alone. -/
theorem timeSample_registers (x : Int) (ns : Nat) (sec : BitVec 32) :
    (s.timeSample x ns sec).time.ppsOffset = s.time.ppsOffset ∧ (s.timeSample x ns sec).time.ppsPresent = s.time.ppsPresent ∧
    (s.timeSample x ns sec).time.ppsLast = s.time.ppsLast ∧ (s.timeSample x ns sec).time.source = s.time.source := by
  unfold State.timeSample
  dsimp only
  split <;> simp only [setLocks_time, timeEvent_time, modTime_time, Time.set, Time.count, and_self]

/-- A valid time takes a sample of at most 1 ms as a slew, whose runs decide the locks (R665, R667). -/
theorem timeSample_slew {s : State} {x : Int} (ns : Nat) (sec : BitVec 32) (hv : s.time.valid = true) (hx : x.natAbs ≤ 1000000) :
    (s.timeSample x ns sec).time =
      { s.time.count x.natAbs with
        slew := x * 2 ^ 32, slewing := decide (x ≠ 0),
        tlock := if 100 < x.natAbs then false else if 8 ≤ (s.time.count x.natAbs).run20 then true else s.time.tlock,
        flock := s.time.flock || decide (16 ≤ (s.time.count x.natAbs).run50) } := by
  have hb : decide (1000000 < x.natAbs) = false := decide_eq_false (by omega)
  unfold State.timeSample
  simp only [hv, hb, Bool.not_true, Bool.false_and, Bool.or_self, Bool.false_eq_true, if_false, or_false, setLocks_time, modTime_time, Time.count]
  rfl

theorem edgeSource_registers (sub : BitVec 6) :
    (s.edgeSource sub).time.ppsOffset = BitVec.ofInt 32 (s.edgeOffset sub.toNat) ∧ (s.edgeSource sub).time.ppsPresent = s.nearEdge ∧
    (s.edgeSource sub).time.ppsLast = some s.acy ∧
    (s.edgeSource sub).time.source = if s.time.source = 1 then 1 else if s.nearEdge then 2 else 0 := by
  unfold State.edgeSource
  split
  · next h => exact ⟨rfl, rfl, rfl, h⟩
  · by_cases h : (s.edgeSeen sub).time.source = if s.nearEdge then 2 else 0
    · rw [setSource_same _ h]
      exact ⟨rfl, rfl, rfl, h⟩
    · rw [setSource_time _ h]
      exact ⟨rfl, rfl, rfl, rfl⟩

/-- The PPS registers after an edge, and the source. -/
theorem ppsEdge_registers (sub : BitVec 6) :
    (ppsEdge sub s).time.ppsOffset = BitVec.ofInt 32 (s.edgeOffset sub.toNat) ∧ (ppsEdge sub s).time.ppsPresent = s.nearEdge ∧
    (ppsEdge sub s).time.ppsLast = some s.acy ∧
    (ppsEdge sub s).time.source = if s.time.source = 1 then 1 else if s.nearEdge then 2 else 0 := by
  obtain ⟨ns, sec, he⟩ := ppsEdge_eq s sub
  obtain ⟨hoff, hpres, hlast, hsrc⟩ := edgeSource_registers s sub
  rw [he]
  split
  · obtain ⟨koff, kpres, klast, ksrc⟩ := timeSample_registers (s.edgeSource sub) (BitVec.ofInt 32 (s.edgeOffset sub.toNat)).toInt ns sec
    exact ⟨koff.trans hoff, kpres.trans hpres, klast.trans hlast, ksrc.trans hsrc⟩
  · exact ⟨hoff, hpres, hlast, hsrc⟩

end

/-- With the PPS input as the source and the edges in time, the edge is a sample of its offset. -/
theorem ppsEdge_time {s : State} (sub : BitVec 6) (hs : s.time.source = 2) (hn : s.nearEdge = true)
    (hx : (s.edgeOffset sub.toNat).natAbs ≤ 1000000) : ∃ ns sec, (ppsEdge sub s) = (s.edgeSeen sub).timeSample (s.edgeOffset sub.toNat) ns sec := by
  obtain ⟨ns, sec, he⟩ := ppsEdge_eq s sub
  have hsrc : s.edgeSource sub = s.edgeSeen sub := by
    rw [State.edgeSource, if_neg (by simp [hs]), hn]
    exact setSource_same _ hs
  have hint : (BitVec.ofInt 32 (s.edgeOffset sub.toNat)).toInt = s.edgeOffset sub.toNat := by
    rw [BitVec.toInt_ofInt]
    exact Int.bmod_eq_of_le (by omega) (by omega)
  refine ⟨ns, sec, ?_⟩
  rw [he, hsrc, hint]
  exact if_pos hs

/-! ## The losses of locks (R667) -/

section
variable {s : State}

/-- PRESENT that falls leaves the locks. -/
theorem flock_of_present_cleared (s : State) (p : Prop) [Decidable p] :
    (if p then s.modTime fun t => { t with ppsPresent := false } else s).time.flock = s.time.flock := by
  split <;> rfl

theorem timeLockTimeout_elette (h : s.time.source = 1) :
    (timeLockTimeout s).time.tlock = false ∧ (timeLockTimeout s).time.flock = s.time.flock ∧ (timeLockTimeout s).time.run20 = 0 ∧
    (timeLockTimeout s).time.run50 = 0 := by
  unfold timeLockTimeout
  simp only [h, show (1 : BitVec 2).toNat = 1 from rfl, setLocks_time, modTime_time]
  exact ⟨trivial, flock_of_present_cleared s _, trivial, trivial⟩

theorem timeLockTimeout_pps (h : s.time.source = 2) :
    (timeLockTimeout s).time = { s.time with source := 0, ppsPresent := false, run20 := 0, run50 := 0, tlock := s.time.valid, flock := s.time.valid } := by
  unfold timeLockTimeout
  simp only [h, show (2 : BitVec 2).toNat = 2 from rfl]
  rw [setSource_time _ (by simp [h])]
  simp

theorem frequencyLockLoss_unlocked (h : s.time.tlock = false) : frequencyLockLoss s = s.setLocks false false s.timeBefore := if_neg (by simp [h])

end

end Sys2Proof.Machine

/-- Settles O51: outside an epoch a wait is a passage of acy, and every other time command sets fields of the time base, the locks among them. -/
theorem timeCommands : Obligations.TimeCommands := by
  intro s sub m at_ off now
  have hoff : s.edgeOffset sub.toNat = off := rfl
  refine ⟨rfl, fun hp he hv => ?_, fun h => ?_, fun v hv => ?_, fun he hf hs hn => ?_, fun he hs => ?_, fun hs => ?_, ?_,
    fun hs hn hv hx => ?_, fun hs => ?_, fun hs => ?_, fun hl => ?_, fun hl => ?_, ?_, time64_toNat⟩
  · refine ⟨_, exec_apply_none 1 s, ?_⟩
    have hsource : s.oneAcy.time.source = m.source := by rw [oneAcy_idle he]; rfl
    have hflock : s.oneAcy.time.flock = m.flock := by rw [oneAcy_idle he]; rfl
    rw [if_pos (by decide), applyTime_time hp hv, hsource]
    split
    · next h0 => exact ⟨rfl, seconds_toNat _, rfl, rfl, rfl, fun h => absurd h0 h, fun _ => ⟨rfl, rfl⟩⟩
    · next h0 => exact ⟨rfl, seconds_toNat _, rfl, rfl, rfl, fun _ => ⟨rfl, hflock⟩, fun h => absurd h h0⟩
  · refine ⟨_, exec_apply_none 1 s, ?_⟩
    rw [if_pos (by decide), applyTime_of_refused h]
    exact ⟨rfl, timeEvent_raised _ _ _⟩
  · rw [exec_apply_none, hv]
    rfl
  · refine ⟨_, rfl, ?_⟩
    rw [timeSecondRollover_idle he, pass_time]
    have hpos := acyLeft_pos hn
    have hacy : (s.acyFrac + (s.time.acyLeft * s.perAcy - s.acyFrac)) / s.perAcy = s.time.acyLeft := by
      have : s.perAcy ≤ s.time.acyLeft * s.perAcy := Nat.le_mul_of_pos_left _ hpos
      rw [Nat.add_sub_cancel' (by omega), Nat.mul_div_cancel _ (by omega)]
    rw [hacy]
    obtain ⟨hns, hsec⟩ := pass_acyLeft s.slewRate hs hn
    exact ⟨hns, hsec, rfl, rfl⟩
  · obtain ⟨n, hn⟩ := slewEnd_idle he hs
    refine ⟨_, rfl, ?_⟩
    rw [hn]
    exact ⟨rfl, rfl, rfl⟩
  · exact congrArg Host.Outcome.next (by rw [slewEnd, hs]; rfl)
  · obtain ⟨koff, kpres, klast, ksrc⟩ := ppsEdge_registers s sub
    refine ⟨_, rfl, koff, klast, ?_, fun h => ?_, fun h => ?_⟩
    · rw [kpres, nearEdge_iff]
    · rw [ksrc, if_pos h]
    · rw [ksrc, if_neg h, kpres]
  · obtain ⟨ns, sec, he⟩ := ppsEdge_time sub hs ((nearEdge_iff s).mpr hn) hx
    refine ⟨_, rfl, ?_⟩
    rw [he, hoff, timeSample_slew (s := s.edgeSeen sub) ns sec hv hx]
    refine ⟨rfl, rfl, rfl, rfl, rfl, fun h => if_pos h, fun h => ?_, rfl⟩
    dsimp only
    rw [if_neg (Nat.not_lt_of_le h)]
    split
    · simp [*]
    · simp [*]
      rfl
  · exact ⟨_, rfl, timeLockTimeout_elette hs⟩
  · refine ⟨_, rfl, ?_⟩
    rw [timeLockTimeout_pps hs]
    exact ⟨rfl, rfl, rfl, rfl⟩
  · refine ⟨_, rfl, ?_⟩
    rw [frequencyLockLoss_unlocked hl, setLocks_time, setLocks_raised, if_pos hl]
    refine ⟨rfl, rfl, ?_⟩
    by_cases hf : s.time.flock = true
    · simp [m, hf]
    · simp [m, hf]
  · exact congrArg Host.Outcome.next (if_pos hl)
  · refine congrArg Host.Outcome.next ?_
    unfold ppsOutput
    simp only [Bool.decide_and, Bool.decide_eq_true, ← Bool.and_assoc]
    rfl

end

/-! # What supplies, resets and monitors share: the part of the state outside the fast domain -/

section
open Sys2Proof Sys2Proof.Machine

namespace Sys2Proof.Machine

/-! ## The state outside the fast domain

`Aon` is what the operations of the host interface, of links, of trace and of blocks leave as it is: each such operation has one equation here, and
an operation that changes a part of it says which. `counts` holds the counters that retention keeps (R594); of the journal it holds what commits
alone change. -/

structure Aon where
  supply : Supply
  boot : Boot
  thermal : Thermal
  time : Time
  clkmon : Tab ClkMon
  unlock : Tab Unlock
  flash : Tab Nat
  dirty : List Dirty
  repair : List RepairEntry
  restricted : Bool
  override : Bool
  keys : Tab (List Byte)
  settings : Tab Nat
  lastPlanId : BitVec 32
  acy : Nat
  ring : Tab (List Byte)
  next : W64
  gen : W64
  counts : Nat → Nat
  plan : PlanSt
  dies : Tab Nat

/-- The counters that retention keeps, and 0 for any other (R594). -/
def retainedCounts (t : Tab Nat) (key : Nat) : Nat := if retainedCount key then look 0 t key else 0

def State.aon (s : State) : Aon where
  supply := s.supply
  boot := s.boot
  thermal := s.thermal
  time := s.time
  clkmon := s.clkmon
  unlock := s.unlock
  flash := s.flash
  dirty := s.dirty
  repair := s.repair
  restricted := s.restricted
  override := s.override
  keys := s.keys
  settings := s.settings
  lastPlanId := s.lastPlanId
  acy := s.acy
  ring := s.jnl.ring
  next := s.jnl.next
  gen := s.jnl.gen
  counts := retainedCounts s.health
  plan := s.plan
  dies := s.dies

/-! ## Folds and cases -/

/-- A fold whose steps keep a part of the state keeps it. -/
theorem foldl_keeps {α β γ : Type} (p : α → γ) {f : α → β → α} (h : ∀ s x, p (f s x) = p s) (l : List β) (s : α) : p (l.foldl f s) = p s := by
  induction l generalizing s with
  | nil => rfl
  | cons x l ih => rw [List.foldl_cons, ih, h]

section
variable (s : State)

theorem aon_ite {p : Prop} [Decidable p] {t u : State} {a : Aon} (ht : t.aon = a) (hu : u.aon = a) : (if p then t else u).aon = a := by
  split
  · exact ht
  · exact hu

theorem eachPort_aon {f : State → Nat → State} (h : ∀ s n, (f s n).aon = s.aon) : (s.eachPort f).aon = s.aon := foldl_keeps State.aon h _ s

theorem eachListed_aon {f : State → BlockId → State} (h : ∀ s b, (f s b).aon = s.aon) : (s.eachListed f).aon = s.aon := foldl_keeps State.aon h _ s

theorem OnlyBlock.aon {b : BlockId} {s t : State} (h : OnlyBlock b s t) : t.aon = s.aon := by
  have k := congrArg State.aon h.1
  exact k

/-! ## Counters -/

theorem retainedCounts_store {t : Tab Nat} {key : Nat} (v : Nat) (h : retainedCount key = false) :
    retainedCounts (store 0 t key v) = retainedCounts t := by
  funext n
  by_cases hn : n = key
  · rw [retainedCounts, retainedCounts, hn, h]
    rfl
  · rw [retainedCounts, retainedCounts, look_store_ne 0 t v hn]

/-- A count that retention does not keep. -/
theorem bump_aon {index sub : Nat} (n : Nat) (h : retainedCount (256 * index + sub) = false) : (s.bump index sub n).aon = s.aon := by
  simp only [State.bump, State.keepCounter, h, Bool.false_eq_true, if_false, State.aon, retainedCounts_store _ h]

/-- One that it keeps counts up to its largest value (R611). -/
theorem bump_aon_retained {index sub : Nat} (n : Nat) (h : retainedCount (256 * index + sub) = true) :
    (s.bump index sub n).aon =
      { s.aon with counts := Function.update s.aon.counts (256 * index + sub) ((s.bump index sub n).counter index sub) } := by
  have hc : retainedCounts (s.bump index sub n).health =
      Function.update s.aon.counts (256 * index + sub) ((s.bump index sub n).counter index sub) := by
    funext key
    by_cases hk : key = 256 * index + sub
    · rw [hk, Function.update_self, retainedCounts, if_pos h]
      rfl
    · rw [Function.update_of_ne hk]
      simp only [retainedCounts, State.bump, keepCounter_health, look_store_ne _ _ _ hk, State.aon]
  rw [← hc]
  simp only [State.bump, State.keepCounter, h, if_true]
  rfl

theorem bumpTerm_aon {key : Nat} (n : Nat) (h : retainedCount key = false) : (s.bumpTerm key n).aon = s.aon := by
  simp only [State.bumpTerm, State.aon, retainedCounts_store _ h]

/-! ## The journal and the books -/

@[simp] theorem settleBook_aon (index : Nat) (ok : Bool) (terms : List Nat) : (s.settleBook index ok terms).aon = s.aon := rfl

@[simp] theorem openBook_aon (index : Nat) : (s.openBook index).aon = s.aon := rfl

@[simp] theorem raisePath_aon (path kind : Nat) (ref result tag : W64) : (s.raisePath path kind ref result tag).aon = s.aon := by
  have h : (s.jnl.accept ⟨BitVec.ofNat 16 kind, ref, result, tag, s.time64, s.recFlags ||| BitVec.ofNat 16 (8 * path)⟩).gen = s.jnl.gen := by
    unfold Jnl.accept
    dsimp only
    split <;> rfl
  simp only [State.raisePath, State.openBook, State.aon, accept_ring, accept_next, h]

@[simp] theorem raise_aon (kind : Nat) (ref result tag : W64) : (s.raise kind ref result tag).aon = s.aon := raisePath_aon s 0 kind ref result tag

@[simp] theorem settleEvents_aon : (s.settleEvents).aon = s.aon := settleBook_aon s _ _ _

@[simp] theorem commitRec_aon (r : Rec) : (s.commitRec r).aon = { s.aon with
    ring := put s.jnl.ring (s.jnl.next.toNat % 4096) (recordBytes s.jnl.next s.jnl.gen (if 0x10 ≤ r.ty.toNat then { r with planId := s.planId } else r))
    next := s.jnl.next + 1 } :=
  rfl

@[simp] theorem modHif_aon (f : Hif → Hif) : (s.modHif f).aon = s.aon := rfl

@[simp] theorem modEpoch_aon (f : Epoch → Epoch) : (s.modEpoch f).aon = s.aon := rfl

@[simp] theorem modJnl_holding_aon (f : Option (Rec × Cmd) → Option (Rec × Cmd)) : (s.modJnl fun j => { j with holding := f j.holding }).aon = s.aon :=
  rfl

@[simp] theorem modJnl_emptied_aon : (s.modJnl fun j => { j with cmdRecs := [], holding := none }).aon = s.aon := rfl

@[simp] theorem modTrace_aon (f : TraceSys → TraceSys) : (s.modTrace f).aon = s.aon := rfl

@[simp] theorem modSup_aon (f : Supply → Supply) : (s.modSup f).aon = { s.aon with supply := f s.supply } := rfl

@[simp] theorem modBoot_aon (f : Boot → Boot) : (s.modBoot f).aon = { s.aon with boot := f s.boot } := rfl

@[simp] theorem modTime_aon (f : Time → Time) : (s.modTime f).aon = { s.aon with time := f s.time } := rfl

@[simp] theorem modTherm_aon (f : Thermal → Thermal) : (s.modTherm f).aon = { s.aon with thermal := f s.thermal } := rfl

@[simp] theorem setPort_aon (p : Nat) (x : DPort) : (s.setPort p x).aon = s.aon := rfl

@[simp] theorem modPort_aon (p : Nat) (f : DPort → DPort) : (s.modPort p f).aon = s.aon := rfl

@[simp] theorem setPll_aon (q : Nat) (p : QPll) : (s.setPll q p).aon = s.aon := rfl

@[simp] theorem setBlk_aon (b : BlockId) (x : Block) : (s.setBlk b x).aon = s.aon := rfl

@[simp] theorem modBlk_aon (b : BlockId) (f : Block → Block) : (s.modBlk b f).aon = s.aon := rfl

@[simp] theorem mapAll_aon (f : Block → Block) : (s.mapAll f).aon = s.aon := rfl

@[simp] theorem mapQuarter_aon (q : Nat) (f : Block → Block) : (s.mapQuarter q f).aon = s.aon := rfl

@[simp] theorem charge_aon (row : Nat) (b : BitVec 16) : (s.charge row b).aon = s.aon := aon_ite rfl rfl

@[simp] theorem timeEvent_aon (code : Nat) (old : W64) : (s.timeEvent code old).aon = s.aon := raise_aon s _ _ _ _

@[simp] theorem setLocks_aon (t f : Bool) (old : W64) : (s.setLocks t f old).aon = { s.aon with time := { s.time with tlock := t, flock := f } } := by
  unfold State.setLocks
  dsimp only
  split <;> split <;> simp

/-! ## The host interface -/

@[simp] theorem hostWrite_aon (a : Nat) (l : List Byte) : (s.hostWrite a l).aon = s.aon := rfl

@[simp] theorem raiseVector_aon (v : BitVec 6) : (s.raiseVector v).aon = s.aon := aon_ite rfl rfl

@[simp] theorem hifEvent_aon (n : Nat) : (s.hifEvent n).aon = s.aon := by
  unfold State.hifEvent
  exact aon_ite (raiseVector_aon _ _) rfl

@[simp] theorem raiseThermal_aon (kind ref code : Nat) : (s.raiseThermal kind ref code).aon = s.aon := by simp [State.raiseThermal]

@[simp] theorem supplyEvent_aon (rail code : Nat) : (s.supplyEvent rail code).aon = s.aon := raiseThermal_aon s _ _ _

@[simp] theorem settleQueues_aon : (s.settleQueues).aon = s.aon := settleBook_aon s _ _ _

@[simp] theorem modQueue_aon (q : QueueId) (f : Queue → Queue) : (s.modQueue q f).aon = s.aon := rfl

@[simp] theorem modCmd_aon (seq : W64) (f : Cmd → Cmd) : (s.modCmd seq f).aon = s.aon := rfl

@[simp] theorem abandonCmd_aon (c : Cmd) (reason : Nat) : (s.abandonCmd c reason).aon = s.aon := rfl

@[simp] theorem noteBp_aon : (s.noteBp).aon = s.aon := by
  unfold State.noteBp
  split <;> simp

@[simp] theorem disableQueue_aon (q : QueueId) (reason : Nat) : (s.disableQueue q reason).aon = s.aon := by
  have hterm := bumpTerm_aon s (key := 0xA002 * 256 + 0x10) (2 ^ 64 - (s.queue q).waiting) (by decide)
  refine aon_ite rfl ((foldl_keeps State.aon (fun s c => abandonCmd_aon s c reason) _ _).trans ?_)
  rw [modHif_aon, modJnl_holding_aon, modQueue_aon, settleQueues_aon, hterm]

@[simp] theorem clearHif_aon (reason : Nat) : (s.clearHif reason).aon = s.aon := by
  unfold State.clearHif
  exact (modHif_aon _ _).trans (foldl_keeps State.aon (fun s q => disableQueue_aon s (BitVec.ofNat 6 q) reason) _ s)

@[simp] theorem hifDown_aon : (s.hifDown).aon = s.aon := by
  unfold State.hifDown
  rw [noteBp_aon, settleQueues_aon, modHif_aon, modJnl_emptied_aon]
  exact (bumpTerm_aon _ _ (by decide)).trans (clearHif_aon s 3)

/-! ## Trace -/

@[simp] theorem traceGenerated_aon (n : Nat) : (s.traceGenerated n).aon = s.aon := bumpTerm_aon s n (by decide)

@[simp] theorem traceStored_aon : (s.traceStored).aon = s.aon := bumpTerm_aon s 1 (by decide)

@[simp] theorem traceDropped_aon : (s.traceDropped).aon = s.aon := bumpTerm_aon s 1 (by decide)

@[simp] theorem settleTrace_aon : (s.settleTrace).aon = s.aon := settleBook_aon s _ _ _

@[simp] theorem setSink_aon (e : Edge) (k : Sink) : (s.setSink e k).aon = s.aon := modTrace_aon s _

@[simp] theorem modEdge_aon (e : Edge) (f : EdgeDie → EdgeDie) : (s.modEdge e f).aon = s.aon := by cases e <;> rfl

@[simp] theorem sinkEntry_aon (e : Edge) (l : List Byte) : (s.sinkEntry e l).aon = s.aon :=
  aon_ite (setSink_aon _ _ _) ((setSink_aon _ _ _).trans (modEdge_aon s e _))

@[simp] theorem sinkDrop_aon (e : Edge) : (s.sinkDrop e).aon = s.aon := (traceDropped_aon _).trans (setSink_aon s e _)

@[simp] theorem sinkMarker_aon (e : Edge) : (s.sinkMarker e).aon = s.aon := by
  refine aon_ite rfl ((bump_aon _ 1 (by cases e <;> decide)).trans ?_)
  simp

@[simp] theorem sinkTake_aon (e : Edge) (l : List Byte) : (s.sinkTake e l).aon = s.aon :=
  aon_ite (traceDropped_aon s) (aon_ite (setSink_aon s e _) (sinkDrop_aon s e))

@[simp] theorem sinkStore_aon (e : Edge) (ok : Bool) : (sinkStore e ok s).aon = s.aon := by
  unfold sinkStore
  dsimp only
  split
  · rfl
  · exact aon_ite rfl (aon_ite (aon_ite (by simp) (by simp)) (aon_ite (by simp) (by simp)))

@[simp] theorem flushBlock_aon (b : BlockId) : (s.flushBlock b).aon = s.aon := by
  unfold State.flushBlock
  refine (foldl_keeps State.aon (fun s p => ?_) _ _).trans ?_
  · rw [sinkStore_aon, sinkTake_aon]
  · rw [traceGenerated_aon, modBlk_aon]

@[simp] theorem disarmBlock_aon (b : BlockId) : (s.disarmBlock b).aon = s.aon :=
  aon_ite ((modBlk_aon _ _ _).trans (trcOnly_traceClose b s _).only.aon) rfl

@[simp] theorem beginDisarm_aon : (s.beginDisarm).aon = s.aon := (modTrace_aon _ _).trans (eachListed_aon s disarmBlock_aon)

@[simp] theorem endDisarm_aon : (s.endDisarm).aon = s.aon := by
  have hmark : ∀ (s : State) (e : Edge), (if s.trace.host ∨ 64 ≤ (s.sink e).size then s.sinkMarker e else s).aon = s.aon :=
    fun s e => aon_ite (sinkMarker_aon s e) rfl
  exact (settleTrace_aon _).trans ((modTrace_aon _ _).trans ((hmark _ _).trans (hmark s _)))

@[simp] theorem disarmNow_aon : (s.disarmNow).aon = s.aon := by
  have hdrain : ∀ (s : State) (e : Edge), ((s.sink e).buf.foldl (fun s _ => sinkStore e true s) s).aon = s.aon :=
    fun s e => foldl_keeps State.aon (fun s _ => sinkStore_aon s e true) _ s
  refine aon_ite ?_ rfl
  rw [endDisarm_aon, eachListed_aon _ flushBlock_aon]
  refine (foldl_keeps State.aon (fun s t => ?_) _ _).trans ?_
  · rw [sinkStore_aon, sinkTake_aon]
  · exact (hdrain _ _).trans ((hdrain _ _).trans (beginDisarm_aon s))

/-! ## Links and the plan -/

@[simp] theorem noteLinkOut_aon (p : Nat) : (s.noteLinkOut p).aon = s.aon := aon_ite (charge_aon _ _ _) rfl

@[simp] theorem linkTo_aon (p : Nat) (st : LinkSt) (cause : Option (BitVec 4)) : (s.linkTo p st cause).aon = s.aon := by simp [State.linkTo]

@[simp] theorem linkClockLost_aon (p : Nat) : (s.linkClockLost p).aon = s.aon := aon_ite rfl (linkTo_aon s _ _ _)

@[simp] theorem planChange_aon (p : PlanSt) : (s.planChange p).aon = { s.aon with plan := p } := by
  unfold State.planChange
  simp only [hifEvent_aon, raise_aon]
  rfl

@[simp] theorem moveWords_aon {key : Nat} (n : Nat) (h : retainedCount key = false) : (s.moveWords key n).aon = s.aon := by
  exact aon_ite rfl ((openBook_aon _ _).trans (bumpTerm_aon s n h))

@[simp] theorem settleMessages_aon (sent recv flight : Nat) : (s.settleMessages sent recv flight).1.aon = s.aon := settleBook_aon s _ _ _

@[simp] theorem settleStop_aon : (s.settleStop).aon = s.aon := settleMessages_aon s _ _ _

@[simp] theorem discarded_aon (b : Tab Block) (o : Tab Outlet) (x y : EdgeDie) : ({ s with blocks := b, outlets := o, edge0 := x, edge1 := y } : State).aon = s.aon :=
  rfl

@[simp] theorem discardHeld_aon (now : Bool) : (s.discardHeld now).aon = s.aon := by
  have hq : ∀ (s : State) (p : Nat), (if (s.port p).queue = [] then s else s.setPort p (s.portNow p)).aon = s.aon :=
    fun s p => aon_ite rfl (setPort_aon s _ _)
  unfold State.discardHeld
  dsimp only
  exact (discarded_aon _ _ _ _ _).trans ((eachPort_aon _ fun s p => aon_ite rfl (modPort_aon s _ _)).trans ((moveWords_aon _ (key := ledgerReceived) _ (by decide)).trans (eachPort_aon s hq)))

@[simp] theorem enterHalted_aon (row : BitVec 8) (now : Bool) : (s.enterHalted row now).aon = { s.aon with plan := .halted } := by
  unfold State.enterHalted
  simp

@[simp] theorem settlePower_aon : (s.settlePower).aon = s.aon := by
  unfold State.settlePower
  exact aon_ite (settleBook_aon _ _ _ _) ((raiseThermal_aon _ _ _ _).trans (settleBook_aon _ _ _ _))

@[simp] theorem settleSlots_aon (epoch : W64) (void : Bool) : (s.settleSlots epoch void).aon = s.aon := rfl

@[simp] theorem settleVoid_aon (e : W64) (f : FaultRec) : (s.settleVoid e f).aon = s.aon := by
  unfold State.settleVoid
  rw [hifEvent_aon, raise_aon, bump_aon _ _ (by decide), settleSlots_aon]

@[simp] theorem settleRun_aon (e : W64) (f : FaultRec) : (s.settleRun e f).aon = s.aon := aon_ite (settleVoid_aon _ _ _) rfl

@[simp] theorem settleEpoch_aon : (s.settleEpoch).aon = s.aon := by
  unfold State.settleEpoch
  dsimp only
  split <;> simp

@[simp] theorem voidNow_aon (row : Nat) : (s.voidNow row).aon = s.aon := aon_ite (by simp) rfl

@[simp] theorem haltNow_aon (row : Nat) : (s.haltNow row).aon = if s.planMoves then { s.aon with plan := .halted } else s.aon := by
  unfold State.haltNow
  split <;> simp

@[simp] theorem quarterDeep_aon (q : Nat) : (s.quarterDeep q).aon = s.aon :=
  (mapQuarter_aon _ _ _).trans (eachListed_aon s fun s _ => aon_ite (onlyBlock_changeMode s .deep).aon rfl)

@[simp] theorem stopPll_aon (q : Nat) : (s.stopPll q).aon = s.aon := quarterDeep_aon s q

/-! ## Resets -/

@[simp] theorem hold_aon (src : Nat) : (s.hold src).aon = { s.aon with supply := { s.supply with holders := insertNat src s.supply.holders } } := rfl

@[simp] theorem lastReset_aon (src scope : Nat) : (s.lastReset src scope).aon = { s.aon with supply := { s.supply with src := BitVec.ofNat 4 src, scope := BitVec.ofNat 4 scope } } :=
  rfl

@[simp] theorem resetEvent_aon (src scope : Nat) : (s.resetEvent src scope).aon = { s.aon with supply := { s.supply with src := BitVec.ofNat 4 src, scope := BitVec.ofNat 4 scope } } :=
  (raise_aon _ _ _ _ _).trans (lastReset_aon s src scope)

@[simp] theorem portsHeld_aon : (s.portsHeld).aon = s.aon := eachPort_aon s fun s _ => aon_ite rfl (raise_aon s _ _ _ _)

end

end Sys2Proof.Machine
end

/-! # The journal writer (R496, R526, R532 to R543): the proofs -/

section
open Sys2Proof Sys2Proof.Machine

namespace Sys2Proof.Machine

/-! ## Fields of a byte string -/

theorem leAt_here (n v : Nat) (r : List Byte) : leAt (leBytes n v ++ r) 0 n = v % 256 ^ n := by
  rw [leAt, List.drop_zero, List.take_append_of_le_length (by simp), List.take_of_length_le (by simp), leNat_leBytes]

theorem leAt_skip {k lo : Nat} (v : Nat) (r : List Byte) (n : Nat) (h : k ≤ lo) : leAt (leBytes k v ++ r) lo n = leAt r (lo - k) n := by
  rw [leAt, leAt, List.drop_append, leBytes_length, List.drop_of_length_le (by simpa using h), List.nil_append]

theorem leAt_end (n v : Nat) : leAt (leBytes n v) 0 n = v % 256 ^ n := by
  have h := leAt_here n v []
  rwa [List.append_nil] at h

/-! ## The bytes of a record (R526, R533) -/

section
variable (seq gen : W64) (r : Rec)

/-- The record without its checksum. -/
def recordBody : List Byte :=
  leBytes 8 seq.toNat ++ leBytes 8 r.time.toNat ++ leBytes 8 r.ref.toNat ++ leBytes 8 r.tag.toNat ++ leBytes 8 r.result.toNat
    ++ leBytes 4 r.planId.toNat ++ leBytes 4 r.digest.toNat ++ leBytes 2 r.opcode.toNat ++ [r.ty, r.queue] ++ leBytes 2 r.status.toNat
    ++ leBytes 2 r.flags.toNat ++ leBytes 2 seq.toNat ++ leBytes 2 gen.toNat

theorem recordBytes_eq : recordBytes seq gen r = recordBody seq gen r ++ leBytes 4 (crc32c (recordBody seq gen r)).toNat := rfl

theorem recordBody_length : (recordBody seq gen r).length = 60 := by simp [recordBody]

theorem record_seq : leAt (recordBytes seq gen r) 0 8 = seq.toNat := by
  simp only [recordBytes_eq, recordBody, List.append_assoc, leAt_here]
  exact Nat.mod_eq_of_lt seq.isLt

theorem record_time : leAt (recordBytes seq gen r) 8 8 = r.time.toNat := by
  simp only [recordBytes_eq, recordBody, List.append_assoc, leAt_skip, leAt_here, Nat.le_refl, Nat.sub_self]
  exact Nat.mod_eq_of_lt r.time.isLt

theorem record_ref : leAt (recordBytes seq gen r) 16 8 = r.ref.toNat := by
  simp only [recordBytes_eq, recordBody, List.append_assoc, leAt_skip, leAt_here, Nat.reduceLeDiff, Nat.reduceSub, Nat.le_refl, Nat.sub_self]
  exact Nat.mod_eq_of_lt r.ref.isLt

theorem record_tag : leAt (recordBytes seq gen r) 24 8 = r.tag.toNat := by
  simp only [recordBytes_eq, recordBody, List.append_assoc, leAt_skip, leAt_here, Nat.reduceLeDiff, Nat.reduceSub, Nat.le_refl, Nat.sub_self]
  exact Nat.mod_eq_of_lt r.tag.isLt

theorem record_result : leAt (recordBytes seq gen r) 32 8 = r.result.toNat := by
  simp only [recordBytes_eq, recordBody, List.append_assoc, leAt_skip, leAt_here, Nat.reduceLeDiff, Nat.reduceSub, Nat.le_refl, Nat.sub_self]
  exact Nat.mod_eq_of_lt r.result.isLt

theorem record_kind : leAt (recordBytes seq gen r) 48 2 = r.opcode.toNat := by
  simp only [recordBytes_eq, recordBody, List.append_assoc, leAt_skip, leAt_here, Nat.reduceLeDiff, Nat.reduceSub, Nat.le_refl, Nat.sub_self]
  exact Nat.mod_eq_of_lt r.opcode.isLt

theorem record_type : leAt (recordBytes seq gen r) 50 1 = r.ty.toNat := by
  simp only [recordBytes_eq, recordBody, List.append_assoc, leAt_skip, Nat.reduceLeDiff, Nat.reduceSub, Nat.le_refl, Nat.sub_self]
  simp [leAt, leNat]

/-- Words at an even place of the body, behind its two single bytes. -/
theorem leAt_pair (a b : Byte) (l : List Byte) {lo : Nat} (n : Nat) (h : 2 ≤ lo) : leAt ([a, b] ++ l) lo n = leAt l (lo - 2) n := by
  rw [leAt, leAt, List.drop_append, List.drop_of_length_le (by simpa using h), List.nil_append, List.length_cons, List.length_singleton]

theorem record_seqAgain : leAt (recordBytes seq gen r) 56 2 = seq.toNat % 65536 := by
  simp only [recordBytes_eq, recordBody, List.append_assoc, leAt_skip, leAt_pair, leAt_here, Nat.reduceLeDiff, Nat.reduceSub, Nat.le_refl,
    Nat.sub_self, Nat.reducePow]

theorem record_gen : leAt (recordBytes seq gen r) 58 2 = gen.toNat % 65536 := by
  simp only [recordBytes_eq, recordBody, List.append_assoc, leAt_skip, leAt_pair, leAt_here, Nat.reduceLeDiff, Nat.reduceSub, Nat.le_refl,
    Nat.sub_self, Nat.reducePow]

theorem record_seqLow : leAt (recordBytes seq gen r) 0 2 = seq.toNat % 65536 := by
  have hsplit : leBytes 8 seq.toNat = leBytes 2 seq.toNat ++ leBytes 6 (seq.toNat / 256 / 256) := rfl
  simp only [recordBytes_eq, recordBody, List.append_assoc, hsplit, leAt_here, Nat.reducePow]

theorem record_crc : leAt (recordBytes seq gen r) 60 4 = (crc32c ((recordBytes seq gen r).take 60)).toNat := by
  have hlen := recordBody_length seq gen r
  have htake : (recordBytes seq gen r).take 60 = recordBody seq gen r := by
    rw [recordBytes_eq, List.take_append_of_le_length (by omega), List.take_of_length_le (by omega)]
  rw [htake, recordBytes_eq, leAt, List.drop_append, List.drop_of_length_le (by omega), hlen, Nat.sub_self, List.nil_append, List.drop_zero,
    List.take_of_length_le (by simp), leNat_leBytes]
  exact Nat.mod_eq_of_lt (crc32c (recordBody seq gen r)).isLt

/-- The checks of R533 find a record in its slot valid. -/
theorem validRecord_recordBytes (h : r.ty ≠ 0) : validRecord (seq.toNat % 4096) gen (recordBytes seq gen r) = true := by
  have hty : r.ty.toNat ≠ 0 := fun h0 => h (BitVec.eq_of_toNat_eq h0)
  simp only [validRecord, record_type, record_seqAgain, record_seqLow, record_seq, record_gen, Bool.and_eq_true, decide_eq_true_eq]
  exact ⟨⟨⟨⟨hty, trivial⟩, trivial⟩, trivial⟩, record_crc seq gen r⟩

end

/-! ## What a commit leaves (R532) -/

/-- The content of a record at its commit: a record of no command takes the plan identifier of now. -/
def Rec.committed (s : State) (r : Rec) : Rec := if 0x10 ≤ r.ty.toNat then { r with planId := s.planId } else r

theorem committed_command (s : State) {r : Rec} (h : r.ty.toNat < 0x10) : r.committed s = r := if_neg (Nat.not_le_of_lt h)

/-- Journal `j` with one record more. -/
structure Took (j k : Jnl) (r : Rec) : Prop where
  next : k.next = j.next + 1
  slot : k.slot (j.next.toNat % 4096) = recordBytes j.next j.gen r
  others : ∀ n, n ≠ j.next.toNat % 4096 → k.slot n = j.slot n
  gen : k.gen = j.gen

theorem took_commitRec (s : State) (r : Rec) : Took s.jnl (s.commitRec r).jnl (r.committed s) where
  next := rfl
  slot := look_put_same _ _ _ _
  others := fun _ h => look_put_ne _ _ _ h
  gen := rfl

/-- What changes neither the slots nor their count and generation. -/
theorem Took.of_same {j k l : Jnl} {r : Rec} (h : Took j k r) (hr : l.ring = k.ring) (hn : l.next = k.next) (hg : l.gen = k.gen) : Took j l r where
  next := hn.trans h.next
  slot := by rw [Jnl.slot, hr]; exact h.slot
  others := fun n hne => by rw [Jnl.slot, hr]; exact h.others n hne
  gen := hg.trans h.gen

/-- The journal that the commit starts from may differ in what a commit does not read. -/
theorem Took.to_same {i j k : Jnl} {r : Rec} (h : Took j k r) (hr : j.ring = i.ring) (hn : j.next = i.next) (hg : j.gen = i.gen) : Took i k r where
  next := by rw [h.next, hn]
  slot := by rw [← hn, ← hg]; exact h.slot
  others := fun n hne => by rw [h.others n (by rw [hn]; exact hne), Jnl.slot, Jnl.slot, hr]
  gen := h.gen.trans hg

theorem Took.of_aon {s t : State} {j : Jnl} {r : Rec} (h : Took j s.jnl r) (k : t.aon = s.aon) : Took j t.jnl r :=
  h.of_same (congrArg Aon.ring k) (congrArg Aon.next k) (congrArg Aon.gen k)

/-! ## Scheduling (R496) -/

/-- Commands of `t` differ from those of `s` in their phase alone, and their STARTED records wait behind the records of `s`. -/
structure Scheduled (s t : State) : Prop where
  cmds : ∃ f : Cmd → CmdPhase, t.hif = { s.hif with cmds := s.hif.cmds.map fun c => { c with phase := f c } }
  recs : ∃ l, t.jnl = { s.jnl with cmdRecs := s.jnl.cmdRecs ++ l }
  aon : t.aon = s.aon

theorem scheduled_refl (s : State) : Scheduled s s where
  cmds := ⟨Cmd.phase, by simp⟩
  recs := ⟨[], by simp⟩
  aon := rfl

theorem scheduled_trans {s t u : State} (h : Scheduled s t) (k : Scheduled t u) : Scheduled s u where
  cmds := by
    obtain ⟨f, hf⟩ := h.cmds
    obtain ⟨g, hg⟩ := k.cmds
    exact ⟨fun c => g { c with phase := f c }, by rw [hg, hf]; simp⟩
  recs := by
    obtain ⟨l, hl⟩ := h.recs
    obtain ⟨m, hm⟩ := k.recs
    exact ⟨l ++ m, by rw [hm, hl]; simp⟩
  aon := k.aon.trans h.aon

theorem scheduled_startCmd (s : State) (c : Cmd) : Scheduled s (s.startCmd c) where
  cmds := by
    refine ⟨fun d => if d.seq = c.seq then .starting else d.phase, ?_⟩
    have hmap : (s.hif.cmds.map fun d => if d.seq = c.seq then { d with phase := .starting } else d) =
        s.hif.cmds.map fun d => { d with phase := if d.seq = c.seq then .starting else d.phase } := by
      refine List.map_congr_left fun d _ => ?_
      split <;> rfl
    rw [← hmap]
    rfl
  recs := ⟨[s.cmdRecord c 2 0 0], rfl⟩
  aon := rfl

theorem scheduled_schedule (s : State) : Scheduled s s.schedule := by
  unfold State.schedule
  generalize s.hif.cmds.length = n
  induction n generalizing s with
  | zero => exact scheduled_refl s
  | succ n ih =>
    unfold State.startCmds
    split
    · exact scheduled_refl s
    · exact scheduled_trans (scheduled_startCmd s _) (ih _)

/-! ## The cases of the writer (R536) -/

section
variable {s : State}

theorem journalCommit_idle (hp : s.supply.pfw = false) (hc : s.jnl.cmdRecs = []) (hf : s.jnl.fifo = []) (hh : s.jnl.holding = none) :
    journalCommit s = s := by
  simp [journalCommit, hp, hc, hf, hh]

theorem journalCommit_cmd {r : Rec} {rest : List Rec} (hp : s.supply.pfw = false) (hc : s.jnl.cmdRecs = r :: rest) :
    journalCommit s = s.commitCmd r rest := by
  simp [journalCommit, hp, hc]

theorem journalCommit_item {i : Item} {rest : List Item} (hp : s.supply.pfw = false) (hc : s.jnl.cmdRecs = []) (hf : s.jnl.fifo = i :: rest)
    (hh : s.jnl.holding = none ∨ s.jnl.lastEvent = false) : journalCommit s = s.commitItem i rest := by
  cases hholding : s.jnl.holding with
  | none => simp [journalCommit, hp, hc, hf, hholding]
  | some h =>
    have hl := hh.resolve_left (by simp [hholding])
    simp [journalCommit, hp, hc, hf, hholding, hl]

theorem journalCommit_holding {r : Rec} {c : Cmd} (hp : s.supply.pfw = false) (hc : s.jnl.cmdRecs = []) (hh : s.jnl.holding = some (r, c))
    (hf : s.jnl.fifo = [] ∨ s.jnl.lastEvent = true) : journalCommit s = s.commitAccepted r c := by
  cases hfifo : s.jnl.fifo with
  | nil => simp [journalCommit, hp, hc, hfifo, hh]
  | cons i l =>
    have hl := hf.resolve_left (by simp [hfifo])
    simp [journalCommit, hp, hc, hfifo, hh, hl]

/-! ## A command's record commits (R496, R497, R538) -/

theorem findCmd_seq {n : W64} {c : Cmd} (h : s.findCmd n = some c) : c.seq = n := by
  have := List.find?_some h
  simpa using this

/-- The command that a change of its own entry leaves under its number. -/
theorem findCmd_modCmd {n : W64} {c : Cmd} {f : Cmd → Cmd} (hf : (f c).seq = n) (h : s.findCmd n = some c) : (s.modCmd n f).findCmd n = some (f c) := by
  have hc := findCmd_seq h
  unfold State.findCmd State.modCmd State.modHif at *
  dsimp only
  generalize s.hif.cmds = l at h
  induction l with
  | nil => simp at h
  | cons d l ih =>
    by_cases hd : d.seq = n
    · rw [List.find?_cons_of_pos (by simpa using hd)] at h
      obtain rfl : d = c := by simpa using h
      rw [List.map_cons, if_pos hd, List.find?_cons_of_pos (by simpa using hf)]
    · rw [List.find?_cons_of_neg (by simpa using hd)] at h
      rw [List.map_cons, if_neg hd, List.find?_cons_of_neg (by simpa using hd)]
      exact ih h

end

/-- The record of a command committed, before the command moves on. -/
def State.cmdRecorded (s : State) (r : Rec) (rest : List Rec) : State := ((s.modJnl fun j => { j with cmdRecs := rest }).commitRec r).settleEvents

theorem commitCmd_eq (s : State) (r : Rec) (rest : List Rec) : s.commitCmd r rest = (s.cmdRecorded r rest).cmdCommitted s.jnl.next r := rfl

theorem cmdRecorded_took (s : State) {r : Rec} (rest : List Rec) (h : r.ty.toNat < 0x10) : Took s.jnl (s.cmdRecorded r rest).jnl r := by
  have k := took_commitRec (s.modJnl fun j => { j with cmdRecs := rest }) r
  rw [committed_command _ h] at k
  exact k.to_same rfl rfl rfl

/-- A STARTED record starts its command. -/
theorem cmdCommitted_started {s : State} {r : Rec} {c : Cmd} (seq : W64) (h : s.findCmd r.ref = some c) (ht : r.ty = 2) :
    s.cmdCommitted seq r = s.modCmd r.ref fun c => { c with phase := .started, began := true } := by
  rw [State.cmdCommitted, h]
  simp only [ht, if_true, findCmd_seq h]

/-- The end record of a command whose queue is enabled brings its completion entry, and commands that wait may start. -/
theorem cmdCommitted_ended {s : State} {r : Rec} {c : Cmd} (seq : W64) (h : s.findCmd r.ref = some c) (hg : c.gone = 0) (ht : r.ty = 3 ∨ r.ty = 4) :
    s.cmdCommitted seq r = ((s.modCmd c.seq fun c => { c with phase := .ended, endSeq := seq }).modHif fun x =>
      { x with comps := x.comps ++ [⟨c.queue, c.tag, seq, c.result, c.status, c.sqHead, c.noirq, some c.seq⟩] }).schedule := by
  have h2 : r.ty ≠ 2 := by rcases ht with h | h <;> rw [h] <;> decide
  have h5 : r.ty ≠ 5 := by rcases ht with h | h <;> rw [h] <;> decide
  rw [State.cmdCommitted, h]
  simp only [h2, if_false, hg, ne_eq, not_true_eq_false, h5, or_self]

/-! ## Events and acceptance -/

theorem commitItem_event (s : State) (e : Event) (rest : List Item) : ∃ j : Jnl, Took s.jnl j { e.record with planId := s.planId } ∧
    (s.commitItem (.event e) rest).jnl = { j with recorded := s.jnl.recorded + 1, fifo := rest, holding := s.jnl.holding, lastEvent := true } := by
  refine ⟨_, (took_commitRec (s.modJnl fun j => { j with fifo := rest, lastEvent := true }) e.record).to_same rfl rfl rfl, rfl⟩

/-- A summary commits and is shown to the host (R477). -/
theorem commitItem_summary (s : State) (c : Summary) (rest : List Item) : ∃ j : Jnl, Took s.jnl j { c.record with planId := s.planId } ∧
    (s.commitItem (.summary c) rest).jnl = { j with summarised := s.jnl.summarised + c.count, fifo := rest, holding := s.jnl.holding, lastEvent := true } ∧
    (s.commitItem (.summary c) rest).hif.evtPend.getLsbD 3 = true := by
  have h : s.commitItem (.summary c) rest = (((((s.modJnl fun j => { j with fifo := rest, lastEvent := true }).commitRec c.record).modJnl fun j =>
      { j with summarised := j.summarised + c.count }).settleEvents).hifEvent evtSummary) := rfl
  refine ⟨_, (took_commitRec (s.modJnl fun j => { j with fifo := rest, lastEvent := true }) c.record).to_same rfl rfl rfl, ?_, ?_⟩
  · rw [h, hifEvent_jnl]
    rfl
  · rw [h]
    exact hifEvent_pending _ (by decide)

theorem noteBp_jnl (s : State) : s.noteBp.jnl = s.jnl := by
  unfold State.noteBp
  split <;> simp

/-- An event shown to the host leaves its queues and commands. -/
theorem hifEvent_lists (s : State) (n : Nat) : (s.hifEvent n).hif.queues = s.hif.queues ∧ (s.hifEvent n).hif.cmds = s.hif.cmds := by
  unfold State.hifEvent State.raiseVector
  dsimp only
  split
  · split <;> exact ⟨rfl, rfl⟩
  · exact ⟨rfl, rfl⟩

theorem noteBp_lists (s : State) : s.noteBp.hif.queues = s.hif.queues ∧ s.noteBp.hif.cmds = s.hif.cmds := by
  unfold State.noteBp
  split
  · exact hifEvent_lists _ _
  · exact ⟨rfl, rfl⟩
  · exact ⟨rfl, rfl⟩

/-- With no entry fetched there is none to decide. -/
theorem decideAll_of_none {s : State} (h : ∀ e ∈ s.hif.queues, e.2.fetched = []) : s.decideAll = s := by
  unfold State.decideAll
  generalize s.hif.queues = l at h
  induction l with
  | nil => rfl
  | cons e l ih =>
    obtain ⟨he, hl⟩ := List.forall_mem_cons.mp h
    rw [List.foldl_cons, if_pos he, ih hl]

/-- The state as the ACCEPTED record commits, with the books of the queues (R495). -/
def State.acceptRecorded (s : State) (r : Rec) : State :=
  (((((s.modJnl fun j => { j with holding := none, lastEvent := false }).commitRec r).settleEvents.hostTerm 0x11 1).hostTerm 0x13 1).hostTerm 0x15
    1).settleQueues

/-- The command that is accepted. -/
def State.acceptedCmd (s : State) (r : Rec) (c : Cmd) : Cmd := { c with seq := s.jnl.next, time := (s.acceptRecorded r).timeNs }

/-- It stands among the commands of the host interface. -/
def State.accepted (s : State) (r : Rec) (c : Cmd) : State := (s.acceptRecorded r).modHif fun h => { h with cmds := h.cmds ++ [s.acceptedCmd r c] }

theorem commitAccepted_eq {s : State} (r : Rec) {c : Cmd} (h : c.gone = 0) : s.commitAccepted r c = (s.accepted r c).schedule.noteBp.decideAll := by
  unfold State.commitAccepted
  dsimp only
  rw [if_pos h]
  rfl

theorem acceptRecorded_aon (s : State) (r : Rec) : (s.acceptRecorded r).aon = (s.commitRec r).aon := by
  unfold State.acceptRecorded State.hostTerm
  rw [settleQueues_aon, bumpTerm_aon _ _ (by decide), bumpTerm_aon _ _ (by decide), bumpTerm_aon _ _ (by decide), settleEvents_aon]
  rfl

/-- System time in ns is a matter of the time base. -/
theorem timeNs_of_time {s t : State} (h : t.time = s.time) : t.timeNs = s.timeNs := by rw [State.timeNs, State.timeNs, h]

theorem acceptedCmd_time (s : State) (r : Rec) (c : Cmd) : (s.acceptedCmd r c).time = s.timeNs :=
  timeNs_of_time (congrArg Aon.time (acceptRecorded_aon s r))

theorem accepted_took (s : State) {r : Rec} (c : Cmd) (h : r.ty.toNat < 0x10) : Took s.jnl (s.accepted r c).jnl r := by
  have k := took_commitRec (s.modJnl fun j => { j with holding := none, lastEvent := false }) r
  rw [committed_command _ h] at k
  exact k.to_same rfl rfl rfl

end Sys2Proof.Machine

/-- Settles O47: the checks of R533 pass for the bytes of a record, and each case of the writer commits one record. -/
theorem journalWriter : Obligations.JournalWriter := by
  refine ⟨fun n gen r hty => ⟨recordBytes_length n gen r, validRecord_recordBytes n gen r hty, record_seq n gen r, record_time n gen r, record_ref n gen r,
    record_tag n gen r, record_result n gen r⟩, fun s => ?_⟩
  intro j took
  have took_of : ∀ {t : State} {r : Rec}, Took s.jnl t.jnl r → took t r := fun h => ⟨h.next, h.slot, h.others, h.gen⟩
  refine ⟨fun hp => ?_, fun hp => ⟨fun hc hf hh => ?_, fun r rest c hc hfind hg => ⟨fun ht => ?_, fun ht => ?_⟩, fun e rest hc hf hh => ?_,
    fun c rest hc hf hh => ?_, fun r c hc hh hf ht hg hq => ?_⟩⟩
  · exact congrArg Host.Outcome.next (if_pos hp)
  · exact congrArg Host.Outcome.next (journalCommit_idle hp hc hf hh)
  · have hfind' : (s.cmdRecorded r rest).findCmd r.ref = some c := hfind
    have hseq := findCmd_seq hfind
    refine ⟨_, congrArg Host.Outcome.next (journalCommit_cmd hp hc), ?_⟩
    rw [commitCmd_eq, cmdCommitted_started _ hfind' ht]
    exact ⟨took_of (cmdRecorded_took s rest (by simp [ht])), rfl, findCmd_modCmd (c := c) hseq hfind'⟩
  · have hfind' : (s.cmdRecorded r rest).findCmd r.ref = some c := hfind
    have hlt : r.ty.toNat < 0x10 := by rcases ht with h | h <;> simp [h]
    have hend := cmdCommitted_ended s.jnl.next hfind' hg ht
    have hsched := scheduled_schedule (((s.cmdRecorded r rest).modCmd c.seq fun c => { c with phase := .ended, endSeq := s.jnl.next }).modHif fun x =>
      { x with comps := x.comps ++ [⟨c.queue, c.tag, s.jnl.next, c.result, c.status, c.sqHead, c.noirq, some c.seq⟩] })
    obtain ⟨f, hcmds⟩ := hsched.cmds
    obtain ⟨l, hrecs⟩ := hsched.recs
    have htook := cmdRecorded_took s rest hlt
    refine ⟨_, l, congrArg Host.Outcome.next (journalCommit_cmd hp hc), ?_⟩
    rw [commitCmd_eq, hend]
    refine ⟨took_of (htook.of_same ?_ ?_ ?_), ?_, ?_⟩
    · rw [hrecs]; rfl
    · rw [hrecs]; rfl
    · rw [hrecs]; rfl
    · rw [hrecs]; rfl
    · rw [hcmds]; rfl
  · obtain ⟨j', htook, hj⟩ := commitItem_event s e rest
    refine ⟨_, congrArg Host.Outcome.next (journalCommit_item hp hc hf hh), took_of (htook.of_same ?_ ?_ ?_), ?_⟩
    · rw [hj]
    · rw [hj]
    · rw [hj]
    · rw [hj]
      exact ⟨rfl, rfl, rfl, rfl⟩
  · obtain ⟨j', htook, hj, hshown⟩ := commitItem_summary s c rest
    refine ⟨_, congrArg Host.Outcome.next (journalCommit_item hp hc hf hh), took_of (htook.of_same ?_ ?_ ?_), ?_, ?_, hshown⟩
    · rw [hj]
    · rw [hj]
    · rw [hj]
    · rw [hj]
    · rw [hj]
  · have hlt : r.ty.toNat < 0x10 := by simp [ht]
    have hsched := scheduled_schedule (s.accepted r c)
    obtain ⟨f, hcmds⟩ := hsched.cmds
    obtain ⟨l, hrecs⟩ := hsched.recs
    have hnone : ∀ e ∈ (s.accepted r c).schedule.noteBp.hif.queues, e.2.fetched = [] := by
      rw [(noteBp_lists _).1, hcmds]
      exact hq
    have haon : (s.accepted r c).schedule.noteBp.aon = (s.commitRec r).aon := by
      rw [noteBp_aon, hsched.aon, State.accepted, modHif_aon, acceptRecorded_aon]
    have hpfw : (s.accepted r c).schedule.noteBp.supply.pfw = false := (congrArg (fun a : Aon => a.supply.pfw) haon).trans hp
    refine ⟨_, congrArg Host.Outcome.next (journalCommit_holding hp hc hh hf), ?_⟩
    rw [commitAccepted_eq r hg, decideAll_of_none hnone, State.bp, hpfw, noteBp_jnl, hrecs, (noteBp_lists _).2, hcmds]
    refine ⟨took_of ?_, rfl, rfl, rfl, rfl, ?_⟩
    · rw [noteBp_jnl]
      exact (accepted_took s c hlt).of_same (by rw [hrecs]) (by rw [hrecs]) (by rw [hrecs])
    · exact ⟨_, List.mem_map_of_mem (List.mem_append_right _ (List.mem_singleton_self _)), rfl, rfl, rfl, hg, acceptedCmd_time s r c⟩

end

/-! # What a reset of the fast domain leaves (R546, R698 to R702) -/

section
open Sys2Proof Sys2Proof.Machine

namespace Sys2Proof.Machine

/-! ## Tables -/

/-- A filter that keeps every entry of a key leaves what stands under it. -/
theorem look_filter {α : Type} (d : α) (t : Tab α) (p : Nat × α → Bool) {k : Nat} (h : ∀ e, e.1 = k → p e = true) : look d (t.filter p) k = look d t k := by
  induction t with
  | nil => rfl
  | cons e t ih =>
    obtain ⟨j, v⟩ := e
    by_cases hk : k = j
    · rw [List.filter_cons_of_pos (h (j, v) hk.symm), look, look, if_pos hk, if_pos hk]
    · rw [show look d ((j, v) :: t) k = look d t k from if_neg hk, ← ih]
      by_cases hp : p (j, v) = true
      · rw [List.filter_cons_of_pos hp]
        exact if_neg hk
      · rw [List.filter_cons_of_neg hp]

/-- A filter that keeps no entry of a key leaves nothing under it. -/
theorem look_filter_out {α : Type} (d : α) (t : Tab α) (p : Nat × α → Bool) {k : Nat} (h : ∀ e, e.1 = k → p e = false) : look d (t.filter p) k = d := by
  induction t with
  | nil => rfl
  | cons e t ih =>
    by_cases hp : p e = true
    · obtain ⟨j, v⟩ := e
      have hk : k ≠ j := fun hk => by simp [h (j, v) hk.symm] at hp
      rw [List.filter_cons_of_pos hp]
      exact (if_neg hk).trans ih
    · rw [List.filter_cons_of_neg hp, ih]

theorem mem_insertNat (n m : Nat) (l : List Nat) : m ∈ insertNat n l ↔ m = n ∨ m ∈ l := by
  induction l with
  | nil => simp [insertNat]
  | cons a l ih =>
    unfold insertNat
    split
    · simp
    · split
      · next h => subst h; simp
      · simp only [List.mem_cons, ih]
        tauto

/-! ## Reading one part -/

section
variable {s : State} {a : Aon} (h : s.aon = a)
include h

theorem supply_of_aon : s.supply = a.supply := congrArg Aon.supply h
theorem boot_of_aon : s.boot = a.boot := congrArg Aon.boot h
theorem thermal_of_aon : s.thermal = a.thermal := congrArg Aon.thermal h
theorem time_of_aon : s.time = a.time := congrArg Aon.time h
theorem clkmon_of_aon : s.clkmon = a.clkmon := congrArg Aon.clkmon h
theorem acy_of_aon : s.acy = a.acy := congrArg Aon.acy h
theorem plan_of_aon : s.plan = a.plan := congrArg Aon.plan h
theorem dies_of_aon : s.dies = a.dies := congrArg Aon.dies h
theorem lastPlanId_of_aon : s.lastPlanId = a.lastPlanId := congrArg Aon.lastPlanId h
theorem ring_of_aon : s.jnl.ring = a.ring := congrArg Aon.ring h
theorem next_of_aon : s.jnl.next = a.next := congrArg Aon.next h
theorem gen_of_aon : s.jnl.gen = a.gen := congrArg Aon.gen h

/-- A counter that retention keeps. -/
theorem counter_of_aon {index sub : Nat} (hr : retainedCount (256 * index + sub) = true) : s.counter index sub = a.counts (256 * index + sub) := by
  subst h
  exact (if_pos hr).symm

end

/-! ## What is gone with the fast domain (R701) -/

/-- Counters that retention keeps do not stand in the fast domain. -/
theorem fastCount_of_retained {key : Nat} (h : retainedCount key = true) : fastCount key = false := by
  have hk := of_decide_eq_true h
  have hs : sinceBind key = false := decide_eq_false (by simp only [ledgerSent, ledgerReceived]; omega)
  have hf : decide (key = 0x601003 ∨ key = 0x601103) = false := decide_eq_false (by omega)
  rw [fastCount, hs, hf]
  rfl

theorem retainedCounts_filter (t : Tab Nat) : retainedCounts (t.filter fun e => !fastCount e.1) = retainedCounts t := by
  funext key
  unfold retainedCounts
  split
  · next h => exact look_filter 0 t _ fun e he => by rw [he, fastCount_of_retained h]; rfl
  · rfl

section
variable (s : State)

@[simp] theorem fastCleared_aon : s.fastCleared.aon = { s.aon with plan := .empty, dies := [], boot := { s.boot with loaded := none } } := by
  simp only [State.fastCleared, State.aon, retainedCounts_filter]

/-- The journal has the slots `ring`, of which `next` is the next. -/
def Aon.logged (a : Aon) (ring : Tab (List Byte)) (next : W64) : Aon := { a with ring := ring, next := next }

/-- The last reset is that of `src`, over `scope`. -/
def Aon.lastReset (a : Aon) (src scope : Nat) : Aon := { a with supply := { a.supply with src := BitVec.ofNat 4 src, scope := BitVec.ofNat 4 scope } }

/-- The plan and the slot that the fast domain held are gone, and `n` resets are counted. -/
def Aon.fallen (a : Aon) (n : Nat) : Aon :=
  { a with plan := .empty, dies := [], boot := { a.boot with loaded := none }, counts := Function.update a.counts (256 * 0x2200 + 2) n }

/-- The resets of the fast domain, with the one that begins (R598). -/
def State.resetsCounted (s : State) : Nat := (s.portsHeld.disarmNow.hifDown.bump 0x2200 2).counter 0x2200 2

/-- What the fast domain's fall leaves outside it. -/
theorem fastDown_aon : s.fastDown.aon = s.aon.fallen s.resetsCounted := by
  have hb : (s.portsHeld.disarmNow.hifDown.bump 0x2200 2).aon =
      { s.aon with counts := Function.update s.aon.counts (256 * 0x2200 + 2) s.resetsCounted } := by
    have h := bump_aon_retained s.portsHeld.disarmNow.hifDown (index := 0x2200) (sub := 2) 1 (by decide)
    have hs : s.portsHeld.disarmNow.hifDown.aon = s.aon := by rw [hifDown_aon, disarmNow_aon, portsHeld_aon]
    rw [hs] at h
    exact h
  have hboot : (s.portsHeld.disarmNow.hifDown.bump 0x2200 2).boot = s.boot := boot_of_aon hb
  rw [State.fastDown, fastCleared_aon, hb, hboot]
  rfl

theorem commitRec_logged (r : Rec) : ∃ ring, (s.commitRec r).aon = s.aon.logged ring (s.jnl.next + 1) := ⟨_, commitRec_aon s r⟩

theorem resetRecord_aon (src scope : Nat) : ∃ ring, (s.resetRecord src scope).aon = (s.aon.lastReset src scope).logged ring (s.jnl.next + 1) := by
  unfold State.resetRecord
  dsimp only
  rw [settleEvents_aon]
  obtain ⟨ring, h⟩ := commitRec_logged ((s.lastReset src scope).modJnl fun j => { j with raised := j.raised + 1, recorded := j.recorded + 1 }) _
  exact ⟨ring, h⟩

theorem abandonLost_aon : ∃ ring next, s.abandonLost.aon = s.aon.logged ring next := by
  unfold State.abandonLost
  rw [modHif_aon]
  generalize s.hif.cmds = l
  induction l generalizing s with
  | nil => exact ⟨s.jnl.ring, s.jnl.next, rfl⟩
  | cons c l ih =>
    obtain ⟨ring, next, h⟩ := ih ((s.commitRec (s.cmdRecord c 5 (abandonResult c) 0)).settleEvents)
    obtain ⟨ring', h'⟩ := commitRec_logged s (s.cmdRecord c 5 (abandonResult c) 0)
    rw [settleEvents_aon, h'] at h
    exact ⟨ring, next, h⟩

/-- The boot state after a reset: the boot ROM and the rails go on, and any other start begins again with the edge dies. -/
def BootSt.afterReset : BootSt → BootSt
  | .flash => .flash
  | .recovery => .recovery
  | .rails => .rails
  | _ => .edge

theorem fastReset_of_up {src scope : Nat} (h : s.fastUp = true) :
    s.fastReset src scope = ((s.fastDown.resetRecord src scope).abandonLost).modBoot fun b => { b with st := s.boot.st.afterReset } := by
  rw [State.fastReset, if_pos h]
  refine congrArg (fun st : BootSt => ((s.fastDown.resetRecord src scope).abandonLost).modBoot fun b => { b with st := st }) ?_
  cases s.boot.st <;> rfl

theorem fastReset_of_down {src scope : Nat} (h : s.fastUp = false) : s.fastReset src scope = s.resetEvent src scope := by
  rw [State.fastReset, h]
  rfl

/-- What a source that takes the fast domain down leaves outside it. -/
theorem fastReset_aon_up {src scope : Nat} (h : s.fastUp = true) : ∃ ring next, (s.fastReset src scope).aon =
    { ((s.aon.fallen s.resetsCounted).lastReset src scope).logged ring next with boot := { s.boot with st := s.boot.st.afterReset, loaded := none } } := by
  obtain ⟨ring, hrec⟩ := resetRecord_aon s.fastDown src scope
  obtain ⟨ring', next, hlost⟩ := abandonLost_aon (s.fastDown.resetRecord src scope)
  rw [hrec, fastDown_aon] at hlost
  have hboot : (s.fastDown.resetRecord src scope).abandonLost.boot = { s.boot with loaded := none } := boot_of_aon hlost
  refine ⟨ring', next, ?_⟩
  rw [fastReset_of_up s h, modBoot_aon, hlost, hboot]
  rfl

theorem fastReset_aon_down {src scope : Nat} (h : s.fastUp = false) : (s.fastReset src scope).aon = s.aon.lastReset src scope := by
  rw [fastReset_of_down s h, resetEvent_aon]
  rfl

/-- A part of the state outside the fast domain that no source of a reset touches. -/
theorem fastReset_keeps {α : Type} (p : Aon → α) (hl : ∀ a ring next, p (a.logged ring next) = p a) (hr : ∀ a src scope, p (a.lastReset src scope) = p a)
    (hf : ∀ a n, p (a.fallen n) = p a) (hb : ∀ (a : Aon) (b : Boot), p { a with boot := b } = p a) (src scope : Nat) :
    p (s.fastReset src scope).aon = p s.aon := by
  cases h : s.fastUp with
  | true =>
    obtain ⟨ring, next, k⟩ := fastReset_aon_up s (src := src) (scope := scope) h
    rw [k, hb, hl, hr, hf]
  | false => rw [fastReset_aon_down s h, hr]

theorem fastReset_supply (src scope : Nat) :
    (s.fastReset src scope).supply = { s.supply with src := BitVec.ofNat 4 src, scope := BitVec.ofNat 4 scope } := by
  cases h : s.fastUp with
  | true =>
    obtain ⟨ring, next, k⟩ := fastReset_aon_up s (src := src) (scope := scope) h
    exact supply_of_aon k
  | false => exact supply_of_aon (fastReset_aon_down s h)

theorem fastReset_plan (src scope : Nat) : (s.fastReset src scope).plan = if s.fastUp then .empty else s.plan := by
  cases h : s.fastUp with
  | true =>
    obtain ⟨ring, next, k⟩ := fastReset_aon_up s (src := src) (scope := scope) h
    exact plan_of_aon k
  | false => exact plan_of_aon (fastReset_aon_down s h)

theorem fastReset_boot (src scope : Nat) : (s.fastReset src scope).boot =
    if s.fastUp then { s.boot with st := s.boot.st.afterReset, loaded := none } else s.boot := by
  cases h : s.fastUp with
  | true =>
    obtain ⟨ring, next, k⟩ := fastReset_aon_up s (src := src) (scope := scope) h
    exact boot_of_aon k
  | false => exact boot_of_aon (fastReset_aon_down s h)

theorem fastReset_thermal (src scope : Nat) : (s.fastReset src scope).thermal = s.thermal :=
  fastReset_keeps s Aon.thermal (fun _ _ _ => rfl) (fun _ _ _ => rfl) (fun _ _ => rfl) (fun _ _ => rfl) src scope

theorem fastReset_time (src scope : Nat) : (s.fastReset src scope).time = s.time :=
  fastReset_keeps s Aon.time (fun _ _ _ => rfl) (fun _ _ _ => rfl) (fun _ _ => rfl) (fun _ _ => rfl) src scope

theorem fastReset_clkmon (src scope : Nat) : (s.fastReset src scope).clkmon = s.clkmon :=
  fastReset_keeps s Aon.clkmon (fun _ _ _ => rfl) (fun _ _ _ => rfl) (fun _ _ => rfl) (fun _ _ => rfl) src scope

theorem fastReset_gen (src scope : Nat) : (s.fastReset src scope).jnl.gen = s.jnl.gen :=
  fastReset_keeps s Aon.gen (fun _ _ _ => rfl) (fun _ _ _ => rfl) (fun _ _ => rfl) (fun _ _ => rfl) src scope

/-- A held domain is down. -/
theorem hold_fastUp (src : Nat) : (s.hold src).fastUp = false := by
  have h : src ∈ insertNat src s.supply.holders := (mem_insertNat _ _ _).mpr (.inl rfl)
  refine decide_eq_false fun ⟨_, h0⟩ => ?_
  rw [show insertNat src s.supply.holders = [] from h0] at h
  exact List.not_mem_nil h

theorem hold_held (src : Nat) : src ∈ (s.hold src).supply.holders := (mem_insertNat _ _ _).mpr (.inl rfl)

end

end Sys2Proof.Machine
end

/-! # The clock monitors (R628, R631, R674, R675): the proofs -/

section
open Sys2Proof Sys2Proof.Machine

namespace Sys2Proof.Machine

/-! ## A failure is recorded (R674) -/

/-- The monitor of a domain that has failed once more. -/
def ClkMon.failedOnce (m : ClkMon) (stopped : Bool) (ppm : BitVec 16) : ClkMon :=
  ⟨true, if stopped then m.ppm else ppm, if m.fails = 0xFFFFFFFF then m.fails else m.fails + 1⟩

theorem failedOnce_fails (m : ClkMon) (stopped : Bool) (ppm : BitVec 16) :
    (m.failedOnce stopped ppm).fails.toNat = min (m.fails.toNat + 1) 0xFFFFFFFF := by
  have hlt := m.fails.isLt
  have hval : (m.failedOnce stopped ppm).fails = if m.fails = 0xFFFFFFFF then m.fails else m.fails + 1 := rfl
  rw [hval]
  split
  · next h => rw [h]; rfl
  · next h =>
    have hne : m.fails.toNat ≠ 0xFFFFFFFF := fun e => h (BitVec.eq_of_toNat_eq e)
    rw [BitVec.toNat_add_of_lt (by simp; omega)]
    simp
    omega

/-- The state with the failure of domain `n` recorded, before its effect. -/
def State.clockFailed (s : State) (n : Nat) (stopped : Bool) (ppm : BitVec 16) : State :=
  let s : State := { s with clkmon := put s.clkmon n ((s.monitor n).failedOnce stopped ppm) }
  let s := s.raise 0x0402 (BitVec.ofNat 64 n) (if stopped then 1 else 2)
  if 3 ≤ n ∧ n ≤ 6 then s.bump (0x2110 + n - 3) 2 else s

section
variable {s : State} {d : BitVec 4} {p : PortId} {stopped : Bool} {ppm : BitVec 16}

theorem clockMonitorFailure_of_known (h : (s.monitor d.toNat).failed = true ∨ 10 < d.toNat) : clockMonitorFailure d p stopped ppm s = s := if_pos h.symm

theorem clockMonitorFailure_of_new (h : (s.monitor d.toNat).failed = false) (hd : d.toNat ≤ 10) :
    clockMonitorFailure d p stopped ppm s = (s.clockFailed d.toNat stopped ppm).clockEffect d.toNat p :=
  if_neg (by simp [h, hd])

/-- Recording touches the monitor, the journal and the counters alone. -/
theorem clockFailed_parts (s : State) (n : Nat) (stopped : Bool) (ppm : BitVec 16) :
    (s.clockFailed n stopped ppm).clkmon = put s.clkmon n ((s.monitor n).failedOnce stopped ppm) ∧ (s.clockFailed n stopped ppm).plan = s.plan ∧
    (s.clockFailed n stopped ppm).blocks = s.blocks ∧ (s.clockFailed n stopped ppm).ports = s.ports := by
  unfold State.clockFailed
  dsimp only
  split
  · unfold State.bump State.keepCounter
    dsimp only
    split <;> exact ⟨rfl, rfl, rfl, rfl⟩
  · exact ⟨rfl, rfl, rfl, rfl⟩

theorem clockFailed_counter (s : State) {n : Nat} (stopped : Bool) (ppm : BitVec 16) (h : 3 ≤ n ∧ n ≤ 6) :
    (s.clockFailed n stopped ppm).counter (0x2110 + n - 3) 2 = min (s.counter (0x2110 + n - 3) 2 + 1) (2 ^ 64 - 1) := by
  unfold State.clockFailed
  dsimp only
  rw [if_pos h, bump_counter]
  rfl

end

/-! ## What the effects leave (R675) -/

section
variable (s : State)

theorem haltNow_plan (row : Nat) : (s.haltNow row).plan = if s.planMoves then .halted else s.plan := by
  have h := plan_of_aon (haltNow_aon s row)
  rw [h]
  split <;> rfl

theorem haltNow_stops (row : Nat) : (s.haltNow row).plan ≠ .running := by
  rw [haltNow_plan]
  unfold State.planMoves
  cases s.plan <;> simp

theorem haltNow_clkmon (row : Nat) : (s.haltNow row).clkmon = s.clkmon := by
  rw [clkmon_of_aon (haltNow_aon s row)]
  split <;> rfl

@[simp] theorem quarterClockLost_aon (q : Nat) : (s.quarterClockLost q).aon = (s.haltNow rowClock).aon := by
  unfold State.quarterClockLost
  simp only [setPll_aon, stopPll_aon]

theorem quarterClockLost_pll (q : Nat) : ((s.quarterClockLost q).pll q).st = .off ∧ ((s.quarterClockLost q).pll q).failed = true := by
  have hstop : (((s.haltNow rowClock).stopPll q).pll q).st = .off := by simp [State.stopPll, State.setPll, State.pll]
  have h : (s.quarterClockLost q).pll q = { ((s.haltNow rowClock).stopPll q).pll q with failed := true } := by
    simp [State.quarterClockLost, State.setPll, State.pll]
  rw [h]
  exact ⟨hstop, rfl⟩

/-! ## Ports that lose their clock -/

theorem charge_ports (row : Nat) (b : BitVec 16) : (s.charge row b).ports = s.ports := by
  unfold State.charge
  split <;> rfl

theorem hifEvent_ports (n : Nat) : (s.hifEvent n).ports = s.ports := by
  unfold State.hifEvent State.raiseVector
  dsimp only
  split
  · split <;> rfl
  · rfl

theorem noteLinkOut_ports (p : Nat) : (s.noteLinkOut p).ports = s.ports := by
  unfold State.noteLinkOut
  split
  · exact charge_ports _ _ _
  · rfl

/-- A port that enters a state at link time `now`. -/
def DPort.entered (x : DPort) (now : Nat) (st : LinkSt) (cause : Option (BitVec 4)) : DPort :=
  { x with
    st := st, cause := cause.getD x.cause, lock := st.sends && decide (st ≠ .train) && x.lock, out := if st = .active then x.out else []
    nextBlk := if x.st.sends then x.nextBlk else now
    idents := 0, ident := if st = .active then x.ident else none
    measured := if st = .train ∨ st = .retrain then none else x.measured }

theorem linkTo_ports (p : Nat) (st : LinkSt) (cause : Option (BitVec 4)) :
    (s.linkTo p st cause).ports = put s.ports p ((s.port p).entered s.linkTime st cause) := by
  unfold State.linkTo
  dsimp only
  rw [hifEvent_ports]
  exact noteLinkOut_ports _ _

theorem linkTo_port_same (p : Nat) (st : LinkSt) (cause : Option (BitVec 4)) :
    (s.linkTo p st cause).port p = (s.port p).entered s.linkTime st cause := by
  rw [State.port, linkTo_ports, look_put_same]

theorem linkTo_port_ne {p i : Nat} (st : LinkSt) (cause : Option (BitVec 4)) (h : i ≠ p) : (s.linkTo p st cause).port i = s.port i := by
  rw [State.port, linkTo_ports, look_put_ne _ _ _ h]
  rfl

/-- A link is down, or its port disabled. -/
def DPort.isOut (x : DPort) : Prop := x.st = .down ∨ x.st = .disabled

theorem linkClockLost_same (p : Nat) : ((s.linkClockLost p).port p).isOut := by
  unfold State.linkClockLost
  split
  · next h => exact h.symm
  · rw [linkTo_port_same]
    exact .inl rfl

theorem linkClockLost_ne {p i : Nat} (h : i ≠ p) : (s.linkClockLost p).port i = s.port i := by
  unfold State.linkClockLost
  split
  · rfl
  · exact linkTo_port_ne s _ _ h

/-- A port that is out stays out when others lose their clock. -/
theorem linkClockLost_isOut {p i : Nat} (h : (s.port i).isOut) : ((s.linkClockLost p).port i).isOut := by
  by_cases hi : i = p
  · subst hi
    exact linkClockLost_same s i
  · rw [linkClockLost_ne s hi]
    exact h

theorem linksLost_isOut (l : List Nat) {i : Nat} (h : i ∈ l ∨ (s.port i).isOut) : ((l.foldl State.linkClockLost s).port i).isOut := by
  induction l generalizing s with
  | nil => exact h.resolve_left (List.not_mem_nil)
  | cons p l ih =>
    rw [List.foldl_cons]
    refine ih _ ?_
    rcases h with h | h
    · rcases List.mem_cons.mp h with rfl | h
      · exact .inr (linkClockLost_same s i)
      · exact .inl h
    · exact .inr (linkClockLost_isOut s h)

theorem e1Lost_aon : s.e1Lost.aon = { s.aon with dies := put s.dies 1 2 } := by
  have h := foldl_keeps State.aon linkClockLost_aon [4, 5, 6, 7] ({ s with dies := put s.dies 1 2 } : State)
  exact h

theorem e1Lost_dieWorks : s.e1Lost.dieWorks .e1 = false := by
  rw [State.dieWorks, dies_of_aon (e1Lost_aon s)]
  exact decide_eq_false (by rw [show edgeIndex .e1 = 1 from rfl, look_put_same]; decide)

theorem e1Lost_ports {i : Nat} (h : 4 ≤ i) (k : i < 8) : (s.e1Lost.port i).isOut := by
  unfold State.e1Lost
  exact linksLost_isOut _ _ (.inl (by simp; omega))

/-! ## The host interface loses its clock -/

/-- No queue of a cleared host interface is enabled. -/
theorem cleared_queues (h : Hif) (k : Nat) : (look Queue.reset h.cleared.queues k).en = false := by
  unfold Hif.cleared
  dsimp only
  generalize (h.queues.filter fun x => decide (x.2.fetched ≠ [])) = t
  induction t with
  | nil => rfl
  | cons x t ih =>
    rw [List.map_cons, look]
    split
    · rfl
    · exact ih

/-- The host interface without its clock. -/
def State.pcieLost (s : State) : State :=
  (s.clearHif 2).modHif fun h => { h with cfg := .reset, linkUp := false, width := 0, rate := 0, flitMode := false }

theorem clearHif_hif (reason : Nat) : ∃ h : Hif, (s.clearHif reason).hif = h.cleared := by
  unfold State.clearHif
  exact ⟨_, modHif_hif _ _⟩

theorem pcieLost_queue (r : QueueId) : (s.pcieLost.queue r).en = false := by
  obtain ⟨h, hh⟩ := clearHif_hif s 2
  rw [State.queue, State.pcieLost, modHif_hif, hh]
  exact cleared_queues h _

theorem linkClockLost_port {p : Nat} (h : (s.port p).st ≠ .disabled) :
    ((s.linkClockLost p).port p).st = .down ∧ ((s.port p).st ≠ .down → ((s.linkClockLost p).port p).cause = 2) := by
  unfold State.linkClockLost
  split
  · next hs => exact ⟨hs.resolve_left h, fun hn => absurd (hs.resolve_left h) hn⟩
  · rw [linkTo_port_same]
    exact ⟨rfl, fun _ => rfl⟩

/-! ## What every effect keeps -/

@[simp] theorem hold_clkmon (src : Nat) : (s.hold src).clkmon = s.clkmon := rfl
@[simp] theorem hold_time (src : Nat) : (s.hold src).time = s.time := rfl
@[simp] theorem hold_plan (src : Nat) : (s.hold src).plan = s.plan := rfl

/-- REFCLK25 is lost: the locks, the plan and the links fall before the fast domain does. -/
def State.refclkLost (s : State) : State := ((s.setLocks false false s.timeBefore).haltNow rowClock).eachPort State.linkClockLost

@[simp] theorem refclkLost_aon : s.refclkLost.aon = ((s.setLocks false false s.timeBefore).haltNow rowClock).aon := eachPort_aon _ linkClockLost_aon

theorem clockEffect_refclk_eq (p : PortId) : s.clockEffect 0 p = (s.refclkLost.fastReset srcClock 2).hold srcClock := rfl

theorem clockEffect_quarter {n : Nat} (p : PortId) (h : 3 ≤ n) (k : n ≤ 6) : s.clockEffect n p = s.quarterClockLost (n - 3) := by
  obtain rfl | rfl | rfl | rfl : n = 3 ∨ n = 4 ∨ n = 5 ∨ n = 6 := by omega
  all_goals rfl

theorem clockEffect_e1 (p : PortId) : s.clockEffect 8 p = (s.haltNow rowClock).e1Lost := rfl

theorem clockEffect_link (p : PortId) : s.clockEffect 9 p = s.linkClockLost p.toNat := rfl

theorem clockEffect_pcie (p : PortId) : s.clockEffect 10 p = s.pcieLost := rfl

theorem quarterClockLost_clkmon (q : Nat) : (s.quarterClockLost q).clkmon = s.clkmon := by
  rw [clkmon_of_aon (quarterClockLost_aon s q)]
  exact haltNow_clkmon s rowClock

theorem quarterClockLost_plan (q : Nat) : (s.quarterClockLost q).plan ≠ .running := by
  rw [plan_of_aon (quarterClockLost_aon s q)]
  exact haltNow_stops s rowClock

/-- A counter of the quarters' failures stands through the effect. -/
theorem quarterClockLost_counter (q : Nat) {i : Nat} (h : 0x2110 ≤ i ∧ i < 0x2114) : (s.quarterClockLost q).counter i 2 = s.counter i 2 := by
  have hr : retainedCount (256 * i + 2) = true := decide_eq_true (by omega)
  have hhalt : (s.haltNow rowClock).aon.counts = s.aon.counts := by
    rw [haltNow_aon]
    split <;> rfl
  rw [counter_of_aon (quarterClockLost_aon s q) hr, hhalt, counter_of_aon rfl hr]

theorem setLocks_clkmon (t f : Bool) (old : W64) : (s.setLocks t f old).clkmon = s.clkmon := clkmon_of_aon (setLocks_aon s t f old)

theorem refclkLost_clkmon : s.refclkLost.clkmon = s.clkmon := by
  have h : s.refclkLost.clkmon = ((s.setLocks false false s.timeBefore).haltNow rowClock).clkmon := clkmon_of_aon (refclkLost_aon s)
  rw [h, haltNow_clkmon, setLocks_clkmon]

theorem refclkLost_plan : s.refclkLost.plan ≠ .running := by
  have h : s.refclkLost.plan = ((s.setLocks false false s.timeBefore).haltNow rowClock).plan := plan_of_aon (refclkLost_aon s)
  rw [h]
  exact haltNow_stops _ _

theorem haltNow_time (row : Nat) : (s.haltNow row).time = s.time := by
  rw [time_of_aon (haltNow_aon s row)]
  split <;> rfl

theorem refclkLost_time : s.refclkLost.time = { s.time with tlock := false, flock := false } := by
  have h : s.refclkLost.time = ((s.setLocks false false s.timeBefore).haltNow rowClock).time := time_of_aon (refclkLost_aon s)
  rw [h, haltNow_time, setLocks_time]

/-- The monitors stand through every effect. -/
theorem clockEffect_clkmon (n : Nat) (p : PortId) : (s.clockEffect n p).clkmon = s.clkmon := by
  by_cases h0 : n = 0
  · rw [h0, clockEffect_refclk_eq, hold_clkmon, fastReset_clkmon, refclkLost_clkmon]
  · by_cases hq : 3 ≤ n ∧ n ≤ 6
    · rw [clockEffect_quarter s p hq.1 hq.2, quarterClockLost_clkmon]
    · unfold State.clockEffect
      split
      case h_1 => exact absurd rfl h0
      case h_2 => rfl
      case h_3 => exact absurd ⟨by decide, by decide⟩ hq
      case h_4 => exact absurd ⟨by decide, by decide⟩ hq
      case h_5 => exact absurd ⟨by decide, by decide⟩ hq
      case h_6 => exact absurd ⟨by decide, by decide⟩ hq
      case h_7 => exact haltNow_clkmon s _
      case h_8 => exact (clkmon_of_aon (e1Lost_aon _)).trans (haltNow_clkmon s _)
      case h_9 => exact clkmon_of_aon (linkClockLost_aon s _)
      case h_10 => exact (modHif_clkmon _ _).trans (clkmon_of_aon (clearHif_aon s 2))
      case h_11 => rfl

/-- A quarter, an edge die or the fast domain without its clock halts a plan that runs. -/
theorem clockEffect_stops {n : Nat} (p : PortId) (h : n = 0 ∨ 3 ≤ n ∧ n ≤ 8) : (s.clockEffect n p).plan ≠ .running := by
  rcases h with rfl | ⟨h3, h8⟩
  · rw [clockEffect_refclk_eq, hold_plan, fastReset_plan]
    split
    · decide
    · exact refclkLost_plan s
  · obtain h6 | rfl | rfl : n ≤ 6 ∨ n = 7 ∨ n = 8 := by omega
    · rw [clockEffect_quarter s p h3 h6]
      exact quarterClockLost_plan s _
    · exact haltNow_stops s _
    · rw [clockEffect_e1, plan_of_aon (e1Lost_aon _)]
      exact haltNow_stops s _

/-- With REFCLK25 the locks are lost, and the fast domain is held. -/
theorem clockEffect_refclk (p : PortId) : (s.clockEffect 0 p).time.tlock = false ∧ (s.clockEffect 0 p).time.flock = false ∧
    srcClock ∈ (s.clockEffect 0 p).supply.holders ∧ (s.clockEffect 0 p).fastUp = false := by
  rw [clockEffect_refclk_eq, hold_time, fastReset_time, refclkLost_time]
  exact ⟨rfl, rfl, hold_held _ _, hold_fastUp _ _⟩

end

end Sys2Proof.Machine

/-- Settles O52: a failure that is new is recorded before its effect, which leaves the monitors as they are. -/
theorem clockMonitors : Obligations.ClockMonitors := by
  intro s d p stopped ppm m
  refine ⟨fun h => congrArg Host.Outcome.next (clockMonitorFailure_of_known h), fun hm hd => ?_, fun hm hd => ?_, fun hm => ?_⟩
  · obtain ⟨hclk, hplan, hblocks, hports⟩ := clockFailed_parts s d.toNat stopped ppm
    have hmon : ((s.clockFailed d.toNat stopped ppm).clockEffect d.toNat p).monitor d.toNat = m.failedOnce stopped ppm := by
      rw [State.monitor, clockEffect_clkmon, hclk, look_put_same]
    refine ⟨_, congrArg Host.Outcome.next (clockMonitorFailure_of_new hm hd), ?_⟩
    rw [hmon]
    refine ⟨rfl, failedOnce_fails m stopped ppm, rfl, fun h => ?_, fun h => ?_, fun h => ?_, fun h => ?_, fun h hst => ?_, fun h => ?_, fun h hrun => ?_⟩
    · rw [h]
      exact clockEffect_refclk _ p
    · rw [h]
      exact ⟨rfl, (clockFailed_parts s _ stopped ppm).2.2.1⟩
    · have hq : 3 ≤ d.toNat ∧ d.toNat ≤ 6 := by
        simp only [List.mem_cons, List.not_mem_nil, or_false] at h
        rcases h with rfl | rfl | rfl | rfl <;> decide
      rw [clockEffect_quarter _ p hq.1 hq.2]
      obtain ⟨hoff, hfailed⟩ := quarterClockLost_pll (s.clockFailed d.toNat stopped ppm) (d.toNat - 3)
      refine ⟨hoff, hfailed, ?_⟩
      rw [← clockFailed_counter s stopped ppm hq]
      exact quarterClockLost_counter _ _ (by omega)
    · rw [h, show (8 : BitVec 4).toNat = 8 from rfl, clockEffect_e1]
      exact ⟨e1Lost_dieWorks _, fun i h4 h8 => e1Lost_ports _ h4 h8⟩
    · rw [h, show (9 : BitVec 4).toNat = 9 from rfl, clockEffect_link]
      have hport : (s.clockFailed 9 stopped ppm).port p.toNat = s.port p.toNat := by
        rw [State.port, (clockFailed_parts s 9 stopped ppm).2.2.2, State.port]
      rw [← hport] at hst ⊢
      exact linkClockLost_port _ hst
    · rw [h, show (10 : BitVec 4).toNat = 10 from rfl, clockEffect_pcie]
      exact ⟨rfl, pcieLost_queue _⟩
    · refine clockEffect_stops _ p ?_
      simp only [List.mem_cons, List.not_mem_nil, or_false] at h
      rcases h with rfl | rfl | rfl | rfl | rfl | rfl | rfl <;> decide
  · exact ⟨_, congrArg Host.Outcome.next (if_pos ⟨hd, hm⟩), look_put_same _ _ _ _, (congrArg Jnl.raised (raise_jnl _ _ _ _ _)).trans (accept_raised _ _),
      rfl, rfl, rfl, rfl⟩
  · exact congrArg Host.Outcome.next (if_neg (by simp [m, hm]))

end

/-! # The thermal monitor (R880, R881, R895 to R901): the proofs -/

section
open Sys2Proof Sys2Proof.Machine

namespace Sys2Proof.Machine

/-! ## The highest valid reading (R881, R895) -/

section
variable (s : State)

/-- A site's number of 0.125 °C. -/
def State.reading (s : State) (n : Nat) : Int := (s.site n).temp.toInt

/-- One more site is compared with the hottest so far. -/
def State.hotter (s : State) (best : Option Nat) (n : Nat) : Option Nat :=
  if !s.siteValid n then best
  else match best with
    | none => some n
    | some m => if (s.site m).temp.toInt < (s.site n).temp.toInt then some n else some m

theorem hottest_eq : s.hottest = (List.range 72).foldl s.hotter none := rfl

/-- `m` is a valid site of a list, and no valid one of the list reads more. -/
structure Hottest (l : List Nat) (m : Nat) : Prop where
  mem : m ∈ l
  valid : s.siteValid m = true
  most : ∀ k ∈ l, s.siteValid k = true → s.reading k ≤ s.reading m

/-- A comparison gives the hottest of the list with the site behind it. -/
theorem hotter_spec {l : List Nat} {best : Option Nat} (n : Nat) (hs : ∀ m, best = some m → Hottest s l m)
    (hn : best = none → ∀ k ∈ l, s.siteValid k = false) :
    (∀ m, s.hotter best n = some m → Hottest s (l ++ [n]) m) ∧ (s.hotter best n = none → ∀ k ∈ l ++ [n], s.siteValid k = false) := by
  unfold State.hotter
  cases hv : s.siteValid n with
  | false =>
    simp only [Bool.not_false, if_true]
    refine ⟨fun m hm => ?_, fun h k hk => ?_⟩
    · obtain ⟨hmem, hval, hmost⟩ := hs m hm
      refine ⟨List.mem_append_left _ hmem, hval, fun k hk hkv => ?_⟩
      rcases List.mem_append.mp hk with hk | hk
      · exact hmost k hk hkv
      · rw [List.mem_singleton.mp hk, hv] at hkv
        cases hkv
    · rcases List.mem_append.mp hk with hk | hk
      · exact hn h k hk
      · rw [List.mem_singleton.mp hk, hv]
  | true =>
    simp only [Bool.not_true, Bool.false_eq_true, if_false]
    cases best with
    | none =>
      refine ⟨fun m hm => ?_, fun h => by cases h⟩
      obtain rfl : n = m := by simpa using hm
      refine ⟨by simp, hv, fun k hk hkv => ?_⟩
      rcases List.mem_append.mp hk with hk | hk
      · rw [hn rfl k hk] at hkv
        cases hkv
      · rw [List.mem_singleton.mp hk]
    | some b =>
      obtain ⟨hmem, hval, hmost⟩ := hs b rfl
      dsimp only
      split
      · next hlt =>
        refine ⟨fun m hm => ?_, fun h => by cases h⟩
        obtain rfl : n = m := by simpa using hm
        refine ⟨by simp, hv, fun k hk hkv => ?_⟩
        rcases List.mem_append.mp hk with hk | hk
        · exact (hmost k hk hkv).trans (Int.le_of_lt hlt)
        · rw [List.mem_singleton.mp hk]
      · next hge =>
        refine ⟨fun m hm => ?_, fun h => by cases h⟩
        obtain rfl : b = m := by simpa using hm
        refine ⟨List.mem_append_left _ hmem, hval, fun k hk hkv => ?_⟩
        rcases List.mem_append.mp hk with hk | hk
        · exact hmost k hk hkv
        · rw [List.mem_singleton.mp hk]
          exact Int.not_lt.mp hge

theorem foldl_hotter_spec (r l : List Nat) {best : Option Nat} (hs : ∀ m, best = some m → Hottest s l m)
    (hn : best = none → ∀ k ∈ l, s.siteValid k = false) : ∀ m, r.foldl s.hotter best = some m → Hottest s (l ++ r) m := by
  induction r generalizing l best with
  | nil => simpa using hs
  | cons n r ih =>
    obtain ⟨hs', hn'⟩ := hotter_spec s n hs hn
    have h := ih (l ++ [n]) hs' hn'
    simpa using h

/-- The highest reading is that of a valid site, and no valid site reads more. -/
theorem peakTemp_spec {y : Int} (h : s.peakTemp = some y) : ∃ i < 72, s.siteValid i = true ∧ (s.site i).temp.toInt = y ∧
    ∀ k < 72, s.siteValid k = true → (s.site k).temp.toInt ≤ y := by
  obtain ⟨i, hi, hy⟩ := Option.map_eq_some_iff.mp h
  rw [hottest_eq] at hi
  obtain ⟨hmem, hval, hmost⟩ := foldl_hotter_spec s (List.range 72) [] (best := none) (by simp) (by simp) i hi
  subst hy
  exact ⟨i, by simpa using hmem, hval, rfl, fun k hk hkv => hmost k (by simpa using hk) hkv⟩

end

/-! ## What readings depend on -/

/-- Two states with the same sites under the same rails. -/
structure SameSites (s t : State) : Prop where
  sites : t.thermal.sites = s.thermal.sites
  pwr : t.supply.pwr = s.supply.pwr

namespace SameSites
variable {s t : State} (h : SameSites s t)
include h

theorem site (n : Nat) : t.site n = s.site n := by rw [State.site, State.site, h.sites]

theorem siteValid (n : Nat) : t.siteValid n = s.siteValid n := by
  rw [State.siteValid, State.siteValid, State.sitePowered, State.sitePowered, h.pwr, h.site n]

theorem peakTemp : t.peakTemp = s.peakTemp := by
  have hh : t.hotter = s.hotter := by
    funext best n
    simp only [State.hotter, h.siteValid, h.site]
  have hsite : (fun n => (t.site n).temp.toInt) = fun n => (s.site n).temp.toInt := by
    funext n
    rw [h.site]
  rw [State.peakTemp, State.peakTemp, hottest_eq, hottest_eq, hh, hsite]

theorem anyBlind : t.anyBlind = s.anyBlind := by
  have hb : t.dieBlind = s.dieBlind := by
    funext d
    simp only [State.dieBlind, h.site]
  rw [State.anyBlind, State.anyBlind, hb]

end SameSites

/-! ## Thermal events -/

section
variable (s : State)

@[simp] theorem raiseThermal_thermal (kind ref code : Nat) : (s.raiseThermal kind ref code).thermal = s.thermal :=
  thermal_of_aon (raiseThermal_aon s kind ref code)

@[simp] theorem raiseThermal_supply (kind ref code : Nat) : (s.raiseThermal kind ref code).supply = s.supply :=
  supply_of_aon (raiseThermal_aon s kind ref code)

theorem raiseThermal_raised (kind ref code : Nat) : (s.raiseThermal kind ref code).jnl.raised = s.jnl.raised + 1 := by
  rw [State.raiseThermal, hifEvent_jnl, raise_jnl, accept_raised]

theorem raiseThermal_shown (kind ref code : Nat) : (s.raiseThermal kind ref code).hif.evtPend.getLsbD 5 = true := hifEvent_pending _ (by decide)

/-- An event shown to the host stays shown. -/
theorem hifEvent_keeps {n i : Nat} (h : s.hif.evtPend.getLsbD i = true) : (s.hifEvent n).hif.evtPend.getLsbD i = true := by
  simp [hifEvent_evtPend, h]

/-! ## Thresholds (R895, R896, R901, R904) -/

/-- The highest reading is at least `n`. -/
def State.peakFrom (s : State) (n : Int) : Bool := match s.peakTemp with | some x => decide (n ≤ x) | none => false

theorem peakFrom_iff (n : Int) : s.peakFrom n = true ↔ ∃ y, s.peakTemp = some y ∧ n ≤ y := by
  unfold State.peakFrom
  split
  · next h => simp [h]
  · next h => simp [h]

/-- WARN and STOP after a comparison. -/
def State.warnNext (s : State) : Bool := s.peakFrom 760 || (s.thermal.warn && s.peakFrom 720)
def State.stopNext (s : State) : Bool := s.anyBlind || s.peakFrom 840 || (s.thermal.stop && s.peakFrom 800)

/-- The event of a threshold that is passed one way or the other. -/
def State.thresholdEvent (s : State) (site : Nat) (was is : Bool) (up down : Nat) : State :=
  if is && !was then s.raiseThermal 0x0400 site up else if !is && was then s.raiseThermal 0x0400 site down else s

theorem thresholds_eq (site : Nat) : s.thresholds site =
    (((s.modTherm fun t => { t with warn := s.warnNext, stop := s.stopNext }).thresholdEvent site s.thermal.warn s.warnNext 1 2).thresholdEvent site
      s.thermal.stop s.stopNext 3 4) := rfl

@[simp] theorem thresholdEvent_thermal (site : Nat) (was is : Bool) (up down : Nat) : (s.thresholdEvent site was is up down).thermal = s.thermal := by
  unfold State.thresholdEvent
  split
  · exact raiseThermal_thermal s _ _ _
  · split
    · exact raiseThermal_thermal s _ _ _
    · rfl

@[simp] theorem thresholdEvent_supply (site : Nat) (was is : Bool) (up down : Nat) : (s.thresholdEvent site was is up down).supply = s.supply := by
  unfold State.thresholdEvent
  split
  · exact raiseThermal_supply s _ _ _
  · split
    · exact raiseThermal_supply s _ _ _
    · rfl

/-- A threshold that is passed is shown, and what is shown stays shown. -/
theorem thresholdEvent_shown (site : Nat) {was is : Bool} (up down : Nat) (h : is ≠ was ∨ s.hif.evtPend.getLsbD 5 = true) :
    (s.thresholdEvent site was is up down).hif.evtPend.getLsbD 5 = true := by
  unfold State.thresholdEvent
  split
  · exact raiseThermal_shown s _ _ _
  · next h1 =>
    split
    · exact raiseThermal_shown s _ _ _
    · next h2 =>
      refine h.resolve_left fun hne => ?_
      cases is <;> cases was <;> simp_all

theorem thresholds_sameSites (site : Nat) : SameSites s (s.thresholds site) := by
  rw [thresholds_eq]
  exact ⟨by simp only [thresholdEvent_thermal]; rfl, by simp only [thresholdEvent_supply]; rfl⟩

theorem thresholds_warn (site : Nat) : (s.thresholds site).thermal.warn = s.warnNext := by
  rw [thresholds_eq, thresholdEvent_thermal, thresholdEvent_thermal]
  rfl

theorem thresholds_stop (site : Nat) : (s.thresholds site).thermal.stop = s.stopNext := by
  rw [thresholds_eq, thresholdEvent_thermal, thresholdEvent_thermal]
  rfl

theorem thresholds_shown (site : Nat) (h : s.warnNext ≠ s.thermal.warn ∨ s.stopNext ≠ s.thermal.stop) :
    (s.thresholds site).hif.evtPend.getLsbD 5 = true := by
  rw [thresholds_eq]
  refine thresholdEvent_shown _ site 3 4 (h.symm.imp id fun hw => ?_)
  exact thresholdEvent_shown _ site 1 2 (.inl hw)

end

/-! ## SENSOR_CONVERSION (R880, R901) -/

section
variable (s : State)

/-- A site with a new reading. -/
def State.siteRead (s : State) (n : Nat) (reading : BitVec 16) : Site :=
  let far := if s.isFar n reading.toInt then (s.site n).far + 1 else 0
  ⟨reading, true, (s.site n).failed || decide (reading.toInt < -320 ∨ 1200 < reading.toInt) || decide (8 ≤ far), far⟩

/-- The state with the reading in its site. -/
def State.converted (s : State) (n : Nat) (reading : BitVec 16) : State :=
  s.modTherm fun t => { t with sites := put t.sites n (s.siteRead n reading) }

theorem thermal_raisedIf (p : Prop) [Decidable p] (ref code : Nat) :
    (if p then s.raiseThermal 0x0400 ref code else s).thermal = s.thermal := by
  split
  · exact raiseThermal_thermal s _ _ _
  · rfl

theorem supply_raisedIf (p : Prop) [Decidable p] (ref code : Nat) : (if p then s.raiseThermal 0x0400 ref code else s).supply = s.supply := by
  split
  · exact raiseThermal_supply s _ _ _
  · rfl

/-- The events of sensors that fail change neither the sites nor the thresholds. -/
theorem sensorConversion_eq {site : BitVec 7} {reading : BitVec 16} (h : site.toNat ≤ 72) (hp : s.sitePowered site.toNat = true) :
    ∃ u : State, u.thermal = (s.converted site.toNat reading).thermal ∧ u.supply = s.supply ∧
      sensorConversion site reading s = u.thresholds site.toNat := by
  have hcond : ¬(72 < site.toNat ∨ (!s.sitePowered site.toNat) = true) := by simp [hp]; omega
  unfold sensorConversion
  rw [if_neg hcond]
  refine ⟨_, ?_, ?_, rfl⟩
  · rw [thermal_raisedIf, thermal_raisedIf]
    rfl
  · rw [supply_raisedIf, supply_raisedIf]
    rfl

end

/-! ## THERMTRIP (R899, R900) -/

section
variable (s : State)

/-- A fault that takes the device down leaves the sequencer off or on its way down. -/
theorem powerFault_parts (src : Nat) : (s.powerFault src).fastUp = false ∧ (s.powerFault src).plan = (s.fastReset src 2).plan ∧
    (s.powerFault src).thermal = s.thermal ∧
    (s.powerFault src).boot.st = if (s.fastReset src 2).boot.st.inRom then (s.fastReset src 2).boot.st else .standby := by
  have ht := fastReset_thermal s src 2
  unfold State.powerFault
  dsimp only
  split
  · next h => exact ⟨decide_eq_false fun hd => by simp [State.toStandby, h] at hd, rfl, ht, rfl⟩
  · next n h => exact ⟨decide_eq_false fun hd => by simp [State.toStandby, h] at hd, rfl, ht, rfl⟩
  · exact ⟨decide_eq_false fun hd => by simp [State.toStandby, State.startDown, State.setPwr] at hd, rfl, ht, rfl⟩

/-- A device whose boot ROM does not run is in STANDBY. -/
theorem powerFault_standby (src : Nat) (h : s.boot.st.inRom = false) : (s.powerFault src).boot.st = .standby := by
  obtain ⟨_, _, _, hst⟩ := powerFault_parts s src
  have hrom : (s.fastReset src 2).boot.st.inRom = false := by
    rw [fastReset_boot]
    split
    · cases hb : s.boot.st <;> simp_all [BootSt.afterReset, BootSt.inRom]
    · exact h
  rw [hst, hrom]
  rfl

theorem powerFault_stopped (src : Nat) (h : s.plan ≠ .running) : (s.powerFault src).plan ≠ .running := by
  obtain ⟨_, hplan, _, _⟩ := powerFault_parts s src
  rw [hplan, fastReset_plan]
  split
  · decide
  · exact h

end

/-- The state after THERMTRIP_N falls, before the supplies are taken down. -/
def State.tripped (s : State) (site : Nat) : State :=
  ((s.modTherm fun t => { t with trip := true, tripAt := s.acy }).raiseThermal 0x0400 site 5).haltNow rowThermtrip

theorem haltNow_thermal (s : State) (row : Nat) : (s.haltNow row).thermal = s.thermal := by
  rw [thermal_of_aon (haltNow_aon s row)]
  split <;> rfl

theorem haltNow_boot (s : State) (row : Nat) : (s.haltNow row).boot = s.boot := by
  rw [boot_of_aon (haltNow_aon s row)]
  split <;> rfl

theorem tripped_thermal (s : State) (site : Nat) : (s.tripped site).thermal = { s.thermal with trip := true, tripAt := s.acy } := by
  rw [State.tripped, haltNow_thermal, raiseThermal_thermal]
  rfl

theorem tripped_boot (s : State) (site : Nat) : (s.tripped site).boot = s.boot := by
  rw [State.tripped, haltNow_boot]
  exact boot_of_aon (raiseThermal_aon _ _ _ _)

theorem thermtripAssert_new {s : State} {site : BitVec 7} (ht : s.thermal.trip = false) (hn : site.toNat ≤ 71) :
    thermtripAssert site s = (s.tripped site.toNat).powerFault srcThermal := if_neg (by simp [ht]; omega)

/-- A wait, where the epoch in progress bars none, leaves all but the clocks. -/
theorem passWithin_getD_parts (s : State) (n : Nat) : ((s.passWithin n).getD s).jnl = s.jnl ∧ ((s.passWithin n).getD s).boot = s.boot := by
  unfold State.passWithin
  split
  · split
    · unfold State.advanceTo
      split <;> exact ⟨rfl, rfl⟩
    · exact ⟨rfl, rfl⟩
  · exact ⟨rfl, rfl⟩

end Sys2Proof.Machine

/-- Settles O53: the thresholds follow the hottest valid site, and a fault of the supplies takes the device down. -/
theorem thermalCommands : Obligations.ThermalCommands := by
  intro s site x n
  refine ⟨fun h => ?_, fun hn hp => ?_, fun y hy => peakTemp_spec s hy, fun h => ?_, fun ht hn => ?_, fun ht hv hx => ?_, fun ht hv hx => ?_⟩
  · exact congrArg Host.Outcome.next (if_pos (h.imp_right fun hp => by simp [n, hp]))
  · obtain ⟨u, hu, hsup, he⟩ := sensorConversion_eq s hn hp (reading := x)
    have hsame := thresholds_sameSites u n
    have hsite : ∀ i, (u.thresholds n).site i = (s.converted n x).site i := fun i => by
      rw [hsame.site, State.site, hu, State.site]
    have hwarn : u.thermal.warn = s.thermal.warn := by rw [hu]; rfl
    have hstop : u.thermal.stop = s.thermal.stop := by rw [hu]; rfl
    have hnew : (u.thresholds n).site n = s.siteRead n x := (hsite n).trans (look_put_same _ _ _ _)
    refine ⟨_, congrArg Host.Outcome.next he, ?_⟩
    rw [hnew]
    refine ⟨rfl, rfl, fun hx => ?_, fun hf => ?_, fun i hi => (hsite i).trans (look_put_ne _ _ _ hi), ?_, ?_, fun hc => ?_⟩
    · simp [State.siteRead, hx]
    · simp [State.siteRead, hf]
    · rw [thresholds_warn, hsame.peakTemp, State.warnNext, hwarn, Bool.or_eq_true, Bool.and_eq_true, peakFrom_iff, peakFrom_iff]
    · rw [thresholds_stop, hsame.peakTemp, hsame.anyBlind, State.stopNext, hstop, Bool.or_eq_true, Bool.or_eq_true, Bool.and_eq_true, peakFrom_iff,
        peakFrom_iff, or_assoc]
    · refine thresholds_shown u n ?_
      rwa [thresholds_warn, thresholds_stop, ← hwarn, ← hstop] at hc
  · exact congrArg Host.Outcome.next (if_pos h)
  · obtain ⟨hup, _, htherm, _⟩ := powerFault_parts (s.tripped site.toNat) srcThermal
    rw [tripped_thermal] at htherm
    refine ⟨_, congrArg Host.Outcome.next (thermtripAssert_new ht hn), ?_⟩
    rw [htherm]
    refine ⟨rfl, rfl, hup, fun hrom => powerFault_standby _ _ ?_, powerFault_stopped _ _ (haltNow_stops _ _)⟩
    rw [tripped_boot]
    exact hrom
  · have hcond : (s.thermal.trip && s.siteValid 72 && decide ((s.site 72).temp.toInt < 480)) = true := by simp [ht, hv, hx]
    refine ⟨_, congrArg Host.Outcome.next (if_pos hcond), ?_⟩
    obtain ⟨hj, hb⟩ := passWithin_getD_parts s ((s.thermal.tripAt + 60000 * acyPerMs - s.acy) * s.perAcy)
    rw [raiseThermal_thermal, raiseThermal_raised]
    refine ⟨rfl, ?_, ?_⟩
    · exact congrArg (fun j : Jnl => j.raised + 1) hj
    · exact (boot_of_aon (raiseThermal_aon _ _ _ _)).trans hb
  · exact congrArg Host.Outcome.next (if_neg (by simp [hx]))

end

/-! # The power sequencer, rails and power-fail (R650, R676 to R693, R717, R718): the proofs -/

section
open Sys2Proof Sys2Proof.Machine

namespace Sys2Proof.Machine

/-! ## Bits of rails -/

theorem railBit_getLsbD (r : Nat) {i : Nat} (h : i < 14) : (1#14 <<< r).getLsbD i = decide (i = r) := by
  rw [BitVec.getLsbD_shiftLeft, BitVec.getLsbD_one]
  by_cases hr : i = r
  · simp [hr, hr ▸ h]
  · simp [hr, h]
    omega

/-- The GOOD bits of a list of rails. -/
theorem railBits_getLsbD (l : List Nat) {i : Nat} (h : i < 14) : (railBits l).getLsbD i = decide (i ∈ l) := by
  have key : ∀ g : BitVec 14, (l.foldl (fun g r => g ||| (1#14 <<< r)) g).getLsbD i = (g.getLsbD i || decide (i ∈ l)) := by
    induction l with
    | nil => intro g; simp
    | cons r l ih =>
      intro g
      rw [List.foldl_cons, ih, BitVec.getLsbD_or, railBit_getLsbD r h]
      simp [Bool.or_assoc]
  exact (key 0).trans (by simp)

theorem clearRails_getLsbD (g : BitVec 14) (l : List Nat) {i : Nat} (h : i < 14) :
    (g &&& ~~~railBits l).getLsbD i = (g.getLsbD i && !decide (i ∈ l)) := by
  rw [BitVec.getLsbD_and, BitVec.getLsbD_not, railBits_getLsbD l h]
  simp [h]

/-- The rails of each step (R683). -/
theorem mem_stepRails (n i : Nat) :
    i ∈ stepRails n ↔ i ∈ if n = 1 then [5] else if n = 2 then [0, 1, 2, 3, 4] else if n = 3 then [10, 12] else if n = 4 then [11, 13] else [] := by
  unfold stepRails
  split
  · rfl
  · simp
    tauto
  · rfl
  · rfl
  · next h1 h2 h3 h4 => rw [if_neg h1, if_neg h2, if_neg h3, if_neg h4]

/-! ## Supply events and standby -/

section
variable (s : State)

@[simp] theorem supplyEvent_supply (rail code : Nat) : (s.supplyEvent rail code).supply = s.supply := raiseThermal_supply s _ _ _

theorem supplyEvent_boot (rail code : Nat) : (s.supplyEvent rail code).boot = s.boot := boot_of_aon (supplyEvent_aon s rail code)

theorem supplyEvent_raised (rail code : Nat) : (s.supplyEvent rail code).jnl.raised = s.jnl.raised + 1 := raiseThermal_raised s _ _ _

/-- A step that fails takes the device down to STANDBY (R684). -/
def State.stepFailed (s : State) (r : Nat) : State := (s.supplyEvent r 7).startDown.toStandby

theorem stepFailed_supply (r : Nat) : (s.stepFailed r).supply = { s.supply with pwr := .down 4 } := by
  have h : (s.stepFailed r).supply = { (s.supplyEvent r 7).supply with pwr := .down 4 } := rfl
  rw [h, supplyEvent_supply]

theorem stepFailed_raised (r : Nat) : (s.stepFailed r).jnl.raised = s.jnl.raised + 1 := supplyEvent_raised s r 7

theorem stepFailed_boot (r : Nat) (h : s.boot.st.inRom = false) : (s.stepFailed r).boot.st = .standby := by
  have hb : (s.stepFailed r).boot.st = if (s.supplyEvent r 7).boot.st.inRom then (s.supplyEvent r 7).boot.st else .standby := rfl
  rw [hb, supplyEvent_boot, h]
  rfl

/-! ## Power-up steps (R683, R684) -/

/-- Every rail of a step has its regulator. -/
def State.stepReady (s : State) (n : Nat) : Prop := ∀ i ∈ stepRails n, s.boot.board.getLsbD i = true

theorem beginStep_ready {s : State} {n : Nat} (h : s.stepReady n) : s.beginStep n = s.setPwr (.up n) := by
  have hf : ((stepRails n).find? fun r => !s.boot.board.getLsbD r) = none := List.find?_eq_none.mpr fun i hi => by simp [h i hi]
  rw [State.beginStep, hf]

theorem beginStep_failed {s : State} {n : Nat} (h : ∃ i ∈ stepRails n, s.boot.board.getLsbD i = false) : ∃ r, s.beginStep n = s.stepFailed r := by
  obtain ⟨i, hi, hb⟩ := h
  cases hf : (stepRails n).find? fun r => !s.boot.board.getLsbD r with
  | none =>
    have := List.find?_eq_none.mp hf i hi
    simp [hb] at this
  | some r => exact ⟨r, by rw [State.beginStep, hf]; rfl⟩

/-- The state with the rails of a step up. -/
def State.railsUp (s : State) (n : Nat) : State := s.modSup fun x => { x with good := x.good ||| railBits (stepRails n) }

theorem powerUpStep_next {n : Nat} (h : s.supply.pwr = .up n) (hn : n < 4) : powerUpStep s = (s.railsUp n).beginStep (n + 1) := by
  simp only [powerUpStep, h, hn, if_true]
  rfl

theorem powerUpStep_last {n : Nat} (h : s.supply.pwr = .up n) (hn : ¬n < 4) :
    powerUpStep s = ((s.railsUp n).setPwr .on).modBoot fun b => { b with st := if b.st = .rails then .edge else b.st } := by
  simp only [powerUpStep, h, hn, if_false]
  rfl

theorem powerStepTimeout_up {r : BitVec 4} {n : Nat} (h : s.supply.pwr = .up n) (hr : r.toNat ∈ stepRails n) : powerStepTimeout r s = s.stepFailed r.toNat := by
  simp only [powerStepTimeout, h, hr, if_true]
  rfl

theorem powerStepTimeout_down {r : BitVec 4} {n : Nat} (h : s.supply.pwr = .down n) (hr : r.toNat ∈ stepRails n) :
    powerStepTimeout r s = (s.supplyEvent r.toNat 7).downStep n := by
  simp only [powerStepTimeout, h, hr, if_true]

theorem powerDownOrder_down {n : Nat} (h : s.supply.pwr = .down n) : powerDownOrder s = s.downAll n := by
  simp only [powerDownOrder, h]

/-! ## Power-down steps (R685) -/

/-- With no power-up to follow, a step that is over goes on to the one before, or ends the order. -/
theorem downStep_supply {n : Nat} (h : s.supply.again = false) : (s.downStep n).supply =
    { s.supply with good := s.supply.good &&& ~~~railBits (stepRails n), pwr := if 1 < n then .down (n - 1) else .off } := by
  unfold State.downStep
  dsimp only
  split
  · rfl
  · rw [modSup_supply, h]
    simp [State.setPwr, h]

theorem downStep_jnl (n : Nat) (h : s.supply.again = false) : (s.downStep n).jnl = s.jnl := by
  unfold State.downStep
  dsimp only
  split
  · rfl
  · rw [modSup_supply, h]
    rfl

/-- The order ends with every rail off that its steps name. -/
theorem downAll_supply (n : Nat) (h : s.supply.again = false) (hn : 1 ≤ n) : (s.downAll n).supply.pwr = .off ∧
    ∀ i < 14, (s.downAll n).supply.good.getLsbD i = (s.supply.good.getLsbD i && !decide (∃ j < n + 1, i ∈ stepRails j)) := by
  induction n generalizing s with
  | zero => omega
  | succ n ih =>
    have hs := downStep_supply s (n := n + 1) h
    have hstep : s.downAll (n + 1) = (s.downStep (n + 1)).downAll n := rfl
    rw [hstep]
    by_cases h0 : n = 0
    · subst h0
      have hdone : (s.downStep (0 + 1)).downAll 0 = s.downStep 1 := rfl
      rw [hdone, hs]
      refine ⟨rfl, fun i hi => ?_⟩
      rw [clearRails_getLsbD _ _ hi]
      congr 2
      refine decide_eq_decide.mpr ⟨fun hm => ⟨1, by omega, hm⟩, fun ⟨j, hj, hm⟩ => ?_⟩
      obtain rfl | rfl : j = 0 ∨ j = 1 := by omega
      · cases hm
      · exact hm
    · obtain ⟨hoff, hgood⟩ := ih (s.downStep (n + 1)) (by rw [hs]; exact h) (by omega)
      refine ⟨hoff, fun i hi => ?_⟩
      rw [hgood i hi, hs, clearRails_getLsbD _ _ hi, Bool.and_assoc, ← Bool.not_or, ← Bool.decide_or]
      congr 2
      refine decide_eq_decide.mpr ⟨fun hm => ?_, fun ⟨j, hj, hm⟩ => ?_⟩
      · rcases hm with hm | ⟨j, hj, hm⟩
        · exact ⟨n + 1, by omega, hm⟩
        · exact ⟨j, by omega, hm⟩
      · rcases Nat.lt_succ_iff_lt_or_eq.mp hj with hj | rfl
        · exact .inr ⟨j, hj, hm⟩
        · exact .inl hm

/-! ## Power-fail (R690 to R692) -/

/-- The warning is in force, and the fast domain is down. -/
def State.warned (s : State) : State :=
  let u := ((s.supplyEvent 6 6).modSup fun x => { x with pfw := true }).noteBp
  if (s.supplyEvent 6 6).fastUp then u.fastDown else u

/-- The rails are off, and the time is retained. -/
def State.failHeld (s : State) (owed : Bool) (l : List Byte) : State :=
  ((s.retain 3 l).modSup fun x => { x with owed := owed, pwr := .off, again := false, good := x.good &&& 0x380 }).hold srcPowerFail

theorem failHeld_supply (owed : Bool) (l : List Byte) : (s.failHeld owed l).supply = { s.supply with
    owed := owed, pwr := .off, again := false, good := s.supply.good &&& 0x380, holders := insertNat srcPowerFail s.supply.holders } := rfl

theorem failHeld_jnl (owed : Bool) (l : List Byte) : (s.failHeld owed l).jnl = s.jnl := rfl

theorem powerFailWarning_new {s : State} (h : s.supply.pfw = false) (hb : s.boot.st ≠ .off) :
    ∃ owed l, powerFailWarning s = s.warned.failHeld owed l := by
  have hcond : ¬((s.supply.pfw = true) ∨ s.boot.st = .off) := by simp [h, hb]
  exact ⟨_, _, if_neg hcond⟩

theorem fastDown_supply : s.fastDown.supply = s.supply := supply_of_aon (fastDown_aon s)

theorem noteBp_supply : s.noteBp.supply = s.supply := supply_of_aon (noteBp_aon s)

theorem warned_supply : s.warned.supply = { s.supply with pfw := true } := by
  have hu : ((s.supplyEvent 6 6).modSup fun x => { x with pfw := true }).noteBp.supply = { s.supply with pfw := true } := by
    rw [noteBp_supply, modSup_supply, supplyEvent_supply]
  unfold State.warned
  dsimp only
  split
  · rw [fastDown_supply, hu]
  · exact hu

/-- The warning commits nothing. -/
theorem warned_slots : s.warned.jnl.ring = s.jnl.ring ∧ s.warned.jnl.next = s.jnl.next := by
  have hu : ((s.supplyEvent 6 6).modSup fun x => { x with pfw := true }).noteBp.jnl.ring = s.jnl.ring ∧
      ((s.supplyEvent 6 6).modSup fun x => { x with pfw := true }).noteBp.jnl.next = s.jnl.next := by
    rw [noteBp_jnl, modSup_jnl]
    exact ⟨ring_of_aon (supplyEvent_aon s 6 6), next_of_aon (supplyEvent_aon s 6 6)⟩
  unfold State.warned
  dsimp only
  split
  · have h := fastDown_aon ((s.supplyEvent 6 6).modSup fun x => { x with pfw := true }).noteBp
    exact ⟨(ring_of_aon h).trans hu.1, (next_of_aon h).trans hu.2⟩
  · exact hu

theorem abandonLost_supply : s.abandonLost.supply = s.supply := by
  obtain ⟨ring, next, h⟩ := abandonLost_aon s
  exact supply_of_aon h

theorem resetRecord_supply (src scope : Nat) :
    (s.resetRecord src scope).supply = { s.supply with src := BitVec.ofNat 4 src, scope := BitVec.ofNat 4 scope } := by
  obtain ⟨ring, h⟩ := resetRecord_aon s src scope
  exact supply_of_aon h

theorem resetEvent_supply (src scope : Nat) :
    (s.resetEvent src scope).supply = { s.supply with src := BitVec.ofNat 4 src, scope := BitVec.ofNat 4 scope } :=
  supply_of_aon (resetEvent_aon s src scope)

/-- The supplies are back: the warning is over, and the reset that was owed is recorded. -/
def State.recovered (s : State) : State :=
  let u := ((s.modSup fun x => { x with pfw := false }).noteBp).unhold srcPowerFail
  (if u.supply.owed then (u.resetRecord srcPowerFail 2).abandonLost else u.resetEvent srcPowerFail 2).modSup fun x => { x with owed := false }

theorem powerFailRecovery_eq {s : State} (h : s.supply.pfw = true) :
    powerFailRecovery s = if s.recovered.boot.st.inRom || s.recovered.thermal.trip then s.recovered else s.recovered.startUp := if_pos h

theorem recovered_supply : s.recovered.supply =
    { s.supply with pfw := false, holders := s.supply.holders.filter fun n => !decide (n = srcPowerFail), src := 10, scope := 2, owed := false } := by
  have hu : (((s.modSup fun x => { x with pfw := false }).noteBp).unhold srcPowerFail).supply =
      { s.supply with pfw := false, holders := s.supply.holders.filter fun n => !decide (n = srcPowerFail) } := by
    rw [State.unhold, modSup_supply, noteBp_supply, modSup_supply]
  unfold State.recovered
  dsimp only
  rw [modSup_supply]
  split
  · rw [abandonLost_supply, resetRecord_supply, hu]
    rfl
  · rw [resetEvent_supply, hu]
    rfl

/-- A part outside the fast domain that neither the sequencer nor the journal touches. -/
theorem recovered_parts : s.recovered.boot = s.boot ∧ s.recovered.thermal = s.thermal := by
  have hu : (((s.modSup fun x => { x with pfw := false }).noteBp).unhold srcPowerFail).boot = s.boot ∧
      (((s.modSup fun x => { x with pfw := false }).noteBp).unhold srcPowerFail).thermal = s.thermal := by
    have h := noteBp_aon (s.modSup fun x => { x with pfw := false })
    rw [State.unhold, modSup_boot, modSup_thermal]
    exact ⟨boot_of_aon h, thermal_of_aon h⟩
  unfold State.recovered
  dsimp only
  rw [modSup_boot, modSup_thermal]
  split
  · obtain ⟨_, _, h⟩ := abandonLost_aon ((((s.modSup fun x => { x with pfw := false }).noteBp).unhold srcPowerFail).resetRecord srcPowerFail 2)
    obtain ⟨_, k⟩ := resetRecord_aon (((s.modSup fun x => { x with pfw := false }).noteBp).unhold srcPowerFail) srcPowerFail 2
    rw [k] at h
    exact ⟨(boot_of_aon h).trans hu.1, (thermal_of_aon h).trans hu.2⟩
  · have h := resetEvent_aon (((s.modSup fun x => { x with pfw := false }).noteBp).unhold srcPowerFail) srcPowerFail 2
    exact ⟨(boot_of_aon h).trans hu.1, (thermal_of_aon h).trans hu.2⟩

/-- Whether its first step is ready or not, the power-up order touches the sequencer alone among the supplies. -/
theorem startUp_supply : ∃ p, s.startUp.supply = { s.supply with pwr := p } ∧ (s.boot.board.getLsbD 5 = true → p = .up 1) := by
  unfold State.startUp
  generalize hu : (s.modBoot fun b => { b with st := if b.st.inRom then b.st else .rails }) = u
  have hboard : u.boot.board = s.boot.board := by rw [← hu]; rfl
  have hsup : u.supply = s.supply := by rw [← hu]; rfl
  cases hb : s.boot.board.getLsbD 5 with
  | true =>
    rw [beginStep_ready (n := 1) fun i hi => by rw [List.mem_singleton.mp hi, hboard, hb], ← hsup]
    exact ⟨_, rfl, fun _ => rfl⟩
  | false =>
    obtain ⟨r, hr⟩ := beginStep_failed (s := u) (n := 1) ⟨5, List.mem_singleton_self 5, by rw [hboard, hb]⟩
    rw [hr, stepFailed_supply, hsup]
    exact ⟨_, rfl, fun h => by cases h⟩

end

/-! ## Rails (R717, R718) -/

section
variable (s : State)

theorem railFault_parts (r : Nat) : (s.railFault r).fastUp = false ∧ (s.boot.st.inRom = false → (s.railFault r).boot.st = .standby) := by
  obtain ⟨hup, _⟩ := powerFault_parts (s.supplyEvent r 2) srcSupply
  refine ⟨hup, fun h => powerFault_standby _ _ ?_⟩
  rw [supplyEvent_boot]
  exact h

/-- The state with a rail's readings, and its GOOD bit. -/
def State.railNoted (s : State) (x : RailReading) : State :=
  s.modSup fun y =>
    { y with
      rails := put y.rails x.rail ⟨x.volts, x.amps, x.temp, x.status⟩
      good := if s.inWindow x.rail x.volts && s.railOn x.rail then y.good ||| railBits [x.rail] else y.good &&& ~~~railBits [x.rail]
      vbatLow := if x.rail = 7 then decide (x.rail = 7) && below x.volts 2200000 else y.vbatLow }

theorem railNoted_good {x : RailReading} (h : x.rail < 14) : (s.railNoted x).supply.good.getLsbD x.rail = (s.inWindow x.rail x.volts && s.railOn x.rail) := by
  have hg : (s.railNoted x).supply.good =
      if s.inWindow x.rail x.volts && s.railOn x.rail then s.supply.good ||| railBits [x.rail] else s.supply.good &&& ~~~railBits [x.rail] := rfl
  rw [hg]
  split
  · next hw => rw [BitVec.getLsbD_or, railBits_getLsbD _ h, hw]; simp
  · next hw => rw [clearRails_getLsbD _ _ h, Bool.eq_false_iff.mpr hw]; simp

theorem railRead_failed {x : RailReading} (h : x.rail < 14) (hf : x.failed = true) : s.railRead x = s.supplyEvent x.rail 1 := by
  rw [State.railRead]
  simp only [Nat.not_le.mpr h, if_false, hf, if_true]

theorem supply_supplyEventIf (p : Prop) [Decidable p] (r code : Nat) : (if p then s.supplyEvent r code else s).supply = s.supply := by
  split
  · exact supplyEvent_supply s r code
  · rfl

/-- A reading without a hard fault is noted, and may raise events. -/
theorem railRead_supply {x : RailReading} (h : x.rail < 14) (hf : x.failed = false) (hh : x.hardFault = false) :
    (s.railRead x).supply = (s.railNoted x).supply := by
  rw [State.railRead]
  simp only [Nat.not_le.mpr h, if_false, hf, hh, Bool.and_false, Bool.false_eq_true]
  split
  · exact supply_supplyEventIf _ _ _ _
  · rw [supply_supplyEventIf, supply_supplyEventIf]
    rfl

theorem railRead_fault {x : RailReading} (h : x.rail < 14) (hf : x.failed = false) (hs : sequenced x.rail = true) (ho : s.railOn x.rail = true)
    (hh : x.hardFault = true) : s.railRead x = (s.railNoted x).railFault x.rail := by
  have ho' : (s.railNoted x).railOn x.rail = true := ho
  rw [State.railRead]
  simp only [Nat.not_le.mpr h, if_false, hf, hh, Bool.false_eq_true, hs, if_true, Bool.and_true]
  exact if_pos ho'

/-- The state with a rail's readings after SMBALERT_N. -/
def State.alertNoted (s : State) (x : RailReading) : State :=
  (s.supplyEvent x.rail 3).modSup fun y => { y with rails := put y.rails x.rail ⟨x.volts, x.amps, x.temp, x.status⟩ }

theorem smbalertN_fault {x : RailReading} (h : x.rail < 14) (hs : sequenced x.rail = true) (ho : s.railOn x.rail = true) (hh : x.hardFault = true) :
    smbalertN x s = (s.alertNoted x).railFault x.rail := by
  have ho' : (s.alertNoted x).railOn x.rail = true := by
    have hsup : (s.alertNoted x).supply.pwr = s.supply.pwr := by
      have k := congrArg Supply.pwr (supplyEvent_supply s x.rail 3)
      exact k
    rw [State.railOn, hsup]
    exact ho
  rw [smbalertN]
  simp only [h, if_true]
  exact if_pos (by rw [hs, hh, Bool.true_and, Bool.and_true]; exact ho')

theorem smbalertN_quiet {x : RailReading} (h : x.rail < 14) (hh : x.hardFault = false) : smbalertN x s = (s.alertNoted x).supplyEvent x.rail 1 := by
  rw [smbalertN]
  simp only [h, if_true]
  exact if_neg (by simp [hh])

end

/-! ## The loss of VAON18 (R687) -/

/-- A commit that the supplies cut short tears a slot alone, and none while the power-fail warning is in force. -/
theorem tornSlot_ring (s : State) (beats : Nat) : ∃ ring, (if s.supply.pfw then s else s.tornSlot beats) = s.modJnl (fun j => { j with ring := ring }) ∧
    (s.supply.pfw = true → ring = s.jnl.ring) := by
  have hsame : s = s.modJnl fun j => { j with ring := s.jnl.ring } := rfl
  split
  · exact ⟨_, hsame, fun _ => rfl⟩
  · next h =>
    unfold State.tornSlot
    split
    · exact ⟨_, hsame, fun hp => absurd hp h⟩
    · dsimp only
      split
      · exact ⟨_, hsame, fun hp => absurd hp h⟩
      · exact ⟨_, rfl, fun hp => absurd hp h⟩

/-- With no block listed but the management core, every other block stands as after reset. -/
theorem listed_mgmt_other (m : Memory) {c : BlockId} (h : c ≠ mgmtCore) :
    look Block.reset (if m = [] then [] else [(mgmtCore.toNat, { Block.reset with ls := m })]) c.toNat = Block.reset := by
  have hn : c.toNat ≠ mgmtCore.toNat := fun e => h (BitVec.eq_of_toNat_eq e)
  split
  · rfl
  · exact if_neg hn

theorem listed_mgmt_ls (m : Memory) :
    (look Block.reset (if m = [] then [] else [(mgmtCore.toNat, { Block.reset with ls := m })]) mgmtCore.toNat).ls = m := by
  split
  · next h => exact h.symm
  · exact congrArg Block.ls (if_pos rfl)

end Sys2Proof.Machine

/-- Settles O54: a step of the sequencer either goes on or fails, and a power-fail warning holds the fast domain and commits nothing. -/
theorem supplyCommands : Obligations.SupplyCommands := by
  intro s r x step
  have hstep : ∀ n i, i ∈ stepRails n ↔ i ∈ step n := fun n i => mem_stepRails n i
  have hready : ∀ n, s.stepReady n ↔ ∀ i ∈ step n, s.boot.board.getLsbD i = true := fun n => forall_congr' fun i => imp_congr_left (hstep n i)
  refine ⟨rfl, rfl, fun n hp h1 h4 => ⟨fun hb => ?_, fun hn hb => ?_, fun hr => ?_, fun hr => ?_⟩, fun n hp h1 h4 ha => ⟨fun hr => ?_, ?_⟩,
    fun hw hb => ?_, fun hw => ⟨?_, ?_⟩, fun hw => ?_, rfl, fun y hy => ⟨fun hf => ?_, fun hf hh => ?_, fun hs ho hh => ⟨fun hf => ?_, ?_⟩, fun hh => ?_⟩,
    fun beats => ⟨fun hb => ?_, fun hb => ?_⟩⟩
  · by_cases hn : n < 4
    · refine ⟨_, congrArg Host.Outcome.next (powerUpStep_next s hp hn), ?_⟩
      have hr : (s.railsUp n).stepReady (n + 1) := (hready (n + 1)).mpr (hb hn)
      rw [beginStep_ready hr, if_pos hn]
      refine ⟨rfl, fun i hi => ?_, rfl⟩
      have hgood : ((s.railsUp n).setPwr (.up (n + 1))).supply.good = x.good ||| railBits (stepRails n) := rfl
      rw [hgood, BitVec.getLsbD_or, railBits_getLsbD _ hi, decide_eq_decide.mpr (hstep n i)]
    · refine ⟨_, congrArg Host.Outcome.next (powerUpStep_last s hp hn), ?_⟩
      rw [if_neg hn]
      refine ⟨rfl, fun i hi => ?_, rfl⟩
      rw [modBoot_supply, State.setPwr, modSup_supply, State.railsUp, modSup_supply, BitVec.getLsbD_or, railBits_getLsbD _ hi,
        decide_eq_decide.mpr (hstep n i)]
  · obtain ⟨i, hi, hbi⟩ := hb
    obtain ⟨j, hj⟩ := beginStep_failed (s := s.railsUp n) (n := n + 1) ⟨i, (hstep _ i).mpr hi, hbi⟩
    refine ⟨_, congrArg Host.Outcome.next (powerUpStep_next s hp hn), ?_⟩
    rw [hj]
    exact ⟨congrArg Supply.pwr (stepFailed_supply _ j), stepFailed_raised _ j, fun hrom => stepFailed_boot _ j hrom⟩
  · refine ⟨_, congrArg Host.Outcome.next (powerStepTimeout_up s hp ((hstep n _).mpr hr)), ?_⟩
    exact ⟨congrArg Supply.pwr (stepFailed_supply _ _), stepFailed_raised _ _, fun hrom => stepFailed_boot _ _ hrom⟩
  · refine congrArg Host.Outcome.next ?_
    have hr' : r.toNat ∉ stepRails n := fun h => hr ((hstep n _).mp h)
    simp only [powerStepTimeout, show s.supply.pwr = .up n from hp, hr', if_false]
  · have ha' : (s.supplyEvent r.toNat 7).supply.again = false := by rw [supplyEvent_supply]; exact ha
    refine ⟨_, congrArg Host.Outcome.next (powerStepTimeout_down s hp ((hstep n _).mpr hr)), ?_⟩
    rw [downStep_supply _ ha', downStep_jnl _ _ ha']
    exact ⟨rfl, supplyEvent_raised s _ _⟩
  · obtain ⟨hoff, hgood⟩ := downAll_supply s n ha h1
    refine ⟨_, congrArg Host.Outcome.next (powerDownOrder_down s hp), hoff, fun i hi => ?_⟩
    rw [hgood i hi]
    congr 2
    exact decide_eq_decide.mpr (exists_congr fun j => and_congr_right fun _ => hstep j i)
  · obtain ⟨owed, l, he⟩ := powerFailWarning_new hw hb
    obtain ⟨hring, hnext⟩ := warned_slots s
    refine ⟨_, congrArg Host.Outcome.next he, ?_⟩
    rw [State.bp, failHeld_supply, failHeld_jnl, warned_supply]
    exact ⟨rfl, Bool.or_true _, rfl, (mem_insertNat _ _ _).mpr (.inl rfl), hold_fastUp _ _, hring, hnext, rfl, rfl⟩
  · exact congrArg Host.Outcome.next (if_pos (.inl hw))
  · have hsup := recovered_supply s
    obtain ⟨hboot, htherm⟩ := recovered_parts s
    obtain ⟨q, hup, hready⟩ := startUp_supply s.recovered
    have hall : ∃ q', (powerFailRecovery s).supply = { s.recovered.supply with pwr := q' } ∧
        (s.boot.board.getLsbD 5 = true → s.boot.st.inRom = false → s.thermal.trip = false → q' = .up 1) := by
      rw [powerFailRecovery_eq hw, hboot, htherm]
      split
      · next hst => exact ⟨s.recovered.supply.pwr, rfl, fun _ hrom htrip => by simp [hrom, htrip] at hst⟩
      · exact ⟨q, hup, fun hb _ _ => hready (by rw [hboot]; exact hb)⟩
    obtain ⟨q', hq, hup1⟩ := hall
    refine ⟨_, rfl, ?_⟩
    rw [hq, hsup]
    exact ⟨rfl, by simp, rfl, rfl, hup1⟩
  · exact congrArg Host.Outcome.next (if_neg (by rw [show s.supply.pfw = false from hw]; decide))
  · refine ⟨_, congrArg Host.Outcome.next (railRead_failed s hy hf), supplyEvent_supply _ _ _, supplyEvent_raised _ _ _⟩
  · have hsup := railRead_supply s hy hf hh
    refine ⟨s.railRead y, rfl, ?_⟩
    rw [hsup, railNoted_good s hy]
    exact ⟨look_put_same _ _ _ _, rfl, rfl⟩
  · refine ⟨_, congrArg Host.Outcome.next (railRead_fault s hy hf hs ho hh), ?_⟩
    exact railFault_parts _ _
  · refine ⟨_, congrArg Host.Outcome.next (smbalertN_fault s hy hs ho hh), ?_⟩
    obtain ⟨hup, hst⟩ := railFault_parts (s.alertNoted y) y.rail
    refine ⟨hup, fun hrom => hst ?_⟩
    rw [State.alertNoted, modSup_boot, supplyEvent_boot]
    exact hrom
  · refine ⟨_, congrArg Host.Outcome.next (smbalertN_quiet s hy hh), ?_⟩
    rw [supplyEvent_raised, supplyEvent_supply, State.alertNoted, modSup_jnl, modSup_supply, supplyEvent_raised, supplyEvent_supply]
    exact ⟨BitVec.add_assoc _ 1 1, rfl⟩
  · exact congrArg Host.Outcome.next (if_pos hb)
  · obtain ⟨ring, hu, hring⟩ := tornSlot_ring s beats
    refine ⟨lossOfVaon18 beats s, rfl, ?_⟩
    unfold lossOfVaon18
    rw [if_neg hb, hu]
    refine ⟨rfl, rfl, fun c hc => ?_, ?_, rfl, rfl, rfl, hring, rfl, rfl, rfl, rfl, rfl, rfl⟩
    · exact listed_mgmt_other _ hc
    · exact listed_mgmt_ls _

end

/-! # Reset sources, records and the watchdog (R546, R675, R679, R698 to R713): the proofs -/

section
open Sys2Proof Sys2Proof.Machine

namespace Sys2Proof.Machine

/-! ## What disarming trace leaves of commands and of the management core -/

/-- The management core stands in the list of blocks. -/
def State.mgmtListed (s : State) : Prop := ∃ x, (mgmtCore.toNat, x) ∈ s.blocks

/-- The host's commands, and the management core but for its trace unit, are as before. -/
structure TraceKept (s t : State) : Prop where
  cmds : t.hif.cmds = s.hif.cmds
  core : (t.blk mgmtCore).core = (s.blk mgmtCore).core
  ls : (t.blk mgmtCore).ls = (s.blk mgmtCore).ls
  listed : s.mgmtListed → t.mgmtListed

theorem traceKept_refl (s : State) : TraceKept s s := ⟨rfl, rfl, rfl, id⟩

theorem traceKept_trans {s t u : State} (h : TraceKept s t) (k : TraceKept t u) : TraceKept s u :=
  ⟨k.cmds.trans h.cmds, k.core.trans h.core, k.ls.trans h.ls, k.listed ∘ h.listed⟩

theorem traceKept_ite {s t u : State} {p : Prop} [Decidable p] (ht : TraceKept s t) (hu : TraceKept s u) : TraceKept s (if p then t else u) := by
  split
  · exact ht
  · exact hu

theorem traceKept_foldl {α : Type} {f : State → α → State} (h : ∀ s x, TraceKept s (f s x)) (l : List α) (s : State) : TraceKept s (l.foldl f s) := by
  induction l generalizing s with
  | nil => exact traceKept_refl s
  | cons x l ih => exact traceKept_trans (h s x) (ih _)

theorem traceKept_of_blocks {s t : State} (hc : t.hif.cmds = s.hif.cmds) (hb : t.blocks = s.blocks) (hr : t.rest = s.rest) : TraceKept s t := by
  have hblk : t.blk mgmtCore = s.blk mgmtCore := by rw [State.blk, State.blk, hb, hr]
  exact ⟨hc, by rw [hblk], by rw [hblk], fun ⟨x, hx⟩ => ⟨x, by rw [hb]; exact hx⟩⟩

theorem mem_put_self {α : Type} (t : Tab α) (k : Nat) (v : α) : (k, v) ∈ put t k v := by
  induction t with
  | nil => exact List.mem_singleton_self _
  | cons e t ih =>
    obtain ⟨j, w⟩ := e
    unfold put
    split
    · exact List.mem_cons_self
    · split
      · exact List.mem_cons_self
      · exact List.mem_cons_of_mem _ ih

theorem mem_put_of_ne {α : Type} {t : Tab α} {k j : Nat} {w : α} (v : α) (h : (j, w) ∈ t) (hne : j ≠ k) : (j, w) ∈ put t k v := by
  induction t with
  | nil => cases h
  | cons e t ih =>
    obtain ⟨i, u⟩ := e
    unfold put
    split
    · exact List.mem_cons_of_mem _ h
    · split
      · next hk =>
        refine List.mem_cons_of_mem _ ((List.mem_cons.mp h).resolve_left fun he => hne ?_)
        rw [Prod.mk.injEq] at he
        exact he.1.trans hk.symm
      · rcases List.mem_cons.mp h with he | h
        · rw [he]
          exact List.mem_cons_self
        · exact List.mem_cons_of_mem _ (ih h)

section
variable (s : State)

/-- A change of a trace unit. -/
theorem traceKept_modBlk (b : BlockId) (f : Trc → Trc) : TraceKept s (s.modBlk b fun x => { x with trc := f x.trc }) := by
  by_cases hb : mgmtCore = b
  · subst hb
    refine ⟨rfl, by rw [blk_modBlk_same], by rw [blk_modBlk_same], fun _ => ⟨_, mem_put_self s.blocks mgmtCore.toNat _⟩⟩
  · refine ⟨rfl, by rw [blk_modBlk_ne s _ hb], by rw [blk_modBlk_ne s _ hb], fun ⟨x, hx⟩ => ⟨x, mem_put_of_ne _ hx fun e => hb (BitVec.eq_of_toNat_eq e)⟩⟩

theorem traceKept_const (b : BlockId) (t : Trc) : TraceKept s (s.modBlk b fun x => { x with trc := t }) := traceKept_modBlk s b fun _ => t

theorem traceKept_openPacket (b : BlockId) (n : Nat) : TraceKept s (s.openPacket b n) := by
  unfold State.openPacket
  dsimp only
  generalize (if 56 < (s.blk b).trc.form.length + n then (s.blk b).trc.close b .full else (s.blk b).trc) = t
  exact traceKept_ite (traceKept_ite (traceKept_const s b _) (traceKept_const s b _)) (traceKept_const s b _)

theorem traceKept_putRecord (b : BlockId) (l : List Byte) : TraceKept s (s.putRecord b l) :=
  traceKept_trans (traceKept_openPacket s b _) (traceKept_modBlk _ b fun t => { t with form := t.form ++ l, records := t.records + 1 })

theorem traceKept_flushOutcomes (b : BlockId) : TraceKept s (s.flushOutcomes b) := by
  unfold State.flushOutcomes
  split
  · exact traceKept_refl s
  · exact traceKept_trans (traceKept_modBlk s b fun t => { t with outcomes := [] }) (traceKept_putRecord _ b _)

theorem traceKept_traceClose (b : BlockId) (why : CloseWhy) : TraceKept s (s.traceClose b why) :=
  traceKept_ite (traceKept_trans (traceKept_flushOutcomes s b) (traceKept_modBlk _ b fun t => t.close b why)) (traceKept_refl s)

theorem traceKept_disarmBlock (b : BlockId) : TraceKept s (s.disarmBlock b) :=
  traceKept_ite (traceKept_trans (traceKept_traceClose s b _) (traceKept_modBlk _ b fun t => { t with en := false })) (traceKept_refl s)

theorem traceKept_beginDisarm : TraceKept s s.beginDisarm :=
  traceKept_trans (traceKept_foldl traceKept_disarmBlock s.listed s) (traceKept_of_blocks rfl rfl rfl)

theorem traceKept_setSink (e : Edge) (k : Sink) : TraceKept s (s.setSink e k) := traceKept_of_blocks rfl rfl rfl

theorem traceKept_modEdge (e : Edge) (f : EdgeDie → EdgeDie) : TraceKept s (s.modEdge e f) := by
  cases e <;> exact traceKept_of_blocks rfl rfl rfl

theorem traceKept_bump (i j n : Nat) : TraceKept s (s.bump i j n) := by
  unfold State.bump State.keepCounter
  dsimp only
  exact traceKept_ite (traceKept_of_blocks rfl rfl rfl) (traceKept_of_blocks rfl rfl rfl)

theorem traceKept_sinkEntry (e : Edge) (l : List Byte) : TraceKept s (s.sinkEntry e l) :=
  traceKept_ite (traceKept_of_blocks rfl rfl rfl) (traceKept_trans (traceKept_modEdge s e _) (traceKept_setSink _ e _))

theorem traceKept_sinkMarker (e : Edge) : TraceKept s (s.sinkMarker e) :=
  traceKept_ite (traceKept_refl s)
    (traceKept_trans (traceKept_trans (traceKept_sinkEntry s e _) (traceKept_setSink _ e _)) (traceKept_bump _ _ _ _))

theorem traceKept_sinkDrop (e : Edge) : TraceKept s (s.sinkDrop e) := traceKept_of_blocks rfl rfl rfl

theorem traceKept_sinkTake (e : Edge) (l : List Byte) : TraceKept s (s.sinkTake e l) :=
  traceKept_ite (traceKept_of_blocks rfl rfl rfl) (traceKept_ite (traceKept_setSink s e _) (traceKept_sinkDrop s e))

theorem traceKept_stored (e : Edge) (l : List Byte) (k : Sink) : TraceKept s (((s.setSink e k).sinkMarker e).sinkEntry e l).traceStored :=
  traceKept_trans (traceKept_setSink s e k) (traceKept_trans (traceKept_sinkMarker _ e) (traceKept_trans (traceKept_sinkEntry _ e l)
    (traceKept_of_blocks rfl rfl rfl)))

theorem traceKept_sinkStore (e : Edge) (ok : Bool) : TraceKept s (sinkStore e ok s) := by
  unfold sinkStore
  dsimp only
  split
  · exact traceKept_refl s
  · exact traceKept_ite (traceKept_refl s)
      (traceKept_ite (traceKept_ite (traceKept_stored s e _ _) (traceKept_of_blocks rfl rfl rfl))
        (traceKept_ite (traceKept_stored s e _ _) (traceKept_of_blocks rfl rfl rfl)))

theorem traceKept_flushBlock (b : BlockId) : TraceKept s (s.flushBlock b) := by
  unfold State.flushBlock
  dsimp only
  refine traceKept_trans (traceKept_trans (traceKept_modBlk s b fun t => { t with node := [], closed := [] }) ?_)
    (traceKept_foldl (fun s p => traceKept_trans (traceKept_sinkTake s _ _) (traceKept_sinkStore _ _ true)) _ _)
  exact traceKept_of_blocks rfl rfl rfl

theorem traceKept_modTrace (f : TraceSys → TraceSys) : TraceKept s (s.modTrace f) := traceKept_of_blocks rfl rfl rfl

theorem traceKept_settleTrace : TraceKept s s.settleTrace := traceKept_of_blocks rfl rfl rfl

theorem traceKept_endDisarm : TraceKept s s.endDisarm := by
  have hmark : ∀ (s : State) (e : Edge), TraceKept s (if s.trace.host ∨ 64 ≤ (s.sink e).size then s.sinkMarker e else s) :=
    fun s e => traceKept_ite (traceKept_sinkMarker s e) (traceKept_refl s)
  unfold State.endDisarm
  dsimp only
  exact traceKept_trans (traceKept_trans (hmark s .e0) (hmark _ .e1)) (traceKept_trans (traceKept_modTrace _ _) (traceKept_settleTrace _))

theorem traceKept_disarmNow : TraceKept s s.disarmNow := by
  have hdrain : ∀ (s : State) (e : Edge), TraceKept s ((s.sink e).buf.foldl (fun s _ => sinkStore e true s) s) :=
    fun s e => traceKept_foldl (fun s _ => traceKept_sinkStore s e true) _ s
  refine traceKept_ite ?_ (traceKept_refl s)
  refine traceKept_trans (traceKept_beginDisarm s) (traceKept_trans (hdrain _ .e0) (traceKept_trans (hdrain _ .e1) ?_))
  refine traceKept_trans ?_ (traceKept_trans (traceKept_foldl traceKept_flushBlock _ _) (traceKept_endDisarm _))
  refine traceKept_trans ?_ (traceKept_foldl (fun s t => traceKept_trans (traceKept_sinkTake s _ _) (traceKept_sinkStore _ _ true)) _ _)
  exact traceKept_of_blocks rfl rfl rfl

theorem traceKept_raise (kind : Nat) (ref result tag : W64) : TraceKept s (s.raise kind ref result tag) := traceKept_of_blocks rfl rfl rfl

theorem traceKept_portsHeld : TraceKept s s.portsHeld := by
  unfold State.portsHeld State.eachPort
  exact traceKept_foldl (fun s _ => traceKept_ite (traceKept_refl s) (traceKept_raise s _ _ _ _)) _ s

end

/-! ## What the fall of the fast domain leaves of blocks and of the host interface -/

section
variable (s : State)

/-- The blocks as they are listed. -/
def State.listing (s : State) : Tab Block × Tab Block := (s.blocks, s.rest)

theorem listing_abandonCmd (c : Cmd) (r : Nat) : (s.abandonCmd c r).listing = s.listing := rfl
theorem listing_settleQueues : s.settleQueues.listing = s.listing := rfl
theorem listing_bumpTerm (key n : Nat) : (s.bumpTerm key n).listing = s.listing := rfl
theorem listing_modQueue (q : QueueId) (f : Queue → Queue) : (s.modQueue q f).listing = s.listing := rfl
theorem listing_modJnl (f : Jnl → Jnl) : (s.modJnl f).listing = s.listing := rfl
theorem listing_modHif (f : Hif → Hif) : (s.modHif f).listing = s.listing := rfl

theorem listing_disableQueue (q : QueueId) (r : Nat) : (s.disableQueue q r).listing = s.listing := by
  unfold State.disableQueue
  dsimp only
  split
  · rfl
  · refine (foldl_keeps State.listing (fun s c => listing_abandonCmd s c r) _ _).trans ?_
    rw [listing_modHif, listing_modJnl, listing_modQueue, listing_settleQueues, listing_bumpTerm]

theorem listing_clearHif (n : Nat) : (s.clearHif n).listing = s.listing := by
  unfold State.clearHif
  rw [listing_modHif]
  exact foldl_keeps State.listing (fun s q => listing_disableQueue s (BitVec.ofNat 6 q) n) _ s

/-- What back-pressure touches of the host interface is neither its commands nor its link. -/
theorem noteBp_host : (s.noteBp.hif.cmds, s.noteBp.hif.linkUp, s.noteBp.listing) = (s.hif.cmds, s.hif.linkUp, s.listing) := by
  unfold State.noteBp
  split
  · unfold State.hifEvent State.raiseVector
    dsimp only
    split
    · split <;> rfl
    · rfl
  · rfl
  · rfl

/-- The host interface with its link down. -/
theorem hifDown_host : (s.hifDown.hif.cmds, s.hifDown.hif.linkUp, s.hifDown.listing) =
    (s.hif.cmds.filter (fun c => !decide (c.phase = .ended)), false, s.listing) := by
  unfold State.hifDown
  dsimp only
  rw [noteBp_host, listing_settleQueues, listing_modHif, listing_modJnl, listing_bumpTerm, listing_clearHif]
  rfl

theorem bump_host (i j n : Nat) : ((s.bump i j n).hif, (s.bump i j n).listing) = (s.hif, s.listing) := by
  unfold State.bump State.keepCounter
  dsimp only
  split <;> rfl

/-- The state whose fall is counted, with every command that has not ended. -/
def State.fallen (s : State) : State := s.portsHeld.disarmNow.hifDown.bump 0x2200 2

theorem fastDown_eq : s.fastDown = s.fallen.fastCleared := rfl

theorem fallen_kept : TraceKept s s.portsHeld.disarmNow := traceKept_trans (traceKept_portsHeld s) (traceKept_disarmNow _)

theorem fallen_host : s.fallen.hif.cmds = s.hif.cmds.filter (fun c => !decide (c.phase = .ended)) ∧ s.fallen.hif.linkUp = false ∧
    s.fallen.listing = s.portsHeld.disarmNow.listing := by
  have h := hifDown_host s.portsHeld.disarmNow
  rw [(fallen_kept s).cmds] at h
  have hb := bump_host s.portsHeld.disarmNow.hifDown 0x2200 2 1
  rw [Prod.mk.injEq] at hb
  rw [Prod.mk.injEq, Prod.mk.injEq] at h
  rw [State.fallen, hb.1, hb.2]
  exact h

/-- The host interface, and the blocks as they are listed. -/
def State.host (s : State) : Hif × Tab Block × Tab Block := (s.hif, s.listing)

theorem host_settleBook (index : Nat) (ok : Bool) (terms : List Nat) : (s.settleBook index ok terms).host = s.host := rfl
theorem host_settleEvents : s.settleEvents.host = s.host := host_settleBook s _ _ _
theorem host_commitRec (r : Rec) : (s.commitRec r).host = s.host := rfl
theorem host_modJnl (f : Jnl → Jnl) : (s.modJnl f).host = s.host := rfl
theorem host_modSup (f : Supply → Supply) : (s.modSup f).host = s.host := rfl
theorem host_modBoot (f : Boot → Boot) : (s.modBoot f).host = s.host := rfl

theorem host_resetRecord (src scope : Nat) : (s.resetRecord src scope).host = s.host := by
  unfold State.resetRecord
  dsimp only
  rw [host_settleEvents, host_commitRec, host_modJnl, State.lastReset, host_modSup]

/-- The state with the ABANDONED records of a list of commands. -/
def State.abandonedOf (s : State) (l : List Cmd) : State := l.foldl (fun s c => (s.commitRec (s.cmdRecord c 5 (abandonResult c) 0)).settleEvents) s

theorem abandonLost_eq : s.abandonLost = (s.abandonedOf s.hif.cmds).modHif fun h => { h with cmds := [] } := rfl

theorem host_abandonedOf (l : List Cmd) : (s.abandonedOf l).host = s.host :=
  foldl_keeps State.host (fun u _ => (host_settleEvents _).trans (host_commitRec u _)) l s

theorem hif_of_host {s t : State} (h : t.host = s.host) : t.hif = s.hif := congrArg Prod.fst h
theorem listing_of_host {s t : State} (h : t.host = s.host) : t.listing = s.listing := congrArg Prod.snd h

/-- The host interface without commands. -/
def Hif.noCmds (h : Hif) : Hif := { h with cmds := [] }

theorem noCmds_linkUp (h : Hif) : h.noCmds.linkUp = h.linkUp := rfl
theorem noCmds_cmds (h : Hif) : h.noCmds.cmds = [] := rfl

theorem fastCleared_hif : s.fastCleared.hif = s.hif := rfl

theorem blocks_of_listing {s t : State} (h : t.listing = s.listing) : t.blocks = s.blocks := congrArg Prod.fst h

theorem abandonLost_host : s.abandonLost.hif = s.hif.noCmds ∧ s.abandonLost.listing = s.listing := by
  have h := host_abandonedOf s s.hif.cmds
  rw [abandonLost_eq, modHif_hif, listing_modHif, hif_of_host h, listing_of_host h]
  exact ⟨rfl, rfl⟩

/-- A block by the lists. -/
theorem blk_of_listing {s t : State} (h : t.listing = s.listing) (c : BlockId) : t.blk c = s.blk c := by
  have hb : t.blocks = s.blocks := congrArg Prod.fst h
  have hr : t.rest = s.rest := congrArg Prod.snd h
  rw [State.blk, State.blk, hb, hr]

/-- Of the fast domain nothing stands but the management core (R701). -/
theorem fastReset_up_host {src scope : Nat} (h : s.fastUp = true) : (s.fastReset src scope).hif = s.fallen.hif.noCmds ∧
    (s.fastReset src scope).listing = s.fallen.fastCleared.listing := by
  have hrec := host_resetRecord s.fallen.fastCleared src scope
  obtain ⟨hh, hl⟩ := abandonLost_host (s.fallen.fastCleared.resetRecord src scope)
  rw [hif_of_host hrec, fastCleared_hif] at hh
  rw [listing_of_host hrec] at hl
  have hboot := host_modBoot (s.fallen.fastCleared.resetRecord src scope).abandonLost fun b => { b with st := s.boot.st.afterReset }
  rw [fastReset_of_up s h, fastDown_eq, hif_of_host hboot, listing_of_host hboot]
  exact ⟨hh, hl⟩

theorem fastReset_up_link {src scope : Nat} (h : s.fastUp = true) :
    (s.fastReset src scope).hif.linkUp = false ∧ (s.fastReset src scope).hif.cmds = [] := by
  obtain ⟨hh, _⟩ := fastReset_up_host s (src := src) (scope := scope) h
  rw [hh, noCmds_linkUp, noCmds_cmds]
  exact ⟨(fallen_host s).2.1, rfl⟩

theorem fastCleared_blk (c : BlockId) : s.fastCleared.blk c = look Block.reset (s.blocks.filter fun e => decide (e.1 = mgmtCore.toNat)) c.toNat := rfl

theorem fastReset_up_blk {src scope : Nat} (h : s.fastUp = true) {c : BlockId} (hc : c ≠ mgmtCore) : (s.fastReset src scope).blk c = Block.reset := by
  obtain ⟨_, hl⟩ := fastReset_up_host s (src := src) (scope := scope) h
  rw [blk_of_listing hl c, fastCleared_blk]
  have hn : c.toNat ≠ mgmtCore.toNat := fun e => hc (BitVec.eq_of_toNat_eq e)
  exact look_filter_out Block.reset s.fallen.blocks _ fun e he => decide_eq_false fun h => hn (he.symm.trans h)

theorem look_of_mem {α : Type} (d e : α) {t : Tab α} {k : Nat} (h : ∃ x, (k, x) ∈ t) : look d t k = look e t k := by
  induction t with
  | nil => obtain ⟨x, hx⟩ := h; cases hx
  | cons p t ih =>
    obtain ⟨j, v⟩ := p
    unfold look
    split
    · rfl
    · next hk =>
      obtain ⟨x, hx⟩ := h
      refine ih ⟨x, (List.mem_cons.mp hx).resolve_left fun he => hk ?_⟩
      rw [Prod.mk.injEq] at he
      exact he.1

/-- The management core goes on, where the list holds it. -/
theorem fastReset_up_mgmt {src scope : Nat} (h : s.fastUp = true) (hm : s.mgmtListed) :
    ((s.fastReset src scope).blk mgmtCore).core = (s.blk mgmtCore).core ∧ ((s.fastReset src scope).blk mgmtCore).ls = (s.blk mgmtCore).ls := by
  obtain ⟨_, hl⟩ := fastReset_up_host s (src := src) (scope := scope) h
  have hfall : s.fallen.blocks = s.portsHeld.disarmNow.blocks := blocks_of_listing (fallen_host s).2.2
  have hkept := fallen_kept s
  have hblk : (s.fastReset src scope).blk mgmtCore = s.portsHeld.disarmNow.blk mgmtCore := by
    rw [blk_of_listing hl]
    rw [fastCleared_blk, look_filter Block.reset s.fallen.blocks _ fun e he => decide_eq_true he, hfall]
    exact look_of_mem _ _ (hkept.listed hm)
  rw [hblk]
  exact ⟨hkept.core, hkept.ls⟩

/-! ## The reset record (R546) -/

/-- The event of a reset. -/
def State.resetNote (s : State) (src scope : Nat) : Event := ⟨0x0500, BitVec.ofNat 64 src, BitVec.ofNat 64 scope, 0, s.time64, s.recFlags⟩

theorem took_settleEvents {j : Jnl} {r : Rec} {u : State} (h : Took j u.jnl r) : Took j u.settleEvents.jnl r := h

theorem resetRecord_took (src scope : Nat) : Took s.jnl (s.resetRecord src scope).jnl ((s.resetNote src scope).record.committed s) := by
  have h := took_commitRec ((s.lastReset src scope).modJnl fun j => { j with raised := j.raised + 1, recorded := j.recorded + 1 })
    (s.resetNote src scope).record
  unfold State.resetRecord
  exact took_settleEvents (h.to_same rfl rfl rfl)

/-- With no command to abandon, the reset's own record is the one that the journal takes. -/
theorem fastReset_up_took {src scope : Nat} (h : s.fastUp = true) (hc : s.hif.cmds = []) : ∃ r : Rec, Took s.jnl (s.fastReset src scope).jnl r ∧
    r.ref = BitVec.ofNat 64 src ∧ r.result = BitVec.ofNat 64 scope ∧ r.opcode = 0x0500 ∧ r.ty = 0x10 := by
  have hcmds : s.fallen.fastCleared.hif.cmds = [] := by
    have hf := (fallen_host s).1
    rw [fastCleared_hif, hf, hc]
    rfl
  have hlost : (s.fastDown.resetRecord src scope).abandonLost.jnl = (s.fastDown.resetRecord src scope).jnl := by
    rw [abandonLost_eq, hif_of_host (host_resetRecord s.fastDown src scope), fastDown_eq, hcmds]
    rfl
  have haon := fastDown_aon s
  have hring : s.fastDown.jnl.ring = s.jnl.ring := ring_of_aon haon
  have hnext : s.fastDown.jnl.next = s.jnl.next := next_of_aon haon
  have hgen : s.fastDown.jnl.gen = s.jnl.gen := gen_of_aon haon
  have htook := (resetRecord_took s.fastDown src scope).to_same hring hnext hgen
  rw [← hlost] at htook
  rw [fastReset_of_up s h, modBoot_jnl]
  exact ⟨_, htook, rfl, rfl, rfl, rfl⟩

theorem fastReset_up_count {src scope : Nat} (h : s.fastUp = true) :
    (s.fastReset src scope).counter 0x2200 2 = min (s.counter 0x2200 2 + 1) (2 ^ 64 - 1) := by
  obtain ⟨ring, next, haon⟩ := fastReset_aon_up s (src := src) (scope := scope) h
  have hcounts : (s.fastReset src scope).aon.counts (256 * 0x2200 + 2) = s.resetsCounted := by
    simp only [haon, Aon.fallen, Aon.lastReset, Aon.logged, Function.update_self]
  have hr : retainedCount (256 * 0x2200 + 2) = true := by decide
  have hs : s.portsHeld.disarmNow.hifDown.aon = s.aon := by rw [hifDown_aon, disarmNow_aon, portsHeld_aon]
  have hcount : s.resetsCounted = min (s.counter 0x2200 2 + 1) (2 ^ 64 - 1) := by
    rw [State.resetsCounted, bump_counter, counter_of_aon hs hr, counter_of_aon (s := s) rfl hr]
  have hread := counter_of_aon (s := s.fastReset src scope) rfl hr
  rw [hread, hcounts, hcount]

/-! ## A retention clear (R544, R698) -/

/-- The counters and the firmware data of retention are gone. -/
def State.retentionCleared (s : State) : State :=
  let u : State :=
    { s with
      health := s.health.filter fun e => !retainedCount e.1
      ledgers := s.ledgers.map fun e => (e.1, { e.2 with fails := 0 })
      clkmon := s.clkmon.map fun e => (e.1, { e.2 with fails := 0 })
      elt := { s.elt with delay := 0 } }
  if (u.blk mgmtCore).ls = [] then u else u.modBlk mgmtCore fun x => { x with ls := [] }

/-- The time is no longer valid, and free running has no locks then. -/
def State.timeLost (s : State) (old : W64) : State :=
  let u := s.modTime fun t => { t with valid := false }
  if u.time.source = 0 then u.followValid old else u

/-- What follows with the time that is left: the events, fresh copies, and the latch (R693). -/
def State.retentionBegun (u : State) (src scope : Nat) : State :=
  ((({ u.raise 0x0600 0 (repairResult 7 0xFF 0xFF 0 0 0) with lastPlanId := 0 } : State).freshRetention).modSup fun x =>
    { x with latch := true }).resetEvent src scope

theorem clearRetention_eq (src scope : Nat) : s.clearRetention src scope =
    (s.retentionCleared.newGeneration.timeLost s.retentionCleared.newGeneration.timeBefore).retentionBegun src scope := by
  unfold State.clearRetention State.retentionBegun State.timeLost State.retentionCleared
  dsimp only

theorem retainedCounts_filtered (t : Tab Nat) : retainedCounts (t.filter fun e => !retainedCount e.1) = fun _ => 0 := by
  funext key
  unfold retainedCounts
  split
  · next h => exact look_filter_out 0 t _ fun e he => by rw [he, h]; rfl
  · rfl

theorem retentionCleared_aon : s.retentionCleared.aon =
    { s.aon with counts := fun _ => 0, clkmon := s.clkmon.map fun e => (e.1, { e.2 with fails := 0 }) } := by
  rw [← retainedCounts_filtered s.health]
  unfold State.retentionCleared
  dsimp only
  split <;> rfl

/-- The GENERATION record (R544). -/
def State.generationRec (s : State) : Rec := { deviceRecord 0x20 s.time64 0 0 (s.jnl.gen + 1) 0 s.recFlags with planId := s.planId }

/-- The journal begins again with its GENERATION record in slot 1. -/
def Aon.regenerated (a : Aon) (r : Rec) : Aon := { a with ring := [(1, recordBytes 1 (a.gen + 1) r)], next := 2, gen := a.gen + 1 }

theorem newGeneration_aon : s.newGeneration.aon = s.aon.regenerated s.generationRec := by
  unfold State.newGeneration
  dsimp only
  rw [settleEvents_aon, commitRec_aon]
  rfl

theorem timeLost_aon (old : W64) : ∃ t : Time, (s.timeLost old).aon = { s.aon with time := t } ∧ t.valid = false := by
  unfold State.timeLost State.followValid
  dsimp only
  split
  · exact ⟨_, setLocks_aon _ _ _ _, rfl⟩
  · exact ⟨_, rfl, rfl⟩

/-- What a retention clear leaves outside the fast domain. -/
def Aon.cleared (a : Aon) (src scope : Nat) (r : Rec) (clk : Tab ClkMon) (t : Time) : Aon :=
  { (a.regenerated r).lastReset src scope with
    supply := { a.supply with latch := true, src := BitVec.ofNat 4 src, scope := BitVec.ofNat 4 scope }, counts := fun _ => 0, clkmon := clk, time := t,
    lastPlanId := 0 }

theorem retentionBegun_aon (src scope : Nat) : (s.retentionBegun src scope).aon =
    { s.aon with supply := { s.supply with latch := true, src := BitVec.ofNat 4 src, scope := BitVec.ofNat 4 scope }, lastPlanId := 0 } := by
  have hraise := raise_aon s 0x0600 0 (repairResult 7 0xFF 0xFF 0 0 0) 0
  have hfresh : ∀ u : State, (({ u with lastPlanId := 0 } : State).freshRetention.modSup fun x => { x with latch := true }).aon =
      { u.aon with lastPlanId := 0, supply := { u.supply with latch := true } } := fun _ => rfl
  rw [State.retentionBegun, resetEvent_aon, hfresh, hraise]
  rfl

theorem clearRetention_aon (src scope : Nat) : ∃ r clk t, (s.clearRetention src scope).aon = s.aon.cleared src scope r clk t ∧ t.valid = false ∧
    r.ty = 0x20 ∧ r.result = s.jnl.gen + 1 := by
  obtain ⟨t, ht, hv⟩ := timeLost_aon s.retentionCleared.newGeneration s.retentionCleared.newGeneration.timeBefore
  have hgen : s.retentionCleared.jnl.gen = s.jnl.gen := gen_of_aon (retentionCleared_aon s)
  rw [newGeneration_aon, retentionCleared_aon] at ht
  have hsup := supply_of_aon ht
  refine ⟨s.retentionCleared.generationRec, s.clkmon.map fun e => (e.1, { e.2 with fails := 0 }), t, ?_, hv, rfl, by rw [State.generationRec, hgen]; rfl⟩
  rw [clearRetention_eq, retentionBegun_aon, ht, hsup]
  rfl

theorem host_raise (kind : Nat) (ref result tag : W64) : (s.raise kind ref result tag).host = s.host := rfl
theorem host_modTime (f : Time → Time) : (s.modTime f).host = s.host := rfl
theorem host_retain (n : Nat) (l : List Byte) : (s.retain n l).host = s.host := rfl

theorem host_setLocks (t f : Bool) (old : W64) : (s.setLocks t f old).host = s.host := by
  unfold State.setLocks State.timeEvent
  dsimp only
  split <;> split <;> simp only [host_raise, host_modTime]

theorem host_newGeneration : s.newGeneration.host = s.host := by
  unfold State.newGeneration
  dsimp only
  rw [host_settleEvents, host_commitRec, host_modJnl, host_retain]

theorem host_timeLost (old : W64) : (s.timeLost old).host = s.host := by
  unfold State.timeLost State.followValid
  dsimp only
  split
  · rw [host_setLocks, host_modTime]
  · rfl

theorem host_retentionBegun (src scope : Nat) : (s.retentionBegun src scope).host = s.host := by
  unfold State.retentionBegun State.resetEvent
  rw [host_raise]
  rfl

theorem clearRetention_host (src scope : Nat) : (s.clearRetention src scope).host = s.retentionCleared.host := by
  rw [clearRetention_eq, host_retentionBegun, host_timeLost, host_newGeneration]

theorem retentionCleared_hif : s.retentionCleared.hif = s.hif := by
  unfold State.retentionCleared
  dsimp only
  split <;> rfl

/-- The firmware data are 0, and other blocks are as before. -/
theorem retentionCleared_blk (c : BlockId) : (c ≠ mgmtCore → s.retentionCleared.blk c = s.blk c) ∧ (s.retentionCleared.blk mgmtCore).ls = [] := by
  unfold State.retentionCleared
  dsimp only
  split
  · next h => exact ⟨fun _ => rfl, h⟩
  · exact ⟨fun hc => blk_modBlk_ne _ _ hc, by rw [blk_modBlk_same]⟩

theorem clearRetention_hif (src scope : Nat) : (s.clearRetention src scope).hif = s.hif :=
  (hif_of_host (clearRetention_host s src scope)).trans (retentionCleared_hif s)

theorem clearRetention_blk (src scope : Nat) (c : BlockId) : (c ≠ mgmtCore → (s.clearRetention src scope).blk c = s.blk c) ∧
    ((s.clearRetention src scope).blk mgmtCore).ls = [] := by
  have h := listing_of_host (clearRetention_host s src scope)
  rw [blk_of_listing h, blk_of_listing h]
  exact retentionCleared_blk s c

/-- What a retention clear leaves of the supplies, the journal and the plan. -/
theorem clearRetention_parts (src scope : Nat) :
    (s.clearRetention src scope).supply = { s.supply with latch := true, src := BitVec.ofNat 4 src, scope := BitVec.ofNat 4 scope } ∧
    (s.clearRetention src scope).jnl.gen = s.jnl.gen + 1 ∧ (s.clearRetention src scope).lastPlanId = 0 ∧ (s.clearRetention src scope).plan = s.plan ∧
    (s.clearRetention src scope).boot = s.boot ∧ (s.clearRetention src scope).counter 0x2200 2 = 0 := by
  obtain ⟨r, clk, t, h, _⟩ := clearRetention_aon s src scope
  exact ⟨supply_of_aon h, gen_of_aon h, lastPlanId_of_aon h, plan_of_aon h, boot_of_aon h, counter_of_aon h (by decide)⟩

/-! ## FAST_DOMAIN_RESET (R701, R712) -/

/-- The request is taken. -/
def State.resetTaken (s : State) (n : Nat) : State := s.modSup fun x => { x with due := x.due.filter fun m => !decide (m = n) }

/-- The source takes the fast domain down and holds it. -/
def State.resetHeld (s : State) (n scope : Nat) : State := ((s.resetTaken n).fastReset n scope).hold n

theorem fastDomainReset_of_due {src : BitVec 4} (h : src.toNat ∈ s.supply.due) : fastDomainReset src s =
    if src.toNat = srcClear then (s.resetHeld src.toNat 3).clearRetention src.toNat 3 else s.resetHeld src.toNat 2 := by
  unfold fastDomainReset
  dsimp only
  rw [if_pos h]
  by_cases h5 : src.toNat = srcClear
  · rw [if_pos h5, if_pos h5, if_pos h5]
    rfl
  · rw [if_neg h5, if_neg h5, if_neg h5]
    rfl

theorem resetHeld_supply (n scope : Nat) : (s.resetHeld n scope).supply = { s.supply with
    due := s.supply.due.filter fun m => !decide (m = n), src := BitVec.ofNat 4 n, scope := BitVec.ofNat 4 scope,
    holders := insertNat n s.supply.holders } := by
  have h : (s.resetHeld n scope).supply =
      { ((s.resetTaken n).fastReset n scope).supply with holders := insertNat n ((s.resetTaken n).fastReset n scope).supply.holders } := rfl
  rw [h, fastReset_supply]
  rfl

theorem resetHeld_gen (n scope : Nat) : (s.resetHeld n scope).jnl.gen = s.jnl.gen := fastReset_gen (s.resetTaken n) n scope

theorem hold_supply (src : Nat) : (s.hold src).supply = { s.supply with holders := insertNat src s.supply.holders } := rfl

theorem fastUp_of_held {s : State} {n : Nat} (h : n ∈ s.supply.holders) : s.fastUp = false :=
  decide_eq_false fun ⟨_, h0⟩ => List.not_mem_nil (h0 ▸ h)

/-- What stands of a fast domain that was up. -/
structure Felled (s t : State) : Prop where
  plan : t.plan = .empty
  blk : ∀ c, c ≠ mgmtCore → t.blk c = Block.reset
  linkUp : t.hif.linkUp = false
  cmds : t.hif.cmds = []

theorem resetHeld_felled {n scope : Nat} (h : s.fastUp = true) : Felled s (s.resetHeld n scope) ∧
    (s.mgmtListed → ((s.resetHeld n scope).blk mgmtCore).core = (s.blk mgmtCore).core ∧ ((s.resetHeld n scope).blk mgmtCore).ls = (s.blk mgmtCore).ls) ∧
    (s.resetHeld n scope).counter 0x2200 2 = min (s.counter 0x2200 2 + 1) (2 ^ 64 - 1) := by
  have hup : (s.resetTaken n).fastUp = true := h
  obtain ⟨hlink, hcmds⟩ := fastReset_up_link (s.resetTaken n) (src := n) (scope := scope) hup
  have hplan := fastReset_plan (s.resetTaken n) n scope
  rw [if_pos hup] at hplan
  refine ⟨⟨hplan, fun c hc => fastReset_up_blk (s.resetTaken n) hup hc, hlink, hcmds⟩, fun hm => fastReset_up_mgmt (s.resetTaken n) hup hm, ?_⟩
  exact fastReset_up_count (s.resetTaken n) hup

/-! ## Waits (R703, R713) -/

/-- The AON clock at least reaches the count that a wait for it names. -/
theorem toAcy_reaches {s s' : State} {a : Nat} (h : s.toAcy a = some s') (hf : s.acyFrac < s.perAcy) : a ≤ s'.acy := by
  have key : ∀ n, (a - s.acy) * s.perAcy - s.acyFrac = n → a ≤ s.acy + (s.acyFrac + n) / s.perAcy := fun n hn => by
    have hle : a - s.acy ≤ (s.acyFrac + n) / s.perAcy := (Nat.le_div_iff_mul_le (by omega)).mpr (by omega)
    omega
  unfold State.toAcy State.passWithin at h
  split at h
  · split at h
    · next ha _ =>
      cases h
      unfold State.advanceTo
      rw [if_pos ha]
      exact key _ (by omega)
    · cases h
  · cases h
    exact key _ rfl

/-- Time that passes changes the clocks, the time base and the cycle of the epoch alone. -/
theorem toAcy_parts {s s' : State} {a : Nat} (h : s.toAcy a = some s') :
    s'.jnl = s.jnl ∧ s'.supply = s.supply ∧ s'.boot = s.boot ∧ s'.plan = s.plan ∧ s'.host = s.host ∧ s'.elt = s.elt := by
  unfold State.toAcy State.passWithin at h
  split at h
  · split at h
    · next ha _ =>
      cases h
      unfold State.advanceTo
      rw [if_pos ha]
      exact ⟨rfl, rfl, rfl, rfl, rfl, rfl⟩
    · cases h
  · cases h
    exact ⟨rfl, rfl, rfl, rfl, rfl, rfl⟩

/-- What a wait of some ms leaves. -/
theorem passMs_parts (ms : Nat) : (s.passMs ms).jnl = s.jnl ∧ (s.passMs ms).supply = s.supply ∧ (s.passMs ms).lastPlanId = s.lastPlanId ∧
    (s.passMs ms).boot = s.boot := by
  unfold State.passMs State.passWithin
  split
  · split
    · unfold State.advanceTo
      split <;> exact ⟨rfl, rfl, rfl, rfl⟩
    · exact ⟨rfl, rfl, rfl, rfl⟩
  · exact ⟨rfl, rfl, rfl, rfl⟩

/-- Outside an epoch a wait of some ms is so many acy. -/
theorem passMs_acy {s : State} (ms : Nat) (he : s.epoch.active = false) (hf : s.acyFrac < s.perAcy) : (s.passMs ms).acy = s.acy + ms * 25000 := by
  have h : (s.passMs ms).acy = s.acy + (s.acyFrac + ms * 25000 * s.perAcy) / s.perAcy := by
    rw [State.passMs, passWithin_idle _ he]
    rfl
  rw [h, Nat.add_mul_div_right _ _ (by omega), Nat.div_eq_of_lt hf, Nat.zero_add]

/-! ## RST_N (R703 to R709) -/

/-- The pin is released. -/
def State.rstnReleased (s : State) : State :=
  (s.modSup fun x => { x with rstn := none, stuck := false, override := false, overrode := false }).unhold srcRstn

/-- A boot that waited for the pin goes on. -/
def State.recoveryLeft (s : State) : State := s.modBoot fun b => if b.st = .recovery then { b with st := .flash, restart := false } else b

/-- The pin was held long enough for a retention clear. -/
def State.clears (s : State) : Bool := decide (8000 ≤ s.heldMs) && !s.supply.stuck && !s.supply.overrode

theorem rstNDeassert_eq {s : State} {ms : Nat} (h : s.supply.rstn.isNone = false) : rstNDeassert ms s =
    (if (s.passMs ms).clears then (s.passMs ms).rstnReleased.clearRetention srcRstn 3 else (s.passMs ms).rstnReleased).recoveryLeft := by
  unfold rstNDeassert
  rw [if_neg (by simp [h])]
  rfl

theorem rstnReleased_supply : s.rstnReleased.supply = { s.supply with
    rstn := none, stuck := false, override := false, overrode := false, holders := s.supply.holders.filter fun n => !decide (n = srcRstn) } := rfl

theorem rstnReleased_jnl : s.rstnReleased.jnl = s.jnl := rfl
theorem rstnReleased_lastPlanId : s.rstnReleased.lastPlanId = s.lastPlanId := rfl
theorem recoveryLeft_jnl : s.recoveryLeft.jnl = s.jnl := rfl
theorem recoveryLeft_lastPlanId : s.recoveryLeft.lastPlanId = s.lastPlanId := rfl
theorem recoveryLeft_supply : s.recoveryLeft.supply = s.supply := rfl

theorem recoveryLeft_st : (s.recoveryLeft).boot.st = if s.boot.st = .recovery then .flash else s.boot.st := by
  have h : s.recoveryLeft.boot = if s.boot.st = .recovery then { s.boot with st := .flash, restart := false } else s.boot := rfl
  rw [h]
  split <;> rfl

/-! ## PERST_N (R652, R710) -/

/-- A device that may not wake, or is awake, stays; another begins its power-up. -/
theorem wakeUp_supply : ∃ p a, s.wakeUp.supply = { s.supply with pwr := p, again := a } ∧
    (s.boot.st = .standby → s.thermal.trip = false → s.supply.pwr = .off → s.boot.board.getLsbD 5 = true → p = .up 1) := by
  obtain ⟨q, hq, hup⟩ := startUp_supply s
  unfold State.wakeUp
  split
  · next hc =>
    split
    · exact ⟨q, s.supply.again, hq, fun _ _ _ hb => hup hb⟩
    · next n hp => exact ⟨s.supply.pwr, true, rfl, fun _ _ ho => by rw [hp] at ho; cases ho⟩
    · next hoff _ => exact ⟨s.supply.pwr, s.supply.again, rfl, fun _ _ ho => absurd ho hoff⟩
  · next hc => exact ⟨s.supply.pwr, s.supply.again, rfl, fun hst ht => absurd ⟨hst, by simp [ht]⟩ hc⟩

/-! ## The watchdog (R713) -/

/-- The management core restarts, and its requests wait again. -/
def State.dogBitten (s : State) : State :=
  let u := (s.modSup fun x => { x with wdt := none }).coreRestart.resetEvent srcWatchdog 1
  ({ u with elt := { u.elt with requests := u.elt.requests.map fun r => { r with served := false } },
            dirty := u.dirty.map fun d => if d.waiter = .elette then { d with waiter := .none } else d } : State).modBoot fun b =>
    { b with st := .flash, restart := true, idleAt := none }

theorem dogBitten_raised : s.dogBitten.jnl.raised = s.jnl.raised + 1 :=
  (congrArg Jnl.raised (raise_jnl _ _ _ _ _)).trans (accept_raised _ _)

theorem dogBitten_blk_mgmt : s.dogBitten.blk mgmtCore = { Block.reset with ls := (s.blk mgmtCore).ls } :=
  blk_setBlk_same (s.modSup fun x => { x with wdt := none }) mgmtCore _

theorem dogBitten_blk_ne {c : BlockId} (h : c ≠ mgmtCore) : s.dogBitten.blk c = s.blk c :=
  blk_setBlk_ne (s.modSup fun x => { x with wdt := none }) _ h

theorem watchdogExpiry_of_some {s s' : State} (hw : s.wdtRuns = true) (h : s.toAcy (s.supply.wdt.getD 0 + s.setting 0x2220 2 * acyPerMs) = some s') :
    watchdogExpiry s = s'.dogBitten := by
  unfold watchdogExpiry
  rw [if_pos hw, h]
  rfl

theorem watchdogExpiry_of_none {s : State} (hw : s.wdtRuns = true) (h : s.toAcy (s.supply.wdt.getD 0 + s.setting 0x2220 2 * acyPerMs) = none) :
    watchdogExpiry s = s := by
  unfold watchdogExpiry
  rw [if_pos hw, h]

end

end Sys2Proof.Machine

/-- Settles O55: a source that takes the fast domain down records its reset and holds the domain, and a retention clear begins a new generation. -/
theorem resetCommands : Obligations.ResetCommands := by
  intro s src x n
  refine ⟨fun h => congrArg Host.Outcome.next (if_neg h), fun h => ?_, fun hh hs => ?_, fun hn => ?_, fun hr => ⟨?_, fun ms => ?_, ?_⟩,
    fun a ha => ⟨?_, fun hs => ?_, fun hs => ?_, fun ms he hf hle => ?_⟩, fun hp => ⟨?_, ?_⟩, fun hp => ⟨?_, ?_⟩, rfl, fun hw hn => ?_, fun hw s' hs' => ?_,
    fun hw => ?_⟩
  · have hsrc : BitVec.ofNat 4 n = src := BitVec.eq_of_toNat_eq ((BitVec.toNat_ofNat n 4).trans (Nat.mod_eq_of_lt src.isLt))
    have hlt : n < 2 ^ 64 := Nat.lt_trans src.isLt (by decide)
    have hreset : fastDomainReset src s = if n = 5 then (s.resetHeld n 3).clearRetention n 3 else s.resetHeld n 2 := fastDomainReset_of_due s h
    refine ⟨_, congrArg Host.Outcome.next hreset, ?_⟩
    by_cases h5 : n = 5
    · obtain ⟨hsup, hgen, hlast, hplan, _, hcount⟩ := clearRetention_parts (s.resetHeld n 3) n 3
      rw [resetHeld_supply, hsrc] at hsup
      rw [resetHeld_gen] at hgen
      rw [if_pos h5]
      have hheld : n ∈ ((s.resetHeld n 3).clearRetention n 3).supply.holders := by
        rw [hsup]
        exact (mem_insertNat _ _ _).mpr (.inl rfl)
      refine ⟨fastUp_of_held hheld, hheld, ?_, ?_, ?_, fun _ => ⟨hgen, hlast, ?_⟩, fun hup => ?_, fun _ hne => absurd h5 hne⟩
      · rw [hsup]
        simp
      · rw [hsup]
      · rw [hsup, if_pos h5]
        rfl
      · rw [hsup]
      · obtain ⟨hf, _, _⟩ := resetHeld_felled s (n := n) (scope := 3) hup
        refine ⟨hplan.trans hf.plan, fun c hc => ?_, fun hne => absurd h5 hne, fun _ => (clearRetention_blk _ n 3 mgmtCore).2, ?_, ?_, ?_⟩
        · rw [(clearRetention_blk _ n 3 c).1 hc, hf.blk c hc]
        · rw [clearRetention_hif, hf.linkUp]
        · rw [clearRetention_hif, hf.cmds]
        · rw [hcount, if_pos h5]
    · have hsup := resetHeld_supply s n 2
      rw [hsrc] at hsup
      rw [if_neg h5]
      have hheld : n ∈ (s.resetHeld n 2).supply.holders := hold_held _ _
      refine ⟨fastUp_of_held hheld, hheld, ?_, ?_, ?_, fun he => absurd he h5, fun hup => ?_, fun hup _ hc => ?_⟩
      · rw [hsup]
        simp
      · rw [hsup]
      · rw [hsup, if_neg h5]
        rfl
      · obtain ⟨hf, hm, hcount⟩ := resetHeld_felled s (n := n) (scope := 2) hup
        refine ⟨hf.plan, hf.blk, fun _ hl => hm hl, fun he => absurd he h5, hf.linkUp, hf.cmds, ?_⟩
        rw [hcount, if_neg h5]
      · obtain ⟨r, htook, href, hres, hop, hty⟩ := fastReset_up_took (s.resetTaken n) (src := n) (scope := 2) hup hc
        have hslot : (s.resetHeld n 2).jnl.slot (s.jnl.next.toNat % 4096) = recordBytes s.jnl.next s.jnl.gen r := htook.slot
        refine ⟨htook.next, ?_⟩
        rw [hslot]
        dsimp only
        rw [record_seq, record_ref, record_result, record_kind, record_type, href, hres, hop, hty]
        exact ⟨rfl, Nat.mod_eq_of_lt hlt, rfl, rfl, rfl⟩
  · have hrel : n = srcFast ∨ n = srcClear ∨ (n = srcClock ∧ (look ClkMon.reset s.clkmon 0).failed = false) := by
      rcases hs with hs | hs
      · simp only [List.mem_cons, List.not_mem_nil, or_false] at hs
        rcases hs with hs | hs
        · exact .inl hs
        · exact .inr (.inl hs)
      · exact .inr (.inr hs)
    refine ⟨_, congrArg Host.Outcome.next (if_pos ⟨hh, hrel⟩), fun m => ?_⟩
    rw [State.unhold, modSup_supply, List.mem_filter]
    simp [x, n]
  · refine congrArg Host.Outcome.next (if_neg fun hrel => hn ?_)
    simp only [List.mem_cons, List.not_mem_nil, or_false]
    exact hrel.2.imp id (Or.imp id And.left)
  · have hsup := fastReset_supply (s.modSup fun x => { x with rstn := some s.acy, overrode := false }) srcRstn 2
    have hnot : ¬(s.supply.rstn.isSome = true) := by simp [show s.supply.rstn = none from hr]
    refine ⟨_, congrArg Host.Outcome.next (if_neg hnot), ?_⟩
    dsimp only
    rw [hold_supply, hsup]
    exact ⟨rfl, (mem_insertNat _ _ _).mpr (.inl rfl), hold_fastUp _ _, rfl⟩
  · exact congrArg Host.Outcome.next (if_pos (by simp [show s.supply.rstn = none from hr]))
  · exact congrArg Host.Outcome.next (if_neg (by simp [show s.supply.rstn = none from hr]))
  · exact congrArg Host.Outcome.next (if_pos (by simp [show s.supply.rstn = some a from ha]))
  · obtain ⟨hj, hsup, _, _⟩ := passMs_parts s (60000 - s.heldMs)
    have hcond : (s.supply.rstn.isSome && !s.supply.stuck) = true := by
      rw [show s.supply.rstn = some a from ha, show s.supply.stuck = false from hs]
      rfl
    refine ⟨_, congrArg Host.Outcome.next (if_pos hcond), ?_⟩
    rw [raise_jnl, accept_raised, modSup_jnl, hj]
    have hkept := supply_of_aon (raise_aon ((s.passMs (60000 - s.heldMs)).modSup fun x => { x with stuck := true }) 0x0501 0 60 0)
    rw [hkept]
    refine ⟨rfl, rfl, ?_⟩
    have k := congrArg Supply.holders hsup
    exact k
  · exact congrArg Host.Outcome.next (if_neg (by simp [show s.supply.stuck = true from hs]))
  · obtain ⟨hj, hsup, hlast, hboot⟩ := passMs_parts s ms
    have hheld : (s.passMs ms).heldMs = (s.acy - a) / 25000 + ms := by
      rw [State.heldMs, hsup, show s.supply.rstn = some a from ha, passMs_acy ms he hf]
      change (s.acy + ms * 25000 - a) / 25000 = (s.acy - a) / 25000 + ms
      omega
    have hclears : (s.passMs ms).clears = (decide (8000 ≤ (s.acy - a) / 25000 + ms) && !x.stuck && !x.overrode) := by
      rw [State.clears, hheld, hsup]
    refine ⟨_, congrArg Host.Outcome.next (rstNDeassert_eq (by rw [show s.supply.rstn = some a from ha]; rfl)), ?_⟩
    rw [recoveryLeft_st]
    by_cases hc : (s.passMs ms).clears = true
    · obtain ⟨ksup, kgen, klast, _, kboot, _⟩ := clearRetention_parts (s.passMs ms).rstnReleased srcRstn 3
      have kst : ((s.passMs ms).rstnReleased.clearRetention srcRstn 3).boot.st = s.boot.st := by
        rw [kboot]
        exact congrArg Boot.st hboot
      rw [if_pos hc, kst]
      rw [hclears] at hc
      rw [recoveryLeft_supply, ksup, rstnReleased_supply]
      refine ⟨rfl, by simp [srcRstn], rfl, rfl, fun _ _ _ => ⟨?_, (recoveryLeft_lastPlanId _).trans klast, rfl⟩, fun hn => ?_, fun hst => if_pos hst, fun hst => if_neg hst⟩
      · rw [recoveryLeft_jnl, kgen, rstnReleased_jnl, hj]
      · simp at hc
        rcases hn with hn | hn | hn
        · omega
        · rw [hc.1.2] at hn
          cases hn
        · rw [hc.2] at hn
          cases hn
    · have kst : (s.passMs ms).rstnReleased.boot.st = s.boot.st := congrArg Boot.st hboot
      rw [if_neg hc, kst]
      rw [hclears] at hc
      rw [recoveryLeft_supply, rstnReleased_supply]
      refine ⟨rfl, ?_, rfl, rfl, fun h8 hs ho => absurd ?_ hc, fun _ => ?_, fun hst => if_pos hst, fun hst => if_neg hst⟩
      · simp [srcRstn]
      · rw [hs, ho]
        simpa using h8
      · rw [recoveryLeft_jnl, rstnReleased_jnl, recoveryLeft_lastPlanId, rstnReleased_lastPlanId]
        exact ⟨hj, hlast⟩
  · exact congrArg Host.Outcome.next (if_neg (by simp [show s.supply.perstn = false from hp]))
  · have hsup := fastReset_supply (s.modSup fun x => { x with perstn := true }) srcPerst 2
    refine ⟨_, congrArg Host.Outcome.next (if_neg (by simp [show s.supply.perstn = false from hp])), ?_⟩
    rw [hold_supply, hsup]
    exact ⟨rfl, (mem_insertNat _ _ _).mpr (.inl rfl), hold_fastUp _ _, rfl⟩
  · exact congrArg Host.Outcome.next (if_pos hp)
  · obtain ⟨q, again, hsup, hup⟩ := wakeUp_supply ((s.modSup fun x => { x with perstn := false }).unhold srcPerst)
    refine ⟨_, congrArg Host.Outcome.next (if_pos hp), ?_⟩
    rw [hsup]
    refine ⟨rfl, ?_, hup⟩
    have hholders : ((s.modSup fun x => { x with perstn := false }).unhold srcPerst).supply.holders =
        s.supply.holders.filter fun n => !decide (n = srcPerst) := rfl
    rw [hholders]
    simp [srcPerst]
  · exact congrArg Host.Outcome.next (watchdogExpiry_of_none hw hn)
  · obtain ⟨hj, hsup, hboot, hplan, hhost, helt⟩ := toAcy_parts hs'
    refine ⟨_, congrArg Host.Outcome.next (watchdogExpiry_of_some hw hs'), fun a ha hf => ?_, rfl, rfl, rfl, rfl, rfl, ?_, fun c hc => ?_, ?_, rfl, rfl, hplan, rfl,
      ?_⟩
    · have h := toAcy_reaches hs' hf
      rw [ha] at h
      exact h
    · have hraised : s'.dogBitten.jnl.raised = s'.jnl.raised + 1 := dogBitten_raised s'
      rw [hraised, hj]
    · rw [dogBitten_blk_ne s' hc, blk_of_listing (listing_of_host hhost)]
    · rw [dogBitten_blk_mgmt, blk_of_listing (listing_of_host hhost)]
    · rw [← hif_of_host hhost]
      rfl
  · exact congrArg Host.Outcome.next (if_neg (by simp [hw]))

end

/-! # Modes of blocks and clocks of quarters: the proofs -/

section
open Sys2Proof Sys2Proof.Machine
namespace Sys2Proof.Machine

/-! ## The blocks of a quarter -/

/-- A lookup in a table whose entries of some keys went through `f`. -/
theorem look_mapped {α : Type} (d : α) (p : Nat → Bool) (f : α → α) (n : Nat) (t : Tab α) :
    look (if p n then f d else d) (t.map fun e => if p e.1 then (e.1, f e.2) else e) n = if p n then f (look d t n) else look d t n := by
  induction t with
  | nil => rfl
  | cons e t ih =>
    obtain ⟨k, v⟩ := e
    by_cases hk : n = k
    · subst hk
      cases hp : p n <;> simp [look, hp]
    · cases hp : p k <;> simp only [List.map_cons, hp, look, hk, if_false, if_true, ih, Bool.false_eq_true]

theorem blk_mapKey (s : State) (k : Nat) (f : Block → Block) (c : BlockId) :
    (s.mapKey k f).blk c = if restKey c.toNat = k then f (s.blk c) else s.blk c := by
  have h := look_mapped (look Block.reset s.rest (restKey c.toNat)) (fun n => decide (restKey n = k)) f c.toNat s.blocks
  simp only [decide_eq_true_eq] at h
  unfold State.blk State.mapKey
  by_cases hk : restKey c.toNat = k
  · rw [if_pos hk, if_pos hk] at h
    rw [if_pos hk, ← h, ← hk, look_put_same]
  · rw [if_neg hk, if_neg hk] at h
    rw [if_neg hk, ← h, look_put_ne _ _ _ hk]

/-- The blocks of a quarter are those of its two keys. -/
theorem quarter_keys (c : BlockId) (q : Nat) (h : quarterOf c = q) : restKey c.toNat = q ∨ restKey c.toNat = 4 + q := by
  unfold quarterOf quarterNum at h
  unfold restKey
  split <;> simp_all

theorem mapQuarter_holds {p : Block → Prop} {f : Block → Block} (h : ∀ x, p (f x)) (s : State) {q : Nat} {c : BlockId}
    (hc : quarterOf c = q) : p ((s.mapQuarter q f).blk c) := by
  have hk := quarter_keys c q hc
  unfold State.mapQuarter
  rw [blk_mapKey, blk_mapKey]
  rcases hk with hk | hk
  · rw [if_pos hk]
    split
    · exact h _
    · exact h _
  · rw [if_pos hk]; exact h _

theorem toDeep_mode (x : Block) (now : Nat) : (x.toDeep now).clk.mode = .deep := by
  unfold Block.toDeep
  split
  · assumption
  · rfl

theorem quarterDeep_mode (s : State) {q : Nat} {c : BlockId} (hc : quarterOf c = q) : ((s.quarterDeep q).blk c).clk.mode = .deep :=
  mapQuarter_holds (p := fun x => x.clk.mode = .deep) (fun x => toDeep_mode x _) _ hc

/-! ## The mode of a block -/

theorem settle_keeps (c : Clk) (now : Nat) : ∃ r f d n, c.settle now = { c with fcyRun := r, fcySleep := f, fcyDeep := d, since := n } := by
  unfold Clk.settle
  cases c.mode <;> exact ⟨_, _, _, _, rfl⟩

theorem TrcOnly.clk {b : BlockId} {s t : State} (h : TrcOnly b s t) : (t.blk b).clk = (s.blk b).clk := by rw [h.blk]

/-- The clock of a block that changes its mode at a count of fcy (R637). -/
def Clk.moved (c : Clk) (m : Mode) (mhz now : Nat) : Clk :=
  let clk := c.settle now
  match m with
  | .run => { clk with mode := .waking, left := c.mode, target := .run, wake := some (wakeFcy c.mode mhz, now) }
  | _ => { clk with mode := m, left := m, target := m, wake := none }

def Block.moved (x : Block) (m : Mode) (mhz now : Nat) : Block :=
  let y : Block := { x with clk := x.clk.moved m mhz now }
  if m = .deep then { y with msg := { y.msg with hold := [] } } else y

theorem moved_done (c : Clk) (m : Mode) (mhz now : Nat) : (c.moved m mhz now).done = c.done := by
  obtain ⟨r, f, d, n, hk⟩ := settle_keeps c now
  cases m <;> simp only [Clk.moved, hk]

theorem moved_clk (x : Block) (m : Mode) (mhz now : Nat) : (x.moved m mhz now).clk = x.clk.moved m mhz now := by
  unfold Block.moved
  split <;> rfl

theorem keepNext_blk (s : State) (b : BlockId) : (s.keepNext b).blk b = { s.blk b with msg := ((s.keepNext b).blk b).msg } := by
  unfold State.keepNext
  rw [blk_modBlk_same]

/-- A change of mode moves the block, whose clock and memories closing a trace packet leaves as they are. -/
theorem changeMode_eq (s : State) {b : BlockId} {m : Mode} (h : (s.blk b).clk.mode ≠ m) (hw : m ≠ .waking) :
    ∃ (u : State) (x : Block) (mhz : Nat), (x.clk = (s.blk b).clk ∧ x.ls = (s.blk b).ls ∧ x.im = (s.blk b).im) ∧ OnlyBlock b s u ∧
      s.changeMode b m = u.setBlk b (x.moved m mhz (s.ticks b)) := by
  let u := (if (s.blk b).clk.mode = .run then s.traceClose b .mode else s).keepNext b
  have hb : OnlyBlock b s u :=
    onlyBlock_trans (onlyBlock_ite s (trcOnly_traceClose b s .mode).only (onlyBlock_refl b s)) (onlyBlock_keepNext _)
  refine ⟨u, u.blk b, (u.pll (quarterOf b)).mhz, ?_, hb, ?_⟩
  · have hu : u.blk b = { (if (s.blk b).clk.mode = .run then s.traceClose b .mode else s).blk b with msg := (u.blk b).msg } := keepNext_blk _ b
    rw [hu]
    split
    · rw [(trcOnly_traceClose b s .mode).blk]
      exact ⟨rfl, rfl, rfl⟩
    · exact ⟨rfl, rfl, rfl⟩
  · unfold State.changeMode
    rw [if_neg (not_or.2 ⟨h, hw⟩)]
    cases m <;> rfl

theorem changeMode_done (s : State) (b : BlockId) (m : Mode) : ((s.changeMode b m).blk b).clk.done = (s.blk b).clk.done := by
  by_cases h : (s.blk b).clk.mode = m ∨ m = .waking
  · rw [State.changeMode, if_pos h]
  · obtain ⟨u, x, mhz, ⟨hx, _, _⟩, _, e⟩ := changeMode_eq s (not_or.1 h).1 (not_or.1 h).2
    rw [e, blk_setBlk_same, moved_clk, moved_done, hx]

/-- To SLEEP or DEEP at once (R637). -/
theorem changeMode_low (s : State) (b : BlockId) {m : Mode} (h : m = .sleep ∨ m = .deep) : ((s.changeMode b m).blk b).clk.mode = m := by
  have hw : m ≠ .waking := by rcases h with rfl | rfl <;> decide
  by_cases hm : (s.blk b).clk.mode = m
  · rw [State.changeMode, if_pos (.inl hm), hm]
  · obtain ⟨u, x, mhz, ⟨hx, _, _⟩, _, e⟩ := changeMode_eq s hm hw
    rw [e, blk_setBlk_same]
    rcases h with rfl | rfl <;> rfl

/-- A change of mode changes no memory. -/
theorem changeMode_mems (s : State) (b : BlockId) (m : Mode) (c : BlockId) :
    ((s.changeMode b m).blk c).ls = (s.blk c).ls ∧ ((s.changeMode b m).blk c).im = (s.blk c).im := by
  by_cases h : (s.blk b).clk.mode = m ∨ m = .waking
  · rw [State.changeMode, if_pos h]
    exact ⟨rfl, rfl⟩
  · by_cases hc : c = b
    · subst hc
      obtain ⟨u, x, mhz, ⟨_, hl, hi⟩, _, e⟩ := changeMode_eq s (not_or.1 h).1 (not_or.1 h).2
      rw [e, blk_setBlk_same, ← hl, ← hi]
      unfold Block.moved
      split <;> exact ⟨rfl, rfl⟩
    · rw [(onlyBlock_changeMode s m).2.2 c hc]
      exact ⟨rfl, rfl⟩

/-- DEEP loses the hold buffer (R403). -/
theorem changeMode_deep_hold (s : State) (b : BlockId) (h : (s.blk b).clk.mode ≠ .deep) : ((s.changeMode b .deep).blk b).msg.hold = [] := by
  obtain ⟨u, x, mhz, _, _, e⟩ := changeMode_eq s h (by decide)
  rw [e, blk_setBlk_same]
  rfl

/-- A wake from SLEEP lasts 8 fcy (R637). -/
theorem changeMode_wakes (s : State) (b : BlockId) (h : (s.blk b).clk.mode = .sleep) :
    ((s.changeMode b .run).blk b).clk.mode = .waking ∧ ((s.changeMode b .run).blk b).clk.wake = some (8, s.ticks b) := by
  obtain ⟨u, x, mhz, ⟨hx, _, _⟩, _, e⟩ := changeMode_eq s (b := b) (m := .run) (by rw [h]; decide) (by decide)
  rw [e, blk_setBlk_same, moved_clk, hx, Clk.moved, h]
  exact ⟨rfl, rfl⟩

theorem changeMode_wakeLeft (s : State) (b : BlockId) (h : (s.blk b).clk.mode = .sleep) : (s.changeMode b .run).wakeLeft b = 8 := by
  rw [State.wakeLeft, (changeMode_wakes s b h).2, (onlyBlock_changeMode s (b := b) .run).ticks]
  exact Nat.sub_eq_of_eq_add (by omega)

theorem OnlyBlock.cycle {b : BlockId} {s t : State} (h : OnlyBlock b s t) : t.epoch.cycle = s.epoch.cycle := by
  have k := congrArg (fun u : State => u.epoch.cycle) h.1
  exact k

theorem OnlyBlock.qpll {b : BlockId} {s t : State} (h : OnlyBlock b s t) : t.qpll = s.qpll := by
  have k := congrArg (fun u : State => u.qpll) h.1
  exact k

@[simp] theorem notePeak_blk (s : State) (b : BlockId) : s.notePeak.blk b = s.blk b := rfl
@[simp] theorem notePeak_cycle (s : State) : s.notePeak.epoch.cycle = s.epoch.cycle := rfl

@[simp] theorem advanceTo_blk (s : State) (c : Nat) (b : BlockId) : (s.advanceTo c).blk b = s.blk b := by
  unfold State.advanceTo
  split <;> rfl

theorem advanceTo_cycle {s : State} (c : Nat) (h : s.epoch.active = true) : (s.advanceTo c).epoch.cycle = max c s.epoch.cycle := by
  rw [State.advanceTo, if_pos h]
  rfl

@[simp] theorem charge_blk (s : State) (row : Nat) (r : BitVec 16) (b : BlockId) : (s.charge row r).blk b = s.blk b := by
  unfold State.charge
  split <;> rfl

@[simp] theorem charge_cycle (s : State) (row : Nat) (r : BitVec 16) : (s.charge row r).epoch.cycle = s.epoch.cycle := by
  unfold State.charge
  split <;> rfl

theorem overrun_clk (s : State) (b : BlockId) : ((s.overrun b).blk b).clk = (s.blk b).clk := by
  simp only [State.overrun, State.park, State.modCore, State.modPriv, blk_modBlk_same, (trcOnly_tracePark b _ _).clk, charge_blk]

theorem overrun_cycle (s : State) (b : BlockId) : (s.overrun b).epoch.cycle = s.epoch.cycle := by
  unfold State.overrun State.park
  dsimp only
  rw [(onlyBlock_modCore (b := b) _ _).cycle, (trcOnly_tracePark b _ _).only.cycle, (onlyBlock_modCore (b := b) _ _).cycle, (onlyBlock_modPriv (b := b) _ _).cycle,
    charge_cycle]

/-- A block's entry is applied (R642): leaving RUN before ewait has retired is an overrun. -/
def State.entryTaken (s : State) (b : BlockId) (c : Nat) (m : Mode) : State :=
  let x := s.blk b
  let s := (s.advanceTo c).modBlk b fun x => { x with clk := { x.clk with done := x.clk.done + 1 } }
  if x.core.inProgram && decide (x.clk.mode = .run) && decide (m ≠ .run) then s.overrun b else s

theorem entryTaken_clk (s : State) (b : BlockId) (c : Nat) (m : Mode) :
    ((s.entryTaken b c m).blk b).clk = { (s.blk b).clk with done := (s.blk b).clk.done + 1 } := by
  unfold State.entryTaken
  dsimp only
  split <;> simp only [overrun_clk, blk_modBlk_same, advanceTo_blk]

theorem entryTaken_cycle {s : State} (b : BlockId) (c : Nat) (m : Mode) (h : s.epoch.active = true) :
    (s.entryTaken b c m).epoch.cycle = max c s.epoch.cycle := by
  unfold State.entryTaken
  dsimp only
  split
  · rw [overrun_cycle, (onlyBlock_modBlk b _ _).cycle, advanceTo_cycle c h]
  · rw [(onlyBlock_modBlk b _ _).cycle, advanceTo_cycle c h]

theorem onlyBlock_planMode (s : State) (b : BlockId) (m : Mode) : OnlyBlock b s (s.planMode b m) :=
  onlyBlock_ite s (onlyBlock_modBlk b s _) (onlyBlock_changeMode s m)

theorem planMode_done (s : State) (b : BlockId) (m : Mode) : ((s.planMode b m).blk b).clk.done = (s.blk b).clk.done := by
  unfold State.planMode
  split
  · rw [blk_modBlk_same]
  · exact changeMode_done s b m

theorem planMode_of_ne (s : State) (b : BlockId) {m : Mode} (h : ¬ ((s.blk b).clk.mode = .waking ∧ m = .run)) :
    s.planMode b m = s.changeMode b m := if_neg h

theorem powerEntry_applies {s : State} {b : BlockId} {c : Nat} {m : Mode} (he : (s.blk b).clk.entries[(s.blk b).clk.done]? = some (c, m))
    (ha : s.epoch.active = true) (ht : s.thermalHold = false) (hr : s.pl.runs (quarterOf b) s.epoch.num = true)
    (hp : s.pllOn (quarterOf b) = true) (hc : c < 128 ∨ s.runningPart = true) :
    powerEntryApply b s = ((s.entryTaken b c m).planMode b m).notePeak := by
  have hg : (decide (c < 128) || s.runningPart) = true := by simpa using hc
  unfold powerEntryApply
  dsimp only
  rw [he]
  dsimp only
  rw [ha, ht, hr, hp, hg]
  rfl

/-! ## A wake completes (R637, R638) -/

theorem wipeRegs_empty (x : Block) : (∀ r, x.wipeRegs.core.getG r = 0 ∧ x.wipeRegs.core.getF r = 0) ∧ x.wipeRegs.vec.v = [] ∧
    x.wipeRegs.mtx.t = [] ∧ x.wipeRegs.mtx.z = [] := by
  refine ⟨fun r => ⟨?_, rfl⟩, rfl, rfl, rfl⟩
  unfold Core.getG
  split <;> rfl

/-- The block of a wake that completes with no request waiting. -/
def Block.woken (x : Block) (now : Nat) : Block :=
  let clk := { x.clk.settle now with mode := .run, left := .run, target := .run, wake := none, req := none }
  let y := if decide (x.clk.left = .deep) then x.wipeRegs else x
  let y := if decide (x.clk.left = .deep) && !x.core.inProgram then { y with core := { y.core with fetching := false, stopped := true } } else y
  { y with clk := clk, trc := { y.trc with needSync := y.trc.needSync || !x.clk.enables 4 } }

theorem wakeDone_blk {s : State} {b : BlockId} (h : (s.blk b).clk.mode = .waking) (hr : (s.blk b).clk.req = none) :
    (s.wakeDone b).blk b = (s.blk b).woken (s.ticks b) := by
  unfold State.wakeDone
  dsimp only
  rw [if_pos h, hr]
  exact blk_setBlk_same ..

theorem woken_clk (x : Block) (now : Nat) : (x.woken now).clk.mode = .run ∧ (x.woken now).clk.wake = none := ⟨rfl, rfl⟩

theorem woken_from_sleep {x : Block} (now : Nat) (h : x.clk.left = .sleep) : (x.woken now).core = x.core := by
  simp [Block.woken, h]

theorem woken_from_deep {x : Block} (now : Nat) (h : x.clk.left = .deep) :
    (x.woken now).core = (if x.core.inProgram then x.wipeRegs.core else { x.wipeRegs.core with fetching := false, stopped := true }) ∧
    (x.woken now).vec = x.wipeRegs.vec ∧ (x.woken now).mtx = x.wipeRegs.mtx := by
  cases hp : x.core.inProgram <;> simp [Block.woken, h, hp]

theorem wakeComplete_eq {s t : State} {b : BlockId} (h : (s.blk b).clk.mode = .waking) (hp : s.pllOn (quarterOf b) = true)
    (ht : s.passWithin (s.wakeLeft b) = some t) : wakeComplete b s = (t.wakeDone b).notePeak := by
  rw [wakeComplete, if_pos ⟨h, hp⟩, ht]

theorem passWithin_some {s : State} {n : Nat} (h : s.epoch.active = true → s.epoch.cycle + n ≤ s.lastCycle) : ∃ t, s.passWithin n = some t := by
  unfold State.passWithin
  split
  case isTrue ha => exact ⟨_, if_pos (h ha)⟩
  case isFalse => exact ⟨_, rfl⟩

theorem passWithin_blk {s t : State} {n : Nat} (h : s.passWithin n = some t) (b : BlockId) : t.blk b = s.blk b := by
  unfold State.passWithin at h
  split at h
  · split at h
    · rw [← Option.some.inj h, advanceTo_blk]
    · cases h
  · rw [← Option.some.inj h]
    rfl

/-! ## A request for a mode (R634, R640) -/

theorem requestMode_waits {s : State} {b : BlockId} (m : Mode) (h : (s.blk b).clk.mode = .waking) :
    ((s.requestMode b m).blk b).clk.mode = .waking ∧ ((s.requestMode b m).blk b).clk.req = some m := by
  rw [State.requestMode, if_pos h, blk_modBlk_same]
  exact ⟨h, rfl⟩

theorem requestMode_of_ne {s : State} {b : BlockId} (m : Mode) (h : (s.blk b).clk.mode ≠ .waking) : s.requestMode b m = s.changeMode b m := if_neg h

theorem clkReq_locked {s : State} {b : BlockId} {v : W64} (h : s.clkLocked = true) : s.clkReq b v = s := if_pos h

theorem clkReq_run {s : State} {b : BlockId} {v : W64} (h : s.clkLocked = false) (hv : v.toNat % 4 = 0) : s.clkReq b v = s.requestMode b .run := by
  rw [State.clkReq, h, hv]
  rfl

theorem clkReq_sleep {s : State} {b : BlockId} {v : W64} (h : s.clkLocked = false) (hv : v.toNat % 4 = 1) :
    s.clkReq b v = s.requestMode b .sleep := by
  rw [State.clkReq, h, hv]
  rfl

theorem clkReq_deep {s : State} {b : BlockId} {v : W64} (h : s.clkLocked = false) (hv : v.toNat % 4 = 2) : s.clkReq b v = s.requestMode b .deep := by
  rw [State.clkReq, h, hv]
  rfl

theorem clkReq_reserved {s : State} {b : BlockId} {v : W64} (h : s.clkLocked = false) (hv : v.toNat % 4 = 3) : s.clkReq b v = s := by
  rw [State.clkReq, h, hv]
  rfl

/-! ## The clocks of quarters (R646 to R649) -/

@[simp] theorem setPll_pll_same (s : State) (q : Nat) (p : QPll) : (s.setPll q p).pll q = p := look_put_same ..

theorem startPll_pll {s : State} {q : Nat} (mhz : Nat) (h : (s.pll q).st = .off) (hs : (s.pll q).starting = false) (hf : (s.pll q).failed = false) :
    (s.startPll q mhz).pll q = { s.pll q with starting := true, mhz := mhz, startAt := s.timeNs } := by
  unfold State.startPll
  rw [if_pos ⟨h, hs, hf⟩]
  exact setPll_pll_same ..

theorem startPll_cycle (s : State) (q mhz : Nat) : (s.startPll q mhz).epoch.cycle = s.epoch.cycle := by
  unfold State.startPll
  dsimp only
  split <;> rfl

theorem startPll_timeNs (s : State) (q mhz : Nat) : (s.startPll q mhz).timeNs = s.timeNs := by
  unfold State.startPll
  dsimp only
  split <;> rfl

@[simp] theorem advanceTo_pll (s : State) (c q : Nat) : (s.advanceTo c).pll q = s.pll q := by
  unfold State.advanceTo
  split <;> rfl

@[simp] theorem advanceTo_pl (s : State) (c : Nat) : (s.advanceTo c).pl = s.pl := by
  unfold State.advanceTo
  split <;> rfl

theorem passWithin_active {s : State} {n : Nat} (ha : s.epoch.active = true) (h : s.epoch.cycle + n ≤ s.lastCycle) :
    s.passWithin n = some (s.advanceTo (s.epoch.cycle + n)) := by
  rw [State.passWithin, if_pos ha, if_pos h]

theorem passWithin_pll {s t : State} {n : Nat} (h : s.passWithin n = some t) (q : Nat) : t.pll q = s.pll q := by
  unfold State.passWithin at h
  split at h
  · split at h
    · rw [← Option.some.inj h, advanceTo_pll]
    · cases h
  · rw [← Option.some.inj h]
    rfl

theorem changeMode_qpll (s : State) (b : BlockId) (m : Mode) : (s.changeMode b m).qpll = s.qpll := (onlyBlock_changeMode s (b := b) m).qpll

theorem quarterDeep_qpll (s : State) (q : Nat) : (s.quarterDeep q).qpll = s.qpll := by
  unfold State.quarterDeep
  refine foldl_keeps State.qpll (fun u b => ?_) _ s
  split
  · exact changeMode_qpll u b .deep
  · rfl

theorem trcControl_clk (s : State) (b : BlockId) (w : W64) (c : BlockId) : ((s.trcControl b w).blk c).clk = (s.blk c).clk := by
  by_cases hc : c = b
  · subst hc
    unfold State.trcControl
    dsimp only
    rw [blk_modBlk_same]
    dsimp only
    split
    · rfl
    · exact (trcOnly_traceClose c s .disarm).clk
  · rw [(onlyBlock_trcControl s w).2.2 c hc]

/-- The writes of a TRACE_ARM that a quarter held change no mode and no clock. -/
theorem armHeld_keeps (s : State) (q : Nat) : (s.armHeld q).qpll = s.qpll ∧ ∀ c, ((s.armHeld q).blk c).clk = (s.blk c).clk := by
  have key : (s.armQuarter q).qpll = s.qpll ∧ ∀ c, ((s.armQuarter q).blk c).clk = (s.blk c).clk := by
    unfold State.armQuarter
    refine ⟨foldl_keeps State.qpll (fun u n => ?_) _ s, fun c => foldl_keeps (fun u : State => (u.blk c).clk) (fun u n => ?_) _ s⟩
    · dsimp only
      split
      · exact (onlyBlock_trcControl u _).qpll
      · rfl
    · dsimp only
      split
      · exact trcControl_clk u _ _ c
      · rfl
  unfold State.armHeld
  split
  · exact key
  · exact ⟨rfl, fun _ => rfl⟩

theorem releasePll_keeps {s : State} {q : Nat} (h : (s.pll q).starting = true) :
    ((s.releasePll q).pll q).st = .standby ∧ ((s.releasePll q).pll q).starting = false ∧
    ∀ c, quarterOf c = q → ((s.releasePll q).blk c).clk.mode = .deep := by
  unfold State.releasePll
  dsimp only
  rw [if_pos h]
  generalize hu : s.setPll q { s.pll q with starting := false, st := .standby, from_ := s.fcy } = u
  have hq : u.pll q = { s.pll q with starting := false, st := .standby, from_ := s.fcy } := by rw [← hu, setPll_pll_same]
  obtain ⟨hpll, hclk⟩ := armHeld_keeps (u.quarterDeep q) q
  have hp : ((u.quarterDeep q).armHeld q).notePeak.pll q = u.pll q := by
    show look QPll.reset ((u.quarterDeep q).armHeld q).qpll q = _
    rw [hpll, quarterDeep_qpll]
    rfl
  refine ⟨by rw [hp, hq], by rw [hp, hq], fun c hc => ?_⟩
  rw [notePeak_blk, hclk, quarterDeep_mode u hc]

theorem stopPll_keeps (s : State) (q : Nat) : ((s.stopPll q).pll q).st = .off ∧ ∀ c, quarterOf c = q → ((s.stopPll q).blk c).clk.mode = .deep := by
  refine ⟨?_, fun c hc => quarterDeep_mode s hc⟩
  unfold State.stopPll
  rw [setPll_pll_same]

theorem quarterPllStart_moves {s : State} {q : QuarterId} (hm : s.planMoves = true) (hu : s.pl.uses q.toNat = true) (h : (s.pll q.toNat).st = .off)
    (hs : (s.pll q.toNat).starting = false) (hf : (s.pll q.toNat).failed = false) :
    quarterPllStart q s = (match s.toPllStart q.toNat with | some t => t.startPll q.toNat t.pl.mhz | none => s) := by
  unfold quarterPllStart
  dsimp only
  rw [if_pos hm, hu, h, hs, hf]
  rfl

theorem quarterPllStart_still {s : State} {q : QuarterId} (hm : s.planMoves = false) (hb : s.isBound = false) :
    quarterPllStart q s = s.startPll q.toNat 1000 := by
  unfold quarterPllStart State.fabricMhz
  dsimp only
  rw [hm, hb]
  rfl

theorem toPllStart_active {s : State} {q : Nat} {e : W64} (ha : s.epoch.active = true) (hn : s.pl.nextRun q s.epoch.num = some e)
    (h : 14 * s.pl.mhz ≤ (e - s.epoch.num).toNat * 2 ^ s.k - s.epoch.cycle) :
    s.toPllStart q = s.passWithin ((e - s.epoch.num).toNat * 2 ^ s.k - s.epoch.cycle - 14 * s.pl.mhz) := by
  unfold State.toPllStart State.nextStart
  rw [if_pos ha, hn]
  exact if_pos ⟨h, .inl ha⟩

end Sys2Proof.Machine

/-- Settles O36: a change of mode moves the clock of its block alone, and a quarter that goes to DEEP maps every block of its two keys. -/
theorem clockCommands : Obligations.ClockCommands := by
  intro s b q v
  refine ⟨fun c m he ha ht hr hp hc => ?_, fun h hp hr hl => ?_, ?_, fun hm hb h hs hf => ?_, fun hm hu h hs hf => ⟨fun hn => ?_, fun e ha hn => ?_⟩,
    fun hs hn => ?_, fun hm ha hu hr hb hn => ?_⟩
  · refine ⟨_, congrArg Host.Outcome.next (powerEntry_applies he ha ht hr hp hc), ?_, ?_, fun hlow => ?_, fun hrun hsl => ?_⟩
    · rw [notePeak_blk, planMode_done, entryTaken_clk]
    · rw [notePeak_cycle, (onlyBlock_planMode _ _ _).cycle, entryTaken_cycle b c m ha]
    · rw [notePeak_blk, planMode_of_ne _ _ (by rcases hlow with rfl | rfl <;> exact fun k => nomatch k.2), changeMode_low _ _ hlow]
    · subst hrun
      have hk : ((s.entryTaken b c .run).blk b).clk.mode = .sleep := by rw [entryTaken_clk]; exact hsl
      rw [planMode_of_ne _ _ (by rw [hk]; exact fun k => nomatch k.1)]
      exact ⟨(changeMode_wakes _ b hk).1, changeMode_wakeLeft _ b hk⟩
  · obtain ⟨t, ht⟩ := passWithin_some hl
    have hb := passWithin_blk ht b
    have hw : (t.wakeDone b).notePeak.blk b = (s.blk b).woken (t.ticks b) := by
      rw [notePeak_blk, wakeDone_blk (by rw [hb]; exact h) (by rw [hb]; exact hr), hb]
    refine ⟨_, congrArg Host.Outcome.next (wakeComplete_eq h hp ht), ?_⟩
    unfold State.getG State.getF
    rw [hw]
    refine ⟨rfl, rfl, fun hd => ?_, fun hsl r => ?_⟩
    · obtain ⟨hcore, hvec, hmtx⟩ := woken_from_deep (t.ticks b) hd
      obtain ⟨hreg, hv, ht, hz⟩ := wipeRegs_empty (s.blk b)
      rw [hcore, hvec, hmtx]
      refine ⟨fun r => ?_, hv, ht, hz, fun hi => by rw [hi]; rfl⟩
      split
      · exact hreg r
      · exact hreg r
    · rw [woken_from_sleep _ hsl]
      exact ⟨rfl, rfl⟩
  · refine ⟨_, rfl, fun h => clkReq_locked h, fun h h3 => ?_, fun h hm h1 => ?_, fun h hm h2 => ?_, fun h hm h0 => ?_, fun h hm h1 => ?_⟩
    · exact clkReq_reserved h h3
    · rw [clkReq_sleep h h1, requestMode_of_ne _ (by rw [hm]; decide), changeMode_low _ _ (.inl rfl)]
    · rw [clkReq_deep h h2, requestMode_of_ne _ (by rw [hm]; decide)]
      exact ⟨changeMode_low _ _ (.inr rfl), changeMode_deep_hold _ _ (by rw [hm]; decide)⟩
    · rw [clkReq_run h h0, requestMode_of_ne _ (by rw [hm]; decide), (changeMode_wakes _ _ hm).1]
    · rw [clkReq_sleep h h1]
      exact requestMode_waits _ hm
  · exact ⟨_, congrArg Host.Outcome.next (quarterPllStart_still hm hb), startPll_pll 1000 h hs hf⟩
  · show Host.Outcome.next (quarterPllStart q s) = _
    rw [quarterPllStart_moves hm hu h hs hf, hn]
  · intro left hle hlast
    have hstart : s.toPllStart q.toNat = some (s.advanceTo (s.epoch.cycle + (left - 14 * s.pl.mhz))) := by
      rw [toPllStart_active ha hn hle]
      exact passWithin_active ha hlast
    refine ⟨(s.advanceTo (s.epoch.cycle + (left - 14 * s.pl.mhz))).startPll q.toNat s.pl.mhz, ?_, ?_, ?_⟩
    · refine congrArg Host.Outcome.next ?_
      rw [quarterPllStart_moves hm hu h hs hf, hstart]
      dsimp only
      rw [advanceTo_pl]
    · rw [startPll_cycle, advanceTo_cycle _ ha]
      exact Nat.max_eq_left (by omega)
    · rw [startPll_timeNs, startPll_pll _ (by rw [advanceTo_pll]; exact h) (by rw [advanceTo_pll]; exact hs) (by rw [advanceTo_pll]; exact hf),
        advanceTo_pll]
  · obtain ⟨t, ht⟩ := Option.ne_none_iff_exists'.1 hn
    have hrel : quarterPllRelease q s = t.releasePll q.toNat := by
      unfold quarterPllRelease
      dsimp only
      rw [if_pos hs, ht]
    exact ⟨_, congrArg Host.Outcome.next hrel, releasePll_keeps (by rw [passWithin_pll ht]; exact hs)⟩
  · have hstop : quarterPllStop q s = s.stopPll q.toNat := by
      unfold quarterPllStop
      have hg : (decide (s.epoch.num = s.pl.e0) || s.pl.runs q.toNat (s.epoch.num - 1)) = true := by simpa using hb
      dsimp only
      rw [hm, ha, hu, hr, hg, hn]
      rfl
    exact ⟨_, congrArg Host.Outcome.next hstop, stopPll_keeps s q.toNat⟩
end

/-! # Commands that end, run or hold a slot: what their ends keep -/

section
namespace Sys2Proof.Machine
variable {s t : State} {c : Cmd} {seq : W64}

theorem startedCmd_found {op : Nat} (h : s.startedCmd seq op = some c) : s.findCmd seq = some c ∧ c.phase = .started ∧ c.opcode = op ∧ c.seq = seq := by
  unfold State.startedCmd at h
  rw [Option.filter_eq_some_iff] at h
  obtain ⟨hf, hp⟩ := h
  obtain ⟨hp, ho⟩ := of_decide_eq_true hp
  exact ⟨hf, hp, ho, findCmd_seq hf⟩

theorem startedCmd_self {op : Nat} (h : s.startedCmd seq op = some c) : s.findCmd c.seq = some c := by
  obtain ⟨hf, _, _, hs⟩ := startedCmd_found h
  rw [hs, hf]

theorem findCmd_self (h : s.findCmd seq = some c) : s.findCmd c.seq = some c := by rw [findCmd_seq h, h]

theorem findCmd_of_cmds (h : t.hif.cmds = s.hif.cmds) (n : W64) : t.findCmd n = s.findCmd n := by
  rw [State.findCmd, h, State.findCmd]

/-- A command that ends keeps its end in its record, and has the end record raised for it (R495). -/
theorem endsWith_endCmd (st : BitVec 16) (v : W64) (h : s.findCmd c.seq = some c) : EndsWith (s.endCmd c st v) c st v := by
  refine ⟨findCmd_modCmd (f := fun c => { c with phase := .ending, status := st, result := v }) rfl h, s.jnl.cmdRecs, _, rfl, rfl, ?_, rfl, rfl, rfl⟩
  unfold State.cmdRecord
  dsimp only
  split
  · rw [if_neg (by decide)]
  · rw [if_neg (by decide)]

theorem endsWith_hostReadFail (h : s.findCmd c.seq = some c) : EndsWith (s.hostReadFail c) c 0x40 0 := endsWith_endCmd _ _ h

theorem runs_holdSlot (i : Nat) (h : s.findCmd c.seq = some c) : Runs (s.holdSlot c i) c :=
  ⟨_, findCmd_modCmd (f := fun c => { c with slot := some i, phase := .running }) rfl h, rfl, rfl, rfl⟩

theorem runs_runCmd (h : s.findCmd c.seq = some c) : Runs (s.runCmd c) c :=
  ⟨_, findCmd_modCmd (f := fun c => { c with phase := .running }) rfl h, rfl, rfl, rfl⟩

theorem commandCompletion_eq (e : Ending) (h : s.findCmd seq = some c) (hp : c.phase = .running) (hq : s.hif.quiet = false) :
    commandCompletion seq e s = s.completeCmd c e := by
  unfold commandCompletion
  rw [h, Option.filter_some, hp]
  rw [hq]
  rfl

/-- A completion ends a command that runs, unless the link to the host is quiet. -/
theorem completes_next {e : Ending} (h : s.findCmd seq = some c) (hp : c.phase = .running) (hq : s.hif.quiet = false) (k : s.completeCmd c e = t) :
    exec (.commandCompletion seq e) s = .next t :=
  congrArg Host.Outcome.next ((commandCompletion_eq e h hp hq).trans k)

/-! ## Edge memories -/

theorem edgeDie_setEdge_same (e : Edge) (d : EdgeDie) : (s.setEdge e d).edgeDie e = d := by
  cases e <;> rfl

@[simp] theorem edgeDie_modEdge_same (e : Edge) (f : EdgeDie → EdgeDie) : (s.modEdge e f).edgeDie e = f (s.edgeDie e) := edgeDie_setEdge_same ..

@[simp] theorem modEdge_findCmd (e : Edge) (f : EdgeDie → EdgeDie) (n : W64) : (s.modEdge e f).findCmd n = s.findCmd n := by
  cases e <;> rfl

theorem padTo_of_length {n : Nat} {l : List Byte} (h : l.length = n) : padTo n (l.take n) = l := by
  rw [padTo, List.take_of_length_le (Nat.le_of_eq h), h, Nat.sub_self, List.replicate_zero, List.append_nil]

end Sys2Proof.Machine
end

/-! # INTAKE_WRITE and OUTLET_READ: the proofs -/

section
open Sys2Proof Sys2Proof.Machine
namespace Sys2Proof.Machine
variable {s : State} {c : Cmd} {seq : W64}

theorem find_put {α : Type} (t : Tab α) (k : Nat) (v : α) : ((put t k v).find? fun e => decide (e.1 = k)).map Prod.snd = some v := by
  induction t with
  | nil => simp [put]
  | cons e t ih =>
    obtain ⟨j, w⟩ := e
    unfold put
    split
    · simp
    · split
      · simp
      case isFalse hlt hne => rw [List.find?_cons_of_neg (by simpa using fun e => hne e.symm), ih]

@[simp] theorem setIntake_intake (s : State) (n : Nat) (x : Intake) : (s.setIntake n x).intake n = some x := find_put ..

@[simp] theorem setOutlet_outlet (s : State) (n : Nat) (x : Outlet) : (s.setOutlet n x).outlet n = some x := find_put ..

/-! ## INTAKE_WRITE (R507) -/

theorem freeSlot_none {x : Intake} (h : ∀ i < x.slots.length, x.slots[i]? ≠ some .free) : x.freeSlot = none := by
  rw [Intake.freeSlot, List.find?_eq_none]
  intro i hi
  obtain ⟨k, hk, rfl⟩ := List.mem_map.1 hi
  have hlt : (x.point + k) % x.slots.length < x.slots.length := Nat.mod_lt _ (Nat.lt_of_le_of_lt (Nat.zero_le k) (List.mem_range.1 hk))
  simpa using h _ hlt

theorem freeSlot_first {x : Intake} {j : Nat} (hj : j < x.slots.length) (h : x.slots[(x.point + j) % x.slots.length]? = some .free)
    (hb : ∀ k < j, x.slots[(x.point + k) % x.slots.length]? ≠ some .free) : x.freeSlot = some ((x.point + j) % x.slots.length) := by
  rw [Intake.freeSlot, List.find?_map, Option.map_eq_some_iff]
  refine ⟨j, List.find?_range_eq_some.2 ⟨by simpa using h, List.mem_range.2 hj, fun k hk => ?_⟩, rfl⟩
  simpa using hb k hk

theorem intakeWrite_refused (hc : s.startedCmd seq 0x10 = some c)
    (h : s.bufferStatus c ((s.intake c.bind).map fun x => (x.slotSize, x.die)) ≠ 0) :
    intakeWrite seq s = s.endCmd c (s.bufferStatus c ((s.intake c.bind).map fun x => (x.slotSize, x.die))) 0 := by
  unfold intakeWrite
  rw [hc]
  dsimp only
  split
  case h_1 h0 _ => exact absurd h0 h
  case h_2 => rfl

theorem intakeWrite_full {x : Intake} (hc : s.startedCmd seq 0x10 = some c) (hx : s.intake c.bind = some x)
    (h : s.bufferStatus c (some (x.slotSize, x.die)) = 0) (hf : x.freeSlot = none) : intakeWrite seq s = s.endCmd c 0x32 0 := by
  unfold intakeWrite
  simp only [hc, hx, Option.map_some, show s.bufferStatus c (some (x.slotSize, x.die)) = 0#16 from h, hf]

theorem intakeWrite_takes {x : Intake} {i : Nat} (hc : s.startedCmd seq 0x10 = some c) (hx : s.intake c.bind = some x)
    (h : s.bufferStatus c (some (x.slotSize, x.die)) = 0) (hf : x.freeSlot = some i) :
    intakeWrite seq s = (s.setIntake c.bind (x.setSlot i .filling)).holdSlot c i := by
  unfold intakeWrite
  simp only [hc, hx, Option.map_some, show s.bufferStatus c (some (x.slotSize, x.die)) = 0#16 from h, hf]

theorem holdSlot_slot (i : Nat) (h : s.findCmd c.seq = some c) {d : Cmd} (hd : (s.holdSlot c i).findCmd c.seq = some d) : d.slot = some i := by
  have := findCmd_modCmd (f := fun c => { c with slot := some i, phase := .running }) rfl h
  rw [State.holdSlot, this] at hd
  rw [← Option.some.inj hd]

/-! ## The end of a buffer command (R509, R512, R525) -/

theorem planIdOk_of_eq (h : c.planId = s.planId) : s.planIdOk c = true := decide_eq_true h

theorem completeCmd_intake (e : Ending) (h : c.opcode = 0x10) : s.completeCmd c e = s.intakeDone c e := by
  simp only [State.completeCmd, h]

theorem completeCmd_outlet (e : Ending) (h : c.opcode = 0x11) : s.completeCmd c e = s.outletDone c e := by
  simp only [State.completeCmd, h]

/-- The slot that an INTAKE_WRITE fills takes the bytes. -/
theorem intakeDone_done {x : Intake} {i : Nat} (l : List Byte) (hx : s.intake c.bind = some x) (hp : c.planId = s.planId) (hi : c.slot = some i) :
    s.intakeDone c (.done l) = ((s.modEdge x.die fun d =>
      { d with sram := mstore d.sram (x.base + i * x.slotSize) (padTo x.slotSize (l.take x.slotSize)) }).setIntake c.bind (x.setSlot i .filled)).endCmd
        c 0 (BitVec.ofNat 64 i) := by
  unfold State.intakeDone
  rw [hx, hi, Option.filter_some, if_pos (planIdOk_of_eq hp)]
  rfl

theorem intakeDone_failed {x : Intake} {i : Nat} (hx : s.intake c.bind = some x) (hp : c.planId = s.planId) (hi : c.slot = some i) :
    s.intakeDone c .hostReadFailed = (s.setIntake c.bind (x.setSlot i .free)).hostReadFail c := by
  unfold State.intakeDone
  rw [hx, hi, Option.filter_some, if_pos (planIdOk_of_eq hp)]
  rfl

theorem intakeDone_unreachable {x : Intake} {i : Nat} (hx : s.intake c.bind = some x) (hp : c.planId = s.planId) (hi : c.slot = some i) :
    s.intakeDone c .unreachable = (s.setIntake c.bind (x.setSlot i .free)).endCmd c 0x41 0 := by
  unfold State.intakeDone
  rw [hx, hi, Option.filter_some, if_pos (planIdOk_of_eq hp)]
  rfl

theorem hostReadFail_intakes (s : State) (c : Cmd) : (s.hostReadFail c).intakes = s.intakes := by
  unfold State.hostReadFail
  generalize (if s.free.getLsbD 0 = true then aerPoisoned else aerTimeout) = bit
  rfl

theorem hostReadFail_intake (s : State) (c : Cmd) (n : Nat) : (s.hostReadFail c).intake n = s.intake n := by
  rw [State.intake, hostReadFail_intakes, State.intake]

theorem hostReadFail_edge0 (s : State) (c : Cmd) : (s.hostReadFail c).edge0 = s.edge0 := by
  unfold State.hostReadFail
  generalize (if s.free.getLsbD 0 = true then aerPoisoned else aerTimeout) = bit
  rfl

theorem hostReadFail_edge1 (s : State) (c : Cmd) : (s.hostReadFail c).edge1 = s.edge1 := by
  unfold State.hostReadFail
  generalize (if s.free.getLsbD 0 = true then aerPoisoned else aerTimeout) = bit
  rfl

theorem filter_of_gone {α : Type} (o : Option α) (h : c.planId ≠ s.planId) : o.filter (fun _ => s.planIdOk c) = none := by
  rw [Option.filter_eq_none_iff]
  intro _ _ k
  exact h (of_decide_eq_true k)

/-- A plan that has gone leaves no slot (R525, log entry 40). -/
theorem intakeDone_gone (l : List Byte) (h : c.planId ≠ s.planId) :
    s.intakeDone c (.done l) = s.endCmd c 0 (BitVec.ofNat 64 (c.slot.getD 0)) := by
  unfold State.intakeDone
  rw [filter_of_gone _ h]

theorem outletDone_gone (l : List Byte) (h : c.planId ≠ s.planId) : s.outletDone c (.done l) = s.endCmd c 0 0 := by
  unfold State.outletDone
  rw [filter_of_gone _ h]

/-! ## OUTLET_READ (R512) -/

theorem outletRead_none {x : Outlet} (hc : s.startedCmd seq 0x11 = some c) (hx : s.outlet c.bind = some x)
    (h : s.bufferStatus c (some (x.slotSize, x.die)) = 0) (ho : x.order = []) : outletRead seq s = s.endCmd c 0x33 0 := by
  unfold outletRead
  simp only [hc, hx, Option.map_some, show s.bufferStatus c (some (x.slotSize, x.die)) = 0#16 from h, ho]

theorem outletRead_takes {x : Outlet} {i : Nat} {rest : List Nat} {e : W64} {v : Bool} (hc : s.startedCmd seq 0x11 = some c)
    (hx : s.outlet c.bind = some x) (h : s.bufferStatus c (some (x.slotSize, x.die)) = 0) (ho : x.order = i :: rest)
    (hi : x.slots[i]? = some (.ready e v)) :
    outletRead seq s = (s.setOutlet c.bind { x.setSlot i (.reading e v) with order := rest }).holdSlot c i := by
  unfold outletRead
  simp only [hc, hx, Option.map_some, show s.bufferStatus c (some (x.slotSize, x.die)) = 0#16 from h, ho, hi]

theorem outletDone_done {x : Outlet} {i : Nat} {e : W64} {v : Bool} (l : List Byte) (hx : s.outlet c.bind = some x) (hp : c.planId = s.planId)
    (hi : c.slot = some i) (hs : x.slots[i]? = some (.reading e v)) :
    s.outletDone c (.done l) = ((s.setOutlet c.bind (x.setSlot i .empty)).hostWrite (c.arg 24 8)
      (mload (s.edgeDie x.die).sram (x.base + i * x.slotSize) x.slotSize)).endCmd c (if v then 1 else 0) e := by
  unfold State.outletDone
  rw [hx, hi, Option.filter_some, if_pos (planIdOk_of_eq hp)]
  dsimp only [Option.getD_some]
  rw [hs]

theorem outletDone_lost {x : Outlet} {i : Nat} (hx : s.outlet c.bind = some x) (hp : c.planId = s.planId) (hi : c.slot = some i) :
    s.outletDone c (.dataLoss []) = ((s.setOutlet c.bind (x.setSlot i .empty)).bump 0x4001 6).endCmd c 0x42 0 := by
  unfold State.outletDone
  rw [hx, hi, Option.filter_some, if_pos (planIdOk_of_eq hp)]
  rfl

theorem mload_length (m : Memory) (a n : Nat) : (mload m a n).length = n := by
  induction n generalizing a with
  | zero => rfl
  | succ n ih => rw [mload, List.length_cons, ih]

end Sys2Proof.Machine

/-- Settles O44: each end of a buffer command is one state with the slot set and the command ended; the bytes are those of one store in memory. -/
theorem bufferCommands : Obligations.BufferCommands := by
  intro s seq c ends
  refine ⟨fun hc => ⟨fun h => ?_, fun x hx h => ⟨fun hf => ?_, fun j hj hfree hb => ?_⟩⟩, fun hf hr hq ho x i hx hp hi => ⟨fun l hl => ?_, ?_, ?_⟩,
    fun hf hr hq ho hp l => ?_, fun hc x hx h => ⟨fun ho => ?_, fun i rest e v ho hi => ?_⟩, fun hf hr hq ho x i e v hx hp hi hs => ⟨?_, ?_⟩⟩
  · exact ⟨_, congrArg Host.Outcome.next (intakeWrite_refused hc h), endsWith_endCmd _ _ (startedCmd_self hc)⟩
  · exact ⟨_, congrArg Host.Outcome.next (intakeWrite_full hc hx h (freeSlot_none hf)), endsWith_endCmd _ _ (startedCmd_self hc)⟩
  · have hself := startedCmd_self hc
    obtain ⟨_, _, _, rfl⟩ := startedCmd_found hc
    exact ⟨_, congrArg Host.Outcome.next (intakeWrite_takes hc hx h (freeSlot_first hj hfree hb)),
      runs_holdSlot (s := s.setIntake c.bind _) _ hself, setIntake_intake .., fun d hd => holdSlot_slot (s := s.setIntake c.bind _) _ hself hd⟩
  · have hdone := (completeCmd_intake (.done l) ho).trans (intakeDone_done l hx hp hi)
    rw [padTo_of_length hl] at hdone
    refine ⟨_, completes_next hf hr hq hdone, setIntake_intake .., endsWith_endCmd _ _ ?_, ?_, fun k hk => ?_⟩
    · show (s.modEdge _ _).findCmd c.seq = some c
      rw [modEdge_findCmd, findCmd_self hf]
    · show mload ((s.modEdge _ _).edgeDie _).sram _ _ = l
      rw [edgeDie_modEdge_same]
      dsimp only
      rw [← hl]
      exact mload_mstore_same ..
    · show mget ((s.modEdge _ _).edgeDie _).sram k = _
      rw [edgeDie_modEdge_same]
      refine mget_mstore_out _ _ _ (hk.imp id fun k => ?_)
      rw [hl]
      rw [Nat.add_mul] at k
      omega
  · exact ⟨_, completes_next hf hr hq ((completeCmd_intake _ ho).trans (intakeDone_failed hx hp hi)),
      endsWith_hostReadFail (s := s.setIntake c.bind _) (findCmd_self hf), (hostReadFail_intake _ c _).trans (setIntake_intake ..),
      hostReadFail_edge0 _ c, hostReadFail_edge1 _ c⟩
  · exact ⟨_, completes_next hf hr hq ((completeCmd_intake _ ho).trans (intakeDone_unreachable hx hp hi)),
      endsWith_endCmd _ _ (findCmd_self hf), setIntake_intake ..⟩
  · rcases ho with ho | ho
    · exact ⟨_, _, _, completes_next hf hr hq ((completeCmd_intake _ ho).trans (intakeDone_gone l hp)),
        endsWith_endCmd _ _ (findCmd_self hf), rfl, rfl, rfl, rfl, rfl⟩
    · exact ⟨_, _, _, completes_next hf hr hq ((completeCmd_outlet _ ho).trans (outletDone_gone l hp)),
        endsWith_endCmd _ _ (findCmd_self hf), rfl, rfl, rfl, rfl, rfl⟩
  · exact ⟨_, congrArg Host.Outcome.next (outletRead_none hc hx h ho), endsWith_endCmd _ _ (startedCmd_self hc)⟩
  · exact ⟨_, congrArg Host.Outcome.next (outletRead_takes hc hx h ho hi), runs_holdSlot (s := s.setOutlet c.bind _) _ (startedCmd_self hc),
      setOutlet_outlet ..⟩
  · refine ⟨_, completes_next hf hr hq ((completeCmd_outlet _ ho).trans (outletDone_done [] hx hp hi hs)),
      setOutlet_outlet .., ?_, fun k hk => ?_, endsWith_endCmd _ _ (findCmd_self hf)⟩
    · have h := mload_mstore_same s.hostMem (c.arg 24 8) (mload (s.edgeDie x.die).sram (x.base + i * x.slotSize) x.slotSize)
      rw [mload_length] at h
      exact h
    · exact mget_mstore_out _ _ _ (by rw [mload_length]; exact hk)
  · have hb : ((s.setOutlet c.bind (x.setSlot i .empty)).bump 0x4001 6).hif.cmds = s.hif.cmds := rfl
    exact ⟨_, completes_next hf hr hq ((completeCmd_outlet _ ho).trans (outletDone_lost hx hp hi)),
      endsWith_endCmd _ _ ((findCmd_of_cmds hb _).trans (findCmd_self hf)), rfl, setOutlet_outlet s ..⟩
end

/-! # Scrubbing and sweeps: the proofs -/

section
open Sys2Proof Sys2Proof.Machine
namespace Sys2Proof.Machine

/-! ## What the repair book records (R724, R728) -/

/-- Of a block only its integrity notes change, and of the counters none; `n` more events are raised. -/
structure Noted (b : BlockId) (n : W64) (s t : State) : Prop where
  blk : t.blk b = { s.blk b with integ := { (s.blk b).integ with notes := (t.blk b).integ.notes } }
  count : ∀ i j, t.counter i j = s.counter i j
  raised : t.jnl.raised = s.jnl.raised + n

variable {s t u : State} {b : BlockId} {m n : W64}

theorem noted_refl (b : BlockId) (s : State) : Noted b 0 s s := ⟨rfl, fun _ _ => rfl, (BitVec.add_zero _).symm⟩

theorem Noted.trans (h : Noted b m s t) (k : Noted b n t u) : Noted b (m + n) s u :=
  ⟨by rw [k.blk, h.blk], fun i j => (k.count i j).trans (h.count i j), by rw [k.raised, h.raised, BitVec.add_assoc]⟩

theorem noted_raise (b : BlockId) (s : State) (kind : Nat) (ref result tag : W64) : Noted b 1 s (s.raise kind ref result tag) := by
  refine ⟨rfl, fun _ _ => rfl, ?_⟩
  rw [raise_jnl]
  unfold Jnl.accept
  dsimp only
  split <;> rfl

theorem noted_setNotes (b : BlockId) (s : State) (l : List ErrNote) : Noted b 0 s (s.setNotes b l) := by
  refine ⟨?_, fun _ _ => rfl, (BitVec.add_zero _).symm⟩
  rw [State.setNotes, blk_modBlk_same]

theorem noted_setRepair (b : BlockId) (s : State) (l : List RepairEntry) : Noted b 0 s (s.setRepair l) := ⟨rfl, fun _ _ => rfl, (BitVec.add_zero _).symm⟩

/-- A candidate of the repair map raises at most one event. -/
theorem Noted.candidate_if (h : Noted b n s t) (p : Prop) [Decidable p] (reason detail : Nat) :
    ∃ m, (m = n ∨ m = n + 1) ∧ Noted b m s (if p then t.candidate b reason detail else t) := by
  split
  case isFalse => exact ⟨n, .inl rfl, h⟩
  case isTrue =>
    unfold State.candidate State.candidateAt
    dsimp only
    split
    · exact ⟨n, .inl rfl, h⟩
    · split
      · exact ⟨n + 1, .inr rfl, h.trans (noted_raise b t ..)⟩
      · exact ⟨n + 1, .inr rfl, (BitVec.add_zero n ▸ h.trans (noted_setRepair b t _)).trans (noted_raise b _ ..)⟩

/-! ## Counters -/

theorem bump_counter_ne {i j k l : Nat} (n : Nat) (h : 256 * k + l ≠ 256 * i + j) : (s.bump i j n).counter k l = s.counter k l := by
  unfold State.bump State.keepCounter
  dsimp only
  split <;> exact look_store_ne _ _ _ h

@[simp] theorem bump_blk (i j n : Nat) (c : BlockId) : (s.bump i j n).blk c = s.blk c := by
  unfold State.bump State.keepCounter
  dsimp only
  split <;> rfl

theorem setCounter_counter (i j v : Nat) : (s.setCounter i j v).counter i j = v := by
  unfold State.setCounter State.keepCounter
  split <;> exact look_store_same ..

theorem setCounter_counter_ne {i j k l : Nat} (v : Nat) (h : 256 * k + l ≠ 256 * i + j) : (s.setCounter i j v).counter k l = s.counter k l := by
  unfold State.setCounter State.keepCounter
  split <;> exact look_store_ne _ _ _ h

/-! ## Scrubbing a line (R727, R728) -/

/-- The scrubber moves on to the next line. -/
def State.scrubbed (s : State) (b : BlockId) : State :=
  s.modBlk b fun x => { x with integ := { x.integ with scrubLine := ((s.blk b).integ.scrubLine + 1) % scrubLines } }

theorem noted_note (h : b ≠ mgmtCore) (s : State) (reason word limit : Nat) : ∃ n, Noted b n s (s.note b reason word limit) := by
  unfold State.note
  rw [if_neg h]
  exact (Noted.candidate_if (noted_setNotes b s _) _ _ _).imp fun _ => And.right

theorem noted_corrected (h : b ≠ mgmtCore) (s : State) (a : Nat) : ∃ n, Noted b n (s.bump (0x4010 + quarterOf b) 1) (s.corrected b a) := by
  obtain ⟨n, hn⟩ := noted_note h (s.bump (0x4010 + quarterOf b) 1) 3 a 32
  unfold State.corrected
  rw [if_neg h]
  exact (hn.candidate_if _ _ _).imp fun _ => And.right

/-- An uncorrectable word of a block is counted, and brings one candidate at most. -/
theorem noted_uncorrectable (h : b ≠ mgmtCore) (s : State) (a : Nat) :
    ∃ n, (n = 0 ∨ n = 0 + 1) ∧ Noted b n (s.bump (0x4010 + quarterOf b) 2) (s.uncorrectable b a) := by
  unfold State.uncorrectable
  rw [if_neg h]
  exact Noted.candidate_if (noted_setNotes b _ _) _ _ _

theorem scrubLine_clean (h : s.scrubs b = true) : scrubLine b .clean s = s.scrubbed b := by
  unfold scrubLine
  rw [if_pos h]
  rfl

theorem scrubLine_corrected (h : s.scrubs b = true) (i : Nat) :
    scrubLine b (.corrected [i]) s = (s.scrubbed b).corrected b (0x100000 + 64 * (s.blk b).integ.scrubLine + 8 * (i % 8)) := by
  unfold scrubLine
  rw [if_pos h]
  rfl

theorem scrubLine_uncorrectable (h : s.scrubs b = true) (i : Nat) : ∃ ref px py,
    scrubLine b (.uncorrectable i) s =
      ((s.scrubbed b).uncorrectable b (0x100000 + 64 * (s.blk b).integ.scrubLine + 8 * (i % 8))).scrubFound ref px py := by
  unfold scrubLine
  rw [if_pos h]
  exact ⟨_, _, _, rfl⟩

theorem ne_mgmtCore_of_scrubs (h : s.scrubs b = true) : b ≠ mgmtCore := by
  unfold State.scrubs State.reachable at h
  simp only [Bool.and_eq_true, decide_eq_true_eq] at h
  exact h.1.1.1

theorem scrubbed_blk (s : State) (b : BlockId) :
    (s.scrubbed b).blk b = { s.blk b with integ := { (s.blk b).integ with scrubLine := ((s.blk b).integ.scrubLine + 1) % 6144 } } := by
  rw [State.scrubbed, blk_modBlk_same]
  rfl

/-! ## A segment in a window (R751) -/

/-- A block after a segment, with the record `j` of its tests. -/
def Block.segmented (regs : Bool) (j : Integ) (x : Block) : Block := { (if regs then x.wipeRegs else x) with integ := j }

theorem sweepWindowSegment_eq {w : Sweep} {win : SweepWin} {stop k : Nat} (hw : s.sweep = some w) (hm : w.mask.testBit (quarterOf b) = true)
    (hr : s.runningPart = true) (hp : s.plan = .running) (ho : s.openWindow b = some (win, stop))
    (hn : nextTest w.tests (s.blk b).integ.tested win.regs = some k) :
    ∃ v, sweepWindowSegment b none none s =
      { (s.advanceTo (min stop (2 ^ s.k - 1))).modBlk b (Block.segmented win.regs ((s.blk b).integ.segment k false)) with sweep := v } := by
  unfold sweepWindowSegment
  simp only [hw, hm, hr, hp, ho, hn, Bool.not_true, Bool.or_self, ne_eq, not_true_eq_false, decide_false, Bool.false_eq_true, if_false,
    Option.isSome_none]
  exact ⟨_, rfl⟩

theorem segmented_mems (regs : Bool) (j : Integ) (x : Block) : (x.segmented regs j).ls = x.ls ∧ (x.segmented regs j).im = x.im := by
  cases regs <;> exact ⟨rfl, rfl⟩

theorem nextTest_lt {tests done : BitVec 4} {regs : Bool} {k : Nat} (h : nextTest tests done regs = some k) : k < 4 := by
  have hm := List.mem_of_find?_eq_some h
  simp only [List.mem_cons, List.not_mem_nil, or_false] at hm
  omega

theorem integ_segment_more {i : Integ} {k : Nat} (h : i.segs + 1 < windowSegs k) :
    (i.segment k false).segs = i.segs + 1 ∧ (i.segment k false).tested = i.tested := by
  rw [Integ.segment, if_pos h]
  exact ⟨rfl, rfl⟩

theorem integ_segment_last {i : Integ} {k : Nat} (hk : k < 4) (h : windowSegs k ≤ i.segs + 1) :
    (i.segment k false).segs = 0 ∧ (i.segment k false).tested.getLsbD k = true := by
  rw [Integ.segment, if_neg (Nat.not_lt.2 h)]
  refine ⟨rfl, ?_⟩
  simp [hk]

theorem active_of_runningPart (h : s.runningPart = true) : s.epoch.active = true := by
  unfold State.runningPart at h
  simp only [Bool.and_eq_true] at h
  exact h.1.1.1

/-! ## The end of a sweep (R753) -/

theorem mapAll_holds {p : Block → Prop} {f : Block → Block} (h : ∀ x, p (f x)) (s : State) {c : BlockId} (hc : quarterOf c < 4) :
    p ((s.mapAll f).blk c) := by
  have later : ∀ (q : Nat) (u : State), p (u.blk c) → p ((u.mapQuarter q f).blk c) := by
    intro q u hu
    unfold State.mapQuarter
    rw [blk_mapKey, blk_mapKey]
    split
    · exact h _
    · split
      · exact h _
      · exact hu
  unfold State.mapAll
  obtain h0 | h1 | h2 | h3 : quarterOf c = 0 ∨ quarterOf c = 1 ∨ quarterOf c = 2 ∨ quarterOf c = 3 := by omega
  · exact later _ _ (later _ _ (later _ _ (mapQuarter_holds h _ h0)))
  · exact later _ _ (later _ _ (mapQuarter_holds h _ h1))
  · exact later _ _ (mapQuarter_holds h _ h2)
  · exact mapQuarter_holds h _ h3

/-- What the report of a sweep leaves as it is. -/
def State.apartFromReport (s : State) : Tab Block × Tab Block × Option Sweep × Hif := (s.blocks, s.rest, s.sweep, s.hif)

def State.quarterReport (mask : Nat) (failed : Tab Nat) (s : State) (q : Nat) : State :=
  if mask.testBit q then
    (s.setCounter (0x4010 + q) 5 (look 0 failed q)).raise 0x0600 (BitVec.ofNat 64 q)
      (BitVec.ofNat 64 (6 + 0xFFFF00 + 2 ^ 40 * min (look 0 failed q) 255))
  else s

theorem sweepReport_eq (s : State) (mask : Nat) (failed : Tab Nat) : s.sweepReport mask failed = [0, 1, 2, 3].foldl (State.quarterReport mask failed) s := rfl

theorem quarterReport_apart (mask : Nat) (failed : Tab Nat) (s : State) (q : Nat) :
    (s.quarterReport mask failed q).apartFromReport = s.apartFromReport := by
  unfold State.quarterReport
  split
  · unfold State.setCounter State.keepCounter
    split <;> rfl
  · rfl

theorem sweepReport_apart (s : State) (mask : Nat) (failed : Tab Nat) : (s.sweepReport mask failed).apartFromReport = s.apartFromReport :=
  foldl_keeps State.apartFromReport (quarterReport_apart mask failed) _ s

theorem quarterReport_counter_same {mask q : Nat} (failed : Tab Nat) (s : State) (h : mask.testBit q = true) :
    (s.quarterReport mask failed q).counter (0x4010 + q) 5 = look 0 failed q := by
  rw [State.quarterReport, if_pos h, raise_counter, setCounter_counter]

theorem quarterReport_counter_ne {q i : Nat} (mask : Nat) (failed : Tab Nat) (s : State) (h : i ≠ q) :
    (s.quarterReport mask failed q).counter (0x4010 + i) 5 = s.counter (0x4010 + i) 5 := by
  unfold State.quarterReport
  split
  · rw [raise_counter, setCounter_counter_ne _ (by omega)]
  · rfl

theorem sweepReport_counter {mask i : Nat} (failed : Tab Nat) (s : State) (hi : i < 4) (h : mask.testBit i = true) :
    (s.sweepReport mask failed).counter (0x4010 + i) 5 = look 0 failed i := by
  simp only [sweepReport_eq, List.foldl_cons, List.foldl_nil]
  obtain rfl | rfl | rfl | rfl : i = 0 ∨ i = 1 ∨ i = 2 ∨ i = 3 := by omega
  · rw [quarterReport_counter_ne _ _ _ (by decide), quarterReport_counter_ne _ _ _ (by decide), quarterReport_counter_ne _ _ _ (by decide),
      quarterReport_counter_same _ _ h]
  · rw [quarterReport_counter_ne _ _ _ (by decide), quarterReport_counter_ne _ _ _ (by decide), quarterReport_counter_same _ _ h]
  · rw [quarterReport_counter_ne _ _ _ (by decide), quarterReport_counter_same _ _ h]
  · rw [quarterReport_counter_same _ _ h]

/-- A sweep is over and reported; its command has not ended yet. -/
def State.sweepReported (s : State) (w : Sweep) : State :=
  ({ (s.mapAll fun x => { x with integ := { x.integ with tested := 0, segs := 0, failed := false } }) with sweep := none } : State).sweepReport
    w.mask w.failed

theorem sweepReported_apart (s : State) (w : Sweep) : (s.sweepReported w).sweep = none ∧ (s.sweepReported w).hif = s.hif ∧
    ∀ b, quarterOf b < 4 → ((s.sweepReported w).blk b).integ.tested = 0 := by
  have h := sweepReport_apart
    { (s.mapAll fun x => { x with integ := { x.integ with tested := 0, segs := 0, failed := false } }) with sweep := none } w.mask w.failed
  obtain ⟨hb, hr, hs, hh⟩ : _ ∧ _ ∧ _ ∧ _ := by simpa only [State.apartFromReport, Prod.mk.injEq] using h
  refine ⟨hs, hh, fun b hq => ?_⟩
  have hk : (s.sweepReported w).blk b = (s.mapAll fun x => { x with integ := { x.integ with tested := 0, segs := 0, failed := false } }).blk b := by
    unfold State.blk State.sweepReported
    rw [hb, hr]
  rw [hk]
  exact mapAll_holds (p := fun x => x.integ.tested = 0) (fun _ => rfl) s hq

theorem endSweep_eq (s : State) (w : Sweep) :
    (s.findCmd w.seq = none ∧ s.endSweep w = s.sweepReported w) ∨
    ∃ c, s.findCmd w.seq = some c ∧ (s.sweepReported w).findCmd w.seq = some c ∧
      s.endSweep w = (s.sweepReported w).endCmd c 0 (sweepResult w.tested ((w.failed.map Prod.snd).sum)) := by
  obtain ⟨_, hh, _⟩ := sweepReported_apart s w
  have hf : (s.sweepReported w).findCmd w.seq = s.findCmd w.seq := findCmd_of_cmds (by rw [hh]) _
  have he : s.endSweep w = (match (s.sweepReported w).findCmd w.seq with
    | some c => (s.sweepReported w).endCmd c 0 (sweepResult w.tested ((w.failed.map Prod.snd).sum))
    | none => s.sweepReported w) := rfl
  rw [he, hf]
  cases hc : s.findCmd w.seq with
  | none => exact .inl ⟨rfl, rfl⟩
  | some c => exact .inr ⟨c, rfl, rfl, rfl⟩

/-- A sweep that ends leaves no sweep, its tests are forgotten, and its quarters report. -/
theorem endSweep_keeps (s : State) (w : Sweep) : (s.endSweep w).sweep = none ∧ (∀ b, quarterOf b < 4 → ((s.endSweep w).blk b).integ.tested = 0) ∧
    (∀ i < 4, w.mask.testBit i = true → (s.endSweep w).counter (0x4010 + i) 5 = look 0 w.failed i) := by
  obtain ⟨hs, _, hb⟩ := sweepReported_apart s w
  rcases endSweep_eq s w with ⟨_, h⟩ | ⟨c, _, _, h⟩
  · rw [h]
    exact ⟨hs, hb, fun i hi hm => sweepReport_counter w.failed _ hi hm⟩
  · rw [h]
    exact ⟨hs, hb, fun i hi hm => sweepReport_counter w.failed _ hi hm⟩

theorem endSweep_ends {w : Sweep} {c : Cmd} (h : s.findCmd w.seq = some c) :
    EndsWith (s.endSweep w) c 0 (BitVec.ofNat 64 (w.tested + 2 ^ 32 * (w.failed.map Prod.snd).sum)) := by
  rcases endSweep_eq s w with ⟨hn, _⟩ | ⟨d, hd, hf, he⟩
  · rw [h] at hn
    cases hn
  · rw [h] at hd
    cases hd
    rw [he]
    exact endsWith_endCmd _ _ (findCmd_self hf)

end Sys2Proof.Machine

/-- Settles O49: what a scrubber finds changes the notes of its block alone, and a sweep that ends reports quarter by quarter. -/
theorem scrubbing : Obligations.Scrubbing := by
  intro s b n q
  refine ⟨fun h i => ⟨?_, ?_, ?_⟩, fun h f => ?_, ⟨rfl, fun l => ?_, fun i => ?_⟩, fun w win stop k hw hm hr hp ho hn => ?_,
    fun w hw hp ha => ⟨fun hl => ?_, fun hl ht => ?_⟩, fun w hw hp => ?_⟩
  · refine ⟨_, congrArg Host.Outcome.next (scrubLine_clean h), onlyBlock_modBlk b s _, scrubbed_blk s b⟩
  · obtain ⟨m, hm⟩ := noted_corrected (ne_mgmtCore_of_scrubs h) (s.scrubbed b) (0x100000 + 64 * (s.blk b).integ.scrubLine + 8 * (i % 8))
    refine ⟨_, congrArg Host.Outcome.next (scrubLine_corrected h i), ?_, ?_, ?_, ?_⟩
    · rw [hm.blk, bump_blk, scrubbed_blk]
    · rw [hm.blk, bump_blk, scrubbed_blk]
    · rw [hm.count]
      exact bump_counter ..
    · rw [hm.count]
      exact bump_counter_ne _ (by omega)
  · obtain ⟨m, h01, hm⟩ := noted_uncorrectable (ne_mgmtCore_of_scrubs h) (s.scrubbed b) (0x100000 + 64 * (s.blk b).integ.scrubLine + 8 * (i % 8))
    obtain ⟨ref, px, py, he⟩ := scrubLine_uncorrectable h i
    have k := hm.trans (noted_raise b _ 0x0600 (BitVec.ofNat 64 ref) (repairResult 8 px py 0 0 0) 0)
    refine ⟨_, congrArg Host.Outcome.next he, ?_, ?_, ?_⟩
    · exact (congrArg (fun x : Block => x.integ.scrubLine) k.blk).trans (by rw [bump_blk, scrubbed_blk])
    · exact (k.count _ _).trans (bump_counter ..)
    · have hr : ((s.scrubbed b).bump (0x4010 + quarterOf b) 2).jnl.raised = s.jnl.raised := by
        rw [bump_jnl]
        rfl
      refine h01.imp (fun e => k.raised.trans ?_) fun e => k.raised.trans ?_
      · rw [hr, e]
        rfl
      · rw [hr, e]
        rfl
  · refine congrArg Host.Outcome.next ?_
    unfold scrubLine
    rw [h]
    rfl
  · exact ⟨_, rfl, bump_counter ..⟩
  · refine ⟨_, rfl, bump_counter .., ?_⟩
    show ((s.bump 0x4001 4).raise _ _ _).jnl.raised = _
    rw [raise_jnl, accept_raised, bump_jnl]
  · obtain ⟨v, he⟩ := sweepWindowSegment_eq hw hm hr hp ho hn
    have hb : ((s.advanceTo (min stop (2 ^ s.k - 1))).modBlk b (Block.segmented win.regs ((s.blk b).integ.segment k false))).blk b =
        (s.blk b).segmented win.regs ((s.blk b).integ.segment k false) := by rw [blk_modBlk_same, advanceTo_blk]
    refine ⟨_, congrArg Host.Outcome.next he, advanceTo_cycle _ (active_of_runningPart hr), ?_, ?_, fun c hc => ?_, fun hl => ?_, fun hl => ?_⟩
    · exact (congrArg Block.ls hb).trans (segmented_mems ..).1
    · exact (congrArg Block.im hb).trans (segmented_mems ..).2
    · exact (blk_modBlk_ne _ _ hc).trans (advanceTo_blk ..)
    · obtain ⟨hs, ht⟩ := integ_segment_more hl
      exact ⟨(congrArg (fun x : Block => x.integ.segs) hb).trans hs, (congrArg (fun x : Block => x.integ.tested) hb).trans ht⟩
    · obtain ⟨hs, ht⟩ := integ_segment_last (nextTest_lt hn) hl
      exact ⟨(congrArg (fun x : Block => x.integ.segs) hb).trans hs, (congrArg (fun x : Block => x.integ.tested.getLsbD k) hb).trans ht⟩
  · refine congrArg Host.Outcome.next ?_
    unfold sweepEnd
    rw [hw]
    dsimp only
    rw [ha, hp]
    rcases hl with hl | hl
    · rw [if_pos hl]
      rfl
    · rw [hl]
      exact ite_self s
  · obtain ⟨t, ht⟩ := Option.ne_none_iff_exists'.1 ht
    refine ⟨t.endSweep w, congrArg Host.Outcome.next ?_, (endSweep_keeps t w).1⟩
    unfold sweepEnd
    rw [hw]
    dsimp only
    rw [ha, hp, if_neg hl, ht]
    rfl
  · have he : sweepEnd s = s.endSweep w := by
      unfold sweepEnd
      rw [hw]
      dsimp only
      rw [if_pos (by simp [hp])]
    obtain ⟨hs, hb, hc⟩ := endSweep_keeps s w
    exact ⟨_, congrArg Host.Outcome.next he, hs, hb b, hc, fun c hf => endSweep_ends hf⟩
end

/-! # Plan commands: the proofs -/

section
open Sys2Proof Sys2Proof.Machine
namespace Sys2Proof.Machine

/-! ## What the operations of a plan leave as it is -/

/-- The host interface, the plan's state and identifiers, and the device's place in it. -/
structure Device where
  hif : Hif
  mhz : Nat
  plan : PlanSt
  ids : BitVec 32 × BitVec 32
  dev : BitVec 7 × Bool
  k : Nat
  active : Bool
  pl : PlanRec
  bufs : List (Nat × Intake) × List (Nat × Outlet)

def State.device (s : State) : Device :=
  ⟨s.hif, s.mhz, s.plan, (s.planId, s.lastPlanId), (s.devNum, s.devValid), s.k, s.epoch.active, s.pl, (s.intakes, s.outlets)⟩

/-- The same without the buffers. -/
def State.unbuffered (s : State) : Device := { s.device with bufs := ([], []) }

theorem unbuffered_of_device {s t : State} (h : t.device = s.device) : t.unbuffered = s.unbuffered :=
  congrArg (fun d : Device => { d with bufs := ([], []) }) h

theorem hif_of_unbuffered {s t : State} (h : t.unbuffered = s.unbuffered) : t.hif = s.hif := congrArg Device.hif h

theorem lastPlanId_of_unbuffered {s t : State} (h : t.unbuffered = s.unbuffered) : t.lastPlanId = s.lastPlanId :=
  congrArg (fun d : Device => d.ids.2) h

theorem findCmd_of_unbuffered {s t : State} (h : t.unbuffered = s.unbuffered) (n : W64) : t.findCmd n = s.findCmd n :=
  findCmd_of_cmds (congrArg (fun d : Device => d.hif.cmds) h) n

theorem OnlyBlock.device {b : BlockId} {s t : State} (h : OnlyBlock b s t) : t.device = s.device := by
  have k := congrArg State.device h.1
  exact k

theorem findCmd_of_device {s t : State} (h : t.device = s.device) (n : W64) : t.findCmd n = s.findCmd n :=
  findCmd_of_cmds (congrArg (fun d : Device => d.hif.cmds) h) n

theorem device_ite {p : Prop} [Decidable p] {t u s : State} (h : t.device = s.device) (k : u.device = s.device) :
    (if p then t else u).device = s.device := by
  split
  · exact h
  · exact k

variable (s : State)

theorem eachPort_device {f : State → Nat → State} (h : ∀ s n, (f s n).device = s.device) : (s.eachPort f).device = s.device :=
  foldl_keeps State.device h _ s

theorem quarterDeep_device (q : Nat) : (s.quarterDeep q).device = s.device := by
  unfold State.quarterDeep
  exact foldl_keeps State.device (fun u b => device_ite (onlyBlock_changeMode u .deep).device rfl) _ s

theorem stopPll_device (q : Nat) : (s.stopPll q).device = s.device := quarterDeep_device s q

theorem startPll_device (q mhz : Nat) : (s.startPll q mhz).device = s.device := device_ite rfl rfl

theorem armHeld_device (q : Nat) : (s.armHeld q).device = s.device := by
  have key : (s.armQuarter q).device = s.device := by
    unfold State.armQuarter
    exact foldl_keeps State.device (fun u n => device_ite (onlyBlock_trcControl u _).device rfl) _ s
  exact device_ite key rfl

theorem releasePll_device (q : Nat) : (s.releasePll q).device = s.device :=
  device_ite ((armHeld_device _ q).trans (quarterDeep_device _ q)) rfl

theorem pass_device (n : Nat) : (s.pass n).device = s.device := rfl

/-- The fabric clock changes, and nothing else of the device. -/
theorem restartPlls_device (use : Nat → Bool) (mhz : Nat) : (s.restartPlls use mhz).device = { s.device with mhz := mhz } := by
  have stopped := foldl_keeps State.device stopPll_device [0, 1, 2, 3] s
  unfold State.restartPlls
  dsimp only
  generalize List.foldl State.stopPll s [0, 1, 2, 3] = u at stopped ⊢
  refine (foldl_keeps State.device releasePll_device _ _).trans ((pass_device _ _).trans ?_)
  refine (foldl_keeps State.device (fun u q => device_ite (startPll_device u q mhz) rfl) _ _).trans ?_
  exact congrArg (fun d : Device => { d with mhz := mhz }) stopped

theorem mapKey_device (q : Nat) (f : Block → Block) : (s.mapKey q f).device = s.device := rfl

theorem mapQuarter_device (q : Nat) (f : Block → Block) : (s.mapQuarter q f).device = s.device := rfl

theorem bindBlock_device (d r : List Byte) : (s.bindBlock d r).device = s.device := by
  unfold State.bindBlock
  exact (onlyBlock_modBlk _ _ _).device.trans (foldl_keeps State.device (fun u f => (onlyBlock_crWrite u _ _ _ _).device) _ s)

theorem bindBlocks_device (d : List Byte) : (s.bindBlocks d).device = s.device := by
  unfold State.bindBlocks
  refine (foldl_keeps State.device (fun u r => bindBlock_device u d r) _ _).trans (foldl_keeps State.device (fun u q => ?_) _ s)
  exact (mapKey_device _ _ _).trans (device_ite rfl (mapQuarter_device u q _))

theorem modPort_device (p : Nat) (f : DPort → DPort) : (s.modPort p f).device = s.device := rfl

theorem bindLinks_device (d : List Byte) : (s.bindLinks d).device = s.device := by
  unfold State.bindLinks
  dsimp only
  refine (foldl_keeps State.device (fun u o => modPort_device u _ _) _ _).trans ?_
  exact (foldl_keeps State.device (fun u x => modPort_device u _ _) _ _).trans (eachPort_device s fun u p => modPort_device u p _)

theorem bindBinding_unbuffered (d r : List Byte) (i : Nat) : (s.bindBinding d r i).unbuffered = s.unbuffered := by
  unfold State.bindBinding
  dsimp only
  split <;> rfl

theorem modEdge_device (e : Edge) (f : EdgeDie → EdgeDie) : (s.modEdge e f).device = s.device := by
  cases e <;> rfl

theorem bindEdges_unbuffered (d : List Byte) : (s.bindEdges d).unbuffered = s.unbuffered := by
  unfold State.bindEdges
  refine (unbuffered_of_device (modEdge_device _ _ _)).trans ((unbuffered_of_device (modEdge_device _ _ _)).trans ?_)
  exact foldl_keeps State.unbuffered (fun u (r : List Byte × Nat) => bindBinding_unbuffered u d r.1 r.2) _ { s with intakes := [], outlets := [] }

theorem settleRepair_device : s.settleRepair.device = s.device := rfl

theorem settleStop_device : s.settleStop.device = s.device := rfl

theorem receivedWords_device (n : Nat) : (s.receivedWords n).device = s.device := by
  unfold State.receivedWords State.moveWords
  exact device_ite rfl rfl

theorem discarded_unbuffered (b : Tab Block) (o : Tab Outlet) (x y : EdgeDie) :
    ({ s with blocks := b, outlets := o, edge0 := x, edge1 := y } : State).unbuffered = s.unbuffered := rfl

theorem setPort_device (p : Nat) (x : DPort) : (s.setPort p x).device = s.device := rfl

theorem discardHeld_unbuffered (now : Bool) : (s.discardHeld now).unbuffered = s.unbuffered := by
  have hq : ∀ (s : State) (p : Nat), (if (s.port p).queue = [] then s else s.setPort p (s.portNow p)).device = s.device :=
    fun s p => device_ite rfl (setPort_device s _ _)
  unfold State.discardHeld
  dsimp only
  refine (discarded_unbuffered _ _ _ _ _).trans (unbuffered_of_device ?_)
  exact (eachPort_device _ fun s p => device_ite rfl (modPort_device s _ _)).trans ((receivedWords_device _ _).trans (eachPort_device s hq))

theorem raise_device (kind : Nat) (ref result tag : W64) : (s.raise kind ref result tag).device = s.device := rfl

theorem retain_device (n : Nat) (l : List Byte) : (s.retain n l).device = s.device := rfl

theorem setRepair_device (l : List RepairEntry) : (s.setRepair l).device = s.device :=
  (retain_device _ _ _).trans (retain_device { s with repair := l } _ _)

theorem retireRow_device (q py : Nat) : (s.retireRow q py).device = s.device := (raise_device _ _ _ _ _).trans (setRepair_device s _)

theorem retireBlock_device (e : RepairEntry) : (s.retireBlock e).device = s.device := (raise_device _ _ _ _ _).trans (setRepair_device s _)

theorem moveQuarter_device (q : Nat) (p : Place) : (s.moveQuarter q p).device = s.device := by
  unfold State.moveQuarter
  dsimp only
  split
  · rfl
  · generalize List.foldl _ _ _ = l
    rfl

theorem applyQuarter_device (q : Nat) : (s.applyQuarter q).1.device = s.device := by
  unfold State.applyQuarter
  dsimp only
  split
  · rw [raise_device, moveQuarter_device, foldl_keeps State.device retireBlock_device,
      foldl_keeps State.device (fun u py => retireRow_device u q py)]
  · rw [moveQuarter_device, foldl_keeps State.device retireBlock_device, foldl_keeps State.device (fun u py => retireRow_device u q py)]

theorem applyRepair_device : s.applyRepair.1.device = s.device := by
  unfold State.applyRepair
  dsimp only
  rw [settleRepair_device]
  exact foldl_keeps (fun r : State × Nat => r.1.device) (f := fun r q => ((r.1.applyQuarter q).1, r.2 + (r.1.applyQuarter q).2))
    (fun r q => applyQuarter_device r.1 q) [0, 1, 2, 3] (s, 0)

theorem disarmBlock_device (b : BlockId) : (s.disarmBlock b).device = s.device :=
  device_ite (((onlyBlock_modBlk b _ _).device).trans (trcOnly_traceClose b s .disarm).only.device) rfl

theorem beginDisarm_device : s.beginDisarm.device = s.device := foldl_keeps State.device disarmBlock_device _ s

end Sys2Proof.Machine

namespace Sys2Proof.Machine
variable {s : State} {c : Cmd} {seq : W64}

/-! ## PLAN_LOAD (R502) -/

theorem completeCmd_load (e : Ending) (h : c.opcode = 1) : s.completeCmd c e = s.planLoaded c e := by
  simp only [State.completeCmd, h]

theorem completeCmd_unload (e : Ending) (h : c.opcode = 5) : s.completeCmd c e = s.unloadDone c := by
  simp only [State.completeCmd, h]

theorem planLoad_eq (h : s.startedCmd seq 1 = some c) :
    planLoad seq s =
      if s.startFailed then s.endCmd c 0x28 0
      else if s.plan ≠ .empty then s.endCmd c 0x20 0
      else if s.sweeping then s.endCmd c 0x60 0
      else ({ s.applyRepair.1 with plan := .loading }).runCmd c := by
  unfold planLoad
  rw [h]

/-- An image that is read whole is padded by nothing. -/
theorem planLoaded_eq (l : List Byte) (hp : s.plan = .loading) (hl : l.length = c.arg 32 8) :
    s.planLoaded c (.done l) =
      if s.imageStatus l.length (decide (c.arg 40 1 = 1)) l = 0 then
        (({ s with
            plan := .loaded, planId := nextPlanId s.lastPlanId, lastPlanId := nextPlanId s.lastPlanId
            pl := { PlanRec.reset with addr := c.arg 24 8, len := l.length, sha := sha256 l } } : State).retain 4
          (leBytes 4 (nextPlanId s.lastPlanId).toNat)).endCmd c 0 ((nextPlanId s.lastPlanId).zeroExtend 64)
      else ({ s with plan := .empty } : State).endCmd c (s.imageStatus l.length (decide (c.arg 40 1 = 1)) l) 0 := by
  unfold State.planLoaded
  rw [if_neg (not_not.2 hp)]
  dsimp only
  rw [← hl, padTo_of_length rfl]

theorem planLoaded_failed (hp : s.plan = .loading) : s.planLoaded c .hostReadFailed = ({ s with plan := .empty } : State).hostReadFail c := by
  unfold State.planLoaded
  rw [if_neg (not_not.2 hp)]

/-! ## PLAN_BIND (R504) -/

theorem planBind_refused (image : Ending) (h : s.startedCmd seq 2 = some c) (hp : s.plan ≠ .loaded) : planBind seq image s = s.endCmd c 0x20 0 := by
  unfold planBind
  simp only [h, hp, ne_eq, not_false_eq_true, if_true]

theorem planBind_other (image : Ending) (h : s.startedCmd seq 2 = some c) (hp : s.plan = .loaded) (hid : c.planId ≠ s.planId) :
    planBind seq image s = s.endCmd c 0x21 0 := by
  unfold planBind
  simp only [h, hp, State.planIdOk, hid, ne_eq, not_true_eq_false, if_false, decide_false, Bool.not_false, if_true]

section
variable (h : s.startedCmd seq 2 = some c) (hp : s.plan = .loaded) (hid : c.planId = s.planId) (hs : s.sweeping = false) (hq : s.hif.quiet = false)
include h hp hid hs hq

theorem planBind_failed : planBind seq .hostReadFailed s = s.hostReadFail c := by
  unfold planBind
  simp only [h, hp, State.planIdOk, hid, hs, hq, ne_eq, not_true_eq_false, if_false, decide_true, Bool.not_true, Bool.false_eq_true]

theorem planBind_image {l : List Byte} (hl : l.length = s.pl.len) :
    planBind seq (.done l) s =
      if s.bindStatus c l ≠ 0 then s.endCmd c (s.bindStatus c l) 0
      else if s.trace.armed then s.beginDisarm
      else (s.bindPlan l).endCmd c 0 (BitVec.ofNat 64 (imgTarget l)) := by
  unfold planBind
  simp only [h, hp, State.planIdOk, hid, hs, hq, padTo_of_length hl, ne_eq, not_true_eq_false, if_false, decide_true, Bool.not_true,
    Bool.false_eq_true]

end

/-- A plan that is bound leaves the host interface as it is, and the fabric runs at the clock of the image. -/
theorem bindPlan_keeps (d : List Byte) : (s.bindPlan d).hif = s.hif ∧ (s.bindPlan d).plan = .bound ∧
    (s.bindPlan d).devNum = BitVec.ofNat 7 (imgTarget d) ∧ (s.bindPlan d).devValid = true ∧ (s.bindPlan d).k = imgK d ∧ (s.bindPlan d).epoch = .reset ∧
    (s.bindPlan d).mhz = imgMhz d := by
  have h : (((s.restartPlls (fun q => decide ((imgGeom d q).1 ≠ 0)) (imgMhz d)).bindBlocks d).bindLinks d |>.bindEdges d).unbuffered =
      { s.unbuffered with mhz := imgMhz d } := by
    rw [bindEdges_unbuffered, unbuffered_of_device (bindLinks_device _ d), unbuffered_of_device (bindBlocks_device _ d)]
    exact congrArg (fun x : Device => { x with bufs := ([], []) }) (restartPlls_device s _ _)
  unfold State.bindPlan
  exact ⟨congrArg (fun x : Device => x.hif) h, rfl, rfl, rfl, rfl, rfl, congrArg (fun x : Device => x.mhz) h⟩

/-! ## PLAN_START (R56) -/

theorem planStart_refused (h : s.startedCmd seq 3 = some c) (hs : s.startStatus c ≠ 0) : planStart seq s = s.endCmd c (s.startStatus c) 0 := by
  unfold planStart
  simp only [h, hs, ne_eq, not_false_eq_true, if_true]

/-- The plan as PLAN_START leaves it, its command not ended yet. -/
def State.planBegun (s : State) (c : Cmd) : State :=
  let s := s.modPl fun p => { p with e0 := BitVec.ofNat 64 (c.arg 32 8), startNs := nsOf (c.arg 24 8), seen := [], recs := [] }
  let s := s.modEpoch fun e => { e with peakTop := 0, peak := 0, peakPrev := 0 }
  let s := s.eachPort fun s p => s.modPort p fun x => { x with skewMax := 0 }
  { s with plan := .starting }

theorem planStart_accepted (h : s.startedCmd seq 3 = some c) (hs : s.startStatus c = 0) :
    planStart seq s = (s.planBegun c).endCmd c 0 (BitVec.ofNat 64 (c.arg 32 8)) := by
  unfold planStart
  simp only [h, hs, ne_eq, not_true_eq_false, if_false]
  rfl

theorem planBegun_device : (s.planBegun c).device =
    { s.device with plan := .starting, pl := { s.pl with e0 := BitVec.ofNat 64 (c.arg 32 8), startNs := nsOf (c.arg 24 8), seen := [], recs := [] } } := by
  have h := eachPort_device
    ((s.modPl fun p => { p with e0 := BitVec.ofNat 64 (c.arg 32 8), startNs := nsOf (c.arg 24 8), seen := [], recs := [] }).modEpoch
      fun e => { e with peakTop := 0, peak := 0, peakPrev := 0 }) (fun u p => modPort_device u p fun x => { x with skewMax := 0 })
  exact congrArg (fun d : Device => { d with plan := .starting }) h

/-! ## PLAN_STOP (R57) -/

theorem leAt_lt (l : List Byte) (a n : Nat) : leAt l a n < 256 ^ n := by
  refine Nat.lt_of_lt_of_le (leNat_lt _) (Nat.pow_le_pow_right (by decide) ?_)
  rw [List.length_take]
  exact Nat.min_le_left _ _

theorem ofNat_arg_eq_zero (a : Nat) : (BitVec.ofNat 64 (c.arg a 8) = 0) ↔ c.arg a 8 = 0 := by
  have hlt : c.arg a 8 < 2 ^ 64 := leAt_lt c.entry a 8
  rw [← BitVec.toNat_inj, BitVec.toNat_ofNat, Nat.mod_eq_of_lt hlt]
  rfl

/-- A plan that stops outside an epoch, or in one, has the epoch at which it stops. -/
def State.planStops (s : State) (e : W64) : State := { (s.modPl fun p => { p with stopEpoch := e }) with plan := .stopping }

theorem planStop_refused (h : s.startedCmd seq 4 = some c) (hp : s.plan ∈ [.empty, .loading, .loaded, .bound, .stopping]) :
    planStop seq s = s.endCmd c 0x20 0 := by
  unfold planStop
  simp only [List.mem_cons, List.not_mem_nil, or_false] at hp
  rcases hp with hp | hp | hp | hp | hp <;> simp [h, hp]

theorem planStop_other (h : s.startedCmd seq 4 = some c) (hp : s.plan ∈ [.starting, .running]) (hid : c.planId ≠ s.planId) :
    planStop seq s = s.endCmd c 0x21 0 := by
  unfold planStop
  simp only [List.mem_cons, List.not_mem_nil, or_false] at hp
  rcases hp with hp | hp <;> simp [h, hp, State.planIdOk, hid]

theorem planStop_moves (h : s.startedCmd seq 4 = some c) (hp : s.plan ∈ [.starting, .running]) (hid : c.planId = s.planId) :
    planStop seq s = (s.planStops (s.stopAt (BitVec.ofNat 64 (c.arg 24 8)))).endCmd c 0 (s.stopAt (BitVec.ofNat 64 (c.arg 24 8))) := by
  unfold planStop
  simp only [List.mem_cons, List.not_mem_nil, or_false] at hp
  rcases hp with hp | hp <;> simp [h, hp, State.planIdOk, hid, State.planStops]

theorem planStop_halted {e : W64} (h : s.startedCmd seq 4 = some c) (hp : s.plan = .halted) (hid : c.planId = s.planId) (he : s.pl.lastRan = some e) :
    planStop seq s = ({ s.toBound with plan := .bound } : State).endCmd c 0 e := by
  unfold planStop
  simp [h, hp, State.planIdOk, hid, he]

theorem discardHeld_hif (s : State) (now : Bool) : (s.discardHeld now).hif = s.hif := hif_of_unbuffered (discardHeld_unbuffered s now)

theorem settleStop_hif (s : State) : s.settleStop.hif = s.hif := rfl

theorem toBound_hif : s.toBound.hif = s.hif := by
  unfold State.toBound
  dsimp only
  rw [settleStop_hif, discardHeld_hif]

/-! ## PLAN_UNLOAD (R54) -/

/-- The plan is on its way out, and armed trace is disarmed. -/
def State.planLeaves (s : State) : State :=
  let s : State := { s with plan := .unloading }
  if s.trace.armed then s.beginDisarm else s

theorem planUnload_refused (h : s.startedCmd seq 5 = some c) (hp : s.plan ∈ [.empty, .loading, .starting, .running, .stopping]) :
    planUnload seq s = s.endCmd c 0x20 0 := by
  unfold planUnload
  simp only [List.mem_cons, List.not_mem_nil, or_false] at hp
  rcases hp with hp | hp | hp | hp | hp <;> simp [h, hp]

theorem planUnload_other (h : s.startedCmd seq 5 = some c) (hp : s.plan ∈ [.loaded, .bound, .halted]) (hid : c.planId ≠ s.planId) :
    planUnload seq s = s.endCmd c 0x21 0 := by
  unfold planUnload
  simp only [List.mem_cons, List.not_mem_nil, or_false] at hp
  rcases hp with hp | hp | hp <;> simp [h, hp, State.planIdOk, hid]

theorem planUnload_leaves (h : s.startedCmd seq 5 = some c) (hp : s.plan ∈ [.loaded, .bound, .halted]) (hid : c.planId = s.planId) :
    planUnload seq s = s.planLeaves.runCmd c := by
  unfold planUnload State.planLeaves
  simp only [List.mem_cons, List.not_mem_nil, or_false] at hp
  rcases hp with hp | hp | hp <;> simp [h, hp, State.planIdOk, hid]

theorem planLeaves_hif : s.planLeaves.hif = s.hif := by
  unfold State.planLeaves
  dsimp only
  split
  · exact congrArg Device.hif (beginDisarm_device { s with plan := .unloading })
  · rfl

theorem beginDisarm_disarming (s : State) : s.beginDisarm.trace.disarming = true := rfl

theorem planLeaves_disarming (h : s.trace.armed = true) : s.planLeaves.trace.disarming = true := by
  unfold State.planLeaves
  dsimp only
  rw [if_pos h, beginDisarm_disarming]

theorem planLeaves_plan : s.planLeaves.plan = .unloading := by
  unfold State.planLeaves
  dsimp only
  split
  · exact congrArg Device.plan (beginDisarm_device { s with plan := .unloading })
  · rfl

/-- A plan that was bound gives up what it holds, and the ports their schedules. -/
def State.planReleased (s : State) : State :=
  (if decide (s.k ≠ 0) then (s.discardHeld false).settleStop else s).eachPort fun s p => s.modPort p DPort.unplanned

/-- No plan, and no device number. -/
def State.planGone (s : State) : State :=
  { s with
    plan := .empty, planId := 0, devNum := 0, devValid := false, k := 0, epoch := .reset, pl := .reset, intakes := [], outlets := []
    sysDevs := [], routes := [], qpll := s.qpll.map fun e => (e.1, { e.2 with failed := false }) }

theorem unloadPlan_eq (s : State) : s.unloadPlan =
    (if decide (s.k ≠ 0) then s.planReleased.planGone.restartPlls s.planReleased.planGone.quarterWorks 1000 else s.planReleased.planGone).settleRepair :=
  rfl

theorem planReleased_unbuffered (s : State) : s.planReleased.unbuffered = s.unbuffered := by
  refine (unbuffered_of_device (eachPort_device _ fun u p => modPort_device u p _)).trans ?_
  split
  · exact (unbuffered_of_device (settleStop_device _)).trans (discardHeld_unbuffered s false)
  · rfl

theorem planGone_device (s : State) : s.planGone.device = ⟨s.hif, s.mhz, .empty, (0, s.lastPlanId), (0, false), 0, false, .reset, ([], [])⟩ := rfl

/-- Of a plan that is gone nothing is left; the clocks of the quarters change. -/
theorem unloadPlan_device (s : State) : ∃ mhz, s.unloadPlan.device = ⟨s.hif, mhz, .empty, (0, s.lastPlanId), (0, false), 0, false, .reset, ([], [])⟩ := by
  have hr := planReleased_unbuffered s
  have hg := planGone_device s.planReleased
  rw [hif_of_unbuffered hr, lastPlanId_of_unbuffered hr] at hg
  rw [unloadPlan_eq, settleRepair_device]
  split
  · rw [restartPlls_device, hg]
    exact ⟨_, rfl⟩
  · exact ⟨_, hg⟩

theorem unloadDone_eq (hp : s.plan = .unloading) (ha : s.trace.armed = false) : s.unloadDone c = s.unloadPlan.endCmd c 0 0 :=
  if_pos ⟨hp, ha⟩

theorem endCmd_device (st : BitVec 16) (v : W64) :
    (s.endCmd c st v).device = { s.device with hif := (s.endCmd c st v).hif } := rfl

end Sys2Proof.Machine

/-! ## The obligation, command by command -/

namespace Sys2Proof.Machine
variable {s : State} {seq : W64} {c : Cmd}

theorem imageRead_ends (hf : s.findCmd seq = some c) (hr : c.phase = .running) (ho : c.opcode = 1) (hp : s.plan = .loading) (hq : s.hif.quiet = false)
    (l : List Byte) (hl : l.length = c.arg 32 8) :
    ∃ t, exec (.commandCompletion seq (.done l)) s = .next t ∧
      (s.imageStatus l.length (decide (c.arg 40 1 = 1)) l = 0 → t.plan = .loaded ∧ t.planId = nextPlanId s.lastPlanId ∧
        t.lastPlanId = nextPlanId s.lastPlanId ∧ t.pl.len = l.length ∧ t.pl.sha = sha256 l ∧ EndsWith t c 0 ((nextPlanId s.lastPlanId).setWidth 64)) ∧
      (s.imageStatus l.length (decide (c.arg 40 1 = 1)) l ≠ 0 → t.plan = .empty ∧ t.planId = s.planId ∧
        EndsWith t c (s.imageStatus l.length (decide (c.arg 40 1 = 1)) l) 0) := by
  refine ⟨_, completes_next hf hr hq ((completeCmd_load _ ho).trans (planLoaded_eq l hp hl)), fun h => ?_, fun h => ?_⟩
  · rw [if_pos h]
    exact ⟨rfl, rfl, rfl, rfl, rfl, endsWith_endCmd (s := State.retain _ _ _) _ _ (findCmd_self hf)⟩
  · rw [if_neg h]
    exact ⟨rfl, rfl, endsWith_endCmd (s := { s with plan := .empty }) _ _ (findCmd_self hf)⟩

theorem hostReadFail_plan (s : State) (c : Cmd) : (s.hostReadFail c).plan = s.plan := by
  unfold State.hostReadFail
  generalize (if s.free.getLsbD 0 = true then aerPoisoned else aerTimeout) = bit
  rfl

theorem imageRead_fails (hf : s.findCmd seq = some c) (hr : c.phase = .running) (ho : c.opcode = 1) (hp : s.plan = .loading) (hq : s.hif.quiet = false) :
    ∃ t, exec (.commandCompletion seq .hostReadFailed) s = .next t ∧ t.plan = .empty ∧ EndsWith t c 0x40 0 :=
  ⟨_, completes_next hf hr hq ((completeCmd_load _ ho).trans (planLoaded_failed hp)), hostReadFail_plan _ c,
    endsWith_hostReadFail (s := { s with plan := .empty }) (findCmd_self hf)⟩

theorem planBind_binds {l : List Byte} (h : s.startedCmd seq 2 = some c) (hp : s.plan = .loaded) (hid : c.planId = s.planId) (hs : s.sweeping = false)
    (hq : s.hif.quiet = false) (hl : l.length = s.pl.len) (hb : s.bindStatus c l = 0) (ha : s.trace.armed = false) :
    ∃ t, exec (.planBind seq (.done l)) s = .next t ∧ t.plan = .bound ∧ t.devNum.toNat = imgTarget l % 128 ∧ t.devValid = true ∧ t.k = imgK l ∧
      t.epoch = .reset ∧ t.mhz = imgMhz l ∧ EndsWith t c 0 (BitVec.ofNat 64 (imgTarget l)) := by
  have he := planBind_image h hp hid hs hq hl
  rw [if_neg (not_not.2 hb), ha, if_neg (by decide)] at he
  obtain ⟨hh, hplan, hdev, hval, hk, hep, hm⟩ := bindPlan_keeps (s := s) l
  generalize s.bindPlan l = u at he hh hplan hdev hval hk hep hm
  have hc : u.findCmd c.seq = some c := (findCmd_of_cmds (by rw [hh]) _).trans (startedCmd_self h)
  exact ⟨_, congrArg Host.Outcome.next he, hplan, (congrArg BitVec.toNat hdev).trans (BitVec.toNat_ofNat ..), hval, hk, hep, hm, endsWith_endCmd _ _ hc⟩

/-- The epoch at which a plan stops, as R57 gives it. -/
theorem stopAt_eq (s : State) (c : Cmd) : s.stopAt (BitVec.ofNat 64 (c.arg 24 8)) =
    (let next := if s.epoch.active then s.epoch.num + 1 else s.pl.e0
     let first := if s.epoch.active = true ∧ s.epoch.begun = false ∧ s.epoch.decision = none then s.epoch.num else next
     let asked := if c.arg 24 8 = 0 then next else BitVec.ofNat 64 (c.arg 24 8)
     if asked.toNat < first.toNat then first else asked) := by
  unfold State.stopAt
  simp only [ofNat_arg_eq_zero, BitVec.lt_def, Bool.and_eq_true, Bool.not_eq_true', Option.isNone_iff_eq_none, and_assoc]

/-! ## The STATUS of PLAN_START -/

theorem startStatus_state (hp : s.plan ≠ .bound) : s.startStatus c = 0x20 := by
  simp [State.startStatus, hp]

theorem startStatus_id (hp : s.plan = .bound) (hid : c.planId ≠ s.planId) : s.startStatus c = 0x21 := by
  simp [State.startStatus, State.planIdOk, hp, hid]

theorem startStatus_lock (hp : s.plan = .bound) (hid : c.planId = s.planId) (hl : s.time.tlock = false ∨ s.time.flock = false) :
    s.startStatus c = 0x24 := by
  rcases hl with hl | hl <;> simp [State.startStatus, State.planIdOk, hp, hid, hl]

section
variable (hp : s.plan = .bound) (hid : c.planId = s.planId) (ht : s.time.tlock = true) (hf : s.time.flock = true)
include hp hid ht hf

theorem startStatus_early (hn : nsOf (c.arg 24 8) < c.time + 20000) : s.startStatus c = 0x22 := by
  simp [State.startStatus, State.planIdOk, hp, hid, ht, hf, hn]

theorem startStatus_ran {l : W64} (hn : c.time + 20000 ≤ nsOf (c.arg 24 8)) (hl : s.pl.lastRan = some l) (he : BitVec.ofNat 64 (c.arg 32 8) ≤ l) :
    s.startStatus c = 0x23 := by
  simp only [State.startStatus, State.planIdOk, hp, hid, ht, hf, Nat.not_lt.2 hn, hl, he, ne_eq, not_true_eq_false, if_false, decide_true, Bool.not_true,
    Bool.and_self, Bool.false_eq_true, if_true]

theorem startStatus_ok (hn : c.time + 20000 ≤ nsOf (c.arg 24 8)) (hl : ∀ l, s.pl.lastRan = some l → l < BitVec.ofNat 64 (c.arg 32 8)) :
    s.startStatus c = 0 := by
  simp only [State.startStatus, State.planIdOk, hp, hid, ht, hf, Nat.not_lt.2 hn, ne_eq, not_true_eq_false, if_false, decide_true, Bool.not_true,
    Bool.and_self, Bool.false_eq_true]
  split
  case h_1 l h => exact if_neg (BitVec.not_le.2 (hl l h))
  case h_2 => rfl

end

theorem planStart_starts (h : s.startedCmd seq 3 = some c) (hs : s.startStatus c = 0) : ∃ t, exec (.planStart seq) s = .next t ∧ t.plan = .starting ∧
    t.pl.e0 = BitVec.ofNat 64 (c.arg 32 8) ∧ t.pl.startNs = nsOf (c.arg 24 8) ∧ EndsWith t c 0 (BitVec.ofNat 64 (c.arg 32 8)) := by
  have hd := planBegun_device (s := s) (c := c)
  have hk : (s.planBegun c).findCmd c.seq = some c :=
    (findCmd_of_cmds (congrArg (fun d : Device => d.hif.cmds) hd) _).trans (startedCmd_self h)
  exact ⟨_, congrArg Host.Outcome.next (planStart_accepted h hs), congrArg Device.plan hd, congrArg (fun d : Device => d.pl.e0) hd,
    congrArg (fun d : Device => d.pl.startNs) hd, endsWith_endCmd _ _ hk⟩

theorem planStop_stops (h : s.startedCmd seq 4 = some c) (hp : s.plan ∈ [.starting, .running]) (hid : c.planId = s.planId) {e : W64}
    (he : s.stopAt (BitVec.ofNat 64 (c.arg 24 8)) = e) :
    ∃ t, exec (.planStop seq) s = .next t ∧ t.plan = .stopping ∧ t.pl.stopEpoch = e ∧ EndsWith t c 0 e := by
  have hm := planStop_moves h hp hid
  rw [he] at hm
  exact ⟨_, congrArg Host.Outcome.next hm, rfl, rfl, endsWith_endCmd (s := s.planStops e) _ _ (startedCmd_self h)⟩

theorem toBound_active (s : State) : s.toBound.epoch.active = false := rfl

theorem planStop_fromHalted {e : W64} (h : s.startedCmd seq 4 = some c) (hp : s.plan = .halted) (hid : c.planId = s.planId) (he : s.pl.lastRan = some e) :
    ∃ t, exec (.planStop seq) s = .next t ∧ t.plan = .bound ∧ t.epoch.active = false ∧ EndsWith t c 0 e := by
  have hs := planStop_halted h hp hid he
  have hh := toBound_hif (s := s)
  have ha := toBound_active s
  generalize s.toBound = u at hs hh ha
  have hc : ({ u with plan := .bound } : State).findCmd c.seq = some c :=
    (findCmd_of_cmds (s := s) (congrArg Hif.cmds hh) _).trans (startedCmd_self h)
  exact ⟨_, congrArg Host.Outcome.next hs, rfl, ha, endsWith_endCmd _ _ hc⟩

theorem planUnload_runs (h : s.startedCmd seq 5 = some c) (hp : s.plan ∈ [.loaded, .bound, .halted]) (hid : c.planId = s.planId) :
    ∃ t, exec (.planUnload seq) s = .next t ∧ t.plan = .unloading ∧ Runs t c ∧ (s.trace.armed = true → t.trace.disarming = true) := by
  have hc : s.planLeaves.findCmd c.seq = some c := (findCmd_of_cmds (by rw [planLeaves_hif]) _).trans (startedCmd_self h)
  exact ⟨_, congrArg Host.Outcome.next (planUnload_leaves h hp hid), planLeaves_plan, runs_runCmd hc, planLeaves_disarming⟩

theorem planUnloaded (hf : s.findCmd seq = some c) (hr : c.phase = .running) (ho : c.opcode = 5) (hp : s.plan = .unloading) (ha : s.trace.armed = false)
    (e : Ending) : ∃ t, exec (.commandCompletion seq e) s = .next t ∧ t.plan = .empty ∧ t.planId = 0 ∧ t.devValid = false ∧ t.devNum = 0 ∧ t.k = 0 ∧
      t.intakes = [] ∧ t.outlets = [] ∧ t.lastPlanId = s.lastPlanId ∧ EndsWith t c 0 0 := by
  have hcomp : commandCompletion seq e s = s.completeCmd c e := by
    unfold commandCompletion
    simp [hf, Option.filter_some, hr, ho, hostCommand]
  have he := hcomp.trans ((completeCmd_unload e ho).trans (unloadDone_eq hp ha))
  obtain ⟨mhz, hd⟩ := unloadPlan_device s
  generalize s.unloadPlan = u at he hd
  have hc : u.findCmd c.seq = some c := (findCmd_of_cmds (congrArg (fun d : Device => d.hif.cmds) hd) _).trans (findCmd_self hf)
  exact ⟨_, congrArg Host.Outcome.next he, congrArg Device.plan hd, congrArg (fun d : Device => d.ids.1) hd, congrArg (fun d : Device => d.dev.2) hd,
    congrArg (fun d : Device => d.dev.1) hd, congrArg Device.k hd, congrArg (fun d : Device => d.bufs.1) hd, congrArg (fun d : Device => d.bufs.2) hd,
    congrArg (fun d : Device => d.ids.2) hd, endsWith_endCmd _ _ hc⟩

theorem planLoad_runs (h : s.startedCmd seq 1 = some c) (hf : s.startFailed = false) (hp : s.plan = .empty) (hs : s.sweeping = false) :
    ∃ t, exec (.planLoad seq) s = .next t ∧ t.plan = .loading ∧ Runs t c := by
  have he := planLoad_eq h
  rw [hf, hp, hs] at he
  have hc : ({ s.applyRepair.1 with plan := .loading } : State).findCmd c.seq = some c := by
    refine (findCmd_of_cmds (s := s) ?_ _).trans (startedCmd_self h)
    exact congrArg (fun d : Device => d.hif.cmds) (applyRepair_device s)
  exact ⟨_, congrArg Host.Outcome.next he, rfl, runs_runCmd hc⟩

end Sys2Proof.Machine

/-- Settles O43, command by command: what each leaves, over the parts of the device that its operations keep. -/
theorem planCommands : Obligations.PlanCommands := by
  intro s seq c ends
  have refuses : ∀ {i : Instr} {st : BitVec 16} {op : Nat}, s.startedCmd seq op = some c → exec i s = .next (s.endCmd c st 0) → ends i st 0 :=
    fun h he => ⟨_, he, endsWith_endCmd _ _ (startedCmd_self h)⟩
  have starts : ∀ {st : BitVec 16}, s.startedCmd seq 3 = some c → s.startStatus c = st → st ≠ 0 → ends (.planStart seq) st 0 := by
    intro st h hs hne
    rw [← hs] at hne ⊢
    exact refuses h (congrArg Host.Outcome.next (planStart_refused h hne))
  refine ⟨fun h => ⟨fun hf => ?_, fun hf hp => ?_, fun hf hp hs => ?_, planLoad_runs h⟩,
    fun hf hr ho hp hq => ⟨fun l hl => imageRead_ends hf hr ho hp hq l hl, imageRead_fails hf hr ho hp hq⟩,
    fun h => ⟨fun e hp => refuses h (congrArg Host.Outcome.next (planBind_refused e h hp)),
      fun hp => ⟨fun e hid => refuses h (congrArg Host.Outcome.next (planBind_other e h hp hid)), fun hid hs hq => ⟨?_, fun l hl => ⟨fun hb => ?_, fun hb ha => ?_⟩⟩⟩⟩,
    fun h => ⟨fun hp => ?_, fun hp => ⟨fun hid => ?_, fun hid => ⟨fun hl => ?_, fun ht hf => ⟨fun hn => ?_, fun hn => ⟨fun l hl he => ?_, fun hl => ?_⟩⟩⟩⟩⟩,
    fun h => ⟨fun hp => refuses h (congrArg Host.Outcome.next (planStop_refused h hp)),
      fun hp => ⟨fun hid => refuses h (congrArg Host.Outcome.next (planStop_other h hp hid)), fun hid => planStop_stops h hp hid (stopAt_eq s c)⟩,
      fun hp hid e he => planStop_fromHalted h hp hid he⟩,
    fun h => ⟨fun hp => refuses h (congrArg Host.Outcome.next (planUnload_refused h hp)),
      fun hp => ⟨fun hid => refuses h (congrArg Host.Outcome.next (planUnload_other h hp hid)), fun hid => planUnload_runs h hp hid⟩⟩,
    fun hf hr ho hp ha e => planUnloaded hf hr ho hp ha e⟩
  · exact refuses h (congrArg Host.Outcome.next ((planLoad_eq h).trans (by rw [if_pos hf])))
  · exact refuses h (congrArg Host.Outcome.next ((planLoad_eq h).trans (by rw [hf, if_neg (by decide), if_pos hp])))
  · exact refuses h (congrArg Host.Outcome.next ((planLoad_eq h).trans (by rw [hf, if_neg (by decide), if_neg (not_not.2 hp), if_pos hs])))
  · exact ⟨_, congrArg Host.Outcome.next (planBind_failed h hp hid hs hq), endsWith_hostReadFail (startedCmd_self h)⟩
  · exact ⟨_, congrArg Host.Outcome.next ((planBind_image h hp hid hs hq hl).trans (if_pos hb)), endsWith_endCmd _ _ (startedCmd_self h)⟩
  · exact planBind_binds h hp hid hs hq hl hb ha
  · exact starts h (startStatus_state hp) (by decide)
  · exact starts h (startStatus_id hp hid) (by decide)
  · exact starts h (startStatus_lock hp hid hl) (by decide)
  · exact starts h (startStatus_early hp hid ht hf hn) (by decide)
  · exact starts h (startStatus_ran hp hid ht hf hn hl he) (by decide)
  · exact planStart_starts h (startStatus_ok hp hid ht hf hn hl)
end

/-! # The other host commands: the proofs -/

section
open Sys2Proof Sys2Proof.Machine
namespace Sys2Proof.Machine
variable {s : State} {c : Cmd} {seq : W64}

/-! ## FENCE (R500) -/

/-- A command that a FENCE waits for. -/
def Cmd.awaits (c d : Cmd) : Prop :=
  d.seq.toNat < c.seq.toNat ∧ (if c.arg 24 8 = 0 then d.queue = c.queue else (c.arg 24 8).testBit d.queue.toNat = true)

theorem fences_iff (c d : Cmd) : (decide (d.seq < c.seq) && c.fences d.queue) = true ↔ c.awaits d := by
  unfold Cmd.fences Cmd.awaits
  rw [Bool.and_eq_true, decide_eq_true_eq, BitVec.lt_def]
  split <;> simp

theorem fenced_iff : s.fenced c = true ↔ ∀ d ∈ s.hif.cmds, c.awaits d → d.phase = .ended := by
  unfold State.fenced
  rw [List.all_eq_true]
  refine forall₂_congr fun d _ => ?_
  rw [Bool.or_eq_true, decide_eq_true_eq, Bool.not_eq_true', ← Bool.not_eq_true, fences_iff, imp_iff_not_or]

theorem execFence_eq (h : s.startedCmd seq 0x20 = some c) : exec (.fenceCommand seq) s = .next (if s.fenced c then s.endCmd c 0 0 else s) := by
  show execFenceCommand seq s = _
  unfold execFenceCommand
  rw [h]

/-! ## HEALTH_SWEEP (R747 to R753) -/

theorem execHealthSweep_eq (h : s.startedCmd seq 0x22 = some c) :
    exec (.healthSweep seq) s = .next (if c.arg 25 1 = 0 then s.wholeSweep c else s.windowSweep c) := by
  show execHealthSweep seq s = _
  unfold execHealthSweep
  rw [h]

theorem windowSweep_begins (h : s.plan = .running) : ∃ w, s.windowSweep c = ({ s with sweep := some w } : State).runCmd c ∧ w.seq = c.seq ∧
    w.mask = c.arg 24 1 ∧ w.limit = c.arg 28 4 ∧ w.tested = 0 := ⟨_, if_pos h, rfl, rfl, rfl, rfl⟩

/-- What a quarter's part of a mode 0 sweep leaves. -/
def State.quarterSwept (tests : BitVec 4) (s : State) (q : Nat) : State := (s.mapQuarter q fun x => x.swept tests).quarterDeep q

theorem mapQuarter_blk_ne (s : State) {q : Nat} (f : Block → Block) {b : BlockId} (hq : q < 4) (h : quarterOf b ≠ q) : (s.mapQuarter q f).blk b = s.blk b := by
  have hk : restKey b.toNat ≠ q ∧ restKey b.toNat ≠ 4 + q := by
    unfold quarterOf quarterNum firstSpare physBlocks at h
    unfold restKey firstSpare physBlocks
    by_cases hb : b.toNat < 16384
    · rw [if_pos hb] at h ⊢
      omega
    · rw [if_neg hb] at h ⊢
      omega
  unfold State.mapQuarter
  rw [blk_mapKey, blk_mapKey, if_neg hk.1, if_neg hk.2]

theorem quarterDeep_blk_ne (s : State) {q : Nat} {b : BlockId} (hq : q < 4) (h : quarterOf b ≠ q) : (s.quarterDeep q).blk b = s.blk b := by
  unfold State.quarterDeep
  refine (mapQuarter_blk_ne _ _ hq h).trans (foldl_keeps (fun u : State => u.blk b) (fun u c => ?_) _ s)
  split
  case isTrue hc => exact (onlyBlock_changeMode u (b := c) .deep).2.2 b fun e => h (e ▸ hc)
  case isFalse => rfl

theorem quarterSwept_blk_ne (tests : BitVec 4) (s : State) {q : Nat} {b : BlockId} (hq : q < 4) (h : quarterOf b ≠ q) :
    (s.quarterSwept tests q).blk b = s.blk b := (quarterDeep_blk_ne _ hq h).trans (mapQuarter_blk_ne s _ hq h)

/-- The memories of a block. -/
def Block.mems (x : Block) : Memory × Memory := (x.im, x.ls)

theorem toDeep_mems (x : Block) (now : Nat) : (x.toDeep now).mems = x.mems := by
  unfold Block.toDeep
  split <;> rfl

theorem mapQuarter_mems {f : Block → Block} (h : ∀ x, (f x).mems = x.mems) (s : State) (q : Nat) (b : BlockId) :
    ((s.mapQuarter q f).blk b).mems = (s.blk b).mems := by
  have key : ∀ (u : State) (k : Nat), ((u.mapKey k f).blk b).mems = (u.blk b).mems := by
    intro u k
    rw [blk_mapKey]
    split
    · exact h _
    · rfl
  exact (key _ _).trans (key s q)

theorem quarterDeep_mems (s : State) (q : Nat) (b : BlockId) : ((s.quarterDeep q).blk b).mems = (s.blk b).mems := by
  unfold State.quarterDeep
  refine (mapQuarter_mems (fun x => toDeep_mems x _) _ q b).trans (foldl_keeps (fun u : State => (u.blk b).mems) (fun u c => ?_) _ s)
  split
  · obtain ⟨hl, hi⟩ := changeMode_mems u c .deep b
    exact Prod.ext hi hl
  · rfl

/-- What the tests of a sweep clear of a block's memories (R749). -/
def sweptMems (tests : BitVec 4) (m : Memory × Memory) : Memory × Memory :=
  (if tests.getLsbD 0 then [] else m.1, if tests.getLsbD 1 then [] else m.2)

theorem swept_mems (x : Block) (tests : BitVec 4) : (x.swept tests).mems = sweptMems tests x.mems := by
  unfold Block.swept sweptMems Block.mems
  cases tests.getLsbD 0 <;> cases tests.getLsbD 1 <;> rfl

theorem sweptMems_twice (tests : BitVec 4) (m : Memory × Memory) : sweptMems tests (sweptMems tests m) = sweptMems tests m := by
  unfold sweptMems
  cases tests.getLsbD 0 <;> cases tests.getLsbD 1 <;> rfl

theorem quarterSwept_mems (tests : BitVec 4) (s : State) {q : Nat} {b : BlockId} (h : quarterOf b = q) :
    ((s.quarterSwept tests q).blk b).mems = sweptMems tests (s.blk b).mems := by
  unfold State.quarterSwept
  rw [quarterDeep_mems]
  unfold State.mapQuarter
  have hk := quarter_keys b q h
  rw [blk_mapKey, blk_mapKey]
  rcases hk with hk | hk
  · rw [if_pos hk]
    split
    · rw [swept_mems, swept_mems, sweptMems_twice]
    · exact swept_mems ..
  · rw [if_pos hk]
    split
    · rw [swept_mems, swept_mems, sweptMems_twice]
    · exact swept_mems ..

/-- The quarters of a sweep, one after another. -/
theorem quartersSwept_blk (tests : BitVec 4) (b : BlockId) (l : List Nat) (hl : ∀ q ∈ l, q < 4) (s : State) :
    (quarterOf b ∉ l → (l.foldl (State.quarterSwept tests) s).blk b = s.blk b) ∧
    (quarterOf b ∈ l → ((l.foldl (State.quarterSwept tests) s).blk b).mems = sweptMems tests (s.blk b).mems) := by
  induction l generalizing s with
  | nil => exact ⟨fun _ => rfl, fun h => absurd h List.not_mem_nil⟩
  | cons q l ih =>
    obtain ⟨hq, hl⟩ := List.forall_mem_cons.1 hl
    obtain ⟨out, inn⟩ := ih hl (s.quarterSwept tests q)
    refine ⟨fun h => ?_, fun h => ?_⟩
    · obtain ⟨hne, hnot⟩ := not_or.1 fun k => h (List.mem_cons.2 k)
      rw [List.foldl_cons, out hnot, quarterSwept_blk_ne tests s hq hne]
    · rw [List.foldl_cons]
      by_cases hm : quarterOf b ∈ l
      · rw [inn hm]
        by_cases he : quarterOf b = q
        · rw [quarterSwept_mems tests s he, sweptMems_twice]
        · rw [quarterSwept_blk_ne tests s hq he]
      · rw [out hm, quarterSwept_mems tests s ((List.mem_cons.1 h).resolve_right hm)]

/-- The quarters that a mask byte names, as the commands list them. -/
def maskQuarters (m : Nat) : List Nat := [0, 1, 2, 3].filter fun q => m.testBit q

theorem mem_maskQuarters {m q : Nat} : q ∈ maskQuarters m ↔ q < 4 ∧ m.testBit q = true := by
  unfold maskQuarters
  rw [List.mem_filter]
  refine and_congr_left fun _ => ?_
  simp only [List.mem_cons, List.not_mem_nil, or_false]
  omega

theorem maskQuarters_mod (m : Nat) : maskQuarters (m % 16) = maskQuarters m := by
  unfold maskQuarters
  refine List.filter_congr fun q hq => ?_
  have hlt : q < 4 := by
    simp only [List.mem_cons, List.not_mem_nil, or_false] at hq
    omega
  rw [show (16 : Nat) = 2 ^ 4 from rfl, Nat.testBit_mod_two_pow, decide_eq_true hlt, Bool.true_and]

/-- The quarters of a sweep that found no failing block, in the order of their report. -/
theorem failedNone (l : List Nat) (t : Tab Nat) (ht : ∀ i, look 0 t i = 0) (i : Nat) : look 0 (l.foldl (fun t q => put t q 0) t) i = 0 := by
  induction l generalizing t with
  | nil => exact ht i
  | cons q l ih =>
    refine ih (put t q 0) fun j => ?_
    by_cases h : j = q
    · rw [h, look_put_same]
    · rw [look_put_ne _ _ _ h, ht j]

/-- A mode 0 sweep that has found nothing, its blocks swept and its command not ended. -/
def State.sweptClean (s : State) (c : Cmd) : State :=
  let tests : BitVec 4 := BitVec.ofNat 4 (c.arg 26 1)
  let s := if tests.getLsbD 3 then s.nodesTested (c.arg 24 1 % 16) [] else s
  (maskQuarters (c.arg 24 1)).foldl (State.quarterSwept tests) s

theorem sweepDone_nil : s.sweepDone c [] =
    ((s.sweptClean c).sweepReport (c.arg 24 1 % 16) ((maskQuarters (c.arg 24 1)).foldl (fun t q => put t q 0) [])).endCmd c 0
      (sweepResult (4356 * (maskQuarters (c.arg 24 1)).length) 0) := by
  unfold State.sweptClean
  rw [← maskQuarters_mod]
  rfl

theorem quarterSwept_device (tests : BitVec 4) (s : State) (q : Nat) : (s.quarterSwept tests q).device = s.device :=
  (quarterDeep_device _ q).trans (mapQuarter_device s q _)

theorem nodesTested_device (s : State) (mask : Nat) (l : List (QuarterId × Nat × Nat × Nat)) : (s.nodesTested mask l).device = s.device := rfl

theorem nodesTested_blk (s : State) (mask : Nat) (l : List (QuarterId × Nat × Nat × Nat)) (b : BlockId) : (s.nodesTested mask l).blk b = s.blk b := rfl

theorem sweptClean_hif (s : State) (c : Cmd) : (s.sweptClean c).hif = s.hif := by
  have h : (s.sweptClean c).device = s.device := by
    unfold State.sweptClean
    exact (foldl_keeps State.device (quarterSwept_device _) _ _).trans (device_ite (nodesTested_device s _ _) rfl)
  exact congrArg Device.hif h

theorem blk_of_apart {s t : State} (h : t.apartFromReport = s.apartFromReport) (b : BlockId) : t.blk b = s.blk b :=
  blk_of_listing (congrArg (fun x : Tab Block × Tab Block × Option Sweep × Hif => (x.1, x.2.1)) h) b

theorem hif_of_apart {s t : State} (h : t.apartFromReport = s.apartFromReport) : t.hif = s.hif :=
  congrArg (fun x : Tab Block × Tab Block × Option Sweep × Hif => x.2.2.2) h

theorem ofNat4_getLsbD (n i : Nat) (h : i < 4) : (BitVec.ofNat 4 n).getLsbD i = n.testBit i := by
  rw [BitVec.getLsbD_ofNat, decide_eq_true h, Bool.true_and]

theorem sweptClean_blk (s : State) (c : Cmd) (b : BlockId) :
    (quarterOf b ∉ maskQuarters (c.arg 24 1) → (s.sweptClean c).blk b = s.blk b) ∧
    (quarterOf b ∈ maskQuarters (c.arg 24 1) →
      ((s.sweptClean c).blk b).mems = (if (c.arg 26 1).testBit 0 then [] else (s.blk b).im, if (c.arg 26 1).testBit 1 then [] else (s.blk b).ls)) := by
  unfold State.sweptClean
  dsimp only
  generalize hu : (if (BitVec.ofNat 4 (c.arg 26 1)).getLsbD 3 = true then s.nodesTested (c.arg 24 1 % 16) [] else s) = u
  have hb : u.blk b = s.blk b := by
    rw [← hu]
    split
    · exact nodesTested_blk s _ _ b
    · rfl
  obtain ⟨out, inn⟩ := quartersSwept_blk (BitVec.ofNat 4 (c.arg 26 1)) b (maskQuarters (c.arg 24 1)) (fun q hq => (mem_maskQuarters.1 hq).1) u
  refine ⟨fun h => (out h).trans hb, fun h => ?_⟩
  rw [inn h, hb]
  unfold sweptMems
  rw [ofNat4_getLsbD _ 0 (by decide), ofNat4_getLsbD _ 1 (by decide)]
  rfl

theorem completeCmd_sweep (l : List Byte) (h : c.opcode = 0x22) (ha : c.arg 25 1 = 0) : s.completeCmd c (.done l) = s.sweepDone c l := by
  simp only [State.completeCmd, h, ha, if_true]

theorem commandCompletion_local (e : Ending) (h : s.findCmd seq = some c) (hp : c.phase = .running) (hc : hostCommand c.opcode = false) :
    exec (.commandCompletion seq e) s = .next (s.completeCmd c e) := by
  refine congrArg Host.Outcome.next ?_
  unfold commandCompletion
  simp [h, Option.filter_some, hp, hc]

/-- A mode 0 sweep that ends with no failing block. -/
theorem sweepDone_clean (hf : s.findCmd seq = some c) (hr : c.phase = .running) (ho : c.opcode = 0x22) (ha : c.arg 25 1 = 0) :
    ∃ t, exec (.commandCompletion seq (.done [])) s = .next t ∧ EndsWith t c 0 (BitVec.ofNat 64 (4356 * (maskQuarters (c.arg 24 1)).length)) ∧
      (∀ q < 4, (c.arg 24 1).testBit q = true → t.counter (0x4010 + q) 5 = 0) ∧ ∀ b : BlockId, t.blk b = (s.sweptClean c).blk b := by
  have he := (commandCompletion_local (.done []) hf hr (by rw [ho]; rfl)).trans
    (congrArg Host.Outcome.next ((completeCmd_sweep [] ho ha).trans sweepDone_nil))
  have hapart := sweepReport_apart (s.sweptClean c) (c.arg 24 1 % 16) ((maskQuarters (c.arg 24 1)).foldl (fun t q => put t q 0) [])
  refine ⟨_, he, endsWith_endCmd _ _ ?_, fun q hq hm => ?_, fun b => blk_of_apart hapart b⟩
  · refine (findCmd_of_cmds (s := s) ?_ _).trans (findCmd_self hf)
    rw [hif_of_apart hapart, sweptClean_hif]
  · refine (sweepReport_counter _ _ hq ?_).trans (failedNone _ [] (fun _ => rfl) q)
    rw [show (16 : Nat) = 2 ^ 4 from rfl, Nat.testBit_mod_two_pow, decide_eq_true hq, hm]
    rfl

/-! ## REPAIR_APPLY -/

theorem execRepairApply_eq (h : s.startedCmd seq 0x23 = some c) : exec (.repairApply seq) s =
    .next (if s.plan = .empty ∨ s.plan = .loaded then s.applyRepair.1.endCmd c 0 (BitVec.ofNat 64 s.applyRepair.2) else s.endCmd c 0x20 0) := by
  show execRepairApply seq s = _
  unfold execRepairApply
  rw [h]

theorem repairApply_ends (h : s.startedCmd seq 0x23 = some c) (hp : s.plan = .empty ∨ s.plan = .loaded) :
    ∃ t, exec (.repairApply seq) s = .next t ∧ EndsWith t c 0 (BitVec.ofNat 64 s.applyRepair.2) := by
  have he := execRepairApply_eq h
  rw [if_pos hp] at he
  have hd := applyRepair_device s
  generalize s.applyRepair = r at he hd
  exact ⟨_, he, endsWith_endCmd _ _ ((findCmd_of_device hd _).trans (startedCmd_self h))⟩

/-! ## TRACE_ARM and TRACE_DRAIN -/

theorem traceArm_eq (h : s.startedCmd seq 0x24 = some c) :
    traceArm seq s = if s.draining then s.endCmd c 0x60 0 else if s.trace.armed then s.beginDisarm.runCmd c else s.finishArm c := by
  unfold traceArm
  rw [h]

theorem OnlyBlock.trace {b : BlockId} {t : State} (h : OnlyBlock b s t) : t.trace = s.trace := by
  have k := congrArg State.trace h.1
  exact k

theorem armQuarter_trace (s : State) (q : Nat) : (s.armQuarter q).trace = s.trace := by
  unfold State.armQuarter
  refine foldl_keeps State.trace (fun u n => ?_) _ s
  dsimp only
  split
  · exact (onlyBlock_trcControl u _).trace
  · rfl

theorem armQuarter_device (s : State) (q : Nat) : (s.armQuarter q).device = s.device := by
  unfold State.armQuarter
  exact foldl_keeps State.device (fun u n => device_ite (onlyBlock_trcControl u _).device rfl) _ s

theorem armTrace_device (s : State) (c : Cmd) : (s.armTrace c).device = s.device := by
  unfold State.armTrace
  exact foldl_keeps State.device (fun u q => device_ite (armQuarter_device u q) rfl) _ (s.modTrace _)

/-- Arming writes the blocks of the quarters whose clock runs, and sets the trace record. -/
theorem armTrace_trace (s : State) (c : Cmd) : ∃ x : TraceSys, (s.armTrace c).trace = x ∧ x.armed = true ∧ x.first = c.arg 28 2 ∧ x.last = c.arg 30 2 ∧
    x.host = decide (s.setting 0x6001 4 = 1) ∧ x.sink0.seq = 1 ∧ x.sink1.seq = 1 ∧ x.sink0.held = 0 ∧ x.sink1.held = 0 := by
  unfold State.armTrace
  refine ⟨_, foldl_keeps State.trace (fun u q => ?_) _ (s.modTrace _), rfl, rfl, rfl, rfl, rfl, rfl, rfl, rfl⟩
  split
  · exact armQuarter_trace u q
  · rfl

theorem traceDrain_eq (h : s.startedCmd seq 0x25 = some c) : traceDrain seq s =
    if s.trace.armed || s.trace.disarming then s.endCmd c 0x60 0 else if !s.dieWorks c.drainDie then s.endCmd c 0x41 0 else s.runCmd c := by
  unfold traceDrain
  rw [h]

/-- Chunks of 64 bytes stored one after another. -/
theorem mload_chunk (m : Memory) (a : Nat) (l : List (List Byte)) (h : ∀ x ∈ l, x.length = 64) {i : Nat} {x : List Byte} (hi : l[i]? = some x) :
    mload (mstore m a l.flatten) (a + 64 * i) 64 = x := by
  induction l generalizing m a i with
  | nil => cases hi
  | cons y l ih =>
    obtain ⟨hy, hl⟩ := List.forall_mem_cons.1 h
    rw [List.flatten_cons, mstore_append, hy]
    cases i with
    | zero =>
      rw [mload_mstore_apart _ _ _ _ _ (.inl (by omega))]
      have hx : y = x := by simpa using hi
      rw [← hx, ← hy]
      exact mload_mstore_same ..
    | succ i => rw [show a + 64 * (i + 1) = a + 64 + 64 * i by omega, ih (mstore m a y) (a + 64) hl (by simpa using hi)]

theorem flatten_length (l : List (List Byte)) (h : ∀ x ∈ l, x.length = 64) : l.flatten.length = 64 * l.length := by
  induction l with
  | nil => rfl
  | cons y l ih =>
    obtain ⟨hy, hl⟩ := List.forall_mem_cons.1 h
    rw [List.flatten_cons, List.length_append, hy, ih hl, List.length_cons]
    omega

/-- The entries that a drain copies. -/
theorem drained_get (e : Edge) (n : Nat) {i : Nat} (hi : i < min (s.sink e).held (n / 64)) : (s.drained e n [])[i]? =
    some (mload (s.edgeDie e).sram ((s.sink e).base + ((s.sink e).woff + (s.sink e).size - 64 * (s.sink e).held + 64 * i) % (s.sink e).size) 64) := by
  unfold State.drained
  rw [List.getElem?_map, List.getElem?_range hi]
  rfl

theorem drained_length (e : Edge) (n : Nat) : (s.drained e n []).length = min (s.sink e).held (n / 64) := by
  unfold State.drained
  rw [List.length_map, List.length_range]

theorem drained_chunks (e : Edge) (n : Nat) : ∀ x ∈ s.drained e n [], x.length = 64 := by
  intro x hx
  unfold State.drained at hx
  obtain ⟨i, _, rfl⟩ := List.mem_map.1 hx
  exact mload_length ..

/-- The state of a drain whose entries have been copied and freed, its command not ended. -/
def State.drainCopied (s : State) (c : Cmd) : State :=
  (s.hostWrite (c.arg 24 8) (s.drained c.drainDie (c.arg 32 4) []).flatten).setSink c.drainDie
    { s.sink c.drainDie with held := (s.sink c.drainDie).held - (s.drained c.drainDie (c.arg 32 4) []).length }

theorem drainDone_done : s.drainDone c (.done []) =
    (s.drainCopied c).settleTrace.endCmd c 0 (BitVec.ofNat 64 (64 * (s.drained c.drainDie (c.arg 32 4) []).length)) := by
  unfold State.drainDone
  dsimp only
  rw [if_pos (by simp)]
  rfl

theorem sink_of_trace {s t : State} (h : t.trace = s.trace) (e : Edge) : t.sink e = s.sink e := by
  cases e
  · exact congrArg TraceSys.sink0 h
  · exact congrArg TraceSys.sink1 h

theorem sink_setSink (s : State) (e : Edge) (k : Sink) : (s.setSink e k).sink e = k := by
  cases e <;> rfl

theorem completeCmd_drain (e : Ending) (h : c.opcode = 0x25) : s.completeCmd c e = s.drainDone c e := by
  simp only [State.completeCmd, h]

theorem drainCopied_hostMem (s : State) (c : Cmd) : (s.drainCopied c).hostMem = mstore s.hostMem (c.arg 24 8) (s.drained c.drainDie (c.arg 32 4) []).flatten := by
  unfold State.drainCopied
  cases c.drainDie <;> rfl

theorem drainCopied_sink (s : State) (c : Cmd) : (s.drainCopied c).sink c.drainDie =
    { s.sink c.drainDie with held := (s.sink c.drainDie).held - (s.drained c.drainDie (c.arg 32 4) []).length } := sink_setSink ..

theorem drainCopied_findCmd (s : State) (c : Cmd) (n : W64) : (s.drainCopied c).findCmd n = s.findCmd n := rfl

theorem settleTrace_keeps (s : State) : s.settleTrace.hostMem = s.hostMem ∧ s.settleTrace.trace = s.trace ∧ s.settleTrace.hif = s.hif := ⟨rfl, rfl, rfl⟩

theorem endCmd_keeps (s : State) (c : Cmd) (st : BitVec 16) (v : W64) : (s.endCmd c st v).hostMem = s.hostMem ∧ (s.endCmd c st v).trace = s.trace :=
  ⟨rfl, rfl⟩

theorem drain_ends (hf : s.findCmd seq = some c) (hr : c.phase = .running) (hq : s.hif.quiet = false) (ho : c.opcode = 0x25) :
    let k := s.sink c.drainDie
    let n := min k.held (c.arg 32 4 / 64)
    ∃ t, exec (.commandCompletion seq (.done [])) s = .next t ∧ EndsWith t c 0 (BitVec.ofNat 64 (64 * n)) ∧ (t.sink c.drainDie).held = k.held - n ∧
      (∀ i < n, mload t.hostMem (c.arg 24 8 + 64 * i) 64 =
        mload (s.edgeDie c.drainDie).sram (k.base + (k.woff + k.size - 64 * k.held + 64 * i) % k.size) 64) ∧
      ∀ i, i < c.arg 24 8 ∨ c.arg 24 8 + 64 * n ≤ i → mget t.hostMem i = mget s.hostMem i := by
  intro k n
  have he := completes_next hf hr hq ((completeCmd_drain (.done []) ho).trans drainDone_done)
  rw [drained_length] at he
  have hmem := drainCopied_hostMem s c
  have hsink := drainCopied_sink s c
  have hcmd := drainCopied_findCmd s c c.seq
  rw [drained_length] at hsink
  generalize s.drainCopied c = u at he hmem hsink hcmd
  obtain ⟨sm, st, sh⟩ := settleTrace_keeps u
  obtain ⟨em, et⟩ := endCmd_keeps u.settleTrace c 0 (BitVec.ofNat 64 (64 * n))
  refine ⟨_, he, endsWith_endCmd _ _ ((findCmd_of_cmds (by rw [sh]) _).trans (hcmd.trans (findCmd_self hf))), ?_, fun i hi => ?_, fun i hi => ?_⟩
  · rw [sink_of_trace (et.trans st), hsink]
  · rw [em, sm, hmem]
    exact mload_chunk _ _ _ (drained_chunks _ _) (drained_get _ _ hi)
  · rw [em, sm, hmem]
    refine mget_mstore_out _ _ _ ?_
    rw [flatten_length _ (drained_chunks _ _), drained_length]
    exact hi

/-! ## DICT_READ and DICT_WRITE (R606 to R608) -/

theorem dictCheck_none {p : Path} {w : Bool} {i sub : Nat} {fast : Bool} {fits : OTy → Bool} (h : objInfo i sub = none) :
    s.dictCheck p w i sub fast fits = .noObject := by
  unfold State.dictCheck
  rw [h]

theorem dictRead_eq (h : s.startedCmd seq 0x30 = some c) : dictRead seq s =
    if s.dictCheck .host false c.index c.subindex false (fun t => t.fits c.dictLen) = .ok then s.runCmd c
    else s.endDict c (s.dictCheck .host false c.index c.subindex false fun t => t.fits c.dictLen) [] := by
  unfold dictRead
  rw [h]

theorem completeCmd_dictRead (e : Ending) (h : c.opcode = 0x30) : s.completeCmd c e = s.dictReadDone c e := by
  simp only [State.completeCmd, h]

/-- A read of a fast object puts its bytes into host memory. -/
theorem dictReadDone_fast (hd : isDeferred c.index c.subindex = false) (hx : ¬(c.index = 0x5010 ∧ c.subindex = 2)) : ∃ u : State,
    u.hif = s.hif ∧ u.hostMem = s.hostMem ∧
    s.dictReadDone c (.done []) = (u.hostWrite (c.arg 32 8) (s.objBytes .host c.index c.subindex c.dictLen)).endCmd c 0 (BitVec.ofNat 64 c.dictLen) := by
  refine ⟨if c.index = 0x2000 ∧ c.subindex = 3 then s.useFree else s, ?_, ?_, ?_⟩
  · split <;> rfl
  · split <;> rfl
  · unfold State.dictReadDone State.fastRead
    rw [hd, if_neg hx]
    rfl

theorem noteRefused_noObject (p : Path) (w : Bool) (i sub : Nat) (l : List Byte) : s.noteRefused p w i sub l .noObject = s := by
  unfold State.noteRefused State.applyRefused
  simp

theorem noteRefused_of_ne {p : Path} {w : Bool} {i sub : Nat} {l : List Byte} {st : DStat} (h : i ≠ 0x3011) : s.noteRefused p w i sub l st = s := by
  unfold State.noteRefused State.applyRefused
  simp [h]

theorem dictWrite_none (l : List Byte) (h : s.startedCmd seq 0x31 = some c) (ho : objInfo c.index c.subindex = none) :
    dictWrite seq (.done l) s = s.endCmd c 0x50 0 := by
  unfold dictWrite
  simp only [h, dictCheck_none ho, noteRefused_noObject, ne_eq, reduceCtorEq, not_false_eq_true, if_true]
  rfl

/-- The trace settings are plain objects: neither deferred nor held in flash. -/
theorem traceSetting_plain {sub : Nat} (h : sub ∈ [1, 2, 3, 4]) : isDeferred 0x6001 sub = false ∧ isFlash 0x6001 sub = false := by
  simp only [List.mem_cons, List.not_mem_nil, or_false] at h
  rcases h with rfl | rfl | rfl | rfl <;> exact ⟨rfl, rfl⟩

theorem dictApply_traceSetting {sub : Nat} (h : sub ∈ [1, 2, 3, 4]) (l : List Byte) :
    s.dictApply .host none 0x6001 sub l .none = s.setSetting 0x6001 sub (leNat l) := by
  have hf := (traceSetting_plain h).2
  simp only [List.mem_cons, List.not_mem_nil, or_false] at h
  unfold State.dictApply
  dsimp only
  rw [hf]
  rcases h with rfl | rfl | rfl | rfl <;> rfl

theorem setSetting_findCmd (s : State) (i sub v : Nat) (n : W64) : (s.setSetting i sub v).findCmd n = s.findCmd n := rfl

theorem hostWrite_findCmd (s : State) (a : Nat) (l : List Byte) (n : W64) : (s.hostWrite a l).findCmd n = s.findCmd n := rfl

theorem hostWrite_setting (s : State) (a : Nat) (l : List Byte) (i sub : Nat) : (s.hostWrite a l).setting i sub = s.setting i sub := rfl

theorem endCmd_setting (s : State) (c : Cmd) (st : BitVec 16) (v : W64) (i sub : Nat) : (s.endCmd c st v).setting i sub = s.setting i sub := rfl

theorem setSetting_setting (s : State) (i sub v : Nat) : (s.setSetting i sub v).setting i sub = v := look_store_same ..

section
variable (h : s.startedCmd seq 0x31 = some c) (hq : s.hif.quiet = false)
  (hk : s.dictCheck .host true c.index c.subindex false (fun t => t.fits c.dictLen) = .ok) (hi : c.index = 0x6001) (hs : c.subindex ∈ [1, 2, 3, 4])
include h hq hk

theorem dictWrite_failed : dictWrite seq .hostReadFailed s = s.hostReadFail c := by
  unfold dictWrite
  simp only [h, hk, hq, ne_eq, not_true_eq_false, if_false, Bool.false_eq_true]

include hi hs

theorem dictWrite_bad {l : List Byte} (hl : l.length = c.dictLen) (hv : s.valueOk 0x6001 c.subindex l = false) :
    dictWrite seq (.done l) s = s.endCmd c 0x54 0 := by
  have hd := (traceSetting_plain hs).1
  rw [hi] at hk
  unfold dictWrite
  simp only [h, hi, hk, hq, hd, hv, padTo_of_length hl, noteRefused_of_ne (show (0x6001 : Nat) ≠ 0x3011 by decide), ne_eq,
    not_true_eq_false, if_false, Bool.false_eq_true]
  rfl

theorem dictWrite_good {l : List Byte} (hl : l.length = c.dictLen) (hv : s.valueOk 0x6001 c.subindex l = true) :
    dictWrite seq (.done l) s = ((s.setSetting 0x6001 c.subindex (leNat l)).hostWrite (c.arg 32 8) []).endCmd c 0 (BitVec.ofNat 64 c.dictLen) := by
  have hd := (traceSetting_plain hs).1
  rw [hi] at hk
  unfold dictWrite
  simp only [h, hi, hk, hq, hd, hv, padTo_of_length hl, dictApply_traceSetting hs, ne_eq, not_true_eq_false, if_false, if_true, Bool.false_eq_true]
  rfl

end

end Sys2Proof.Machine

/-- Settles O46, command by command. -/
theorem otherHostCommands : Obligations.OtherHostCommands := by
  intro s seq c ends
  have refuses : ∀ {i : Instr} {st : BitVec 16} {v : W64} {op : Nat}, s.startedCmd seq op = some c → exec i s = .next (s.endCmd c st v) → ends i st v :=
    fun h he => ⟨_, he, endsWith_endCmd _ _ (startedCmd_self h)⟩
  refine ⟨fun h => refuses h ?_, fun h => refuses h ?_, fun h => ⟨fun hd => refuses h ?_, fun hd => ?_⟩,
    fun h => ⟨fun ha => ⟨fun ht => refuses h ?_, fun ht hm hp hl => refuses h ?_, fun ht hp => ?_⟩, fun ha => ⟨fun hp => ?_, fun hp => ?_⟩⟩,
    fun hf hr ho ha => ?_, fun h => ⟨fun hp => repairApply_ends h hp, fun hp hl => refuses h ?_⟩,
    fun h => ⟨fun hd => refuses h ?_, fun hd ha => ?_, fun hd ha => ⟨fun hm => refuses h ?_, fun hm => ?_⟩⟩,
    fun h => ⟨fun ha => refuses h ?_, fun ha hd => ⟨fun hw => refuses h ?_, fun hw => ?_⟩⟩, fun hf hr hq ho _ => drain_ends hf hr hq ho,
    fun h => ⟨fun ho => refuses h ?_, fun hk => ?_⟩, fun hf hr hq ho hd hx => ?_,
    fun h => ⟨fun ho l => refuses h (congrArg Host.Outcome.next (dictWrite_none l h ho)), fun hq hk hi hs => ⟨?_, fun l hl => ⟨fun hv => ?_, fun hv => ?_⟩⟩⟩⟩
  · show execNopCommand seq s = _
    unfold execNopCommand
    rw [h]
  · show execJournalMark seq s = _
    unfold execJournalMark
    rw [h]
  · rw [execFence_eq h, if_pos (fenced_iff.2 fun d hm hb => hd d hm hb)]
  · obtain ⟨d, hm, hb, hn⟩ := hd
    rw [execFence_eq h, if_neg fun k => hn (fenced_iff.1 k d hm hb)]
  · rw [execHealthSweep_eq h, if_pos ha, State.wholeSweep, if_pos ht]
  · rw [execHealthSweep_eq h, if_pos ha, State.wholeSweep, ht, if_neg (by decide), if_pos ⟨hm, hp, hl⟩]
  · refine ⟨_, (execHealthSweep_eq h).trans ?_, runs_runCmd (startedCmd_self h)⟩
    rw [if_pos ha, State.wholeSweep, ht, if_neg (by decide), if_neg fun k => hp.elim k.2.1 k.2.2]
  · obtain ⟨w, hw, hseq, hmask, hlim, htest⟩ := windowSweep_begins (c := c) hp
    refine ⟨_, w, (execHealthSweep_eq h).trans ?_, runs_runCmd (s := { s with sweep := some w }) (startedCmd_self h), rfl, hseq, hmask, hlim, htest⟩
    rw [if_neg (by rw [ha]; decide), hw]
  · refine ⟨_, (execHealthSweep_eq h).trans ?_, endsWith_endCmd (s := s.sweepReport (c.arg 24 1) []) 0 0 ?_⟩
    · rw [if_neg (by rw [ha]; decide), State.windowSweep, if_neg hp]
    · exact (findCmd_of_cmds (by rw [hif_of_apart (sweepReport_apart s _ _)]) _).trans (startedCmd_self h)
  · obtain ⟨t, he, hends, hcount, hblk⟩ := sweepDone_clean hf hr ho ha
    refine ⟨t, he, hends, hcount, fun b => ?_⟩
    obtain ⟨out, inn⟩ := sweptClean_blk s c b
    rw [hblk b]
    refine ⟨fun hb => out fun k => ?_, fun hb hq => ?_⟩
    · rw [(mem_maskQuarters.1 k).2] at hb
      cases hb
    · have hm := inn (mem_maskQuarters.2 ⟨hq, hb⟩)
      have him := congrArg Prod.fst hm
      have hls := congrArg Prod.snd hm
      exact ⟨fun k => him.trans (if_pos k), fun k => him.trans (if_neg (by rw [k]; decide)), fun k => hls.trans (if_pos k),
        fun k => hls.trans (if_neg (by rw [k]; decide))⟩
  · rw [execRepairApply_eq h, if_neg fun k => k.elim hp hl]
  · exact congrArg Host.Outcome.next ((traceArm_eq h).trans (if_pos hd))
  · refine ⟨_, congrArg Host.Outcome.next ((traceArm_eq h).trans ?_), runs_runCmd ((findCmd_of_device (beginDisarm_device s) _).trans (startedCmd_self h)),
      beginDisarm_disarming s⟩
    rw [hd, ha]
    rfl
  · refine congrArg Host.Outcome.next ((traceArm_eq h).trans ?_)
    rw [hd, ha, if_neg (by decide), if_neg (by decide), State.finishArm, if_pos hm]
  · obtain ⟨x, ht, harm, hfirst, hlast, hhost, hs0, hs1, hh0, hh1⟩ := armTrace_trace s c
    have hc := (findCmd_of_device (armTrace_device s c) c.seq).trans (startedCmd_self h)
    have he : exec (.traceArm seq) s = .next ((s.armTrace c).endCmd c 0 0) := by
      refine congrArg Host.Outcome.next ((traceArm_eq h).trans ?_)
      rw [hd, ha, if_neg (by decide), if_neg (by decide), State.finishArm, if_neg (Nat.not_le.2 hm)]
    generalize s.armTrace c = u at ht hc he
    obtain ⟨_, et⟩ := endCmd_keeps u c 0 0
    refine ⟨_, he, endsWith_endCmd _ _ hc, ?_⟩
    rw [et, ht]
    exact ⟨harm, hfirst, hlast, hhost, hs0, hs1, hh0, hh1⟩
  · exact congrArg Host.Outcome.next ((traceDrain_eq h).trans (if_pos (by simpa using ha)))
  · refine congrArg Host.Outcome.next ((traceDrain_eq h).trans ?_)
    rw [ha, hd, hw]
    rfl
  · refine ⟨_, congrArg Host.Outcome.next ((traceDrain_eq h).trans ?_), runs_runCmd (startedCmd_self h)⟩
    rw [ha, hd, hw]
    rfl
  · refine congrArg Host.Outcome.next ((dictRead_eq h).trans ?_)
    rw [dictCheck_none ho]
    rfl
  · exact ⟨_, congrArg Host.Outcome.next ((dictRead_eq h).trans (if_pos hk)), runs_runCmd (startedCmd_self h)⟩
  · obtain ⟨u, hh, hm, he⟩ := dictReadDone_fast (s := s) hd hx
    refine ⟨_, completes_next hf hr hq ((completeCmd_dictRead _ ho).trans he), ?_, endsWith_endCmd _ _ ?_⟩
    · rw [← hm]
      rfl
    · rw [hostWrite_findCmd, findCmd_of_cmds (s := s) (by rw [hh]), findCmd_self hf]
  · exact ⟨_, congrArg Host.Outcome.next (dictWrite_failed h hq hk), endsWith_hostReadFail (startedCmd_self h)⟩
  · exact refuses h (congrArg Host.Outcome.next (dictWrite_bad h hq hk hi hs hl hv))
  · exact ⟨_, congrArg Host.Outcome.next (dictWrite_good h hq hk hi hs hl hv),
      endsWith_endCmd _ _ (by rw [hostWrite_findCmd, setSetting_findCmd, startedCmd_self h]),
      by rw [endCmd_setting, hostWrite_setting, setSetting_setting]⟩
end

/-! # Tensor commands: the proofs -/

section
open Sys2Proof Sys2Proof.Machine
namespace Sys2Proof.Machine
variable {s : State} {c : Cmd} {seq : W64}

/-! ## The start of a tensor command (R514, R515) -/

theorem tensorStatus_noWay (write : Bool) (hr : c.remote = true) (hw : s.wayOut (some .e0) c.dev = none) : s.tensorStatus c write = 0x41 := by
  simp [State.tensorStatus, hr, hw]

/-- A command that has its way. -/
def State.tensorWay (s : State) (c : Cmd) : Prop := c.remote = true → s.wayOut (some .e0) c.dev ≠ none

theorem tensorStatus_way (write : Bool) (hw : s.tensorWay c) : s.tensorStatus c write =
    if c.range.any fun p => decide (deviceMap p.1 = .reserved) then 0x43
    else if write && !c.remote && c.range.any (fun p => s.writeBarred (deviceMap p.1)) then 0x34
    else 0 := by
  have hf : (c.remote && (s.wayOut (some .e0) c.dev).isNone) = false := by
    cases hr : c.remote
    · rfl
    · rw [Bool.true_and, Option.isNone_eq_false_iff, Option.isSome_iff_ne_none]
      exact hw hr
  rw [State.tensorStatus, hf]
  rfl

theorem reservedIn_iff : (c.range.any fun p => decide (deviceMap p.1 = .reserved)) = true ↔ ∃ p ∈ c.range, deviceMap p.1 = .reserved := by
  rw [List.any_eq_true]
  exact exists_congr fun p => and_congr_right fun _ => decide_eq_true_iff

theorem tensorStatus_reserved (write : Bool) (hw : s.tensorWay c) (h : ∃ p ∈ c.range, deviceMap p.1 = .reserved) : s.tensorStatus c write = 0x43 := by
  rw [tensorStatus_way write hw, if_pos (reservedIn_iff.2 h)]

theorem tensorStatus_mapped (write : Bool) (hw : s.tensorWay c) (h : ∀ p ∈ c.range, deviceMap p.1 ≠ .reserved) : s.tensorStatus c write =
    if write && !c.remote && c.range.any (fun p => s.writeBarred (deviceMap p.1)) then 0x34 else 0 := by
  rw [tensorStatus_way write hw, if_neg fun k => ?_]
  obtain ⟨p, hp, hres⟩ := reservedIn_iff.1 k
  exact h p hp hres

theorem tensorWrite_eq (h : s.startedCmd seq 0x12 = some c) :
    tensorWrite seq s = if s.tensorStatus c true = 0 then s.runCmd c else s.endCmd c (s.tensorStatus c true) 0 := by
  unfold tensorWrite
  rw [h]

theorem tensorRead_eq (h : s.startedCmd seq 0x13 = some c) : tensorRead seq s =
    if s.tensorStatus c false = 0 then (if c.remote then s.sendTensor c 0 [] else s).runCmd c else s.endCmd c (s.tensorStatus c false) 0 := by
  unfold tensorRead
  rw [h]

theorem queueFrame_hif (s : State) (u : UFrame) (from_ : Option (Nat × Bool × BitVec 16)) : (s.queueFrame u from_).hif = s.hif := by
  unfold State.queueFrame
  split <;> rfl

theorem sendTensor_hif (s : State) (c : Cmd) (op : Nat) (l : List Byte) : (s.sendTensor c op l).hif = s.hif :=
  foldl_keeps State.hif (fun u _ => queueFrame_hif u _ none) _ s

/-- A tensor command that starts, by its status. -/
structure TensorStart (s : State) (c : Cmd) (i : Instr) (write : Bool) : Prop where
  refuses : s.tensorStatus c write ≠ 0 → exec i s = .next (s.endCmd c (s.tensorStatus c write) 0)
  runs : s.tensorStatus c write = 0 → ∃ t, exec i s = .next t ∧ Runs t c
  found : s.findCmd c.seq = some c

theorem tensorWrite_start (h : s.startedCmd seq 0x12 = some c) : TensorStart s c (.tensorWrite seq) true :=
  ⟨fun hs => congrArg Host.Outcome.next ((tensorWrite_eq h).trans (if_neg hs)),
    fun hs => ⟨_, congrArg Host.Outcome.next ((tensorWrite_eq h).trans (if_pos hs)), runs_runCmd (startedCmd_self h)⟩, startedCmd_self h⟩

theorem tensorRead_start (h : s.startedCmd seq 0x13 = some c) : TensorStart s c (.tensorRead seq) false := by
  refine ⟨fun hs => congrArg Host.Outcome.next ((tensorRead_eq h).trans (if_neg hs)), fun hs => ?_, startedCmd_self h⟩
  refine ⟨_, congrArg Host.Outcome.next ((tensorRead_eq h).trans (if_pos hs)), runs_runCmd ?_⟩
  split
  · rw [findCmd_of_cmds (s := s) (by rw [sendTensor_hif]), startedCmd_self h]
  · exact startedCmd_self h

section
variable {i : Instr} {write : Bool} (h : TensorStart s c i write)
include h

theorem TensorStart.ends {st : BitVec 16} (hs : s.tensorStatus c write = st) (hne : st ≠ 0) : ∃ t, exec i s = .next t ∧ EndsWith t c st 0 := by
  subst hs
  exact ⟨_, h.refuses hne, endsWith_endCmd _ _ h.found⟩

theorem TensorStart.remote_mapped (hr : c.remote = true) (hw : s.wayOut (some .e0) c.dev ≠ none) (hm : ∀ p ∈ c.range, deviceMap p.1 ≠ .reserved) :
    ∃ t, exec i s = .next t ∧ Runs t c := by
  refine h.runs ?_
  rw [tensorStatus_mapped write (fun _ => hw) hm, hr, Bool.not_true, Bool.and_false, Bool.false_and]
  rfl

theorem TensorStart.local_free (hr : c.remote = false) (hm : ∀ p ∈ c.range, deviceMap p.1 ≠ .reserved)
    (hb : write = false ∨ ∀ p ∈ c.range, s.writeBarred (deviceMap p.1) = false) : ∃ t, exec i s = .next t ∧ Runs t c := by
  have hbar : (write && !c.remote && c.range.any fun p => s.writeBarred (deviceMap p.1)) = false := by
    rcases hb with hb | hb
    · rw [hb]
      rfl
    · rw [List.any_eq_false.2 fun p hp => by rw [hb p hp]; decide, Bool.and_false]
  refine h.runs ?_
  rw [tensorStatus_mapped write (fun k => by rw [hr] at k; cases k) hm, hbar]
  rfl

end

theorem tensorStatus_barred (hr : c.remote = false) (hm : ∀ p ∈ c.range, deviceMap p.1 ≠ .reserved)
    (hb : ∃ p ∈ c.range, s.writeBarred (deviceMap p.1) = true) : s.tensorStatus c true = 0x34 := by
  rw [tensorStatus_mapped true (fun k => by rw [hr] at k; cases k) hm, hr, List.any_eq_true.2 hb]
  rfl

/-! ## Its end, in one piece of an edge SRAM (R516) -/

/-- A range that crosses no region of 32 KiB is one piece. -/
theorem pieces_one {o n : Nat} (hn : 0 < n) (hr : o % 0x8000 + n ≤ 0x8000) : pieces o n = [(o, n)] := by
  have h : ∀ k a, piecesOf (k + 1) a 0 = [] := fun _ _ => rfl
  unfold pieces
  rw [show n / 0x8000 + 2 = (n / 0x8000 + 1) + 1 from rfl, piecesOf, if_neg (by omega)]
  dsimp only
  rw [Nat.min_eq_left (by omega), Nat.sub_self, h]

theorem range_one (hn : 0 < c.tensorLen) (hr : c.daddr % 0x8000 + c.tensorLen ≤ 0x8000) : c.range = [(c.daddr, c.tensorLen)] := pieces_one hn hr

theorem completeCmd_tensorWrite (e : Ending) (h : c.opcode = 0x12) : s.completeCmd c e = s.tensorWriteDone c e := by
  simp only [State.completeCmd, h]

theorem completeCmd_tensorRead (e : Ending) (h : c.opcode = 0x13) : s.completeCmd c e = s.tensorReadDone c e := by
  simp only [State.completeCmd, h]

section
variable {e : Edge} {a o n : Nat} (hm : deviceMap o = .sram e a) (hd : s.dieWorks e = true) (hw : s.wayTo (.sram e a) = true)
include hm hd hw

theorem mapWrites_sram {l : List Byte} (hlen : l.length = n) :
    s.mapWrites .ok l [(o, n)] = (s.modEdge e fun d => { d with sram := mstore d.sram a l }, .ok []) := by
  have hwr : s.mapWrite o l .ok = (s.modEdge e fun d => { d with sram := mstore d.sram a l }, .ok []) := by
    unfold State.mapWrite
    rw [hm]
    exact if_pos hd
  unfold State.mapWrites
  rw [hm, hw, if_pos rfl, ← hlen, List.take_length, hwr]
  rfl

theorem mapReads_sram : s.mapReads .ok [(o, n)] = (s, .ok (mload (s.edgeDie e).sram a n)) := by
  have hrd : s.mapRead o n .ok = (s, .ok (mload (s.edgeDie e).sram a n)) := by
    unfold State.mapRead
    rw [hm]
    dsimp only
    rw [hd]
    rfl
  unfold State.mapReads
  rw [hm, hw, if_pos rfl, hrd]
  dsimp only [State.mapReads]
  rw [List.append_nil]

theorem mapReads_sram_lost : s.mapReads .uncorrectable [(o, n)] = (s.bump 0x4001 6, .err 3) := by
  have hrd : s.mapRead o n .uncorrectable = (s.bump 0x4001 6, .err 3) := by
    unfold State.mapRead
    rw [hm]
    dsimp only
    rw [hd]
    rfl
  unfold State.mapReads
  rw [hm, hw, if_pos rfl, hrd]

end

section
variable {e : Edge} {a : Nat} (hr : c.remote = false) (hm : deviceMap c.daddr = .sram e a) (hd : s.dieWorks e = true) (hw : s.wayTo (.sram e a) = true)
  (hn : 0 < c.tensorLen) (hl : c.daddr % 0x8000 + c.tensorLen ≤ 0x8000)
include hr hm hn hl

theorem tensorWriteDone_barred {l : List Byte} (hb : a < s.edgeAssigned e) : s.tensorWriteDone c (.done l) = s.endCmd c 0x34 0 := by
  unfold State.tensorWriteDone
  dsimp only
  rw [hr, range_one hn hl, if_neg (by decide)]
  exact if_pos (by simp [State.writeBarred, hm, hb])

include hd hw

theorem tensorWriteDone_stores {l : List Byte} (hlen : l.length = c.tensorLen) (hb : s.edgeAssigned e ≤ a) : s.tensorWriteDone c (.done l) =
    (s.modEdge e fun d => { d with sram := mstore d.sram a l }).endCmd c 0 (BitVec.ofNat 64 c.tensorLen) := by
  have hbar : ([(c.daddr, c.tensorLen)].any fun p => s.writeBarred (deviceMap p.1)) = false := by
    simp [State.writeBarred, hm, hb]
  unfold State.tensorWriteDone
  dsimp only
  rw [hr, range_one hn hl, hbar, padTo_of_length hlen, mapWrites_sram hm hd hw hlen]
  rfl

theorem tensorReadDone_loads : s.tensorReadDone c (.done []) = s.tensorOut c (mload (s.edgeDie e).sram a c.tensorLen) := by
  unfold State.tensorReadDone
  dsimp only
  rw [hr, range_one hn hl, mapReads_sram hm hd hw]
  rfl

theorem tensorReadDone_lost : s.tensorReadDone c (.dataLoss []) = (s.bump 0x4001 6).endCmd c 0x42 0 := by
  unfold State.tensorReadDone
  dsimp only
  rw [hr, range_one hn hl, mapReads_sram_lost hm hd hw]
  rfl

end

end Sys2Proof.Machine

/-- Settles O45: the status decides how a tensor command starts, and a range of one piece is one load or store of an edge SRAM. -/
theorem tensorCommands : Obligations.TensorCommands := by
  intro s seq c e a ends starts
  have starting : ∀ {i : Instr} {write : Bool} {bad : BitVec 16}, TensorStart s c i write → (bad = 0 → write = false) → (bad ≠ 0 → bad = 0x34 ∧ write = true) →
      starts i bad := by
    intro i write bad h h0 h1
    refine ⟨fun hr hw => h.ends (tensorStatus_noWay write hr hw) (by decide),
      fun hr hw => ⟨fun hm => h.ends (tensorStatus_reserved write (fun _ => hw) hm) (by decide), fun hm => h.remote_mapped hr hw hm⟩,
      fun hr hm => h.ends (tensorStatus_reserved write (fun k => by rw [hr] at k; cases k) hm) (by decide),
      fun hr hm => ⟨fun hb => h.local_free hr hm (.inr hb), fun hb hne => ?_, fun hz => h.local_free hr hm (.inl (h0 hz))⟩⟩
    obtain ⟨rfl, rfl⟩ := h1 hne
    exact h.ends (tensorStatus_barred hr hm hb) (by decide)
  refine ⟨fun h => starting (tensorWrite_start h) (by decide) fun _ => ⟨rfl, rfl⟩, fun h => starting (tensorRead_start h) (fun _ => rfl) fun k => absurd rfl k,
    fun hf hp hq hr hm hd hw hn hl => ⟨fun ho => ⟨?_, fun l hlen => ⟨fun hb => ?_, fun hb => ?_⟩⟩, fun ho => ⟨?_, ?_⟩⟩⟩
  · exact ⟨_, completes_next hf hp hq (completeCmd_tensorWrite _ ho), endsWith_hostReadFail (findCmd_self hf)⟩
  · exact ⟨_, completes_next hf hp hq ((completeCmd_tensorWrite _ ho).trans (tensorWriteDone_barred hr hm hn hl hb)), endsWith_endCmd _ _ (findCmd_self hf)⟩
  · refine ⟨_, completes_next hf hp hq ((completeCmd_tensorWrite _ ho).trans (tensorWriteDone_stores hr hm hd hw hn hl hlen hb)),
      endsWith_endCmd _ _ (by rw [modEdge_findCmd, findCmd_self hf]), ?_, fun k hk => ?_⟩
    · have hsram : ((s.modEdge e fun d => { d with sram := mstore d.sram a l }).edgeDie e).sram = mstore (s.edgeDie e).sram a l := by
        rw [edgeDie_modEdge_same]
      exact (congrArg (fun m => mload m a c.tensorLen) hsram).trans (by rw [← hlen]; exact mload_mstore_same ..)
    · have hsram : ((s.modEdge e fun d => { d with sram := mstore d.sram a l }).edgeDie e).sram = mstore (s.edgeDie e).sram a l := by
        rw [edgeDie_modEdge_same]
      exact (congrArg (fun m => mget m k) hsram).trans (mget_mstore_out _ _ _ (by rw [hlen]; exact hk))
  · have hlen := mload_length (s.edgeDie e).sram a c.tensorLen
    refine ⟨_, completes_next hf hp hq ((completeCmd_tensorRead _ ho).trans (tensorReadDone_loads hr hm hd hw hn hl)),
      endsWith_endCmd _ _ (by rw [hostWrite_findCmd, findCmd_self hf]), ?_, fun k hk => ?_⟩
    · have h := mload_mstore_same s.hostMem (c.arg 24 8) (mload (s.edgeDie e).sram a c.tensorLen)
      rw [hlen] at h
      exact h
    · exact mget_mstore_out _ _ _ (by rw [hlen]; exact hk)
  · have hb : ((s.bump 0x4001 6).findCmd c.seq) = s.findCmd c.seq := rfl
    exact ⟨_, completes_next hf hp hq ((completeCmd_tensorRead _ ho).trans (tensorReadDone_lost hr hm hd hw hn hl)),
      endsWith_endCmd _ _ (by rw [hb, findCmd_self hf])⟩
end

/-! # What the management core serves: the proofs -/

section
open Sys2Proof Sys2Proof.Machine
namespace Sys2Proof.Machine
variable {s : State}

/-! ## Deferred requests (R577) -/

theorem mailResult_elt {r : DefReq} {rest : List DefReq} (h : s.elt.requests = r :: rest) (st : DStat) (l : List Byte) :
    (s.mailResult st l).elt.requests = rest ∧ (s.mailResult st l).elt.mailbox = s.elt.mailbox ++ [⟨r.tag, st.elette, r.index, r.sub, l⟩] := by
  unfold State.mailResult
  rw [h]
  exact ⟨rfl, rfl⟩

theorem mailResult_keeps (st : DStat) (l : List Byte) : (s.mailResult st l).settings = s.settings ∧ (s.mailResult st l).dirty = s.dirty := by
  unfold State.mailResult
  split <;> exact ⟨rfl, rfl⟩

theorem served_eq {r : DefReq} {rest : List DefReq} {st : DStat} {l : List Byte} (h : s.elt.requests = r :: rest) (hs : r.served = false)
    (hc : s.coreRuns = true)
    (hd : s.serveDeferred .elette (some 2) r.write r.index.toNat r.sub.toNat r.len r.data .elette = (s, some (st, l))) :
    deferredRequestServed s = s.mailResult st l := by
  unfold deferredRequestServed
  simp only [h, hs, hc, hd, Bool.not_true, Bool.or_self, Bool.false_eq_true, if_false]

theorem serveDeferred_read {i sub n : Nat} (l : List Byte) (w : Waiter) (p : Path) (event : Option Nat) (h : ¬(i = 0x9010 ∧ sub = 1)) :
    s.serveDeferred p event false i sub n l w = (s, some (.ok, s.objBytes p i sub n)) := by
  unfold State.serveDeferred
  rw [if_neg (by decide), if_neg h]

theorem serveDeferred_bad {i sub n : Nat} {l : List Byte} (w : Waiter) (p : Path) (event : Option Nat) (h : s.valueOk i sub l = false) :
    s.serveDeferred p event true i sub n l w = (s, some (.value, [])) := by
  unfold State.serveDeferred
  rw [if_pos rfl, h]
  rfl

theorem served_none (h : s.elt.requests = [] ∨ s.coreRuns = false) : deferredRequestServed s = s := by
  unfold deferredRequestServed
  rcases h with h | h
  · simp only [h]
  · split
    · rfl
    · simp [h]

theorem timeout_eq {r : DefReq} {rest : List DefReq} (h : s.elt.requests = r :: rest) : ∃ d, deferredRequestTimeout s =
    ({ s with dirty := d } : State).mailResult .timeout [] := by
  unfold deferredRequestTimeout
  simp only [h]
  exact ⟨_, rfl⟩

end Sys2Proof.Machine

/-! ## Accesses of a row (R592, R606) -/

namespace Sys2Proof.Machine
variable {s t : State} {p : Path} {i sub n : Nat} {l : List Byte} {o : Obj}

section
variable {w : Bool} (ho : objInfo i sub = some o)
include ho

theorem isDeferred_eq : isDeferred i sub = o.deferred := by
  unfold isDeferred
  rw [ho]

theorem dictCheck_noAccess {fast : Bool} {fits : OTy → Bool} (h : (o.acc p).grants w = false ∨ s.available p w i sub o = false) :
    s.dictCheck p w i sub fast fits = .noAccess := by
  unfold State.dictCheck
  rw [ho]
  exact if_pos (by rcases h with h | h <;> simp [h])

theorem dictCheck_authority {fast : Bool} {fits : OTy → Bool} (hg : (o.acc p).grants true = true) (hv : s.available p true i sub o = true)
    (ha : s.authority p < s.authNeeded p i sub o) : s.dictCheck p true i sub fast fits = .authority := by
  unfold State.dictCheck
  simp only [ho, hg, hv, ha, Bool.not_true, Bool.or_self, Bool.false_eq_true, if_false, decide_true, Bool.and_self, if_true]

theorem dictCheck_ok {fits : OTy → Bool} (hg : (o.acc p).grants w = true) (hv : s.available p w i sub o = true)
    (ha : w = true → s.authNeeded p i sub o ≤ s.authority p) (hf : fits o.ty = true) : s.dictCheck p w i sub false fits = .ok := by
  have hw : (w && decide (s.authority p < s.authNeeded p i sub o)) = false := by
    cases w
    · rfl
    · simpa using ha rfl
  unfold State.dictCheck
  simp only [ho, hg, hv, hw, hf, Bool.not_true, Bool.or_self, Bool.false_and, Bool.false_eq_true, if_false]

theorem valueOk_eq : s.valueOk i sub l = (o.ty.admits l && s.valueFits i sub l) := by
  unfold State.valueOk
  rw [ho]

end

section
variable {event : Option Nat} {ecc : Ecc} {wt : Waiter}

theorem dictAccess_refused {write : Bool} {st : DStat} (h : s.dictCheck p write i sub false (fun t => t.fits n) = st) (hne : st ≠ .ok) :
    s.dictAccess p event write i sub n l ecc wt = (s.noteRefused p write i sub l st, some (st, [])) := by
  unfold State.dictAccess
  rw [h]
  exact if_pos hne

theorem dictAccess_served {write : Bool} (h : s.dictCheck p write i sub false (fun t => t.fits n) = .ok) (hd : isDeferred i sub = true) :
    s.dictAccess p event write i sub n l ecc wt = s.serveDeferred p event write i sub n l wt := by
  unfold State.dictAccess
  simp only [h, hd, ne_eq, not_true_eq_false, if_false, if_true]

theorem dictAccess_applied (h : s.dictCheck p true i sub false (fun t => t.fits n) = .ok) (hd : isDeferred i sub = false)
    (hv : s.valueOk i sub l = true) : s.dictAccess p event true i sub n l ecc wt = (s.dictApply p event i sub l wt, some (.ok, [])) := by
  unfold State.dictAccess
  simp only [h, hd, hv, ne_eq, not_true_eq_false, if_false, if_true, Bool.false_eq_true]

theorem dictAccess_value (h : s.dictCheck p true i sub false (fun t => t.fits n) = .ok) (hd : isDeferred i sub = false)
    (hv : s.valueOk i sub l = false) : s.dictAccess p event true i sub n l ecc wt = (s.noteRefused p true i sub l .value, some (.value, [])) := by
  unfold State.dictAccess
  simp only [h, hd, hv, ne_eq, not_true_eq_false, if_false, if_true, Bool.false_eq_true]

end

theorem rowAccess_some {write : Bool} {st : DStat} {d : List Byte}
    (h : s.dictAccess p (some (pathCode p)) write i sub n l .ok .none = (t, some (st, d))) :
    s.rowAccess p write i sub n l = { t with dictOut := (st.code p, d) } := by
  unfold State.rowAccess
  rw [h]

theorem rowAccess_none {write : Bool} (h : s.dictAccess p (some (pathCode p)) write i sub n l .ok .none = (t, none)) :
    s.rowAccess p write i sub n l = { t with dictOut := (0, []) } := by
  unfold State.rowAccess
  rw [h]

theorem okCode (p : Path) : DStat.code .ok p = 0 := by
  cases p <;> rfl

/-- A write from a row that passes every check, of an object that is neither deferred nor held in flash. -/
theorem rowWrite_plain (hck : s.dictCheck p true i sub false (fun t => t.fits n) = .ok) (hd : isDeferred i sub = false) (hv : s.valueOk i sub l = true)
    (hf : isFlash i sub = false) : s.rowAccess p true i sub n l =
      { (s.dictEvent (pathCode p) i sub l).objWrite p (pathCode p) i sub l with dictOut := (0, []) } := by
  rw [rowAccess_some (dictAccess_applied hck hd hv), okCode]
  unfold State.dictApply
  rw [hf]
  rfl

/-! ## The mailbox (R578) -/

theorem mailRemove_check (h : 1 ≤ s.authority p) : s.dictCheck p true 0x1180 2 false (fun t => t.fits 1) = .ok := by
  refine dictCheck_ok (o := wo u8 1) rfl ?_ ?_ (fun _ => h) rfl
  · cases p <;> rfl
  · simp [State.available, wo]

theorem mailRemove_eq (g : Byte) (h : 1 ≤ s.authority p) : exec (.mailboxEntryRemove p g) s =
    .next { (s.dictEvent (pathCode p) 0x1180 2 [g]).removeMail g with dictOut := (0, []) } := by
  have hv : s.valueOk 0x1180 2 [g] = true := by
    rw [valueOk_eq (o := wo u8 1) rfl]
    have := g.isLt
    simp [State.valueFits, wo, u8, OTy.admits, leNat]
    omega
  refine congrArg Host.Outcome.next ((rowWrite_plain (mailRemove_check h) rfl hv rfl).trans ?_)
  have hw : ∀ u : State, u.objWrite p (pathCode p) 0x1180 2 [g] = u.removeMail (BitVec.ofNat 8 (leNat [g])) := fun _ => rfl
  rw [hw]
  simp [leNat]

theorem removeMail_mailbox {m : MailEntry} {rest : List MailEntry} (h : s.elt.mailbox = m :: rest) (g : Byte) :
    (s.removeMail g).elt.mailbox = if m.tag = g then rest else s.elt.mailbox := by
  unfold State.removeMail State.modElt
  simp only [h]

theorem dictEvent_elt (path i sub : Nat) (l : List Byte) : (s.dictEvent path i sub l).elt = s.elt := rfl

/-! ## Flash copies (R613) -/

theorem look_store_apart {α : Type} [DecidableEq α] (d e : α) (t : Tab α) {k m : Nat} (v : α) (h : m ≠ k) : look e (store d t k v) m = look e t m := by
  unfold store
  split
  · exact look_unlist_ne _ _ h
  · exact look_put_ne _ _ _ h

theorem flashCommit_written {d : Dirty} {rest : List Dirty} (hc : s.coreRuns = true) (h : s.dirty = d :: rest) (hw : d.waiter = .none) :
    flashCopyCommit true s = ({ s with dirty := rest } : State).setFlash (store (settingDefault d.key) s.flash d.key d.value) := by
  unfold flashCopyCommit
  simp only [hc, h, hw, Bool.not_true, Bool.false_eq_true, if_false, if_true, State.flashDone]

theorem flashCommit_failed {d : Dirty} {rest : List Dirty} (hc : s.coreRuns = true) (h : s.dirty = d :: rest) (hw : d.waiter = .none) :
    flashCopyCommit false s = ({ s with dirty := rest } : State).supplyEvent 0xFE 9 := by
  unfold flashCopyCommit
  simp only [hc, h, hw, Bool.not_true, Bool.false_eq_true, if_false, State.flashDone]

theorem flashCommit_none (h : s.coreRuns = false ∨ s.dirty = []) (w : Bool) : flashCopyCommit w s = s := by
  unfold flashCopyCommit
  rcases h with h | h
  · simp [h]
  · simp [h]

theorem hifEvent_flash (n : Nat) : (s.hifEvent n).flash = s.flash ∧ (s.hifEvent n).dirty = s.dirty := by
  unfold State.hifEvent State.raiseVector
  dsimp only
  split
  · split <;> exact ⟨rfl, rfl⟩
  · exact ⟨rfl, rfl⟩

theorem supplyEvent_flash (rail code : Nat) : (s.supplyEvent rail code).flash = s.flash ∧ (s.supplyEvent rail code).dirty = s.dirty :=
  hifEvent_flash ..

/-! ## The line buffer (R560 to R562) -/

theorem fillLines_room {now : Nat} {x : LbLine} {lines : List LbLine} (h : lines.length < 8) : fillLines now x lines = x :: lines := if_pos h

theorem fillLines_full {now : Nat} {x old : LbLine} {a b : List LbLine} (h : 8 ≤ (a ++ old :: b).length)
    (hnd : ((a ++ old :: b).map LbLine.line).Nodup) (ho : old.line ≠ now) (hb : ∀ y ∈ b, y.line = now) :
    fillLines now x (a ++ old :: b) = x :: (a ++ b) := by
  have hfind : (a ++ old :: b).reverse.find? (fun x => !decide (x.line = now)) = some old := by
    rw [List.reverse_append, List.reverse_cons, List.append_assoc, List.find?_append, List.find?_eq_none.2, Option.none_or, List.singleton_append,
      List.find?_cons_of_pos (by simpa using ho)]
    intro y hy
    simpa using hb y (List.mem_reverse.1 hy)
  have hna : old ∉ a := by
    rw [List.map_append, List.nodup_append] at hnd
    exact fun hm => hnd.2.2 _ (List.mem_map_of_mem hm) _ (List.mem_map_of_mem List.mem_cons_self) rfl
  unfold fillLines
  rw [if_neg (Nat.not_lt.2 h), hfind]
  dsimp only
  rw [List.erase_append_right _ hna, List.erase_cons_head]

theorem passWithin_getD_elt (s : State) (n : Nat) : ((s.passWithin n).getD s).elt = s.elt ∧ ((s.passWithin n).getD s).blocks = s.blocks := by
  unfold State.passWithin State.advanceTo
  split
  · split
    · exact ⟨rfl, rfl⟩
    · exact ⟨rfl, rfl⟩
  · exact ⟨rfl, rfl⟩

theorem hasLine_iff (e : Elt) (n : Nat) : e.hasLine n = true ↔ ∃ x ∈ e.lines, x.line = n := by
  unfold Elt.hasLine
  rw [List.any_eq_true]
  exact exists_congr fun x => and_congr_right fun _ => decide_eq_true_iff

theorem mayFill_demand {n : Nat} (h : s.missing = none ∨ s.missing = some n) : s.mayFill n true = true := by
  unfold State.mayFill
  rcases h with h | h <;> simp [h]

theorem mayFill_other {n m : Nat} (d : Bool) (h : s.missing = some m) (hne : m ≠ n) : s.mayFill n d = false := by
  unfold State.mayFill
  simpa [h] using fun _ => hne

/-- A demand fill of a line that is not there. -/
theorem lineBufferFill_demand {n : BitVec 23} (hx : s.boot.xip = true) (hl : l.length = 32) (hn : s.elt.hasLine n.toNat = false)
    (hm : s.mayFill n.toNat true = true) :
    (lineBufferFill n true l s).elt.lines = fillLines (flashLine (s.blk mgmtCore).core.pc.toNat) ⟨n.toNat, l, false⟩ s.elt.lines ∧
    (lineBufferFill n true l s).elt.misses = satN s.elt.misses ∧ (lineBufferFill n true l s).blocks = s.blocks := by
  obtain ⟨he, hb⟩ := passWithin_getD_elt s ((75 + s.boot.dummy.toNat) * s.perAcy)
  unfold lineBufferFill
  dsimp only
  rw [hx, hn, hm, padTo_of_length hl]
  generalize (s.passWithin ((75 + s.boot.dummy.toNat) * s.perAcy)).getD s = u at he hb ⊢
  refine ⟨?_, ?_, hb⟩
  · rw [← he]
    rfl
  · rw [← he]
    rfl

theorem lineBufferFill_none {n : BitVec 23} (l : List Byte) (d : Bool) (h : s.boot.xip = false ∨ s.elt.hasLine n.toNat = true ∨ s.mayFill n.toNat d = false) :
    lineBufferFill n d l s = s := by
  unfold lineBufferFill
  dsimp only
  rw [if_pos]
  rcases h with h | h | h <;> simp [h]

end Sys2Proof.Machine

/-- Settles O58: the answer of a request is one mailbox entry, and a fill of the line buffer is one step of `fillLines`. -/
theorem deferredService : Obligations.DeferredService := by
  intro s p e
  refine ⟨fun r rest h hs hc => ⟨fun hw hn => ?_, fun hw hv => ?_⟩, fun h => congrArg Host.Outcome.next (served_none h), fun r rest h => ?_, fun h => ?_,
    fun m rest h ha => ⟨?_, fun g hg => ?_⟩, fun d rest hc h hw => ⟨?_, ?_⟩, fun h w => congrArg Host.Outcome.next (flashCommit_none h w),
    fun n l hx hl hn hm => ?_, fun n l d h => congrArg Host.Outcome.next (lineBufferFill_none l d ?_)⟩
  · have hix : ¬(r.index.toNat = 0x9010 ∧ r.sub.toNat = 1) := fun k => hn ⟨BitVec.eq_of_toNat_eq k.1, BitVec.eq_of_toNat_eq k.2⟩
    have he := served_eq h hs hc (by rw [hw]; exact serveDeferred_read r.data .elette .elette (some 2) hix)
    exact ⟨_, congrArg Host.Outcome.next he, mailResult_elt h ..⟩
  · have he := served_eq h hs hc (by rw [hw]; exact serveDeferred_bad .elette .elette (some 2) hv)
    obtain ⟨hreq, hbox⟩ := mailResult_elt h .value []
    exact ⟨_, congrArg Host.Outcome.next he, hreq, hbox, mailResult_keeps ..⟩
  · obtain ⟨d, he⟩ := timeout_eq h
    exact ⟨_, congrArg Host.Outcome.next he, mailResult_elt (s := { s with dirty := d }) h ..⟩
  · refine congrArg Host.Outcome.next ?_
    have h' : s.elt.requests = [] := h
    unfold deferredRequestTimeout
    simp only [h']
  · exact ⟨_, mailRemove_eq m.tag ha, (removeMail_mailbox h m.tag).trans (if_pos rfl), rfl⟩
  · exact ⟨_, mailRemove_eq g ha, (removeMail_mailbox h g).trans (if_neg fun k => hg k.symm)⟩
  · exact ⟨_, congrArg Host.Outcome.next (flashCommit_written hc h hw), rfl, look_store_same .., fun k hk => look_store_apart _ _ _ _ hk⟩
  · obtain ⟨hfl, hdi⟩ := supplyEvent_flash (s := { s with dirty := rest }) 0xFE 9
    exact ⟨_, congrArg Host.Outcome.next (flashCommit_failed hc h hw), hdi, hfl, raiseThermal_raised ..⟩
  · have hhas : s.elt.hasLine n.toNat = false := by
      rw [← Bool.not_eq_true, hasLine_iff]
      rintro ⟨x, hmem, hx⟩
      exact hn x hmem hx
    obtain ⟨hlines, hmiss, hblk⟩ := lineBufferFill_demand hx hl hhas (mayFill_demand hm)
    refine ⟨_, rfl, fun hlt => hlines.trans (fillLines_room hlt), fun a old b hab hge hnd hold hb => hlines.trans ?_, hmiss, hblk⟩
    rw [show s.elt.lines = a ++ old :: b from hab]
    rw [hab] at hge hnd
    exact fillLines_full hge hnd hold hb
  · rcases h with h | h | ⟨m, h, hne⟩
    · exact .inl h
    · exact .inr (.inl ((hasLine_iff ..).2 h))
    · exact .inr (.inr (mayFill_other d h hne))
end

/-! # The custodian unlock and the request objects: the proofs -/

section
open Sys2Proof Sys2Proof.Machine
namespace Sys2Proof.Machine
variable {s : State} {p : Path} {i sub n : Nat} {l : List Byte} {o : Obj}

/-! ## Writes from a row -/

theorem rowWrite_served (hck : s.dictCheck p true i sub false (fun t => t.fits n) = .ok) (hd : isDeferred i sub = true) (hv : s.valueOk i sub l = true)
    (hi : ¬(i = 0x9010 ∧ sub = 2)) (hf : isFlash i sub = false) : s.rowAccess p true i sub n l =
      { (s.dictEvent (pathCode p) i sub l).objWrite p (pathCode p) i sub l with dictOut := (0, []) } := by
  have hserve : s.serveDeferred p (some (pathCode p)) true i sub n l .none = (s.dictApply p (some (pathCode p)) i sub l .none, some (.ok, [])) := by
    unfold State.serveDeferred
    simp [hv, hi, hf]
  rw [rowAccess_some ((dictAccess_served hck hd).trans hserve), okCode]
  unfold State.dictApply
  rw [hf]
  rfl

/-- A write that passes every check, of an object that is not held in flash, makes its event and takes effect. -/
theorem rowWrite_effect (hck : s.dictCheck p true i sub false (fun t => t.fits n) = .ok) (hv : s.valueOk i sub l = true)
    (hr : ¬(i = 0x9010 ∧ sub = 2)) (hf : isFlash i sub = false) : s.rowAccess p true i sub n l =
      { (s.dictEvent (pathCode p) i sub l).objWrite p (pathCode p) i sub l with dictOut := (0, []) } := by
  cases hd : isDeferred i sub
  · exact rowWrite_plain hck hd hv hf
  · exact rowWrite_served hck hd hv hr hf

/-- A write of an object held in flash has its copy rewritten. -/
theorem rowWrite_flash (hck : s.dictCheck p true i sub false (fun t => t.fits n) = .ok) (hd : isDeferred i sub = true) (hv : s.valueOk i sub l = true)
    (hi : i ≠ 0x9010) (hf : isFlash i sub = true) : s.rowAccess p true i sub n l =
      { s.dictApply p (some (pathCode p)) i sub l .none with dictOut := (0, []) } := by
  refine rowAccess_none ((dictAccess_served hck hd).trans ?_)
  unfold State.serveDeferred
  simp [hv, hi, hf]

theorem rowAccess_bad {write : Bool} {st : DStat} (hck : s.dictCheck p write i sub false (fun t => t.fits n) = st) (hne : st ≠ .ok) (hi : i ≠ 0x3011) :
    s.rowAccess p write i sub n l = { s with dictOut := (st.code p, []) } := by
  rw [rowAccess_some (dictAccess_refused hck hne), noteRefused_of_ne hi]

theorem rowWrite_value (hck : s.dictCheck p true i sub false (fun t => t.fits n) = .ok) (hv : s.valueOk i sub l = false) (hi : i ≠ 0x3011) :
    s.rowAccess p true i sub n l = { s with dictOut := (DStat.code .value p, []) } := by
  cases hd : isDeferred i sub
  · rw [rowAccess_some (dictAccess_value hck hd hv), noteRefused_of_ne hi]
  · exact rowAccess_some ((dictAccess_served hck hd).trans (serveDeferred_bad _ _ _ hv))

/-- A row that is refused changes nothing but the status that it leaves. -/
def RowRefused (s : State) (p : Path) (c : Instr) (st : DStat) : Prop := exec c s = .next { s with dictOut := (st.code p, []) }

theorem RowRefused.bad {c : Instr} {st : DStat} (h : RowRefused s p c st) : ∃ t, exec c s = .next t ∧
    t.dictOut.1 = (if p = .elette then st.elette.setWidth 16 else st.host) ∧ t.supply = s.supply ∧ t.boot = s.boot ∧ t.keys = s.keys ∧
    t.ports = s.ports ∧ t.restricted = s.restricted := ⟨_, h, rfl, rfl, rfl, rfl, rfl, rfl⟩

/-! ## The unit of an object -/

theorem available_of {w : Bool} (hf : o.fastDomain = true → s.fastUp = true) (hd : o.deferred = true → s.coreRuns = true)
    (hb : s.boot.st ≠ .recovery ∨ i / 4096 = 8) (hi : i ≠ 0x3011) (hc : i = 0x9010 → sub = 1 → w = true ∨ s.lockedOut p = false) :
    s.available p w i sub o = true := by
  have h1 : (!o.fastDomain || s.fastUp) = true := by
    cases ho : o.fastDomain
    · rfl
    · rw [hf ho]
      rfl
  have h2 : (!o.deferred || s.coreRuns) = true := by
    cases ho : o.deferred
    · rfl
    · rw [hd ho]
      rfl
  have h3 : (decide (s.boot.st ≠ .recovery) || decide (i / 4096 = 1 ∨ i / 4096 = 8)) = true := by
    rcases hb with hb | hb <;> simp [hb]
  have h4 : (decide (i = 0x9010 ∧ sub = 1) && !w && s.lockedOut p) = false := by
    by_cases hk : i = 0x9010 ∧ sub = 1
    · rcases hc hk.1 hk.2 with hw | hw <;> simp [hw]
    · simp [hk]
  unfold State.available
  rw [h1, h2, h3, h4]
  simp [hi]

theorem not_recovery_of_coreRuns (h : s.coreRuns = true) : s.boot.st ≠ .recovery := by
  intro hb
  rw [State.coreRuns, hb] at h
  cases h

theorem not_inRom_of_coreRuns (h : s.coreRuns = true) : s.boot.st.inRom = false := by
  unfold State.coreRuns at h
  cases hb : s.boot.st <;> simp_all [BootSt.inRom]

theorem authNeeded_of_ne (h : i ≠ 0x9020) : s.authNeeded p i sub o = o.auth := by
  unfold State.authNeeded
  rw [if_neg fun k => h k.1]

/-! ## The unlock of a path (R615 to R620) -/

/-- An unlock that a verified response leaves. -/
def Unlock.opened (e : Nat) : Unlock := ⟨none, some e, 0, none, 0⟩

theorem unlockOf_modUnlock (s : State) (p : Path) (f : Unlock → Unlock) : (s.modUnlock p f).unlockOf p = f (s.unlockOf p) := look_put_same ..

theorem unlockOf_dictEvent (s : State) (path i sub : Nat) (l : List Byte) (p : Path) : (s.dictEvent path i sub l).unlockOf p = s.unlockOf p := rfl

theorem unlockOf_leaseEvent (s : State) (q : Path) (code : Nat) (p : Path) : (s.leaseEvent q code).unlockOf p = s.unlockOf p := rfl

theorem unlock_check {w : Bool} {ot : OTy} {acc : Acc} {df : Bool} (hp : p ≠ .firmware) (ho : objInfo 0x9010 sub = some ⟨ot, acc, acc, .none, 0, df, false⟩)
    (hg : acc.grants w = true) (hf : ot.fits n = true) (hb : s.boot.st ≠ .recovery) (hc : df = true → s.coreRuns = true)
    (hk : sub = 1 → w = true ∨ s.lockedOut p = false) : s.dictCheck p w 0x9010 sub false (fun t => t.fits n) = .ok := by
  refine dictCheck_ok ho ?_ (available_of (fun k => by cases k) hc (.inl hb) (by decide) fun _ => hk) (fun _ => ?_) hf
  · cases p
    · exact hg
    · exact hg
    · exact absurd rfl hp
  · rw [authNeeded_of_ne (by decide)]
    exact Nat.zero_le _

theorem challenge_check (hp : p ≠ .firmware) (hc : s.coreRuns = true) (hl : s.lockedOut p = false) :
    s.dictCheck p false 0x9010 1 false (fun t => t.fits 32) = .ok :=
  unlock_check hp (ot := .octets 32 true) (acc := .r) rfl rfl rfl (not_recovery_of_coreRuns hc) (fun _ => hc) fun _ => .inr hl

theorem challenge_gives (hp : p ≠ .firmware) (hc : s.coreRuns = true) (hl : s.lockedOut p = false) :
    exec (.challenge p) s = .next { (s.newChallenge p).1 with dictOut := (0, (s.newChallenge p).2) } := by
  refine congrArg Host.Outcome.next ((rowAccess_some ((dictAccess_served (challenge_check hp hc hl) rfl).trans ?_)).trans (by rw [okCode]))
  unfold State.serveDeferred
  rw [if_neg (by decide), if_pos ⟨rfl, rfl⟩]

theorem challenge_locked (hl : s.lockedOut p = true) : RowRefused s p (.challenge p) .noAccess := by
  refine congrArg Host.Outcome.next (rowAccess_bad (dictCheck_noAccess (o := ⟨.octets 32 true, .r, .r, .none, 0, true, false⟩) rfl (.inr ?_)) (by decide)
    (by decide))
  simp [State.available, hl]

theorem newChallenge_keeps (s : State) (p : Path) :
    ((s.newChallenge p).1.unlockOf p).challenge = some ((s.newChallenge p).2, s.acy) ∧
    (s.newChallenge p).1.flashValue 0x903001 = (s.flashValue 0x903001 + 1) % 2 ^ 64 ∧
    ((s.newChallenge p).1.unlockOf p).lease = (s.unlockOf p).lease := by
  unfold State.newChallenge
  dsimp only
  rw [unlockOf_modUnlock]
  exact ⟨rfl, look_store_same .., rfl⟩

theorem response_check (hp : p ≠ .firmware) (hc : s.coreRuns = true) (hl : l.length = 66) :
    s.dictCheck p true 0x9010 2 false (fun t => t.fits l.length) = .ok := by
  rw [hl]
  exact unlock_check hp (ot := .octets 66 true) (acc := .w) rfl rfl rfl (not_recovery_of_coreRuns hc) (fun _ => hc) fun _ => .inl rfl

/-- A response is served. -/
theorem serveDeferred_response (s : State) (p : Path) (l : List Byte) (w : Waiter) {u : State} {st : DStat} (h : s.serveResponse p (pathCode p) l = (u, st)) :
    s.serveDeferred p (some (pathCode p)) true 0x9010 2 n l w =
      if st = .ok then (u.dictEvent (pathCode p) 0x9010 2 l, some (.ok, [])) else (u, some (st, [])) := by
  have hv : s.valueOk 0x9010 2 l = true := rfl
  unfold State.serveDeferred
  rw [if_pos rfl, hv, if_neg (by decide), if_pos ⟨rfl, rfl⟩]
  simp only [Option.getD_some, h]
  cases st <;> rfl

theorem modUnlock_rejected (s : State) (p : Path) (c : Nat) : (s.responseFailed p c).unlockOf p = { s.unlockOf p with
    challenge := none, run := (s.unlockOf p).run + 1, rejected := c
    lockout := if 8 ≤ (s.unlockOf p).run + 1 then some (s.acy + 60 * acyPerS) else (s.unlockOf p).lockout } := by
  unfold State.responseFailed
  exact unlockOf_modUnlock _ p _

theorem responseFailed_counter (s : State) (p : Path) (c : Nat) :
    (s.responseFailed p c).counter 0x9030 2 = min (s.counter 0x9030 2 + 1) (2 ^ 64 - 1) := bump_counter _ 0x9030 2 1

/-- A failed response changes the unlock and its counter alone. -/
theorem responseFailed_keeps (s : State) (p : Path) (c : Nat) : (s.responseFailed p c).supply = s.supply ∧ (s.responseFailed p c).boot = s.boot ∧
    (s.responseFailed p c).keys = s.keys ∧ (s.responseFailed p c).ports = s.ports ∧ (s.responseFailed p c).restricted = s.restricted :=
  ⟨rfl, rfl, rfl, rfl, rfl⟩

theorem rowResponse (hck : s.dictCheck p true 0x9010 2 false (fun t => t.fits l.length) = .ok) {u : State} {st : DStat}
    (h : s.serveResponse p (pathCode p) l = (u, st)) : exec (.response p l) s =
      .next (if st = .ok then { u.dictEvent (pathCode p) 0x9010 2 l with dictOut := (0, []) } else { u with dictOut := (st.code p, []) }) := by
  refine congrArg Host.Outcome.next ?_
  have hs := (dictAccess_served (event := some (pathCode p)) (l := l) (ecc := .ok) (wt := .none) hck rfl).trans (serveDeferred_response s p l .none h)
  split at hs
  · next hok => rw [if_pos hok, rowAccess_some hs, okCode]
  · next hno => rw [if_neg hno, rowAccess_some hs]

theorem authority_of_leased (h : s.leased p = true) : s.authority p = 2 := by
  cases p
  case firmware => rfl
  all_goals exact if_pos h

section
variable (hp : p ≠ .firmware) (hc : s.coreRuns = true) (hl : l.length = 66) {c : List Byte}
include hp hc hl

theorem response_unasked (hv : s.validChallenge p = none) :
    exec (.response p l) s = .next { s.responseFailed p 5 with dictOut := (DStat.code .value p, []) } := by
  refine (rowResponse (response_check hp hc hl) (u := s.responseFailed p 5) (st := .value) ?_).trans rfl
  unfold State.serveResponse
  simp only [hv]

variable (hv : s.validChallenge p = some c) (h1 : 1 ≤ leAt l 0 2) (h2 : leAt l 0 2 ≤ 3600)
include hv h1 h2

theorem response_wrong (hk : ¬∃ k ∈ s.keys, Config.ed25519 k.2 (responseMessage p (l.take 2) c) (l.drop 2) = true) :
    exec (.response p l) s = .next { s.responseFailed p 4 with dictOut := (DStat.code .value p, []) } := by
  refine (rowResponse (response_check hp hc hl) (u := s.responseFailed p 4) (st := .value) ?_).trans rfl
  have hwhole : (l.drop 2).take 64 = l.drop 2 := List.take_of_length_le (by rw [List.length_drop, hl])
  have hnone : (s.keys.any fun k => Config.ed25519 k.2 (responseMessage p (l.take 2) c) (l.drop 2)) = false := by
    rw [Bool.eq_false_iff, Ne, List.any_eq_true]
    exact hk
  unfold State.serveResponse
  simp only [hv, hwhole, hnone]
  rw [if_neg (by omega)]
  rfl

theorem response_right (hk : ∃ k ∈ s.keys, Config.ed25519 k.2 (responseMessage p (l.take 2) c) (l.drop 2) = true) :
    exec (.response p l) s = .next { ((s.modUnlock p fun _ => Unlock.opened (s.acy + leAt l 0 2 * acyPerS)).leaseEvent p (pathCode p)).dictEvent
      (pathCode p) 0x9010 2 l with dictOut := (0, []) } := by
  refine (rowResponse (response_check hp hc hl) (st := .ok)
    (u := (s.modUnlock p fun _ => Unlock.opened (s.acy + leAt l 0 2 * acyPerS)).leaseEvent p (pathCode p)) ?_).trans rfl
  have hwhole : (l.drop 2).take 64 = l.drop 2 := List.take_of_length_le (by rw [List.length_drop, hl])
  have hany : (s.keys.any fun k => Config.ed25519 k.2 (responseMessage p (l.take 2) c) (l.drop 2)) = true := List.any_eq_true.mpr hk
  unfold State.serveResponse
  simp only [hv, hwhole, hany]
  rw [if_neg (by omega)]
  rfl

end

theorem leased_of_lease {e : Nat} (h : (s.unlockOf p).lease = some e) (hlt : s.acy < e) : s.leased p = true := by
  unfold State.leased
  rw [h]
  exact decide_eq_true hlt

/-! ## The end of a lease and of a lockout -/

theorem endLease_lease (s : State) (p : Path) (c : Nat) : ((s.endLease p c).unlockOf p).lease = none := by
  unfold State.endLease
  split
  · rw [unlockOf_leaseEvent, unlockOf_modUnlock]
  · next h => exact Option.not_isSome_iff_eq_none.mp h

theorem passWithin_unlockOf {t : State} (h : s.passWithin n = some t) : t.unlockOf p = s.unlockOf p := by
  unfold State.passWithin State.advanceTo at h
  split at h
  · split at h
    · rw [← Option.some.inj h]
      rfl
    · cases h
  · rw [← Option.some.inj h]
    rfl

theorem leaseExpiry_ends {e : Nat} (hu : (s.unlockOf p).lease = some e) (h : s.toAcy e ≠ none) : ((leaseExpiry p s).unlockOf p).lease = none := by
  obtain ⟨t, ht⟩ := Option.ne_none_iff_exists'.mp h
  unfold leaseExpiry
  simp only [hu, ht, endLease_lease]

theorem lockoutExpiry_ends {e : Nat} (hu : (s.unlockOf p).lockout = some e) (h : s.toAcy e ≠ none) :
    ((lockoutExpiry p s).unlockOf p).lockout = none := by
  obtain ⟨t, ht⟩ := Option.ne_none_iff_exists'.mp h
  unfold lockoutExpiry
  simp only [hu, ht, unlockOf_modUnlock]

theorem leaseEnd_check (hp : p ≠ .firmware) (hb : s.boot.st ≠ .recovery) : s.dictCheck p true 0x9010 4 false (fun t => t.fits 1) = .ok :=
  unlock_check hp (ot := request) (acc := .w) rfl rfl rfl hb (fun h => by cases h) fun h => by cases h

theorem leaseEndRequest_ends (hp : p ≠ .firmware) (hb : s.boot.st ≠ .recovery) : exec (.leaseEndRequest p 1) s =
    .next { (s.dictEvent (pathCode p) 0x9010 4 [1]).endLease p (pathCode p) with dictOut := (0, []) } :=
  congrArg Host.Outcome.next (rowWrite_effect (leaseEnd_check hp hb) rfl (by decide) rfl)

theorem request_admits (v : Byte) : request.admits [v] = decide (v = 1) := by
  revert v
  decide

theorem leaseEndRequest_refused (hp : p ≠ .firmware) (hb : s.boot.st ≠ .recovery) {v : Byte} (hv : v ≠ 1) :
    RowRefused s p (.leaseEndRequest p v) .value := by
  refine congrArg Host.Outcome.next (rowWrite_value (leaseEnd_check hp hb) ?_ (by decide))
  rw [valueOk_eq (o := ⟨request, .w, .w, .none, 0, false, false⟩) rfl, request_admits, decide_eq_false hv]
  rfl

/-! ## The keys of the custodian (R593, R609) -/

theorem key_object : ∀ k : BitVec 2, objInfo 0x9020 (k.toNat + 1) = some (rw2 (.octets 32 true) 2).later := by
  decide

theorem key_flash : ∀ k : BitVec 2, isFlash 0x9020 (k.toNat + 1) = true := by
  decide

section
variable (hc : s.coreRuns = true) {k : BitVec 2} {key : List Byte} (hl : key.length = 32)
include hc

theorem key_available : s.available p true 0x9020 (k.toNat + 1) (rw2 (.octets 32 true) 2).later = true :=
  available_of (fun h => by cases h) (fun _ => hc) (.inl (not_recovery_of_coreRuns hc)) (by decide) fun h => absurd h (by decide)

theorem keyWrite_noAuthority (hp : p ≠ .elette) (ha : s.authority p < 2) (hpr : s.provisioned = true) :
    RowRefused s p (.custodianKeyWrite p k key) .authority := by
  refine congrArg Host.Outcome.next (rowAccess_bad (dictCheck_authority (key_object k) ?_ (key_available hc) ?_) (by decide) (by decide))
  · cases p
    case elette => exact absurd rfl hp
    all_goals rfl
  · rw [State.authNeeded, if_neg fun h => by simp [hpr] at h]
    exact ha

include hl

theorem keyWrite_takes (hp : p ≠ .elette) (ha : s.authNeeded p 0x9020 (k.toNat + 1) (rw2 (.octets 32 true) 2).later ≤ s.authority p) :
    exec (.custodianKeyWrite p k key) s =
      .next { s.dictApply p (some (pathCode p)) 0x9020 (k.toNat + 1) key .none with dictOut := (0, []) } := by
  have hck : s.dictCheck p true 0x9020 (k.toNat + 1) false (fun t => t.fits key.length) = .ok := by
    refine dictCheck_ok (key_object k) ?_ (key_available hc) (fun _ => ha) (by rw [hl]; rfl)
    cases p
    case elette => exact absurd rfl hp
    all_goals rfl
  have hd : isDeferred 0x9020 (k.toNat + 1) = true := isDeferred_eq (key_object k)
  have hv : s.valueOk 0x9020 (k.toNat + 1) key = true := valueOk_eq (key_object k)
  exact congrArg Host.Outcome.next (rowWrite_flash hck hd hv (by decide) (key_flash k))

end

theorem keyWrite_keeps (s : State) (p : Path) (c : Nat) (k : BitVec 2) (key : List Byte) :
    look (List.replicate 32 0) (s.dictApply p (some c) 0x9020 (k.toNat + 1) key .none).keys k.toNat = key ∧
    (s.dictApply p (some c) 0x9020 (k.toNat + 1) key .none).dirty = s.dirty ++ [⟨0x902001 + k.toNat, leNat key, .none⟩] := by
  have hw : ∀ t : State, t.objWrite p c 0x9020 (k.toNat + 1) key = { t with keys := store (List.replicate 32 0) t.keys k.toNat key } := fun t => by
    unfold State.objWrite
    rfl
  unfold State.dictApply
  simp only [key_flash, Option.getD_some, hw, if_true]
  refine ⟨look_store_same .., ?_⟩
  rw [show 256 * 0x9020 + (k.toNat + 1) = 0x902001 + k.toNat by omega]
  rfl

theorem keyWrite_elette (k : BitVec 2) (key : List Byte) : RowRefused s .elette (.custodianKeyWrite .elette k key) .noAccess :=
  congrArg Host.Outcome.next (rowAccess_bad (dictCheck_noAccess (key_object k) (.inl rfl)) (by decide) (by decide))

/-! ## The requests (R602, R651, R652, R707, R712) -/

/-- A write of one byte to an object that every path may write, with the authority that it needs and a value that it takes. -/
theorem requestWrite {v : Byte} (ho : objInfo i sub = some o) (hg : (o.acc p).grants true = true) (hv : s.available p true i sub o = true)
    (hi : i ≠ 0x9020) (ha : o.auth ≤ s.authority p) (hs : o.ty.fits 1 = true) (hok : s.valueOk i sub [v] = true) (hr : ¬(i = 0x9010 ∧ sub = 2))
    (hf : isFlash i sub = false) : s.rowAccess p true i sub 1 [v] =
      { (s.dictEvent (pathCode p) i sub [v]).objWrite p (pathCode p) i sub [v] with dictOut := (0, []) } :=
  rowWrite_effect (dictCheck_ok ho hg hv (fun _ => (authNeeded_of_ne hi).trans_le ha) hs) hok hr hf

theorem requestWrite_value {v : Byte} (ho : objInfo i sub = some o) (hg : (o.acc p).grants true = true) (hv : s.available p true i sub o = true)
    (hi : i ≠ 0x9020) (ha : o.auth ≤ s.authority p) (hs : o.ty.fits 1 = true) (hok : s.valueOk i sub [v] = false) (hr : i ≠ 0x3011) :
    s.rowAccess p true i sub 1 [v] = { s with dictOut := (DStat.code .value p, []) } :=
  rowWrite_value (dictCheck_ok ho hg hv (fun _ => (authNeeded_of_ne hi).trans_le ha) hs) hok hr

theorem requestWrite_authority {v : Byte} (ho : objInfo i sub = some o) (hg : (o.acc p).grants true = true) (hv : s.available p true i sub o = true)
    (hi : i ≠ 0x9020) (ha : s.authority p < o.auth) (hr : i ≠ 0x3011) : s.rowAccess p true i sub 1 [v] = { s with dictOut := (DStat.code .authority p, []) } :=
  rowAccess_bad (dictCheck_authority ho hg hv (ha.trans_eq (authNeeded_of_ne hi).symm)) (by decide) hr

theorem deferred_available (hc : s.coreRuns = true) (ho : o.fastDomain = false) (hi : i ≠ 0x3011) (hk : i ≠ 0x9010) : s.available p true i sub o = true :=
  available_of (fun h => by rw [ho] at h; cases h) (fun _ => hc) (.inl (not_recovery_of_coreRuns hc)) hi fun h => absurd h hk

section
variable (hc : s.coreRuns = true) (ha : 1 ≤ s.authority p)
include hc ha

theorem stateRequest_takes {v : Byte} (hok : s.valueOk 0x2000 5 [v] = true) : exec (.deviceStateRequest p v) s = .next
    { (s.dictEvent (pathCode p) 0x2000 5 [v]).objWrite p (pathCode p) 0x2000 5 [v] with dictOut := (0, []) } :=
  congrArg Host.Outcome.next (requestWrite (o := (wo (.nat 1 1 2) 1).later) rfl (by cases p <;> rfl)
    (deferred_available hc rfl (by decide) (by decide)) (by decide) ha rfl hok (by decide) rfl)

theorem stateRequest_refused {v : Byte} (hok : s.valueOk 0x2000 5 [v] = false) : RowRefused s p (.deviceStateRequest p v) .value :=
  congrArg Host.Outcome.next (requestWrite_value (o := (wo (.nat 1 1 2) 1).later) rfl (by cases p <;> rfl)
    (deferred_available hc rfl (by decide) (by decide)) (by decide) ha rfl hok (by decide))

theorem fastRequest_takes : exec (.fastResetRequest (some p) 1) s = .next
    { (s.dictEvent (pathCode p) 0x2210 1 [1]).askReset srcFast with dictOut := (0, []) } :=
  congrArg Host.Outcome.next (requestWrite (o := (wo request 1).later) rfl (by cases p <;> rfl)
    (deferred_available hc rfl (by decide) (by decide)) (by decide) ha rfl rfl (by decide) rfl)

end

theorem standby_ok : s.valueOk 0x2000 5 [2] = (s.fastUp && decide (s.plan.code < 3)) := rfl

theorem run_ok : s.valueOk 0x2000 5 [1] = !s.thermal.trip := rfl

theorem clearRequest_takes (hc : s.coreRuns = true) (ha : 2 ≤ s.authority p) : exec (.retentionClearRequest (some p) 1) s = .next
    { (s.dictEvent (pathCode p) 0x2210 2 [1]).askReset srcClear with dictOut := (0, []) } :=
  congrArg Host.Outcome.next (requestWrite (o := (wo request 2).later) rfl (by cases p <;> rfl)
    (deferred_available hc rfl (by decide) (by decide)) (by decide) ha rfl rfl (by decide) rfl)

theorem clearRequest_refused (hc : s.coreRuns = true) (ha : s.authority p < 2) : RowRefused s p (.retentionClearRequest (some p) 1) .authority :=
  congrArg Host.Outcome.next (requestWrite_authority (o := (wo request 2).later) rfl (by cases p <;> rfl)
    (deferred_available hc rfl (by decide) (by decide)) (by decide) ha (by decide))

theorem askReset_due (s : State) (src : Nat) : src ∈ (s.askReset src).supply.due := (mem_insertNat _ _ _).mpr (.inl rfl)

/-- The cleared fast domain falls to STANDBY. -/
theorem standby_aon (s : State) : (s.fastCleared.startDown.toStandby).noteBp.aon = { s.aon with
    plan := .empty, dies := [], supply := { s.supply with pwr := .down 4 }
    boot := { s.boot with loaded := none, st := if s.boot.st.inRom then s.boot.st else .standby } } := by
  rw [noteBp_aon, State.toStandby, modBoot_aon, State.startDown, State.setPwr, modSup_aon, fastCleared_aon]
  rfl

theorem goStandby_aon (s : State) : s.goStandby.aon = { s.aon with
    plan := .empty, dies := [], supply := { s.supply with pwr := .down 4 }
    boot := { s.boot with loaded := none, st := if s.boot.st.inRom then s.boot.st else .standby } } := by
  have hd : ∀ f, ((s.portsHeld.disarmNow.clearHif 2).modHif f).aon = s.aon := fun f => by
    rw [modHif_aon, clearHif_aon, disarmNow_aon, portsHeld_aon]
  unfold State.goStandby
  dsimp only
  rw [standby_aon, hd, supply_of_aon (hd _), boot_of_aon (hd _)]
  rfl

theorem goStandby_keeps (h : s.boot.st.inRom = false) : s.goStandby.fastUp = false ∧ s.goStandby.plan = .empty ∧ s.goStandby.boot.st = .standby := by
  have ha := goStandby_aon s
  refine ⟨decide_eq_false fun hu => ?_, plan_of_aon ha, ?_⟩
  · rw [supply_of_aon ha] at hu
    cases hu.1
  · rw [boot_of_aon ha, h]
    rfl

theorem rstOverride_ok : s.valueOk 0x2240 2 [1] = s.supply.rstn.isSome := rfl

theorem restrictedOverride_ok : s.valueOk 0x8000 10 [1] = s.restricted := rfl

section
variable (hb : s.boot.st ≠ .recovery)
include hb

theorem override_available : s.available p true 0x2240 2 (rw3 .bool 2) = true :=
  available_of (fun h => by cases h) (fun h => by cases h) (.inl hb) (by decide) fun h => absurd h (by decide)

theorem rstOverride_takes (ha : 2 ≤ s.authority p) (hr : s.supply.rstn.isSome = true) : exec (.rstNOverride p 1) s = .next
    { (s.dictEvent (pathCode p) 0x2240 2 [1]).overrideRstn with dictOut := (0, []) } :=
  congrArg Host.Outcome.next (requestWrite (o := rw3 .bool 2) rfl (by cases p <;> rfl) (override_available hb) (by decide) ha rfl
    (rstOverride_ok.trans hr) (by decide) rfl)

theorem rstOverride_refused (ha : 2 ≤ s.authority p) (hr : s.supply.rstn = none) : RowRefused s p (.rstNOverride p 1) .value :=
  congrArg Host.Outcome.next (requestWrite_value (o := rw3 .bool 2) rfl (by cases p <;> rfl) (override_available hb) (by decide) ha rfl
    (rstOverride_ok.trans (by rw [hr]; rfl)) (by decide))

theorem rstOverride_noAuthority (ha : s.authority p < 2) : RowRefused s p (.rstNOverride p 1) .authority :=
  congrArg Host.Outcome.next (requestWrite_authority (o := rw3 .bool 2) rfl (by cases p <;> rfl) (override_available hb) (by decide) ha (by decide))

end

theorem overrideRstn_supply (s : State) : s.overrideRstn.supply.override = true ∧ srcRstn ∉ s.overrideRstn.supply.holders := by
  refine ⟨rfl, fun h => ?_⟩
  have h := (List.mem_filter.mp h).2
  simp at h

theorem restricted_available : s.available p true 0x8000 0x0A (rw3 request 2) = true :=
  available_of (fun h => by cases h) (fun h => by cases h) (.inr rfl) (by decide) fun h => absurd h (by decide)

theorem restrictedOverride_takes (ha : 2 ≤ s.authority p) (hr : s.restricted = true) : exec (.restrictedOverride p 1) s = .next
    { (s.dictEvent (pathCode p) 0x8000 10 [1]).applyOverride with dictOut := (0, []) } :=
  congrArg Host.Outcome.next (requestWrite (o := rw3 request 2) rfl (by cases p <;> rfl) restricted_available (by decide) ha rfl
    (restrictedOverride_ok.trans hr) (by decide) rfl)

theorem restrictedOverride_noAuthority (ha : s.authority p < 2) : RowRefused s p (.restrictedOverride p 1) .authority :=
  congrArg Host.Outcome.next (requestWrite_authority (o := rw3 request 2) rfl (by cases p <;> rfl) restricted_available (by decide) ha (by decide))

theorem applyOverride_keeps (s : State) : s.applyOverride.restricted = false ∧ s.applyOverride.override = true ∧ s.applyOverride.boot.st = .links :=
  ⟨rfl, rfl, rfl⟩

/-! ## The objects of a port (R424) -/

theorem align_object : ∀ q : PortId, objInfo (0x7000 + 16 * q.toNat) 0x16 = some (rw3 (.nat 1 0 0) 1).dagger := by
  decide

theorem port_index : ∀ q : PortId, isPortIndex (0x7000 + 16 * q.toNat) = true ∧ isFlash (0x7000 + 16 * q.toNat) 0x16 = false := by
  decide

theorem alignLoss_clears {q : PortId} (hf : s.fastUp = true) (hb : s.boot.st ≠ .recovery) (ha : 1 ≤ s.authority p) : exec (.alignLossClear p q 0) s =
    .next { (s.dictEvent (pathCode p) (0x7000 + 16 * q.toNat) 0x16 [0]).modPort q.toNat (fun x => { x with alignLoss := false }) with
      dictOut := (0, []) } := by
  have hq := q.isLt
  have hav : s.available p true (0x7000 + 16 * q.toNat) 0x16 (rw3 (.nat 1 0 0) 1).dagger = true :=
    available_of (fun _ => hf) (fun h => by cases h) (.inl hb) (by omega) fun h => absurd h (by omega)
  have hv : s.valueOk (0x7000 + 16 * q.toNat) 0x16 [0] = true := by
    rw [valueOk_eq (align_object q), State.valueFits]
    simp only [show ¬(0x7000 + 16 * q.toNat = 0x2240 ∧ 0x16 = 2) by omega, show ¬(0x7000 + 16 * q.toNat = 0x3011 ∧ 0x16 = 2) by omega,
      show ¬(0x7000 + 16 * q.toNat = 0x8000 ∧ 0x16 = 0x0A) by omega, show ¬(0x7000 + 16 * q.toNat = 0x2000 ∧ 0x16 = 5) by omega, if_false]
    rfl
  refine congrArg Host.Outcome.next ((requestWrite (align_object q) (by cases p <;> rfl) hav (by omega) ha rfl hv (by omega) (port_index q).2).trans ?_)
  unfold State.objWrite
  rw [if_pos (port_index q).1, show (0x7000 + 16 * q.toNat - 0x7000) / 16 = q.toNat by omega]
  rfl

theorem alignLoss_noAccess (q : PortId) (hf : s.fastUp = false) : RowRefused s p (.alignLossClear p q 0) .noAccess := by
  have hq := q.isLt
  refine congrArg Host.Outcome.next (rowAccess_bad (dictCheck_noAccess (align_object q) (.inr ?_)) (by decide) (by omega))
  unfold State.available
  rw [hf]
  rfl

/-! ## The clauses -/

theorem leased_of_opened {t : State} {e : Nat} (h : t.unlockOf p = Unlock.opened e) (hlt : t.acy < e) : (t.unlockOf p).lease = some e ∧
    (t.unlockOf p).challenge = none ∧ (t.unlockOf p).run = 0 ∧ t.leased p = true ∧ t.authority p = 2 := by
  have hl := leased_of_lease (congrArg Unlock.lease h) hlt
  exact ⟨congrArg Unlock.lease h, congrArg Unlock.challenge h, congrArg Unlock.run h, hl, authority_of_leased hl⟩

theorem opened_keeps (s : State) (p : Path) (e c : Nat) (l : List Byte) :
    (((s.modUnlock p fun _ => Unlock.opened e).leaseEvent p c).dictEvent c 0x9010 2 l).unlockOf p = Unlock.opened e ∧
    (((s.modUnlock p fun _ => Unlock.opened e).leaseEvent p c).dictEvent c 0x9010 2 l).acy = s.acy := by
  rw [unlockOf_dictEvent, unlockOf_leaseEvent, unlockOf_modUnlock]
  exact ⟨rfl, rfl⟩

theorem responseFailed_facts (s : State) (p : Path) (c : Nat) : ∃ t, s.responseFailed p c = t ∧ (t.unlockOf p).challenge = none ∧
    (t.unlockOf p).run = (s.unlockOf p).run + 1 ∧
    (¬8 ≤ (s.unlockOf p).run + 1 → (t.unlockOf p).lockout = (s.unlockOf p).lockout) ∧ (t.unlockOf p).lease = (s.unlockOf p).lease ∧
    (7 ≤ (s.unlockOf p).run → (t.unlockOf p).lockout = some (s.acy + 60 * 25000000)) ∧
    t.counter 0x9030 2 = min (s.counter 0x9030 2 + 1) (2 ^ 64 - 1) := by
  have hu := modUnlock_rejected s p c
  refine ⟨_, rfl, congrArg Unlock.challenge hu, congrArg Unlock.run hu, fun hr => ?_, (congrArg Unlock.lease hu).trans rfl, fun hr => ?_, responseFailed_counter s p c⟩
  · rw [hu]
    exact if_neg hr
  · rw [hu]
    exact if_pos (Nat.succ_le_succ hr)

theorem overrideRequest_clause {t : State} (h : exec (.rstNOverride p 1) s = .next { t.overrideRstn with dictOut := (0, []) }) :
    ∃ t, exec (.rstNOverride p 1) s = .next t ∧ t.dictOut.1 = 0 ∧ t.supply.override = true ∧ srcRstn ∉ t.supply.holders := by
  refine ⟨_, h, rfl, ?_⟩
  exact overrideRstn_supply t

theorem response_clause (hp : p ≠ .firmware) (hc : s.coreRuns = true) (hl : l.length = 66) {c : List Byte} (hv : s.validChallenge p = some c)
    (h1 : 1 ≤ leAt l 0 2) (h2 : leAt l 0 2 ≤ 3600) (hk : ∃ k ∈ s.keys, Config.ed25519 k.2 (responseMessage p (l.take 2) c) (l.drop 2) = true) :
    ∃ t, exec (.response p l) s = .next t ∧ t.dictOut.1 = 0 ∧ (t.unlockOf p).lease = some (s.acy + leAt l 0 2 * 25000000) ∧
      (t.unlockOf p).challenge = none ∧ (t.unlockOf p).run = 0 ∧ t.leased p = true ∧ t.authority p = 2 := by
  have hx := response_right hp hc hl hv h1 h2 hk
  obtain ⟨hu, hacy⟩ := opened_keeps s p (s.acy + leAt l 0 2 * acyPerS) (pathCode p) l
  generalize (State.leaseEvent _ _ _).dictEvent _ _ _ _ = t at hx hu hacy
  have hlt : t.acy < s.acy + leAt l 0 2 * acyPerS := hacy ▸ Nat.lt_add_of_pos_right (Nat.mul_pos h1 (by decide))
  exact ⟨_, hx, rfl, leased_of_opened hu hlt⟩

theorem wrongResponse_clause (hp : p ≠ .firmware) (hc : s.coreRuns = true) (hl : l.length = 66) {c : List Byte} (hv : s.validChallenge p = some c)
    (h1 : 1 ≤ leAt l 0 2) (h2 : leAt l 0 2 ≤ 3600) (hk : ¬∃ k ∈ s.keys, Config.ed25519 k.2 (responseMessage p (l.take 2) c) (l.drop 2) = true) :
    ∃ t, exec (.response p l) s = .next t ∧ (t.unlockOf p).challenge = none ∧ (t.unlockOf p).run = (s.unlockOf p).run + 1 ∧
      (t.unlockOf p).lease = (s.unlockOf p).lease ∧ (7 ≤ (s.unlockOf p).run → (t.unlockOf p).lockout = some (s.acy + 60 * 25000000)) ∧
      t.counter 0x9030 2 = min (s.counter 0x9030 2 + 1) (2 ^ 64 - 1) := by
  obtain ⟨t, ht, hcl, hrun, -, hle, hlo, hco⟩ := responseFailed_facts s p 4
  have hx := response_wrong hp hc hl hv h1 h2 hk
  rw [ht] at hx
  exact ⟨_, hx, hcl, hrun, hle, hlo, hco⟩

theorem unasked_clause (hp : p ≠ .firmware) (hc : s.coreRuns = true) (hl : l.length = 66) (hv : s.validChallenge p = none) :
    ∃ t, exec (.response p l) s = .next t ∧ t.dictOut.1 = (if p = .elette then 0x14 else 0x54) ∧ t.supply = s.supply ∧
      t.boot = s.boot ∧ t.keys = s.keys ∧ t.ports = s.ports ∧ t.restricted = s.restricted := by
  obtain ⟨t, ht⟩ : ∃ t, t = s.responseFailed p 5 := ⟨_, rfl⟩
  have hk := responseFailed_keeps s p 5
  have hx := response_unasked hp hc hl hv
  rw [← ht] at hk hx
  exact ⟨_, hx, rfl, hk⟩

theorem challenge_clause (hp : p ≠ .firmware) (hc : s.coreRuns = true) (hl : s.lockedOut p = false) :
    ∃ t, exec (.challenge p) s = .next t ∧ t.dictOut.1 = 0 ∧ (t.unlockOf p).challenge = some (t.dictOut.2, s.acy) ∧
        t.flashValue 0x903001 = (s.flashValue 0x903001 + 1) % 2 ^ 64 ∧ (t.unlockOf p).lease = (s.unlockOf p).lease := by
  have hk := newChallenge_keeps s p
  have hx := challenge_gives hp hc hl
  generalize s.newChallenge p = r at hk hx
  exact ⟨_, hx, rfl, hk⟩

theorem stateWrite_eq (s : State) (p : Path) (c : Nat) (l : List Byte) :
    s.objWrite p c 0x2000 5 l = if leNat l = 2 then s.goStandby else s.wakeUp := by
  unfold State.objWrite
  rfl

theorem standbyRequest_clause (hc : s.coreRuns = true) (ha : 1 ≤ s.authority p) (hf : s.fastUp = true) (hpl : s.plan ∈ [.empty, .loading, .loaded]) :
    ∃ t, exec (.deviceStateRequest p 2) s = .next t ∧ t.dictOut.1 = 0 ∧ t.fastUp = false ∧ t.plan = .empty ∧ t.boot.st = .standby := by
  have hok : s.valueOk 0x2000 5 [2] = true := by
    rw [standby_ok, hf]
    simp only [List.mem_cons, List.not_mem_nil, or_false] at hpl
    rcases hpl with h | h | h <;> rw [h] <;> rfl
  have hx := stateRequest_takes hc ha hok
  have hs := goStandby_keeps (s := s.dictEvent (pathCode p) 0x2000 5 [2]) (not_inRom_of_coreRuns hc)
  rw [show ∀ t : State, t.objWrite p (pathCode p) 0x2000 5 [2] = t.goStandby from fun t => (stateWrite_eq t p _ _).trans (if_pos rfl)] at hx
  generalize State.goStandby _ = t at hx hs
  exact ⟨_, hx, rfl, hs⟩

theorem standbyRefused_clause (hc : s.coreRuns = true) (ha : 1 ≤ s.authority p)
    (h : s.fastUp = false ∨ s.plan ∈ [.bound, .starting, .running, .stopping, .halted]) : RowRefused s p (.deviceStateRequest p 2) .value := by
  refine stateRequest_refused hc ha ?_
  rw [standby_ok]
  rcases h with h | h
  · rw [h]
    rfl
  · simp only [List.mem_cons, List.not_mem_nil, or_false] at h
    rcases h with h | h | h | h | h <;> rw [h] <;> exact Bool.and_false _

theorem runRequest_clause (hc : s.coreRuns = true) (ha : 1 ≤ s.authority p) (hst : s.boot.st = .standby) (ht : s.thermal.trip = false)
    (ho : s.supply.pwr = .off) (hb : s.boot.board.getLsbD 5 = true) :
    ∃ t, exec (.deviceStateRequest p 1) s = .next t ∧ t.dictOut.1 = 0 ∧ t.supply.pwr = .up 1 := by
  have hx := stateRequest_takes hc ha (v := 1) (by rw [run_ok, ht]; rfl)
  obtain ⟨q, a, hq, hup⟩ := wakeUp_supply (s.dictEvent (pathCode p) 0x2000 5 [1])
  rw [show ∀ t : State, t.objWrite p (pathCode p) 0x2000 5 [1] = t.wakeUp from fun t => (stateWrite_eq t p _ _).trans (if_neg (by decide))] at hx
  generalize State.wakeUp _ = t at hx hq
  exact ⟨_, hx, rfl, (congrArg Supply.pwr hq).trans (hup hst ht ho hb)⟩

theorem keyWrite_clause (hc : s.coreRuns = true) {k : BitVec 2} {key : List Byte} (hl : key.length = 32) (hp : p ≠ .elette)
    (ha : s.authNeeded p 0x9020 (k.toNat + 1) (rw2 (.octets 32 true) 2).later ≤ s.authority p) :
    ∃ t, exec (.custodianKeyWrite p k key) s = .next t ∧ t.dictOut.1 = 0 ∧ look (List.replicate 32 0) t.keys k.toNat = key ∧
        t.dirty = s.dirty ++ [⟨0x902001 + k.toNat, leNat key, .none⟩] := by
  have hx := keyWrite_takes hc hl hp ha
  have hk := keyWrite_keeps s p (pathCode p) k key
  generalize s.dictApply _ _ _ _ _ _ = t at hx hk
  exact ⟨_, hx, rfl, hk⟩

theorem alignLoss_clause {q : PortId} (hf : s.fastUp = true) (hb : s.boot.st ≠ .recovery) (ha : 1 ≤ s.authority p) :
    ∃ t, exec (.alignLossClear p q 0) s = .next t ∧ t.dictOut.1 = 0 ∧ (t.port q.toNat).alignLoss = false := by
  have hx := alignLoss_clears hf hb ha (q := q)
  generalize s.dictEvent _ _ _ _ = t at hx
  exact ⟨_, hx, rfl, congrArg DPort.alignLoss (look_put_same ..)⟩

end Sys2Proof.Machine

/-- Settles O59: each clause is one access of a row, whose checks pass or whose first failing check is named, and then the effect of its object. -/
theorem dictionaryRequests : Obligations.DictionaryRequests := by
  intro s p
  refine ⟨fun hp hc => ⟨challenge_clause hp hc, fun hl => (challenge_locked hl).bad, fun l hl =>
      ⟨fun c hv h1 h2 => ⟨response_clause hp hc hl hv h1 h2, wrongResponse_clause hp hc hl hv h1 h2⟩, unasked_clause hp hc hl⟩⟩,
    fun hp hb => ⟨⟨_, leaseEndRequest_ends hp hb, rfl, endLease_lease _ p _⟩, fun v hv => (leaseEndRequest_refused hp hb hv).bad⟩,
    fun e hu he => ⟨_, rfl, leaseExpiry_ends hu he⟩, fun hu => ?_, fun e hu he => ⟨_, rfl, lockoutExpiry_ends hu he⟩, fun hu => ?_,
    fun hc k key hl => ⟨fun hp ha => keyWrite_clause hc hl hp ?_, fun hp ha hpr => ?_, fun hp ha hpr => (keyWrite_noAuthority hc hp ha hpr).bad, fun hp => ?_⟩,
    fun hc ha => ⟨standbyRequest_clause hc ha, fun h => (standbyRefused_clause hc ha h).bad, runRequest_clause hc ha,
      ⟨_, fastRequest_takes hc ha, rfl, askReset_due _ _, rfl⟩⟩,
    fun hc ha => ⟨_, clearRequest_takes hc ha.ge, rfl, askReset_due _ _⟩, fun hc ha => (clearRequest_refused hc ha).bad,
    fun v => ⟨fun hv => ⟨_, congrArg Host.Outcome.next (if_pos hv), askReset_due _ _⟩,
      fun hv => ⟨congrArg Host.Outcome.next (if_neg (by rw [hv]; decide)), congrArg Host.Outcome.next (if_neg (by rw [hv]; decide))⟩,
      fun hv => ⟨_, congrArg Host.Outcome.next (if_pos hv), askReset_due _ _⟩⟩,
    fun hb => ⟨fun ha hr => overrideRequest_clause (rstOverride_takes hb ha.ge hr), fun ha hr => (rstOverride_refused hb ha.ge hr).bad,
      fun ha => (rstOverride_noAuthority hb ha).bad⟩,
    fun ha hr => ⟨_, restrictedOverride_takes ha.ge hr, rfl, applyOverride_keeps _⟩, fun ha => (restrictedOverride_noAuthority ha).bad,
    fun q hf hb ha => alignLoss_clause hf hb ha, fun q hf => (alignLoss_noAccess q hf).bad⟩
  · refine congrArg Host.Outcome.next ?_
    unfold leaseExpiry
    rw [hu]
  · refine congrArg Host.Outcome.next ?_
    unfold lockoutExpiry
    rw [hu]
  · refine le_trans ?_ ha.ge
    unfold State.authNeeded
    split
    · decide
    · exact Nat.le_refl _
  · obtain ⟨t, ht, h0, hk, -⟩ := keyWrite_clause (k := 0) hc hl hp (by
      rw [State.authNeeded, if_pos ⟨rfl, rfl, by simp [hpr], hp⟩]
      exact ha.ge)
    exact ⟨t, ht, h0, hk⟩
  · rw [hp]
    exact (keyWrite_elette k key).bad

end

/-! # BAR2 and the dictionary window: the proofs -/

section
open Sys2Proof Sys2Proof.Machine
namespace Sys2Proof.Machine
variable {s t : State} {o n : Nat} {l : List Byte} {ecc : Ecc}

/-! ## A range of one piece (R484, R485) -/

theorem mapReads_one {r : Reached} (hw : s.wayTo (deviceMap o) = true) (h : s.mapRead o n ecc = (t, r)) : s.mapReads ecc [(o, n)] = (t, r) := by
  unfold State.mapReads
  rw [hw, if_pos rfl, h]
  cases r
  · dsimp only [State.mapReads]
    rw [List.append_nil]
  · rfl

theorem mapReads_one_err {k : Nat} (h : s.mapRead o n ecc = (s, .err k)) : ∃ k, s.mapReads ecc [(o, n)] = (s, .err k) := by
  cases hw : s.wayTo (deviceMap o)
  · refine ⟨2, ?_⟩
    unfold State.mapReads
    rw [hw]
    rfl
  · exact ⟨k, mapReads_one hw h⟩

theorem mapWrites_one (hw : s.wayTo (deviceMap o) = true) {m : List Byte} (h : s.mapWrite o l ecc = (t, .ok m)) :
    s.mapWrites ecc l [(o, l.length)] = (t, .ok []) := by
  unfold State.mapWrites
  rw [hw, if_pos rfl, List.take_length, h]
  rfl

theorem mapWrites_one_err {k : Nat} (h : s.mapWrite o l ecc = (s, .err k)) : ∃ k, s.mapWrites ecc l [(o, l.length)] = (s, .err k) := by
  cases hw : s.wayTo (deviceMap o)
  · refine ⟨2, ?_⟩
    unfold State.mapWrites
    rw [hw]
    rfl
  · refine ⟨k, ?_⟩
    unfold State.mapWrites
    rw [hw, if_pos rfl, List.take_length, h]

section
variable {e : Edge} {a : Nat}

theorem mapRead_dead (hm : deviceMap o = .sram e a) (hd : s.dieWorks e = false) : s.mapRead o n ecc = (s, .err 2) := by
  unfold State.mapRead
  rw [hm]
  exact if_pos (by rw [hd]; rfl)

theorem mapWrite_dead (hm : deviceMap o = .sram e a) (hd : s.dieWorks e = false) : s.mapWrite o l ecc = (s, .err 2) := by
  unfold State.mapWrite
  rw [hm]
  exact if_neg (by rw [hd]; decide)

end

theorem mapRead_reserved (hm : deviceMap o = .reserved) : s.mapRead o n ecc = (s, .ok (List.replicate n 0)) := by
  unfold State.mapRead
  rw [hm]

section
variable {b : BlockId} {a : Nat} (hm : deviceMap o = .block b a) (hr : s.reachable b = true)
include hm hr

theorem mapRead_block (hi : inLs a n = true) (hp : (s.blk b).priv.lsBytes .m a n = true) : s.mapRead o n .ok = (s, .ok (mload (s.blk b).ls a n)) := by
  unfold State.mapRead State.blockRead
  rw [hm]
  dsimp only
  rw [hr, if_neg (by decide), if_pos hi, show (Who.foot .m).ctx = .m from rfl, hp]
  rfl

theorem mapWrite_block (hi : inLs a l.length = true) (hp : (s.blk b).priv.lsBytes .m a l.length = true) (ha : a % 8 = 0) (hl : l.length % 8 = 0) :
    s.mapWrite o l .ok = (s.lsStore b a l, .ok []) := by
  unfold State.mapWrite State.blockWrite
  rw [hm]
  dsimp only
  rw [hr, if_neg (by decide), if_pos hi, show (Who.foot .m).ctx = .m from rfl, hp, if_neg (by decide), if_pos ⟨ha, hl⟩]

end

/-! ## BAR2 (R485, R515, R517, R518) -/

section
variable {off : BitVec 34} (hb : s.barsUp = true)
include hb

theorem bar2Write_lost {via : Direct} (h : viaEcc via (pieces off.toNat l.length) = none) : exec (.bar2Write off ⟨l, via⟩) s = .next (s.directDrop via) := by
  refine congrArg Host.Outcome.next ((if_pos hb).trans ?_)
  unfold bar2Write
  dsimp only
  rw [h]

theorem bar2Read_lost {via : Direct} (h : viaEcc via (pieces off.toNat n) = none) :
    exec (.bar2Read off n via) s = .next (s.modHif fun h => { h with readOut := none }.aer aerAbort) := by
  refine congrArg Host.Outcome.next ((if_pos hb).trans ?_)
  unfold bar2Read
  dsimp only
  rw [h]

section
variable (hl : 0 < l.length) (hr : off.toNat % 0x8000 + l.length ≤ 0x8000)
include hl hr

theorem bar2Write_barred (h : s.writeBarred (deviceMap off.toNat) = true ∨ deviceMap off.toNat = .reserved) :
    exec (.bar2Write off ⟨l, .served ecc⟩) s = .next (s.directDrop (.served ecc)) := by
  refine congrArg Host.Outcome.next ((if_pos hb).trans ?_)
  unfold bar2Write
  simp only [pieces_one hl hr, viaEcc]
  exact if_pos (by simpa using h)

variable (hfree : s.writeBarred (deviceMap off.toNat) = false) (hres : deviceMap off.toNat ≠ .reserved)
include hfree hres

theorem bar2Write_done {m : List Byte} (hw : s.mapWrites ecc l [(off.toNat, l.length)] = (t, .ok m)) :
    exec (.bar2Write off ⟨l, .served ecc⟩) s = .next t := by
  refine congrArg Host.Outcome.next ((if_pos hb).trans ?_)
  unfold bar2Write
  simp only [pieces_one hl hr, viaEcc, hw]
  exact if_neg (by simp [hfree, hres])

theorem bar2Write_err {k : Nat} (hw : s.mapWrites ecc l [(off.toNat, l.length)] = (s, .err k)) :
    exec (.bar2Write off ⟨l, .served ecc⟩) s = .next (s.directDrop (.served ecc)) := by
  refine congrArg Host.Outcome.next ((if_pos hb).trans ?_)
  unfold bar2Write
  simp only [pieces_one hl hr, viaEcc, hw]
  exact if_neg (by simp [hfree, hres])

end

section
variable (hn : 0 < n) (hr : off.toNat % 0x8000 + n ≤ 0x8000)
include hn hr

theorem bar2Read_done {m : List Byte} (h : s.mapReads ecc [(off.toNat, n)] = (t, .ok m)) :
    exec (.bar2Read off n (.served ecc)) s = .next (t.modHif fun h => { h with readOut := some m }) := by
  refine congrArg Host.Outcome.next ((if_pos hb).trans ?_)
  unfold bar2Read
  simp only [pieces_one hn hr, viaEcc, h]

theorem bar2Read_err {k : Nat} (h : s.mapReads ecc [(off.toNat, n)] = (s, .err k)) :
    exec (.bar2Read off n (.served ecc)) s = .next (s.modHif fun h => { h with readOut := none }.aer aerAbort) := by
  refine congrArg Host.Outcome.next ((if_pos hb).trans ?_)
  unfold bar2Read
  simp only [pieces_one hn hr, viaEcc, h]

end

end

theorem writeBarred_sram {e : Edge} {a : Nat} (hm : deviceMap o = .sram e a) : s.writeBarred (deviceMap o) = decide (a < s.edgeAssigned e) := by
  rw [hm]
  rfl

/-- Local store is never barred. -/
theorem writeBarred_ls {b : BlockId} {a : Nat} (hm : deviceMap o = .block b a) (hi : inLs a n = true) : s.writeBarred (deviceMap o) = false := by
  have ha : ¬0x300000 ≤ a := by
    have h := (Bool.and_eq_true_iff.mp hi).2
    have h := of_decide_eq_true h
    omega
  rw [hm]
  exact (congrArg (s.planMoves && ·) (decide_eq_false ha)).trans (Bool.and_false _)

/-! ## The dictionary window (R482, R606, R608) -/

/-- The state in which a request of the window reaches the dictionary. -/
def State.opened (s : State) (req rsp : W64) : State := { s with hif := { s.hif with dictReq := req, dictRsp := rsp } }

section
variable (req rsp : W64) (p : Path) (i sub : Nat)

theorem fixedValue_opened : (s.opened req rsp).fixedValue p i sub = s.fixedValue p i sub := rfl

theorem objValue_opened : (s.opened req rsp).objValue p i sub = s.objValue p i sub := by
  have hport : ∀ n, (s.opened req rsp).port n = s.port n := fun _ => rfl
  have hsink : ∀ e, (s.opened req rsp).sink e = s.sink e := fun _ => rfl
  have hring : ∀ e, (s.opened req rsp).ringPlace e = s.ringPlace e := fun _ => rfl
  unfold State.objValue
  simp only [fixedValue_opened, hport, hsink, hring]
  rfl

theorem objString_opened : (s.opened req rsp).objString p i sub = s.objString p i sub := rfl

/-- The window's own registers are no part of any object. -/
theorem objBytes_opened (n : Nat) : (s.opened req rsp).objBytes p i sub n = s.objBytes p i sub n := by
  unfold State.objBytes
  simp only [objValue_opened, objString_opened]

theorem dictCheck_opened (w fast : Bool) (fits : OTy → Bool) :
    (s.opened req rsp).dictCheck p w i sub fast fits = s.dictCheck p w i sub fast fits := rfl

theorem valueOk_opened (l : List Byte) : (s.opened req rsp).valueOk i sub l = s.valueOk i sub l := rfl

end

theorem padTo_length (n : Nat) (l : List Byte) (h : l.length ≤ n) : (padTo n l).length = n := by
  rw [padTo, List.length_append, List.length_replicate, Nat.add_sub_cancel' h]

theorem dictCheck_fits {p : Path} {w : Bool} {i sub : Nat} {fits : OTy → Bool} (h : s.dictCheck p w i sub false fits = .ok) :
    ∃ o, objInfo i sub = some o ∧ fits o.ty = true := by
  cases ho : objInfo i sub with
  | none => rw [dictCheck_none ho] at h; cases h
  | some o =>
    refine ⟨o, rfl, ?_⟩
    cases hf : fits o.ty
    · unfold State.dictCheck at h
      simp only [ho, hf, Bool.false_and, Bool.false_eq_true, if_false, Bool.not_false, if_true] at h
      split at h
      · cases h
      · split at h <;> cases h
    · rfl

/-- The bytes of an object whose length fits are as many as were asked for. -/
theorem objBytes_length {p : Path} {w : Bool} {i sub : Nat} (h : s.dictCheck p w i sub false (fun t => t.fits n) = .ok) :
    (s.objBytes p i sub n).length = n := by
  obtain ⟨o, ho, hf⟩ := dictCheck_fits h
  have hstr : ∀ m, (padTo n ((s.objString p i sub).take (min n m))).length = n := fun m =>
    padTo_length _ _ ((List.length_take_le ..).trans (Nat.min_le_left ..))
  have hnum : o.ty.stringy = false → o.ty.size = n := fun hs => by
    rw [OTy.fits, hs] at hf
    exact (of_decide_eq_true hf).symm
  unfold State.objBytes
  rw [ho]
  obtain ⟨ty, e, h, f, auth, df, fd⟩ := o
  cases ty
  case octets => exact hstr _
  case text => exact hstr _
  all_goals exact (leBytes_length _ _).trans (hnum rfl)

theorem fastRead_ok (p : Path) {i sub : Nat} (h : ¬(i = 0x5010 ∧ sub = 2)) : ∃ u : State, u.hif = s.hif ∧
    s.fastRead p i sub n .ok = (u, .ok, s.objBytes p i sub n) := by
  refine ⟨if i = 0x2000 ∧ sub = 3 then s.useFree else s, ?_, ?_⟩
  · split <;> rfl
  · unfold State.fastRead
    exact if_neg h

theorem dictAccess_read {p : Path} {i sub : Nat} {event : Option Nat} {wt : Waiter} (h : s.dictCheck p false i sub false (fun t => t.fits n) = .ok)
    (hd : isDeferred i sub = false) (hx : ¬(i = 0x5010 ∧ sub = 2)) : ∃ u : State, u.hif = s.hif ∧
    s.dictAccess p event false i sub n l .ok wt = (u, some (.ok, s.objBytes p i sub n)) := by
  obtain ⟨u, hu, hr⟩ := fastRead_ok (s := s) (n := n) p hx
  refine ⟨u, hu, ?_⟩
  unfold State.dictAccess
  simp only [h, hd, hr, ne_eq, not_true_eq_false, if_false, Bool.false_eq_true]

theorem objWrite_traceSetting {sub : Nat} (p : Path) (c : Nat) (h : sub ∈ [1, 2, 3, 4]) (l : List Byte) :
    s.objWrite p c 0x6001 sub l = s.setSetting 0x6001 sub (leNat l) := by
  simp only [List.mem_cons, List.not_mem_nil, or_false] at h
  rcases h with rfl | rfl | rfl | rfl <;> rfl

theorem dictAccess_traceSetting {sub c : Nat} {wt : Waiter} (h : sub ∈ [1, 2, 3, 4])
    (hk : s.dictCheck .host true 0x6001 sub false (fun t => t.fits n) = .ok) (hv : s.valueOk 0x6001 sub l = true) :
    s.dictAccess .host (some c) true 0x6001 sub n l ecc wt = ((s.dictEvent c 0x6001 sub l).setSetting 0x6001 sub (leNat l), some (.ok, [])) := by
  have hw : s.dictApply .host (some c) 0x6001 sub l wt = (s.dictEvent c 0x6001 sub l).objWrite .host c 0x6001 sub l := by
    unfold State.dictApply
    rw [(traceSetting_plain h).2]
    rfl
  rw [dictAccess_applied hk (traceSetting_plain h).1 hv, hw, objWrite_traceSetting .host c h]

/-! ### The bits of a request -/

theorem req_op1 {req : W64} (h : req.extractLsb' 24 2 = 1) : req.getLsbD 25 = false := by
  have hb := congrArg (fun x => x.getLsbD 1) h
  simpa using hb

theorem req_op2 {req : W64} (h : req.extractLsb' 24 2 = 2) : req.getLsbD 25 = true := by
  have hb := congrArg (fun x => x.getLsbD 1) h
  simpa using hb

theorem req_kept {req : W64} (h : req &&& reqReserved = 0) : req &&& ~~~reqReserved = req := by
  refine BitVec.eq_of_getLsbD_eq fun i hi => ?_
  have hb : (req.getLsbD i && reqReserved.getLsbD i) = false := by
    rw [← BitVec.getLsbD_and, h]
    exact BitVec.getLsbD_zero
  rw [BitVec.getLsbD_and, BitVec.getLsbD_not, decide_eq_true hi, Bool.true_and]
  rcases Bool.and_eq_false_iff.mp hb with hb | hb <;> rw [hb]
  · rfl
  · exact Bool.and_true _

/-! ### The window -/

section
variable {req : W64} (hb : s.barsUp = true) (hbusy : s.hif.windowBusy = false)
include hb hbusy

theorem window_idle (h : req.getLsbD 63 = false) :
    exec (.dictWindowAccess req ecc) s = .next (s.modHif fun h => { h with dictReq := req &&& ~~~reqReserved }) := by
  refine congrArg Host.Outcome.next ?_
  unfold dictWindowAccess
  rw [if_neg (by simp [hb, hbusy]), if_pos (by rw [h]; rfl)]

theorem window_opens (h : req.getLsbD 63 = true) (hres : req &&& reqReserved = 0) (hn : 0 < (req.extractLsb' 32 13).toNat)
    (hm : (req.extractLsb' 32 13).toNat ≤ 4096) (hop : req.extractLsb' 24 2 = 1 ∨ req.extractLsb' 24 2 = 2) :
    exec (.dictWindowAccess req ecc) s = .next ((s.opened req (s.hif.dictRsp &&& ~~~(1#64 <<< 63))).windowAccess req ecc) := by
  have ho : ¬((req.extractLsb' 24 2).toNat = 0 ∨ (req.extractLsb' 24 2).toNat = 3) := by
    rcases hop with hop | hop <;> rw [hop] <;> decide
  refine congrArg Host.Outcome.next ?_
  unfold dictWindowAccess
  rw [if_neg (by simp [hb, hbusy]), if_neg (by simp [h])]
  dsimp only
  rw [if_neg ho, if_neg (by omega), if_neg (not_not.mpr hres), req_kept hres]
  rfl

end

theorem windowAccess_some {req : W64} {st : DStat} {d : List Byte} (h : s.dictAccess .host (some 1) (req.getLsbD 25) (req.extractLsb' 0 16).toNat
    (req.extractLsb' 16 8).toNat (req.extractLsb' 32 13).toNat (mload s.hif.dictData 0 (req.extractLsb' 32 13).toNat) ecc .window = (t, some (st, d)))
    (hb : t.barsUp = true) : s.windowAccess req ecc = t.endWindow st d := by
  unfold State.windowAccess
  simp only [h, hb, if_true]

theorem windowRsp_ok {n : Nat} (h : n ≤ 4096) : (windowRsp 0 n).toNat = 2 ^ 63 + 2 ^ 32 * n := by
  unfold windowRsp
  rw [BitVec.toNat_ofNat]
  simp
  omega

theorem endWindow_rsp (l : List Byte) (hr : (s.hif.dictReq.extractLsb' 32 13).toNat = n) (hn : n ≤ 4096) :
    (s.endWindow .ok l).hif.dictRsp.toNat = 2 ^ 63 + 2 ^ 32 * n := by
  rw [← hr] at hn ⊢
  exact windowRsp_ok hn

theorem endWindow_noObject (s : State) : (s.endWindow .noObject []).hif.dictReq = s.hif.dictReq ∧
    (s.endWindow .noObject []).hif.dictRsp = 0x8000000000000050 := by
  have hrsp : windowRsp 0x50 0 = 0x8000000000000050 := by decide
  unfold State.endWindow
  exact ⟨by dsimp only [State.modHif], (congrArg (windowRsp _) (if_neg (by decide))).trans hrsp⟩

theorem endWindow_setting (s : State) (st : DStat) (l : List Byte) (i sub : Nat) : (s.endWindow st l).setting i sub = s.setting i sub := by
  have h : ∀ f, (s.modHif f).setting i sub = s.setting i sub := fun _ => rfl
  exact h _

theorem endWindow_data {l : List Byte} (h : l.length = n) : mload (s.endWindow .ok l).hif.dictData 0 n = l := by
  rw [← h]
  exact mload_mstore_same ..

section
variable {req rsp : W64}

theorem windowAccess_none (hb : s.barsUp = true) (ho : objInfo (req.extractLsb' 0 16).toNat (req.extractLsb' 16 8).toNat = none) :
    (s.opened req rsp).windowAccess req ecc = (s.opened req rsp).endWindow .noObject [] := by
  refine windowAccess_some ?_ hb
  rw [dictAccess_refused (dictCheck_none ho) (by decide), noteRefused_noObject]

variable {i sub : Nat} (hi : (req.extractLsb' 0 16).toNat = i) (hs : (req.extractLsb' 16 8).toNat = sub) (hl : (req.extractLsb' 32 13).toNat = n)
  (hb : s.barsUp = true) (hn : n ≤ 4096)
include hi hs hl hb hn

theorem windowAccess_reads (hop : req.getLsbD 25 = false) (hk : s.dictCheck .host false i sub false (fun t => t.fits n) = .ok)
    (hd : isDeferred i sub = false) (hx : ¬(i = 0x5010 ∧ sub = 2)) : ∃ t, (s.opened req rsp).windowAccess req .ok = t ∧
    t.hif.dictRsp.toNat = 2 ^ 63 + 2 ^ 32 * n ∧ mload t.hif.dictData 0 n = s.objBytes .host i sub n := by
  subst hi hs hl
  obtain ⟨u, hu, hr⟩ := dictAccess_read (s := s.opened req rsp) (l := mload (s.opened req rsp).hif.dictData 0 (req.extractLsb' 32 13).toNat)
    (event := some 1) (wt := .window) ((dictCheck_opened ..).trans hk) hd hx
  rw [objBytes_opened] at hr
  have hup : u.barsUp = true := by
    unfold State.barsUp
    rw [hu]
    exact hb
  refine ⟨_, windowAccess_some (by rw [hop]; exact hr) hup, endWindow_rsp _ ?_ hn, endWindow_data (objBytes_length hk)⟩
  rw [hu]
  rfl

theorem windowAccess_sets (hop : req.getLsbD 25 = true) (hi : i = 0x6001) (hm : sub ∈ [1, 2, 3, 4])
    (hk : s.dictCheck .host true i sub false (fun t => t.fits n) = .ok) (hv : s.valueOk i sub (mload s.hif.dictData 0 n) = true) :
    ∃ t, (s.opened req rsp).windowAccess req .ok = t ∧ t.hif.dictRsp.toNat = 2 ^ 63 + 2 ^ 32 * n ∧
      t.setting i sub = leNat (mload s.hif.dictData 0 n) := by
  subst hi
  have ha := dictAccess_traceSetting (s := s.opened req rsp) (ecc := .ok) (c := 1) (wt := .window) hm ((dictCheck_opened ..).trans hk)
    ((valueOk_opened ..).trans hv)
  obtain ⟨u, hu⟩ : ∃ u, u = ((s.opened req rsp).dictEvent 1 0x6001 sub (mload s.hif.dictData 0 n)).setSetting 0x6001 sub
    (leNat (mload s.hif.dictData 0 n)) := ⟨_, rfl⟩
  have hhif : u.hif = { s.hif with dictReq := req, dictRsp := rsp } := by rw [hu]; rfl
  have hset : u.setting 0x6001 sub = leNat (mload s.hif.dictData 0 n) := by rw [hu, setSetting_setting]
  have hup : u.barsUp = true := by
    unfold State.barsUp
    rw [hhif]
    exact hb
  refine ⟨u.endWindow .ok [], windowAccess_some ?_ hup, endWindow_rsp _ ?_ hn, (endWindow_setting ..).trans hset⟩
  · rw [hop, hi, hs, hl, hu]
    exact ha
  · rw [hhif]
    exact hl

end

/-! ## Local store and edge SRAM through BAR2 -/

section
variable {off : BitVec 34} {a : Nat} (hb : s.barsUp = true) (hl : 0 < l.length) (hr : off.toNat % 0x8000 + l.length ≤ 0x8000)
include hb hl hr

theorem bar2Write_sram {e : Edge} (hm : deviceMap off.toNat = .sram e a) (hd : s.dieWorks e = true) (hw : s.wayTo (.sram e a) = true)
    (ha : s.edgeAssigned e ≤ a) : ∃ t, exec (.bar2Write off ⟨l, .served .ok⟩) s = .next t ∧ mload (t.edgeDie e).sram a l.length = l ∧
      (∀ k, k < a ∨ a + l.length ≤ k → mget (t.edgeDie e).sram k = mget (s.edgeDie e).sram k) ∧ t.blocks = s.blocks ∧ t.hif = s.hif := by
  have hfree : s.writeBarred (deviceMap off.toNat) = false := (writeBarred_sram hm).trans (decide_eq_false (Nat.not_lt.mpr ha))
  have hx := bar2Write_done hb hl hr hfree (by rw [hm]; exact Place6.noConfusion) (mapWrites_sram hm hd hw rfl)
  have hsram := congrArg EdgeDie.sram (edgeDie_modEdge_same (s := s) e fun d => { d with sram := mstore d.sram a l })
  refine ⟨_, hx, ?_, fun k hk => ?_, ?_⟩
  · rw [hsram]
    exact mload_mstore_same ..
  · rw [hsram]
    exact mget_mstore_out _ _ _ hk
  · cases e <;> exact ⟨rfl, rfl⟩

theorem bar2Write_block {b : BlockId} (hm : deviceMap off.toNat = .block b a) (hre : s.reachable b = true) (hw : s.wayTo (.block b a) = true)
    (hi : inLs a l.length = true) (hp : (s.blk b).priv.lsBytes .m a l.length = true) (ha : a % 8 = 0) (h8 : l.length % 8 = 0) :
    ∃ t, exec (.bar2Write off ⟨l, .served .ok⟩) s = .next t ∧ mload (t.blk b).ls a l.length = l ∧
      (∀ k, k < a ∨ a + l.length ≤ k → mget (t.blk b).ls k = mget (s.blk b).ls k) ∧ ∀ c, c ≠ b → t.blk c = s.blk c := by
  have hx := bar2Write_done hb hl hr (writeBarred_ls hm hi) (by rw [hm]; exact Place6.noConfusion)
    (mapWrites_one (by rw [hm]; exact hw) (mapWrite_block hm hre hi hp ha h8))
  have hls : ((s.lsStore b a l).blk b).ls = mstore (s.blk b).ls a l := by simp [State.lsStore]
  refine ⟨_, hx, ?_, fun k hk => ?_, fun c hc => ?_⟩
  · rw [hls]
    exact mload_mstore_same ..
  · rw [hls]
    exact mget_mstore_out _ _ _ hk
  · exact blk_modBlk_ne s _ hc

end

end Sys2Proof.Machine

/-- Settles O42: an access is one piece of the map, which a lemma per place says to be served, dropped or aborted; the window opens and reads or writes
one object. -/
theorem barAccesses : Obligations.BarAccesses := by
  intro s off l n hb hl hn hrl hrn
  refine ⟨fun e a hm hd hw => ⟨bar2Write_sram hb hl hrl hm hd hw, fun ha => ?_, ?_⟩, fun e a hm hd => ⟨?_, ?_⟩, fun he => ⟨?_, ?_⟩,
    bar2Write_lost hb rfl, fun b a hm hr hw hi hin hp hpn ha h8 => ⟨bar2Write_block hb hl hrl hm hr hw hi hp ha h8, ?_⟩, fun hm => ⟨?_, ?_⟩,
    fun req hbusy => ⟨window_idle hb hbusy, fun h hres h0 h1 => ⟨fun hop ho => ?_, fun hop hk hd hx => ?_, fun hop hi hs hk hv => ?_⟩⟩⟩
  · exact bar2Write_barred hb hl hrl (.inl ((writeBarred_sram hm).trans (decide_eq_true ha)))
  · exact bar2Read_done hb hn hrn (mapReads_sram hm hd hw)
  · cases hbar : s.writeBarred (deviceMap off.toNat)
    · obtain ⟨k, hk⟩ := mapWrites_one_err (l := l) (mapWrite_dead (ecc := .ok) hm hd)
      exact bar2Write_err hb hl hrl hbar (by rw [hm]; exact Place6.noConfusion) hk
    · exact bar2Write_barred hb hl hrl (.inl hbar)
  · obtain ⟨k, hk⟩ := mapReads_one_err (n := n) (mapRead_dead (ecc := .ok) hm hd)
    exact bar2Read_err hb hn hrn hk
  · exact bar2Write_lost hb (by rw [pieces_one hl hrl]; simp [viaEcc, he])
  · exact bar2Read_lost hb (by rw [pieces_one hn hrn]; simp [viaEcc, he])
  · exact bar2Read_done hb hn hrn (mapReads_one (by rw [hm]; exact hw) (mapRead_block hm hr hin hpn))
  · exact bar2Write_barred hb hl hrl (.inr hm)
  · exact bar2Read_done hb hn hrn (mapReads_one (by rw [hm]; rfl) (mapRead_reserved hm))
  · have hx := windowAccess_none (ecc := .ok) (rsp := s.hif.dictRsp &&& ~~~(1#64 <<< 63)) hb ho
    exact ⟨_, (window_opens hb hbusy h hres h0 h1 hop).trans (congrArg Host.Outcome.next hx), endWindow_noObject _⟩
  · obtain ⟨t, ht, hrsp, hdata⟩ := windowAccess_reads (rsp := s.hif.dictRsp &&& ~~~(1#64 <<< 63)) rfl rfl rfl hb h1 (req_op1 hop) hk hd hx
    exact ⟨t, (window_opens hb hbusy h hres h0 h1 (.inl hop)).trans (congrArg Host.Outcome.next ht), hrsp, hdata⟩
  · obtain ⟨t, ht, hrsp, hset⟩ := windowAccess_sets (rsp := s.hif.dictRsp &&& ~~~(1#64 <<< 63)) rfl rfl rfl hb h1 (req_op2 hop) hi hs hk hv
    exact ⟨t, (window_opens hb hbusy h hres h0 h1 (.inr hop)).trans (congrArg Host.Outcome.next ht), hrsp, hset⟩

end

/-! # Trace: the proofs -/

section
open Sys2Proof Sys2Proof.Machine
namespace Sys2Proof.Machine
variable {s t : State} {b : BlockId} {e : Edge} {l : List Byte}

/-! ## The counts of packets (R774) -/

/-- Packets generated, stored and dropped. -/
def State.packetCounts (s : State) : Nat × Nat × Nat := (s.counter 0x6000 2, s.counter 0x6000 3, s.counter 0x6000 4)

/-- One packet more, modulo 2^64. -/
def oneMore (n : Nat) : Nat := (n + 1) % 2 ^ 64

theorem packetCounts_of_health (h : t.health = s.health) : t.packetCounts = s.packetCounts := by
  unfold State.packetCounts State.counter
  rw [h]

theorem packetCounts_modBlk (s : State) (b : BlockId) (f : Block → Block) : (s.modBlk b f).packetCounts = s.packetCounts := rfl

theorem packetCounts_generated (s : State) : (s.traceGenerated 1).packetCounts = (oneMore s.packetCounts.1, s.packetCounts.2.1, s.packetCounts.2.2) :=
  Prod.ext (look_store_same ..) (Prod.ext (look_store_ne _ _ _ (by decide)) (look_store_ne _ _ _ (by decide)))

theorem packetCounts_stored (s : State) : (s.traceStored).packetCounts = (s.packetCounts.1, oneMore s.packetCounts.2.1, s.packetCounts.2.2) :=
  Prod.ext (look_store_ne _ _ _ (by decide)) (Prod.ext (look_store_same ..) (look_store_ne _ _ _ (by decide)))

theorem packetCounts_dropped (s : State) : (s.traceDropped).packetCounts = (s.packetCounts.1, s.packetCounts.2.1, oneMore s.packetCounts.2.2) :=
  Prod.ext (look_store_ne _ _ _ (by decide)) (Prod.ext (look_store_ne _ _ _ (by decide)) (look_store_same ..))

/-! ## From the trace unit to the node (R793, R795, R796) -/

section
variable (p : TrcPacket)

theorem handPacket_takes (h : (s.blk b).trc.node.length < 4) : (s.handPacket b p).blk b = { s.blk b with
    trc := { (s.blk b).trc with packets := (s.blk b).trc.packets + 1, node := (s.blk b).trc.node ++ [p] } } ∧
    (s.handPacket b p).packetCounts = (oneMore s.packetCounts.1, s.packetCounts.2.1, s.packetCounts.2.2) := by
  unfold State.handPacket
  dsimp only
  rw [if_pos h, blk_modBlk_same]
  exact ⟨rfl, packetCounts_generated s⟩

theorem handPacket_drops (h : 4 ≤ (s.blk b).trc.node.length) :
    ((s.handPacket b p).blk b).trc.closed = (s.blk b).trc.closed ∧ ((s.handPacket b p).blk b).trc.node = (s.blk b).trc.node ∧
    ((s.handPacket b p).blk b).trc.drops = (s.blk b).trc.drops + 1 ∧ ((s.handPacket b p).blk b).trc.needSync = true ∧
    (s.handPacket b p).packetCounts = (oneMore s.packetCounts.1, s.packetCounts.2.1, oneMore s.packetCounts.2.2) := by
  have hd : ∀ u : State, u.traceDropped.blk b = u.blk b := fun _ => rfl
  unfold State.handPacket
  dsimp only
  rw [if_neg (Nat.not_lt.mpr h), hd, blk_modBlk_same]
  refine ⟨rfl, rfl, rfl, rfl, ?_⟩
  rw [packetCounts_dropped, packetCounts_modBlk, packetCounts_generated]

end

theorem tracePacketClose_eq {w : CloseWhy} {p : TrcPacket} {rest : List (CloseWhy × TrcPacket)} (h : (s.blk b).trc.closed = (w, p) :: rest) :
    tracePacketClose b w s = (s.modBlk b fun x => { x with trc := { x.trc with closed := rest } }).handPacket b p := by
  unfold tracePacketClose
  simp only [h, if_true]

/-- With no outcome gathered, the packet being formed closes alone. -/
theorem flushOutcomes_none (h : (s.blk b).trc.outcomes = []) : s.flushOutcomes b = s := by
  unfold State.flushOutcomes
  rw [h]

theorem closeAndHand_eq (hen : (s.blk b).trc.en = true) (ho : (s.blk b).trc.outcomes = []) (hf : (s.blk b).trc.form ≠ []) :
    ∃ u : State, s.closeAndHand b = u.handPacket b ⟨b, (s.blk b).trc.seq, (s.blk b).trc.form⟩ ∧
      u.blk b = { s.blk b with trc := { (s.blk b).trc with form := [], seq := (s.blk b).trc.seq + 1 } } := by
  have hc : s.traceClose b .full = s.modBlk b fun x => { x with trc := x.trc.close b .full } := by
    unfold State.traceClose
    rw [hen, flushOutcomes_none ho]
    rfl
  have ht : (s.blk b).trc.close b .full = { (s.blk b).trc with
      form := [], seq := (s.blk b).trc.seq + 1, closed := (s.blk b).trc.closed ++ [(.full, ⟨b, (s.blk b).trc.seq, (s.blk b).trc.form⟩)] } := if_neg hf
  unfold State.closeAndHand
  rw [hc]
  dsimp only
  rw [blk_modBlk_same, ht]
  simp only [List.getLast?_append, List.getLast?_singleton, Option.some_or]
  refine ⟨_, rfl, ?_⟩
  rw [blk_modBlk_same, blk_modBlk_same, ht]
  dsimp only
  rw [List.dropLast_concat]

theorem tracePacketTimeout_eq (hf : (s.blk b).trc.form ≠ []) (h : s.passWithin ((s.blk b).trc.formFrom + 4096 - s.ticks b) = some t) :
    tracePacketTimeout b s = t.closeAndHand b := by
  unfold tracePacketTimeout
  rw [if_neg hf, h]

/-! ## Records of the packet being formed (R784, R797, R798) -/

/-- A record that fits the packet being formed joins it. -/
theorem putRecord_joins {r : List Byte} (hf : (s.blk b).trc.form ≠ []) (hl : (s.blk b).trc.form.length + r.length ≤ 56) :
    ((s.putRecord b r).blk b).trc = { (s.blk b).trc with form := (s.blk b).trc.form ++ r, records := (s.blk b).trc.records + 1 } := by
  have hopen : s.openPacket b r.length = s.modBlk b fun x => { x with trc := (s.blk b).trc } := by
    unfold State.openPacket
    dsimp only
    rw [if_neg (Nat.not_lt.mpr hl), if_neg hf]
  unfold State.putRecord
  rw [hopen, blk_modBlk_same, blk_modBlk_same]

theorem TrcOnly.blkCycles (h : TrcOnly b s t) : t.blkCycles b = s.blkCycles b := by
  unfold State.blkCycles
  rw [h.only.ticks, h.core]

theorem TrcOnly.time64 (h : TrcOnly b s t) : t.time64 = s.time64 := by
  have k := congrArg (fun u : State => u.time64) h.only.1
  exact k

theorem traceSync_eq (ht : s.tracing b = true) (ho : (s.blk b).trc.outcomes = []) :
    s.traceSync b = (s.putRecord b (syncRecord s b)).setTimed b := by
  unfold State.traceSync
  rw [ht, flushOutcomes_none ho]
  rfl

theorem traceMark_eq {v : W64} (ht : s.tracing b = true) (ho : (s.blk b).trc.outcomes = []) (hon : s.traced b (s.blk b).priv.ctx = true)
    (hc : (s.blk b).trc.chanC = false) : s.traceMark b v = s.putRecord b ([0x0C] ++ leBytes 2 v.toNat) := by
  have hd : s.putDelta b = s := by
    unfold State.putDelta
    rw [hc]
    rfl
  unfold State.traceMark State.traceRecord
  rw [ht, hon, flushOutcomes_none ho, hd]
  rfl

theorem traceGts_eq (ht : s.tracing b = true) (ho : (s.blk b).trc.outcomes = []) : s.traceGts b = s.putGts b := by
  unfold State.traceGts
  rw [ht, flushOutcomes_none ho]
  rfl

theorem gts_eq (ht : s.tracing b = true) (h : s.passWithin (s.gtsLeft b) = some t) : gts b s = t.traceGts b := by
  unfold gts
  rw [ht, h]
  rfl

/-- Time passes a trace unit by. -/
theorem passWithin_tracing {n : Nat} (h : s.passWithin n = some t) (b : BlockId) : t.tracing b = s.tracing b := by
  have hb := (passWithin_getD_parts s n).2
  rw [h] at hb
  have hb : t.boot = s.boot := hb
  have hc : t.clocked b = s.clocked b := by
    unfold State.clocked State.pllOn
    rw [hb, passWithin_pll h]
  unfold State.tracing State.branchTicks
  rw [passWithin_blk h, hc]

theorem putGts_trc (hf : (s.blk b).trc.form ≠ []) (hl : (s.blk b).trc.form.length ≤ 43) : ((s.putGts b).blk b).trc = { (s.blk b).trc with
    form := (s.blk b).trc.form ++ gtsRecord s b, records := (s.blk b).trc.records + 1, lastTimed := s.blkCycles b, lastGts := s.blkCycles b } := by
  have hr : (gtsRecord s b).length = 13 := by simp [gtsRecord]
  unfold State.putGts
  rw [blk_modBlk_same]
  dsimp only
  rw [putRecord_joins hf (by omega)]

/-! ## Sinks (R799 to R802) -/

theorem setSink_keeps (s : State) (e : Edge) (k : Sink) : (s.setSink e k).trace.host = s.trace.host ∧ (s.setSink e k).health = s.health ∧
    (s.setSink e k).hostMem = s.hostMem ∧ (s.setSink e k).trace.hostAddr = s.trace.hostAddr ∧ (s.setSink e k).trace.hostLen = s.trace.hostLen ∧
    ∀ d, (s.setSink e k).edgeDie d = s.edgeDie d := by
  cases e <;> exact ⟨rfl, rfl, rfl, rfl, rfl, fun d => by cases d <;> rfl⟩

theorem stamped_length {seq : BitVec 32} (h : l.length = 64) : (stamped seq l).length = 64 := by
  simp [stamped, h]

theorem sinkEntry_ring (hh : s.trace.host = false) (hl : l.length = 64) :
    mload ((s.sinkEntry e l).edgeDie e).sram ((s.sink e).base + (s.sink e).woff) 64 = stamped (s.sink e).seq l ∧
    (∀ i, i < (s.sink e).base + (s.sink e).woff ∨ (s.sink e).base + (s.sink e).woff + 64 ≤ i →
      mget ((s.sinkEntry e l).edgeDie e).sram i = mget (s.edgeDie e).sram i) ∧
    (s.sinkEntry e l).sink e = { s.sink e with
      seq := (s.sink e).seq + 1, woff := ((s.sink e).woff + 64) % (s.sink e).size, held := min ((s.sink e).held + 1) ((s.sink e).size / 64) } ∧
    (s.sinkEntry e l).health = s.health := by
  have hlen := stamped_length (seq := (s.sink e).seq) hl
  have hs : ((s.sinkEntry e l).edgeDie e).sram = mstore (s.edgeDie e).sram ((s.sink e).base + (s.sink e).woff) (stamped (s.sink e).seq l) := by
    unfold State.sinkEntry
    dsimp only
    rw [hh, if_neg (by decide), (setSink_keeps ..).2.2.2.2.2, edgeDie_modEdge_same]
  refine ⟨?_, fun i hi => ?_, ?_, ?_⟩
  · rw [hs, ← hlen, mload_mstore_same]
  · rw [hs, mget_mstore_out _ _ _ (by rw [hlen]; exact hi)]
  · unfold State.sinkEntry
    dsimp only
    rw [hh, if_neg (by decide), sink_setSink]
  · unfold State.sinkEntry
    dsimp only
    rw [hh, if_neg (by decide), (setSink_keeps ..).2.1]
    cases e <;> rfl

theorem sinkEntry_host (hh : s.trace.host = true) (hl : l.length = 64) :
    mload (s.sinkEntry e l).hostMem (s.trace.hostAddr + 64 * (((s.sink e).seq.toNat - 1) % (s.trace.hostLen / 64))) 64 = stamped (s.sink e).seq l ∧
    (s.sinkEntry e l).sink e = { s.sink e with seq := (s.sink e).seq + 1 } ∧ (s.sinkEntry e l).health = s.health := by
  have hlen := stamped_length (seq := (s.sink e).seq) hl
  have he : s.sinkEntry e l = (s.hostWrite (s.trace.hostAddr + 64 * (((s.sink e).seq.toNat - 1) % (s.trace.hostLen / 64)))
      (stamped (s.sink e).seq l)).setSink e { s.sink e with seq := (s.sink e).seq + 1 } := by
    unfold State.sinkEntry
    dsimp only
    rw [hh, if_pos rfl]
  obtain ⟨-, hhealth, hmem, -⟩ := setSink_keeps (s.hostWrite (s.trace.hostAddr + 64 * (((s.sink e).seq.toNat - 1) % (s.trace.hostLen / 64)))
      (stamped (s.sink e).seq l)) e { s.sink e with seq := (s.sink e).seq + 1 }
  rw [← he] at hhealth hmem
  refine ⟨?_, by rw [he, sink_setSink], hhealth⟩
  rw [hmem, ← hlen]
  exact mload_mstore_same ..

theorem sinkMarker_none (h : (s.sink e).lost = 0) : s.sinkMarker e = s := by
  unfold State.sinkMarker
  dsimp only
  rw [h]
  rfl

section
variable {rest : List (List Byte)} (hb : (s.sink e).buf = l :: rest)
include hb

theorem sinkStore_waits {ok : Bool} (hw : s.sinkWaits = true) : sinkStore e ok s = s := by
  unfold sinkStore
  simp only [hb, hw, if_true]

/-- An entry that is stored, with no marker due. -/
theorem sinkStore_stores (hw : s.sinkWaits = false) (hl : (s.sink e).lost = 0) (ht : s.trace.host = true ∨ (s.sink e).takes s.trace.wrap = true) :
    sinkStore e true s = ((s.setSink e { s.sink e with buf := rest }).sinkEntry e l).traceStored := by
  have hm : (s.setSink e { s.sink e with buf := rest }).sinkMarker e = s.setSink e { s.sink e with buf := rest } :=
    sinkMarker_none (by rw [sink_setSink]; exact hl)
  unfold sinkStore
  simp only [hb, hw, Bool.false_eq_true, if_false, if_true, hm]
  rcases ht with ht | ht
  · rw [if_pos ht]
  · rw [if_pos ht, ite_self]

theorem sinkStore_drops (hh : s.trace.host = false) (ht : (s.sink e).takes s.trace.wrap = false) :
    sinkStore e true s = (s.setSink e { s.sink e with buf := rest }).sinkDrop e := by
  unfold sinkStore
  simp only [hb, State.sinkWaits, hh, ht, Bool.false_and, Bool.false_eq_true, if_false]

end

/-! ## The end of a disarming (R791) -/

/-- What an overflow marker leaves: the books, the counts of packets and the host's commands. -/
def State.booked (s : State) : Tab Ledger × (Nat × Nat × Nat) × List Cmd := (s.ledgers, s.packetCounts, s.hif.cmds)

theorem sinkEntry_booked (s : State) (e : Edge) (l : List Byte) : (s.sinkEntry e l).booked = s.booked := by
  unfold State.sinkEntry
  dsimp only
  split
  · rfl
  · cases e <;> rfl

theorem bump_booked (s : State) (e : Edge) : (s.bump (0x6010 + edgeIndex e) 3).booked = s.booked := by
  have hcounts : (s.bump (0x6010 + edgeIndex e) 3).packetCounts = s.packetCounts := by
    unfold State.packetCounts
    rw [bump_counter_ne, bump_counter_ne, bump_counter_ne] <;> omega
  have hother : (s.bump (0x6010 + edgeIndex e) 3).ledgers = s.ledgers ∧ (s.bump (0x6010 + edgeIndex e) 3).hif = s.hif := by
    unfold State.bump State.keepCounter
    dsimp only
    split <;> exact ⟨rfl, rfl⟩
  unfold State.booked
  rw [hcounts, hother.1, hother.2]

theorem sinkMarker_booked (s : State) (e : Edge) : (s.sinkMarker e).booked = s.booked := by
  have hset : ∀ (u : State) (k : Sink), (u.setSink e k).booked = u.booked := fun _ _ => rfl
  unfold State.sinkMarker
  dsimp only
  split
  · rfl
  · rw [bump_booked, hset, sinkEntry_booked]

theorem endDisarm_eq (s : State) : ∃ u : State, u.booked = s.booked ∧
    s.endDisarm = (u.modTrace fun t => { t with armed := false, disarming := false }).settleTrace := by
  have hmark : ∀ (u : State) (e : Edge), (if u.trace.host ∨ 64 ≤ (u.sink e).size then u.sinkMarker e else u).booked = u.booked := fun u e => by
    split
    · exact sinkMarker_booked u e
    · rfl
  exact ⟨_, (hmark _ .e1).trans (hmark s .e0), rfl⟩

/-- The book of trace settles well when nothing is in transit. -/
theorem settleTrace_settles (h : s.inTransit = 0) : (s.settleTrace.ledger 0xA004).state = 0 ∧
    (s.settleTrace.ledger 0xA004).fails = (s.ledger 0xA004).fails ∧ s.settleTrace.packetCounts = s.packetCounts := by
  have hl : s.settleTrace.ledger 0xA004 = ⟨0, (s.ledger 0xA004).fails, s.time64, s.traceTerms⟩ := by
    unfold State.settleTrace
    rw [h]
    exact look_put_same ..
  rw [hl]
  exact ⟨rfl, rfl, rfl⟩

theorem traceDisarmComplete_eq (hd : s.trace.disarming = true) (ht : s.traceDone = true) (hc : ∀ c ∈ s.hif.cmds, c.phase ≠ .running) :
    traceDisarmComplete s = s.endDisarm := by
  obtain ⟨u, hu, he⟩ := endDisarm_eq s
  have hcmds : s.endDisarm.hif.cmds = s.hif.cmds := by
    rw [he]
    exact congrArg (fun x => x.2.2) hu
  have hnone : (s.endDisarm.hif.cmds.find? fun c => decide (c.opcode = 0x24 ∧ c.phase = .running)) = none := by
    rw [hcmds, List.find?_eq_none]
    intro c hm
    simp [hc c hm]
  unfold traceDisarmComplete
  rw [hd, ht]
  refine (if_pos rfl).trans ?_
  dsimp only
  rw [hnone]

theorem disarmComplete_clause (hd : s.trace.disarming = true) (ht : s.traceDone = true) (hc : ∀ c ∈ s.hif.cmds, c.phase ≠ .running) :
    ∃ t, exec .traceDisarmComplete s = .next t ∧ t.trace.armed = false ∧ t.trace.disarming = false ∧ (t.ledger 0xA004).state = 0 ∧
      (t.ledger 0xA004).fails = (s.ledger 0xA004).fails ∧ t.packetCounts = s.packetCounts := by
  obtain ⟨u, hu, he⟩ := endDisarm_eq s
  have hcounts : u.packetCounts = s.packetCounts := congrArg (fun x => x.2.1) hu
  have hledger : u.ledger 0xA004 = s.ledger 0xA004 := by
    have hl : u.ledgers = s.ledgers := congrArg Prod.fst hu
    unfold State.ledger
    rw [hl]
  have htransit : u.inTransit = 0 := by
    have h0 : s.inTransit = 0 := of_decide_eq_true (Bool.and_eq_true_iff.mp (Bool.and_eq_true_iff.mp ht).1).1
    have h := congrArg (fun x : Nat × Nat × Nat => (x.1 + 2 * 2 ^ 64 - x.2.1 - x.2.2) % 2 ^ 64) hcounts
    exact h.trans h0
  have hs := settleTrace_settles (s := u.modTrace fun t => { t with armed := false, disarming := false }) htransit
  refine ⟨_, congrArg Host.Outcome.next ((traceDisarmComplete_eq hd ht hc).trans he), rfl, rfl, hs.1, hs.2.1.trans (congrArg Ledger.fails hledger), ?_⟩
  exact hs.2.2.trans hcounts

/-! ## The clauses -/

theorem records_clause {c : Instr} {r : List Byte} {u v : State} (hx : exec c s = .next u) (hv : TrcOnly b s u)
    (hu : (u.blk b).trc.form = (v.blk b).trc.form ∧ (u.blk b).trc.records = (v.blk b).trc.records ∧ (u.blk b).trc.closed = (v.blk b).trc.closed)
    (hr : v = s.putRecord b r) (hf : (s.blk b).trc.form ≠ []) (hl : (s.blk b).trc.form.length + r.length ≤ 56) :
    ∃ t, exec c s = .next t ∧ (t.blk b).trc.form = (s.blk b).trc.form ++ r ∧ (t.blk b).trc.records = (s.blk b).trc.records + 1 ∧
      (t.blk b).trc.closed = (s.blk b).trc.closed ∧ ∀ d, d ≠ b → t.blk d = s.blk d := by
  have hj := putRecord_joins hf hl
  rw [hr, hj] at hu
  exact ⟨u, hx, hu.1, hu.2.1, hu.2.2, hv.only.2.2⟩

theorem tracing_off (b : BlockId) (v : W64) (h : s.tracing b = false) :
    exec (.gts b) s = .next s ∧ exec (.syncReq b) s = .next s ∧ exec (.trcMarkWrite b v) s = .next s := by
  have hoff : ¬s.tracing b = true := by rw [h]; decide
  refine ⟨congrArg Host.Outcome.next (if_neg hoff), congrArg Host.Outcome.next (if_neg hoff), congrArg Host.Outcome.next ?_⟩
  unfold State.traceMark State.traceRecord
  rw [h]
  rfl

theorem gts_clause (ht : s.tracing b = true) (hp : s.passWithin (s.gtsLeft b) ≠ none) (ho : (s.blk b).trc.outcomes = []) (hf : (s.blk b).trc.form ≠ [])
    (hl : (s.blk b).trc.form.length ≤ 43) : ∃ t, exec (.gts b) s = .next t ∧
      (t.blk b).trc.form = (s.blk b).trc.form ++ [0x09] ++ leBytes 8 t.time64.toNat ++ leBytes 4 (t.blkCycles b) ∧
      (t.blk b).trc.lastGts = t.blkCycles b ∧ (t.blk b).trc.records = (s.blk b).trc.records + 1 := by
  obtain ⟨u, hu⟩ := Option.ne_none_iff_exists'.mp hp
  have hb := passWithin_blk hu b
  have hx : gts b s = u.putGts b := (gts_eq ht hu).trans (traceGts_eq ((passWithin_tracing hu b).trans ht) (by rw [hb]; exact ho))
  have hk := trcOnly_putGts b u
  have htrc := putGts_trc (s := u) (b := b) (by rw [hb]; exact hf) (by rw [hb]; exact hl)
  refine ⟨_, congrArg Host.Outcome.next hx, ?_⟩
  rw [htrc, hk.blkCycles, hk.time64, hb]
  refine ⟨?_, rfl, rfl⟩
  simp only [gtsRecord, List.append_assoc]

theorem timeout_clause (hen : (s.blk b).trc.en = true) (ho : (s.blk b).trc.outcomes = []) (hf : (s.blk b).trc.form ≠ [])
    (hn : (s.blk b).trc.node.length < 4) (hp : s.passWithin ((s.blk b).trc.formFrom + 4096 - s.ticks b) ≠ none) :
    ∃ t, exec (.tracePacketTimeout b) s = .next t ∧ (t.blk b).trc.form = [] ∧ (t.blk b).trc.seq = (s.blk b).trc.seq + 1 ∧
      (t.blk b).trc.node = (s.blk b).trc.node ++ [⟨b, (s.blk b).trc.seq, (s.blk b).trc.form⟩] ∧ (t.blk b).trc.closed = (s.blk b).trc.closed := by
  obtain ⟨u, hu⟩ := Option.ne_none_iff_exists'.mp hp
  have hb := passWithin_blk hu b
  obtain ⟨w, hw, hwb⟩ := closeAndHand_eq (s := u) (b := b) (by rw [hb]; exact hen) (by rw [hb]; exact ho) (by rw [hb]; exact hf)
  rw [hb] at hw hwb
  have hh := (handPacket_takes (s := w) (b := b) ⟨b, (s.blk b).trc.seq, (s.blk b).trc.form⟩ (by rw [hwb]; exact hn)).1
  refine ⟨_, congrArg Host.Outcome.next ((tracePacketTimeout_eq hf hu).trans hw), ?_⟩
  rw [hh, hwb]
  exact ⟨rfl, rfl, rfl, rfl⟩

section
variable {rest : List (List Byte)} (hb : (s.sink e).buf = l :: rest)
include hb

theorem ring_clause (hl : l.length = 64) (hh : s.trace.host = false) (h0 : (s.sink e).lost = 0) (ht : (s.sink e).takes s.trace.wrap = true) :
    ∃ t, exec (.sinkStore e true) s = .next t ∧ mload (t.edgeDie e).sram ((s.sink e).base + (s.sink e).woff) 64 = stamped (s.sink e).seq l ∧
      (∀ i, i < (s.sink e).base + (s.sink e).woff ∨ (s.sink e).base + (s.sink e).woff + 64 ≤ i →
        mget (t.edgeDie e).sram i = mget (s.edgeDie e).sram i) ∧
      t.sink e = { s.sink e with buf := rest, seq := (s.sink e).seq + 1, woff := ((s.sink e).woff + 64) % (s.sink e).size
                                 held := min ((s.sink e).held + 1) ((s.sink e).size / 64) } ∧
      t.packetCounts = (s.packetCounts.1, oneMore s.packetCounts.2.1, s.packetCounts.2.2) := by
  have hw : s.sinkWaits = false := by rw [State.sinkWaits, hh, Bool.false_and]
  obtain ⟨khost, khealth, -, -, -, kdie⟩ := setSink_keeps s e { s.sink e with buf := rest }
  obtain ⟨hm, hout, hs, hhealth⟩ := sinkEntry_ring (s := s.setSink e { s.sink e with buf := rest }) (e := e) (khost.trans hh) hl
  rw [sink_setSink] at hm hout hs
  rw [kdie] at hout
  refine ⟨_, congrArg Host.Outcome.next (sinkStore_stores hb hw h0 (.inr ht)), hm, hout, hs, ?_⟩
  rw [packetCounts_stored, packetCounts_of_health (hhealth.trans khealth)]

theorem hostEntry_clause (hl : l.length = 64) (hh : s.trace.host = true) (hq : s.hif.quiet = false) (h0 : (s.sink e).lost = 0) :
    ∃ t, exec (.sinkStore e true) s = .next t ∧
      mload t.hostMem (s.trace.hostAddr + 64 * (((s.sink e).seq.toNat - 1) % (s.trace.hostLen / 64))) 64 = stamped (s.sink e).seq l ∧
      t.sink e = { s.sink e with buf := rest, seq := (s.sink e).seq + 1 } ∧
      t.packetCounts = (s.packetCounts.1, oneMore s.packetCounts.2.1, s.packetCounts.2.2) := by
  have hw : s.sinkWaits = false := by rw [State.sinkWaits, hq, Bool.and_false]
  obtain ⟨khost, khealth, -, kaddr, klen, -⟩ := setSink_keeps s e { s.sink e with buf := rest }
  obtain ⟨hm, hs, hhealth⟩ := sinkEntry_host (s := s.setSink e { s.sink e with buf := rest }) (e := e) (khost.trans hh) hl
  rw [sink_setSink] at hm hs
  rw [kaddr, klen] at hm
  refine ⟨_, congrArg Host.Outcome.next (sinkStore_stores hb hw h0 (.inl hh)), hm, hs, ?_⟩
  rw [packetCounts_stored, packetCounts_of_health (hhealth.trans khealth)]

theorem drop_clause (hh : s.trace.host = false) (ht : (s.sink e).takes s.trace.wrap = false) : ∃ t, exec (.sinkStore e true) s = .next t ∧
    t.sink e = { s.sink e with buf := rest, lost := (s.sink e).lost + 1 } ∧
    t.packetCounts = (s.packetCounts.1, s.packetCounts.2.1, oneMore s.packetCounts.2.2) := by
  refine ⟨_, congrArg Host.Outcome.next (sinkStore_drops hb hh ht), ?_, ?_⟩
  · have hs : ∀ u : State, (u.sinkDrop e).sink e = { u.sink e with lost := (u.sink e).lost + 1 } := fun u => sink_setSink u e _
    rw [hs, sink_setSink]
  · exact packetCounts_dropped _

end

theorem transit_clause {p : TrcPacket} {rest : List TrcPacket} (hb : (s.sink (s.sinkDie b)).buf = []) (hf : s.footpath = [])
    (hn : (s.blk b).trc.node = p :: rest) : ∃ t, exec (.traceTransitTimeout b) s = .next t ∧ (t.blk b).trc.node = rest ∧
      t.packetCounts = (s.packetCounts.1, s.packetCounts.2.1, oneMore s.packetCounts.2.2) := by
  have he : traceTransitTimeout b s = (s.modBlk b fun x => { x with trc := { x.trc with node := rest } }).traceDropped := by
    unfold traceTransitTimeout
    simp only [hb, hf, hn, List.find?_nil]
  have hd : ∀ u : State, u.traceDropped.blk b = u.blk b := fun _ => rfl
  refine ⟨_, congrArg Host.Outcome.next he, ?_, packetCounts_dropped _⟩
  rw [hd, blk_modBlk_same]

end Sys2Proof.Machine

/-- Settles O50: each clause is one move of a packet, a record or a sink entry, with the counts of packets that go with it. -/
theorem traceCommands : Obligations.TraceCommands := by
  intro s b v e
  refine ⟨fun w p rest hc => ⟨fun hn => ?_, fun hn => ?_⟩, timeout_clause, gts_clause, fun ht => ⟨fun ho hf hl => ?_, fun hon hcc ho hf hl => ?_⟩,
    tracing_off b v, fun l rest hb hl => ⟨ring_clause hb hl, drop_clause hb, fun hh hq ok => ?_, hostEntry_clause hb hl⟩, fun p rest => transit_clause,
    disarmComplete_clause⟩
  · obtain ⟨hh, hm⟩ := handPacket_takes (s := s.modBlk b fun x => { x with trc := { x.trc with closed := rest } }) (b := b) p
      (by rw [blk_modBlk_same]; exact hn)
    refine ⟨_, congrArg Host.Outcome.next (tracePacketClose_eq hc), ?_⟩
    rw [hh, blk_modBlk_same]
    exact ⟨rfl, rfl, hm⟩
  · have hd := handPacket_drops (s := s.modBlk b fun x => { x with trc := { x.trc with closed := rest } }) (b := b) p
      (by rw [blk_modBlk_same]; exact hn)
    rw [blk_modBlk_same] at hd
    exact ⟨_, congrArg Host.Outcome.next (tracePacketClose_eq hc), hd⟩
  · refine records_clause (congrArg Host.Outcome.next (traceSync_eq ht ho)) (trcOnly_trans (trcOnly_putRecord b s _) (trcOnly_setTimed b _)) ?_ rfl hf hl
    rw [State.setTimed, blk_modBlk_same]
    exact ⟨rfl, rfl, rfl⟩
  · exact records_clause (congrArg Host.Outcome.next (traceMark_eq ht ho hon hcc)) (trcOnly_putRecord b s _) ⟨rfl, rfl, rfl⟩ rfl hf hl
  · exact congrArg Host.Outcome.next (sinkStore_waits hb (by rw [State.sinkWaits, hh, hq]; rfl))

end

/-! # Host queues: the proofs -/

section
open Sys2Proof Sys2Proof.Machine
namespace Sys2Proof.Machine
variable {s t : State} {q : QueueId}

/-! ## What an event leaves of the host interface (R475, R477, R478) -/

theorem raiseVector_hif (s : State) (v : BitVec 6) : ∃ p, (s.raiseVector v).hif = { s.hif with pba := p } := by
  unfold State.raiseVector
  dsimp only
  split
  · exact ⟨_, rfl⟩
  · exact ⟨s.hif.pba, rfl⟩

theorem hifEvent_hif (s : State) (n : Nat) : ∃ p e, (s.hifEvent n).hif = { s.hif with pba := p, evtPend := e } := by
  unfold State.hifEvent
  dsimp only
  split
  · obtain ⟨p, hp⟩ := raiseVector_hif { s with hif := { s.hif with evtPend := s.hif.evtPend ||| (1#8 <<< n) } } (s.hif.evtCfg.extractLsb' 0 6)
    exact ⟨p, _, hp⟩
  · exact ⟨s.hif.pba, _, rfl⟩

theorem noteBp_hif (s : State) : ∃ p e a f, s.noteBp.hif = { s.hif with pba := p, evtPend := e, bpAcy := a, bpFrom := f } := by
  unfold State.noteBp
  split
  · obtain ⟨p, e, h⟩ := hifEvent_hif (s.modHif fun h => { h with bpFrom := some s.acy }) evtBp
    exact ⟨p, e, s.hif.bpAcy, some s.acy, h⟩
  · exact ⟨s.hif.pba, s.hif.evtPend, _, _, rfl⟩
  · exact ⟨s.hif.pba, s.hif.evtPend, s.hif.bpAcy, s.hif.bpFrom, rfl⟩

/-! ## One queue changes -/

/-- Queue `q` is `y`, and every other queue is as before. -/
def QueueOnly (q : QueueId) (y : Queue) (s t : State) : Prop := t.queue q = y ∧ ∀ r, r ≠ q → t.queue r = s.queue r

theorem queueOnly_of_queues {y : Queue} (h : t.hif.queues = put s.hif.queues q.toNat y) : QueueOnly q y s t := by
  unfold QueueOnly State.queue
  rw [h]
  exact ⟨look_put_same .., fun r hr => look_put_ne _ _ _ fun k => hr (BitVec.eq_of_toNat_eq k)⟩

theorem queue_of_queues (h : t.hif.queues = s.hif.queues) (r : QueueId) : t.queue r = s.queue r := by
  unfold State.queue
  rw [h]

theorem queueOnly_modQueue (s : State) (q : QueueId) (f : Queue → Queue) : QueueOnly q (f (s.queue q)) s (s.modQueue q f) :=
  queueOnly_of_queues rfl

theorem queue_modQueue_same (s : State) (q : QueueId) (f : Queue → Queue) : (s.modQueue q f).queue q = f (s.queue q) := (queueOnly_modQueue s q f).1

theorem QueueOnly.trans {y z : Queue} {u : State} (h : QueueOnly q y s t) (k : QueueOnly q z t u) : QueueOnly q z s u :=
  ⟨k.1, fun r hr => (k.2 r hr).trans (h.2 r hr)⟩

theorem QueueOnly.of_queues {y : Queue} {u : State} (h : QueueOnly q y s t) (k : u.hif.queues = t.hif.queues) : QueueOnly q y s u :=
  ⟨(queue_of_queues k q).trans h.1, fun r hr => (queue_of_queues k r).trans (h.2 r hr)⟩

theorem raiseVector_queues (s : State) (v : BitVec 6) : (s.raiseVector v).hif.queues = s.hif.queues := by
  obtain ⟨p, h⟩ := raiseVector_hif s v
  rw [h]

/-! ## Doorbells (R490, R492, R771) -/

theorem queueError_facts (s : State) (q : QueueId) (code : BitVec 3) :
    QueueOnly q { s.queue q with error := true, ecode := code } s (s.queueError q code) ∧ (s.queueError q code).hif.evtPend.getLsbD 6 = true :=
  ⟨(queueOnly_modQueue s q _).of_queues (hifEvent_lists _ _).1, hifEvent_pending _ (by decide)⟩

section
variable {v : BitVec 64}

theorem doorbell_off (h : (s.queue q).en = false) : sqDoorbellWrite q v s = s ∧ cqDoorbellWrite q v s = s := by
  unfold sqDoorbellWrite cqDoorbellWrite
  dsimp only
  rw [h]
  exact ⟨rfl, rfl⟩

variable (h : (s.queue q).en = true)
include h

theorem doorbell_outside (hn : (s.queue q).size ≤ (v.extractLsb' 0 12).toNat) : sqDoorbellWrite q v s = s.queueError q 1 ∧
    cqDoorbellWrite q v s = s.queueError q 3 := by
  unfold sqDoorbellWrite cqDoorbellWrite
  dsimp only
  rw [h, if_pos hn]
  exact ⟨rfl, if_pos hn⟩

theorem sqDoorbell_moves (hn : (v.extractLsb' 0 12).toNat < (s.queue q).size) : sqDoorbellWrite q v s =
    ((s.modQueue q fun x => { x with sqTail := v.extractLsb' 0 12 }).hostTerm 0x10
      (((v.extractLsb' 0 12).toNat + (s.queue q).size - (s.queue q).sqTail.toNat) % (s.queue q).size)).settleQueues := by
  unfold sqDoorbellWrite
  dsimp only
  rw [h, if_neg (Nat.not_le.mpr hn)]
  rfl

theorem cqDoorbell_moves (hn : (v.extractLsb' 0 12).toNat < (s.queue q).size) :
    cqDoorbellWrite q v s = s.modQueue q fun x => { x with cqHead := v.extractLsb' 0 12 } := by
  unfold cqDoorbellWrite
  dsimp only
  rw [h, if_neg (Nat.not_le.mpr hn)]
  rfl

end

theorem hostTerm_counter (s : State) (sub n : Nat) : (s.hostTerm sub n).counter 0xA002 sub = (s.counter 0xA002 sub + n) % 2 ^ 64 := by
  unfold State.hostTerm State.counter
  rw [show 0xA002 * 256 + sub = 256 * 0xA002 + sub by omega]
  exact look_store_same ..

/-! ## Fetch (R493 to R495) -/

/-- A queue whose turn it is has an entry to fetch and room for its command. -/
theorem fetchTurn_room (h : s.fetchTurn = some q) : 1 ≤ min (min 8 (s.queue q).waiting) (64 - s.inflight q) := by
  have hf : s.fetchable q = true := List.find?_some h
  unfold State.fetchable at hf
  simp only [Bool.and_eq_true, decide_eq_true_eq] at hf
  omega

theorem padTo_whole {e : List Byte} (h : e.length = 64) : padTo 64 (e.take 64) = e := padTo_of_length h

section
variable {entries : Option (List (List Byte))} (hl : s.hif.linkUp = true) (hb : s.bp = false) (hq : s.hif.quiet = false) (ht : s.fetchTurn = some q)
include hl hb hq ht

theorem entryFetch_failed : entryFetch q none s = (s.modHif fun h => { h with turn := (q + 1).toNat }).queueError q 2 := by
  unfold entryFetch
  simp only [hl, hb, hq, ht, decide_true, Bool.not_false, Bool.and_self, if_true]

theorem entryFetch_one {e : List Byte} (he : e.length = 64) : ∃ u : State, u = (s.modHif fun h => { h with turn := (q + 1).toNat }).modQueue q
      (fun x => { x with sqHead := BitVec.ofNat 12 ((x.sqHead.toNat + 1) % x.size) }) ∧
    entryFetch q (some [e]) s = u.decideEntries q [(e, BitVec.ofNat 12 (((s.queue q).sqHead.toNat + 1) % (s.queue q).size), 0)] := by
  obtain ⟨k, hk⟩ := Nat.exists_eq_add_of_le' (fetchTurn_room ht)
  refine ⟨_, rfl, ?_⟩
  unfold entryFetch
  simp only [hl, hb, hq, ht, decide_true, Bool.not_false, Bool.and_self, if_true, hk, List.take_succ_cons, List.take_nil, List.length_cons, List.length_nil,
    fetchedList, padTo_whole he]

end

theorem validate_fetched (s : State) (q : QueueId) (f : Hif → Hif) (g : Queue → Queue) (e : List Byte) :
    ((s.modHif f).modQueue q g).validate e = s.validate e := rfl

theorem decideEntries_valid {e : List Byte} {head : BitVec 12} (hb : s.bp = false) (h : s.validate e = 0) :
    s.decideEntries q [(e, head, 0)] = (s.presentEntry q e head 0).modQueue q fun x => { x with fetched := [] } := by
  unfold State.decideEntries
  simp only [hb, h, Bool.false_eq_true, if_false, if_true]

theorem decideEntries_invalid {e : List Byte} {head : BitVec 12} (hb : s.bp = false) (h : s.validate e ≠ 0) :
    s.decideEntries q [(e, head, 0)] = (s.reject q e head 0 (s.validate e)).modQueue q fun x => { x with fetched := [] } := by
  unfold State.decideEntries
  simp only [hb, h, Bool.false_eq_true, if_false]
  rfl

/-- The command that an entry presented for acceptance becomes. -/
def presented (q : QueueId) (e : List Byte) (head : BitVec 12) : Cmd := ⟨0, q, head, e, .accepted, 0, 0, 0, 0, none, [], 0, false⟩

theorem presentEntry_facts (s : State) (q : QueueId) (e : List Byte) (head : BitVec 12) :
    (s.presentEntry q e head 0).jnl.holding = some (s.cmdRecord (presented q e head) 1 0 0, presented q e head) ∧
    (s.presentEntry q e head 0).hif.queues = s.hif.queues ∧ (s.presentEntry q e head 0).hif.rejects = s.hif.rejects ∧
    (s.presentEntry q e head 0).hif.turn = s.hif.turn := by
  have hj : (s.presentEntry q e head 0).jnl = { s.jnl with holding := some (s.cmdRecord (presented q e head) 1 0 0, presented q e head) } :=
    noteBp_jnl _
  obtain ⟨p, e', a, f, hh⟩ := noteBp_hif (s.modJnl fun j => { j with holding := some (s.cmdRecord (presented q e head) 1 0 0, presented q e head) })
  have hh : (s.presentEntry q e head 0).hif = { s.hif with pba := p, evtPend := e', bpAcy := a, bpFrom := f } := hh
  rw [hj, hh]
  exact ⟨rfl, rfl, rfl, rfl⟩

theorem presentRecord_facts (s : State) (q : QueueId) (e : List Byte) (head : BitVec 12) : (s.cmdRecord (presented q e head) 1 0 0).ty = 1 ∧
    (s.cmdRecord (presented q e head) 1 0 0).time = s.time64 ∧ (s.cmdRecord (presented q e head) 1 0 0).tag.toNat = leAt e 8 8 ∧
    (s.cmdRecord (presented q e head) 1 0 0).opcode.toNat = leAt e 0 2 :=
  ⟨rfl, rfl, (BitVec.toNat_ofNat ..).trans (Nat.mod_eq_of_lt (leAt_lt e 8 8)), (BitVec.toNat_ofNat ..).trans (Nat.mod_eq_of_lt (leAt_lt e 0 2))⟩

/-- The completion of an entry that is rejected. -/
def rejection (q : QueueId) (e : List Byte) (head : BitVec 12) (st : BitVec 16) : Completion :=
  ⟨q, BitVec.ofNat 64 (leAt e 8 8), 0, 0, st, head, (BitVec.ofNat 8 (leAt e 2 1)).getLsbD 0, none⟩

theorem reject_hif (s : State) (q : QueueId) (e : List Byte) (head : BitVec 12) (st : BitVec 16) : (s.reject q e head 0 st).hif =
    { s.hif with rejects := s.hif.rejects + 1, comps := s.hif.comps ++ [rejection q e head st] } := rfl

theorem reject_bp (s : State) (q : QueueId) (e : List Byte) (head : BitVec 12) (st : BitVec 16) : (s.reject q e head 0 st).bp = s.bp := by
  have hm : ∀ (u : State) (f : Hif → Hif), (u.modHif f).bp = u.bp := fun _ _ => rfl
  have hs : ∀ u : State, u.settleQueues.bp = u.bp := fun _ => rfl
  have ht : ∀ (u : State) (k n : Nat), (u.hostTerm k n).bp = u.bp := fun _ _ _ => rfl
  unfold State.reject
  rw [hm, hs, ht, ht]

theorem modQueue_hif (s : State) (q : QueueId) (f : Queue → Queue) : (s.modQueue q f).hif =
    { s.hif with queues := put s.hif.queues q.toNat (f (s.queue q)) } := rfl

/-! ## Completion and interrupts (R488, R489, R497 to R499) -/

theorem queueIrq_facts (s : State) (q : QueueId) : QueueOnly q { s.queue q with since := 0 } s (s.queueIrq q) ∧
    (s.queueIrq q).hif.comps = s.hif.comps := by
  obtain ⟨p, hp⟩ := raiseVector_hif (s.modQueue q fun x => { x with since := 0 }) (s.queue q).vec
  refine ⟨(queueOnly_modQueue s q _).of_queues (raiseVector_queues _ _), ?_⟩
  exact (congrArg Hif.comps hp).trans rfl

/-- A completion that counts: at its TIME or COUNT the vector is raised and the count begins again. -/
theorem moderate_facts (s : State) (q : QueueId) : ∃ at_, QueueOnly q { s.queue q with
      since := if (s.queue q).time = 0 ∨ (s.queue q).count.toNat ≤ (s.queue q).since + 1 then 0 else (s.queue q).since + 1, sinceAt := at_ } s (s.moderate q) ∧
    (s.moderate q).hif.comps = s.hif.comps := by
  unfold State.moderate
  dsimp only
  split
  · exact ⟨_, queueIrq_facts s q⟩
  · exact ⟨_, queueOnly_modQueue s q _, rfl⟩

/-- The state after a completion entry has gone to its ring, before its interrupt. -/
def State.completed (s : State) (q : QueueId) (c : Completion) : State :=
  let x := s.queue q
  let next := (x.cqTail.toNat + 1) % x.size
  let s := s.hostWrite (x.cqBase.toNat * 4096 + 32 * x.cqTail.toNat) (c.bytes x.phase)
  let s := s.modQueue q fun x => { x with cqTail := BitVec.ofNat 12 next, phase := if next = 0 then !x.phase else x.phase }
  let s := s.modHif fun h => { h with comps := h.comps.erase c }
  match c.cmd with | some n => s.dropCmd n | none => s

section
variable {c : Completion} (h : s.hif.comps.find? (fun c => decide (c.queue = q)) = some c)
include h

theorem completionWrite_full (hn : ((s.queue q).cqTail.toNat + 1) % (s.queue q).size = (s.queue q).cqHead.toNat) : completionWrite q s = s := by
  unfold completionWrite
  dsimp only
  rw [h]
  exact if_pos (.inl hn)

theorem completionWrite_room (hq : s.hif.quiet = false) (hn : ((s.queue q).cqTail.toNat + 1) % (s.queue q).size ≠ (s.queue q).cqHead.toNat) :
    completionWrite q s = if c.noirq then s.completed q c else (s.completed q c).moderate q := by
  unfold completionWrite
  dsimp only
  rw [h]
  exact if_neg fun k => k.elim hn fun hk => by rw [hq] at hk; cases hk

end

theorem completed_facts (s : State) (q : QueueId) (c : Completion) : (s.completed q c).hif.comps = s.hif.comps.erase c ∧
    (s.completed q c).hostMem = mstore s.hostMem ((s.queue q).cqBase.toNat * 4096 + 32 * (s.queue q).cqTail.toNat) (c.bytes (s.queue q).phase) ∧
    (s.completed q c).queue q = { s.queue q with
      cqTail := BitVec.ofNat 12 (((s.queue q).cqTail.toNat + 1) % (s.queue q).size)
      phase := if ((s.queue q).cqTail.toNat + 1) % (s.queue q).size = 0 then !(s.queue q).phase else (s.queue q).phase } := by
  unfold State.completed
  dsimp only
  split
  · exact ⟨rfl, rfl, look_put_same ..⟩
  · exact ⟨rfl, rfl, look_put_same ..⟩

theorem raiseVector_sends {v : BitVec 6} (hm : (look MsixEntry.reset s.hif.msix v.toNat).ctrl.getLsbD 0 = false) (hs : s.hif.silent = false) :
    (s.raiseVector v).hostMem = mstore s.hostMem (look MsixEntry.reset s.hif.msix v.toNat).addr.toNat
      (leBytes 4 (look MsixEntry.reset s.hif.msix v.toNat).data.toNat) := by
  unfold State.raiseVector
  dsimp only
  rw [hm, hs]
  rfl

theorem raiseVector_pends {v : BitVec 6} (h : ((look MsixEntry.reset s.hif.msix v.toNat).ctrl.getLsbD 0 || s.hif.silent) = true) :
    (s.raiseVector v).hif.pba.getLsbD v.toNat = true ∧ (s.raiseVector v).hostMem = s.hostMem := by
  unfold State.raiseVector
  dsimp only
  rw [if_pos h]
  refine ⟨?_, rfl⟩
  simp [v.isLt]

/-! ## Disabling (R520, R521) -/

/-- What the abandonment of a command does to the list of commands. -/
def abandonOne (reason : Nat) (c x : Cmd) : Cmd := if x.seq = c.seq then { x with phase := .ending, gone := reason } else x

theorem abandonCmd_hif (s : State) (c : Cmd) (reason : Nat) : (s.abandonCmd c reason).hif = { s.hif with cmds := s.hif.cmds.map (abandonOne reason c) } := rfl

theorem abandonAll_hif (l : List Cmd) (s : State) (reason : Nat) : (l.foldl (fun s c => s.abandonCmd c reason) s).hif =
    { s.hif with cmds := l.foldl (fun m c => m.map (abandonOne reason c)) s.hif.cmds } := by
  induction l generalizing s with
  | nil => rfl
  | cons c l ih => rw [List.foldl_cons, ih, abandonCmd_hif, List.foldl_cons]

theorem abandonOne_queue (reason : Nat) (c x : Cmd) : (abandonOne reason c x).queue = x.queue := by
  unfold abandonOne
  split <;> rfl

/-- A command after others have been abandoned: it is as it was and none of them, or it is ending. -/
theorem mem_abandonAll (reason : Nat) (l m : List Cmd) {x : Cmd} (h : x ∈ l.foldl (fun m c => m.map (abandonOne reason c)) m) :
    ∃ y ∈ m, x.queue = y.queue ∧ ((x = y ∧ ∀ c ∈ l, c.seq ≠ y.seq) ∨ (x.phase = .ending ∧ x.gone = reason)) := by
  induction l generalizing m with
  | nil => exact ⟨x, h, rfl, .inl ⟨rfl, fun c hc => by cases hc⟩⟩
  | cons c l ih =>
    obtain ⟨y, hy, hq, hx⟩ := ih _ h
    obtain ⟨z, hz, rfl⟩ := List.mem_map.mp hy
    refine ⟨z, hz, hq.trans (abandonOne_queue ..), ?_⟩
    by_cases hseq : z.seq = c.seq
    · rw [abandonOne, if_pos hseq] at hx
      rcases hx with ⟨rfl, -⟩ | hx
      · exact .inr ⟨rfl, rfl⟩
      · exact .inr hx
    · rw [abandonOne, if_neg hseq] at hx
      refine hx.imp_left fun ⟨hxz, hne⟩ => ⟨hxz, fun d hd => ?_⟩
      rcases List.mem_cons.mp hd with rfl | hd
      · exact fun k => hseq k.symm
      · exact hne d hd

/-- A queue that is disabled, its commands with the reason. -/
theorem disableQueue_hif {reason : Nat} (h : (s.queue q).en = true) : (s.disableQueue q reason).hif = { s.hif with
    queues := put s.hif.queues q.toNat { s.queue q with
      en := false, error := false, ecode := 0, since := 0, fetched := (s.queue q).fetched.map fun e => (e.1, e.2.1, reason) }
    comps := s.hif.comps.filter fun c => !decide (c.queue = q)
    cmds := ((s.hif.cmds.filter fun c => decide (c.queue = q)).filter fun c => decide (c.phase = .accepted)).foldl
      (fun m c => m.map (abandonOne reason c)) ((s.hif.cmds.filter fun c => !decide (c.queue = q ∧ c.phase = .ended)).map fun c =>
        if c.queue = q ∧ c.gone = 0 then { c with gone := reason } else c) } := by
  unfold State.disableQueue
  dsimp only
  rw [h, if_neg (by decide), abandonAll_hif]
  rfl

theorem disableQueue_cmds {reason : Nat} (h : (s.queue q).en = true) (hr : reason ≠ 0) {c : Cmd} (hc : c ∈ (s.disableQueue q reason).hif.cmds)
    (hq : c.queue = q) : c.gone ≠ 0 ∧ c.phase ≠ .accepted := by
  rw [disableQueue_hif h] at hc
  obtain ⟨y, hy, hcy, hx⟩ := mem_abandonAll _ _ _ hc
  rcases hx with ⟨rfl, hne⟩ | ⟨hph, hg⟩
  · obtain ⟨z, hz, hzc⟩ := List.mem_map.mp hy
    have hzm := (List.mem_filter.mp hz).1
    have hout : z.queue = q → z.phase = .accepted → z.seq ≠ c.seq := fun h1 h2 =>
      hne z (List.mem_filter.mpr ⟨List.mem_filter.mpr ⟨hzm, decide_eq_true h1⟩, decide_eq_true h2⟩)
    split at hzc
    · next hzq =>
      subst hzc
      exact ⟨hr, fun hph => hout hzq.1 hph rfl⟩
    · next hzq =>
      subst hzc
      exact ⟨fun hg => hzq ⟨hq, hg⟩, fun hph => hout hq hph rfl⟩
  · exact ⟨hg ▸ hr, by rw [hph]; decide⟩

/-! ## Function level reset (R521) -/

theorem disableQueue_cfg (s : State) (q : QueueId) (reason : Nat) : (s.disableQueue q reason).hif.cfg = s.hif.cfg := by
  by_cases h : (s.queue q).en = true
  · rw [disableQueue_hif h]
  · unfold State.disableQueue
    dsimp only
    rw [if_pos (by simpa using h)]

theorem clearHif_cfg (s : State) (reason : Nat) : (s.clearHif reason).hif.cfg = s.hif.cfg := by
  have hc : ∀ u : State, (u.modHif Hif.cleared).hif.cfg = u.hif.cfg := fun _ => rfl
  unfold State.clearHif
  dsimp only
  rw [hc]
  exact foldl_keeps (fun s : State => s.hif.cfg) (fun s q => disableQueue_cfg s (BitVec.ofNat 6 q) reason) _ s

theorem look_all {α : Type} {p : α → Prop} (d : α) (t : Tab α) (k : Nat) (hd : p d) (h : ∀ e ∈ t, p e.2) : p (look d t k) := by
  induction t with
  | nil => exact hd
  | cons e t ih =>
    obtain ⟨j, w⟩ := e
    unfold look
    split
    · exact h _ List.mem_cons_self
    · exact ih fun x hx => h x (List.mem_cons_of_mem _ hx)

/-- A cleared host interface has no queue that is enabled. -/
theorem cleared_off (h : Hif) (k : Nat) : (look Queue.reset h.cleared.queues k).en = false := by
  refine look_all (p := fun x : Queue => x.en = false) _ _ _ rfl fun e he => ?_
  obtain ⟨x, -, rfl⟩ := List.mem_map.mp he
  rfl

theorem functionReset_facts (s : State) : (∀ r, (s.functionReset.queue r).en = false) ∧ s.functionReset.hif.comps = [] ∧ s.functionReset.hif.evtPend = 0 ∧
    s.functionReset.hif.evtCfg = 0 ∧ s.functionReset.hif.msix = [] ∧ s.functionReset.hif.pba = 0 ∧ s.functionReset.hif.d3hot = false := by
  have hq : ∀ u : State, ((u.modHif Hif.cleared).modHif fun h => { h with cfg := h.cfg.flr, d3hot := false }).hif =
      { u.hif.cleared with cfg := u.hif.cfg.flr, d3hot := false } := fun _ => rfl
  unfold State.functionReset State.clearHif
  dsimp only
  unfold State.queue
  generalize List.foldl _ s _ = u
  rw [hq]
  exact ⟨fun r => cleared_off _ _, rfl, rfl, rfl, rfl, rfl, rfl⟩

theorem functionReset_keeps (s : State) : s.functionReset.hif.cfg = s.hif.cfg.flr ∧ s.functionReset.jnl.ring = s.jnl.ring ∧
    s.functionReset.jnl.next = s.jnl.next ∧ s.functionReset.blocks = s.blocks ∧ s.functionReset.plan = s.plan := by
  have ha : s.functionReset.aon = s.aon := by rw [State.functionReset, modHif_aon, clearHif_aon]
  have hl : s.functionReset.listing = s.listing := by rw [State.functionReset, listing_modHif, listing_clearHif]
  have hc : ∀ u : State, (u.modHif fun h => { h with cfg := h.cfg.flr, d3hot := false }).hif.cfg = u.hif.cfg.flr := fun _ => rfl
  exact ⟨by rw [State.functionReset, hc, clearHif_cfg], ring_of_aon ha, next_of_aon ha, blocks_of_listing hl, plan_of_aon ha⟩

/-! ## The return to D0 (R499, R522) -/

/-- One vector of a return to D0. -/
def State.flushVector (s : State) (v : Nat) : State :=
  if s.hif.pba.getLsbD v && !(look MsixEntry.reset s.hif.msix v).ctrl.getLsbD 0 then
    (s.modHif fun h => { h with pba := h.pba &&& ~~~(1#64 <<< v) }).hostWrite (look MsixEntry.reset s.hif.msix v).addr.toNat
      (leBytes 4 (look MsixEntry.reset s.hif.msix v).data.toNat)
  else s

theorem flushPba_eq (s : State) : s.flushPba = if s.hif.silent then s else (List.range 64).foldl State.flushVector s := rfl

theorem flushVector_keeps (s : State) (v : Nat) : (s.flushVector v).hif.msix = s.hif.msix ∧ (s.flushVector v).hif.d3hot = s.hif.d3hot := by
  unfold State.flushVector
  split <;> exact ⟨rfl, rfl⟩

theorem flushVector_pba (s : State) (v i : Nat) (hi : i < 64) : (s.flushVector v).hif.pba.getLsbD i =
    (s.hif.pba.getLsbD i && (decide (i ≠ v) || (look MsixEntry.reset s.hif.msix i).ctrl.getLsbD 0)) := by
  by_cases hv : i = v
  · subst hv
    unfold State.flushVector
    cases hp : s.hif.pba.getLsbD i <;> cases hc : (look MsixEntry.reset s.hif.msix i).ctrl.getLsbD 0
    · simp [hp]
    · simp [hp]
    · simp [State.hostWrite, State.modHif, hi]
    · simp [hp]
  · have hvi : ¬v = i := fun k => hv k.symm
    unfold State.flushVector
    split
    · simp [State.hostWrite, State.modHif, hi, hv]
      omega
    · simp [hv]

theorem flushVectors_pba (l : List Nat) (s : State) (i : Nat) (hi : i < 64) : (l.foldl State.flushVector s).hif.pba.getLsbD i =
    (s.hif.pba.getLsbD i && (decide (i ∉ l) || (look MsixEntry.reset s.hif.msix i).ctrl.getLsbD 0)) := by
  induction l generalizing s with
  | nil => simp
  | cons v l ih =>
    rw [List.foldl_cons, ih, flushVector_pba s v i hi, (flushVector_keeps s v).1]
    cases (look MsixEntry.reset s.hif.msix i).ctrl.getLsbD 0 <;> by_cases h1 : i = v <;> simp [h1, List.mem_cons]

theorem flushVectors_d3hot (l : List Nat) (s : State) : (l.foldl State.flushVector s).hif.d3hot = s.hif.d3hot :=
  foldl_keeps (fun u : State => u.hif.d3hot) (fun u v => (flushVector_keeps u v).2) l s

theorem returnD0_facts (s : State) : s.returnD0.hif.d3hot = false ∧
    (s.hif.cfg.msixEn = false ∨ s.hif.cfg.msixMask = true ∨ s.hif.cfg.command.getLsbD 2 = false → s.returnD0.hif.pba = s.hif.pba) ∧
    (s.hif.cfg.msixEn = true → s.hif.cfg.msixMask = false → s.hif.cfg.command.getLsbD 2 = true → ∀ i < 64,
      s.returnD0.hif.pba.getLsbD i = (s.hif.pba.getLsbD i && (look MsixEntry.reset s.hif.msix i).ctrl.getLsbD 0)) := by
  have hs : (s.modHif fun h => { h with d3hot := false }).hif.silent =
      (!s.hif.cfg.msixEn || s.hif.cfg.msixMask || !s.hif.cfg.command.getLsbD 2) := rfl
  have he : s.returnD0 = if (!s.hif.cfg.msixEn || s.hif.cfg.msixMask || !s.hif.cfg.command.getLsbD 2) then s.modHif fun h => { h with d3hot := false }
      else (List.range 64).foldl State.flushVector (s.modHif fun h => { h with d3hot := false }) := by
    rw [State.returnD0, flushPba_eq, hs]
  refine ⟨?_, fun h => ?_, fun h1 h2 h3 i hi => ?_⟩
  · rw [he]
    split
    · rfl
    · exact flushVectors_d3hot _ _
  · rw [he, if_pos (by rcases h with h | h | h <;> simp only [h, Bool.not_false, Bool.or_true, Bool.true_or])]
    rfl
  · rw [he, if_neg (by simp [h1, h2, h3]), flushVectors_pba _ _ i hi, decide_eq_false (not_not.mpr (List.mem_range.mpr hi)), Bool.false_or]
    rfl

/-! ## The clauses -/

theorem fetch_clause (hl : s.hif.linkUp = true) (hb : s.bp = false) (hq : s.hif.quiet = false) (ht : s.fetchTurn = some q) {e : List Byte}
    (he : e.length = 64) {head : BitVec 12} (hh : head = BitVec.ofNat 12 (((s.queue q).sqHead.toNat + 1) % (s.queue q).size)) :
    ∃ t, exec (.entryFetch q (some [e])) s = .next t ∧ QueueOnly q { s.queue q with sqHead := head, fetched := [] } s t ∧ t.hif.turn = (q + 1).toNat ∧
      (s.validate e = 0 → t.bp = true ∧ ∃ r c, t.jnl.holding = some (r, c) ∧ c.entry = e ∧ c.queue = q ∧ c.sqHead = head ∧ r.ty = 1 ∧
        r.time = s.time64 ∧ r.tag.toNat = leAt e 8 8 ∧ r.opcode.toNat = leAt e 0 2 ∧ t.hif.rejects = s.hif.rejects) ∧
      (s.validate e ≠ 0 → t.bp = false ∧ t.hif.rejects = s.hif.rejects + 1 ∧ ∃ c, t.hif.comps = s.hif.comps ++ [c] ∧ c.queue = q ∧
        c.tag.toNat = leAt e 8 8 ∧ c.jseq = 0 ∧ c.status = s.validate e ∧ c.sqHead = head) := by
  obtain ⟨u, hu, hx⟩ := entryFetch_one hl hb hq ht he
  rw [← hh] at hx
  have hval : u.validate e = s.validate e := by rw [hu, validate_fetched]
  have hubp : u.bp = false := by rw [hu]; exact hb
  have hturn : u.hif.turn = (q + 1).toNat := by rw [hu]; rfl
  have hrej : u.hif.rejects = s.hif.rejects ∧ u.hif.comps = s.hif.comps ∧ u.time64 = s.time64 := by rw [hu]; exact ⟨rfl, rfl, rfl⟩
  have huq : QueueOnly q { s.queue q with sqHead := head } s u := by
    rw [hu, hh]
    exact queueOnly_modQueue (s.modHif fun h => { h with turn := (q + 1).toNat }) q _
  clear hu
  by_cases hv : s.validate e = 0
  · obtain ⟨hhold, hqs, hr, htn⟩ := presentEntry_facts u q e head
    obtain ⟨h1, h2, h3, h4⟩ := presentRecord_facts u q e head
    rw [decideEntries_valid hubp (hval.trans hv)] at hx
    have honly := (huq.of_queues hqs).trans (queueOnly_modQueue (u.presentEntry q e head 0) q fun x => { x with fetched := [] })
    rw [(huq.of_queues hqs).1] at honly
    generalize hp : u.presentEntry q e head 0 = p at *
    have hjnl : (p.modQueue q fun x => { x with fetched := [] }).jnl = p.jnl := rfl
    refine ⟨_, congrArg Host.Outcome.next hx, honly, htn.trans hturn, fun _ => ⟨?_, _, _, hjnl ▸ hhold, rfl, rfl, rfl, h1, h2.trans hrej.2.2, h3, h4, hr.trans hrej.1⟩,
      fun k => absurd hv k⟩
    unfold State.bp
    rw [hjnl, hhold]
    rfl
  · rw [decideEntries_invalid hubp (fun k => hv (hval.symm.trans k)), hval] at hx
    have hhif := reject_hif u q e head (s.validate e)
    have hbp := reject_bp u q e head (s.validate e)
    have hqs : (u.reject q e head 0 (s.validate e)).hif.queues = u.hif.queues := (congrArg Hif.queues hhif).trans rfl
    have honly := (huq.of_queues hqs).trans (queueOnly_modQueue (u.reject q e head 0 (s.validate e)) q fun x => { x with fetched := [] })
    rw [(huq.of_queues hqs).1] at honly
    generalize hp : u.reject q e head 0 (s.validate e) = p at *
    refine ⟨_, congrArg Host.Outcome.next hx, honly, (congrArg Hif.turn hhif).trans hturn, fun k => absurd k hv, fun _ =>
      ⟨hbp.trans hubp, (congrArg Hif.rejects hhif).trans (congrArg (· + 1) hrej.1), rejection q e head (s.validate e), ?_, rfl,
        (BitVec.toNat_ofNat ..).trans (Nat.mod_eq_of_lt (leAt_lt e 8 8)), rfl, rfl, rfl⟩⟩
    rw [modQueue_hif, hhif, hrej.2.1]

theorem completion_clause {c : Completion} (hf : s.hif.comps.find? (fun c => decide (c.queue = q)) = some c) (hq : s.hif.quiet = false)
    (hn : ((s.queue q).cqTail.toNat + 1) % (s.queue q).size ≠ (s.queue q).cqHead.toNat) :
    ∃ t, exec (.completionWrite q) s = .next t ∧ t.hif.comps = s.hif.comps.erase c ∧
      (t.queue q).cqTail = BitVec.ofNat 12 (((s.queue q).cqTail.toNat + 1) % (s.queue q).size) ∧
      (t.queue q).phase = (if ((s.queue q).cqTail.toNat + 1) % (s.queue q).size = 0 then !(s.queue q).phase else (s.queue q).phase) ∧
      (c.noirq = true → t.hostMem = mstore s.hostMem ((s.queue q).cqBase.toNat * 4096 + 32 * (s.queue q).cqTail.toNat) (c.bytes (s.queue q).phase)) ∧
      (c.noirq = false → (t.queue q).since =
        if (s.queue q).time = 0 ∨ (s.queue q).count.toNat ≤ (s.queue q).since + 1 then 0 else (s.queue q).since + 1) := by
  obtain ⟨hcomps, hmem, hqueue⟩ := completed_facts s q c
  have hx := completionWrite_room hf hq hn
  generalize s.completed q c = u at hx hcomps hmem hqueue
  cases hirq : c.noirq
  · rw [hirq, if_neg (by decide)] at hx
    obtain ⟨at_, honly, hmc⟩ := moderate_facts u q
    have hmq := honly.1
    rw [hqueue] at hmq
    refine ⟨_, congrArg Host.Outcome.next hx, hmc.trans hcomps, ?_, ?_, (fun k => by cases k), fun _ => ?_⟩
    · rw [hmq]
    · rw [hmq]
    · rw [hmq]
  · rw [hirq, if_pos rfl] at hx
    refine ⟨_, congrArg Host.Outcome.next hx, hcomps, ?_, ?_, fun _ => hmem, fun k => by cases k⟩
    · rw [hqueue]
    · rw [hqueue]

theorem silent_iff (h : Hif) (hq : h.quiet = false) : h.silent = (!h.cfg.msixEn || h.cfg.msixMask) := by
  rw [Hif.silent, hq, Bool.or_false]

theorem irqDelay_clause (h1 : (s.queue q).since ≠ 0) (h2 : (s.queue q).time ≠ 0) (hq : s.hif.quiet = false) :
    ∃ t, exec (.irqDelayTimeout q) s = .next t ∧ QueueOnly q { s.queue q with since := 0 } s t ∧
      ((look MsixEntry.reset s.hif.msix (s.queue q).vec.toNat).ctrl.getLsbD 0 = false → s.hif.cfg.msixEn = true → s.hif.cfg.msixMask = false →
        t.hostMem = mstore s.hostMem (look MsixEntry.reset s.hif.msix (s.queue q).vec.toNat).addr.toNat
          (leBytes 4 (look MsixEntry.reset s.hif.msix (s.queue q).vec.toNat).data.toNat)) ∧
      ((look MsixEntry.reset s.hif.msix (s.queue q).vec.toNat).ctrl.getLsbD 0 = true ∨ s.hif.cfg.msixEn = false ∨ s.hif.cfg.msixMask = true →
        t.hif.pba.getLsbD (s.queue q).vec.toNat = true ∧ t.hostMem = s.hostMem) := by
  have hm : (s.modQueue q fun x => { x with since := 0 }).hif.silent = (!s.hif.cfg.msixEn || s.hif.cfg.msixMask) := silent_iff s.hif hq
  refine ⟨_, congrArg Host.Outcome.next (if_pos ⟨h1, h2, by rw [hq]; rfl⟩), (queueIrq_facts s q).1, fun hc he hk => ?_, fun hc => ?_⟩
  · exact raiseVector_sends (s := s.modQueue q fun x => { x with since := 0 }) hc (hm.trans (by rw [he, hk]; rfl))
  · refine raiseVector_pends (s := s.modQueue q fun x => { x with since := 0 }) ?_
    rw [hm]
    rcases hc with hc | hc | hc
    · exact Bool.or_eq_true_iff.mpr (.inl hc)
    · simp [hc]
    · simp [hc]

theorem disable_clause (h : (s.queue q).en = true) : ∃ t, exec (.queueDisable q) s = .next t ∧ (t.queue q).en = false ∧ (t.queue q).error = false ∧
    (∀ r, r ≠ q → t.queue r = s.queue r) ∧ (∀ c ∈ t.hif.comps, c.queue ≠ q) ∧ ∀ c ∈ t.hif.cmds, c.queue = q → c.gone ≠ 0 ∧ c.phase ≠ .accepted := by
  have hh := disableQueue_hif (reason := 1) h
  have honly := queueOnly_of_queues (t := s.disableQueue q 1) (congrArg Hif.queues hh)
  have hcomps : (s.disableQueue q 1).hif.comps = s.hif.comps.filter fun c => !decide (c.queue = q) := congrArg Hif.comps hh
  refine ⟨_, rfl, congrArg Queue.en honly.1, congrArg Queue.error honly.1, honly.2, fun c hc => ?_, fun c hc hq => disableQueue_cmds h (by decide) hc hq⟩
  rw [hcomps] at hc
  have hc := (List.mem_filter.mp hc).2
  simpa using hc

end Sys2Proof.Machine

/-- Settles O41: one fact about the queues, the completions or the commands for each row of the host interface. -/
theorem hostQueueCommands : Obligations.HostQueueCommands := by
  intro s q v
  refine ⟨fun h hn => ⟨?_, ?_⟩, fun h hn => ⟨?_, ?_⟩, fun h => ?_, fun hl hb hq ht => ⟨?_, fun e he => fetch_clause hl hb hq ht he rfl⟩,
    fun c hc hq => ⟨fun hn => congrArg Host.Outcome.next (completionWrite_full hc hn), completion_clause hc hq⟩, irqDelay_clause, fun hb h => ?_, disable_clause,
    ?_, rfl, ?_⟩
  · have hv : BitVec.ofNat 12 (v.extractLsb' 0 12).toNat = v.extractLsb' 0 12 := by rw [BitVec.ofNat_toNat, BitVec.setWidth_eq]
    refine ⟨_, congrArg Host.Outcome.next (sqDoorbell_moves h hn), ?_, hostTerm_counter _ _ _⟩
    have ho := queueOnly_modQueue s q fun x => { x with sqTail := v.extractLsb' 0 12 }
    rw [hv]
    exact ho.of_queues rfl
  · have hv : BitVec.ofNat 12 (v.extractLsb' 0 12).toNat = v.extractLsb' 0 12 := by rw [BitVec.ofNat_toNat, BitVec.setWidth_eq]
    refine ⟨_, congrArg Host.Outcome.next (cqDoorbell_moves h hn), ?_⟩
    have ho := queueOnly_modQueue s q fun x => { x with cqHead := v.extractLsb' 0 12 }
    rw [hv]
    exact ho
  · exact ⟨_, congrArg Host.Outcome.next (doorbell_outside h hn).1, queueError_facts s q 1⟩
  · exact ⟨_, congrArg Host.Outcome.next (doorbell_outside h hn).2, queueError_facts s q 3⟩
  · exact ⟨congrArg Host.Outcome.next (doorbell_off h).1, congrArg Host.Outcome.next (doorbell_off h).2⟩
  · refine ⟨_, congrArg Host.Outcome.next (entryFetch_failed hl hb hq ht), ?_⟩
    exact (queueError_facts (s.modHif fun h => { h with turn := (q + 1).toNat }) q 2).1
  · refine ⟨_, congrArg Host.Outcome.next ((if_pos hb).trans (if_neg (by rw [h]; decide))), queueOnly_modQueue s q _⟩
  · obtain ⟨h1, h2, h3, h4, h5, h6, h7⟩ := functionReset_facts s
    obtain ⟨k1, k2, k3, k4, k5⟩ := functionReset_keeps s
    exact ⟨_, rfl, h1, h2, h3, h4, h5, h6, h7, k1, k2, k3, k4, k5⟩
  · exact ⟨_, rfl, returnD0_facts s⟩

end

/-! # The states of a link: the proofs -/

section
open Sys2Proof Sys2Proof.Machine
namespace Sys2Proof.Machine
variable {s t u : State} {n : Nat} {st : LinkSt} {c : Option (BitVec 4)}

/-! ## One change of state (R440, R472) -/

theorem hifEvent_epoch (s : State) (n : Nat) : (s.hifEvent n).epoch = s.epoch := by
  unfold State.hifEvent State.raiseVector
  dsimp only
  split
  · split <;> rfl
  · rfl

theorem charge_jnl (s : State) (row : Nat) (b : BitVec 16) : (s.charge row b).jnl = s.jnl := by
  unfold State.charge
  split <;> rfl

theorem noteLinkOut_jnl (s : State) (n : Nat) : (s.noteLinkOut n).jnl = s.jnl := by
  unfold State.noteLinkOut
  split
  · exact charge_jnl _ _ _
  · rfl

theorem linkTo_raised (s : State) (n : Nat) (st : LinkSt) (c : Option (BitVec 4)) : (s.linkTo n st c).jnl.raised = s.jnl.raised + 1 := by
  unfold State.linkTo
  dsimp only
  rw [hifEvent_jnl, raise_jnl, accept_raised, noteLinkOut_jnl]
  rfl

/-- The epoch in which a planned port is known to be out: its fault is charged once. -/
def Epoch.linkLost (e : Epoch) (n : Nat) : Epoch :=
  if n ∈ e.linkOut then e
  else { e with linkOut := e.linkOut ++ [n], faults := if e.charges then e.faults.add rowLink noBlock else e.faults }

theorem linkLost_again (e : Epoch) (n : Nat) : (e.linkLost n).linkLost n = e.linkLost n := by
  have hin : n ∈ (e.linkLost n).linkOut := by
    unfold Epoch.linkLost
    split
    · assumption
    · exact List.mem_append_right _ List.mem_cons_self
  exact if_pos hin

theorem linkLost_faults (e : Epoch) (n : Nat) (h : e.charges = true) :
    (e.linkLost n).faults = if n ∈ e.linkOut then e.faults else e.faults.add 7 0xFFFF := by
  unfold Epoch.linkLost
  rw [h]
  split <;> rfl

theorem noteLinkOut_epoch (hp : (s.port n).planned = true) (hs : (s.port n).st ≠ .active) : (s.noteLinkOut n).epoch = s.epoch.linkLost n := by
  unfold State.noteLinkOut Epoch.linkLost
  rw [hp, decide_eq_true hs]
  by_cases hn : n ∈ s.epoch.linkOut
  · simp [hn]
  · have hc : (s.modEpoch fun e => { e with linkOut := e.linkOut ++ [n] }).epoch.charges = s.epoch.charges := rfl
    rw [if_pos (by simp [hn]), if_neg hn, State.charge, hc]
    split <;> rfl

theorem linkTo_epoch (hp : (s.port n).planned = true) (hs : st ≠ .active) : (s.linkTo n st c).epoch = s.epoch.linkLost n := by
  have hr : ∀ (v : State) (k : Nat) (a b : W64), (v.raise k a b).epoch = v.epoch := fun _ _ _ _ => rfl
  unfold State.linkTo
  dsimp only
  rw [hifEvent_epoch, hr, noteLinkOut_epoch]
  · rfl
  · rw [State.modPort, State.setPort, State.port, look_put_same]
    exact hp
  · rw [State.modPort, State.setPort, State.port, look_put_same]
    exact hs

/-- A port moves to a state, with a cause and `k` events; a planned port out of ACTIVE is charged once. -/
structure LinkMoved (n : Nat) (s t : State) (st : LinkSt) (cs : BitVec 4) (k : Nat) : Prop where
  state : (t.port n).st = st
  cause : (t.port n).cause = cs
  raised : t.jnl.raised = s.jnl.raised + k
  epoch : (s.port n).planned = true → st ≠ .active → t.epoch = s.epoch.linkLost n

theorem linkMoved_linkTo (s : State) (n : Nat) (st : LinkSt) (c : Option (BitVec 4)) :
    LinkMoved n s (s.linkTo n st c) st (c.getD (s.port n).cause) 1 := by
  refine ⟨?_, ?_, linkTo_raised s n st c, fun hp hs => linkTo_epoch hp hs⟩
  · rw [linkTo_port_same]
    rfl
  · rw [linkTo_port_same]
    rfl

/-- A change before the move that keeps the port's plan, its journal and its epoch. -/
theorem LinkMoved.after {cs : BitVec 4} {k : Nat} (h : LinkMoved n u t st cs k) (hp : (u.port n).planned = (s.port n).planned) (hj : u.jnl = s.jnl)
    (he : u.epoch = s.epoch) : LinkMoved n s t st cs k :=
  ⟨h.state, h.cause, by rw [h.raised, hj], fun h1 h2 => by rw [h.epoch (hp.trans h1) h2, he]⟩

/-- A change after the move that keeps the port's state and cause, the journal and the epoch. -/
theorem LinkMoved.before {cs : BitVec 4} {k : Nat} (h : LinkMoved n s t st cs k) (hs : (u.port n).st = (t.port n).st)
    (hc : (u.port n).cause = (t.port n).cause) (hj : u.jnl = t.jnl) (he : u.epoch = t.epoch) : LinkMoved n s u st cs k :=
  ⟨hs.trans h.state, hc.trans h.cause, by rw [hj, h.raised], fun h1 h2 => by rw [he, h.epoch h1 h2]⟩

theorem LinkMoved.trans {st' : LinkSt} {cs cs' : BitVec 4} {k k' : Nat} (h : LinkMoved n s t st cs k) (h' : LinkMoved n t u st' cs' k')
    (hp : (t.port n).planned = (s.port n).planned) (hs : st ≠ .active) : LinkMoved n s u st' cs' (k + k') := by
  refine ⟨h'.state, h'.cause, ?_, fun h1 h2 => ?_⟩
  · rw [h'.raised, h.raised]
    push_cast
    exact add_assoc _ _ _
  · rw [h'.epoch (hp.trans h1) h2, h.epoch h1 hs, linkLost_again]

theorem port_modPort_same (s : State) (n : Nat) (f : DPort → DPort) : (s.modPort n f).port n = f (s.port n) := look_put_same ..

theorem modPort_keeps (s : State) (n : Nat) (f : DPort → DPort) : (s.modPort n f).jnl = s.jnl ∧ (s.modPort n f).epoch = s.epoch := ⟨rfl, rfl⟩

theorem linkMoved_modPort {f : DPort → DPort} {cs : BitVec 4} {k : Nat} (h : LinkMoved n (s.modPort n f) t st cs k)
    (hp : ∀ x, (f x).planned = x.planned) : LinkMoved n s t st cs k :=
  h.after (by rw [port_modPort_same, hp]) rfl rfl

/-! ## The rows (R436 to R439) -/

theorem linkSignalDetect_eq (p : PortId) : linkSignalDetect p s =
    if (s.port p.toNat).st = .down && (s.port p.toNat).en && s.portUp p.toNat && s.boot.loaded.isSome then s.linkTo p.toNat .train none else s := rfl

/-- The port of a change whose peer is the one known before. -/
def DPort.knowing (x : DPort) (i : Identity) (abi : BitVec 16) : DPort :=
  { x with peer := ⟨i.uid, i.port, i.stepping, i.linkAbi, i.station, i.devnum, i.devValid⟩, abiOk := decide (i.linkAbi = abi) }

theorem recordPeer_same {i : Identity} (h : (s.port n).peer.uid = 0 ∨ (s.port n).peer.uid = i.uid) :
    s.recordPeer n i = s.modPort n fun x => x.knowing i s.bundle.linkAbi := by
  have hother : (decide ((s.port n).peer.uid ≠ 0) && decide ((s.port n).peer.uid ≠ i.uid)) = false := by
    rcases h with h | h <;> simp [h]
  unfold State.recordPeer
  dsimp only
  rw [hother]
  rfl

/-- The port of a change to ACTIVE, whose credit book begins anew: `y` is the port before. -/
def DPort.activated (y : DPort) (i : Identity) (x : DPort) : DPort :=
  let again := y.replay.filter fun u => seqAtOrAfter u.fseq i.rxNext
  { x.resend again with
    replay := again, vc0 := (y.vc0.settle i.free0.toNat (again.filter fun u => !u.vc).length).2
    vc1 := (y.vc1.settle i.free1.toNat (again.filter fun u => u.vc).length).2, req := 0, badRun := 0, stall := 0, lock := true }

theorem toActive_eq (s : State) (n : Nat) (i : Identity) : ∃ v : State, v.port n = s.port n ∧ v.jnl = s.jnl ∧ v.epoch = s.epoch ∧
    s.toActive n i = (v.modPort n ((s.port n).activated i)).linkTo n .active none :=
  ⟨s.settleBook _ _ _, rfl, rfl, rfl, rfl⟩

/-- A port that enters ACTIVE: one change of state, and its peer stays known. -/
theorem toActive_moves (s : State) (n : Nat) (i : Identity) : LinkMoved n s (s.toActive n i) .active (s.port n).cause 1 ∧
    ((s.toActive n i).port n).peer = (s.port n).peer ∧ ((s.toActive n i).port n).abiOk = (s.port n).abiOk := by
  obtain ⟨v, hport, hj, he, h⟩ := toActive_eq s n i
  have hm := linkMoved_linkTo (v.modPort n ((s.port n).activated i)) n .active none
  rw [h, linkTo_port_same, port_modPort_same, hport]
  rw [port_modPort_same, hport] at hm
  exact ⟨hm.after (by rw [port_modPort_same, hport]; rfl) hj he, rfl, rfl⟩

theorem port_linkTo (s : State) (n : Nat) (st : LinkSt) (c : Option (BitVec 4)) : (s.linkTo n st c).port n = (s.port n).entered s.linkTime st c :=
  linkTo_port_same s n st c

/-! ### Training (R436, R438) -/

section
variable {p : PortId} {flight : Nat}

theorem trainComplete_other (h : (s.port p.toNat).measured ≠ some flight) : exec (.linkTrainComplete p flight) s = .next s :=
  congrArg Host.Outcome.next (if_neg h)

variable (hst : (s.port p.toNat).st = .train) (hm : (s.port p.toNat).measured = some flight)
include hst hm

theorem trainComplete_near (hf : flight ≤ 300) : exec (.linkTrainComplete p flight) s = .next ((s.setFlight p.toNat flight).linkTo p.toNat .caps none) := by
  refine congrArg Host.Outcome.next ((if_pos hm).trans ?_)
  unfold linkTrainComplete
  simp only [hst, hm]
  exact if_neg (Nat.not_lt.mpr hf)

theorem trainComplete_far (hf : 300 < flight) : exec (.linkTrainComplete p flight) s = .next (s.linkTo p.toNat .down (some 4)) := by
  refine congrArg Host.Outcome.next ((if_pos hm).trans ?_)
  unfold linkTrainComplete
  simp only [hst, hm]
  exact if_pos hf

end

/-- The flight time and the padding fit their fields. -/
theorem setFlight_port {flight : Nat} (hf : flight ≤ 300) : ((s.setFlight n flight).port n).flight.toNat = flight ∧
    ((s.setFlight n flight).port n).pad.toNat = 300 - flight := by
  unfold State.setFlight
  rw [port_modPort_same]
  exact ⟨(BitVec.toNat_ofNat ..).trans (Nat.mod_eq_of_lt (by omega)), (BitVec.toNat_ofNat ..).trans (Nat.mod_eq_of_lt (by omega))⟩

/-! ### Capabilities (R436, R439) -/

section
variable {p : PortId} {peer : Identity}

theorem capsComplete_early (h : (s.port p.toNat).idents < 3 ∨ (s.port p.toNat).ident ≠ some peer) : exec (.capsComplete p peer) s = .next s := by
  refine congrArg Host.Outcome.next ?_
  split
  · next hi =>
    unfold capsComplete
    simp only [hi]
    exact if_neg fun k => h.elim (fun h => absurd k.2 (Nat.not_le.mpr h)) fun h => h hi
  · rfl

/-- The state in which the peer is known. -/
def State.known (s : State) (n : Nat) (i : Identity) : State := s.modPort n fun x => x.knowing i s.bundle.linkAbi

variable (hi : (s.port p.toNat).ident = some peer) (h3 : 3 ≤ (s.port p.toNat).idents)
  (hu : (s.port p.toNat).peer.uid = 0 ∨ (s.port p.toNat).peer.uid = peer.uid)
include hi h3 hu

theorem capsComplete_eq (hst : (s.port p.toNat).st = .caps ∨ (s.port p.toNat).st = .survey) : exec (.capsComplete p peer) s = .next
    (if (s.port p.toNat).st = .caps then
      (if decide (peer.linkAbi = s.bundle.linkAbi) && !(s.port p.toNat).forceSurvey then (s.known p.toNat peer).toActive p.toNat peer
        else (s.known p.toNat peer).linkTo p.toNat .survey none)
    else (if decide (peer.linkAbi = s.bundle.linkAbi) && !(s.port p.toNat).forceSurvey then (s.known p.toNat peer).linkTo p.toNat .caps none
      else s.known p.toNat peer)) := by
  have hk : (s.known p.toNat peer).port p.toNat = (s.port p.toNat).knowing peer s.bundle.linkAbi := port_modPort_same ..
  refine congrArg Host.Outcome.next ((if_pos hi).trans ?_)
  unfold capsComplete
  simp only [hi, recordPeer_same hu]
  rw [if_pos ⟨hst, h3⟩, ← State.known, hk]
  rfl

end

theorem known_ok {x : DPort} {i : Identity} {abi : BitVec 16} (hf : x.forceSurvey = false) (ha : i.linkAbi = abi) :
    (decide (i.linkAbi = abi) && !x.forceSurvey) = true := by
  rw [hf, decide_eq_true ha]
  rfl

theorem known_no {x : DPort} {i : Identity} {abi : BitVec 16} (h : x.forceSurvey = true ∨ i.linkAbi ≠ abi) :
    ¬(decide (i.linkAbi = abi) && !x.forceSurvey) = true := by
  rcases h with h | h <;> simp [h]

theorem known_port (s : State) (n : Nat) (i : Identity) : (s.known n i).port n = (s.port n).knowing i s.bundle.linkAbi := port_modPort_same ..

theorem linkMoved_known {i : Identity} {cs : BitVec 4} {k : Nat} (h : LinkMoved n (s.known n i) t st cs k) : LinkMoved n s t st cs k :=
  linkMoved_modPort h fun _ => rfl

theorem known_linkTo (s : State) (n : Nat) (i : Identity) (st : LinkSt) : LinkMoved n s ((s.known n i).linkTo n st none) st (s.port n).cause 1 := by
  have h := linkMoved_linkTo (s.known n i) n st none
  rw [known_port] at h
  exact linkMoved_known h

theorem known_toActive (s : State) (n : Nat) (i : Identity) : LinkMoved n s ((s.known n i).toActive n i) .active (s.port n).cause 1 := by
  have h := (toActive_moves (s.known n i) n i).1
  rw [known_port] at h
  exact linkMoved_known h

/-! ### Retraining (R437) -/

theorem toRetrain_moves (cause : BitVec 4) (h : (s.port n).st = .active) : LinkMoved n s (s.toRetrain n cause) .retrain cause 1 ∧
    ((s.toRetrain n cause).port n).req = 2 ∧ ((s.toRetrain n cause).port n).lock = false ∧
    ((s.toRetrain n cause).port n).retrains.toNat = min ((s.port n).retrains.toNat + 1) 0xFFFF := by
  have hm := linkMoved_linkTo s n .retrain (some cause)
  unfold State.toRetrain
  rw [if_pos h]
  refine ⟨hm.before ?_ ?_ rfl rfl, ?_⟩
  · rw [port_modPort_same]
  · rw [port_modPort_same]
  · rw [port_modPort_same, port_linkTo]
    refine ⟨rfl, rfl, ?_⟩
    have hlt := (s.port n).retrains.isLt
    simp only [DPort.entered]
    split
    · next he =>
      rw [he]
      rfl
    · next he =>
      have hne : (s.port n).retrains.toNat ≠ 0xFFFF := fun k => he (BitVec.eq_of_toNat_eq k)
      rw [BitVec.toNat_add, Nat.mod_eq_of_lt (by simp; omega)]
      simp
      omega

section
variable {p : PortId} {flight : Nat} {peer : Identity} (hst : (s.port p.toNat).st = .retrain)
include hst

theorem retrainComplete_waits (h : (s.port p.toNat).lock = false ∨ (s.port p.toNat).ident ≠ some peer ∨ (s.port p.toNat).measured ≠ some flight) :
    exec (.retrainComplete p flight peer) s = .next s := by
  refine congrArg Host.Outcome.next ?_
  split
  · next hi =>
    unfold retrainComplete
    simp only [hst, hi]
    refine if_pos ?_
    rcases h with h | h | h
    · rw [h]
      rfl
    · exact absurd hi.2 h
    · exact absurd hi.1 h
  · rfl

variable (hl : (s.port p.toNat).lock = true) (hi : (s.port p.toNat).ident = some peer) (hm : (s.port p.toNat).measured = some flight)
include hl hi hm

theorem retrainComplete_far (hf : 300 < flight) : exec (.retrainComplete p flight peer) s = .next (s.linkTo p.toNat .down (some 4)) := by
  refine congrArg Host.Outcome.next ((if_pos ⟨hm, hi⟩).trans ?_)
  unfold retrainComplete
  simp only [hst, hi, hm, hl]
  exact if_pos hf

theorem retrainComplete_near (hf : flight ≤ 300) (hu : (s.port p.toNat).peer.uid = 0 ∨ (s.port p.toNat).peer.uid = peer.uid) :
    exec (.retrainComplete p flight peer) s = .next (((s.setFlight p.toNat flight).known p.toNat peer).toActive p.toNat peer) := by
  have hr : (s.setFlight p.toNat flight).recordPeer p.toNat peer = (s.setFlight p.toNat flight).known p.toNat peer :=
    recordPeer_same (by rw [State.setFlight, port_modPort_same]; exact hu)
  refine congrArg Host.Outcome.next ((if_pos ⟨hm, hi⟩).trans ?_)
  unfold retrainComplete
  simp only [hst, hi, hm, hl, hr]
  exact if_neg (Nat.not_lt.mpr hf)

end

/-! ### Enabling (R424, R436) -/

theorem linkEnable_off (h : (s.port n).st ≠ .disabled) :
    LinkMoved n s (s.linkEnable n false) .disabled 1 (if (s.port n).st = .down then 1 else 2) := by
  have hp : ∀ x : DPort, ({ x with en := false } : DPort).planned = x.planned := fun _ => rfl
  unfold State.linkEnable
  dsimp only
  rw [if_neg (by decide), if_neg h]
  by_cases hd : (s.port n).st = .down
  · rw [if_pos hd, if_pos hd]
    exact linkMoved_modPort (linkMoved_linkTo _ n .disabled (some 1)) hp
  · rw [if_neg hd, if_neg hd]
    refine linkMoved_modPort (f := fun x => { x with en := false }) ?_ hp
    refine (linkMoved_linkTo _ n .down (some 1)).trans (linkMoved_linkTo _ n .disabled (some 1)) ?_ (by decide)
    rw [port_linkTo]
    rfl

theorem linkEnable_on (h : (s.port n).st = .disabled) (hu : s.portUp n = true) (hb : s.boot.loaded.isSome = true) :
    LinkMoved n s (s.linkEnable n true) .train (s.port n).cause 1 ∧ ((s.linkEnable n true).port n).en = true := by
  have hup : (s.modPort n fun x => { x with en := true }).portUp n = s.portUp n := rfl
  have he : s.linkEnable n true = (s.modPort n fun x => { x with en := true }).linkTo n .train none := by
    unfold State.linkEnable
    dsimp only
    rw [if_pos rfl, hup, h, hu]
    exact if_pos hb
  have hm := linkMoved_linkTo (s.modPort n fun x => { x with en := true }) n .train none
  rw [port_modPort_same] at hm
  rw [he]
  refine ⟨linkMoved_modPort hm fun _ => rfl, ?_⟩
  rw [port_linkTo, port_modPort_same]
  rfl

/-! ### Identity frames (R435, R438) -/

/-- The type and the mode of a frame, by its first two bytes. -/
theorem frame_head (l : List Byte) : ((BitVec.ofNat 64 (leAt l 0 8)).extractLsb' 0 4).toNat = leAt l 0 1 % 16 ∧
    ((BitVec.ofNat 64 (leAt l 0 8)).extractLsb' 8 2).toNat = leAt l 1 1 % 4 := by
  have h8 : leAt l 0 8 < 2 ^ 64 := leAt_lt l 0 8
  have h : ∀ l : List Byte, leAt l 0 8 % 16 = leAt l 0 1 % 16 ∧ leAt l 0 8 / 256 % 4 = leAt l 1 1 % 4 := by
    intro l
    rcases l with _ | ⟨a, _ | ⟨b, l⟩⟩
    · exact ⟨rfl, rfl⟩
    · have ha := a.isLt
      simp [leAt, leNat]
      omega
    · have ha := a.isLt
      have hb := b.isLt
      simp [leAt, leNat]
      omega
  simp only [BitVec.extractLsb'_toNat, BitVec.toNat_ofNat]
  rw [Nat.mod_eq_of_lt h8]
  obtain ⟨h1, h2⟩ := h l
  exact ⟨h1, by rw [Nat.shiftRight_eq_div_pow]; exact h2⟩

theorem frameReceive_identity {l : List Byte} (hs : (s.port n).st ≠ .active) (hc : BitVec.ofNat 32 (leAt l 252 4) = crc32 (l.take 252))
    (ht : leAt l 0 1 % 16 = 4) (hm : leAt l 1 1 % 4 = 0) : s.frameReceive n l = s.identityReceive n (identityOf l) := by
  obtain ⟨h1, h2⟩ := frame_head l
  unfold State.frameReceive
  dsimp only
  rw [h1, h2, ht, hm, if_neg (not_not.mpr hc), if_neg hs]
  rfl

end Sys2Proof.Machine

/-- Settles O39: each row is one change of state of its port, or none. -/
theorem linkStates : Obligations.LinkStates := by
  intro s p peer flight cause n x up goes
  have go : ∀ {c : Instr} {st : LinkSt} {cs : BitVec 4} {k : Nat} {t : State}, exec c s = .next t → LinkMoved n s t st cs k → goes c st cs k := by
    intro c st cs k t hx hm
    refine ⟨t, hx, hm.state, hm.cause, hm.raised, fun hp hs hc => ?_⟩
    rw [hm.epoch hp hs]
    exact linkLost_faults _ _ hc
  refine ⟨fun hst hen hup => go (congrArg Host.Outcome.next ?_) (linkMoved_linkTo s n .train none), fun hst hen => congrArg Host.Outcome.next ?_,
    fun hst => ⟨go (congrArg Host.Outcome.next (if_pos hst)) (linkMoved_linkTo s n .down (some 3)), trainComplete_other, fun hm =>
      ⟨fun hf => ⟨go (trainComplete_near hst hm hf) ?_, _, trainComplete_near hst hm hf, ?_⟩, fun hf => go (trainComplete_far hst hm hf)
        (linkMoved_linkTo s n .down (some 4))⟩⟩,
    fun _ h => capsComplete_early h, fun hi h3 hu => ⟨fun hst hfs habi => ?_, fun hst h => ?_, fun hst hfs habi => ?_, fun hst => ?_⟩,
    fun hst => ⟨_, congrArg Host.Outcome.next (if_pos hst), ?_⟩,
    fun hst hc => ⟨go (congrArg Host.Outcome.next (if_pos (by simpa using hc))) (toRetrain_moves cause hst).1,
      go (c := .lnkRetrainRequest p) rfl (toRetrain_moves 9 hst).1, _, congrArg Host.Outcome.next (if_pos (by simpa using hc)), (toRetrain_moves cause hst).2⟩,
    fun hst => ⟨go (congrArg Host.Outcome.next (if_pos hst)) (linkMoved_linkTo s n .train (some 5)), retrainComplete_waits hst, fun hl hi hm =>
      ⟨fun hf hu => go (retrainComplete_near hst hl hi hm hf hu) ?_, fun hf => go (retrainComplete_far hst hl hi hm hf)
        (linkMoved_linkTo s n .down (some 4))⟩⟩,
    fun hst => go (c := .lnkEnableChange p false) rfl (linkEnable_off hst),
    fun hst hup => ⟨go (c := .lnkEnableChange p true) rfl (linkEnable_on hst hup.1 hup.2).1, _, rfl, (linkEnable_on hst hup.1 hup.2).2⟩,
    fun l hst hc ht hm => ?_⟩
  · rw [linkSignalDetect_eq, hst, hen, hup.1, hup.2]
    rfl
  · rw [linkSignalDetect_eq, hst, hen]
    rfl
  · have h := linkMoved_linkTo (s.setFlight n flight) n .caps none
    rw [State.setFlight, port_modPort_same] at h
    exact linkMoved_modPort h fun _ => rfl
  · rw [port_linkTo]
    exact setFlight_port hf
  · have hx := capsComplete_eq hi h3 hu (.inl hst)
    rw [if_pos hst, if_pos (known_ok hfs habi)] at hx
    exact go hx (known_toActive s n peer)
  · have hx := capsComplete_eq hi h3 hu (.inl hst)
    rw [if_pos hst, if_neg (known_no h)] at hx
    exact go hx (known_linkTo s n peer .survey)
  · have hx := capsComplete_eq hi h3 hu (.inr hst)
    rw [if_neg (by rw [hst]; decide), if_pos (known_ok hfs habi)] at hx
    exact go hx (known_linkTo s n peer .caps)
  · refine ⟨_, capsComplete_eq hi h3 hu hst, ?_⟩
    have hk := known_port s n peer
    have hto : ∀ st, ((s.known n peer).linkTo n st none).port n = ((s.port n).knowing peer s.bundle.linkAbi).entered (s.known n peer).linkTime st none :=
      fun st => by rw [port_linkTo, hk]
    split
    · split
      · obtain ⟨-, h1, h2⟩ := toActive_moves (s.known n peer) n peer
        rw [h1, h2, hk]
        exact ⟨rfl, rfl⟩
      · rw [hto]
        exact ⟨rfl, rfl⟩
    · split
      · rw [hto]
        exact ⟨rfl, rfl⟩
      · rw [hk]
        exact ⟨rfl, rfl⟩
  · rw [port_modPort_same]
  · have h := known_toActive (s.setFlight n flight) n peer
    rw [State.setFlight, port_modPort_same] at h
    exact linkMoved_modPort h fun _ => rfl
  · rw [frameReceive_identity hst hc ht hm, State.identityReceive, port_modPort_same]

end

/-! # Footpath packets, register writes and the test access port: the proofs -/

section
open Sys2Proof Sys2Proof.Machine

namespace Sys2Proof.Machine

/-! ## A packet off its link -/

section
variable {s : State} {b : BlockId} {p : FpPacket} {link : FpPos} {tr : FpTransit} {t : WTag}

/-- A packet whose transit has ended without a loss is the node's to take. -/
theorem receive_taken (hf : s.footpath.find? (fun t => decide (t.at_ = s.nodePos (.block b) ∧ t.from_ = link ∧ t.pkt = p)) = some tr)
    (hc : s.crossed tr = true) :
    tr.pkt = p ∧ exec (.footpathPacketReceive (.block b) p link .ok) s = .next (s.nodeTake (.block b) tr .ok) := by
  have hp := List.find?_some hf
  refine ⟨(of_decide_eq_true hp).2.2, congrArg Host.Outcome.next ?_⟩
  unfold footpathPacketReceive
  rw [hf]
  exact if_pos hc

/-- A packet with a reserved KIND or TAG is counted. -/
theorem nodeTake_reserved (hb : tr.bad = false) (h : (if 8 ≤ tr.pkt.kind.toNat then none else WTag.ofCode tr.pkt.tag) = none) :
    s.nodeTake (.block b) tr .ok = ((s.offLink tr).packetGone tr.pkt).bump 0x4001 1 := by
  unfold State.nodeTake
  dsimp only
  rw [if_neg (by rw [hb]; decide), h]

/-- A packet for another node goes on. -/
theorem nodeTake_passes (hb : tr.bad = false) (h : (if 8 ≤ tr.pkt.kind.toNat then none else WTag.ofCode tr.pkt.tag) = some t)
    (hd : packetDest tr.pkt ≠ tr.at_) :
    s.nodeTake (.block b) tr .ok = { s.offLink tr with
      footpath := (s.offLink tr).footpath ++ [⟨tr.at_, nextHop tr.yx tr.at_ (packetDest tr.pkt), tr.yx, 0, false, tr.pkt⟩] } := by
  unfold State.nodeTake
  dsimp only
  rw [if_neg (by rw [hb]; decide), h]
  exact if_pos fun e => hd e.symm

/-- A request for the block is served. -/
theorem nodeTake_served (hb : tr.bad = false) (h : (if 8 ≤ tr.pkt.kind.toNat then none else WTag.ofCode tr.pkt.tag) = some t)
    (hd : packetDest tr.pkt = tr.at_) (h7 : tr.pkt.kind ≠ 7) (hk : packetClass tr.pkt ≠ 0) :
    s.nodeTake (.block b) tr .ok = (s.offLink tr).serve b tr.pkt t .ok := by
  unfold State.nodeTake
  dsimp only
  rw [if_neg (by rw [hb]; decide), h]
  dsimp only
  rw [if_neg (fun e => e hd.symm), if_neg h7, State.nodeReceive, if_neg hk]

theorem offLink_blocks : (s.offLink tr).blocks = s.blocks := rfl

end

/-! ## Serving a request (R351, R416, R417) -/

section
variable {s : State} {b : BlockId} {p : FpPacket} {t : WTag}

theorem serve_load (h : p.kind = 0) :
    s.serve b p t .ok = (s.blockRead b t (p.addr.toNat % 2 ^ 26) (packetAsked p) .ok).1.sendPacket (s.fpCoord b)
      (packetReply p (s.blockRead b t (p.addr.toNat % 2 ^ 26) (packetAsked p) .ok).2 1) := by
  unfold State.serve
  rw [h]
  rfl

theorem serve_store (h : p.kind = 2) :
    s.serve b p t .ok = (s.blockWrite b t (p.addr.toNat % 2 ^ 26) (packetData p) .ok).1.sendPacket (s.fpCoord b)
      (packetReply p (s.blockWrite b t (p.addr.toNat % 2 ^ 26) (packetData p) .ok).2 3) := by
  unfold State.serve
  rw [h]
  rfl

theorem serve_word (h : p.kind = 5) :
    s.serve b p t .ok = (s.mailboxWord b t ((p.data[0]?).getD 0)).1.sendPacket (s.fpCoord b)
      (packetReply p (s.mailboxWord b t ((p.data[0]?).getD 0)).2 3) := by
  unfold State.serve
  rw [h]
  rfl

theorem blockRead_ls {a n : Nat} (hr : s.reachable b = true) (hl : inLs a n = true) (hp : (s.blk b).priv.lsBytes (Who.foot t).ctx a n = true) :
    s.blockRead b t a n .ok = (s, .ok (mload (s.blk b).ls a n)) := by
  simp [State.blockRead, hr, hl, hp]

theorem blockWrite_ls {a : Nat} {l : List Byte} (hr : s.reachable b = true) (hl : inLs a l.length = true)
    (hp : (s.blk b).priv.lsBytes (Who.foot t).ctx a l.length = true) :
    s.blockWrite b t a l .ok = (s.lsStore b a l, .ok []) := by
  simp [State.blockWrite, hr, hl, hp]

theorem mailboxWord_waiting {w : W64} {r : Reg × WTag} (hr : s.reachable b = true) (h : (s.blk b).core.recvs.find? (fun r => decide (r.2 = t)) = some r) :
    s.mailboxWord b t w =
      (s.modCore b fun c => { c with recvs := c.recvs.erase r, longOps := c.longOps ++ [⟨.l1, false, r.1, w, 0, false⟩] }, .ok []) := by
  simp [State.mailboxWord, hr, h]

theorem mailboxWord_queued {w : W64} (hr : s.reachable b = true) (h : (s.blk b).core.recvs.find? (fun r => decide (r.2 = t)) = none)
    (hm : (s.blk b).mbox.length < 16) : s.mailboxWord b t w = (s.modBlk b fun x => { x with mbox := x.mbox ++ [⟨t, w⟩] }, .ok []) := by
  simp [State.mailboxWord, hr, h, hm]

theorem mailboxWord_full {w : W64} (hr : s.reachable b = true) (h : (s.blk b).core.recvs.find? (fun r => decide (r.2 = t)) = none)
    (hm : 16 ≤ (s.blk b).mbox.length) : s.mailboxWord b t w = (s, .err 4) := by
  simp [State.mailboxWord, hr, h, hm]

theorem packetData_length (h : p.size ≤ 8 * p.data.length) : (packetData p).length = p.size := by
  have hl : ∀ l : List W64, (l.flatMap fun w => leBytes 8 w.toNat).length = 8 * l.length := fun l => by
    induction l with
    | nil => rfl
    | cons w l ih => rw [List.flatMap_cons, List.length_append, ih, leBytes_length, List.length_cons]; omega
  rw [packetData, List.length_take, hl]
  exact Nat.min_eq_left h

end

/-! ## Debug accesses (R893) -/

section
variable (s : State) (q : Path) (n : Nat)

theorem leaseEvent_footpath : (s.leaseEvent q n).footpath = s.footpath := rfl
theorem leaseEvent_blocks : (s.leaseEvent q n).blocks = s.blocks := rfl
theorem leaseEvent_tap : (s.leaseEvent q n).tap = s.tap := rfl
theorem leaseEvent_fpRoute (a c : FpPos) : (s.leaseEvent q n).fpRoute a c = s.fpRoute a c := rfl

end

section
variable (s : State) (here : FpPos) (p : FpPacket)

theorem sendPacket_blocks : (s.sendPacket here p).blocks = s.blocks := by
  unfold State.sendPacket
  split
  · rfl
  · split <;> rfl

theorem sendPacket_tap : (s.sendPacket here p).tap = s.tap := by
  unfold State.sendPacket
  split
  · rfl
  · split <;> rfl

end

/-- The state in which a debug access leaves: the instruction is loaded, and the answer awaited. -/
def State.asking (s : State) (q : FpPacket) : State :=
  { s with tap := { s.tap with ir := .debug, asked := if packetAsks q then some q.txn else none, reply := none } }

theorem debug_access (s : State) (p : FpPacket) (h : (s.fastUp && s.debugOpen) = true) :
    exec (.debug (.access p)) s = .next (((s.asking { p with tag := 2, spx := 0xFE, spy := 0 }).leaseEvent (if s.leased .host then .host else .elette) 0).sendPacket
      (0xFE, 0) { p with tag := 2, spx := 0xFE, spy := 0 }) := by
  refine congrArg Host.Outcome.next ((if_pos h).trans ?_)
  rfl

theorem debug_closed (s : State) (p : FpPacket) (h : (s.fastUp && s.debugOpen) = false) :
    exec (.debug (.access p)) s = .next { s with tap := { s.tap with ir := .debug } } :=
  congrArg Host.Outcome.next (if_neg (by rw [Bool.not_eq_true]; exact h))

/-! ## The bits of a byte mask (R99) -/

theorem leNat_testBit (l : List Byte) (i : Nat) : (leNat l).testBit i = (l.getD (i / 8) 0).getLsbD (i % 8) := by
  have hp : 256 ^ (i / 8) = 2 ^ (8 * (i / 8)) := by rw [Nat.pow_mul]
  have hi : 8 * (i / 8) + i % 8 = i := Nat.div_add_mod i 8
  rw [← BitVec.testBit_toNat, ← leNat_byte, hp, show (256 : Nat) = 2 ^ 8 from rfl, Nat.testBit_mod_two_pow, Nat.testBit_div_two_pow, Nat.add_comm, hi,
    decide_eq_true (Nat.mod_lt i (by decide)), Bool.true_and]

theorem byteMask_bit (m : BitVec 8) {i : Nat} (hi : i < 64) : (byteMask m).getLsbD i = m.getLsbD (i / 8) := by
  have h8 : i / 8 < 8 := by omega
  have hj : i % 8 < 8 := Nat.mod_lt i (by decide)
  rw [byteMask, BitVec.getLsbD_ofNat, decide_eq_true hi, Bool.true_and, leNat_testBit]
  simp only [List.getD_eq_getElem?_getD, List.getElem?_map, List.getElem?_range h8, Option.map_some, Option.getD_some]
  cases m.getLsbD (i / 8) with
  | true => exact (show ∀ j < 8, (0xFF : Byte).getLsbD j = true by decide) _ hj
  | false => exact BitVec.getLsbD_zero

theorem registerWrite_block {s : State} {b : BlockId} {off : BitVec 32} (v : W64) (m : BitVec 8) (ho : off.toNat < 0x10000) (hu : s.barsUp = true)
    (hb : s.writeBarred (.block b (0x300000 + off.toNat / 8 * 8)) = false) (hr : s.reachable b = true)
    (hw : s.wayTo (.block b (0x300000 + off.toNat / 8 * 8)) = true) :
    exec (.registerWrite (.block b) off v ⟨m, .served .ok⟩) s = .next (s.crWrite b (.foot .m) (off.toNat / 8 * 8) v (byteMask m)) := by
  refine congrArg Host.Outcome.next ?_
  unfold registerWrite
  dsimp only
  rw [if_neg (by rw [hu]; simp only [Bool.not_true, Bool.false_eq_true, or_false]; omega)]
  unfold State.directWrite
  simp [hb, hr, hw]

/-! ## The clauses -/

section
variable {s : State} {b : BlockId} {p : FpPacket} {tr : FpTransit} {t : WTag} {yx : Bool}

/-- An answer leaves from a state whose links are those of `s` without the transit. -/
theorem replies_sendPacket {u : State} (hf : u.footpath = s.footpath.erase tr) (hr : u.fpRoute = s.fpRoute) (r : FpPacket)
    (h : s.fpRoute (s.fpCoord b) (packetDest r) = some yx) :
    (u.sendPacket (s.fpCoord b) r).footpath =
      s.footpath.erase tr ++ [⟨s.fpCoord b, nextHop yx (s.fpCoord b) (packetDest r), yx, 0, false, r⟩] := by
  rw [← hf]
  exact sendPacket_of_way u _ r (by rw [hr]; exact h)

theorem OnlyBlock.fpRoute {s u : State} (h : OnlyBlock b s u) : u.fpRoute = s.fpRoute := by
  obtain ⟨hrest, -⟩ := h
  have k := congrArg State.fpRoute hrest
  exact k

/-- A change of the block keeps the links of a state off its link. -/
theorem replies_onlyBlock {u : State} (h : OnlyBlock b (s.offLink tr) u) (r : FpPacket) :
    ∀ yx, s.fpRoute (s.fpCoord b) (packetDest r) = some yx → (u.sendPacket (s.fpCoord b) r).footpath =
      s.footpath.erase tr ++ [⟨s.fpCoord b, nextHop yx (s.fpCoord b) (packetDest r), yx, 0, false, r⟩] :=
  fun _ hyx => replies_sendPacket h.footpath h.fpRoute r hyx

theorem replies_answer {u : State} (h : OnlyBlock b (s.offLink tr) u) (kind : Nat) (err : BitVec 4) (data : List W64) :
    ∀ yx, s.fpRoute (s.fpCoord b) (packetSource p) = some yx → (u.sendPacket (s.fpCoord b) (answer p kind err data)).footpath =
      s.footpath.erase tr ++ [⟨s.fpCoord b, nextHop yx (s.fpCoord b) (packetSource p), yx, 0, false, answer p kind err data⟩] :=
  replies_onlyBlock h (answer p kind err data)

theorem load_clause (hb : tr.bad = false) (hd : packetDest tr.pkt = tr.at_) (hr : s.reachable b = true) (ht : WTag.ofCode tr.pkt.tag = some t)
    (hk : tr.pkt.kind = 0) (hl : inLs (tr.pkt.addr.toNat % 2 ^ 26) (packetAsked tr.pkt) = true)
    (hp : (s.blk b).priv.lsBytes (Who.foot t).ctx (tr.pkt.addr.toNat % 2 ^ 26) (packetAsked tr.pkt) = true) :
    s.nodeTake (.block b) tr .ok = (s.offLink tr).sendPacket (s.fpCoord b)
      (answer tr.pkt 1 0 (wordsOf (mload (s.blk b).ls (tr.pkt.addr.toNat % 2 ^ 26) (packetAsked tr.pkt)))) := by
  rw [nodeTake_served hb (t := t) (by rw [hk]; exact ht) hd (by rw [hk]; decide) (by simp [packetClass, hk]), serve_load hk,
    blockRead_ls (s := s.offLink tr) (b := b) (t := t) hr hl hp]
  rfl

theorem store_clause (hb : tr.bad = false) (hd : packetDest tr.pkt = tr.at_) (hr : s.reachable b = true) (ht : WTag.ofCode tr.pkt.tag = some t)
    (hk : tr.pkt.kind = 2) (hn : tr.pkt.size ≤ 8 * tr.pkt.data.length) (hl : inLs (tr.pkt.addr.toNat % 2 ^ 26) tr.pkt.size = true)
    (hp : (s.blk b).priv.lsBytes (Who.foot t).ctx (tr.pkt.addr.toNat % 2 ^ 26) tr.pkt.size = true) :
    s.nodeTake (.block b) tr .ok =
      ((s.offLink tr).lsStore b (tr.pkt.addr.toNat % 2 ^ 26) (packetData tr.pkt)).sendPacket (s.fpCoord b) (answer tr.pkt 3 0 []) := by
  rw [← packetData_length hn] at hl hp
  rw [nodeTake_served hb (t := t) (by rw [hk]; exact ht) hd (by rw [hk]; decide) (by simp [packetClass, hk]), serve_store hk,
    blockWrite_ls (s := s.offLink tr) (b := b) (t := t) hr hl hp]
  rfl

/-- The bytes of a store that has left its answer behind. -/
theorem stored_bytes (u : State) (here : FpPos) (a : Nat) (l : List Byte) (r : FpPacket) :
    let v := (u.lsStore b a l).sendPacket here r
    mload (v.blk b).ls a l.length = l ∧ ∀ k, (k < a ∨ a + l.length ≤ k) → mget (v.blk b).ls k = mget (u.blk b).ls k := by
  have h : (((u.lsStore b a l).sendPacket here r).blk b).ls = mstore (u.blk b).ls a l := by rw [blk_sendPacket, (lsWritten_lsStore b u a l).ls]
  exact ⟨by rw [h, mload_mstore_same], fun k hk => by rw [h, mget_mstore_out _ _ _ hk]⟩

theorem word_clause (hb : tr.bad = false) (hd : packetDest tr.pkt = tr.at_) (ht : WTag.ofCode tr.pkt.tag = some t) (hk : tr.pkt.kind = 5) :
    s.nodeTake (.block b) tr .ok = ((s.offLink tr).mailboxWord b t ((tr.pkt.data[0]?).getD 0)).1.sendPacket (s.fpCoord b)
      (packetReply tr.pkt ((s.offLink tr).mailboxWord b t ((tr.pkt.data[0]?).getD 0)).2 3) := by
  rw [nodeTake_served hb (t := t) (by rw [hk]; exact ht) hd (by rw [hk]; decide) (by simp [packetClass, hk]), serve_word hk]
  rfl

theorem noRecv_find {l : List (Reg × WTag)} (h : ∀ r ∈ l, r.2 ≠ t) : l.find? (fun r => decide (r.2 = t)) = none :=
  List.find?_eq_none.2 fun r hr => by rw [decide_eq_true_eq]; exact h r hr

/-- A word that an outstanding mbx.recv awaits goes to it. -/
theorem word_awaited {r : Reg × WTag} {w : W64} (hr : s.reachable b = true) (hf : (s.blk b).core.recvs.find? (fun r => decide (r.2 = t)) = some r) :
    ∃ u, s.mailboxWord b t w = (u, .ok []) ∧ OnlyBlock b s u ∧ (u.blk b).mbox = (s.blk b).mbox ∧
      (u.blk b).core.recvs = (s.blk b).core.recvs.erase r ∧
      (u.blk b).core.longOps = (s.blk b).core.longOps ++ [⟨.l1, false, r.1, w, 0, false⟩] ∧ u.pcOf b = s.pcOf b :=
  ⟨_, mailboxWord_waiting hr hf, onlyBlock_modBlk b s _, by simp [State.modCore], by simp [State.modCore], by simp [State.modCore],
    by simp [State.modCore, State.pcOf]⟩

/-- A word that none awaits joins a mailbox that has room. -/
theorem word_joins {w : W64} (hr : s.reachable b = true) (hf : (s.blk b).core.recvs.find? (fun r => decide (r.2 = t)) = none)
    (hm : (s.blk b).mbox.length < 16) :
    ∃ u, s.mailboxWord b t w = (u, .ok []) ∧ OnlyBlock b s u ∧ (u.blk b).mbox = (s.blk b).mbox ++ [⟨t, w⟩] :=
  ⟨_, mailboxWord_queued hr hf hm, onlyBlock_modBlk b s _, by simp⟩

theorem traceDropped_kept (u : State) : u.traceDropped.footpath = u.footpath ∧ u.traceDropped.blocks = u.blocks := ⟨rfl, rfl⟩

theorem bump_kept (u : State) (i j : Nat) : (u.bump i j).footpath = u.footpath ∧ (u.bump i j).blocks = u.blocks := by
  unfold State.bump State.keepCounter
  dsimp only
  split <;> exact ⟨rfl, rfl⟩

/-- A reserved KIND or TAG names no kind of access. -/
theorem reserved_noTag (h : 8 ≤ p.kind.toNat ∨ p.tag = 3) : (if 8 ≤ p.kind.toNat then none else WTag.ofCode p.tag) = none := by
  rcases h with h | h
  · exact if_pos h
  · rw [h]
    exact ite_self _

theorem some_of_tag {t : BitVec 2} (h : t ≠ 3) : ∃ w, WTag.ofCode t = some w := by
  have hs : ∀ t : BitVec 2, t ≠ 3 → (WTag.ofCode t).isSome = true := by decide
  exact Option.isSome_iff_exists.1 (hs t h)

end

end Sys2Proof.Machine

/-- Settles O38: what the node of a block does with a packet that has come over its link, by its kind, and what a register write and a debug
access are, each from the equation of its function. -/
theorem outsideAccesses : Obligations.OutsideAccesses := by
  unfold Obligations.OutsideAccesses
  intro s b p
  dsimp only
  refine ⟨fun link tr hf hc hbad => ?_, fun off v m ho hu hb hr hw => ⟨registerWrite_block v m ho hu hb hr hw, fun i hi => byteMask_bit m hi⟩,
    fun hopen yx hyx => ?_, debug_closed s p⟩
  · obtain ⟨rfl, he⟩ := receive_taken hf hc
    rw [he]
    refine ⟨fun hd hr t ht => ⟨fun hk hl hp => ?_, fun hk hn hl hp => ?_, fun hk => ?_⟩, fun hres h7 => ?_, fun h7 h3 => ?_, fun h8 h3 hd => ?_⟩
    · rw [load_clause hbad hd hr ht hk hl hp]
      exact ⟨_, rfl, sendPacket_blocks (s.offLink tr) _ _, replies_answer (onlyBlock_refl b _) _ _ _⟩
    · rw [store_clause hbad hd hr ht hk hn hl hp]
      obtain ⟨hin, hout⟩ := stored_bytes (b := b) (s.offLink tr) (s.fpCoord b) (tr.pkt.addr.toNat % 2 ^ 26) (packetData tr.pkt) (answer tr.pkt 3 0 [])
      rw [packetData_length hn] at hin hout
      exact ⟨_, rfl, hin, hout, replies_answer (onlyBlock_modBlk b _ _) _ _ _⟩
    · rw [word_clause hbad hd ht hk]
      refine ⟨_, rfl, fun r hfind => ?_, fun hnone hm => ?_, fun hnone hm => ?_⟩
      · obtain ⟨u, hu, ho, hmb, hre, hlo, hpc⟩ := word_awaited (s := s.offLink tr) (w := (tr.pkt.data[0]?).getD 0) hr hfind
        rw [hu]
        refine ⟨?_, ?_, ?_, ?_, replies_answer ho _ _ _⟩
        · rw [blk_sendPacket, hmb]; rfl
        · rw [blk_sendPacket, hre]; rfl
        · rw [blk_sendPacket, hlo]; rfl
        · rw [State.pcOf, blk_sendPacket]; exact hpc
      · obtain ⟨u, hu, ho, hmb⟩ := word_joins (s := s.offLink tr) (w := (tr.pkt.data[0]?).getD 0) hr (noRecv_find hnone) hm
        rw [hu]
        exact ⟨by rw [blk_sendPacket, hmb]; rfl, replies_answer ho _ _ _⟩
      · rw [mailboxWord_full (s := s.offLink tr) hr (noRecv_find hnone) hm]
        exact ⟨by rw [blk_sendPacket]; rfl, replies_answer (onlyBlock_refl b _) _ _ _⟩
    · rw [nodeTake_reserved hbad (reserved_noTag hres), State.packetGone, if_neg h7]
      exact ⟨_, rfl, (bump_kept _ _ _).1, bump_counter _ 0x4001 1 1, (bump_kept _ _ _).2⟩
    · rw [nodeTake_reserved hbad (by rw [h3]; exact ite_self _), State.packetGone, if_pos h7]
      exact ⟨_, rfl, (bump_kept _ _ _).1, (bump_kept _ _ _).2⟩
    · obtain ⟨w, hw⟩ := some_of_tag h3
      rw [nodeTake_passes (t := w) hbad (by rw [if_neg (by omega)]; exact hw) hd]
      exact ⟨_, rfl, rfl, rfl⟩
  · rw [debug_access s p hopen]
    refine ⟨_, rfl, ?_, sendPacket_blocks _ _ _, ?_, ?_, ?_⟩
    · exact sendPacket_of_way ((s.asking { p with tag := 2, spx := 0xFE, spy := 0 }).leaseEvent _ 0) (0xFE, 0) _ hyx
    · rw [sendPacket_tap]; rfl
    · rw [sendPacket_tap]; rfl
    · rw [sendPacket_tap]; rfl
end

/-! # Epochs, the gate and its decision: the proofs -/

section
open Sys2Proof Sys2Proof.Machine

namespace Sys2Proof.Machine

/-! ## What the gate works on

`gated` is the epoch record without the peak of tokens, with the plan: the operations below leave it as it is, or change what their equation says.
`gist` leaves the faults charged to the epoch in progress out too. -/

structure Gated where
  epoch : Epoch
  plan : PlanSt
  pl : PlanRec
  k : Nat

def State.gated (s : State) : Gated := ⟨{ s.epoch with peak := 0 }, s.plan, s.pl, s.k⟩

def Epoch.gist (e : Epoch) : Epoch := { e with peak := 0, faults := .reset, linkOut := [] }

def State.gist (s : State) : Gated := ⟨s.epoch.gist, s.plan, s.pl, s.k⟩

section
variable {s t : State}

theorem gist_of_gated (h : t.gated = s.gated) : t.gist = s.gist :=
  congrArg (fun g : Gated => ({ g with epoch := g.epoch.gist } : Gated)) h

theorem plan_of_gated (h : t.gated = s.gated) : t.plan = s.plan := congrArg Gated.plan h
theorem pl_of_gated (h : t.gated = s.gated) : t.pl = s.pl := congrArg Gated.pl h
theorem epoch_of_gated {α : Type} (p : Epoch → α) (hp : ∀ e : Epoch, p { e with peak := 0 } = p e) (h : t.gated = s.gated) : p t.epoch = p s.epoch := by
  rw [← hp t.epoch, ← hp s.epoch]
  exact congrArg (fun g : Gated => p g.epoch) h

theorem plan_of_gist (h : t.gist = s.gist) : t.plan = s.plan := congrArg Gated.plan h

theorem OnlyBlock.gated {b : BlockId} (h : OnlyBlock b s t) : t.gated = s.gated := by
  obtain ⟨hrest, -⟩ := h
  have k := congrArg State.gated hrest
  exact k

end

section
variable (s : State)

theorem gated_ite {p : Prop} [Decidable p] {t u : State} {g : Gated} (ht : t.gated = g) (hu : u.gated = g) : (if p then t else u).gated = g := by
  split
  · exact ht
  · exact hu

theorem gist_ite {p : Prop} [Decidable p] {t u : State} {g : Gated} (ht : t.gist = g) (hu : u.gist = g) : (if p then t else u).gist = g := by
  split
  · exact ht
  · exact hu

theorem eachPort_gated {f : State → Nat → State} (h : ∀ s n, (f s n).gated = s.gated) : (s.eachPort f).gated = s.gated :=
  foldl_keeps State.gated h _ s

theorem eachPlaced_gated {f : State → BlockId → State} (h : ∀ s b, (f s b).gated = s.gated) : (s.eachPlaced f).gated = s.gated :=
  foldl_keeps State.gated h _ s

theorem eachListed_gated {f : State → BlockId → State} (h : ∀ s b, (f s b).gated = s.gated) : (s.eachListed f).gated = s.gated :=
  foldl_keeps State.gated h _ s

/-! ### Events and counts -/

theorem bump_gated (i j n : Nat) : (s.bump i j n).gated = s.gated := by
  unfold State.bump State.keepCounter
  dsimp only
  split <;> rfl

theorem raise_gated (kind : Nat) (ref result tag : W64) : (s.raise kind ref result tag).gated = s.gated := rfl

theorem raiseVector_gated (v : BitVec 6) : (s.raiseVector v).gated = s.gated := by
  unfold State.raiseVector
  dsimp only
  split <;> rfl

theorem hifEvent_gated (n : Nat) : (s.hifEvent n).gated = s.gated := by
  unfold State.hifEvent
  dsimp only
  split
  · exact raiseVector_gated _ _
  · rfl

theorem raiseThermal_gated (kind ref code : Nat) : (s.raiseThermal kind ref code).gated = s.gated := hifEvent_gated _ _

theorem planChange_gated (p : PlanSt) : (s.planChange p).gated = { s.gated with plan := p } := hifEvent_gated _ _

theorem moveWords_gated (key n : Nat) : (s.moveWords key n).gated = s.gated := by
  unfold State.moveWords
  split <;> rfl

theorem receivedWords_gated (n : Nat) : (s.receivedWords n).gated = s.gated := moveWords_gated s _ _

theorem modPort_gated (p : Nat) (f : DPort → DPort) : (s.modPort p f).gated = s.gated := rfl

theorem modEdge_gated (e : Edge) (f : EdgeDie → EdgeDie) : (s.modEdge e f).gated = s.gated := by cases e <;> rfl

theorem settleMessages_gated (a b c : Nat) : (s.settleMessages a b c).1.gated = s.gated := rfl

/-! ### Modes of blocks -/

theorem setPll_gated (q : Nat) (p : QPll) : (s.setPll q p).gated = s.gated := rfl

theorem mapQuarter_gated (q : Nat) (f : Block → Block) : (s.mapQuarter q f).gated = s.gated := rfl

theorem notePeak_gated : s.notePeak.gated = s.gated := rfl

theorem quarterDeep_gated (q : Nat) : (s.quarterDeep q).gated = s.gated := by
  unfold State.quarterDeep
  dsimp only
  rw [mapQuarter_gated]
  exact eachListed_gated s fun u b => gated_ite (onlyBlock_changeMode u .deep).gated rfl

theorem quarterModes_gated (q : Nat) (before : Bool) : (s.quarterModes q before).gated = s.gated := by
  unfold State.quarterModes
  dsimp only
  refine gated_ite ((eachPlaced_gated _ fun u b => gated_ite ?_ rfl).trans (gated_ite rfl rfl)) ((quarterDeep_gated _ q).trans (gated_ite rfl rfl))
  exact (onlyBlock_planMode _ b _).gated

theorem epochModes_gated (first : Bool) : (s.epochModes first).gated = s.gated := by
  unfold State.epochModes
  refine gated_ite rfl ?_
  rw [notePeak_gated]
  exact foldl_keeps State.gated (fun u q => gated_ite (quarterModes_gated u q _) rfl) _ s

theorem bubbleModes_gated : s.bubbleModes.gated = s.gated := by
  unfold State.bubbleModes
  rw [notePeak_gated]
  refine eachPlaced_gated s fun u b => ?_
  dsimp only
  split
  · exact (onlyBlock_changeMode u .sleep).gated
  · rfl
  · rfl

theorem planSleep_gated : s.planSleep.gated = s.gated := by
  unfold State.planSleep
  dsimp only
  refine (foldl_keeps State.gated (fun (u : State) (q : Nat) => ?_) [0, 1, 2, 3] _).trans (eachPlaced_gated s fun u b => gated_ite ?_ rfl)
  · split <;> rfl
  exact (onlyBlock_trans (onlyBlock_changeMode u .sleep) (onlyBlock_modBlk b _ _)).gated

/-! ### Held messages -/

theorem emptied_gated (b : Tab Block) (o : List (Nat × Outlet)) (x y : EdgeDie) :
    ({ s with blocks := b, outlets := o, edge0 := x, edge1 := y } : State).gated = s.gated := rfl

theorem discardHeld_gated (now : Bool) : (s.discardHeld now).gated = s.gated := by
  have hq : ∀ (u : State) (p : Nat), (if (u.port p).queue = [] then u else u.setPort p (u.portNow p)).gated = u.gated := fun u p => gated_ite rfl rfl
  unfold State.discardHeld
  dsimp only
  exact (emptied_gated _ _ _ _ _).trans
    ((eachPort_gated _ fun u p => gated_ite rfl (modPort_gated u _ _)).trans ((receivedWords_gated _ _).trans (eachPort_gated s hq)))

theorem settleStop_gated : s.settleStop.gated = s.gated := settleMessages_gated s _ _ _

/-! ### Faults -/

theorem charge_gist (row : Nat) (b : BitVec 16) : (s.charge row b).gist = s.gist := gist_ite rfl rfl

theorem chargeMany_gist (row : Nat) (b : BitVec 16) (n : Nat) : (s.chargeMany row b n).gist = s.gist :=
  foldl_keeps State.gist (fun u _ => charge_gist u row b) _ s

theorem noteLinkOut_gist (p : Nat) : (s.noteLinkOut p).gist = s.gist := gist_ite (charge_gist _ _ _) rfl

end

/-! ## Entry to BOUND (R58, R406) -/

section
variable (s : State)

theorem hifEvent_blocks (n : Nat) : (s.hifEvent n).blocks = s.blocks := by
  unfold State.hifEvent
  dsimp only
  split
  · unfold State.raiseVector
    dsimp only
    split <;> rfl
  · rfl

theorem planChange_epoch (p : PlanSt) : (s.planChange p).epoch = s.epoch := hifEvent_epoch _ _

theorem planChange_blocks (p : PlanSt) : (s.planChange p).blocks = s.blocks := hifEvent_blocks _ _

theorem emptied_blocks (b : Tab Block) (o : List (Nat × Outlet)) (x y : EdgeDie) :
    ({ s with blocks := b, outlets := o, edge0 := x, edge1 := y } : State).blocks = b := rfl

theorem discardHeld_blocks (now : Bool) : ∃ l : Tab Block, (s.discardHeld now).blocks = l.map fun e => (e.1, e.2.discarded) := by
  unfold State.discardHeld
  exact ⟨_, emptied_blocks _ _ _ _ _⟩

/-- A plan that has entered BOUND: no epoch in progress, no milestone record, no held message. -/
structure BoundIdle (t : State) : Prop where
  plan : t.plan = .bound
  idle : t.epoch.active = false
  recs : t.pl.recs = []
  held : ∀ e ∈ t.blocks, e.2.msg.hold = []

theorem toBound_idle : s.toBound.epoch.active = false ∧ s.toBound.pl.recs = [] := by
  unfold State.toBound
  generalize (s.discardHeld false).settleStop = u
  exact ⟨rfl, rfl⟩

theorem settleStop_blocks : s.settleStop.blocks = s.blocks := rfl

theorem toBound_blocks : s.toBound.blocks = (s.discardHeld false).blocks := by
  have h : s.toBound.blocks = (s.discardHeld false).settleStop.blocks := by
    unfold State.toBound
    dsimp only
  rw [h, settleStop_blocks]

theorem bound_toBound : BoundIdle (s.toBound.planChange .bound) := by
  have hg := planChange_gated s.toBound .bound
  obtain ⟨hidle, hrecs⟩ := toBound_idle s
  refine ⟨congrArg Gated.plan hg, ?_, ?_, fun e he => ?_⟩
  · exact (congrArg (fun g : Gated => g.epoch.active) hg).trans hidle
  · exact (congrArg (fun g : Gated => g.pl.recs) hg).trans hrecs
  · obtain ⟨l, hl⟩ := discardHeld_blocks s false
    rw [planChange_blocks, toBound_blocks, hl, List.mem_map] at he
    obtain ⟨x, -, rfl⟩ := he
    rfl

end

/-! ## Epoch boundaries (R79, R83) -/

section
variable {s : State}

theorem epochBoundary_last (h : s.epoch.atEnd = true) (hp : s.plan = .running ∨ s.plan = .halted) (hn : s.epoch.num + 1 = 0xFFFFFFFFFFFFFFFF) :
    exec .epochBoundary s = .next s.stopHere := by
  have hs : s.plan ≠ .stopping := by rcases hp with e | e <;> rw [e] <;> decide
  have hl : (s.epoch.num + 1).toNat = 2 ^ 64 - 1 := by rw [hn]; decide
  refine congrArg Host.Outcome.next ?_
  unfold epochBoundary
  dsimp only
  rw [if_neg (by rw [h]; decide), if_neg (by rw [decide_eq_false hs]; exact Bool.false_ne_true), if_pos hl]

/-- Cycle 0 of the next epoch. -/
def State.nextEpoch (s : State) : State :=
  (((((s.pass 1).latch).modEpoch fun e => e.enter (s.epoch.num + 1) ((s.pass 1).latch).timeNs).newPortEpoch).epochModes false)

theorem epochBoundary_next (h : s.epoch.atEnd = true) (hp : s.plan = .running ∨ s.plan = .halted) (hn : s.epoch.num + 1 ≠ 0xFFFFFFFFFFFFFFFF) :
    exec .epochBoundary s = .next s.nextEpoch := by
  have hs : s.plan ≠ .stopping := by rcases hp with e | e <;> rw [e] <;> decide
  have hl : (s.epoch.num + 1).toNat ≠ 2 ^ 64 - 1 := fun e => hn (BitVec.eq_of_toNat_eq (e.trans (by decide)))
  refine congrArg Host.Outcome.next ?_
  unfold epochBoundary
  dsimp only
  rw [if_neg (by rw [h]; decide), if_neg (by rw [decide_eq_false hs]; exact Bool.false_ne_true), if_neg hl]
  rfl

/-- The ports in cycle 0 of an epoch, before the faults of links that are out. -/
def State.portsRenewed (s : State) : State :=
  ({ s with ports := s.ports.map fun e => (e.1, e.2.newEpoch s.epoch.num) } : State).modEpoch fun e => { e with linkOut := [] }

theorem newPortEpoch_gist (u : State) : u.newPortEpoch.gist = u.gist :=
  (foldl_keeps State.gist (fun v p => noteLinkOut_gist v p) allPorts u.portsRenewed).trans rfl

theorem portsRenewed_port (u : State) (p : Nat) :
    (u.portsRenewed.port p).planned = (u.port p).planned ∧ (u.portsRenewed.port p).st = (u.port p).st := by
  have h : ∀ t : Tab DPort, (look DPort.reset (t.map fun e => (e.1, e.2.newEpoch u.epoch.num)) p).planned = (look DPort.reset t p).planned ∧
      (look DPort.reset (t.map fun e => (e.1, e.2.newEpoch u.epoch.num)) p).st = (look DPort.reset t p).st := fun t => by
    induction t with
    | nil => exact ⟨rfl, rfl⟩
    | cons e t ih =>
      by_cases hk : p = e.1
      · simp [look, hk, DPort.newEpoch]
      · simp [look, hk, ih]
  exact h u.ports

theorem noteLinkOut_active {u : State} {p : Nat} (h : (u.port p).planned = true → (u.port p).st = .active) : u.noteLinkOut p = u := by
  refine if_neg fun e => ?_
  simp only [Bool.and_eq_true, decide_eq_true_eq] at e
  obtain ⟨⟨hp, hs⟩, -⟩ := e
  exact hs (h hp)

/-- Where every planned port is ACTIVE, no port charges the new epoch. -/
theorem newPortEpoch_active {u : State} (h : ∀ p < 8, (u.port p).planned = true → (u.port p).st = .active) : u.newPortEpoch = u.portsRenewed := by
  have hall : ∀ p ∈ allPorts, (u.portsRenewed.port p).planned = true → (u.portsRenewed.port p).st = .active := fun p hp => by
    obtain ⟨h1, h2⟩ := portsRenewed_port u p
    rw [h1, h2]
    exact h p ((show ∀ p ∈ allPorts, p < 8 by decide) p hp)
  have hfold : ∀ l : List Nat, (∀ p ∈ l, p ∈ allPorts) → l.foldl State.noteLinkOut u.portsRenewed = u.portsRenewed := fun l => by
    induction l with
    | nil => exact fun _ => rfl
    | cons p l ih =>
      intro hl
      rw [List.foldl_cons, noteLinkOut_active (hall p (hl p List.mem_cons_self)), ih fun q hq => hl q (List.mem_cons_of_mem p hq)]
  exact hfold allPorts fun _ hp => hp

theorem nextEpoch_gist (s : State) : s.nextEpoch.gist =
    ((((s.pass 1).latch).modEpoch fun e => e.enter (s.epoch.num + 1) ((s.pass 1).latch).timeNs)).gist :=
  (gist_of_gated (epochModes_gated _ _)).trans (newPortEpoch_gist _)

theorem enter_latch_faults (u : State) (n : W64) (now : Nat) :
    (u.latch.modEpoch fun e => e.enter n now).portsRenewed.epoch.faults = .reset := rfl

theorem enter_latch_port (u : State) (n : W64) (now p : Nat) : (u.latch.modEpoch fun e => e.enter n now).port p = u.port p := rfl

theorem nextEpoch_faults (h : ∀ p < 8, (s.port p).planned = true → (s.port p).st = .active) : s.nextEpoch.epoch.faults = .reset := by
  have hp : ∀ p < 8, ((s.pass 1).port p).planned = true → ((s.pass 1).port p).st = .active := h
  unfold State.nextEpoch
  generalize s.pass 1 = u at hp
  refine (epoch_of_gated Epoch.faults (fun _ => rfl) (epochModes_gated _ false)).trans ?_
  rw [newPortEpoch_active (fun p hlt => by rw [enter_latch_port]; exact hp p hlt)]
  exact enter_latch_faults u _ _

/-! ## The end of an epoch (R401) -/

theorem overrun_gist (u : State) (b : BlockId) : (u.overrun b).gist = u.gist := by
  have h : OnlyBlock b (u.charge rowOverrun (blkRef b)) (u.overrun b) :=
    onlyBlock_trans (onlyBlock_modPriv _ _) (onlyBlock_trans (onlyBlock_modCore _ _) (onlyBlock_trans (trcOnly_tracePark b _ _).only (onlyBlock_modCore _ _)))
  rw [gist_of_gated h.gated, charge_gist]

theorem modBlk_gist (u : State) (b : BlockId) (f : Block → Block) : (u.modBlk b f).gist = u.gist := rfl

theorem receivedWords_gist (u : State) (n : Nat) : (u.receivedWords n).gist = u.gist := gist_of_gated (receivedWords_gated u n)

theorem endBlock_gist (u : State) (b : BlockId) : (u.endBlock b).gist = u.gist := by
  unfold State.endBlock
  dsimp only
  rw [modBlk_gist, receivedWords_gist, chargeMany_gist, chargeMany_gist, chargeMany_gist]
  split
  · exact overrun_gist u b
  · rfl

theorem endOutlet_gist (u : State) (x : Outlet) : (u.endOutlet x).gist = u.gist := by
  unfold State.endOutlet
  dsimp only
  rw [receivedWords_gist]
  exact gist_ite ((charge_gist _ _ _).trans ((chargeMany_gist _ _ _ _).trans (chargeMany_gist _ _ _ _)))
    ((chargeMany_gist _ _ _ _).trans (chargeMany_gist _ _ _ _))

theorem mapOutlets_gist (u : State) (f : Outlet → Outlet) : (u.mapOutlets f).gist = u.gist := rfl

theorem endOutlets_gist (u : State) : u.endOutlets.gist = u.gist := by
  unfold State.endOutlets
  dsimp only
  rw [mapOutlets_gist]
  exact foldl_keeps State.gist (fun v x => endOutlet_gist v x.2) u.outlets u

/-- What the blocks, the outlets, the ports and the edge dies do at the end of an epoch. -/
def State.lastCycleDone (u : State) : State :=
  let u := u.eachPlaced State.keepNext
  let u := if u.epoch.outcome = .run ∧ u.plan ≠ .halted then (u.eachPlaced State.endBlock).endOutlets else u
  let u := u.eachPort fun u p => if (u.port p).queue = [] then u else u.modPort p fun x => { x.lose x.queue.length 0 with queue := [] }
  (u.modEdge .e0 EdgeDie.endEpoch).modEdge .e1 EdgeDie.endEpoch

theorem lastCycleDone_gist (u : State) : u.lastCycleDone.gist = u.gist := by
  have hp : ∀ (u : State) (p : Nat), (if (u.port p).queue = [] then u else u.modPort p fun x => { x.lose x.queue.length 0 with queue := [] }).gist = u.gist :=
    fun u p => gist_ite rfl rfl
  have hk : (u.eachPlaced State.keepNext).gist = u.gist := gist_of_gated (eachPlaced_gated u fun v b => (onlyBlock_keepNext v).gated)
  unfold State.lastCycleDone
  dsimp only
  rw [gist_of_gated (modEdge_gated _ _ _), gist_of_gated (modEdge_gated _ _ _)]
  refine (foldl_keeps State.gist hp _ _).trans (gist_ite ?_ hk)
  exact (endOutlets_gist _).trans ((foldl_keeps State.gist endBlock_gist _ _).trans hk)

theorem epochEnd_eq (ha : s.epoch.active = true) (hb : s.epoch.begun = true) (he : s.epoch.ended = false) :
    exec .epochEnd s = .next ((s.advanceTo (2 ^ s.k - 1)).lastCycleDone.modEpoch fun e => { e with ended := true }) := by
  refine congrArg Host.Outcome.next ?_
  unfold epochEnd
  rw [if_pos (by rw [ha, hb, he]; rfl)]
  rfl

theorem epoch_of_gist {α : Type} {t : State} (p : Epoch → α) (hp : ∀ e : Epoch, p e.gist = p e) (h : t.gist = s.gist) : p t.epoch = p s.epoch := by
  rw [← hp t.epoch, ← hp s.epoch]
  exact congrArg (fun g : Gated => p g.epoch) h

theorem advanceTo_epoch (c : Nat) (h : s.epoch.active = true) : (s.advanceTo c).epoch = { s.epoch with cycle := max c s.epoch.cycle } := by
  rw [State.advanceTo, if_pos h]
  rfl

theorem advanceTo_plan (s : State) (c : Nat) : (s.advanceTo c).plan = s.plan := by
  unfold State.advanceTo
  split <;> rfl

/-! ## The start time and the stop boundary (R56, R57) -/

theorem planStartTime_last (hp : s.plan = .starting) (ha : s.epoch.active = false) (he : s.pl.e0 = 0xFFFFFFFFFFFFFFFF) :
    exec .planStartTime s = .next ((s.pass (s.cyclesTo s.pl.startNs)).toBound.planChange .bound) := by
  have h0 : (s.pass (s.cyclesTo s.pl.startNs)).pl.e0.toNat = 2 ^ 64 - 1 := by
    show s.pl.e0.toNat = _
    rw [he]
    decide
  refine congrArg Host.Outcome.next ?_
  unfold planStartTime
  dsimp only
  rw [if_pos (by rw [hp, ha]; rfl), if_pos h0]

/-- Cycle 0 of E0, when the start time has come. -/
def State.startEpoch (u : State) : State :=
  u.modEpoch fun e =>
    { e.enter u.pl.e0 u.timeNs with
      active := true, settled := false, faults := .reset, latched := .reset, prevRan := .none, haltAt := none, peak := 0
      nxt := if e.lastGated = some (u.pl.e0 - 1) then e.nxt else { e.nxt with prev := .none } }

theorem planStartTime_runs (hp : s.plan = .starting) (ha : s.epoch.active = false) (he : s.pl.e0 ≠ 0xFFFFFFFFFFFFFFFF) :
    exec .planStartTime s = .next ((((s.pass (s.cyclesTo s.pl.startNs)).startEpoch.newPortEpoch).planChange .running).epochModes true) := by
  have h0 : (s.pass (s.cyclesTo s.pl.startNs)).pl.e0.toNat ≠ 2 ^ 64 - 1 := fun e => he (BitVec.eq_of_toNat_eq (e.trans (by decide)))
  have h1 : (s.pass (s.cyclesTo s.pl.startNs)).startEpoch.newPortEpoch.plan = .starting := (plan_of_gist (newPortEpoch_gist _)).trans hp
  refine congrArg Host.Outcome.next ?_
  unfold planStartTime
  dsimp only
  rw [if_pos (by rw [hp, ha]; rfl), if_neg h0]
  exact congrArg (fun u : State => u.epochModes true) (if_pos h1)

theorem planStopBoundary_stops (hp : s.plan = .stopping) (h : s.epoch.atEnd = true ∧ s.pl.stopEpoch ≤ s.epoch.num + 1 ∨
      s.epoch.active = true ∧ s.epoch.begun = false ∧ s.epoch.decision = none ∧ s.pl.stopEpoch ≤ s.epoch.num ∨
      s.epoch.active = false ∧ s.pl.stopEpoch ≤ s.pl.e0) :
    ∃ u : State, exec .planStopBoundary s = .next (u.toBound.planChange .bound) := by
  have hstop : ∀ v, planStopBoundary s = v → exec .planStopBoundary s = .next v := fun v hv => congrArg Host.Outcome.next hv
  unfold planStopBoundary at hstop
  rw [if_pos hp] at hstop
  by_cases h1 : (s.epoch.atEnd && decide (s.pl.stopEpoch ≤ s.epoch.num + 1)) = true
  · rw [if_pos h1] at hstop
    exact ⟨_, hstop _ rfl⟩
  · rw [if_neg h1] at hstop
    by_cases h2 : s.stopsHere = true
    · rw [if_pos h2] at hstop
      exact ⟨_, hstop _ rfl⟩
    · rw [if_neg h2] at hstop
      rcases h with ⟨ha, hb⟩ | ⟨ha, hb, hd, hn⟩ | ⟨ha, hn⟩
      · exact absurd (by rw [ha, decide_eq_true hb]; rfl) h1
      · exact absurd (by simp [State.stopsHere, hp, ha, hb, hd, hn]) h2
      · rw [if_pos (by rw [ha, decide_eq_true hn]; rfl)] at hstop
        exact ⟨_, hstop _ rfl⟩

end

/-! ## Cycle 128 (R51, R52, R79, R80) -/

section
variable (s : State)

theorem mapAll_gated (f : Block → Block) : (s.mapAll f).gated = s.gated := rfl
theorem mapIntakes_gated (f : Intake → Intake) : (s.mapIntakes f).gated = s.gated := rfl
theorem mapOutlets_gated (f : Outlet → Outlet) : (s.mapOutlets f).gated = s.gated := rfl

theorem startPrograms_gated (missed : List BlockId) : (s.startPrograms missed).gated = s.gated :=
  eachPlaced_gated s fun _ _ => gated_ite rfl rfl

theorem takeOutlets_gated : s.takeOutlets.gated = s.gated := by
  unfold State.takeOutlets
  dsimp only
  refine (foldl_keeps State.gated (fun (u : State) e => ?_) _ _).trans (mapOutlets_gated s _)
  exact gated_ite ((raise_gated _ _ _ _ _).trans (bump_gated u _ _ _)) rfl

theorem beginRun_gated (missed : List BlockId) : (s.beginRun missed).gated = s.gated := by
  unfold State.beginRun
  dsimp only
  rw [takeOutlets_gated, mapIntakes_gated, startPrograms_gated, mapAll_gated]

theorem cleared_gated (b : Tab Block) (x y : EdgeDie) : ({ s with blocks := b, edge0 := x, edge1 := y } : State).gated = s.gated := rfl

theorem beginBubble_gated : s.beginBubble.gated = s.gated := by
  unfold State.beginBubble
  dsimp only
  rw [bubbleModes_gated, cleared_gated, mapOutlets_gated]
  refine (eachPort_gated _ fun u p => gated_ite rfl (modPort_gated u _ _)).trans ?_
  rw [bump_gated, receivedWords_gated]

end

/-! ### The program of a block -/

/-- A fold in which a step at `b` establishes `q` from `p`, and every other step keeps `p` and `q`. -/
theorem foldl_visits {α β : Type} [DecidableEq β] {p q : α → Prop} {f : α → β → α} (b : β) (hp : ∀ s c, c ≠ b → p s → p (f s c))
    (hq : ∀ s c, c ≠ b → q s → q (f s c)) (hb : ∀ s, p s ∨ q s → q (f s b)) (l : List β) (hl : b ∈ l) (s : α) (hs : p s) : q (l.foldl f s) := by
  have keeps : ∀ (l : List β) (s : α), q s → q (l.foldl f s) := fun l => by
    induction l with
    | nil => exact fun _ h => h
    | cons c l ih =>
      intro s h
      refine ih _ ?_
      by_cases hc : c = b
      · rw [hc]; exact hb s (.inr h)
      · exact hq s c hc h
  induction l generalizing s with
  | nil => exact absurd hl List.not_mem_nil
  | cons c l ih =>
    by_cases hc : c = b
    · rw [List.foldl_cons, hc]
      exact keeps l _ (hb s (.inl hs))
    · exact ih ((List.mem_cons.1 hl).resolve_left (Ne.symm hc)) _ (hp s c hc hs)

/-- Block `b` has the block `x`, and its quarter a clock. -/
def State.holds (s : State) (b : BlockId) (x : Block) : Prop := s.blk b = x ∧ s.pllOn (quarterOf b) = true

theorem startProgram_again (x : Block) : x.startProgram.startProgram = x.startProgram := rfl

theorem startPrograms_starts {s : State} {b : BlockId} {missed : List BlockId} {x : Block} (h : s.holds b x) (hl : b ∈ s.listed) (hb : isLogical b = true)
    (hm : b ∉ missed) (hr : x.clk.mode = .run) : (s.startPrograms missed).blk b = x.startProgram := by
  have hgo : ∀ (u : State) (y : Block), u.holds b y → y.clk.mode = .run →
      (if (u.blk b).clk.mode = .run ∧ u.pllOn (quarterOf b) ∧ b ∉ missed then u.setBlk b (u.blk b).startProgram
        else u.modBlk b fun x => { x with core := { x.core with fetching := false } }).holds b y.startProgram := fun u y ⟨hy, hp⟩ hmode => by
    rw [if_pos ⟨by rw [hy]; exact hmode, hp, hm⟩, hy]
    exact ⟨blk_setBlk_same u b _, hp⟩
  have hkeep : ∀ (y : Block) (u : State) (c : BlockId), c ≠ b → u.holds b y →
      (if (u.blk c).clk.mode = .run ∧ u.pllOn (quarterOf c) ∧ c ∉ missed then u.setBlk c (u.blk c).startProgram
        else u.modBlk c fun x => { x with core := { x.core with fetching := false } }).holds b y := fun y u c hc ⟨hy, hp⟩ => by
    split
    · exact ⟨(blk_setBlk_ne u _ hc.symm).trans hy, hp⟩
    · exact ⟨(blk_modBlk_ne u _ hc.symm).trans hy, hp⟩
  refine (foldl_visits (p := fun u : State => u.holds b x) (q := fun u : State => u.holds b x.startProgram) b (hkeep x) (hkeep x.startProgram) (fun u hu => ?_) _
    (List.mem_filter.2 ⟨hl, hb⟩) s h).1
  rcases hu with hu | hu
  · exact hgo u x hu hr
  · exact hgo u x.startProgram hu hr

theorem restKey_logical {b : BlockId} (h : isLogical b = true) : restKey b.toNat = 0 ∨ restKey b.toNat = 1 ∨ restKey b.toNat = 2 ∨ restKey b.toNat = 3 := by
  have hb : b.toNat < firstSpare := of_decide_eq_true h
  have hf : firstSpare = 16384 := rfl
  unfold restKey
  rw [if_pos hb]
  omega

theorem mapAll_blk {s : State} {b : BlockId} (f : Block → Block) (h : isLogical b = true) : (s.mapAll f).blk b = f (s.blk b) := by
  unfold State.mapAll State.mapQuarter
  simp only [blk_mapKey]
  rcases restKey_logical h with e | e | e | e <;> simp [e]

theorem mapKey_listed (s : State) (k : Nat) (f : Block → Block) : (s.mapKey k f).listed = s.listed := by
  unfold State.listed State.mapKey
  rw [List.map_map]
  refine List.map_congr_left fun e _ => ?_
  dsimp only [Function.comp]
  split <;> rfl

theorem mapAll_listed (s : State) (f : Block → Block) : (s.mapAll f).listed = s.listed := by
  unfold State.mapAll State.mapQuarter
  simp only [mapKey_listed]

theorem takeOutlets_blk (s : State) (b : BlockId) : s.takeOutlets.blk b = s.blk b := by
  unfold State.takeOutlets
  dsimp only
  refine (foldl_keeps (fun u : State => u.blk b) (fun (u : State) e => ?_) _ _).trans rfl
  split
  · exact bump_blk 0xB002 4 1 b
  · rfl

theorem newEpoch_entry (x : Block) (v : Bool) :
    (x.newEpoch v).core.entry = x.core.entry ∧ (x.newEpoch v).priv = x.priv ∧ (x.newEpoch v).clk = x.clk := ⟨rfl, rfl, rfl⟩

theorem newEpoch_delivered (x : Block) (v : Bool) : (x.newEpoch v).startProgram.core.delivered = [] := rfl

/-- A block in RUN that has the decision starts its program at cycle 128 (R132, R372). -/
theorem beginRun_blk {s : State} {b : BlockId} {missed : List BlockId} (hl : b ∈ s.listed) (hb : isLogical b = true) (hm : b ∉ missed)
    (hr : (s.blk b).clk.mode = .run) (hp : s.pllOn (quarterOf b) = true) :
    (s.beginRun missed).blk b = ((s.blk b).newEpoch s.epoch.lastRunVoid).startProgram := by
  have hx : (s.mapAll fun x => x.newEpoch s.epoch.lastRunVoid).holds b ((s.blk b).newEpoch s.epoch.lastRunVoid) := ⟨mapAll_blk _ hb, hp⟩
  unfold State.beginRun
  dsimp only
  rw [takeOutlets_blk]
  exact startPrograms_starts hx (by rw [mapAll_listed]; exact hl) hb hm hr

/-! ### The decision takes effect -/

/-- The registers of the gate in cycle 128. -/
def Epoch.effect (e : Epoch) : Epoch :=
  { e with
    begun := true, outcome := e.nxt.outcome, prev := e.nxt.prev, lastRunVoid := e.nxt.lastRunVoid, cause := e.nxt.cause
    streak := e.nxt.streak, validCount := e.nxt.validCount }

/-- A running epoch or a bubble begins. -/
def State.begin (s : State) (run : Bool) (missed : List BlockId) : State :=
  let s := (s.advanceTo 128).modEpoch Epoch.effect
  if run then s.beginRun missed else s.beginBubble

section
variable {s : State}

theorem gateDecisionEffect_eq {missed : List BlockId} {run : Bool} {cause : BitVec 3} (ha : s.epoch.active = true) (hb : s.epoch.begun = false)
    (hd : s.epoch.decision = some (run, cause)) : exec (.gateDecisionEffect missed) s =
      .next (if missed = [] then s.begin run missed else (s.begin run missed).haltNext rowGateTimeout) := by
  refine congrArg Host.Outcome.next ?_
  unfold gateDecisionEffect
  rw [if_pos (by rw [ha, hb]; rfl), hd]
  rfl

theorem begin_gated (run : Bool) (missed : List BlockId) : (s.begin run missed).gated = ((s.advanceTo 128).modEpoch Epoch.effect).gated :=
  gated_ite (beginRun_gated _ _) (beginBubble_gated _)

theorem modEpoch_blk (s : State) (f : Epoch → Epoch) (b : BlockId) : (s.modEpoch f).blk b = s.blk b := rfl

theorem advanceTo_listed (s : State) (c : Nat) : (s.advanceTo c).listed = s.listed := by
  unfold State.advanceTo
  split <;> rfl

theorem begin_blk {b : BlockId} {missed : List BlockId} (hl : b ∈ s.listed) (hb : isLogical b = true) (hm : b ∉ missed)
    (hr : (s.blk b).clk.mode = .run) (hp : s.pllOn (quarterOf b) = true) :
    ∃ v, (s.begin true missed).blk b = ((s.blk b).newEpoch v).startProgram := by
  have hpll : ((s.advanceTo 128).modEpoch Epoch.effect).pllOn (quarterOf b) = true := by
    have : (s.advanceTo 128).pllOn (quarterOf b) = s.pllOn (quarterOf b) := by
      unfold State.advanceTo
      split <;> rfl
    exact this.trans hp
  have hblk : ((s.advanceTo 128).modEpoch Epoch.effect).blk b = s.blk b := (modEpoch_blk _ _ b).trans (advanceTo_blk s 128 b)
  have hlist : b ∈ ((s.advanceTo 128).modEpoch Epoch.effect).listed := by
    have : ((s.advanceTo 128).modEpoch Epoch.effect).listed = s.listed := advanceTo_listed s 128
    rw [this]
    exact hl
  have h := beginRun_blk hlist hb hm (by rw [hblk]; exact hr) hpll
  rw [hblk] at h
  exact ⟨_, h⟩

theorem haltNext_blk (s : State) (row : Nat) (b : BlockId) : (s.haltNext row).blk b = s.blk b := by
  unfold State.haltNext
  split <;> rfl

/-- A halting fault that waits touches nothing else of the epoch. -/
def Epoch.unhalted (e : Epoch) : Epoch := { e with peak := 0, haltAt := none, haltRow := 0 }

theorem haltNext_unhalted (s : State) (row : Nat) : (s.haltNext row).epoch.unhalted = s.epoch.unhalted := by
  unfold State.haltNext
  split <;> rfl

theorem planMoves_of_plan {s t : State} (h : t.plan = s.plan) : t.planMoves = s.planMoves := by
  unfold State.planMoves
  rw [h]

theorem haltNext_haltAt {u : State} (row : Nat) (hm : u.planMoves = true) (hh : u.epoch.haltAt = none) :
    (u.haltNext row).epoch.haltAt = some (BitVec.ofNat 8 row) := by
  rw [State.haltNext, if_pos hm]
  show u.epoch.haltAt.or _ = _
  rw [hh]
  rfl

end

/-! ## The gate instant (R60, R75, R76, R87) -/

section
variable (s : State)

theorem settleSlots_epoch (e : W64) (void : Bool) : (s.settleSlots e void).epoch = s.epoch := rfl

theorem bump_epoch (i j n : Nat) : (s.bump i j n).epoch = s.epoch := by
  unfold State.bump State.keepCounter
  dsimp only
  split <;> rfl

theorem raise_epoch (kind : Nat) (ref result tag : W64) : (s.raise kind ref result tag).epoch = s.epoch := rfl

theorem settleVoid_epoch (e : W64) (f : FaultRec) : (s.settleVoid e f).epoch = s.epoch := by
  unfold State.settleVoid
  rw [hifEvent_epoch, raise_epoch, bump_epoch, settleSlots_epoch]

theorem settlePower_epoch : ∃ n, s.settlePower.epoch = { s.epoch with peakTop := n } := by
  unfold State.settlePower
  dsimp only
  split
  · exact ⟨_, rfl⟩
  · exact ⟨_, hifEvent_epoch _ _⟩

/-- What the registers take of an epoch that ran with the faults `f` (R75, R76). -/
def Gate.settled (g : Gate) (f : FaultRec) : Gate :=
  if f.first.isSome then g.voided else { g with prev := .valid, lastRunVoid := false, streak := 0, validCount := g.validCount + 1 }

theorem settleRun_epoch (e : W64) (f : FaultRec) :
    (s.settleRun e f).epoch = { s.epoch with nxt := s.epoch.nxt.settled f, lastGated := some e } := by
  unfold State.settleRun Gate.settled
  split
  · exact settleVoid_epoch _ _ _
  · rfl

theorem settleMessages_epoch (a b c : Nat) : (s.settleMessages a b c).1.epoch = s.epoch := rfl

/-- The faults with which an epoch that ran settles: a message book that fails is one more (R767). -/
def State.settledFaults (s : State) : FaultRec :=
  if s.epoch.bookSent % 2 ^ 64 = (s.epoch.bookRecv + s.epoch.bookFlight) % 2 ^ 64 then s.epoch.latched else s.epoch.latched.add rowLate noBlock

theorem settleMessages_ok (a b c : Nat) : (s.settleMessages a b c).2 = decide (a % 2 ^ 64 = (b + c) % 2 ^ 64) := rfl

end

section
variable {s : State}

theorem settleEpoch_none (h : s.epoch.prevRan = .none) : s.settleEpoch = s := by
  unfold State.settleEpoch
  dsimp only
  rw [h]

theorem settleEpoch_run (h : s.epoch.prevRan = .run) : ∃ n, s.settleEpoch.epoch =
    { s.epoch with peakTop := n, nxt := s.epoch.nxt.settled s.settledFaults, lastGated := some (s.epoch.num - 1), prevRan := .none } := by
  have hf : (if (s.settleMessages s.epoch.bookSent s.epoch.bookRecv s.epoch.bookFlight).2 = true then s.epoch.latched
      else s.epoch.latched.add rowLate noBlock) = s.settledFaults := by
    rw [settleMessages_ok, State.settledFaults]
    exact if_congr decide_eq_true_iff rfl rfl
  have hm : ∀ (u : State), (u.modEpoch fun x => { x with prevRan := .none }).epoch = { u.epoch with prevRan := .none } := fun _ => rfl
  obtain ⟨n, hn⟩ := settlePower_epoch (s.settleMessages s.epoch.bookSent s.epoch.bookRecv s.epoch.bookFlight).1
  rw [settleMessages_epoch] at hn
  refine ⟨n, ?_⟩
  unfold State.settleEpoch
  dsimp only
  rw [h]
  dsimp only
  rw [hf, hm, settleRun_epoch, hn]

theorem settleEpoch_bubble (h : s.epoch.prevRan = .bubble) : ∃ n, s.settleEpoch.epoch =
    { s.epoch with peakTop := n, nxt := { s.epoch.nxt with prev := .bubble }, prevRan := .none, lastGated := some (s.epoch.num - 1) } := by
  have hm : ∀ (u : State), (u.modEpoch fun x => { x with nxt := { x.nxt with prev := .bubble }, prevRan := .none, lastGated := some (s.epoch.num - 1) }).epoch =
      { u.epoch with nxt := { u.epoch.nxt with prev := .bubble }, prevRan := .none, lastGated := some (s.epoch.num - 1) } := fun _ => rfl
  obtain ⟨n, hn⟩ := settlePower_epoch (s.settleMessages s.epoch.bookSent s.epoch.bookRecv s.epoch.bookFlight).1
  rw [settleMessages_epoch] at hn
  refine ⟨n, ?_⟩
  unfold State.settleEpoch
  dsimp only
  rw [h]
  dsimp only
  rw [hm, hn]

/-- In every case epoch E − 1 has settled, and E is the epoch in progress. -/
theorem settleEpoch_settles (s : State) : s.settleEpoch.epoch.prevRan = .none ∧ s.settleEpoch.epoch.num = s.epoch.num := by
  cases h : s.epoch.prevRan with
  | none => rw [settleEpoch_none h]; exact ⟨h, rfl⟩
  | run =>
    obtain ⟨n, hn⟩ := settleEpoch_run h
    rw [hn]
    exact ⟨rfl, rfl⟩
  | bubble =>
    obtain ⟨n, hn⟩ := settleEpoch_bubble h
    rw [hn]
    exact ⟨rfl, rfl⟩

theorem enterHalted_unhalted (row : BitVec 8) (now : Bool) : (s.enterHalted row now).epoch.unhalted = s.epoch.unhalted := by
  have hm : ∀ u : State, (u.modEpoch fun e => { e with haltRow := row, haltAt := none }).epoch.unhalted = u.epoch.unhalted := fun _ => rfl
  have hg : ((s.discardHeld now).settleStop).epoch.unhalted = s.epoch.unhalted :=
    epoch_of_gated Epoch.unhalted (fun _ => rfl) ((settleStop_gated _).trans (discardHeld_gated s now))
  unfold State.enterHalted
  dsimp only
  rw [hifEvent_epoch, planChange_epoch, raise_epoch, hm, hg]

/-- A halt that is due at the gate instant: a fault that has waited, the void limit, or the thermal stop (R87, R897). -/
def State.dueHalt (s : State) (ran : Bool) : State :=
  if s.plan = .halted then s
  else match s.epoch.haltAt with
    | some row => s.enterHalted row false
    | none =>
      if ran && decide (s.pl.voidLimit ≤ s.epoch.nxt.streak.toNat) && decide (s.epoch.nxt.prev = .void) then s.enterHalted (BitVec.ofNat 8 rowStreak) false
      else if s.thermal.stop then (s.enterHalted (BitVec.ofNat 8 rowThermal) false).planSleep
      else s

theorem dueHalt_unhalted (ran : Bool) : (s.dueHalt ran).epoch.unhalted = s.epoch.unhalted := by
  unfold State.dueHalt
  split
  · rfl
  · split
    · exact enterHalted_unhalted _ _
    · split
      · exact enterHalted_unhalted _ _
      · split
        · exact (epoch_of_gated Epoch.unhalted (fun _ => rfl) (planSleep_gated _)).trans (enterHalted_unhalted _ _)
        · rfl

theorem dueHalt_halted (ran : Bool) (h : s.plan = .halted) : s.dueHalt ran = s := if_pos h

theorem dueHalt_none (hp : s.plan ≠ .halted) (hh : s.epoch.haltAt = none) (ht : s.thermal.stop = false) : s.dueHalt false = s := by
  unfold State.dueHalt
  rw [if_neg hp, hh]
  simp [ht]

/-- The decision for the epoch in progress is formed (R60, R63). -/
def State.decided (s : State) : State :=
  let cause := s.gateCause
  let e := s.epoch.num
  let s := s.modPl fun p => { p with recs := p.recs.filter fun r => decide (e < r.epoch + 64) }
  if cause = 0 then
    let s := s.mapIntakes Intake.consume
    let s := s.modPl fun p => { p with lastRan := some e }
    s.modEpoch fun x => { x with decision := some (true, 0), nxt := { x.nxt with outcome := .run } }
  else
    let s := s.bump 0xB001 cause.toNat
    s.modEpoch fun x => { x with decision := some (false, cause), nxt := { x.nxt with outcome := .bubble, cause := cause } }

/-- The registers that a decision with `cause` leaves for cycle 128. -/
def Gate.decided (g : Gate) (cause : BitVec 3) : Gate := if cause = 0 then { g with outcome := .run } else { g with outcome := .bubble, cause := cause }

theorem decided_epoch (s : State) : s.decided.epoch =
    { s.epoch with decision := some (decide (s.gateCause = 0), s.gateCause), nxt := s.epoch.nxt.decided s.gateCause } := by
  have hb : ∀ (u : State) (c : BitVec 3), ((u.bump 0xB001 c.toNat).modEpoch fun x =>
      { x with decision := some (false, c), nxt := { x.nxt with outcome := .bubble, cause := c } }).epoch =
      { u.epoch with decision := some (false, c), nxt := { u.epoch.nxt with outcome := .bubble, cause := c } } := fun u c => by
    rw [← bump_epoch u 0xB001 c.toNat 1]
    rfl
  unfold State.decided Gate.decided
  dsimp only
  by_cases h : s.gateCause = 0
  · rw [if_pos h, if_pos h, h]
    rfl
  · rw [if_neg h, if_neg h, decide_eq_false h, hb]
    rfl

theorem decided_runs (h : s.gateCause = 0) : s.decided.intakes = s.intakes.map fun e => (e.1, e.2.consume) := by
  unfold State.decided
  rw [if_pos h]
  rfl

theorem bump_intakes (s : State) (i j n : Nat) : (s.bump i j n).intakes = s.intakes := by
  unfold State.bump State.keepCounter
  dsimp only
  split <;> rfl

theorem decided_bubbles (h : s.gateCause ≠ 0) : s.decided.intakes = s.intakes ∧
    s.decided.counter 0xB001 s.gateCause.toNat = min (s.counter 0xB001 s.gateCause.toNat + 1) (2 ^ 64 - 1) := by
  have hi : ∀ (u : State) (f : Epoch → Epoch), (u.modEpoch f).intakes = u.intakes ∧ ∀ i j, (u.modEpoch f).counter i j = u.counter i j :=
    fun _ _ => ⟨rfl, fun _ _ => rfl⟩
  have hp : ∀ (u : State) (f : PlanRec → PlanRec), (u.modPl f).intakes = u.intakes ∧ ∀ i j, (u.modPl f).counter i j = u.counter i j :=
    fun _ _ => ⟨rfl, fun _ _ => rfl⟩
  unfold State.decided
  dsimp only
  rw [if_neg h, (hi _ _).1, (hi _ _).2, bump_intakes, bump_counter, (hp _ _).1, (hp _ _).2]
  exact ⟨rfl, rfl⟩

theorem gateInstant_eq (ha : s.epoch.active = true) (hb : s.epoch.begun = false) (hd : s.epoch.decision = none)
    (hs : s.plan = .stopping → s.epoch.num < s.pl.stopEpoch) :
    exec .gateInstant s = .next (((s.advanceTo 48).settleEpoch.dueHalt (decide (s.epoch.prevRan = .run))).decided) := by
  have hstop : s.stopsHere = false := by
    unfold State.stopsHere
    by_cases hp : s.plan = .stopping
    · have hn : ¬ s.pl.stopEpoch ≤ s.epoch.num := BitVec.not_le.2 (hs hp)
      rw [decide_eq_false hn, Bool.and_false]
    · rw [decide_eq_false hp]
      rfl
  refine congrArg Host.Outcome.next ?_
  unfold gateInstant
  rw [if_pos (by rw [ha, hb, hd, hstop]; rfl)]
  rfl

/-! ### The cause -/

theorem any_missing {α β : Type} (l : List α) (f : α → Option β) : (l.map f).any Option.isNone = true ↔ ∃ u ∈ l, f u = none := by
  simp [List.any_eq_true]

theorem any_unready (l : List (Nat × Intake)) : (l.any fun i => !i.2.ready) = true ↔ ∃ i ∈ l, i.2.slots[i.2.point]? ≠ some .filled := by
  simp [List.any_eq_true, Intake.ready]

/-- The causes in their order, each as a statement on milestones and slots (R61). -/
theorem gateCause_eq (s : State) : s.gateCause =
    if s.plan = .halted then 5
    else if s.epoch.lastGated = some (s.epoch.num - 1) ∧ s.epoch.nxt.prev = .void then 1
    else if ∃ u ∈ s.pl.upstream, ∃ o, s.pl.milestone u.1 (s.epoch.num - BitVec.ofNat 64 u.2) = some o ∧ o ≠ 1 then 2
    else if ∃ u ∈ s.pl.upstream, s.pl.milestone u.1 (s.epoch.num - BitVec.ofNat 64 u.2) = none then 3
    else if ∃ i ∈ s.intakes, i.2.slots[i.2.point]? ≠ some .filled then (4 : BitVec 3) else 0 := by
  unfold State.gateCause
  dsimp only
  refine if_congr Iff.rfl rfl (if_congr Iff.rfl rfl (if_congr ?_ rfl (if_congr (any_missing _ _) rfl (if_congr (any_unready _) rfl rfl))))
  rw [List.any_map, List.any_eq_true]
  refine exists_congr fun u => and_congr_right fun _ => ?_
  dsimp only [Function.comp]
  cases s.pl.milestone u.1 (s.epoch.num - BitVec.ofNat 64 u.2) <;> simp

theorem gateCause_advanceTo (s : State) (c : Nat) : (s.advanceTo c).gateCause = s.gateCause := by
  unfold State.advanceTo
  split <;> rfl

theorem gateCause_halted (h : s.plan = .halted) : s.gateCause = 5 := by rw [gateCause_eq, if_pos h]

theorem gateCause_void (h : s.epoch.lastGated = some (s.epoch.num - 1)) (hv : s.epoch.nxt.prev = .void) : s.gateCause ≠ 0 := by
  rw [gateCause_eq]
  split
  · decide
  · rw [if_pos ⟨h, hv⟩]
    decide

/-! ### What the gate instant leaves -/

/-- The epoch in progress as the gate instant has settled it, before halts and the decision. -/
theorem gate_unhalted (s : State) (ran : Bool) (c : Nat) :
    ((s.advanceTo c).settleEpoch.dueHalt ran).epoch.unhalted = (s.advanceTo c).settleEpoch.epoch.unhalted := dueHalt_unhalted ran

theorem advanceTo_prevRan (s : State) (c : Nat) : (s.advanceTo c).epoch.prevRan = s.epoch.prevRan ∧ (s.advanceTo c).epoch.num = s.epoch.num := by
  unfold State.advanceTo
  split <;> exact ⟨rfl, rfl⟩

theorem settledGate_valid (g : Gate) {f : FaultRec} (h : f.first = none) : (g.settled f).prev = .valid ∧ (g.settled f).streak = 0 ∧
    (g.settled f).validCount = g.validCount + 1 ∧ (g.settled f).lastRunVoid = false := by
  rw [Gate.settled, if_neg (by rw [h]; decide)]
  exact ⟨rfl, rfl, rfl, rfl⟩

theorem voided_streak (k : BitVec 8) : (if k = 255 then 255 else k + 1) = BitVec.ofNat 8 (min 255 (k.toNat + 1)) := by
  have h := k.isLt
  split
  next e => rw [e]; decide
  next e =>
    have : k.toNat ≠ 255 := fun e' => e (BitVec.eq_of_toNat_eq e')
    apply BitVec.eq_of_toNat_eq
    have h1 : (1 : BitVec 8).toNat = 1 := rfl
    rw [BitVec.toNat_add, BitVec.toNat_ofNat, h1]
    omega

theorem settledGate_void (g : Gate) {f : FaultRec} (h : f.first.isSome = true) : (g.settled f).prev = .void ∧ (g.settled f).lastRunVoid = true ∧
    (g.settled f).validCount = g.validCount ∧ (g.settled f).streak = BitVec.ofNat 8 (min 255 (g.streak.toNat + 1)) := by
  rw [Gate.settled, if_pos h]
  exact ⟨rfl, rfl, rfl, voided_streak g.streak⟩

theorem settledFaults_some (h : s.epoch.latched.first ≠ none) : s.settledFaults.first.isSome = true := by
  obtain ⟨x, hx⟩ := Option.ne_none_iff_exists'.1 h
  unfold State.settledFaults
  split
  · rw [hx]; rfl
  · rw [FaultRec.add, hx]
    rfl

theorem settledFaults_balanced (h : s.epoch.bookSent % 2 ^ 64 = (s.epoch.bookRecv + s.epoch.bookFlight) % 2 ^ 64) : s.settledFaults = s.epoch.latched :=
  if_pos h

theorem decidedGate (g : Gate) (c : BitVec 3) : (g.decided c).outcome = (if c = 0 then .run else .bubble) ∧ (g.decided c).prev = g.prev ∧
    (g.decided c).streak = g.streak ∧ (g.decided c).validCount = g.validCount ∧ (g.decided c).lastRunVoid = g.lastRunVoid := by
  unfold Gate.decided
  split <;> exact ⟨rfl, rfl, rfl, rfl, rfl⟩

/-- The gate instant of an epoch after one that ran: E − 1 has settled with the faults latched for it. -/
theorem gate_after_run (ha : s.epoch.active = true) (h : s.epoch.prevRan = .run) (ran : Bool) :
    ((s.advanceTo 48).settleEpoch.dueHalt ran).epoch.nxt = s.epoch.nxt.settled s.settledFaults ∧
      ((s.advanceTo 48).settleEpoch.dueHalt ran).epoch.lastGated = some (s.epoch.num - 1) := by
  have hadv := advanceTo_epoch 48 ha
  obtain ⟨n, hn⟩ := settleEpoch_run (s := s.advanceTo 48) (by rw [hadv]; exact h)
  have hf : (s.advanceTo 48).settledFaults = s.settledFaults := by
    unfold State.settledFaults
    rw [hadv]
  have hu := gate_unhalted s ran 48
  rw [hn, hf, hadv] at hu
  exact ⟨(congrArg Epoch.nxt hu).trans rfl, (congrArg Epoch.lastGated hu).trans rfl⟩

theorem gate_settled (ran : Bool) : ((s.advanceTo 48).settleEpoch.dueHalt ran).epoch.prevRan = .none ∧
    ((s.advanceTo 48).settleEpoch.dueHalt ran).epoch.num = s.epoch.num := by
  obtain ⟨hp, hn⟩ := settleEpoch_settles (s.advanceTo 48)
  have hu := gate_unhalted s ran 48
  exact ⟨((congrArg Epoch.prevRan hu).trans hp : _), (congrArg Epoch.num hu).trans (hn.trans (advanceTo_prevRan s 48).2)⟩

theorem advanceTo_kept (s : State) (c : Nat) : (s.advanceTo c).epoch.haltAt = s.epoch.haltAt ∧ (s.advanceTo c).thermal = s.thermal ∧
    (s.advanceTo c).intakes = s.intakes ∧ ∀ i j, (s.advanceTo c).counter i j = s.counter i j := by
  unfold State.advanceTo
  split <;> exact ⟨rfl, rfl, rfl, fun _ _ => rfl⟩

/-- After an epoch that did not run or has settled, of a plan that runs and that nothing halts, the decision is formed at once. -/
theorem gate_undisturbed (h : s.epoch.prevRan = .none) (hp : s.plan = .running) (hh : s.epoch.haltAt = none) (ht : s.thermal.stop = false) :
    (s.advanceTo 48).settleEpoch.dueHalt (decide (s.epoch.prevRan = .run)) = s.advanceTo 48 := by
  obtain ⟨hhalt, htherm, -⟩ := advanceTo_kept s 48
  rw [settleEpoch_none ((advanceTo_prevRan s 48).1.trans h), h]
  exact dueHalt_none (by rw [advanceTo_plan, hp]; decide) (hhalt.trans hh) (by rw [htherm]; exact ht)

theorem settledPlan (s : State) : (s.advanceTo 48).settleEpoch.plan = s.plan := (plan_of_aon (settleEpoch_aon _)).trans (advanceTo_plan s 48)

theorem gateInstant_clause (ha : s.epoch.active = true) (hb : s.epoch.begun = false) (hd : s.epoch.decision = none)
    (hs : s.plan = .stopping → s.epoch.num < s.pl.stopEpoch) :
    ∃ t cause, exec .gateInstant s = .next t ∧ t.epoch.decision = some (decide (cause = 0), cause) ∧
      t.epoch.nxt.outcome = (if cause = 0 then .run else .bubble) ∧ t.epoch.prevRan = .none ∧ t.epoch.num = s.epoch.num ∧
      (s.plan = .halted → cause = 5) ∧
      (s.epoch.prevRan = .none → s.plan = .running → s.epoch.haltAt = none → s.thermal.stop = false →
        cause = s.gateCause ∧ (cause = 0 → t.intakes = s.intakes.map fun e => (e.1, e.2.consume)) ∧
        (cause ≠ 0 → t.intakes = s.intakes ∧
          t.counter 0xB001 cause.toNat = min (s.counter 0xB001 cause.toNat + 1) (2 ^ 64 - 1))) ∧
      (s.epoch.prevRan = .run → s.epoch.latched.first = none →
        s.epoch.bookSent % 2 ^ 64 = (s.epoch.bookRecv + s.epoch.bookFlight) % 2 ^ 64 →
        t.epoch.nxt.prev = .valid ∧ t.epoch.nxt.streak = 0 ∧ t.epoch.nxt.validCount = s.epoch.nxt.validCount + 1 ∧
        t.epoch.nxt.lastRunVoid = false) ∧
      (s.epoch.prevRan = .run → s.epoch.latched.first ≠ none →
        t.epoch.nxt.prev = .void ∧ t.epoch.nxt.lastRunVoid = true ∧ t.epoch.nxt.validCount = s.epoch.nxt.validCount ∧
        t.epoch.nxt.streak = BitVec.ofNat 8 (min 255 (s.epoch.nxt.streak.toNat + 1)) ∧ cause ≠ 0) := by
  have hset := gate_settled (s := s) (decide (s.epoch.prevRan = .run))
  have hrun := fun h => gate_after_run ha h (decide (s.epoch.prevRan = .run))
  have hhalted : s.plan = .halted → ((s.advanceTo 48).settleEpoch.dueHalt (decide (s.epoch.prevRan = .run))).gateCause = 5 := fun h => by
    have hp : (s.advanceTo 48).settleEpoch.plan = .halted := (settledPlan s).trans h
    rw [dueHalt_halted _ hp]
    exact gateCause_halted hp
  have hfree := fun h1 h2 h3 h4 => gate_undisturbed (s := s) h1 h2 h3 h4
  rw [gateInstant_eq ha hb hd hs]
  generalize (s.advanceTo 48).settleEpoch.dueHalt (decide (s.epoch.prevRan = .run)) = u at *
  obtain ⟨hprev, hnum⟩ := hset
  have he := decided_epoch u
  obtain ⟨hout, hgp, hgs, hgv, hgl⟩ := decidedGate u.epoch.nxt u.gateCause
  refine ⟨u.decided, u.gateCause, rfl, by rw [he], by rw [he]; exact hout, by rw [he]; exact hprev, by rw [he]; exact hnum, hhalted, ?_, ?_, ?_⟩
  · intro h1 h2 h3 h4
    obtain rfl := hfree h1 h2 h3 h4
    obtain ⟨-, -, hin, hcount⟩ := advanceTo_kept s 48
    refine ⟨gateCause_advanceTo s 48, fun h0 => by rw [decided_runs h0, hin], fun h0 => ?_⟩
    rw [(decided_bubbles h0).1, (decided_bubbles h0).2, hin, hcount]
    exact ⟨rfl, rfl⟩
  · intro h hl hbook
    obtain ⟨hn, -⟩ := hrun h
    obtain ⟨h1, h2, h3, h4⟩ := settledGate_valid s.epoch.nxt hl
    rw [settledFaults_balanced hbook] at hn
    rw [he]
    dsimp only
    rw [hgp, hgs, hgv, hgl, hn]
    exact ⟨h1, h2, h3, h4⟩
  · intro h hl
    obtain ⟨hn, hg⟩ := hrun h
    obtain ⟨h1, h2, h3, h4⟩ := settledGate_void s.epoch.nxt (settledFaults_some hl)
    rw [he]
    dsimp only
    rw [hgp, hgs, hgv, hgl, hn]
    exact ⟨h1, h2, h3, h4, gateCause_void (by rw [hnum]; exact hg) (by rw [hn]; exact h1)⟩

end

/-! ## The clauses of boundaries and of cycle 128 -/

section
variable {s : State}

theorem last_clause (h : s.epoch.atEnd = true) (hp : s.plan = .running ∨ s.plan = .halted) (hn : s.epoch.num + 1 = 0xFFFFFFFFFFFFFFFF) :
    ∃ t, exec .epochBoundary s = .next t ∧ t.plan = .bound ∧ t.epoch.active = false := by
  rw [epochBoundary_last h hp hn]
  obtain ⟨hplan, hidle, -, -⟩ := bound_toBound ((((s.pass 1).latch).modEpoch fun e => { e with num := e.num + 1 }).settleEpoch)
  exact ⟨_, rfl, hplan, hidle⟩

/-- The epoch record in cycle 0 of the next epoch, but for the faults of links that are out and the peak. -/
def Epoch.next (e : Epoch) (sent recv flight now : Nat) : Epoch :=
  ({ e with
    latched := e.faults, prevRan := if e.settled then .none else e.outcome, settled := false
    nxt := if e.settled then e.nxt.voided else e.nxt, lastGated := if e.settled then some e.num else e.lastGated
    bookSent := sent, bookRecv := recv, bookFlight := flight, peakPrev := e.peak } : Epoch).enter (e.num + 1) now

theorem gist_epoch (s : State) : s.gist.epoch = s.epoch.gist := rfl
theorem gist_plan (s : State) : s.gist.plan = s.plan := rfl

theorem pass_epoch (s : State) (n : Nat) : (s.pass n).epoch = s.epoch := rfl
theorem pass_plan (s : State) (n : Nat) : (s.pass n).plan = s.plan := rfl
theorem pass_pl (s : State) (n : Nat) : (s.pass n).pl = s.pl := rfl

theorem nextEpoch_epoch (s : State) : ∃ a b c d, s.nextEpoch.epoch.gist = (s.epoch.next a b c d).gist ∧ s.nextEpoch.plan = s.plan := by
  have hl : ∀ (u : State) (n : W64) (now : Nat), u.epoch.num + 1 = n → ((u.latch).modEpoch fun e => e.enter n now).gist =
      ⟨(u.epoch.next u.wordsSent u.wordsReceived u.inFlight now).gist, u.plan, u.pl, u.k⟩ := by
    rintro u _ now rfl
    rfl
  have hg := (nextEpoch_gist s).trans (hl (s.pass 1) (s.epoch.num + 1) _ (by rw [pass_epoch]))
  rw [pass_epoch, pass_plan] at hg
  exact ⟨_, _, _, _, (gist_epoch _).symm.trans (congrArg Gated.epoch hg), (gist_plan _).symm.trans (congrArg Gated.plan hg)⟩

theorem next_clause (h : s.epoch.atEnd = true) (hp : s.plan = .running ∨ s.plan = .halted) (hn : s.epoch.num + 1 ≠ 0xFFFFFFFFFFFFFFFF) :
    ∃ t, exec .epochBoundary s = .next t ∧ t.plan = s.plan ∧
      t.epoch.num = s.epoch.num + 1 ∧ t.epoch.cycle = 0 ∧ t.epoch.active = true ∧ t.epoch.begun = false ∧ t.epoch.ended = false ∧
      t.epoch.decision = none ∧ t.epoch.latched = s.epoch.faults ∧
      ((∀ p < 8, (s.port p).planned = true → (s.port p).st = .active) → t.epoch.faults = .reset) ∧
      t.epoch.prevRan = (if s.epoch.settled then .none else s.epoch.outcome) ∧
      t.epoch.outcome = s.epoch.outcome ∧ t.epoch.prev = s.epoch.prev ∧ t.epoch.cause = s.epoch.cause ∧ t.epoch.streak = s.epoch.streak ∧
      t.epoch.validCount = s.epoch.validCount := by
  have hf := nextEpoch_faults (s := s)
  have hact : s.epoch.active = true := by
    unfold Epoch.atEnd at h
    simp only [Bool.and_eq_true] at h
    exact h.1.1
  rw [epochBoundary_next h hp hn]
  obtain ⟨a, b, c, d, he, hplan⟩ := nextEpoch_epoch s
  generalize s.nextEpoch = t at *
  have hfield := fun {α : Type} (p : Epoch → α) => congrArg p he
  exact ⟨t, rfl, hplan, hfield Epoch.num, hfield Epoch.cycle, (hfield Epoch.active).trans hact, hfield Epoch.begun, hfield Epoch.ended,
    hfield Epoch.decision, hfield Epoch.latched, hf, hfield Epoch.prevRan, hfield Epoch.outcome, hfield Epoch.prev, hfield Epoch.cause,
    hfield Epoch.streak, hfield Epoch.validCount⟩

theorem effect_clause {missed : List BlockId} {run : Bool} {cause : BitVec 3} (ha : s.epoch.active = true) (hb : s.epoch.begun = false)
    (hd : s.epoch.decision = some (run, cause)) :
    ∃ t, exec (.gateDecisionEffect missed) s = .next t ∧ t.epoch.begun = true ∧ t.epoch.cycle = max 128 s.epoch.cycle ∧
      t.epoch.outcome = s.epoch.nxt.outcome ∧ t.epoch.prev = s.epoch.nxt.prev ∧ t.epoch.lastRunVoid = s.epoch.nxt.lastRunVoid ∧
      t.epoch.cause = s.epoch.nxt.cause ∧ t.epoch.streak = s.epoch.nxt.streak ∧ t.epoch.validCount = s.epoch.nxt.validCount ∧
      (missed ≠ [] → s.planMoves = true → s.epoch.haltAt = none → t.epoch.haltAt = some 9) ∧
      (run = true → ∀ b ∈ s.listed, isLogical b = true → b ∉ missed → (s.blk b).clk.mode = .run → s.pllOn (quarterOf b) = true →
        t.pcOf b = (s.blk b).core.entry ∧ (t.blk b).core.fetching = true ∧ (t.blk b).core.inProgram = true ∧
        (t.blk b).core.loopActive = false ∧ (t.blk b).core.delivered = [] ∧ (t.blk b).priv.ctx = (s.blk b).priv.epochCtx ∧
        (t.blk b).priv.mask = (s.blk b).priv.epochMask ∧ (t.blk b).priv.tsbpM.occ = false) := by
  rw [gateDecisionEffect_eq ha hb hd]
  have hg := begin_gated (s := s) run missed
  have hepoch : (s.begin run missed).epoch.unhalted = (Epoch.effect { s.epoch with cycle := max 128 s.epoch.cycle }).unhalted := by
    rw [epoch_of_gated Epoch.unhalted (fun _ => rfl) hg, ← advanceTo_epoch 128 ha]
    rfl
  have hhalt : (s.begin run missed).epoch.haltAt = s.epoch.haltAt := by
    rw [epoch_of_gated Epoch.haltAt (fun _ => rfl) hg]
    exact (advanceTo_kept s 128).1
  have hmove : (s.begin run missed).planMoves = s.planMoves := planMoves_of_plan ((plan_of_gated hg).trans (advanceTo_plan s 128))
  have hblk : run = true → ∀ b ∈ s.listed, isLogical b = true → b ∉ missed → (s.blk b).clk.mode = .run → s.pllOn (quarterOf b) = true →
      ∃ v, (s.begin run missed).blk b = ((s.blk b).newEpoch v).startProgram := fun hr b h1 h2 h3 h4 h5 => by
    rw [hr]
    exact begin_blk h1 h2 h3 h4 h5
  generalize s.begin run missed = u at *
  have hlast : (if missed = [] then u else u.haltNext rowGateTimeout).epoch.unhalted = u.epoch.unhalted := by
    split
    · rfl
    · exact haltNext_unhalted u _
  have hlastBlk : ∀ b, (if missed = [] then u else u.haltNext rowGateTimeout).blk b = u.blk b := fun b => by
    split
    · rfl
    · exact haltNext_blk u _ b
  have hlastHalt : missed ≠ [] → s.planMoves = true → s.epoch.haltAt = none →
      (if missed = [] then u else u.haltNext rowGateTimeout).epoch.haltAt = some 9 := fun hm h1 h2 => by
    rw [if_neg hm]
    exact haltNext_haltAt _ (hmove.trans h1) (hhalt.trans h2)
  generalize (if missed = [] then u else u.haltNext rowGateTimeout) = t at *
  have hfield := fun {α : Type} (p : Epoch → α) => congrArg p (hlast.trans hepoch)
  refine ⟨t, rfl, hfield Epoch.begun, hfield Epoch.cycle, hfield Epoch.outcome, hfield Epoch.prev, hfield Epoch.lastRunVoid, hfield Epoch.cause,
    hfield Epoch.streak, hfield Epoch.validCount, hlastHalt, fun hr b h1 h2 h3 h4 h5 => ?_⟩
  obtain ⟨v, hv⟩ := hblk hr b h1 h2 h3 h4 h5
  rw [State.pcOf, hlastBlk, hv]
  exact ⟨rfl, rfl, rfl, rfl, rfl, rfl, rfl, rfl⟩

theorem end_clause (ha : s.epoch.active = true) (hb : s.epoch.begun = true) (he : s.epoch.ended = false) :
    ∃ t, exec .epochEnd s = .next t ∧ t.epoch.ended = true ∧ t.epoch.cycle = max (2 ^ s.k - 1) s.epoch.cycle ∧ t.epoch.num = s.epoch.num ∧
      t.plan = s.plan := by
  rw [epochEnd_eq ha hb he]
  have hg := lastCycleDone_gist (s.advanceTo (2 ^ s.k - 1))
  have hadv := advanceTo_epoch (2 ^ s.k - 1) ha
  generalize (s.advanceTo (2 ^ s.k - 1)).lastCycleDone = u at *
  have hm : (u.modEpoch fun e => { e with ended := true }).epoch = { u.epoch with ended := true } := rfl
  refine ⟨_, rfl, by rw [hm], ?_, ?_, ?_⟩
  · rw [hm]
    exact (epoch_of_gist Epoch.cycle (fun _ => rfl) hg).trans (congrArg Epoch.cycle hadv)
  · rw [hm]
    exact (epoch_of_gist Epoch.num (fun _ => rfl) hg).trans ((congrArg Epoch.num hadv).trans rfl)
  · exact (plan_of_gist hg).trans (advanceTo_plan s _)

theorem startTime_clause (hp : s.plan = .starting) (ha : s.epoch.active = false) (he : s.pl.e0 ≠ 0xFFFFFFFFFFFFFFFF) :
    ∃ t, exec .planStartTime s = .next t ∧ t.plan = .running ∧ t.epoch.active = true ∧ t.epoch.num = s.pl.e0 ∧ t.epoch.cycle = 0 ∧
      t.epoch.begun = false ∧ t.epoch.decision = none := by
  rw [planStartTime_runs hp ha he]
  have hstart : ∀ u : State, u.startEpoch.epoch.active = true ∧ u.startEpoch.epoch.num = u.pl.e0 ∧ u.startEpoch.epoch.cycle = 0 ∧
      u.startEpoch.epoch.begun = false ∧ u.startEpoch.epoch.decision = none := fun _ => ⟨rfl, rfl, rfl, rfl, rfl⟩
  obtain ⟨h1, h2, h3, h4, h5⟩ := hstart (s.pass (s.cyclesTo s.pl.startNs))
  rw [pass_pl] at h2
  generalize (s.pass (s.cyclesTo s.pl.startNs)).startEpoch = v at *
  have hnew := newPortEpoch_gist v
  have hgate := epochModes_gated (v.newPortEpoch.planChange .running) true
  have hepoch : ((v.newPortEpoch.planChange .running).epochModes true).epoch.gist = v.epoch.gist := by
    rw [epoch_of_gated Epoch.gist (fun _ => rfl) hgate, planChange_epoch, ← gist_epoch, hnew, gist_epoch]
  have hplan : ((v.newPortEpoch.planChange .running).epochModes true).plan = .running :=
    (plan_of_gated hgate).trans (plan_of_aon (planChange_aon _ _))
  generalize (v.newPortEpoch.planChange .running).epochModes true = t at *
  have hfield := fun {α : Type} (p : Epoch → α) => congrArg p hepoch
  exact ⟨t, rfl, hplan, (hfield Epoch.active).trans h1, (hfield Epoch.num).trans h2, (hfield Epoch.cycle).trans h3, (hfield Epoch.begun).trans h4,
    (hfield Epoch.decision).trans h5⟩

end

end Sys2Proof.Machine

/-- Settles O35: each boundary by the part of the state that the gate works on (`gated`, `gist`), which blocks, ports, events and books leave as it is. -/
theorem epochCommands : Obligations.EpochCommands := by
  unfold Obligations.EpochCommands
  refine ⟨fun s => ⟨last_clause, next_clause, fun missed run cause => effect_clause, end_clause, fun hp ha he => ?_, startTime_clause, fun hp h => ?_⟩,
    fun s => ⟨gateCause_eq s, gateInstant_clause⟩⟩
  · rw [planStartTime_last hp ha he]
    obtain ⟨hplan, hidle, -, -⟩ := bound_toBound (s.pass (s.cyclesTo s.pl.startNs))
    exact ⟨_, rfl, hplan, hidle⟩
  · obtain ⟨u, hu⟩ := planStopBoundary_stops hp h
    rw [hu]
    obtain ⟨hplan, hidle, hrecs, hheld⟩ := bound_toBound u
    exact ⟨_, rfl, hplan, hidle, hrecs, hheld⟩
end

/-! # Messages from send entry to delivery: the proofs -/

section
open Sys2Proof Sys2Proof.Machine

namespace Sys2Proof.Machine

/-! ## Tags, flits and slots (R388, R412) -/

section
variable (ch : ChanId) (last world trailer : Bool) (lag : BitVec 6) (rcycle : BitVec 20)

theorem mkTag_bit (i : Nat) : (mkTag ch last world trailer lag rcycle).getLsbD i =
    if i < 7 then ch.getLsbD i else if i = 7 then last else if i = 8 then world else if i = 9 then trailer
    else if i < 16 then lag.getLsbD (i - 10) else if i < 36 then rcycle.getLsbD (i - 16) else false := by
  unfold mkTag
  simp only [BitVec.getLsbD_append, BitVec.getLsbD_ofBool]
  by_cases h1 : i < 7
  · simp [h1]
  · by_cases h2 : i = 7
    · simp [h2]
    · by_cases h3 : i = 8
      · simp [h3]
      · by_cases h4 : i = 9
        · simp [h4]
        · have e1 : ¬ i - 7 < 1 := by omega
          have e2 : ¬ i - 7 - 1 < 1 := by omega
          have e3 : ¬ i - 7 - 1 - 1 < 1 := by omega
          have e4 : i - 7 - 1 - 1 - 1 = i - 10 := by omega
          have e5 : i - 10 - 6 = i - 16 := by omega
          have e6 : (i - 10 < 6) ↔ i < 16 := by omega
          have e7 : (i - 16 < 20) ↔ i < 36 := by omega
          simp [h1, h2, h3, h4, e1, e2, e3, e4, e5, e6, e7]

theorem mkTag_fields (payload : BitVec 256) :
    let f := mkFlit (mkTag ch last world trailer lag rcycle) payload
    f.ch = ch ∧ f.last = last ∧ f.world = world ∧ f.trailer = trailer ∧ f.lag = lag.toNat ∧ f.rcycle = rcycle.toNat ∧ f.parityOk = true := by
  refine ⟨?_, ?_, ?_, ?_, congrArg BitVec.toNat (?_ : _ = lag), congrArg BitVec.toNat (?_ : _ = rcycle), decide_eq_true rfl⟩
  · refine BitVec.eq_of_getLsbD_eq fun i hi => ?_
    have := mkTag_bit ch last world trailer lag rcycle i
    simp [Flit.ch, mkFlit, hi, this]
  · exact mkTag_bit ch last world trailer lag rcycle 7
  · exact mkTag_bit ch last world trailer lag rcycle 8
  · exact mkTag_bit ch last world trailer lag rcycle 9
  · refine BitVec.eq_of_getLsbD_eq fun i hi => ?_
    have := mkTag_bit ch last world trailer lag rcycle (10 + i)
    have e1 : 10 + i < 16 := by omega
    have e2 : ¬ 10 + i < 7 := by omega
    have e3 : ¬ 10 + i = 7 := by omega
    have e4 : ¬ 10 + i = 8 := by omega
    have e5 : ¬ 10 + i = 9 := by omega
    simp [mkFlit, hi, this, e1, e2, e3, e4, e5]
  · refine BitVec.eq_of_getLsbD_eq fun i hi => ?_
    have := mkTag_bit ch last world trailer lag rcycle (16 + i)
    have e1 : ¬ 16 + i < 16 := by omega
    have e2 : ¬ 16 + i < 7 := by omega
    have e3 : ¬ 16 + i = 7 := by omega
    have e4 : ¬ 16 + i = 8 := by omega
    have e5 : ¬ 16 + i = 9 := by omega
    have e6 : 16 + i < 36 := by omega
    simp [mkFlit, hi, this, e1, e2, e3, e4, e5, e6]

end

theorem leBytes_leNat (l : List Byte) : leBytes l.length (leNat l) = l := by
  induction l with
  | nil => rfl
  | cons b l ih =>
    have hb := b.isLt
    have h1 : BitVec.ofNat 8 (b.toNat + 256 * leNat l) = b := BitVec.eq_of_toNat_eq (by rw [BitVec.toNat_ofNat]; omega)
    have h2 : (b.toNat + 256 * leNat l) / 256 = leNat l := by omega
    rw [List.length_cons, leNat, leBytes, h1, h2, ih]

/-- A payload of 32 bytes gives its bytes back. -/
theorem payload_bytes (l : List Byte) (i : Nat) (h : i + 32 ≤ l.length) :
    leBytes 32 (BitVec.ofNat 256 (leAt l i 32)).toNat = (l.drop i).take 32 := by
  have hlen : ((l.drop i).take 32).length = 32 := by rw [List.length_take, List.length_drop]; omega
  have hlt : leAt l i 32 < 2 ^ 256 := by
    have := leNat_lt ((l.drop i).take 32)
    rw [hlen] at this
    exact this
  have h := leBytes_leNat ((l.drop i).take 32)
  rw [hlen] at h
  rw [BitVec.toNat_ofNat, Nat.mod_eq_of_lt hlt]
  exact h

/-- Slot bits: payload, tag, VALID and the CRC-16. -/
def slotValue (f : Flit) : BitVec 304 := f.payload.setWidth 304 ||| (f.tag.setWidth 304 <<< 256) ||| (1 <<< 296)

theorem slotBits_some (f : Flit) : slotBits (some f) = (slotValue f).setWidth 320 ||| ((crc16 304 (slotValue f)).setWidth 320 <<< 304) := rfl

theorem slotBits_low (f : Flit) {i : Nat} (h : i < 304) : (slotBits (some f)).getLsbD i = (slotValue f).getLsbD i := by
  rw [slotBits_some]
  have h2 : i < 320 := by omega
  simp [h, h2]

theorem oneShift_bit (w n i : Nat) : (((1 <<< n : Nat) : BitVec w)).getLsbD i = (decide (i < w) && decide (n = i)) := by
  rw [BitVec.natCast_eq_ofNat, BitVec.getLsbD_ofNat, Nat.one_shiftLeft, Nat.testBit_two_pow]

theorem slotValue_bit (f : Flit) (i : Nat) : (slotValue f).getLsbD i =
    ((decide (i < 304) && f.payload.getLsbD i) || (decide (i < 304) && !decide (i < 256) && (decide (i - 256 < 304) && f.tag.getLsbD (i - 256))) ||
      (decide (i < 304) && decide (296 = i))) := by
  unfold slotValue
  rw [BitVec.getLsbD_or, BitVec.getLsbD_or, BitVec.getLsbD_shiftLeft, BitVec.getLsbD_setWidth, BitVec.getLsbD_setWidth, oneShift_bit]

theorem slotValue_payload (f : Flit) {i : Nat} (h : i < 256) : (slotValue f).getLsbD i = f.payload.getLsbD i := by
  have e1 : i < 304 := by omega
  have e2 : 296 ≠ i := by omega
  rw [slotValue_bit]
  simp [h, e1, e2]

theorem slotValue_tag (f : Flit) {i : Nat} (h : i < 40) : (slotValue f).getLsbD (256 + i) = f.tag.getLsbD i := by
  have e1 : 256 + i < 304 := by omega
  have e2 : 296 ≠ 256 + i := by omega
  have e3 : i < 304 := by omega
  rw [slotValue_bit, BitVec.getLsbD_of_ge f.payload (256 + i) (by omega)]
  simp [e1, e2, e3]

theorem slotBits_parts (f : Flit) : crc16 304 ((slotBits (some f)).setWidth 304) = (slotBits (some f)).extractLsb' 304 16 ∧
    (slotBits (some f)).getLsbD 296 = true ∧ (slotBits (some f)).extractLsb' 256 40 = f.tag ∧ (slotBits (some f)).extractLsb' 0 256 = f.payload := by
  have hv : (slotBits (some f)).setWidth 304 = slotValue f := BitVec.eq_of_getLsbD_eq fun i hi => by
    rw [BitVec.getLsbD_setWidth, slotBits_low f hi, decide_eq_true hi, Bool.true_and]
  refine ⟨?_, ?_, ?_, ?_⟩
  · rw [hv]
    refine BitVec.eq_of_getLsbD_eq fun i hi => ?_
    rw [BitVec.getLsbD_extractLsb', slotBits_some]
    have e1 : 304 + i < 320 := by omega
    simp [hi, e1]
  · rw [slotBits_low f (by decide)]
    rw [slotValue_bit, show (decide (296 < 304) && decide (296 = 296)) = true from rfl, Bool.or_true]
  · refine BitVec.eq_of_getLsbD_eq fun i hi => ?_
    rw [BitVec.getLsbD_extractLsb', slotBits_low f (by omega), slotValue_tag f hi, decide_eq_true hi, Bool.true_and]
  · refine BitVec.eq_of_getLsbD_eq fun i hi => ?_
    rw [BitVec.getLsbD_extractLsb', Nat.zero_add, slotBits_low f (by omega), slotValue_payload f hi, decide_eq_true hi, Bool.true_and]

/-! ## The flits of a message (R395, R407) -/

/-- The data flits of a message. -/
def dataFlits (e : SendEntry) (l : List Byte) (c : Nat) : List (Flit × Nat) :=
  (List.range (e.nfm1.toNat + 1)).map fun j =>
    (mkFlit (mkTag e.ch (decide (j + 1 = e.nfm1.toNat + 1)) e.world false e.lag e.rcycle) (BitVec.ofNat 256 (leAt l (32 * j) 32)), c + 1 + j)

theorem messageFlits_eq (e : SendEntry) (l : List Byte) (c : Nat) : ∃ r, messageFlits e l c = dataFlits e l c ++ r ∧ r.length = if e.guard then 1 else 0 := by
  unfold messageFlits
  dsimp only
  split
  · exact ⟨_, rfl, rfl⟩
  · exact ⟨[], (List.append_nil _).symm, rfl⟩

theorem messageFlits_length (e : SendEntry) (l : List Byte) (c : Nat) :
    (messageFlits e l c).length = e.nfm1.toNat + 1 + (if e.guard then 1 else 0) := by
  obtain ⟨r, h, hr⟩ := messageFlits_eq e l c
  rw [h, List.length_append, hr, dataFlits, List.length_map, List.length_range]

theorem messageFlits_clause (e : SendEntry) (l : List Byte) (c : Nat) (h : l.length = 32 * (e.nfm1.toNat + 1)) {j : Nat} (hj : j < e.nfm1.toNat + 1) :
    ∃ f, (messageFlits e l c)[j]? = some (f, c + 1 + j) ∧ leBytes 32 f.payload.toNat = (l.drop (32 * j)).take 32 ∧
      f.ch = e.ch ∧ f.last = decide (j = e.nfm1.toNat) ∧ f.world = e.world ∧ f.trailer = false ∧ f.lag = e.lag.toNat ∧ f.rcycle = e.rcycle.toNat ∧
      f.parityOk = true := by
  obtain ⟨r, hr, -⟩ := messageFlits_eq e l c
  have hlen : j < (dataFlits e l c).length := by rw [dataFlits, List.length_map, List.length_range]; exact hj
  obtain ⟨h1, h2, h3, h4, h5, h6, h7⟩ :=
    mkTag_fields e.ch (decide (j + 1 = e.nfm1.toNat + 1)) e.world false e.lag e.rcycle (BitVec.ofNat 256 (leAt l (32 * j) 32))
  refine ⟨_, ?_, payload_bytes l (32 * j) (by omega), h1, h2.trans (decide_eq_decide.2 (by omega)), h3, h4, h5, h6, h7⟩
  rw [hr, List.getElem?_append_left hlen, dataFlits, List.getElem?_map, List.getElem?_range hj]
  rfl

/-! ## Tables of queues -/

section
variable {α : Type} (t : Tab (List α)) (k : Nat)

@[simp] theorem look_setTab_same (l : List α) : look [] (setTab t k l) k = l := by
  cases l with
  | nil => exact look_unlist_same [] t k
  | cons x l => exact look_put_same [] t k _

theorem look_setTab_ne {n : Nat} (l : List α) (h : n ≠ k) : look [] (setTab t k l) n = look [] t n := by
  cases l with
  | nil => exact look_unlist_ne [] t h
  | cons x l => exact look_put_ne [] t _ h

@[simp] theorem look_pushTab_same (v : α) : look [] (pushTab t k v) k = look [] t k ++ [v] := look_put_same [] t k _

end

/-! ## Landing inputs of a boundary (R412, R413) -/

/-- What the two inputs hold in common is nothing: they lie in different blocks, or at different endpoints. -/
def Apart : XIn → XIn → Prop
  | .block b _, .block c _ => b ≠ c
  | .edge _ p, .edge _ q => p ≠ q
  | _, _ => True

/-- What is on the wire toward an input and in its landing buffer. -/
def State.boundary (s : State) (i : XIn) : List (Flit × Nat) × List LandFlit := (s.wireOf i, s.landOf i)

section
variable (s : State) (i : XIn)

theorem setWire_boundary (l : List (Flit × Nat)) : (s.setWire i l).boundary i = (l, s.landOf i) := by
  cases i with
  | block b d => simp [State.boundary, State.setWire, State.wireOf, State.landOf, State.modXng]
  | edge e p => cases e <;> simp [State.boundary, State.setWire, State.wireOf, State.landOf, State.modEdge, State.setEdge, State.edgeDie]

theorem setLand_boundary (l : List LandFlit) : (s.setLand i l).boundary i = (s.wireOf i, l) := by
  cases i with
  | block b d => simp [State.boundary, State.setLand, State.wireOf, State.landOf, State.modXng]
  | edge e p => cases e <;> simp [State.boundary, State.setLand, State.wireOf, State.landOf, State.modEdge, State.setEdge, State.edgeDie]

end

/-- Nothing toward any input or in any landing buffer has changed. -/
def SameBoundaries (s t : State) : Prop := ∀ j, t.boundary j = s.boundary j

/-- An input at which nothing changes but where `i` is. -/
def KeepsApart (i : XIn) (s t : State) : Prop := ∀ j, Apart i j → t.boundary j = s.boundary j

section
variable {s t u : State} {i : XIn}

theorem keepsApart_refl : KeepsApart i s s := fun _ _ => rfl

theorem KeepsApart.trans (h : KeepsApart i s t) (k : KeepsApart i t u) : KeepsApart i s u := fun j hj => (k j hj).trans (h j hj)

theorem SameBoundaries.keepsApart (h : SameBoundaries s t) : KeepsApart i s t := fun j _ => h j

/-- A change of the block of an input leaves the inputs apart from it. -/
theorem keepsApart_modXng (s : State) (b : BlockId) (d : Dir) (f : Xng → Xng) : KeepsApart (.block b d) s (s.modXng b f) := fun j hj => by
  cases j with
  | block c side =>
    have hc : c ≠ b := Ne.symm hj
    simp [State.boundary, State.wireOf, State.landOf, State.modXng, blk_modBlk_ne _ _ hc]
  | edge e p => rfl

/-- A change of the edge die that keeps what is toward the other endpoints and in their landing buffers. -/
theorem keepsApart_modEdge (s : State) (e : Edge) (p : Nat) {f : EdgeDie → EdgeDie}
    (hf : ∀ d q, q ≠ p → look [] (f d).wire q = look [] d.wire q ∧ look [] (f d).land q = look [] d.land q) :
    KeepsApart (.edge e p) s (s.modEdge e f) := fun j hj => by
  cases j with
  | block c d => cases e <;> rfl
  | edge e' q =>
    have hq : q ≠ p := Ne.symm hj
    cases e <;> cases e' <;> simp [State.boundary, State.wireOf, State.landOf, State.modEdge, State.setEdge, State.edgeDie, hf _ q hq]

theorem keepsApart_setWire (s : State) (i : XIn) (l : List (Flit × Nat)) : KeepsApart i s (s.setWire i l) := by
  cases i with
  | block b d => exact keepsApart_modXng s b d _
  | edge e p => exact keepsApart_modEdge s e p fun d q hq => ⟨look_setTab_ne _ _ _ hq, rfl⟩

theorem keepsApart_setLand (s : State) (i : XIn) (l : List LandFlit) : KeepsApart i s (s.setLand i l) := by
  cases i with
  | block b d => exact keepsApart_modXng s b d _
  | edge e p => exact keepsApart_modEdge s e p fun d q hq => ⟨rfl, look_setTab_ne _ _ _ hq⟩

theorem sameBoundaries_charge (s : State) (row : Nat) (b : BitVec 16) : SameBoundaries s (s.charge row b) := fun j => by
  unfold State.charge
  split <;> rfl

theorem sameBoundaries_bump (s : State) (k l n : Nat) : SameBoundaries s (s.bump k l n) := fun j => by
  unfold State.bump State.keepCounter
  dsimp only
  split <;> rfl

theorem SameBoundaries.trans (h : SameBoundaries s t) (k : SameBoundaries t u) : SameBoundaries s u := fun j => (k j).trans (h j)

theorem sameBoundaries_slotFails (s : State) (i : XIn) : SameBoundaries s (s.slotFails i) := by
  cases i with
  | block b d => exact (sameBoundaries_bump s _ _ _).trans (sameBoundaries_charge _ _ _)
  | edge e p => exact sameBoundaries_charge _ _ _

end

/-- What a full landing buffer counts. -/
def State.overflowed (s : State) : XIn → State
  | .block b _ => s.modXng b fun x => { x with overflow := sat32 x.overflow }
  | .edge e _ => s.modEdge e fun d => { d with overflow := d.overflow + 1 }

section
variable (s : State) (i : XIn)

theorem landFlit_room (f : Flit) (t : Nat) (h : (s.landOf i).length < 8) : s.landFlit i f t = s.setLand i (s.landOf i ++ [⟨f, false, 0, t⟩]) := if_pos h

theorem landFlit_full (f : Flit) (t : Nat) (h : 8 ≤ (s.landOf i).length) : s.landFlit i f t = s.overflowed i := by
  unfold State.landFlit
  rw [if_neg (by omega)]
  cases i <;> rfl

theorem sameBoundaries_overflowed : SameBoundaries s (s.overflowed i) := fun j => by
  cases i with
  | block b d =>
    cases j with
    | block c side =>
      by_cases hc : c = b
      · subst hc
        simp [State.boundary, State.wireOf, State.landOf, State.overflowed, State.modXng]
      · simp [State.boundary, State.wireOf, State.landOf, State.overflowed, State.modXng, blk_modBlk_ne _ _ hc]
    | edge e p => rfl
  | edge e p =>
    cases j with
    | block c d => cases e <;> rfl
    | edge e' q => cases e <;> cases e' <;> rfl

theorem keepsApart_landFlit (f : Flit) (t : Nat) : KeepsApart i s (s.landFlit i f t) := by
  by_cases h : (s.landOf i).length < 8
  · rw [landFlit_room s i f t h]
    exact keepsApart_setLand s i _
  · rw [landFlit_full s i f t (by omega)]
    exact (sameBoundaries_overflowed s i).keepsApart

end

/-! ### Faults of slots -/

/-- Faults have at most been added. -/
structure Charged (s t : State) : Prop where
  charges : t.epoch.charges = s.epoch.charges
  first : s.epoch.faults.first ≠ none → t.epoch.faults.first ≠ none

section
variable {s t u : State}

theorem Charged.trans (h : Charged s t) (k : Charged t u) : Charged s u := ⟨k.charges.trans h.charges, fun e => k.first (h.first e)⟩

theorem charged_of_epoch (h : t.epoch = s.epoch) : Charged s t := ⟨congrArg Epoch.charges h, fun e => by rw [h]; exact e⟩

theorem add_first (f : FaultRec) (row : Nat) (b : BitVec 16) : (f.add row b).first ≠ none := by
  unfold FaultRec.add
  split
  · exact Option.some_ne_none _
  next h => rw [h]; exact Option.some_ne_none _

theorem charge_faults (row : Nat) (b : BitVec 16) (h : s.epoch.charges = true) : (s.charge row b).epoch.faults = s.epoch.faults.add row b := by
  rw [State.charge, if_pos h]

theorem charge_epoch (s : State) (row : Nat) (b : BitVec 16) :
    (s.charge row b).epoch = { s.epoch with faults := if s.epoch.charges then s.epoch.faults.add row b else s.epoch.faults } := by
  unfold State.charge
  split <;> rfl

theorem charged_charge (s : State) (row : Nat) (b : BitVec 16) : Charged s (s.charge row b) := by
  refine ⟨by rw [charge_epoch]; rfl, fun h => ?_⟩
  rw [charge_epoch]
  dsimp only
  split
  · exact add_first _ _ _
  · exact h

theorem setWire_epoch (s : State) (i : XIn) (l : List (Flit × Nat)) : (s.setWire i l).epoch = s.epoch := by
  cases i with
  | block b d => rfl
  | edge e p => cases e <;> rfl

theorem setLand_epoch (s : State) (i : XIn) (l : List LandFlit) : (s.setLand i l).epoch = s.epoch := by
  cases i with
  | block b d => rfl
  | edge e p => cases e <;> rfl

theorem overflowed_epoch (s : State) (i : XIn) : (s.overflowed i).epoch = s.epoch := by
  cases i with
  | block b d => rfl
  | edge e p => cases e <;> rfl

theorem landFlit_epoch (s : State) (i : XIn) (f : Flit) (c : Nat) : (s.landFlit i f c).epoch = s.epoch := by
  by_cases h : (s.landOf i).length < 8
  · rw [landFlit_room s i f c h, setLand_epoch]
  · rw [landFlit_full s i f c (by omega), overflowed_epoch]

theorem charged_slotFails (s : State) (i : XIn) : Charged s (s.slotFails i) := by
  cases i with
  | block b d => exact (charged_of_epoch (bump_epoch s _ _ _)).trans (charged_charge _ _ _)
  | edge e p => exact charged_charge _ _ _

theorem slotFails_first (s : State) (i : XIn) (h : s.epoch.charges = true) : (s.slotFails i).epoch.faults.first ≠ none := by
  cases i with
  | block b d =>
    unfold State.slotFails
    dsimp only
    rw [charge_faults _ _ (by rw [bump_epoch]; exact h)]
    exact add_first _ _ _
  | edge e p =>
    unfold State.slotFails
    dsimp only
    rw [charge_faults _ _ h]
    exact add_first _ _ _

end

/-! ### A slot of a frame -/

section
variable {s : State} {u : UcieEnd} {m n : Nat}

/-- A slot with the bits `r` reaches an input. -/
def State.slotBrings (s : State) (i : XIn) (r : BitVec 320) (t : Option Nat) : State :=
  if crc16 304 (r.setWidth 304) ≠ r.extractLsb' 304 16 then s.slotFails i
  else if r.getLsbD 296 then s.landFlit i (mkFlit (r.extractLsb' 256 40) (r.extractLsb' 0 256)) (t.getD 0)
  else s

theorem slotReceive_eq (t : Option Nat) (noise : BitVec 320) : ∃ v r, s.slotReceive u m n t noise = v.slotBrings (ucieInput u (4 * m + n)) r t ∧
    KeepsApart (ucieInput u (4 * m + n)) s v ∧ v.epoch = s.epoch := by
  unfold State.slotReceive
  dsimp only
  refine ⟨_, _, rfl, ?_, ?_⟩
  · split
    · exact keepsApart_setWire s _ _
    · exact keepsApart_refl
  · split
    · exact setWire_epoch s _ _
    · rfl

theorem slotReceive_sent {f : Flit} {c : Nat} {rest : List (Flit × Nat)} (h : s.wireOf (ucieInput u (4 * m + n)) = (f, c) :: rest) (noise : BitVec 320) :
    s.slotReceive u m n (some c) noise =
      (s.setWire (ucieInput u (4 * m + n)) rest).slotBrings (ucieInput u (4 * m + n)) (slotBits (some f) ^^^ noise) (some c) := by
  unfold State.slotReceive
  dsimp only
  have hsent : Option.filter (fun g : Flit × Nat => decide (some g.2 = some c)) ((f, c) :: rest).head? = some (f, c) := by simp
  rw [h, hsent]
  rfl

theorem keepsApart_slotBrings (s : State) (i : XIn) (r : BitVec 320) (t : Option Nat) : KeepsApart i s (s.slotBrings i r t) := by
  unfold State.slotBrings
  split
  · exact (sameBoundaries_slotFails s i).keepsApart
  · split
    · exact keepsApart_landFlit s i _ _
    · exact keepsApart_refl

theorem charged_slotBrings (s : State) (i : XIn) (r : BitVec 320) (t : Option Nat) : Charged s (s.slotBrings i r t) := by
  unfold State.slotBrings
  split
  · exact charged_slotFails s i
  · split
    · exact charged_of_epoch (landFlit_epoch s i _ _)
    · exact charged_of_epoch rfl

/-- What a slot leaves of its own input. -/
structure Brought (s t : State) (i : XIn) (r : BitVec 320) (c : Nat) : Prop where
  wire : t.wireOf i = s.wireOf i
  taken : crc16 304 (r.setWidth 304) = r.extractLsb' 304 16 → r.getLsbD 296 = true → (s.landOf i).length < 8 →
    t.landOf i = s.landOf i ++ [⟨mkFlit (r.extractLsb' 256 40) (r.extractLsb' 0 256), false, 0, c⟩]
  full : 8 ≤ (s.landOf i).length → t.landOf i = s.landOf i
  failed : ¬ crc16 304 (r.setWidth 304) = r.extractLsb' 304 16 → t.landOf i = s.landOf i ∧ (s.epoch.charges = true → t.epoch.faults.first ≠ none)

theorem wire_of_boundary {t : State} {i : XIn} {w : List (Flit × Nat)} {l : List LandFlit} (h : t.boundary i = (w, l)) : t.wireOf i = w ∧ t.landOf i = l :=
  ⟨congrArg Prod.fst h, congrArg Prod.snd h⟩

theorem slotBrings_brings (s : State) (i : XIn) (r : BitVec 320) (c : Nat) : Brought s (s.slotBrings i r (some c)) i r c := by
  unfold State.slotBrings
  by_cases hg : crc16 304 (r.setWidth 304) = r.extractLsb' 304 16
  · rw [if_neg (fun h => h hg)]
    by_cases hv : r.getLsbD 296 = true
    · rw [if_pos hv]
      by_cases hl : (s.landOf i).length < 8
      · rw [landFlit_room s i _ _ hl]
        obtain ⟨hw, hl'⟩ := wire_of_boundary (setLand_boundary s i (s.landOf i ++ [⟨mkFlit (r.extractLsb' 256 40) (r.extractLsb' 0 256), false, 0, c⟩]))
        exact ⟨hw, fun _ _ _ => hl', fun h => absurd hl (by omega), fun h => absurd hg h⟩
      · rw [landFlit_full s i _ _ (by omega)]
        obtain ⟨hw, hl'⟩ := wire_of_boundary (sameBoundaries_overflowed s i i)
        exact ⟨hw, fun _ _ h => absurd h hl, fun _ => hl', fun h => absurd hg h⟩
    · rw [if_neg hv]
      exact ⟨rfl, fun _ h => absurd h hv, fun _ => rfl, fun h => absurd hg h⟩
  · rw [if_pos hg]
    obtain ⟨hw, hl'⟩ := wire_of_boundary (sameBoundaries_slotFails s i i)
    exact ⟨hw, fun h => absurd h hg, fun _ => hl', fun _ => ⟨hl', slotFails_first s i⟩⟩

end

/-! ### The four slots -/

/-- What a frame's slots leave of one input beside their own. -/
structure Passed (i : XIn) (s t : State) : Prop where
  boundary : t.boundary i = s.boundary i
  charged : Charged s t

theorem slots_passed {u : UcieEnd} {m : Nat} {i : XIn} (t : Option Nat) (noise : Nat → BitVec 320) (l : List Nat)
    (h : ∀ n ∈ l, Apart (ucieInput u (4 * m + n)) i) (s : State) : Passed i s (l.foldl (fun s n => s.slotReceive u m n t (noise n)) s) := by
  induction l generalizing s with
  | nil => exact ⟨rfl, charged_of_epoch rfl⟩
  | cons n l ih =>
    obtain ⟨v, r, hv, hk, he⟩ := slotReceive_eq (s := s) (u := u) (m := m) (n := n) t (noise n)
    have hn := h n List.mem_cons_self
    obtain ⟨hb, hc⟩ := ih (fun k hk => h k (List.mem_cons_of_mem n hk)) (s.slotReceive u m n t (noise n))
    rw [List.foldl_cons]
    refine ⟨hb.trans ?_, Charged.trans ?_ hc⟩
    · rw [hv]
      exact (keepsApart_slotBrings v _ r t i hn).trans (hk i hn)
    · rw [hv]
      exact (charged_of_epoch he).trans (charged_slotBrings v _ r t)

theorem blockAt_inj {q x y x' y' : Nat} (hx : x < 64) (hy : y < 64) (hx' : x' < 64) (hy' : y' < 64) (h : blockAt q x y = blockAt q x' y') :
    x = x' ∧ y = y' := by
  have hn := congrArg BitVec.toNat h
  unfold blockAt at hn
  rw [BitVec.toNat_ofNat, BitVec.toNat_ofNat] at hn
  omega

theorem ucieInput_apart {u : UcieEnd} (hu : ucieDies u ≠ none) {c c' : Nat} (hc : c < 64) (hc' : c' < 64) (h : c ≠ c') :
    Apart (ucieInput u c) (ucieInput u c') := by
  cases u with
  | edge e east =>
    show 64 * boolBit east + c ≠ 64 * boolBit east + c'
    omega
  | quarter q side =>
    cases side with
    | n => exact fun e => h (blockAt_inj hc (by decide) hc' (by decide) e).1
    | s => exact fun e => h (blockAt_inj hc (by decide) hc' (by decide) e).1
    | e => exact fun e => h (blockAt_inj (by decide) hc (by decide) hc' e).2
    | w => exact fun e => h (blockAt_inj (by decide) hc (by decide) hc' e).2
    | l => exact absurd rfl hu

theorem range4_split {n : Nat} (h : n < 4) : ∃ pre post, List.range 4 = pre ++ n :: post ∧ (∀ k ∈ pre, k < 4 ∧ k ≠ n) ∧ ∀ k ∈ post, k < 4 ∧ k ≠ n := by
  refine ⟨List.range n, (List.range (3 - n)).map (n + 1 + ·), ?_, fun k hk => ?_, fun k hk => ?_⟩
  · obtain rfl | rfl | rfl | rfl : n = 0 ∨ n = 1 ∨ n = 2 ∨ n = 3 := by omega
    all_goals rfl
  · have := List.mem_range.1 hk
    omega
  · obtain ⟨j, hj, rfl⟩ := List.mem_map.1 hk
    have := List.mem_range.1 hj
    omega

/-- The flit of a channel whose cycle the frame carries has come with its slot (R412, R413). -/
theorem frameSlots_brings {s : State} {u : UcieEnd} {m n : Nat} {noise : List (BitVec 64)} (hu : ucieDies u ≠ none) (hm : m < 16) (hn : n < 4) {f : Flit} {c : Nat}
    {rest : List (Flit × Nat)} (hw : s.wireOf (ucieInput u (4 * m + n)) = (f, c) :: rest) (hc : s.frameCycle u m = some c) :
    ∃ a b, Passed (ucieInput u (4 * m + n)) s a ∧ Brought (a.setWire (ucieInput u (4 * m + n)) rest) b (ucieInput u (4 * m + n))
      (slotBits (some f) ^^^ noiseBits noise (5 * n) 320) c ∧ Passed (ucieInput u (4 * m + n)) b (s.frameSlots u m noise) := by
  obtain ⟨pre, post, hl, hpre, hpost⟩ := range4_split hn
  have hap : ∀ l : List Nat, (∀ k ∈ l, k < 4 ∧ k ≠ n) → ∀ k ∈ l, Apart (ucieInput u (4 * m + k)) (ucieInput u (4 * m + n)) := fun l h k hk => by
    obtain ⟨h1, h2⟩ := h k hk
    exact ucieInput_apart hu (by omega) (by omega) (by omega)
  have ha := slots_passed (some c) (fun n => noiseBits noise (5 * n) 320) pre (hap pre hpre) s
  unfold State.frameSlots
  dsimp only
  rw [hc, hl, List.foldl_append, List.foldl_cons]
  generalize pre.foldl (fun s n => s.slotReceive u m n (some c) (noiseBits noise (5 * n) 320)) s = a at *
  have hwa : a.wireOf (ucieInput u (4 * m + n)) = (f, c) :: rest := (wire_of_boundary ha.boundary).1.trans hw
  refine ⟨a, a.slotReceive u m n (some c) (noiseBits noise (5 * n) 320), ha, ?_, slots_passed _ _ post (hap post hpost) _⟩
  rw [slotReceive_sent hwa]
  exact slotBrings_brings _ _ _ _

theorem fieldReceive_passed (s : State) (a b : Nat) (noise : BitVec 128) (i : XIn) : Passed i s (s.fieldReceive a b noise) := by
  unfold State.fieldReceive
  split
  · exact ⟨rfl, charged_of_epoch rfl⟩
  · exact ⟨rfl, charged_of_epoch rfl⟩

theorem ucieFrameReceive_clause {s : State} {u : UcieEnd} {m : BitVec 4} {noise : List (BitVec 64)} (hu : ucieDies u ≠ none) {n : Nat} (hn : n < 4)
    {f : Flit} {c : Nat} {rest : List (Flit × Nat)} (hw : s.wireOf (ucieInput u (4 * m.toNat + n)) = (f, c) :: rest)
    (hc : s.frameCycle u m.toNat = some c) :
    let at_ := ucieInput u (4 * m.toNat + n)
    let r := slotBits (some f) ^^^ noiseBits noise (5 * n) 320
    let good := crc16 304 (r.setWidth 304) = r.extractLsb' 304 16
    ∃ t, exec (.ucieFrameReceive u ⟨m, noise⟩) s = .next t ∧ t.wireOf at_ = rest ∧
      (good → r.getLsbD 296 = true → (s.landOf at_).length < 8 →
        t.landOf at_ = s.landOf at_ ++ [⟨mkFlit (r.extractLsb' 256 40) (r.extractLsb' 0 256), false, 0, c⟩]) ∧
      (8 ≤ (s.landOf at_).length → t.landOf at_ = s.landOf at_) ∧
      (¬good → t.landOf at_ = s.landOf at_ ∧ (s.epoch.charges = true → t.epoch.faults.first ≠ none)) := by
  obtain ⟨a, b, ha, hb, hlast⟩ := frameSlots_brings (noise := noise) hu m.isLt hn hw hc
  have hexec : ∃ t, exec (.ucieFrameReceive u ⟨m, noise⟩) s = .next t ∧ Passed (ucieInput u (4 * m.toNat + n)) (s.frameSlots u m.toNat noise) t := by
    obtain ⟨⟨p, q⟩, hd⟩ := Option.ne_none_iff_exists'.1 hu
    refine ⟨_, rfl, ?_⟩
    unfold ucieFrameReceive
    rw [hd]
    dsimp only
    split
    · exact fieldReceive_passed _ _ _ _ _
    · exact ⟨rfl, charged_of_epoch rfl⟩
  obtain ⟨t, ht, hp⟩ := hexec
  generalize ucieInput u (4 * m.toNat + n) = i at *
  generalize slotBits (some f) ^^^ noiseBits noise (5 * n) 320 = r at *
  have hland : t.landOf i = b.landOf i := congrArg Prod.snd (hp.boundary.trans hlast.boundary)
  have hwire : t.wireOf i = b.wireOf i := congrArg Prod.fst (hp.boundary.trans hlast.boundary)
  have hset := wire_of_boundary (setWire_boundary a i rest)
  have hstart : (a.setWire i rest).landOf i = s.landOf i := hset.2.trans (congrArg Prod.snd ha.boundary)
  have hch : Charged b t := hlast.charged.trans hp.charged
  obtain ⟨h1, h2, h3, h4⟩ := hb
  rw [hstart] at h2 h3 h4
  refine ⟨t, ht, by rw [hwire, h1, hset.1], fun hg hv hl => by rw [hland, h2 hg hv hl], fun hl => by rw [hland, h3 hl], fun hg => ?_⟩
  obtain ⟨hl, hf⟩ := h4 hg
  refine ⟨by rw [hland, hl], fun he => hch.first (hf ?_)⟩
  rw [setWire_epoch, ha.charged.charges]
  exact he

/-! ## Sending (R394 to R397) -/

section
variable {s : State} {b : BlockId}

theorem runningPart_active (h : s.runningPart = true) : s.epoch.active = true := active_of_runningPart h

theorem messageSend_block (hr : s.runningPart = true) (ht : s.branchTicks b 3 = true) :
    exec (.messageSend (.block b) .ok) s = .next (s.blockSend b .ok) :=
  congrArg Host.Outcome.next (if_pos (by rw [hr, ht]; rfl))

/-- The index of the entry that a message engine sends next, and the entry. -/
def Block.nextSend (x : Block) (c : Nat) : SendEntry := look SendEntry.reset x.msg.send (x.msg.nextAt c)

theorem blockSend_never (h : 2 ^ s.k ≤ ((s.blk b).nextSend s.epoch.cycle).scycle.toNat) :
    s.blockSend b .ok = s.modMsg b fun m => { m with next := BitVec.ofNat 10 ((s.blk b).msg.nextAt s.epoch.cycle) } := by
  unfold State.blockSend
  dsimp only
  exact if_pos (.inr h)

/-- The entry is taken in its cycle. -/
def State.entryDue (s : State) (b : BlockId) : State :=
  (s.advanceTo ((s.blk b).nextSend s.epoch.cycle).scycle.toNat).modMsg b fun m =>
    { m with next := BitVec.ofNat 10 ((s.blk b).msg.nextAt s.epoch.cycle + 1) }

/-- The flits of the entry. -/
def Block.sendFlits (x : Block) (c : Nat) : List (Flit × Nat) :=
  messageFlits (x.nextSend c) (mload x.ls (x.nextSend c).src.toNat (32 * ((x.nextSend c).nfm1.toNat + 1))) (x.nextSend c).scycle.toNat

/-- The block with a message on its way to the local input. -/
def Block.sending (x : Block) (l : List (Flit × Nat)) (c : Nat) : Block :=
  { x with
    msg := { x.msg with tx := x.msg.tx + BitVec.ofNat 64 l.length, busyTo := c + l.length }
    xng := { x.xng with inp := put x.xng.inp 5 (look [] x.xng.inp 5 ++ l) } }

theorem entryDue_blk (s : State) (b : BlockId) : (s.entryDue b).blk b =
    { s.blk b with msg := { (s.blk b).msg with next := BitVec.ofNat 10 ((s.blk b).msg.nextAt s.epoch.cycle + 1) } } := by
  unfold State.entryDue State.modMsg
  rw [blk_modBlk_same, advanceTo_blk]

theorem advanceTo_branchTicks (s : State) (c : Nat) (b : BlockId) (i : Nat) : (s.advanceTo c).branchTicks b i = s.branchTicks b i := by
  unfold State.advanceTo
  split <;> rfl

theorem modBlk_clocked (s : State) (b c : BlockId) (f : Block → Block) : (s.modBlk b f).clocked c = s.clocked c := rfl

theorem branchTicks_modBlk (s : State) (b : BlockId) (f : Block → Block) (i : Nat) (h : (f (s.blk b)).clk = (s.blk b).clk) :
    (s.modBlk b f).branchTicks b i = s.branchTicks b i := by
  unfold State.branchTicks
  rw [blk_modBlk_same, h, modBlk_clocked]

theorem moveWords_blk (s : State) (k n : Nat) (b : BlockId) : (s.moveWords k n).blk b = s.blk b := by
  unfold State.moveWords
  split <;> rfl

theorem moveWords_epoch (s : State) (k n : Nat) : (s.moveWords k n).epoch = s.epoch := by
  unfold State.moveWords
  split <;> rfl

theorem blockSend_sends (hn : (s.blk b).msg.nextAt s.epoch.cycle < (s.blk b).msg.nsend.toNat)
    (hc : ((s.blk b).nextSend s.epoch.cycle).scycle.toNat < 2 ^ s.k) (hp : (s.blk b).core.parked = false)
    (hl : inLs ((s.blk b).nextSend s.epoch.cycle).src.toNat (32 * (((s.blk b).nextSend s.epoch.cycle).nfm1.toNat + 1)) = true)
    (hb : (s.blk b).msg.busyTo ≤ ((s.blk b).nextSend s.epoch.cycle).scycle.toNat) (h5 : s.branchTicks b 5 = true) :
    ∃ n, s.blockSend b .ok = ((s.entryDue b).modBlk b fun x =>
      x.sending ((s.blk b).sendFlits s.epoch.cycle) ((s.blk b).nextSend s.epoch.cycle).scycle.toNat).sentWords n := by
  have hx := entryDue_blk s b
  have h5' : (s.entryDue b).branchTicks b 5 = true := by
    unfold State.entryDue State.modMsg
    rw [branchTicks_modBlk _ _ _ _ (by rfl), advanceTo_branchTicks]
    exact h5
  have hbusy : decide (((s.blk b).nextSend s.epoch.cycle).scycle.toNat < (s.blk b).msg.busyTo) = false := decide_eq_false (by omega)
  refine ⟨((((s.blk b).nextSend s.epoch.cycle).nfm1.toNat + 1) * look 1 (s.blk b).msg.fan ((s.blk b).msg.nextAt s.epoch.cycle)), ?_⟩
  unfold State.blockSend
  dsimp only
  refine (if_neg (not_or.2 ⟨Nat.not_le.2 hn, Nat.not_le.2 hc⟩)).trans ((if_neg ?_).trans ?_)
  · change ¬ (((s.entryDue b).blk b).core.parked || !inLs ((s.blk b).nextSend s.epoch.cycle).src.toNat
      (32 * (((s.blk b).nextSend s.epoch.cycle).nfm1.toNat + 1)) || decide (((s.blk b).nextSend s.epoch.cycle).scycle.toNat < (s.blk b).msg.busyTo) || !(s.entryDue b).branchTicks b 5) = true
    rw [hx, hl, hbusy, h5']
    dsimp only
    rw [hp]
    decide
  · have hls : ((s.entryDue b).blk b).ls = (s.blk b).ls := by rw [hx]
    change (State.sentWords (State.modBlk _ b fun x => Block.sending x (messageFlits _ (mload ((s.entryDue b).blk b).ls _ _) _) _) _) = _
    rw [hls]
    rfl

theorem never_clause (hr : s.runningPart = true) (h3 : s.branchTicks b 3 = true) (h : 2 ^ s.k ≤ ((s.blk b).nextSend s.epoch.cycle).scycle.toNat) :
    ∃ t, exec (.messageSend (.block b) .ok) s = .next t ∧ (t.blk b).xng = (s.blk b).xng ∧ (t.blk b).msg.tx = (s.blk b).msg.tx ∧ t.epoch = s.epoch := by
  rw [messageSend_block hr h3, blockSend_never h]
  refine ⟨_, rfl, ?_, ?_, rfl⟩
  · rw [State.modMsg, blk_modBlk_same]
  · rw [State.modMsg, blk_modBlk_same]

theorem entryDue_cycle (ha : s.epoch.active = true) : (s.entryDue b).epoch.cycle = max ((s.blk b).nextSend s.epoch.cycle).scycle.toNat s.epoch.cycle :=
  advanceTo_cycle _ ha

theorem send_clause (hr : s.runningPart = true) (h3 : s.branchTicks b 3 = true) (h5 : s.branchTicks b 5 = true)
    (hn : (s.blk b).msg.nextAt s.epoch.cycle < (s.blk b).msg.nsend.toNat)
    (hc : ((s.blk b).nextSend s.epoch.cycle).scycle.toNat < 2 ^ s.k) (hle : s.epoch.cycle ≤ ((s.blk b).nextSend s.epoch.cycle).scycle.toNat)
    (hp : (s.blk b).core.parked = false)
    (hl : inLs ((s.blk b).nextSend s.epoch.cycle).src.toNat (32 * (((s.blk b).nextSend s.epoch.cycle).nfm1.toNat + 1)) = true)
    (hb : (s.blk b).msg.busyTo ≤ ((s.blk b).nextSend s.epoch.cycle).scycle.toNat) :
    ∃ t, exec (.messageSend (.block b) .ok) s = .next t ∧ t.epoch.cycle = ((s.blk b).nextSend s.epoch.cycle).scycle.toNat ∧
      look [] (t.blk b).xng.inp 5 = look [] (s.blk b).xng.inp 5 ++ (s.blk b).sendFlits s.epoch.cycle ∧
      (t.blk b).msg.next = BitVec.ofNat 10 ((s.blk b).msg.nextAt s.epoch.cycle + 1) ∧
      (t.blk b).msg.tx = (s.blk b).msg.tx +
        BitVec.ofNat 64 (((s.blk b).nextSend s.epoch.cycle).nfm1.toNat + 1 + if ((s.blk b).nextSend s.epoch.cycle).guard then 1 else 0) ∧
      (t.blk b).ls = (s.blk b).ls := by
  obtain ⟨k, hk⟩ := blockSend_sends hn hc hp hl hb h5
  have hlen : ((s.blk b).sendFlits s.epoch.cycle).length = _ := messageFlits_length _ _ _
  have hcyc := entryDue_cycle (s := s) (b := b) (runningPart_active hr)
  have hx := entryDue_blk s b
  rw [messageSend_block hr h3, hk, ← hlen]
  generalize (s.blk b).sendFlits s.epoch.cycle = l at *
  have hsent : (((s.entryDue b).modBlk b fun x => x.sending l ((s.blk b).nextSend s.epoch.cycle).scycle.toNat).sentWords k).blk b =
      ((s.entryDue b).blk b).sending l ((s.blk b).nextSend s.epoch.cycle).scycle.toNat := by
    rw [State.sentWords, moveWords_blk, blk_modBlk_same]
  refine ⟨_, rfl, ?_, ?_, ?_, ?_, ?_⟩
  · rw [State.sentWords, moveWords_epoch]
    exact hcyc.trans (max_eq_left hle)
  · rw [hsent, hx]
    exact look_put_same _ _ _ _
  · rw [hsent, hx]
    rfl
  · rw [hsent, hx]
    rfl
  · rw [hsent, hx]
    rfl

end

/-! ## Crossings (R389 to R393) -/

section
variable {s : State} {b : BlockId} {d : Dir} {f : Flit} {c : Nat} {rest : List (Flit × Nat)}

/-- The crossing without the flit at the head of an input. -/
def Xng.arrived (x : Xng) (k : Nat) (rest : List (Flit × Nat)) : Xng := { x with inp := setTab x.inp k rest }

/-- The flit has come to its input in its cycle. -/
def State.atInput (s : State) (b : BlockId) (d : Dir) (c : Nat) (rest : List (Flit × Nat)) : State := (s.advanceTo c).setInp (.block b d) rest

theorem arrival_eq (noise : BitVec 304) (h : look [] (s.blk b).xng.inp (dirCode d) = (f, c) :: rest) (hp : s.pllOn (quarterOf b) = true) (hc : c < 2 ^ s.k) :
    exec (.crossingFlitArrival (.block b d) noise) s = .next (if (f.turned noise).parityOk then (s.atInput b d c rest).forward b c (dirCode d) (f.turned noise)
      else (s.atInput b d c rest).parityFail b) := by
  have ht : s.inputTicks (.block b d) = true := hp
  have hi : s.inpOf (.block b d) = (f, c) :: rest := h
  refine congrArg Host.Outcome.next ?_
  unfold crossingFlitArrival
  rw [if_neg (by rw [ht]; decide), hi]
  exact if_neg (Nat.not_le.2 hc)

theorem arrival_never (noise : BitVec 304) (h : look [] (s.blk b).xng.inp (dirCode d) = (f, c) :: rest) (hc : 2 ^ s.k ≤ c) :
    exec (.crossingFlitArrival (.block b d) noise) s = .next s := by
  have hi : s.inpOf (.block b d) = (f, c) :: rest := h
  refine congrArg Host.Outcome.next ?_
  unfold crossingFlitArrival
  by_cases ht : (!s.inputTicks (.block b d)) = true
  · exact if_pos ht
  · rw [if_neg ht, hi]
    exact if_pos hc

theorem atInput_xng : ((s.atInput b d c rest).blk b).xng = (s.blk b).xng.arrived (dirCode d) rest := by
  unfold State.atInput State.setInp State.modXng
  dsimp only
  rw [blk_modBlk_same, advanceTo_blk]
  rfl

theorem atInput_blk_ne {m : BlockId} (h : m ≠ b) : (s.atInput b d c rest).blk m = s.blk m := by
  unfold State.atInput State.setInp State.modXng
  dsimp only
  rw [blk_modBlk_ne _ _ h, advanceTo_blk]

theorem setInp_hop (u : State) (o : Nat) (c : BlockId) : (u.setInp (.block b d) rest).hop c o = u.hop c o := rfl

theorem advanceTo_hop (u : State) (n o : Nat) (c : BlockId) : (u.advanceTo n).hop c o = u.hop c o := by
  unfold State.advanceTo
  split <;> rfl

theorem atInput_hop (o : Nat) (m : BlockId) : (s.atInput b d c rest).hop m o = s.hop m o := (setInp_hop _ o m).trans (advanceTo_hop s c o m)

theorem setInp_epoch (u : State) : (u.setInp (.block b d) rest).epoch = u.epoch ∧ (u.setInp (.block b d) rest).plan = u.plan := ⟨rfl, rfl⟩

theorem advanceTo_runs (s : State) (c : Nat) : (s.advanceTo c).epoch.charges = s.epoch.charges ∧ (s.advanceTo c).epoch.faults = s.epoch.faults ∧
    (s.advanceTo c).runningPart = s.runningPart := by
  unfold State.advanceTo
  split <;> exact ⟨rfl, rfl, rfl⟩

theorem atInput_epoch : (s.atInput b d c rest).epoch.charges = s.epoch.charges ∧ (s.atInput b d c rest).epoch.faults = s.epoch.faults ∧
    (s.atInput b d c rest).runningPart = s.runningPart := advanceTo_runs s c

theorem note_blk_xng (u : State) (reason word limit : Nat) (m : BlockId) : ((u.note b reason word limit).blk m).xng = (u.blk m).xng := by
  obtain ⟨i, hi⟩ := (booksOnly_note u b reason word limit).blk m
  rw [hi]

theorem candidateAt_epoch (u : State) (q : BitVec 2) (x y reason detail : Nat) : (u.candidateAt q x y reason detail).epoch = u.epoch := by
  unfold State.candidateAt
  dsimp only
  split
  · rfl
  · split
    · exact raise_epoch _ _ _ _ _
    · exact raise_epoch _ _ _ _ _

theorem note_epoch (u : State) (reason word limit : Nat) : (u.note b reason word limit).epoch = u.epoch := by
  have hs : ∀ l, (u.setNotes b l).epoch = u.epoch := fun _ => rfl
  unfold State.note
  split
  · rfl
  · dsimp only
    split
    · exact (candidateAt_epoch _ _ _ _ _ _).trans (hs _)
    · exact hs _

theorem parityFail_xng (u : State) : ((u.parityFail b).blk b).xng = { (u.blk b).xng with parity := (u.blk b).xng.parity + 1 } := by
  unfold State.parityFail
  dsimp only
  rw [note_blk_xng, bump_blk, charge_blk, State.modXng, blk_modBlk_same]

theorem parityFail_faults (u : State) (h : u.epoch.charges = true) : (u.parityFail b).epoch.faults = u.epoch.faults.add 2 (blkRef b) := by
  have hm : ∀ g, (u.modXng b g).epoch = u.epoch := fun _ => rfl
  unfold State.parityFail
  dsimp only
  rw [note_epoch, bump_epoch, charge_faults _ _ (by rw [hm]; exact h), hm]
  rfl

theorem forward_drops (u : State) (k : Nat) (h : u.runningPart = false ∨ (u.blk b).xng.outputs c k = []) :
    u.forward b c k f = u.modXng b fun x => { x with drops := x.drops + 1 } := by
  have hl : (if u.runningPart then (u.blk b).xng.outputs c k else []) = [] := by
    rcases h with h | h
    · rw [h]; rfl
    · rw [h]; exact ite_self _
  unfold State.forward
  rw [hl]

theorem forward_one (u : State) {k o : Nat} (hr : u.runningPart = true) (h : (u.blk b).xng.outputs c k = [o]) : u.forward b c k f = u.leave b c f o := by
  unfold State.forward
  rw [if_pos hr, h]
  rfl

theorem leave_inner (u : State) {o j : Nat} {m : BlockId} (h : u.hop b o = .inner m j) :
    u.leave b c f o = u.modXng m fun x => { x with inp := pushTab x.inp j (f, c + 2) } := by
  unfold State.leave
  rw [h]

theorem leave_across (u : State) {o j : Nat} {m : BlockId} (h : u.hop b o = .across m j) :
    u.leave b c f o = u.modXng m fun x => { x with wire := pushTab x.wire j (f, c) } := by
  unfold State.leave
  rw [h]

theorem arrived_outputs (x : Xng) (k c j : Nat) : (x.arrived k rest).outputs c j = x.outputs c j := rfl

theorem modXng_xng_same (u : State) (g : Xng → Xng) : ((u.modXng b g).blk b).xng = g (u.blk b).xng := by rw [State.modXng, blk_modBlk_same]

theorem modXng_xng_ne (u : State) {m : BlockId} (h : b ≠ m) (g : Xng → Xng) : ((u.modXng m g).blk b).xng = (u.blk b).xng := by
  rw [State.modXng, blk_modBlk_ne _ _ h]

theorem arrival_clause (noise : BitVec 304) (h : look [] (s.blk b).xng.inp (dirCode d) = (f, c) :: rest) (hp : s.pllOn (quarterOf b) = true)
    (hc : c < 2 ^ s.k) :
    ∃ t, exec (.crossingFlitArrival (.block b d) noise) s = .next t ∧
      ((f.turned noise).parityOk = false → (t.blk b).xng.parity = (s.blk b).xng.parity + 1 ∧ look [] (t.blk b).xng.inp (dirCode d) = rest ∧
        (s.epoch.charges = true → t.epoch.faults = s.epoch.faults.add 2 (blkRef b))) ∧
      ((f.turned noise).parityOk = true → s.runningPart = false ∨ (s.blk b).xng.outputs c (dirCode d) = [] →
        (t.blk b).xng.drops = (s.blk b).xng.drops + 1 ∧ look [] (t.blk b).xng.inp (dirCode d) = rest) ∧
      (∀ o m j, (f.turned noise).parityOk = true → s.runningPart = true → (s.blk b).xng.outputs c (dirCode d) = [o] → m ≠ b →
        (s.hop b o = .inner m j → look [] (t.blk m).xng.inp j = look [] (s.blk m).xng.inp j ++ [((f.turned noise), c + 2)] ∧
          look [] (t.blk b).xng.inp (dirCode d) = rest ∧ (t.blk b).xng.drops = (s.blk b).xng.drops) ∧
        (s.hop b o = .across m j → look [] (t.blk m).xng.wire j = look [] (s.blk m).xng.wire j ++ [((f.turned noise), c)] ∧
          look [] (t.blk b).xng.inp (dirCode d) = rest ∧ (t.blk b).xng.drops = (s.blk b).xng.drops)) := by
  rw [arrival_eq noise h hp hc]
  have hx : ((s.atInput b d c rest).blk b).xng = (s.blk b).xng.arrived (dirCode d) rest := atInput_xng
  have hne : ∀ m, m ≠ b → (s.atInput b d c rest).blk m = s.blk m := fun m hm => atInput_blk_ne hm
  have hhop : ∀ o m, (s.atInput b d c rest).hop m o = s.hop m o := atInput_hop
  obtain ⟨hch, hfa, hrun⟩ : (s.atInput b d c rest).epoch.charges = s.epoch.charges ∧ (s.atInput b d c rest).epoch.faults = s.epoch.faults ∧
    (s.atInput b d c rest).runningPart = s.runningPart := atInput_epoch
  generalize s.atInput b d c rest = u at *
  have hin : look [] ((s.blk b).xng.arrived (dirCode d) rest).inp (dirCode d) = rest := look_setTab_same _ _ _
  refine ⟨_, rfl, fun hpar => ?_, fun hpar hout => ?_, fun o m j hpar hr hout hm => ⟨fun hh => ?_, fun hh => ?_⟩⟩
  · rw [if_neg (by rw [hpar]; decide), parityFail_xng, hx]
    exact ⟨rfl, hin, fun he => by rw [parityFail_faults u (hch.trans he), hfa]⟩
  · rw [if_pos hpar, forward_drops u _ (by rw [hrun, hx]; exact hout), modXng_xng_same, hx]
    exact ⟨rfl, hin⟩
  · rw [if_pos hpar, forward_one u (hrun.trans hr) (by rw [hx]; exact hout), leave_inner u (by rw [hhop]; exact hh), modXng_xng_same,
      modXng_xng_ne u hm.symm, hne m hm, hx]
    exact ⟨look_pushTab_same _ _ _, hin, rfl⟩
  · rw [if_pos hpar, forward_one u (hrun.trans hr) (by rw [hx]; exact hout), leave_across u (by rw [hhop]; exact hh), modXng_xng_same,
      modXng_xng_ne u hm.symm, hne m hm, hx]
    exact ⟨look_pushTab_same _ _ _, hin, rfl⟩

end

/-! ## Landing buffers and pickups (R408, R409) -/

section
variable {s : State} {b : BlockId} {d : Dir}

theorem showNext_append {pre : List LandFlit} {h : LandFlit} (post : List LandFlit) (hpre : ∀ g ∈ pre, g.visible = true) (hh : h.visible = false) :
    showNext (pre ++ h :: post) = pre ++ { h with visible := true } :: post := by
  induction pre with
  | nil => exact if_neg (by rw [hh]; decide)
  | cons g pre ih =>
    have hg := hpre g List.mem_cons_self
    rw [List.cons_append, showNext, if_pos hg, ih fun x hx => hpre x (List.mem_cons_of_mem g hx), List.cons_append]

theorem nextShown_append {pre : List LandFlit} {h : LandFlit} (post : List LandFlit) (hpre : ∀ g ∈ pre, g.visible = true) (hh : h.visible = false) :
    nextShown (pre ++ h :: post) = some h.left := by
  have hnone : pre.find? (fun h => !h.visible) = none := List.find?_eq_none.2 fun g hg => by rw [hpre g hg]; decide
  rw [nextShown, List.find?_append, hnone, List.find?_cons_of_pos (by rw [hh]; rfl)]
  rfl

theorem visible_clause {pre : List LandFlit} {h : LandFlit} {post : List LandFlit} (hl : look [] (s.blk b).xng.land (dirCode d) = pre ++ h :: post)
    (hpre : ∀ g ∈ pre, g.visible = true) (hh : h.visible = false) (hc : h.left + 8 < 2 ^ s.k) :
    ∃ t, exec (.landingFlitVisible (.block b d)) s = .next t ∧ look [] (t.blk b).xng.land (dirCode d) = pre ++ { h with visible := true } :: post ∧
      (s.epoch.active = true → t.epoch.cycle = max (h.left + 8) s.epoch.cycle) := by
  have hland : s.landOf (.block b d) = pre ++ h :: post := hl
  have heq : exec (.landingFlitVisible (.block b d)) s =
      .next ((s.advanceTo (h.left + 8)).setLand (.block b d) (pre ++ { h with visible := true } :: post)) := by
    refine congrArg Host.Outcome.next ?_
    unfold landingFlitVisible
    rw [hland, nextShown_append post hpre hh, showNext_append post hpre hh]
    exact if_neg (Nat.not_le.2 hc)
  refine ⟨_, heq, ?_, fun ha => ?_⟩
  · exact congrArg Prod.snd (setLand_boundary (s.advanceTo (h.left + 8)) (.block b d) _)
  · rw [setLand_epoch]
    exact advanceTo_cycle _ ha

theorem sat32_toNat (v : BitVec 32) : (sat32 v).toNat = min (v.toNat + 1) 0xFFFFFFFF := by
  have hv := v.isLt
  unfold sat32
  split
  next h => rw [h]; decide
  next h =>
    have hn : v.toNat ≠ 0xFFFFFFFF := fun e => h (BitVec.eq_of_toNat_eq e)
    have h1 : (1 : BitVec 32).toNat = 1 := rfl
    rw [BitVec.toNat_add, h1]
    omega

/-- A pickup in cycle `c`: the head flit leaves, or a MISS is counted. -/
def State.picksUp (s : State) (b : BlockId) (d : Dir) : State :=
  (s.setPicked (.block b d) (s.epoch.cycle + 1))

theorem picksUp_xng : ((s.picksUp b d).blk b).xng = { (s.blk b).xng with picked := put (s.blk b).xng.picked (dirCode d) (s.epoch.cycle + 1) } := by
  unfold State.picksUp State.setPicked
  dsimp only
  rw [modXng_xng_same]

theorem picksUp_blk_ne {m : BlockId} (h : m ≠ b) : (s.picksUp b d).blk m = s.blk m := by
  unfold State.picksUp State.setPicked State.modXng
  dsimp only
  rw [blk_modBlk_ne _ _ h]

/-- The pickup of an input, once it is due. -/
def State.picked (s : State) (b : BlockId) (d : Dir) (c : Nat) : State :=
  match s.landOf (.block b d) with
  | h :: rest => if h.visible || decide (h.left + 13 ≤ c) then (s.setLand (.block b d) rest).takeLanded (.block b d) c h else s.pickupMiss (.block b d)
  | [] => s.pickupMiss (.block b d)

theorem picked_miss {u : State} {c : Nat} (h : ∀ h rest, u.landOf (.block b d) = h :: rest → h.visible = false ∧ c < h.left + 13) :
    u.picked b d c = u.modXng b fun x => { x with miss := sat32 x.miss } := by
  unfold State.picked
  split
  next g rest hl =>
    obtain ⟨h1, h2⟩ := h g rest hl
    exact if_neg (by simp [h1, Nat.not_le.2 h2])
  next => rfl

theorem picked_takes {u : State} {c : Nat} {h : LandFlit} {rest : List LandFlit} (hl : u.landOf (.block b d) = h :: rest)
    (hv : h.visible = true ∨ h.left + 13 ≤ c) : u.picked b d c = (u.setLand (.block b d) rest).forward b c (dirCode d) h.flit := by
  unfold State.picked
  rw [hl]
  refine (if_pos ?_).trans rfl
  rcases hv with hv | hv
  · rw [hv]; rfl
  · rw [decide_eq_true hv, Bool.or_true]

theorem pickup_eq (hr : s.runningPart = true) (hp : s.pllOn (quarterOf b) = true) (hl : s.landingInput (.block b d) = true)
    (hk : s.pickedOf (.block b d) ≠ s.epoch.cycle + 1) (ho : (s.blk b).xng.outputs s.epoch.cycle (dirCode d) ≠ []) :
    exec (.pickup (.block b d)) s = .next ((s.picksUp b d).picked b d s.epoch.cycle) := by
  have ht : s.inputTicks (.block b d) = true := hp
  have hpick : s.picks (.block b d) s.epoch.cycle = true := by
    unfold State.picks
    cases ho' : (s.blk b).xng.outputs s.epoch.cycle (dirCode d) with
    | nil => exact absurd ho' ho
    | cons o l => simp [ho']
  refine congrArg Host.Outcome.next ?_
  unfold pickup
  dsimp only
  rw [if_neg (by rw [hr, ht, hl, hpick, decide_eq_false hk]; decide)]
  rfl

/-- What leaves a crossing of a block keeps the record of its pickups. -/
theorem leave_picked (u : State) (b m : BlockId) (c o : Nat) (f : Flit) : ((u.leave b c f o).blk m).xng.picked = (u.blk m).xng.picked := by
  have hm : ∀ (u : State) (n : BlockId) (g : Xng → Xng), (∀ x, (g x).picked = x.picked) → ((u.modXng n g).blk m).xng.picked = (u.blk m).xng.picked :=
    fun u n g hg => by
      by_cases h : m = n
      · subst h
        rw [modXng_xng_same, hg]
      · rw [modXng_xng_ne u h]
  unfold State.leave
  split
  · exact hm _ _ _ fun _ => rfl
  · exact hm _ _ _ fun _ => rfl
  next e p _ => cases e <;> rfl
  · split
    · exact hm _ _ _ fun _ => rfl
    · exact hm _ _ _ fun _ => rfl
  · rfl

theorem forward_picked (u : State) (b m : BlockId) (c k : Nat) (f : Flit) : ((u.forward b c k f).blk m).xng.picked = (u.blk m).xng.picked := by
  unfold State.forward
  split
  · by_cases h : m = b
    · subst h
      rw [modXng_xng_same]
    · rw [modXng_xng_ne u h]
  · exact foldl_keeps (fun u : State => (u.blk m).xng.picked) (fun u o => leave_picked u b m c o f) _ u

theorem setLand_xng (u : State) (l : List LandFlit) :
    ((u.setLand (.block b d) l).blk b).xng = { (u.blk b).xng with land := setTab (u.blk b).xng.land (dirCode d) l } := modXng_xng_same u _

theorem picked_picked (u : State) (c : Nat) : ((u.picked b d c).blk b).xng.picked = (u.blk b).xng.picked := by
  have hmiss : ((u.pickupMiss (.block b d)).blk b).xng.picked = (u.blk b).xng.picked := by
    unfold State.pickupMiss
    dsimp only
    rw [modXng_xng_same]
  unfold State.picked
  split
  · split
    · exact (forward_picked _ b b c _ _).trans (by rw [setLand_xng])
    · exact hmiss
  · exact hmiss

theorem picksUp_rest (s : State) : (s.picksUp b d).runningPart = s.runningPart ∧ (∀ o m, (s.picksUp b d).hop m o = s.hop m o) ∧
    (s.picksUp b d).landOf (.block b d) = look [] (s.blk b).xng.land (dirCode d) :=
  ⟨rfl, fun _ _ => rfl, by rw [State.landOf, picksUp_xng]⟩

theorem pickup_clause (hr : s.runningPart = true) (hp : s.pllOn (quarterOf b) = true) (hl : s.landingInput (.block b d) = true)
    (hk : s.pickedOf (.block b d) ≠ s.epoch.cycle + 1) (ho : (s.blk b).xng.outputs s.epoch.cycle (dirCode d) ≠ []) :
    ∃ t, exec (.pickup (.block b d)) s = .next t ∧ t.pickedOf (.block b d) = s.epoch.cycle + 1 ∧
      ((∀ h rest, look [] (s.blk b).xng.land (dirCode d) = h :: rest → h.visible = false ∧ s.epoch.cycle < h.left + 13) →
        (t.blk b).xng.miss.toNat = min ((s.blk b).xng.miss.toNat + 1) 0xFFFFFFFF ∧ (t.blk b).xng.land = (s.blk b).xng.land) ∧
      (∀ h rest o m j, look [] (s.blk b).xng.land (dirCode d) = h :: rest → h.visible = true ∨ h.left + 13 ≤ s.epoch.cycle →
        (s.blk b).xng.outputs s.epoch.cycle (dirCode d) = [o] →
        s.hop b o = .inner m j → m ≠ b → look [] (t.blk b).xng.land (dirCode d) = rest ∧
        look [] (t.blk m).xng.inp j = look [] (s.blk m).xng.inp j ++ [(h.flit, s.epoch.cycle + 2)]) := by
  rw [pickup_eq hr hp hl hk ho]
  obtain ⟨hrun, hhop, hland⟩ := picksUp_rest (b := b) (d := d) s
  have hx : ((s.picksUp b d).blk b).xng = _ := picksUp_xng
  have hne : ∀ m, m ≠ b → (s.picksUp b d).blk m = s.blk m := fun m hm => picksUp_blk_ne hm
  generalize s.picksUp b d = u at *
  refine ⟨_, rfl, ?_, fun hmiss => ?_, fun h rest o m j hh hv hout hi hm => ?_⟩
  · unfold State.pickedOf
    dsimp only
    rw [picked_picked, hx]
    exact look_put_same _ _ _ _
  · rw [picked_miss fun g rest hg => hmiss g rest (hland.symm.trans hg), modXng_xng_same, hx]
    exact ⟨sat32_toNat _, rfl⟩
  · have hrun' : (u.setLand (.block b d) rest).runningPart = true := hrun.trans hr
    have hout' : ((u.setLand (.block b d) rest).blk b).xng.outputs s.epoch.cycle (dirCode d) = [o] := by
      rw [setLand_xng, hx]
      exact hout
    have hhop' : (u.setLand (.block b d) rest).hop b o = .inner m j := (hhop o b).trans hi
    rw [picked_takes (hland.trans hh) hv, forward_one _ hrun' hout', leave_inner _ hhop', modXng_xng_same, modXng_xng_ne _ hm.symm, setLand_xng]
    refine ⟨look_setTab_same _ _ _, (look_pushTab_same _ _ _).trans ?_⟩
    have hm' : ((u.setLand (.block b d) rest).blk m).xng = (s.blk m).xng := (modXng_xng_ne u hm _).trans (congrArg Block.xng (hne m hm))
    rw [hm']

end

/-! ## Hold buffers (R397, R398, R403, R407) -/

section
variable {s : State} {b : BlockId} {f : Flit} {c : Nat} {rest : List (Flit × Nat)}

/-- The flit at the head of the local output has come to the hold buffer. -/
def State.atHold (s : State) (b : BlockId) (c : Nat) (rest : List (Flit × Nat)) : State := (s.advanceTo c).modXng b fun x => { x with outL := rest }

/-- A flit enters the hold buffer of a block. -/
def State.enterHold (s : State) (b : BlockId) (f : Flit) (c : Nat) : State :=
  if 128 ≤ (s.blk b).msg.hold.length then s.charge rowHoldOverflow (blkRef b)
  else if f.trailer && !(look RxChan.reset (s.blk b).msg.rxc f.ch.toNat).guard then
    (s.modMsg b fun m => { m with hold := dropMessage m.hold (s.heldFlit f c), guardFails := m.guardFails + 1 }).charge rowUncorrectable (blkRef b)
  else s.modMsg b fun m => { m with hold := m.hold ++ [s.heldFlit f c], rx := m.rx + 1 }

theorem holdBufferEntry_eq (h : (s.blk b).xng.outL = (f, c) :: rest) : exec (.holdBufferEntry (.block b)) s = .next ((s.atHold b c rest).enterHold b f c) := by
  refine congrArg Host.Outcome.next ?_
  unfold holdBufferEntry
  dsimp only
  rw [h]
  rfl

theorem atHold_blk : (s.atHold b c rest).blk b = { s.blk b with xng := { (s.blk b).xng with outL := rest } } := by
  unfold State.atHold State.modXng
  rw [blk_modBlk_same, advanceTo_blk]

theorem modXng_epoch (u : State) (g : Xng → Xng) : (u.modXng b g).epoch = u.epoch := rfl

theorem atHold_epoch : (s.atHold b c rest).epoch.charges = s.epoch.charges ∧ (s.atHold b c rest).epoch.faults = s.epoch.faults ∧
    (s.atHold b c rest).epoch.num = s.epoch.num := by
  unfold State.atHold
  rw [modXng_epoch]
  exact ⟨(advanceTo_runs s c).1, (advanceTo_runs s c).2.1, (advanceTo_prevRan s c).2⟩

theorem modMsg_blk (u : State) (g : Msg → Msg) : (u.modMsg b g).blk b = { u.blk b with msg := g (u.blk b).msg } := by rw [State.modMsg, blk_modBlk_same]

theorem enterHold_outL (u : State) : ((u.enterHold b f c).blk b).xng = (u.blk b).xng := by
  unfold State.enterHold
  split
  · rw [charge_blk]
  · split
    · rw [charge_blk, modMsg_blk]
    · rw [modMsg_blk]

theorem hold_clause (h : (s.blk b).xng.outL = (f, c) :: rest) :
    ∃ t, exec (.holdBufferEntry (.block b)) s = .next t ∧ (t.blk b).xng.outL = rest ∧
      ((s.blk b).msg.hold.length < 128 → (f.trailer = true → (look RxChan.reset (s.blk b).msg.rxc f.ch.toNat).guard = true) →
        (t.blk b).msg.hold = (s.blk b).msg.hold ++ [⟨f, s.epoch.num + BitVec.ofNat 64 f.lag, s.epoch.num, c⟩] ∧ (t.blk b).msg.rx = (s.blk b).msg.rx + 1) ∧
      (128 ≤ (s.blk b).msg.hold.length → (t.blk b).msg.hold = (s.blk b).msg.hold ∧
        (s.epoch.charges = true → t.epoch.faults = s.epoch.faults.add 4 (blkRef b))) := by
  rw [holdBufferEntry_eq h]
  have hx : (s.atHold b c rest).blk b = _ := atHold_blk
  obtain ⟨hch, hfa, hnum⟩ : (s.atHold b c rest).epoch.charges = s.epoch.charges ∧ (s.atHold b c rest).epoch.faults = s.epoch.faults ∧
    (s.atHold b c rest).epoch.num = s.epoch.num := atHold_epoch
  generalize s.atHold b c rest = u at *
  refine ⟨_, rfl, by rw [enterHold_outL, hx], fun hlt hg => ?_, fun hge => ?_⟩
  · have hfull : ¬ 128 ≤ (u.blk b).msg.hold.length := by rw [hx]; exact Nat.not_le.2 hlt
    have hbare : ¬ (f.trailer && !(look RxChan.reset (u.blk b).msg.rxc f.ch.toNat).guard) = true := by
      rw [hx]
      cases ht : f.trailer with
      | false => exact Bool.false_ne_true
      | true =>
        dsimp only
        rw [hg ht]
        decide
    unfold State.enterHold
    rw [if_neg hfull, if_neg hbare, modMsg_blk, hx, State.heldFlit, hnum]
    exact ⟨rfl, rfl⟩
  · unfold State.enterHold
    rw [if_pos (by rw [hx]; exact hge), charge_blk, hx]
    exact ⟨rfl, fun he => by rw [charge_faults _ _ (hch.trans he), hfa]; rfl⟩

end

/-! ## Release (R399, R405) -/

section
variable {s : State} {b : BlockId} {i : Nat} {l : List Held} {h : Held}

theorem messageBytes_length (l : List Held) : (messageBytes l).length = 32 * heldWords l := by
  have hf : ∀ m : List Held, (m.flatMap fun h => leBytes 32 h.flit.payload.toNat).length = 32 * m.length := fun m => by
    induction m with
    | nil => rfl
    | cons x m ih => rw [List.flatMap_cons, List.length_append, ih, leBytes_length, List.length_cons]; omega
  have hm : (l.filter fun h => !h.flit.trailer).length = heldWords l := by
    unfold heldWords words
    rw [List.filter_map, List.length_map]
    rfl
  rw [messageBytes, hf, hm]

/-- A message that lies in local store is delivered whole. -/
theorem clipLs_inside {a : Nat} {m : List Byte} (h : inLs a m.length = true) : clipLs a m = (a, m) := by
  simp only [inLs, Bool.and_eq_true, decide_eq_true_eq] at h
  obtain ⟨hlo, hhi⟩ := h
  unfold clipLs
  dsimp only
  rw [Nat.max_eq_left hlo, Nat.sub_self, List.drop_zero, List.take_of_length_le (by omega)]

theorem messageRelease_eq (hr : s.runningPart = true) (h' : releaseAt (s.blk b).msg.hold s.epoch.num i = some (l, h)) :
    exec (.messageRelease (.block b) i) s = .next (s.blockRelease b l h) := by
  refine congrArg Host.Outcome.next ?_
  unfold messageRelease
  rw [if_pos hr]
  dsimp only
  rw [h']

/-- The message has left the hold buffer, in its release cycle. -/
def State.released (s : State) (b : BlockId) (h : Held) : State :=
  (s.modMsg b fun m => { m with hold := dropMessage m.hold h }).advanceTo h.flit.rcycle

theorem released_blk : (s.released b h).blk b = { s.blk b with msg := { (s.blk b).msg with hold := dropMessage (s.blk b).msg.hold h } } := by
  unfold State.released
  rw [advanceTo_blk, modMsg_blk]

theorem modMsg_receives (u : State) (g : Msg → Msg) : (u.modMsg b g).receives b = u.receives b := by
  have h : ∀ k, (u.modMsg b g).branchTicks b k = u.branchTicks b k := fun k => branchTicks_modBlk u b _ k rfl
  rw [State.receives, State.receives, h, h]

theorem advanceTo_receives (u : State) (c : Nat) : (u.advanceTo c).receives b = u.receives b := by
  rw [State.receives, State.receives, advanceTo_branchTicks, advanceTo_branchTicks]

theorem blockRelease_delivers (hc : complete (look RxChan.reset (s.blk b).msg.rxc h.flit.ch.toNat).guard l = true) (hlate : lateHeld l s.epoch.num = false)
    (hrec : s.receives b = true)
    (hg : (look RxChan.reset (s.blk b).msg.rxc h.flit.ch.toNat).guard = true → guardOk l = true)
    (hen : (look RxChan.reset (s.blk b).msg.rxc h.flit.ch.toNat).en = true)
    (hw : h.flit.world = (look RxChan.reset (s.blk b).msg.rxc h.flit.ch.toNat).world)
    (hn : heldWords l ≤ (look RxChan.reset (s.blk b).msg.rxc h.flit.ch.toNat).sfm1.toNat + 1)
    (he : look 0 (s.blk b).core.delivered h.flit.ch.toNat < (look RxChan.reset (s.blk b).msg.rxc h.flit.ch.toNat).expect.toNat) :
    s.blockRelease b l h = (s.released b h).deliver b (look RxChan.reset (s.blk b).msg.rxc h.flit.ch.toNat) h.flit.ch l := by
  have hrec' : (s.released b h).receives b = true := by
    unfold State.released
    rw [advanceTo_receives, modMsg_receives]
    exact hrec
  have hlate' : lateHeld l (s.modMsg b fun m => { m with hold := dropMessage m.hold h }).epoch.num = false := hlate
  unfold State.blockRelease
  dsimp only
  refine (if_neg (by rw [hc]; decide)).trans ((if_neg (by rw [hlate']; decide)).trans ((if_neg ?_).trans ((if_neg ?_).trans ((if_neg ?_).trans rfl))))
  · change ¬ (!(s.released b h).receives b) = true
    rw [hrec']
    decide
  · cases hgd : (look RxChan.reset (s.blk b).msg.rxc h.flit.ch.toNat).guard with
    | false => exact Bool.false_ne_true
    | true => rw [hg hgd]; decide
  · rw [hen, decide_eq_false (fun e => e hw), decide_eq_false (Nat.not_lt.2 hn), decide_eq_false (Nat.not_le.2 he)]
    decide

theorem deliver_blk {u : State} {r : RxChan} {ch : ChanId} {a n : Nat} (hn : look 0 (u.blk b).core.delivered ch.toNat = n)
    (ha : r.base.toNat + n % (max r.slots.toNat 1) * (r.sfm1.toNat + 1) * 32 = a) (hl : inLs a (32 * heldWords l) = true) :
    look 0 ((u.deliver b r ch l).blk b).core.delivered ch.toNat = n + 1 ∧ ((u.deliver b r ch l).blk b).ls = mstore (u.blk b).ls a (messageBytes l) ∧
      ((u.deliver b r ch l).blk b).msg = (u.blk b).msg ∧ (u.deliver b r ch l).epoch = u.epoch := by
  have hclip : clipLs a (messageBytes l) = (a, messageBytes l) := clipLs_inside (by rw [messageBytes_length]; exact hl)
  have hmod : ∀ (v : State) (g : Core → Core), (v.modCore b g).epoch = v.epoch := fun _ _ => rfl
  have hstore : ∀ (v : State) k m, (v.lsStore b k m).epoch = v.epoch := fun _ _ _ => rfl
  unfold State.deliver
  dsimp only
  rw [hn, ha, hclip]
  unfold State.receivedWords
  rw [moveWords_blk, moveWords_epoch, hmod, hstore, State.modCore, blk_modBlk_same, State.lsStore, blk_modBlk_same]
  exact ⟨look_put_same _ _ _ _, rfl, rfl, rfl⟩

theorem release_clause (hr : s.runningPart = true) (h' : releaseAt (s.blk b).msg.hold s.epoch.num i = some (l, h)) :
    let x := s.blk b
    let r := look RxChan.reset x.msg.rxc h.flit.ch.toNat
    let n := look 0 x.core.delivered h.flit.ch.toNat
    let a := r.base.toNat + n % (max r.slots.toNat 1) * (r.sfm1.toNat + 1) * 32
    complete r.guard l = true → lateHeld l s.epoch.num = false → s.receives b = true → (r.guard = true → guardOk l = true) → r.en = true →
    h.flit.world = r.world → heldWords l ≤ r.sfm1.toNat + 1 → n < r.expect.toNat → inLs a (32 * heldWords l) = true →
    ∃ t, exec (.messageRelease (.block b) i) s = .next t ∧ look 0 (t.blk b).core.delivered h.flit.ch.toNat = n + 1 ∧
      mload (t.blk b).ls a (32 * heldWords l) = messageBytes l ∧
      (∀ j, (j < a ∨ a + 32 * heldWords l ≤ j) → mget (t.blk b).ls j = mget x.ls j) ∧
      (t.blk b).msg.hold = x.msg.hold.filter (fun g => !decide (g.key = h.key)) ∧ t.epoch.cycle = max h.flit.rcycle s.epoch.cycle := by
  dsimp only
  intro hc hlate hrec hg hen hw hn he hl
  rw [messageRelease_eq hr h', blockRelease_delivers hc hlate hrec hg hen hw hn he]
  have hx : (s.released b h).blk b = _ := released_blk
  have hcyc : (s.released b h).epoch.cycle = max h.flit.rcycle s.epoch.cycle := advanceTo_cycle _ (runningPart_active hr)
  generalize s.released b h = u at *
  generalize look RxChan.reset (s.blk b).msg.rxc h.flit.ch.toNat = r at *
  have hn' : look 0 (u.blk b).core.delivered h.flit.ch.toNat = look 0 (s.blk b).core.delivered h.flit.ch.toNat := by rw [hx]
  obtain ⟨h1, h2, h3, h4⟩ := deliver_blk hn' rfl hl
  rw [← messageBytes_length]
  refine ⟨_, rfl, h1, ?_, fun j hj => ?_, ?_, ?_⟩
  · rw [h2, mload_mstore_same]
  · rw [h2, mget_mstore_out _ _ _ hj, hx]
  · rw [h3, hx]
    rfl
  · rw [h4, hcyc]

end

end Sys2Proof.Machine

/-- Settles O37: each step of a message's way from the equation of its command, with the inputs apart from the one it concerns unchanged. -/
theorem messageCommands : Obligations.MessageCommands := by
  unfold Obligations.MessageCommands
  refine ⟨fun e l c h => ⟨messageFlits_length e l c, fun j hj => messageFlits_clause e l c h hj⟩, slotBits_parts,
    fun s u m noise hu n hn f c rest hw hc => ucieFrameReceive_clause hu hn hw hc, fun s b d => ⟨fun hr h3 _ h => never_clause hr h3 h,
      send_clause, fun f c rest noise h hp hc => arrival_clause noise h hp hc, fun f c rest noise h hc => arrival_never noise h hc,
      fun pre h post => visible_clause, pickup_clause, fun f c rest => hold_clause, fun i l h hr h' => release_clause hr h'⟩⟩
end

/-! # What links carry: the proofs -/

section
open Sys2Proof Sys2Proof.Machine

namespace Sys2Proof.Machine

/-! ## Identity frames and headers (R430, R435) -/

theorem leBytes_one (b : Byte) (l : List Byte) : b :: l = leBytes 1 b.toNat ++ l := by simp [leBytes]

/-- The byte that holds a device number and its valid bit. -/
def devByte (i : Identity) : Byte := i.devnum.setWidth 8 ||| (if i.devValid then 0x80 else 0)

theorem devByte_parts (i : Identity) : BitVec.ofNat 7 (devByte i).toNat = i.devnum ∧ (devByte i).toNat.testBit 7 = i.devValid := by
  have h : ∀ (d : BitVec 7) (v : Bool), BitVec.ofNat 7 (d.setWidth 8 ||| (if v then 0x80 else 0) : Byte).toNat = d ∧
      (d.setWidth 8 ||| (if v then 0x80 else 0) : Byte).toNat.testBit 7 = v := by decide
  exact h i.devnum i.devValid

theorem identity_body (m : Nat) (i : Identity) : (Frame.identity m i).body =
    leBytes 8 ((if m = 1 then 5 else 4) + 2 ^ 8 * m) ++ (leBytes 8 i.uid.toNat ++ (leBytes 1 (i.port.setWidth 8).toNat ++ (leBytes 1 i.stepping.toNat ++
      (leBytes 2 i.linkAbi.toNat ++ (leBytes 4 i.version.toNat ++ (leBytes 1 i.station.toNat ++ (leBytes 1 (devByte i).toNat ++
      (leBytes 2 i.depth0.toNat ++ (leBytes 2 i.depth1.toNat ++ (leBytes 2 i.rxNext.toNat ++ (leBytes 2 i.free0.toNat ++ (leBytes 2 i.free1.toNat ++
      (leBytes 4 i.txstamp.toNat ++ (leBytes 4 i.echo.toNat ++ (leBytes 4 i.echoAge.toNat ++ []))))))))))))))) := by
  simp only [← leBytes_one, Frame.body, Identity.bytes, devByte, List.append_assoc, List.cons_append, List.nil_append, List.append_nil]

theorem ofNat_byte {n : Nat} (x : BitVec n) {k : Nat} (h : 2 ^ n ≤ k) : BitVec.ofNat n (x.toNat % k) = x := by
  rw [Nat.mod_eq_of_lt (Nat.lt_of_lt_of_le x.isLt h), BitVec.ofNat_toNat, BitVec.setWidth_eq]

theorem ofNat_port (x : BitVec 3) : BitVec.ofNat 3 ((x.setWidth 8).toNat % 256) = x := by
  revert x
  decide

theorem identityOf_body (m : Nat) (i : Identity) : identityOf (Frame.identity m i).body = i := by
  obtain ⟨hd, hv⟩ := devByte_parts i
  rw [identity_body]
  unfold identityOf
  simp only [leAt_skip, leAt_here, Nat.reduceLeDiff, Nat.reduceSub, Nat.le_refl, Nat.sub_self, Nat.reducePow, ofNat_byte, ofNat_port]
  rw [Nat.mod_eq_of_lt (devByte i).isLt, hd, hv]

theorem identity_mode (i : Identity) {m : Nat} (h : m < 4) : leAt (Frame.identity m i).body 1 1 = m := by
  have hs : leBytes 8 ((if m = 1 then 5 else 4) + 2 ^ 8 * m) = leBytes 1 (if m = 1 then 5 else 4) ++ leBytes 7 m := by
    obtain rfl | rfl | rfl | rfl : m = 0 ∨ m = 1 ∨ m = 2 ∨ m = 3 := by omega
    all_goals rfl
  have hs' : leBytes 7 m = leBytes 1 m ++ leBytes 6 (m / 256) := rfl
  rw [identity_body, hs, hs']
  simp only [List.append_assoc, leAt_skip, leAt_here, Nat.le_refl, Nat.sub_self, Nat.reducePow]
  omega

theorem header_toNat (x : DPort) : x.header.toNat =
    x.bseq.toNat + 2 ^ 16 * x.rxNext.toNat + 2 ^ 32 * x.vc0.freed.toNat + 2 ^ 44 * x.vc1.freed.toNat + 2 ^ 56 * x.req.toNat := by
  have h1 := x.bseq.isLt
  have h2 := x.rxNext.isLt
  have h3 := x.vc0.freed.isLt
  have h4 := x.vc1.freed.isLt
  have h5 := x.req.isLt
  rw [DPort.header, BitVec.toNat_ofNat]
  omega

theorem extract_of_toNat {w n : Nat} {v : BitVec w} {a : Nat} {y : BitVec n} (h : v.toNat / 2 ^ a % 2 ^ n = y.toNat) : v.extractLsb' a n = y := by
  apply BitVec.eq_of_toNat_eq
  rw [BitVec.extractLsb'_toNat, Nat.shiftRight_eq_div_pow, h]

theorem header_fields (x : DPort) : x.header.extractLsb' 0 16 = x.bseq ∧ x.header.extractLsb' 16 16 = x.rxNext ∧
    x.header.extractLsb' 32 12 = x.vc0.freed ∧ x.header.extractLsb' 44 12 = x.vc1.freed ∧ x.header.extractLsb' 56 2 = x.req ∧
    x.header.extractLsb' 58 6 = 0 := by
  have h0 := header_toNat x
  have h1 := x.bseq.isLt
  have h2 := x.rxNext.isLt
  have h3 := x.vc0.freed.isLt
  have h4 := x.vc1.freed.isLt
  have h5 := x.req.isLt
  have hz : (0 : BitVec 6).toNat = 0 := rfl
  exact ⟨extract_of_toNat (by omega), extract_of_toNat (by omega), extract_of_toNat (by omega), extract_of_toNat (by omega),
    extract_of_toNat (by omega), extract_of_toNat (by omega)⟩

/-! ## Blocks (R429, R430, R437, R448) -/

section
variable {s : State} {n : Nat}

/-- What the count of blocks and the lock say of a port. -/
def State.reception (s : State) (n : Nat) : Nat × Nat × LinkSt × Bool × BitVec 2 :=
  ((s.port n).fecCorr, (s.port n).badRun, (s.port n).st, (s.port n).lock, (s.port n).req)

theorem charge_ports_eq (u : State) (row : Nat) (b : BitVec 16) : (u.charge row b).ports = u.ports := by
  unfold State.charge
  split <;> rfl

theorem planLost_ports (u : State) (n : Nat) : (u.planLost n).ports = u.ports := by
  unfold State.planLost
  split
  · exact charge_ports_eq _ _ _
  · rfl

theorem port_of_ports {t u : State} (h : t.ports = u.ports) (n : Nat) : t.port n = u.port n := by rw [State.port, State.port, h]

/-- A frame changes neither the counts of blocks nor the state of a port that is not ACTIVE. -/
theorem frameReceive_reception (l : List Byte) (h : (s.port n).st ≠ .active) : (s.frameReceive n l).reception n = s.reception n := by
  have hm : ∀ (u : State) (f : DPort → DPort),
      (∀ x, ((f x).fecCorr, (f x).badRun, (f x).st, (f x).lock, (f x).req) = (x.fecCorr, x.badRun, x.st, x.lock, x.req)) →
      (u.modPort n f).reception n = u.reception n := fun u f hf => by
    unfold State.reception
    rw [port_modPort_same]
    exact hf _
  have hp : ∀ u : State, (u.planLost n).reception n = u.reception n := fun u => by
    unfold State.reception
    rw [port_of_ports (planLost_ports u n)]
  unfold State.frameReceive
  dsimp only
  split
  · split
    · rw [hp]
      exact hm _ _ fun _ => rfl
    · exact hm _ _ fun _ => rfl
  · split
    · exact hm _ _ fun _ => rfl
    · rfl

theorem frames_reception (g : Nat → List Byte) (l : List Nat) (h : (s.port n).st ≠ .active) :
    (l.foldl (fun s i => s.frameReceive n (g i)) s).reception n = s.reception n := by
  induction l generalizing s with
  | nil => rfl
  | cons i l ih =>
    have hi := frameReceive_reception (g i) h
    have hst : ((s.frameReceive n (g i)).port n).st ≠ .active := by
      have e : ((s.frameReceive n (g i)).port n).st = (s.port n).st := congrArg (fun r : Nat × Nat × LinkSt × Bool × BitVec 2 => r.2.2.1) hi
      rw [e]
      exact h
    rw [List.foldl_cons, ih hst, hi]

/-- A good header locks a port that trains, and leaves one that exchanges capabilities. -/
theorem headerSeen_reception (h : BitVec 64) (hs : (s.port n).st ≠ .active) : ∃ lock req,
    (s.headerSeen n h).reception n = ((s.port n).fecCorr, (s.port n).badRun, (s.port n).st, lock, req) ∧
      ((s.port n).st = .train ∨ (s.port n).st = .retrain → lock = true ∧ req = 0) := by
  have hm : (s.modPort n fun x => { x with lock := true, req := 0 }).reception n = ((s.port n).fecCorr, (s.port n).badRun, (s.port n).st, true, 0) := by
    unfold State.reception
    rw [port_modPort_same]
  have hidle : ∀ st, (s.port n).st = st → st ≠ .train → st ≠ .retrain → ∃ lock req,
      s.reception n = ((s.port n).fecCorr, (s.port n).badRun, (s.port n).st, lock, req) ∧
        ((s.port n).st = .train ∨ (s.port n).st = .retrain → lock = true ∧ req = 0) := fun st e h1 h2 =>
    ⟨_, _, rfl, fun k => absurd k (by rw [e]; exact not_or.2 ⟨h1, h2⟩)⟩
  unfold State.headerSeen
  split
  next e => exact absurd e hs
  next e => exact hidle .caps e (by decide) (by decide)
  next e => exact hidle .survey e (by decide) (by decide)
  next => exact ⟨true, 0, hm, fun _ => ⟨rfl, rfl⟩⟩

theorem decoded_clause {l : List Byte} {c : Nat} (lost : Nat) (hs : (s.port n).st ≠ .active) :
    let t := s.blockReceive n (some (l, c)) lost
    (t.port n).fecCorr = min ((s.port n).fecCorr + c) (2 ^ 64 - 1) ∧ (t.port n).badRun = 0 ∧ (t.port n).st = (s.port n).st ∧
      (BitVec.ofNat 16 (leAt l 8 2) = crc16 64 (BitVec.ofNat 64 (leAt l 0 8)) → (s.port n).st = .train ∨ (s.port n).st = .retrain →
        (t.port n).lock = true ∧ (t.port n).req = 0) := by
  have hp : ((s.modPort n fun x => { x with fecCorr := sat64 x.fecCorr c, badRun := 0 }).port n) =
      { s.port n with fecCorr := sat64 (s.port n).fecCorr c, badRun := 0 } := port_modPort_same _ _ _
  unfold State.blockReceive
  dsimp only
  generalize (s.modPort n fun x => { x with fecCorr := sat64 x.fecCorr c, badRun := 0 }) = u at *
  have hu : (u.port n).st = (s.port n).st := by rw [hp]
  have hua : (u.port n).st ≠ .active := by rw [hu]; exact hs
  have hframes := fun v h => frames_reception (s := v) (n := n) (fun i => (l.drop (10 + 256 * i)).take 256) (List.range 5) h
  by_cases hc : BitVec.ofNat 16 (leAt l 8 2) = crc16 64 (BitVec.ofNat 64 (leAt l 0 8))
  · rw [if_pos hc]
    obtain ⟨lock, req, hr, hlock⟩ := headerSeen_reception (BitVec.ofNat 64 (leAt l 0 8)) hua
    have hst : ((u.headerSeen n (BitVec.ofNat 64 (leAt l 0 8))).port n).st ≠ .active := by
      have e : ((u.headerSeen n (BitVec.ofNat 64 (leAt l 0 8))).port n).st = (u.port n).st :=
        congrArg (fun r : Nat × Nat × LinkSt × Bool × BitVec 2 => r.2.2.1) hr
      rw [e]
      exact hua
    have hall := (hframes _ hst).trans hr
    unfold State.reception at hall
    simp only [Prod.mk.injEq] at hall
    obtain ⟨h1, h2, h3, h4, h5⟩ := hall
    rw [hu] at hlock
    refine ⟨h1.trans (by rw [hp]; rfl), h2.trans (by rw [hp]), h3.trans hu, fun _ h => ?_⟩
    obtain ⟨hl, hq⟩ := hlock h
    exact ⟨h4.trans hl, h5.trans hq⟩
  · rw [if_neg hc]
    have hall := hframes u hua
    unfold State.reception at hall
    simp only [Prod.mk.injEq] at hall
    obtain ⟨h1, h2, h3, h4, h5⟩ := hall
    exact ⟨h1.trans (by rw [hp]; rfl), h2.trans (by rw [hp]), h3.trans hu, fun h => absurd h hc⟩

/-! ### A block that is lost -/

theorem runningPart_charges (h : s.runningPart = true) : s.epoch.charges = true := by
  simp only [State.runningPart, Bool.and_eq_true, decide_eq_true_eq] at h
  obtain ⟨⟨⟨ha, hb⟩, ho⟩, -⟩ := h
  simp [Epoch.charges, ha, ho]

theorem planLost_runningPart (u : State) (n : Nat) : (u.planLost n).runningPart = u.runningPart := by
  unfold State.planLost
  split
  · unfold State.charge
    split <;> rfl
  · rfl

/-- The planned frames that a lost block carried, one after another. -/
def State.framesLost (s : State) (n lost : Nat) : State := (List.range lost).foldl (fun s _ => s.planLost n) s

theorem framesLost_ports (lost : Nat) : (s.framesLost n lost).ports = s.ports := foldl_keeps State.ports (fun u _ => planLost_ports u n) _ s

theorem framesLost_faults {lost : Nat} (h : 0 < lost) (hp : (s.port n).planned = true) (hr : s.runningPart = true) :
    (s.framesLost n lost).epoch.faults.first ≠ none := by
  obtain ⟨k, rfl⟩ : ∃ k, lost = k + 1 := ⟨lost - 1, by omega⟩
  have hports : (s.framesLost n k).port n = s.port n := port_of_ports (framesLost_ports k) n
  have hrun : (s.framesLost n k).runningPart = true := (foldl_keeps State.runningPart (fun u _ => planLost_runningPart u n) _ s).trans hr
  have hstep : s.framesLost n (k + 1) = (s.framesLost n k).planLost n := by
    unfold State.framesLost
    rw [List.range_succ, List.foldl_append]
    rfl
  rw [hstep, State.planLost, if_pos (by rw [hports, hp, hrun]; rfl), charge_faults _ _ (runningPart_charges hrun)]
  exact add_first _ _ _

theorem toRetrain_keeps (u : State) (cause : BitVec 4) : ((u.toRetrain n cause).port n).fecUncorr = (u.port n).fecUncorr ∧
    ((u.toRetrain n cause).port n).replay = (u.port n).replay ∧ ((u.toRetrain n cause).port n).retry = (u.port n).retry := by
  unfold State.toRetrain
  split
  · rw [port_modPort_same, port_linkTo]
    exact ⟨rfl, rfl, rfl⟩
  · exact ⟨rfl, rfl, rfl⟩

/-- What an undecodable block counts at its port. -/
def DPort.undecoded (x : DPort) : DPort :=
  { x with fecUncorr := sat64 x.fecUncorr 1, badRun := x.badRun + 1, req := if x.st = .active ∧ x.req = 0 then 1 else x.req, idents := 0 }

theorem lost_clause (lost : Nat) :
    let t := s.blockReceive n none lost
    let x := s.port n
    (t.port n).fecUncorr = min (x.fecUncorr + 1) (2 ^ 64 - 1) ∧
      (x.badRun < 3 → (t.port n).badRun = x.badRun + 1 ∧ (t.port n).st = x.st ∧ (x.st = .active → x.req = 0 → (t.port n).req = 1) ∧
        (0 < lost → x.planned = true → s.runningPart = true → t.epoch.faults.first ≠ none)) ∧
      (3 ≤ x.badRun → x.st = .active → (t.port n).st = .retrain ∧ (t.port n).cause = 6) := by
  have heq : s.blockReceive n none lost = if 4 ≤ (((s.modPort n DPort.undecoded).framesLost n lost).port n).badRun
      then ((s.modPort n DPort.undecoded).framesLost n lost).toRetrain n 6 else (s.modPort n DPort.undecoded).framesLost n lost := rfl
  have hport : ((s.modPort n DPort.undecoded).framesLost n lost).port n = (s.port n).undecoded :=
    (port_of_ports (framesLost_ports lost) n).trans (port_modPort_same s n _)
  have hfaults : 0 < lost → (s.port n).planned = true → s.runningPart = true →
      ((s.modPort n DPort.undecoded).framesLost n lost).epoch.faults.first ≠ none := fun h1 h2 h3 =>
    framesLost_faults h1 (by rw [port_modPort_same]; exact h2) h3
  dsimp only
  rw [heq]
  generalize (s.modPort n DPort.undecoded).framesLost n lost = u at *
  have hbad : (u.port n).badRun = (s.port n).badRun + 1 := by rw [hport]; rfl
  refine ⟨?_, fun h => ?_, fun h hst => ?_⟩
  · have hu : (u.port n).fecUncorr = min ((s.port n).fecUncorr + 1) (2 ^ 64 - 1) := by rw [hport]; rfl
    split
    · rw [(toRetrain_keeps u 6).1, hu]
    · exact hu
  · rw [if_neg (by omega), hport]
    refine ⟨rfl, rfl, fun h1 h2 => if_pos ⟨h1, h2⟩, hfaults⟩
  · rw [if_pos (by omega)]
    obtain ⟨hm, -⟩ := toRetrain_moves (s := u) (n := n) 6 (by rw [hport]; exact hst)
    exact ⟨hm.state, hm.cause⟩

/-! ### A header that is received (R430, R449, R450) -/

theorem headerReceive_clause (h : BitVec 64) (hq : h.extractLsb' 56 2 = 0) :
    let x := s.port n
    let y := (s.headerReceive n h).port n
    y.replay = x.replay.filter (fun u => decide ((u.fseq - h.extractLsb' 16 16).toNat < 2 ^ 15)) ∧
    y.vc0.credits = x.vc0.credits + (h.extractLsb' 32 12 - x.vc0.seen).toNat ∧ y.vc0.seen = h.extractLsb' 32 12 ∧
    y.vc1.credits = x.vc1.credits + (h.extractLsb' 44 12 - x.vc1.seen).toNat ∧ y.vc1.seen = h.extractLsb' 44 12 := by
  have h1 : ¬ (h.extractLsb' 56 2).toNat = 1 := by rw [hq]; decide
  have h2 : ¬ (h.extractLsb' 56 2).toNat = 2 := by rw [hq]; decide
  unfold State.headerReceive
  dsimp only
  rw [if_neg h1, if_neg h2, port_modPort_same]
  exact ⟨rfl, rfl, rfl, rfl, rfl⟩

end

/-! ## The planned class (R442, R444, R445) -/

section
variable {s : State} {p : PortId}

/-- The flits that an entry takes of a queue in its cycle, and those of them that its frame carries. -/
def DPort.taken (x : DPort) (c count : Nat) : List TxFlit := (x.queue.filter fun f => decide (f.cycle < c)).take count

def packed (l : List TxFlit) (e : W64) : List Flit := l.filterMap fun f => packFlit f e

/-- The port after transmit entry `i` of cycle `c` and epoch `e`. -/
def DPort.transmitted (x : DPort) (c count i : Nat) (e : W64) : DPort :=
  { x.lose ((x.taken c count).length - (packed (x.taken c count) e).length) 0 with
    queue := x.queue.drop (x.taken c count).length, txDone := i + 1, short := x.short + (count - (x.taken c count).length)
    sentNow := if packed (x.taken c count) e = [] then x.sentNow else x.sentNow + 1
    out := if packed (x.taken c count) e = [] then x.out else x.out ++ [.planned (e.setWidth 16) (packed (x.taken c count) e)] }

theorem linkTransmitEntry_out {i c count : Nat} (hi : (s.port p.toNat).nextTx s.epoch.cycle (2 ^ s.k) (s.port p.toNat).txDone = i)
    (ht : (s.port p.toNat).txCycle i = some (c, count)) (hr : s.runningPart = true) (hp : (s.port p.toNat).planned = true) (hc : c < 2 ^ s.k)
    (hs : (s.port p.toNat).st ≠ .active) :
    exec (.linkTransmitEntry p) s = .next ((s.advanceTo c).modPort p.toNat fun x => { x with txDone := i + 1 }) := by
  refine congrArg Host.Outcome.next ?_
  unfold linkTransmitEntry
  dsimp only
  rw [hi, ht]
  dsimp only
  rw [if_pos (by rw [hr, hp, decide_eq_true hc]; rfl), if_pos hs]

theorem linkTransmitEntry_active {i c count : Nat} (hi : (s.port p.toNat).nextTx s.epoch.cycle (2 ^ s.k) (s.port p.toNat).txDone = i)
    (ht : (s.port p.toNat).txCycle i = some (c, count)) (hr : s.runningPart = true) (hp : (s.port p.toNat).planned = true) (hc : c < 2 ^ s.k)
    (hs : (s.port p.toNat).st = .active) :
    ∃ k, exec (.linkTransmitEntry p) s = .next ((((s.advanceTo c).modPort p.toNat fun x => x.queueAt (c - 1)).modPort p.toNat fun x =>
      x.transmitted c count i s.epoch.num).receivedWords k) := by
  have hn : (s.advanceTo c).epoch.num = s.epoch.num := (advanceTo_prevRan s c).2
  have hnum : ((s.advanceTo c).modPort p.toNat fun x => x.queueAt (c - 1)).epoch.num = s.epoch.num := hn
  refine ⟨words (packed ((((s.advanceTo c).modPort p.toNat fun x => x.queueAt (c - 1)).port p.toNat).taken c count) s.epoch.num),
    congrArg Host.Outcome.next ?_⟩
  unfold linkTransmitEntry
  dsimp only
  rw [hi, ht]
  dsimp only
  rw [if_pos (by rw [hr, hp, decide_eq_true hc]; rfl), if_neg (fun h => h hs), hnum]
  rfl

theorem advanceTo_ports (s : State) (c : Nat) : (s.advanceTo c).ports = s.ports := by
  unfold State.advanceTo
  split <;> rfl

theorem moveWords_ports (s : State) (k n : Nat) : (s.moveWords k n).ports = s.ports := by
  unfold State.moveWords
  split <;> rfl

/-- A queue of at most 64 flits, all of which have joined before cycle `c`, is what the entry of cycle `c` finds. -/
theorem queueAt_joined {x : DPort} {c : Nat} (hl : x.queue.length ≤ 64) (hq : ∀ f ∈ x.queue, f.cycle < c) :
    (x.queueAt (c - 1)).queue = x.queue ∧ (x.queueAt (c - 1)).out = x.out ∧ (x.queueAt (c - 1)).short = x.short ∧
      (x.queueAt (c - 1)).sentNow = x.sentNow := by
  have h1 : x.queue.filter (fun f => decide (f.cycle ≤ c - 1)) = x.queue := List.filter_eq_self.2 fun f hf => decide_eq_true (by have := hq f hf; omega)
  have h2 : x.queue.filter (fun f => !decide (f.cycle ≤ c - 1)) = [] := List.filter_eq_nil_iff.2 fun f hf => by
    rw [decide_eq_true (by have := hq f hf; omega)]
    decide
  unfold DPort.queueAt
  dsimp only
  rw [h1, h2, List.take_of_length_le hl, List.append_nil]
  exact ⟨rfl, rfl, rfl, rfl⟩

theorem packFlit_some {f : TxFlit} {e : W64} (he : f.epoch = e) (hl : f.epoch.toNat + f.flit.lag < 2 ^ 64) :
    ∃ g, packFlit f e = some g ∧ g.payload = f.flit.payload := by
  have hlag : f.flit.lag < 64 := (f.flit.tag.extractLsb' 10 6).isLt
  have hnot : ¬ f.epoch + BitVec.ofNat 64 f.flit.lag < e := by
    rw [BitVec.not_lt, BitVec.le_def, BitVec.toNat_add, BitVec.toNat_ofNat, ← he]
    omega
  exact ⟨_, if_neg hnot, rfl⟩

theorem packed_all {l : List TxFlit} {e : W64} (h : ∀ f ∈ l, f.epoch = e ∧ f.epoch.toNat + f.flit.lag < 2 ^ 64) :
    (packed l e).map Flit.payload = l.map (fun f => f.flit.payload) ∧ (packed l e).length = l.length := by
  induction l with
  | nil => exact ⟨rfl, rfl⟩
  | cons f l ih =>
    obtain ⟨h1, h2⟩ := h f List.mem_cons_self
    obtain ⟨g, hg, hp⟩ := packFlit_some h1 h2
    obtain ⟨ih1, ih2⟩ := ih fun k hk => h k (List.mem_cons_of_mem f hk)
    have hcons : packed (f :: l) e = g :: packed l e := List.filterMap_cons_some hg
    rw [hcons, List.map_cons, List.map_cons, hp, ih1, List.length_cons, List.length_cons, ih2]
    exact ⟨rfl, rfl⟩

theorem transmitted_clause {x : DPort} {c count i : Nat} {e : W64}
    (hq : ∀ f ∈ x.queue, f.cycle < c ∧ f.epoch = e ∧ f.epoch.toNat + f.flit.lag < 2 ^ 64) :
    let y := x.transmitted c count i e
    y.queue = x.queue.drop count ∧ (x.queue = [] ∨ count = 0 → y.out = x.out ∧ y.short = x.short + count) ∧
      (x.queue ≠ [] → 0 < count → ∃ fl, y.out = x.out ++ [.planned (e.setWidth 16) fl] ∧
        fl.map Flit.payload = (x.queue.take count).map (fun f => f.flit.payload) ∧ y.sentNow = x.sentNow + 1) := by
  have htake : x.taken c count = x.queue.take count := by
    rw [DPort.taken, List.filter_eq_self.2 fun f hf => decide_eq_true (hq f hf).1]
  obtain ⟨hpay, hlen⟩ := packed_all (l := x.queue.take count) (e := e) fun f hf => (hq f (List.mem_of_mem_take hf)).2
  dsimp only
  unfold DPort.transmitted
  rw [htake]
  refine ⟨?_, fun h => ?_, fun h1 h2 => ?_⟩
  · show x.queue.drop (x.queue.take count).length = x.queue.drop count
    rw [List.length_take]
    by_cases hc : count ≤ x.queue.length
    · rw [Nat.min_eq_left hc]
    · rw [Nat.min_eq_right (by omega), List.drop_eq_nil_of_le (Nat.le_refl _), List.drop_eq_nil_of_le (by omega)]
  · have hnil : x.queue.take count = [] := by rcases h with h | h <;> simp [h]
    rw [hnil]
    exact ⟨rfl, rfl⟩
  · have hne : packed (x.queue.take count) e ≠ [] := fun hz => by
      rw [hz, List.length_nil, List.length_take] at hlen
      have := List.length_pos_iff.2 h1
      omega
    refine ⟨packed (x.queue.take count) e, ?_, hpay, ?_⟩
    · exact if_neg hne
    · exact if_neg hne

theorem transmit_clause {i c count : Nat} (hi : (s.port p.toNat).nextTx s.epoch.cycle (2 ^ s.k) (s.port p.toNat).txDone = i)
    (ht : (s.port p.toNat).txCycle i = some (c, count)) (hr : s.runningPart = true) (hp : (s.port p.toNat).planned = true) (hc : c < 2 ^ s.k)
    (hle : s.epoch.cycle ≤ c) :
    let n := p.toNat
    let x := s.port n
    ∃ t, exec (.linkTransmitEntry p) s = .next t ∧ (t.port n).txDone = i + 1 ∧ t.epoch.cycle = c ∧
      (x.st ≠ .active → (t.port n).out = x.out ∧ (t.port n).queue = x.queue) ∧
      (x.st = .active → x.queue.length ≤ 64 → (∀ f ∈ x.queue, f.cycle < c ∧ f.epoch = s.epoch.num ∧ f.epoch.toNat + f.flit.lag < 2 ^ 64) →
        (t.port n).queue = x.queue.drop count ∧
        (x.queue = [] ∨ count = 0 → (t.port n).out = x.out ∧ (t.port n).short = x.short + count) ∧
        (x.queue ≠ [] → 0 < count → ∃ fl, (t.port n).out = x.out ++ [.planned (s.epoch.num.setWidth 16) fl] ∧
          fl.map Flit.payload = (x.queue.take count).map (fun f => f.flit.payload) ∧ (t.port n).sentNow = x.sentNow + 1)) := by
  have hcyc : (s.advanceTo c).epoch.cycle = c := (advanceTo_cycle c (runningPart_active hr)).trans (max_eq_left hle)
  have hport : (s.advanceTo c).port p.toNat = s.port p.toNat := port_of_ports (advanceTo_ports s c) _
  have hmod : ∀ (u : State) (f : DPort → DPort), (u.modPort p.toNat f).epoch = u.epoch := fun _ _ => rfl
  dsimp only
  by_cases hs : (s.port p.toNat).st = .active
  · obtain ⟨k, hk⟩ := linkTransmitEntry_active hi ht hr hp hc hs
    rw [hk]
    generalize s.advanceTo c = u at *
    have hp1 : ((u.modPort p.toNat fun x => x.queueAt (c - 1)).port p.toNat) = (s.port p.toNat).queueAt (c - 1) := by rw [port_modPort_same, hport]
    have hfinal : ((((u.modPort p.toNat fun x => x.queueAt (c - 1)).modPort p.toNat fun x => x.transmitted c count i s.epoch.num).receivedWords k).port
        p.toNat) = ((s.port p.toNat).queueAt (c - 1)).transmitted c count i s.epoch.num := by
      rw [State.receivedWords, port_of_ports (moveWords_ports _ _ _), port_modPort_same, hp1]
    refine ⟨_, rfl, ?_, ?_, fun h => absurd hs h, fun _ hl hq => ?_⟩
    · rw [hfinal]
      rfl
    · rw [State.receivedWords, moveWords_epoch, hmod, hmod, hcyc]
    · obtain ⟨h1, h2, h3, h4⟩ := queueAt_joined hl fun f hf => (hq f hf).1
      have hclause := transmitted_clause (x := (s.port p.toNat).queueAt (c - 1)) (c := c) (count := count) (i := i) (e := s.epoch.num)
        (by rw [h1]; exact hq)
      dsimp only at hclause
      rw [h1, h2, h3, h4] at hclause
      rw [hfinal]
      exact hclause
  · rw [linkTransmitEntry_out hi ht hr hp hc hs]
    refine ⟨_, rfl, ?_, ?_, fun _ => ?_, fun h => absurd h hs⟩
    · rw [port_modPort_same]
    · rw [hmod, hcyc]
    · rw [port_modPort_same, hport]
      exact ⟨rfl, rfl⟩

end

/-! ## The unplanned class (R449, R450) -/

section
variable {s : State} {p : PortId} (vc : Bool) (dst src : BitVec 7) (kind ttl : BitVec 4) (payload : List Byte)

theorem port_modPort_ne (u : State) {m n : Nat} (f : DPort → DPort) (h : m ≠ n) : (u.modPort n f).port m = u.port m := look_put_ne _ _ _ h

theorem modVc_same (x : DPort) (v : Bool) (f : Vc → Vc) : (x.modVc v f).vc v = f (x.vc v) := by cases v <;> rfl

theorem modVc_other (x : DPort) {v w : Bool} (f : Vc → Vc) (h : w ≠ v) : (x.modVc v f).vc w = x.vc w := by
  cases v <;> cases w
  · exact absurd rfl h
  · rfl
  · rfl
  · exact absurd rfl h

theorem modVc_keeps (x : DPort) (v : Bool) (f : Vc → Vc) : (x.modVc v f).out = x.out ∧ (x.modVc v f).replay = x.replay ∧ (x.modVc v f).nextSeq = x.nextSeq := by
  cases v <;> exact ⟨rfl, rfl, rfl⟩

/-- A port that sends an unplanned frame against a credit. -/
def DPort.sentUnplanned (x : DPort) (u : UFrame) (w : Option (UFrame × Option (Nat × Bool × BitVec 16))) : DPort :=
  { x.modVc u.vc fun v => { v with credits := v.credits - 1, out := v.out + 1 } with
    nextSeq := x.nextSeq + 1, replay := x.replay ++ [u], out := x.out ++ [.unplanned u], wait := match w with | some w => x.wait.erase w | none => x.wait }

theorem sentUnplanned_vc (x : DPort) (u : UFrame) (w : Option (UFrame × Option (Nat × Bool × BitVec 16))) (v : Bool) :
    (x.sentUnplanned u w).vc v = (x.modVc u.vc fun v => { v with credits := v.credits - 1, out := v.out + 1 }).vc v := by cases v <;> rfl

theorem sentUnplanned_freed (x : DPort) (u : UFrame) (w : Option (UFrame × Option (Nat × Bool × BitVec 16))) (v : Bool) :
    ((x.sentUnplanned u w).vc v).freed = (x.vc v).freed := by
  rw [sentUnplanned_vc]
  by_cases h : v = u.vc
  · rw [h, modVc_same]
  · rw [modVc_other x _ h]

theorem unplannedSend_eq (ha : (s.port p.toNat).st = .active) (hc : 0 < ((s.port p.toNat).vc vc).credits) (hr : (s.port p.toNat).replay.length < 256) :
    let w := (s.port p.toNat).wait.find? (fun w => decide (w.1 = ⟨0, vc, dst, src, kind, ttl, payload⟩))
    exec (.unplannedFrameSend p vc dst src kind ttl payload) s = .next (((s.modPort p.toNat fun x =>
      x.sentUnplanned ⟨(s.port p.toNat).nextSeq, vc, dst, src, kind, ttl, payload⟩ w).freeEntry (w.bind Prod.snd)).openBook (0xA010 + p.toNat)) := by
  refine congrArg Host.Outcome.next ?_
  unfold unplannedFrameSend
  dsimp only
  rw [if_pos ⟨ha, hc, hr⟩]
  rfl

theorem unplannedSend_stays (hc : ((s.port p.toNat).vc vc).credits = 0) :
    exec (.unplannedFrameSend p vc dst src kind ttl payload) s = .next s := by
  refine congrArg Host.Outcome.next ?_
  unfold unplannedFrameSend
  exact if_neg fun h => by rw [hc] at h; exact absurd h.2.1 (Nat.lt_irrefl 0)

/-- What the release of a receive buffer entry leaves of a port. -/
theorem freeEntry_port (u : State) (e : Option (Nat × Bool × BitVec 16)) (n : Nat) :
    ((u.freeEntry e).port n).out = (u.port n).out ∧ ((u.freeEntry e).port n).replay = (u.port n).replay ∧
      ((u.freeEntry e).port n).nextSeq = (u.port n).nextSeq ∧ ∀ v, (((u.freeEntry e).port n).vc v).credits = ((u.port n).vc v).credits := by
  cases e with
  | none => exact ⟨rfl, rfl, rfl, fun _ => rfl⟩
  | some q =>
    obtain ⟨m, w, k⟩ := q
    unfold State.freeEntry
    dsimp only
    by_cases h : n = m
    · subst h
      rw [port_modPort_same]
      obtain ⟨h1, h2, h3⟩ := modVc_keeps (u.port n) w fun v => { v with rx := v.rx.filter fun u => !decide (u.fseq = k), freed := v.freed + 1 }
      refine ⟨h1, h2, h3, fun v => ?_⟩
      by_cases hv : v = w
      · rw [hv, modVc_same]
      · rw [modVc_other _ _ hv]
    · rw [port_modPort_ne _ _ h]
      exact ⟨rfl, rfl, rfl, fun _ => rfl⟩

theorem freeEntry_frees (u : State) (q : Nat) (v : Bool) (m : BitVec 16) : (((u.freeEntry (some (q, v, m))).port q).vc v).freed = ((u.port q).vc v).freed + 1 ∧
    ∀ e ∈ (((u.freeEntry (some (q, v, m))).port q).vc v).rx, e.fseq ≠ m := by
  unfold State.freeEntry
  dsimp only
  rw [port_modPort_same, modVc_same]
  refine ⟨rfl, fun e he => ?_⟩
  have := (List.mem_filter.1 he).2
  simpa using this

theorem openBook_port (u : State) (k n : Nat) : (u.openBook k).port n = u.port n := rfl

theorem unplanned_clause (ha : (s.port p.toNat).st = .active) (hc : 0 < ((s.port p.toNat).vc vc).credits) (hr : (s.port p.toNat).replay.length < 256) :
    let n := p.toNat
    let x := s.port n
    let w := x.wait.find? (fun w => decide (w.1 = ⟨0, vc, dst, src, kind, ttl, payload⟩))
    ∃ t, exec (.unplannedFrameSend p vc dst src kind ttl payload) s = .next t ∧
      (t.port n).out = x.out ++ [.unplanned ⟨x.nextSeq, vc, dst, src, kind, ttl, payload⟩] ∧
      (t.port n).replay = x.replay ++ [⟨x.nextSeq, vc, dst, src, kind, ttl, payload⟩] ∧ (t.port n).nextSeq = x.nextSeq + 1 ∧
      ((t.port n).vc vc).credits = (x.vc vc).credits - 1 ∧
      (w.bind Prod.snd = none → (t.port n).vc (!vc) = x.vc (!vc)) ∧
      (∀ q v m, w.bind Prod.snd = some (q, v, m) → ((t.port q).vc v).freed = ((s.port q).vc v).freed + 1 ∧
        ∀ u ∈ ((t.port q).vc v).rx, u.fseq ≠ m) := by
  dsimp only
  have heq := unplannedSend_eq (s := s) (p := p) vc dst src kind ttl payload ha hc hr
  dsimp only at heq
  rw [heq]
  generalize (s.port p.toNat).wait.find? (fun w => decide (w.1 = ⟨0, vc, dst, src, kind, ttl, payload⟩)) = w
  have hport : ∀ q v, (((s.modPort p.toNat fun x => x.sentUnplanned ⟨(s.port p.toNat).nextSeq, vc, dst, src, kind, ttl, payload⟩ w).port q).vc v).freed =
      ((s.port q).vc v).freed := fun q v => by
    by_cases hq : q = p.toNat
    · rw [hq, port_modPort_same, sentUnplanned_freed]
    · rw [port_modPort_ne _ _ hq]
  have hsame := port_modPort_same s p.toNat fun x => x.sentUnplanned ⟨(s.port p.toNat).nextSeq, vc, dst, src, kind, ttl, payload⟩ w
  generalize (s.modPort p.toNat fun x => x.sentUnplanned ⟨(s.port p.toNat).nextSeq, vc, dst, src, kind, ttl, payload⟩ w) = u at *
  obtain ⟨h1, h2, h3, h4⟩ := freeEntry_port u (w.bind Prod.snd) p.toNat
  refine ⟨_, rfl, ?_, ?_, ?_, ?_, fun hw => ?_, fun q v m hw => ?_⟩
  · rw [openBook_port, h1, hsame]
    rfl
  · rw [openBook_port, h2, hsame]
    rfl
  · rw [openBook_port, h3, hsame]
    rfl
  · rw [openBook_port, h4, hsame, sentUnplanned_vc, modVc_same]
  · rw [openBook_port, hw]
    show (u.port p.toNat).vc (!vc) = _
    have hv : (!vc) ≠ vc := by cases vc <;> decide
    rw [hsame, sentUnplanned_vc]
    exact modVc_other _ _ hv
  · rw [openBook_port, hw, (freeEntry_frees u q v m).1, hport]
    exact ⟨rfl, (freeEntry_frees u q v m).2⟩

/-- The frames without an acknowledgement go out once more. -/
theorem retry_clause (ha : (s.port p.toNat).st = .active) (hr : (s.port p.toNat).replay ≠ []) :
    let n := p.toNat
    let x := s.port n
    ∃ t, exec (.unplannedRetryTimeout p) s = .next t ∧ (t.port n).replay = x.replay ∧
      (t.port n).retry = min (x.retry + x.replay.length) (2 ^ 64 - 1) ∧
      (x.stall < 7 → (t.port n).st = .active ∧ (t.port n).stall = x.stall + 1 ∧ (t.port n).out = x.out ++ x.replay.map Frame.unplanned) ∧
      (7 ≤ x.stall → (t.port n).st = .retrain ∧ (t.port n).cause = 8) := by
  have heq : exec (.unplannedRetryTimeout p) s = .next (if 8 ≤ ((s.modPort p.toNat fun x => { x.resend x.replay with stall := x.stall + 1 }).port p.toNat).stall
      then (s.modPort p.toNat fun x => { x.resend x.replay with stall := x.stall + 1 }).toRetrain p.toNat 8
      else s.modPort p.toNat fun x => { x.resend x.replay with stall := x.stall + 1 }) := by
    refine congrArg Host.Outcome.next ((if_pos ha).trans ?_)
    unfold State.resendAll
    exact if_neg hr
  have hp := port_modPort_same s p.toNat fun x => { x.resend x.replay with stall := x.stall + 1 }
  dsimp only
  rw [heq]
  generalize (s.modPort p.toNat fun x => { x.resend x.replay with stall := x.stall + 1 }) = u at *
  obtain ⟨-, hk2, hk3⟩ := toRetrain_keeps (n := p.toNat) u 8
  have hstall : (u.port p.toNat).stall = (s.port p.toNat).stall + 1 := by rw [hp]
  refine ⟨_, rfl, ?_, ?_, fun h => ?_, fun h => ?_⟩
  · split
    · rw [hk2, hp]; rfl
    · rw [hp]; rfl
  · split
    · rw [hk3, hp]; rfl
    · rw [hp]; rfl
  · rw [if_neg (by omega), hp]
    exact ⟨ha, rfl, rfl⟩
  · rw [if_pos (by omega)]
    obtain ⟨hm, -⟩ := toRetrain_moves (s := u) (n := p.toNat) 8 (by rw [hp]; exact ha)
    exact ⟨hm.state, hm.cause⟩

end

/-! ## Milestones (R453 to R455) -/

section
variable {s : State} {p : PortId} {c : Nat}

/-- The milestone frame with the device's own record. -/
def State.milestone (s : State) (n i : Nat) (r : MsRec) : State :=
  (s.bump 0xB002 3 0).modPort n fun x =>
    { x with
      due := x.due.filter fun r => !decide (r.2 + 16 ≤ s.fcy), msDone := i
      out := x.out ++ [.milestone ((s.epoch.num - 1).setWidth 16) (BitVec.ofNat 16 x.sentPrev) [r]] }

theorem bump_port (u : State) (i j k n : Nat) : (u.bump i j k).port n = u.port n := by
  unfold State.bump State.keepCounter
  dsimp only
  split <;> rfl

theorem bump_fcy (u : State) (i j k : Nat) : (u.bump i j k).fcy = u.fcy := by
  unfold State.bump State.keepCounter
  dsimp only
  split <;> rfl

theorem milestone_clause (hc : (s.port p.toNat).mcycles[0]? = some c) (hm : (s.port p.toNat).msDone = 0) (hplan : s.plan = .running)
    (ha : s.epoch.active = true) (he : s.pl.e0 < s.epoch.num) (hp : (s.port p.toNat).planned = true) (hst : (s.port p.toNat).st = .active)
    (hb : s.epoch.begun = true) (hle : s.epoch.cycle ≤ c) (hlast : c ≤ s.lastCycle) (hdue : (s.port p.toNat).due = []) :
    let n := p.toNat
    let x := s.port n
    ∃ t r, exec (.milestoneSend p true) s = .next t ∧ (t.port n).msDone = 1 ∧
      (t.port n).out = x.out ++ [.milestone ((s.epoch.num - 1).setWidth 16) (BitVec.ofNat 16 x.sentPrev) [r]] ∧
      r.epoch = s.epoch.num - 1 ∧ r.origin = s.devNum ∧ r.outcome = s.epoch.nxt.prev.code := by
  have hskip : skipPast (fun i => ((s.port p.toNat).mcycles[i]?).getD 0) (s.port p.toNat).mcycles.length s.epoch.cycle 4 (s.port p.toNat).msDone = 0 := by
    rw [hm, skipPast]
    refine if_neg fun h => ?_
    rw [hc] at h
    exact absurd h.2 (Nat.not_lt.2 hle)
  have hadv : (s.advanceTo c).epoch.num = s.epoch.num ∧ (s.advanceTo c).epoch.nxt = s.epoch.nxt ∧ (s.advanceTo c).devNum = s.devNum := by
    unfold State.advanceTo
    split <;> exact ⟨rfl, rfl, rfl⟩
  have hport : (s.advanceTo c).port p.toNat = s.port p.toNat := port_of_ports (advanceTo_ports s c) _
  have hexec : ∃ r, exec (.milestoneSend p true) s = .next ((s.advanceTo c).milestone p.toNat 1 r) ∧ r.epoch = (s.advanceTo c).epoch.num - 1 ∧
      r.origin = (s.advanceTo c).devNum ∧ r.outcome = (s.advanceTo c).epoch.nxt.prev.code := by
    refine ⟨⟨_, _, _, time64Of (s.advanceTo c).epoch.at0Prev⟩, congrArg Host.Outcome.next ?_, rfl, rfl, rfl⟩
    unfold milestoneSend
    dsimp only
    rw [hskip, hc]
    dsimp only
    rw [if_pos (by rw [ha, hp, hb, decide_eq_true he, decide_eq_true hst, decide_eq_true hlast, hplan]; rfl), hdue]
    rfl
  obtain ⟨r, hx, h1, h2, h3⟩ := hexec
  dsimp only
  rw [hx]
  generalize s.advanceTo c = u at *
  obtain ⟨hn, hnx, hd⟩ := hadv
  have hfinal : (u.milestone p.toNat 1 r).port p.toNat = { s.port p.toNat with
      due := (s.port p.toNat).due.filter fun r => !decide (r.2 + 16 ≤ u.fcy), msDone := 1
      out := (s.port p.toNat).out ++ [.milestone ((s.epoch.num - 1).setWidth 16) (BitVec.ofNat 16 (s.port p.toNat).sentPrev) [r]] } := by
    rw [State.milestone, port_modPort_same, bump_port, hport, hn]
  refine ⟨_, r, rfl, ?_, ?_, h1.trans (by rw [hn]), h2.trans hd, h3.trans (by rw [hnx])⟩
  · rw [hfinal]
  · rw [hfinal]

end

/-! ## What the lanes bring (R426 to R429) -/

theorem fecBlockReceive_sends {s : State} {p : PortId} (wire : List (BitVec 16)) (lost : Nat) (h : (s.port p.toNat).st.sends = true) :
    exec (.fecBlockReceive p ⟨wire, lost⟩) s = .next (s.blockReceive p.toNat (fecDecode wire) lost) :=
  congrArg Host.Outcome.next (if_pos h)

theorem fecBlockReceive_still {s : State} {p : PortId} (blk : FecBlock) (h : (s.port p.toNat).st.sends = false) :
    exec (.fecBlockReceive p blk) s = .next s :=
  congrArg Host.Outcome.next (if_neg (by rw [h]; decide))

end Sys2Proof.Machine

/-- Settles O40: the fields of frames and headers, and each event of a port by what its operation leaves of the port's record. -/
theorem linkTraffic : Obligations.LinkTraffic := by
  unfold Obligations.LinkTraffic
  refine ⟨fun m i hm => ⟨identityOf_body m i, identity_mode i hm⟩, header_fields, fun s p => ?_⟩
  refine ⟨fun blk h => fecBlockReceive_still blk h, fun wire lost l c hd hs ha => ?_, fun wire lost hd hs => ?_, headerReceive_clause,
    fun c count => transmit_clause rfl, unplanned_clause, unplannedSend_stays, retry_clause, fun c => milestone_clause⟩
  · rw [fecBlockReceive_sends wire lost hs, hd]
    exact ⟨_, rfl, decoded_clause lost ha⟩
  · rw [fecBlockReceive_sends wire lost hs, hd]
    exact ⟨_, rfl, lost_clause lost⟩
end

/-! # The numbers that engines read and write: the proofs of a layer -/
section
open Sys2Proof Sys2Proof.Machine
namespace Sys2Proof.Machine

/-! ## Fields of numbers -/

theorem field_testBit (v a w k : Nat) : (v / 2 ^ a % 2 ^ w).testBit k = (decide (k < w) && v.testBit (a + k)) := by
  rw [Nat.testBit_mod_two_pow, Nat.testBit_div_two_pow, Nat.add_comm k a]

/-- A field of a number is a field of the word that holds it. -/
theorem field_ofNat (N v : Nat) {a w : Nat} (h : a + w ≤ N) : (BitVec.ofNat N v).toNat / 2 ^ a % 2 ^ w = v / 2 ^ a % 2 ^ w := by
  refine Nat.eq_of_testBit_eq fun k => ?_
  rw [field_testBit, field_testBit, BitVec.toNat_ofNat, Nat.testBit_mod_two_pow]
  by_cases hk : k < w
  · simp [hk, show a + k < N by omega]
  · simp [hk]

theorem field_field (v a l b w : Nat) (h : b + w ≤ l) : v / 2 ^ a % 2 ^ l / 2 ^ b % 2 ^ w = v / 2 ^ (a + b) % 2 ^ w := by
  refine Nat.eq_of_testBit_eq fun k => ?_
  rw [field_testBit, field_testBit, field_testBit]
  by_cases hk : k < w
  · simp [hk, show b + k < l by omega, Nat.add_assoc]
  · simp [hk]

theorem chop_eq (w n v : Nat) : chop w n v = (List.range n).map fun i => v / 2 ^ (w * i) % 2 ^ w := by
  induction n generalizing v with
  | zero => rfl
  | succ n ih =>
    rw [chop, ih, List.range_succ_eq_map, List.map_cons, List.map_map]
    refine congrArg₂ List.cons (by simp) (List.map_congr_left fun i _ => ?_)
    rw [Nat.div_div_eq_div_mul, ← Nat.pow_add, Function.comp_apply, Nat.mul_succ, Nat.add_comm w]

@[simp] theorem chop_length (w n v : Nat) : (chop w n v).length = n := by simp [chop_eq]

theorem chop_getElem? (w v : Nat) {n i : Nat} (h : i < n) : (chop w n v)[i]? = some (v / 2 ^ (w * i) % 2 ^ w) := by
  rw [chop_eq, List.getElem?_map, List.getElem?_range h, Option.map_some]

theorem pack_field (w : Nat) (l : List Nat) (i : Nat) : pack w l / 2 ^ (w * i) % 2 ^ w = (l[i]?).getD 0 % 2 ^ w := by
  have hw : 0 < 2 ^ w := Nat.two_pow_pos w
  induction l generalizing i with
  | nil => simp [pack]
  | cons x l ih =>
    cases i with
    | zero => simp [pack]
    | succ i =>
      rw [pack, Nat.mul_succ, Nat.add_comm (w * i), Nat.pow_add, ← Nat.div_div_eq_div_mul, Nat.add_mul_div_left _ _ hw,
        Nat.div_eq_of_lt (Nat.mod_lt _ hw), Nat.zero_add, ih, List.getElem?_cons_succ]

theorem pack_lt (w : Nat) (l : List Nat) : pack w l < 2 ^ (w * l.length) := by
  have hw : 0 < 2 ^ w := Nat.two_pow_pos w
  induction l with
  | nil => simp [pack]
  | cons x l ih =>
    rw [pack, List.length_cons, Nat.mul_succ, Nat.pow_add, Nat.mul_comm (2 ^ (w * l.length))]
    have h1 := Nat.mod_lt x hw
    calc x % 2 ^ w + 2 ^ w * pack w l < 2 ^ w + 2 ^ w * pack w l := by omega
      _ = 2 ^ w * (pack w l + 1) := by rw [Nat.mul_succ, Nat.add_comm]
      _ ≤ 2 ^ w * 2 ^ (w * l.length) := Nat.mul_le_mul_left _ ih

theorem pack_chop (w n v : Nat) : pack w (chop w n v) = v % 2 ^ (w * n) := by
  induction n generalizing v with
  | zero => simp [chop, pack, Nat.mod_one]
  | succ n ih => rw [chop, pack, ih, Nat.mod_mod, Nat.mul_succ, Nat.add_comm (w * n), Nat.pow_add, Nat.mod_mul]

theorem replaceBits_testBit (old lo len new j : Nat) :
    (replaceBits old lo len new).testBit j = if lo ≤ j ∧ j < lo + len then new.testBit (j - lo) else old.testBit j := by
  have hr : old % 2 ^ lo < 2 ^ lo := Nat.mod_lt _ (Nat.two_pow_pos lo)
  have hn : new % 2 ^ len < 2 ^ len := Nat.mod_lt _ (Nat.two_pow_pos len)
  have h1 : old = 2 ^ lo * (2 ^ len * (old / 2 ^ lo / 2 ^ len) + old / 2 ^ lo % 2 ^ len) + old % 2 ^ lo := by
    rw [Nat.div_add_mod, Nat.div_add_mod]
  have h2 : replaceBits old lo len new = 2 ^ lo * (2 ^ len * (old / 2 ^ lo / 2 ^ len) + new % 2 ^ len) + old % 2 ^ lo := by
    unfold replaceBits
    rw [Nat.mul_comm (old / 2 ^ lo % 2 ^ len), Nat.mul_comm (new % 2 ^ len), Nat.mul_add]
    rw [Nat.mul_add] at h1
    omega
  rw [h2, Nat.testBit_two_pow_mul_add _ hr, Nat.testBit_two_pow_mul_add _ hn]
  by_cases hlo : j < lo
  · rw [if_pos hlo, if_neg (by omega), Nat.testBit_mod_two_pow, decide_eq_true hlo, Bool.true_and]
  · rw [if_neg hlo]
    by_cases hlen : j - lo < len
    · rw [if_pos hlen, if_pos (by omega), Nat.testBit_mod_two_pow, decide_eq_true hlen, Bool.true_and]
    · rw [if_neg hlen, if_neg (by omega), Nat.testBit_div_two_pow, Nat.testBit_div_two_pow]
      congr 1
      omega

theorem replaceBits_inside (old lo len new : Nat) {a w : Nat} (h : lo ≤ a) (k : a + w ≤ lo + len) :
    replaceBits old lo len new / 2 ^ a % 2 ^ w = new / 2 ^ (a - lo) % 2 ^ w := by
  refine Nat.eq_of_testBit_eq fun i => ?_
  rw [field_testBit, field_testBit, replaceBits_testBit]
  by_cases hi : i < w
  · rw [if_pos (by omega), Nat.sub_add_comm h]
  · simp [hi]

theorem replaceBits_outside (old lo len new : Nat) {a w : Nat} (h : a + w ≤ lo ∨ lo + len ≤ a) :
    replaceBits old lo len new / 2 ^ a % 2 ^ w = old / 2 ^ a % 2 ^ w := by
  refine Nat.eq_of_testBit_eq fun i => ?_
  rw [field_testBit, field_testBit, replaceBits_testBit]
  by_cases hi : i < w
  · rw [if_neg (by omega)]
  · simp [hi]

/-! ## Elements of register groups (R233, R253) -/

/-- Element `i` of width `w` of the group that begins at register `r`. -/
def elemAt (v : Tab (BitVec 16384)) (r w i : Nat) : Nat := (look 0 v (r + i * w / 16384)).toNat / 2 ^ (i * w % 16384) % 2 ^ w

theorem elem_eq (x : Vec) (r w i : Nat) : x.elem r w i = elemAt x.v r w i := rfl

theorem width_pos {w e : Nat} (he : e * w = 16384) : 0 < w := by
  refine Nat.pos_of_ne_zero fun h => ?_
  rw [h, Nat.mul_zero] at he
  exact absurd he (by decide)

/-- The registers of a group after its first. -/
theorem elemAt_next (v : Tab (BitVec 16384)) (r : Nat) {w e : Nat} (he : e * w = 16384) (i : Nat) : elemAt v r w (e + i) = elemAt v (r + 1) w i := by
  have h : (e + i) * w = i * w + 16384 := by rw [Nat.add_mul, he, Nat.add_comm]
  have h1 : (i * w + 16384) / 16384 = i * w / 16384 + 1 := Nat.add_div_right _ (by decide)
  unfold elemAt
  rw [h, h1, Nat.add_mod_right, Nat.add_comm (i * w / 16384), Nat.add_assoc]

/-- The elements of one register. -/
theorem elemAt_first (v : Tab (BitVec 16384)) (r : Nat) {w e i : Nat} (he : e * w = 16384) (hi : i < e) :
    elemAt v r w i = (look 0 v r).toNat / 2 ^ (w * i) % 2 ^ w := by
  have h1 : (i + 1) * w ≤ e * w := Nat.mul_le_mul_right w hi
  rw [Nat.add_mul, he, Nat.one_mul] at h1
  have hw := width_pos he
  have h2 : i * w < 16384 := by omega
  rw [elemAt, Nat.div_eq_of_lt h2, Nat.mod_eq_of_lt h2, Nat.add_zero, Nat.mul_comm]

theorem groupElems_eq (v : Tab (BitVec 16384)) {w e : Nat} (he : e * w = 16384) (r k n : Nat) (h : n ≤ k * e) :
    groupElems v r w k n = (List.range n).map (elemAt v r w) := by
  have hw := width_pos he
  have hd : 16384 / w = e := by rw [← he, Nat.mul_div_cancel _ hw]
  induction k generalizing r n with
  | zero =>
    have hn : n = 0 := by omega
    subst hn
    rfl
  | succ k ih =>
    rw [Nat.succ_mul] at h
    rw [groupElems, hd, chop_eq, ih (r + 1) (n - e) (by omega)]
    have hr : List.range n = List.range (min n e) ++ (List.range (n - e)).map (min n e + ·) := by
      rw [← List.range_add]; congr 1; omega
    rw [hr, List.map_append, List.map_map]
    refine congrArg₂ (· ++ ·) (List.map_congr_left fun i hi => ?_) (List.map_congr_left fun i hi => ?_)
    · exact (elemAt_first v r he (by have := List.mem_range.mp hi; omega)).symm
    · have := List.mem_range.mp hi
      rw [Function.comp_apply, show min n e = e by omega, elemAt_next v r he]

/-- The registers that elements occupy hold them. -/
theorem regCount_holds {w e : Nat} (he : e * w = 16384) (n : Nat) : n ≤ regCount n w * e := by
  have hw := width_pos he
  have h1 : n * w ≤ regCount n w * e * w := by rw [Nat.mul_assoc, he]; unfold regCount; omega
  exact Nat.le_of_mul_le_mul_right h1 hw

theorem elems_eq (x : Vec) (r : Reg) {w e : Nat} (he : e * w = 16384) (n : Nat) : x.elems r w n = (List.range n).map (x.elem r.toNat w) :=
  groupElems_eq x.v he r.toNat _ n (regCount_holds he n)

/-- One register more than the rest of a list takes. -/
theorem regCount_drop {w e : Nat} (he : e * w = 16384) {l : List Nat} (h : l ≠ []) : regCount l.length w = regCount (l.drop e).length w + 1 := by
  have hw := width_pos he
  have hl := List.length_pos_of_ne_nil h
  have h1 : 1 * w ≤ l.length * w := Nat.mul_le_mul_right w hl
  have h2 : l.length ≤ e → l.length * w ≤ e * w := fun h => Nat.mul_le_mul_right w h
  have h3 : e ≤ l.length → e * w ≤ l.length * w := fun h => Nat.mul_le_mul_right w h
  rw [List.length_drop]
  unfold regCount
  rw [Nat.sub_mul, he]
  omega

/-- A write of elements changes no register but those that they occupy. -/
theorem look_putElems_outside (v : Tab (BitVec 16384)) {w e : Nat} (he : e * w = 16384) (r k : Nat) (l : List Nat) {q : Nat}
    (h : q < r ∨ r + regCount l.length w ≤ q) : look 0 (putElems v r 0 w k l) q = look 0 v q := by
  have hw := width_pos he
  have hd : 16384 / w = e := by rw [← he, Nat.mul_div_cancel _ hw]
  induction k generalizing v r l with
  | zero => rfl
  | succ k ih =>
    rw [putElems]
    split
    · rfl
    · rename_i hl
      rw [regCount_drop he hl] at h
      dsimp only
      rw [hd, ih _ _ _ (by omega)]
      exact look_store_ne 0 v _ (by omega)

/-- A write of elements leaves each of them in its place. -/
theorem elemAt_putElems (v : Tab (BitVec 16384)) {w e : Nat} (he : e * w = 16384) (r k : Nat) (l : List Nat) (h : l.length ≤ k * e) {i : Nat}
    (hi : i < l.length) : elemAt (putElems v r 0 w k l) r w i = (l[i]?).getD 0 % 2 ^ w := by
  have hw := width_pos he
  have hd : 16384 / w = e := by rw [← he, Nat.mul_div_cancel _ hw]
  induction k generalizing v r l i with
  | zero => omega
  | succ k ih =>
    have hl : l ≠ [] := fun hl => by rw [hl] at hi; exact absurd hi (Nat.not_lt_zero _)
    rw [Nat.succ_mul] at h
    rw [putElems, if_neg hl]
    dsimp only
    rw [hd]
    by_cases hie : i < e
    · have hlen : (l.take e).length = min e l.length := List.length_take
      have hb : (i + 1) * w ≤ (l.take e).length * w := Nat.mul_le_mul_right w (by omega)
      have hc : (i + 1) * w ≤ e * w := Nat.mul_le_mul_right w hie
      rw [Nat.add_mul, Nat.one_mul] at hb hc
      rw [elemAt_first _ _ he hie, look_putElems_outside _ he _ _ _ (by omega), look_store_same, Nat.mul_comm w i,
        field_ofNat _ _ (by omega), replaceBits_inside _ _ _ _ (Nat.zero_le _) (by omega), Nat.sub_zero, Nat.mul_comm i w, pack_field,
        List.getElem?_take_of_lt hie]
    · obtain ⟨j, rfl⟩ := Nat.exists_eq_add_of_le (Nat.le_of_not_lt hie)
      rw [elemAt_next _ _ he, ih _ _ _ (by rw [List.length_drop]; omega) (by rw [List.length_drop]; omega), List.getElem?_drop]

/-- A write of elements into one register, from any bit on. -/
theorem putElems_one (v : Tab (BitVec 16384)) (r lo w k : Nat) {l : List Nat} (h : l ≠ []) (hl : l.length ≤ 16384 / w) :
    putElems v r lo w (k + 1) l = store 0 v r (BitVec.ofNat 16384 (replaceBits (look 0 v r).toNat lo (l.length * w) (pack w l))) := by
  rw [putElems, if_neg h]
  dsimp only
  rw [List.take_of_length_le hl, List.drop_of_length_le hl]
  cases k with
  | zero => rfl
  | succ k => rw [putElems, if_pos rfl]

/-! ## Active elements (R256) -/

/-- Elements that are active take the new value, and raise their flags. -/
theorem merge_map {α : Type} (l : List α) (A : α → Bool) (N : α → Nat × BitVec 6) (O : α → Nat) :
    merge (l.map A) (l.map N) (l.map O) =
      (l.map fun i => if A i then (N i).1 else O i, l.foldr (fun i f => (if A i then (N i).2 else 0) ||| f) 0) := by
  induction l with
  | nil => rfl
  | cons i l ih => rw [List.map_cons, List.map_cons, List.map_cons, merge, ih]; rfl

theorem active_eq (x : Vec) (vm : BitVec 3) (w n : Nat) : x.active vm.toNat w n = (List.range n).map (x.isActive vm w) := by
  unfold Vec.active
  by_cases h : vm = 0
  · subst h
    refine (if_pos rfl).trans (List.ext_getElem (by simp) fun i _ _ => ?_)
    simp [Vec.isActive]
  · have h0 : vm.toNat ≠ 0 := fun k => h (BitVec.eq_of_toNat_eq k)
    rw [if_neg h0]
    refine List.map_congr_left fun i _ => ?_
    rw [Vec.isActive, decide_eq_false h, Bool.false_or]

/-! ## What a completion writes in its block -/

/-- A store of one place, or none, as its block takes it. -/
def Block.stored (x : Block) : Option (Nat × List Byte) → Block
  | some a => { x with ls := mstore x.ls a.1 a.2, integ := { x.integ with notes := markWritten a.1 a.2.length x.integ.notes } }
  | none => x

/-- A piece of a result as its block takes it. -/
def Block.putOut (x : Block) : VOut → Block
  | .elems r lo w _ l => { x with vec := { x.vec with v := putElems x.vec.v r lo w 64 l } }
  | .mask m l => { x with vec := x.vec.setMask m (pack 1 l) }
  | .scalar f r v => { x with core := x.core.set f r (BitVec.ofNat 64 v) }
  | .mem _ l => l.foldl Block.stored x
  | .line n l a f => { x with vec := { x.vec with ac := store AcLine.reset x.vec.ac n ⟨BitVec.ofNat 16384 (pack 8 l), true, BitVec.ofNat 48 a, f⟩ } }
  | .drop l => { x with vec := { x.vec with ac := l.foldl (fun t n => store AcLine.reset t n { look AcLine.reset t n with valid := false }) x.vec.ac } }
  | .tile n l => { x with mtx := { x.mtx with t := store 0 x.mtx.t n (BitVec.ofNat 16384 (pack 8 l)) } }
  | .acc n l => { x with mtx := { x.mtx with z := store 0 x.mtx.z n (BitVec.ofNat 8192 (pack 8 l)) } }

theorem blk_putOut (s : State) (b : BlockId) (o : VOut) : (s.putOut b o).blk b = (s.blk b).putOut o := by
  cases o with
  | mem eb l =>
    show (l.foldl _ s).blk b = l.foldl Block.stored (s.blk b)
    induction l generalizing s with
    | nil => rfl
    | cons p l ih =>
      refine (ih _).trans (congrArg (fun x => l.foldl Block.stored x) ?_)
      cases p with
      | none => rfl
      | some a => exact blk_modBlk_same s b _
  | _ => exact blk_modBlk_same s b _

theorem blk_putOuts_one (s : State) (b : BlockId) (o : VOut) (fl : BitVec 6) :
    (s.putOuts b [o] fl).blk b = { (s.blk b).putOut o with fp := { ((s.blk b).putOut o).fp with flags := ((s.blk b).putOut o).fp.flags ||| fl } } := by
  show ((s.putOut b o).orFlags b fl).blk b = _
  rw [State.orFlags, blk_modBlk_same, blk_putOut]

/-- The bytes of a store of several places: what the last store leaves. -/
theorem ls_putOut_mem (x : Block) (eb : Nat) (l : List (Nat × List Byte)) :
    (x.putOut (.mem eb (l.map some))).ls = l.foldl (fun m a => mstore m a.1 a.2) x.ls ∧ (x.putOut (.mem eb (l.map some))).vec = x.vec ∧
      (x.putOut (.mem eb (l.map some))).mtx = x.mtx := by
  induction l generalizing x with
  | nil => exact ⟨rfl, rfl, rfl⟩
  | cons a l ih => exact ih (x.stored (some a))

/-- A byte that none of several stores covers. -/
theorem mget_mstores_outside (m : Memory) (l : List (Nat × List Byte)) {k : Nat} (h : ∀ a ∈ l, k < a.1 ∨ a.1 + a.2.length ≤ k) :
    mget (l.foldl (fun m a => mstore m a.1 a.2) m) k = mget m k := by
  induction l generalizing m with
  | nil => rfl
  | cons a l ih =>
    rw [List.foldl_cons, ih _ fun c hc => h c (List.mem_cons_of_mem _ hc)]
    exact mget_mstore_out m a.1 a.2 (h a List.mem_cons_self)

/-- A byte of one of several stores, where no later one covers it. -/
theorem mget_mstores_last (m : Memory) (l l' : List (Nat × List Byte)) (a : Nat × List Byte) {j : Nat} (hj : j < a.2.length)
    (h : ∀ c ∈ l', a.1 + j < c.1 ∨ c.1 + c.2.length ≤ a.1 + j) :
    mget ((l ++ a :: l').foldl (fun m a => mstore m a.1 a.2) m) (a.1 + j) = a.2[j] := by
  rw [List.foldl_append, List.foldl_cons, mget_mstores_outside _ l' h]
  exact mget_mstore_in _ a.1 a.2 hj

/-- An item of lists of one length put after another. -/
theorem getElem?_flatMap_range {α : Type} (f : Nat → List α) {len : Nat} (hf : ∀ r, (f r).length = len) {n i j : Nat} (hi : i < n) (hj : j < len) :
    ((List.range n).flatMap f)[len * i + j]? = (f i)[j]? := by
  have hlen : ∀ n, ((List.range n).flatMap f).length = len * n := fun n => by
    rw [List.length_flatMap, List.map_congr_left (g := fun _ => len) fun r _ => hf r]
    simp [Nat.mul_comm]
  induction n with
  | zero => omega
  | succ n ih =>
    rw [List.range_succ, List.flatMap_append, List.flatMap_singleton]
    by_cases h : i < n
    · have hle : len * (i + 1) ≤ len * n := Nat.mul_le_mul_left len h
      rw [Nat.mul_succ] at hle
      rw [List.getElem?_append_left (by rw [hlen]; omega), ih h]
    · have : i = n := by omega
      subst this
      rw [List.getElem?_append_right (by rw [hlen]; omega), hlen, Nat.add_sub_cancel_left]

end Sys2Proof.Machine
end

/-! # Tile transfers and moves: the proofs -/
section
open Sys2Proof Sys2Proof.Machine
namespace Sys2Proof.Machine

/-! ## Completions without a data loss -/

/-- The block whose oldest instruction has left the vector engine. -/
def Block.leftVec (x : Block) (e : QEntry) : Block :=
  { x with vec := { x.vec with run := x.vec.run.tail, beats := x.vec.beats + BitVec.ofNat 64 (beatsOf e.instr (groupSize e.grp)) } }

/-- The block whose oldest instruction has left the tile port. -/
def Block.leftPort (x : Block) : Block := { x with mtx := { x.mtx with port := x.mtx.port.tail } }

theorem completeVec_plain (s : State) (b : BlockId) (e : QEntry) : s.completeVec b e none [] =
    (s.modBlk b fun x => x.leftVec e).putOuts b (engineOut ((s.blk b).leftVec e) e []).1 (engineOut ((s.blk b).leftVec e) e []).2 := by
  have hc : s.correctedAll b (if isVecMem e.instr then [] else []) = s := by rw [ite_self]; rfl
  have hx : (s.modBlk b fun x => x.leftVec e).blk b = (s.blk b).leftVec e := blk_modBlk_same s b _
  unfold State.completeVec
  rw [hc]
  dsimp only
  rw [← hx]
  rfl

theorem completePort_plain (s : State) (b : BlockId) (e : QEntry) : s.completePort b e none [] =
    (s.modBlk b Block.leftPort).putOuts b (engineOut ((s.blk b).leftPort) e []).1 0 := by
  have hc : s.correctedAll b (if isTileMem e.instr then [] else []) = s := by rw [ite_self]; rfl
  have hx : (s.modBlk b Block.leftPort).blk b = (s.blk b).leftPort := blk_modBlk_same s b _
  unfold State.completePort
  rw [hc]
  dsimp only
  rw [← hx]
  rfl

variable {s : State} {b : BlockId} {e : QEntry} {rest : List QEntry}

/-- A completion that writes one piece. -/
theorem completeVec_one {o : VOut} {fl : BitVec 6} (h : engineOut ((s.blk b).leftVec e) e [] = ([o], fl)) :
    (s.completeVec b e none []).blk b = { (((s.blk b).leftVec e).putOut o) with
      fp := { (((s.blk b).leftVec e).putOut o).fp with flags := (((s.blk b).leftVec e).putOut o).fp.flags ||| fl } } := by
  rw [completeVec_plain, h, blk_putOuts_one, blk_modBlk_same]

theorem completePort_one {o : VOut} (h : engineOut ((s.blk b).leftPort) e [] = ([o], 0)) :
    (s.completePort b e none []).blk b = { (((s.blk b).leftPort).putOut o) with
      fp := { (((s.blk b).leftPort).putOut o).fp with flags := (((s.blk b).leftPort).putOut o).fp.flags ||| 0 } } := by
  rw [completePort_plain, h, blk_putOuts_one, blk_modBlk_same]

/-! ## Bytes of tile registers and accumulators -/

theorem byte_field (v i : Nat) : v / 256 ^ i % 256 = v / 2 ^ (8 * i) % 2 ^ 8 := by
  rw [show (256 : Nat) = 2 ^ 8 from rfl, ← Nat.pow_mul]

theorem pack_byte (N : Nat) (l : List Nat) {i : Nat} (h : 8 * i + 8 ≤ N) :
    (BitVec.ofNat N (pack 8 l)).toNat / 256 ^ i % 256 = (l[i]?).getD 0 % 256 := by
  rw [byte_field, field_ofNat _ _ h, pack_field]
  rfl

/-- A byte of the rows read. -/
theorem rowsRead_byte (x : Block) (a t : W64) {len i j : Nat} (hi : i < 16) (hj : j < len) :
    ((rowsRead x a t len)[len * i + j]?).getD 0 % 256 = (mget x.ls ((a + BitVec.ofNat 64 i * t).toNat + j)).toNat := by
  have hrow : ∀ r, ((mload x.ls (rowAddr a t r) len).map BitVec.toNat).length = len := fun r => by rw [List.length_map, mload_length]
  have hb : ∀ (m : Memory) (n k a : Nat), k < n → (mload m a n)[k]? = some (mget m (a + k)) := fun m n => by
    induction n with
    | zero => intro k a h; omega
    | succ n ih =>
      intro k a h
      cases k with
      | zero => rfl
      | succ k => rw [mload, List.getElem?_cons_succ, ih k (a + 1) (by omega)]; congr 2; omega
  rw [rowsRead, getElem?_flatMap_range _ hrow hi hj, List.getElem?_map, hb _ _ _ _ hj, Option.map_some, Option.getD_some]
  exact Nat.mod_eq_of_lt (BitVec.isLt _)

theorem rowsRead_length (x : Block) (a t : W64) (len : Nat) : (rowsRead x a t len).length = 16 * len := by
  rw [rowsRead, List.length_flatMap, List.map_congr_left (g := fun _ => len) fun r _ => by rw [List.length_map, mload_length],
    List.map_const', List.sum_replicate, List.length_range, smul_eq_mul]

theorem tileByte_stored (x : Block) (r : BitVec 3) (l : List Nat) {i : Nat} (h : i < 2048) :
    ((x.putOut (.tile r.toNat l)).mtx.tileByte r i) = (l[i]?).getD 0 % 256 := by
  show (look 0 (store 0 x.mtx.t r.toNat _) r.toNat).toNat / _ % _ = _
  rw [look_store_same]
  exact pack_byte 16384 l (by omega)

theorem accByte_stored (x : Block) (r : BitVec 3) (l : List Nat) {i : Nat} (h : i < 1024) :
    ((x.putOut (.acc r.toNat l)).mtx.accByte r i) = (l[i]?).getD 0 % 256 := by
  show (look 0 (store 0 x.mtx.z r.toNat _) r.toNat).toNat / _ % _ = _
  rw [look_store_same]
  exact pack_byte 8192 l (by omega)

theorem pack_zeros (w n : Nat) : pack w (List.replicate n 0) = 0 := by
  induction n with
  | zero => rfl
  | succ n ih => rw [List.replicate_succ, pack, ih, Nat.zero_mod, Nat.mul_zero]

theorem accByte_cleared (x : Block) (r : BitVec 3) (n j : Nat) : (x.putOut (.acc r.toNat (List.replicate n 0))).mtx.accByte r j = 0 := by
  show (look 0 (store 0 x.mtx.z r.toNat _) r.toNat).toNat / _ % _ = _
  have h0 : ∀ N, (BitVec.ofNat N 0).toNat = 0 := fun N => Nat.zero_mod _
  rw [look_store_same, pack_zeros, h0, Nat.zero_div, Nat.zero_mod]

/-! ## Tile stores -/

theorem leBytes_getElem? (n v : Nat) {j : Nat} (h : j < n) : (leBytes n v)[j]? = some (BitVec.ofNat 8 (v / 256 ^ j)) := by
  induction n generalizing v j with
  | zero => omega
  | succ n ih =>
    cases j with
    | zero => simp [leBytes]
    | succ j => rw [leBytes, List.getElem?_cons_succ, ih _ (by omega), Nat.div_div_eq_div_mul, Nat.pow_succ, Nat.mul_comm 256]

/-- The rows of a tile store, each with its address. -/
def tileRowStores (a t : W64) (len v : Nat) : List (Nat × List Byte) :=
  (List.range 16).map fun r => (rowAddr a t r, leBytes len (v / 2 ^ (8 * len * r)))

theorem rowsWrite_eq (a t : W64) (len v : Nat) : rowsWrite a t len v = .mem 8 ((tileRowStores a t len v).map some) := by
  rw [rowsWrite, tileRowStores, List.map_map]
  rfl

/-- A byte of a row that no later row covers. -/
theorem tileRowStores_row (m : Memory) (a t : W64) (len v : Nat) {i j : Nat} (hi : i < 16) (hj : j < len)
    (h : ∀ i', i < i' → i' < 16 → rowAddr a t i' + len ≤ rowAddr a t i ∨ rowAddr a t i + len ≤ rowAddr a t i') :
    (mget ((tileRowStores a t len v).foldl (fun m a => mstore m a.1 a.2) m) (rowAddr a t i + j)).toNat = v / 256 ^ (len * i + j) % 256 := by
  have hr : List.range 16 = List.range i ++ i :: (List.range (15 - i)).map (i + 1 + ·) := by
    rw [show 16 = i + 1 + (15 - i) by omega, List.range_add, List.range_succ, List.append_assoc]
    have hn : i + 1 + (15 - i) = 16 := by omega
    rfl
  have hbyte : (leBytes len (v / 2 ^ (8 * len * i)))[j]'(by rw [leBytes_length]; exact hj) = BitVec.ofNat 8 (v / 2 ^ (8 * len * i) / 256 ^ j) :=
    Option.some.inj ((List.getElem?_eq_getElem _).symm.trans (leBytes_getElem? _ _ hj))
  rw [tileRowStores, hr, List.map_append, List.map_cons]
  rw [mget_mstores_last m _ _ (rowAddr a t i, leBytes len (v / 2 ^ (8 * len * i))) (by rw [leBytes_length]; exact hj) ?_, hbyte]
  · rw [BitVec.toNat_ofNat, Nat.div_div_eq_div_mul, show (256 : Nat) = 2 ^ 8 from rfl, ← Nat.pow_mul, ← Nat.pow_mul, ← Nat.pow_add, Nat.mul_add,
      Nat.mul_assoc]
  · intro c hc
    obtain ⟨k, hk, rfl⟩ := List.mem_map.mp hc
    obtain ⟨n, hn, rfl⟩ := List.mem_map.mp hk
    have := List.mem_range.mp hn
    have := h (i + 1 + n) (by omega) (by omega)
    dsimp only
    rw [leBytes_length]
    omega

/-- A byte that no row covers. -/
theorem tileRowStores_outside (m : Memory) (a t : W64) (len v : Nat) {k : Nat} (h : ∀ i < 16, k < rowAddr a t i ∨ rowAddr a t i + len ≤ k) :
    mget ((tileRowStores a t len v).foldl (fun m a => mstore m a.1 a.2) m) k = mget m k := by
  refine mget_mstores_outside m _ fun c hc => ?_
  obtain ⟨i, hi, rfl⟩ := List.mem_map.mp hc
  dsimp only
  rw [leBytes_length]
  exact h i (List.mem_range.mp hi)

/-- A tile store, whose bytes come from `v`. -/
theorem tile_store_clause {a t : W64} {len v : Nat} (h : engineOut ((s.blk b).leftPort) e [] = ([rowsWrite a t len v], 0)) :
    (∀ i < 16, (∀ i', i < i' → i' < 16 → rowAddr a t i' + len ≤ rowAddr a t i ∨ rowAddr a t i + len ≤ rowAddr a t i') → ∀ j < len,
      (mget ((s.completePort b e none []).blk b).ls (rowAddr a t i + j)).toNat = v / 256 ^ (len * i + j) % 256) ∧
    (∀ k, (∀ i < 16, k < rowAddr a t i ∨ rowAddr a t i + len ≤ k) → mget ((s.completePort b e none []).blk b).ls k = mget (s.blk b).ls k) ∧
    ((s.completePort b e none []).blk b).mtx.t = (s.blk b).mtx.t ∧ ((s.completePort b e none []).blk b).mtx.z = (s.blk b).mtx.z := by
  rw [completePort_one h, rowsWrite_eq]
  obtain ⟨hls, -, hmtx⟩ := ls_putOut_mem (s.blk b).leftPort 8 (tileRowStores a t len v)
  dsimp only
  rw [hls, hmtx]
  exact ⟨fun i hi hlast j hj => tileRowStores_row _ a t len v hi hj hlast, fun k hk => tileRowStores_outside _ a t len v hk, rfl, rfl⟩

/-- No completion in the tile port puts an instruction into it. -/
theorem port_putOuts (s : State) (l : List VOut) (fl : BitVec 6) : ((s.putOuts b l fl).blk b).mtx.port = (s.blk b).mtx.port := by
  have hone : ∀ (x : Block) (o : VOut), (x.putOut o).mtx.port = x.mtx.port := fun x o => by
    cases o with
    | mem eb l =>
      show (l.foldl Block.stored x).mtx.port = _
      induction l generalizing x with
      | nil => rfl
      | cons p l ih => rw [List.foldl_cons, ih]; cases p <;> rfl
    | _ => rfl
  show ((State.orFlags _ b fl).blk b).mtx.port = _
  rw [State.orFlags, blk_modBlk_same]
  show ((l.foldl _ s).blk b).mtx.port = _
  induction l generalizing s with
  | nil => rfl
  | cons o l ih => rw [List.foldl_cons, ih, blk_putOut, hone]

/-- The tile port completes its oldest instruction. -/
theorem tilePort_clause (rs ra : Reg) (r : BitVec 3) (hp : (s.blk b).mtx.port = e :: rest) (h2 : s.branchTicks b 2 = true)
    (h5 : s.branchTicks b 5 = true) :
    let x := s.blk b
    let row := fun i => (e.sa + BitVec.ofNat 64 i * e.sb).toNat
    ∃ t, exec (.matrixUnitComplete b .tilePort none []) s = .next t ∧ (t.blk b).mtx.port = rest ∧
      (e.instr = .tld b rs ra r → ∀ i < 16, ∀ j < 128, (t.blk b).mtx.tileByte r (128 * i + j) = (mget x.ls (row i + j)).toNat) ∧
      (e.instr = .tld6 b rs ra r → (∀ i < 16, ∀ j < 96, (t.blk b).mtx.tileByte r (96 * i + j) = (mget x.ls (row i + j)).toNat) ∧
        ∀ j < 512, (t.blk b).mtx.tileByte r (1536 + j) = 0) ∧
      (e.instr = .zld b rs ra r → ∀ i < 16, ∀ j < 64, (t.blk b).mtx.accByte r (64 * i + j) = (mget x.ls (row i + j)).toNat) ∧
      (e.instr = .zclr b r → ∀ j, (t.blk b).mtx.accByte r j = 0) ∧
      (∀ len, (e.instr = .tst b rs ra r ∧ len = 128) ∨ (e.instr = .tst6 b rs ra r ∧ len = 96) ∨ (e.instr = .zst b rs ra r ∧ len = 64) →
        (∀ i < 16, (∀ i', i < i' → i' < 16 → row i' + len ≤ row i ∨ row i + len ≤ row i') → ∀ j < len,
          (mget (t.blk b).ls (row i + j)).toNat =
            if len = 64 then x.mtx.accByte r (len * i + j) else x.mtx.tileByte r (len * i + j)) ∧
        (∀ k, (∀ i < 16, k < row i ∨ row i + len ≤ k) → mget (t.blk b).ls k = mget x.ls k) ∧
        (t.blk b).mtx.t = x.mtx.t ∧ (t.blk b).mtx.z = x.mtx.z) := by
  intro x row
  have hticks : s.engineTicks b 2 (isTileMem e.instr) = true := by unfold State.engineTicks; rw [h2, h5]; simp
  have hout : ∀ i, e.instr = i → engineOut ((s.blk b).leftPort) e [] = engineOut ((s.blk b).leftPort) { e with instr := i } [] := fun i h => by
    rw [← h]
  refine ⟨s.completePort b e none [], ?_, ?_, fun hi => ?_, fun hi => ?_, fun hi => ?_, fun hi => ?_, fun len hi => ?_⟩
  · show Host.Outcome.next (matrixUnitComplete b .tilePort none [] s) = _
    unfold matrixUnitComplete
    dsimp only
    rw [hp]
    exact congrArg Host.Outcome.next (if_pos hticks)
  · rw [completePort_plain, port_putOuts, blk_modBlk_same]
    show (s.blk b).mtx.port.tail = rest
    rw [hp, List.tail_cons]
  · intro i h j hj
    rw [completePort_one (hout _ hi)]
    exact (tileByte_stored _ r _ (by omega)).trans (rowsRead_byte _ e.sa e.sb h hj)
  · rw [completePort_one (hout _ hi)]
    refine ⟨fun i h j hj => ?_, fun j hj => ?_⟩
    · refine (tileByte_stored _ r _ (by omega)).trans ?_
      rw [List.getElem?_append_left (by rw [rowsRead_length]; omega)]
      exact rowsRead_byte _ e.sa e.sb h hj
    · refine (tileByte_stored _ r _ (by omega)).trans ?_
      rw [List.getElem?_append_right (by rw [rowsRead_length]; omega), rowsRead_length, List.getElem?_replicate]
      split <;> rfl
  · intro i h j hj
    rw [completePort_one (hout _ hi)]
    exact (accByte_stored _ r _ (by omega)).trans (rowsRead_byte _ e.sa e.sb h hj)
  · intro j
    rw [completePort_one (hout _ hi)]
    exact accByte_cleared _ r 1024 j
  · rcases hi with ⟨hi, rfl⟩ | ⟨hi, rfl⟩ | ⟨hi, rfl⟩
    · exact tile_store_clause (hout _ hi)
    · exact tile_store_clause (hout _ hi)
    · exact tile_store_clause (hout _ hi)

/-! ## Moves -/

theorem chop_drop (w k n v : Nat) : (chop w (k + n) v).drop k = chop w n (v / 2 ^ (w * k)) := by
  induction k generalizing v with
  | zero => simp
  | succ k ih => rw [Nat.succ_add, chop, List.drop_succ_cons, ih, Nat.div_div_eq_div_mul, ← Nat.pow_add, Nat.mul_succ, Nat.add_comm w]

theorem chop_take (w n k v : Nat) : (chop w (n + k) v).take n = chop w n v := by
  induction n generalizing v with
  | zero => rfl
  | succ n ih => rw [Nat.succ_add, chop, List.take_succ_cons, ih, chop]

/-- What was put into a word's bits is there. -/
theorem extract_replaced {N lo len : Nat} (old new : Nat) (h : lo + len ≤ N) :
    (BitVec.ofNat N (replaceBits old lo len new)).extractLsb' lo len = BitVec.ofNat len new := by
  refine BitVec.eq_of_getLsbD_eq fun i hi => ?_
  rw [BitVec.getLsbD_extractLsb', BitVec.getLsbD_ofNat, BitVec.getLsbD_ofNat, replaceBits_testBit, if_pos (by omega), Nat.add_sub_cancel_left,
    decide_eq_true hi, decide_eq_true (show lo + i < N by omega)]
  rfl

/-- The other bits of the word stay. -/
theorem extract_replaced_outside {N a w lo len : Nat} (v : BitVec N) (new : Nat) (h : a + w ≤ N) (k : a + w ≤ lo ∨ lo + len ≤ a) :
    (BitVec.ofNat N (replaceBits v.toNat lo len new)).extractLsb' a w = v.extractLsb' a w := by
  refine BitVec.eq_of_getLsbD_eq fun i hi => ?_
  rw [BitVec.getLsbD_extractLsb', BitVec.getLsbD_ofNat, BitVec.getLsbD_extractLsb', replaceBits_testBit, if_neg (by omega),
    decide_eq_true (show a + i < N by omega), Bool.true_and]
  rfl

theorem ofNat_field {N : Nat} (v : BitVec N) (a w : Nat) : BitVec.ofNat w (v.toNat / 2 ^ a) = v.extractLsb' a w := by
  refine BitVec.eq_of_toNat_eq ?_
  rw [BitVec.toNat_ofNat, BitVec.extractLsb'_toNat, Nat.shiftRight_eq_div_pow]

/-- The bytes of a word spell it. -/
theorem pack_chop_word {N : Nat} (v : BitVec N) {w n : Nat} (h : w * n = N) : pack w (chop w n v.toNat) = v.toNat := by
  subst h
  rw [pack_chop, Nat.mod_eq_of_lt v.isLt]

theorem ofNat_pack_chop {N w n : Nat} (x : Nat) (h : w * n = N) : BitVec.ofNat N (pack w (chop w n x)) = BitVec.ofNat N x := by
  subst h
  refine BitVec.eq_of_toNat_eq ?_
  rw [pack_chop, BitVec.toNat_ofNat, BitVec.toNat_ofNat, Nat.mod_mod]

theorem ofNat_pack_word {N : Nat} (v : BitVec N) {w n : Nat} (h : w * n = N) : BitVec.ofNat N (pack w (chop w n v.toNat)) = v := by
  rw [pack_chop_word v h, BitVec.ofNat_toNat, BitVec.setWidth_eq]

/-- Some bytes of a word, from any byte on. -/
theorem ofNat_pack_part {N M : Nat} (v : BitVec N) {w k n a m : Nat} (ha : w * k = a) (hm : w * n = M) :
    BitVec.ofNat M (pack w (((chop w (k + (n + m)) v.toNat).drop k).take n)) = v.extractLsb' a M := by
  rw [chop_drop, chop_take, ofNat_pack_chop _ hm, ofNat_field, ha]

/-- The bytes of a whole register, replaced. -/
theorem replaceBits_whole {N : Nat} (old : Nat) (v : BitVec N) : BitVec.ofNat N (replaceBits old 0 N v.toNat) = v := by
  refine BitVec.eq_of_getLsbD_eq fun i hi => ?_
  rw [BitVec.getLsbD_ofNat, replaceBits_testBit, if_pos (by omega), decide_eq_true hi]
  rfl

theorem look_putElems_one (v : Tab (BitVec 16384)) (r lo : Nat) {l : List Nat} (h : 0 < l.length) (hl : l.length ≤ 2048) :
    look 0 (putElems v r lo 8 64 l) r = BitVec.ofNat 16384 (replaceBits (look 0 v r).toNat lo (l.length * 8) (pack 8 l)) := by
  rw [putElems_one v r lo 8 63 (List.ne_nil_of_length_pos h) hl, look_store_same]

/-- A whole register that takes the bytes of another. -/
theorem look_putElems_bytes (v : Tab (BitVec 16384)) (r : Nat) (w : BitVec 16384) : look 0 (putElems v r 0 8 64 (chop 8 2048 w.toNat)) r = w := by
  have hp := pack_chop_word w (w := 8) (n := 2048) (by decide)
  rw [look_putElems_one v r 0 (by rw [chop_length]; decide) (by rw [chop_length]), hp, chop_length]
  exact replaceBits_whole _ w

/-- The half of a vector register that `zfromv` copies. -/
theorem half_bytes (v : BitVec 16384) (h : Bool) : BitVec.ofNat 8192 (pack 8 (((chop 8 2048 v.toNat).drop (1024 * boolBit h)).take 1024)) =
    v.extractLsb' (if h then 8192 else 0) 8192 := by
  cases h with
  | false => exact ofNat_pack_part v (k := 0) (n := 1024) (m := 1024) (by decide) (by decide)
  | true => exact ofNat_pack_part v (k := 1024) (n := 1024) (m := 0) (by decide) (by decide)

/-- A half of a vector register that takes an accumulator. -/
theorem look_putElems_half (v : Tab (BitVec 16384)) (r : Nat) (h : Bool) (z : BitVec 8192) :
    (look 0 (putElems v r (8192 * boolBit h) 8 64 (chop 8 1024 z.toNat)) r).extractLsb' (if h then 8192 else 0) 8192 = z ∧
    (look 0 (putElems v r (8192 * boolBit h) 8 64 (chop 8 1024 z.toNat)) r).extractLsb' (if h then 0 else 8192) 8192 =
      (look 0 v r).extractLsb' (if h then 0 else 8192) 8192 := by
  have hp := pack_chop_word z (w := 8) (n := 1024) (by decide)
  rw [look_putElems_one v r _ (by rw [chop_length]; decide) (by rw [chop_length]; decide), hp, chop_length]
  have hz : BitVec.ofNat 8192 z.toNat = z := by rw [BitVec.ofNat_toNat, BitVec.setWidth_eq]
  cases h with
  | false => exact ⟨(extract_replaced _ _ (by decide)).trans hz, extract_replaced_outside _ _ (by decide) (by decide)⟩
  | true => exact ⟨(extract_replaced _ _ (by decide)).trans hz, extract_replaced_outside _ _ (by decide) (by decide)⟩

theorem look_putOut_tile (x : Block) (n : Nat) (l : List Nat) : look 0 (x.putOut (.tile n l)).mtx.t n = BitVec.ofNat 16384 (pack 8 l) :=
  look_store_same 0 x.mtx.t n _

theorem look_putOut_acc (x : Block) (n : Nat) (l : List Nat) : look 0 (x.putOut (.acc n l)).mtx.z n = BitVec.ofNat 8192 (pack 8 l) :=
  look_store_same 0 x.mtx.z n _

theorem vecs_completeVec {r lo w u : Nat} {l : List Nat} {fl : BitVec 6} (h : engineOut ((s.blk b).leftVec e) e [] = ([.elems r lo w u l], fl)) :
    ((s.completeVec b e none []).blk b).vec.v = putElems (s.blk b).vec.v r lo w 64 l ∧
      ((s.completeVec b e none []).blk b).mtx = (s.blk b).mtx := by
  rw [completeVec_one h]
  exact ⟨rfl, rfl⟩

/-- The vector engine completes a move. -/
theorem move_clause (r : BitVec 3) (v : Reg) (h : Bool) (hr : (s.blk b).vec.run = e :: rest) (h1 : s.branchTicks b 1 = true) :
    let x := s.blk b
    ∃ t, exec (.matrixUnitComplete b .vector none []) s = .next t ∧
      (e.instr = .tfromv b r v → look 0 (t.blk b).mtx.t r.toNat = look 0 x.vec.v v.toNat ∧ (t.blk b).vec.v = x.vec.v) ∧
      (e.instr = .tov b r v → look 0 (t.blk b).vec.v v.toNat = look 0 x.mtx.t r.toNat ∧ (t.blk b).mtx.t = x.mtx.t) ∧
      (e.instr = .zfromv b h r v → look 0 (t.blk b).mtx.z r.toNat = (look 0 x.vec.v v.toNat).extractLsb' (if h then 8192 else 0) 8192 ∧
        (t.blk b).vec.v = x.vec.v) ∧
      (e.instr = .ztov b h r v →
        (look 0 (t.blk b).vec.v v.toNat).extractLsb' (if h then 8192 else 0) 8192 = look 0 x.mtx.z r.toNat ∧
        (look 0 (t.blk b).vec.v v.toNat).extractLsb' (if h then 0 else 8192) 8192 =
          (look 0 x.vec.v v.toNat).extractLsb' (if h then 0 else 8192) 8192 ∧ (t.blk b).mtx.z = x.mtx.z) := by
  intro x
  have hticks : s.engineTicks b 1 false = true := by unfold State.engineTicks; rw [h1]; rfl
  have hout : ∀ i, e.instr = i → engineOut ((s.blk b).leftVec e) e [] = engineOut ((s.blk b).leftVec e) { e with instr := i } [] := fun i h => by
    rw [← h]
  refine ⟨matrixUnitComplete b .vector none [] s, rfl, ?_⟩
  have heq : (matrixUnit e.instr).isSome = true → matrixUnitComplete b .vector none [] s = s.completeVec b e none [] := fun hu => by
    unfold matrixUnitComplete
    dsimp only
    rw [hr]
    exact if_pos (by rw [hu, hticks]; rfl)
  refine ⟨fun hi => ?_, fun hi => ?_, fun hi => ?_, fun hi => ?_⟩
  · rw [heq (by rw [hi]; rfl), completeVec_one (hout _ hi)]
    refine ⟨?_, rfl⟩
    exact (look_putOut_tile _ r.toNat _).trans (ofNat_pack_word (look 0 x.vec.v v.toNat) (by decide))
  · obtain ⟨hv, hm⟩ := vecs_completeVec (hout _ hi)
    rw [heq (by rw [hi]; rfl), hv, hm]
    exact ⟨look_putElems_bytes _ _ _, rfl⟩
  · rw [heq (by rw [hi]; rfl), completeVec_one (hout _ hi)]
    refine ⟨?_, rfl⟩
    exact (look_putOut_acc _ r.toNat _).trans (half_bytes (look 0 x.vec.v v.toNat) h)
  · obtain ⟨hv, hm⟩ := vecs_completeVec (hout _ hi)
    rw [heq (by rw [hi]; rfl), hv, hm]
    obtain ⟨hin, hother⟩ := look_putElems_half (s.blk b).vec.v v.toNat h (look 0 (s.blk b).mtx.z r.toNat)
    exact ⟨hin, hother, rfl⟩

end Sys2Proof.Machine

/-- Settles O34: a completion in the tile port and a move of the vector engine each write one piece, whose bytes are the fields of the number it packs. -/
theorem tileTransfersComplete : Obligations.TileTransfersComplete := by
  unfold Obligations.TileTransfersComplete
  intro s b e rest rs ra v r h
  exact ⟨fun hp h2 h5 => tilePort_clause rs ra r hp h2 h5, fun hr h1 => move_clause r v h hr h1⟩
end

/-! # Matrix products: the proofs -/
section
open Sys2Proof Sys2Proof.Machine
namespace Sys2Proof.Machine

/-! ## Signed elements -/

theorem sIntOf_toInt (w x : Nat) : sIntOf w x = (BitVec.ofNat w x).toInt := by
  rw [BitVec.toInt_eq_toNat_cond, BitVec.toNat_ofNat]
  simp [sIntOf]

theorem bitsOfInt_cast (w : Nat) (v : Int) : (bitsOfInt w v : Int) = v % 2 ^ w := by
  rw [bitsOfInt, Int.toNat_of_nonneg (Int.emod_nonneg _ (by positivity))]

theorem foldl_products {α : Type} (l : List α) (f : α → Int) (a : Int) : l.foldl (fun x p => x + f p) a = a + (l.map f).sum := by
  induction l generalizing a with
  | nil => simp
  | cons p l ih => rw [List.foldl_cons, ih, List.map_cons, List.sum_cons, Int.add_assoc]

/-! ## The pairs of rows and columns -/

theorem zipIdx_map_range {α : Type} (f : Nat → α) (n : Nat) : ((List.range n).map f).zipIdx = (List.range n).map fun i => (f i, i) := by
  refine List.ext_getElem (by simp) fun i _ _ => ?_
  simp

theorem cross_map {α : Type} (R C : Nat → α) : cross ((List.range 16).map R) ((List.range 16).map C) =
    (List.range 16).flatMap fun r => (List.range 16).map fun c => ((r, c), (R r, C c)) := by
  rw [cross, zipIdx_map_range, zipIdx_map_range, List.flatMap_map]
  refine congrArg (fun f => List.flatMap f (List.range 16)) (funext fun r => ?_)
  rw [List.map_map]
  rfl

/-- What a product computes for each pair of a row and a column. -/
theorem cross_map_map {α β : Type} (R C : Nat → α) (g : (Nat × Nat) × (α × α) → β) : (cross ((List.range 16).map R) ((List.range 16).map C)).map g =
    (List.range 16).flatMap fun r => (List.range 16).map fun c => g ((r, c), (R r, C c)) := by
  rw [cross_map, List.map_flatMap]
  refine congrArg (fun f => List.flatMap f (List.range 16)) (funext fun r => ?_)
  rw [List.map_map]
  rfl

theorem tileRows_map {α : Type} (w k : Nat) (t : BitVec 16384) (f : List Nat → α) :
    (tileRows w k t).map f = (List.range 16).map fun r => f (chop w k (t.toNat / 2 ^ (w * k * r))) := by
  rw [tileRows, List.map_map]
  rfl

/-! ## Accumulators -/

/-- The bytes of 256 elements spell them. -/
theorem accElem_stored (x : Block) (zd : BitVec 3) (f : Nat → Nat → Nat) {r c : Nat} (hr : r < 16) (hc : c < 16) :
    (x.putOut (.acc zd.toNat (accBytes ((List.range 16).flatMap fun r => (List.range 16).map (f r))))).mtx.accElem zd r c = f r c % 2 ^ 32 := by
  rw [Mtx.accElem, look_putOut_acc, accBytes, ofNat_pack_chop _ (by decide), field_ofNat _ _ (by omega), pack_field,
    getElem?_flatMap_range _ (len := 16) (fun r => by simp) hr hc, List.getElem?_map, List.getElem?_range hc]
  rfl

theorem look_putOut_acc_ne (x : Block) {n m : Nat} (l : List Nat) (h : m ≠ n) : look 0 (x.putOut (.acc n l)).mtx.z m = look 0 x.mtx.z m :=
  look_store_ne 0 x.mtx.z _ h

/-- The block whose oldest product has left the array. -/
def Block.leftArray (x : Block) (busy : Nat) : Block :=
  { x with mtx := { x.mtx with array := x.mtx.array.tail, ops := x.mtx.ops + 1, arrayFcy := x.mtx.arrayFcy + BitVec.ofNat 64 busy } }

variable {s : State} {b : BlockId} {e : QEntry} {rest : List QEntry}

/-- A product completes in the array with one piece, its accumulator. -/
theorem completeArray_one {n : Nat} {l : List Nat} {fl : BitVec 6} (h : ∀ busy, engineOut ((s.blk b).leftArray busy) e [] = ([.acc n l], fl)) :
    ∃ busy, (s.completeArray b e).blk b = { (((s.blk b).leftArray busy).putOut (.acc n l)) with
      fp := { (s.blk b).fp with flags := (s.blk b).fp.flags ||| fl } } := by
  have heq : ∃ busy, s.completeArray b e = (s.modBlk b fun x => x.leftArray busy).putOuts b
      (engineOut ((s.modBlk b fun x => x.leftArray busy).blk b) e []).1 (engineOut ((s.modBlk b fun x => x.leftArray busy).blk b) e []).2 := ⟨_, rfl⟩
  obtain ⟨busy, heq⟩ := heq
  refine ⟨busy, ?_⟩
  rw [heq, blk_modBlk_same, h, blk_putOuts_one, blk_modBlk_same]
  rfl

/-- What a product leaves in its block. -/
theorem completeArray_parts {zd : BitVec 3} {l : List Nat} {fl : BitVec 6} (h : ∀ busy, engineOut ((s.blk b).leftArray busy) e [] = ([.acc zd.toNat l], fl)) :
    ((s.completeArray b e).blk b).mtx.array = (s.blk b).mtx.array.tail ∧ ((s.completeArray b e).blk b).mtx.ops = (s.blk b).mtx.ops + 1 ∧
    (∀ r c, ((s.completeArray b e).blk b).mtx.accElem zd r c = ((s.blk b).putOut (.acc zd.toNat l)).mtx.accElem zd r c) ∧
    (∀ n, n ≠ zd.toNat → look 0 ((s.completeArray b e).blk b).mtx.z n = look 0 (s.blk b).mtx.z n) ∧
    ((s.completeArray b e).blk b).mtx.t = (s.blk b).mtx.t ∧
    ((s.completeArray b e).blk b).fp = { (s.blk b).fp with flags := (s.blk b).fp.flags ||| fl } ∧
    ((s.completeArray b e).blk b).vec = (s.blk b).vec ∧ ((s.completeArray b e).blk b).ls = (s.blk b).ls := by
  obtain ⟨busy, ht⟩ := completeArray_one h
  rw [ht]
  exact ⟨rfl, rfl, fun _ _ => rfl, fun n hn => look_putOut_acc_ne (s.blk b) l hn, rfl, rfl, rfl, rfl⟩

/-- The array completes its oldest instruction. -/
theorem array_completes (hr : (s.blk b).mtx.array = e :: rest) (h2 : s.branchTicks b 2 = true) :
    exec (.matrixUnitComplete b .array none []) s = .next (s.completeArray b e) := by
  have hticks : s.engineTicks b 2 false = true := by unfold State.engineTicks; rw [h2]; rfl
  show Host.Outcome.next (matrixUnitComplete b .array none [] s) = _
  unfold matrixUnitComplete
  dsimp only
  rw [hr]
  exact congrArg Host.Outcome.next (if_pos hticks)

/-! ## Integer products (R308) -/

theorem intElement_cast (acc k : Nat) (f g : Nat → Int) :
    ((intElement acc ((List.range k).map f) ((List.range k).map g) : Nat) : Int) = ((acc : Int) + ((List.range k).map fun i => f i * g i).sum) % 2 ^ 32 := by
  have hz : ((List.range k).map f).zip ((List.range k).map g) = (List.range k).map fun i => (f i, g i) := by
    rw [List.zip_map']
  rw [intElement, bitsOfInt_cast, hz, foldl_products, List.map_map]
  rfl

/-- A row of INT8 elements. -/
theorem int8_row (t : BitVec 16384) (r : Nat) : (chop 8 128 (t.toNat / 2 ^ (8 * 128 * r))).map (IFmt.decode ⟨8, true⟩) =
    (List.range 128).map fun k => (BitVec.ofNat 8 (t.toNat / 256 ^ (128 * r + k) % 256)).toInt := by
  rw [chop_eq, List.map_map]
  refine List.map_congr_left fun k _ => ?_
  show sIntOf 8 (t.toNat / 2 ^ (8 * 128 * r) / 2 ^ (8 * k) % 2 ^ 8) = _
  rw [sIntOf_toInt, byte_field, Nat.div_div_eq_div_mul, ← Nat.pow_add, Nat.mul_add, Nat.mul_assoc]

/-- The element that an INT8 product leaves. -/
def int8Element (x : Mtx) (z : Bool) (tb ta zd : BitVec 3) (r c : Nat) : Nat :=
  intElement (if z then 0 else x.accElem zd r c) ((List.range 128).map fun k => (BitVec.ofNat 8 (x.tileByte ta (128 * r + k))).toInt)
    ((List.range 128).map fun k => (BitVec.ofNat 8 (x.tileByte tb (128 * c + k))).toInt)

theorem productOut_int8 (x : Mtx) (z : Bool) (tb ta zd : BitVec 3) : productOut x false z false 10 10 0 tb ta zd =
    ([.acc zd.toNat (accBytes ((List.range 16).flatMap fun r => (List.range 16).map (int8Element x z tb ta zd r)))], 0) := by
  show (([VOut.acc zd.toNat (accBytes ((cross ((tileRows 8 128 (look 0 x.t ta.toNat)).map fun r => r.map (IFmt.decode ⟨8, true⟩))
    ((tileRows 8 128 (look 0 x.t tb.toNat)).map fun c => c.map (IFmt.decode ⟨8, true⟩))).map fun p =>
      intElement (if z then 0 else x.accElem zd p.1.1 p.1.2) p.2.1 p.2.2))], 0) : List VOut × BitVec 6) = _
  rw [tileRows_map, tileRows_map, cross_map_map]
  simp only [int8_row]
  rfl

theorem int8_clause (z : Bool) (tb ta zd : BitVec 3) (hr : (s.blk b).mtx.array = e :: rest) (hi : e.instr = .mma b z false 10 10 tb ta zd)
    (h2 : s.branchTicks b 2 = true) :
    let x := (s.blk b).mtx
    let val := fun (t : BitVec 3) (i k : Nat) => (BitVec.ofNat 8 (x.tileByte t (128 * i + k))).toInt
    ∃ t, exec (.matrixUnitComplete b .array none []) s = .next t ∧ (t.blk b).mtx.array = rest ∧ (t.blk b).mtx.ops = x.ops + 1 ∧
      (∀ r < 16, ∀ c < 16, ((t.blk b).mtx.accElem zd r c : Int) =
        (((if z then 0 else x.accElem zd r c : Nat) : Int) + ((List.range 128).map fun k => val ta r k * val tb c k).sum) % 2 ^ 32) ∧
      (∀ n, n ≠ zd.toNat → look 0 (t.blk b).mtx.z n = look 0 x.z n) ∧ (t.blk b).mtx.t = x.t ∧ (t.blk b).fp = (s.blk b).fp ∧
      (t.blk b).vec = (s.blk b).vec ∧ (t.blk b).ls = (s.blk b).ls := by
  intro x val
  have hout : ∀ busy, engineOut ((s.blk b).leftArray busy) e [] =
      ([.acc zd.toNat (accBytes ((List.range 16).flatMap fun r => (List.range 16).map (int8Element x z tb ta zd r)))], 0) := fun busy => by
    unfold engineOut
    rw [hi]
    exact productOut_int8 _ z tb ta zd
  obtain ⟨harr, hops, hz, hne, ht, hfp, hvec, hls⟩ := completeArray_parts hout
  refine ⟨_, array_completes hr h2, by rw [harr, hr, List.tail_cons], hops, fun r hr c hc => ?_, hne, ht, ?_, hvec, hls⟩
  · rw [hz, accElem_stored (s.blk b) zd (int8Element x z tb ta zd) hr hc, Int.natCast_mod, int8Element, intElement_cast]
    exact Int.emod_emod_of_dvd _ (Int.dvd_refl _)
  · have h0 : ∀ f : BitVec 6, f ||| 0 = f := fun f => BitVec.or_zero
    rw [hfp, h0]

/-! ## Floating-point products -/

/-- The element that a floating-point product leaves, and its flags. -/
def fltProduct (x : Mtx) (mx z mode : Bool) (typb typa : BitVec 4) (ts tb ta zd : BitVec 3) (r c : Nat) : Nat × BitVec 6 :=
  let k := tileK typa.toNat
  let row := fun (t : BitVec 3) (ty i : Nat) =>
    (chop (tileBits ty) k ((look 0 x.t t.toNat).toNat / 2 ^ (tileBits ty * k * i))).map (tileValue mx ty)
  let scale := fun i => chop 8 (k / 32) ((look 0 x.t ts.toNat).toNat / 2 ^ (8 * i))
  fltElement mode (if z then none else some (x.accElem zd r c)) (row ta typa.toNat r) (row tb typb.toNat c)
    (if mx then some (scale (k / 32 * r), scale (1024 + k / 32 * c)) else none)

/-- The pairs of a product, in the order of its elements. -/
def pairs : List (Nat × Nat) := (List.range 16).flatMap fun r => (List.range 16).map fun c => (r, c)

/-- The scales of row `r` and of column `c`. -/
theorem scaleRows_getD (n : Nat) (t : BitVec 16384) {r : Nat} (h : r < 16) :
    ((scaleRows n t).1[r]?).getD [] = chop 8 n (t.toNat / 2 ^ (8 * (n * r))) ∧
      ((scaleRows n t).2[r]?).getD [] = chop 8 n (t.toNat / 2 ^ (8 * (1024 + n * r))) := by
  rw [scaleRows, List.getElem?_map, List.getElem?_map, List.getElem?_range h, Option.map_some, Option.map_some, Nat.mul_assoc]
  exact ⟨rfl, rfl⟩

/-- A product whose inputs are no integers takes the floating-point elements. -/
theorem productOut_flt (x : Mtx) (mx z mode : Bool) (typb typa : BitVec 4) (ts tb ta zd : BitVec 3)
    (h : mx = false → ∀ i, vType typa.toNat ≠ some (.int i)) : productOut x mx z mode typb typa ts tb ta zd =
    ([.acc zd.toNat (accBytes ((List.range 16).flatMap fun r => (List.range 16).map fun c =>
      (fltProduct x mx z mode typb typa ts tb ta zd r c).1))],
      (pairs.map fun p => (fltProduct x mx z mode typb typa ts tb ta zd p.1 p.2).2).foldl (fun f g => f ||| g) 0) := by
  have hl : ∀ l : List (Nat × BitVec 6), l = pairs.map (fun p => fltProduct x mx z mode typb typa ts tb ta zd p.1 p.2) →
      (([VOut.acc zd.toNat (accBytes (l.map Prod.fst))], l.foldl (fun f p => f ||| p.2) 0) : List VOut × BitVec 6) =
      ([.acc zd.toNat (accBytes ((List.range 16).flatMap fun r => (List.range 16).map fun c =>
      (fltProduct x mx z mode typb typa ts tb ta zd r c).1))],
      (pairs.map fun p => (fltProduct x mx z mode typb typa ts tb ta zd p.1 p.2).2).foldl (fun f g => f ||| g) 0) := fun l hl => by
    subst hl
    rw [List.foldl_map, List.foldl_map, List.map_map, pairs, List.map_flatMap]
    simp only [List.map_map]
    rfl
  have helem : ∀ r c, r < 16 → c < 16 → fltElement mode (if z then none else some (x.accElem zd r c))
      ((chop (tileBits typa.toNat) (tileK typa.toNat) ((look 0 x.t ta.toNat).toNat / 2 ^ (tileBits typa.toNat * tileK typa.toNat * r))).map (tileValue mx typa.toNat))
      ((chop (tileBits typb.toNat) (tileK typa.toNat) ((look 0 x.t tb.toNat).toNat / 2 ^ (tileBits typb.toNat * tileK typa.toNat * c))).map (tileValue mx typb.toNat))
      (if mx then some (((scaleRows (tileK typa.toNat / 32) (look 0 x.t ts.toNat)).1[r]?).getD [],
        ((scaleRows (tileK typa.toNat / 32) (look 0 x.t ts.toNat)).2[c]?).getD []) else none) = fltProduct x mx z mode typb typa ts tb ta zd r c :=
    fun r c hr hc => by
      rw [(scaleRows_getD _ _ hr).1, (scaleRows_getD _ _ hc).2]
      rfl
  have hflt : ∀ l, l = pairs.map (fun p => fltProduct x mx z mode typb typa ts tb ta zd p.1 p.2) → productOut x mx z mode typb typa ts tb ta zd =
      (([VOut.acc zd.toNat (accBytes (l.map Prod.fst))], l.foldl (fun f p => f ||| p.2) 0) : List VOut × BitVec 6) := fun l hl => by
    have hl' : l = (cross ((tileRows (tileBits typa.toNat) (tileK typa.toNat) (look 0 x.t ta.toNat)).map fun r => r.map (tileValue mx typa.toNat))
        ((tileRows (tileBits typb.toNat) (tileK typa.toNat) (look 0 x.t tb.toNat)).map fun c => c.map (tileValue mx typb.toNat))).map fun p =>
          fltElement mode (if z then none else some (x.accElem zd p.1.1 p.1.2)) p.2.1 p.2.2
            (if mx then some (((scaleRows (tileK typa.toNat / 32) (look 0 x.t ts.toNat)).1[p.1.1]?).getD [],
              ((scaleRows (tileK typa.toNat / 32) (look 0 x.t ts.toNat)).2[p.1.2]?).getD []) else none) := by
      rw [hl, tileRows_map, tileRows_map, cross_map_map, pairs, List.map_flatMap]
      refine List.flatMap_congr fun r hr => ?_
      rw [List.map_map]
      exact List.map_congr_left fun c hc => (helem r c (List.mem_range.mp hr) (List.mem_range.mp hc)).symm
    rw [hl']
    unfold productOut
    dsimp only
    split
    · exact absurd ‹vType typa.toNat = _› (h rfl _)
    · rfl
  rw [hflt _ rfl, hl _ rfl]

/-- Which flags 256 elements raise. -/
theorem flags_pairs (f : Nat → Nat → BitVec 6) (i : Nat) : ((pairs.map fun p : Nat × Nat => f p.1 p.2).foldl (fun f g => f ||| g) 0).getLsbD i =
    (List.range 256).any fun j => (f (j / 16) (j % 16)).getLsbD i := by
  have hfold : ∀ (l : List (BitVec 6)) (a : BitVec 6), (l.foldl (fun f g => f ||| g) a).getLsbD i = (a.getLsbD i || l.any fun g => g.getLsbD i) := fun l => by
    induction l with
    | nil => intro a; simp
    | cons g l ih => intro a; rw [List.foldl_cons, ih, BitVec.getLsbD_or, List.any_cons, Bool.or_assoc]
  have h0 : (0 : BitVec 6).getLsbD i = false := BitVec.getLsbD_zero
  rw [hfold, h0, Bool.false_or, Bool.eq_iff_iff, List.any_eq_true, List.any_eq_true]
  constructor
  · rintro ⟨g, hg, hi⟩
    obtain ⟨p, hp, rfl⟩ := List.mem_map.mp hg
    obtain ⟨r, hr, hp⟩ := List.mem_flatMap.mp hp
    obtain ⟨c, hc, rfl⟩ := List.mem_map.mp hp
    have hr := List.mem_range.mp hr
    have hc := List.mem_range.mp hc
    refine ⟨16 * r + c, List.mem_range.mpr (by omega), ?_⟩
    rwa [show (16 * r + c) / 16 = r by omega, show (16 * r + c) % 16 = c by omega]
  · rintro ⟨j, hj, hi⟩
    have hj := List.mem_range.mp hj
    exact ⟨_, List.mem_map.mpr ⟨(j / 16, j % 16), List.mem_flatMap.mpr ⟨j / 16, List.mem_range.mpr (by omega),
      List.mem_map.mpr ⟨j % 16, List.mem_range.mpr (by omega), rfl⟩⟩, rfl⟩, hi⟩

/-- The pair of types of a floating-point product names no integer. -/
theorem vType_flt {mode : Bool} {typb typa : BitVec 4} (h : pairOk false mode typa.toNat typb.toNat = true) (h9 : typa ≠ 9) (h10 : typa ≠ 10)
    (i : IFmt) : vType typa.toNat ≠ some (.int i) := by
  have hall : ∀ (mode : Bool) (typa typb : BitVec 4), pairOk false mode typa.toNat typb.toNat = true → typa ≠ 9 → typa ≠ 10 →
      typa.toNat ≠ 9 ∧ typa.toNat < 10 := by decide
  obtain ⟨hn, hlt⟩ := hall mode typa typb h h9 h10
  generalize typa.toNat = n at hn hlt
  intro hv
  interval_cases n <;> simp_all [vType]

theorem flt_clause (mx z mode : Bool) (typb typa : BitVec 4) (ts tb ta zd : BitVec 3) (hr : (s.blk b).mtx.array = e :: rest)
    (h2 : s.branchTicks b 2 = true) (hm : mx = false → e.instr = .mma b z mode typb typa tb ta zd ∧ typa ≠ 9 ∧ typa ≠ 10)
    (hx : mx = true → e.instr = .mmx b z mode typb typa ts tb ta zd) (hp : pairOk mx mode typa.toNat typb.toNat = true) :
    let elem := fltProduct (s.blk b).mtx mx z mode typb typa ts tb ta zd
    ∃ t, exec (.matrixUnitComplete b .array none []) s = .next t ∧ (t.blk b).mtx.array = rest ∧
      (∀ r < 16, ∀ c < 16, (t.blk b).mtx.accElem zd r c = (elem r c).1 % 2 ^ 32) ∧
      (∀ n, n ≠ zd.toNat → look 0 (t.blk b).mtx.z n = look 0 (s.blk b).mtx.z n) ∧ (t.blk b).mtx.t = (s.blk b).mtx.t ∧
      (∀ i < 6, (t.blk b).fp.flags.getLsbD i = ((s.blk b).fp.flags.getLsbD i ||
        (List.range 256).any fun j => (elem (j / 16) (j % 16)).2.getLsbD i)) ∧
      (t.blk b).vec = (s.blk b).vec ∧ (t.blk b).ls = (s.blk b).ls := by
  intro elem
  have hout : ∀ busy, engineOut ((s.blk b).leftArray busy) e [] =
      ([.acc zd.toNat (accBytes ((List.range 16).flatMap fun r => (List.range 16).map fun c => (elem r c).1))],
        (pairs.map fun p => (elem p.1 p.2).2).foldl (fun f g => f ||| g) 0) := fun busy => by
    unfold engineOut
    cases mx with
    | false =>
      obtain ⟨hi, h9, h10⟩ := hm rfl
      rw [hi]
      exact productOut_flt _ false z mode typb typa ts tb ta zd fun _ => vType_flt hp h9 h10
    | true =>
      rw [hx rfl]
      exact productOut_flt _ true z mode typb typa ts tb ta zd fun h => nomatch h
  obtain ⟨harr, -, hz, hne, ht, hfp, hvec, hls⟩ := completeArray_parts hout
  refine ⟨_, array_completes hr h2, by rw [harr, hr, List.tail_cons], fun r hr c hc => ?_, hne, ht, fun i _ => ?_, hvec, hls⟩
  · rw [hz, accElem_stored (s.blk b) zd (fun r c => (elem r c).1) hr hc]
  · rw [hfp]
    show ((s.blk b).fp.flags ||| _).getLsbD i = _
    rw [BitVec.getLsbD_or, flags_pairs fun r c => (elem r c).2]

end Sys2Proof.Machine

/-- Settles O33: the accumulator takes the 256 elements in the order of their pairs of row and column. -/
theorem matrixProductsComplete : Obligations.MatrixProductsComplete := by
  unfold Obligations.MatrixProductsComplete
  exact ⟨fun s b e rest z tb ta zd hr hi h2 => int8_clause z tb ta zd hr hi h2,
    fun s b e rest mx z mode typb typa ts tb ta zd hr h2 hm hx hp => flt_clause mx z mode typb typa ts tb ta zd hr h2 hm hx hp⟩
end

/-! # Vector arithmetic: the proofs -/
section
open Sys2Proof Sys2Proof.Machine
namespace Sys2Proof.Machine

/-! ## Element widths -/

theorem fty_width (ty : FTy) : 16384 / ty.fmt.width * ty.fmt.width = 16384 ∧ 16 ≤ ty.fmt.width := by cases ty <;> decide

theorem ity_width (ty : ITy) : 16384 / ty.width * ty.width = 16384 := by cases ty <;> decide

theorem arith_width (op : VArith) : 16384 / op.width * op.width = 16384 := by
  cases op with
  | flt fn ty => exact (fty_width ty).1
  | int fn ty => exact ity_width ty

theorem groupSize_le (g : BitVec 2) : groupSize g ≤ 8 := by
  have hall : ∀ g : BitVec 2, groupSize g ≤ 8 := by decide
  exact hall g

/-- The elements of an operand fill registers of the file no more than a write of them may. -/
theorem arith_fits (op : VArith) (g : BitVec 2) :
    elemCount (groupSize g) op.width ≤ 64 * (16384 / (if op.isWma then 32 else op.width)) := by
  have hg := groupSize_le g
  have hone : groupSize g * (16384 / op.width) ≤ 8 * (16384 / op.width) := Nat.mul_le_mul_right _ hg
  unfold elemCount
  cases op with
  | flt fn ty =>
    have hw := (fty_width ty).2
    have h16 : 16384 / ty.fmt.width ≤ 16384 / 16 := Nat.div_le_div_left hw (by decide)
    show _ ≤ 64 * (16384 / (if VArith.isWma (.flt fn ty) then 32 else ty.fmt.width))
    replace hone : groupSize g * (16384 / VArith.width (.flt fn ty)) ≤ 8 * (16384 / ty.fmt.width) := hone
    split <;> omega
  | int fn ty =>
    show _ ≤ 64 * (16384 / ty.width)
    replace hone : groupSize g * (16384 / VArith.width (.int fn ty)) ≤ 8 * (16384 / ty.width) := hone
    omega

theorem arith_destination (op : VArith) : 16384 / (if op.isWma then 32 else op.width) * (if op.isWma then 32 else op.width) = 16384 := by
  split
  · decide
  · exact arith_width op

/-! ## Operands -/

/-- The table of the arcade's lines. -/
theorem look_lines (ac : Tab AcLine) {q : Nat} (h : q < 16) :
    look 0 ((List.range 16).foldl (fun t i => store 0 t i (look AcLine.reset ac i).data) []) q = (look AcLine.reset ac q).data := by
  have hall : ∀ n, q < n → look 0 ((List.range n).foldl (fun t i => store 0 t i (look AcLine.reset ac i).data) []) q = (look AcLine.reset ac q).data := fun n => by
    induction n with
    | zero => intro h; omega
    | succ n ih =>
      intro hq
      rw [List.range_succ, List.foldl_append, List.foldl_cons, List.foldl_nil]
      by_cases hn : q = n
      · rw [hn, look_store_same]
      · rw [look_store_ne _ _ _ hn]
        exact ih (by omega)
  exact hall 16 h

/-- Element `i` of the b operand of a form. -/
def Vec.formElem (x : Vec) (form : VForm) (vb : Reg) (scalar : W64) (w i : Nat) : Nat :=
  match form with
  | .vv => x.elem vb.toNat w i
  | .vs => scalar.toNat % 2 ^ w
  | .va => (look AcLine.reset x.ac (vb.toNat + i * w / 16384)).data.toNat / 2 ^ (i * w % 16384) % 2 ^ w

/-- The b operand is its elements. -/
theorem formElems_eq (x : Vec) (form : VForm) (vb : Reg) (scalar : W64) {w e : Nat} (he : e * w = 16384) (g : Nat)
    (h : form = .va → vb.toNat + g ≤ 16 ∧ vb.toNat < 16) :
    x.formElems form vb scalar w (g * e) = (List.range (g * e)).map (x.formElem form vb scalar w) := by
  cases form with
  | vv => exact elems_eq x vb he _
  | vs => exact (List.map_const' ..).symm ▸ by rw [List.length_range]; rfl
  | va =>
    obtain ⟨hg, hv⟩ := h rfl
    show groupElems _ (vb.toNat % 16) w _ _ = _
    rw [groupElems_eq _ he _ _ _ (regCount_holds he _), Nat.mod_eq_of_lt hv]
    refine List.map_congr_left fun i hi => ?_
    have hi := List.mem_range.mp hi
    have hlt : i * w < g * e * w := Nat.mul_lt_mul_of_pos_right hi (width_pos he)
    rw [Nat.mul_assoc, he] at hlt
    rw [elemAt, look_lines _ (by omega)]
    rfl

/-- What one element of an arithmetic operation takes, and the flags that it raises. -/
def Vec.arithElem (x : Vec) (e : QEntry) (op : VArith) (form : VForm) (vb va vd : Reg) (i : Nat) : Nat × BitVec 6 :=
  match op with
  | .flt fn ty => fltElem fn ty.fmt (Rm.of e.rm) (x.elem va.toNat op.width i) (x.formElem form vb e.sb op.width i)
      (x.elem vd.toNat (if op.isWma then 32 else op.width) i)
  | .int fn ty => intElem fn ty.width i (x.elem va.toNat op.width i) (x.formElem form vb e.sb op.width i)
      (x.elem vd.toNat (if op.isWma then 32 else op.width) i)

theorem zip_range_map {α : Type} (n : Nat) (F : Nat → α) : (List.range n).zip ((List.range n).map F) = (List.range n).map fun i => (i, F i) := by
  have h := List.zip_map' (f := id) (g := F) (l := List.range n)
  rwa [List.map_id] at h

/-- The piece and the flags of vector arithmetic. -/
theorem arithOut_eq (x : Vec) (e : QEntry) (op : VArith) (form : VForm) (vm : BitVec 3) (vb va vd : Reg)
    (h : form = .va → vb.toNat + groupSize e.grp ≤ 16 ∧ vb.toNat < 16) :
    let l := List.range (elemCount (groupSize e.grp) op.width)
    let dw := if op.isWma then 32 else op.width
    arithOut x e [] op form vm vb va vd =
      ([.elems vd.toNat 0 dw 1 (l.map fun i => if x.isActive vm op.width i then (x.arithElem e op form vb va vd i).1 else x.elem vd.toNat dw i)],
        l.foldr (fun i f => (if x.isActive vm op.width i then (x.arithElem e op form vb va vd i).2 else 0) ||| f) 0) := by
  intro l dw
  have ha : x.elems va op.width (elemCount (groupSize e.grp) op.width) = l.map (x.elem va.toNat op.width) := elems_eq x va (arith_width op) _
  have hb : x.formElems form vb e.sb op.width (elemCount (groupSize e.grp) op.width) = l.map (x.formElem form vb e.sb op.width) :=
    formElems_eq x form vb e.sb (arith_width op) _ h
  have hd : x.elems vd dw (elemCount (groupSize e.grp) op.width) = l.map (x.elem vd.toNat dw) := elems_eq x vd (arith_destination op) _
  have hm := merge_map l (x.isActive vm op.width) (x.arithElem e op form vb va vd) (x.elem vd.toNat dw)
  unfold arithOut
  dsimp only
  rw [ha, hb, hd, active_eq]
  cases op with
  | flt fn ty =>
    dsimp only [quiet]
    rw [if_pos rfl, List.zip_map', List.zip_map', List.map_map]
    exact (congrArg (fun r : List Nat × BitVec 6 => (([VOut.elems vd.toNat 0 dw 1 r.1], r.2) : List VOut × BitVec 6)) hm)
  | int fn ty =>
    dsimp only [quiet, positions]
    rw [if_pos rfl, List.zip_map', List.zip_map', zip_range_map, List.map_map]
    exact (congrArg (fun r : List Nat × BitVec 6 => (([VOut.elems vd.toNat 0 dw 1 r.1], r.2) : List VOut × BitVec 6)) hm)

/-! ## Completion -/

variable {s : State} {b : BlockId} {e : QEntry} {rest : List QEntry}

/-- The vector engine completes its oldest instruction. -/
theorem vector_completes (hr : (s.blk b).vec.run = e :: rest) (hu : matrixUnit e.instr = none) (h1 : s.branchTicks b 1 = true)
    (hm : isVecMem e.instr = false) : exec (.vectorEngineComplete b none []) s = .next (s.completeVec b e none []) := by
  show Host.Outcome.next (vectorEngineComplete b none [] s) = _
  unfold vectorEngineComplete
  rw [hr]
  refine congrArg Host.Outcome.next (if_pos ?_)
  unfold State.engineTicks
  rw [hu, hm, h1]
  rfl

/-- Elements that an instruction writes: what else it leaves. -/
theorem completeVec_elems {r lo w u : Nat} {l : List Nat} {fl : BitVec 6} (h : engineOut ((s.blk b).leftVec e) e [] = ([.elems r lo w u l], fl)) :
    ((s.completeVec b e none []).blk b).vec.run = (s.blk b).vec.run.tail ∧
    ((s.completeVec b e none []).blk b).vec.v = putElems (s.blk b).vec.v r lo w 64 l ∧
    ((s.completeVec b e none []).blk b).fp.flags = (s.blk b).fp.flags ||| fl ∧
    ((s.completeVec b e none []).blk b).vec.m = (s.blk b).vec.m ∧ ((s.completeVec b e none []).blk b).vec.ac = (s.blk b).vec.ac ∧
    ((s.completeVec b e none []).blk b).ls = (s.blk b).ls ∧ ((s.completeVec b e none []).blk b).core = (s.blk b).core := by
  rw [completeVec_one h]
  exact ⟨rfl, rfl, rfl, rfl, rfl, rfl, rfl⟩

/-- The flags of the active elements, one after the other. -/
theorem active_flags (l : List Nat) (A : Nat → Bool) (F : Nat → BitVec 6) (fl : BitVec 6) :
    fl ||| l.foldr (fun i f => (if A i then F i else 0) ||| f) 0 = (l.filter A).foldl (fun f i => f ||| F i) fl := by
  have h0 : ∀ f : BitVec 6, f ||| 0 = f := fun f => BitVec.or_zero
  induction l generalizing fl with
  | nil => exact h0 fl
  | cons i l ih =>
    rw [List.foldr_cons, List.filter_cons, ← BitVec.or_assoc, ih]
    split
    · rfl
    · rw [h0]

theorem arith_clause (op : VArith) (form : VForm) (vm : BitVec 3) (vb va vd : Reg) (hr : (s.blk b).vec.run = e :: rest)
    (hi : e.instr = .vectorArithmetic b op form vm vb va vd) (h1 : s.branchTicks b 1 = true)
    (hva : form = .va → vb.toNat + groupSize e.grp ≤ 16 ∧ vb.toNat < 16) :
    let x := (s.blk b).vec
    let dw := if op.isWma then 32 else op.width
    let n := elemCount (groupSize e.grp) op.width
    let new := x.arithElem e op form vb va vd
    ∃ t, exec (.vectorEngineComplete b none []) s = .next t ∧ (t.blk b).vec.run = rest ∧
      (∀ i < n, (t.blk b).vec.elem vd.toNat dw i = if x.isActive vm op.width i then (new i).1 % 2 ^ dw else x.elem vd.toNat dw i) ∧
      (∀ r, (r < vd.toNat ∨ vd.toNat + regCount n dw ≤ r) → look 0 (t.blk b).vec.v r = look 0 x.v r) ∧
      (t.blk b).fp.flags = ((List.range n).filter fun i => x.isActive vm op.width i).foldl (fun f i => f ||| (new i).2) (s.blk b).fp.flags ∧
      (t.blk b).vec.m = x.m ∧ (t.blk b).vec.ac = x.ac ∧ (t.blk b).ls = (s.blk b).ls ∧ (t.blk b).core = (s.blk b).core := by
  intro x dw n new
  have hout := arithOut_eq x e op form vm vb va vd hva
  have heng : engineOut ((s.blk b).leftVec e) e [] = arithOut x e [] op form vm vb va vd := by
    unfold engineOut
    rw [hi]
    rfl
  obtain ⟨hrun, hv, hfl, hm, hac, hls, hcore⟩ := completeVec_elems (heng.trans hout)
  refine ⟨_, vector_completes hr (by rw [hi]; rfl) h1 (by rw [hi]; rfl), by rw [hrun, hr, List.tail_cons], fun i hin => ?_, fun r hrr => ?_, ?_,
    hm, hac, hls, hcore⟩
  · have hlen : ((List.range n).map fun i => if x.isActive vm op.width i then (new i).1 else x.elem vd.toNat dw i).length = n := by simp
    rw [elem_eq, hv, elemAt_putElems _ (arith_destination op) _ _ _ (by rw [hlen]; exact arith_fits op e.grp) (by rw [hlen]; exact hin),
      List.getElem?_map, List.getElem?_range hin, Option.map_some, Option.getD_some]
    split
    · rfl
    · exact Nat.mod_mod _ _
  · rw [hv]
    refine look_putElems_outside _ (arith_destination op) _ _ _ ?_
    rw [List.length_map, List.length_range]
    exact hrr
  · rw [hfl]
    exact active_flags _ _ _ _

/-! ## Integer elements (R247) -/

theorem bitsOfInt_lt (w : Nat) (v : Int) : bitsOfInt w v < 2 ^ w := by
  have h : ((bitsOfInt w v : Nat) : Int) < 2 ^ w := by
    rw [bitsOfInt_cast]
    exact Int.emod_lt_of_pos _ (by positivity)
  exact_mod_cast h

theorem bitsOfInt_ofNat (w : Nat) (v : Int) : BitVec.ofNat w (bitsOfInt w v) = BitVec.ofInt w v := by
  refine BitVec.eq_of_toNat_eq ?_
  rw [BitVec.toNat_ofNat, Nat.mod_eq_of_lt (bitsOfInt_lt w v), BitVec.toNat_ofInt, bitsOfInt]
  push_cast
  rfl

/-- A saturated value reads as the nearest value that its width holds. -/
theorem narrow_toInt {w : Nat} (hw : 0 < w) (v : Int) :
    (BitVec.ofNat w (bitsOfInt w (IFmt.narrow ⟨w, true⟩ v).1)).toInt = max (-(2 ^ (w - 1))) (min (2 ^ (w - 1) - 1) v) := by
  have hp : (0 : Int) < 2 ^ (w - 1) := by positivity
  have hn : (IFmt.narrow ⟨w, true⟩ v).1 = max (-(2 ^ (w - 1))) (min (2 ^ (w - 1) - 1) v) := by
    show (if v < -(2 ^ (w - 1)) then ((-(2 ^ (w - 1)) : Int), fSAT) else if 2 ^ (w - 1) - 1 < v then (2 ^ (w - 1) - 1, fSAT) else (v, 0)).1 = _
    generalize (2 : Int) ^ (w - 1) = m at hp ⊢
    split
    · dsimp only; omega
    · split <;> dsimp only <;> omega
  rw [bitsOfInt_ofNat, hn]
  exact BitVec.toInt_ofInt_eq_self hw (by omega) (by omega)

/-- The smaller of two signed elements, and the larger. -/
theorem signed_choice (w x y : Nat) :
    (BitVec.ofNat w (if sIntOf w x < sIntOf w y then x else y)).toInt = min (BitVec.ofNat w x).toInt (BitVec.ofNat w y).toInt ∧
    (BitVec.ofNat w (if sIntOf w x < sIntOf w y then y else x)).toInt = max (BitVec.ofNat w x).toInt (BitVec.ofNat w y).toInt := by
  rw [sIntOf_toInt, sIntOf_toInt]
  split
  · exact ⟨by omega, by omega⟩
  · exact ⟨by omega, by omega⟩

/-- Every operation but the saturating ones raises no flag. -/
theorem intElem_flags (fn : VIntFn) (w i x y z : Nat) (h : fn ≠ .sadd) (k : fn ≠ .ssub) : (intElem fn w i x y z).2 = 0 := by
  cases fn with
  | sadd => exact absurd rfl h
  | ssub => exact absurd rfl k
  | _ => rfl

theorem intElem_values {w : Nat} (hw : 0 < w) (i x y z : Nat) :
    let a := (BitVec.ofNat w x).toInt
    let b := (BitVec.ofNat w y).toInt
    let r fn := (intElem fn w i x y z).1
    r .add = (x + y) % 2 ^ w ∧ ((r .sub : Nat) : Int) = (a - b) % 2 ^ w ∧ r .mul = x * y % 2 ^ w ∧
    ((r .mulh : Nat) : Int) = a * b / 2 ^ w % 2 ^ w ∧
    r .and = x &&& y ∧ r .or = x ||| y ∧ r .xor = x ^^^ y ∧
    r .sll = x * 2 ^ (y % w) % 2 ^ w ∧ r .srl = x / 2 ^ (y % w) ∧ ((r .sra : Nat) : Int) = a / 2 ^ (y % w) % 2 ^ w ∧
    (BitVec.ofNat w (r .min)).toInt = min a b ∧ (BitVec.ofNat w (r .max)).toInt = max a b ∧ r .minu = min x y ∧ r .maxu = max x y ∧
    (BitVec.ofNat w (r .sadd)).toInt = max (-(2 ^ (w - 1))) (min (2 ^ (w - 1) - 1) (a + b)) ∧
    (BitVec.ofNat w (r .ssub)).toInt = max (-(2 ^ (w - 1))) (min (2 ^ (w - 1) - 1) (a - b)) ∧
    r .macc = (z + x * y) % 2 ^ w ∧ r .mv = y ∧ r .vid = i % 2 ^ w ∧
    (∀ fn, fn ≠ .sadd → fn ≠ .ssub → (intElem fn w i x y z).2 = 0) := by
  intro a b r
  have ha : sIntOf w x = a := sIntOf_toInt w x
  have hb : sIntOf w y = b := sIntOf_toInt w y
  have hsub : ((r .sub : Nat) : Int) = (sIntOf w x - sIntOf w y) % 2 ^ w := bitsOfInt_cast w _
  have hmulh : ((r .mulh : Nat) : Int) = sIntOf w x * sIntOf w y / 2 ^ w % 2 ^ w := bitsOfInt_cast w _
  have hsra : ((r .sra : Nat) : Int) = sIntOf w x / 2 ^ (y % w) % 2 ^ w := bitsOfInt_cast w _
  have hsadd := narrow_toInt hw (sIntOf w x + sIntOf w y)
  have hssub := narrow_toInt hw (sIntOf w x - sIntOf w y)
  rw [ha, hb] at hsub hmulh hsadd hssub
  rw [ha] at hsra
  exact ⟨rfl, hsub, rfl, hmulh, rfl, rfl, rfl, rfl, rfl, hsra, (signed_choice w x y).1, (signed_choice w x y).2, rfl, rfl, hsadd, hssub, rfl, rfl,
    rfl, fun fn => intElem_flags fn w i x y z⟩

end Sys2Proof.Machine

/-- Settles O30: the destination group takes the merged list of its elements, and each integer operation is arithmetic on the numbers of its operands. -/
theorem vectorArithmeticCompletes : Obligations.VectorArithmeticCompletes := by
  unfold Obligations.VectorArithmeticCompletes
  refine ⟨fun s b e rest op form vm vb va vd hr hi h1 hv => ?_, fun w i x y z hw _ _ _ => intElem_values (by omega) i x y z⟩
  intro x w dw n bOf new hg
  have hnew : new = x.arithElem e op form vb va vd := by
    funext i
    cases op <;> cases form <;> rfl
  have h := arith_clause op form vm vb va vd hr hi h1 fun hf => ⟨hg hf, hv hf⟩
  rw [hnew]
  exact h
end

/-! # Vector compares, mask operations, reductions and checksum: the proofs -/
section
open Sys2Proof Sys2Proof.Machine
namespace Sys2Proof.Machine

variable {s : State} {b : BlockId} {e : QEntry} {rest : List QEntry}

/-- No piece of a result puts an instruction into the vector engine. -/
theorem putOut_run (x : Block) (o : VOut) : (x.putOut o).vec.run = x.vec.run := by
  cases o with
  | mem eb l =>
    show (l.foldl Block.stored x).vec.run = _
    induction l generalizing x with
    | nil => rfl
    | cons p l ih => rw [List.foldl_cons, ih]; cases p <;> rfl
  | mask m l =>
    show (x.vec.setMask m (pack 1 l)).run = _
    unfold Vec.setMask
    split <;> rfl
  | _ => rfl

theorem completeVec_run : ((s.completeVec b e none []).blk b).vec.run = (s.blk b).vec.run.tail := by
  have hall : ∀ (l : List VOut) (u : State), ((l.foldl (fun s o => s.putOut b o) u).blk b).vec.run = (u.blk b).vec.run := fun l => by
    induction l with
    | nil => intro u; rfl
    | cons o l ih => intro u; rw [List.foldl_cons, ih, blk_putOut, putOut_run]
  rw [completeVec_plain, State.putOuts, State.orFlags, blk_modBlk_same]
  refine (hall _ _).trans ?_
  rw [blk_modBlk_same]
  rfl

/-- A scalar result goes to its register. -/
theorem completeVec_scalar {r : Reg} {v : Nat} {fl : BitVec 6} (h : engineOut ((s.blk b).leftVec e) e [] = ([.scalar false r v], fl)) :
    (s.completeVec b e none []).wrote b false r (BitVec.ofNat 64 v) := by
  unfold State.wrote
  refine ⟨fun h => absurd h Bool.false_ne_true, fun _ => ?_⟩
  show ((s.completeVec b e none []).blk b).core.getG r = _
  rw [completeVec_one h]
  exact Core.getG_setG_same _ r _

/-! ## Mask registers -/

theorem bit_of_field (v i : Nat) : (v / 2 ^ (1 * i) % 2 ^ 1).testBit 0 = v.testBit i := by
  rw [field_testBit, Nat.one_mul, Nat.add_zero]
  rfl

/-- A bit of a word packed of bits. -/
theorem ofNat_pack_bit (N : Nat) (l : List Nat) {i : Nat} : (BitVec.ofNat N (pack 1 l)).toNat.testBit i = (decide (i < N) && ((l[i]?).getD 0).testBit 0) := by
  have h : (pack 1 l).testBit i = ((l[i]?).getD 0 % 2 ^ 1).testBit 0 := by rw [← pack_field, bit_of_field]
  rw [BitVec.toNat_ofNat, Nat.testBit_mod_two_pow, h, Nat.testBit_mod_two_pow]
  rfl

/-- A bit of a mask register that a completion wrote. -/
theorem completeVec_mask {m : Nat} {l : List Nat} {fl : BitVec 6} (h : engineOut ((s.blk b).leftVec e) e [] = ([.mask m l], fl)) (hm : m ≠ 0) (i : Nat) :
    (((s.completeVec b e none []).blk b).vec.mask m).testBit i = (decide (i < 2048) && ((l[i]?).getD 0).testBit 0) := by
  have hset : ∀ (x : Vec) (v : Nat), (x.setMask m v).mask m = (BitVec.ofNat 2048 v).toNat := fun x v => by
    unfold Vec.setMask Vec.mask
    rw [if_neg hm, if_neg hm, look_store_same]
  rw [completeVec_one h]
  show ((((s.blk b).leftVec e).vec.setMask m (pack 1 l)).mask m).testBit i = _
  rw [hset, ofNat_pack_bit]

theorem ones_testBit (N i : Nat) : (2 ^ N - 1).testBit i = decide (i < N) := Nat.testBit_two_pow_sub_one N i

theorem ones_lt (N : Nat) : 2 ^ N - 1 < 2 ^ N := Nat.sub_lt (Nat.two_pow_pos N) Nat.one_pos

theorem toNat_lt_pow {N : Nat} (v : BitVec N) : v.toNat < 2 ^ N := v.isLt

theorem mask_zero (x : Vec) (i : Nat) : (x.mask 0).testBit i = decide (i < 2048) := by
  unfold Vec.mask
  rw [if_pos rfl]
  exact ones_testBit 2048 i

theorem mask_lt (x : Vec) (m : Nat) : x.mask m < 2 ^ 2048 := by
  unfold Vec.mask
  split
  · exact ones_lt 2048
  · exact toNat_lt_pow _

/-- The complement of a mask. -/
theorem testBit_complement {N v : Nat} (h : v < 2 ^ N) (i : Nat) : (2 ^ N - 1 - v).testBit i = (decide (i < N) && !v.testBit i) := by
  rw [Nat.sub_sub, Nat.add_comm]
  exact Nat.testBit_two_pow_sub_succ h i

/-! ## Compares (R258) -/

theorem cmp_width (op : VCmp) : 16384 / op.width * op.width = 16384 ∧ 8 ≤ op.width := by
  cases op with
  | feq ty => exact ⟨(fty_width ty).1, by have := (fty_width ty).2; show 8 ≤ ty.fmt.width; omega⟩
  | flt ty => exact ⟨(fty_width ty).1, by have := (fty_width ty).2; show 8 ≤ ty.fmt.width; omega⟩
  | fle ty => exact ⟨(fty_width ty).1, by have := (fty_width ty).2; show 8 ≤ ty.fmt.width; omega⟩
  | seq ty => cases ty <;> decide
  | slt ty => cases ty <;> decide
  | sltu ty => cases ty <;> decide

/-- The bit that a compare leaves for element `i`. -/
def Vec.cmpBit (x : Vec) (op : VCmp) (vm : BitVec 3) (vb va : Reg) (m i : Nat) : Nat :=
  if x.isActive vm op.width i then boolBit (cmpElem op (x.elem va.toNat op.width i) (x.elem vb.toNat op.width i)).1
  else x.mask m / 2 ^ (1 * i) % 2 ^ 1

theorem compareOut_eq (x : Vec) (e : QEntry) (op : VCmp) (vm : BitVec 3) (vb va vd : Reg) : ∃ fl,
    compareOut x e [] op .vv vm vb va vd = ([.mask (vd.toNat % 8) ((List.range (16384 / op.width)).map (x.cmpBit op vm vb va (vd.toNat % 8)) ++
      List.replicate (2048 - 16384 / op.width) 0)], fl) := by
  have hn : elemCount 1 op.width = 16384 / op.width := Nat.one_mul _
  have ha := elems_eq x va (cmp_width op).1 (16384 / op.width)
  have hb : x.formElems .vv vb e.sb op.width (16384 / op.width) = _ := elems_eq x vb (cmp_width op).1 (16384 / op.width)
  unfold compareOut
  dsimp only [quiet]
  rw [hn, ha, hb, active_eq, chop_eq, if_pos rfl, List.zip_map', List.map_map]
  exact ⟨_, congrArg (fun r : List Nat × BitVec 6 =>
    (([VOut.mask (vd.toNat % 8) (r.1 ++ List.replicate (2048 - 16384 / op.width) 0)], r.2) : List VOut × BitVec 6))
    (merge_map (List.range (16384 / op.width)) (x.isActive vm op.width)
      (fun i => (boolBit (cmpElem op (x.elem va.toNat op.width i) (x.elem vb.toNat op.width i)).1,
        (cmpElem op (x.elem va.toNat op.width i) (x.elem vb.toNat op.width i)).2)) fun i => x.mask (vd.toNat % 8) / 2 ^ (1 * i) % 2 ^ 1)⟩

theorem compare_clause {op : VCmp} {vm : BitVec 3} {vb va vd : Reg} (hi : e.instr = .vectorCompare b op .vv vm vb va vd) (h0 : 0 < vd.toNat)
    (h8 : vd.toNat < 8) :
    let x := (s.blk b).vec
    let t := s.completeVec b e none []
    (∀ i < 16384 / op.width, ((t.blk b).vec.mask vd.toNat).testBit i =
      if x.isActive vm op.width i then (cmpElem op (x.elem va.toNat op.width i) (x.elem vb.toNat op.width i)).1
      else (x.mask vd.toNat).testBit i) ∧
    (∀ i, 16384 / op.width ≤ i → ((t.blk b).vec.mask vd.toNat).testBit i = false) := by
  intro x t
  obtain ⟨fl, hout⟩ := compareOut_eq x e op vm vb va vd
  have heng : engineOut ((s.blk b).leftVec e) e [] = compareOut x e [] op .vv vm vb va vd := by
    unfold engineOut
    rw [hi]
    rfl
  rw [Nat.mod_eq_of_lt h8] at hout
  have hmask := completeVec_mask (heng.trans hout) (by omega)
  have hle : 16384 / op.width ≤ 2048 := Nat.div_le_div_left (cmp_width op).2 (by decide)
  refine ⟨fun i hlt => ?_, fun i hge => ?_⟩
  · rw [hmask, decide_eq_true (show i < 2048 by omega), Bool.true_and, List.getElem?_append_left (by simpa using hlt), List.getElem?_map,
      List.getElem?_range hlt, Option.map_some, Option.getD_some, Vec.cmpBit]
    split
    · cases (cmpElem op (x.elem va.toNat op.width i) (x.elem vb.toNat op.width i)).1 <;> rfl
    · exact bit_of_field _ _
  · rw [hmask, List.getElem?_append_right (by simpa using hge), List.getElem?_replicate]
    split
    · exact Bool.and_false _
    · exact Bool.and_false _

/-! ## Mask operations (R248, R259) -/

/-- How many bits of a number stand at the places of a list. -/
theorem sum_of_bits (v : Nat) (l : List Nat) : (l.map fun i => v / 2 ^ (1 * i) % 2 ^ 1).sum = (l.filter fun i => v.testBit i).length := by
  induction l with
  | nil => rfl
  | cons i l ih =>
    have hlt : v / 2 ^ (1 * i) % 2 ^ 1 < 2 := Nat.mod_lt _ (by decide)
    rw [List.map_cons, List.sum_cons, ih, List.filter_cons, ← bit_of_field]
    generalize v / 2 ^ (1 * i) % 2 ^ 1 = c at hlt ⊢
    interval_cases c
    · exact Nat.zero_add _
    · exact Nat.add_comm _ _

/-- The first place of a list of the values of an interval. -/
theorem findIdx?_map_range {α : Type} (f : Nat → α) (p : α → Bool) (n : Nat) :
    ((List.range n).map f).findIdx? p = (List.range n).find? fun i => p (f i) := by
  induction n with
  | zero => rfl
  | succ n ih =>
    rw [List.range_succ, List.map_append, List.findIdx?_append, List.find?_append, ih]
    refine congrArg _ ?_
    rw [List.map_singleton, List.findIdx?_singleton, List.length_map, List.length_range, List.find?_singleton]
    split
    · exact congrArg some (Nat.zero_add n)
    · rfl

theorem findIdx?_bits (v n : Nat) : (chop 1 n v).findIdx? (fun c => c == 1) = (List.range n).find? fun i => v.testBit i := by
  have hbit : (fun i => v / 2 ^ (1 * i) % 2 ^ 1 == 1) = fun i => v.testBit i := funext fun i => by
    have hlt : v / 2 ^ (1 * i) % 2 ^ 1 < 2 := Nat.mod_lt _ (by decide)
    rw [← bit_of_field]
    generalize v / 2 ^ (1 * i) % 2 ^ 1 = c at hlt ⊢
    interval_cases c <;> rfl
  rw [chop_eq, findIdx?_map_range, hbit]

/-- The bits that a mask operation leaves. -/
def maskBit (fn : MaskFn) (A B : Bool) : Bool :=
  match fn with
  | .mand => A && B | .mor => A || B | .mxor => A != B | .mandn => A && !B | _ => !A

/-- A mask operation that writes a mask register. -/
theorem maskOut_bits (x : Vec) (fn : MaskFn) (vb va vd : Reg) (h1 : fn ≠ .mpopc) (h2 : fn ≠ .mfirst) : ∃ v,
    maskOut x fn vb va vd = ([.mask (vd.toNat % 8) (chop 1 2048 v)], 0) ∧
    ∀ i < 2048, v.testBit i = maskBit fn ((x.mask (va.toNat % 8)).testBit i) ((x.mask (vb.toNat % 8)).testBit i) := by
  have hcomp : ∀ m, ∀ i < 2048, (2 ^ 2048 - 1 - x.mask m).testBit i = !(x.mask m).testBit i := fun m i hi => by
    rw [testBit_complement (mask_lt x m), decide_eq_true hi, Bool.true_and]
  cases fn with
  | mand => exact ⟨_, rfl, fun i _ => Nat.testBit_and _ _ i⟩
  | mor => exact ⟨_, rfl, fun i _ => Nat.testBit_or _ _ i⟩
  | mxor => exact ⟨_, rfl, fun i _ => Nat.testBit_xor _ _ i⟩
  | mandn => exact ⟨_, rfl, fun i hi => by rw [Nat.testBit_and, hcomp _ i hi]; rfl⟩
  | mnot => exact ⟨_, rfl, fun i hi => hcomp _ i hi⟩
  | mpopc => exact absurd rfl h1
  | mfirst => exact absurd rfl h2

theorem mask_clause {fn : MaskFn} {vb va vd : Reg} (hi : e.instr = .maskOperation b fn vb va vd) (hres : reservedMask fn vb va vd = false) :
    let x := (s.blk b).vec
    let t := s.completeVec b e none []
    let A := fun i => (x.mask va.toNat).testBit i
    let B := fun i => (x.mask vb.toNat).testBit i
    (fn = .mpopc → t.wrote b false vd (BitVec.ofNat 64 ((List.range 2048).filter A).length)) ∧
    (fn = .mfirst → t.wrote b false vd (match (List.range 2048).find? A with | some i => BitVec.ofNat 64 i | none => 0xFFFFFFFFFFFFFFFF)) ∧
    (fn ≠ .mpopc → fn ≠ .mfirst → ∀ i < 2048, ((t.blk b).vec.mask vd.toNat).testBit i =
      if vd = 0 then true else maskBit fn (A i) (B i)) := by
  intro x t A B
  have heng : engineOut ((s.blk b).leftVec e) e [] = maskOut x fn vb va vd := by
    unfold engineOut
    rw [hi]
    rfl
  simp only [reservedMask, Bool.or_eq_false_iff, decide_eq_false_iff_not, Nat.not_le] at hres
  obtain ⟨hva, hrest⟩ := hres
  have hmod := Nat.mod_eq_of_lt hva
  refine ⟨fun hf => ?_, fun hf => ?_, fun h1 h2 i hlt => ?_⟩
  · subst hf
    have hout : maskOut x .mpopc vb va vd = ([.scalar false vd ((List.range 2048).filter A).length], 0) := by
      rw [← sum_of_bits, ← chop_eq, ← hmod]
      rfl
    exact completeVec_scalar (heng.trans hout)
  · subst hf
    have hout : maskOut x .mfirst vb va vd =
        ([.scalar false vd (match (List.range 2048).find? A with | some i => i | none => 2 ^ 64 - 1)], 0) := by
      rw [← findIdx?_bits, ← hmod]
      rfl
    have h := completeVec_scalar (heng.trans hout)
    revert h
    cases (List.range 2048).find? A <;> exact id
  · have hvd : vd.toNat < 8 := by
      cases fn with
      | mpopc => exact absurd rfl h1
      | mfirst => exact absurd rfl h2
      | _ => simp_all
    have hvb : vb.toNat % 8 = vb.toNat := by
      cases fn with
      | mpopc => exact absurd rfl h1
      | mfirst => exact absurd rfl h2
      | mnot => simp_all
      | _ => exact Nat.mod_eq_of_lt (by simp_all)
    obtain ⟨v, hout, hv⟩ := maskOut_bits x fn vb va vd h1 h2
    rw [Nat.mod_eq_of_lt hvd] at hout
    by_cases h0 : vd = 0
    · rw [if_pos h0, h0]
      exact (mask_zero _ i).trans (decide_eq_true hlt)
    · have h0' : vd.toNat ≠ 0 := fun h => h0 (BitVec.eq_of_toNat_eq h)
      rw [if_neg h0, completeVec_mask (heng.trans hout) h0', chop_getElem? 1 v hlt, Option.getD_some, bit_of_field, hv i hlt, hmod, hvb,
        decide_eq_true hlt, Bool.true_and]

/-! ## Integer sums (R260, R261) -/

/-- One level of the tree keeps the sum modulo 2^w. -/
theorem redLevel_sum (ty : ITy) (rm : Rm) (l : List Nat) :
    (redLevel (.int .sum ty) rm l).1.sum % 2 ^ ty.width = l.sum % 2 ^ ty.width ∧
      2 * (redLevel (.int .sum ty) rm l).1.length ≤ l.length + 1 := by
  induction l using redLevel.induct (op := .int .sum ty) (rm := rm) with
  | case1 x y l ih =>
    obtain ⟨hs, hl⟩ := ih
    refine ⟨?_, ?_⟩
    · show (((x + y) % 2 ^ ty.width) :: (redLevel (.int .sum ty) rm l).1).sum % _ = _
      rw [List.sum_cons, List.sum_cons, List.sum_cons, Nat.mod_add_mod, Nat.add_mod, hs, ← Nat.add_mod, Nat.add_assoc]
    · show 2 * ((redLevel (.int .sum ty) rm l).1.length + 1) ≤ _
      rw [List.length_cons, List.length_cons]
      omega
  | case2 l h =>
    have hl : redLevel (.int .sum ty) rm l = (l, 0) := by
      cases l with
      | nil => rfl
      | cons x l =>
        cases l with
        | nil => rfl
        | cons y l => exact absurd rfl (h x y l)
    have hlen : l.length ≤ 1 := by
      cases l with
      | nil => exact Nat.zero_le _
      | cons x l =>
        cases l with
        | nil => exact Nat.le_refl _
        | cons y l => exact absurd rfl (h x y l)
    rw [hl]
    exact ⟨rfl, by dsimp only; omega⟩

/-- The tree of an integer sum is the sum modulo 2^w. -/
theorem redTree_sum (ty : ITy) (rm : Rm) (k : Nat) (l : List Nat) (h : l.length ≤ 2 ^ k) :
    (redTree (.int .sum ty) rm k l).1 % 2 ^ ty.width = l.sum % 2 ^ ty.width := by
  induction k generalizing l with
  | zero =>
    cases l with
    | nil => rfl
    | cons x l =>
      have : l = [] := List.length_eq_zero_iff.mp (by rw [List.length_cons, Nat.pow_zero] at h; omega)
      subst this
      rfl
  | succ k ih =>
    have hlevel : (redTree (.int .sum ty) rm k (redLevel (.int .sum ty) rm l).1).1 % 2 ^ ty.width = l.sum % 2 ^ ty.width := by
      obtain ⟨hs, hl⟩ := redLevel_sum ty rm l
      rw [Nat.pow_succ] at h
      rw [ih _ (by omega), hs]
    unfold redTree
    split
    · simp
    · exact hlevel

theorem sum_active (l : List Nat) (A : Nat → Bool) (F : Nat → Nat) :
    (l.map fun i => if A i then F i else 0).sum = ((l.filter A).map F).sum := by
  induction l with
  | nil => rfl
  | cons i l ih =>
    rw [List.map_cons, List.sum_cons, ih, List.filter_cons]
    split
    · rfl
    · exact Nat.zero_add _

theorem itype_fits (ty : ITy) (g : BitVec 2) : elemCount (groupSize g) ty.width ≤ 2 ^ 20 := by
  have hone : groupSize g * (16384 / ty.width) ≤ 8 * (16384 / ty.width) := Nat.mul_le_mul_right _ (groupSize_le g)
  have hdiv : 16384 / ty.width ≤ 16384 := Nat.div_le_self _ _
  unfold elemCount
  omega

/-- The sum of the active elements. -/
theorem reduce_sum (x : Vec) (ty : ITy) (rm : Rm) (n c : Nat) (vm : BitVec 3) (va : Reg) (hn : n ≤ 2 ^ 20) :
    (reduce (.int .sum ty) rm (c % 2 ^ ty.width) (x.active vm.toNat ty.width n) (x.elems va ty.width n)).1 =
      (c + (((List.range n).filter fun i => x.isActive vm ty.width i).map fun i => x.elem va.toNat ty.width i).sum) % 2 ^ ty.width := by
  have hxs : ((x.active vm.toNat ty.width n).zip (x.elems va ty.width n)).map (fun p => if p.1 then p.2 else redIdentity (.int .sum ty)) =
      (List.range n).map fun i => if x.isActive vm ty.width i then x.elem va.toNat ty.width i else 0 := by
    rw [active_eq, elems_eq x va (ity_width ty), List.zip_map', List.map_map]
    rfl
  unfold reduce
  dsimp only
  rw [hxs]
  show (c % 2 ^ ty.width + (redTree (.int .sum ty) rm 20 _).1) % 2 ^ ty.width = _
  rw [Nat.mod_add_mod, Nat.add_mod, redTree_sum ty rm 20 _ (by simpa using hn), ← Nat.add_mod, sum_active]

theorem reduction_clause {ty : ITy} {vm : BitVec 3} {vb va vd : Reg} (hi : e.instr = .vectorReduction b (.int .sum ty) vm vb va vd) :
    let x := (s.blk b).vec
    let w := ty.width
    (s.completeVec b e none []).wrote b false vd (BitVec.ofInt 64 (Int.bmod ((e.sb.toNat +
      (((List.range (elemCount (groupSize e.grp) w)).filter fun i => x.isActive vm w i).map fun i => x.elem va.toNat w i).sum : Nat) : Int)
      (2 ^ w))) := by
  intro x w
  have hred := reduce_sum x ty (Rm.of e.rm) (elemCount (groupSize e.grp) ty.width) e.sb.toNat vm va (itype_fits ty e.grp)
  have hout : ∃ fl, engineOut ((s.blk b).leftVec e) e [] = ([.scalar false vd (bitsOfInt 64 (sIntOf ty.width
      (reduce (.int .sum ty) (Rm.of e.rm) (e.sb.toNat % 2 ^ ty.width) (x.active vm.toNat ty.width (elemCount (groupSize e.grp) ty.width))
        (x.elems va ty.width (elemCount (groupSize e.grp) ty.width))).1))], fl) := by
    unfold engineOut
    rw [hi]
    exact ⟨_, rfl⟩
  obtain ⟨fl, hout⟩ := hout
  have h := completeVec_scalar hout
  rw [bitsOfInt_ofNat, hred, sIntOf_toInt, BitVec.toInt_eq_toNat_bmod, BitVec.toNat_ofNat, Nat.mod_mod, Int.natCast_mod, Int.emod_bmod] at h
  exact h

/-! ## Checksum (R275) -/

theorem vcsum_clause {vb va vd : Reg} (hi : e.instr = .vcsum b vb va vd) :
    let x := (s.blk b).vec
    (s.completeVec b e none []).wrote b false vd ((crc32cFrom (e.sb.setWidth 32)
      ((List.range (2048 * groupSize e.grp)).map fun i => BitVec.ofNat 8 (x.elem va.toNat 8 i))).zeroExtend 64) := by
  intro x
  have hout : engineOut ((s.blk b).leftVec e) e [] = ([.scalar false vd (crc32cFrom (e.sb.setWidth 32)
      ((List.range (2048 * groupSize e.grp)).map fun i => BitVec.ofNat 8 (x.elem va.toNat 8 i))).toNat], 0) := by
    have hl : (x.elems va 8 (2048 * groupSize e.grp)).map (fun v => BitVec.ofNat 8 v) =
        (List.range (2048 * groupSize e.grp)).map fun i => BitVec.ofNat 8 (x.elem va.toNat 8 i) := by
      rw [elems_eq x va (e := 2048) (by decide), List.map_map]
      rfl
    unfold engineOut
    rw [hi, ← hl]
    rfl
  have h := completeVec_scalar hout
  rwa [BitVec.ofNat_toNat] at h

end Sys2Proof.Machine

/-- Settles O31: each of these instructions writes one piece, whose bits or whose value the lemmas above give. -/
theorem vectorMaskAndScalarResults : Obligations.VectorMaskAndScalarResults := by
  unfold Obligations.VectorMaskAndScalarResults
  intro s b e rest vm vb va vd hr h1 hu hm x
  refine ⟨_, vector_completes hr hu h1 hm, by rw [completeVec_run, hr, List.tail_cons], fun op hi h0 h8 => compare_clause hi h0 h8,
    fun fn hi hres => ?_, fun ty hi _ => reduction_clause hi, fun hi => vcsum_clause hi⟩
  obtain ⟨hpop, hfirst, hbits⟩ := mask_clause hi hres
  refine ⟨hpop, fun hf => ?_, fun n1 n2 i hlt => (hbits n1 n2 i hlt).trans ?_⟩
  · have h := hfirst hf
    revert h
    generalize (List.range 2048).find? _ = o
    intro h
    cases o <;> exact h
  · cases fn <;> rfl
end

/-! # Registers that read back: the proofs -/
section
open Sys2Proof Sys2Proof.Machine
namespace Sys2Proof.Machine

/-! ## Words of fields -/

/-- The bits of fields, each given by how far above the one before it begins and by its width. -/
def fieldMask : List (Nat × Nat) → Nat
  | [] => 0
  | (a, w) :: l => 2 ^ a * (2 ^ w * fieldMask l + (2 ^ w - 1))

/-- The fields of a number, each in its place. -/
def fieldSum (n : Nat) : List (Nat × Nat) → Nat
  | [] => 0
  | (a, w) :: l => 2 ^ a * (2 ^ w * fieldSum (n / 2 ^ a / 2 ^ w) l + n / 2 ^ a % 2 ^ w)

theorem and_shifted (n m a : Nat) : n &&& (2 ^ a * m) = 2 ^ a * (n / 2 ^ a &&& m) := by
  refine Nat.eq_of_testBit_eq fun i => ?_
  rw [Nat.testBit_and, Nat.testBit_two_pow_mul, Nat.testBit_two_pow_mul, Nat.testBit_and, Nat.testBit_div_two_pow]
  by_cases h : a ≤ i
  · rw [Nat.sub_add_cancel h, decide_eq_true h, Bool.true_and, Bool.true_and]
  · rw [decide_eq_false h, Bool.false_and, Bool.false_and, Bool.and_false]

theorem and_low_field (n m w : Nat) : n &&& (2 ^ w * m + (2 ^ w - 1)) = 2 ^ w * (n / 2 ^ w &&& m) + n % 2 ^ w := by
  have h1 : 2 ^ w - 1 < 2 ^ w := ones_lt w
  have h2 : n % 2 ^ w < 2 ^ w := Nat.mod_lt _ (Nat.two_pow_pos w)
  refine Nat.eq_of_testBit_eq fun i => ?_
  rw [Nat.testBit_and, Nat.testBit_two_pow_mul_add _ h1, Nat.testBit_two_pow_mul_add _ h2]
  by_cases h : i < w
  · rw [if_pos h, if_pos h, ones_testBit, Nat.testBit_mod_two_pow, Bool.and_comm]
  · rw [if_neg h, if_neg h, Nat.testBit_and, Nat.testBit_div_two_pow, Nat.sub_add_cancel (Nat.le_of_not_lt h)]

/-- The bits of a number under a mask of fields are its fields. -/
theorem and_fieldMask (n : Nat) (l : List (Nat × Nat)) : n &&& fieldMask l = fieldSum n l := by
  induction l generalizing n with
  | nil => exact Nat.and_zero n
  | cons f l ih =>
    obtain ⟨a, w⟩ := f
    rw [fieldMask, and_shifted, and_low_field, ih, fieldSum]

/-- A word made of the fields of another is what a mask leaves of that one. -/
theorem word_of_fields {v mask : W64} {n : Nat} (l : List (Nat × Nat)) (hm : mask.toNat = fieldMask l) (hn : n = fieldSum v.toNat l) :
    BitVec.ofNat 64 n = v &&& mask := by
  refine BitVec.eq_of_toNat_eq ?_
  rw [BitVec.toNat_and, hm, and_fieldMask, ← hn, BitVec.toNat_ofNat]
  refine Nat.mod_eq_of_lt ?_
  rw [hn, ← and_fieldMask, ← hm, ← BitVec.toNat_and]
  exact BitVec.isLt _

theorem boolBit_bit (v : W64) (i : Nat) : boolBit (v.getLsbD i) = v.toNat / 2 ^ i % 2 := by
  rw [← BitVec.testBit_toNat, Nat.testBit_eq_decide_div_mod_eq, boolBit]
  have h := Nat.mod_lt (v.toNat / 2 ^ i) (show 2 > 0 by decide)
  generalize v.toNat / 2 ^ i % 2 = c at h ⊢
  interval_cases c <;> rfl

theorem extract_nat (v : W64) (a w : Nat) : (v.extractLsb' a w).toNat = v.toNat / 2 ^ a % 2 ^ w := by
  rw [BitVec.extractLsb'_toNat, Nat.shiftRight_eq_div_pow]

/-- A field at bit 0, alone in its word. -/
theorem low_field {w : Nat} {v mask : W64} (hm : mask.toNat = fieldMask [(0, w)]) (hw : w ≤ 64) : (v.extractLsb' 0 w).zeroExtend 64 = v &&& mask := by
  rw [← word_of_fields [(0, w)] hm rfl]
  refine BitVec.eq_of_toNat_eq ?_
  have h : (v.extractLsb' 0 w).toNat < 2 ^ 64 := Nat.lt_of_lt_of_le (BitVec.isLt _) (Nat.pow_le_pow_right (by decide) hw)
  rw [BitVec.toNat_setWidth, Nat.mod_eq_of_lt h, extract_nat, BitVec.toNat_ofNat, fieldSum, fieldSum, Nat.pow_zero, Nat.one_mul, Nat.mul_zero,
    Nat.zero_add, Nat.div_one]
  have h2 : v.toNat % 2 ^ w < 2 ^ 64 := by
    have := extract_nat v 0 w
    rw [Nat.pow_zero, Nat.div_one] at this
    omega
  rw [Nat.mod_eq_of_lt h2]

/-! ## The layouts of registers -/

theorem tsbp_word (v : W64) : (Tsbp.ofWord v).word = v &&& 0xFFFFFFFFFE01 := by
  refine word_of_fields [(0, 1), (8, 39)] (by decide) ?_
  simp only [Tsbp.ofWord, boolBit_bit, extract_nat, fieldSum]
  omega

theorem bound_word (v : W64) : (Bound.ofWord v false).word false = v &&& 0xFFFC00FFFC01 := by
  refine word_of_fields [(0, 1), (9, 14), (10, 14)] (by decide) ?_
  simp only [Bound.ofWord, boolBit_bit, extract_nat, fieldSum, Bool.false_eq_true, if_false]
  omega

theorem bound_word_split (v : W64) : (Bound.ofWord v true).word true = v &&& 0x3FFFFFFC00FFFC01 := by
  refine word_of_fields [(0, 1), (9, 14), (10, 14), (0, 14)] (by decide) ?_
  simp only [Bound.ofWord, boolBit_bit, extract_nat, fieldSum, if_true]
  omega

theorem vector_base (v : W64) : BitVec.ofNat 64 (baseAddr (v.extractLsb' 9 39)) = v &&& 0xFFFFFFFFFE00 := by
  refine word_of_fields [(9, 39)] (by decide) ?_
  simp only [baseAddr, extract_nat, fieldSum]
  omega

theorem loop_word (v : W64) : BitVec.ofNat 64 ((v &&& 0xFFFFFFFFFFFC).toNat + 2 ^ 48 * (v.extractLsb' 48 7).toNat + 2 ^ 63 * boolBit (v.getLsbD 63)) =
    v &&& 0x807FFFFFFFFFFFFC := by
  have hs : (v &&& 0xFFFFFFFFFFFC).toNat = fieldSum v.toNat [(2, 46)] := by rw [BitVec.toNat_and, ← and_fieldMask]; rfl
  refine word_of_fields [(2, 46), (0, 7), (8, 1)] (by decide) ?_
  rw [hs]
  simp only [boolBit_bit, extract_nat, fieldSum]
  omega

theorem rxCfg_word (r : RxChan) (v : W64) : (r.withCfg v).cfgWord = v &&& 0x7FFFFFFFF := by
  refine word_of_fields [(0, 3), (0, 13), (0, 16), (0, 1), (0, 1), (0, 1)] (by decide) ?_
  simp only [RxChan.withCfg, boolBit_bit, extract_nat, fieldSum]
  omega

theorem send_word (e : SendEntry) (v : W64) : (e.withW0 v).w0 = v &&& 0x3FFFFFFFFFFFFFF := by
  refine word_of_fields [(0, 20), (0, 3), (0, 1), (0, 7), (0, 1), (0, 6), (0, 20)] (by decide) ?_
  simp only [SendEntry.withW0, boolBit_bit, extract_nat, fieldSum, Nat.div_div_eq_div_mul]
  norm_num
  ring

/-! ## Writes of all eight bytes -/

theorem allBytes_eq : allBytes = BitVec.allOnes 64 := rfl

theorem merged_all (old v : W64) : merged old v allBytes = v := by
  rw [merged, allBytes_eq, BitVec.not_allOnes, BitVec.and_zero, BitVec.and_allOnes, BitVec.zero_or]

theorem and_allBytes (v : W64) : v &&& allBytes = v := by rw [allBytes_eq, BitVec.and_allOnes]

variable {s : State} {b : BlockId} {off : Nat}

theorem crHidden_m (off : Nat) : crHidden off .m = false := by simp [crHidden]

/-! ## The parts of the control registers -/

/-- A core or floating-point register, as it is written and read. -/
theorem core_back (hb : (decide (b = mgmtCore) && !mgmtHas off) = false) (h : off < 0x400) (who : Who) (v m : W64) :
    (s.crWrite b who off v m).crRead b off .m = (s.coreWrite b off (merged (s.crRead b off .m) v m) (v &&& m)).coreRead b off := by
  rw [State.crRead, crHidden_m, hb, Bool.or_self, if_neg Bool.false_ne_true, if_pos h]
  refine congrArg (fun t : State => t.coreRead b off) ?_
  unfold State.crWrite
  dsimp only
  rw [hb, if_neg Bool.false_ne_true, if_pos h]

/-- A privilege register. -/
theorem priv_back (hb : (decide (b = mgmtCore) && !mgmtHas off) = false) (h : 0x400 ≤ off) (h1 : off < 0x1000) (h2 : off ≠ 0x468) (c : Ctx) (v : W64) :
    (s.crWrite b (.core c) off v allBytes).crRead b off .m = (s.privWrite b off v v).privRead b off := by
  rw [State.crRead, crHidden_m, hb, Bool.or_self, if_neg Bool.false_ne_true, if_neg (Nat.not_lt.2 h), if_pos h1]
  refine congrArg (fun t : State => t.privRead b off) ?_
  unfold State.crWrite
  dsimp only
  rw [hb, if_neg Bool.false_ne_true, if_neg (Nat.not_lt.2 h), if_pos h1, if_neg h2, merged_all, and_allBytes]

/-- A clock, crossing or message engine register. -/
theorem fabric_back (hb : b ≠ mgmtCore) (h : 0x5000 ≤ off) (c : Ctx) (v : W64) :
    (s.crWrite b (.core c) off v allBytes).crRead b off .m = (s.fabricWrite b (.core c) off v v allBytes).xngMsgRead b off := by
  have hd : (decide (b = mgmtCore) && !mgmtHas off) = false := by rw [decide_eq_false hb, Bool.false_and]
  rw [State.crRead, crHidden_m, hd, Bool.or_self, if_neg Bool.false_ne_true, if_neg (by omega), if_neg (by omega), if_neg (by omega), if_neg (by omega)]
  refine congrArg (fun t : State => t.xngMsgRead b off) ?_
  unfold State.crWrite
  dsimp only
  rw [hd, if_neg Bool.false_ne_true, if_neg (by omega), if_neg (by omega), if_neg (by omega), merged_all, and_allBytes]

theorem modPriv_priv (s : State) (b : BlockId) (f : Priv → Priv) : ((s.modPriv b f).blk b).priv = f (s.blk b).priv :=
  congrArg Block.priv (blk_modBlk_same s b _)

theorem modCore_core (s : State) (b : BlockId) (f : Core → Core) : ((s.modCore b f).blk b).core = f (s.blk b).core :=
  congrArg Block.core (blk_modBlk_same s b _)

/-- The entry address. -/
theorem entry_back (hb : b ≠ mgmtCore) (who : Who) (v m : W64) :
    (s.crWrite b who 0x38 v m).crRead b 0x38 .m = merged (s.crRead b 0x38 .m) v m &&& 0xFFFFFFFFFFFC := by
  rw [core_back (by rw [decide_eq_false hb, Bool.false_and]) (by decide)]
  exact congrArg Core.entry (modCore_core s b _)

/-- The rest of the loop. -/
theorem remain_back (hb : (decide (b = mgmtCore) && !mgmtHas 0x40) = false) (c : Ctx) (v : W64) :
    (s.crWrite b (.core c) 0x40 v allBytes).crRead b 0x40 .m = v &&& 0xFFFFFFFF := by
  rw [core_back hb (by decide), merged_all]
  exact (congrArg (fun c : Core => c.loopRemain.zeroExtend 64) (modCore_core s b _)).trans (low_field (by decide) (by decide))

/-- The loop's start, length and whether it is active. -/
theorem loop_back (hb : (decide (b = mgmtCore) && !mgmtHas 0x48) = false) (c : Ctx) (v : W64) :
    (s.crWrite b (.core c) 0x48 v allBytes).crRead b 0x48 .m = v &&& 0x807FFFFFFFFFFFFC := by
  rw [core_back hb (by decide), merged_all]
  exact (congrArg (fun c : Core => BitVec.ofNat 64 (c.loopStart.toNat + 2 ^ 48 * c.loopLen.toNat + 2 ^ 63 * boolBit c.loopActive))
    (modCore_core s b _)).trans (loop_word v)

/-- The group size. -/
theorem grp_back (hb : b ≠ mgmtCore) (c : Ctx) (v : W64) : (s.crWrite b (.core c) 0x1000 v allBytes).crRead b 0x1000 .m = v &&& 3 := by
  have hd : (decide (b = mgmtCore) && !mgmtHas 0x1000) = false := by rw [decide_eq_false hb, Bool.false_and]
  have hw : s.crWrite b (.core c) 0x1000 v allBytes = s.coreWrite b 0x1000 v v := by
    unfold State.crWrite
    dsimp only
    rw [hd, merged_all, and_allBytes]
    rfl
  rw [hw, State.crRead, crHidden_m, hd]
  exact (congrArg (fun x : Block => x.vec.grp.zeroExtend 64) (blk_modBlk_same s b _)).trans (low_field (by decide) (by decide))

/-- The privilege registers of M: the trap save base, the delegation to A, and A's bounds. -/
theorem privileges_back (c : Ctx) (v : W64) :
    let after off := (s.crWrite b (.core c) off v allBytes).crRead b off .m
    let has off := (decide (b = mgmtCore) && !mgmtHas off) = false
    (has 0x410 → after 0x410 = v &&& 0xFFFFFFFFFE01) ∧ (has 0x418 → after 0x418 = v &&& 0xFFFFFFFFFE01) ∧
    (has 0x420 → after 0x420 = v &&& 0xFFFFFFFFFE01) ∧
    (has 0x428 → after 0x428 = v &&& 0xFFFFFFFFFE00) ∧ (has 0x430 → after 0x430 = v &&& 0xFFFFFFFFFE00) ∧
    (has 0x438 → after 0x438 = v &&& 0x11FFFE) ∧ (has 0x440 → after 0x440 = v &&& 0x11FFFE) ∧ (has 0x448 → after 0x448 = v &&& 0x11FFFE) ∧
    (has 0x480 → after 0x480 = v &&& 0xFFFC00FFFC01) ∧ (has 0x488 → after 0x488 = v &&& 0xFFFC00FFFC01) ∧
    (has 0x4A0 → after 0x4A0 = v &&& 0xFFFC00FFFC01) ∧
    (has 0x490 → after 0x490 = v &&& 0x3FFFFFFC00FFFC01) ∧ (has 0x498 → after 0x498 = v &&& 0x3FFFFFFC00FFFC01) := by
  intro after has
  have hp : ∀ off, has off → 0x400 ≤ off → off < 0x1000 → off ≠ 0x468 → after off = (s.privWrite b off v v).privRead b off :=
    fun off hb h h1 h2 => priv_back hb h h1 h2 c v
  have hm := modPriv_priv s b
  refine ⟨fun hb => ?_, fun hb => ?_, fun hb => ?_, fun hb => ?_, fun hb => ?_, fun hb => ?_, fun hb => ?_, fun hb => ?_, fun hb => ?_, fun hb => ?_,
    fun hb => ?_, fun hb => ?_, fun hb => ?_⟩ <;> rw [hp _ hb (by decide) (by decide) (by decide)]
  · exact (congrArg (fun p : Priv => p.tsbpM.word) (hm _)).trans (tsbp_word v)
  · exact (congrArg (fun p : Priv => p.tsbpA.word) (hm _)).trans (tsbp_word v)
  · exact (congrArg (fun p : Priv => p.tsbpB.word) (hm _)).trans (tsbp_word v)
  · exact (congrArg (fun p : Priv => BitVec.ofNat 64 (baseAddr p.vtbA)) (hm _)).trans (vector_base v)
  · exact (congrArg (fun p : Priv => BitVec.ofNat 64 (baseAddr p.vtbB)) (hm _)).trans (vector_base v)
  · exact congrArg Priv.delegA (hm _)
  · exact congrArg Priv.delegB (hm _)
  · exact congrArg Priv.planned (hm _)
  · exact (congrArg (fun p : Priv => p.boundIA.word false) (hm _)).trans (bound_word v)
  · exact (congrArg (fun p : Priv => p.boundIB.word false) (hm _)).trans (bound_word v)
  · exact (congrArg (fun p : Priv => p.boundLS.word false) (hm _)).trans (bound_word v)
  · exact (congrArg (fun p : Priv => p.boundLA.word true) (hm _)).trans (bound_word_split v)
  · exact (congrArg (fun p : Priv => p.boundLB.word true) (hm _)).trans (bound_word_split v)

/-! ## CLK_EN (R633) -/

theorem settle_en (c : Clk) (now : Nat) : (c.settle now).en = c.en := by
  unfold Clk.settle
  dsimp only
  split <;> rfl

theorem clkEn_read (s : State) (hb : b ≠ mgmtCore) : s.crRead b 0x3000 .m = (s.blk b).clk.en := by
  have hd : (decide (b = mgmtCore) && !mgmtHas 0x3000) = false := by rw [decide_eq_false hb, Bool.false_and]
  rw [State.crRead, crHidden_m, hd]
  exact settle_en _ _

theorem clkEn_back (hb : b ≠ mgmtCore) (c : Ctx) (v : W64) :
    (s.clkLocked = false → (s.crWrite b (.core c) 0x3000 v allBytes).crRead b 0x3000 .m = (s.crRead b 0x3000 .m &&& ~~~0x3B648) ||| (v &&& 0x3B648)) ∧
    (s.clkLocked = true → (s.crWrite b (.core c) 0x3000 v allBytes).crRead b 0x3000 .m = s.crRead b 0x3000 .m) := by
  have hd : (decide (b = mgmtCore) && !mgmtHas 0x3000) = false := by rw [decide_eq_false hb, Bool.false_and]
  have hw : s.crWrite b (.core c) 0x3000 v allBytes = if s.clkLocked then s
      else s.modBlk b fun x => { x with clk := { x.clk with en := (x.clk.en &&& ~~~clkEnRw) ||| (v &&& clkEnRw) } } := by
    unfold State.crWrite
    dsimp only
    rw [hd, merged_all]
    rfl
  rw [hw]
  refine ⟨fun h => ?_, fun h => ?_⟩
  · rw [h, if_neg Bool.false_ne_true, clkEn_read _ hb, clkEn_read s hb]
    exact congrArg (fun x : Block => x.clk.en) (blk_modBlk_same s b _)
  · rw [h, if_pos rfl]

/-! ## The crossing and the message engine -/

theorem slot_read (s : State) (b : BlockId) {n : Nat} (h : n < 1024) :
    s.xngMsgRead b (0xA000 + 8 * n) = (look 0 (s.blk b).xng.slots n).zeroExtend 64 := by
  unfold State.xngMsgRead
  dsimp only
  split
  case h_13 => rw [if_pos (by omega), show (0xA000 + 8 * n - 0xA000) / 8 = n by omega]
  all_goals omega

/-- A register of a receive channel, and of a send entry. -/
theorem rx_read (s : State) (b : BlockId) {off : Nat} (h : 0xC800 ≤ off) (k : off < 0xD000) : s.xngMsgRead b off =
    if off % 16 = 0 then (look RxChan.reset (s.blk b).msg.rxc ((off - 0xC800) / 16)).base.zeroExtend 64
    else (look RxChan.reset (s.blk b).msg.rxc ((off - 0xC800) / 16)).cfgWord := by
  unfold State.xngMsgRead
  dsimp only
  split
  case h_13 => rw [if_neg (by omega), if_pos ⟨h, k⟩]
  all_goals omega

theorem send_read (s : State) (b : BlockId) {off : Nat} (h : 0xE000 ≤ off) (k : off < 0x10000) : s.xngMsgRead b off =
    if off % 16 = 0 then (look SendEntry.reset (s.blk b).msg.send ((off - 0xE000) / 16)).w0
    else (look SendEntry.reset (s.blk b).msg.send ((off - 0xE000) / 16)).src.zeroExtend 64 := by
  unfold State.xngMsgRead
  dsimp only
  split
  case h_13 => rw [if_neg (by omega), if_neg (by omega), if_pos ⟨h, k⟩]
  all_goals omega

/-- A write to one of these tables, and to the slots. -/
theorem slot_write (s : State) (b : BlockId) (who : Who) (w act m : W64) {n : Nat} (h : n < 1024) : s.fabricWrite b who (0xA000 + 8 * n) w act m =
    s.modBlk b fun x => { x with xng := { x.xng with slots := store 0 x.xng.slots n (slotStored w) } } := by
  unfold State.fabricWrite
  dsimp only
  split
  case h_7 => rw [if_pos (by omega), show (0xA000 + 8 * n - 0xA000) / 8 = n by omega]
  all_goals omega

theorem rx_write (s : State) (b : BlockId) (who : Who) (w act m : W64) {off : Nat} (h : 0xC800 ≤ off) (k : off < 0xD000) :
    s.fabricWrite b who off w act m = s.modBlk b fun x =>
      { x with msg := { x.msg with rxc := (store RxChan.reset x.msg.rxc ((off - 0xC800) / 16)
        (if off % 16 = 0 then { look RxChan.reset x.msg.rxc ((off - 0xC800) / 16) with base := w.extractLsb' 0 48 }
         else (look RxChan.reset x.msg.rxc ((off - 0xC800) / 16)).withCfg w)) } } := by
  unfold State.fabricWrite
  dsimp only
  split
  case h_7 => rw [if_neg (by omega), if_pos ⟨h, k⟩]
  all_goals omega

theorem send_write (s : State) (b : BlockId) (who : Who) (w act m : W64) {off : Nat} (h : 0xE000 ≤ off) (k : off < 0x10000) :
    s.fabricWrite b who off w act m = (s.keepNext b).modBlk b fun x =>
      { x with msg := { x.msg with send := (store SendEntry.reset x.msg.send ((off - 0xE000) / 16)
        (if off % 16 = 0 then (look SendEntry.reset x.msg.send ((off - 0xE000) / 16)).withW0 w
         else { look SendEntry.reset x.msg.send ((off - 0xE000) / 16) with src := w.extractLsb' 0 48 })) } } := by
  unfold State.fabricWrite
  dsimp only
  split
  case h_7 => rw [if_neg (by omega), if_neg (by omega), if_pos ⟨h, k⟩]
  all_goals omega

/-- The slots of the crossing. -/
theorem slot_back (hb : b ≠ mgmtCore) (c : Ctx) (v : W64) {n : Nat} (h : n < 1024) :
    (s.crWrite b (.core c) (0xA000 + 8 * n) v allBytes).crRead b (0xA000 + 8 * n) .m = (slotStored v).zeroExtend 64 := by
  rw [fabric_back hb (by omega), slot_write s b _ v v _ h, slot_read _ b h]
  refine (congrArg (fun x : Block => (look 0 x.xng.slots n).zeroExtend 64) (blk_modBlk_same s b _)).trans ?_
  exact congrArg (BitVec.zeroExtend 64) (look_store_same 0 _ n _)

/-- The receive channels. -/
theorem rx_back (hb : b ≠ mgmtCore) (c : Ctx) (v : W64) {n : Nat} (h : n < 128) :
    (s.crWrite b (.core c) (0xC800 + 16 * n) v allBytes).crRead b (0xC800 + 16 * n) .m = v &&& 0xFFFFFFFFFFFF ∧
    (s.crWrite b (.core c) (0xC808 + 16 * n) v allBytes).crRead b (0xC808 + 16 * n) .m = v &&& 0x7FFFFFFFF := by
  have h0 : (0xC800 + 16 * n) % 16 = 0 := by omega
  have h8 : (0xC808 + 16 * n) % 16 ≠ 0 := by omega
  refine ⟨?_, ?_⟩
  · rw [fabric_back hb (by omega), rx_write s b _ v v _ (by omega) (by omega), rx_read _ b (by omega) (by omega), if_pos h0, blk_modBlk_same]
    refine (congrArg (fun r : RxChan => r.base.zeroExtend 64) (look_store_same RxChan.reset _ _ _)).trans ?_
    rw [if_pos h0]
    exact low_field (by decide) (by decide)
  · rw [fabric_back hb (by omega), rx_write s b _ v v _ (by omega) (by omega), rx_read _ b (by omega) (by omega), if_neg h8, blk_modBlk_same]
    refine (congrArg (fun r : RxChan => r.cfgWord) (look_store_same RxChan.reset _ _ _)).trans ?_
    rw [if_neg h8]
    exact rxCfg_word _ v

/-- The send entries. -/
theorem send_back (hb : b ≠ mgmtCore) (c : Ctx) (v : W64) {n : Nat} (h : n < 512) :
    (s.crWrite b (.core c) (0xE000 + 16 * n) v allBytes).crRead b (0xE000 + 16 * n) .m = v &&& 0x3FFFFFFFFFFFFFF ∧
    (s.crWrite b (.core c) (0xE008 + 16 * n) v allBytes).crRead b (0xE008 + 16 * n) .m = v &&& 0xFFFFFFFFFFFF := by
  have h0 : (0xE000 + 16 * n) % 16 = 0 := by omega
  have h8 : (0xE008 + 16 * n) % 16 ≠ 0 := by omega
  refine ⟨?_, ?_⟩
  · rw [fabric_back hb (by omega), send_write s b _ v v _ (by omega) (by omega), send_read _ b (by omega) (by omega), if_pos h0, blk_modBlk_same]
    refine (congrArg (fun r : SendEntry => r.w0) (look_store_same SendEntry.reset _ _ _)).trans ?_
    rw [if_pos h0]
    exact send_word _ v
  · rw [fabric_back hb (by omega), send_write s b _ v v _ (by omega) (by omega), send_read _ b (by omega) (by omega), if_neg h8, blk_modBlk_same]
    refine (congrArg (fun r : SendEntry => r.src.zeroExtend 64) (look_store_same SendEntry.reset _ _ _)).trans ?_
    rw [if_neg h8]
    exact low_field (by decide) (by decide)

/-- The number of send entries. -/
theorem nsend_back (hb : b ≠ mgmtCore) (c : Ctx) (v : W64) : (s.crWrite b (.core c) 0xC000 v allBytes).crRead b 0xC000 .m = v &&& 0x3FF := by
  rw [fabric_back hb (by decide)]
  exact (congrArg (fun x : Block => x.msg.nsend.zeroExtend 64) (blk_modBlk_same (s.keepNext b) b _)).trans (low_field (by decide) (by decide))

/-! ## The registers of the host interface -/

theorem byteMask_all : byteMask 0xFF = allBytes := by decide

/-- A register space's write of the eight bytes at a multiple of 8. -/
theorem offset_aligned {off : Nat} (h : off % 8 = 0) (k : off < 2 ^ 32) : (BitVec.ofNat 32 off).toNat / 8 * 8 = off := by
  rw [BitVec.toNat_ofNat, Nat.mod_eq_of_lt k]
  omega

theorem bar0_write (hu : s.barsUp = true) (h : off % 8 = 0) (k : off < 2 ^ 32) (v : W64) :
    exec (.registerWrite .bar0 (BitVec.ofNat 32 off) v ⟨0xFF, .served .ok⟩) s = .next (s.bar0Write off v allBytes) := by
  show Host.Outcome.next (registerWrite .bar0 (BitVec.ofNat 32 off) v 0xFF (.served .ok) s) = _
  unfold registerWrite
  dsimp only
  rw [offset_aligned h k, byteMask_all, if_pos hu]

theorem aon_write (hc : s.coreRuns = true) (h : off % 8 = 0) (k : off < 2 ^ 32) (v : W64) :
    exec (.registerWrite .aon (BitVec.ofNat 32 off) v ⟨0xFF, .served .ok⟩) s = .next (s.aonWrite off v allBytes) := by
  show Host.Outcome.next (registerWrite .aon (BitVec.ofNat 32 off) v 0xFF (.served .ok) s) = _
  unfold registerWrite
  dsimp only
  rw [offset_aligned h k, byteMask_all, if_pos hc]

/-- The event configuration. -/
theorem evtCfg_back (s : State) (v : W64) : (s.bar0Write 0x10 v allBytes).bar0Read 0x10 = v &&& 0xFF007F := by
  have hr : (s.bar0Write 0x10 v allBytes).bar0Read 0x10 = ((merged (s.bar0Read 0x10) v allBytes).setWidth 24 &&& 0xFF007F).setWidth 64 := rfl
  rw [hr, merged_all]
  refine BitVec.eq_of_toNat_eq ?_
  rw [BitVec.toNat_setWidth, BitVec.toNat_and, BitVec.toNat_and, BitVec.toNat_setWidth]
  have hm : (0xFF007F : BitVec 24).toNat = fieldMask [(0, 7), (9, 8)] := by decide
  have hm' : (0xFF007F : W64).toNat = fieldMask [(0, 7), (9, 8)] := by decide
  rw [hm, hm', and_fieldMask, and_fieldMask]
  simp only [fieldSum]
  omega

/-- Events are cleared by the ones written. -/
theorem evtPend_back (s : State) (v : W64) : (s.bar0Write 0x18 v allBytes).bar0Read 0x18 = s.hif.evtPend.setWidth 64 &&& ~~~v := by
  have hr : (s.bar0Write 0x18 v allBytes).bar0Read 0x18 = (s.hif.evtPend &&& ~~~(v &&& allBytes).setWidth 8).setWidth 64 := rfl
  rw [hr, and_allBytes]
  refine BitVec.eq_of_getLsbD_eq fun i hi => ?_
  rw [BitVec.getLsbD_setWidth, BitVec.getLsbD_and, BitVec.getLsbD_not, BitVec.getLsbD_setWidth, BitVec.getLsbD_and, BitVec.getLsbD_setWidth,
    BitVec.getLsbD_not]
  by_cases h8 : i < 8
  · simp [h8, hi]
  · have hz : s.hif.evtPend.getLsbD i = false := BitVec.getLsbD_of_ge _ _ (by omega)
    simp [hz]

/-- The page address of a queue's ring. -/
theorem page_word (v : W64) : (v.extractLsb' 12 52).setWidth 64 <<< 12 = v &&& 0xFFFFFFFFFFFFF000 := by
  rw [← word_of_fields [(12, 52)] (by decide) rfl]
  refine BitVec.eq_of_toNat_eq ?_
  rw [BitVec.toNat_shiftLeft, BitVec.toNat_setWidth, extract_nat, BitVec.toNat_ofNat, Nat.shiftLeft_eq]
  simp only [fieldSum]
  omega

/-- The registers of a queue, by their offset. -/
theorem bar0_queue (s : State) (v : W64) {q r : Nat} (hq : q < 64) (hr : r < 0x40) :
    s.bar0Write (0x1000 + 0x40 * q + r) v allBytes = s.queueWrite (BitVec.ofNat 6 q) r v ∧
      s.bar0Read (0x1000 + 0x40 * q + r) = s.queueRead (BitVec.ofNat 6 q) r := by
  have h1 : (0x1000 + 0x40 * q + r - 0x1000) / 0x40 = q := by omega
  have h2 : (0x1000 + 0x40 * q + r) % 0x40 = r := by omega
  refine ⟨?_, ?_⟩
  · unfold State.bar0Write
    dsimp only
    rw [merged_all, if_neg (by omega), if_neg (by omega), if_pos (by omega), h1, h2]
  · unfold State.bar0Read
    rw [if_neg (by omega), if_pos (by omega), h1, h2]

/-- The rings of a queue that is not active. -/
theorem ring_back (s : State) (v : W64) {q : Nat} (hq : q < 64) (ha : s.queueActive (BitVec.ofNat 6 q) = false) :
    (s.bar0Write (0x1000 + 0x40 * q) v allBytes).bar0Read (0x1000 + 0x40 * q) = v &&& 0xFFFFFFFFFFFFF000 ∧
    (s.bar0Write (0x1008 + 0x40 * q) v allBytes).bar0Read (0x1008 + 0x40 * q) = v &&& 0xFFFFFFFFFFFFF000 := by
  have h0 : 0x1000 + 0x40 * q = 0x1000 + 0x40 * q + 0 := rfl
  have h8 : 0x1008 + 0x40 * q = 0x1000 + 0x40 * q + 8 := by omega
  have hw : ∀ (f : Queue → Queue) (u : State), (if (!s.queueActive (BitVec.ofNat 6 q)) = true then s.modQueue (BitVec.ofNat 6 q) f else u) =
      s.modQueue (BitVec.ofNat 6 q) f := fun f u => by rw [ha]; rfl
  refine ⟨?_, ?_⟩
  · rw [h0, (bar0_queue s v hq (by decide)).1, (bar0_queue _ v hq (by decide)).2]
    refine (congrArg (fun t : State => (t.queue (BitVec.ofNat 6 q)).sqBase.setWidth 64 <<< 12) (hw _ s)).trans ?_
    rw [queue_modQueue_same]
    exact page_word v
  · rw [h8, (bar0_queue s v hq (by decide)).1, (bar0_queue _ v hq (by decide)).2]
    refine (congrArg (fun t : State => (t.queue (BitVec.ofNat 6 q)).cqBase.setWidth 64 <<< 12) (hw _ s)).trans ?_
    rw [queue_modQueue_same]
    exact page_word v

theorem coalesce_word (v : W64) :
    BitVec.ofNat 64 ((if v.extractLsb' 0 8 = 0 then 1 else v.extractLsb' 0 8).toNat + 2 ^ 16 * (v.extractLsb' 16 10).toNat) =
      (if v.extractLsb' 0 8 = 0 then 1 else v &&& 0xFF) ||| (v &&& 0x3FF0000) := by
  have hhi : v &&& 0x3FF0000 = BitVec.ofNat 64 (2 ^ 16 * (v.extractLsb' 16 10).toNat) := by
    refine (word_of_fields [(16, 10)] (by decide) ?_).symm
    simp only [extract_nat, fieldSum]
    omega
  have hlo : v &&& 0xFF = BitVec.ofNat 64 (v.extractLsb' 0 8).toNat := by
    refine (word_of_fields [(0, 8)] (by decide) ?_).symm
    simp only [extract_nat, fieldSum]
    omega
  have hor : ∀ a b : Nat, a < 2 ^ 16 → b < 2 ^ 10 → BitVec.ofNat 64 (a + 2 ^ 16 * b) = BitVec.ofNat 64 a ||| BitVec.ofNat 64 (2 ^ 16 * b) := fun a b h k => by
    refine BitVec.eq_of_toNat_eq ?_
    rw [BitVec.toNat_or, BitVec.toNat_ofNat, BitVec.toNat_ofNat, BitVec.toNat_ofNat, Nat.mod_eq_of_lt (show a < 2 ^ 64 by omega),
      Nat.mod_eq_of_lt (show 2 ^ 16 * b < 2 ^ 64 by omega), Nat.mod_eq_of_lt (show a + 2 ^ 16 * b < 2 ^ 64 by omega), Nat.add_comm,
      Nat.two_pow_add_eq_or_of_lt h, Nat.or_comm]
  have hb := (v.extractLsb' 16 10).isLt
  rw [hhi]
  split
  · exact hor 1 _ (by decide) hb
  · rw [hlo]
    have ha := (v.extractLsb' 0 8).isLt
    exact hor _ _ (by omega) hb

/-- The interrupt coalescing of a queue. -/
theorem coalesce_back (s : State) (v : W64) {q : Nat} (hq : q < 64) :
    (s.bar0Write (0x1028 + 0x40 * q) v allBytes).bar0Read (0x1028 + 0x40 * q) =
      (if v.extractLsb' 0 8 = 0 then 1 else v &&& 0xFF) ||| (v &&& 0x3FF0000) := by
  rw [show 0x1028 + 0x40 * q = 0x1000 + 0x40 * q + 0x28 by omega, (bar0_queue s v hq (by decide)).1, (bar0_queue _ v hq (by decide)).2]
  refine Eq.trans ?_ (coalesce_word v)
  exact congrArg (fun x : Queue => BitVec.ofNat 64 (x.count.toNat + 2 ^ 16 * x.time.toNat)) (queue_modQueue_same s _ _)

/-- The data of the dictionary window. -/
theorem dictData_back (s : State) (v : W64) {i : Nat} (hi : i < 512) :
    (s.bar0Write (0x101000 + 8 * i) v allBytes).bar0Read (0x101000 + 8 * i) = v := by
  have hw : s.bar0Write (0x101000 + 8 * i) v allBytes =
      s.modHif fun h => { h with dictData := mstore h.dictData (0x101000 + 8 * i - 0x101000) (leBytes 8 v.toNat) } := by
    unfold State.bar0Write
    dsimp only
    rw [merged_all, if_neg (by omega), if_neg (by omega), if_neg (by omega), if_neg (by omega), if_pos (by omega)]
  rw [hw, State.bar0Read, if_neg (by omega), if_neg (by omega), if_neg (by omega), if_neg (by omega), if_pos (by omega)]
  refine (congrArg (BitVec.ofNat 64) (mloadN_mstore _ _ 8 v.toNat)).trans ?_
  refine BitVec.eq_of_toNat_eq ?_
  rw [BitVec.toNat_ofNat, Nat.mod_eq_of_lt (show v.toNat < 256 ^ 8 from v.isLt), Nat.mod_eq_of_lt v.isLt]

theorem flushPba_msix (s : State) : s.flushPba.hif.msix = s.hif.msix := by
  rw [flushPba_eq]
  split
  · rfl
  · exact foldl_keeps (fun u : State => u.hif.msix) (fun u v => (flushVector_keeps u v).1) _ s

/-- The address of an interrupt vector. -/
theorem msix_back (s : State) (v : W64) {i : Nat} (hi : i < 64) :
    (s.bar0Write (0x300000 + 16 * i) v allBytes).bar0Read (0x300000 + 16 * i) = v &&& ~~~3 := by
  have h1 : (0x300000 + 16 * i - 0x300000) / 16 = i := by omega
  have h2 : decide ((0x300000 + 16 * i) % 16 = 8) = false := decide_eq_false (by omega)
  have hw : s.bar0Write (0x300000 + 16 * i) v allBytes = s.msixWrite i false v := by
    unfold State.bar0Write
    dsimp only
    rw [merged_all, if_neg (by omega), if_neg (by omega), if_neg (by omega), if_neg (by omega), if_neg (by omega), if_pos (by omega), h1, h2]
  rw [hw, State.bar0Read, if_neg (by omega), if_neg (by omega), if_neg (by omega), if_neg (by omega), if_neg (by omega), if_neg (by omega),
    if_pos (by omega), h1, h2, State.msixWrite, flushPba_msix]
  exact congrArg (fun e : MsixEntry => e.word false) (look_put_same MsixEntry.reset s.hif.msix i _)

/-! ## The registers of the AON domain -/

theorem aon_back (s : State) (v : W64) : let aon off := (s.aonWrite off v allBytes).aonRead off
    aon 0x0100 = v &&& 0x1F ∧ aon 0x0210 = v ∧ aon 0x1000 = v &&& 0xFFFFFFF ∧ aon 0x1050 = v &&& 0xFFFFFFFF := by
  intro aon
  have hf : aon 0x0100 = BitVec.ofNat 64 (((merged (s.aonRead 0x0100) v allBytes).extractLsb' 0 4).toNat +
      16 * boolBit ((merged (s.aonRead 0x0100) v allBytes).getLsbD 4)) := rfl
  have hs : aon 0x0210 = merged (s.aonRead 0x0210) v allBytes := rfl
  have he : aon 0x1000 = BitVec.ofNat 64 (((merged (s.aonRead 0x1000) v allBytes).extractLsb' 0 16).toNat +
      2 ^ 16 * boolBit ((merged (s.aonRead 0x1000) v allBytes).getLsbD 16) + 2 ^ 17 * boolBit ((merged (s.aonRead 0x1000) v allBytes).getLsbD 17) +
      2 ^ 18 * ((merged (s.aonRead 0x1000) v allBytes).extractLsb' 18 5).toNat +
      2 ^ 23 * ((merged (s.aonRead 0x1000) v allBytes).extractLsb' 23 5).toNat) := rfl
  have hd : aon 0x1050 = ((merged (s.aonRead 0x1050) v allBytes).extractLsb' 0 32).zeroExtend 64 := rfl
  rw [hf, hs, he, hd, merged_all, merged_all, merged_all, merged_all]
  refine ⟨word_of_fields [(0, 4), (0, 1)] (by decide) ?_, rfl, word_of_fields [(0, 16), (0, 1), (0, 1), (0, 5), (0, 5)] (by decide) ?_,
    low_field (by decide) (by decide)⟩
  · simp only [boolBit_bit, extract_nat, fieldSum]
    omega
  · simp only [boolBit_bit, extract_nat, fieldSum]
    omega

/-! ## Every register -/

/-- The registers of a core. -/
theorem scalar_back (s : State) (b : BlockId) (r q : Reg) (v : W64) :
    (s.setG b r v).getG b q = (if q = 0 then 0 else if q = r then v else s.getG b q) ∧
    (s.setG b r v).getF b q = s.getF b q ∧
    ((s.blk b).core.setF r v).getF q = (if q = r then v else s.getF b q) ∧ ((s.blk b).core.setF r v).getG q = s.getG b q := by
  have hc : ((s.setG b r v).blk b).core = (s.blk b).core.setG r v := congrArg Block.core (blk_modBlk_same s b _)
  refine ⟨?_, ?_, ?_, Core.getG_setF _ _ _ _⟩
  · show ((s.setG b r v).blk b).core.getG q = _
    rw [hc]
    by_cases h0 : q = 0
    · rw [if_pos h0, h0, Core.getG_zero]
    · rw [if_neg h0]
      by_cases hr : q = r
      · subst hr
        rw [if_pos rfl, Core.getG_setG_same, if_neg h0]
      · rw [if_neg hr, Core.getG_setG_ne _ _ hr]
        rfl
  · show ((s.setG b r v).blk b).core.getF q = _
    rw [hc, Core.getF_setG]
    rfl
  · by_cases hr : q = r
    · subst hr
      rw [if_pos rfl, Core.getF_setF_same]
    · rw [if_neg hr, Core.getF_setF_ne _ _ hr]
      rfl

end Sys2Proof.Machine

/-- Settles O9: a register that is written and read back holds the fields of the word, each in its place, which a mask of fields gives. -/
theorem registersReadBack : Obligations.RegistersReadBack := by
  unfold Obligations.RegistersReadBack
  refine ⟨scalar_back, fun s b c v hb => ?_, fun s c v off ho => ?_, fun s b v m hb => entry_back hb _ v m, fun s v hu hc => ?_⟩
  · intro after
    have hd : ∀ off, (decide (b = mgmtCore) && !mgmtHas off) = false := fun off => by rw [decide_eq_false hb, Bool.false_and]
    obtain ⟨h410, h418, h420, h428, h430, h438, h440, h448, h480, h488, h4a0, h490, h498⟩ := privileges_back (s := s) (b := b) c v
    exact ⟨(entry_back hb _ v allBytes).trans (by rw [merged_all]), remain_back (hd _) c v, loop_back (hd _) c v, h410 (hd _), h418 (hd _), h420 (hd _),
      h428 (hd _), h430 (hd _), h438 (hd _), h440 (hd _), h448 (hd _), h480 (hd _), h488 (hd _), h4a0 (hd _), h490 (hd _), h498 (hd _),
      grp_back hb c v, nsend_back hb c v, (clkEn_back hb c v).1, (clkEn_back hb c v).2, fun n hn => slot_back hb c v hn, fun n hn => rx_back hb c v hn,
      fun n hn => send_back hb c v hn⟩
  · obtain ⟨h410, h418, -, -, -, h438, -, -, h480, -, -, h490, -⟩ := privileges_back (s := s) (b := mgmtCore) c v
    simp only [List.mem_cons, List.not_mem_nil, or_false] at ho
    rcases ho with rfl | rfl | rfl | rfl | rfl | rfl
    · exact remain_back (by decide) c v
    · exact h410 (by decide)
    · exact h418 (by decide)
    · exact h438 (by decide)
    · exact h480 (by decide)
    · exact h490 (by decide)
  · intro bar0 aon
    have hbar : ∀ off, off % 8 = 0 → off < 2 ^ 32 → bar0 off = (s.bar0Write off v allBytes).bar0Read off := fun off h k => by
      show (match exec (.registerWrite .bar0 (BitVec.ofNat 32 off) v ⟨0xFF, .served .ok⟩) s with | .next t => t.bar0Read off | _ => 0) = _
      rw [bar0_write hu h k]
    have haon : ∀ off, off % 8 = 0 → off < 2 ^ 32 → aon off = (s.aonWrite off v allBytes).aonRead off := fun off h k => by
      show (match exec (.registerWrite .aon (BitVec.ofNat 32 off) v ⟨0xFF, .served .ok⟩) s with | .next t => t.aonRead off | _ => 0) = _
      rw [aon_write hc h k]
    obtain ⟨h100, h210, h1000, h1050⟩ := aon_back s v
    refine ⟨(hbar _ (by decide) (by decide)).trans (evtCfg_back s v), (hbar _ (by decide) (by decide)).trans (evtPend_back s v), fun q hq ha => ?_,
      fun q hq => (hbar _ (by omega) (by omega)).trans (coalesce_back s v hq), fun i hi => (hbar _ (by omega) (by omega)).trans (dictData_back s v hi),
      fun i hi => (hbar _ (by omega) (by omega)).trans (msix_back s v hi), (haon _ (by decide) (by decide)).trans h100,
      (haon _ (by decide) (by decide)).trans h210, (haon _ (by decide) (by decide)).trans h1000, (haon _ (by decide) (by decide)).trans h1050⟩
    exact ⟨(hbar _ (by omega) (by omega)).trans (ring_back s v hq ha).1, (hbar _ (by omega) (by omega)).trans (ring_back s v hq ha).2⟩
end

/-! # Elette frames and datagrams: the proofs -/
section
open Sys2Proof Sys2Proof.Machine
namespace Sys2Proof.Machine

variable {s : State} {f : EltFrame} {dg : Datagram} {rest : List Datagram}

/-! ## A datagram goes on (R569, R570) -/

/-- The frame in passage, once a datagram has left with some acts, and those after it that no device acts on. -/
def EltFrame.passed (f : EltFrame) (rest : List Datagram) (d : Datagram) (acts : List EndAct) : EltFrame :=
  { f with rest := rest.drop (plainOf rest).length, acts := f.acts ++ acts, out := f.out ++ [hopOn d] ++ (plainOf rest).map hopOn }

/-- Of `rest`, the datagrams of a reserved operation that pass uncounted by any device. -/
def rsvAfter (n : Nat) (rest : List Datagram) : Nat := min (n + ((plainOf rest).filter fun d => decide (d.op ≠ 0)).length) (2 ^ 64 - 1)

theorem passPlain_elt (u : State) (g : EltFrame) : (u.passPlain g).elt = { u.elt with
    frame := some { g with rest := g.rest.drop (plainOf g.rest).length, out := g.out ++ (plainOf g.rest).map hopOn }
    rsvCmd := rsvAfter u.elt.rsvCmd g.rest } := rfl

/-- What a datagram leaves in the frame. -/
theorem sendDatagram_elt (u : State) (hr : f.rest = dg :: rest) (d : Datagram) (acts : List EndAct) :
    (u.sendDatagram f d acts).elt.frame = some (f.passed rest d acts) ∧ (u.sendDatagram f d acts).elt.rsvCmd = rsvAfter u.elt.rsvCmd rest := by
  have hd : f.rest.drop 1 = rest := by rw [hr]; rfl
  unfold State.sendDatagram
  rw [hd, passPlain_elt]
  exact ⟨rfl, rfl⟩

/-- An answer of the device that acts leaves with its STATUS, TALLY and LAST. -/
theorem reply_elt (u : State) (hr : f.rest = dg :: rest) (he : u.elt = s.elt) (hs : u.station = s.station) (d : Datagram) (st : DStat) (l : List Byte)
    (acts : List EndAct) : (u.reply f d st l acts).elt.frame = some (f.passed rest (answered { d with data := l } st s.station) acts) ∧
      (u.reply f d st l acts).elt.rsvCmd = rsvAfter s.elt.rsvCmd rest := by
  unfold State.reply
  rw [hs, ← he]
  exact sendDatagram_elt u hr _ _

/-- The instruction of a datagram runs: it leaves as `d`, with `acts` kept for the end of the frame. -/
def Sent (s : State) (f : EltFrame) (rest : List Datagram) (c : Instr) (d : Datagram) (acts : List EndAct) : Prop :=
  ∃ t, exec c s = .next t ∧ t.elt.frame = some (f.passed rest d acts) ∧ t.elt.rsvCmd = rsvAfter s.elt.rsvCmd rest

theorem sent_of_reply {c : Instr} {u : State} {d : Datagram} {st : DStat} {l : List Byte} {acts : List EndAct} (hr : f.rest = dg :: rest)
    (he : u.elt = s.elt) (hs : u.station = s.station) (hx : exec c s = .next (u.reply f d st l acts)) :
    Sent s f rest c (answered { d with data := l } st s.station) acts :=
  ⟨_, hx, reply_elt u hr he hs d st l acts⟩

theorem sent_of_send {c : Instr} {d : Datagram} {acts : List EndAct} (hr : f.rest = dg :: rest) (hx : exec c s = .next (s.sendDatagram f d acts)) :
    Sent s f rest c d acts := ⟨_, hx, sendDatagram_elt s hr d acts⟩

/-- The answers, by their status. -/
theorem answered_ok (d : Datagram) (station : Byte) : answered d .ok station = { d with tally := d.tally + 1, last := station } := by
  unfold answered
  have h : ¬d.status < DStat.elette .ok := BitVec.not_lt_zero
  rw [if_neg h]
  rfl

theorem answered_bad (d : Datagram) {st : DStat} (station : Byte) (h : st ≠ .ok) (k : st ≠ .deferred) :
    answered d st station = { d with status := if d.status < st.elette then st.elette else d.status } := by
  have hg : decide (st = .ok ∨ st = .deferred) = false := decide_eq_false fun e => e.elim h k
  unfold answered
  dsimp only
  rw [hg, if_neg k]
  rfl

theorem frameFor_some {op : Byte} (he : s.elt.frame = some f) (hr : f.rest = dg :: rest) (ho : dg.op = op) : s.frameFor op dg = some f := by
  unfold State.frameFor
  rw [he, Option.filter_some, if_pos]
  rw [hr, List.head?_cons]
  exact decide_eq_true ⟨rfl, ho⟩

/-! ## Reads (R571 to R576) -/

theorem frameRead_ok (f : EltFrame) {i sub : Nat} (n : Nat) (h : ¬(i = 0x5010 ∧ sub = 2)) : ∃ u : State, u.elt = s.elt ∧ u.station = s.station ∧
    s.frameRead f i sub n .ok = (u, .ok, if i = 0x3010 ∧ sub = 1 then leBytes 8 f.t0.toNat else s.objBytes .elette i sub n) := by
  have hf : s.fastRead .elette i sub n .ok = (if i = 0x2000 ∧ sub = 3 then s.useFree else s, .ok, s.objBytes .elette i sub n) := by
    unfold State.fastRead
    exact if_neg h
  refine ⟨if i = 0x2000 ∧ sub = 3 then s.useFree else s, ?_, ?_, ?_⟩
  · split <;> rfl
  · split <;> rfl
  · unfold State.frameRead
    rw [hf]
    generalize (if i = 0x2000 ∧ sub = 3 then s.useFree else s) = u
    dsimp only
    by_cases hi : i = 0x3010 ∧ sub = 1
    · rw [if_pos hi, if_pos ⟨hi.1, hi.2, rfl⟩]
    · rw [if_neg hi, if_neg fun e => hi ⟨e.1, e.2.1⟩]

/-- What an acting device answers to a datagram that reads. -/
theorem get_clause {c : Instr} (hr : f.rest = dg :: rest) (hx : exec c s = .next (s.getDatagram f dg .ok)) :
    let i := dg.index.toNat
    let sub := dg.sub.toNat
    let refused := fun (st : Byte) => { dg with status := if dg.status < st then st else dg.status }
    (objInfo i sub = none → Sent s f rest c (refused 0x10) []) ∧
    (s.dictCheck .elette false i sub false (fun t => t.fits dg.len) = .ok →
      (isDeferred i sub = false → ¬(i = 0x5010 ∧ sub = 2) → Sent s f rest c
        { dg with data := if i = 0x3010 ∧ sub = 1 then leBytes 8 f.t0.toNat else s.objBytes .elette i sub dg.len, status := dg.status,
                  tally := dg.tally + 1, last := s.station } []) ∧
      (isDeferred i sub = true → dg.len ≤ 1024 →
        (s.deferredHeld f < 8 → Sent s f rest c { refused 1 with tally := dg.tally + 1, last := s.station, flags := dg.flags ||| 1 }
          [.request ⟨dg.tag, dg.index, dg.sub, false, dg.len, [], false⟩]) ∧
        (8 ≤ s.deferredHeld f → Sent s f rest c (refused 2) []))) := by
  intro i sub refused
  refine ⟨fun ho => ?_, fun hck => ⟨fun hd hj => ?_, fun hd hl => ⟨fun hlt => ?_, fun hge => ?_⟩⟩⟩
  · have hck : s.dictCheck .elette false i sub false (fun t => t.fits dg.len) = .noObject := by unfold State.dictCheck; rw [ho]
    have heq : s.getDatagram f dg .ok = s.reply f dg .noObject dg.data [] := by
      unfold State.getDatagram
      dsimp only
      rw [hck, if_pos (by decide)]
    have h := sent_of_reply hr rfl rfl (hx.trans (congrArg Host.Outcome.next heq))
    rwa [answered_bad _ _ (by decide) (by decide)] at h
  · obtain ⟨u, hue, hus, hread⟩ := frameRead_ok (s := s) f dg.len hj
    have heq : s.getDatagram f dg .ok = u.reply f dg .ok (if i = 0x3010 ∧ sub = 1 then leBytes 8 f.t0.toNat else s.objBytes .elette i sub dg.len) [] := by
      unfold State.getDatagram
      dsimp only
      rw [hck, if_neg (by decide), if_neg (by rw [hd]; decide), hread]
      dsimp only
      rw [if_pos rfl]
    have h := sent_of_reply hr hue hus (hx.trans (congrArg Host.Outcome.next heq))
    rwa [answered_ok] at h
  · have heq : s.getDatagram f dg .ok = s.reply f dg .deferred dg.data [.request (dgRequest dg false)] := by
      unfold State.getDatagram
      dsimp only
      rw [hck, if_neg (by decide), if_pos hd, State.deferDatagram, if_neg (by omega), if_pos hlt]
    exact sent_of_reply hr rfl rfl (hx.trans (congrArg Host.Outcome.next heq))
  · have heq : s.getDatagram f dg .ok = s.reply f dg .busy dg.data [] := by
      unfold State.getDatagram
      dsimp only
      rw [hck, if_neg (by decide), if_pos hd, State.deferDatagram, if_neg (by omega), if_neg (by omega)]
    have h := sent_of_reply hr rfl rfl (hx.trans (congrArg Host.Outcome.next heq))
    rwa [answered_bad _ _ (by decide) (by decide)] at h

/-! ## Writes (R574, R606) -/

theorem padTo_take (l : List Byte) {n : Nat} (h : l.length = n) : padTo n (l.take n) = l := by
  subst h
  rw [List.take_length, padTo, Nat.sub_self, List.replicate_zero, List.append_nil]

theorem put_clause {c : Instr} (fast : Bool) (hr : f.rest = dg :: rest) (hx : exec c s = .next (s.putDatagram f dg fast)) :
    let i := dg.index.toNat
    let sub := dg.sub.toNat
    (objInfo i sub = none → Sent s f rest c { dg with status := if dg.status < 0x10 then 0x10 else dg.status } []) ∧
    (dg.data.length = dg.len → isDeferred i sub = false → s.dictCheck .elette true i sub fast (fun t => t.fits dg.len) = .ok →
      s.valueOk i sub dg.data = true → Sent s f rest c { dg with data := dg.data, status := dg.status, tally := dg.tally + 1, last := s.station }
        [.write dg.index dg.sub dg.data]) := by
  intro i sub
  refine ⟨fun ho => ?_, fun hl hd hck hv => ?_⟩
  · have hck : s.dictCheck .elette true i sub fast (fun t => t.fits dg.len) = .noObject := by unfold State.dictCheck; rw [ho]
    have hlate : ∀ l, s.applyRefused .elette true i sub l .noObject = false := fun l => by simp [State.applyRefused]
    have heq : s.putDatagram f dg fast = s.reply f dg .noObject dg.data [] := by
      unfold State.putDatagram
      dsimp only
      rw [hck, if_pos (by decide), hlate]
      rfl
    have h := sent_of_reply hr rfl rfl (hx.trans (congrArg Host.Outcome.next heq))
    rwa [answered_bad _ _ (by decide) (by decide)] at h
  · have heq : s.putDatagram f dg fast = s.reply f dg .ok dg.data [.write dg.index dg.sub dg.data] := by
      unfold State.putDatagram
      dsimp only
      rw [hck, if_neg (by decide), if_neg (by rw [hd]; decide), padTo_take _ hl, if_pos hv]
    have h := sent_of_reply hr rfl rfl (hx.trans (congrArg Host.Outcome.next heq))
    rwa [answered_ok] at h

/-! ## GATHER, TLATCH and TDIST (R573, R579, R580) -/

/-- GATHER of an object that exists. -/
theorem gather_clause (he : s.elt.frame = some f) (hr : f.rest = dg :: rest) (ho : dg.op = 0x30) {o : Obj}
    (hob : objInfo dg.index.toNat dg.sub.toNat = some o) :
    let i := dg.index.toNat
    let sub := dg.sub.toNat
    let n := o.ty.size
    let a := n * dg.hops.toNat
    let value := if i = 0x3010 ∧ sub = 1 then leBytes 8 f.t0.toNat else s.objBytes .elette i sub n
    (dg.len < a + n → Sent s f rest (.gather dg .ok) dg []) ∧
    (a + n ≤ dg.len → s.dictCheck .elette false i sub true (fun _ => decide (dg.len % n = 0)) = .ok → ¬(i = 0x5010 ∧ sub = 2) →
      Sent s f rest (.gather dg .ok) { dg with data := dg.data.take a ++ value ++ dg.data.drop (a + value.length), status := dg.status,
                                               tally := dg.tally + 1, last := s.station } []) := by
  intro i sub n a value
  have hx : exec (.gather dg .ok) s = .next (gather dg .ok s) := rfl
  have hff := frameFor_some he hr ho
  refine ⟨fun hlt => ?_, fun hle hck hj => ?_⟩
  · have heq : gather dg .ok s = s.sendDatagram f dg [] := by
      unfold gather
      dsimp only
      rw [hff]
      dsimp only
      rw [hob]
      exact if_pos hlt
    exact sent_of_send hr (hx.trans (congrArg Host.Outcome.next heq))
  · obtain ⟨u, hue, hus, hread⟩ := frameRead_ok (s := s) f n hj
    have heq : gather dg .ok s = u.reply f dg .ok (splice dg.data a value) [] := by
      unfold gather
      dsimp only
      rw [hff]
      dsimp only
      rw [hob]
      dsimp only
      rw [if_neg (Nat.not_lt.2 hle), hck, if_neg (by decide), hread]
      dsimp only
      rw [if_pos rfl]
    have h := sent_of_reply hr hue hus (hx.trans (congrArg Host.Outcome.next heq))
    rwa [answered_ok] at h

theorem tlatch_clause (he : s.elt.frame = some f) (hr : f.rest = dg :: rest) (ho : dg.op = 0x40) :
    Sent s f rest (.tlatch dg) { dg with data := dg.data, status := dg.status, tally := dg.tally + 1, last := s.station } [.latch] := by
  have hx : exec (.tlatch dg) s = .next (tlatch dg s) := rfl
  have heq : tlatch dg s = s.reply f dg .ok dg.data [.latch] := by
    unfold tlatch
    rw [frameFor_some he hr ho]
  have h := sent_of_reply hr rfl rfl (hx.trans (congrArg Host.Outcome.next heq))
  rwa [answered_ok] at h

theorem tdist_clause (he : s.elt.frame = some f) (hr : f.rest = dg :: rest) (ho : dg.op = 0x41) (hl : dg.len = 8) (hi : dg.index = 0) (hs : dg.sub = 0) :
    let done := fun (d : List Byte) => { dg with data := d, status := dg.status, tally := dg.tally + 1, last := s.station }
    (s.forStation dg = true → Sent s f rest (.tdist dg) (done (leBytes 8 f.t0.toNat)) []) ∧
    (s.forStation dg = false → dg.tally = 0 → Sent s f rest (.tdist dg) dg []) ∧
    (s.forStation dg = false → dg.tally ≠ 0 →
      Sent s f rest (.tdist dg) (done dg.data) [.sample (timePlus (BitVec.ofNat 64 (leAt dg.data 0 8)) s.elt.delay)]) := by
  intro done
  have hok : decide (dg.len = 8 ∧ dg.index = 0 ∧ dg.sub = 0) = true := decide_eq_true ⟨hl, hi, hs⟩
  have hx : exec (.tdist dg) s = .next (tdist dg s) := rfl
  have hff := frameFor_some he hr ho
  refine ⟨fun hm => ?_, fun hm ht => ?_, fun hm ht => ?_⟩
  · have heq : tdist dg s = s.reply f dg .ok (leBytes 8 f.t0.toNat) [] := by
      unfold tdist
      rw [hff]
      dsimp only
      rw [hok, if_pos hm, if_pos rfl]
    have h := sent_of_reply hr rfl rfl (hx.trans (congrArg Host.Outcome.next heq))
    rwa [answered_ok] at h
  · have heq : tdist dg s = s.sendDatagram f dg [] := by
      unfold tdist
      rw [hff]
      dsimp only
      rw [hok, hm, if_neg Bool.false_ne_true, if_neg fun e => e.2 ht]
    exact sent_of_send hr (hx.trans (congrArg Host.Outcome.next heq))
  · have heq : tdist dg s = s.reply f dg .ok dg.data [.sample (timePlus (BitVec.ofNat 64 (leAt dg.data 0 8)) s.elt.delay)] := by
      unfold tdist
      rw [hff]
      dsimp only
      rw [hok, hm, if_neg Bool.false_ne_true, if_pos ⟨rfl, ht⟩]
    have h := sent_of_reply hr rfl rfl (hx.trans (congrArg Host.Outcome.next heq))
    rwa [answered_ok] at h

/-! ## The end of a frame (R574, R582, R584) -/

/-- The device with the end of a frame noted, before what the frame asked for. -/
def State.frameEnded (s : State) (f : EltFrame) (valid : Bool) : State := s.modElt fun e =>
  { e with frame := none, sent := withFcs valid f.sent
           fcsErr := if valid then e.fcsErr else satN e.fcsErr, malformed := if f.bad then satN e.malformed else e.malformed }

theorem frameEnd_eq {fcs : BitVec 32} {er : Bool} {t1 : W64} (he : s.elt.frame = some f) (hr : f.rest = []) :
    let valid := decide (fcs = crc32 f.bytes) && !er
    exec (.eletteFrameEndApply fcs er t1) s = .next (State.modElt (if valid && f.processed && !f.bad then f.acts.foldl (fun s a => s.endAct f t1 a)
      (s.frameEnded f valid) else s.frameEnded f valid) fun e => { e with looped := e.loopNext }) := by
  intro valid
  show Host.Outcome.next (eletteFrameEndApply fcs er t1 s) = _
  unfold eletteFrameEndApply
  rw [he]
  dsimp only
  rw [if_neg fun h => h hr]
  rfl

theorem frameEnd_none {fcs : BitVec 32} {er : Bool} {t1 : W64} (h : s.elt.frame = none ∨ (s.elt.frame = some f ∧ f.rest ≠ [])) :
    exec (.eletteFrameEndApply fcs er t1) s = .next s := by
  show Host.Outcome.next (eletteFrameEndApply fcs er t1 s) = _
  unfold eletteFrameEndApply
  rcases h with h | ⟨h, hr⟩
  · rw [h]
  · rw [h]
    dsimp only
    rw [if_pos hr]

theorem frameEnd_valid {t1 : W64} (he : s.elt.frame = some f) (hr : f.rest = []) (hp : f.processed = true) (hb : f.bad = false) :
    exec (.eletteFrameEndApply (crc32 f.bytes) false t1) s = .next (State.modElt (f.acts.foldl (fun s a => s.endAct f t1 a) (s.frameEnded f true))
      fun e => { e with looped := e.loopNext }) := by
  have h := frameEnd_eq (fcs := crc32 f.bytes) (er := false) (t1 := t1) he hr
  have hv : (decide (crc32 f.bytes = crc32 f.bytes) && !false) = true := by rw [decide_eq_true rfl]; rfl
  dsimp only at h
  rw [hv, hp, hb] at h
  exact h

theorem sent_processed (hp : f.processed = true) : f.sent = f.bytes.take 18 ++ f.out.flatMap dgBytes ++ f.after := if_pos hp

/-- The delay is written at the end of a frame, with its event. -/
theorem endAct_delay (u : State) (t1 : W64) (l : List Byte) : (u.endAct f t1 (.write 0x1110 3 l)).elt = { u.elt with delay := BitVec.ofNat 32 (leNat l) } ∧
    (u.endAct f t1 (.write 0x1110 3 l)).jnl.raised = u.jnl.raised + 1 := by
  have heq : u.endAct f t1 (.write 0x1110 3 l) = (u.dictEvent 2 0x1110 3 l).modElt fun e => { e with delay := BitVec.ofNat 32 (leNat l) } := rfl
  rw [heq]
  exact ⟨rfl, accept_raised u.jnl _⟩

theorem frameEnd_clause (t1 : W64) (he : s.elt.frame = some f) (hp : f.processed = true) (hb : f.bad = false) :
    let e := s.elt
    let fcs := crc32 f.bytes
    let out := f.bytes.take 18 ++ f.out.flatMap dgBytes ++ f.after
    (f.rest = [] → f.acts = [.latch] → ∃ t, exec (.eletteFrameEndApply fcs false t1) s = .next t ∧ t.elt.frame = none ∧
      t.elt.sent = out ++ leBytes 4 (crc32 out).toNat ∧
      t.elt.t0 = f.t0 ∧ t.elt.t1 = (if e.looped then f.t0 else t1) ∧ t.elt.looped = e.loopNext) ∧
    (f.rest = [] → ∀ r, f.acts = [.request r] → ∃ t, exec (.eletteFrameEndApply fcs false t1) s = .next t ∧ t.elt.requests = e.requests ++ [r]) ∧
    (f.rest = [] → ∀ l, f.acts = [.write 0x1110 3 l] → ∃ t, exec (.eletteFrameEndApply fcs false t1) s = .next t ∧
      t.elt.delay = BitVec.ofNat 32 (leNat l) ∧ t.jnl.raised = s.jnl.raised + 1) ∧
    (f.rest = [] → ∀ fcs' er, fcs' ≠ fcs ∨ er = true → ∃ t, exec (.eletteFrameEndApply fcs' er t1) s = .next t ∧ t.elt.frame = none ∧
      t.elt.sent = out ++ leBytes 4 (~~~crc32 out).toNat ∧ t.elt.fcsErr = min (e.fcsErr + 1) (2 ^ 64 - 1) ∧
      t.elt.t0 = e.t0 ∧ t.elt.requests = e.requests ∧ t.settings = s.settings ∧ t.jnl = s.jnl) := by
  intro e fcs out
  have hs : f.sent = out := sent_processed hp
  refine ⟨fun hr ha => ⟨_, frameEnd_valid he hr hp hb, ?_⟩, fun hr r ha => ⟨_, frameEnd_valid he hr hp hb, ?_⟩,
    fun hr l ha => ⟨_, frameEnd_valid he hr hp hb, ?_⟩, fun hr fcs' er hbad => ?_⟩
  · rw [ha]
    exact ⟨rfl, congrArg (withFcs true) hs, rfl, rfl, rfl⟩
  · rw [ha]
    rfl
  · rw [ha]
    obtain ⟨hd, hj⟩ := endAct_delay (f := f) (s.frameEnded f true) t1 l
    refine ⟨?_, hj⟩
    show ((s.frameEnded f true).endAct f t1 (.write 0x1110 3 l)).elt.delay = _
    rw [hd]
  · have hv : (decide (fcs' = crc32 f.bytes) && !er) = false := by
      rcases hbad with h | h
      · rw [decide_eq_false h, Bool.false_and]
      · rw [h, Bool.not_true, Bool.and_false]
    have h := frameEnd_eq (fcs := fcs') (er := er) (t1 := t1) he hr
    dsimp only at h
    rw [hv, Bool.false_and, Bool.false_and, if_neg Bool.false_ne_true] at h
    exact ⟨_, h, rfl, congrArg (withFcs false) hs, rfl, rfl, rfl, rfl, rfl⟩

/-! ## The arrival of a frame (R566, R567, R584) -/

theorem frameBytes_eq (addr : List Byte) (eth : BitVec 16) (ver count : Byte) (area : BitVec 16) (body pad : List Byte) :
    eltFrameBytes addr eth ver count area (body ++ pad) =
      addr ++ [BitVec.ofNat 8 (eth.toNat / 256), BitVec.ofNat 8 eth.toNat, ver, count] ++ leBytes 2 area.toNat ++ body ++ pad := by
  simp [eltFrameBytes, leBytes]

/-- The sizes of whole datagrams are the length of their bytes. -/
theorem dgSizes_eq (l : List Datagram) (h : ∀ d ∈ l, dgWhole d) : dgSizes l = (l.flatMap dgBytes).length := by
  rw [dgSizes, List.length_flatMap]
  exact congrArg List.sum (List.map_congr_left fun d hd => (dgBytes_length d (h d hd)).symm)

theorem frameReceive_clause (addr : List Byte) (eth : BitVec 16) (ver count : Byte) (area : BitVec 16) (l : List Datagram) (pad : List Byte)
    (hb : s.boot.st ≠ .off) (hm : (s.monitor 2).failed = false) (hf : s.elt.frame = none) (ho : s.elt.outLink = true) :
    let e := s.elt
    let body := l.flatMap dgBytes
    let bytes := addr ++ [BitVec.ofNat 8 (eth.toNat / 256), BitVec.ofNat 8 eth.toNat, ver, count] ++ leBytes 2 area.toNat ++ body ++ pad
    (e.en = true → eth = e.etherType → ver = 1 → l.length = count.toNat → body.length = area.toNat → 0 < count.toNat →
      (∀ d ∈ l, d.data.length = d.len ∧ d.len < 4096) → ∃ t, exec (.eletteFrameReceive addr eth ver count area (body ++ pad)) s = .next t ∧
        t.elt.frame = some ⟨true, bytes, l.drop (plainOf l).length, pad, false, s.time64, [], (plainOf l).map hopOn⟩ ∧
        t.elt.frames = min (e.frames + 1) (2 ^ 64 - 1)) ∧
    (e.en = false ∨ eth ≠ e.etherType ∨ ver ≠ 1 → ∃ t, exec (.eletteFrameReceive addr eth ver count area (body ++ pad)) s = .next t ∧
      t.elt.frame = some ⟨false, bytes, [], [], false, s.time64, [], []⟩ ∧ t.elt.other = min (e.other + 1) (2 ^ 64 - 1) ∧ t.elt.frames = e.frames) := by
  intro e body bytes
  have hgo : ¬(s.boot.st = .off ∨ (s.monitor 2).failed = true ∨ s.elt.frame.isSome = true ∨ (!s.elt.outLink) = true) := by
    rw [hm, hf, ho]
    rintro (h | h | h | h)
    · exact hb h
    · exact Bool.false_ne_true h
    · exact Bool.false_ne_true h
    · exact Bool.false_ne_true h
  have hbytes := frameBytes_eq addr eth ver count area body pad
  refine ⟨fun hen heth hver hcount harea hpos hw => ?_, fun hno => ?_⟩
  · have hwhole : ∀ d ∈ l, dgWhole d := hw
    have htake : (body ++ pad).take area.toNat = body := by rw [← harea, List.take_left]
    have hlist : dgList count.toNat body = l := by rw [← hcount]; exact dgList_dgBytes l hwhole
    have hsize : dgSizes l = body.length := dgSizes_eq l hwhole
    have hdrop : (body ++ pad).drop (dgSizes l) = pad := by rw [hsize, List.drop_left]
    have hc0 : count ≠ 0 := fun h => by rw [h] at hpos; exact absurd hpos (by decide)
    have hbad : decide (count = 0 ∨ (body ++ pad).length < area.toNat ∨ l.length < count.toNat ∨ dgSizes l ≠ area.toNat) = false := by
      refine decide_eq_false ?_
      rintro (h | h | h | h)
      · exact hc0 h
      · rw [List.length_append] at h; omega
      · omega
      · exact h (hsize.trans harea)
    have hen' : (e.en && decide (eth = e.etherType ∧ ver = 1)) = true := by rw [hen, decide_eq_true ⟨heth, hver⟩]; rfl
    have heq : eletteFrameReceive addr eth ver count area (body ++ pad) s =
        (s.modElt fun e => { e with frames := satN e.frames }).passPlain ⟨true, bytes, l, pad, false, s.time64, [], []⟩ := by
      unfold eletteFrameReceive
      dsimp only
      rw [if_neg hgo, if_pos hen', htake, hlist, hdrop, hbad, hbytes]
    refine ⟨_, congrArg Host.Outcome.next heq, ?_, ?_⟩
    · rw [passPlain_elt]
      exact congrArg some (congrArg (fun o => (⟨true, bytes, l.drop (plainOf l).length, pad, false, s.time64, [], o⟩ : EltFrame)) (List.nil_append _))
    · rw [passPlain_elt]
      rfl
  · have hen' : ¬(e.en && decide (eth = e.etherType ∧ ver = 1)) = true := by
      intro h
      rw [Bool.and_eq_true, decide_eq_true_eq] at h
      rcases hno with k | k | k
      · exact Bool.false_ne_true (k.symm.trans h.1)
      · exact k h.2.1
      · exact k h.2.2
    have heq : eletteFrameReceive addr eth ver count area (body ++ pad) s =
        s.modElt fun e => { e with other := satN e.other, frame := some ⟨false, bytes, [], [], false, s.time64, [], []⟩ } := by
      unfold eletteFrameReceive
      dsimp only
      rw [if_neg hgo, if_neg hen', hbytes]
    exact ⟨_, congrArg Host.Outcome.next heq, rfl, rfl, rfl⟩

/-- A frame returned on port 1. -/
theorem returnForward_clause (l : List Byte) (er : Bool) (hb : s.boot.st ≠ .off) (hm : (s.monitor 2).failed = false) (h0 : s.elt.link0 = true) :
    let e := s.elt
    let body := l.take (l.length - 4)
    (er = false → l.drop (l.length - 4) = leBytes 4 (crc32 body).toNat → exec (.eletteReturnForward ⟨l, er⟩) s = .next
      { s with elt := { e with returned := l } }) ∧
    (er = true ∨ l.drop (l.length - 4) ≠ leBytes 4 (crc32 body).toNat → exec (.eletteReturnForward ⟨l, er⟩) s = .next
      { s with elt := { e with returned := body ++ leBytes 4 (~~~crc32 body).toNat, fcsErr := min (e.fcsErr + 1) (2 ^ 64 - 1) } }) := by
  intro e body
  have hgo : ¬(s.boot.st = .off ∨ (s.monitor 2).failed = true) := by
    rw [hm]
    rintro (h | h)
    · exact hb h
    · exact Bool.false_ne_true h
  have heq : eletteReturnForward ⟨l, er⟩ s = s.modElt fun e =>
      { e with fcsErr := if (decide (l.drop (l.length - 4) = leBytes 4 (crc32 body).toNat) && !er) then e.fcsErr else satN e.fcsErr,
               returned := if e.link0 then withFcs (decide (l.drop (l.length - 4) = leBytes 4 (crc32 body).toNat) && !er) body else e.returned } := by
    unfold eletteReturnForward
    rw [if_neg hgo]
    rfl
  refine ⟨fun her hfcs => ?_, fun hbad => ?_⟩
  · have hv : (decide (l.drop (l.length - 4) = leBytes 4 (crc32 body).toNat) && !er) = true := by rw [decide_eq_true hfcs, her]; rfl
    have hl : withFcs true body = l := by
      show body ++ leBytes 4 (crc32 body).toNat = l
      rw [← hfcs, List.take_append_drop]
    refine congrArg Host.Outcome.next (heq.trans ?_)
    rw [hv, State.modElt, h0, hl]
    rfl
  · have hv : (decide (l.drop (l.length - 4) = leBytes 4 (crc32 body).toNat) && !er) = false := by
      rcases hbad with h | h
      · rw [h, Bool.not_true, Bool.and_false]
      · rw [decide_eq_false h, Bool.false_and]
    refine congrArg Host.Outcome.next (heq.trans ?_)
    rw [hv, State.modElt, h0]
    rfl

theorem linkPoll_eq (a b : Bool) (hb : s.boot.st ≠ .off) (hf : s.elt.frame = none) : exec (.phyLinkPoll a b) s = .next
    { s with elt := { s.elt with link0 := a, link1 := b, loopNext := !b || s.elt.forceLoop, looped := !b || s.elt.forceLoop } } := by
  refine congrArg Host.Outcome.next ?_
  have hn : s.elt.frame.isSome = false := by rw [hf]; rfl
  unfold phyLinkPoll
  rw [if_neg hb, State.modElt, hn]
  rfl

/-! ## The datagrams of a frame -/

theorem forStation_iff (s : State) (dg : Datagram) : s.forStation dg = true ↔ s.station ≠ 0 ∧ dg.target = s.station := decide_eq_true_iff

end Sys2Proof.Machine

/-- Settles O57: every datagram leaves the frame the same way, with the answer that its operation gives, and the end of the frame runs its acts. -/
theorem eletteFrames : Obligations.EletteFrames := by
  unfold Obligations.EletteFrames
  intro s f dg rest e op plain hop i sub sent done refused value mine reads writes
  refine ⟨fun he hr => ⟨fun ho => ?_, fun ho => ?_, fun ho => ?_, fun ho => ?_, fun ho => ?_, fun ho o hob => ?_, fun ho => ?_, fun ho hl hi hs => ?_⟩,
    fun t1 he hp hb => frameEnd_clause t1 he hp hb, fun fcs er t1 h => frameEnd_none h,
    fun addr eth ver count area l pad hb hm hf ho => frameReceive_clause addr eth ver count area l pad hb hm hf ho,
    fun l er hb hm h0 _ => returnForward_clause l er hb hm h0, fun a b hb hf => linkPoll_eq a b hb hf⟩
  · have hff := frameFor_some he hr ho
    have hx : exec (.sget dg .ok) s = .next (if s.forStation dg then s.getDatagram f dg .ok else s.sendDatagram f dg []) := by
      show Host.Outcome.next (sget dg .ok s) = _
      unfold sget
      rw [hff]
    exact ⟨fun hm => get_clause hr (hx.trans (congrArg Host.Outcome.next (if_pos ((forStation_iff s dg).mpr hm)))),
      fun hm => sent_of_send hr (hx.trans (congrArg Host.Outcome.next (if_neg fun k => hm ((forStation_iff s dg).mp k))))⟩
  · have hff := frameFor_some he hr ho
    have hx : exec (.sput dg) s = .next (if s.forStation dg then s.putDatagram f dg false else s.sendDatagram f dg []) := by
      show Host.Outcome.next (sput dg s) = _
      unfold sput
      rw [hff]
    exact ⟨fun hm => put_clause false hr (hx.trans (congrArg Host.Outcome.next (if_pos ((forStation_iff s dg).mpr hm)))),
      fun hm => sent_of_send hr (hx.trans (congrArg Host.Outcome.next (if_neg fun k => hm ((forStation_iff s dg).mp k))))⟩
  · have hff := frameFor_some he hr ho
    have hx : exec (.pget dg .ok) s = .next (if dg.target = dg.hops then s.getDatagram f dg .ok else s.sendDatagram f dg []) := by
      show Host.Outcome.next (pget dg .ok s) = _
      unfold pget
      rw [hff]
    exact ⟨fun hm => get_clause hr (hx.trans (congrArg Host.Outcome.next (if_pos hm))),
      fun hm => sent_of_send hr (hx.trans (congrArg Host.Outcome.next (if_neg hm)))⟩
  · have hff := frameFor_some he hr ho
    have hx : exec (.pput dg) s = .next (if dg.target = dg.hops then s.putDatagram f dg false else s.sendDatagram f dg []) := by
      show Host.Outcome.next (pput dg s) = _
      unfold pput
      rw [hff]
    exact ⟨fun hm => put_clause false hr (hx.trans (congrArg Host.Outcome.next (if_pos hm))),
      fun hm => sent_of_send hr (hx.trans (congrArg Host.Outcome.next (if_neg hm)))⟩
  · have hx : exec (.allput dg) s = .next (s.putDatagram f dg true) := by
      show Host.Outcome.next (allput dg s) = _
      unfold allput
      rw [frameFor_some he hr ho]
    exact put_clause true hr hx
  · exact gather_clause he hr ho hob
  · exact tlatch_clause he hr ho
  · obtain ⟨hyes, hno, hsample⟩ := tdist_clause he hr ho hl hi hs
    have hnot : ¬mine → s.forStation dg = false := fun hm => Bool.eq_false_iff.mpr fun k => hm ((forStation_iff s dg).mp k)
    exact ⟨fun hm => hyes ((forStation_iff s dg).mpr hm), fun hm ht => hno (hnot hm) ht, fun hm ht => hsample (hnot hm) ht⟩
end

/-! # Power-on of the AON domain (R689, R694, R695, R697, R698): the proofs -/

section
open Sys2Proof Sys2Proof.Machine

namespace Sys2Proof.Machine

/-! ## Copies of retained structures (R694, R812) -/

theorem image_whole (c : RetCopy) : c.image [] =
    (c.bytes ++ leBytes 4 c.count.toNat) ++ leBytes 4 (crc32c (c.bytes ++ leBytes 4 c.count.toNat)).toNat := by
  unfold RetCopy.image
  simp

/-- A number of `n` bytes after a list. -/
theorem leAt_after (l : List Byte) (n v : Nat) (r : List Byte) : leAt (l ++ (leBytes n v ++ r)) l.length n = v % 256 ^ n := by
  rw [leAt, List.drop_left]
  exact leAt_here n v r

/-- A copy that no bit has turned in gives its bytes and its count. -/
theorem validCopy_whole (c : RetCopy) : validCopy (c.image []) = some (c.bytes, c.count.toNat) := by
  rw [image_whole]
  generalize hb : c.bytes ++ leBytes 4 c.count.toNat = l
  have hl : l.length = c.bytes.length + 4 := by rw [← hb]; simp
  have hn : (l ++ leBytes 4 (crc32c l).toNat).length - 4 = l.length := by simp
  have hat : leAt (l ++ leBytes 4 (crc32c l).toNat) l.length 4 = (crc32c l).toNat := by
    have h := leAt_after l 4 (crc32c l).toNat []
    rw [List.append_nil] at h
    exact h.trans (Nat.mod_eq_of_lt (crc32c l).isLt)
  have hcount : leAt (l ++ leBytes 4 (crc32c l).toNat) (l.length - 4) 4 = c.count.toNat := by
    rw [hl, ← hb, List.append_assoc, Nat.add_sub_cancel]
    exact (leAt_after c.bytes 4 _ _).trans (Nat.mod_eq_of_lt c.count.isLt)
  unfold validCopy
  dsimp only
  rw [hn, List.take_left, hat, hcount, if_pos ⟨by simp; omega, rfl⟩, List.take_append_of_le_length (by omega), ← hb]
  simp

section
variable (s : State)

/-- Without damage the newer copy is used. -/
theorem retained_newer {n m : Nat} {p : RetPair} (h : s.ret.find? (fun e => decide (e.1 = n)) = some (m, p))
    (ho : ∀ o, p.older = some o → o.count ≤ p.newer.count) : s.retained [] n = some p.newer.bytes := by
  have hc : s.copies [] n = (some (p.newer.bytes, p.newer.count.toNat), p.older.map fun o => (o.bytes, o.count.toNat)) := by
    unfold State.copies
    rw [h]
    simp only [List.filter_nil, List.flatMap_nil, validCopy_whole, Prod.mk.injEq, true_and]
    cases p.older <;> rfl
  rw [State.retained, hc]
  cases hp : p.older with
  | none => rfl
  | some o => exact congrArg some (if_pos (ho o hp))

/-! ## Power-on of the AON domain (R689, R694, R695, R697, R698) -/

theorem stored_whole (damage : List (Nat × Bool × List Nat)) {pages : List (Nat × Bool)} {n : Nat} (h : (n, true) ∉ pages) (k : (n, false) ∉ pages) :
    s.stored damage pages n = s.retained damage n := by
  rw [State.stored, if_neg h, if_neg k, State.retained]

theorem stored_lost (damage : List (Nat × Bool × List Nat)) {pages : List (Nat × Bool)} {n : Nat} (h : (n, true) ∈ pages) (k : (n, false) ∈ pages) :
    s.stored damage pages n = none := by
  rw [State.stored, if_pos h, if_pos k, usedCopy]

theorem firstInvalid_none (damage : List (Nat × Bool × List Nat)) :
    (s.firstInvalid damage).isNone = true ↔ ∀ n ∈ [1, 2, 3, 4], s.retained damage n ≠ none := by
  rw [State.firstInvalid, Option.isNone_iff_eq_none, List.find?_eq_none]
  simp only [Option.isNone_iff_eq_none, ne_eq]

end

/-- The records of the persistent store are read, and the generation with them. -/
def State.recordsRead (s : State) (read : Nat → Option (List Byte)) : State :=
  (s.takeRecords fun n => (read n).getD []).modJnl fun j => { j with gen := BitVec.ofNat 64 (leAt ((read 16).getD []) 0 8) }

/-- The retained structures as well at a warm start, and the flash copies of the objects. -/
def State.dataTaken (s : State) (damage : List (Nat × Bool × List Nat)) (pages : List (Nat × Bool)) (warm : Bool) : State :=
  let u := s.recordsRead (s.stored damage pages)
  (if warm then u.takeRetained fun n => (s.retained damage n).getD [] else u).loadFlash

/-- The start is noted before it begins. -/
def State.startNoted (u : State) (warm : Bool) (failed : BitVec 8) : State := u.modSup fun x => { x with warm := warm, failed := failed }

/-- A warm start, or a cold one. -/
def State.begun (u : State) (ticks : Nat) (warm : Bool) (failed : BitVec 8) : State :=
  if warm then (u.startNoted warm failed).warmStart ticks else (u.startNoted warm failed).coldStart

/-- The start is reported, and the boot ROM reads flash. -/
def State.powered (u : State) (lost : List Nat) : State := (lost.foldl (fun s _ => s.supplyEvent 0xFE 9) u).modBoot fun b => { b with st := .flash }

section
variable (s : State)

theorem powered_aon (lost : List Nat) : (s.powered lost).aon = { s.aon with boot := { s.boot with st := .flash } } := by
  have h : (lost.foldl (fun s _ => s.supplyEvent 0xFE 9) s).aon = s.aon := foldl_keeps State.aon (fun s _ => supplyEvent_aon s _ _) lost s
  rw [State.powered, modBoot_aon, h, boot_of_aon h]
  rfl

theorem hifEvent_station (n : Nat) : (s.hifEvent n).station = s.station := by
  unfold State.hifEvent State.raiseVector
  dsimp only
  split
  · split <;> rfl
  · rfl

theorem raise_station (kind : Nat) (ref result tag : W64) : (s.raise kind ref result tag).station = s.station := rfl

theorem supplyEvent_station (rail code : Nat) : (s.supplyEvent rail code).station = s.station :=
  (hifEvent_station _ _).trans (raise_station s _ _ _ _)

theorem commitRec_station (r : Rec) : (s.commitRec r).settleEvents.station = s.station := rfl

theorem resetRecord_station (src scope : Nat) : (s.resetRecord src scope).station = s.station := by
  unfold State.resetRecord
  dsimp only
  rw [commitRec_station]
  rfl

theorem abandonLost_station : s.abandonLost.station = s.station :=
  foldl_keeps State.station (fun s _ => commitRec_station s _) _ s

theorem newGeneration_station : s.newGeneration.station = s.station := by
  unfold State.newGeneration
  dsimp only
  rw [commitRec_station]
  rfl

theorem resetEvent_station (src scope : Nat) : (s.resetEvent src scope).station = s.station := raise_station _ _ _ _ _

theorem powered_station (lost : List Nat) : (s.powered lost).station = s.station :=
  foldl_keeps State.station (fun s _ => supplyEvent_station s _ _) lost s

theorem warmJournal_aon : ∃ ring next, s.warmJournal.aon = s.aon.logged ring next := by
  unfold State.warmJournal
  dsimp only
  split
  · exact ⟨_, _, rfl⟩
  · split
    · exact ⟨_, _, rfl⟩
    · exact ⟨_, _, raise_aon _ _ _ _ _⟩

/-- The time that a warm start goes on with. -/
def State.warmTime (s : State) (ticks : Nat) : Time :=
  if (look ClkMon.reset s.clkmon 1).failed then { Time.reset with rtc := s.time.rtc } else s.time.resumed ticks

theorem resumed_eq (t : Time) (ticks : Nat) : ∃ ns sec rtc, t.resumed ticks = { Time.reset with ns := ns, sec := sec, valid := t.valid, rtc := rtc } :=
  ⟨_, _, _, rfl⟩

theorem warmTime_parts (ticks : Nat) : (s.warmTime ticks).tlock = false ∧ (s.warmTime ticks).flock = false ∧
    ((s.warmTime ticks).valid = true → s.time.valid = true) := by
  unfold State.warmTime
  split
  · exact ⟨rfl, rfl, fun h => absurd h Bool.false_ne_true⟩
  · obtain ⟨ns, sec, rtc, h⟩ := resumed_eq s.time ticks
    rw [h]
    exact ⟨rfl, rfl, id⟩

theorem warmTime_modSup (f : Supply → Supply) (ticks : Nat) : (s.modSup f).warmTime ticks = s.warmTime ticks := by
  unfold State.warmTime
  rw [show (s.modSup f).time = s.time from rfl, show (s.modSup f).clkmon = s.clkmon from rfl]

theorem warmStart_eq (ticks : Nat) : ∃ code old, s.warmStart ticks =
    (((({ s with time := s.warmTime ticks } : State).warmJournal.resetRecord 1 4).abandonLost).timeEvent code old) := by
  unfold State.warmStart State.warmTime
  dsimp only
  split
  · exact ⟨12, _, rfl⟩
  · exact ⟨11, _, rfl⟩

theorem warmStart_aon (ticks : Nat) : ∃ ring next, (s.warmStart ticks).aon =
    ({ s.aon with time := s.warmTime ticks }.lastReset 1 4).logged ring next := by
  obtain ⟨code, old, h⟩ := warmStart_eq s ticks
  obtain ⟨ring, next, hw⟩ := warmJournal_aon { s with time := s.warmTime ticks }
  obtain ⟨ring', hr⟩ := resetRecord_aon ({ s with time := s.warmTime ticks } : State).warmJournal 1 4
  obtain ⟨ring'', next'', ha⟩ := abandonLost_aon (({ s with time := s.warmTime ticks } : State).warmJournal.resetRecord 1 4)
  refine ⟨ring'', next'', ?_⟩
  rw [h, timeEvent_aon, ha, hr, hw]
  rfl

theorem warmStart_station (ticks : Nat) : (s.warmStart ticks).station = s.station := by
  obtain ⟨code, old, h⟩ := warmStart_eq s ticks
  have hw : ∀ u : State, u.warmJournal.station = u.station := fun u => by
    unfold State.warmJournal
    dsimp only
    split
    · rfl
    · split <;> rfl
  have ht : ∀ u : State, (u.timeEvent code old).station = u.station := fun _ => rfl
  rw [h, ht, abandonLost_station, resetRecord_station, hw]

theorem clearRetention_station (src scope : Nat) : (s.clearRetention src scope).station = s.station := by
  have hc : s.retentionCleared.station = s.station := by
    unfold State.retentionCleared
    dsimp only
    split <;> rfl
  have hl : ∀ (u : State) (t f : Bool) (old : W64), (u.setLocks t f old).station = u.station := fun u t f old => by
    unfold State.setLocks
    dsimp only
    split <;> split <;> rfl
  have ht : ∀ (u : State) (old : W64), (u.timeLost old).station = u.station := fun u old => by
    unfold State.timeLost State.followValid
    dsimp only
    split
    · rw [hl]
      rfl
    · rfl
  have hb : ∀ u : State, (({ u with lastPlanId := 0 } : State).freshRetention.modSup fun x => { x with latch := true }).station = u.station :=
    fun _ => rfl
  rw [clearRetention_eq, State.retentionBegun, resetEvent_station]
  rw [hb, raise_station, ht, newGeneration_station, hc]

/-- What a cold start leaves outside the fast domain. -/
theorem coldStart_aon : ∃ r clk t, s.coldStart.aon = { s.aon with time := .reset }.cleared 1 5 r clk t ∧ t.valid = false ∧ r.ty = 0x20 ∧
    r.result = s.jnl.gen + 1 :=
  clearRetention_aon { s with time := .reset, hif := .reset } 1 5

theorem coldStart_station : s.coldStart.station = s.station := clearRetention_station { s with time := .reset, hif := .reset } 1 5

end

section
variable (s : State) (damage : List (Nat × Bool × List Nat)) (pages : List (Nat × Bool))

/-- The generation that the persistent store holds. -/
def storedGen (read : Nat → Option (List Byte)) : W64 := BitVec.ofNat 64 (leAt ((read 16).getD []) 0 8)

theorem dataTaken_cold : (s.dataTaken damage pages false).aon = (s.recordsRead (s.stored damage pages)).loadFlash.aon := rfl

/-- What the flash records and the structures give, whether the start is warm or cold. -/
theorem dataTaken_parts (warm : Bool) :
    (s.dataTaken damage pages warm).flash = (s.takeRecords fun n => (s.stored damage pages n).getD []).flash ∧
    (s.dataTaken damage pages warm).jnl.gen = storedGen (s.stored damage pages) ∧
    (s.dataTaken damage pages warm).supply = s.supply ∧ (s.dataTaken damage pages warm).boot = s.boot := by
  cases warm <;> exact ⟨rfl, rfl, rfl, rfl⟩

theorem loadFlash_station : s.loadFlash.station.toNat = s.flashValue 0x110001 % 256 := BitVec.toNat_ofNat _ 8

theorem dataTaken_station (warm : Bool) :
    (s.dataTaken damage pages warm).station.toNat = (s.dataTaken damage pages warm).flashValue 0x110001 % 256 := loadFlash_station _

theorem dataTaken_warm : (s.dataTaken damage pages true).lastPlanId = BitVec.ofNat 32 (leAt ((s.retained damage 4).getD []) 0 4) ∧
    (s.dataTaken damage pages true).time.valid = decide (leAt ((s.retained damage 3).getD []) 16 1 = 1) := ⟨rfl, rfl⟩

/-- The start is warm. -/
def State.warmth (sound : Bool) : Bool :=
  s.supply.latch && (s.firstInvalid damage).isNone && sound && decide (storedGen (s.stored damage pages) = s.jnl.gen)

theorem warmth_iff (sound : Bool) : s.warmth damage pages sound = true ↔
    s.supply.latch = true ∧ sound = true ∧ storedGen (s.stored damage pages) = s.jnl.gen ∧ ∀ n ∈ [1, 2, 3, 4], s.retained damage n ≠ none := by
  simp only [State.warmth, Bool.and_eq_true, firstInvalid_none, decide_eq_true_eq]
  tauto

theorem aonPowerOn_off (h : s.boot.st = .off) (ticks : Nat) (sound : Bool) : ∃ lost failed,
    aonPowerOn ticks damage sound pages s =
      ((s.dataTaken damage pages (s.warmth damage pages sound)).begun ticks (s.warmth damage pages sound) failed).powered lost := by
  refine ⟨s.lostRecords (s.stored damage pages),
    if s.supply.latch && !s.warmth damage pages sound then BitVec.ofNat 8 ((s.firstInvalid damage).getD 0) else 0, ?_⟩
  unfold aonPowerOn
  rw [if_neg (fun hn => hn h)]
  rfl

end

section
variable (u : State) (ticks : Nat) (failed : BitVec 8)

theorem begun_true : u.begun ticks true failed = (u.startNoted true failed).warmStart ticks := by rw [State.begun, if_pos rfl]

theorem begun_false : u.begun ticks false failed = (u.startNoted false failed).coldStart := by
  rw [State.begun, if_neg Bool.false_ne_true]

theorem startNoted_station (warm : Bool) : (u.startNoted warm failed).station = u.station := rfl

theorem startNoted_aon (warm : Bool) : (u.startNoted warm failed).aon = { u.aon with supply := { u.supply with warm := warm, failed := failed } } := rfl

theorem begun_station (warm : Bool) : (u.begun ticks warm failed).station = u.station := by
  cases warm
  · rw [begun_false, coldStart_station, startNoted_station]
  · rw [begun_true, warmStart_station, startNoted_station]

theorem begun_warm : ∃ ring next, (u.begun ticks true failed).aon = { u.aon with
    time := u.warmTime ticks, ring := ring, next := next, supply := { u.supply with warm := true, failed := failed, src := 1, scope := 4 } } := by
  obtain ⟨ring, next, h⟩ := warmStart_aon (u.startNoted true failed) ticks
  rw [State.startNoted, warmTime_modSup, modSup_aon] at h
  exact ⟨ring, next, (congrArg State.aon (begun_true u ticks failed)).trans h⟩

/-- What a cold start leaves of what a power-on found. -/
def Aon.begunCold (a : Aon) (failed : BitVec 8) (r : Rec) (clk : Tab ClkMon) (t : Time) : Aon :=
  ({ a with time := .reset, supply := { a.supply with warm := false, failed := failed } } : Aon).cleared 1 5 r clk t

theorem begun_cold : ∃ r clk t, (u.begun ticks false failed).aon = u.aon.begunCold failed r clk t ∧
    t.valid = false ∧ r.ty = 0x20 ∧ r.result = u.jnl.gen + 1 := by
  obtain ⟨r, clk, t, h, hv, hty, hres⟩ := coldStart_aon (u.startNoted false failed)
  rw [startNoted_aon] at h
  exact ⟨r, clk, t, (congrArg State.aon (begun_false u ticks failed)).trans h, hv, hty, hres⟩

theorem begunCold_parts (a : Aon) (r : Rec) (clk : Tab ClkMon) (t : Time) : let c := a.begunCold failed r clk t
    c.supply = { a.supply with warm := false, failed := failed, src := 1, scope := 5, latch := true } ∧ c.flash = a.flash ∧ c.gen = a.gen + 1 ∧
      c.ring = [(1, recordBytes 1 (a.gen + 1) r)] ∧ c.next = 2 ∧ c.lastPlanId = 0 ∧ c.time = t := ⟨rfl, rfl, rfl, rfl, rfl, rfl, rfl⟩

end

/-- What every power-on leaves. -/
theorem begun_parts (u : State) (ticks : Nat) (warm : Bool) (failed : BitVec 8) : (u.begun ticks warm failed).flash = u.flash ∧
    (u.begun ticks warm failed).supply.src = 1 := by
  cases warm
  · obtain ⟨r, clk, t, h, -⟩ := begun_cold u ticks failed
    obtain ⟨hs, hf, -⟩ := begunCold_parts failed u.aon r clk t
    exact ⟨(congrArg Aon.flash h).trans hf, (congrArg (fun a : Aon => a.supply.src) h).trans (congrArg Supply.src hs)⟩
  · obtain ⟨ring, next, h⟩ := begun_warm u ticks failed
    exact ⟨congrArg Aon.flash h, congrArg (fun a : Aon => a.supply.src) h⟩

section
variable (s : State) (damage : List (Nat × Bool × List Nat)) (pages : List (Nat × Bool)) (ticks : Nat) (failed : BitVec 8) (lost : List Nat)

theorem poweredOn_parts (warm : Bool) : let t := ((s.dataTaken damage pages warm).begun ticks warm failed).powered lost
    t.boot.st = .flash ∧ t.flash = (s.takeRecords fun n => (s.stored damage pages n).getD []).flash ∧
      t.station.toNat = t.flashValue 0x110001 % 256 ∧ t.supply.src = 1 := by
  intro t
  have hp : t.aon = _ := powered_aon ((s.dataTaken damage pages warm).begun ticks warm failed) lost
  obtain ⟨hflash, hsrc⟩ := begun_parts (s.dataTaken damage pages warm) ticks warm failed
  obtain ⟨htaken, -⟩ := dataTaken_parts s damage pages warm
  have htf : t.flash = (s.dataTaken damage pages warm).flash := (congrArg Aon.flash hp).trans hflash
  have hts : t.station = (s.dataTaken damage pages warm).station := (powered_station _ _).trans (begun_station _ _ _ _)
  refine ⟨congrArg (fun a : Aon => a.boot.st) hp, htf.trans htaken, ?_, (congrArg (fun a : Aon => a.supply.src) hp).trans hsrc⟩
  rw [hts, dataTaken_station, State.flashValue, State.flashValue, htf]

theorem poweredOn_warm : let t := ((s.dataTaken damage pages true).begun ticks true failed).powered lost
    t.supply.warm = true ∧ t.jnl.gen = storedGen (s.stored damage pages) ∧ t.supply.scope = 4 ∧ t.time.tlock = false ∧ t.time.flock = false ∧
      (∀ l, s.retained damage 4 = some l → t.lastPlanId = BitVec.ofNat 32 (leAt l 0 4)) ∧
      (∀ l, s.retained damage 3 = some l → t.time.valid = true → leAt l 16 1 = 1) := by
  intro t
  obtain ⟨ring, next, hb⟩ := begun_warm (s.dataTaken damage pages true) ticks failed
  have hp := powered_aon ((s.dataTaken damage pages true).begun ticks true failed) lost
  obtain ⟨-, hgen, -⟩ := dataTaken_parts s damage pages true
  obtain ⟨hid, hvalid⟩ := dataTaken_warm s damage pages
  obtain ⟨htl, hfl, hv⟩ := warmTime_parts (s.dataTaken damage pages true) ticks
  rw [hb] at hp
  have htime : t.time = (s.dataTaken damage pages true).warmTime ticks := time_of_aon hp
  refine ⟨congrArg (fun a : Aon => a.supply.warm) hp, (gen_of_aon hp).trans hgen, congrArg (fun a : Aon => a.supply.scope) hp, htime ▸ htl, htime ▸ hfl,
    fun l hl => ?_, fun l hl h => ?_⟩
  · rw [hl] at hid
    exact (lastPlanId_of_aon hp).trans hid
  · rw [htime] at h
    rw [hl, hv h] at hvalid
    exact of_decide_eq_true hvalid.symm

theorem poweredOn_cold : let t := ((s.dataTaken damage pages false).begun ticks false failed).powered lost
    t.supply.warm = false ∧ t.jnl.gen = storedGen (s.stored damage pages) + 1 ∧ t.supply.scope = 5 ∧ t.jnl.next = 2 ∧ leAt (t.jnl.slot 1) 50 1 = 0x20 ∧
      leAt (t.jnl.slot 1) 32 8 = t.jnl.gen.toNat ∧ t.lastPlanId = 0 ∧ t.time.valid = false ∧ t.supply.latch = true := by
  obtain ⟨-, hgen, -⟩ := dataTaken_parts s damage pages false
  generalize s.dataTaken damage pages false = u at hgen ⊢
  intro t
  obtain ⟨r, clk, time, hb, hv, hty, hres⟩ := begun_cold u ticks failed
  have hp : t.aon = _ := powered_aon (u.begun ticks false failed) lost
  rw [hb] at hp
  obtain ⟨hsup, -, hcgen, hring, hnext, hid, htime⟩ := begunCold_parts failed u.aon r clk time
  have htsup : t.supply = _ := (supply_of_aon hp).trans hsup
  have htgen : t.jnl.gen = u.jnl.gen + 1 := (gen_of_aon hp).trans hcgen
  have hslot : t.jnl.slot 1 = recordBytes 1 (u.jnl.gen + 1) r := by
    rw [Jnl.slot, (ring_of_aon hp).trans hring]
    rfl
  refine ⟨congrArg Supply.warm htsup, htgen.trans (by rw [hgen]), congrArg Supply.scope htsup, (next_of_aon hp).trans hnext, ?_, ?_,
    (lastPlanId_of_aon hp).trans hid, (congrArg Time.valid ((time_of_aon hp).trans htime)).trans hv, congrArg Supply.latch htsup⟩
  · rw [hslot, record_type, hty]
    rfl
  · rw [hslot, record_result, hres, htgen]

/-- AON_POWER_ON: what every start leaves, a warm one and a cold one. -/
theorem powerOn_clause (h : s.boot.st = .off) (sound : Bool) :
    let read := s.stored damage pages
    let gen : W64 := BitVec.ofNat 64 (leAt ((read 16).getD []) 0 8)
    let whole := s.supply.latch = true ∧ sound = true ∧ gen = s.jnl.gen ∧ ∀ n ∈ [1, 2, 3, 4], s.retained damage n ≠ none
    ∃ t, exec (.aonPowerOn ticks damage sound pages) s = .next t ∧ t.boot.st = .flash ∧
      t.flash = (s.takeRecords fun n => (read n).getD []).flash ∧ t.station.toNat = t.flashValue 0x110001 % 256 ∧ t.supply.src = 1 ∧
      (whole → t.supply.warm = true ∧ t.jnl.gen = gen ∧ t.supply.scope = 4 ∧ t.time.tlock = false ∧ t.time.flock = false ∧
        (∀ l, s.retained damage 4 = some l → t.lastPlanId = BitVec.ofNat 32 (leAt l 0 4)) ∧
        (∀ l, s.retained damage 3 = some l → t.time.valid = true → leAt l 16 1 = 1)) ∧
      (¬whole → t.supply.warm = false ∧ t.jnl.gen = gen + 1 ∧ t.supply.scope = 5 ∧
        t.jnl.next = 2 ∧ leAt (t.jnl.slot 1) 50 1 = 0x20 ∧ leAt (t.jnl.slot 1) 32 8 = t.jnl.gen.toNat ∧ t.lastPlanId = 0 ∧ t.time.valid = false ∧
        t.supply.latch = true) := by
  intro read gen whole
  obtain ⟨lost, failed, he⟩ := aonPowerOn_off s damage pages h ticks sound
  have hiff := warmth_iff s damage pages sound
  obtain ⟨hst, hfl, hstation, hsrc⟩ := poweredOn_parts s damage pages ticks failed lost (s.warmth damage pages sound)
  refine ⟨_, congrArg Host.Outcome.next he, hst, hfl, hstation, hsrc, fun hw => ?_, fun hc => ?_⟩
  · rw [hiff.mpr hw]
    exact poweredOn_warm s damage pages ticks failed lost
  · rw [show s.warmth damage pages sound = false from Bool.eq_false_iff.mpr fun hw => hc (hiff.mp hw)]
    exact poweredOn_cold s damage pages ticks failed lost

end

end Sys2Proof.Machine
end

/-! # Boot and confirmation (O56): the proofs -/

section
open Sys2Proof Sys2Proof.Machine

namespace Sys2Proof.Machine

/-! ## Manifest slots -/

theorem lessTrials_trials (x : ImgSlot) : ({ x with word := lessTrials x.word } : ImgSlot).trials = x.trials - 1 := by
  have bits : ∀ m : BitVec 32, (x.word &&& ~~~m).getLsbD 0 = (x.word.getLsbD 0 && !m.getLsbD 0) ∧
      (x.word &&& ~~~m).getLsbD 1 = (x.word.getLsbD 1 && !m.getLsbD 1) ∧ (x.word &&& ~~~m).getLsbD 2 = (x.word.getLsbD 2 && !m.getLsbD 2) := fun m => by
    simp only [BitVec.getLsbD_and, BitVec.getLsbD_not]
    exact ⟨rfl, rfl, rfl⟩
  unfold ImgSlot.trials lessTrials
  dsimp only
  cases h2 : x.word.getLsbD 2 with
  | true =>
    obtain ⟨b0, b1, b2⟩ := bits 4
    rw [if_pos rfl, b0, b1, b2, h2, show (4 : BitVec 32).getLsbD 0 = false from rfl, show (4 : BitVec 32).getLsbD 1 = false from rfl]
    cases x.word.getLsbD 0 <;> cases x.word.getLsbD 1 <;> rfl
  | false =>
    rw [if_neg Bool.false_ne_true]
    cases h1 : x.word.getLsbD 1 with
    | true =>
      obtain ⟨b0, b1, b2⟩ := bits 2
      rw [if_pos rfl, b0, b1, b2, h1, h2, show (2 : BitVec 32).getLsbD 0 = false from rfl]
      cases x.word.getLsbD 0 <;> rfl
    | false =>
      obtain ⟨b0, b1, b2⟩ := bits 1
      rw [if_neg Bool.false_ne_true, b0, b1, b2, h1, h2]
      cases x.word.getLsbD 0 <;> rfl

/-- From `s` to `t` the boot ROM has changed slots, and outside the fast domain nothing else. -/
def SlotsOnly (s t : State) : Prop := ∃ slots, t.aon = { s.aon with boot := { s.boot with slots := slots } }

theorem slotsOnly_refl (s : State) : SlotsOnly s s := ⟨s.boot.slots, rfl⟩

theorem slotsOnly_trans {s t u : State} (h : SlotsOnly s t) (k : SlotsOnly t u) : SlotsOnly s u := by
  obtain ⟨a, h⟩ := h
  obtain ⟨b, k⟩ := k
  rw [boot_of_aon h, h] at k
  exact ⟨b, k⟩

section
variable (s : State)

@[simp] theorem bootEvent_aon (code : Nat) (v : BitVec 32) : (s.bootEvent code v).aon = s.aon := raise_aon _ _ _ _ _

theorem bootEvent_boot (code : Nat) (v : BitVec 32) : (s.bootEvent code v).boot = s.boot := boot_of_aon (bootEvent_aon s code v)

theorem slotsOnly_bootEvent (code : Nat) (v : BitVec 32) : SlotsOnly s (s.bootEvent code v) := ⟨s.boot.slots, bootEvent_aon s code v⟩

theorem slotsOnly_setSlot (n : Nat) (x : ImgSlot) : SlotsOnly s (s.setSlot n x) := ⟨_, rfl⟩

theorem slotImg_setSlot_same (n : Nat) (x : ImgSlot) : (s.setSlot n x).slotImg n = x := look_put_same _ _ _ _

theorem slotImg_setSlot_ne {n m : Nat} (x : ImgSlot) (h : m ≠ n) : (s.setSlot n x).slotImg m = s.slotImg m := look_put_ne _ _ _ h

theorem slotImg_bootEvent (code : Nat) (v : BitVec 32) (n : Nat) : (s.bootEvent code v).slotImg n = s.slotImg n := by
  rw [State.slotImg, bootEvent_boot, State.slotImg]

theorem slotsOnly_considerSlot (out : List Nat) (best : Option Nat) (n : Nat) : SlotsOnly s (s.considerSlot out best n).1 := by
  have hset := slotsOnly_setSlot s n { s.slotImg n with passed := s.manifestPasses (s.slotImg n) }
  unfold State.considerSlot
  dsimp only
  split
  · exact hset
  · split
    · exact slotsOnly_trans hset (slotsOnly_trans (slotsOnly_setSlot _ _ _) (slotsOnly_bootEvent _ _ _))
    · cases best <;> exact hset

theorem slotsOnly_trySlot (inp : BootInput) (out : List Nat) : SlotsOnly s (s.trySlot inp out).1 := by
  have hsel : SlotsOnly s (s.selectSlot out).1 := slotsOnly_trans (slotsOnly_considerSlot s out none 0) (slotsOnly_considerSlot _ _ _ _)
  unfold State.trySlot
  dsimp only
  split
  · exact hsel
  · split
    · exact hsel
    · exact slotsOnly_trans hsel (slotsOnly_bootEvent _ _ _)

/-- Selection changes slots alone. -/
theorem slotsOnly_chooseSlot (inp : BootInput) : SlotsOnly s (s.chooseSlot inp).1 := by
  unfold State.chooseSlot
  dsimp only
  split
  · exact slotsOnly_trySlot s inp []
  · next n _ =>
    have h := slotsOnly_trans (slotsOnly_trySlot s inp []) (slotsOnly_trySlot _ inp [n])
    split
    · exact h
    · exact h

end

/-! ## Recovery (R831) -/

theorem fastUp_false_of_pwr {s : State} (h : s.supply.pwr ≠ .on) : s.fastUp = false := decide_eq_false fun k => h k.1

theorem fastUp_of_supply {s t : State} (h : t.supply = s.supply) : t.fastUp = s.fastUp := by rw [State.fastUp, h, State.fastUp]

/-- The fast domain is taken down, or stays down. -/
def State.domainDown (s : State) : State :=
  if s.fastUp then s.powerFault srcWatchdog else match s.supply.pwr with | .up _ => s.startDown | _ => s

theorem domainDown_fastUp (s : State) : s.domainDown.fastUp = false := by
  unfold State.domainDown
  split
  · exact (powerFault_parts s srcWatchdog).1
  · next h =>
    split
    · exact fastUp_false_of_pwr (s := s.startDown) (by simp [State.startDown, State.setPwr])
    · exact Bool.eq_false_iff.mpr h

theorem enterRecovery_parts (s : State) : s.enterRecovery.boot.st = .recovery ∧ s.enterRecovery.boot.slot = none ∧ s.enterRecovery.fastUp = false := by
  have he : s.enterRecovery = ((({ s with bundle := ⟨0, 0, 0, 0, 0, 0⟩, restricted := false } : State).domainDown).modBoot fun b =>
      { b with st := .recovery, slot := none }).bootEvent 7 0 := rfl
  have hdown := domainDown_fastUp { s with bundle := ⟨0, 0, 0, 0, 0, 0⟩, restricted := false }
  generalize ({ s with bundle := ⟨0, 0, 0, 0, 0, 0⟩, restricted := false } : State).domainDown = u at he hdown
  have hboot := bootEvent_boot (u.modBoot fun b => { b with st := .recovery, slot := none }) 7 0
  have hsup : s.enterRecovery.supply = u.supply := by
    rw [he]
    exact supply_of_aon (bootEvent_aon _ _ _)
  rw [← he] at hboot
  rw [hboot, fastUp_of_supply hsup]
  exact ⟨rfl, rfl, hdown⟩

/-! ## Steps 2 to 4 (R818, R819, R824) -/

section
variable {s : State} {inp : BootInput}

theorem bootFlash_unprobed (hp : inp.programmed = []) (h : inp.sfdp = none) : s.bootFlash inp = s.enterRecovery := by
  simp only [State.bootFlash, hp, h, List.foldl_nil]

/-- SFDP is read, and the slot is chosen. -/
def State.chosen (s : State) (inp : BootInput) (d : BitVec 4) : State × Option Nat :=
  ({ s with boot := { s.boot with dummy := bootDummy inp d, xip := true } } : State).chooseSlot inp

theorem bootFlash_unchosen (hp : inp.programmed = []) {d : BitVec 4} (h : inp.sfdp = some d) (hc : (s.chosen inp d).2 = none) :
    s.bootFlash inp = (s.chosen inp d).1.enterRecovery := by
  unfold State.bootFlash
  rw [hp, h]
  show (match s.chosen inp d with | (u, none) => u.enterRecovery | (u, some n) => u.bootJump n (boardRails inp) ((componentBytes inp n 2).getD [])) = _
  generalize s.chosen inp d = r at hc ⊢
  obtain ⟨u, c⟩ := r
  cases hc
  rfl

theorem bootFlash_chosen (hp : inp.programmed = []) {d : BitVec 4} (h : inp.sfdp = some d) {n : Nat} (hc : (s.chosen inp d).2 = some n) :
    s.bootFlash inp = (s.chosen inp d).1.bootJump n (boardRails inp) ((componentBytes inp n 2).getD []) := by
  unfold State.bootFlash
  rw [hp, h]
  show (match s.chosen inp d with | (u, none) => u.enterRecovery | (u, some n) => u.bootJump n (boardRails inp) ((componentBytes inp n 2).getD [])) = _
  generalize s.chosen inp d = r at hc ⊢
  obtain ⟨u, c⟩ := r
  cases hc
  rfl

end

/-! ## The jump to the firmware (R824, R828) -/

section
variable (s : State) (n : Nat)

/-- The trial is counted, and reported. -/
def State.trialCounted (s : State) (n : Nat) : State :=
  if (s.slotImg n).confirmed then s.bootEvent 1 (s.slotImg n).version
  else (s.setSlot n { s.slotImg n with word := lessTrials (s.slotImg n).word }).bootEvent 2 (s.slotImg n).version

/-- The bundle runs: the slot, its patch, and the watchdog from now on. -/
def State.jumped (u : State) (x : ImgSlot) (now n : Nat) (patch : List Byte) : State :=
  (({ u with bundle := x.bundle, restricted := !x.compatible && !u.override } : State).modBoot fun b =>
    { b with slot := some n, patch := patch }).modSup fun y => { y with wdt := some now }

theorem slotsOnly_trialCounted : SlotsOnly s (s.trialCounted n) := by
  unfold State.trialCounted
  split
  · exact slotsOnly_bootEvent _ _ _
  · exact slotsOnly_trans (slotsOnly_setSlot _ _ _) (slotsOnly_bootEvent _ _ _)

theorem trialCounted_trials (h : (s.slotImg n).confirmed = false) : ((s.trialCounted n).slotImg n).trials = (s.slotImg n).trials - 1 := by
  rw [State.trialCounted, h, if_neg Bool.false_ne_true, slotImg_bootEvent, slotImg_setSlot_same]
  exact lessTrials_trials _

/-- The firmware that runs needs the rails of the board. -/
def State.boarded (u : State) (board : BitVec 14) : State := u.modBoot fun b => { b with board := board, st := .rails, restart := false }

theorem startUp_boarded (u : State) {board : BitVec 14} (hb : board.getLsbD 5 = true) : (u.boarded board).startUp = (u.boarded board).setPwr (.up 1) := by
  have hready : (u.boarded board).stepReady 1 := fun i hi => by rw [List.mem_singleton.mp hi]; exact hb
  exact beginStep_ready hready

theorem bootRails_off {u : State} {board : BitVec 14} (hp : u.supply.pwr = .off) (hr : u.boot.restart = false) (hb : board.getLsbD 5 = true) :
    u.bootRails board = (u.boarded board).setPwr (.up 1) := by
  rw [← startUp_boarded u hb]
  simp only [State.bootRails, modBoot_supply, hp, hr]
  rfl

/-- With the supplies off the power-up order begins. -/
theorem bootJump_off {board : BitVec 14} {patch : List Byte} (h : s.supply.pwr = .off) (hr : s.boot.restart = false) (hb : board.getLsbD 5 = true) :
    s.bootJump n board patch = (((s.trialCounted n).jumped (s.slotImg n) s.acy n patch).boarded board).setPwr (.up 1) := by
  obtain ⟨slots, hs⟩ := slotsOnly_trialCounted s n
  generalize hu : (s.trialCounted n).jumped (s.slotImg n) s.acy n patch = u
  have hsup : u.supply.pwr = .off := by
    rw [← hu]
    exact (congrArg Supply.pwr (supply_of_aon hs)).trans h
  have hrestart : u.boot.restart = false := by
    rw [← hu]
    exact (congrArg Boot.restart (boot_of_aon hs)).trans hr
  have hdown : u.fastUp = false := fastUp_false_of_pwr (by rw [hsup]; exact Pwr.noConfusion)
  have he : s.bootJump n board patch = if u.fastUp ∧ u.boot.loaded = some n then u.bootDone .idle
      else if u.fastUp ∧ u.boot.loaded.isSome then
        ((u.modBoot fun b => { b with st := .edge, board := board }).bootEvent 11 (s.slotImg n).version).fastReset srcFast 2
      else u.bootRails board := by
    rw [← hu]
    rfl
  rw [he, hdown, if_neg (fun k => Bool.false_ne_true k.1), if_neg (fun k => Bool.false_ne_true k.1), bootRails_off hsup hrestart hb]

theorem slotImg_of_slots {s t : State} (h : t.boot.slots = s.boot.slots) (n : Nat) : t.slotImg n = s.slotImg n := by rw [State.slotImg, h, State.slotImg]

/-- What the jump leaves. -/
theorem jumped_parts (u : State) (x : ImgSlot) (now : Nat) (patch : List Byte) (board : BitVec 14) :
    let t := ((u.jumped x now n patch).boarded board).setPwr (.up 1)
    t.boot = { u.boot with slot := some n, patch := patch, board := board, st := .rails, restart := false } ∧
      t.supply = { u.supply with pwr := .up 1, wdt := some now } ∧ t.bundle = x.bundle ∧ t.restricted = (!x.compatible && !u.override) :=
  ⟨rfl, rfl, rfl, rfl⟩

end

/-- BOOT_SEQUENCE from flash with a slot to run. -/
theorem chosen_clause {s : State} {inp : BootInput} (hst : s.boot.st = .flash) (hp : inp.programmed = []) {d : BitVec 4} (h : inp.sfdp = some d)
    {n : Nat} (hc : (s.chosen inp d).2 = some n) (hoff : s.supply.pwr = .off) (hr : s.boot.restart = false)
    (hb : (boardRails inp).getLsbD 5 = true) : ∃ t, exec (.bootSequence inp) s = .next t ∧
      t.boot.slot = some n ∧ t.boot.patch = (componentBytes inp n 2).getD [] ∧ t.boot.board = boardRails inp ∧ t.boot.st = .rails ∧
      t.supply.pwr = .up 1 ∧ t.supply.wdt = some s.acy ∧ t.bundle = ((s.chosen inp d).1.slotImg n).bundle ∧
      (((s.chosen inp d).1.slotImg n).confirmed = false → (t.slotImg n).trials = ((s.chosen inp d).1.slotImg n).trials - 1) ∧
      (t.restricted = true ↔ ((s.chosen inp d).1.slotImg n).compatible = false ∧ s.override = false) := by
  have he : bootSequence inp s = s.bootFlash inp := by rw [bootSequence, hst]
  rw [bootFlash_chosen hp h hc] at he
  obtain ⟨slots, hu⟩ := slotsOnly_chooseSlot ({ s with boot := { s.boot with dummy := bootDummy inp d, xip := true } } : State) inp
  change (s.chosen inp d).1.aon = _ at hu
  generalize (s.chosen inp d).1 = u at he hu ⊢
  have hsup : u.supply = s.supply := supply_of_aon hu
  have hacy : u.acy = s.acy := acy_of_aon hu
  have hover : u.override = s.override := congrArg Aon.override hu
  have hrestart : u.boot.restart = s.boot.restart := by rw [boot_of_aon hu]
  rw [bootJump_off u n (by rw [hsup, hoff]) (by rw [hrestart, hr]) hb, hacy] at he
  obtain ⟨slots', ht⟩ := slotsOnly_trialCounted u n
  have hover' : (u.trialCounted n).override = s.override := (congrArg Aon.override ht).trans hover
  obtain ⟨hboot, hsupply, hbundle, hrestr⟩ :=
    jumped_parts n (u.trialCounted n) (u.slotImg n) s.acy ((componentBytes inp n 2).getD []) (boardRails inp)
  refine ⟨_, congrArg Host.Outcome.next he, congrArg Boot.slot hboot, congrArg Boot.patch hboot, congrArg Boot.board hboot, congrArg Boot.st hboot,
    congrArg Supply.pwr hsupply, congrArg Supply.wdt hsupply, hbundle, fun hconf => ?_, ?_⟩
  · rw [slotImg_of_slots (s := u.trialCounted n) (by rw [hboot])]
    exact trialCounted_trials u n hconf
  · rw [hrestr, hover']
    simp

/-! ## Start-up failures (R40, R41) -/

/-- What 0x4000:02 says of a failure. -/
def failureCode (f : Nat × Nat × Nat × Nat) : Nat := f.1 + 16 * (if f.2.1 = 0xFF then 15 else f.2.1) + 256 * f.2.2.1

section
variable (s : State) (f : Nat × Nat × Nat × Nat)

theorem setCounter_jnl (index sub v : Nat) : (s.setCounter index sub v).jnl = s.jnl := by
  unfold State.setCounter State.keepCounter
  split <;> rfl

/-- The counter takes the failure where none stands. -/
def State.failNoted (s : State) (v : Nat) : State := if s.startFailed then s else s.setCounter 0x4000 2 v

theorem failNoted_parts (v : Nat) : (s.failNoted v).jnl = s.jnl ∧
    (s.failNoted v).counter 0x4000 2 = if s.counter 0x4000 2 = 0 then v else s.counter 0x4000 2 := by
  have hf : s.startFailed = true ↔ ¬s.counter 0x4000 2 = 0 := decide_eq_true_iff
  unfold State.failNoted
  by_cases h : s.counter 0x4000 2 = 0
  · rw [if_neg (fun k => hf.mp k h), if_pos h]
    exact ⟨setCounter_jnl _ _ _ _, setCounter_counter ..⟩
  · rw [if_pos (hf.mpr h), if_neg h]
    exact ⟨rfl, rfl⟩

/-- The edge dies that do not answer are gone, and the boot has failed. -/
def State.dieFailed (s : State) (f : Nat × Nat × Nat × Nat) : State :=
  let u : State :=
    if 4 ≤ f.1 ∧ f.2.2.1 ≤ 3 then { s with dies := put s.dies (f.1 - 4) 1 }
    else if f.2.1 = 5 ∧ look 0 s.dies 1 = 0 then { s with dies := put s.dies 1 2 }
    else s
  u.modBoot fun b => { b with st := .failed }

theorem dieFailed_parts : (s.dieFailed f).boot.st = .failed ∧ (s.dieFailed f).jnl = s.jnl ∧ (s.dieFailed f).counter 0x4000 2 = s.counter 0x4000 2 := by
  unfold State.dieFailed
  dsimp only
  split
  · exact ⟨rfl, rfl, rfl⟩
  · split <;> exact ⟨rfl, rfl, rfl⟩

theorem startFail_parts : (s.startFail f.1 f.2.1 f.2.2.1 f.2.2.2).boot.st = .failed ∧
    (s.startFail f.1 f.2.1 f.2.2.1 f.2.2.2).jnl.raised = s.jnl.raised + 1 ∧
    (s.startFail f.1 f.2.1 f.2.2.1 f.2.2.2).counter 0x4000 2 = if s.counter 0x4000 2 = 0 then failureCode f else s.counter 0x4000 2 := by
  obtain ⟨k, ref, result, hu⟩ : ∃ k ref result, s.startFail f.1 f.2.1 f.2.2.1 f.2.2.2 = ((s.raise k ref result).failNoted (failureCode f)).dieFailed f :=
    ⟨_, _, _, rfl⟩
  obtain ⟨hj, hc⟩ := failNoted_parts (s.raise k ref result) (failureCode f)
  obtain ⟨hst, hdj, hdc⟩ := dieFailed_parts ((s.raise k ref result).failNoted (failureCode f)) f
  rw [hu, hst, hdj, hdc, hj, hc, raise_counter, raise_jnl, accept_raised]
  exact ⟨rfl, rfl, rfl⟩

theorem startFails_parts (l : List (Nat × Nat × Nat × Nat)) : let t := l.foldl (fun s f => s.startFail f.1 f.2.1 f.2.2.1 f.2.2.2) s
    (s.boot.st = .failed → t.boot.st = .failed) ∧ t.jnl.raised = s.jnl.raised + BitVec.ofNat 64 l.length ∧
      (s.counter 0x4000 2 ≠ 0 → t.counter 0x4000 2 = s.counter 0x4000 2) := by
  induction l generalizing s with
  | nil => exact ⟨id, (BitVec.add_zero _).symm, fun _ => rfl⟩
  | cons f l ih =>
    obtain ⟨hst, hraised, hcount⟩ := startFail_parts s f
    obtain ⟨ist, iraised, icount⟩ := ih (s.startFail f.1 f.2.1 f.2.2.1 f.2.2.2)
    refine ⟨fun _ => ist hst, ?_, fun h => ?_⟩
    · rw [List.foldl_cons, iraised, hraised, List.length_cons, Nat.add_comm l.length, BitVec.ofNat_add, BitVec.add_assoc]
      rfl
    · rw [if_neg h] at hcount
      rw [List.foldl_cons, icount (by rw [hcount]; exact h), hcount]

end

/-- PCI Express trains with the edge dies. -/
def State.hostUp (s : State) (inp : BootInput) : State :=
  s.modHif fun h => { h with linkUp := true, width := inp.pcieWidth, rate := inp.pcieRate, flitMode := inp.pcieFlit }

/-- Nothing that can fail is left out of the list. -/
theorem failures_kept {l : List (Nat × Nat × Nat × Nat)} (h : ∀ f ∈ l, f.1 < 6 ∧ 1 ≤ f.2.2.1 ∧ f.2.2.1 ≤ 6) :
    (l.filter fun f => decide (f.1 < 6 ∧ 1 ≤ f.2.2.1 ∧ f.2.2.1 ≤ 6)) = l := List.filter_eq_self.mpr fun f hf => decide_eq_true (h f hf)

theorem bootEdge_failed {s : State} {inp : BootInput} (h : ∀ f ∈ inp.startFailures, f.1 < 6 ∧ 1 ≤ f.2.2.1 ∧ f.2.2.1 ≤ 6)
    (hne : inp.startFailures ≠ []) : ∃ u, (u = s ∨ u = s.hostUp inp) ∧
      s.bootEdge inp = inp.startFailures.foldl (fun s f => s.startFail f.1 f.2.1 f.2.2.1 f.2.2.2) u := by
  unfold State.bootEdge
  rw [failures_kept h]
  cases hl : inp.startFailures with
  | nil => exact absurd hl hne
  | cons f l =>
    refine ⟨_, ?_, rfl⟩
    split
    · exact .inl rfl
    · exact .inr rfl

/-- Start-up failures end the boot: each is an event, and the first stands in 0x4000:02. -/
theorem failures_clause {s : State} {inp : BootInput} (hst : s.boot.st = .edge) (hup : s.fastUp = true) {die other code detail : Nat}
    {l : List (Nat × Nat × Nat × Nat)} (hl : inp.startFailures = (die, other, code, detail) :: l)
    (h : ∀ f ∈ inp.startFailures, f.1 < 6 ∧ 1 ≤ f.2.2.1 ∧ f.2.2.1 ≤ 6) : ∃ t, exec (.bootSequence inp) s = .next t ∧ t.boot.st = .failed ∧
      t.jnl.raised = s.jnl.raised + BitVec.ofNat 64 (l.length + 1) ∧
      (s.counter 0x4000 2 = 0 → other < 16 → t.counter 0x4000 2 = die + 16 * other + 256 * code) := by
  obtain ⟨u, hu, he⟩ := bootEdge_failed (s := s) h (by rw [hl]; exact List.cons_ne_nil _ _)
  have hseq : bootSequence inp s = s.bootEdge inp := by rw [bootSequence, hst]; exact if_pos hup
  have hraised : u.jnl.raised = s.jnl.raised := by rcases hu with rfl | rfl <;> rfl
  have hcounter : u.counter 0x4000 2 = s.counter 0x4000 2 := by rcases hu with rfl | rfl <;> rfl
  have hcode : 1 ≤ code := (h (die, other, code, detail) (by rw [hl]; exact List.mem_cons_self)).2.1
  rw [hl, List.foldl_cons] at he
  obtain ⟨fst, fraised, fcount⟩ := startFail_parts u (die, other, code, detail)
  obtain ⟨ist, iraised, icount⟩ := startFails_parts (u.startFail die other code detail) l
  refine ⟨_, congrArg Host.Outcome.next (hseq.trans he), ist fst, ?_, fun h0 ho => ?_⟩
  · rw [iraised, fraised, hraised, Nat.add_comm l.length, BitVec.ofNat_add, BitVec.add_assoc]
    rfl
  · have hv : failureCode (die, other, code, detail) = die + 16 * other + 256 * code := by
      rw [failureCode, if_neg (show ¬other = 0xFF by omega)]
    rw [hcounter, if_pos h0, hv] at fcount
    have hpos : die + 16 * other + 256 * code ≠ 0 := by omega
    exact (icount (by rw [fcount]; exact hpos)).trans fcount

/-! ## RESTRICTED (R834) -/

section
variable (s : State)

theorem hifEvent_linkUp (n : Nat) : (s.hifEvent n).hif.linkUp = s.hif.linkUp := by
  unfold State.hifEvent State.raiseVector
  dsimp only
  split
  · split <;> rfl
  · rfl

theorem charge_linkUp (row : Nat) (b : BitVec 16) : (s.charge row b).hif.linkUp = s.hif.linkUp := by
  unfold State.charge
  split <;> rfl

theorem noteLinkOut_linkUp (p : Nat) : (s.noteLinkOut p).hif.linkUp = s.hif.linkUp := by
  unfold State.noteLinkOut
  split
  · exact charge_linkUp _ _ _
  · rfl

theorem raise_linkUp (kind : Nat) (ref result tag : W64) : (s.raise kind ref result tag).hif.linkUp = s.hif.linkUp := rfl

theorem linkTo_linkUp (p : Nat) (st : LinkSt) (cause : Option (BitVec 4)) : (s.linkTo p st cause).hif.linkUp = s.hif.linkUp := by
  unfold State.linkTo
  dsimp only
  rw [hifEvent_linkUp, raise_linkUp]
  exact noteLinkOut_linkUp _ _

/-- Every port is disabled. -/
def State.portsOff (s : State) : State := s.eachPort fun s p => s.linkTo p .disabled none

theorem portsOff_linkUp : s.portsOff.hif.linkUp = s.hif.linkUp := foldl_keeps (fun s : State => s.hif.linkUp) (fun s p => linkTo_linkUp s p _ _) _ s

theorem portsOff_port {p : Nat} (h : p < 8) : (s.portsOff.port p).st = .disabled := by
  have hmem : p ∈ allPorts := by
    unfold allPorts
    simp only [List.mem_cons, List.not_mem_nil, or_false]
    omega
  refine foldl_visits (p := fun _ : State => True) (q := fun s : State => (s.port p).st = .disabled) p (fun _ _ _ _ => trivial) (fun s c hc h => ?_)
    (fun s _ => ?_) allPorts hmem s trivial
  · rw [linkTo_port_ne _ _ _ (Ne.symm hc)]
    exact h
  · rw [linkTo_port_same]
    rfl

end

theorem bootEdge_up {s : State} {inp : BootInput} (h : inp.startFailures = []) : s.bootEdge inp =
    if (s.hostUp inp).restricted then ((s.hostUp inp).portsOff.bootEvent 5 (s.hostUp inp).portsOff.bundle.version).bootDone .restricted
    else (s.hostUp inp).bootLinks inp := by
  unfold State.bootEdge
  rw [h]
  rfl

theorem bootDone_parts (s : State) (st : BootSt) : (s.bootDone st).boot = { s.boot with st := st, idleAt := s.boot.idleAt.or (some s.acy) } ∧
    (s.bootDone st).hif = { s.hif with ready := true } ∧ (s.bootDone st).ports = s.ports ∧ (s.bootDone st).qpll = s.qpll ∧
    (s.bootDone st).place = s.place ∧ (s.bootDone st).mhz = s.mhz := ⟨rfl, rfl, rfl, rfl, rfl, rfl⟩

theorem bootEvent_keeps (s : State) (code : Nat) (v : BitVec 32) : (s.bootEvent code v).hif = s.hif ∧ (s.bootEvent code v).ports = s.ports := ⟨rfl, rfl⟩

/-- A bundle that this part may not run ends the boot in RESTRICTED state. -/
theorem restricted_clause {s : State} {inp : BootInput} (hst : s.boot.st = .edge) (hup : s.fastUp = true) (h : inp.startFailures = [])
    (hr : s.restricted = true) : ∃ t, exec (.bootSequence inp) s = .next t ∧ t.boot.st = .restricted ∧ t.hif.ready = true ∧
      t.hif.linkUp = true ∧ ∀ p < 8, (t.port p).st = .disabled := by
  have hseq : bootSequence inp s = s.bootEdge inp := by rw [bootSequence, hst]; exact if_pos hup
  have hr' : (s.hostUp inp).restricted = true := hr
  rw [bootEdge_up h, if_pos hr'] at hseq
  have hlink : (s.hostUp inp).portsOff.hif.linkUp = true := portsOff_linkUp _
  have hports := fun (p : Nat) (hp : p < 8) => portsOff_port (s.hostUp inp) hp
  generalize (s.hostUp inp).portsOff = u at hseq hlink hports
  obtain ⟨hhif, hpt⟩ := bootEvent_keeps u 5 u.bundle.version
  obtain ⟨dboot, dhif, dports, -⟩ := bootDone_parts (u.bootEvent 5 u.bundle.version) .restricted
  refine ⟨_, congrArg Host.Outcome.next hseq, congrArg Boot.st dboot, congrArg Hif.ready dhif, ?_, fun p hp => ?_⟩
  · rw [dhif, hhif]
    exact hlink
  · rw [State.port, dports, hpt]
    exact hports p hp

/-! ## Steps 7 to 10 (R754, R755, R818, R835) -/

/-- What links, sweeps and repair leave as it is: the boot state, the clocks of the quarters, the override and the host's link. -/
def State.standing (s : State) : Boot × Tab QPll × Bool × Bool := (s.boot, s.qpll, s.override, s.hif.linkUp)

section
variable (s : State)

theorem raise_standing (kind : Nat) (ref result tag : W64) : (s.raise kind ref result tag).standing = s.standing := rfl

theorem charge_standing (row : Nat) (b : BitVec 16) : (s.charge row b).standing = s.standing := by
  unfold State.charge
  split <;> rfl

theorem hifEvent_standing (n : Nat) : (s.hifEvent n).standing = s.standing := by
  unfold State.hifEvent State.raiseVector
  dsimp only
  split
  · split <;> rfl
  · rfl

theorem noteLinkOut_standing (p : Nat) : (s.noteLinkOut p).standing = s.standing := by
  unfold State.noteLinkOut
  split
  · exact charge_standing _ _ _
  · rfl

theorem linkTo_standing (p : Nat) (st : LinkSt) (cause : Option (BitVec 4)) : (s.linkTo p st cause).standing = s.standing := by
  unfold State.linkTo
  dsimp only
  rw [hifEvent_standing, raise_standing]
  exact noteLinkOut_standing _ _

/-- A port trains if it is enabled. -/
def State.portBegun (s : State) (p : Nat) : State :=
  if !(s.port p).en then s.linkTo p .disabled none else if (s.port p).st = .disabled then s.linkTo p .down none else s

theorem portBegun_standing (p : Nat) : (s.portBegun p).standing = s.standing := by
  unfold State.portBegun
  split
  · exact linkTo_standing _ _ _ _
  · split
    · exact linkTo_standing _ _ _ _
    · rfl

theorem retain_standing (n : Nat) (l : List Byte) : (s.retain n l).standing = s.standing := rfl

theorem setRepair_standing (l : List RepairEntry) : (s.setRepair l).standing = s.standing := by
  rw [State.setRepair, retain_standing, retain_standing]
  rfl

theorem setCounter_standing (index sub v : Nat) : (s.setCounter index sub v).standing = s.standing := by
  unfold State.setCounter State.keepCounter
  split <;> rfl

theorem candidateAt_standing (q : QuarterId) (px py reason detail : Nat) : (s.candidateAt q px py reason detail).standing = s.standing := by
  unfold State.candidateAt
  dsimp only
  split
  · rfl
  · split
    · rfl
    · rw [raise_standing, setRepair_standing]

theorem retireRow_standing (q py : Nat) : (s.retireRow q py).standing = s.standing := by
  unfold State.retireRow
  dsimp only
  rw [raise_standing, setRepair_standing]

theorem retireBlock_standing (e : RepairEntry) : (s.retireBlock e).standing = s.standing := by
  unfold State.retireBlock
  dsimp only
  rw [raise_standing, setRepair_standing]

theorem replaced_standing (b : Tab Block) (p : Tab Place) : ({ s with blocks := b, place := p } : State).standing = s.standing := rfl

theorem moveQuarter_standing (q : Nat) (p : Place) : (s.moveQuarter q p).standing = s.standing := by
  unfold State.moveQuarter
  dsimp only
  split
  · rfl
  · exact replaced_standing s _ _

theorem applyQuarter_standing (q : Nat) : (s.applyQuarter q).1.standing = s.standing := by
  unfold State.applyQuarter
  dsimp only
  split
  · rw [raise_standing, moveQuarter_standing, foldl_keeps State.standing retireBlock_standing,
      foldl_keeps State.standing (fun u py => retireRow_standing u q py)]
  · rw [moveQuarter_standing, foldl_keeps State.standing retireBlock_standing, foldl_keeps State.standing (fun u py => retireRow_standing u q py)]

theorem settleRepair_standing : s.settleRepair.standing = s.standing := rfl

theorem applyRepair_standing : s.applyRepair.1.standing = s.standing := by
  unfold State.applyRepair
  dsimp only
  rw [settleRepair_standing]
  exact foldl_keeps (fun r : State × Nat => r.1.standing) (f := fun r q => ((r.1.applyQuarter q).1, r.2 + (r.1.applyQuarter q).2))
    (fun r q => applyQuarter_standing r.1 q) [0, 1, 2, 3] (s, 0)

theorem startSweep_standing (l : List (QuarterId × Nat × Nat × Nat)) : (s.startSweep l).standing = s.standing := by
  have hnodes : ∀ u : State, (u.nodesTested 15 l).standing = u.standing := fun _ => rfl
  unfold State.startSweep
  dsimp only
  rw [applyRepair_standing]
  refine (foldl_keeps State.standing (fun u q => ?_) [0, 1, 2, 3] _).trans ?_
  · rw [raise_standing, setCounter_standing]
  · rw [hnodes]
    exact foldl_keeps State.standing (fun u x => candidateAt_standing u _ _ _ _ _) l s

theorem patchLevel_standing : s.patchLevel.1.standing = s.standing := by
  unfold State.patchLevel
  dsimp only
  split <;> rfl

theorem patchLevel_free (h : s.override = false) :
    s.patchLevel.2 = (BitVec.ofNat 8 ((s.slotImg (s.boot.slot.getD 0)).at_ 72 1), s.boot.patch) := by
  unfold State.patchLevel
  dsimp only
  rw [h, Bool.false_and, if_neg Bool.false_ne_true]

/-- The links and the sweep of steps 7 and 8. -/
def State.swept (s : State) (inp : BootInput) : State :=
  ((s.modBoot fun b => { b with loaded := b.slot }).eachPort State.portBegun).startSweep inp.sweepFails

theorem swept_standing (inp : BootInput) : (s.swept inp).standing = ({ s.boot with loaded := s.boot.slot }, s.qpll, s.override, s.hif.linkUp) := by
  unfold State.swept
  rw [startSweep_standing]
  exact foldl_keeps State.standing portBegun_standing _ _

/-- The blocks come up with the patch. -/
def State.blocksBooted (s : State) (level : BitVec 8) (patch : List Byte) : State :=
  { s with blocks := s.blocks.filter fun e => decide (e.1 = mgmtCore.toNat)
           rest := (List.range 8).foldl (fun t q => put t q (Block.booted level patch)) [] }

theorem blocksBooted_blk (level : BitVec 8) (patch : List Byte) {b : BlockId} (h : restKey b.toNat < 8) :
    (s.blocksBooted level patch).blk b = Block.booted level patch := by
  have hm : restKey mgmtCore.toNat = 15 := by decide
  have hb : b.toNat ≠ mgmtCore.toNat := fun k => by rw [k, hm] at h; omega
  have hlook : ∀ d : Block, look d (s.blocks.filter fun e => decide (e.1 = mgmtCore.toNat)) b.toNat = d := fun d =>
    look_filter_out d _ _ fun e he => decide_eq_false (by rw [he]; exact hb)
  have hrest : ∀ x : Block, look Block.reset ((List.range 8).foldl (fun t q => put t q x) []) (restKey b.toNat) = x := fun x => by
    generalize restKey b.toNat = k at h
    interval_cases k <;> rfl
  rw [State.blk]
  exact (hlook _).trans (hrest _)

end

/-- Steps 9 and 10: the blocks, and the clocks of the quarters that work. -/
def blocksUp (r : State × BitVec 8 × List Byte) : State :=
  ((r.1.blocksBooted r.2.1 r.2.2).restartPlls (r.1.blocksBooted r.2.1 r.2.2).quarterWorks 1000).bootDone .idle

theorem bootLinks_eq (s : State) (inp : BootInput) : s.bootLinks inp = blocksUp (s.swept inp).patchLevel := by
  have h : s.bootLinks inp = (match (s.swept inp).patchLevel with | (u, level, patch) => blocksUp (u, level, patch)) := rfl
  rw [h]

/-! ## The restart of the quarter clocks -/

/-- What a change of mode leaves of a block. -/
def Block.parts (x : Block) : Core × Memory × Memory × BitVec 8 := (x.core, x.ls, x.im, x.patch)

theorem TrcOnly.parts {b : BlockId} {s t : State} (h : TrcOnly b s t) : (t.blk b).parts = (s.blk b).parts := by
  rw [h.blk]
  rfl

theorem toDeep_parts (x : Block) (now : Nat) : (x.toDeep now).parts = x.parts := by
  unfold Block.toDeep
  split <;> rfl

section
variable (s : State)

theorem keepNext_parts (b : BlockId) : ((s.keepNext b).blk b).parts = (s.blk b).parts := by
  rw [keepNext_blk]
  rfl

theorem changeMode_parts (b : BlockId) (m : Mode) (c : BlockId) : ((s.changeMode b m).blk c).parts = (s.blk c).parts := by
  by_cases hc : c = b
  · subst hc
    unfold State.changeMode
    dsimp only
    split
    · rfl
    · have hu : (((if (s.blk c).clk.mode = .run then s.traceClose c .mode else s).keepNext c).blk c).parts = (s.blk c).parts := by
        rw [keepNext_parts]
        split
        · exact (trcOnly_traceClose c s .mode).parts
        · rfl
      generalize (if (s.blk c).clk.mode = .run then s.traceClose c .mode else s).keepNext c = u at hu
      rw [blk_setBlk_same, ← hu]
      split <;> rfl
  · rw [(onlyBlock_changeMode s m).2.2 c hc]

theorem mapQuarter_parts {f : Block → Block} (h : ∀ x, (f x).parts = x.parts) (q : Nat) (c : BlockId) :
    ((s.mapQuarter q f).blk c).parts = (s.blk c).parts := by
  unfold State.mapQuarter
  rw [blk_mapKey, blk_mapKey]
  split <;> split <;> simp only [h]

theorem quarterDeep_parts (q : Nat) (c : BlockId) : ((s.quarterDeep q).blk c).parts = (s.blk c).parts := by
  refine (mapQuarter_parts _ (fun x => toDeep_parts x _) q c).trans (foldl_keeps (fun u : State => (u.blk c).parts) (fun u b => ?_) _ s)
  split
  · exact changeMode_parts u b .deep c
  · rfl

theorem trcControl_parts (b : BlockId) (w : W64) (c : BlockId) : ((s.trcControl b w).blk c).parts = (s.blk c).parts := by
  by_cases hc : c = b
  · subst hc
    unfold State.trcControl
    dsimp only
    rw [blk_modBlk_same]
    refine Eq.trans (b := ((if w.getLsbD 0 then s else s.traceClose c .disarm).blk c).parts) rfl ?_
    split
    · rfl
    · exact (trcOnly_traceClose c s .disarm).parts
  · rw [(onlyBlock_trcControl s w).2.2 c hc]

theorem armHeld_parts (q : Nat) (c : BlockId) : ((s.armHeld q).blk c).parts = (s.blk c).parts := by
  unfold State.armHeld
  split
  · refine foldl_keeps (fun u : State => (u.blk c).parts) (fun u n => ?_) _ s
    dsimp only
    split
    · exact trcControl_parts u _ _ c
    · rfl
  · rfl

theorem stopPll_parts (q : Nat) (c : BlockId) : ((s.stopPll q).blk c).parts = (s.blk c).parts := quarterDeep_parts s q c

theorem startPll_blk (q mhz : Nat) (c : BlockId) : (s.startPll q mhz).blk c = s.blk c := by
  unfold State.startPll
  dsimp only
  split <;> rfl

theorem releasePll_parts (q : Nat) (c : BlockId) : ((s.releasePll q).blk c).parts = (s.blk c).parts := by
  unfold State.releasePll
  dsimp only
  split
  · rw [notePeak_blk, armHeld_parts, quarterDeep_parts]
    rfl
  · rfl

/-! Where the boot stands, and where the quarters lie. -/

def State.basis (s : State) : Boot × Tab Place := (s.boot, s.place)

theorem OnlyBlock.basis {b : BlockId} {s t : State} (h : OnlyBlock b s t) : t.basis = s.basis := by
  have k := congrArg State.basis h.1
  exact k

theorem quarterDeep_basis (q : Nat) : (s.quarterDeep q).basis = s.basis := by
  refine foldl_keeps State.basis (fun u b => ?_) _ s
  split
  · exact (onlyBlock_changeMode u .deep).basis
  · rfl

theorem armHeld_basis (q : Nat) : (s.armHeld q).basis = s.basis := by
  unfold State.armHeld
  split
  · refine foldl_keeps State.basis (fun u n => ?_) _ s
    dsimp only
    split
    · exact (onlyBlock_trcControl u _).basis
    · rfl
  · rfl

theorem stopPll_basis (q : Nat) : (s.stopPll q).basis = s.basis := quarterDeep_basis s q

theorem startPll_basis (q mhz : Nat) : (s.startPll q mhz).basis = s.basis := by
  unfold State.startPll
  dsimp only
  split <;> rfl

theorem releasePll_basis (q : Nat) : (s.releasePll q).basis = s.basis := by
  unfold State.releasePll
  dsimp only
  split
  · exact (armHeld_basis _ q).trans (quarterDeep_basis _ q)
  · rfl

/-! The clocks. -/

theorem setPll_pll_ne {q j : Nat} (x : QPll) (h : q ≠ j) : (s.setPll j x).pll q = s.pll q := look_put_ne _ _ _ h

theorem quarterDeep_pll (j q : Nat) : (s.quarterDeep j).pll q = s.pll q := by rw [State.pll, quarterDeep_qpll, State.pll]

theorem stopPll_pll_ne {q j : Nat} (h : q ≠ j) : (s.stopPll j).pll q = s.pll q := by
  unfold State.stopPll
  dsimp only
  rw [setPll_pll_ne _ _ h, quarterDeep_pll]

theorem stopPll_pll_same (q : Nat) : ((s.stopPll q).pll q).st = .off ∧ ((s.stopPll q).pll q).starting = false ∧
    ((s.stopPll q).pll q).failed = (s.pll q).failed := by
  unfold State.stopPll
  dsimp only
  rw [setPll_pll_same, quarterDeep_pll]
  exact ⟨rfl, rfl, rfl⟩

theorem startPll_pll_ne {q j : Nat} (mhz : Nat) (h : q ≠ j) : (s.startPll j mhz).pll q = s.pll q := by
  have hpeak : ∀ u : State, u.notePeak.pll q = u.pll q := fun _ => rfl
  unfold State.startPll
  dsimp only
  split
  · rw [hpeak, setPll_pll_ne _ _ h]
  · rfl

theorem releasePll_pll_ne {q j : Nat} (h : q ≠ j) : (s.releasePll j).pll q = s.pll q := by
  have hpeak : ∀ u : State, u.notePeak.pll q = u.pll q := fun _ => rfl
  have harm : ∀ u : State, (u.armHeld j).pll q = u.pll q := fun u => by rw [State.pll, (armHeld_keeps u j).1, State.pll]
  unfold State.releasePll
  dsimp only
  split
  · rw [hpeak, harm, quarterDeep_pll, setPll_pll_ne _ _ h]
  · rfl

end

/-- A clock that is off and can start. -/
def QPll.ready (p : QPll) : Prop := p.st = .off ∧ p.starting = false ∧ p.failed = false

theorem quarter_mem {q : Nat} (h : q < 4) : q ∈ [0, 1, 2, 3] := by
  simp only [List.mem_cons, List.not_mem_nil, or_false]
  omega

theorem stopPlls_ready (s : State) {q : Nat} (h : q < 4) (hf : (s.pll q).failed = false) : (([0, 1, 2, 3].foldl State.stopPll s).pll q).ready := by
  refine foldl_visits (p := fun u : State => (u.pll q).failed = false) (q := fun u : State => (u.pll q).ready) q (fun u c hc k => ?_) (fun u c hc k => ?_)
    (fun u k => ?_) _ (quarter_mem h) s hf
  · rw [stopPll_pll_ne u (Ne.symm hc)]
    exact k
  · rw [stopPll_pll_ne u (Ne.symm hc)]
    exact k
  · obtain ⟨hst, hstart, hfail⟩ := stopPll_pll_same u q
    exact ⟨hst, hstart, hfail.trans (k.elim id fun r => r.2.2)⟩

theorem startPlls_starting (s : State) {q : Nat} {use : Nat → Bool} (mhz : Nat) (h : q < 4) (hr : (s.pll q).ready) (hu : use q = true) :
    (([0, 1, 2, 3].foldl (fun s q => if use q then s.startPll q mhz else s) s).pll q).starting = true := by
  have other : ∀ (u : State) c, c ≠ q → (if use c then u.startPll c mhz else u).pll q = u.pll q := fun u c hc => by
    split
    · exact startPll_pll_ne u mhz (Ne.symm hc)
    · rfl
  refine foldl_visits (p := fun u : State => (u.pll q).ready) (q := fun u : State => (u.pll q).starting = true) q (fun u c hc k => ?_)
    (fun u c hc k => ?_) (fun u k => ?_) _ (quarter_mem h) s hr
  · rw [other u c hc]
    exact k
  · rw [other u c hc]
    exact k
  · rw [if_pos hu]
    rcases k with ⟨hst, hstart, hfail⟩ | hon
    · rw [startPll_pll mhz hst hstart hfail]
    · have hkeep : u.startPll q mhz = u := by
        unfold State.startPll
        exact if_neg fun k => by rw [k.2.1] at hon; exact Bool.false_ne_true hon
      rw [hkeep]
      exact hon

theorem releasePlls_standby (s : State) {q : Nat} (h : q < 4) (hs : (s.pll q).starting = true) :
    (([0, 1, 2, 3].foldl State.releasePll s).pll q).st = .standby := by
  refine (foldl_visits (p := fun u : State => (u.pll q).starting = true)
    (q := fun u : State => (u.pll q).st = .standby ∧ (u.pll q).starting = false) q (fun u c hc k => ?_) (fun u c hc k => ?_)
    (fun u k => ?_) _ (quarter_mem h) s hs).1
  · rw [releasePll_pll_ne u (Ne.symm hc)]
    exact k
  · rw [releasePll_pll_ne u (Ne.symm hc)]
    exact k
  · rcases k with hon | ⟨hst, hoff⟩
    · obtain ⟨hst, hoff, -⟩ := releasePll_keeps hon
      exact ⟨hst, hoff⟩
    · have hkeep : u.releasePll q = u := by
        unfold State.releasePll
        exact if_neg (by rw [hoff]; exact Bool.false_ne_true)
      rw [hkeep]
      exact ⟨hst, hoff⟩

/-! The restart, step by step. -/

def State.pllsStopped (s : State) : State := [0, 1, 2, 3].foldl State.stopPll s
def State.retuned (s : State) (mhz : Nat) : State := { s with mhz := mhz, acyFrac := 0 }
def State.pllsStarted (s : State) (use : Nat → Bool) (mhz : Nat) : State := [0, 1, 2, 3].foldl (fun s q => if use q then s.startPll q mhz else s) s
def State.pllsReleased (s : State) : State := [0, 1, 2, 3].foldl State.releasePll s

theorem restartPlls_eq (s : State) (use : Nat → Bool) (mhz : Nat) :
    s.restartPlls use mhz = (((s.pllsStopped.retuned mhz).pllsStarted use mhz).pass (12 * mhz)).pllsReleased := by
  unfold State.restartPlls State.pllsReleased State.pllsStarted State.retuned State.pllsStopped
  dsimp only

/-- What every step of the restart keeps, the restart keeps. -/
theorem restartPlls_keeps {α : Type} (p : State → α) (hstop : ∀ u q, p (State.stopPll u q) = p u) (htune : ∀ u mhz, p (State.retuned u mhz) = p u)
    (hstart : ∀ u q mhz, p (State.startPll u q mhz) = p u) (hpass : ∀ u n, p (State.pass u n) = p u)
    (hrelease : ∀ u q, p (State.releasePll u q) = p u) (s : State) (use : Nat → Bool) (mhz : Nat) : p (s.restartPlls use mhz) = p s := by
  have started : ∀ u : State, p (u.pllsStarted use mhz) = p u := fun u => foldl_keeps p (fun u q => by
    split
    · exact hstart u q mhz
    · rfl) _ u
  have stopped : p s.pllsStopped = p s := foldl_keeps p hstop _ s
  have released : ∀ u : State, p u.pllsReleased = p u := fun u => foldl_keeps p hrelease _ u
  rw [restartPlls_eq, released, hpass, started, htune, stopped]

theorem restartPlls_basis (s : State) (use : Nat → Bool) (mhz : Nat) : (s.restartPlls use mhz).basis = s.basis :=
  restartPlls_keeps State.basis stopPll_basis (fun _ _ => rfl) startPll_basis (fun _ _ => rfl) releasePll_basis s use mhz

theorem restartPlls_parts (s : State) (use : Nat → Bool) (mhz : Nat) (c : BlockId) : ((s.restartPlls use mhz).blk c).parts = (s.blk c).parts :=
  restartPlls_keeps (fun u => (u.blk c).parts) (fun u q => stopPll_parts u q c) (fun _ _ => rfl)
    (fun u q mhz => congrArg Block.parts (startPll_blk u q mhz c)) (fun _ _ => rfl) (fun u q => releasePll_parts u q c) s use mhz

theorem restartPlls_standby (s : State) {use : Nat → Bool} (mhz : Nat) {q : Nat} (h : q < 4) (hf : (s.pll q).failed = false) (hu : use q = true) :
    ((s.restartPlls use mhz).pll q).st = .standby := by
  have tuned : ∀ u : State, (u.retuned mhz).pll q = u.pll q := fun _ => rfl
  have passed : ∀ (u : State) n, (u.pass n).pll q = u.pll q := fun _ _ => rfl
  rw [restartPlls_eq]
  have hready : ((s.pllsStopped.retuned mhz).pll q).ready := by
    rw [tuned]
    exact stopPlls_ready s h hf
  have hon := startPlls_starting (use := use) _ mhz h hready hu
  exact releasePlls_standby _ h (by rw [passed]; exact hon)

/-! ## IDLE (R818) -/

/-- What the end of the boot leaves. -/
theorem blocksUp_parts (r : State × BitVec 8 × List Byte) : (blocksUp r).boot.st = .idle ∧ (blocksUp r).boot.loaded = r.1.boot.loaded ∧
    (blocksUp r).hif.ready = true ∧ (blocksUp r).hif.linkUp = r.1.hif.linkUp ∧ (blocksUp r).mhz = 1000 ∧
    (∀ q < 4, (r.1.pll q).failed = false → (blocksUp r).quarterWorks q = true → ((blocksUp r).pll q).st = .standby) ∧
    ∀ b : BlockId, restKey b.toNat < 8 → ((blocksUp r).blk b).parts = (Block.booted r.2.1 r.2.2).parts := by
  have hblk := fun (b : BlockId) (h : restKey b.toNat < 8) => blocksBooted_blk r.1 r.2.1 r.2.2 h
  have hpll : ∀ q, (r.1.blocksBooted r.2.1 r.2.2).pll q = r.1.pll q := fun _ => rfl
  have hboot : (r.1.blocksBooted r.2.1 r.2.2).boot = r.1.boot := rfl
  have hhif : (r.1.blocksBooted r.2.1 r.2.2).hif = r.1.hif := rfl
  unfold blocksUp
  generalize r.1.blocksBooted r.2.1 r.2.2 = u at hblk hpll hboot hhif ⊢
  have hbasis := restartPlls_basis u u.quarterWorks 1000
  have hdev := restartPlls_device u u.quarterWorks 1000
  have hparts := restartPlls_parts u u.quarterWorks 1000
  have hstandby := fun (q : Nat) (h : q < 4) (hf : (u.pll q).failed = false) (hu : u.quarterWorks q = true) => restartPlls_standby u 1000 h hf hu
  generalize u.restartPlls u.quarterWorks 1000 = v at hbasis hdev hparts hstandby ⊢
  have hvboot : v.boot = u.boot := congrArg Prod.fst hbasis
  have hvplace : v.place = u.place := congrArg Prod.snd hbasis
  have hvhif : v.hif = u.hif := congrArg Device.hif hdev
  have hvmhz : v.mhz = 1000 := congrArg Device.mhz hdev
  obtain ⟨dboot, dhif, -, dqpll, dplace, dmhz⟩ := bootDone_parts v .idle
  have hworks : ∀ q, (v.bootDone .idle).quarterWorks q = u.quarterWorks q := fun q => by
    rw [State.quarterWorks, State.placeOf, dplace, hvplace, State.quarterWorks, State.placeOf]
  have hdpll : ∀ q, (v.bootDone .idle).pll q = v.pll q := fun q => by rw [State.pll, dqpll, State.pll]
  have hdblk : ∀ b, (v.bootDone .idle).blk b = v.blk b := fun _ => rfl
  refine ⟨congrArg Boot.st dboot, ?_, congrArg Hif.ready dhif, ?_, dmhz.trans hvmhz, fun q hq hf hw => ?_, fun b hb => ?_⟩
  · rw [dboot, hvboot, hboot]
  · rw [dhif, hvhif, hhif]
  · rw [hdpll]
    exact hstandby q hq (by rw [hpll]; exact hf) (by rw [← hworks]; exact hw)
  · rw [hdblk, hparts, hblk b hb]

/-- The end of a boot: IDLE, with the clocks of the quarters that work and the blocks that the patch has reached. -/
def State.linksDone (s t : State) : Prop :=
  t.boot.st = .idle ∧ t.hif.ready = true ∧ t.hif.linkUp = s.hif.linkUp ∧ t.mhz = 1000 ∧ t.boot.loaded = s.boot.slot ∧
    (∀ q < 4, (s.pll q).failed = false → t.quarterWorks q = true → (t.pll q).st = .standby) ∧
    ∀ b : BlockId, restKey b.toNat < 8 → (t.blk b).core.fetching = false ∧ (t.blk b).ls = [] ∧ (s.override = false →
      (t.blk b).patch = BitVec.ofNat 8 ((s.slotImg (s.boot.slot.getD 0)).at_ 72 1) ∧
        (t.blk b).im = mstore [] 0x17C00 (s.boot.patch.take 1024))

theorem parts_booted {x : Block} {level : BitVec 8} {patch : List Byte} (h : x.parts = (Block.booted level patch).parts) :
    x.core.fetching = false ∧ x.ls = [] ∧ x.patch = level ∧ x.im = mstore [] 0x17C00 (patch.take 1024) :=
  ⟨congrArg (fun x : Core × Memory × Memory × BitVec 8 => x.1.fetching) h, congrArg (fun x : Core × Memory × Memory × BitVec 8 => x.2.1) h,
    congrArg (fun x : Core × Memory × Memory × BitVec 8 => x.2.2.2) h, congrArg (fun x : Core × Memory × Memory × BitVec 8 => x.2.2.1) h⟩

theorem blocksUp_done {s u : State} (h : u.standing = ({ s.boot with loaded := s.boot.slot }, s.qpll, s.override, s.hif.linkUp)) :
    s.linksDone (blocksUp u.patchLevel) := by
  have hpl := (patchLevel_standing u).trans h
  have hboot : u.boot = { s.boot with loaded := s.boot.slot } := congrArg (fun x => x.1) h
  have hover : u.override = s.override := congrArg (fun x => x.2.2.1) h
  have hfree : s.override = false → u.patchLevel.2 = (BitVec.ofNat 8 ((s.slotImg (s.boot.slot.getD 0)).at_ 72 1), s.boot.patch) := fun ho => by
    rw [patchLevel_free u (by rw [hover]; exact ho), slotImg_of_slots (s := s) (by rw [hboot]), hboot]
  generalize u.patchLevel = r at hpl hfree ⊢
  have hrboot : r.1.boot = { s.boot with loaded := s.boot.slot } := congrArg (fun x => x.1) hpl
  have hrq : r.1.qpll = s.qpll := congrArg (fun x => x.2.1) hpl
  have hrlink : r.1.hif.linkUp = s.hif.linkUp := congrArg (fun x => x.2.2.2) hpl
  obtain ⟨hst, hloaded, hready, hlink, hmhz, hplls, hblks⟩ := blocksUp_parts r
  refine ⟨hst, hready, hlink.trans hrlink, hmhz, by rw [hloaded, hrboot], fun q hq hf => hplls q hq (by rw [State.pll, hrq]; exact hf), fun b hb => ?_⟩
  obtain ⟨hfetch, hls, hpatch, him⟩ := parts_booted (hblks b hb)
  refine ⟨hfetch, hls, fun ho => ?_⟩
  rw [hfree ho] at hpatch him
  exact ⟨hpatch, him⟩

/-- Steps 7 to 10. -/
theorem bootLinks_done (s : State) (inp : BootInput) : s.linksDone (s.bootLinks inp) := by
  rw [bootLinks_eq]
  exact blocksUp_done (swept_standing s inp)

/-- BOOT_SEQUENCE ends in IDLE where nothing fails. -/
theorem idle_clause {s : State} {inp : BootInput} (hst : s.boot.st = .edge) (hup : s.fastUp = true) (h : inp.startFailures = [])
    (hr : s.restricted = false) : ∃ t, exec (.bootSequence inp) s = .next t ∧ t.boot.st = .idle ∧ t.hif.ready = true ∧
      t.hif.linkUp = true ∧ t.mhz = 1000 ∧ t.boot.loaded = s.boot.slot ∧
      (∀ q < 4, (s.pll q).failed = false → t.quarterWorks q = true → (t.pll q).st = .standby) ∧
      ∀ b : BlockId, restKey b.toNat < 8 → (t.blk b).core.fetching = false ∧ (t.blk b).ls = [] ∧ (s.override = false →
        let x := s.slotImg (s.boot.slot.getD 0)
        (t.blk b).patch = BitVec.ofNat 8 (x.at_ 72 1) ∧ (t.blk b).im = mstore [] 0x17C00 (s.boot.patch.take 1024)) := by
  have hseq : bootSequence inp s = s.bootEdge inp := by rw [bootSequence, hst]; exact if_pos hup
  have hr' : (s.hostUp inp).restricted = false := hr
  rw [bootEdge_up h, hr', if_neg Bool.false_ne_true] at hseq
  have hdone := bootLinks_done (s.hostUp inp) inp
  exact ⟨_, congrArg Host.Outcome.next hseq, hdone⟩

/-- The boot goes on with the links. -/
theorem links_clause {s : State} {inp : BootInput} (hst : s.boot.st = .links) (hup : s.fastUp = true) :
    ∃ t, exec (.bootSequence inp) s = .next t ∧ t.boot.st = .idle ∧ t.hif.ready = true := by
  have hseq : bootSequence inp s = s.bootLinks inp := by rw [bootSequence, hst]; exact if_pos hup
  obtain ⟨hidle, hready, -⟩ := bootLinks_done s inp
  exact ⟨_, congrArg Host.Outcome.next hseq, hidle, hready⟩

theorem bootSequence_waits {s : State} (inp : BootInput) (h : s.boot.st ∈ [.off, .rails, .recovery, .failed, .restricted, .idle, .standby]) :
    exec (.bootSequence inp) s = .next s := by
  refine congrArg Host.Outcome.next ?_
  rw [bootSequence]
  cases hst : s.boot.st
  case flash | edge | links => exact absurd h (by rw [hst]; decide)
  all_goals rfl

/-! ## Confirmation (R825, R844) -/

section
variable (s : State) (x : ImgSlot) (n : Nat)

/-- The rollback counter follows a bundle that asks for it. -/
def State.rolled (s : State) (x : ImgSlot) (ok : Bool) : State :=
  if decide (x.at_ 17 1 % 2 = 1 ∧ s.boot.rollback < x.svn) then
    (s.modBoot fun b => { b with rollback := if ok then x.svn else b.rollback }).bootEvent 8 (if ok then x.version else 0)
  else s

/-- The other key is revoked where the bundle asks for it. -/
def State.keyRevoked (u : State) (x : ImgSlot) (ok : Bool) : State :=
  if decide (2 ≤ x.at_ 17 1) then
    (u.modBoot fun b => { b with revoked := if ok then b.revoked ||| (1#2 <<< (match u.keyOf x with | some 0 => 1 | _ => 0)) else b.revoked }).bootEvent 12
      (if ok then x.version else 0)
  else u

theorem rolled_boot (ok : Bool) : (s.rolled x ok).acy = s.acy ∧ ∃ r, (s.rolled x ok).boot = { s.boot with rollback := r } ∧
    (x.at_ 17 1 % 2 = 1 → s.boot.rollback < x.svn → ok = true → r = x.svn) ∧ (x.at_ 17 1 % 2 = 0 → r = s.boot.rollback) := by
  unfold State.rolled
  by_cases h : x.at_ 17 1 % 2 = 1 ∧ s.boot.rollback < x.svn
  · rw [if_pos (decide_eq_true h), bootEvent_boot]
    refine ⟨acy_of_aon (bootEvent_aon _ _ _), _, rfl, fun _ _ hok => if_pos hok, fun h0 => ?_⟩
    omega
  · rw [if_neg (by rw [decide_eq_true_iff]; exact h)]
    exact ⟨rfl, s.boot.rollback, rfl, fun h1 h2 => absurd ⟨h1, h2⟩ h, fun _ => rfl⟩

theorem keyRevoked_boot (ok : Bool) : (s.keyRevoked x ok).acy = s.acy ∧ ∃ r, (s.keyRevoked x ok).boot = { s.boot with revoked := r } ∧
    (x.at_ 17 1 < 2 → r = s.boot.revoked) := by
  unfold State.keyRevoked
  by_cases h : 2 ≤ x.at_ 17 1
  · rw [if_pos (decide_eq_true h), bootEvent_boot]
    exact ⟨acy_of_aon (bootEvent_aon _ _ _), _, rfl, fun h0 => absurd h0 (Nat.not_lt.mpr h)⟩
  · rw [if_neg (by rw [decide_eq_true_iff]; exact h)]
    exact ⟨rfl, s.boot.revoked, rfl, fun _ => rfl⟩

/-- The trial bit of the slot falls, and nothing else of it. -/
def ImgSlot.taken (x : ImgSlot) : ImgSlot := { x with word := x.word &&& ~~~0x100 }

theorem taken_parts : x.taken.confirmed = true ∧ x.taken.trials = x.trials := by
  have keeps : ∀ i, i ∈ [0, 1, 2] → (x.word &&& ~~~0x100).getLsbD i = x.word.getLsbD i := fun i hi => by
    have h0 : (0x100 : BitVec 32).getLsbD i = false := by revert hi; revert i; decide
    rw [BitVec.getLsbD_and, BitVec.getLsbD_not, h0]
    have hlt : i < 32 := by simp at hi; omega
    simp [hlt]
  have falls : (x.word &&& ~~~0x100).getLsbD 8 = false := by
    rw [BitVec.getLsbD_and, BitVec.getLsbD_not, show (0x100 : BitVec 32).getLsbD 8 = true from rfl]
    simp
  unfold ImgSlot.taken ImgSlot.confirmed ImgSlot.trials
  dsimp only
  rw [falls, keeps 0 (by decide), keeps 1 (by decide), keeps 2 (by decide)]
  exact ⟨rfl, rfl⟩

theorem confirmation_eq {a : Nat} {v : State} (hs : s.boot.slot = some n) (ha : s.boot.idleAt = some a) (hc : (s.slotImg n).confirmed = false)
    (hv : s.toAcy (a + 60 * 25000000) = some v) (ok ok' : Bool) : confirmation ok ok' s =
      ((((v.rolled (s.slotImg n) ok).keyRevoked (s.slotImg n) ok').setSlot n (s.slotImg n).taken).bootEvent 3 (s.slotImg n).version) := by
  have hms : a + 60000 * acyPerMs = a + 60 * 25000000 := rfl
  unfold confirmation
  rw [hs, ha]
  dsimp only
  rw [hc, if_neg Bool.false_ne_true, hms, hv]
  rfl

end

/-- CONFIRMATION makes the slot the one that stays. -/
theorem confirmation_clause {s : State} {n a : Nat} (ok ok' : Bool) (hs : s.boot.slot = some n) (ha : s.boot.idleAt = some a)
    (hc : (s.slotImg n).confirmed = false) (hto : s.toAcy (a + 60 * 25000000) ≠ none) :
    ∃ t, exec (.confirmation ok ok') s = .next t ∧ (s.acyFrac < s.perAcy → a + 60 * 25000000 ≤ t.acy) ∧ (t.slotImg n).confirmed = true ∧
      (t.slotImg n).trials = (s.slotImg n).trials ∧ (∀ m, m ≠ n → t.slotImg m = s.slotImg m) ∧
      ((s.slotImg n).at_ 17 1 % 2 = 1 → s.boot.rollback < (s.slotImg n).svn → ok = true → t.boot.rollback = (s.slotImg n).svn) ∧
      ((s.slotImg n).at_ 17 1 % 2 = 0 → t.boot.rollback = s.boot.rollback) ∧ ((s.slotImg n).at_ 17 1 < 2 → t.boot.revoked = s.boot.revoked) := by
  obtain ⟨v, hv⟩ := Option.ne_none_iff_exists'.mp hto
  obtain ⟨-, -, hvboot, -⟩ := toAcy_parts hv
  have hreach := fun hf => toAcy_reaches hv hf
  have he := confirmation_eq s n hs ha hc hv ok ok'
  generalize hx : s.slotImg n = x at he ⊢
  obtain ⟨racy, r, rboot, radv, rkeep⟩ := rolled_boot v x ok
  obtain ⟨kacy, k, kboot, kkeep⟩ := keyRevoked_boot (v.rolled x ok) x ok'
  obtain ⟨hconf, htrials⟩ := taken_parts x
  generalize (v.rolled x ok).keyRevoked x ok' = u at he kacy kboot
  rw [rboot] at kboot kkeep
  rw [hvboot] at kboot radv rkeep kkeep
  have hacy : ((u.setSlot n x.taken).bootEvent 3 x.version).acy = u.acy := acy_of_aon (bootEvent_aon _ _ _)
  have hroll : ((u.setSlot n x.taken).bootEvent 3 x.version).boot.rollback = r := by
    rw [bootEvent_boot]
    exact congrArg Boot.rollback kboot
  have hrev : ((u.setSlot n x.taken).bootEvent 3 x.version).boot.revoked = k := by
    rw [bootEvent_boot]
    exact congrArg Boot.revoked kboot
  refine ⟨_, congrArg Host.Outcome.next he, fun hf => ?_, ?_, ?_, fun m hm => ?_, fun h1 h2 h3 => hroll.trans (radv h1 h2 h3), fun h0 => hroll.trans (rkeep h0),
    fun h0 => hrev.trans (kkeep h0)⟩
  · rw [hacy, kacy, racy]
    exact hreach hf
  · rw [slotImg_bootEvent, slotImg_setSlot_same]
    exact hconf
  · rw [slotImg_bootEvent, slotImg_setSlot_same]
    exact htrials
  · rw [slotImg_bootEvent, slotImg_setSlot_ne _ _ hm]
    exact slotImg_of_slots (by rw [kboot]) m

theorem confirmation_waits {s : State} (ok ok' : Bool) (h : s.boot.slot = none ∨ s.boot.idleAt = none) : exec (.confirmation ok ok') s = .next s := by
  refine congrArg Host.Outcome.next ?_
  unfold confirmation
  rcases h with h | h
  · rw [h]
  · rw [h]
    cases s.boot.slot <;> rfl

end Sys2Proof.Machine

/-- Settles O56: of a structure the newer copy; a power-on that is warm or cold; the boot ROM's choice of a slot and its jump; start-up failures, RESTRICTED
and IDLE; and the confirmation of a slot. -/
theorem bootCommands : Obligations.BootCommands := by
  unfold Obligations.BootCommands
  intro s inp
  refine ⟨fun n p h ho => retained_newer s h ho, fun hst ticks damage sound pages => congrArg Host.Outcome.next (if_pos hst),
    fun hst ticks damage sound pages => ⟨fun n h k => stored_whole s damage h k, fun n h k => stored_lost s damage h k,
      powerOn_clause s damage pages ticks hst sound⟩,
    fun hst hp => ⟨fun hn => ?_, fun d hd => ⟨fun hc => ?_, fun n hc hoff hr hb => chosen_clause hst hp hd hc hoff hr hb⟩⟩,
    fun hst hup => ⟨fun die other code detail l hl h => failures_clause hst hup hl h, fun h hr => restricted_clause hst hup h hr,
      fun h hr => idle_clause hst hup h hr⟩,
    fun hst hup => links_clause hst hup, fun h => bootSequence_waits inp h,
    fun n a ok ok' hs ha hc hto => confirmation_clause ok ok' hs ha hc hto, fun ok ok' h => confirmation_waits ok ok' h⟩
  · have he : bootSequence inp s = s.enterRecovery := by rw [bootSequence, hst]; exact bootFlash_unprobed hp hn
    obtain ⟨hrec, hslot, hdown⟩ := enterRecovery_parts s
    exact ⟨_, congrArg Host.Outcome.next he, hrec, hslot, hdown⟩
  · have he : bootSequence inp s = (s.chosen inp d).1.enterRecovery := by rw [bootSequence, hst]; exact bootFlash_unchosen hp hd hc
    obtain ⟨hrec, hslot, -⟩ := enterRecovery_parts (s.chosen inp d).1
    exact ⟨_, congrArg Host.Outcome.next he, hrec, hslot⟩

end
